-- ==== Sys2Proof/Word.lean ====
section
/-!
DEFINITION. The word types of the WLX-9600 model and their plainest arithmetic.
-/
namespace Sys2Proof

/-- One byte (R6: bit 0 is the least significant). -/
abbrev Byte := BitVec 8

/-- One 32-bit register word (R13). -/
abbrev Word := BitVec 32

/-- A 64-bit quantity: a time in nanoseconds, an address, a pair of register words. -/
abbrev DWord := BitVec 64

/-- One bit as a number. -/
def bit (b : Bool) : Nat := if b then 1 else 0

/-- The bits `hi` down to `lo` of a number (R6: a range includes both ends). -/
def bits (n hi lo : Nat) : Nat := (n >>> lo) % 2 ^ (hi + 1 - lo)

/-- Bit `i` of a number. -/
def tbit (n i : Nat) : Bool := n.testBit i

/-- Two 32-bit halves as one 64-bit number, low half first. -/
def pair64 (lo hi : Word) : Nat := hi.toNat * 2 ^ 32 + lo.toNat

/-- The low 32 bits of a number. -/
def low32 (n : Nat) : Word := BitVec.ofNat 32 n

/-- Bits 63 to 32 of a number. -/
def high32 (n : Nat) : Word := BitVec.ofNat 32 (n / 2 ^ 32)

/-- A little-endian byte list as a number (R6). -/
def leNat : List Byte → Nat
  | [] => 0
  | b :: bs => b.toNat + 256 * leNat bs

/-- The `k` low bytes of a number, little-endian (R6). -/
def leBytes : Nat → Nat → List Byte
  | 0, _ => []
  | k + 1, n => BitVec.ofNat 8 n :: leBytes k (n / 256)

/-- A number of `w` bits read as two's complement. -/
def signed (w n : Nat) : Int :=
  if n % 2 ^ w < 2 ^ (w - 1) then ((n % 2 ^ w : Nat) : Int) else ((n % 2 ^ w : Nat) : Int) - ((2 ^ w : Nat) : Int)

/-- The `w`-bit two's complement code of an integer. -/
def unsigned (w : Nat) (i : Int) : Nat := (i % ((2 ^ w : Nat) : Int)).toNat

/-- Clamp an integer to a range. -/
def clampInt (lo hi i : Int) : Int := if i < lo then lo else if hi < i then hi else i

/-- Clamp a number to a range. -/
def clampNat (lo hi n : Nat) : Nat := if n < lo then lo else if hi < n then hi else n

/-- A slice of a list: `len` items from `start`. -/
def slice {α : Type} (l : List α) (start len : Nat) : List α := (l.drop start).take len

/-- Replace the item at a position, if it exists. -/
def setAt {α : Type} : List α → Nat → α → List α
  | [], _, _ => []
  | _ :: xs, 0, v => v :: xs
  | x :: xs, i + 1, v => x :: setAt xs i v

/-- The parity of the ones among the `n` low bits. -/
def parity : Nat → Nat → Bool
  | 0, _ => false
  | k + 1, n => xor (n.testBit k) (parity k n)

/-- The count of ones among the `k` low bits. -/
def ones : Nat → Nat → Nat
  | 0, _ => 0
  | k + 1, n => bit (n.testBit k) + ones k n

/-- The lowest index below `k` that satisfies a test. -/
def lowest (k : Nat) (p : Nat → Bool) : Option Nat := (List.range k).find? p

/-- Division rounded up. -/
def ceilDiv (a b : Nat) : Nat := (a + b - 1) / b

end Sys2Proof
end

