-- ==== Sys2Proof/Syntax.lean ====
section
/-!
DEFINITION. The commands of the block: one constructor of `Instr` for each row of spec/opcode_table.json, with the
operands that the row's rule names. Physical readings, test outcomes and the answers of what lies outside the device
are operands; the order of commands decides what a mutual-exclusion element decides.
-/
namespace Sys2Proof

/-- An access path to the configuration space (R15, R220, R464, R553): a port's management function, the side-band
endpoint, the JTAG port, the console, or management firmware. -/
inductive Path where
  | port (p : Fin 4) | sideBand | jtag | console | mfw
deriving DecidableEq, Repr

/-- Where a memory request comes from (R160, R223, R234). -/
inductive Source where
  | port (p : Fin 4) | core (site : Fin 36) | guest (g : Fin 2) | light (k : Fin 16) | sideBand
deriving DecidableEq, Repr

/-- Error responses (Table 7.2). -/
inductive MemErr where
  | noTarget | denied | poison | timeout
deriving DecidableEq, Repr

/-- How a request outside the model's own memories was answered: performed, or an error of Table 7.2. -/
inductive Resp where
  | ok | err (e : MemErr)
deriving DecidableEq, Repr

/-- A descriptor as the stream scheduler hands it to an engine: its stream, its sequence number and its 64 bytes
(R113, R190). -/
structure Job where
  stream : BitVec 16
  seq : BitVec 32
  bytes : List Byte
deriving DecidableEq, Repr

/-- What the error-correcting code met in a word that an access reads (R176): one bit in error, an uncorrectable
error, or three or more bits, whose outcome the code leaves open (here given by the environment). -/
inductive EccKind where
  | single | double | miscorrected (data : BitVec 64) | undetected (data : BitVec 64)
deriving DecidableEq, Repr

/-- An error found in the word number `word` of an access (R176). -/
structure EccFound where
  word : Nat
  kind : EccKind
deriving DecidableEq, Repr

/-- A collision on a mailbox word (R166, Table 5.4): the other port's access of the same word at the same instant,
whether this access was placed second, and the other's bytes with their enables when it writes. -/
structure Collision where
  second : Bool
  otherWrites : Bool
  otherData : List Byte
  otherEnables : List Bool
deriving DecidableEq, Repr

/-- A power state code of Table 14.7 (R489). -/
abbrev PState := BitVec 3


/-- A memory request as an inbound access, an alias access or a home atomic carries it (R160-R171, R248). Writes
have byte enables. -/
inductive MemOp where
  | read (len : Nat)
  | write (data : List Byte) (enables : List Bool)
  | fadd32 (values : List Byte) (enables : List Bool)
  | xadd (value : List Byte)
  | fetchAdd (width : Nat) (value : BitVec 64)
  | swap (width : Nat) (value : BitVec 64)
  | cas (width : Nat) (expect value : BitVec 128)
  | recReport (top : BitVec 16) (flags : BitVec 5)
  | recAdvance
deriving DecidableEq, Repr



/-- Agent states (Table 7.3, Table 7.5): I, S, E, M, and the transient ones. -/
inductive AState where
  | i | isD | imD | s | smD | e | m | miA
deriving DecidableEq, Repr

/-- What decoding a line meets (R229, R230): the sectors decoded as erased, each with its DRAM row (die, bank and row
as one number), and the places of symbols in error, as (byte column, symbol 0 to 9). -/
structure LineSeen where
  erased : List (Fin 8 × Nat)
  wrong : List (Fin 16 × Fin 10)
deriving DecidableEq, Repr


/-- One end of a Feino bundle (R289): hub bundle j, bundle j of base die m, bundle j of light engine k; or the hub die's
UCIe interface of a guest site, which carries the same flits (R280). -/
inductive BundleEnd where
  | hub (j : Fin 4) | base (m : Fin 6) (j : Fin 26) | le (k : Fin 16) (j : Fin 3) | guest (g : Fin 2)
deriving DecidableEq, Repr

/-- A raw frame offered to a raw group (R273): its channel, its last bit, its data. -/
structure RawFrame where
  chan : BitVec 4
  last : Bool
  data : List Byte
deriving DecidableEq, Repr


/-- What the search sweep of a ring shows (R333, R334): whether it shows the 0.6 THz gap, how many responses of one order
it resolves, the fitted codes per channel spacing, and the fitted code of channel λ0 in some order. -/
structure RingFit where
  gap : Bool
  resolved : Nat
  spacing : Nat
  lambda0 : Int
deriving DecidableEq, Repr

/-- What a narrow search and the lock test after it show (R340, R344): whether they passed, the fitted target, and for a
receive ring the eye amplitude. -/
structure Tuned where
  ok : Bool
  target : BitVec 16
  amp : BitVec 16
deriving DecidableEq, Repr

/-- What the power manager measures in a period of 1 ms (R483, R484): the 48 V input power and the summed regulator output power in W,
the output power of consumers that no partition owns, the output power of what each partition owns, and for each partition the lowering of its rails, in mV, that the slope
of the last period predicts to bring it under its cap. -/
structure PowerReading where
  pIn : Nat
  pOut : Nat
  shared : Nat
  own : List Nat
  lower : List Nat
deriving DecidableEq, Repr

/-- A resource with power states of Table 14.7 that its own commands do not already change: a core site, an HBM stack. -/
inductive Resource where
  | core (site : Fin 36)
  | stack (n : Fin 24)
deriving DecidableEq, Repr


/-- What a run of the boot ROM and of MFW's standby phase meets (R500, R501, R498): the slots whose digest and signature check (bits 0, 1
MFW slots 0, 1; bits 2, 3 LFW slots), the tested-combination table of the image that runs (R508), whether it hangs before STANDBY,
whether the event store passes its check, and whether the mirror's CRC passes. -/
structure RomTests where
  good : BitVec 4
  table : List (BitVec 32 × BitVec 32)
  hang : Bool
  storeOk : Bool
  mirrorOk : Bool
deriving DecidableEq, Repr

/-- What the tests of a start find (Table 15.6): image slots as above; core sites that fail, with 0 core self-test, 1 march, 2 die-to-die
path (R26); stacks that fail (R40); at a warm start, the lines (stack, stack address) that cannot be decoded (R230). -/
structure StartTests where
  good : BitVec 4
  sites : List (Fin 36 × Fin 3)
  badStacks : BitVec 24
  lost : List (Fin 24 × BitVec 36)
deriving DecidableEq, Repr


/-- What the debug module sees of a halt of the controller pair (R558): a halt request, inside or outside a marked sequence; the end of a
marked sequence; the end of the deferral; a resume request. -/
inductive McEvent where
  | request (marked : Bool) | sequenceEnds | deferralEnds | resume
deriving DecidableEq, Repr

/-- What carries test patterns (R560): a Feino bundle end, a fibre by global number, a PCIe port. -/
inductive TestUnit where
  | feino (x : BundleEnd) | fibre (g : Fin 128) | port (p : Fin 4)
deriving DecidableEq, Repr


/-- The commands, one for each row of spec/opcode_table.json. -/
inductive Instr where
  /-- REG_WRITE (R10). A write to a register that has no row of its own stores its fields by their access codes, honouring lock bits and refusing wrong sizes. -/
  | regWrite (p : Path) (addr : BitVec 26) (size : Nat) (data : BitVec 64) (ext : List Byte)
  /-- RC_READ (R11). A normal read of an RC field returns its value and clears only what it returned, keeping events that arrive during the read. -/
  | rcRead (p : Path) (addr : BitVec 26) (size : Nat) (during : BitVec 64)
  /-- QUIET_READ (R553). A quiet-view read returns the current value with no read side effect. -/
  | quietRead (p : Path) (addr : BitVec 26) (size : Nat)
  /-- DBG_QDATA_READ (R553). A read of DBG_QDATA performs a quiet 32-bit read of the path's DBG_QADDR. -/
  | dbgQdataRead (p : Path)
  /-- THM_TB_LO_READ (R492). A normal read of THM_TB_LO captures the whole time base for the path and returns its low word. -/
  | thmTbLoRead (p : Path)
  /-- TST_BITS_LO_READ (R554). A normal read of TST_BITS_LO captures the high word for the path. -/
  | tstBitsLoRead (p : Path) (addr : BitVec 26)
  /-- CORE_FAIL (R34). Hawthorn fences a failed active core site and Coppice chooses a spare, which starts activating. -/
  | coreFail (site : Fin 36)
  /-- SPARE_ACTIVATION_DONE (R35). When the spare's power-up, march and path training finish, MFW writes its configuration and Coppice makes it ACTIVE and updates the maps. -/
  | spareActivationDone (site : Fin 36)
  /-- SPARE_ACTIVATION_FAIL (R34). A spare that fails while ACTIVATING is fenced and Coppice repeats the choice for the same logical number. -/
  | spareActivationFail (site : Fin 36)
  /-- MXE_DESCRIPTOR_ENTRY (R103). An MXE descriptor entering the MXE is checked and either rejected with a status or accepted into the staged slot. -/
  | mxeDescriptorEntry (site : Fin 36) (job : Job)
  /-- MXE_DESCRIPTOR_START (R104). A descriptor in the staged slot starts and, in RECORD mode, issues its window-record read. -/
  | mxeDescriptorStart (site : Fin 36)
  /-- MXE_RECORD_READ_RETURN (R104). The window-record read returns its window, or an error that completes the descriptor with RECORD. -/
  | mxeRecordReadReturn (site : Fin 36) (resp : Resp)
  /-- MXE_SHADOW_LOAD_DONE (R87). A weight tile's shadow load completes, letting the swap token pass. -/
  | mxeShadowLoadDone (site : Fin 36)
  /-- MXE_SWAP_TOKEN (R88). The swap token follows the last activation row of a tile and each PE moves shadow weights to active. -/
  | mxeSwapToken (site : Fin 36)
  /-- MXE_ROW_ISSUE (R89). An activation row issues into the array and its block sums run down the segments. -/
  | mxeRowIssue (site : Fin 36)
  /-- MXE_ENTRY_LANDS (R90). All block sums of one tile for a row form one entry that is added exactly into the accumulator row. -/
  | mxeEntryLands (site : Fin 36) (corrected : Nat)
  /-- MXE_ROUND_END (R93). At the end of an output-stationary round the eight block sums of each output form one entry. -/
  | mxeRoundEnd (site : Fin 36)
  /-- MXE_ROW_DRAIN (R97). Once a row's last entry lands, it is converted under the conversion control word and written to core memory. -/
  | mxeRowDrain (site : Fin 36)
  /-- MXE_FINAL_REPORT (R100). After the last row is drained, one atomic update reports the descriptor's results to its window record. -/
  | mxeFinalReport (site : Fin 36) (resp : Resp)
  /-- MXE_ABORT (R109). An abort of the active descriptor stops row issue, discards entries in flight and makes its rows INVALID. -/
  | mxeAbort (site : Fin 36) (stream : BitVec 16) (seq : BitVec 32)
  /-- MXE_ACC_UE (R110). An uncorrectable accumulator error completes the charged descriptor with ACC_UE and invalidates its rows. -/
  | mxeAccUe (site : Fin 36) (staged : Bool)
  /-- MXE_WREG_PARITY (R110). A weight-register parity error found at a multiply completes the charged descriptor with WREG_PARITY. -/
  | mxeWregParity (site : Fin 36)
  /-- MXE_BANK_REFUSED (R174). A bank refuses an MXE access during the operation, which stops with ADDRESS and invalidates its rows. -/
  | mxeBankRefused (site : Fin 36) (bank : Fin 32)
  /-- MXE_MEM_UE (R176). An operand read returns an uncorrectable or poisoned word and the descriptor stops with MEM_UE. -/
  | mxeMemUe (site : Fin 36) (found : EccFound) (localAddr : BitVec 26)
  /-- MXE_RATE_UPDATE (R79). At the end of each 1 ms the MXE updates MXE_RATE.wf_per_us from measured or replica rate. -/
  | mxeRateUpdate (site : Fin 36) (issued : Bool) (measured replica : BitVec 16)
  /-- MXE_CFG_WRITE (R111). A write to MXE_CFG changes enable, prefetch or os_allow for descriptors that enter afterwards. -/
  | mxeCfgWrite (p : Path) (site : Fin 36) (data : Word)
  /-- ENGINE_DESCRIPTOR_ENTRY (R113). A descriptor entering an engine of chapter 4 is checked in order and rejected with a status or accepted. -/
  | engineDescriptorEntry (site : Fin 36) (unit : Fin 12) (job : Job)
  /-- VXE_EXPRESSION (R125). A VXE descriptor reads its expression block once, checks the program and applies the expression over its range. -/
  | vxeExpression (site : Fin 36) (x : Fin 4) (resp : Resp)
  /-- VXE_FINAL_REPORT (R124). A final VXE descriptor reports its EX128 values to the window record after its last write. -/
  | vxeFinalReport (site : Fin 36) (x : Fin 4) (resp : Resp)
  /-- FOLLOW_UPSTREAM_FAIL (R118). A followed producer that completes other than OK or is aborted makes the follower complete with UPSTREAM. -/
  | followUpstreamFail (site : Fin 36) (unit : Fin 12)
  /-- FOLLOW_ROW_READY (R118). A follower reads output row m once the MXE has written that row. -/
  | followRowReady (site : Fin 36) (unit : Fin 12)
  /-- SFE_ELEMENTWISE (R131). An SFE descriptor with func 0 to 5 evaluates the elementwise function over its rows. -/
  | sfeElementwise (site : Fin 36)
  /-- SMX_STATS (R132). SMX_STATS updates each row's softmax state chunk by chunk. -/
  | smxStats (site : Fin 36)
  /-- SMX_APPLY (R133). SMX_APPLY writes normalised softmax values from the stored state. -/
  | smxApply (site : Fin 36)
  /-- TOPK (R134). TOPK writes the k largest values, or softmax weights, and their column indices per row. -/
  | topk (site : Fin 36)
  /-- MOVE (R137). Topiary MOVE writes every destination element from the permuted, offset source or the pad element. -/
  | topMove (site : Fin 36)
  /-- IMAGE_A (R138). Topiary builds the MXE A image from a source tensor. -/
  | imageA (site : Fin 36)
  /-- IMAGE_B (R138). Topiary builds the dense MXE B image from a source tensor. -/
  | imageB (site : Fin 36)
  /-- IMAGE_BS (R138). Topiary builds the 2:4 sparse B image, keeping the two largest of each group. -/
  | imageBs (site : Fin 36)
  /-- GATHER (R141). GDE copies table rows named by an index array into local rows. -/
  | gather (site : Fin 36) (ext : List Byte)
  /-- SCATTER (R142). GDE writes or combines local rows into table rows named by an index array. -/
  | scatter (site : Fin 36) (ext : List Byte)
  /-- FORWARD (R145). GDE assigns positions to routed tokens and sends one parcel sequence to every expert. -/
  | gdeForward (site : Fin 36)
  /-- RETURN (R148). GDE sends expert output rows back to the source tokens named by their tags. -/
  | gdeReturn (site : Fin 36)
  /-- PARCEL_RECEIVE (R146). A parcel arrives at a receive window and is refused whole or has its rows, tags and counts written. -/
  | parcelReceive (site : Fin 36)
  /-- RXWIN_WRITE (R156). A write to a receive window's BASE, SHAPE or AUX register is discarded while the window is armed. -/
  | rxwinWrite (p : Path) (site : Fin 36) (win : Fin 16) (reg : Fin 4) (data : Word)
  /-- COMPRESS (R150). CPE turns source bytes into a block stream of RAW, ZERO or PLANE blocks. -/
  | compress (site : Fin 36)
  /-- DECOMPRESS (R150). CPE restores source bytes from a block stream or completes with DECODE. -/
  | decompress (site : Fin 36)
  /-- REPACK (R150). CPE requantises an MX tensor to another MX format. -/
  | repack (site : Fin 36)
  /-- RNG_FILL (R152). The RNG fill descriptor writes raw, uniform or keep-mask draws. -/
  | rngFill (site : Fin 36)
  /-- DME_COPY (R153). A DME copies rows from source to destination. -/
  | dmeCopy (site : Fin 36) (dme : Fin 2) (ext : List Byte) (found : List EccFound)
  /-- DME_FILL (R153). A DME writes the 8-byte pattern repeatedly into each row. -/
  | dmeFill (site : Fin 36) (dme : Fin 2)
  /-- CMEM_MAP_WRITE (R159). A write of CMEM_CFG.map takes effect only while the core is quiet, otherwise it is discarded with a C0 event. -/
  | cmemMapWrite (p : Path) (site : Fin 36) (data : Word)
  /-- CORE_WINDOW_ACCESS (R161). An inbound access to a core-memory window is served by view, or refused with NOTARGET. -/
  | coreWindowAccess (src : Source) (core : Fin 32) (off : BitVec 28) (op : MemOp) (found : List EccFound) (coll : Option Collision)
  /-- ALIAS_WRITE (R167). A write to the bit-set or bit-clear alias performs an in-bank read-modify-write. -/
  | aliasWrite (src : Source) (core : Fin 32) (off : BitVec 28) (data : List Byte) (enables : List Bool) (found : List EccFound)
  /-- PARTIAL_WORD_WRITE (R170). A write of less than a word is performed as an in-bank read-modify-write. -/
  | partialWordWrite (src : Source) (core : Fin 32) (off : BitVec 28) (data : List Byte) (enables : List Bool) (found : List EccFound)
  /-- BANK_MODE_WRITE (R175). A write to CMEM_BANK.mode takes effect at the bank's next grant, or is discarded for a marched or fenced bank. -/
  | bankModeWrite (p : Path) (site : Fin 36) (bank : Fin 34) (data : Word)
  /-- BANK_AUTO_IDLE (R173). An AUTO bank idle for CMEM_IDLE.steps moves to RET if the exit time fits the partition's latency. -/
  | bankAutoIdle (site : Fin 36) (bank : Fin 34)
  /-- BANK_TRANSITION_DONE (R175). A bank completes its transition between power states and takes any pending target. -/
  | bankTransitionDone (site : Fin 36) (bank : Fin 34)
  /-- CMEM_SCRUB_ACCESS (R177). The scrubber reads its next row of an ON or OFFLINE bank. -/
  | cmemScrubAccess (site : Fin 36) (bank : Fin 34) (row : BitVec 13) (found : List EccFound)
  /-- CMEM_MARCH_CTL_GO (R181). A march request is refused with a reason or starts on an OFFLINE bank. -/
  | cmemMarchCtlGo (p : Path) (site : Fin 36) (data : Word)
  /-- MARCH_DONE (R182). A run-time march ends; a failure fences the bank as class C1, a pass leaves it OFFLINE. -/
  | marchDone (site : Fin 36) (pass : Bool) (element : BitVec 3) (row : BitVec 13) (failWords poisoned : BitVec 16)
  /-- STREAM_ENABLE (R185). Setting HUB_STRM_CFG.enable checks the context and either sets cfg_err or zeroes the counts and enters RUN. -/
  | streamEnable (p : Path) (data : Word)
  /-- STREAM_DISABLE (R186). Clearing enable aborts the descriptor at the commit count or stops at once, and breaks the stream's locks. -/
  | streamDisable (p : Path) (data : Word) (ext : List Byte)
  /-- STREAM_CFG_WRITE (R184). A write to a stream context field other than enable is accepted only while enable is 0. -/
  | streamCfgWrite (p : Path) (off : BitVec 8) (data : Word)
  /-- SQ_TAIL (R189). A doorbell write of SQ_TAIL is accepted as the new submission count or discarded with db_err. -/
  | sqTail (p : Path) (stream : BitVec 16) (data : BitVec 64)
  /-- CQ_HEAD (R199). A doorbell write of CQ_HEAD frees completion ring space or is discarded with db_err. -/
  | cqHead (p : Path) (stream : BitVec 16) (data : BitVec 64)
  /-- ABORT (R202). A write of ABORT names a sequence number to be aborted, decided at the stream's commit. -/
  | strmAbort (p : Path) (stream : BitVec 16) (data : BitVec 64)
  /-- ABORT_DECIDED (R202). A pending abort is decided at the commit with ALREADY_DONE, NOT_SUBMITTED, ALREADY_STOPPED or ABORT_TAKEN. -/
  | abortDecided (stream : BitVec 16) (ext : List Byte)
  /-- RESTART (R204). A RESTART write resumes a STOPPED stream at a sequence number with an OK record. -/
  | strmRestart (p : Path) (stream : BitVec 16) (data : BitVec 64)
  /-- DOORBELL_BAD_ACCESS (R188). A doorbell page access of another size, alignment or offset is discarded with a C0 event. -/
  | doorbellBadAccess (p : Path) (off : BitVec 28) (size : Nat) (write : Option (BitVec 64))
  /-- DESCRIPTOR_FETCH (R192). The scheduler fetches a descriptor from the ring and checks its header. -/
  | descriptorFetch (stream : BitVec 16) (ext : List Byte)
  /-- FETCH_ERR (R201). A ring entry that cannot be read completes the descriptor with FETCH_ERR and stops the stream. -/
  | fetchErr (stream : BitVec 16) (err : MemErr)
  /-- DESCRIPTOR_DISPATCH (R193). A descriptor whose order, barrier, wait and slot conditions all hold is dispatched to its engine. -/
  | descriptorDispatch (stream : BitVec 16)
  /-- DESCRIPTOR_DONE (R194). An engine reports a final status; the descriptor commits in order, signals and writes its record. -/
  | descriptorDone (stream : BitVec 16)
  /-- COMPLETION_RECORD_WRITE (R197). A completion record is written by one 32-byte write with its phase bit. -/
  | completionRecordWrite (stream : BitVec 16) (resp : Resp)
  /-- RECORD_WRITE_ERROR (R588). A completion record write that fails loses the record, sets cq_err and stops the stream. -/
  | recordWriteError (stream : BitVec 16) (err : MemErr)
  /-- STREAM_STOP (R201). A stream stops at a descriptor, flushes later fetched ones and enters STOPPED once quiet. -/
  | streamStop (stream : BitVec 16)
  /-- STREAM_TIMEOUT (R205). A descriptor that passes its time limit stops the stream with TIMEOUT. -/
  | streamTimeout (stream : BitVec 16) (seq : BitVec 32)
  /-- COUNTER_ADD (R208). ADD raises a sync counter's value, saturating and poisoning it on overflow. -/
  | counterAdd (p : Path) (c : BitVec 16) (v : Word)
  /-- COUNTER_MAX (R207). MAX sets a counter's value to the larger of it and the operand. -/
  | counterMax (p : Path) (c : BitVec 16) (v : Word)
  /-- COUNTER_SET (R207). SET writes a counter's value, increments its epoch and clears its poison unless locked by another. -/
  | counterSet (p : Path) (c : BitVec 16) (v : Word)
  /-- COUNTER_RESET (R207). RESET zeroes a counter, increments its epoch, clears poison and releases its lock. -/
  | counterReset (p : Path) (c : BitVec 16)
  /-- SYNC_WINDOW_BAD_ACCESS (R207). An unsupported, unowned or reserved-op SYNC window access is treated as R14 sets out. -/
  | syncWindowBadAccess (p : Path) (off : BitVec 19) (size : Nat) (write : Option (BitVec 64))
  /-- WAITER_SATISFIED (R208). A waiter re-examined after a counter change is satisfied, or completes POISONED. -/
  | waiterSatisfied (stream : BitVec 16)
  /-- LOCK_GRANTED (R210). A waiting LOCK is granted in arrival order when the counter's lock is released. -/
  | lockGranted (ctr : BitVec 16)
  /-- SYNC (R214). A SYNC descriptor waits and locks before dispatch and performs ADD, SET, MAX and UNLOCK slots at commit. -/
  | syncDesc (stream : BitVec 16)
  /-- WADV (R215). A WADV descriptor performs the window advance of R62 at its commit. -/
  | wadv (stream : BitVec 16)
  /-- STREAM_REFETCH (R216). Once a spare is ACTIVE, each recovering stream re-fetches from its commit count and returns to RUN. -/
  | streamRefetch (stream : BitVec 16)
  /-- STREAMS_LOST (R216). With no spare left, every stream of the core becomes LOST with CORE_LOST records. -/
  | streamsLost (core : Fin 32)
  /-- HBM_RANGE_LOCK (R225). Setting HUB_HBM_CFG.lock checks every enabled range, refuses bad ones and computes bases. -/
  | hbmRangeLock (p : Path) (data : Word)
  /-- RDS (R244). A home serves a read for a shared copy by directory state. -/
  | rds (src : Source) (addr : BitVec 52)
  /-- RDX (R244). A home serves a read for ownership, invalidating other copies. -/
  | rdx (src : Source) (addr : BitVec 52)
  /-- UPG (R244). A home grants ownership of a line held S, or serves it as RdX. -/
  | upg (src : Source) (addr : BitVec 52)
  /-- RDCUR (R244). A home returns current data without keeping a copy at the requester. -/
  | rdcur (src : Source) (addr : BitVec 52)
  /-- WRLINE (R244). A home performs a full-line write after recalling cached copies. -/
  | wrline (src : Source) (addr : BitVec 52) (data : BitVec 1024)
  /-- WRPART (R244). A home performs a byte-enabled write after recalling cached copies. -/
  | wrpart (src : Source) (addr : BitVec 52) (data : BitVec 1024) (enables : BitVec 128)
  /-- SNPCUR (R241). An agent answers a SnpCur by its state. -/
  | snpcur (agent : Fin 12) (addr : BitVec 52) (now : AState) (data : BitVec 1024) (evbuf : Bool)
  /-- SNPS (R241). An agent answers a SnpS, downgrading to S. -/
  | snps (agent : Fin 12) (addr : BitVec 52) (now : AState) (data : BitVec 1024) (evbuf : Bool)
  /-- SNPI (R241). An agent answers a SnpI, invalidating its copy. -/
  | snpi (agent : Fin 12) (addr : BitVec 52) (now : AState) (data : BitVec 1024) (evbuf : Bool)
  /-- SNOOP_ANSWER (R244). A home receives RspI, RspS or SnpData and advances its transaction. -/
  | snoopAnswer (agent : Fin 12) (addr : BitVec 52)
  /-- SNOOP_EVICTING (R245). A home receiving SNOOP_EVICTING waits in H_EVW for the owner's WbM. -/
  | snoopEvicting (agent : Fin 12) (addr : BitVec 52)
  /-- WBM (R245). A home accepts an eviction with data, acknowledges it and completes any waiting transaction. -/
  | wbm (agent : Fin 12) (addr : BitVec 52) (data : BitVec 1024)
  /-- CMPACK (R243). CmpAck from the granted agent ends the home's transaction. -/
  | cmpack (agent : Fin 12) (addr : BitVec 52)
  /-- DATA_GRANT (R242). An agent receiving DataS, DataE or Cmp takes its new state and sends CmpAck. -/
  | dataGrant (agent : Fin 12) (addr : BitVec 52)
  /-- WBACK (R241). An agent in MI_A receiving WbAck completes its eviction. -/
  | wback (agent : Fin 12) (addr : BitVec 52)
  /-- AGENT_LOST (R247). A lost agent is removed from the directories, its owned lines poisoned and waiting transactions completed. -/
  | agentLost (agent : Fin 12)
  /-- SNOOP_TIMEOUT (R247). An agent that leaves a snoop unanswered for 1 ms is lost. -/
  | snoopTimeout (agent : Fin 12) (addr : BitVec 52)
  /-- REQUEST_TIMEOUT (R223). A request with no response within 1 ms completes with TIMEOUT. -/
  | requestTimeout (src : Source) (addr : BitVec 52)
  /-- REC_REPORT (R61). The home atomically folds a descriptor's top and flags into a window record. -/
  | recReport (src : Source) (addr : BitVec 52) (top : BitVec 16) (flags : BitVec 5)
  /-- REC_ADVANCE (R62). The home atomically advances a window record's window and clears its statistics. -/
  | recAdvance (src : Source) (addr : BitVec 52)
  /-- FADD32 (R248). The home adds FP32 values into enabled elements of a line. -/
  | fadd32 (src : Source) (addr : BitVec 52) (values : List Word) (enables : List Bool)
  /-- XADD (R248). The home adds an EX128 value into a stored EX128 element. -/
  | xadd (src : Source) (addr : BitVec 52) (value : BitVec 192)
  /-- FETCH_ADD (R248). The home performs an integer add and returns the old value. -/
  | fetchAdd (src : Source) (addr : BitVec 52) (wide : Bool) (value : BitVec 64)
  /-- SWAP (R248). The home stores a value and returns the old one. -/
  | atomSwap (src : Source) (addr : BitVec 52) (wide : Bool) (value : BitVec 64)
  /-- CAS (R248). The home stores a value if the old one equals the comparand and returns the old value. -/
  | atomCas (src : Source) (addr : BitVec 52) (width : Fin 3) (expect value : BitVec 128)
  /-- HBM_LINE_DECODE (R230). A line read is decoded by RS(10,8), counting erasures or corrections and adding failing rows to the row-loss list. -/
  | hbmLineDecode (stack : Fin 24) (line : BitVec 29) (seen : LineSeen)
  /-- HBM_REFRESH (R252). A stack refreshes at the interval of its temperature band. -/
  | hbmRefresh (stack : Fin 24)
  /-- HBM_SCRUB (R253). The controller's patrol scrub reads and decodes its next line. -/
  | hbmScrub (stack : Fin 24) (line : BitVec 29) (seen : LineSeen)
  /-- CACHE_SLICE_FENCE (R237). A fenced cache slice writes back what it can, drops remote lines and is bypassed. -/
  | cacheSliceFence (die : Fin 6) (lost : List (BitVec 52)) (tags : Bool)
  /-- FEINO_TRAIN_ACK (R262). A bundle leaves a training state when both ends have acknowledged it. -/
  | feinoTrainAck (e : BundleEnd) (here far : BitVec 68)
  /-- FEINO_TRAIN_TIMER (R262). A training timer expires, returning the bundle to DETECT or fencing it after too many attempts. -/
  | feinoTrainTimer (e : BundleEnd) (here far : BitVec 68)
  /-- FEINO_RETRAIN (R263). A bundle retrains after 4 µs without acknowledge progress or on FEI_CTL.retrain. -/
  | feinoRetrain (e : BundleEnd) (soft : Bool)
  /-- FEINO_LANE_LOSS (R264). A receiver excludes a lane that loses lock or fails its ALN check, requesting it in its next ALN. -/
  | feinoLaneLoss (e : BundleEnd) (lane : Fin 68)
  /-- ALN_RECEIVED (R259). An alignment slot is decoded, deskewing lanes and applying a new exclusion list or request. -/
  | alnReceived (e : BundleEnd) (words : List (BitVec 64))
  /-- FEINO_FLIT_RECEIVE (R271). A receiver accepts an in-order flit with passing CRC, or discards it and sends a nak. -/
  | feinoFlitReceive (e : BundleEnd) (flit : List Byte)
  /-- FEINO_NAK (R271). A sender receiving a nak resends from ack + 1. -/
  | feinoNak (e : BundleEnd)
  /-- FEINO_REPLAY_TIMER (R271). After 1 µs without ack progress the sender resends from its oldest unacknowledged flit. -/
  | feinoReplayTimer (e : BundleEnd)
  /-- RAW_FRAME_RECEIVE (R274). A raw frame is accepted in order and delivered to its channel, or discarded and naked. -/
  | rawFrameReceive (e : BundleEnd) (frame : List Byte)
  /-- RAW_CHANNEL_BROKEN (R275). The fence of a raw group's bundle breaks every channel on it. -/
  | rawChannelBroken (e : BundleEnd)
  /-- CREDIT_INIT (R270). A receiver's announced depths set the sender's initial credits. -/
  | creditInit (e : BundleEnd)
  /-- RAW_INIT (R274). A receiver's announced raw depth sets the raw frame credits. -/
  | rawInit (e : BundleEnd)
  /-- DISCOVER (R277). An announcement record is forwarded to the hub die, which enters it in the device map. -/
  | discover (place : Fin 61) (record : BitVec 128)
  /-- MAP_ACK (R276). The hub die answers an announcement with its device-map index. -/
  | mapAck (place : Fin 61)
  /-- FENCE_INFO (R272). The last accepted seq of a fenced bundle lets the sender resend later messages on the remaining bundles. -/
  | fenceInfo (e : BundleEnd)
  /-- FENCE_INFO_TIMEOUT (R272). Without FENCE_INFO within 100 µs the held messages are dropped with TIMEOUT. -/
  | fenceInfoTimeout (e : BundleEnd)
  /-- RETRAIN_REQ (R276). The far end starts a Feino retrain on this control message. -/
  | retrainReq (e : BundleEnd)
  /-- PRV_RELEASE (R282). Setting PRV_CTL.release moves a guest site from HELD into negotiation, or is refused with OWNER. -/
  | prvRelease (p : Path) (g : Fin 2)
  /-- PROFILE_ANSWER (R283). The guest's offered profile is combined with PRV_LIMIT and the agreed profile sent. -/
  | profileAnswer (g : Fin 2) (offer : BitVec 128)
  /-- PROFILE_ACK (R283). The guest's acknowledgement of the agreed profile lets credits and discovery follow and the site become ACTIVE. -/
  | profileAck (g : Fin 2) (echo : BitVec 128)
  /-- NEGOTIATION_TIMEOUT (R283). A negotiation timer expires and the site is killed with reason NEGOTIATE. -/
  | negotiationTimeout (g : Fin 2)
  /-- GUEST_MESSAGE (R284). Privet checks a message from a guest die in order and admits, drops, denies or kills. -/
  | guestMessage (g : Fin 2)
  /-- GUEST_KILL (R288). A guest site is killed, held in reset and cut off until the next start. -/
  | guestKill (g : Fin 2) (reason : BitVec 4)
  /-- PRV_COMMIT (R286). A commit switches Privet to the shadow rules between checks, or is discarded while busy. -/
  | prvCommit (p : Path) (g : Fin 2)
  /-- PRV_COMMIT_DRAINED (R286). When every request admitted under the old table completes, busy clears and generation increments. -/
  | prvCommitDrained (g : Fin 2)
  /-- PRV_TOKEN_REFILL (R287). Privet's token bucket refills and credits are returned to the guest as tokens allow. -/
  | prvTokenRefill (g : Fin 2)
  /-- LASER_MONITOR (R296). Every 100 µs the controller reads each laser's LM monitor and marks a laser FAILED on its conditions. -/
  | laserMonitor (k : Fin 16) (b : Fin 2) (n : Fin 23) (lm expected : BitVec 16) (biasBad : Bool)
  /-- LASER_FAIL (R297). A failed or worn grid laser is turned off and Coppice brings its spare onto the slot or leaves it dark. -/
  | laserFail (k : Fin 16) (b : Fin 2) (n : Fin 23)
  /-- SPARE_LASER_ON_FREQUENCY (R297). A tuning spare reaches frequency, its add ring is tuned on and it becomes COVERING. -/
  | spareLaserOnFrequency (k : Fin 16) (b : Fin 2) (n : Fin 23)
  /-- BIAS_BAND_CHANGE (R299). On a band change each laser's bias is moved in steps to the new table value. -/
  | biasBandChange (k : Fin 16)
  /-- AGEING_DECISION (R300). Every period the controller raises a laser's age offset or marks it WORN from its margin. -/
  | ageingDecision (k : Fin 16) (farLocal : BitVec 8)
  /-- MARGIN_RPT (R300). A far end's margin report updates the per-channel margins and CM reading. -/
  | marginRpt (g : Fin 128)
  /-- MONITOR_SCAN (R304). The controller scans LM, SM, MM and CM monitors once every 1 ms. -/
  | monitorScan (k : Fin 16) (sm mm cm : List (BitVec 16))
  /-- LOSS_LOCATE (R306). Every 1 ms the controller locates the first segment whose loss exceeds nominal and reports it. -/
  | lossLocate (k : Fin 16)
  /-- HEATER_TARGET_CHANGE (R309). A changed heater target recomputes affected drives, applied at one DAC update. -/
  | heaterTargetChange (k : Fin 16) (h : Fin 320) (code : BitVec 16)
  /-- LE_XT_COMMIT (R308). A commit applies the shadow crosstalk matrix or is refused with err. -/
  | leXtCommit (p : Path) (k : Fin 16)
  /-- GAP_CMD_GO (R320). A Gap command takes LE_GAP_NEXT, applying at once, at its instant, or pending, or is refused or discarded. -/
  | gapCmdGo (p : Path) (k : Fin 16) (data : Word)
  /-- GAP_CMD_CANCEL (R320). cancel withdraws a pending Gap command that has not begun. -/
  | gapCmdCancel (p : Path) (k : Fin 16)
  /-- GAP_EXECUTE (R322). A Gap configuration begins at its instant and steps outputs to BLOCK, sets the matrix, ramps amplifiers and switches outputs. -/
  | gapExecute (k : Fin 16)
  /-- GAP_EXECUTE_DONE (R322). At step 4 the changed outputs take their new states and LE_GAP_CUR is updated. -/
  | gapExecuteDone (k : Fin 16) (need : List (BitVec 16))
  /-- CONNECTOR_OPEN (R314). The presence switch opens and the light engine turns off lasers and amplifiers and enters INTERLOCK. -/
  | connectorOpen (k : Fin 16)
  /-- CONNECTOR_CLOSED (R314). After the switch stays closed 100 ms the lasers restart and the fibres are brought up. -/
  | connectorClosed (k : Fin 16)
  /-- LIGHT_ENGINE_DARK (R324). A light engine that goes dark or whose controller stops blocks every output and becomes all LOCAL. -/
  | lightEngineDark (k : Fin 16)
  /-- LIGHT_ENGINE_START (R337). Setting LE_CTL.enable runs the optical start of lasers, searches and assignments. -/
  | lightEngineStart (k : Fin 16) (lit : BitVec 46) (fits : List RingFit)
  /-- FAR_LIGHT_SEEN (R336). A repeated ring 0 sweep sees far-end light and the receive search proceeds. -/
  | farLightSeen (g : Fin 128) (fits : List RingFit) (amps : List (BitVec 16)) (locked : BitVec 20)
  /-- MOD_BIAS_UPDATE (R338). Every 1 ms the modulator bias loop moves each transmit ring's target by its correlation. -/
  | modBiasUpdate (k : Fin 16) (h : Fin 320) (rho : BitVec 32)
  /-- RX_RING_UPDATE (R339). Every 20 µs the receive ring loop moves its target towards the larger eye amplitude. -/
  | rxRingUpdate (k : Fin 16) (h : Fin 320) (plus minus : BitVec 16) (centred : Bool) (dm : BitVec 16)
  /-- THRESHOLD_UPDATE (R339). Every 10 µs the decision threshold is set to the integrator mean. -/
  | thresholdUpdate (k : Fin 16) (h : Fin 320) (mean : BitVec 16)
  /-- RING_LOCK_LOSS (R340). A ring loses lock, erasing its lane and starting a retune. -/
  | ringLockLoss (k : Fin 16) (h : Fin 320) (linkSays : Bool)
  /-- HOLD_WINDOW_EXCEEDED (R341). A ring whose loop asks for a target outside the hold window is replaced by a spare. -/
  | holdWindowExceeded (k : Fin 16) (h : Fin 320)
  /-- CAL_START (R343). The master erases a lane and sends CAL_GO when the start conditions hold. -/
  | calStart (g : Fin 128)
  /-- CAL_GO (R342). The sender performs calibrate, retune or transit step on the lane's transmit ring. -/
  | calGo (g : Fin 128) (t : Tuned)
  /-- CAL_TXDONE (R344). The master receives the sender's result and continues with the receive ring. -/
  | calTxdone (g : Fin 128)
  /-- CAL_ABORT (R342). The sender returns its transmit ring to its hold code. -/
  | calAbort (g : Fin 128)
  /-- CAL_REQ (R348). The sender asks the master for a retune or hold-window swap of its ring. -/
  | calReq (g : Fin 128)
  /-- CAL_XING (R350). A transit crossing is requested and granted when only the spare's lane is erased. -/
  | calXing (g : Fin 128)
  /-- CAL_SENDER_TIMEOUT (R342). A sender with no message for 4 ms after CAL_GO returns its ring to its hold code. -/
  | calSenderTimeout (g : Fin 128)
  /-- CAL_RX_DONE (R344). The receive narrow search and lock test finish and the lane is re-admitted. -/
  | calRxDone (g : Fin 128) (t : Tuned)
  /-- CAL_ABANDON (R345). A calibration is abandoned on a second erasure, a Gap change, a pair failure or a failed step. -/
  | calAbandon (g : Fin 128)
  /-- CAL_RUN_TRIGGER (R346). A temperature change beyond dT requests a calibration run. -/
  | calRunTrigger (k : Fin 16)
  /-- CAL_RUN_PERIOD (R347). In the conservative profile a run starts every period_s seconds. -/
  | calRunPeriod (k : Fin 16)
  /-- LE_CAL_CMD_RUN (R346). A write of LE_CAL_CMD.run requests a calibration run. -/
  | leCalCmdRun (p : Path) (k : Fin 16)
  /-- LE_CAL_CMD_LANE (R347). A write of LE_CAL_CMD.lane calibrates one lane or is refused with a reason. -/
  | leCalCmdLane (p : Path) (k : Fin 16) (data : Word)
  /-- RETUNE (R348). A ring that lost lock is retuned by narrow searches, and FAILED with a spare after the last attempt. -/
  | retune (k : Fin 16) (h : Fin 320) (t : Tuned)
  /-- SPARE_RING_TRANSIT (R349). Coppice moves a parked spare ring by transit onto the failed ring's channel. -/
  | spareRingTransit (k : Fin 16) (h : Fin 320)
  /-- TRANSIT_CROSSING_DONE (R350). A crossing completes and the crossed lane is re-admitted. -/
  | transitCrossingDone (k : Fin 16) (h : Fin 320) (locked : Bool) (t : Tuned)
  /-- MON_TRIG (R331). A trigger starts or queues a measurement-chain conversion, or is dropped with trig_ovr. -/
  | monTrig (p : Path) (k : Fin 16) (data : Word)
  /-- MON_CONVERSION_DONE (R331). A measurement conversion completes, publishing its result and starting any pending trigger. -/
  | monConversionDone (k : Fin 16) (power : BitVec 16) (gain : BitVec 2)
  /-- MON_SYNC (R330). A synchronising reset restarts a filter aligned to the time base. -/
  | monSync (p : Path) (k : Fin 16)
  /-- CODE_BLOCK_RECEIVE (R362). A code block is descrambled, decoded under the erasure set and its flit checked. -/
  | codeBlockReceive (g : Fin 128) (n : BitVec 24) (lanes : List (List Byte))
  /-- OQ_FLIT_ACCEPT (R378). A receiver accepts an in-order flit or discards it, naking once per interval. -/
  | oqFlitAccept (g : Fin 128)
  /-- OQ_NAK (R379). A sender receiving a nak resends from ack + 1. -/
  | oqNak (g : Fin 128)
  /-- OQ_REPLAY_TIMER (R379). After 2 × RTT + 1 µs without ack progress the sender resends from its oldest flit. -/
  | oqReplayTimer (g : Fin 128)
  /-- LANE_ERASE (R363). A lane enters the erasure set for a calibration, lock loss or error count. -/
  | laneErase (g : Fin 128) (lane : Fin 18) (cause : Fin 6)
  /-- LANE_READMIT (R365). A lane leaves the erasure set once its ring passes lock and block lock is regained. -/
  | laneReadmit (g : Fin 128) (lane : Fin 18)
  /-- BLOCK_LOCK_TIMEOUT (R365). A lane whose block lock is not regained within 100 µs is reported again as a loss. -/
  | blockLockTimeout (g : Fin 128) (lane : Fin 18)
  /-- LOS (R368). All receive rings below −25 dBm declare loss of light and hold every ring. -/
  | lossOfLight (g : Fin 128)
  /-- LOS_END (R368). Loss of light ends when 16 receive rings pass the lock test. -/
  | losEnd (g : Fin 128) (rings : BitVec 20)
  /-- SLIP_QUEUE (R372). A slip is queued on its fibre and rides the next flit header. -/
  | slipQueue (g : Fin 128) (kind : Fin 4) (value : BitVec 64)
  /-- CREDIT_CHECK (R375). A sender receiving CREDIT_CHECK computes and records each VC's deficit. -/
  | creditCheck (g : Fin 128)
  /-- CREDIT_AUDIT_PERIOD (R375). Every audit period the receiver builds and sends CREDIT_CHECK. -/
  | creditAuditPeriod (g : Fin 128)
  /-- LQ_RETRAIN (R381). A retrain returns the link to WAIT, keeping sequence numbers and replay contents. -/
  | lqRetrain (g : Fin 128)
  /-- OQ_RETRAIN_REQ (R385). The lead receiving RETRAIN_REQ starts a retrain. -/
  | oqRetrainReq (g : Fin 128)
  /-- TRAINING_BLOCK_ALIGN (R382). A receiver aligns a lane on a training block with marker, check and agreeing block number. -/
  | trainingBlockAlign (g : Fin 128) (lanes : List (List Byte))
  /-- TRAINING_TIMER (R382). An ALIGN, PARAM or RTT timer expires, returning the link to WAIT and counting a failed attempt. -/
  | trainingTimer (g : Fin 128)
  /-- TRAIN_PARAM (R383). A peer's TRAIN_PARAM sets the agreed revision, lane map, replay point and credits. -/
  | trainParam (g : Fin 128)
  /-- ECHO_REQ (R384). The follow answers ECHO_REQ with ECHO_RSP, or takes the announced RTT. -/
  | echoReq (g : Fin 128)
  /-- ECHO_RSP (R384). The lead computes RTT from the four time stamps and announces it. -/
  | echoRsp (g : Fin 128)
  /-- ROLE_SWAP_PROPOSE (R386). A write of LQ_CTL.swap sends ROLE_SWAP or completes REFUSED. -/
  | roleSwapPropose (p : Path) (g : Fin 128)
  /-- ROLE_SWAP (R386). An end receiving ROLE_SWAP answers ROLE_ACK or detects a collision. -/
  | roleSwap (g : Fin 128)
  /-- ROLE_ACK (R386). Roles swap at both ends when the ack is accepted. -/
  | roleAck (g : Fin 128)
  /-- LINK_DOWN_TIMER (R387). An unreadable fibre or stalled ack for LDT declares the link down and enters HOLD. -/
  | linkDownTimer (g : Fin 128)
  /-- DOWN_FLIT (R387). Accepting a DOWN flit declares the link down. -/
  | downFlit (g : Fin 128)
  /-- GRACE_EXPIRY (R389). The grace period ends and the link is flushed, giving error completions and becoming DOWN. -/
  | graceExpiry (g : Fin 128)
  /-- LQ_PATH_GO (R390). A write of LQ_PATH_CTL.go places a fibre side in path mode or HOME, or is refused. -/
  | lqPathGo (p : Path) (g : Fin 128) (data : Word)
  /-- PATH_MODE_APPLY (R391). Path mode takes effect, switching transmit to path flits or receive to locking on the new source. -/
  | pathModeApply (g : Fin 128)
  /-- PATH_FLIT_RECEIVE (R391). A path flit is delivered in seq order, or counted lost and reported. -/
  | pathFlitReceive (g : Fin 128)
  /-- HELLO (R399). A HELLO checks the peer's direction and coordinates and adopts its root and generation. -/
  | helloMsg (g : Fin 128)
  /-- HELLO_PERIOD (R399). Each end sends HELLO once a second. -/
  | helloPeriod (g : Fin 128)
  /-- CELL_ARRIVE (R403). The routing stage routes an arriving cell by dimension order or table and forwards it. -/
  | cellArrive (g : Fin 128) (vc : Fin 4)
  /-- CTR_ADD (R409). A CTR_ADD cell performs an admitted ADD at the counter's home and is answered. -/
  | ctrAdd
  /-- CTR_SET (R409). A CTR_SET cell performs an admitted SET and is answered. -/
  | ctrSet
  /-- CTR_MAX (R409). A CTR_MAX cell performs an admitted MAX and is answered. -/
  | ctrMax
  /-- ADD_SLIP (R409). An ADD slip arriving at its node performs an admitted ADD, or is refused by ADD_REFUSE. -/
  | addSlip (g : Fin 128)
  /-- CTR_RSP (R410). A counter response frees its entry or yields a REMOTE_FAIL record. -/
  | ctrRsp
  /-- ERR (R410). An ERR cell fails its remote operation with a REMOTE_FAIL record. -/
  | errCell
  /-- ADD_REFUSE (R410). An ADD_REFUSE looks up its ordinal and fails the operation, or counts a late refusal. -/
  | addRefuse (g : Fin 128)
  /-- REMOTE_TIMEOUT (R410). A remote transaction with no response within rto_ms fails with REMOTE_FAIL. -/
  | remoteTimeout (tag : BitVec 16)
  /-- PARCEL (R412). A parcel cell is checked at its first cell and written as cells arrive. -/
  | parcelCell
  /-- PARCEL_RSP (R412). A parcel response completes or rejects the sending GDE descriptor. -/
  | parcelRsp
  /-- FAB_CTL_START (R413). A start moves an IDLE node to CLAIMING and sends CLAIM, or is refused. -/
  | fabCtlStart (p : Path)
  /-- FAB_CTL_LEAVE (R416). A leave returns the node to IDLE. -/
  | fabCtlLeave (p : Path)
  /-- CLAIM (R414). A better CLAIM is adopted and sent on; a claiming node withdraws. -/
  | claimMsg (g : Fin 128)
  /-- CLAIM_WINDOW_CLOSE (R415). A node still CLAIMING when its window closes becomes ROOT and sends ANNOUNCE. -/
  | claimWindowClose
  /-- ANNOUNCE (R415). A node adopts a newer ANNOUNCE, joins, takes its parent and sends it on. -/
  | announceMsg (g : Fin 128)
  /-- TB_EXCHANGE_PERIOD (R417). Every 1 ms a joined node sends TB_REQ to its parent. -/
  | tbExchangePeriod
  /-- TB_REQ (R417). A parent answers TB_REQ with TB_RSP. -/
  | tbReq (g : Fin 128)
  /-- TB_RSP (R417). A node forms the offset and slews or steps its time base. -/
  | tbRsp (g : Fin 128)
  /-- PARENT_LOST (R419). A node losing its parent takes a new one or runs on its own TBCLK. -/
  | parentLost
  /-- PLAN_ARM (R422). Writing arm = 1 checks a plan and arms it or sets status PLAN. -/
  | planArm (p : Path) (c : BitVec 8) (word : Fin 16) (data : Word)
  /-- PLAN_START (R423). An armed plan starts when its trigger counter is reached, reading its window and sending PL_OPEN. -/
  | planStart (c : BitVec 8) (resp : Resp) (ext : List Byte)
  /-- PL_OPEN (R424). PL_OPEN tells the receiver the fibre rank and count of a plan's lane. -/
  | plOpen (g : Fin 128)
  /-- PLEACH_FLIT (R425). An arriving VC2 flit has the contribution added and is written or sent on. -/
  | pleachFlit (g : Fin 128) (ext : List Byte)
  /-- PLAN_DONE (R428). A plan whose chunks and writes are complete and books balance raises done_ctr. -/
  | planDone (c : BitVec 8)
  /-- PLAN_FAIL (R429). A plan fails, poisons done_ctr and sends PL_ABORT. -/
  | planFail (c : BitVec 8) (status : Fin 16)
  /-- PL_ABORT (R429). A node receiving PL_ABORT fails its plan with PEER and sends it on once. -/
  | plAbort (g : Fin 128)
  /-- PLAN_LIMIT_EXPIRY (R429). A plan's limit_us passes and it fails with TIMEOUT. -/
  | planLimitExpiry (c : BitVec 8)
  /-- PL_BAR (R432). A barrier slip is passed on when ready, or sets the release instant at the leader. -/
  | plBar (g : Fin 128)
  /-- SLEEP_IDLE (R434). A link idle for idle_us under the sleep conditions sends SLP_PROPOSE. -/
  | sleepIdle (g : Fin 128)
  /-- SLP_PROPOSE (R435). The peer answers SLP_ACCEPT or SLP_CANCEL. -/
  | slpPropose (g : Fin 128)
  /-- SLP_ACCEPT (R435). The proposer sends SLP_COMMIT, or cancels on traffic. -/
  | slpAccept (g : Fin 128)
  /-- SLP_COMMIT (R435). Each end completes sleep entry and is DORMANT. -/
  | slpCommit (g : Fin 128)
  /-- SLP_CANCEL (R436). The agreement ends and the link stays ACTIVE. -/
  | slpCancel (g : Fin 128)
  /-- SLP_WAKE (R435). A DORMANT link exits and is ACTIVE again. -/
  | slpWake (g : Fin 128)
  /-- SLEEP_PROPOSAL_LAPSE (R435). A proposal with no answer within 2 µs lapses. -/
  | sleepProposalLapse (g : Fin 128)
  /-- DORMANT_TRAFFIC (R437). Traffic for a DORMANT fibre wakes it and waits until ACTIVE. -/
  | dormantTraffic (g : Fin 128)
  /-- PORT_LINK_DOWN (R443). A port link down or D3cold makes host memory NOTARGET, stops streams with host rings and loses the host agent. -/
  | portLinkDown (p : Fin 4)
  /-- FUNCTION_LEVEL_RESET (R444). An FLR clears the port's partitions' streams and resets the function's configuration. -/
  | functionLevelReset (p : Fin 4)
  /-- BAR0_ACCESS (R452). A BAR0 access is admitted by the filter or refused with a C0 event. -/
  | bar0Access (p : Fin 4) (addr : BitVec 26) (size : Nat) (write : Option (BitVec 64)) (during : BitVec 64) (ext : List Byte)
  /-- BAR2_DOORBELL (R453). A BAR2 doorbell write to an unowned stream is discarded with a C0 event. -/
  | bar2Doorbell (p : Fin 4) (off : BitVec 28) (size : Nat) (write : Option (BitVec 64))
  /-- BAR4_ACCESS (R450). A BAR4 access reaches the DPA aperture under the ownership check. -/
  | bar4Access (p : Fin 4) (off : BitVec 36) (op : MemOp) (ext : List Byte)
  /-- MSIX_UNMASK (R454). Unmasking a vector sends its pending message. -/
  | msixUnmask (p : Fin 4) (v : Fin 2048)
  /-- CXL_HOST_REQUEST (R448). A CXL.mem host request is served by the tracker or mapped to a package request. -/
  | cxlHostRequest (p : Fin 4) (kind : Fin 6) (addr : BitVec 52) (data : BitVec 512) (enables : BitVec 64) (dirty : BitVec 2) (evicted : BitVec 1024)
  /-- PARTITION_ENABLE (R456). Writing enable = 1 checks a partition and puts it in force or sets cfg_err. -/
  | partitionEnable (p : Path) (q : Fin 16)
  /-- PARTITION_RELEASE (R458). Writing enable = 0 releases a partition, clearing its resources in order. -/
  | partitionRelease (p : Path) (q : Fin 16)
  /-- PARTITION_RELEASE_DONE (R458). When zeroing and resets finish, busy clears. -/
  | partitionReleaseDone (q : Fin 16)
  /-- PART_CFG_WRITE (R455). A write to a partition field while enabled is discarded with a C0 event. -/
  | partCfgWrite (p : Path) (q : Fin 16) (word : Fin 6) (data : Word)
  /-- LAT_WRITE (R461). A new lat wakes resources whose state no longer fits within 10 µs. -/
  | latWrite (p : Path) (q : Fin 16) (lat : BitVec 16)
  /-- I3C_ADDRESS_ASSIGN (R462). SETDASA or ENTDAA switches the management bus to I3C target. -/
  | i3cAddressAssign (addr : BitVec 7)
  /-- RSTDAA (R462). RSTDAA returns the management bus to SMBus. -/
  | rstdaa
  /-- REG_READ (R463). The vendor command reads up to 64 words, normal or quiet. -/
  | regRead (addr : Word) (count : Byte) (quiet : Bool)
  /-- REG_WRITE_CMD (R463). The vendor REG_WRITE command writes up to 64 words. -/
  | regWriteCmd (addr : Word) (count : Byte) (words : List Word) (ext : List Byte)
  /-- SYNC_OP (R463). The vendor command performs a counter operation. -/
  | syncOp (ctr : BitVec 16) (op : BitVec 8) (operand : Word)
  /-- STATE (R463). The vendor command returns main-rail, Coppice and partition state. -/
  | mgmtState
  /-- UART_CHARACTER (R466). The UART receiver receives one character or detects a framing error. -/
  | uartCharacter (ch : BitVec 8) (stopLow : Bool)
  /-- HK_SLOT (R476). The housekeeping sequencer reads its next slot and publishes the reading. -/
  | hkSlot (value : BitVec 16)
  /-- HK_ROUND_END (R481). After each round sensors are cross-checked and rate of rise tested. -/
  | hkRoundEnd
  /-- HK_TRIG (R479). A trigger inserts an extra conversion of the named slot or is dropped. -/
  | hkTrig (p : Path) (slot : Fin 1024)
  /-- HK_SYNC (R478). A synchronising reset restarts the round at the next 4 ms instant. -/
  | hkSync (p : Path)
  /-- POWER_MANAGER_PERIOD (R484). Every 1 ms the power manager moves core rails towards caps and requested voltages. -/
  | powerManagerPeriod (m : PowerReading)
  /-- INPUT_CURRENT_OVERRUN (R484). Input current above iin_a for 100 µs raises n_pkg by four. -/
  | inputCurrentOverrun (amps : BitVec 16)
  /-- THROTTLE_STEP (R485). Step counts rise every 10 ms at tlim and fall every 100 ms below it. -/
  | throttleStep (fall : Bool)
  /-- HARD_THROTTLE (R486). Above 105 °C rails are forced to 0.65 V or n_pkg rises, with an event record. -/
  | hardThrottle (u : Fin 140)
  /-- HARD_THROTTLE_END (R486). A hard throttle ends when the temperature falls below 103 °C. -/
  | hardThrottleEnd (u : Fin 140)
  /-- GUEST_OVERPOWER (R487). A guest drawing above 150 W for 10 ms is fenced and killed. -/
  | guestOverpower (g : Fin 2)
  /-- THERMAL_TRIP (R488). A comparator at 115 °C asserts THERMTRIP_N and turns off the main rails. -/
  | thermalTrip (slot : Fin 262) (temp : BitVec 16)
  /-- THM_TRIP_CLEAR (R488). A side-band clear releases THERMTRIP_N if all sensors are below 90 °C. -/
  | thmTripClear (p : Path)
  /-- POWER_STATE_ENTRY (R489). A resource idle long enough enters the deepest state whose exit fits its latency. -/
  | powerStateEntry (res : Resource) (idleNs : BitVec 32) (drain : BitVec 13) (ext : List Byte)
  /-- POWER_STATE_WAKE (R490). A dispatch, doorbell or access wakes a resource from its low-power state. -/
  | powerStateWake (res : Resource)
  /-- TBCLK_LOSS (R491). With no TBCLK edge for 1 µs the time base holds its frequency. -/
  | tbclkLoss
  /-- THM_TB_CTL_SET (R492). A set steps the time base to THM_TB_SET when IDLE or ROOT, else is discarded. -/
  | thmTbCtlSet (p : Path)
  /-- STANDBY_POWER_ON (R495). The standby rail rising restarts the controller pair from boot ROM and resets the device. -/
  | standbyPowerOn
  /-- COLD_RESET (R495). A cold reset resets the main domain and runs the main phase with stack zeroing. -/
  | coldReset (cause : Fin 5)
  /-- WARM_RESET (R497). A warm reset brings the package to rest with stacks in self-refresh, then resets the main domain. -/
  | warmReset (console mfwRestart : Bool)
  /-- PORT_RESET (R495). PERST_N, a hot reset or link down resets one port's function. -/
  | portReset (p : Fin 4)
  /-- RESET_N_LOW (R495). RESET_N low for 1 µs or more starts a cold reset. -/
  | resetNLow
  /-- VIN48_RETURN (R496). The 48 V input returning after a loss is a cold reset. -/
  | vin48Return
  /-- VIN48_LOSS (R496). Loss of the 48 V input with standby kept turns the main domain off. -/
  | vin48Loss
  /-- VSB_DROP (R571). VSB_3V3 below 2.9 V turns off the main rails within 1 ms. -/
  | vsbDrop
  /-- ROM_SLOT_CHOICE (R501). The boot ROM chooses, checks and runs an MFW slot, handling trials and fallback. -/
  | romSlotChoice (t : RomTests)
  /-- ROM_WATCHDOG (R501). The hardware watchdog restarts the ROM if MFW has not reached STANDBY within 1 s. -/
  | romWatchdog
  /-- MAIN_PHASE_START (R504). At t0 the main phase powers, discovers, tests and brings up the package to HOLD and READY. -/
  | mainPhaseStart (t : StartTests)
  /-- HOLD_CLEAR (R504). Clearing MGMT_BOOT_CTL.hold lets the start reach READY and release the hosts. -/
  | holdClear (p : Path)
  /-- CONTROLLER_FAULT (R510). A fault of the active controller makes the standby take over within 2 µs. -/
  | controllerFault (checker : Option (Fin 2)) (watchdog : Bool)
  /-- CONTROLLER_HANDBACK (R511). The repaired instance resynchronises and takes control back at a quiet instant. -/
  | controllerHandback
  /-- CONTROLLER_SIMPLEX (R512). An instance failing its test or faulting again is held out and the pair runs simplex. -/
  | controllerSimplex
  /-- UPD_BEGIN (R513). Opens an update session and erases the target slot, or completes BUSY. -/
  | updBegin (path : Fin 7) (data : List Byte)
  /-- UPD_DATA (R513). Writes image data at an offset, keeping the state word erased. -/
  | updData (path : Fin 7) (data : List Byte)
  /-- UPD_END (R513). Checks the written image and leaves it PENDING or programs NOT VALID. -/
  | updEnd (path : Fin 7) (good : Bool)
  /-- UPD_ACTIVATE (R514). Activates a pending image, restarting one light engine for LFW in service. -/
  | updActivate (path : Fin 7) (data : List Byte) (good : Bool)
  /-- UPD_ABORT (R513). Closes the session and programs the target slot NOT VALID. -/
  | updAbort (path : Fin 7)
  /-- UPD_SESSION_TIMEOUT (R513). A session with no command for 60 s is closed as by UPD_ABORT. -/
  | updSessionTimeout
  /-- GET_VERSIONS (R515). Returns running and pending firmware versions and levels. -/
  | getVersions (path : Fin 7)
  /-- READ_EVENTS (R533). Returns up to 15 event-store records. -/
  | readEvents (path : Fin 7) (data : List Byte)
  /-- MGMT_RST_CTL_COLD (R495). A keyed write requests a cold reset. -/
  | mgmtRstCtlCold (p : Path) (key : BitVec 16)
  /-- MGMT_RST_CTL_WARM (R495). A keyed write requests a warm reset, with mfw_restart restarting the pair. -/
  | mgmtRstCtlWarm (p : Path) (key : BitVec 16) (restart : Bool)
  /-- CONSOLE_STAT (R516). The console stat command reports stage, pair state and status. -/
  | consoleStat
  /-- CONSOLE_VER (R516). The console ver command reports versions as GET_VERSIONS. -/
  | consoleVer
  /-- CONSOLE_LOG (R516). The console log command prints the last n event-store records. -/
  | consoleLog (n : BitVec 16)
  /-- CONSOLE_RD (R516). The console rd command reads words in the quiet view. -/
  | consoleRd (addr : Word) (n : BitVec 16)
  /-- CONSOLE_WR (R516). The console wr command writes a value if console_wr allows. -/
  | consoleWr (addr value : Word) (ext : List Byte)
  /-- CONSOLE_HOLD (R516). The console hold command sets or clears the boot hold. -/
  | consoleHold (on : Bool)
  /-- CONSOLE_RESET (R516). The console reset command requests a warm or cold reset. -/
  | consoleReset (warm : Bool)
  /-- FAULT_TAKEN (R524). Hawthorn takes a fault, classifies and escalates it, latches it and starts its reaction. -/
  | faultTaken (n : BitVec 16)
  /-- FAULT_PENDING_END (R523). A pending record is acknowledged automatically when its reaction completes. -/
  | faultPendingEnd (n : BitVec 16)
  /-- FLT_ACK (R523). Acknowledges every pending record of the named classes. -/
  | fltAck (p : Path) (classes : BitVec 3)
  /-- FLT_CLEAR (R535). Clears a class's latch, overflow and count, or is refused while a record is pending. -/
  | fltClear (p : Path) (classes : BitVec 3)
  /-- FLT_PART_ACK (R523). A host acknowledges pending class C2 records of its partition. -/
  | fltPartAck (p : Path) (q : Fin 16)
  /-- FLT_PART_CLEAR (R535). A host clears its partition's fault entry when allowed. -/
  | fltPartClear (p : Path) (q : Fin 16)
  /-- ALIVE_KICK (R534). MFW's kick resets the ALIVE deadline. -/
  | aliveKick (p : Path)
  /-- MFW_HANG (R534). A kick 100 ms late stops ALIVE and is recorded as class C3. -/
  | mfwHang
  /-- DBG_SNAP_TAKE (R541). A take copies every counter of a site at one instant and increments gen. -/
  | dbgSnapTake (p : Path) (site : Fin 36)
  /-- TRACE_EVENT (R544). A traced event makes a record in the local buffer, or is dropped when full. -/
  | traceEvent
  /-- TRACE_DRAIN (R546). The drain writes buffered records into the ring within its bandwidth share. -/
  | traceDrain (u : Fin 52) (count : BitVec 12) (ext : List Byte)
  /-- TRACE_DRAIN_ERROR (R547). A failed drain write ends tracing in state ERR. -/
  | traceDrainError (u : Fin 52)
  /-- TRC_CTL_ENABLE (R545). Enabling trace checks the ring and ownership or sets cfg_err. -/
  | trcCtlEnable (p : Path) (u : Fin 52) (data : Word)
  /-- TRC_CTL_DISABLE (R547). Disabling trace drains made records then turns it OFF. -/
  | trcCtlDisable (p : Path) (u : Fin 52) (data : Word)
  /-- TRC_RPTR_WRITE (R545). A TRC_RPTR write frees ring space or is discarded if above TRC_WPTR. -/
  | trcRptrWrite (p : Path) (u : Fin 52) (data : Word)
  /-- DUMP (R550). A DUMP descriptor matches an armed entry and copies its tensor, or completes unmatched. -/
  | dumpDesc (site : Fin 36) (ext : List Byte)
  /-- HALT (R555). A halt stops a stream's dispatch, or defers it while a lock is held. -/
  | dbgHalt (p : Path) (stream : BitVec 16)
  /-- RESUME (R555). A resume lets a halted stream dispatch again. -/
  | dbgResume (p : Path) (stream : BitVec 16)
  /-- STEP (R555). A step dispatches one descriptor and halts again. -/
  | dbgStep (p : Path) (stream : BitVec 16)
  /-- FORCE (R556). A force breaks the stream's locks and halts it FORCED. -/
  | dbgForce (p : Path) (stream : BitVec 16)
  /-- DEFER_EXPIRY (R556). A deferred halt still holding a lock after defer_us is forced. -/
  | deferExpiry (stream : BitVec 16)
  /-- MC_HALT (R558). A DMI halt request halts the controller pair, deferred within a marked sequence. -/
  | mcHalt (ev : McEvent)
  /-- MC_HALT_EXPIRY (R559). The pair resumes by itself mc_halt_ms after the halt. -/
  | mcHaltExpiry
  /-- TST_CTL_START (R561). A TST_CTL write starts generators or checkers where allowed, else is discarded. -/
  | tstCtlStart (p : Path) (u : TestUnit) (data : Word)
  /-- TEST_ABORT (R561). A test whose condition ends returns its lanes to service and sets abort. -/
  | testAbort (u : TestUnit)
  /-- CHECKER_LOCK (R562). A checker locks after 64 error-free bits, or re-seeds on too many mismatches. -/
  | checkerLock (u : TestUnit) (lane : Fin 68) (rx : List Bool)
  /-- DBGACC (R564). A DBGACC Update-DR performs a configuration access whose status appears at Capture-DR. -/
  | dbgacc (reg : BitVec 64) (ext : List Byte)
  /-- JTAG_INSTRUCTION (R563). A JTAG instruction selects its data register, boundary-scan instructions only under RESET_N low. -/
  | jtagInstruction (code : BitVec 8)
  /-- PORT_LINK_UP (R443). A host port's PCIe or CXL link comes up, at a negotiated rate, and host memory, pending vectors and streams are served again. -/
  | portLinkUp (p : Fin 4) (rate : Fin 6) (width : BitVec 5) (flit : Bool) (cxl : Fin 3) (hdm : Option (BitVec 52 × BitVec 52))
  /-- FUNCTION_POWER_STATE (R444). A host moves the port's function between D0, D3hot and D3cold, changing BAR decoding and vector delivery. -/
  | functionPowerState (p : Fin 4) (dstate : Fin 3)
  /-- GUEST_UCIE_TRAINED (R282). UCIe training of a released guest site completes and the hub die sends PROFILE_REQ. -/
  | guestUcieTrained (g : Fin 2)
  /-- HBM_READ_DATA (R243). Data from the memory-side cache or HBM returns to a home transaction waiting in H_RD. -/
  | hbmReadData (addr : BitVec 52)
  /-- LASER_TRIM_UPDATE (R326). Every 10 µs the laser trim loop moves each laser's trim heater against the bank etalon. -/
  | laserTrimUpdate (k : Fin 16) (b : Fin 2) (n : Fin 23) (offGhz : BitVec 16)
  /-- OQ_BLOCK_SEND (R358). At each 2.5 ns block instant the sender chooses, encodes, scrambles and sends one flit on all 18 lanes. -/
  | oqBlockSend (g : Fin 128)
  /-- FEINO_SLOT_SEND (R258). At each Feino slot time the sender sends a flit, raw frame, idle or alignment slot. -/
  | feinoSlotSend (e : BundleEnd) (msgs : List (List Byte)) (frames : List RawFrame)
  /-- XAG_SEND_START (R432). At FAB_PL_CFG.settle after the release instant T_g, Pleach begins sending its chunk on the XAG paths. -/
  | xagSendStart (c : BitVec 8) (ext : List Byte)
  /-- TBCLK_RETURN (R491). A TBCLK clock returns, the time base locks to it within 10 ms and holdover clears. -/
  | tbclkReturn
  /-- EVENT_STORE_MIRROR_WRITE (R498). Once an hour MFW writes the event store mirror to flash and saves the laser ageing offsets. -/
  | eventStoreMirrorWrite
  /-- CACHE_SCRUB (R233). The base-die cache scrubber visits its tags and data once a second, correcting or reporting errors. -/
  | cacheScrub (die : Fin 6) (corrected uncorrected : BitVec 16) (addr : BitVec 52)
  /-- JTAG_TAP_RESET (R563). TRST_N asserted, or the TAP reached Test-Logic-Reset, resets the instruction register to IDCODE. -/
  | jtagTapReset
  /-- MCTP_CONTROL (R463). An MCTP control message from the bus owner assigns the endpoint ID shown in HOST_SB_CFG.eid. -/
  | mctpControl (eid : BitVec 8)
  /-- PLDM_POLL_EVENT (R532). The bus owner's PollForPlatformEventMessage collects queued fault events and frees queue space. -/
  | pldmPollEvent
  /-- DUTY_WINDOW (R484). At each 10 µs boundary a duty-limited core's scheduler alternates between dispatching and holding dispatch. -/
  | dutyWindow (site : Fin 36)
  /-- ROM_RECOVERY_LOAD (R514). With no runnable MFW slot, the ROM receives an image over the console or SMBus into slot 0 and runs it once it passes R500. -/
  | romRecoveryLoad (image : List Byte) (t : RomTests)
deriving DecidableEq, Repr

end Sys2Proof
end

