-- ==== Sys2Proof/Config.lean ====
section
/-!
DEFINITION. What the model leaves free: opaque constants with no body, so that no proof can see their values. Each
use is named in the assumption log.
-/
namespace Sys2Proof.Config

/-- A fresh free value of `w` bits: the value that the spec leaves undefined at the `n`th such occasion (a collision
read of R166, an output range that a rule calls undefined, the bytes of an overlap of R154). Log entry 4. -/
opaque freeValue (w : Nat) : Nat → BitVec w

/-- The FP32 result of an SFE function (Table 4.9: 0 EXP, 1 LOG, 3 RSQRT, 4 SIGMOID, 5 GELU) for an operand that is
no special case of the table: a fixed map of input bits to output bits (R131), which the table bounds and does not
give. Log entry 13. -/
opaque sfeValue : Nat → BitVec 32 → BitVec 32

/-- The tokens that the compression engine codes a plane into: R150 gives the token format and what a decoder makes of
it, and not how an encoder divides a plane into tokens. Log entry 18. -/
opaque planeTokens : List (BitVec 8) → List (BitVec 8)

/-- The directory set of a line: R240 gives the number of sets and ways of a home, and not which set a line falls in. -/
opaque dirSet : Nat → Nat

/-- The receive depth, in slots, that a receiver of this device announces for a class (R270 bounds it: 10 to 4,095). -/
opaque feiDepth : Nat → Nat → Nat

/-- The raw receive depth, in frames, that a receiver of this device announces (R274 bounds it: 4 to 255). -/
opaque feiRawDepth : Nat → Nat

/-- The bias table of a laser (light engine, laser 23 × bank + n, temperature band), which MFW writes from fuses (R299). -/
opaque biasBase : Nat → Nat → Nat → Nat

/-- The sum of laser powers, each in 1/256 dBm, as a power in 1/256 dBm (Table 9.7, segment 2): the spec gives no rounding. -/
opaque powerSum : List Int → Int

/-- What a unit of a core site that holds an active descriptor does at a nanosecond (R538, R539): a stall reason 0 to 7, or 8 and
above for BUSY. The spec names causes; which of them holds in a given nanosecond is the timing that the model leaves out. -/
opaque unitPhase : Nat → Nat → Nat → Nat

end Sys2Proof.Config
end

