-- ==== Sys2Proof/Machine/RegTable.lean ====
section
/-!
DEFINITION. The register tables of the spec (R9, R15, R43, R112, R155, R183, R220, R255, R289-R291, R325, R353,
R394, R439, R468, R469, R494, R517, R537, R566-R568): one descriptor for each register, its address, its
instances, and its fields with their access codes and reset values.
-/
namespace Sys2Proof.Machine

/-- The access codes of Table 0.3 (R9). -/
inductive Access where
  | ro | rw | w1c | w1s | rc | wo | rwl | rsv
deriving DecidableEq, Repr

/-- A field of a register: bits `hi` to `lo`, and its access code. -/
structure Fld where
  hi : Nat
  lo : Nat
  acc : Access
deriving DecidableEq, Repr

/-- A register of a register table: the key of its first instance (its
address in the configuration space; banked registers, which a path reaches through its own selector, have keys of
their own above the space: HUB_STRM_* one for each stream, HUB_STRM_SEL, DBG_QADDR and DBG_HALT_CTL one for each
path), a stride and a count for each index, its
reset value (RSV fields 0), and its fields (RSV bits are in none). -/
structure RegDesc where
  base : Nat
  dims : List (Nat × Nat)
  reset : Word
  fields : List Fld
deriving DecidableEq, Repr

namespace Fld

def HUB_ID_part : Fld := ⟨31, 16, .ro⟩
def HUB_ID_stepping : Fld := ⟨15, 8, .ro⟩
def HUB_PKG_ID_LO_pkg_id : Fld := ⟨31, 0, .ro⟩
def HUB_PKG_ID_HI_pkg_id : Fld := ⟨31, 0, .ro⟩
def HUB_GRADE_guest_pop : Fld := ⟨19, 18, .ro⟩
def HUB_GRADE_stack_gb : Fld := ⟨17, 12, .ro⟩
def HUB_GRADE_active_target : Fld := ⟨11, 6, .ro⟩
def HUB_GRADE_grade : Fld := ⟨5, 0, .ro⟩
def HUB_COPPICE_STAT_busy : Fld := ⟨31, 31, .ro⟩
def HUB_COPPICE_STAT_cores_active : Fld := ⟨29, 24, .ro⟩
def HUB_COPPICE_STAT_spares_left : Fld := ⟨23, 20, .ro⟩
def HUB_COPPICE_STAT_map_source : Fld := ⟨17, 16, .ro⟩
def HUB_COPPICE_STAT_generation : Fld := ⟨15, 0, .ro⟩
def HUB_COPPICE_CTL_replan : Fld := ⟨0, 0, .w1s⟩
def HUB_SITE_STATE_reason : Fld := ⟨23, 16, .ro⟩
def HUB_SITE_STATE_logical : Fld := ⟨12, 8, .ro⟩
def HUB_SITE_STATE_state : Fld := ⟨2, 0, .ro⟩
def HUB_CORE_MAP_valid : Fld := ⟨31, 31, .ro⟩
def HUB_CORE_MAP_site : Fld := ⟨5, 0, .ro⟩
def HUB_HBM_CFG_lock : Fld := ⟨31, 31, .w1s⟩
def HUB_HBM_CFG_cfg_err : Fld := ⟨1, 1, .ro⟩
def HUB_HBM_CFG_ready : Fld := ⟨0, 0, .ro⟩
def HUB_HBM_STACKS_in_service : Fld := ⟨23, 0, .ro⟩
def HUB_HBM_RANGE_enable : Fld := ⟨31, 31, .rwl⟩
def HUB_HBM_RANGE_mode : Fld := ⟨30, 30, .rwl⟩
def HUB_HBM_RANGE_err : Fld := ⟨29, 29, .ro⟩
def HUB_HBM_RANGE_base_gib : Fld := ⟨23, 12, .ro⟩
def HUB_HBM_RANGE_len_gib : Fld := ⟨11, 6, .rwl⟩
def HUB_HBM_RANGE_off_gib : Fld := ⟨5, 0, .rwl⟩
def HUB_FEI_CTL_lock : Fld := ⟨31, 31, .w1s⟩
def HUB_FEI_CTL_retrain : Fld := ⟨30, 30, .wo⟩
def HUB_FEI_CTL_rx_raw : Fld := ⟨11, 8, .rwl⟩
def HUB_FEI_CTL_tx_raw : Fld := ⟨7, 4, .rwl⟩
def HUB_FEI_CTL_enable : Fld := ⟨0, 0, .rwl⟩
def HUB_FEI_STAT_state : Fld := ⟨31, 29, .ro⟩
def HUB_FEI_STAT_lead : Fld := ⟨28, 28, .ro⟩
def HUB_FEI_STAT_role_mis : Fld := ⟨27, 27, .w1c⟩
def HUB_FEI_STAT_attempts : Fld := ⟨26, 24, .ro⟩
def HUB_FEI_STAT_gen : Fld := ⟨23, 16, .ro⟩
def HUB_FEI_STAT_peer : Fld := ⟨15, 8, .ro⟩
def HUB_FEI_STAT_rx_excl : Fld := ⟨5, 3, .ro⟩
def HUB_FEI_STAT_tx_excl : Fld := ⟨2, 0, .ro⟩
def HUB_FEI_TXMAP_excl3 : Fld := ⟨31, 24, .ro⟩
def HUB_FEI_TXMAP_excl2 : Fld := ⟨23, 16, .ro⟩
def HUB_FEI_TXMAP_excl1 : Fld := ⟨15, 8, .ro⟩
def HUB_FEI_TXMAP_excl0 : Fld := ⟨7, 0, .ro⟩
def HUB_FEI_RXMAP_excl3 : Fld := ⟨31, 24, .ro⟩
def HUB_FEI_RXMAP_excl2 : Fld := ⟨23, 16, .ro⟩
def HUB_FEI_RXMAP_excl1 : Fld := ⟨15, 8, .ro⟩
def HUB_FEI_RXMAP_excl0 : Fld := ⟨7, 0, .ro⟩
def HUB_FEI_FUSE_excl3 : Fld := ⟨31, 24, .ro⟩
def HUB_FEI_FUSE_excl2 : Fld := ⟨23, 16, .ro⟩
def HUB_FEI_FUSE_excl1 : Fld := ⟨15, 8, .ro⟩
def HUB_FEI_FUSE_excl0 : Fld := ⟨7, 0, .ro⟩
def HUB_FEI_ERR_crc_err : Fld := ⟨31, 16, .rc⟩
def HUB_FEI_ERR_replays : Fld := ⟨15, 4, .rc⟩
def HUB_FEI_ERR_malformed : Fld := ⟨3, 0, .rc⟩
def HUB_FEI_SWAP_retrains : Fld := ⟨15, 8, .rc⟩
def HUB_FEI_SWAP_swaps : Fld := ⟨7, 0, .rc⟩
def HUB_FEI_CRED_avail : Fld := ⟨27, 16, .ro⟩
def HUB_FEI_CRED_depth : Fld := ⟨11, 0, .ro⟩
def HUB_TST_CTL_tx_en : Fld := ⟨31, 31, .rw⟩
def HUB_TST_CTL_rx_en : Fld := ⟨30, 30, .rw⟩
def HUB_TST_CTL_pattern : Fld := ⟨29, 28, .rw⟩
def HUB_TST_CTL_invert : Fld := ⟨27, 27, .rw⟩
def HUB_TST_CTL_rate : Fld := ⟨26, 24, .rw⟩
def HUB_TST_CTL_lane_sel : Fld := ⟨6, 0, .rw⟩
def HUB_TST_STAT_running : Fld := ⟨31, 31, .ro⟩
def HUB_TST_STAT_locked : Fld := ⟨30, 30, .ro⟩
def HUB_TST_STAT_abort : Fld := ⟨29, 29, .w1c⟩
def HUB_TST_STAT_relocks : Fld := ⟨23, 16, .rc⟩
def HUB_TST_ERRMAP_lanes : Fld := ⟨31, 0, .w1c⟩
def HUB_TST_MASK_lane_mask : Fld := ⟨31, 0, .rw⟩
def HUB_TST_ERRCNT_errors : Fld := ⟨31, 0, .ro⟩
def HUB_TST_BITS_LO_bits : Fld := ⟨31, 0, .ro⟩
def HUB_TST_MASK2_lane_mask : Fld := ⟨31, 0, .rw⟩
def HUB_TST_MASK3_lane_mask : Fld := ⟨31, 0, .rw⟩
def HUB_TST_BITS_HI_bits : Fld := ⟨31, 0, .ro⟩
def HUB_DIEMAP_state : Fld := ⟨31, 29, .ro⟩
def HUB_DIEMAP_stepping : Fld := ⟨23, 16, .ro⟩
def HUB_DIEMAP_instance : Fld := ⟨15, 8, .ro⟩
def HUB_DIEMAP_die_type : Fld := ⟨7, 0, .ro⟩
def HUB_PART_CTL_enable : Fld := ⟨31, 31, .rw⟩
def HUB_PART_CTL_busy : Fld := ⟨30, 30, .ro⟩
def HUB_PART_CTL_cfg_err : Fld := ⟨29, 29, .w1c⟩
def HUB_PART_CTL_replay_rec : Fld := ⟨28, 28, .rw⟩
def HUB_PART_CTL_port : Fld := ⟨25, 24, .rw⟩
def HUB_PART_CTL_lat : Fld := ⟨15, 0, .rw⟩
def HUB_PART_CORES_cores : Fld := ⟨31, 0, .rw⟩
def HUB_PART_MEM_ranges : Fld := ⟨31, 0, .rw⟩
def HUB_PART_STRM_n_blk : Fld := ⟨24, 16, .rw⟩
def HUB_PART_STRM_base_blk : Fld := ⟨7, 0, .rw⟩
def HUB_PART_CTR_n_blk : Fld := ⟨24, 16, .rw⟩
def HUB_PART_CTR_base_blk : Fld := ⟨7, 0, .rw⟩
def HUB_PART_RES_power_w : Fld := ⟨31, 16, .rw⟩
def HUB_PART_RES_guests : Fld := ⟨9, 8, .rw⟩
def HUB_PART_RES_trunks : Fld := ⟨7, 0, .rw⟩
def HUB_PART_STAT_streams_on : Fld := ⟨31, 16, .ro⟩
def HUB_PART_STAT_denied : Fld := ⟨7, 0, .rc⟩
def HUB_STRM_SEL_stream : Fld := ⟨15, 0, .rw⟩
def HUB_STRM_CFG_enable : Fld := ⟨31, 31, .rw⟩
def HUB_STRM_CFG_prio : Fld := ⟨25, 24, .rw⟩
def HUB_STRM_CFG_vector : Fld := ⟨23, 13, .rw⟩
def HUB_STRM_CFG_core : Fld := ⟨12, 8, .rw⟩
def HUB_STRM_CFG_abort_poison : Fld := ⟨2, 2, .rw⟩
def HUB_STRM_CFG_stop_on_err : Fld := ⟨1, 1, .rw⟩
def HUB_STRM_LIMIT_limit_us : Fld := ⟨23, 0, .rw⟩
def HUB_STRM_SQ_LO_addr_lo : Fld := ⟨31, 6, .rw⟩
def HUB_STRM_SQ_LO_space : Fld := ⟨5, 5, .rw⟩
def HUB_STRM_SQ_LO_log2_size : Fld := ⟨4, 0, .rw⟩
def HUB_STRM_SQ_HI_addr_hi : Fld := ⟨31, 0, .rw⟩
def HUB_STRM_CQ_LO_addr_lo : Fld := ⟨31, 6, .rw⟩
def HUB_STRM_CQ_LO_space : Fld := ⟨5, 5, .rw⟩
def HUB_STRM_CQ_LO_log2_size : Fld := ⟨4, 0, .rw⟩
def HUB_STRM_CQ_HI_addr_hi : Fld := ⟨31, 0, .rw⟩
def HUB_STRM_SEED_LO_seed : Fld := ⟨31, 0, .rw⟩
def HUB_STRM_SEED_HI_seed : Fld := ⟨31, 0, .rw⟩
def HUB_STRM_STAT_state : Fld := ⟨31, 29, .ro⟩
def HUB_STRM_STAT_last_status : Fld := ⟨23, 16, .ro⟩
def HUB_STRM_STAT_inflight : Fld := ⟨15, 8, .ro⟩
def HUB_STRM_STAT_cq_err : Fld := ⟨5, 5, .w1c⟩
def HUB_STRM_STAT_cfg_err : Fld := ⟨4, 4, .w1c⟩
def HUB_STRM_STAT_lock_held : Fld := ⟨3, 3, .ro⟩
def HUB_STRM_STAT_abort_pend : Fld := ⟨2, 2, .ro⟩
def HUB_STRM_STAT_abort_ovr : Fld := ⟨1, 1, .w1c⟩
def HUB_STRM_STAT_db_err : Fld := ⟨0, 0, .w1c⟩
def HUB_STRM_COMMIT_count : Fld := ⟨31, 0, .ro⟩
def HUB_STRM_FETCH_count : Fld := ⟨31, 0, .ro⟩
def HUB_STRM_TAIL_count : Fld := ⟨31, 0, .ro⟩
def HUB_STRM_CQT_count : Fld := ⟨31, 0, .ro⟩
def HUB_STRM_CQH_count : Fld := ⟨31, 0, .ro⟩
def MGMT_FW_STAT_stage : Fld := ⟨31, 28, .ro⟩
def MGMT_FW_STAT_active : Fld := ⟨27, 27, .ro⟩
def MGMT_FW_STAT_pair : Fld := ⟨26, 25, .ro⟩
def MGMT_FW_STAT_lfw_untested : Fld := ⟨24, 24, .ro⟩
def MGMT_FW_STAT_lfw_incompat : Fld := ⟨23, 23, .ro⟩
def MGMT_FW_STAT_mfw_slot : Fld := ⟨22, 22, .ro⟩
def MGMT_FW_STAT_lfw_slot : Fld := ⟨21, 21, .ro⟩
def MGMT_FW_STAT_fallback : Fld := ⟨20, 20, .w1c⟩
def MGMT_MFW_VER_version : Fld := ⟨31, 0, .ro⟩
def MGMT_MFW_IF_if_level : Fld := ⟨31, 16, .ro⟩
def MGMT_MFW_IF_lfw_if : Fld := ⟨15, 0, .ro⟩
def MGMT_LFW_VER_version : Fld := ⟨31, 0, .ro⟩
def MGMT_RST_CTL_cold : Fld := ⟨31, 31, .wo⟩
def MGMT_RST_CTL_warm : Fld := ⟨30, 30, .wo⟩
def MGMT_RST_CTL_mfw_restart : Fld := ⟨29, 29, .wo⟩
def MGMT_RST_CTL_key : Fld := ⟨15, 0, .wo⟩
def MGMT_RST_CAUSE_cause : Fld := ⟨7, 0, .ro⟩
def MGMT_BOOT_CTL_boot_ms : Fld := ⟨31, 16, .ro⟩
def MGMT_BOOT_CTL_bcb_rej : Fld := ⟨15, 4, .ro⟩
def MGMT_BOOT_CTL_hold : Fld := ⟨0, 0, .rw⟩
def MGMT_PAIR_failovers : Fld := ⟨31, 24, .rc⟩
def MGMT_PAIR_handbacks : Fld := ⟨23, 16, .rc⟩
def MGMT_PAIR_last_cause : Fld := ⟨1, 0, .ro⟩
def MGMT_UPD_STAT_open : Fld := ⟨31, 31, .ro⟩
def MGMT_UPD_STAT_path : Fld := ⟨30, 28, .ro⟩
def MGMT_UPD_STAT_trial : Fld := ⟨27, 27, .ro⟩
def MGMT_CFG_lock : Fld := ⟨31, 31, .w1s⟩
def MGMT_CFG_console_wr : Fld := ⟨4, 4, .rwl⟩
def MGMT_CFG_host_upd : Fld := ⟨3, 0, .rwl⟩
def MGMT_LE_FW_result : Fld := ⟨31, 30, .ro⟩
def MGMT_LE_FW_level : Fld := ⟨15, 0, .ro⟩
def MGMT_MBX_CTL_go : Fld := ⟨31, 31, .wo⟩
def MGMT_MBX_CTL_done : Fld := ⟨30, 30, .w1c⟩
def MGMT_MBX_CTL_status : Fld := ⟨23, 16, .ro⟩
def MGMT_MBX_CTL_length : Fld := ⟨15, 8, .rw⟩
def MGMT_MBX_CTL_code : Fld := ⟨7, 0, .rw⟩
def MGMT_MBX_DATA_data : Fld := ⟨31, 0, .rw⟩
def FLT_CFG_lock : Fld := ⟨31, 31, .w1s⟩
def FLT_CFG_auto_ack : Fld := ⟨2, 0, .rwl⟩
def FLT_STAT_fatal : Fld := ⟨31, 31, .ro⟩
def FLT_STAT_valid : Fld := ⟨30, 27, .ro⟩
def FLT_STAT_ovr : Fld := ⟨26, 23, .ro⟩
def FLT_STAT_pend : Fld := ⟨22, 20, .ro⟩
def FLT_STAT_clr_ref : Fld := ⟨19, 19, .w1c⟩
def FLT_STAT_pldm_ovr : Fld := ⟨18, 18, .w1c⟩
def FLT_STAT_pend_full : Fld := ⟨15, 8, .rc⟩
def FLT_ACK_ack : Fld := ⟨2, 0, .wo⟩
def FLT_CLEAR_clear : Fld := ⟨2, 0, .wo⟩
def FLT_FIRST_IDENT_ident : Fld := ⟨31, 0, .ro⟩
def FLT_FIRST_DETAIL_detail : Fld := ⟨31, 0, .ro⟩
def FLT_FIRST_TIME_LO_time_lo : Fld := ⟨31, 0, .ro⟩
def FLT_FIRST_TIME_HI_time_hi : Fld := ⟨31, 0, .ro⟩
def FLT_COUNT_count : Fld := ⟨31, 0, .rc⟩
def FLT_PEND1_LO_units : Fld := ⟨31, 0, .ro⟩
def FLT_PEND1_MID_units : Fld := ⟨31, 0, .ro⟩
def FLT_PEND1_HI_unit64 : Fld := ⟨0, 0, .ro⟩
def FLT_PEND2_parts : Fld := ⟨15, 0, .ro⟩
def FLT_ALIVE_running : Fld := ⟨31, 31, .ro⟩
def FLT_ALIVE_kick : Fld := ⟨30, 30, .wo⟩
def FLT_STORE_wraps : Fld := ⟨31, 16, .ro⟩
def FLT_STORE_next : Fld := ⟨11, 0, .ro⟩
def FLT_PART_CTL_ack : Fld := ⟨31, 31, .wo⟩
def FLT_PART_CTL_clear : Fld := ⟨30, 30, .wo⟩
def FLT_PART_CTL_c0_irq : Fld := ⟨29, 29, .rw⟩
def FLT_PART_CTL_irq_en : Fld := ⟨28, 28, .rw⟩
def FLT_PART_CTL_vector : Fld := ⟨10, 0, .rw⟩
def FLT_PART_STAT_fatal : Fld := ⟨31, 31, .ro⟩
def FLT_PART_STAT_pend : Fld := ⟨30, 30, .ro⟩
def FLT_PART_STAT_last : Fld := ⟨29, 28, .ro⟩
def FLT_PART_STAT_count : Fld := ⟨15, 0, .ro⟩
def FLT_PART_REC_ident : Fld := ⟨31, 0, .ro⟩
def FLT_PART_DET_detail : Fld := ⟨31, 0, .ro⟩
def THM_PKG_LIMIT_lock : Fld := ⟨31, 31, .w1s⟩
def THM_PKG_LIMIT_limit_w : Fld := ⟨28, 16, .rwl⟩
def THM_PKG_LIMIT_iin_a : Fld := ⟨15, 8, .rwl⟩
def THM_PKG_STAT_p_in_w : Fld := ⟨31, 16, .ro⟩
def THM_PKG_STAT_n_pkg : Fld := ⟨15, 10, .ro⟩
def THM_PKG_STAT_duty : Fld := ⟨9, 9, .ro⟩
def THM_PKG_STAT_hard : Fld := ⟨8, 8, .ro⟩
def THM_SILICON_wf_n : Fld := ⟨15, 0, .ro⟩
def THM_IDLE_sleep_us : Fld := ⟨31, 16, .rwl⟩
def THM_IDLE_gate_ns : Fld := ⟨15, 0, .rwl⟩
def THM_TH_CFG_tlim : Fld := ⟨31, 24, .rwl⟩
def THM_TH_CFG_ror_dt : Fld := ⟨23, 16, .rwl⟩
def THM_TH_CFG_ror_win : Fld := ⟨15, 8, .rwl⟩
def THM_TH_CFG_xchk : Fld := ⟨7, 0, .rwl⟩
def THM_TRIP_clear : Fld := ⟨31, 31, .wo⟩
def THM_TRIP_tripped : Fld := ⟨30, 30, .ro⟩
def THM_TRIP_slot : Fld := ⟨9, 0, .ro⟩
def THM_HK_CTL_trig : Fld := ⟨31, 31, .wo⟩
def THM_HK_CTL_sync : Fld := ⟨30, 30, .wo⟩
def THM_HK_CTL_slot : Fld := ⟨9, 0, .rw⟩
def THM_HK_RES_valid : Fld := ⟨31, 31, .ro⟩
def THM_HK_RES_trig_ovr : Fld := ⟨30, 30, .w1c⟩
def THM_HK_RES_busy : Fld := ⟨29, 29, .ro⟩
def THM_HK_RES_pending : Fld := ⟨28, 28, .ro⟩
def THM_HK_RES_slot : Fld := ⟨25, 16, .ro⟩
def THM_HK_RES_value : Fld := ⟨15, 0, .ro⟩
def THM_HK_STAT_broken : Fld := ⟨31, 24, .ro⟩
def THM_HK_STAT_rounds : Fld := ⟨23, 0, .ro⟩
def THM_TB_CFG_present : Fld := ⟨31, 31, .ro⟩
def THM_TB_CFG_holdover : Fld := ⟨30, 30, .ro⟩
def THM_TB_CFG_freq : Fld := ⟨0, 0, .rwl⟩
def THM_TB_LO_time : Fld := ⟨31, 0, .ro⟩
def THM_TB_HI_time : Fld := ⟨31, 0, .ro⟩
def THM_TB_SET_LO_time : Fld := ⟨31, 0, .rw⟩
def THM_TB_SET_HI_time : Fld := ⟨31, 0, .rw⟩
def THM_TB_CTL_set : Fld := ⟨31, 31, .wo⟩
def THM_PART_PERF_v_req : Fld := ⟨9, 0, .rw⟩
def THM_PART_STAT_p_w : Fld := ⟨31, 16, .ro⟩
def THM_PART_STAT_n : Fld := ⟨15, 10, .ro⟩
def THM_PART_STAT_duty : Fld := ⟨9, 9, .ro⟩
def THM_CORE_pstate : Fld := ⟨31, 29, .ro⟩
def THM_CORE_dband : Fld := ⟨28, 26, .ro⟩
def THM_CORE_hard : Fld := ⟨25, 25, .ro⟩
def THM_CORE_v_mv : Fld := ⟨9, 0, .ro⟩
def THM_HK_CH_broken : Fld := ⟨22, 22, .ro⟩
def THM_HK_CH_settling : Fld := ⟨21, 21, .ro⟩
def THM_HK_CH_valid : Fld := ⟨20, 20, .ro⟩
def THM_HK_CH_kind : Fld := ⟨19, 16, .ro⟩
def THM_HK_CH_value : Fld := ⟨15, 0, .ro⟩
def HOST_PORT_CTL_lock : Fld := ⟨31, 31, .w1s⟩
def HOST_PORT_CTL_max_gen : Fld := ⟨7, 6, .rwl⟩
def HOST_PORT_CTL_cxl_mem : Fld := ⟨5, 5, .rwl⟩
def HOST_PORT_CTL_cxl_cache : Fld := ⟨4, 4, .rwl⟩
def HOST_PORT_CTL_cxl_en : Fld := ⟨3, 3, .rwl⟩
def HOST_PORT_CTL_enable : Fld := ⟨0, 0, .rwl⟩
def HOST_PORT_STAT_up : Fld := ⟨31, 31, .ro⟩
def HOST_PORT_STAT_rate : Fld := ⟨30, 28, .ro⟩
def HOST_PORT_STAT_width : Fld := ⟨27, 23, .ro⟩
def HOST_PORT_STAT_flit : Fld := ⟨22, 22, .ro⟩
def HOST_PORT_STAT_cxl : Fld := ⟨21, 20, .ro⟩
def HOST_PORT_STAT_slow : Fld := ⟨19, 19, .ro⟩
def HOST_PORT_STAT_agent : Fld := ⟨18, 18, .ro⟩
def HOST_PORT_STAT_dstate : Fld := ⟨17, 16, .ro⟩
def HOST_PORT_STAT_downs : Fld := ⟨15, 8, .rc⟩
def HOST_APER_base_64g : Fld := ⟨15, 0, .rw⟩
def HOST_PORT_ID_device : Fld := ⟨31, 16, .ro⟩
def HOST_PORT_ID_vendor : Fld := ⟨15, 0, .ro⟩
def HOST_TRK_evict : Fld := ⟨31, 16, .rc⟩
def HOST_TRK_used : Fld := ⟨15, 0, .ro⟩
def HOST_TST_CTL_tx_en : Fld := ⟨31, 31, .rw⟩
def HOST_TST_CTL_rx_en : Fld := ⟨30, 30, .rw⟩
def HOST_TST_CTL_pattern : Fld := ⟨29, 28, .rw⟩
def HOST_TST_CTL_invert : Fld := ⟨27, 27, .rw⟩
def HOST_TST_CTL_rate : Fld := ⟨26, 24, .rw⟩
def HOST_TST_CTL_lane_sel : Fld := ⟨6, 0, .rw⟩
def HOST_TST_STAT_running : Fld := ⟨31, 31, .ro⟩
def HOST_TST_STAT_locked : Fld := ⟨30, 30, .ro⟩
def HOST_TST_STAT_abort : Fld := ⟨29, 29, .w1c⟩
def HOST_TST_STAT_relocks : Fld := ⟨23, 16, .rc⟩
def HOST_TST_ERRMAP_lanes : Fld := ⟨31, 0, .w1c⟩
def HOST_TST_MASK_lane_mask : Fld := ⟨31, 0, .rw⟩
def HOST_TST_ERRCNT_errors : Fld := ⟨31, 0, .ro⟩
def HOST_TST_BITS_LO_bits : Fld := ⟨31, 0, .ro⟩
def HOST_TST_MASK2_lane_mask : Fld := ⟨31, 0, .rw⟩
def HOST_TST_MASK3_lane_mask : Fld := ⟨31, 0, .rw⟩
def HOST_TST_BITS_HI_bits : Fld := ⟨31, 0, .ro⟩
def HOST_SB_CFG_lock : Fld := ⟨31, 31, .w1s⟩
def HOST_SB_CFG_baud : Fld := ⟨17, 16, .rwl⟩
def HOST_SB_CFG_i3c : Fld := ⟨15, 15, .ro⟩
def HOST_SB_CFG_sa : Fld := ⟨14, 8, .rwl⟩
def HOST_SB_CFG_eid : Fld := ⟨7, 0, .ro⟩
def PRV_CTL_lock : Fld := ⟨31, 31, .w1s⟩
def PRV_CTL_kill : Fld := ⟨30, 30, .w1s⟩
def PRV_CTL_release : Fld := ⟨29, 29, .w1s⟩
def PRV_CTL_class_allow : Fld := ⟨9, 0, .rwl⟩
def PRV_STAT_state : Fld := ⟨31, 29, .ro⟩
def PRV_STAT_part : Fld := ⟨23, 20, .ro⟩
def PRV_STAT_kill_reason : Fld := ⟨19, 16, .ro⟩
def PRV_PROF_word : Fld := ⟨31, 0, .ro⟩
def PRV_LIMIT_word : Fld := ⟨31, 0, .rwl⟩
def PRV_RATE_burst : Fld := ⟨31, 16, .rw⟩
def PRV_RATE_rate : Fld := ⟨15, 0, .rw⟩
def PRV_INT_count : Fld := ⟨26, 16, .rwl⟩
def PRV_INT_base : Fld := ⟨10, 0, .rwl⟩
def PRV_COMMIT_commit : Fld := ⟨31, 31, .wo⟩
def PRV_COMMIT_busy : Fld := ⟨30, 30, .ro⟩
def PRV_COMMIT_generation : Fld := ⟨15, 0, .ro⟩
def PRV_DENY_denied : Fld := ⟨31, 16, .rc⟩
def PRV_DENY_unmatched : Fld := ⟨15, 0, .rc⟩
def PRV_DENY_LOG_LO_addr_lo : Fld := ⟨31, 0, .ro⟩
def PRV_DENY_LOG_HI_valid : Fld := ⟨31, 31, .w1c⟩
def PRV_DENY_LOG_HI_check : Fld := ⟨30, 28, .ro⟩
def PRV_DENY_LOG_HI_class : Fld := ⟨27, 24, .ro⟩
def PRV_DENY_LOG_HI_addr_hi : Fld := ⟨19, 0, .ro⟩
def PRV_RULE_word : Fld := ⟨31, 0, .rw⟩
def PRV_RULE_ACT_word : Fld := ⟨31, 0, .ro⟩
def DBG_CFG_lock : Fld := ⟨31, 31, .w1s⟩
def DBG_CFG_mc_halt_en : Fld := ⟨30, 30, .rwl⟩
def DBG_CFG_jtag_wr : Fld := ⟨29, 29, .rwl⟩
def DBG_CFG_mc_halt_ms : Fld := ⟨23, 16, .rwl⟩
def DBG_CFG_defer_us : Fld := ⟨7, 0, .rwl⟩
def DBG_QADDR_addr : Fld := ⟨25, 2, .rw⟩
def DBG_QDATA_data : Fld := ⟨31, 0, .ro⟩
def DBG_HALT_CTL_halt : Fld := ⟨31, 31, .wo⟩
def DBG_HALT_CTL_resume : Fld := ⟨30, 30, .wo⟩
def DBG_HALT_CTL_step : Fld := ⟨29, 29, .wo⟩
def DBG_HALT_CTL_force : Fld := ⟨28, 28, .wo⟩
def DBG_HALT_CTL_stream : Fld := ⟨15, 0, .rw⟩
def DBG_HALT_STAT_state : Fld := ⟨31, 30, .ro⟩
def DBG_HALT_STAT_lock_held : Fld := ⟨29, 29, .ro⟩
def DBG_MC_HALT_halted : Fld := ⟨31, 31, .ro⟩
def DBG_MC_HALT_deferred : Fld := ⟨30, 30, .ro⟩
def DBG_MC_HALT_forced : Fld := ⟨15, 8, .rc⟩
def DBG_MC_HALT_halts : Fld := ⟨7, 0, .rc⟩
def DBG_DUMP_AREA_BASE_LO_base_lo : Fld := ⟨31, 6, .rw⟩
def DBG_DUMP_AREA_BASE_HI_base_hi : Fld := ⟨19, 0, .rw⟩
def DBG_DUMP_AREA_SIZE_size : Fld := ⟨31, 0, .rw⟩
def DBG_DUMP_ARM_NAME_name : Fld := ⟨31, 0, .rw⟩
def DBG_DUMP_ARM_STEP_step : Fld := ⟨31, 0, .rw⟩
def DBG_DUMP_ARM_CTL_en : Fld := ⟨31, 31, .rw⟩
def DBG_DUMP_ARM_CTL_any_step : Fld := ⟨30, 30, .rw⟩
def DBG_DUMP_ARM_CTL_once : Fld := ⟨29, 29, .rw⟩
def DBG_DUMP_ARM_CTL_hits : Fld := ⟨15, 0, .ro⟩
def DBG_SNAP_take : Fld := ⟨31, 31, .wo⟩
def DBG_SNAP_gen : Fld := ⟨15, 0, .ro⟩
def DBG_SNAP_TIME_time : Fld := ⟨31, 0, .ro⟩
def DBG_SNAP_BUSY_busy : Fld := ⟨31, 0, .ro⟩
def DBG_SNAP_STALL_stall : Fld := ⟨31, 0, .ro⟩
def DBG_SNAP_IDLE_idle : Fld := ⟨31, 0, .ro⟩
def DBG_SNAP_REASON_reason : Fld := ⟨31, 0, .ro⟩
def DBG_SNAP_DONE_done : Fld := ⟨31, 0, .ro⟩
def PKM_CACHE_CFG_lock : Fld := ⟨31, 31, .w1s⟩
def PKM_CACHE_CFG_remote_ways : Fld := ⟨8, 4, .rwl⟩
def PKM_CACHE_CFG_fenced : Fld := ⟨1, 1, .ro⟩
def PKM_CACHE_CFG_enable : Fld := ⟨0, 0, .rwl⟩
def PKM_DIR_STAT_inflight : Fld := ⟨26, 16, .ro⟩
def PKM_DIR_STAT_dir_evict : Fld := ⟨15, 0, .rc⟩
def PKM_XSTAT_snp_evicting : Fld := ⟨31, 16, .rc⟩
def PKM_XSTAT_stale_wb : Fld := ⟨15, 0, .rc⟩
def PKM_AGENT_LOST_lost : Fld := ⟨11, 0, .w1c⟩
def PKM_CACHE_WAYS_ways : Fld := ⟨15, 0, .rwl⟩
def PKM_HBM_STAT_fenced : Fld := ⟨31, 31, .ro⟩
def PKM_HBM_STAT_band : Fld := ⟨27, 26, .ro⟩
def PKM_HBM_STAT_rowloss : Fld := ⟨22, 16, .ro⟩
def PKM_HBM_ECC_erased : Fld := ⟨31, 16, .rc⟩
def PKM_HBM_ECC_corrected : Fld := ⟨15, 0, .rc⟩
def PKM_HBM_UE_LO_saddr_lo : Fld := ⟨31, 0, .ro⟩
def PKM_HBM_UE_HI_valid : Fld := ⟨31, 31, .w1c⟩
def PKM_HBM_UE_HI_stack : Fld := ⟨27, 26, .ro⟩
def PKM_HBM_UE_HI_saddr_hi : Fld := ⟨3, 0, .ro⟩
def PKM_SCRUB_enable : Fld := ⟨31, 31, .rw⟩
def PKM_SCRUB_period_h : Fld := ⟨7, 0, .rw⟩
def PKM_CACHE_ECC_uncorrected : Fld := ⟨31, 16, .rc⟩
def PKM_CACHE_ECC_corrected : Fld := ⟨15, 0, .rc⟩
def BASE_FEI_CTL_lock : Fld := ⟨31, 31, .w1s⟩
def BASE_FEI_CTL_retrain : Fld := ⟨30, 30, .wo⟩
def BASE_FEI_CTL_rx_raw : Fld := ⟨11, 8, .rwl⟩
def BASE_FEI_CTL_tx_raw : Fld := ⟨7, 4, .rwl⟩
def BASE_FEI_CTL_enable : Fld := ⟨0, 0, .rwl⟩
def BASE_FEI_STAT_state : Fld := ⟨31, 29, .ro⟩
def BASE_FEI_STAT_lead : Fld := ⟨28, 28, .ro⟩
def BASE_FEI_STAT_role_mis : Fld := ⟨27, 27, .w1c⟩
def BASE_FEI_STAT_attempts : Fld := ⟨26, 24, .ro⟩
def BASE_FEI_STAT_gen : Fld := ⟨23, 16, .ro⟩
def BASE_FEI_STAT_peer : Fld := ⟨15, 8, .ro⟩
def BASE_FEI_STAT_rx_excl : Fld := ⟨5, 3, .ro⟩
def BASE_FEI_STAT_tx_excl : Fld := ⟨2, 0, .ro⟩
def BASE_FEI_TXMAP_excl3 : Fld := ⟨31, 24, .ro⟩
def BASE_FEI_TXMAP_excl2 : Fld := ⟨23, 16, .ro⟩
def BASE_FEI_TXMAP_excl1 : Fld := ⟨15, 8, .ro⟩
def BASE_FEI_TXMAP_excl0 : Fld := ⟨7, 0, .ro⟩
def BASE_FEI_RXMAP_excl3 : Fld := ⟨31, 24, .ro⟩
def BASE_FEI_RXMAP_excl2 : Fld := ⟨23, 16, .ro⟩
def BASE_FEI_RXMAP_excl1 : Fld := ⟨15, 8, .ro⟩
def BASE_FEI_RXMAP_excl0 : Fld := ⟨7, 0, .ro⟩
def BASE_FEI_FUSE_excl3 : Fld := ⟨31, 24, .ro⟩
def BASE_FEI_FUSE_excl2 : Fld := ⟨23, 16, .ro⟩
def BASE_FEI_FUSE_excl1 : Fld := ⟨15, 8, .ro⟩
def BASE_FEI_FUSE_excl0 : Fld := ⟨7, 0, .ro⟩
def BASE_FEI_ERR_crc_err : Fld := ⟨31, 16, .rc⟩
def BASE_FEI_ERR_replays : Fld := ⟨15, 4, .rc⟩
def BASE_FEI_ERR_malformed : Fld := ⟨3, 0, .rc⟩
def BASE_FEI_SWAP_retrains : Fld := ⟨15, 8, .rc⟩
def BASE_FEI_SWAP_swaps : Fld := ⟨7, 0, .rc⟩
def BASE_FEI_CRED_avail : Fld := ⟨27, 16, .ro⟩
def BASE_FEI_CRED_depth : Fld := ⟨11, 0, .ro⟩
def BASE_TST_CTL_tx_en : Fld := ⟨31, 31, .rw⟩
def BASE_TST_CTL_rx_en : Fld := ⟨30, 30, .rw⟩
def BASE_TST_CTL_pattern : Fld := ⟨29, 28, .rw⟩
def BASE_TST_CTL_invert : Fld := ⟨27, 27, .rw⟩
def BASE_TST_CTL_rate : Fld := ⟨26, 24, .rw⟩
def BASE_TST_CTL_lane_sel : Fld := ⟨6, 0, .rw⟩
def BASE_TST_STAT_running : Fld := ⟨31, 31, .ro⟩
def BASE_TST_STAT_locked : Fld := ⟨30, 30, .ro⟩
def BASE_TST_STAT_abort : Fld := ⟨29, 29, .w1c⟩
def BASE_TST_STAT_relocks : Fld := ⟨23, 16, .rc⟩
def BASE_TST_ERRMAP_lanes : Fld := ⟨31, 0, .w1c⟩
def BASE_TST_MASK_lane_mask : Fld := ⟨31, 0, .rw⟩
def BASE_TST_ERRCNT_errors : Fld := ⟨31, 0, .ro⟩
def BASE_TST_BITS_LO_bits : Fld := ⟨31, 0, .ro⟩
def BASE_TST_MASK2_lane_mask : Fld := ⟨31, 0, .rw⟩
def BASE_TST_MASK3_lane_mask : Fld := ⟨31, 0, .rw⟩
def BASE_TST_BITS_HI_bits : Fld := ⟨31, 0, .ro⟩
def SCHED_STAT_streams : Fld := ⟨31, 16, .ro⟩
def SCHED_STAT_held : Fld := ⟨12, 0, .ro⟩
def CMEM_CFG_lock : Fld := ⟨31, 31, .w1s⟩
def CMEM_CFG_map : Fld := ⟨0, 0, .rwl⟩
def CMEM_IDLE_steps : Fld := ⟨23, 0, .rw⟩
def CMEM_MARCH_CTL_go : Fld := ⟨31, 31, .wo⟩
def CMEM_MARCH_CTL_kind : Fld := ⟨7, 6, .wo⟩
def CMEM_MARCH_CTL_bank : Fld := ⟨5, 0, .wo⟩
def CMEM_MARCH_STAT_busy : Fld := ⟨31, 31, .ro⟩
def CMEM_MARCH_STAT_done : Fld := ⟨30, 30, .w1c⟩
def CMEM_MARCH_STAT_result : Fld := ⟨29, 28, .ro⟩
def CMEM_MARCH_STAT_reason : Fld := ⟨27, 25, .ro⟩
def CMEM_MARCH_STAT_bank : Fld := ⟨24, 19, .ro⟩
def CMEM_MARCH_STAT_element : Fld := ⟨18, 16, .ro⟩
def CMEM_MARCH_STAT_row : Fld := ⟨12, 0, .ro⟩
def CMEM_MARCH_CNT_poisoned : Fld := ⟨31, 16, .ro⟩
def CMEM_MARCH_CNT_fail_words : Fld := ⟨15, 0, .ro⟩
def CMEM_SCRUB_enable : Fld := ⟨31, 31, .rw⟩
def CMEM_SCRUB_period_ms : Fld := ⟨15, 0, .rw⟩
def CMEM_ECC_uncorrected : Fld := ⟨31, 16, .rc⟩
def CMEM_ECC_corrected : Fld := ⟨15, 0, .rc⟩
def CMEM_MBX_STAT_busy_a : Fld := ⟨31, 31, .w1c⟩
def CMEM_MBX_STAT_busy_b : Fld := ⟨30, 30, .w1c⟩
def CMEM_MBX_STAT_collisions : Fld := ⟨15, 0, .rc⟩
def CMEM_BANK_march : Fld := ⟨31, 31, .ro⟩
def CMEM_BANK_state : Fld := ⟨18, 16, .ro⟩
def CMEM_BANK_mode : Fld := ⟨2, 0, .rw⟩
def MXE_CFG_lock : Fld := ⟨31, 31, .w1s⟩
def MXE_CFG_os_allow : Fld := ⟨2, 2, .rwl⟩
def MXE_CFG_prefetch : Fld := ⟨1, 1, .rwl⟩
def MXE_CFG_enable : Fld := ⟨0, 0, .rwl⟩
def MXE_STAT_stream : Fld := ⟨31, 16, .ro⟩
def MXE_STAT_draining : Fld := ⟨3, 3, .ro⟩
def MXE_STAT_loading : Fld := ⟨2, 2, .ro⟩
def MXE_STAT_staged : Fld := ⟨1, 1, .ro⟩
def MXE_STAT_active : Fld := ⟨0, 0, .ro⟩
def MXE_RATE_wf_per_us : Fld := ⟨15, 0, .ro⟩
def MXE_REJ_valid : Fld := ⟨31, 31, .w1c⟩
def MXE_REJ_code : Fld := ⟨23, 16, .ro⟩
def MXE_REJ_stream : Fld := ⟨15, 0, .ro⟩
def MXE_ECC_corrected : Fld := ⟨15, 0, .rc⟩
def MXE_ROW_STATE_state : Fld := ⟨31, 30, .ro⟩
def MXE_ROW_STATE_w : Fld := ⟨15, 0, .ro⟩
def VXE_CFG_lock : Fld := ⟨31, 31, .w1s⟩
def VXE_CFG_follow_allow : Fld := ⟨1, 1, .rwl⟩
def VXE_CFG_enable : Fld := ⟨0, 0, .rwl⟩
def VXE_STAT_stream : Fld := ⟨31, 16, .ro⟩
def VXE_STAT_staged : Fld := ⟨1, 1, .ro⟩
def VXE_STAT_active : Fld := ⟨0, 0, .ro⟩
def VXE_REJ_valid : Fld := ⟨31, 31, .w1c⟩
def VXE_REJ_code : Fld := ⟨23, 16, .ro⟩
def VXE_REJ_stream : Fld := ⟨15, 0, .ro⟩
def SFE_CFG_lock : Fld := ⟨31, 31, .w1s⟩
def SFE_CFG_follow_allow : Fld := ⟨1, 1, .rwl⟩
def SFE_CFG_enable : Fld := ⟨0, 0, .rwl⟩
def SFE_STAT_stream : Fld := ⟨31, 16, .ro⟩
def SFE_STAT_staged : Fld := ⟨1, 1, .ro⟩
def SFE_STAT_active : Fld := ⟨0, 0, .ro⟩
def SFE_REJ_valid : Fld := ⟨31, 31, .w1c⟩
def SFE_REJ_code : Fld := ⟨23, 16, .ro⟩
def SFE_REJ_stream : Fld := ⟨15, 0, .ro⟩
def TOP_CFG_lock : Fld := ⟨31, 31, .w1s⟩
def TOP_CFG_follow_allow : Fld := ⟨1, 1, .rwl⟩
def TOP_CFG_enable : Fld := ⟨0, 0, .rwl⟩
def TOP_STAT_stream : Fld := ⟨31, 16, .ro⟩
def TOP_STAT_staged : Fld := ⟨1, 1, .ro⟩
def TOP_STAT_active : Fld := ⟨0, 0, .ro⟩
def TOP_REJ_valid : Fld := ⟨31, 31, .w1c⟩
def TOP_REJ_code : Fld := ⟨23, 16, .ro⟩
def TOP_REJ_stream : Fld := ⟨15, 0, .ro⟩
def GDE_CFG_lock : Fld := ⟨31, 31, .w1s⟩
def GDE_CFG_enable : Fld := ⟨0, 0, .rwl⟩
def GDE_STAT_stream : Fld := ⟨31, 16, .ro⟩
def GDE_STAT_staged : Fld := ⟨1, 1, .ro⟩
def GDE_STAT_active : Fld := ⟨0, 0, .ro⟩
def GDE_REJ_valid : Fld := ⟨31, 31, .w1c⟩
def GDE_REJ_code : Fld := ⟨23, 16, .ro⟩
def GDE_REJ_stream : Fld := ⟨15, 0, .ro⟩
def GDE_RXREJ_last_win : Fld := ⟨23, 20, .ro⟩
def GDE_RXREJ_last_reason : Fld := ⟨19, 16, .ro⟩
def GDE_RXREJ_refused : Fld := ⟨15, 0, .rc⟩
def GDE_RXWIN_CTL_armed : Fld := ⟨31, 31, .rw⟩
def GDE_RXWIN_CTL_kind : Fld := ⟨30, 30, .rw⟩
def GDE_RXWIN_CTL_epoch : Fld := ⟨23, 16, .rw⟩
def GDE_RXWIN_CTL_counter : Fld := ⟨15, 0, .rw⟩
def GDE_RXWIN_BASE_row_units : Fld := ⟨29, 20, .rw⟩
def GDE_RXWIN_BASE_row_base : Fld := ⟨19, 0, .rw⟩
def GDE_RXWIN_SHAPE_num_src : Fld := ⟨31, 16, .rw⟩
def GDE_RXWIN_SHAPE_cap : Fld := ⟨15, 0, .rw⟩
def GDE_RXWIN_AUX_aux_base : Fld := ⟨19, 0, .rw⟩
def CPE_CFG_lock : Fld := ⟨31, 31, .w1s⟩
def CPE_CFG_enable : Fld := ⟨0, 0, .rwl⟩
def CPE_STAT_stream : Fld := ⟨31, 16, .ro⟩
def CPE_STAT_staged : Fld := ⟨1, 1, .ro⟩
def CPE_STAT_active : Fld := ⟨0, 0, .ro⟩
def CPE_REJ_valid : Fld := ⟨31, 31, .w1c⟩
def CPE_REJ_code : Fld := ⟨23, 16, .ro⟩
def CPE_REJ_stream : Fld := ⟨15, 0, .ro⟩
def DME_CFG_lock : Fld := ⟨31, 31, .w1s⟩
def DME_CFG_enable : Fld := ⟨0, 0, .rwl⟩
def DME_STAT_stream : Fld := ⟨31, 16, .ro⟩
def DME_STAT_staged : Fld := ⟨1, 1, .ro⟩
def DME_STAT_active : Fld := ⟨0, 0, .ro⟩
def DME_REJ_valid : Fld := ⟨31, 31, .w1c⟩
def DME_REJ_code : Fld := ⟨23, 16, .ro⟩
def DME_REJ_stream : Fld := ⟨15, 0, .ro⟩
def RNG_CFG_lock : Fld := ⟨31, 31, .w1s⟩
def RNG_CFG_enable : Fld := ⟨0, 0, .rwl⟩
def RNG_STAT_stream : Fld := ⟨31, 16, .ro⟩
def RNG_STAT_staged : Fld := ⟨1, 1, .ro⟩
def RNG_STAT_active : Fld := ⟨0, 0, .ro⟩
def RNG_REJ_valid : Fld := ⟨31, 31, .w1c⟩
def RNG_REJ_code : Fld := ⟨23, 16, .ro⟩
def RNG_REJ_stream : Fld := ⟨15, 0, .ro⟩
def CORE_TRC_CTL_enable : Fld := ⟨31, 31, .rw⟩
def CORE_TRC_CTL_share : Fld := ⟨20, 16, .rw⟩
def CORE_TRC_CTL_mask : Fld := ⟨15, 0, .rw⟩
def CORE_TRC_RING_LO_addr_lo : Fld := ⟨31, 12, .rw⟩
def CORE_TRC_RING_LO_log2_size : Fld := ⟨4, 0, .rw⟩
def CORE_TRC_RING_HI_addr_hi : Fld := ⟨19, 0, .rw⟩
def CORE_TRC_WPTR_count : Fld := ⟨31, 0, .ro⟩
def CORE_TRC_RPTR_count : Fld := ⟨31, 0, .rw⟩
def CORE_TRC_STAT_state : Fld := ⟨31, 30, .ro⟩
def CORE_TRC_STAT_cfg_err : Fld := ⟨29, 29, .w1c⟩
def CORE_TRC_STAT_lost : Fld := ⟨23, 0, .rc⟩
def LE_CTL_lock : Fld := ⟨31, 31, .w1s⟩
def LE_CTL_xt_en : Fld := ⟨2, 2, .rwl⟩
def LE_CTL_age_en : Fld := ⟨1, 1, .rwl⟩
def LE_CTL_enable : Fld := ⟨0, 0, .rwl⟩
def LE_STAT_state : Fld := ⟨31, 29, .ro⟩
def LE_STAT_conn : Fld := ⟨28, 28, .ro⟩
def LE_STAT_profile : Fld := ⟨27, 27, .ro⟩
def LE_STAT_fibres_in : Fld := ⟨23, 16, .ro⟩
def LE_STAT_gapped_rx : Fld := ⟨15, 8, .ro⟩
def LE_STAT_gapped_tx : Fld := ⟨7, 0, .ro⟩
def LE_XT_COMMIT_commit : Fld := ⟨31, 31, .wo⟩
def LE_XT_COMMIT_busy : Fld := ⟨30, 30, .ro⟩
def LE_XT_COMMIT_err : Fld := ⟨29, 29, .w1c⟩
def LE_XT_COMMIT_err_entry : Fld := ⟨28, 26, .ro⟩
def LE_XT_COMMIT_err_heater : Fld := ⟨25, 17, .ro⟩
def LE_XT_COMMIT_generation : Fld := ⟨15, 0, .ro⟩
def LE_LASER_state : Fld := ⟨31, 29, .ro⟩
def LE_LASER_slot : Fld := ⟨28, 24, .ro⟩
def LE_LASER_bias : Fld := ⟨23, 12, .ro⟩
def LE_LASER_age : Fld := ⟨11, 0, .ro⟩
def LE_AGE_CFG_ceiling : Fld := ⟨31, 20, .rwl⟩
def LE_AGE_CFG_step : Fld := ⟨19, 16, .rwl⟩
def LE_AGE_CFG_target : Fld := ⟨15, 8, .rwl⟩
def LE_AGE_CFG_period_min : Fld := ⟨7, 0, .rwl⟩
def LE_FIBRE_state : Fld := ⟨31, 29, .ro⟩
def LE_FIBRE_rx_gap : Fld := ⟨28, 28, .ro⟩
def LE_FIBRE_tx_gap : Fld := ⟨27, 27, .ro⟩
def LE_FIBRE_margin_min : Fld := ⟨23, 16, .ro⟩
def LE_FIBRE_span_loss : Fld := ⟨15, 8, .ro⟩
def LE_FIBRE_loss_seg : Fld := ⟨7, 4, .ro⟩
def LE_RING_CTL_channel : Fld := ⟨20, 16, .ro⟩
def LE_RING_CTL_heater_code : Fld := ⟨15, 0, .rw⟩
def LE_RING_STAT_xt_clamp : Fld := ⟨31, 31, .ro⟩
def LE_RING_STAT_drive : Fld := ⟨15, 0, .ro⟩
def LE_MON_LM_valid : Fld := ⟨18, 18, .ro⟩
def LE_MON_LM_settling : Fld := ⟨17, 17, .ro⟩
def LE_MON_LM_stale : Fld := ⟨16, 16, .ro⟩
def LE_MON_LM_power : Fld := ⟨15, 0, .ro⟩
def LE_MON_SM_valid : Fld := ⟨18, 18, .ro⟩
def LE_MON_SM_settling : Fld := ⟨17, 17, .ro⟩
def LE_MON_SM_stale : Fld := ⟨16, 16, .ro⟩
def LE_MON_SM_power : Fld := ⟨15, 0, .ro⟩
def LE_MON_MM_valid : Fld := ⟨18, 18, .ro⟩
def LE_MON_MM_settling : Fld := ⟨17, 17, .ro⟩
def LE_MON_MM_stale : Fld := ⟨16, 16, .ro⟩
def LE_MON_MM_power : Fld := ⟨15, 0, .ro⟩
def LE_MON_CM_valid : Fld := ⟨18, 18, .ro⟩
def LE_MON_CM_settling : Fld := ⟨17, 17, .ro⟩
def LE_MON_CM_stale : Fld := ⟨16, 16, .ro⟩
def LE_MON_CM_power : Fld := ⟨15, 0, .ro⟩
def LE_MON_DM_valid : Fld := ⟨18, 18, .ro⟩
def LE_MON_DM_settling : Fld := ⟨17, 17, .ro⟩
def LE_MON_DM_stale : Fld := ⟨16, 16, .ro⟩
def LE_MON_DM_power : Fld := ⟨15, 0, .ro⟩
def LE_XT_coeff : Fld := ⟨31, 16, .rw⟩
def LE_XT_valid : Fld := ⟨7, 7, .rw⟩
def LE_XT_off : Fld := ⟨6, 0, .rw⟩
def LE_XT_ACT_coeff : Fld := ⟨31, 16, .ro⟩
def LE_XT_ACT_valid : Fld := ⟨7, 7, .ro⟩
def LE_XT_ACT_off : Fld := ⟨6, 0, .ro⟩
def LE_GAP_CUR_patch_7 : Fld := ⟨31, 31, .ro⟩
def LE_GAP_CUR_input_7 : Fld := ⟨30, 28, .ro⟩
def LE_GAP_CUR_patch_6 : Fld := ⟨27, 27, .ro⟩
def LE_GAP_CUR_input_6 : Fld := ⟨26, 24, .ro⟩
def LE_GAP_CUR_patch_5 : Fld := ⟨23, 23, .ro⟩
def LE_GAP_CUR_input_5 : Fld := ⟨22, 20, .ro⟩
def LE_GAP_CUR_patch_4 : Fld := ⟨19, 19, .ro⟩
def LE_GAP_CUR_input_4 : Fld := ⟨18, 16, .ro⟩
def LE_GAP_CUR_patch_3 : Fld := ⟨15, 15, .ro⟩
def LE_GAP_CUR_input_3 : Fld := ⟨14, 12, .ro⟩
def LE_GAP_CUR_patch_2 : Fld := ⟨11, 11, .ro⟩
def LE_GAP_CUR_input_2 : Fld := ⟨10, 8, .ro⟩
def LE_GAP_CUR_patch_1 : Fld := ⟨7, 7, .ro⟩
def LE_GAP_CUR_input_1 : Fld := ⟨6, 4, .ro⟩
def LE_GAP_CUR_patch_0 : Fld := ⟨3, 3, .ro⟩
def LE_GAP_CUR_input_0 : Fld := ⟨2, 0, .ro⟩
def LE_GAP_NEXT_patch_7 : Fld := ⟨31, 31, .rw⟩
def LE_GAP_NEXT_input_7 : Fld := ⟨30, 28, .rw⟩
def LE_GAP_NEXT_patch_6 : Fld := ⟨27, 27, .rw⟩
def LE_GAP_NEXT_input_6 : Fld := ⟨26, 24, .rw⟩
def LE_GAP_NEXT_patch_5 : Fld := ⟨23, 23, .rw⟩
def LE_GAP_NEXT_input_5 : Fld := ⟨22, 20, .rw⟩
def LE_GAP_NEXT_patch_4 : Fld := ⟨19, 19, .rw⟩
def LE_GAP_NEXT_input_4 : Fld := ⟨18, 16, .rw⟩
def LE_GAP_NEXT_patch_3 : Fld := ⟨15, 15, .rw⟩
def LE_GAP_NEXT_input_3 : Fld := ⟨14, 12, .rw⟩
def LE_GAP_NEXT_patch_2 : Fld := ⟨11, 11, .rw⟩
def LE_GAP_NEXT_input_2 : Fld := ⟨10, 8, .rw⟩
def LE_GAP_NEXT_patch_1 : Fld := ⟨7, 7, .rw⟩
def LE_GAP_NEXT_input_1 : Fld := ⟨6, 4, .rw⟩
def LE_GAP_NEXT_patch_0 : Fld := ⟨3, 3, .rw⟩
def LE_GAP_NEXT_input_0 : Fld := ⟨2, 0, .rw⟩
def LE_GAP_TIME_LO_time : Fld := ⟨31, 0, .rw⟩
def LE_GAP_TIME_HI_time : Fld := ⟨31, 0, .rw⟩
def LE_GAP_CMD_go : Fld := ⟨31, 31, .wo⟩
def LE_GAP_CMD_at_time : Fld := ⟨30, 30, .wo⟩
def LE_GAP_CMD_cancel : Fld := ⟨29, 29, .wo⟩
def LE_GAP_STAT_busy : Fld := ⟨31, 31, .ro⟩
def LE_GAP_STAT_pending : Fld := ⟨30, 30, .ro⟩
def LE_GAP_STAT_late : Fld := ⟨29, 29, .w1c⟩
def LE_GAP_STAT_cmd_ovr : Fld := ⟨28, 28, .w1c⟩
def LE_GAP_STAT_refused : Fld := ⟨27, 27, .w1c⟩
def LE_GAP_STAT_reason : Fld := ⟨26, 24, .ro⟩
def LE_GAP_STAT_blocked : Fld := ⟨23, 16, .ro⟩
def LE_GAP_DONE_LO_time : Fld := ⟨31, 0, .ro⟩
def LE_GAP_DONE_HI_time : Fld := ⟨31, 0, .ro⟩
def LE_GAP_AMP_gain_lim : Fld := ⟨31, 31, .ro⟩
def LE_GAP_AMP_gain : Fld := ⟨23, 16, .ro⟩
def LE_GAP_AMP_target : Fld := ⟨15, 0, .rw⟩
def LE_CAL_CFG_dT : Fld := ⟨31, 24, .rwl⟩
def LE_CAL_CFG_period_s : Fld := ⟨23, 16, .rwl⟩
def LE_CAL_CFG_bias_ratio : Fld := ⟨15, 8, .rwl⟩
def LE_CAL_CFG_retune_max : Fld := ⟨7, 4, .rwl⟩
def LE_CAL_CFG_run_en : Fld := ⟨3, 3, .rwl⟩
def LE_CAL_CMD_run : Fld := ⟨31, 31, .wo⟩
def LE_CAL_CMD_lane : Fld := ⟨30, 30, .wo⟩
def LE_CAL_CMD_fibre : Fld := ⟨10, 8, .wo⟩
def LE_CAL_CMD_lane_no : Fld := ⟨4, 0, .wo⟩
def LE_CAL_STAT_running : Fld := ⟨31, 31, .ro⟩
def LE_CAL_STAT_pending : Fld := ⟨30, 30, .ro⟩
def LE_CAL_STAT_refused : Fld := ⟨29, 29, .w1c⟩
def LE_CAL_STAT_reason : Fld := ⟨28, 26, .ro⟩
def LE_CAL_STAT_skipped : Fld := ⟨23, 16, .rc⟩
def LE_CAL_STAT_runs : Fld := ⟨15, 0, .ro⟩
def LE_CAL_TEMP_t_last : Fld := ⟨31, 16, .ro⟩
def LE_CAL_TEMP_t_now : Fld := ⟨15, 0, .ro⟩
def LE_CAL_FIBRE_cal_lane : Fld := ⟨31, 27, .ro⟩
def LE_CAL_FIBRE_step : Fld := ⟨26, 24, .ro⟩
def LE_CAL_FIBRE_erased : Fld := ⟨23, 6, .ro⟩
def LE_CAL_LANEMAP0_chan_5 : Fld := ⟨29, 25, .rwl⟩
def LE_CAL_LANEMAP0_chan_4 : Fld := ⟨24, 20, .rwl⟩
def LE_CAL_LANEMAP0_chan_3 : Fld := ⟨19, 15, .rwl⟩
def LE_CAL_LANEMAP0_chan_2 : Fld := ⟨14, 10, .rwl⟩
def LE_CAL_LANEMAP0_chan_1 : Fld := ⟨9, 5, .rwl⟩
def LE_CAL_LANEMAP0_chan_0 : Fld := ⟨4, 0, .rwl⟩
def LE_CAL_LANEMAP1_chan_5 : Fld := ⟨29, 25, .rwl⟩
def LE_CAL_LANEMAP1_chan_4 : Fld := ⟨24, 20, .rwl⟩
def LE_CAL_LANEMAP1_chan_3 : Fld := ⟨19, 15, .rwl⟩
def LE_CAL_LANEMAP1_chan_2 : Fld := ⟨14, 10, .rwl⟩
def LE_CAL_LANEMAP1_chan_1 : Fld := ⟨9, 5, .rwl⟩
def LE_CAL_LANEMAP1_chan_0 : Fld := ⟨4, 0, .rwl⟩
def LE_CAL_LANEMAP2_chan_5 : Fld := ⟨29, 25, .rwl⟩
def LE_CAL_LANEMAP2_chan_4 : Fld := ⟨24, 20, .rwl⟩
def LE_CAL_LANEMAP2_chan_3 : Fld := ⟨19, 15, .rwl⟩
def LE_CAL_LANEMAP2_chan_2 : Fld := ⟨14, 10, .rwl⟩
def LE_CAL_LANEMAP2_chan_1 : Fld := ⟨9, 5, .rwl⟩
def LE_CAL_LANEMAP2_chan_0 : Fld := ⟨4, 0, .rwl⟩
def LE_CAL_RSTATE_state : Fld := ⟨31, 29, .ro⟩
def LE_CAL_RSTATE_retunes : Fld := ⟨28, 26, .ro⟩
def LE_CAL_RSTATE_stale : Fld := ⟨25, 25, .ro⟩
def LE_CAL_RSTATE_reason : Fld := ⟨24, 23, .ro⟩
def LE_CAL_RSTATE_spacing : Fld := ⟨15, 0, .ro⟩
def LE_CAL_RHOLD_hold_code : Fld := ⟨15, 0, .ro⟩
def LE_CAL_MON_CTL_trig : Fld := ⟨31, 31, .wo⟩
def LE_CAL_MON_CTL_sync : Fld := ⟨30, 30, .wo⟩
def LE_CAL_MON_CTL_gain : Fld := ⟨27, 26, .rw⟩
def LE_CAL_MON_CTL_span : Fld := ⟨25, 24, .rw⟩
def LE_CAL_MON_CTL_stage : Fld := ⟨18, 16, .rw⟩
def LE_CAL_MON_CTL_index : Fld := ⟨7, 0, .rw⟩
def LE_CAL_MON_RES_valid : Fld := ⟨31, 31, .ro⟩
def LE_CAL_MON_RES_trig_ovr : Fld := ⟨30, 30, .w1c⟩
def LE_CAL_MON_RES_settling : Fld := ⟨29, 29, .ro⟩
def LE_CAL_MON_RES_busy : Fld := ⟨28, 28, .ro⟩
def LE_CAL_MON_RES_pending : Fld := ⟨27, 27, .ro⟩
def LE_CAL_MON_RES_gain_used : Fld := ⟨26, 25, .ro⟩
def LE_CAL_MON_RES_power : Fld := ⟨15, 0, .ro⟩
def LQ_TST_CTL_tx_en : Fld := ⟨31, 31, .rw⟩
def LQ_TST_CTL_rx_en : Fld := ⟨30, 30, .rw⟩
def LQ_TST_CTL_pattern : Fld := ⟨29, 28, .rw⟩
def LQ_TST_CTL_invert : Fld := ⟨27, 27, .rw⟩
def LQ_TST_CTL_rate : Fld := ⟨26, 24, .rw⟩
def LQ_TST_CTL_lane_sel : Fld := ⟨6, 0, .rw⟩
def LQ_TST_STAT_running : Fld := ⟨31, 31, .ro⟩
def LQ_TST_STAT_locked : Fld := ⟨30, 30, .ro⟩
def LQ_TST_STAT_abort : Fld := ⟨29, 29, .w1c⟩
def LQ_TST_STAT_relocks : Fld := ⟨23, 16, .rc⟩
def LQ_TST_ERRMAP_lanes : Fld := ⟨31, 0, .w1c⟩
def LQ_TST_MASK_lane_mask : Fld := ⟨31, 0, .rw⟩
def LQ_TST_ERRCNT_errors : Fld := ⟨31, 0, .ro⟩
def LQ_TST_BITS_LO_bits : Fld := ⟨31, 0, .ro⟩
def LQ_TST_MASK2_lane_mask : Fld := ⟨31, 0, .rw⟩
def LQ_TST_MASK3_lane_mask : Fld := ⟨31, 0, .rw⟩
def LQ_TST_BITS_HI_bits : Fld := ⟨31, 0, .ro⟩
def LE_TRC_CTL_enable : Fld := ⟨31, 31, .rw⟩
def LE_TRC_CTL_share : Fld := ⟨20, 16, .rw⟩
def LE_TRC_CTL_mask : Fld := ⟨15, 0, .rw⟩
def LE_TRC_RING_LO_addr_lo : Fld := ⟨31, 12, .rw⟩
def LE_TRC_RING_LO_log2_size : Fld := ⟨4, 0, .rw⟩
def LE_TRC_RING_HI_addr_hi : Fld := ⟨19, 0, .rw⟩
def LE_TRC_WPTR_count : Fld := ⟨31, 0, .ro⟩
def LE_TRC_RPTR_count : Fld := ⟨31, 0, .rw⟩
def LE_TRC_STAT_state : Fld := ⟨31, 30, .ro⟩
def LE_TRC_STAT_cfg_err : Fld := ⟨29, 29, .w1c⟩
def LE_TRC_STAT_lost : Fld := ⟨23, 0, .rc⟩
def LQ_CTL_retrain : Fld := ⟨31, 31, .wo⟩
def LQ_CTL_swap : Fld := ⟨30, 30, .wo⟩
def LQ_CTL_oq1_allow : Fld := ⟨1, 1, .rwl⟩
def LQ_CTL_enable : Fld := ⟨0, 0, .rwl⟩
def LQ_CFG_audit : Fld := ⟨31, 24, .rwl⟩
def LQ_CFG_grace : Fld := ⟨23, 16, .rwl⟩
def LQ_CFG_ldt_us : Fld := ⟨15, 0, .rwl⟩
def LQ_STAT_state : Fld := ⟨31, 28, .ro⟩
def LQ_STAT_lead : Fld := ⟨27, 27, .ro⟩
def LQ_STAT_oq1 : Fld := ⟨26, 26, .ro⟩
def LQ_STAT_los : Fld := ⟨25, 25, .ro⟩
def LQ_STAT_path : Fld := ⟨24, 23, .ro⟩
def LQ_STAT_swap : Fld := ⟨22, 21, .ro⟩
def LQ_STAT_cfg_err : Fld := ⟨20, 20, .w1c⟩
def LQ_STAT_fail_reason : Fld := ⟨19, 16, .ro⟩
def LQ_STAT_attempts : Fld := ⟨15, 8, .ro⟩
def LQ_ERASED_lanes : Fld := ⟨17, 0, .ro⟩
def LQ_RTT_rtt_ns : Fld := ⟨23, 0, .ro⟩
def LQ_SEQ_TX_seq : Fld := ⟨23, 0, .ro⟩
def LQ_SEQ_RX_seq : Fld := ⟨23, 0, .ro⟩
def LQ_REPLAY_replays : Fld := ⟨31, 16, .rc⟩
def LQ_REPLAY_held : Fld := ⟨9, 0, .ro⟩
def LQ_ERR_check_fail : Fld := ⟨31, 16, .rc⟩
def LQ_ERR_corrected : Fld := ⟨15, 0, .rc⟩
def LQ_EVENTS_downs : Fld := ⟨31, 24, .rc⟩
def LQ_EVENTS_flushes : Fld := ⟨23, 16, .rc⟩
def LQ_EVENTS_retrains : Fld := ⟨15, 8, .rc⟩
def LQ_EVENTS_lock_losses : Fld := ⟨7, 0, .rc⟩
def LQ_VC_LOW_credits : Fld := ⟨27, 16, .ro⟩
def LQ_VC_LOW_window : Fld := ⟨11, 0, .rwl⟩
def LQ_VC_HIGH_credits : Fld := ⟨27, 16, .ro⟩
def LQ_VC_HIGH_window : Fld := ⟨11, 0, .rwl⟩
def LQ_DEFICIT_low75 : Fld := ⟨31, 31, .w1c⟩
def LQ_DEFICIT_deficit : Fld := ⟨11, 0, .ro⟩
def LQ_PATH_CTL_go : Fld := ⟨31, 31, .wo⟩
def LQ_PATH_CTL_at_time : Fld := ⟨30, 30, .wo⟩
def LQ_PATH_CTL_vc : Fld := ⟨19, 18, .rw⟩
def LQ_PATH_CTL_mode : Fld := ⟨17, 16, .rw⟩
def LQ_PATH_CTL_src_node : Fld := ⟨15, 0, .rw⟩
def LQ_PATH_DLY_delay_ns : Fld := ⟨23, 0, .rw⟩
def LQ_PATH_TIME_LO_time : Fld := ⟨31, 0, .rw⟩
def LQ_PATH_TIME_HI_time : Fld := ⟨31, 0, .rw⟩
def LQ_PATH_STAT_lost : Fld := ⟨31, 16, .rc⟩
def LQ_PATH_STAT_locked : Fld := ⟨0, 0, .ro⟩
def LE_FEI_CTL_lock : Fld := ⟨31, 31, .w1s⟩
def LE_FEI_CTL_retrain : Fld := ⟨30, 30, .wo⟩
def LE_FEI_CTL_rx_raw : Fld := ⟨11, 8, .rwl⟩
def LE_FEI_CTL_tx_raw : Fld := ⟨7, 4, .rwl⟩
def LE_FEI_CTL_enable : Fld := ⟨0, 0, .rwl⟩
def LE_FEI_STAT_state : Fld := ⟨31, 29, .ro⟩
def LE_FEI_STAT_lead : Fld := ⟨28, 28, .ro⟩
def LE_FEI_STAT_role_mis : Fld := ⟨27, 27, .w1c⟩
def LE_FEI_STAT_attempts : Fld := ⟨26, 24, .ro⟩
def LE_FEI_STAT_gen : Fld := ⟨23, 16, .ro⟩
def LE_FEI_STAT_peer : Fld := ⟨15, 8, .ro⟩
def LE_FEI_STAT_rx_excl : Fld := ⟨5, 3, .ro⟩
def LE_FEI_STAT_tx_excl : Fld := ⟨2, 0, .ro⟩
def LE_FEI_TXMAP_excl3 : Fld := ⟨31, 24, .ro⟩
def LE_FEI_TXMAP_excl2 : Fld := ⟨23, 16, .ro⟩
def LE_FEI_TXMAP_excl1 : Fld := ⟨15, 8, .ro⟩
def LE_FEI_TXMAP_excl0 : Fld := ⟨7, 0, .ro⟩
def LE_FEI_RXMAP_excl3 : Fld := ⟨31, 24, .ro⟩
def LE_FEI_RXMAP_excl2 : Fld := ⟨23, 16, .ro⟩
def LE_FEI_RXMAP_excl1 : Fld := ⟨15, 8, .ro⟩
def LE_FEI_RXMAP_excl0 : Fld := ⟨7, 0, .ro⟩
def LE_FEI_FUSE_excl3 : Fld := ⟨31, 24, .ro⟩
def LE_FEI_FUSE_excl2 : Fld := ⟨23, 16, .ro⟩
def LE_FEI_FUSE_excl1 : Fld := ⟨15, 8, .ro⟩
def LE_FEI_FUSE_excl0 : Fld := ⟨7, 0, .ro⟩
def LE_FEI_ERR_crc_err : Fld := ⟨31, 16, .rc⟩
def LE_FEI_ERR_replays : Fld := ⟨15, 4, .rc⟩
def LE_FEI_ERR_malformed : Fld := ⟨3, 0, .rc⟩
def LE_FEI_SWAP_retrains : Fld := ⟨15, 8, .rc⟩
def LE_FEI_SWAP_swaps : Fld := ⟨7, 0, .rc⟩
def LE_FEI_CRED_avail : Fld := ⟨27, 16, .ro⟩
def LE_FEI_CRED_depth : Fld := ⟨11, 0, .ro⟩
def LE_TST_CTL_tx_en : Fld := ⟨31, 31, .rw⟩
def LE_TST_CTL_rx_en : Fld := ⟨30, 30, .rw⟩
def LE_TST_CTL_pattern : Fld := ⟨29, 28, .rw⟩
def LE_TST_CTL_invert : Fld := ⟨27, 27, .rw⟩
def LE_TST_CTL_rate : Fld := ⟨26, 24, .rw⟩
def LE_TST_CTL_lane_sel : Fld := ⟨6, 0, .rw⟩
def LE_TST_STAT_running : Fld := ⟨31, 31, .ro⟩
def LE_TST_STAT_locked : Fld := ⟨30, 30, .ro⟩
def LE_TST_STAT_abort : Fld := ⟨29, 29, .w1c⟩
def LE_TST_STAT_relocks : Fld := ⟨23, 16, .rc⟩
def LE_TST_ERRMAP_lanes : Fld := ⟨31, 0, .w1c⟩
def LE_TST_MASK_lane_mask : Fld := ⟨31, 0, .rw⟩
def LE_TST_ERRCNT_errors : Fld := ⟨31, 0, .ro⟩
def LE_TST_BITS_LO_bits : Fld := ⟨31, 0, .ro⟩
def LE_TST_MASK2_lane_mask : Fld := ⟨31, 0, .rw⟩
def LE_TST_MASK3_lane_mask : Fld := ⟨31, 0, .rw⟩
def LE_TST_BITS_HI_bits : Fld := ⟨31, 0, .ro⟩
def FAB_CFG_lock : Fld := ⟨31, 31, .w1s⟩
def FAB_CFG_wrap : Fld := ⟨27, 24, .rwl⟩
def FAB_CFG_mode : Fld := ⟨23, 23, .rwl⟩
def FAB_CFG_hop_limit : Fld := ⟨22, 16, .rwl⟩
def FAB_CFG_diameter : Fld := ⟨15, 0, .rwl⟩
def FAB_ID_node : Fld := ⟨15, 0, .rwl⟩
def FAB_DIM_coord : Fld := ⟨31, 16, .rwl⟩
def FAB_DIM_size_m1 : Fld := ⟨15, 0, .rwl⟩
def FAB_CTL_start : Fld := ⟨31, 31, .wo⟩
def FAB_CTL_leave : Fld := ⟨30, 30, .wo⟩
def FAB_STAT_state : Fld := ⟨31, 29, .ro⟩
def FAB_STAT_start_ref : Fld := ⟨28, 28, .w1c⟩
def FAB_STAT_gen : Fld := ⟨15, 0, .ro⟩
def FAB_ROOT_hops : Fld := ⟨31, 16, .ro⟩
def FAB_ROOT_node : Fld := ⟨15, 0, .ro⟩
def FAB_ROOT_ID_LO_pkg_id : Fld := ⟨31, 0, .ro⟩
def FAB_ROOT_ID_HI_pkg_id : Fld := ⟨31, 0, .ro⟩
def FAB_TB_aligned : Fld := ⟨31, 31, .ro⟩
def FAB_TB_stepped : Fld := ⟨30, 30, .w1c⟩
def FAB_TB_parent : Fld := ⟨29, 22, .ro⟩
def FAB_TB_offset : Fld := ⟨15, 0, .ro⟩
def FAB_RTO_outstanding : Fld := ⟨31, 16, .ro⟩
def FAB_RTO_rto_ms : Fld := ⟨15, 0, .rwl⟩
def FAB_ERR_noroute : Fld := ⟨31, 24, .rc⟩
def FAB_ERR_hops : Fld := ⟨23, 16, .rc⟩
def FAB_ERR_slip_lost : Fld := ⟨15, 8, .rc⟩
def FAB_ERR_ctl : Fld := ⟨7, 0, .rc⟩
def FAB_SLEEP_enable : Fld := ⟨31, 31, .rwl⟩
def FAB_SLEEP_idle_us : Fld := ⟨15, 0, .rwl⟩
def FAB_PL_CFG_feed_bundles : Fld := ⟨25, 24, .rwl⟩
def FAB_PL_CFG_settle : Fld := ⟨23, 16, .rwl⟩
def FAB_PL_CFG_guard_ns : Fld := ⟨15, 0, .rwl⟩
def FAB_FDIR_state : Fld := ⟨31, 30, .ro⟩
def FAB_FDIR_peer : Fld := ⟨19, 4, .ro⟩
def FAB_FDIR_dir : Fld := ⟨3, 0, .rwl⟩
def FAB_RTE0_hi : Fld := ⟨31, 16, .rwl⟩
def FAB_RTE0_lo : Fld := ⟨15, 0, .rwl⟩
def FAB_RTE1_en : Fld := ⟨31, 31, .rwl⟩
def FAB_RTE1_port : Fld := ⟨3, 0, .rwl⟩
def FAB_PIN_hi : Fld := ⟨31, 16, .rw⟩
def FAB_PIN_lo : Fld := ⟨15, 0, .rw⟩
def FAB_COLL_word : Fld := ⟨31, 0, .rw⟩
def FAB_COLL_STAT0_state : Fld := ⟨31, 28, .ro⟩
def FAB_COLL_STAT0_status : Fld := ⟨27, 24, .ro⟩
def FAB_COLL_STAT0_flags : Fld := ⟨23, 19, .ro⟩
def FAB_COLL_STAT0_sat : Fld := ⟨18, 18, .ro⟩
def FAB_COLL_STAT1_injected : Fld := ⟨31, 0, .ro⟩
def FAB_COLL_STAT2_merged : Fld := ⟨31, 0, .ro⟩
def FAB_COLL_STAT3_lost : Fld := ⟨15, 0, .ro⟩

end Fld

namespace Reg

/-- HUB_ID: Table 1.7, R43. -/
def HUB_ID : RegDesc := ⟨0x0, [], 0x96000000, [Fld.HUB_ID_part, Fld.HUB_ID_stepping]⟩
/-- HUB_PKG_ID_LO: Table 1.8, R43. -/
def HUB_PKG_ID_LO : RegDesc := ⟨0x8, [], 0x0, [Fld.HUB_PKG_ID_LO_pkg_id]⟩
/-- HUB_PKG_ID_HI: Table 1.8, R43. -/
def HUB_PKG_ID_HI : RegDesc := ⟨0xC, [], 0x0, [Fld.HUB_PKG_ID_HI_pkg_id]⟩
/-- HUB_GRADE: Table 1.9, R43. -/
def HUB_GRADE : RegDesc := ⟨0x10, [], 0x0, [Fld.HUB_GRADE_guest_pop, Fld.HUB_GRADE_stack_gb, Fld.HUB_GRADE_active_target, Fld.HUB_GRADE_grade]⟩
/-- HUB_COPPICE_STAT: Table 1.10, R43. -/
def HUB_COPPICE_STAT : RegDesc := ⟨0x20, [], 0x80000000, [Fld.HUB_COPPICE_STAT_busy, Fld.HUB_COPPICE_STAT_cores_active, Fld.HUB_COPPICE_STAT_spares_left, Fld.HUB_COPPICE_STAT_map_source, Fld.HUB_COPPICE_STAT_generation]⟩
/-- HUB_COPPICE_CTL: Table 1.11, R43. -/
def HUB_COPPICE_CTL : RegDesc := ⟨0x24, [], 0x0, [Fld.HUB_COPPICE_CTL_replan]⟩
/-- HUB_SITE_STATE: Table 1.12, R43. -/
def HUB_SITE_STATE : RegDesc := ⟨0x100, [(0x4, 36)], 0x1, [Fld.HUB_SITE_STATE_reason, Fld.HUB_SITE_STATE_logical, Fld.HUB_SITE_STATE_state]⟩
/-- HUB_CORE_MAP: Table 1.13, R43. -/
def HUB_CORE_MAP : RegDesc := ⟨0x200, [(0x4, 32)], 0x0, [Fld.HUB_CORE_MAP_valid, Fld.HUB_CORE_MAP_site]⟩
/-- HUB_HBM_CFG: Table 7.11, R255. -/
def HUB_HBM_CFG : RegDesc := ⟨0x2000, [], 0x0, [Fld.HUB_HBM_CFG_lock, Fld.HUB_HBM_CFG_cfg_err, Fld.HUB_HBM_CFG_ready]⟩
/-- HUB_HBM_STACKS: Table 7.12, R255. -/
def HUB_HBM_STACKS : RegDesc := ⟨0x2004, [], 0x0, [Fld.HUB_HBM_STACKS_in_service]⟩
/-- HUB_HBM_RANGE: Table 7.13, R255. -/
def HUB_HBM_RANGE : RegDesc := ⟨0x2100, [(0x4, 32)], 0x0, [Fld.HUB_HBM_RANGE_enable, Fld.HUB_HBM_RANGE_mode, Fld.HUB_HBM_RANGE_err, Fld.HUB_HBM_RANGE_base_gib, Fld.HUB_HBM_RANGE_len_gib, Fld.HUB_HBM_RANGE_off_gib]⟩
/-- HUB_FEI_CTL: Table 8.14, R289. -/
def HUB_FEI_CTL : RegDesc := ⟨0x3000, [(0x100, 4)], 0x0, [Fld.HUB_FEI_CTL_lock, Fld.HUB_FEI_CTL_retrain, Fld.HUB_FEI_CTL_rx_raw, Fld.HUB_FEI_CTL_tx_raw, Fld.HUB_FEI_CTL_enable]⟩
/-- HUB_FEI_STAT: Table 8.15, R289. -/
def HUB_FEI_STAT : RegDesc := ⟨0x3004, [(0x100, 4)], 0x0, [Fld.HUB_FEI_STAT_state, Fld.HUB_FEI_STAT_lead, Fld.HUB_FEI_STAT_role_mis, Fld.HUB_FEI_STAT_attempts, Fld.HUB_FEI_STAT_gen, Fld.HUB_FEI_STAT_peer, Fld.HUB_FEI_STAT_rx_excl, Fld.HUB_FEI_STAT_tx_excl]⟩
/-- HUB_FEI_TXMAP: Table 8.16, R289. -/
def HUB_FEI_TXMAP : RegDesc := ⟨0x3008, [(0x100, 4)], 0x0, [Fld.HUB_FEI_TXMAP_excl3, Fld.HUB_FEI_TXMAP_excl2, Fld.HUB_FEI_TXMAP_excl1, Fld.HUB_FEI_TXMAP_excl0]⟩
/-- HUB_FEI_RXMAP: Table 8.16, R289. -/
def HUB_FEI_RXMAP : RegDesc := ⟨0x300C, [(0x100, 4)], 0x0, [Fld.HUB_FEI_RXMAP_excl3, Fld.HUB_FEI_RXMAP_excl2, Fld.HUB_FEI_RXMAP_excl1, Fld.HUB_FEI_RXMAP_excl0]⟩
/-- HUB_FEI_FUSE: Table 8.16, R289. -/
def HUB_FEI_FUSE : RegDesc := ⟨0x3010, [(0x100, 4)], 0x0, [Fld.HUB_FEI_FUSE_excl3, Fld.HUB_FEI_FUSE_excl2, Fld.HUB_FEI_FUSE_excl1, Fld.HUB_FEI_FUSE_excl0]⟩
/-- HUB_FEI_ERR: Table 8.17, R289. -/
def HUB_FEI_ERR : RegDesc := ⟨0x3014, [(0x100, 4)], 0x0, [Fld.HUB_FEI_ERR_crc_err, Fld.HUB_FEI_ERR_replays, Fld.HUB_FEI_ERR_malformed]⟩
/-- HUB_FEI_SWAP: Table 8.18, R289. -/
def HUB_FEI_SWAP : RegDesc := ⟨0x3018, [(0x100, 4)], 0x0, [Fld.HUB_FEI_SWAP_retrains, Fld.HUB_FEI_SWAP_swaps]⟩
/-- HUB_FEI_CRED: Table 8.19, R289. -/
def HUB_FEI_CRED : RegDesc := ⟨0x3040, [(0x100, 4), (0x4, 10)], 0x0, [Fld.HUB_FEI_CRED_avail, Fld.HUB_FEI_CRED_depth]⟩
/-- HUB_TST_CTL: Table 17.19, R568. -/
def HUB_TST_CTL : RegDesc := ⟨0x3080, [(0x100, 4)], 0x30000000, [Fld.HUB_TST_CTL_tx_en, Fld.HUB_TST_CTL_rx_en, Fld.HUB_TST_CTL_pattern, Fld.HUB_TST_CTL_invert, Fld.HUB_TST_CTL_rate, Fld.HUB_TST_CTL_lane_sel]⟩
/-- HUB_TST_STAT: Table 17.19, R568. -/
def HUB_TST_STAT : RegDesc := ⟨0x3084, [(0x100, 4)], 0x0, [Fld.HUB_TST_STAT_running, Fld.HUB_TST_STAT_locked, Fld.HUB_TST_STAT_abort, Fld.HUB_TST_STAT_relocks]⟩
/-- HUB_TST_ERRMAP: Table 17.19, R568. -/
def HUB_TST_ERRMAP : RegDesc := ⟨0x3088, [(0x100, 4), (0x4, 3)], 0x0, [Fld.HUB_TST_ERRMAP_lanes]⟩
/-- HUB_TST_MASK: Table 17.19, R568. -/
def HUB_TST_MASK : RegDesc := ⟨0x3094, [(0x100, 4)], 0x0, [Fld.HUB_TST_MASK_lane_mask]⟩
/-- HUB_TST_ERRCNT: Table 17.19, R568. -/
def HUB_TST_ERRCNT : RegDesc := ⟨0x3098, [(0x100, 4)], 0x0, [Fld.HUB_TST_ERRCNT_errors]⟩
/-- HUB_TST_BITS_LO: Table 17.19, R568. -/
def HUB_TST_BITS_LO : RegDesc := ⟨0x309C, [(0x100, 4)], 0x0, [Fld.HUB_TST_BITS_LO_bits]⟩
/-- HUB_TST_MASK2: Table 17.19, R568. -/
def HUB_TST_MASK2 : RegDesc := ⟨0x30A0, [(0x100, 4)], 0x0, [Fld.HUB_TST_MASK2_lane_mask]⟩
/-- HUB_TST_MASK3: Table 17.19, R568. -/
def HUB_TST_MASK3 : RegDesc := ⟨0x30A4, [(0x100, 4)], 0x0, [Fld.HUB_TST_MASK3_lane_mask]⟩
/-- HUB_TST_BITS_HI: Table 17.19, R568. -/
def HUB_TST_BITS_HI : RegDesc := ⟨0x30A8, [(0x100, 4)], 0x0, [Fld.HUB_TST_BITS_HI_bits]⟩
/-- HUB_DIEMAP: Table 8.20, R290. -/
def HUB_DIEMAP : RegDesc := ⟨0x4000, [(0x4, 61)], 0x0, [Fld.HUB_DIEMAP_state, Fld.HUB_DIEMAP_stepping, Fld.HUB_DIEMAP_instance, Fld.HUB_DIEMAP_die_type]⟩
/-- HUB_PART_CTL: Table 13.11, R468. -/
def HUB_PART_CTL : RegDesc := ⟨0x5000, [(0x40, 16)], 0xFFFF, [Fld.HUB_PART_CTL_enable, Fld.HUB_PART_CTL_busy, Fld.HUB_PART_CTL_cfg_err, Fld.HUB_PART_CTL_replay_rec, Fld.HUB_PART_CTL_port, Fld.HUB_PART_CTL_lat]⟩
/-- HUB_PART_CORES: Table 13.12, R468. -/
def HUB_PART_CORES : RegDesc := ⟨0x5004, [(0x40, 16)], 0x0, [Fld.HUB_PART_CORES_cores]⟩
/-- HUB_PART_MEM: Table 13.12, R468. -/
def HUB_PART_MEM : RegDesc := ⟨0x5008, [(0x40, 16)], 0x0, [Fld.HUB_PART_MEM_ranges]⟩
/-- HUB_PART_STRM: Table 13.13, R468. -/
def HUB_PART_STRM : RegDesc := ⟨0x500C, [(0x40, 16)], 0x0, [Fld.HUB_PART_STRM_n_blk, Fld.HUB_PART_STRM_base_blk]⟩
/-- HUB_PART_CTR: Table 13.13, R468. -/
def HUB_PART_CTR : RegDesc := ⟨0x5010, [(0x40, 16)], 0x0, [Fld.HUB_PART_CTR_n_blk, Fld.HUB_PART_CTR_base_blk]⟩
/-- HUB_PART_RES: Table 13.14, R468. -/
def HUB_PART_RES : RegDesc := ⟨0x5014, [(0x40, 16)], 0x0, [Fld.HUB_PART_RES_power_w, Fld.HUB_PART_RES_guests, Fld.HUB_PART_RES_trunks]⟩
/-- HUB_PART_STAT: Table 13.15, R468. -/
def HUB_PART_STAT : RegDesc := ⟨0x5018, [(0x40, 16)], 0x0, [Fld.HUB_PART_STAT_streams_on, Fld.HUB_PART_STAT_denied]⟩
/-- HUB_STRM_SEL: Table 6.11, R220. -/
def HUB_STRM_SEL : RegDesc := ⟨0x200000000, [(0x10, 6)], 0x0, [Fld.HUB_STRM_SEL_stream]⟩
/-- HUB_STRM_CFG: Table 6.12, R220. -/
def HUB_STRM_CFG : RegDesc := ⟨0x100000004, [(0x100, 65536)], 0x2, [Fld.HUB_STRM_CFG_enable, Fld.HUB_STRM_CFG_prio, Fld.HUB_STRM_CFG_vector, Fld.HUB_STRM_CFG_core, Fld.HUB_STRM_CFG_abort_poison, Fld.HUB_STRM_CFG_stop_on_err]⟩
/-- HUB_STRM_LIMIT: Table 6.13, R220. -/
def HUB_STRM_LIMIT : RegDesc := ⟨0x100000008, [(0x100, 65536)], 0x7D0, [Fld.HUB_STRM_LIMIT_limit_us]⟩
/-- HUB_STRM_SQ_LO: Table 6.14, R220. -/
def HUB_STRM_SQ_LO : RegDesc := ⟨0x100000010, [(0x100, 65536)], 0x0, [Fld.HUB_STRM_SQ_LO_addr_lo, Fld.HUB_STRM_SQ_LO_space, Fld.HUB_STRM_SQ_LO_log2_size]⟩
/-- HUB_STRM_SQ_HI: Table 6.15, R220. -/
def HUB_STRM_SQ_HI : RegDesc := ⟨0x100000014, [(0x100, 65536)], 0x0, [Fld.HUB_STRM_SQ_HI_addr_hi]⟩
/-- HUB_STRM_CQ_LO: Table 6.14, R220. -/
def HUB_STRM_CQ_LO : RegDesc := ⟨0x100000018, [(0x100, 65536)], 0x0, [Fld.HUB_STRM_CQ_LO_addr_lo, Fld.HUB_STRM_CQ_LO_space, Fld.HUB_STRM_CQ_LO_log2_size]⟩
/-- HUB_STRM_CQ_HI: Table 6.15, R220. -/
def HUB_STRM_CQ_HI : RegDesc := ⟨0x10000001C, [(0x100, 65536)], 0x0, [Fld.HUB_STRM_CQ_HI_addr_hi]⟩
/-- HUB_STRM_SEED_LO: Table 6.16, R220. -/
def HUB_STRM_SEED_LO : RegDesc := ⟨0x100000020, [(0x100, 65536)], 0x0, [Fld.HUB_STRM_SEED_LO_seed]⟩
/-- HUB_STRM_SEED_HI: Table 6.16, R220. -/
def HUB_STRM_SEED_HI : RegDesc := ⟨0x100000024, [(0x100, 65536)], 0x0, [Fld.HUB_STRM_SEED_HI_seed]⟩
/-- HUB_STRM_STAT: Table 6.17, R220. -/
def HUB_STRM_STAT : RegDesc := ⟨0x100000030, [(0x100, 65536)], 0x0, [Fld.HUB_STRM_STAT_state, Fld.HUB_STRM_STAT_last_status, Fld.HUB_STRM_STAT_inflight, Fld.HUB_STRM_STAT_cq_err, Fld.HUB_STRM_STAT_cfg_err, Fld.HUB_STRM_STAT_lock_held, Fld.HUB_STRM_STAT_abort_pend, Fld.HUB_STRM_STAT_abort_ovr, Fld.HUB_STRM_STAT_db_err]⟩
/-- HUB_STRM_COMMIT: Table 6.18, R220. -/
def HUB_STRM_COMMIT : RegDesc := ⟨0x100000034, [(0x100, 65536)], 0x0, [Fld.HUB_STRM_COMMIT_count]⟩
/-- HUB_STRM_FETCH: Table 6.18, R220. -/
def HUB_STRM_FETCH : RegDesc := ⟨0x100000038, [(0x100, 65536)], 0x0, [Fld.HUB_STRM_FETCH_count]⟩
/-- HUB_STRM_TAIL: Table 6.18, R220. -/
def HUB_STRM_TAIL : RegDesc := ⟨0x10000003C, [(0x100, 65536)], 0x0, [Fld.HUB_STRM_TAIL_count]⟩
/-- HUB_STRM_CQT: Table 6.18, R220. -/
def HUB_STRM_CQT : RegDesc := ⟨0x100000040, [(0x100, 65536)], 0x0, [Fld.HUB_STRM_CQT_count]⟩
/-- HUB_STRM_CQH: Table 6.18, R220. -/
def HUB_STRM_CQH : RegDesc := ⟨0x100000044, [(0x100, 65536)], 0x0, [Fld.HUB_STRM_CQH_count]⟩
/-- MGMT_FW_STAT: Table 15.10, R517. -/
def MGMT_FW_STAT : RegDesc := ⟨0x100000, [], 0x0, [Fld.MGMT_FW_STAT_stage, Fld.MGMT_FW_STAT_active, Fld.MGMT_FW_STAT_pair, Fld.MGMT_FW_STAT_lfw_untested, Fld.MGMT_FW_STAT_lfw_incompat, Fld.MGMT_FW_STAT_mfw_slot, Fld.MGMT_FW_STAT_lfw_slot, Fld.MGMT_FW_STAT_fallback]⟩
/-- MGMT_MFW_VER: Table 15.11, R517. -/
def MGMT_MFW_VER : RegDesc := ⟨0x100004, [], 0x0, [Fld.MGMT_MFW_VER_version]⟩
/-- MGMT_MFW_IF: Table 15.12, R517. -/
def MGMT_MFW_IF : RegDesc := ⟨0x100008, [], 0x0, [Fld.MGMT_MFW_IF_if_level, Fld.MGMT_MFW_IF_lfw_if]⟩
/-- MGMT_LFW_VER: Table 15.11, R517. -/
def MGMT_LFW_VER : RegDesc := ⟨0x10000C, [], 0x0, [Fld.MGMT_LFW_VER_version]⟩
/-- MGMT_RST_CTL: Table 15.13, R517. -/
def MGMT_RST_CTL : RegDesc := ⟨0x100010, [], 0x0, [Fld.MGMT_RST_CTL_cold, Fld.MGMT_RST_CTL_warm, Fld.MGMT_RST_CTL_mfw_restart, Fld.MGMT_RST_CTL_key]⟩
/-- MGMT_RST_CAUSE: Table 15.14, R517. -/
def MGMT_RST_CAUSE : RegDesc := ⟨0x100014, [], 0x0, [Fld.MGMT_RST_CAUSE_cause]⟩
/-- MGMT_BOOT_CTL: Table 15.15, R517. -/
def MGMT_BOOT_CTL : RegDesc := ⟨0x100018, [], 0x0, [Fld.MGMT_BOOT_CTL_boot_ms, Fld.MGMT_BOOT_CTL_bcb_rej, Fld.MGMT_BOOT_CTL_hold]⟩
/-- MGMT_PAIR: Table 15.16, R517. -/
def MGMT_PAIR : RegDesc := ⟨0x10001C, [], 0x0, [Fld.MGMT_PAIR_failovers, Fld.MGMT_PAIR_handbacks, Fld.MGMT_PAIR_last_cause]⟩
/-- MGMT_UPD_STAT: Table 15.16, R517. -/
def MGMT_UPD_STAT : RegDesc := ⟨0x100020, [], 0x0, [Fld.MGMT_UPD_STAT_open, Fld.MGMT_UPD_STAT_path, Fld.MGMT_UPD_STAT_trial]⟩
/-- MGMT_CFG: Table 15.17, R517. -/
def MGMT_CFG : RegDesc := ⟨0x100024, [], 0x10, [Fld.MGMT_CFG_lock, Fld.MGMT_CFG_console_wr, Fld.MGMT_CFG_host_upd]⟩
/-- MGMT_LE_FW: Table 15.18, R517. -/
def MGMT_LE_FW : RegDesc := ⟨0x100040, [(0x4, 16)], 0xC0000000, [Fld.MGMT_LE_FW_result, Fld.MGMT_LE_FW_level]⟩
/-- MGMT_MBX_CTL: Table 15.18, R517. -/
def MGMT_MBX_CTL : RegDesc := ⟨0x101000, [(0x400, 5)], 0x0, [Fld.MGMT_MBX_CTL_go, Fld.MGMT_MBX_CTL_done, Fld.MGMT_MBX_CTL_status, Fld.MGMT_MBX_CTL_length, Fld.MGMT_MBX_CTL_code]⟩
/-- MGMT_MBX_DATA: Table 15.18, R515. -/
def MGMT_MBX_DATA : RegDesc := ⟨0x101100, [(0x400, 5), (0x4, 64)], 0x0, [Fld.MGMT_MBX_DATA_data]⟩
/-- FLT_CFG: Table 16.7, R537. -/
def FLT_CFG : RegDesc := ⟨0x200000, [], 0x7, [Fld.FLT_CFG_lock, Fld.FLT_CFG_auto_ack]⟩
/-- FLT_STAT: Table 16.8, R537. -/
def FLT_STAT : RegDesc := ⟨0x200004, [], 0x0, [Fld.FLT_STAT_fatal, Fld.FLT_STAT_valid, Fld.FLT_STAT_ovr, Fld.FLT_STAT_pend, Fld.FLT_STAT_clr_ref, Fld.FLT_STAT_pldm_ovr, Fld.FLT_STAT_pend_full]⟩
/-- FLT_ACK: Table 16.9, R537. -/
def FLT_ACK : RegDesc := ⟨0x200008, [], 0x0, [Fld.FLT_ACK_ack]⟩
/-- FLT_CLEAR: Table 16.9, R537. -/
def FLT_CLEAR : RegDesc := ⟨0x20000C, [], 0x0, [Fld.FLT_CLEAR_clear]⟩
/-- FLT_FIRST_IDENT: Table 16.10, R537. -/
def FLT_FIRST_IDENT : RegDesc := ⟨0x200010, [(0x10, 4)], 0x0, [Fld.FLT_FIRST_IDENT_ident]⟩
/-- FLT_FIRST_DETAIL: Table 16.10, R537. -/
def FLT_FIRST_DETAIL : RegDesc := ⟨0x200014, [(0x10, 4)], 0x0, [Fld.FLT_FIRST_DETAIL_detail]⟩
/-- FLT_FIRST_TIME_LO: Table 16.10, R537. -/
def FLT_FIRST_TIME_LO : RegDesc := ⟨0x200018, [(0x10, 4)], 0x0, [Fld.FLT_FIRST_TIME_LO_time_lo]⟩
/-- FLT_FIRST_TIME_HI: Table 16.10, R537. -/
def FLT_FIRST_TIME_HI : RegDesc := ⟨0x20001C, [(0x10, 4)], 0x0, [Fld.FLT_FIRST_TIME_HI_time_hi]⟩
/-- FLT_COUNT: Table 16.11, R537. -/
def FLT_COUNT : RegDesc := ⟨0x200050, [(0x4, 4)], 0x0, [Fld.FLT_COUNT_count]⟩
/-- FLT_PEND1_LO: Table 16.12, R537. -/
def FLT_PEND1_LO : RegDesc := ⟨0x200060, [], 0x0, [Fld.FLT_PEND1_LO_units]⟩
/-- FLT_PEND1_MID: Table 16.12, R537. -/
def FLT_PEND1_MID : RegDesc := ⟨0x200064, [], 0x0, [Fld.FLT_PEND1_MID_units]⟩
/-- FLT_PEND1_HI: Table 16.12, R537. -/
def FLT_PEND1_HI : RegDesc := ⟨0x200068, [], 0x0, [Fld.FLT_PEND1_HI_unit64]⟩
/-- FLT_PEND2: Table 16.12, R537. -/
def FLT_PEND2 : RegDesc := ⟨0x20006C, [], 0x0, [Fld.FLT_PEND2_parts]⟩
/-- FLT_ALIVE: Table 16.13, R537. -/
def FLT_ALIVE : RegDesc := ⟨0x200070, [], 0x0, [Fld.FLT_ALIVE_running, Fld.FLT_ALIVE_kick]⟩
/-- FLT_STORE: Table 16.13, R537. -/
def FLT_STORE : RegDesc := ⟨0x200074, [], 0x0, [Fld.FLT_STORE_wraps, Fld.FLT_STORE_next]⟩
/-- FLT_PART_CTL: Table 16.14, R537. -/
def FLT_PART_CTL : RegDesc := ⟨0x200100, [(0x10, 16)], 0x10000000, [Fld.FLT_PART_CTL_ack, Fld.FLT_PART_CTL_clear, Fld.FLT_PART_CTL_c0_irq, Fld.FLT_PART_CTL_irq_en, Fld.FLT_PART_CTL_vector]⟩
/-- FLT_PART_STAT: Table 16.14, R537. -/
def FLT_PART_STAT : RegDesc := ⟨0x200104, [(0x10, 16)], 0x0, [Fld.FLT_PART_STAT_fatal, Fld.FLT_PART_STAT_pend, Fld.FLT_PART_STAT_last, Fld.FLT_PART_STAT_count]⟩
/-- FLT_PART_REC: Table 16.14, R537. -/
def FLT_PART_REC : RegDesc := ⟨0x200108, [(0x10, 16)], 0x0, [Fld.FLT_PART_REC_ident]⟩
/-- FLT_PART_DET: Table 16.14, R537. -/
def FLT_PART_DET : RegDesc := ⟨0x20010C, [(0x10, 16)], 0x0, [Fld.FLT_PART_DET_detail]⟩
/-- THM_PKG_LIMIT: Table 14.9, R494. -/
def THM_PKG_LIMIT : RegDesc := ⟨0x300000, [], 0x1D4CAA00, [Fld.THM_PKG_LIMIT_lock, Fld.THM_PKG_LIMIT_limit_w, Fld.THM_PKG_LIMIT_iin_a]⟩
/-- THM_PKG_STAT: Table 14.11, R494. -/
def THM_PKG_STAT : RegDesc := ⟨0x300004, [], 0x0, [Fld.THM_PKG_STAT_p_in_w, Fld.THM_PKG_STAT_n_pkg, Fld.THM_PKG_STAT_duty, Fld.THM_PKG_STAT_hard]⟩
/-- THM_SILICON: Table 14.12, R494. -/
def THM_SILICON : RegDesc := ⟨0x300008, [], 0x0, [Fld.THM_SILICON_wf_n]⟩
/-- THM_IDLE: Table 14.13, R494. -/
def THM_IDLE : RegDesc := ⟨0x300010, [], 0x6403E8, [Fld.THM_IDLE_sleep_us, Fld.THM_IDLE_gate_ns]⟩
/-- THM_TH_CFG: Table 14.14, R494. -/
def THM_TH_CFG : RegDesc := ⟨0x300020, [], 0x640A0A08, [Fld.THM_TH_CFG_tlim, Fld.THM_TH_CFG_ror_dt, Fld.THM_TH_CFG_ror_win, Fld.THM_TH_CFG_xchk]⟩
/-- THM_TRIP: Table 14.15, R494. -/
def THM_TRIP : RegDesc := ⟨0x300024, [], 0x0, [Fld.THM_TRIP_clear, Fld.THM_TRIP_tripped, Fld.THM_TRIP_slot]⟩
/-- THM_HK_CTL: Table 14.16, R494. -/
def THM_HK_CTL : RegDesc := ⟨0x300030, [], 0x0, [Fld.THM_HK_CTL_trig, Fld.THM_HK_CTL_sync, Fld.THM_HK_CTL_slot]⟩
/-- THM_HK_RES: Table 14.17, R494. -/
def THM_HK_RES : RegDesc := ⟨0x300034, [], 0x0, [Fld.THM_HK_RES_valid, Fld.THM_HK_RES_trig_ovr, Fld.THM_HK_RES_busy, Fld.THM_HK_RES_pending, Fld.THM_HK_RES_slot, Fld.THM_HK_RES_value]⟩
/-- THM_HK_STAT: Table 14.18, R494. -/
def THM_HK_STAT : RegDesc := ⟨0x300038, [], 0x0, [Fld.THM_HK_STAT_broken, Fld.THM_HK_STAT_rounds]⟩
/-- THM_TB_CFG: Table 14.19, R494. -/
def THM_TB_CFG : RegDesc := ⟨0x300040, [], 0x0, [Fld.THM_TB_CFG_present, Fld.THM_TB_CFG_holdover, Fld.THM_TB_CFG_freq]⟩
/-- THM_TB_LO: Table 14.19, R494. -/
def THM_TB_LO : RegDesc := ⟨0x300044, [], 0x0, [Fld.THM_TB_LO_time]⟩
/-- THM_TB_HI: Table 14.19, R494. -/
def THM_TB_HI : RegDesc := ⟨0x300048, [], 0x0, [Fld.THM_TB_HI_time]⟩
/-- THM_TB_SET_LO: Table 14.20, R494. -/
def THM_TB_SET_LO : RegDesc := ⟨0x300050, [], 0x0, [Fld.THM_TB_SET_LO_time]⟩
/-- THM_TB_SET_HI: Table 14.20, R494. -/
def THM_TB_SET_HI : RegDesc := ⟨0x300054, [], 0x0, [Fld.THM_TB_SET_HI_time]⟩
/-- THM_TB_CTL: Table 14.20, R494. -/
def THM_TB_CTL : RegDesc := ⟨0x300058, [], 0x0, [Fld.THM_TB_CTL_set]⟩
/-- THM_PART_PERF: Table 14.21, R494. -/
def THM_PART_PERF : RegDesc := ⟨0x300100, [(0x10, 16)], 0x2EE, [Fld.THM_PART_PERF_v_req]⟩
/-- THM_PART_STAT: Table 14.21, R494. -/
def THM_PART_STAT : RegDesc := ⟨0x300104, [(0x10, 16)], 0x0, [Fld.THM_PART_STAT_p_w, Fld.THM_PART_STAT_n, Fld.THM_PART_STAT_duty]⟩
/-- THM_CORE: Table 14.22, R494. -/
def THM_CORE : RegDesc := ⟨0x300400, [(0x4, 36)], 0xA0000000, [Fld.THM_CORE_pstate, Fld.THM_CORE_dband, Fld.THM_CORE_hard, Fld.THM_CORE_v_mv]⟩
/-- THM_HK_CH: Table 14.22, R494. -/
def THM_HK_CH : RegDesc := ⟨0x301000, [(0x4, 1024)], 0x0, [Fld.THM_HK_CH_broken, Fld.THM_HK_CH_settling, Fld.THM_HK_CH_valid, Fld.THM_HK_CH_kind, Fld.THM_HK_CH_value]⟩
/-- HOST_PORT_CTL: Table 13.16, R469. -/
def HOST_PORT_CTL : RegDesc := ⟨0x400000, [(0x1000, 4)], 0x0, [Fld.HOST_PORT_CTL_lock, Fld.HOST_PORT_CTL_max_gen, Fld.HOST_PORT_CTL_cxl_mem, Fld.HOST_PORT_CTL_cxl_cache, Fld.HOST_PORT_CTL_cxl_en, Fld.HOST_PORT_CTL_enable]⟩
/-- HOST_PORT_STAT: Table 13.17, R469. -/
def HOST_PORT_STAT : RegDesc := ⟨0x400004, [(0x1000, 4)], 0x0, [Fld.HOST_PORT_STAT_up, Fld.HOST_PORT_STAT_rate, Fld.HOST_PORT_STAT_width, Fld.HOST_PORT_STAT_flit, Fld.HOST_PORT_STAT_cxl, Fld.HOST_PORT_STAT_slow, Fld.HOST_PORT_STAT_agent, Fld.HOST_PORT_STAT_dstate, Fld.HOST_PORT_STAT_downs]⟩
/-- HOST_APER: Table 13.18, R469. -/
def HOST_APER : RegDesc := ⟨0x400008, [(0x1000, 4)], 0x0, [Fld.HOST_APER_base_64g]⟩
/-- HOST_PORT_ID: Table 13.18, R469. -/
def HOST_PORT_ID : RegDesc := ⟨0x40000C, [(0x1000, 4)], 0x96000000, [Fld.HOST_PORT_ID_device, Fld.HOST_PORT_ID_vendor]⟩
/-- HOST_TRK: Table 13.19, R469. -/
def HOST_TRK : RegDesc := ⟨0x400010, [(0x1000, 4)], 0x0, [Fld.HOST_TRK_evict, Fld.HOST_TRK_used]⟩
/-- HOST_TST_CTL: Table 17.19, R568. -/
def HOST_TST_CTL : RegDesc := ⟨0x400100, [(0x1000, 4)], 0x30000000, [Fld.HOST_TST_CTL_tx_en, Fld.HOST_TST_CTL_rx_en, Fld.HOST_TST_CTL_pattern, Fld.HOST_TST_CTL_invert, Fld.HOST_TST_CTL_rate, Fld.HOST_TST_CTL_lane_sel]⟩
/-- HOST_TST_STAT: Table 17.19, R568. -/
def HOST_TST_STAT : RegDesc := ⟨0x400104, [(0x1000, 4)], 0x0, [Fld.HOST_TST_STAT_running, Fld.HOST_TST_STAT_locked, Fld.HOST_TST_STAT_abort, Fld.HOST_TST_STAT_relocks]⟩
/-- HOST_TST_ERRMAP: Table 17.19, R568. -/
def HOST_TST_ERRMAP : RegDesc := ⟨0x400108, [(0x1000, 4), (0x4, 3)], 0x0, [Fld.HOST_TST_ERRMAP_lanes]⟩
/-- HOST_TST_MASK: Table 17.19, R568. -/
def HOST_TST_MASK : RegDesc := ⟨0x400114, [(0x1000, 4)], 0x0, [Fld.HOST_TST_MASK_lane_mask]⟩
/-- HOST_TST_ERRCNT: Table 17.19, R568. -/
def HOST_TST_ERRCNT : RegDesc := ⟨0x400118, [(0x1000, 4)], 0x0, [Fld.HOST_TST_ERRCNT_errors]⟩
/-- HOST_TST_BITS_LO: Table 17.19, R568. -/
def HOST_TST_BITS_LO : RegDesc := ⟨0x40011C, [(0x1000, 4)], 0x0, [Fld.HOST_TST_BITS_LO_bits]⟩
/-- HOST_TST_MASK2: Table 17.19, R568. -/
def HOST_TST_MASK2 : RegDesc := ⟨0x400120, [(0x1000, 4)], 0x0, [Fld.HOST_TST_MASK2_lane_mask]⟩
/-- HOST_TST_MASK3: Table 17.19, R568. -/
def HOST_TST_MASK3 : RegDesc := ⟨0x400124, [(0x1000, 4)], 0x0, [Fld.HOST_TST_MASK3_lane_mask]⟩
/-- HOST_TST_BITS_HI: Table 17.19, R568. -/
def HOST_TST_BITS_HI : RegDesc := ⟨0x400128, [(0x1000, 4)], 0x0, [Fld.HOST_TST_BITS_HI_bits]⟩
/-- HOST_SB_CFG: Table 13.20, R469. -/
def HOST_SB_CFG : RegDesc := ⟨0x408000, [], 0x5A00, [Fld.HOST_SB_CFG_lock, Fld.HOST_SB_CFG_baud, Fld.HOST_SB_CFG_i3c, Fld.HOST_SB_CFG_sa, Fld.HOST_SB_CFG_eid]⟩
/-- PRV_CTL: Table 8.21, R291. -/
def PRV_CTL : RegDesc := ⟨0x500000, [(0x10000, 2)], 0x3FF, [Fld.PRV_CTL_lock, Fld.PRV_CTL_kill, Fld.PRV_CTL_release, Fld.PRV_CTL_class_allow]⟩
/-- PRV_STAT: Table 8.22, R291. -/
def PRV_STAT : RegDesc := ⟨0x500004, [(0x10000, 2)], 0x20000000, [Fld.PRV_STAT_state, Fld.PRV_STAT_part, Fld.PRV_STAT_kill_reason]⟩
/-- PRV_PROF: Table 8.23, R291. -/
def PRV_PROF : RegDesc := ⟨0x500010, [(0x10000, 2), (0x4, 4)], 0x0, [Fld.PRV_PROF_word]⟩
/-- PRV_LIMIT: Table 8.23, R291. -/
def PRV_LIMIT : RegDesc := ⟨0x500020, [(0x10000, 2), (0x4, 4)], 0x0, [Fld.PRV_LIMIT_word]⟩
/-- PRV_RATE: Table 8.24, R291. -/
def PRV_RATE : RegDesc := ⟨0x500050, [(0x10000, 2)], 0x4000000, [Fld.PRV_RATE_burst, Fld.PRV_RATE_rate]⟩
/-- PRV_INT: Table 8.24, R291. -/
def PRV_INT : RegDesc := ⟨0x500054, [(0x10000, 2)], 0x0, [Fld.PRV_INT_count, Fld.PRV_INT_base]⟩
/-- PRV_COMMIT: Table 8.25, R291. -/
def PRV_COMMIT : RegDesc := ⟨0x500060, [(0x10000, 2)], 0x0, [Fld.PRV_COMMIT_commit, Fld.PRV_COMMIT_busy, Fld.PRV_COMMIT_generation]⟩
/-- PRV_DENY: Table 8.26, R291. -/
def PRV_DENY : RegDesc := ⟨0x500070, [(0x10000, 2)], 0x0, [Fld.PRV_DENY_denied, Fld.PRV_DENY_unmatched]⟩
/-- PRV_DENY_LOG_LO: Table 8.26, R291. -/
def PRV_DENY_LOG_LO : RegDesc := ⟨0x500074, [(0x10000, 2)], 0x0, [Fld.PRV_DENY_LOG_LO_addr_lo]⟩
/-- PRV_DENY_LOG_HI: Table 8.26, R291. -/
def PRV_DENY_LOG_HI : RegDesc := ⟨0x500078, [(0x10000, 2)], 0x0, [Fld.PRV_DENY_LOG_HI_valid, Fld.PRV_DENY_LOG_HI_check, Fld.PRV_DENY_LOG_HI_class, Fld.PRV_DENY_LOG_HI_addr_hi]⟩
/-- PRV_RULE: Table 8.27, R291. -/
def PRV_RULE : RegDesc := ⟨0x500100, [(0x10000, 2), (0x4, 128)], 0x0, [Fld.PRV_RULE_word]⟩
/-- PRV_RULE_ACT: Table 8.27, R291. -/
def PRV_RULE_ACT : RegDesc := ⟨0x500300, [(0x10000, 2), (0x4, 128)], 0x0, [Fld.PRV_RULE_ACT_word]⟩
/-- DBG_CFG: Table 17.13, R566. -/
def DBG_CFG : RegDesc := ⟨0x600000, [], 0x20640004, [Fld.DBG_CFG_lock, Fld.DBG_CFG_mc_halt_en, Fld.DBG_CFG_jtag_wr, Fld.DBG_CFG_mc_halt_ms, Fld.DBG_CFG_defer_us]⟩
/-- DBG_QADDR: Table 17.14, R566. -/
def DBG_QADDR : RegDesc := ⟨0x200000004, [(0x10, 6)], 0x0, [Fld.DBG_QADDR_addr]⟩
/-- DBG_QDATA: Table 17.14, R566. -/
def DBG_QDATA : RegDesc := ⟨0x600008, [], 0x0, [Fld.DBG_QDATA_data]⟩
/-- DBG_HALT_CTL: Table 17.15, R566. -/
def DBG_HALT_CTL : RegDesc := ⟨0x200000008, [(0x10, 6)], 0x0, [Fld.DBG_HALT_CTL_halt, Fld.DBG_HALT_CTL_resume, Fld.DBG_HALT_CTL_step, Fld.DBG_HALT_CTL_force, Fld.DBG_HALT_CTL_stream]⟩
/-- DBG_HALT_STAT: Table 17.15, R566. -/
def DBG_HALT_STAT : RegDesc := ⟨0x600014, [], 0x0, [Fld.DBG_HALT_STAT_state, Fld.DBG_HALT_STAT_lock_held]⟩
/-- DBG_MC_HALT: Table 17.15, R566. -/
def DBG_MC_HALT : RegDesc := ⟨0x600018, [], 0x0, [Fld.DBG_MC_HALT_halted, Fld.DBG_MC_HALT_deferred, Fld.DBG_MC_HALT_forced, Fld.DBG_MC_HALT_halts]⟩
/-- DBG_DUMP_AREA_BASE_LO: Table 17.16, R566. -/
def DBG_DUMP_AREA_BASE_LO : RegDesc := ⟨0x600100, [(0x10, 16)], 0x0, [Fld.DBG_DUMP_AREA_BASE_LO_base_lo]⟩
/-- DBG_DUMP_AREA_BASE_HI: Table 17.16, R566. -/
def DBG_DUMP_AREA_BASE_HI : RegDesc := ⟨0x600104, [(0x10, 16)], 0x0, [Fld.DBG_DUMP_AREA_BASE_HI_base_hi]⟩
/-- DBG_DUMP_AREA_SIZE: Table 17.16, R566. -/
def DBG_DUMP_AREA_SIZE : RegDesc := ⟨0x600108, [(0x10, 16)], 0x0, [Fld.DBG_DUMP_AREA_SIZE_size]⟩
/-- DBG_DUMP_ARM_NAME: Table 17.16, R566. -/
def DBG_DUMP_ARM_NAME : RegDesc := ⟨0x600200, [(0x40, 16), (0x10, 4)], 0x0, [Fld.DBG_DUMP_ARM_NAME_name]⟩
/-- DBG_DUMP_ARM_STEP: Table 17.16, R566. -/
def DBG_DUMP_ARM_STEP : RegDesc := ⟨0x600204, [(0x40, 16), (0x10, 4)], 0x0, [Fld.DBG_DUMP_ARM_STEP_step]⟩
/-- DBG_DUMP_ARM_CTL: Table 17.16, R566. -/
def DBG_DUMP_ARM_CTL : RegDesc := ⟨0x600208, [(0x40, 16), (0x10, 4)], 0x0, [Fld.DBG_DUMP_ARM_CTL_en, Fld.DBG_DUMP_ARM_CTL_any_step, Fld.DBG_DUMP_ARM_CTL_once, Fld.DBG_DUMP_ARM_CTL_hits]⟩
/-- DBG_SNAP: Table 17.17, R566. -/
def DBG_SNAP : RegDesc := ⟨0x610000, [(0x400, 36)], 0x0, [Fld.DBG_SNAP_take, Fld.DBG_SNAP_gen]⟩
/-- DBG_SNAP_TIME: Table 17.17, R566. -/
def DBG_SNAP_TIME : RegDesc := ⟨0x610008, [(0x400, 36), (0x4, 2)], 0x0, [Fld.DBG_SNAP_TIME_time]⟩
/-- DBG_SNAP_BUSY: Table 17.17, R566. -/
def DBG_SNAP_BUSY : RegDesc := ⟨0x610040, [(0x400, 36), (0x40, 14), (0x4, 2)], 0x0, [Fld.DBG_SNAP_BUSY_busy]⟩
/-- DBG_SNAP_STALL: Table 17.17, R566. -/
def DBG_SNAP_STALL : RegDesc := ⟨0x610048, [(0x400, 36), (0x40, 14), (0x4, 2)], 0x0, [Fld.DBG_SNAP_STALL_stall]⟩
/-- DBG_SNAP_IDLE: Table 17.17, R566. -/
def DBG_SNAP_IDLE : RegDesc := ⟨0x610050, [(0x400, 36), (0x40, 14), (0x4, 2)], 0x0, [Fld.DBG_SNAP_IDLE_idle]⟩
/-- DBG_SNAP_REASON: Table 17.17, R566. -/
def DBG_SNAP_REASON : RegDesc := ⟨0x610058, [(0x400, 36), (0x40, 14), (0x4, 8)], 0x0, [Fld.DBG_SNAP_REASON_reason]⟩
/-- DBG_SNAP_DONE: Table 17.17, R566. -/
def DBG_SNAP_DONE : RegDesc := ⟨0x610078, [(0x400, 36), (0x40, 14)], 0x0, [Fld.DBG_SNAP_DONE_done]⟩
/-- PKM_CACHE_CFG: Table 7.14, R255. -/
def PKM_CACHE_CFG : RegDesc := ⟨0x800000, [(0x100000, 6)], 0x80, [Fld.PKM_CACHE_CFG_lock, Fld.PKM_CACHE_CFG_remote_ways, Fld.PKM_CACHE_CFG_fenced, Fld.PKM_CACHE_CFG_enable]⟩
/-- PKM_DIR_STAT: Table 7.15, R255. -/
def PKM_DIR_STAT : RegDesc := ⟨0x800010, [(0x100000, 6)], 0x0, [Fld.PKM_DIR_STAT_inflight, Fld.PKM_DIR_STAT_dir_evict]⟩
/-- PKM_XSTAT: Table 7.16, R255. -/
def PKM_XSTAT : RegDesc := ⟨0x800014, [(0x100000, 6)], 0x0, [Fld.PKM_XSTAT_snp_evicting, Fld.PKM_XSTAT_stale_wb]⟩
/-- PKM_AGENT_LOST: Table 7.17, R255. -/
def PKM_AGENT_LOST : RegDesc := ⟨0x800018, [(0x100000, 6)], 0x0, [Fld.PKM_AGENT_LOST_lost]⟩
/-- PKM_CACHE_WAYS: Table 7.18, R255. -/
def PKM_CACHE_WAYS : RegDesc := ⟨0x800040, [(0x100000, 6), (0x4, 16)], 0xFFFF, [Fld.PKM_CACHE_WAYS_ways]⟩
/-- PKM_HBM_STAT: Table 7.19, R255. -/
def PKM_HBM_STAT : RegDesc := ⟨0x800100, [(0x100000, 6), (0x4, 4)], 0x0, [Fld.PKM_HBM_STAT_fenced, Fld.PKM_HBM_STAT_band, Fld.PKM_HBM_STAT_rowloss]⟩
/-- PKM_HBM_ECC: Table 7.20, R255. -/
def PKM_HBM_ECC : RegDesc := ⟨0x800120, [(0x100000, 6), (0x4, 4)], 0x0, [Fld.PKM_HBM_ECC_erased, Fld.PKM_HBM_ECC_corrected]⟩
/-- PKM_HBM_UE_LO: Table 7.21, R255. -/
def PKM_HBM_UE_LO : RegDesc := ⟨0x800140, [(0x100000, 6)], 0x0, [Fld.PKM_HBM_UE_LO_saddr_lo]⟩
/-- PKM_HBM_UE_HI: Table 7.21, R255. -/
def PKM_HBM_UE_HI : RegDesc := ⟨0x800144, [(0x100000, 6)], 0x0, [Fld.PKM_HBM_UE_HI_valid, Fld.PKM_HBM_UE_HI_stack, Fld.PKM_HBM_UE_HI_saddr_hi]⟩
/-- PKM_SCRUB: Table 7.22, R255. -/
def PKM_SCRUB : RegDesc := ⟨0x800180, [(0x100000, 6)], 0x80000018, [Fld.PKM_SCRUB_enable, Fld.PKM_SCRUB_period_h]⟩
/-- PKM_CACHE_ECC: Table 7.22, R255. -/
def PKM_CACHE_ECC : RegDesc := ⟨0x800190, [(0x100000, 6)], 0x0, [Fld.PKM_CACHE_ECC_uncorrected, Fld.PKM_CACHE_ECC_corrected]⟩
/-- BASE_FEI_CTL: Table 8.14, R289. -/
def BASE_FEI_CTL : RegDesc := ⟨0x880000, [(0x100000, 6), (0x100, 26)], 0x0, [Fld.BASE_FEI_CTL_lock, Fld.BASE_FEI_CTL_retrain, Fld.BASE_FEI_CTL_rx_raw, Fld.BASE_FEI_CTL_tx_raw, Fld.BASE_FEI_CTL_enable]⟩
/-- BASE_FEI_STAT: Table 8.15, R289. -/
def BASE_FEI_STAT : RegDesc := ⟨0x880004, [(0x100000, 6), (0x100, 26)], 0x0, [Fld.BASE_FEI_STAT_state, Fld.BASE_FEI_STAT_lead, Fld.BASE_FEI_STAT_role_mis, Fld.BASE_FEI_STAT_attempts, Fld.BASE_FEI_STAT_gen, Fld.BASE_FEI_STAT_peer, Fld.BASE_FEI_STAT_rx_excl, Fld.BASE_FEI_STAT_tx_excl]⟩
/-- BASE_FEI_TXMAP: Table 8.16, R289. -/
def BASE_FEI_TXMAP : RegDesc := ⟨0x880008, [(0x100000, 6), (0x100, 26)], 0x0, [Fld.BASE_FEI_TXMAP_excl3, Fld.BASE_FEI_TXMAP_excl2, Fld.BASE_FEI_TXMAP_excl1, Fld.BASE_FEI_TXMAP_excl0]⟩
/-- BASE_FEI_RXMAP: Table 8.16, R289. -/
def BASE_FEI_RXMAP : RegDesc := ⟨0x88000C, [(0x100000, 6), (0x100, 26)], 0x0, [Fld.BASE_FEI_RXMAP_excl3, Fld.BASE_FEI_RXMAP_excl2, Fld.BASE_FEI_RXMAP_excl1, Fld.BASE_FEI_RXMAP_excl0]⟩
/-- BASE_FEI_FUSE: Table 8.16, R289. -/
def BASE_FEI_FUSE : RegDesc := ⟨0x880010, [(0x100000, 6), (0x100, 26)], 0x0, [Fld.BASE_FEI_FUSE_excl3, Fld.BASE_FEI_FUSE_excl2, Fld.BASE_FEI_FUSE_excl1, Fld.BASE_FEI_FUSE_excl0]⟩
/-- BASE_FEI_ERR: Table 8.17, R289. -/
def BASE_FEI_ERR : RegDesc := ⟨0x880014, [(0x100000, 6), (0x100, 26)], 0x0, [Fld.BASE_FEI_ERR_crc_err, Fld.BASE_FEI_ERR_replays, Fld.BASE_FEI_ERR_malformed]⟩
/-- BASE_FEI_SWAP: Table 8.18, R289. -/
def BASE_FEI_SWAP : RegDesc := ⟨0x880018, [(0x100000, 6), (0x100, 26)], 0x0, [Fld.BASE_FEI_SWAP_retrains, Fld.BASE_FEI_SWAP_swaps]⟩
/-- BASE_FEI_CRED: Table 8.19, R289. -/
def BASE_FEI_CRED : RegDesc := ⟨0x880040, [(0x100000, 6), (0x100, 26), (0x4, 10)], 0x0, [Fld.BASE_FEI_CRED_avail, Fld.BASE_FEI_CRED_depth]⟩
/-- BASE_TST_CTL: Table 17.19, R568. -/
def BASE_TST_CTL : RegDesc := ⟨0x880080, [(0x100000, 6), (0x100, 26)], 0x30000000, [Fld.BASE_TST_CTL_tx_en, Fld.BASE_TST_CTL_rx_en, Fld.BASE_TST_CTL_pattern, Fld.BASE_TST_CTL_invert, Fld.BASE_TST_CTL_rate, Fld.BASE_TST_CTL_lane_sel]⟩
/-- BASE_TST_STAT: Table 17.19, R568. -/
def BASE_TST_STAT : RegDesc := ⟨0x880084, [(0x100000, 6), (0x100, 26)], 0x0, [Fld.BASE_TST_STAT_running, Fld.BASE_TST_STAT_locked, Fld.BASE_TST_STAT_abort, Fld.BASE_TST_STAT_relocks]⟩
/-- BASE_TST_ERRMAP: Table 17.19, R568. -/
def BASE_TST_ERRMAP : RegDesc := ⟨0x880088, [(0x100000, 6), (0x100, 26), (0x4, 3)], 0x0, [Fld.BASE_TST_ERRMAP_lanes]⟩
/-- BASE_TST_MASK: Table 17.19, R568. -/
def BASE_TST_MASK : RegDesc := ⟨0x880094, [(0x100000, 6), (0x100, 26)], 0x0, [Fld.BASE_TST_MASK_lane_mask]⟩
/-- BASE_TST_ERRCNT: Table 17.19, R568. -/
def BASE_TST_ERRCNT : RegDesc := ⟨0x880098, [(0x100000, 6), (0x100, 26)], 0x0, [Fld.BASE_TST_ERRCNT_errors]⟩
/-- BASE_TST_BITS_LO: Table 17.19, R568. -/
def BASE_TST_BITS_LO : RegDesc := ⟨0x88009C, [(0x100000, 6), (0x100, 26)], 0x0, [Fld.BASE_TST_BITS_LO_bits]⟩
/-- BASE_TST_MASK2: Table 17.19, R568. -/
def BASE_TST_MASK2 : RegDesc := ⟨0x8800A0, [(0x100000, 6), (0x100, 26)], 0x0, [Fld.BASE_TST_MASK2_lane_mask]⟩
/-- BASE_TST_MASK3: Table 17.19, R568. -/
def BASE_TST_MASK3 : RegDesc := ⟨0x8800A4, [(0x100000, 6), (0x100, 26)], 0x0, [Fld.BASE_TST_MASK3_lane_mask]⟩
/-- BASE_TST_BITS_HI: Table 17.19, R568. -/
def BASE_TST_BITS_HI : RegDesc := ⟨0x8800A8, [(0x100000, 6), (0x100, 26)], 0x0, [Fld.BASE_TST_BITS_HI_bits]⟩
/-- SCHED_STAT: Table 6.19, R221. -/
def SCHED_STAT : RegDesc := ⟨0x1001000, [(0x40000, 36)], 0x0, [Fld.SCHED_STAT_streams, Fld.SCHED_STAT_held]⟩
/-- CMEM_CFG: Table 5.7, R183. -/
def CMEM_CFG : RegDesc := ⟨0x1002000, [(0x40000, 36)], 0x0, [Fld.CMEM_CFG_lock, Fld.CMEM_CFG_map]⟩
/-- CMEM_IDLE: Table 5.8, R183. -/
def CMEM_IDLE : RegDesc := ⟨0x1002008, [(0x40000, 36)], 0x1388, [Fld.CMEM_IDLE_steps]⟩
/-- CMEM_MARCH_CTL: Table 5.9, R183. -/
def CMEM_MARCH_CTL : RegDesc := ⟨0x1002040, [(0x40000, 36)], 0x0, [Fld.CMEM_MARCH_CTL_go, Fld.CMEM_MARCH_CTL_kind, Fld.CMEM_MARCH_CTL_bank]⟩
/-- CMEM_MARCH_STAT: Table 5.10, R183. -/
def CMEM_MARCH_STAT : RegDesc := ⟨0x1002044, [(0x40000, 36)], 0x0, [Fld.CMEM_MARCH_STAT_busy, Fld.CMEM_MARCH_STAT_done, Fld.CMEM_MARCH_STAT_result, Fld.CMEM_MARCH_STAT_reason, Fld.CMEM_MARCH_STAT_bank, Fld.CMEM_MARCH_STAT_element, Fld.CMEM_MARCH_STAT_row]⟩
/-- CMEM_MARCH_CNT: Table 5.11, R183. -/
def CMEM_MARCH_CNT : RegDesc := ⟨0x1002048, [(0x40000, 36)], 0x0, [Fld.CMEM_MARCH_CNT_poisoned, Fld.CMEM_MARCH_CNT_fail_words]⟩
/-- CMEM_SCRUB: Table 5.12, R183. -/
def CMEM_SCRUB : RegDesc := ⟨0x1002050, [(0x40000, 36)], 0x80000064, [Fld.CMEM_SCRUB_enable, Fld.CMEM_SCRUB_period_ms]⟩
/-- CMEM_ECC: Table 5.13, R183. -/
def CMEM_ECC : RegDesc := ⟨0x1002060, [(0x40000, 36)], 0x0, [Fld.CMEM_ECC_uncorrected, Fld.CMEM_ECC_corrected]⟩
/-- CMEM_MBX_STAT: Table 5.14, R183. -/
def CMEM_MBX_STAT : RegDesc := ⟨0x1002070, [(0x40000, 36)], 0x0, [Fld.CMEM_MBX_STAT_busy_a, Fld.CMEM_MBX_STAT_busy_b, Fld.CMEM_MBX_STAT_collisions]⟩
/-- CMEM_BANK: Table 5.15, R183. -/
def CMEM_BANK : RegDesc := ⟨0x1002100, [(0x40000, 36), (0x4, 34)], 0x0, [Fld.CMEM_BANK_march, Fld.CMEM_BANK_state, Fld.CMEM_BANK_mode]⟩
/-- MXE_CFG: Table 3.10, R112. -/
def MXE_CFG : RegDesc := ⟨0x1004000, [(0x40000, 36)], 0x6, [Fld.MXE_CFG_lock, Fld.MXE_CFG_os_allow, Fld.MXE_CFG_prefetch, Fld.MXE_CFG_enable]⟩
/-- MXE_STAT: Table 3.11, R112. -/
def MXE_STAT : RegDesc := ⟨0x1004004, [(0x40000, 36)], 0x0, [Fld.MXE_STAT_stream, Fld.MXE_STAT_draining, Fld.MXE_STAT_loading, Fld.MXE_STAT_staged, Fld.MXE_STAT_active]⟩
/-- MXE_RATE: Table 3.12, R112. -/
def MXE_RATE : RegDesc := ⟨0x1004008, [(0x40000, 36)], 0x0, [Fld.MXE_RATE_wf_per_us]⟩
/-- MXE_REJ: Table 3.13, R112. -/
def MXE_REJ : RegDesc := ⟨0x100400C, [(0x40000, 36)], 0x0, [Fld.MXE_REJ_valid, Fld.MXE_REJ_code, Fld.MXE_REJ_stream]⟩
/-- MXE_ECC: Table 3.14, R112. -/
def MXE_ECC : RegDesc := ⟨0x1004010, [(0x40000, 36)], 0x0, [Fld.MXE_ECC_corrected]⟩
/-- MXE_ROW_STATE: Table 3.15, R112. -/
def MXE_ROW_STATE : RegDesc := ⟨0x1004400, [(0x40000, 36), (0x4, 512)], 0x0, [Fld.MXE_ROW_STATE_state, Fld.MXE_ROW_STATE_w]⟩
/-- VXE_CFG: Table 4.18, R155. -/
def VXE_CFG : RegDesc := ⟨0x1005000, [(0x40000, 36), (0x100, 4)], 0x2, [Fld.VXE_CFG_lock, Fld.VXE_CFG_follow_allow, Fld.VXE_CFG_enable]⟩
/-- VXE_STAT: Table 4.19, R155. -/
def VXE_STAT : RegDesc := ⟨0x1005004, [(0x40000, 36), (0x100, 4)], 0x0, [Fld.VXE_STAT_stream, Fld.VXE_STAT_staged, Fld.VXE_STAT_active]⟩
/-- VXE_REJ: Table 4.20, R155. -/
def VXE_REJ : RegDesc := ⟨0x100500C, [(0x40000, 36), (0x100, 4)], 0x0, [Fld.VXE_REJ_valid, Fld.VXE_REJ_code, Fld.VXE_REJ_stream]⟩
/-- SFE_CFG: Table 4.18, R155. -/
def SFE_CFG : RegDesc := ⟨0x1006000, [(0x40000, 36)], 0x2, [Fld.SFE_CFG_lock, Fld.SFE_CFG_follow_allow, Fld.SFE_CFG_enable]⟩
/-- SFE_STAT: Table 4.19, R155. -/
def SFE_STAT : RegDesc := ⟨0x1006004, [(0x40000, 36)], 0x0, [Fld.SFE_STAT_stream, Fld.SFE_STAT_staged, Fld.SFE_STAT_active]⟩
/-- SFE_REJ: Table 4.20, R155. -/
def SFE_REJ : RegDesc := ⟨0x100600C, [(0x40000, 36)], 0x0, [Fld.SFE_REJ_valid, Fld.SFE_REJ_code, Fld.SFE_REJ_stream]⟩
/-- TOP_CFG: Table 4.18, R155. -/
def TOP_CFG : RegDesc := ⟨0x1007000, [(0x40000, 36)], 0x2, [Fld.TOP_CFG_lock, Fld.TOP_CFG_follow_allow, Fld.TOP_CFG_enable]⟩
/-- TOP_STAT: Table 4.19, R155. -/
def TOP_STAT : RegDesc := ⟨0x1007004, [(0x40000, 36)], 0x0, [Fld.TOP_STAT_stream, Fld.TOP_STAT_staged, Fld.TOP_STAT_active]⟩
/-- TOP_REJ: Table 4.20, R155. -/
def TOP_REJ : RegDesc := ⟨0x100700C, [(0x40000, 36)], 0x0, [Fld.TOP_REJ_valid, Fld.TOP_REJ_code, Fld.TOP_REJ_stream]⟩
/-- GDE_CFG: Table 4.18, R155. -/
def GDE_CFG : RegDesc := ⟨0x1008000, [(0x40000, 36)], 0x0, [Fld.GDE_CFG_lock, Fld.GDE_CFG_enable]⟩
/-- GDE_STAT: Table 4.19, R155. -/
def GDE_STAT : RegDesc := ⟨0x1008004, [(0x40000, 36)], 0x0, [Fld.GDE_STAT_stream, Fld.GDE_STAT_staged, Fld.GDE_STAT_active]⟩
/-- GDE_REJ: Table 4.20, R155. -/
def GDE_REJ : RegDesc := ⟨0x100800C, [(0x40000, 36)], 0x0, [Fld.GDE_REJ_valid, Fld.GDE_REJ_code, Fld.GDE_REJ_stream]⟩
/-- GDE_RXREJ: Table 4.25, R156. -/
def GDE_RXREJ : RegDesc := ⟨0x1008020, [(0x40000, 36)], 0x0, [Fld.GDE_RXREJ_last_win, Fld.GDE_RXREJ_last_reason, Fld.GDE_RXREJ_refused]⟩
/-- GDE_RXWIN_CTL: Table 4.21, R156. -/
def GDE_RXWIN_CTL : RegDesc := ⟨0x1008100, [(0x40000, 36), (0x10, 16)], 0x0, [Fld.GDE_RXWIN_CTL_armed, Fld.GDE_RXWIN_CTL_kind, Fld.GDE_RXWIN_CTL_epoch, Fld.GDE_RXWIN_CTL_counter]⟩
/-- GDE_RXWIN_BASE: Table 4.22, R156. -/
def GDE_RXWIN_BASE : RegDesc := ⟨0x1008104, [(0x40000, 36), (0x10, 16)], 0x0, [Fld.GDE_RXWIN_BASE_row_units, Fld.GDE_RXWIN_BASE_row_base]⟩
/-- GDE_RXWIN_SHAPE: Table 4.23, R156. -/
def GDE_RXWIN_SHAPE : RegDesc := ⟨0x1008108, [(0x40000, 36), (0x10, 16)], 0x0, [Fld.GDE_RXWIN_SHAPE_num_src, Fld.GDE_RXWIN_SHAPE_cap]⟩
/-- GDE_RXWIN_AUX: Table 4.24, R156. -/
def GDE_RXWIN_AUX : RegDesc := ⟨0x100810C, [(0x40000, 36), (0x10, 16)], 0x0, [Fld.GDE_RXWIN_AUX_aux_base]⟩
/-- CPE_CFG: Table 4.18, R155. -/
def CPE_CFG : RegDesc := ⟨0x1009000, [(0x40000, 36)], 0x0, [Fld.CPE_CFG_lock, Fld.CPE_CFG_enable]⟩
/-- CPE_STAT: Table 4.19, R155. -/
def CPE_STAT : RegDesc := ⟨0x1009004, [(0x40000, 36)], 0x0, [Fld.CPE_STAT_stream, Fld.CPE_STAT_staged, Fld.CPE_STAT_active]⟩
/-- CPE_REJ: Table 4.20, R155. -/
def CPE_REJ : RegDesc := ⟨0x100900C, [(0x40000, 36)], 0x0, [Fld.CPE_REJ_valid, Fld.CPE_REJ_code, Fld.CPE_REJ_stream]⟩
/-- DME_CFG: Table 4.18, R155. -/
def DME_CFG : RegDesc := ⟨0x100A000, [(0x40000, 36), (0x100, 2)], 0x0, [Fld.DME_CFG_lock, Fld.DME_CFG_enable]⟩
/-- DME_STAT: Table 4.19, R155. -/
def DME_STAT : RegDesc := ⟨0x100A004, [(0x40000, 36), (0x100, 2)], 0x0, [Fld.DME_STAT_stream, Fld.DME_STAT_staged, Fld.DME_STAT_active]⟩
/-- DME_REJ: Table 4.20, R155. -/
def DME_REJ : RegDesc := ⟨0x100A00C, [(0x40000, 36), (0x100, 2)], 0x0, [Fld.DME_REJ_valid, Fld.DME_REJ_code, Fld.DME_REJ_stream]⟩
/-- RNG_CFG: Table 4.18, R155. -/
def RNG_CFG : RegDesc := ⟨0x100B000, [(0x40000, 36)], 0x0, [Fld.RNG_CFG_lock, Fld.RNG_CFG_enable]⟩
/-- RNG_STAT: Table 4.19, R155. -/
def RNG_STAT : RegDesc := ⟨0x100B004, [(0x40000, 36)], 0x0, [Fld.RNG_STAT_stream, Fld.RNG_STAT_staged, Fld.RNG_STAT_active]⟩
/-- RNG_REJ: Table 4.20, R155. -/
def RNG_REJ : RegDesc := ⟨0x100B00C, [(0x40000, 36)], 0x0, [Fld.RNG_REJ_valid, Fld.RNG_REJ_code, Fld.RNG_REJ_stream]⟩
/-- CORE_TRC_CTL: Table 17.18, R567. -/
def CORE_TRC_CTL : RegDesc := ⟨0x100C000, [(0x40000, 36)], 0x1E001D, [Fld.CORE_TRC_CTL_enable, Fld.CORE_TRC_CTL_share, Fld.CORE_TRC_CTL_mask]⟩
/-- CORE_TRC_RING_LO: Table 17.18, R567. -/
def CORE_TRC_RING_LO : RegDesc := ⟨0x100C004, [(0x40000, 36)], 0x0, [Fld.CORE_TRC_RING_LO_addr_lo, Fld.CORE_TRC_RING_LO_log2_size]⟩
/-- CORE_TRC_RING_HI: Table 17.18, R567. -/
def CORE_TRC_RING_HI : RegDesc := ⟨0x100C008, [(0x40000, 36)], 0x0, [Fld.CORE_TRC_RING_HI_addr_hi]⟩
/-- CORE_TRC_WPTR: Table 17.18, R567. -/
def CORE_TRC_WPTR : RegDesc := ⟨0x100C00C, [(0x40000, 36)], 0x0, [Fld.CORE_TRC_WPTR_count]⟩
/-- CORE_TRC_RPTR: Table 17.18, R567. -/
def CORE_TRC_RPTR : RegDesc := ⟨0x100C010, [(0x40000, 36)], 0x0, [Fld.CORE_TRC_RPTR_count]⟩
/-- CORE_TRC_STAT: Table 17.18, R567. -/
def CORE_TRC_STAT : RegDesc := ⟨0x100C014, [(0x40000, 36)], 0x0, [Fld.CORE_TRC_STAT_state, Fld.CORE_TRC_STAT_cfg_err, Fld.CORE_TRC_STAT_lost]⟩
/-- LE_CTL: Table 9.12, R325. -/
def LE_CTL : RegDesc := ⟨0x2000000, [(0x100000, 16)], 0x6, [Fld.LE_CTL_lock, Fld.LE_CTL_xt_en, Fld.LE_CTL_age_en, Fld.LE_CTL_enable]⟩
/-- LE_STAT: Table 9.13, R325. -/
def LE_STAT : RegDesc := ⟨0x2000004, [(0x100000, 16)], 0x0, [Fld.LE_STAT_state, Fld.LE_STAT_conn, Fld.LE_STAT_profile, Fld.LE_STAT_fibres_in, Fld.LE_STAT_gapped_rx, Fld.LE_STAT_gapped_tx]⟩
/-- LE_XT_COMMIT: Table 9.14, R325. -/
def LE_XT_COMMIT : RegDesc := ⟨0x2000010, [(0x100000, 16)], 0x0, [Fld.LE_XT_COMMIT_commit, Fld.LE_XT_COMMIT_busy, Fld.LE_XT_COMMIT_err, Fld.LE_XT_COMMIT_err_entry, Fld.LE_XT_COMMIT_err_heater, Fld.LE_XT_COMMIT_generation]⟩
/-- LE_LASER: Table 9.15, R325. -/
def LE_LASER : RegDesc := ⟨0x2000100, [(0x100000, 16), (0x80, 2), (0x4, 23)], 0x0, [Fld.LE_LASER_state, Fld.LE_LASER_slot, Fld.LE_LASER_bias, Fld.LE_LASER_age]⟩
/-- LE_AGE_CFG: Table 9.16, R325. -/
def LE_AGE_CFG : RegDesc := ⟨0x2000200, [(0x100000, 16)], 0xC008440A, [Fld.LE_AGE_CFG_ceiling, Fld.LE_AGE_CFG_step, Fld.LE_AGE_CFG_target, Fld.LE_AGE_CFG_period_min]⟩
/-- LE_FIBRE: Table 9.17, R325. -/
def LE_FIBRE : RegDesc := ⟨0x2000400, [(0x100000, 16), (0x4, 8)], 0x40000000, [Fld.LE_FIBRE_state, Fld.LE_FIBRE_rx_gap, Fld.LE_FIBRE_tx_gap, Fld.LE_FIBRE_margin_min, Fld.LE_FIBRE_span_loss, Fld.LE_FIBRE_loss_seg]⟩
/-- LE_RING_CTL: Table 9.18, R325. -/
def LE_RING_CTL : RegDesc := ⟨0x2001000, [(0x100000, 16), (0x4, 320)], 0x1F0000, [Fld.LE_RING_CTL_channel, Fld.LE_RING_CTL_heater_code]⟩
/-- LE_RING_STAT: Table 9.19, R325. -/
def LE_RING_STAT : RegDesc := ⟨0x2002000, [(0x100000, 16), (0x4, 320)], 0x0, [Fld.LE_RING_STAT_xt_clamp, Fld.LE_RING_STAT_drive]⟩
/-- LE_MON_LM: Table 9.21, R325. -/
def LE_MON_LM : RegDesc := ⟨0x2003000, [(0x100000, 16), (0x80, 2), (0x4, 23)], 0x8000, [Fld.LE_MON_LM_valid, Fld.LE_MON_LM_settling, Fld.LE_MON_LM_stale, Fld.LE_MON_LM_power]⟩
/-- LE_MON_SM: Table 9.21, R325. -/
def LE_MON_SM : RegDesc := ⟨0x2003100, [(0x100000, 16), (0x10, 8)], 0x8000, [Fld.LE_MON_SM_valid, Fld.LE_MON_SM_settling, Fld.LE_MON_SM_stale, Fld.LE_MON_SM_power]⟩
/-- LE_MON_MM: Table 9.21, R325. -/
def LE_MON_MM : RegDesc := ⟨0x2003104, [(0x100000, 16), (0x10, 8)], 0x8000, [Fld.LE_MON_MM_valid, Fld.LE_MON_MM_settling, Fld.LE_MON_MM_stale, Fld.LE_MON_MM_power]⟩
/-- LE_MON_CM: Table 9.21, R325. -/
def LE_MON_CM : RegDesc := ⟨0x2003108, [(0x100000, 16), (0x10, 8)], 0x8000, [Fld.LE_MON_CM_valid, Fld.LE_MON_CM_settling, Fld.LE_MON_CM_stale, Fld.LE_MON_CM_power]⟩
/-- LE_MON_DM: Table 9.21, R325. -/
def LE_MON_DM : RegDesc := ⟨0x2003200, [(0x100000, 16), (0x50, 8), (0x4, 20)], 0x8000, [Fld.LE_MON_DM_valid, Fld.LE_MON_DM_settling, Fld.LE_MON_DM_stale, Fld.LE_MON_DM_power]⟩
/-- LE_XT: Table 9.22, R325. -/
def LE_XT : RegDesc := ⟨0x2004000, [(0x100000, 16), (0x20, 320), (0x4, 8)], 0x0, [Fld.LE_XT_coeff, Fld.LE_XT_valid, Fld.LE_XT_off]⟩
/-- LE_XT_ACT: Table 9.22, R325. -/
def LE_XT_ACT : RegDesc := ⟨0x2008000, [(0x100000, 16), (0x20, 320), (0x4, 8)], 0x0, [Fld.LE_XT_ACT_coeff, Fld.LE_XT_ACT_valid, Fld.LE_XT_ACT_off]⟩
/-- LE_GAP_CUR: Table 9.23, R325. -/
def LE_GAP_CUR : RegDesc := ⟨0x200C000, [(0x100000, 16)], 0x0, [Fld.LE_GAP_CUR_patch_7, Fld.LE_GAP_CUR_input_7, Fld.LE_GAP_CUR_patch_6, Fld.LE_GAP_CUR_input_6, Fld.LE_GAP_CUR_patch_5, Fld.LE_GAP_CUR_input_5, Fld.LE_GAP_CUR_patch_4, Fld.LE_GAP_CUR_input_4, Fld.LE_GAP_CUR_patch_3, Fld.LE_GAP_CUR_input_3, Fld.LE_GAP_CUR_patch_2, Fld.LE_GAP_CUR_input_2, Fld.LE_GAP_CUR_patch_1, Fld.LE_GAP_CUR_input_1, Fld.LE_GAP_CUR_patch_0, Fld.LE_GAP_CUR_input_0]⟩
/-- LE_GAP_NEXT: Table 9.23, R325. -/
def LE_GAP_NEXT : RegDesc := ⟨0x200C004, [(0x100000, 16)], 0x0, [Fld.LE_GAP_NEXT_patch_7, Fld.LE_GAP_NEXT_input_7, Fld.LE_GAP_NEXT_patch_6, Fld.LE_GAP_NEXT_input_6, Fld.LE_GAP_NEXT_patch_5, Fld.LE_GAP_NEXT_input_5, Fld.LE_GAP_NEXT_patch_4, Fld.LE_GAP_NEXT_input_4, Fld.LE_GAP_NEXT_patch_3, Fld.LE_GAP_NEXT_input_3, Fld.LE_GAP_NEXT_patch_2, Fld.LE_GAP_NEXT_input_2, Fld.LE_GAP_NEXT_patch_1, Fld.LE_GAP_NEXT_input_1, Fld.LE_GAP_NEXT_patch_0, Fld.LE_GAP_NEXT_input_0]⟩
/-- LE_GAP_TIME_LO: Table 9.24, R325. -/
def LE_GAP_TIME_LO : RegDesc := ⟨0x200C008, [(0x100000, 16)], 0x0, [Fld.LE_GAP_TIME_LO_time]⟩
/-- LE_GAP_TIME_HI: Table 9.24, R325. -/
def LE_GAP_TIME_HI : RegDesc := ⟨0x200C00C, [(0x100000, 16)], 0x0, [Fld.LE_GAP_TIME_HI_time]⟩
/-- LE_GAP_CMD: Table 9.25, R325. -/
def LE_GAP_CMD : RegDesc := ⟨0x200C010, [(0x100000, 16)], 0x0, [Fld.LE_GAP_CMD_go, Fld.LE_GAP_CMD_at_time, Fld.LE_GAP_CMD_cancel]⟩
/-- LE_GAP_STAT: Table 9.25, R325. -/
def LE_GAP_STAT : RegDesc := ⟨0x200C014, [(0x100000, 16)], 0x0, [Fld.LE_GAP_STAT_busy, Fld.LE_GAP_STAT_pending, Fld.LE_GAP_STAT_late, Fld.LE_GAP_STAT_cmd_ovr, Fld.LE_GAP_STAT_refused, Fld.LE_GAP_STAT_reason, Fld.LE_GAP_STAT_blocked]⟩
/-- LE_GAP_DONE_LO: Table 9.24, R325. -/
def LE_GAP_DONE_LO : RegDesc := ⟨0x200C018, [(0x100000, 16)], 0x0, [Fld.LE_GAP_DONE_LO_time]⟩
/-- LE_GAP_DONE_HI: Table 9.24, R325. -/
def LE_GAP_DONE_HI : RegDesc := ⟨0x200C01C, [(0x100000, 16)], 0x0, [Fld.LE_GAP_DONE_HI_time]⟩
/-- LE_GAP_AMP: Table 9.26, R325. -/
def LE_GAP_AMP : RegDesc := ⟨0x200C040, [(0x100000, 16), (0x4, 8)], 0x94D, [Fld.LE_GAP_AMP_gain_lim, Fld.LE_GAP_AMP_gain, Fld.LE_GAP_AMP_target]⟩
/-- LE_CAL_CFG: Table 10.8, R353. -/
def LE_CAL_CFG : RegDesc := ⟨0x200D000, [(0x100000, 16)], 0x180A9A28, [Fld.LE_CAL_CFG_dT, Fld.LE_CAL_CFG_period_s, Fld.LE_CAL_CFG_bias_ratio, Fld.LE_CAL_CFG_retune_max, Fld.LE_CAL_CFG_run_en]⟩
/-- LE_CAL_CMD: Table 10.9, R353. -/
def LE_CAL_CMD : RegDesc := ⟨0x200D004, [(0x100000, 16)], 0x0, [Fld.LE_CAL_CMD_run, Fld.LE_CAL_CMD_lane, Fld.LE_CAL_CMD_fibre, Fld.LE_CAL_CMD_lane_no]⟩
/-- LE_CAL_STAT: Table 10.10, R353. -/
def LE_CAL_STAT : RegDesc := ⟨0x200D008, [(0x100000, 16)], 0x0, [Fld.LE_CAL_STAT_running, Fld.LE_CAL_STAT_pending, Fld.LE_CAL_STAT_refused, Fld.LE_CAL_STAT_reason, Fld.LE_CAL_STAT_skipped, Fld.LE_CAL_STAT_runs]⟩
/-- LE_CAL_TEMP: Table 10.11, R353. -/
def LE_CAL_TEMP : RegDesc := ⟨0x200D00C, [(0x100000, 16)], 0x0, [Fld.LE_CAL_TEMP_t_last, Fld.LE_CAL_TEMP_t_now]⟩
/-- LE_CAL_FIBRE: Table 10.12, R353. -/
def LE_CAL_FIBRE : RegDesc := ⟨0x200D020, [(0x100000, 16), (0x4, 8)], 0xF8000000, [Fld.LE_CAL_FIBRE_cal_lane, Fld.LE_CAL_FIBRE_step, Fld.LE_CAL_FIBRE_erased]⟩
/-- LE_CAL_LANEMAP0: Table 10.13, R353. -/
def LE_CAL_LANEMAP0 : RegDesc := ⟨0x200D100, [(0x100000, 16), (0x10, 8)], 0xA418820, [Fld.LE_CAL_LANEMAP0_chan_5, Fld.LE_CAL_LANEMAP0_chan_4, Fld.LE_CAL_LANEMAP0_chan_3, Fld.LE_CAL_LANEMAP0_chan_2, Fld.LE_CAL_LANEMAP0_chan_1, Fld.LE_CAL_LANEMAP0_chan_0]⟩
/-- LE_CAL_LANEMAP1: Table 10.13, R353. -/
def LE_CAL_LANEMAP1 : RegDesc := ⟨0x200D104, [(0x100000, 16), (0x10, 8)], 0x16A4A0E6, [Fld.LE_CAL_LANEMAP1_chan_5, Fld.LE_CAL_LANEMAP1_chan_4, Fld.LE_CAL_LANEMAP1_chan_3, Fld.LE_CAL_LANEMAP1_chan_2, Fld.LE_CAL_LANEMAP1_chan_1, Fld.LE_CAL_LANEMAP1_chan_0]⟩
/-- LE_CAL_LANEMAP2: Table 10.13, R353. -/
def LE_CAL_LANEMAP2 : RegDesc := ⟨0x200D108, [(0x100000, 16), (0x10, 8)], 0x2307B9AC, [Fld.LE_CAL_LANEMAP2_chan_5, Fld.LE_CAL_LANEMAP2_chan_4, Fld.LE_CAL_LANEMAP2_chan_3, Fld.LE_CAL_LANEMAP2_chan_2, Fld.LE_CAL_LANEMAP2_chan_1, Fld.LE_CAL_LANEMAP2_chan_0]⟩
/-- LE_CAL_RSTATE: Table 10.14, R353. -/
def LE_CAL_RSTATE : RegDesc := ⟨0x200D400, [(0x100000, 16), (0x4, 320)], 0x20000000, [Fld.LE_CAL_RSTATE_state, Fld.LE_CAL_RSTATE_retunes, Fld.LE_CAL_RSTATE_stale, Fld.LE_CAL_RSTATE_reason, Fld.LE_CAL_RSTATE_spacing]⟩
/-- LE_CAL_RHOLD: Table 10.14, R353. -/
def LE_CAL_RHOLD : RegDesc := ⟨0x200D900, [(0x100000, 16), (0x4, 320)], 0x0, [Fld.LE_CAL_RHOLD_hold_code]⟩
/-- LE_CAL_MON_CTL: Table 10.15, R353. -/
def LE_CAL_MON_CTL : RegDesc := ⟨0x200E000, [(0x100000, 16)], 0x2000000, [Fld.LE_CAL_MON_CTL_trig, Fld.LE_CAL_MON_CTL_sync, Fld.LE_CAL_MON_CTL_gain, Fld.LE_CAL_MON_CTL_span, Fld.LE_CAL_MON_CTL_stage, Fld.LE_CAL_MON_CTL_index]⟩
/-- LE_CAL_MON_RES: Table 10.15, R353. -/
def LE_CAL_MON_RES : RegDesc := ⟨0x200E004, [(0x100000, 16)], 0x8000, [Fld.LE_CAL_MON_RES_valid, Fld.LE_CAL_MON_RES_trig_ovr, Fld.LE_CAL_MON_RES_settling, Fld.LE_CAL_MON_RES_busy, Fld.LE_CAL_MON_RES_pending, Fld.LE_CAL_MON_RES_gain_used, Fld.LE_CAL_MON_RES_power]⟩
/-- LQ_TST_CTL: Table 17.19, R568. -/
def LQ_TST_CTL : RegDesc := ⟨0x200F000, [(0x100000, 16), (0x40, 8)], 0x30000000, [Fld.LQ_TST_CTL_tx_en, Fld.LQ_TST_CTL_rx_en, Fld.LQ_TST_CTL_pattern, Fld.LQ_TST_CTL_invert, Fld.LQ_TST_CTL_rate, Fld.LQ_TST_CTL_lane_sel]⟩
/-- LQ_TST_STAT: Table 17.19, R568. -/
def LQ_TST_STAT : RegDesc := ⟨0x200F004, [(0x100000, 16), (0x40, 8)], 0x0, [Fld.LQ_TST_STAT_running, Fld.LQ_TST_STAT_locked, Fld.LQ_TST_STAT_abort, Fld.LQ_TST_STAT_relocks]⟩
/-- LQ_TST_ERRMAP: Table 17.19, R568. -/
def LQ_TST_ERRMAP : RegDesc := ⟨0x200F008, [(0x100000, 16), (0x40, 8), (0x4, 3)], 0x0, [Fld.LQ_TST_ERRMAP_lanes]⟩
/-- LQ_TST_MASK: Table 17.19, R568. -/
def LQ_TST_MASK : RegDesc := ⟨0x200F014, [(0x100000, 16), (0x40, 8)], 0x0, [Fld.LQ_TST_MASK_lane_mask]⟩
/-- LQ_TST_ERRCNT: Table 17.19, R568. -/
def LQ_TST_ERRCNT : RegDesc := ⟨0x200F018, [(0x100000, 16), (0x40, 8)], 0x0, [Fld.LQ_TST_ERRCNT_errors]⟩
/-- LQ_TST_BITS_LO: Table 17.19, R568. -/
def LQ_TST_BITS_LO : RegDesc := ⟨0x200F01C, [(0x100000, 16), (0x40, 8)], 0x0, [Fld.LQ_TST_BITS_LO_bits]⟩
/-- LQ_TST_MASK2: Table 17.19, R568. -/
def LQ_TST_MASK2 : RegDesc := ⟨0x200F020, [(0x100000, 16), (0x40, 8)], 0x0, [Fld.LQ_TST_MASK2_lane_mask]⟩
/-- LQ_TST_MASK3: Table 17.19, R568. -/
def LQ_TST_MASK3 : RegDesc := ⟨0x200F024, [(0x100000, 16), (0x40, 8)], 0x0, [Fld.LQ_TST_MASK3_lane_mask]⟩
/-- LQ_TST_BITS_HI: Table 17.19, R568. -/
def LQ_TST_BITS_HI : RegDesc := ⟨0x200F028, [(0x100000, 16), (0x40, 8)], 0x0, [Fld.LQ_TST_BITS_HI_bits]⟩
/-- LE_TRC_CTL: Table 17.18, R567. -/
def LE_TRC_CTL : RegDesc := ⟨0x200F400, [(0x100000, 16)], 0x1E1F00, [Fld.LE_TRC_CTL_enable, Fld.LE_TRC_CTL_share, Fld.LE_TRC_CTL_mask]⟩
/-- LE_TRC_RING_LO: Table 17.18, R567. -/
def LE_TRC_RING_LO : RegDesc := ⟨0x200F404, [(0x100000, 16)], 0x0, [Fld.LE_TRC_RING_LO_addr_lo, Fld.LE_TRC_RING_LO_log2_size]⟩
/-- LE_TRC_RING_HI: Table 17.18, R567. -/
def LE_TRC_RING_HI : RegDesc := ⟨0x200F408, [(0x100000, 16)], 0x0, [Fld.LE_TRC_RING_HI_addr_hi]⟩
/-- LE_TRC_WPTR: Table 17.18, R567. -/
def LE_TRC_WPTR : RegDesc := ⟨0x200F40C, [(0x100000, 16)], 0x0, [Fld.LE_TRC_WPTR_count]⟩
/-- LE_TRC_RPTR: Table 17.18, R567. -/
def LE_TRC_RPTR : RegDesc := ⟨0x200F410, [(0x100000, 16)], 0x0, [Fld.LE_TRC_RPTR_count]⟩
/-- LE_TRC_STAT: Table 17.18, R567. -/
def LE_TRC_STAT : RegDesc := ⟨0x200F414, [(0x100000, 16)], 0x0, [Fld.LE_TRC_STAT_state, Fld.LE_TRC_STAT_cfg_err, Fld.LE_TRC_STAT_lost]⟩
/-- LQ_CTL: Table 11.14, R394. -/
def LQ_CTL : RegDesc := ⟨0x2010000, [(0x100000, 16), (0x200, 8)], 0x2, [Fld.LQ_CTL_retrain, Fld.LQ_CTL_swap, Fld.LQ_CTL_oq1_allow, Fld.LQ_CTL_enable]⟩
/-- LQ_CFG: Table 11.15, R394. -/
def LQ_CFG : RegDesc := ⟨0x2010004, [(0x100000, 16), (0x200, 8)], 0xA140064, [Fld.LQ_CFG_audit, Fld.LQ_CFG_grace, Fld.LQ_CFG_ldt_us]⟩
/-- LQ_STAT: Table 11.16, R394. -/
def LQ_STAT : RegDesc := ⟨0x2010008, [(0x100000, 16), (0x200, 8)], 0x0, [Fld.LQ_STAT_state, Fld.LQ_STAT_lead, Fld.LQ_STAT_oq1, Fld.LQ_STAT_los, Fld.LQ_STAT_path, Fld.LQ_STAT_swap, Fld.LQ_STAT_cfg_err, Fld.LQ_STAT_fail_reason, Fld.LQ_STAT_attempts]⟩
/-- LQ_ERASED: Table 11.17, R394. -/
def LQ_ERASED : RegDesc := ⟨0x201000C, [(0x100000, 16), (0x200, 8)], 0x0, [Fld.LQ_ERASED_lanes]⟩
/-- LQ_RTT: Table 11.17, R394. -/
def LQ_RTT : RegDesc := ⟨0x2010010, [(0x100000, 16), (0x200, 8)], 0x0, [Fld.LQ_RTT_rtt_ns]⟩
/-- LQ_SEQ_TX: Table 11.18, R394. -/
def LQ_SEQ_TX : RegDesc := ⟨0x2010014, [(0x100000, 16), (0x200, 8)], 0x0, [Fld.LQ_SEQ_TX_seq]⟩
/-- LQ_SEQ_RX: Table 11.18, R394. -/
def LQ_SEQ_RX : RegDesc := ⟨0x2010018, [(0x100000, 16), (0x200, 8)], 0x0, [Fld.LQ_SEQ_RX_seq]⟩
/-- LQ_REPLAY: Table 11.19, R394. -/
def LQ_REPLAY : RegDesc := ⟨0x201001C, [(0x100000, 16), (0x200, 8)], 0x0, [Fld.LQ_REPLAY_replays, Fld.LQ_REPLAY_held]⟩
/-- LQ_ERR: Table 11.19, R394. -/
def LQ_ERR : RegDesc := ⟨0x2010020, [(0x100000, 16), (0x200, 8)], 0x0, [Fld.LQ_ERR_check_fail, Fld.LQ_ERR_corrected]⟩
/-- LQ_EVENTS: Table 11.19, R394. -/
def LQ_EVENTS : RegDesc := ⟨0x2010024, [(0x100000, 16), (0x200, 8)], 0x0, [Fld.LQ_EVENTS_downs, Fld.LQ_EVENTS_flushes, Fld.LQ_EVENTS_retrains, Fld.LQ_EVENTS_lock_losses]⟩
/-- LQ_VC_LOW: Table 11.20, R394. -/
def LQ_VC_LOW : RegDesc := ⟨0x2010040, [(0x100000, 16), (0x200, 8), (0x4, 2)], 0x80, [Fld.LQ_VC_LOW_credits, Fld.LQ_VC_LOW_window]⟩
/-- LQ_VC_HIGH: Table 11.20, R394. -/
def LQ_VC_HIGH : RegDesc := ⟨0x2010048, [(0x100000, 16), (0x200, 8), (0x4, 2)], 0x380, [Fld.LQ_VC_HIGH_credits, Fld.LQ_VC_HIGH_window]⟩
/-- LQ_DEFICIT: Table 11.21, R394. -/
def LQ_DEFICIT : RegDesc := ⟨0x2010050, [(0x100000, 16), (0x200, 8), (0x4, 4)], 0x0, [Fld.LQ_DEFICIT_low75, Fld.LQ_DEFICIT_deficit]⟩
/-- LQ_PATH_CTL: Table 11.22, R394. -/
def LQ_PATH_CTL : RegDesc := ⟨0x2010060, [(0x100000, 16), (0x200, 8)], 0x80000, [Fld.LQ_PATH_CTL_go, Fld.LQ_PATH_CTL_at_time, Fld.LQ_PATH_CTL_vc, Fld.LQ_PATH_CTL_mode, Fld.LQ_PATH_CTL_src_node]⟩
/-- LQ_PATH_DLY: Table 11.22, R394. -/
def LQ_PATH_DLY : RegDesc := ⟨0x2010064, [(0x100000, 16), (0x200, 8)], 0x0, [Fld.LQ_PATH_DLY_delay_ns]⟩
/-- LQ_PATH_TIME_LO: Table 11.22, R394. -/
def LQ_PATH_TIME_LO : RegDesc := ⟨0x2010068, [(0x100000, 16), (0x200, 8)], 0x0, [Fld.LQ_PATH_TIME_LO_time]⟩
/-- LQ_PATH_TIME_HI: Table 11.22, R394. -/
def LQ_PATH_TIME_HI : RegDesc := ⟨0x201006C, [(0x100000, 16), (0x200, 8)], 0x0, [Fld.LQ_PATH_TIME_HI_time]⟩
/-- LQ_PATH_STAT: Table 11.22, R394. -/
def LQ_PATH_STAT : RegDesc := ⟨0x2010070, [(0x100000, 16), (0x200, 8)], 0x0, [Fld.LQ_PATH_STAT_lost, Fld.LQ_PATH_STAT_locked]⟩
/-- LE_FEI_CTL: Table 8.14, R289. -/
def LE_FEI_CTL : RegDesc := ⟨0x2080000, [(0x100000, 16), (0x100, 3)], 0x0, [Fld.LE_FEI_CTL_lock, Fld.LE_FEI_CTL_retrain, Fld.LE_FEI_CTL_rx_raw, Fld.LE_FEI_CTL_tx_raw, Fld.LE_FEI_CTL_enable]⟩
/-- LE_FEI_STAT: Table 8.15, R289. -/
def LE_FEI_STAT : RegDesc := ⟨0x2080004, [(0x100000, 16), (0x100, 3)], 0x0, [Fld.LE_FEI_STAT_state, Fld.LE_FEI_STAT_lead, Fld.LE_FEI_STAT_role_mis, Fld.LE_FEI_STAT_attempts, Fld.LE_FEI_STAT_gen, Fld.LE_FEI_STAT_peer, Fld.LE_FEI_STAT_rx_excl, Fld.LE_FEI_STAT_tx_excl]⟩
/-- LE_FEI_TXMAP: Table 8.16, R289. -/
def LE_FEI_TXMAP : RegDesc := ⟨0x2080008, [(0x100000, 16), (0x100, 3)], 0x0, [Fld.LE_FEI_TXMAP_excl3, Fld.LE_FEI_TXMAP_excl2, Fld.LE_FEI_TXMAP_excl1, Fld.LE_FEI_TXMAP_excl0]⟩
/-- LE_FEI_RXMAP: Table 8.16, R289. -/
def LE_FEI_RXMAP : RegDesc := ⟨0x208000C, [(0x100000, 16), (0x100, 3)], 0x0, [Fld.LE_FEI_RXMAP_excl3, Fld.LE_FEI_RXMAP_excl2, Fld.LE_FEI_RXMAP_excl1, Fld.LE_FEI_RXMAP_excl0]⟩
/-- LE_FEI_FUSE: Table 8.16, R289. -/
def LE_FEI_FUSE : RegDesc := ⟨0x2080010, [(0x100000, 16), (0x100, 3)], 0x0, [Fld.LE_FEI_FUSE_excl3, Fld.LE_FEI_FUSE_excl2, Fld.LE_FEI_FUSE_excl1, Fld.LE_FEI_FUSE_excl0]⟩
/-- LE_FEI_ERR: Table 8.17, R289. -/
def LE_FEI_ERR : RegDesc := ⟨0x2080014, [(0x100000, 16), (0x100, 3)], 0x0, [Fld.LE_FEI_ERR_crc_err, Fld.LE_FEI_ERR_replays, Fld.LE_FEI_ERR_malformed]⟩
/-- LE_FEI_SWAP: Table 8.18, R289. -/
def LE_FEI_SWAP : RegDesc := ⟨0x2080018, [(0x100000, 16), (0x100, 3)], 0x0, [Fld.LE_FEI_SWAP_retrains, Fld.LE_FEI_SWAP_swaps]⟩
/-- LE_FEI_CRED: Table 8.19, R289. -/
def LE_FEI_CRED : RegDesc := ⟨0x2080040, [(0x100000, 16), (0x100, 3), (0x4, 10)], 0x0, [Fld.LE_FEI_CRED_avail, Fld.LE_FEI_CRED_depth]⟩
/-- LE_TST_CTL: Table 17.19, R568. -/
def LE_TST_CTL : RegDesc := ⟨0x2080080, [(0x100000, 16), (0x100, 3)], 0x30000000, [Fld.LE_TST_CTL_tx_en, Fld.LE_TST_CTL_rx_en, Fld.LE_TST_CTL_pattern, Fld.LE_TST_CTL_invert, Fld.LE_TST_CTL_rate, Fld.LE_TST_CTL_lane_sel]⟩
/-- LE_TST_STAT: Table 17.19, R568. -/
def LE_TST_STAT : RegDesc := ⟨0x2080084, [(0x100000, 16), (0x100, 3)], 0x0, [Fld.LE_TST_STAT_running, Fld.LE_TST_STAT_locked, Fld.LE_TST_STAT_abort, Fld.LE_TST_STAT_relocks]⟩
/-- LE_TST_ERRMAP: Table 17.19, R568. -/
def LE_TST_ERRMAP : RegDesc := ⟨0x2080088, [(0x100000, 16), (0x100, 3), (0x4, 3)], 0x0, [Fld.LE_TST_ERRMAP_lanes]⟩
/-- LE_TST_MASK: Table 17.19, R568. -/
def LE_TST_MASK : RegDesc := ⟨0x2080094, [(0x100000, 16), (0x100, 3)], 0x0, [Fld.LE_TST_MASK_lane_mask]⟩
/-- LE_TST_ERRCNT: Table 17.19, R568. -/
def LE_TST_ERRCNT : RegDesc := ⟨0x2080098, [(0x100000, 16), (0x100, 3)], 0x0, [Fld.LE_TST_ERRCNT_errors]⟩
/-- LE_TST_BITS_LO: Table 17.19, R568. -/
def LE_TST_BITS_LO : RegDesc := ⟨0x208009C, [(0x100000, 16), (0x100, 3)], 0x0, [Fld.LE_TST_BITS_LO_bits]⟩
/-- LE_TST_MASK2: Table 17.19, R568. -/
def LE_TST_MASK2 : RegDesc := ⟨0x20800A0, [(0x100000, 16), (0x100, 3)], 0x0, [Fld.LE_TST_MASK2_lane_mask]⟩
/-- LE_TST_MASK3: Table 17.19, R568. -/
def LE_TST_MASK3 : RegDesc := ⟨0x20800A4, [(0x100000, 16), (0x100, 3)], 0x0, [Fld.LE_TST_MASK3_lane_mask]⟩
/-- LE_TST_BITS_HI: Table 17.19, R568. -/
def LE_TST_BITS_HI : RegDesc := ⟨0x20800A8, [(0x100000, 16), (0x100, 3)], 0x0, [Fld.LE_TST_BITS_HI_bits]⟩
/-- FAB_CFG: Table 12.16, R439. -/
def FAB_CFG : RegDesc := ⟨0x3000000, [], 0xF400020, [Fld.FAB_CFG_lock, Fld.FAB_CFG_wrap, Fld.FAB_CFG_mode, Fld.FAB_CFG_hop_limit, Fld.FAB_CFG_diameter]⟩
/-- FAB_ID: Table 12.17, R439. -/
def FAB_ID : RegDesc := ⟨0x3000004, [], 0x0, [Fld.FAB_ID_node]⟩
/-- FAB_DIM: Table 12.17, R439. -/
def FAB_DIM : RegDesc := ⟨0x3000010, [(0x4, 4)], 0xF, [Fld.FAB_DIM_coord, Fld.FAB_DIM_size_m1]⟩
/-- FAB_CTL: Table 12.18, R439. -/
def FAB_CTL : RegDesc := ⟨0x3000020, [], 0x0, [Fld.FAB_CTL_start, Fld.FAB_CTL_leave]⟩
/-- FAB_STAT: Table 12.18, R439. -/
def FAB_STAT : RegDesc := ⟨0x3000024, [], 0x0, [Fld.FAB_STAT_state, Fld.FAB_STAT_start_ref, Fld.FAB_STAT_gen]⟩
/-- FAB_ROOT: Table 12.19, R439. -/
def FAB_ROOT : RegDesc := ⟨0x3000028, [], 0x0, [Fld.FAB_ROOT_hops, Fld.FAB_ROOT_node]⟩
/-- FAB_ROOT_ID_LO: Table 12.19, R439. -/
def FAB_ROOT_ID_LO : RegDesc := ⟨0x300002C, [], 0x0, [Fld.FAB_ROOT_ID_LO_pkg_id]⟩
/-- FAB_ROOT_ID_HI: Table 12.19, R439. -/
def FAB_ROOT_ID_HI : RegDesc := ⟨0x3000030, [], 0x0, [Fld.FAB_ROOT_ID_HI_pkg_id]⟩
/-- FAB_TB: Table 12.20, R439. -/
def FAB_TB : RegDesc := ⟨0x3000034, [], 0x3FC00000, [Fld.FAB_TB_aligned, Fld.FAB_TB_stepped, Fld.FAB_TB_parent, Fld.FAB_TB_offset]⟩
/-- FAB_RTO: Table 12.21, R439. -/
def FAB_RTO : RegDesc := ⟨0x3000040, [], 0xA, [Fld.FAB_RTO_outstanding, Fld.FAB_RTO_rto_ms]⟩
/-- FAB_ERR: Table 12.21, R439. -/
def FAB_ERR : RegDesc := ⟨0x3000044, [], 0x0, [Fld.FAB_ERR_noroute, Fld.FAB_ERR_hops, Fld.FAB_ERR_slip_lost, Fld.FAB_ERR_ctl]⟩
/-- FAB_SLEEP: Table 12.22, R439. -/
def FAB_SLEEP : RegDesc := ⟨0x3000050, [], 0x80000064, [Fld.FAB_SLEEP_enable, Fld.FAB_SLEEP_idle_us]⟩
/-- FAB_PL_CFG: Table 12.22, R439. -/
def FAB_PL_CFG : RegDesc := ⟨0x3000060, [], 0x13C07D0, [Fld.FAB_PL_CFG_feed_bundles, Fld.FAB_PL_CFG_settle, Fld.FAB_PL_CFG_guard_ns]⟩
/-- FAB_FDIR: Table 12.23, R439. -/
def FAB_FDIR : RegDesc := ⟨0x3000100, [(0x4, 128)], 0x0, [Fld.FAB_FDIR_state, Fld.FAB_FDIR_peer, Fld.FAB_FDIR_dir]⟩
/-- FAB_RTE0: Table 12.24, R439. -/
def FAB_RTE0 : RegDesc := ⟨0x3000400, [(0x8, 64)], 0x0, [Fld.FAB_RTE0_hi, Fld.FAB_RTE0_lo]⟩
/-- FAB_RTE1: Table 12.24, R439. -/
def FAB_RTE1 : RegDesc := ⟨0x3000404, [(0x8, 64)], 0x0, [Fld.FAB_RTE1_en, Fld.FAB_RTE1_port]⟩
/-- FAB_PIN: Table 12.25, R439. -/
def FAB_PIN : RegDesc := ⟨0x3000600, [(0x4, 16)], 0xFFFF, [Fld.FAB_PIN_hi, Fld.FAB_PIN_lo]⟩
/-- FAB_COLL: Table 12.26, R439. -/
def FAB_COLL : RegDesc := ⟨0x3010000, [(0x40, 256), (0x4, 16)], 0x0, [Fld.FAB_COLL_word]⟩
/-- FAB_COLL_STAT0: Table 12.27, R439. -/
def FAB_COLL_STAT0 : RegDesc := ⟨0x3020000, [(0x10, 256)], 0x0, [Fld.FAB_COLL_STAT0_state, Fld.FAB_COLL_STAT0_status, Fld.FAB_COLL_STAT0_flags, Fld.FAB_COLL_STAT0_sat]⟩
/-- FAB_COLL_STAT1: Table 12.27, R439. -/
def FAB_COLL_STAT1 : RegDesc := ⟨0x3020004, [(0x10, 256)], 0x0, [Fld.FAB_COLL_STAT1_injected]⟩
/-- FAB_COLL_STAT2: Table 12.27, R439. -/
def FAB_COLL_STAT2 : RegDesc := ⟨0x3020008, [(0x10, 256)], 0x0, [Fld.FAB_COLL_STAT2_merged]⟩
/-- FAB_COLL_STAT3: Table 12.27, R439. -/
def FAB_COLL_STAT3 : RegDesc := ⟨0x302000C, [(0x10, 256)], 0x0, [Fld.FAB_COLL_STAT3_lost]⟩

/-- The register tables, part 1. -/
def table1 : List RegDesc :=
  [HUB_ID, HUB_PKG_ID_LO, HUB_PKG_ID_HI, HUB_GRADE, HUB_COPPICE_STAT, HUB_COPPICE_CTL, HUB_SITE_STATE, HUB_CORE_MAP, HUB_HBM_CFG, HUB_HBM_STACKS, HUB_HBM_RANGE, HUB_FEI_CTL, HUB_FEI_STAT, HUB_FEI_TXMAP, HUB_FEI_RXMAP, HUB_FEI_FUSE, HUB_FEI_ERR, HUB_FEI_SWAP, HUB_FEI_CRED, HUB_TST_CTL, HUB_TST_STAT, HUB_TST_ERRMAP, HUB_TST_MASK, HUB_TST_ERRCNT, HUB_TST_BITS_LO, HUB_TST_MASK2, HUB_TST_MASK3, HUB_TST_BITS_HI, HUB_DIEMAP, HUB_PART_CTL, HUB_PART_CORES, HUB_PART_MEM, HUB_PART_STRM, HUB_PART_CTR, HUB_PART_RES, HUB_PART_STAT, HUB_STRM_SEL, HUB_STRM_CFG, HUB_STRM_LIMIT, HUB_STRM_SQ_LO]
/-- The register tables, part 2. -/
def table2 : List RegDesc :=
  [HUB_STRM_SQ_HI, HUB_STRM_CQ_LO, HUB_STRM_CQ_HI, HUB_STRM_SEED_LO, HUB_STRM_SEED_HI, HUB_STRM_STAT, HUB_STRM_COMMIT, HUB_STRM_FETCH, HUB_STRM_TAIL, HUB_STRM_CQT, HUB_STRM_CQH, MGMT_FW_STAT, MGMT_MFW_VER, MGMT_MFW_IF, MGMT_LFW_VER, MGMT_RST_CTL, MGMT_RST_CAUSE, MGMT_BOOT_CTL, MGMT_PAIR, MGMT_UPD_STAT, MGMT_CFG, MGMT_LE_FW, MGMT_MBX_CTL, MGMT_MBX_DATA, FLT_CFG, FLT_STAT, FLT_ACK, FLT_CLEAR, FLT_FIRST_IDENT, FLT_FIRST_DETAIL, FLT_FIRST_TIME_LO, FLT_FIRST_TIME_HI, FLT_COUNT, FLT_PEND1_LO, FLT_PEND1_MID, FLT_PEND1_HI, FLT_PEND2, FLT_ALIVE, FLT_STORE, FLT_PART_CTL]
/-- The register tables, part 3. -/
def table3 : List RegDesc :=
  [FLT_PART_STAT, FLT_PART_REC, FLT_PART_DET, THM_PKG_LIMIT, THM_PKG_STAT, THM_SILICON, THM_IDLE, THM_TH_CFG, THM_TRIP, THM_HK_CTL, THM_HK_RES, THM_HK_STAT, THM_TB_CFG, THM_TB_LO, THM_TB_HI, THM_TB_SET_LO, THM_TB_SET_HI, THM_TB_CTL, THM_PART_PERF, THM_PART_STAT, THM_CORE, THM_HK_CH, HOST_PORT_CTL, HOST_PORT_STAT, HOST_APER, HOST_PORT_ID, HOST_TRK, HOST_TST_CTL, HOST_TST_STAT, HOST_TST_ERRMAP, HOST_TST_MASK, HOST_TST_ERRCNT, HOST_TST_BITS_LO, HOST_TST_MASK2, HOST_TST_MASK3, HOST_TST_BITS_HI, HOST_SB_CFG, PRV_CTL, PRV_STAT, PRV_PROF]
/-- The register tables, part 4. -/
def table4 : List RegDesc :=
  [PRV_LIMIT, PRV_RATE, PRV_INT, PRV_COMMIT, PRV_DENY, PRV_DENY_LOG_LO, PRV_DENY_LOG_HI, PRV_RULE, PRV_RULE_ACT, DBG_CFG, DBG_QADDR, DBG_QDATA, DBG_HALT_CTL, DBG_HALT_STAT, DBG_MC_HALT, DBG_DUMP_AREA_BASE_LO, DBG_DUMP_AREA_BASE_HI, DBG_DUMP_AREA_SIZE, DBG_DUMP_ARM_NAME, DBG_DUMP_ARM_STEP, DBG_DUMP_ARM_CTL, DBG_SNAP, DBG_SNAP_TIME, DBG_SNAP_BUSY, DBG_SNAP_STALL, DBG_SNAP_IDLE, DBG_SNAP_REASON, DBG_SNAP_DONE, PKM_CACHE_CFG, PKM_DIR_STAT, PKM_XSTAT, PKM_AGENT_LOST, PKM_CACHE_WAYS, PKM_HBM_STAT, PKM_HBM_ECC, PKM_HBM_UE_LO, PKM_HBM_UE_HI, PKM_SCRUB, PKM_CACHE_ECC, BASE_FEI_CTL]
/-- The register tables, part 5. -/
def table5 : List RegDesc :=
  [BASE_FEI_STAT, BASE_FEI_TXMAP, BASE_FEI_RXMAP, BASE_FEI_FUSE, BASE_FEI_ERR, BASE_FEI_SWAP, BASE_FEI_CRED, BASE_TST_CTL, BASE_TST_STAT, BASE_TST_ERRMAP, BASE_TST_MASK, BASE_TST_ERRCNT, BASE_TST_BITS_LO, BASE_TST_MASK2, BASE_TST_MASK3, BASE_TST_BITS_HI, SCHED_STAT, CMEM_CFG, CMEM_IDLE, CMEM_MARCH_CTL, CMEM_MARCH_STAT, CMEM_MARCH_CNT, CMEM_SCRUB, CMEM_ECC, CMEM_MBX_STAT, CMEM_BANK, MXE_CFG, MXE_STAT, MXE_RATE, MXE_REJ, MXE_ECC, MXE_ROW_STATE, VXE_CFG, VXE_STAT, VXE_REJ, SFE_CFG, SFE_STAT, SFE_REJ, TOP_CFG, TOP_STAT]
/-- The register tables, part 6. -/
def table6 : List RegDesc :=
  [TOP_REJ, GDE_CFG, GDE_STAT, GDE_REJ, GDE_RXREJ, GDE_RXWIN_CTL, GDE_RXWIN_BASE, GDE_RXWIN_SHAPE, GDE_RXWIN_AUX, CPE_CFG, CPE_STAT, CPE_REJ, DME_CFG, DME_STAT, DME_REJ, RNG_CFG, RNG_STAT, RNG_REJ, CORE_TRC_CTL, CORE_TRC_RING_LO, CORE_TRC_RING_HI, CORE_TRC_WPTR, CORE_TRC_RPTR, CORE_TRC_STAT, LE_CTL, LE_STAT, LE_XT_COMMIT, LE_LASER, LE_AGE_CFG, LE_FIBRE, LE_RING_CTL, LE_RING_STAT, LE_MON_LM, LE_MON_SM, LE_MON_MM, LE_MON_CM, LE_MON_DM, LE_XT, LE_XT_ACT, LE_GAP_CUR]
/-- The register tables, part 7. -/
def table7 : List RegDesc :=
  [LE_GAP_NEXT, LE_GAP_TIME_LO, LE_GAP_TIME_HI, LE_GAP_CMD, LE_GAP_STAT, LE_GAP_DONE_LO, LE_GAP_DONE_HI, LE_GAP_AMP, LE_CAL_CFG, LE_CAL_CMD, LE_CAL_STAT, LE_CAL_TEMP, LE_CAL_FIBRE, LE_CAL_LANEMAP0, LE_CAL_LANEMAP1, LE_CAL_LANEMAP2, LE_CAL_RSTATE, LE_CAL_RHOLD, LE_CAL_MON_CTL, LE_CAL_MON_RES, LQ_TST_CTL, LQ_TST_STAT, LQ_TST_ERRMAP, LQ_TST_MASK, LQ_TST_ERRCNT, LQ_TST_BITS_LO, LQ_TST_MASK2, LQ_TST_MASK3, LQ_TST_BITS_HI, LE_TRC_CTL, LE_TRC_RING_LO, LE_TRC_RING_HI, LE_TRC_WPTR, LE_TRC_RPTR, LE_TRC_STAT, LQ_CTL, LQ_CFG, LQ_STAT, LQ_ERASED, LQ_RTT]
/-- The register tables, part 8. -/
def table8 : List RegDesc :=
  [LQ_SEQ_TX, LQ_SEQ_RX, LQ_REPLAY, LQ_ERR, LQ_EVENTS, LQ_VC_LOW, LQ_VC_HIGH, LQ_DEFICIT, LQ_PATH_CTL, LQ_PATH_DLY, LQ_PATH_TIME_LO, LQ_PATH_TIME_HI, LQ_PATH_STAT, LE_FEI_CTL, LE_FEI_STAT, LE_FEI_TXMAP, LE_FEI_RXMAP, LE_FEI_FUSE, LE_FEI_ERR, LE_FEI_SWAP, LE_FEI_CRED, LE_TST_CTL, LE_TST_STAT, LE_TST_ERRMAP, LE_TST_MASK, LE_TST_ERRCNT, LE_TST_BITS_LO, LE_TST_MASK2, LE_TST_MASK3, LE_TST_BITS_HI, FAB_CFG, FAB_ID, FAB_DIM, FAB_CTL, FAB_STAT, FAB_ROOT, FAB_ROOT_ID_LO, FAB_ROOT_ID_HI, FAB_TB, FAB_RTO]
/-- The register tables, part 9. -/
def table9 : List RegDesc :=
  [FAB_ERR, FAB_SLEEP, FAB_PL_CFG, FAB_FDIR, FAB_RTE0, FAB_RTE1, FAB_PIN, FAB_COLL, FAB_COLL_STAT0, FAB_COLL_STAT1, FAB_COLL_STAT2, FAB_COLL_STAT3]

/-- Every register of the register tables, by rising address. -/
def table : List RegDesc :=
  table1 ++ table2 ++ table3 ++ table4 ++ table5 ++ table6 ++ table7 ++ table8 ++ table9

end Reg

end Sys2Proof.Machine
end

