-- ==== Sys2Proof/Machine/Operands.lean ====
section
/-!
DEFINITION. Number formats as operands (R44-R50, R587): format codes, element layouts, special values, packing,
MX blocks, and the exact numbers they stand for.
-/
namespace Sys2Proof.Machine

/-- The number an element code stands for: (−1)^neg × m × 2^e, an infinity, or a NaN (R45, R46). A zero has
`m = 0`; its sign is kept, because float-class arithmetic has signed zeros (R48). -/
inductive Num where
  | nan
  | inf (neg : Bool)
  | fin (neg : Bool) (m : Nat) (e : Int)
deriving DecidableEq, Repr

/-- Element formats of Table 2.2, with INT32 (Table 2.1). -/
inductive Elem where
  | fp32 | bf16 | e4m3 | e5m2 | e2m3 | e3m2 | e2m1 | int8 | mxint8 | int32
deriving DecidableEq, Repr

namespace Elem

/-- Element bits (Table 2.1). -/
def width : Elem → Nat
  | fp32 => 32 | bf16 => 16 | e4m3 => 8 | e5m2 => 8 | e2m3 => 6 | e3m2 => 6 | e2m1 => 4
  | int8 => 8 | mxint8 => 8 | int32 => 32

/-- Exponent bits, fraction bits and bias of a floating layout (Table 2.2); none for the integer formats. -/
def layout : Elem → Option (Nat × Nat × Nat)
  | fp32 => some (8, 23, 127) | bf16 => some (8, 7, 127) | e4m3 => some (4, 3, 7) | e5m2 => some (5, 2, 15)
  | e2m3 => some (2, 3, 1) | e3m2 => some (3, 2, 3) | e2m1 => some (2, 1, 1)
  | int8 => none | mxint8 => none | int32 => none

/-- The format has an infinity: exponent all ones, fraction 0 (Table 2.3). -/
def hasInf : Elem → Bool
  | fp32 => true | bf16 => true | e5m2 => true | _ => false

/-- The format has a NaN (Table 2.3). -/
def hasNan : Elem → Bool
  | fp32 => true | bf16 => true | e5m2 => true | e4m3 => true | _ => false

/-- The canonical NaN the device writes (Table 2.3); 0 where the format has none. -/
def nanCode : Elem → Nat
  | fp32 => 0x7FC00000 | bf16 => 0x7FC0 | e4m3 => 0x7F | e5m2 => 0x7F | _ => 0

/-- The code of +∞, for a format that has one. -/
def infCode : Elem → Nat
  | fp32 => 0x7F800000 | bf16 => 0x7F80 | e5m2 => 0x7C | _ => 0

/-- The code of the largest finite value (Table 2.2). -/
def maxCode : Elem → Nat
  | fp32 => 0x7F7FFFFF | bf16 => 0x7F7F | e4m3 => 0x7E | e5m2 => 0x7B | e2m3 => 0x1F | e3m2 => 0x1F | e2m1 => 0x7
  | int8 => 127 | mxint8 => 127 | int32 => 2147483647

/-- The exponent of the unit of an integer format: MXINT8 counts 2^−6 (R45). -/
def intUnit : Elem → Int
  | mxint8 => -6 | _ => 0

/-- The largest exponent of an MX element format (R73). -/
def emax : Elem → Int
  | e4m3 => 8 | e5m2 => 15 | e2m3 => 2 | e3m2 => 4 | e2m1 => 2 | _ => 0

/-- The largest |m| of the integer significand form (Table 2.4). -/
def maxSig : Elem → Nat
  | e4m3 => 15 | e5m2 => 7 | e2m3 => 15 | e3m2 => 7 | e2m1 => 3 | int8 => 128 | mxint8 => 128
  | fp32 => 16777215 | bf16 => 255 | int32 => 2147483648

/-- The least `u` of the integer significand form (Table 2.4). -/
def minU (f : Elem) : Int :=
  match f.layout with
  | some (_, fb, bias) => 1 - (bias : Int) - (fb : Int)
  | none => f.intUnit

/-- The number a code stands for (R45, R46). -/
def decode (f : Elem) (code : Nat) : Num :=
  match f.layout with
  | some (eb, fb, bias) =>
    let neg := code.testBit (eb + fb)
    let ef := (code >>> fb) % 2 ^ eb
    let fr := code % 2 ^ fb
    if f.hasInf && ef == 2 ^ eb - 1 then (if fr == 0 then .inf neg else .nan)
    else if f == .e4m3 && code % 128 == 0x7F then .nan
    else if ef == 0 then .fin neg fr (1 - (bias : Int) - (fb : Int))
    else .fin neg (2 ^ fb + fr) ((ef : Int) - (bias : Int) - (fb : Int))
  | none =>
    let i := signed f.width code
    .fin (decide (i < 0)) i.natAbs f.intUnit

end Elem

/-- The element format of a Table 2.1 code: none for EX128 and the reserved codes. -/
def fmtElem : Nat → Option Elem
  | 0x0 => some .fp32 | 0x1 => some .bf16 | 0x2 => some .e4m3 | 0x3 => some .e5m2 | 0x4 => some .e2m1
  | 0x5 => some .int8 | 0x6 => some .e4m3 | 0x7 => some .e5m2 | 0x8 => some .e2m3 | 0x9 => some .e3m2
  | 0xA => some .e2m1 | 0xB => some .mxint8 | 0xD => some .int32 | _ => none

/-- A code of Table 2.1 with a block scale. -/
def fmtMx (c : Nat) : Bool := decide (0x6 ≤ c) && decide (c ≤ 0xB)

/-- A code of Table 2.1 of the exact class. -/
def fmtExact (c : Nat) : Bool := decide (0x2 ≤ c) && decide (c ≤ 0xB)

/-- A code of Table 2.1 with a tensor scale: FP8, FP4, INT8, INT32. -/
def fmtTensorScale (c : Nat) : Bool := (decide (0x2 ≤ c) && decide (c ≤ 0x5)) || c == 0xD

/-- Bits of an element of a format code (Table 2.1); 0 for the reserved codes. -/
def fmtWidth (c : Nat) : Nat :=
  if c == 0xC then 192 else match fmtElem c with | some f => f.width | none => 0

/-- An E8M0 scale byte as an exponent: none for 0xFF, which is NaN (R587, R50). -/
def scaleExp (x : Nat) : Option Int := if x % 256 == 255 then none else some ((x % 256 : Nat) - 127 : Int)

namespace Num

/-- Zero. -/
def zero : Num := .fin false 0 0

/-- A number times 2^k. -/
def scale (k : Int) : Num → Num
  | .fin n m e => .fin n m (e + k)
  | v => v

/-- A negative zero read as an operand is treated as zero (R47). -/
def input : Num → Num
  | .fin _ 0 e => .fin false 0 e
  | v => v

/-- The number negated. -/
def neg : Num → Num
  | .nan => .nan
  | .inf n => .inf (!n)
  | .fin n m e => .fin (!n) m e

/-- The absolute value. -/
def abs : Num → Num
  | .nan => .nan
  | .inf _ => .inf false
  | .fin _ m e => .fin false m e

/-- The signed significand of a finite number. -/
def sig : Num → Int
  | .fin n m _ => if n then -(m : Int) else (m : Int)
  | _ => 0

/-- The exponent of a finite number. -/
def exp : Num → Int
  | .fin _ _ e => e
  | _ => 0

/-- A finite number as a signed integer count of 2^L, dropping bits toward −∞. -/
def floorAt (L : Int) : Num → Int
  | .fin n m e =>
    let s : Int := if n then -(m : Int) else (m : Int)
    if L ≤ e then s * (2 : Int) ^ (e - L).toNat else s / (2 : Int) ^ (L - e).toNat
  | _ => 0

/-- Nonzero bits of the number fall below 2^L. -/
def drops (L : Int) : Num → Bool
  | .fin _ m e => decide (e < L) && m % 2 ^ (L - e).toNat != 0
  | _ => false

/-- A number from a signed significand; a zero takes the sign given. -/
def ofInt (zneg : Bool) (s : Int) (e : Int) : Num :=
  if s = 0 then .fin zneg 0 e else .fin (decide (s < 0)) s.natAbs e

/-- Exact sum under IEEE 754 (R64): unlike infinities give NaN, an exact zero sum is +0 unless both terms are −0. -/
def add : Num → Num → Num
  | .nan, _ => .nan
  | _, .nan => .nan
  | .inf a, .inf b => if a == b then .inf a else .nan
  | .inf a, _ => .inf a
  | _, .inf b => .inf b
  | .fin na ma ea, .fin nb mb eb =>
    let L := min ea eb
    ofInt (na && nb && ma == 0 && mb == 0) (floorAt L (.fin na ma ea) + floorAt L (.fin nb mb eb)) L

/-- Exact product under IEEE 754: an infinity times zero is NaN. -/
def mul : Num → Num → Num
  | .nan, _ => .nan
  | _, .nan => .nan
  | .inf a, .inf b => .inf (a != b)
  | .inf a, .fin nb mb _ => if mb == 0 then .nan else .inf (a != nb)
  | .fin na ma _, .inf b => if ma == 0 then .nan else .inf (na != b)
  | .fin na ma ea, .fin nb mb eb => .fin (na != nb) (ma * mb) (ea + eb)

/-- Strict order on numbers that are not NaN; zeros of either sign are equal. -/
def lt : Num → Num → Bool
  | .nan, _ => false
  | _, .nan => false
  | .inf a, .inf b => a && !b
  | .inf a, _ => a
  | _, .inf b => !b
  | .fin na ma ea, .fin nb mb eb =>
    let L := min ea eb
    decide (floorAt L (.fin na ma ea) < floorAt L (.fin nb mb eb))

/-- Equality of value. -/
def eqv (a b : Num) : Bool := a != .nan && b != .nan && !(lt a b) && !(lt b a)

/-- The number is a NaN. -/
def isNan : Num → Bool
  | .nan => true
  | _ => false

/-- The number is an infinity. -/
def isInf : Num → Bool
  | .inf _ => true
  | _ => false

/-- The sign bit of a number that is not NaN. -/
def isNeg : Num → Bool
  | .nan => false
  | .inf n => n
  | .fin n _ _ => n

/-- The number is finite and zero. -/
def isZero : Num → Bool
  | .fin _ m _ => m == 0
  | _ => false

/-- ⌊log2 |v|⌋ of a nonzero finite number (its leading-bit exponent). -/
def msbExp : Num → Int
  | .fin _ m e => (Nat.log2 m : Int) + e
  | _ => 0

end Num

/-- Element `i` of a packed array, whose bytes a function gives by offset (R49): the bits `i × w` to
`i × w + w − 1` of the little-endian bit string. -/
def packedAt (byteAt : Nat → Byte) (w i : Nat) : Nat :=
  let b := i * w
  let n := leNat ((List.range ((b % 8 + w + 7) / 8)).map (fun k => byteAt (b / 8 + k)))
  (n >>> (b % 8)) % 2 ^ w

/-- The number a list of codes packs into (R49). -/
def packNat (w : Nat) : List Nat → Nat
  | [] => 0
  | c :: cs => c % 2 ^ w + 2 ^ w * packNat w cs

/-- A list of codes packed into whole bytes, or whole 24-bit groups for 6-bit elements; the bits beyond the last
element are 0 (R49). -/
def packBytes (w : Nat) (cs : List Nat) : List Byte :=
  let n := if w == 6 then 3 * ceilDiv cs.length 4 else ceilDiv (cs.length * w) 8
  leBytes n (packNat w cs)

/-- Bytes that `n` elements of width `w` take in a packed array (R49). -/
def packedLen (w n : Nat) : Nat := if w == 6 then 3 * ceilDiv n 4 else ceilDiv (n * w) 8

/-- The number of an element of a format under its scale byte (R45, R50, R587): a scale of 0xFF makes it NaN; a
negative zero reads as zero (R47). FP32 and BF16 have no scale. -/
def scaledElem (fmt : Nat) (code scale : Nat) : Num :=
  match fmtElem fmt with
  | none => .nan
  | some f =>
    if fmtTensorScale fmt || fmtMx fmt then
      match scaleExp scale with
      | none => .nan
      | some k => ((f.decode code).input).scale k
    else (f.decode code).input

end Sys2Proof.Machine
end

