-- ==== Sys2Proof/Machine/Flags.lean ====
section
/-!
DEFINITION. The flags of results, the exact accumulator format EX128, and every rounding and conversion
(R51-R58, R61-R73, R77): spill_low, spill_high, nan, inf_pos and inf_neg, which are combined by OR and never lost.
-/
namespace Sys2Proof.Machine

/-- The five flags of an EX128 value (Table 2.6). -/
structure XFlags where
  spillLow : Bool := false
  spillHigh : Bool := false
  nan : Bool := false
  infPos : Bool := false
  infNeg : Bool := false
deriving DecidableEq, Repr

namespace XFlags

/-- No flag. -/
def none : XFlags := ⟨false, false, false, false, false⟩

/-- Flags are combined by OR (R53, R56, R77). -/
def or (a b : XFlags) : XFlags :=
  ⟨a.spillLow || b.spillLow, a.spillHigh || b.spillHigh, a.nan || b.nan, a.infPos || b.infPos, a.infNeg || b.infNeg⟩

/-- The flags as bits 0 to 4 in the order of Table 2.6. -/
def toNat (f : XFlags) : Nat :=
  bit f.spillLow + 2 * bit f.spillHigh + 4 * bit f.nan + 8 * bit f.infPos + 16 * bit f.infNeg

/-- The flags from bits 0 to 4. -/
def ofNat (n : Nat) : XFlags :=
  ⟨n.testBit 0, n.testBit 1, n.testBit 2, n.testBit 3, n.testBit 4⟩

/-- The nan flag alone. -/
def nanOnly : XFlags := ⟨false, false, true, false, false⟩

/-- The flag of an infinity. -/
def ofInf (neg : Bool) : XFlags := ⟨false, false, false, !neg, neg⟩

/-- The flags an FP32 result reports (R71, R72). -/
def ofNum : Num → XFlags
  | .nan => nanOnly
  | .inf n => ofInf n
  | .fin _ _ _ => none

end XFlags

/-- An EX128 value: I × 2^W with flags (R54). -/
structure EX where
  i : Int := 0
  w : Int := 0
  flags : XFlags := {}
deriving DecidableEq, Repr

/-- 2^127 − 1, the largest I. -/
def exMax : Int := (2 : Int) ^ 127 - 1

/-- −2^127, the least I. -/
def exMin : Int := -((2 : Int) ^ 127)

/-- The 24 bytes of an EX128 value (Table 2.6). -/
def exBytes (x : EX) : List Byte :=
  leBytes 16 (unsigned 128 x.i) ++ leBytes 2 (unsigned 16 x.w) ++ leBytes 6 x.flags.toNat

/-- The EX128 value of 24 bytes (Table 2.6); reserved bits are ignored. -/
def exOfBytes (b : List Byte) : EX :=
  { i := signed 128 (leNat (b.take 16)), w := signed 16 (leNat (slice b 16 2)), flags := .ofNat (leNat (slice b 18 2)) }

/-- A shift of an integer from window `from_` to window `to_` dropping bits toward −∞ (R55, R56). -/
def exShift (i : Int) (from_ to_ : Int) : Int :=
  if to_ ≤ from_ then i * (2 : Int) ^ (from_ - to_).toNat else i / (2 : Int) ^ (to_ - from_).toNat

/-- Nonzero bits fall below the destination window. -/
def exDrops (i : Int) (from_ to_ : Int) : Bool :=
  decide (from_ < to_) && decide (i % (2 : Int) ^ (to_ - from_).toNat ≠ 0)

/-- Saturate an exact integer into I. -/
def exClamp (i : Int) : Int := clampInt exMin exMax i

/-- An exact integer is outside the range of I. -/
def exOver (i : Int) : Bool := decide (i < exMin) || decide (exMax < i)

/-- EX128 realignment of an operand to a window (R56 step 1). -/
def exRealign (x : EX) (wd : Int) : EX :=
  let v := exShift x.i x.w wd
  { i := exClamp v, w := wd,
    flags := x.flags.or { spillLow := exDrops x.i x.w wd, spillHigh := exOver v } }

/-- EX128 addition of an operand into an accumulator (R56, R57). -/
def exAdd (acc x : EX) : EX :=
  let r := exRealign x acc.w
  let fl := acc.flags.or r.flags
  if acc.flags.spillHigh then { acc with flags := fl }
  else if exOver (exShift x.i x.w acc.w) then { acc with i := r.i, flags := fl }
  else
    let s := acc.i + r.i
    { acc with i := exClamp s, flags := fl.or { spillHigh := exOver s } }

/-- EX128 max at a window (R58). -/
def exMaxOf (wd : Int) (a b : EX) : EX :=
  let x := exRealign a wd
  let y := exRealign b wd
  { i := if x.i < y.i then y.i else x.i, w := wd, flags := x.flags.or y.flags }

/-- EX128 min at a window (R58). -/
def exMinOf (wd : Int) (a b : EX) : EX :=
  let x := exRealign a wd
  let y := exRealign b wd
  { i := if y.i < x.i then y.i else x.i, w := wd, flags := x.flags.or y.flags }

/-- A block sum P × 2^E as the term it enters with at window W (R55). -/
def exEntry (p : Int) (e w : Int) : EX :=
  let v := exShift p e w
  { i := v, w := w, flags := { spillLow := exDrops p e w } }

/-- The block register of one processing element (R51-R53): the sum `P`, its LSB exponent `L`, and flags, of the
products of a block of element pairs. NaN and infinity elements contribute nothing and set flags. -/
structure BlockSum where
  p : Int
  l : Int
  flags : XFlags
deriving DecidableEq, Repr

/-- The flags of one pair that does not enter P (R53). -/
def pairFlags (a b : Num) : XFlags :=
  match a, b with
  | .nan, _ => .nanOnly
  | _, .nan => .nanOnly
  | .inf n, .inf k => .ofInf (n != k)
  | .inf n, .fin k m _ => if m == 0 then .nanOnly else .ofInf (n != k)
  | .fin k m _, .inf n => if m == 0 then .nanOnly else .ofInf (n != k)
  | .fin _ _ _, .fin _ _ _ => .none

/-- Both elements of a pair are finite. -/
def pairFinite : Num × Num → Bool
  | (.fin _ _ _, .fin _ _ _) => true
  | _ => false

/-- Bit length of a number. -/
def bitLen (n : Nat) : Nat := if n = 0 then 0 else Nat.log2 n + 1

/-- The spare span S of a format pair (R51). -/
def blockSpan (fa fb : Elem) : Int := 42 - (bitLen (fa.maxSig * fb.maxSig) : Int)

/-- The block LSB exponent L of R51. -/
def blockL (fa fb : Elem) (ps : List (Num × Num)) : Int :=
  let umin := fa.minU + fb.minU
  ps.foldl (fun l pr => if pairFinite pr then max l (pr.1.exp + pr.2.exp - blockSpan fa fb) else l) umin

/-- One term of the block register (R51, R53). -/
def blockTerm (l : Int) (acc : BlockSum) (pr : Num × Num) : BlockSum :=
  if pairFinite pr then
    let t := Num.ofInt false (pr.1.sig * pr.2.sig) (pr.1.exp + pr.2.exp)
    { acc with p := acc.p + t.floorAt l, flags := acc.flags.or { spillLow := t.drops l } }
  else { acc with flags := acc.flags.or (pairFlags pr.1 pr.2) }

/-- The block sum of up to 32 pairs (R51). -/
def blockSum (fa fb : Elem) (ps : List (Num × Num)) : BlockSum :=
  let l := blockL fa fb ps
  ps.foldl (blockTerm l) { p := 0, l := l, flags := .none }

/-- Rounding modes of the conversion control word (Table 2.8). -/
inductive Rnd where
  | rne | rtz | rdn | sr
deriving DecidableEq, Repr

/-- The mode of a two-bit code. -/
def rndOf (n : Nat) : Rnd :=
  if n % 4 = 0 then .rne else if n % 4 = 1 then .rtz else if n % 4 = 2 then .rdn else .sr

/-- A conversion control word (R68, Table 2.8). -/
structure ConvWord where
  scale : Nat
  sat : Bool
  rnd : Rnd
  fmt : Nat
  rsv : Bool
deriving DecidableEq, Repr

/-- The fields of a conversion control word. -/
def convOf (n : Nat) : ConvWord :=
  { scale := bits n 15 8, rsv := tbit n 7, sat := tbit n 6, rnd := rndOf (bits n 5 4), fmt := bits n 3 0 }

/-- A magnitude `m × 2^e` in units of 2^L: quotient, remainder, and the power of two that the remainder is of. -/
def magAt (m : Nat) (e L : Int) : Nat × Nat × Nat :=
  if L ≤ e then (m * 2 ^ (e - L).toNat, 0, 0)
  else (m / 2 ^ (L - e).toNat, m % 2 ^ (L - e).toNat, (L - e).toNat)

/-- Whether the magnitude is raised by one unit (R69, R74); `r` is the 24-bit draw of R75. -/
def roundsUp (mode : Rnd) (neg : Bool) (q rem k r : Nat) : Bool :=
  match mode with
  | .rne => decide (2 ^ k < 2 * rem) || (2 * rem == 2 ^ k && k != 0 && q % 2 == 1)
  | .rtz => false
  | .rdn => neg && rem != 0
  | .sr => decide (2 ^ 24 ≤ rem * 2 ^ 24 / 2 ^ k + r % 2 ^ 24)

/-- The magnitude of a number in units of 2^L, rounded (R69). -/
def roundMag (mode : Rnd) (neg : Bool) (m : Nat) (e L : Int) (r : Nat) : Nat :=
  let x := magAt m e L
  if roundsUp mode neg x.1 x.2.1 x.2.2 r then x.1 + 1 else x.1

/-- The result of an overflow (R70), as a code of the format. -/
def overflowCode (f : Elem) (mode : Rnd) (sat neg : Bool) : Nat :=
  let maxSame :=
    match f.layout with
    | some (eb, fb, _) => f.maxCode + (if neg then 2 ^ (eb + fb) else 0)
    | none => if neg then f.maxCode + 1 else f.maxCode
  let infOrNan :=
    match f.layout with
    | some (eb, fb, _) =>
      if f.hasInf then f.infCode + (if neg then 2 ^ (eb + fb) else 0)
      else if f.hasNan then f.nanCode else maxSame
    | none => maxSame
  match mode with
  | .rtz => maxSame
  | .rdn => if !neg || sat then maxSame else infOrNan
  | _ => if sat then maxSame else infOrNan

/-- A finite number rounded to an element format (R48, R69, R70, R74). A nonzero value that rounds to zero keeps
its sign where the format has a negative zero; an overflow is judged with an unlimited exponent. -/
def roundFin (f : Elem) (mode : Rnd) (sat : Bool) (r : Nat) (neg : Bool) (m : Nat) (e : Int) : Nat :=
  match f.layout with
  | some (eb, fb, bias) =>
    let sgn := if neg then 2 ^ (eb + fb) else 0
    if m = 0 then sgn
    else
      let emin : Int := 1 - (bias : Int) - (fb : Int)
      let L := max ((Nat.log2 m : Int) + e - (fb : Int)) emin
      let q := roundMag mode neg m e L r
      let code := (L - emin).toNat * 2 ^ fb + q
      if f.maxCode < code then overflowCode f mode sat neg else code + sgn
  | none =>
    let q := roundMag mode neg m e f.intUnit r
    if neg then (if f.maxCode + 1 < q then overflowCode f mode sat true else unsigned f.width (-(q : Int)))
    else if f.maxCode < q then overflowCode f mode sat false else q

/-- A NaN written in an element format (Table 2.9, first row). -/
def nanOut (f : Elem) : Nat := f.nanCode

/-- An infinity written in an element format (Table 2.9). -/
def infOut (f : Elem) (sat neg : Bool) : Nat :=
  match f.layout with
  | some (eb, fb, _) =>
    let sgn := if neg then 2 ^ (eb + fb) else 0
    if sat || !f.hasNan then f.maxCode + sgn
    else if f.hasInf then f.infCode + sgn else f.nanCode
  | none => if neg then 2 ^ (f.width - 1) else f.maxCode

/-- A number converted to an element format without a block scale (R69-R71). `div` is the exponent of the output
scale, none for a scale of 0xFF (R587). -/
def convNum (f : Elem) (mode : Rnd) (sat : Bool) (div : Option Int) (r : Nat) (v : Num) : Nat :=
  match div with
  | none => nanOut f
  | some k =>
    match v with
    | .nan => nanOut f
    | .inf n => infOut f sat n
    | .fin n m e => roundFin f mode sat r n m (e - k)

/-- An EX128 value as the number that a conversion rounds (Table 2.9). -/
def exNum (x : EX) : Num :=
  if x.flags.nan || (x.flags.infPos && x.flags.infNeg) then .nan
  else if x.flags.infPos then .inf false
  else if x.flags.infNeg then .inf true
  else Num.ofInt false x.i x.w

/-- The output scale of a conversion control word as an exponent: 0 where the format takes no tensor scale (R68). -/
def convDiv (c : ConvWord) : Option Int := if fmtTensorScale c.fmt then scaleExp c.scale else some 0

/-- The flags of a scale of 0xFF in a conversion control word (R587). -/
def convFlags (c : ConvWord) : XFlags := if (convDiv c).isNone then .nanOnly else .none

/-- FP32, rounded to nearest even (R64). -/
def fp32Of (v : Num) : Nat := convNum .fp32 .rne false (some 0) 0 v

/-- The number of an FP32 code. -/
def fp32Num (c : Nat) : Num := Elem.fp32.decode c

/-- FP32 sum, rounded once. -/
def fp32Add (a b : Nat) : Nat := fp32Of ((fp32Num a).add (fp32Num b))

/-- FP32 product, rounded once. -/
def fp32Mul (a b : Nat) : Nat := fp32Of ((fp32Num a).mul (fp32Num b))

/-- acc + a × b with one rounding (R64). -/
def fp32Fma (acc : Nat) (a b : Num) : Nat := fp32Of ((fp32Num acc).add (a.mul b))

/-- The two halves of the FP32 split of R65. -/
def splitFp32 (c : Nat) : Num × Num :=
  let hi := fp32Num (c / 65536 * 65536)
  let lo := Elem.bf16.decode (convNum .bf16 .rne false (some 0) 0 ((fp32Num c).add hi.neg))
  (hi, lo)

/-- The three-pass FP32 accumulation of R65; an infinity or a NaN takes one product in place of the passes. -/
def fp32Split (acc a b : Nat) : Nat :=
  let na := (fp32Num a).input
  let nb := (fp32Num b).input
  if na.isNan || na.isInf || nb.isNan || nb.isInf then fp32Fma acc na nb
  else
    let sa := splitFp32 a
    let sb := splitFp32 b
    let a1 := fp32Fma acc sa.1 sb.1
    let a2 := fp32Fma a1 sa.1 sb.2
    fp32Fma a2 sa.2 sb.1

/-- One MX block: its scale byte and its element codes (R73). -/
structure MxBlock where
  scale : Nat
  codes : List Nat
deriving DecidableEq, Repr

/-- The largest magnitude among the finite values of a block (R73). -/
def mxAmax (vs : List Num) : Num :=
  vs.foldl (fun a v => match v with | .fin _ _ _ => if a.lt v.abs then v.abs else a | _ => a) .zero

/-- Round one value of an MX block at the block exponent `x` (R73): it always saturates. -/
def mxElem (f : Elem) (mode : Rnd) (x : Int) (r : Nat) (v : Num) : Nat :=
  match v with
  | .nan => 0
  | .inf n => infOut f true n
  | .fin n m e => roundFin f mode true r n m (e - x)

/-- Convert a block of values, each with its draw, to an MX format (R73). -/
def mxConvert (f : Elem) (mode : Rnd) (vs : List (Num × Nat)) : MxBlock :=
  let nums := vs.map (·.1)
  let amax := mxAmax nums
  if nums.any Num.isNan then ⟨0xFF, nums.map (fun _ => 0)⟩
  else if amax.isZero && !(nums.any Num.isInf) then ⟨0x00, nums.map (fun _ => 0)⟩
  else
    let x : Int := if amax.isZero then 127 else clampInt (-127) 127 (amax.msbExp - f.emax)
    ⟨(x + 127).toNat, vs.map (fun v => mxElem f mode x v.2 v.1)⟩

/-- The top of an EX128 result as it is reported to a window record (R61): none for I = 0. -/
def exTop (x : EX) : Option Int :=
  if x.i = 0 then none
  else
    let t := x.w + (Nat.log2 x.i.natAbs : Int)
    some (if 32767 < t then 32767 else if t ≤ -32768 then -32767 else t)

/-- The larger of two reported tops. -/
def topMax : Option Int → Option Int → Option Int
  | none, b => b
  | a, none => a
  | some a, some b => some (max a b)

/-- A window record (R60, Table 2.7). -/
structure WinRec where
  w : Int
  top : Option Int
  guard : Nat
  seenLow : Bool
  seenHigh : Bool
  seenNan : Bool
deriving DecidableEq, Repr

/-- The window record of 16 bytes. -/
def winRecOf (b : List Byte) : WinRec :=
  let n := leNat (b.take 16)
  { w := signed 16 (bits n 15 0),
    top := if bits n 31 16 = 0x8000 then none else some (signed 16 (bits n 31 16)),
    guard := bits n 39 32, seenLow := tbit n 40, seenHigh := tbit n 41, seenNan := tbit n 42 }

/-- The 16 bytes of a window record; reserved bits are written 0. -/
def winRecBytes (x : WinRec) : List Byte :=
  leBytes 16 (unsigned 16 x.w + 2 ^ 16 * (match x.top with | none => 0x8000 | some t => unsigned 16 t)
    + 2 ^ 32 * (x.guard % 256) + 2 ^ 40 * bit x.seenLow + 2 ^ 41 * bit x.seenHigh + 2 ^ 42 * bit x.seenNan)

/-- Fold a descriptor's largest top and flags into a window record (R61). -/
def winReport (x : WinRec) (top : Option Int) (f : XFlags) : WinRec :=
  { x with top := topMax x.top top, seenLow := x.seenLow || f.spillLow, seenHigh := x.seenHigh || f.spillHigh,
           seenNan := x.seenNan || f.nan || f.infPos || f.infNeg }

/-- Window advance (R62). -/
def winAdvance (x : WinRec) : WinRec :=
  let g : Int := (clampNat 1 100 x.guard : Nat)
  let w := match x.top with | some t => t - 126 + g | none => x.w
  { x with w := clampInt (-32768) 32767 w, top := none, seenLow := false, seenHigh := false, seenNan := false }

end Sys2Proof.Machine
end

