-- ==== Sys2Proof/Machine/Sparse.lean ====
section
/-!
DEFINITION. Sparse data by number: a list of (key, value) pairs in one canonical form, keys strictly
rising, and no entry equal to what an unlisted key reads as. Registers, memories, tables of contexts
and queues by index are all held so, and equal contents are then equal data.
-/
namespace Sys2Proof.Sparse

/-- A sparse table keyed by a number. -/
abbrev Map (α : Type) := List (Nat × α)

/-- The entry listed at a key. -/
def find {α : Type} : Map α → Nat → Option α
  | [], _ => none
  | (k, v) :: m, i => if k = i then some v else find m i

/-- What a key reads as: its entry, or the default. -/
def get {α : Type} (dflt : α) (m : Map α) (i : Nat) : α := (find m i).getD dflt

/-- List an entry at a key, keeping the keys strictly rising. -/
def put {α : Type} : Map α → Nat → α → Map α
  | [], i, v => [(i, v)]
  | (k, w) :: m, i, v =>
    if k < i then (k, w) :: put m i v
    else if k = i then (i, v) :: m
    else (i, v) :: (k, w) :: m

/-- Unlist a key. -/
def del {α : Type} : Map α → Nat → Map α
  | [], _ => []
  | (k, w) :: m, i => if k = i then del m i else (k, w) :: del m i

/-- Write a key: the default unlists it. -/
def set {α : Type} [DecidableEq α] (dflt : α) (m : Map α) (i : Nat) (v : α) : Map α :=
  if v = dflt then del m i else put m i v

/-- Unlist every key of a range `[lo, lo + len)`. -/
def clear {α : Type} (m : Map α) (lo len : Nat) : Map α :=
  m.filter (fun e => !(decide (lo ≤ e.1) && decide (e.1 < lo + len)))

/-- Every listed key is above a bound, and the keys rise strictly. -/
def rising {α : Type} : Nat → Map α → Bool
  | _, [] => true
  | b, (k, _) :: m => decide (b ≤ k) && rising (k + 1) m

/-- The canonical form: keys strictly rising, no entry equal to the default. -/
def wf {α : Type} [DecidableEq α] (dflt : α) (m : Map α) : Bool :=
  rising 0 m && m.all (fun e => decide (e.2 ≠ dflt))

end Sys2Proof.Sparse
end

