-- ==== Sys2Proof/Machine/State.lean ====
section
/-!
DEFINITION. The state of the WLX-9600 as plain data: every register of the register tables (in `regs`, by key),
every memory, and the hidden state of its engines, links and controllers; the queue of waiting commands; and the
model's own records of what leaves the device (`out`) and of free values taken (`freeCtr`).
-/
namespace Sys2Proof.Machine

/-- Why a step stops with a fault. No meaning of this model raises one: a device fault is a report to Hawthorn and
part of the state. -/
inductive Fault where
  /-- Kept for the interface; raised by nothing (safe: no behaviour is cut off by it). -/
  | none_
deriving DecidableEq, Repr

/-- Why a step is refused. -/
inductive Refusal where
  /-- A command whose meaning is not written, by its mnemonic; raised by the dispatch arm alone (safe: the run stops). -/
  | notModelled (mnemonic : String)
deriving DecidableEq, Repr

/-- Memory: (key, byte) pairs in canonical form; an unlisted key reads as 0 (log entry 5). -/
abbrev Memory := List Host.Cell

/-- What an unlisted byte of memory reads as (log entry 5). -/
def memDefault : Byte := 0

/-- The canonical form of a memory. -/
def Memory.wf (m : Memory) : Bool := Sparse.wf memDefault m

/-- Fused at assembly and never written (R1, R2, R25, R41, R43, R473). -/
structure Fuses where
  /-- false: grade A (T = 32, 48 GiB stacks); true: grade B (T = 28, 36 GiB). -/
  gradeB : Bool := false
  /-- Guest dies mounted: 0, 1 or 2 (R2). -/
  guestPop : Nat := 0
  stepping : BitVec 8 := 0
  pkgId : BitVec 64 := 0
  vendor : BitVec 16 := 0
  wfN : BitVec 16 := 0
  /-- Core sites that failed assembly test (R25). -/
  siteOut : List Nat := []
  /-- Lasers that failed assembly test: 64 × LE + 23 × bank + n (R25). -/
  laserOut : List Nat := []
  /-- Rings that failed assembly test: 320 × LE + h (R25). -/
  ringOut : List Nat := []
  /-- Cold frequency of each laser in units of 1 GHz from the grid's λ0, by 64 × LE + 23 × bank + n (R294). -/
  laserCold : Sparse.Map Int := []
  /-- Feino lanes excluded at assembly test (R25, R260): the contents of each FEI_FUSE register, by its key. -/
  lanes : Sparse.Map Word := []
deriving DecidableEq, Repr

/-- A change of memory that a command makes: one byte written, or a range returned to 0. -/
inductive MemChange where
  | put (key : Nat) (b : Byte)
  | clear (lo len : Nat)
deriving DecidableEq, Repr

/-- A fault report on its way to Hawthorn (R519, R520): source code, unit, sub-unit, detail, or the status register whose contents
are the detail when the fault is taken (its key and reset value), the partition of the requester for a usage source (R521), and the
bundle end that received a malformed message. -/
structure Report where
  source : Nat
  unit : Nat
  sub : Nat := 0
  detail : Word := 0
  stat : Option (Nat × Word) := none
  part : Option Nat := none
  bundle : Option BundleEnd := none
deriving DecidableEq, Repr

/-- What leaves the device, in order (model's own record, log entry 7). -/
inductive Out where
  /-- A register read's data, on a path. -/
  | regData (p : Path) (w : List Word)
  /-- A memory response to a requester: data or an error of Table 7.2. -/
  | memData (src : Source) (data : List Byte)
  | memErr (src : Source) (e : MemErr)
  /-- A write to host memory behind a port, or to a guest window, by address. -/
  | hostWrite (port : Nat) (addr : Nat) (data : List Byte)
  | guestWrite (g : Nat) (addr : Nat) (data : List Byte)
  /-- An MSI-X message on a port: address, data. -/
  | msix (port : Nat) (vector : Nat)
  /-- A parcel sent to a core of this package, or to another package. -/
  | parcel (node : Nat) (core : Nat) (bytes : List Byte)
  /-- A coherence message to an agent, by code of Table 7.4, with its line and data. -/
  | coh (agent : Nat) (msg : Nat) (line : Nat) (data : List Byte)
  /-- A Feino flit or raw frame or alignment slot on a bundle end. -/
  | feino (end_ : Nat) (kind : Nat) (bytes : List Byte)
  /-- A flit, training block or path flit on a fibre's 18 lanes. -/
  | fibre (g : Nat) (kind : Nat) (bytes : List Byte)
  /-- Text or bytes on the UART. -/
  | console (bytes : List Byte)
  /-- A side-band response: status and bytes. -/
  | sideBand (status : Nat) (bytes : List Byte)
  /-- A mailbox response. -/
  | mailbox (i : Nat) (status : Nat) (bytes : List Byte)
  /-- A message to a guest die over its UCIe link, by kind. -/
  | guestMsg (g : Nat) (kind : Nat) (bytes : List Byte)
  /-- A fabric control message, slip or cell sent on a global fibre, by opcode. -/
  | slip (g : Nat) (op : Nat) (bytes : List Byte)
  /-- A message to a light engine's laser, ring or amplifier hardware (drive, bias, gain), by kind. -/
  | optic (le : Nat) (kind : Nat) (index : Nat) (value : Nat)
  /-- A PCIe message of a port other than MSI-X (completion of FLR, link request), by kind. -/
  | pcie (port : Nat) (kind : Nat)
  /-- A PLDM event's four record words. -/
  | pldm (words : List Word)
deriving DecidableEq, Repr

/-! ### Coppice -/

/-- Coppice's hidden state (R27, R34, R35): the standing map, if one exists; the site a logical number had when it
failed; the configuration recorded for a logical number, as (site-block offset, word) pairs. -/
structure Coppice where
  standing : Option (Sparse.Map Nat) := none
  replacing : Sparse.Map Nat := []
  recorded : Sparse.Map (List (Nat × Word)) := []
deriving DecidableEq, Repr

/-! ### The matrix engine -/

/-- One element of a weight column: its k, or the activation position that its 2:4 index names, and its code. -/
structure WElem where
  k : Nat
  code : Nat
deriving DecidableEq, Repr

/-- A weight tile in a set of weight registers (R78, R87): its number, and for each column its elements and the
scale byte of each of its blocks of 32 k. -/
structure Tile where
  idx : Nat
  cols : List (List WElem)
  scales : List (List Nat)
deriving DecidableEq, Repr

/-- A block sum on its way south: P and its exponent, with flags; for the float class the FP32 code in `p`. -/
structure BTerm where
  p : Int
  e : Int
  flags : XFlags
deriving DecidableEq, Repr

/-- The sums of one activation row and one tile in flight to the south edge (R90): the terms of each column. -/
structure Flight where
  stream : BitVec 16
  seq : BitVec 32
  tile : Nat
  row : Nat
  cols : List (List BTerm)
deriving DecidableEq, Repr

/-- A descriptor in the MXE (R104, R105): whether it has started; its window once known; the active tile it is
multiplying with; rows of that tile issued, or rounds done; for each row, the entries landed; rows drained; the OR of
its drained flags and its largest top (R100). -/
structure MxeJob where
  job : Job
  started : Bool := false
  reading : Bool := false
  win : Option Int := none
  tile : Option Tile := none
  issued : Nat := 0
  landed : Sparse.Map Nat := []
  drained : Nat := 0
  flags : XFlags := {}
  top : Option Int := none
deriving DecidableEq, Repr

/-- One accumulator entry: the EX128 integer, or the FP32 code, with its flags (R94). -/
structure AccEnt where
  i : Int := 0
  flags : XFlags := {}
deriving DecidableEq, Repr

/-- The MXE of a core site: its two slots, the shadow tile and whose it is, sums in flight, the accumulator file
by row and column (R94; the row's state and window are in MXE_ROW_STATE). -/
structure Mxe where
  active : Option MxeJob := none
  staged : Option MxeJob := none
  shadow : Option (Bool × Tile) := none
  flight : List Flight := []
  acc : Sparse.Map (Sparse.Map AccEnt) := []
deriving DecidableEq, Repr

/-! ### The engines of chapter 4 -/

/-- A descriptor in an engine: the expression block that a VXE descriptor names, read once (R121); rows of a followed producer that are written (R118), the window once read (R124),
what a final VXE descriptor reports (OR of flags and largest top of the
values it stored), the flags of its completion, and whether it waits for that report; for a GDE descriptor, the parcels
not yet answered, whether one was refused, and its detail byte. -/
structure EJob where
  job : Job
  block : List Byte := []
  rowsReady : Nat := 0
  win : Option Int := none
  flags : XFlags := {}
  top : Option Int := none
  outFlags : XFlags := {}
  reporting : Bool := false
  await : Nat := 0
  refused : Bool := false
  detail : Nat := 0
deriving DecidableEq, Repr

/-- The two slots of an engine (R113). -/
structure EngSlots where
  active : Option EJob := none
  staged : Option EJob := none
deriving DecidableEq, Repr

/-- A final status that an engine reports to the stream scheduler (R194). -/
structure EngDone where
  stream : BitVec 16
  seq : BitVec 32
  status : Nat
  flags : XFlags
  detail : Nat
deriving DecidableEq, Repr

/-! ### Core memory -/

/-- A march that runs: its bank and kind (R181). -/
structure March where
  bank : Nat
  kind : Nat
deriving DecidableEq, Repr

/-- Hidden core-memory state of a site: the march in progress, the pending target of each bank in transition (R175),
and the state each transition goes to. -/
structure Cmem where
  march : Option March := none
  target : Sparse.Map Nat := []
deriving DecidableEq, Repr
/-! ### Streams and counters -/

/-- A sync counter (R206, Table 6.8a): value, epoch, poison, the stream that holds the lock, and the streams whose
LOCK waits, in arrival order (R210). -/
structure Ctr where
  value : Nat := 0
  epoch : Nat := 0
  poison : Bool := false
  holder : Option Nat := none
  waiters : List Nat := []
deriving DecidableEq, Repr

/-- Where a fetched, uncommitted descriptor stands (R193, R194). -/
inductive Phase where
  | fetched | dispatched | done
deriving DecidableEq, Repr

/-- A fetched and uncommitted descriptor: its sequence number and bytes; its phase; whether its header wait has been
met; the SYNC slots that are satisfied (R214); the unit that runs it; the time base when it was dispatched; and, once
it is done, its time from dispatch, its status, flags and detail byte; the counter it waits for; and for a DUMP, the step and whether an
armed entry matched it at dispatch (R550). -/
structure SDesc where
  seq : Nat
  bytes : List Byte
  phase : Phase := .fetched
  waited : Bool := false
  slots : Nat := 0
  unit : Nat := 0
  sent : Option Nat := none
  busy : Nat := 0
  status : Nat := 0
  flags : XFlags := {}
  detail : Nat := 0
  waitOn : Option Nat := none
  dumpStep : Nat := 0
  dumpHit : Bool := false
deriving DecidableEq, Repr

/-- A completion record that is decided and not yet written (R197), and whether the vector is signalled after it. -/
structure CRec where
  seq : Nat
  status : Nat
  detail : Nat := 0
  time : Nat := 0
  flags : XFlags := {}
  replayed : Bool := false
  kind : Nat := 0
  engine : Nat := 0
  unit : Nat := 0
  core : Nat := 0
  busy : Nat := 0
  irq : Bool := false
deriving DecidableEq, Repr

/-- Hidden state of a stream context: descriptors fetched and not committed, records waiting, a pending ABORT
(R203), a stop decided and not yet carried out (R201), the state that a change in progress ends in once its records
are written and whether the vector is then signalled, whether enable clears then (R186), sequence numbers dispatched
before a core fault (Table 6.10), the last accepted doorbell words (R188), and its halt (R555): requested, in force,
deferred since a time, one dispatch allowed; an abort that was
taken and whose result waits for the stop; the descriptors discarded when its core failed. -/
structure Strm where
  held : List SDesc := []
  recs : List CRec := []
  abort : Option Nat := none
  stopping : Bool := false
  goal : Option Nat := none
  disabling : Bool := false
  replay : List Nat := []
  doorbell : List Nat := [0, 0, 0, 0]
  halt : Nat := 0
  deferAt : Nat := 0
  taken : Bool := false
  recov : List SDesc := []
deriving DecidableEq, Repr

/-- A descriptor on its way from the scheduler to an engine's staged slot (R187, R193). -/
structure Handoff where
  site : Nat
  unit : Nat
  job : Job
deriving DecidableEq, Repr


/-! ### Coherence (chapter 7) -/

/-- A directory entry (R240): X with its owner, or S with its agent vector; and its place in the order of allocation. -/
structure DirEnt where
  x : Bool
  who : Nat
  born : Nat
deriving DecidableEq, Repr

/-- A snoop answer (Table 7.4): RspI, RspS, SnpData dirty, SNOOP_EVICTING. -/
inductive SnpAns where
  | rspI | rspS | dirty (data : List Byte) | evicting
deriving DecidableEq, Repr

/-- A snoop on its way to an agent, by its code (7 SnpCur, 8 SnpS, 9 SnpI), and its answer on its way to the home. -/
structure Snoop where
  agent : Nat
  line : Nat
  kind : Nat
  ans : Option SnpAns := none
deriving DecidableEq, Repr

/-- A request at a home: its code (0 RdS, 1 RdX, 2 Upg, 3 RdCur, 4 WrLine, 5 WrPart, 6 Atom, 30 the eviction of a
directory entry), its requester and agent, its address, and for a write or atomic what it does. -/
structure HReq where
  kind : Nat
  src : Source
  agent : Option Nat
  addr : Nat
  op : Option MemOp := none
deriving DecidableEq, Repr

/-- A home transaction (R243): its request, the lines it holds, and its transient states of Table 7.6: H_RD, H_SNP
(snoops unanswered), H_EVW (agents whose WbM it waits for, with line), H_DIR (a victim line), H_ACK (the code of the grant
sent, whether the agent has it). Further: the data of a SnpCur answer, WbMs that came before their SNOOP_EVICTING, and
whether an RdS is granted DataE and an Upg Cmp. -/
structure Txn where
  req : HReq
  lines : List Nat
  rd : Bool
  snoops : List Snoop
  evw : List (Nat × Nat) := []
  hdir : Option Nat := none
  cur : Option (List Byte) := none
  early : List (Nat × Nat) := []
  excl : Bool := false
  grant : Option Nat := none
  acked : Bool := false
deriving DecidableEq, Repr

/-- A host request that a port's tracker has not answered (R448, Table 13.3): the half, the message (0 MemRd S, 1 MemRd A, 2 MemRd I,
3 MemInv A, 4 MemWr, 5 MemWrPtl), and for a write its bytes with their enables. -/
structure HostReq where
  half : Nat
  kind : Nat
  data : List Byte := []
  en : List Bool := []
deriving DecidableEq, Repr

/-- What an agent holds of a line (Table 7.5); for a host, its port's tracker entry (R448): the copy of 128 bytes, the
host's state in each half (0 I, 1 S, 2 E), the order of allocation, and the requests it waits to answer. -/
structure ALine where
  st : AState := .i
  data : List Byte := []
  half0 : Nat := 0
  half1 : Nat := 0
  born : Nat := 0
  want : List HostReq := []
deriving DecidableEq, Repr

/-- Hidden state of coherence and of the memory controllers: the directory by line (R240) and the count of allocations,
home transactions, requests waiting in arrival order (R243), what agents hold by 12 × line + agent, WbMs (agent, line,
data) and WbAcks on their way, the rows of each stack's row-loss list (R230), stacks failed at run time (R231). -/
structure Coh where
  dir : Sparse.Map DirEnt := []
  next : Nat := 0
  txns : List Txn := []
  waiting : List HReq := []
  agents : Sparse.Map ALine := []
  wbs : List (Nat × Nat × List Byte) := []
  wbAcks : List (Nat × Nat) := []
  rowLoss : Sparse.Map (List Nat) := []
  deadStacks : List Nat := []
deriving DecidableEq, Repr

/-! ### Feino and Privet (chapter 8) -/

/-- A sequenced flit kept for replay (R271): what it was first sent with, but for acks and CRC. -/
structure FFlit where
  seq : Nat
  ftype : Nat
  sov : Nat
  cr : Nat
  rawCr : Nat
  slots : List Byte
deriving DecidableEq, Repr

/-- A raw frame kept for replay, or delivered (R273, R274). -/
structure RFrame where
  seq : Nat
  chan : Nat
  last : Bool
  data : List Byte
deriving DecidableEq, Repr

/-- Hidden state of one end of a bundle. Training: whether it is a run-time retrain, the raw quarters in use by
direction (R265), lanes found bad at this receiver, ALN slots decoded in succession, CREDIT_INIT and RAW_INIT received. Flits:
next sequence numbers sent and expected, replay buffer, where resending stands, nak received and nak to send with the time of the
last, time of the last ack progress, messages and control messages to send, messages and control messages received,
slots whose credits are to be returned, and for a guest die those that wait for tokens. Raw frames: the same, with credits,
depth, and whether its channels are broken (R275). Slots: the slot time, what the groups have of a flit's time, lanes to
request and to exclude, lanes whose last ALN check failed, and whether traffic of a fenced bundle waits for FENCE_INFO. Of an edge
(R272), kept at its lowest end: the messages that it holds, and whether resent messages are still to be acknowledged. -/
structure Fei where
  runtime : Bool := false
  txRaw : Nat := 0
  rxRaw : Nat := 0
  bad : List Nat := []
  alnGood : Nat := 0
  gotCredit : Bool := false
  gotRaw : Bool := false
  seqTx : Nat := 0
  seqRx : Nat := 0
  replay : List FFlit := []
  resend : Option Nat := none
  nakIn : Bool := false
  nakOut : Bool := false
  nakAt : Option Nat := none
  progress : Nat := 0
  txq : List (List Byte) := []
  ctlq : List (List Byte) := []
  inbox : List (List Byte) := []
  ctl : List (List Byte) := []
  owed : List Nat := [0, 0, 0, 0, 0, 0, 0, 0, 0, 0]
  heldBack : List Nat := [0, 0, 0, 0, 0, 0, 0, 0, 0, 0]
  credits : List Nat := [0, 0, 0, 0, 0, 0, 0, 0, 0, 0]
  rawSeqTx : Nat := 0
  rawSeqRx : Nat := 0
  rawReplay : List RFrame := []
  rawResend : Option Nat := none
  rawNakIn : Bool := false
  rawNakOut : Bool := false
  rawQ : List (Nat × Bool × List Byte) := []
  rawIn : List RFrame := []
  rawCredits : Nat := 0
  rawDepth : Nat := 0
  rawOwed : Nat := 0
  broken : Bool := false
  slot : Nat := 0
  accP : Nat := 0
  accR : Nat := 0
  reqs : List Nat := []
  newExcl : List Nat := []
  failed : List Nat := []
  waitInfo : Bool := false
  held : List (List Byte) := []
  draining : Bool := false
deriving DecidableEq, Repr

/-- Hidden state of Privet for a guest site: where negotiation stands (1 UCIe trains, 2 PROFILE_REQ sent, 3 agreed profile
sent), the agreed record, tokens in bytes, requests admitted under the table before a commit. -/
structure Guest where
  step : Nat := 0
  agreed : Nat := 0
  tokens : Nat := 0
  old : List HReq := []
deriving DecidableEq, Repr

/-! ### Light engines (chapters 9 and 10) -/

/-- Hidden state of a ring: good by its last search, its code for each channel and its park code (R334), reference eye
amplitude, threshold, updates in a row that failed the lock test and that found the drive clamped (R340), that its loop
asked for a target outside the hold window (R341), and the attempts of a retune in progress (R348). -/
structure Ring where
  good : Bool := false
  codes : List Nat := []
  park : Nat := 0
  aRef : Nat := 0
  threshold : Nat := 0
  bad : Nat := 0
  clamp : Nat := 0
  ask : Bool := false
  tries : Nat := 0
deriving DecidableEq, Repr

/-- A calibration, retune or swap that a fibre's master runs: its lane, its operation (0 calibrate, 1 retune, 3 a spare's
transit), and whether CAL_GO was sent. -/
structure Cal where
  lane : Nat
  op : Nat
  sent : Bool := false
deriving DecidableEq, Repr

/-- A transit (R349, R350): the spare and the ring it replaces, the channel it goes to and the code it ends at, channels
still to cross, the lane erased for the crossing in progress, and that the old ring is parked afterwards (R341). -/
structure Transit where
  spare : Nat
  old : Nat
  chan : Nat
  target : Nat
  cross : List Nat
  erased : Option Nat := none
  parkOld : Bool := false
deriving DecidableEq, Repr

/-- Hidden state of a fibre of a light engine: the operation of its receive side as master, the run's lanes still to do and
those to retry, the transmit ring that the far master has moved (lane, ring) with the retunes tried, transits of its receive and transmit rows, the
margins and CM that the far end reported (R300). -/
structure LeFib where
  cal : Option Cal := none
  queue : List Nat := []
  retry : List Nat := []
  again : Bool := false
  txOp : Option (Nat × Nat) := none
  txTries : Nat := 0
  rxTransit : Option Transit := none
  txTransit : Option Transit := none
  margins : List Nat := []
  farCm : Option Nat := none
deriving DecidableEq, Repr

/-- Hidden state of a light engine: for a laser (23 × bank + n), successive low readings, successive trim updates off its
channel, and the output last expected; slots that stay dark (18 × bank + slot); the bias band in force; rings; fibres; the
Gap configuration executing and the one pending with its instant; the single lane requested; the conversion that runs
on the measurement chain (stage, index, gain, span), and the time of its last synchronising reset. -/
structure Le where
  low : Sparse.Map Nat := []
  off : Sparse.Map Nat := []
  expected : Sparse.Map Nat := []
  dark : List Nat := []
  band : Nat := 0
  rings : Sparse.Map Ring := []
  fibs : Sparse.Map LeFib := []
  gapExec : Option Nat := none
  gapPend : Option (Nat × Option Nat) := none
  single : Option (Nat × Nat) := none
  conv : Option (Nat × Nat × Nat × Nat) := none
  syncAt : Nat := 0
deriving DecidableEq, Repr
/-! ### Links (chapter 11) -/

/-- A bypass slip waiting for or in a flit: its kind, its 64 bits, and the stream and sequence number of the remote
operation that this node sent with it. -/
structure Slip where
  kind : Nat
  value : Nat
  who : Option (Nat × Nat) := none
deriving DecidableEq, Repr

/-- A sequenced flit as it was first sent (R377): everything but its ack, nak and CRC. -/
structure OFlit where
  seq : Nat
  ftype : Nat
  vc : Nat := 0
  slip : Option Slip := none
  crVc : Nat := 0
  crCnt : Nat := 0
  payload : List Byte := []
deriving DecidableEq, Repr

/-- One of the last 32 code blocks (R363): lanes corrected, an uncorrectable column, the lanes whose erasure would
make it pass. -/
structure BlockNote where
  corrected : Nat
  bad : Bool
  fixes : Nat
deriving DecidableEq, Repr

/-- Hidden state of one end of a link, beside the LQ registers. `phase` is where training stands (Table 11.8 codes 1
to 5; while LQ_STAT.state reads HOLD or DOWN training goes on under it). Sender: payloads by VC in queue order,
management messages, slips, the replay buffer, the sequence number to resend next, the time of the last ack progress,
the VC rotation, and DATA flits sent per VC. Receiver: a flit that passed the check, a nak to send and the time of
the last nak, DATA flits accepted and buffers freed per VC, occupied buffers, accepted slips and messages, DATA of a
through path, successive discards (R364), the last blocks. Training: lanes aligned, the peer's ack, its TRAIN_PARAM, whether it
holds ours, no earlier state held. Then the agreed windows, the fall of the usable window (R376), an open exchange
window (R386), path mode (R390, R391), with the flits of a through path that failed since the last delivered, and slip ordinals with the ring of R408. -/
structure Lq where
  phase : Nat := 0
  txq : List (Nat × List Byte) := []
  mgmt : List (List Byte) := []
  slips : List Slip := []
  replay : List OFlit := []
  resend : Option Nat := none
  progress : Nat := 0
  rot : Nat := 0
  sent : List Nat := [0, 0, 0, 0]
  got : Option (List Byte) := none
  nakIn : Bool := false
  nakOut : Bool := false
  nakAt : Option Nat := none
  acc : List Nat := [0, 0, 0, 0]
  freed : List Nat := [0, 0, 0, 0]
  rxCells : List (Nat × List Byte) := []
  rxSlips : List (Nat × Nat) := []
  rxMsgs : List (List Byte) := []
  rxPath : List (Nat × List Byte) := []
  discards : Nat := 0
  hist : List BlockNote := []
  aligned : Nat := 0
  peerAck : Bool := false
  peer : Option (List Byte) := none
  seen : Bool := false
  fresh : Bool := true
  windows : List Nat := [0x80, 0x80, 0x380, 0x380]
  fell : List Bool := [false, false, false, false]
  swapOpen : Bool := false
  pathSeq : Nat := 0
  pathExp : Nat := 0
  pathRun : Nat := 0
  pathPend : Option (Nat × Nat × Nat) := none
  pathVc : Nat := 2
  pathLost : List Nat := []
  pathFails : Nat := 0
  slipTx : Nat := 0
  slipRx : Nat := 0
  slipRing : Sparse.Map (Nat × Nat) := []
  sleep : Nat := 0
  txMap : Option Nat := none
deriving DecidableEq, Repr

/-! ### The fabric (chapter 12) -/

/-- An entry of the remote transaction table (R198, R407, R410): the stream and sequence number recorded with it, the
remote node, the counter or core named, and the core site whose GDE waits, if it is a parcel. -/
structure Remote where
  stream : Nat
  seq : Nat
  node : Nat
  object : Nat := 0
  site : Option Nat := none
deriving DecidableEq, Repr

/-- The fibre that a message takes through this node, and whether that is a detour, once its first cell has been routed (R403, R405). -/
structure Route where
  src : Nat
  dst : Nat
  tag : Nat
  kind : Nat
  fibre : Nat
  detour : Bool := false
deriving DecidableEq, Repr

/-- A parcel on its way between two cores of this package (R145): the core it goes to, the site and descriptor that sent
it, whether a RETURN did. -/
structure ParcelMsg where
  core : Nat
  site : Nat
  stream : Nat
  seq : Nat
  ret : Bool
  bytes : List Byte
deriving DecidableEq, Repr

/-- A parcel arriving in cells (R412): its source and tag, its core and window, its bytes so far, refused or not. -/
structure ParcelIn where
  src : Nat
  tag : Nat
  core : Nat
  win : Nat
  bytes : List Byte := []
  refused : Option Nat := none
deriving DecidableEq, Repr

/-- What is known of one running plan beside its registers (R423-R432): its record as it started, its start in ns, the window in use,
its lanes, its fibres (ring 0 or 1 to send on, 4 received on only, 5 and 6 the paths of XAG), PL_OPEN received (ring, fibre, rank, count), flits taken by ring
and fibre and in all, whether an all-gather began or an XAG chunk was sent, flags and saturation of what it wrote, where its barriers stand
(1 released, 2 second circuit, 3 second release) with their instants, and a failure still to be carried out. -/
structure Plan where
  recd : List Byte := []
  start : Nat := 0
  window : Int := 0
  lanes : List Nat := []
  fibres : List (Nat × Nat) := []
  opens : List (Nat × Nat × Nat × Nat) := []
  rxCount : Sparse.Map Nat := []
  got : Nat := 0
  gathered : Bool := false
  flags : XFlags := {}
  sat : Bool := false
  bar : Nat := 0
  tg : Nat := 0
  tr : Nat := 0
  failed : Option Nat := none
deriving DecidableEq, Repr

/-- Hidden state of the fabric: the remote transaction table by tag and the next tag tried; routes of messages in
progress; cells delivered to this node, with their fibre; ADD slips delivered; parcels in arrival; the best claim of the
election (identity, node, generation, hops) and the highest generation seen; what each fibre's HELLO or ANNOUNCE showed
of a root (identity, generation, hops, node); exchanges since joining, successive good ones, and the answered TB_REQ's
time; running plans; parcels within the package. -/
structure Fabric where
  remote : Sparse.Map Remote := []
  nextTag : Nat := 0
  routes : List Route := []
  cells : List (Nat × List Byte) := []
  parcels : List ParcelIn := []
  box : List ParcelMsg := []
  best : Option (Nat × Nat × Nat × Nat) := none
  maxGen : Nat := 0
  shown : Sparse.Map (Nat × Nat × Nat × Nat) := []
  firstTb : Bool := true
  good : Nat := 0
  tbSent : Option Nat := none
  plans : Sparse.Map Plan := []
  slew : Int := 0
deriving DecidableEq, Repr

/-- An entry of a port's MSI-X table (R450, R454): address, data, and its mask bit, set at reset. -/
structure Msix where
  addr : Nat := 0
  data : Word := 0
  masked : Bool := true
  pend : Bool := false
deriving DecidableEq, Repr

/-! ### Power and temperature (chapter 14) -/

/-- Hidden state of housekeeping and of the power manager. Housekeeping: the slot in progress, a round completed and not yet evaluated,
the triggered conversion that runs and the one that waits; readings of each governing temperature over past rounds, latest first; successive rounds in
which a sensor missed its cross-check; successive CM readings above +12 dBm; bands (R474: core s; 36 + m base die; 42 + n
stack; 66 + k light engine). Power: the end of the rate-of-rise hold and the temperatures that raised the step count of a partition (16: the
package); governing temperatures in hard throttle; periods since the last raise of a rail; power states of stacks (1 power-down, 2
self-refresh); and core sites whose duty window holds dispatch (R484). -/
structure Power where
  hkSlot : Nat := 0
  roundDone : Bool := false
  trigRun : Option Nat := none
  trigPend : Option Nat := none
  hist : Sparse.Map (List Int) := []
  offs : Sparse.Map Nat := []
  cmHigh : Sparse.Map Nat := []
  bands : Sparse.Map Nat := []
  hold : Sparse.Map Nat := []
  raised : Sparse.Map (List Nat) := []
  hard : List Nat := []
  raiseAt : Nat := 0
  stackSt : Sparse.Map Nat := []
  dutyHold : List Nat := []
deriving DecidableEq, Repr

/-! ### Firmware (chapter 15) -/

/-- An update session (R513): its path (Table 15.16), its kind (1 MFW, 2 LFW) and its target slot; its length. -/
structure Session where
  path : Nat
  kind : Nat
  slot : Nat
  len : Nat
deriving DecidableEq, Repr

/-- The event store mirror in flash (R498): the store's records, its place (FLT_STORE), and of its last 16 KiB (R533) the standing map
and the ageing offsets. -/
structure Mirror where
  records : Sparse.Map (List Byte) := []
  place : Word := 0
  standing : Option (Sparse.Map Nat) := none
  ages : Sparse.Map Nat := []
deriving DecidableEq, Repr

/-- Hidden state of the controller pair, its firmware and the starts. The QSPI flash by offset, unlisted bytes erased (0xFF); the
tested-combination table of the running MFW (LFW version, stepping mask); the open session; an MFW image runs; the 48 V input is in
range, and has been lost since the standby power-on; RESET_N is low; the main rails are on; the next main phase is that of a warm
start (R507), with the range table saved for it;
the instance that is held out or under repair, and the time when control was last handed back; the console line received so far; the
interface level of the loaded LFW, if one is loaded; mailbox commands waiting, in order of arrival; the ageing offsets saved in the
event store, by 64 × light engine + 23 × bank + n (R300); the mirror in flash; the t0 of the last start (R504). -/
structure Fw where
  flash : Sparse.Map Byte := []
  table : List (Nat × Nat) := []
  session : Option Session := none
  running : Bool := false
  vin : Bool := false
  vinLost : Bool := false
  resetLow : Bool := false
  mainOn : Bool := false
  warm : Bool := false
  saved : List Word := []
  faulty : Option Nat := none
  backAt : Option Nat := none
  line : List Byte := []
  lfw : Option Nat := none
  mbx : List Nat := []
  ages : Sparse.Map Nat := []
  mirror : Option Mirror := none
  startAt : Nat := 0
deriving DecidableEq, Repr

/-! ### Faults (chapter 16) -/

/-- A pending record (R523): its source, unit and sub-unit, its class as handled, the partitions it affects, its time, whether it acknowledges itself, and
for the fence of a core the logical number that a spare is to take (Table 16.1). -/
structure Pend where
  source : Nat
  unit : Nat
  sub : Nat
  cls : Nat
  parts : List Nat
  time : Nat
  auto_ : Bool
  core : Option Nat := none
deriving DecidableEq, Repr

/-- Hidden state of Hawthorn: pending records in order of taking; PLDM events queued (R532); the time of the last ALIVE kick
(R534). -/
structure Flt where
  pend : List Pend := []
  pldm : List (List Word) := []
  kickAt : Nat := 0
deriving DecidableEq, Repr

/-! ### Debug and test (chapter 17) -/

/-- Activity counters of a unit (R538, R539): BUSY and STALLED ns, ns by reason, descriptors committed; the stall in progress, with
its reason, start and stream. -/
structure Act where
  busy : Nat := 0
  stall : Nat := 0
  reasons : List Nat := [0, 0, 0, 0, 0, 0, 0, 0]
  done : Nat := 0
  cur : Option (Nat × Nat × Nat) := none
deriving DecidableEq, Repr

/-- A traced event on its way to its trace unit (core site s, or 36 + k for a light engine): time, kind, unit byte, stream, arg (Table 17.3). -/
structure TrcEv where
  unit : Nat
  time : Nat
  kind : Nat
  who : Nat
  stream : Nat
  arg : Nat
deriving DecidableEq, Repr

/-- Hidden state of a trace unit: the records in its buffer, those dropped since the last LOST record, and whether it is draining to OFF (R547). -/
structure Trc where
  buf : List (List Byte) := []
  missed : Nat := 0
  closing : Bool := false
deriving DecidableEq, Repr

/-- A checker of one lane (R562): the bits of its register, latest first; bits received while it seeds; bits without error since
its seed; whether it is locked; the mismatches of its last 64 bits, latest first. -/
structure Checker where
  reg : List Bool := []
  good : Nat := 0
  locked : Bool := false
  recent : List Bool := []
deriving DecidableEq, Repr

/-- Hidden state of the instruments: activity counters by 16 × site + unit, the time since they started, and the time at which a
fenced site's stopped; traced events, trace units; the high words captured by a path's read of THM_TB_LO, and of a TST_BITS_LO (by
8 × register address + path) (R554); when a halt of the controller pair was requested and when it began (R558, R559); the JTAG instruction and the
status and data that DBGACC captures; and checkers by 128 × register address + lane. -/
structure Dbg where
  act : Sparse.Map Act := []
  elapsed : Nat := 0
  stopped : Sparse.Map Nat := []
  events : List TrcEv := []
  trc : Sparse.Map Trc := []
  tbHi : Sparse.Map Nat := []
  bitsHi : Sparse.Map Nat := []
  haltAsked : Option Nat := none
  haltAt : Option Nat := none
  ir : Nat := 2
  acc : Nat × Nat := (0, 0)
  checkers : Sparse.Map Checker := []
deriving DecidableEq, Repr


/-! ### The whole -/

/-- The part of the state that commands change, other than memory: registers by key (R15 and the banked keys of
`RegTable`), hidden state of each unit, reports waiting for Hawthorn, outputs, and the model's own counters. `wq`
and `extIn` live only while one command runs: the memory changes it makes, newest first, and the bytes that memories
outside the device return to it. Further: MSI-X tables (R450), the time base (R491), the event store by record (R533), the HDM range of
each port (R447: base and size), the dynamic address of the management bus (R462), and for each logical core the stream number from
which its scheduler's rotation goes on (R187). -/
structure Dev where
  regs : Sparse.Map Word := []
  poison : Sparse.Map Bool := []
  reports : List Report := []
  out : List Out := []
  freeCtr : Nat := 0
  wq : List MemChange := []
  extIn : List Byte := []
  coppice : Coppice := {}
  mxe : Sparse.Map Mxe := []
  eng : Sparse.Map EngSlots := []
  engDone : List EngDone := []
  cmem : Sparse.Map Cmem := []
  ctr : Sparse.Map Ctr := []
  strm : Sparse.Map Strm := []
  turn : Sparse.Map Nat := []
  handoff : List Handoff := []
  coh : Coh := {}
  fei : Sparse.Map Fei := []
  guest : Sparse.Map Guest := []
  mapAcks : List Nat := []
  le : Sparse.Map Le := []
  lq : Sparse.Map Lq := []
  fab : Fabric := {}
  msix : Sparse.Map Msix := []
  hdm : Sparse.Map (Nat × Nat) := []
  i3cAddr : Nat := 0
  tb : Nat := 0
  pow : Power := {}
  fw : Fw := {}
  flt : Flt := {}
  store : Sparse.Map (List Byte) := []
  dbg : Dbg := {}
deriving DecidableEq, Repr

/-- The state of the block: the queue of waiting commands, first in, first out; the fuses; the memories; and the
rest. -/
structure State where
  pending : List Instr := []
  fuses : Fuses := {}
  mem : Memory := []
  dev : Dev := {}
deriving DecidableEq, Repr

/-- The block right after a standby power-on, before its controller has run: every register at the reset value of
its table, every memory at 0, nothing in any slot or queue (log entries 1, 5, 10). -/
def State.reset : State := {}

/-- What a meaning reads beside the device: the fuses and the memories as they were when the command began. -/
structure Env where
  fuses : Fuses
  mem : Memory
deriving DecidableEq, Repr

/-- Apply the memory changes of a command, oldest first. -/
def applyChanges (m : Memory) : List MemChange → Memory
  | [] => m
  | .put k b :: cs => applyChanges (Sparse.set memDefault m k b) cs
  | .clear lo len :: cs => applyChanges (Sparse.clear m lo len) cs

/-- A device as it stands between commands: no memory change and no answer from outside is left over. -/
def Dev.rest (d : Dev) : Dev := { d with wq := [], extIn := [] }

/-- Run a command's effect: the device changes, then its memory changes are applied; the queue and the fuses are as
they were. -/
def State.run (s : State) (f : Env → Dev → Dev) : Host.Outcome State Fault Refusal :=
  let d := f ⟨s.fuses, s.mem⟩ s.dev.rest
  .next { s with mem := applyChanges s.mem d.wq.reverse, dev := d.rest }

end Sys2Proof.Machine
end

