-- ==== Sys2Proof/Machine/Ops.lean ====
section
/-!
DEFINITION. The operations every meaning is made of: registers by descriptor and field, access codes and locks
(R9-R14), reports to Hawthorn, outputs, free values, bytes of memory and poison marks.
-/
namespace Sys2Proof.Machine

/-! ### Registers -/

/-- The offset that an index list gives over the strides of a register. -/
def dimOffset : List (Nat × Nat) → List Nat → Nat
  | (stride, _) :: ds, i :: is => stride * i + dimOffset ds is
  | _, _ => 0

/-- The key of an instance of a register. -/
def RegDesc.key (r : RegDesc) (ix : List Nat) : Nat := r.base + dimOffset r.dims ix

/-- The bits of a field, in place. -/
def Fld.mask (f : Fld) : Nat := (2 ^ (f.hi + 1 - f.lo) - 1) * 2 ^ f.lo

/-- A field of a word. -/
def Fld.get (f : Fld) (w : Word) : Nat := bits w.toNat f.hi f.lo

/-- A word with one field replaced. -/
def Fld.put (f : Fld) (w : Word) (v : Nat) : Word :=
  (w &&& ~~~(BitVec.ofNat 32 f.mask)) ||| BitVec.ofNat 32 (v % 2 ^ (f.hi + 1 - f.lo) * 2 ^ f.lo)

/-- The word of a register instance. -/
def rdReg (d : Dev) (r : RegDesc) (ix : List Nat) : Word := Sparse.get r.reset d.regs (r.key ix)

/-- Write the word of a register instance. -/
def wrReg (d : Dev) (r : RegDesc) (ix : List Nat) (w : Word) : Dev :=
  { d with regs := Sparse.set r.reset d.regs (r.key ix) w }

/-- Read a field. -/
def fget (d : Dev) (r : RegDesc) (ix : List Nat) (f : Fld) : Nat := f.get (rdReg d r ix)

/-- A one-bit field is 1. -/
def fbit (d : Dev) (r : RegDesc) (ix : List Nat) (f : Fld) : Bool := fget d r ix f == 1

/-- Write a field. -/
def fset (d : Dev) (r : RegDesc) (ix : List Nat) (f : Fld) (v : Nat) : Dev :=
  wrReg d r ix (f.put (rdReg d r ix) v)

/-- Add to a counter field that stops at its largest value. -/
def fincSat (d : Dev) (r : RegDesc) (ix : List Nat) (f : Fld) (n : Nat) : Dev :=
  fset d r ix f (min (fget d r ix f + n) (2 ^ (f.hi + 1 - f.lo) - 1))

/-- Add to a counter field that wraps. -/
def fincWrap (d : Dev) (r : RegDesc) (ix : List Nat) (f : Fld) (n : Nat) : Dev :=
  fset d r ix f ((fget d r ix f + n) % 2 ^ (f.hi + 1 - f.lo))

/-- The bits of a register whose fields have an access code. -/
def RegDesc.accMask (r : RegDesc) (a : Access) : Word :=
  r.fields.foldl (fun m f => if f.acc = a then m ||| BitVec.ofNat 32 f.mask else m) 0

/-- The word after a write, by the access codes of Table 0.3 (R9, R10). A W1S lock bit that the write sets takes
effect after it: `locked` is the lock as it stood before. -/
def RegDesc.afterWrite (r : RegDesc) (locked : Bool) (old new : Word) : Word :=
  let rw := r.accMask .rw ||| (if locked then 0 else r.accMask .rwl)
  let kept := (old &&& ~~~rw) ||| (new &&& rw)
  (kept &&& ~~~(new &&& r.accMask .w1c)) ||| (new &&& r.accMask .w1s)

/-- The word after a normal read: RC fields keep only the events that arrived during the read (R11). -/
def RegDesc.afterRead (r : RegDesc) (old during : Word) : Word :=
  (old &&& ~~~(r.accMask .rc)) ||| (during &&& r.accMask .rc)

/-- The word of a register with only its writable fields taken from `new`, and everything else from `old`. -/
def RegDesc.store (r : RegDesc) (d : Dev) (ix : List Nat) (locked : Bool) (new : Word) : Dev :=
  wrReg d r ix (r.afterWrite locked (rdReg d r ix) new)

/-! ### Paths -/

/-- The index of a path among the copies of per-path registers (R220, R492, R553, R562): the ports' management
functions, the side-band interfaces together, management firmware (log entry 14). -/
def pathIndex : Path → Nat
  | .port p => p.val
  | .sideBand => 4
  | .jtag => 4
  | .console => 4
  | .mfw => 5

/-- The unit index of a path in a fault record (Table 16.2, Table 16.3): a port is 61 + p, anything else the hub. -/
def pathUnit : Path → Nat
  | .port p => 61 + p.val
  | _ => 0

/-- The path is a port's management function. -/
def pathPort : Path → Option Nat
  | .port p => some p.val
  | _ => none

/-! ### Reports, outputs, free values -/

/-- A register as the detail of a report: what it holds when the fault is taken (R520). -/
def RegDesc.slot (r : RegDesc) (ix : List Nat) : Option (Nat × Word) := some (r.key ix, r.reset)

/-- Queue a report to Hawthorn (R519); FAULT_TAKEN takes it (R525). -/
def report (d : Dev) (r : Report) : Dev := { d with reports := d.reports ++ [r] }

/-- The class C0 event of a refused or discarded register access (Table 16.2 code 0x01, R520): the detail is its byte
address. -/
def regEvent (d : Dev) (p : Path) (addr : Nat) : Dev :=
  report d { source := 0x01, unit := pathUnit p, detail := low32 addr }

/-- Record what leaves the device. -/
def emit (d : Dev) (o : Out) : Dev := { d with out := d.out ++ [o] }

/-- Take the next free value of `w` bits (log entry 4). -/
def takeFree (d : Dev) (w : Nat) : Nat × Dev :=
  ((Config.freeValue w d.freeCtr).toNat, { d with freeCtr := d.freeCtr + 1 })

/-- Unit indices of fault records (Table 16.3, R278). -/
def unitBase (m : Nat) : Nat := 1 + m
def unitSite (s : Nat) : Nat := 7 + s
def unitLe (k : Nat) : Nat := 43 + k
def unitGuest (g : Nat) : Nat := 59 + g
def unitPort (p : Nat) : Nat := 61 + p

/-! ### Memory bytes -/

/-- What a list of pending changes, newest first, makes of a byte. -/
def changeAt : List MemChange → Nat → Option Byte
  | [], _ => none
  | .put k b :: cs, i => if k = i then some b else changeAt cs i
  | .clear lo len :: cs, i => if lo ≤ i ∧ i < lo + len then some memDefault else changeAt cs i

/-- A byte of memory as the running command sees it: its own changes over the memory it began with. -/
def rdByte (e : Env) (d : Dev) (k : Nat) : Byte := (changeAt d.wq k).getD (Sparse.get memDefault e.mem k)

/-- Write a byte of memory. -/
def wrByte (d : Dev) (k : Nat) (b : Byte) : Dev := { d with wq := .put k b :: d.wq }

/-- Read the bytes at a list of keys. -/
def rdBytes (e : Env) (d : Dev) (ks : List Nat) : List Byte := ks.map (rdByte e d)

/-- Write bytes at keys, in order. -/
def wrBytes (d : Dev) : List Nat → List Byte → Dev
  | k :: ks, b :: bs => wrBytes (wrByte d k b) ks bs
  | _, _ => d

/-- Write the enabled bytes at keys, in order. -/
def wrEnabled (d : Dev) : List Nat → List Byte → List Bool → Dev
  | k :: ks, b :: bs, en :: ens => wrEnabled (if en then wrByte d k b else d) ks bs ens
  | _, _, _ => d

/-- Return a range of memory to 0. -/
def clearMem (d : Dev) (lo len : Nat) : Dev := { d with wq := .clear lo len :: d.wq }

/-- `n` keys from `k`. -/
def span (k n : Nat) : List Nat := (List.range n).map (k + ·)

/-- All bytes enabled. -/
def allEnabled (n : Nat) : List Bool := (List.range n).map (fun _ => true)

/-- All-ones data of an errored read (R223). -/
def allOnes (n : Nat) : List Byte := (List.range n).map (fun _ => 0xFF)

/-! ### Keys of memory cells -/

/-- The first key of a core site's cells: 32 main banks of 2 MiB, then two mailbox banks of 256 KiB (Table 5.1). -/
def coreCells (site : Nat) : Nat := site * 2 ^ 27

/-- The first key of a stack's cells: a stack address is 36 bits (R224). -/
def stackCells (n : Nat) : Nat := 2 ^ 40 + n * 2 ^ 36

/-- The poison mark of a core-memory word (R176), by the key of a byte of it. -/
def wordMark (key : Nat) : Nat := key / 8

/-- The poison mark of an HBM line (R231), by the key of a byte of it. -/
def lineMark (key : Nat) : Nat := 2 ^ 40 + key / 128

/-- A poison mark is set. -/
def poisoned (d : Dev) (mark : Nat) : Bool := Sparse.get false d.poison mark

/-- Set or clear a poison mark. -/
def setPoison (d : Dev) (mark : Nat) (b : Bool) : Dev := { d with poison := Sparse.set false d.poison mark b }

/-! ### Resources that registers record -/

/-- Partition q's enable bit is set (R456). -/
def partEnabled (d : Dev) (q : Nat) : Bool := fbit d Reg.HUB_PART_CTL [q] Fld.HUB_PART_CTL_enable

/-- A partition holds its resources while it is enabled, and until its release is done (R456, R458). -/
def partOn (d : Dev) (q : Nat) : Bool := partEnabled d q || fbit d Reg.HUB_PART_CTL [q] Fld.HUB_PART_CTL_busy

/-- A block range of HUB_PART_STRM or HUB_PART_CTR holds an index (R455). -/
def blkHolds (w : Word) (i : Nat) : Bool :=
  let base := 256 * Fld.HUB_PART_STRM_base_blk.get w
  let n := 256 * Fld.HUB_PART_STRM_n_blk.get w
  decide (base ≤ i) && decide (i < base + n)

/-- The enabled partition that owns a stream (R455). -/
def partOfStream (d : Dev) (st : Nat) : Option Nat :=
  lowest 16 (fun q => partOn d q && blkHolds (rdReg d Reg.HUB_PART_STRM [q]) st)

/-- The enabled partition that owns a sync counter (R455). -/
def partOfCounter (d : Dev) (c : Nat) : Option Nat :=
  lowest 16 (fun q => partOn d q && blkHolds (rdReg d Reg.HUB_PART_CTR [q]) c)

/-- The enabled partition that owns a logical core. -/
def partOfCore (d : Dev) (c : Nat) : Option Nat :=
  lowest 16 (fun q => partOn d q && tbit (fget d Reg.HUB_PART_CORES [q] Fld.HUB_PART_CORES_cores) c)

/-- The enabled partition that owns an HBM range. -/
def partOfRange (d : Dev) (i : Nat) : Option Nat :=
  lowest 16 (fun q => partOn d q && tbit (fget d Reg.HUB_PART_MEM [q] Fld.HUB_PART_MEM_ranges) i)

/-- The enabled partition that owns a trunk. -/
def partOfTrunk (d : Dev) (t : Nat) : Option Nat :=
  lowest 16 (fun q => partOn d q && tbit (fget d Reg.HUB_PART_RES [q] Fld.HUB_PART_RES_trunks) t)

/-- The enabled partition that owns a guest site. -/
def partOfGuest (d : Dev) (g : Nat) : Option Nat :=
  lowest 16 (fun q => partOn d q && tbit (fget d Reg.HUB_PART_RES [q] Fld.HUB_PART_RES_guests) g)

/-- The port a partition is bound to (R455). -/
def portOfPart (d : Dev) (q : Nat) : Nat := fget d Reg.HUB_PART_CTL [q] Fld.HUB_PART_CTL_port

/-- An enabled partition bound to a port (R452 *owned*). -/
def boundTo (d : Dev) (p : Nat) (q : Option Nat) : Bool :=
  match q with | some q => partEnabled d q && portOfPart d q == p | none => false

/-- A path owns a resource: the side-band, console, JTAG and firmware reach everything; a port what its partitions
own. -/
def pathOwns (d : Dev) (p : Path) (q : Option Nat) : Bool :=
  match pathPort p with | none => true | some n => boundTo d n q

/-- The site of a logical core, if HUB_CORE_MAP gives it one (Table 1.13). -/
def siteOfCore (d : Dev) (c : Nat) : Option Nat :=
  if fbit d Reg.HUB_CORE_MAP [c] Fld.HUB_CORE_MAP_valid then some (fget d Reg.HUB_CORE_MAP [c] Fld.HUB_CORE_MAP_site) else none

/-- The state of a site (Table 1.4). -/
def siteState (d : Dev) (s : Nat) : Nat := fget d Reg.HUB_SITE_STATE [s] Fld.HUB_SITE_STATE_state

/-- The logical number of a site. -/
def siteLogical (d : Dev) (s : Nat) : Nat := fget d Reg.HUB_SITE_STATE [s] Fld.HUB_SITE_STATE_logical

/-- The seed of a stream as the key of R151. -/
def streamSeed (d : Dev) (st : Nat) : Word × Word :=
  (rdReg d Reg.HUB_STRM_SEED_LO [st], rdReg d Reg.HUB_STRM_SEED_HI [st])

/-! ### Descriptor words -/

/-- The 64-bit word `i` of a descriptor (bytes 8i to 8i + 7). -/
def dword (b : List Byte) (i : Nat) : Nat := leNat (slice b (8 * i) 8)

/-- A field of the 64-bit word at byte `o` of a descriptor. -/
def dfield (b : List Byte) (o hi lo : Nat) : Nat := bits (dword b (o / 8)) hi lo

/-- One bit of the 64-bit word at byte `o` of a descriptor. -/
def dbit (b : List Byte) (o i : Nat) : Bool := tbit (dword b (o / 8)) i

/-! ### Traced events -/

/-- A trace register of unit u (core site u, or light engine u − 36): the core's and the light engine's tables are one layout (R567). -/
def trcReg (u : Nat) (core lightEngine : RegDesc) : RegDesc × List Nat := if u < 36 then (core, [u]) else (lightEngine, [u - 36])

/-- Read a field of a trace register. -/
def trcGet (d : Dev) (u : Nat) (core lightEngine : RegDesc) (f : Fld) : Nat :=
  fget d (trcReg u core lightEngine).1 (trcReg u core lightEngine).2 f

/-- The mask bit of a record kind (Table 17.4); none for those always written. -/
def trcMaskBit (kind : Nat) : Option Nat :=
  if kind ≤ 3 then some 0 else if kind = 4 then some 1 else if kind = 5 ∨ kind = 6 then some 2
  else if kind = 7 then some 3 else if kind = 0xB then some 4 else if 0x20 ≤ kind then some (kind - 0x18) else none

/-- A traced event (R544): it goes to its trace unit if that is ON, still enabled, and its mask takes the kind (R545, R547). -/
def traceEv (d : Dev) (u kind who stream arg : Nat) : Dev :=
  let on := trcGet d u Reg.CORE_TRC_STAT Reg.LE_TRC_STAT Fld.CORE_TRC_STAT_state == 1
    && trcGet d u Reg.CORE_TRC_CTL Reg.LE_TRC_CTL Fld.CORE_TRC_CTL_enable == 1
  let masked := match trcMaskBit kind with
    | some b => tbit (trcGet d u Reg.CORE_TRC_CTL Reg.LE_TRC_CTL Fld.CORE_TRC_CTL_mask) b
    | none => true
  if on && masked then
    { d with dbg := { d.dbg with events := d.dbg.events ++ [⟨u, d.tb, kind, who, stream, arg % 2 ^ 32⟩] } }
  else d

/-! ### Halts -/

/-- The device is halted by a class C3 fault (R529). -/
def devHalted (d : Dev) : Bool := fbit d Reg.FLT_STAT [] Fld.FLT_STAT_fatal

/-- A port's write that reaches a register is discarded while the device is halted; only the FLT and MGMT blocks take it (R529). -/
def portHalted (d : Dev) (p : Path) : Bool := (pathPort p).isSome && devHalted d

/-- Partition q is marked FATAL (R528). -/
def partFatal (d : Dev) (q : Nat) : Bool := fbit d Reg.FLT_PART_STAT [q] Fld.FLT_PART_STAT_fatal

/-! ### The event store -/

/-- Records of the event store (R533). -/
def storeLen : Nat := 3072

/-- Write a record of 16 bytes at the next place of the ring, over the oldest (R533, Table 16.13). -/
def storeWrite (d : Dev) (rec : List Byte) : Dev :=
  let n := fget d Reg.FLT_STORE [] Fld.FLT_STORE_next
  let d := { d with store := Sparse.set [] d.store n rec }
  if n + 1 < storeLen then fset d Reg.FLT_STORE [] Fld.FLT_STORE_next (n + 1)
  else fincSat (fset d Reg.FLT_STORE [] Fld.FLT_STORE_next 0) Reg.FLT_STORE [] Fld.FLT_STORE_wraps 1

end Sys2Proof.Machine
end

