-- ==== Sys2Proof/Machine/Atomics.lean ====
section
/-!
DEFINITION. The home atomics of Table 7.7 as functions of the bytes they act on (R61, R62, R248).
-/
namespace Sys2Proof.Machine

/-- Bytes an operation acts on. -/
def opLen : MemOp → Nat
  | .read n => n
  | .write b _ => b.length
  | .fadd32 b _ => b.length
  | .xadd _ => 24
  | .fetchAdd w _ => w
  | .swap w _ => w
  | .cas w _ _ => w
  | .recReport _ _ => 16
  | .recAdvance => 16

/-- The operation is a home atomic. -/
def opAtomic : MemOp → Bool
  | .read _ => false
  | .write _ _ => false
  | _ => true

/-- FP32 adds into enabled elements, each rounded to nearest even (FADD32). -/
def faddBytes : List Byte → List Byte → List Bool → List Byte
  | o0 :: o1 :: o2 :: o3 :: os, v0 :: v1 :: v2 :: v3 :: vs, en :: ens =>
    (if en then leBytes 4 (fp32Add (leNat [o0, o1, o2, o3]) (leNat [v0, v1, v2, v3])) else [o0, o1, o2, o3])
      ++ faddBytes os vs ens
  | os, _, _ => os

/-- The new contents and the result returned of a home atomic on old contents (Table 7.7). -/
def atomApply (op : MemOp) (old : List Byte) : List Byte × List Byte :=
  match op with
  | .fadd32 v en => (faddBytes old v en, [])
  | .xadd v => (exBytes (exAdd (exOfBytes old) (exOfBytes v)), [])
  | .fetchAdd w v => (leBytes w (leNat old + v.toNat), old)
  | .swap w v => (leBytes w v.toNat, old)
  | .cas w x v => (if leNat old = leNat (leBytes w x.toNat) then leBytes w v.toNat else old, old)
  | .recReport t f => (winRecBytes (winReport (winRecOf old)
      (if t = 0x8000 then none else some (signed 16 t.toNat)) (.ofNat f.toNat)), [])
  | .recAdvance => (winRecBytes (winAdvance (winRecOf old)), [])
  | .read _ => (old, old)
  | .write b _ => (b, [])

end Sys2Proof.Machine
end

