-- ==== Sys2Proof/Machine/CoreMem.lean ====
section
/-!
DEFINITION. Core memory (R157-R183): local addresses and banks, the window of a core, aliases, mailbox collisions,
error correction and poison, bank power states, scrubbing and the march.
-/
namespace Sys2Proof.Machine

/-! ### Cells and banks -/

/-- The cell of a local address within the 64 MiB of the main banks: bank × 2 MiB + row × 256 + byte (R158). -/
def localCell (linear : Bool) (a : Nat) : Nat :=
  if linear then a % 2 ^ 26
  else bits a 12 8 * 2 ^ 21 + bits a 25 13 * 256 + bits a 7 0

/-- The local address of a main-bank cell, the inverse of `localCell` (R158). -/
def cellLocal (linear : Bool) (c : Nat) : Nat :=
  if linear then c % 2 ^ 26
  else bits c 20 8 * 2 ^ 13 + bits c 25 21 * 2 ^ 8 + bits c 7 0

/-- The core runs LINEAR (R158). -/
def mapLinear (d : Dev) (site : Nat) : Bool := fbit d Reg.CMEM_CFG [site] Fld.CMEM_CFG_map

/-- The key of a local address of a site. -/
def localKey (d : Dev) (site a : Nat) : Nat := coreCells site + localCell (mapLinear d site) a

/-- The keys of a local byte range. -/
def localKeys (d : Dev) (site a len : Nat) : List Nat := (List.range len).map (fun i => localKey d site (a + i))

/-- The bank register index of a cell key of a site (Table 5.1). -/
def bankOfKey (key : Nat) : Nat :=
  let c := key % 2 ^ 27
  if c < 2 ^ 26 then c / 2 ^ 21 else 32 + (c - 2 ^ 26) / 2 ^ 18

/-- The row of a cell key: 256 bytes of a main bank, 64 of a mailbox bank (R157). -/
def rowOfKey (key : Nat) : Nat :=
  let c := key % 2 ^ 27
  if c < 2 ^ 26 then key / 256 else 2 ^ 50 + key / 64

/-- The cells of a bank: first key and size (Table 5.1). -/
def bankCells (site b : Nat) : Nat × Nat :=
  if b < 32 then (coreCells site + b * 2 ^ 21, 2 ^ 21) else (coreCells site + 2 ^ 26 + (b - 32) * 2 ^ 18, 2 ^ 18)

/-- The state of a bank (Table 5.5). -/
def bankState (d : Dev) (site b : Nat) : Nat := fget d Reg.CMEM_BANK [site, b] Fld.CMEM_BANK_state

/-- The mode of a bank (R173). -/
def bankMode (d : Dev) (site b : Nat) : Nat := fget d Reg.CMEM_BANK [site, b] Fld.CMEM_BANK_mode

/-- A bank refuses accesses: mode RET, OFF or OFFLINE, or state FENCED (R174). -/
def bankRefuses (d : Dev) (site b : Nat) : Bool :=
  let m := bankMode d site b
  m == 2 || m == 3 || m == 4 || bankState d site b == 6

/-- The banks that a list of keys touches. -/
def banksOf (ks : List Nat) : List Nat := (ks.map bankOfKey).eraseDups

/-- An access to banks held in RET by AUTO brings them ON: the grant waits for the exit (R173). -/
def wakeBanks (d : Dev) (site : Nat) (bs : List Nat) : Dev :=
  bs.foldl (fun d b => if bankMode d site b == 1 && bankState d site b == 1
    then fset d Reg.CMEM_BANK [site, b] Fld.CMEM_BANK_state 0 else d) d

/-- The offset of a cell in its core's window, which a fault detail divides by 8 (R520, Table 5.2). -/
def cellWindowOff (d : Dev) (site key : Nat) : Nat :=
  let c := key % 2 ^ 27
  if c < 2 ^ 26 then cellLocal (mapLinear d site) c else 0xC000000 + (c - 2 ^ 26)

/-- The class C0 event of a refused access (Table 16.2 code 0x02, R174, R223). -/
def refusedEvent (d : Dev) (unit addr : Nat) (part : Option Nat) : Dev :=
  report d { source := 0x02, unit := unit, detail := low32 (addr / 8), part := part }

/-! ### Reads and writes of cells -/

/-- Some byte of a range lies in a poisoned word (R176). -/
def anyPoison (d : Dev) (ks : List Nat) : Bool := ks.any (fun k => poisoned d (wordMark k))

/-- The words of which a write enables every byte. -/
def wholeWord (on : List Nat) (w : Nat) : Bool := (List.range 8).all (fun i => on.contains (8 * w + i))

/-- The rows that a write may not touch, because its read half of a partly written word finds poison (R171); `rmw`
says that every word is read first (an alias write). -/
def blockedRows (d : Dev) (rmw : Bool) (on : List Nat) : List Nat :=
  (on.filter (fun k => poisoned d (wordMark k) && (rmw || !(wholeWord on (wordMark k))))).map rowOfKey

/-- Write bytes at keys, row by row (R169-R171): a row whose read half finds poison is not written; a word written
whole in the normal view loses its poison (R176). The flag says that some row was not written. -/
def wrCells (d : Dev) (rmw : Bool) (ks : List Nat) (bs : List Byte) (ens : List Bool) : Bool × Dev :=
  let on := ((ks.zip ens).filter (·.2)).map (·.1)
  let bad := blockedRows d rmw on
  let ok := (ks.zip ens).map (fun p => p.2 && !(bad.contains (rowOfKey p.1)))
  let d := wrEnabled d ks bs ok
  let d := if rmw then d else
    on.foldl (fun d k => if poisoned d (wordMark k) && !(bad.contains (rowOfKey k)) then setPoison d (wordMark k) false else d) d
  (!bad.isEmpty, d)

/-- Status of an engine's access to its own memory: 0 granted, 0x05 ADDRESS beyond the memory or refused by a bank
(R114, R174), 0x16 MEM_UE for a read of a poisoned word (R176). -/
def localStatus (d : Dev) (site a len : Nat) (read : Bool) : Nat :=
  if 2 ^ 26 < a + len then 0x05
  else
    let ks := localKeys d site a len
    if (banksOf ks).any (bankRefuses d site) then 0x05
    else if read && anyPoison d ks then 0x16 else 0

/-- An engine's read of its own memory: the bytes, or a status; a refused access is recorded (R174). -/
def rdLocal (e : Env) (d : Dev) (site a len : Nat) : Except Nat (List Byte) × Dev :=
  let st := localStatus d site a len true
  if st = 0 then
    let ks := localKeys d site a len
    (.ok (rdBytes e d ks), wakeBanks d site (banksOf ks))
  else if st = 0x05 ∧ a + len ≤ 2 ^ 26 then
    (.error st, refusedEvent d (unitSite site) a (partOfCore d (siteLogical d site)))
  else (.error st, d)

/-- An engine's write of its own memory: the status and the device (R114, R170, R171, R174). -/
def wrLocal (d : Dev) (site a : Nat) (bs : List Byte) : Nat × Dev :=
  let st := localStatus d site a bs.length false
  if st = 0 then
    let ks := localKeys d site a bs.length
    let r := wrCells (wakeBanks d site (banksOf ks)) false ks bs (allEnabled bs.length)
    (if r.1 then 0x16 else 0, r.2)
  else if a + bs.length ≤ 2 ^ 26 then
    (st, refusedEvent d (unitSite site) a (partOfCore d (siteLogical d site)))
  else (st, d)

/-- The bytes of local ranges become undefined, one free value each (log entry 4): the output range of a descriptor that
failed, or was aborted, after it may have written part of it (R109, Table 4.1, R201). A bank that refuses keeps its
contents. -/
def undefRanges (d : Dev) (site : Nat) (rs : List (Nat × Nat)) : Dev :=
  rs.foldl (fun d r => (localKeys d site r.1 r.2).foldl (fun d k =>
    if bankRefuses d site (bankOfKey k) then d
    else let x := takeFree d 8; wrByte x.2 k (BitVec.ofNat 8 x.1)) d) d

/-! ### Error correction -/

/-- Replace a word's bytes by data. -/
def putWord (d : Dev) (word : Nat) (v : BitVec 64) : Dev := wrBytes d (span (8 * word) 8) (leBytes 8 v.toNat)

/-- What the code does with an error found in a word (R176): a single bit is corrected, counted and recorded; an
uncorrectable word is poisoned, counted and recorded; beyond the code the outcome is the environment's. -/
def eccWord (d : Dev) (site key : Nat) (k : EccKind) : Dev :=
  let det := low32 (cellWindowOff d site key / 8)
  let part := partOfCore d (siteLogical d site)
  let ce : Report := { source := 0x10, unit := unitSite site, sub := bankOfKey key, detail := det, part := part }
  match k with
  | .single => report (fincSat d Reg.CMEM_ECC [site] Fld.CMEM_ECC_corrected 1) ce
  | .double =>
    if poisoned d (wordMark key) then d
    else report (fincSat (setPoison d (wordMark key) true) Reg.CMEM_ECC [site] Fld.CMEM_ECC_uncorrected 1)
      { ce with source := 0x11 }
  | .miscorrected v => report (fincSat (putWord d (wordMark key) v) Reg.CMEM_ECC [site] Fld.CMEM_ECC_corrected 1) ce
  | .undetected v => putWord d (wordMark key) v

/-- Apply the errors found in the words of an access, whose cells are given; a poisoned word is not decoded again. -/
def eccAll (d : Dev) (site : Nat) (ks : List Nat) (found : List EccFound) : Dev :=
  found.foldl (fun d f =>
    match ks[8 * f.word]? with
    | some k => if poisoned d (wordMark k) then d else eccWord d site k f.kind
    | none => d) d

/-! ### The window of a core -/

/-- The views of Table 5.2. -/
inductive View where
  | normal | set | clear
deriving DecidableEq, Repr

/-- The view that holds all bytes of an access, and the cells it names: (view, mailbox?, offset within the main banks
or within the mailboxes); none for a reserved offset or an access that spans two views (R161). -/
def windowView (off len : Nat) : Option (View × Bool × Nat) :=
  let inside (lo size : Nat) : Bool := decide (lo ≤ off) && decide (off + len ≤ lo + size)
  if inside 0 0x4000000 then some (.normal, false, off)
  else if inside 0x4000000 0x4000000 then some (.set, false, off - 0x4000000)
  else if inside 0x8000000 0x4000000 then some (.clear, false, off - 0x8000000)
  else if inside 0xC000000 0x40000 then some (.normal, true, off - 0xC000000)
  else if inside 0xC040000 0x40000 then some (.normal, true, off - 0xC000000)
  else if inside 0xC100000 0x80000 then some (.set, true, off - 0xC100000)
  else if inside 0xC200000 0x80000 then some (.clear, true, off - 0xC200000)
  else none

/-- The cells of a window access. -/
def windowKeys (d : Dev) (site : Nat) (mbx : Bool) (o len : Nat) : List Nat :=
  if mbx then span (coreCells site + 2 ^ 26 + o) len else localKeys d site o len

/-- The partition a request belongs to, for a target that partition `own` holds (R457): a port's request belongs to
whichever of its partitions owns the target; a core's to the owner of its logical core; a guest's to the owner of its
site. The side-band and fabric requests, admitted before they enter, are not held to a partition here. -/
def srcAdmits (d : Dev) (src : Source) (own : Option Nat) : Bool :=
  match src with
  | .sideBand => true
  | .light _ => true
  | .port p => boundTo d p.val own
  | .core s => own.isSome && own == partOfCore d (siteLogical d s.val)
  | .guest g => own.isSome && own == partOfGuest d g.val

/-- The unit of a requester in a fault record (Table 16.2). -/
def srcUnit : Source → Nat
  | .port p => unitPort p.val
  | .core s => unitSite s.val
  | .guest g => unitGuest g.val
  | .light k => unitLe k.val
  | .sideBand => 0

/-- The partition of a requester in a fault record (R521). -/
def srcPart (d : Dev) : Source → Option Nat
  | .port p => lowest 16 (fun q => partOn d q && portOfPart d q == p.val)
  | .core s => partOfCore d (siteLogical d s.val)
  | .guest g => partOfGuest d g.val
  | .light _ => none
  | .sideBand => none

/-- Answer a request with an error of Table 7.2; NOTARGET and DENIED are recorded as class C0, and DENIED is counted
in the partition of the requester (R223, R457). -/
def refuse (d : Dev) (src : Source) (er : MemErr) (addr : Nat) : Dev :=
  let d := emit d (.memErr src er)
  let part := srcPart d src
  match er with
  | .noTarget => refusedEvent d (srcUnit src) addr part
  | .denied =>
    let d := match part with
      | some q => fincSat d Reg.HUB_PART_STAT [q] Fld.HUB_PART_STAT_denied 1
      | none => d
    refusedEvent d (srcUnit src) addr part
  | .poison => d
  | .timeout => d

/-- A mailbox collision (R166): BUSY for the port placed second, and the count. This access is on port B, or on port
A for a core's own access. -/
def mailboxBusy (d : Dev) (site : Nat) (portA second : Bool) : Dev :=
  let f := if portA == second then Fld.CMEM_MBX_STAT_busy_a else Fld.CMEM_MBX_STAT_busy_b
  fincSat (fset d Reg.CMEM_MBX_STAT [site] f 1) Reg.CMEM_MBX_STAT [site] Fld.CMEM_MBX_STAT_collisions 1

/-- `n` free bytes: the undefined data of a collision read (R166, log entry 4). -/
def freeBytes : Nat → Dev → List Byte × Dev
  | 0, d => ([], d)
  | n + 1, d =>
    let x := takeFree d 8
    let r := freeBytes n x.2
    (BitVec.ofNat 8 x.1 :: r.1, r.2)

/-- Perform a window access of which the view, the cells and the banks are good. -/
def windowPerform (e : Env) (d : Dev) (src : Source) (site : Nat) (view : View) (ks : List Nat) (op : MemOp)
    (coll : Option Collision) (portA : Bool) : Dev :=
  match op with
  | .read n =>
    match coll with
    | some c =>
      let d := mailboxBusy d site portA c.second
      if c.otherWrites then
        let d := (wrCells d false ks c.otherData c.otherEnables).2
        let r := freeBytes n d
        emit r.2 (.memData src r.1)
      else if anyPoison d ks then refuse d src .poison 0 else emit d (.memData src (rdBytes e d ks))
    | none => if anyPoison d ks then refuse d src .poison 0 else emit d (.memData src (rdBytes e d ks))
  | .write bs ens =>
    let old := rdBytes e d ks
    let data := match view with
      | .normal => bs
      | .set => (old.zip bs).map (fun p => p.1 ||| p.2)
      | .clear => (old.zip bs).map (fun p => p.1 &&& ~~~p.2)
    let d := match coll with
      | some c =>
        let d := mailboxBusy d site portA c.second
        if c.otherWrites && c.second then (wrCells d false ks c.otherData c.otherEnables).2 else d
      | none => d
    let r := wrCells d (view != .normal) ks data ens
    let d := match coll with
      | some c => if c.otherWrites && !c.second then (wrCells r.2 false ks c.otherData c.otherEnables).2 else r.2
      | none => r.2
    if r.1 then refuse d src .poison 0 else emit d (.memData src [])
  | _ =>
    if view != .normal then refuse d src .noTarget (cellWindowOff d site (ks.headD 0))
    else if anyPoison d ks then refuse d src .poison 0
    else
      let r := atomApply op (rdBytes e d ks)
      emit (wrBytes d ks r.1) (.memData src r.2)

/-- An access to the window of logical core `c` at an offset (R160-R162, R166-R171, R174, R176). -/
def windowAccess (e : Env) (d : Dev) (src : Source) (c off : Nat) (op : MemOp) (found : List EccFound)
    (coll : Option Collision) : Dev :=
  let len := opLen op
  if !(srcAdmits d src (partOfCore d c)) then refuse d src .denied off
  else
    match siteOfCore d c, windowView off len with
    | some site, some (view, mbx, o) =>
      let ks := windowKeys d site mbx o len
      let bs := banksOf ks
      if bs.any (bankRefuses d site) then refuse d src .noTarget off
      else
        let d := eccAll (wakeBanks d site bs) site ks found
        let own := match src with | .core s => s.val == site | _ => false
        windowPerform e d src site view ks op (if mbx then coll else none) own
    | _, _ => refuse d src .noTarget off

/-- CORE_WINDOW_ACCESS (R161). -/
def execCoreWindowAccess (src : Source) (core : Fin 32) (off : BitVec 28) (op : MemOp) (found : List EccFound)
    (coll : Option Collision) (s : State) : Host.Outcome State Fault Refusal :=
  s.run (fun e d => windowAccess e d src core.val off.toNat op found coll)

/-- ALIAS_WRITE (R167, R169, R171): a write whose offset is in a bit-set or bit-clear alias; the read-modify-write is
one action in the bank. -/
def execAliasWrite (src : Source) (core : Fin 32) (off : BitVec 28) (data : List Byte) (enables : List Bool)
    (found : List EccFound) (s : State) : Host.Outcome State Fault Refusal :=
  s.run (fun e d => windowAccess e d src core.val off.toNat (.write data enables) found none)

/-- PARTIAL_WORD_WRITE (R170, R171): a write of less than a word, as one read-modify-write in the bank. -/
def execPartialWordWrite (src : Source) (core : Fin 32) (off : BitVec 28) (data : List Byte) (enables : List Bool)
    (found : List EccFound) (s : State) : Host.Outcome State Fault Refusal :=
  s.run (fun e d => windowAccess e d src core.val off.toNat (.write data enables) found none)

/-! ### Paths to a site's registers -/

/-- The site holds a logical core that the path owns (Table 13.7, row Core site). -/
def siteAdmits (d : Dev) (p : Path) (site : Nat) : Bool :=
  match pathPort p with
  | none => true
  | some n => siteState d site == 0 && boundTo d n (partOfCore d (siteLogical d site))

/-- Run a register write on a site if the path is admitted; otherwise it is discarded with a class C0 event (R452). -/
def onSite (d : Dev) (p : Path) (site addr : Nat) (f : Dev → Dev) : Dev :=
  if siteAdmits d p site then f d else regEvent d p addr

/-- No descriptor is active or staged in any engine of the site (R159). -/
def siteQuiet (d : Dev) (site : Nat) : Bool :=
  let m := Sparse.get {} d.mxe site
  m.active.isNone && m.staged.isNone &&
    (List.range 12).all (fun u => let g := Sparse.get {} d.eng (16 * site + u); g.active.isNone && g.staged.isNone)

/-- A write of CMEM_CFG (R159, R183): discarded with a class C0 event while the core is not quiet. -/
def cmemMapWrite (d : Dev) (p : Path) (site : Nat) (data : Word) : Dev :=
  let addr := Reg.CMEM_CFG.key [site]
  onSite d p site addr (fun d =>
    if siteQuiet d site then Reg.CMEM_CFG.store d [site] (fbit d Reg.CMEM_CFG [site] Fld.CMEM_CFG_lock) data
    else regEvent d p addr)

/-- CMEM_MAP_WRITE (R159). -/
def execCmemMapWrite (p : Path) (site : Fin 36) (data : Word) (s : State) : Host.Outcome State Fault Refusal :=
  s.run (fun _ d => if portHalted d p then d else cmemMapWrite d p site.val data)

/-! ### Bank power states -/

/-- The state a mode holds a bank in (R173); AUTO leaves a bank in RET until it is accessed. -/
def modeState (mode cur : Nat) : Nat :=
  if mode = 0 then 0 else if mode = 1 then (if cur = 1 then 1 else 0)
  else if mode = 2 then 1 else if mode = 3 then 2 else 3

/-- Begin the transition of a bank to a state (Table 5.6): ON and OFFLINE exchange in one step; leaving OFF, or RET
upwards, is EXITING; the rest is ENTERING. -/
def bankBegin (d : Dev) (site b goal : Nat) : Dev :=
  let cur := bankState d site b
  let setState (d : Dev) (v : Nat) : Dev := fset d Reg.CMEM_BANK [site, b] Fld.CMEM_BANK_state v
  let setGoal (d : Dev) : Dev :=
    let c := Sparse.get {} d.cmem site
    { d with cmem := Sparse.set {} d.cmem site { c with target := Sparse.put c.target b goal } }
  if cur = goal then d
  else if (cur = 0 ∨ cur = 3) ∧ (goal = 0 ∨ goal = 3) then setState d goal
  else if cur = 2 ∨ (cur = 1 ∧ goal ≠ 2) then setState (setGoal d) 5
  else setState (setGoal d) 4

/-- A write of CMEM_BANK[b] (R172, R175): a reserved mode, a bank under march and a fenced bank discard it with a
class C0 event; in a transition the mode is the new target. On a SPARE site the write is discarded (R183). -/
def bankModeWrite (d : Dev) (p : Path) (site b : Nat) (data : Word) : Dev :=
  let addr := Reg.CMEM_BANK.key [site, b]
  onSite d p site addr (fun d =>
    let m := Fld.CMEM_BANK_mode.get data
    let st := bankState d site b
    if siteState d site = 1 then d
    else if 5 ≤ m ∨ fbit d Reg.CMEM_BANK [site, b] Fld.CMEM_BANK_march = true ∨ st = 6 then regEvent d p addr
    else
      let d := fset d Reg.CMEM_BANK [site, b] Fld.CMEM_BANK_mode m
      if st = 4 ∨ st = 5 then d else bankBegin d site b (modeState m st))

/-- BANK_MODE_WRITE (R175). -/
def execBankModeWrite (p : Path) (site : Fin 36) (bank : Fin 34) (data : Word) (s : State) :
    Host.Outcome State Fault Refusal :=
  s.run (fun _ d => if portHalted d p then d else bankModeWrite d p site.val bank.val data)

/-- The wake-up latency that the owner of a site states, in 100 ns; none for no limit (R460). -/
def siteLat (d : Dev) (site : Nat) : Option Nat :=
  match (if siteState d site = 0 then partOfCore d (siteLogical d site) else none) with
  | some q =>
    let l := fget d Reg.HUB_PART_CTL [q] Fld.HUB_PART_CTL_lat
    if l = 0xFFFF then none else some l
  | none => none

/-- An exit time in ns fits a latency tolerance (R460). -/
def latFits (lat : Option Nat) (ns : Nat) : Bool :=
  match lat with | none => true | some l => decide (ns ≤ 100 * l)

/-- BANK_AUTO_IDLE (R173): an AUTO bank that is ON moves to RET if 150 ns fits the owner's latency. -/
def execBankAutoIdle (site : Fin 36) (bank : Fin 34) (s : State) : Host.Outcome State Fault Refusal :=
  s.run (fun _ d =>
    if bankMode d site.val bank.val = 1 ∧ bankState d site.val bank.val = 0 ∧ latFits (siteLat d site.val) 150 = true
    then bankBegin d site.val bank.val 1 else d)

/-- Unlist the poison marks of a bank's words. -/
def clearBankPoison (d : Dev) (site b : Nat) : Dev :=
  let c := bankCells site b
  { d with poison := Sparse.clear d.poison (wordMark c.1) (c.2 / 8) }

/-- A bank's contents become zeros with valid check bits (Table 5.6, R178). -/
def zeroBank (d : Dev) (site b : Nat) : Dev :=
  let c := bankCells site b
  clearMem (clearBankPoison d site b) c.1 c.2

/-- A bank completes its transition (R175): OFF loses the contents, which read zero once it is back on; then the
target that the mode names, if it is another, is begun. -/
def bankTransitionDone (d : Dev) (site b : Nat) : Dev :=
  let c := Sparse.get {} d.cmem site
  let st := bankState d site b
  if st = 4 ∨ st = 5 then
    let goal := Sparse.get 0 c.target b
    let d := { d with cmem := Sparse.set {} d.cmem site { c with target := Sparse.del c.target b } }
    let d := fset d Reg.CMEM_BANK [site, b] Fld.CMEM_BANK_state goal
    let d := if goal = 2 then zeroBank d site b else d
    bankBegin d site b (modeState (bankMode d site b) goal)
  else d

/-- BANK_TRANSITION_DONE (R175). -/
def execBankTransitionDone (site : Fin 36) (bank : Fin 34) (s : State) : Host.Outcome State Fault Refusal :=
  s.run (fun _ d => bankTransitionDone d site.val bank.val)

/-! ### Scrubber and march -/

/-- The first key of a row of a bank. -/
def rowKey (site b row : Nat) : Nat := (bankCells site b).1 + row * (if b < 32 then 256 else 64)

/-- The rows of a bank. -/
def bankRows (b : Nat) : Nat := if b < 32 then 8192 else 4096

/-- CMEM_SCRUB_ACCESS (R177): with the scrubber enabled, each word of the next row of an ON or OFFLINE bank is treated
as a read treats it. -/
def execCmemScrubAccess (site : Fin 36) (bank : Fin 34) (row : BitVec 13) (found : List EccFound) (s : State) :
    Host.Outcome State Fault Refusal :=
  s.run (fun _ d =>
    let st := bankState d site.val bank.val
    if fbit d Reg.CMEM_SCRUB [site.val] Fld.CMEM_SCRUB_enable = true ∧ (st = 0 ∨ st = 3) ∧ row.toNat < bankRows bank.val then
      eccAll d site.val (span (rowKey site.val bank.val row.toNat) (if bank.val < 32 then 256 else 64)) found
    else d)

/-- The reason a march request is refused with, 0 for none (R181, Table 5.10; log entry 15 for the order). -/
def marchReason (d : Dev) (site b kind : Nat) : Nat :=
  if 33 < b then 4
  else if 2 ≤ kind then 5
  else if bankState d site b = 6 then 3
  else if (Sparse.get {} d.cmem site).march.isSome then 2
  else if bankState d site b ≠ 3 then 1 else 0

/-- A write of CMEM_MARCH_CTL (R181): a request is refused with a reason, or the march starts. -/
def marchCtlWrite (d : Dev) (p : Path) (site : Nat) (data : Word) : Dev :=
  onSite d p site (Reg.CMEM_MARCH_CTL.key [site]) (fun d =>
    if Fld.CMEM_MARCH_CTL_go.get data = 0 then d
    else
      let b := Fld.CMEM_MARCH_CTL_bank.get data
      let kind := Fld.CMEM_MARCH_CTL_kind.get data
      let why := marchReason d site b kind
      let st (d : Dev) (f : Fld) (v : Nat) : Dev := fset d Reg.CMEM_MARCH_STAT [site] f v
      if why ≠ 0 then
        st (st (st (st d Fld.CMEM_MARCH_STAT_done 1) Fld.CMEM_MARCH_STAT_result 2) Fld.CMEM_MARCH_STAT_reason why)
          Fld.CMEM_MARCH_STAT_bank b
      else
        let c := Sparse.get {} d.cmem site
        let d := { d with cmem := Sparse.set {} d.cmem site { c with march := some ⟨b, kind⟩ } }
        fset (st (st (st d Fld.CMEM_MARCH_STAT_busy 1) Fld.CMEM_MARCH_STAT_bank b) Fld.CMEM_MARCH_STAT_reason 0)
          Reg.CMEM_BANK [site, b] Fld.CMEM_BANK_march 1)

/-- CMEM_MARCH_CTL_GO (R181). -/
def execCmemMarchCtlGo (p : Path) (site : Fin 36) (data : Word) (s : State) : Host.Outcome State Fault Refusal :=
  s.run (fun _ d => if portHalted d p then d else marchCtlWrite d p site.val data)

/-- The end of a run-time march (R178, R179, R182): a destructive march leaves zeros; a failure fences the bank as
class C1; a pass leaves it OFFLINE. -/
def marchDone (d : Dev) (site : Nat) (pass : Bool) (element row failWords poisonedW : Nat) : Dev :=
  let c := Sparse.get {} d.cmem site
  match c.march with
  | none => d
  | some m =>
    let d := { d with cmem := Sparse.set {} d.cmem site { c with march := none } }
    let d := fset d Reg.CMEM_BANK [site, m.bank] Fld.CMEM_BANK_march 0
    let d := if m.kind = 0 then zeroBank d site m.bank else d
    let st (d : Dev) (f : Fld) (v : Nat) : Dev := fset d Reg.CMEM_MARCH_STAT [site] f v
    let d := st (st (st (st d Fld.CMEM_MARCH_STAT_busy 0) Fld.CMEM_MARCH_STAT_done 1)
      Fld.CMEM_MARCH_STAT_result (if pass then 0 else 1)) Fld.CMEM_MARCH_STAT_reason 0
    let d := st (st d Fld.CMEM_MARCH_STAT_element (if pass || m.kind != 0 then 0 else element))
      Fld.CMEM_MARCH_STAT_row (if pass || m.kind != 0 then 0 else row)
    let d := if m.kind = 0 then fset d Reg.CMEM_MARCH_CNT [site] Fld.CMEM_MARCH_CNT_fail_words failWords
      else fset d Reg.CMEM_MARCH_CNT [site] Fld.CMEM_MARCH_CNT_poisoned poisonedW
    if pass then d
    else report (fset d Reg.CMEM_BANK [site, m.bank] Fld.CMEM_BANK_state 6)
      { source := 0x22, unit := unitSite site, sub := m.bank, part := partOfCore d (siteLogical d site) }

/-- MARCH_DONE (R182). -/
def execMarchDone (site : Fin 36) (pass : Bool) (element : BitVec 3) (row : BitVec 13) (failWords poisoned : BitVec 16)
    (s : State) : Host.Outcome State Fault Refusal :=
  s.run (fun _ d => marchDone d site.val pass element.toNat row.toNat failWords.toNat poisoned.toNat)

end Sys2Proof.Machine
end

