-- ==== Sys2Proof/Machine/PkgMem.lean ====
section
/-!
DEFINITION. Package memory as its requesters name it (R222-R232, R248, R249): the 52-bit address space, the HBM
ranges and their decoding, ownership, error responses, poison, and the home atomics.
-/
namespace Sys2Proof.Machine

/-- What a device physical address names (Table 7.1). -/
inductive Target where
  | hbm
  | core (c off : Nat)
  | guest (g off : Nat)
  | host (p off : Nat)
  | none_
deriving DecidableEq, Repr

/-- The stacks in service, ascending (R224). -/
def stacksIn (d : Dev) : List Nat :=
  (List.range 24).filter (tbit (fget d Reg.HUB_HBM_STACKS [] Fld.HUB_HBM_STACKS_in_service))

/-- The stacks in service on a base die (R224). -/
def stacksOn (d : Dev) (m : Nat) : List Nat := (stacksIn d).filter (fun n => n / 4 == m)

/-- HBM range i is enabled. -/
def rangeOn (d : Dev) (i : Nat) : Bool := fbit d Reg.HUB_HBM_RANGE [i] Fld.HUB_HBM_RANGE_enable

/-- The size of range i in GiB (R226). -/
def rangeGib (d : Dev) (i : Nat) : Nat := fget d Reg.HUB_HBM_RANGE [i] Fld.HUB_HBM_RANGE_len_gib * (stacksIn d).length

/-- The ranges are decoded: locked, with stacks ready (R225, R232). -/
def rangesLocked (d : Dev) : Bool := fbit d Reg.HUB_HBM_CFG [] Fld.HUB_HBM_CFG_lock

/-- The enabled range that holds an address of the HBM region (R226). -/
def rangeOf (d : Dev) (a : Nat) : Option Nat :=
  if !(rangesLocked d) then none
  else lowest 32 (fun i =>
    let base := fget d Reg.HUB_HBM_RANGE [i] Fld.HUB_HBM_RANGE_base_gib * 2 ^ 30
    rangeOn d i && decide (base ≤ a) && decide (a < base + rangeGib d i * 2 ^ 30))

/-- The base die whose part of a regional range holds an offset, and the offset in that part (R228). -/
def regionalPart (d : Dev) (len : Nat) : Nat → Nat → Nat → Nat × Nat
  | 0, m, r => (m, r)
  | k + 1, m, r =>
    let size := (stacksOn d m).length * len
    if size ≤ r then regionalPart d len k (m + 1) (r - size) else (m, r)

/-- Stack and stack address of an address in range i (R228). -/
def decodeIn (d : Dev) (i a : Nat) : Nat × Nat :=
  let w := rdReg d Reg.HUB_HBM_RANGE [i]
  let r := a - Fld.HUB_HBM_RANGE_base_gib.get w * 2 ^ 30
  let len := Fld.HUB_HBM_RANGE_len_gib.get w * 2 ^ 30
  let part := if Fld.HUB_HBM_RANGE_mode.get w = 0 then (stacksIn d, r)
    else let x := regionalPart d len 6 0 r; (stacksOn d x.1, x.2)
  let q := part.2 / 256
  let n := max part.1.length 1
  (part.1.getD (q % n) 0, Fld.HUB_HBM_RANGE_off_gib.get w * 2 ^ 30 + q / n * 256 + part.2 % 256)

/-- Stack and stack address of an HBM address; none at or beyond the last enabled range (R226, R228). -/
def decodeHbm (d : Dev) (a : Nat) : Option (Nat × Nat) := (rangeOf d a).map (fun i => decodeIn d i a)

/-- The memory key of an HBM address. -/
def hbmKey (d : Dev) (a : Nat) : Option Nat := (decodeHbm d a).map (fun x => stackCells x.1 + x.2)

/-- The home of an address: the base die of its stack (R228). -/
def homeOf (d : Dev) (a : Nat) : Option Nat := (decodeHbm d a).map (fun x => x.1 / 4)

/-- The end of the last enabled range (R226). -/
def hbmEnd (d : Dev) : Nat :=
  (List.range 32).foldl (fun m i => if rangeOn d i then
    max m ((fget d Reg.HUB_HBM_RANGE [i] Fld.HUB_HBM_RANGE_base_gib + rangeGib d i) * 2 ^ 30) else m) 0

/-- The one target that holds all bytes of a request (R222); `none_` when no target does. -/
def targetOf (d : Dev) (a len : Nat) : Target :=
  let hi := a + (max len 1) - 1
  if 2 ^ 52 ≤ hi then .none_
  else if hi < 2 ^ 42 then (if rangesLocked d && decide (hi < hbmEnd d) then .hbm else .none_)
  else if 0x40000000000 ≤ a ∧ hi < 0x40200000000 then
    let c := (a - 0x40000000000) / 2 ^ 28
    if (hi - 0x40000000000) / 2 ^ 28 = c then .core c ((a - 0x40000000000) % 2 ^ 28) else .none_
  else if 0x60000000000 ≤ a ∧ hi < 0x70000000000 then .guest 0 (a - 0x60000000000)
  else if 0x70000000000 ≤ a ∧ hi < 0x80000000000 then .guest 1 (a - 0x70000000000)
  else if 2 ^ 51 ≤ a then
    let p := (a - 2 ^ 51) / 2 ^ 48
    if p < 4 ∧ (hi - 2 ^ 51) / 2 ^ 48 = p then .host p ((a - 2 ^ 51) % 2 ^ 48) else .none_
  else .none_

/-- A requester in the sense of the ownership check (R223, R457): what it is, and the partition its request belongs to;
a port's request belongs to whichever of its partitions owns the target. -/
structure Requester where
  src : Source
  part : Option Nat
deriving DecidableEq, Repr

/-- The requester that an engine of a site is, on behalf of a stream (R457). -/
def streamReq (d : Dev) (site : Nat) (st : Nat) : Requester :=
  { src := .core (Fin.ofNat 36 site), part := partOfStream d st }

/-- The ownership check (R457). -/
def admits (d : Dev) (r : Requester) (t : Target) (a : Nat) : Bool :=
  let owns (q : Option Nat) : Bool :=
    match r.src with
    | .sideBand => true
    | .port p => boundTo d p.val q
    | _ => q.isSome && q == r.part
  match t with
  | .hbm => match rangeOf d a with | some i => owns (partOfRange d i) | none => true
  | .core c _ => owns (partOfCore d c)
  | .guest g _ => owns (partOfGuest d g)
  | .host p _ =>
    match r.src with
    | .sideBand => true
    | .port q => q.val == p && (List.range 16).any (fun x => partEnabled d x && portOfPart d x == p)
    | _ => match r.part with | some q => partOn d q && portOfPart d q == p | none => false
  | .none_ => true

/-- A port's link is up and its function not in D3cold, so host memory behind it answers (R443). -/
def portUp (d : Dev) (p : Nat) : Bool :=
  fbit d Reg.HOST_PORT_STAT [p] Fld.HOST_PORT_STAT_up && fget d Reg.HOST_PORT_STAT [p] Fld.HOST_PORT_STAT_dstate != 2

/-- A guest site is ACTIVE (Table 8.10 code 3). -/
def guestActive (d : Dev) (g : Nat) : Bool := fget d Reg.PRV_STAT [g] Fld.PRV_STAT_state == 3

/-- The error, if any, that a request of some bytes meets before its target performs it: reach, then ownership
(R222, R223, R236). -/
def reachErr (d : Dev) (r : Requester) (a len : Nat) : Option MemErr :=
  let t := targetOf d a len
  match t with
  | .none_ => some .noTarget
  | .hbm => if admits d r t a && admits d r t (a + len - 1) then none else some .denied
  | .core _ _ => if admits d r t a then none else some .denied
  | .guest g _ => if !(admits d r t a) then some .denied else if guestActive d g then none else some .noTarget
  | .host p _ => if !(admits d r t a) then some .denied else if portUp d p then none else some .noTarget

/-- The class C0 event and the count of a refused request (R223, R457). -/
def refuseNote (d : Dev) (r : Requester) (er : MemErr) (a : Nat) : Dev :=
  let part := match r.part with | some q => some q | none => srcPart d r.src
  match er with
  | .noTarget => refusedEvent d (srcUnit r.src) a part
  | .denied =>
    let d := match part with
      | some q => fincSat d Reg.HUB_PART_STAT [q] Fld.HUB_PART_STAT_denied 1
      | none => d
    refusedEvent d (srcUnit r.src) a part
  | _ => d

/-- The keys of a byte range of the HBM region. -/
def hbmKeys (d : Dev) (a len : Nat) : List Nat := (List.range len).map (fun i => (hbmKey d (a + i)).getD 0)

/-- A key lies in a stack that failed at run time (R231). -/
def deadKey (d : Dev) (k : Nat) : Bool := d.coh.deadStacks.contains ((k - 2 ^ 40) / 2 ^ 36)

/-- Some line of a range is poisoned, or its stack has failed at run time (R231). -/
def hbmPoison (d : Dev) (ks : List Nat) : Bool := ks.any (fun k => poisoned d (lineMark k) || deadKey d k)

/-! ### Copies that agents hold -/

/-- What an agent holds of a line. -/
def aLine (d : Dev) (a line : Nat) : ALine := Sparse.get {} d.coh.agents (12 * line + a)

/-- Change what an agent holds of a line. -/
def setALine (d : Dev) (a line : Nat) (l : ALine) : Dev :=
  { d with coh := { d.coh with agents := Sparse.set {} d.coh.agents (12 * line + a) l } }

/-- Move an agent to a state; in I it holds nothing, and in S a host holds no half in E. -/
def setASt (d : Dev) (a line : Nat) (st : AState) : Dev :=
  let l := aLine d a line
  setALine d a line (if st = .i then {}
    else if st = .s then { l with st := st, half0 := min l.half0 1, half1 := min l.half1 1 } else { l with st := st })

/-- Set or remove the directory entry of a line. -/
def setDir (d : Dev) (line : Nat) (x : Option DirEnt) : Dev :=
  { d with
      coh := { d.coh with
          dir := match x with
            | some v => Sparse.put d.coh.dir line v
            | none => Sparse.del d.coh.dir line}}

/-- The keys of a line of the HBM region. -/
def lineKeys (d : Dev) (line : Nat) : List Nat := hbmKeys d (128 * line) 128

/-- Write the home copy of a whole line, which clears its poison (R231, R244). -/
def writeHome (d : Dev) (line : Nat) (bs : List Byte) : Dev :=
  let ks := lineKeys d line
  setPoison (wrBytes d ks bs) (lineMark (ks.headD 0)) false

/-- The WbM of an agent for a line that is on its way. -/
def wbOf (d : Dev) (a line : Nat) : Option (List Byte) :=
  (d.coh.wbs.find? (fun w => w.1 == a && w.2.1 == line)).map (·.2.2)

/-- Take a WbM at its home: it is no longer on its way, and WbAck is sent. -/
def ackWb (d : Dev) (a line : Nat) : Dev :=
  emit { d with
      coh := { d.coh with
        wbs := d.coh.wbs.filter (fun w => !(w.1 == a && w.2.1 == line))
        wbAcks := d.coh.wbAcks ++ [(a, line)] }} (.coh a 15 line [])

/-- A half of a host's line as its port finds it: the tracker's bytes, or free ones where the host holds it in E and has changed it. -/
def halfData (d : Dev) (l : ALine) (half : Nat) : Bool × List Byte × Dev :=
  let mine := slice l.data (64 * half) 64
  if (if half = 0 then l.half0 else l.half1) = 2 then
    let x := takeFree d 1
    if x.1 = 1 then let y := freeBytes 64 x.2; (true, y.1, y.2) else (false, mine, x.2)
  else (false, mine, d)

/-- Data that an owner's copy may hold beyond the home's: a modified copy is known to its agent alone, and an E copy
turns M silently (R241), so both are free (log entry 4); of a host's line its port holds a copy (R448). -/
def ownerData (d : Dev) (l : ALine) : Option (List Byte) × Dev :=
  if l.data ≠ [] ∧ (l.st = .m ∨ l.st = .e) then
    let x := halfData d l 0
    let y := halfData x.2.2 l 1
    (if l.st = .m || x.1 || y.1 then some (x.2.1 ++ y.2.1) else none, y.2.2)
  else match l.st with
    | .m => let x := freeBytes 128 d; (some x.1, x.2)
    | .e =>
      let x := takeFree d 1
      if x.1 = 1 then let y := freeBytes 128 x.2; (some y.1, y.2) else (none, x.2)
    | _ => (none, d)

/-- Agents of a vector. -/
def vecAgents (v : Nat) : List Nat := (List.range 12).filter (tbit v)

/-- Take an agent out of a directory entry. -/
def dirDrop (d : Dev) (line a : Nat) : Dev :=
  match Sparse.find d.coh.dir line with
  | none => d
  | some en =>
    if en.x then (if en.who = a then setDir d line none else d)
    else
      let v := en.who &&& ((2 ^ 12 - 1) ^^^ 2 ^ a)
      setDir d line (if v = 0 then none else some { en with who := v })

/-- Recall the copies of a line for an access that an engine's command performs whole (R244, Table 7.7a): 0 as RdCur,
whose result from the owner is returned; 1 as RdS; 2 as a write. A copy whose grant is still on its way stays: the
access is performed before the transaction that grants it (log entry 22). -/
def recallLine (d : Dev) (line mode : Nat) : Option (List Byte) × Dev :=
  match Sparse.find d.coh.dir line with
  | none => (none, d)
  | some en =>
    if en.x then
      let l := aLine d en.who line
      match l.st with
      | .miA =>
        match wbOf d en.who line with
        | some bs => (none, setDir (ackWb (writeHome d line bs) en.who line) line none)
        | none => (none, d)
      | .isD => (none, d)
      | .imD => (none, d)
      | .smD => (none, d)
      | _ =>
        let x := ownerData d l
        let d := emit x.2 (.coh en.who (7 + mode) line [])
        match mode with
        | 0 => (x.1, d)
        | _ =>
          let d := match x.1 with | some bs => writeHome d line bs | none => d
          if mode = 1 then
            if l.st = .i then (none, setDir d line none)
            else
              let d := setASt d en.who line .s
              let d := match x.1 with
                | some bs => if l.data = [] then d else setALine d en.who line { aLine d en.who line with data := bs }
                | none => d
              (none, setDir d line (some { en with x := false, who := 2 ^ en.who }))
          else (none, setDir (setASt d en.who line .i) line none)
    else if mode < 2 then (none, d)
    else
      (none, (vecAgents en.who).foldl (fun d a =>
        match (aLine d a line).st with
        | .isD => d
        | .imD => d
        | .smD => setASt d a line .imD
        | _ => dirDrop (setASt (if 6 ≤ a then emit d (.coh a 9 line []) else d) a line .i) line a) d)

/-- The lines of a byte range. -/
def linesOf (a len : Nat) : List Nat := (List.range ((a + max len 1 - 1) / 128 - a / 128 + 1)).map (a / 128 + ·)

/-- Recall every line of a byte range. -/
def recallRange (d : Dev) (a len mode : Nat) : Dev :=
  if d.coh.dir = [] then d else (linesOf a len).foldl (fun d l => (recallLine d l mode).2) d

/-- The bytes of a range as RdCur returns them: an owner that answers SnpCur with data keeps its line dirty, and the
home copy is as before (R244). -/
def readCur (e : Env) (d : Dev) (a len : Nat) : Except MemErr (List Byte) × Dev :=
  let ks := hbmKeys d a len
  if d.coh.dir = [] then (if hbmPoison d ks then (.error .poison, d) else (.ok (rdBytes e d ks), d))
  else
    let x := (linesOf a len).foldl (fun (x : List (Nat × List Byte) × Dev) l =>
      let r := recallLine x.2 l 0
      match r.1 with | some bs => (x.1 ++ [(l, bs)], r.2) | none => (x.1, r.2)) ([], d)
    let d2 := x.1.foldl (fun d p => writeHome d p.1 p.2) x.2
    if hbmPoison d2 ks then (.error .poison, x.2) else (.ok (rdBytes e d2 ks), x.2)

/-- Take `n` bytes that a memory outside the device returned to the running command; too few are no response. -/
def takeExt (d : Dev) (n : Nat) : Option (List Byte) × Dev :=
  if d.extIn.length < n then (none, d) else (some (d.extIn.take n), { d with extIn := d.extIn.drop n })

/-- A read of package memory by a requester: the bytes, or an error of Table 7.2 (R222, R223, R231). -/
def pkgRead (e : Env) (d : Dev) (r : Requester) (a len : Nat) : Except MemErr (List Byte) × Dev :=
  match reachErr d r a len with
  | some er => (.error er, refuseNote d r er a)
  | none =>
    match targetOf d a len with
    | .hbm =>
      match r.src with
      | .core _ =>
        let d := recallRange d a len 1
        let ks := hbmKeys d a len
        if hbmPoison d ks then (.error .poison, d) else (.ok (rdBytes e d ks), d)
      | _ => readCur e d a len
    | .core c off =>
      match siteOfCore d c, windowView off len with
      | some site, some (_, mbx, o) =>
        let ks := windowKeys d site mbx o len
        let bs := banksOf ks
        if bs.any (bankRefuses d site) then (.error .noTarget, refuseNote d r .noTarget off)
        else if anyPoison d ks then (.error .poison, d)
        else (.ok (rdBytes e d ks), wakeBanks d site bs)
      | _, _ => (.error .noTarget, refuseNote d r .noTarget off)
    | .guest _ _ => match takeExt d len with | (some b, d) => (.ok b, d) | (none, d) => (.error .timeout, d)
    | .host _ _ => match takeExt d len with | (some b, d) => (.ok b, d) | (none, d) => (.error .timeout, d)
    | .none_ => (.error .noTarget, refuseNote d r .noTarget a)

/-- The lines that a write covers whole lose their poison; a part of a poisoned line refuses the write (R231). -/
def hbmWrite (d : Dev) (ks : List Nat) (bs : List Byte) (ens : List Bool) : Bool × Dev :=
  let on := ((ks.zip ens).filter (·.2)).map (·.1)
  let bad := on.any (fun k => poisoned d (lineMark k) &&
    !((List.range 128).all (fun i => on.contains (k / 128 * 128 + i))))
  if bad || on.any (deadKey d) then (false, d)
  else
    let d := wrEnabled d ks bs ens
    (true, on.foldl (fun d k => if poisoned d (lineMark k) then setPoison d (lineMark k) false else d) d)

/-- A write of package memory by a requester: none, or an error of Table 7.2 (R222, R223, R231). -/
def pkgWrite (e : Env) (d : Dev) (r : Requester) (a : Nat) (bs : List Byte) (ens : List Bool) : Option MemErr × Dev :=
  match reachErr d r a bs.length with
  | some er => (some er, refuseNote d r er a)
  | none =>
    match targetOf d a bs.length with
    | .hbm =>
      let d := recallRange d a bs.length 2
      let w := hbmWrite d (hbmKeys d a bs.length) bs ens
      if w.1 then (none, w.2) else (some .poison, d)
    | .core c off =>
      match siteOfCore d c, windowView off bs.length with
      | some site, some (view, mbx, o) =>
        let ks := windowKeys d site mbx o bs.length
        let bk := banksOf ks
        if bk.any (bankRefuses d site) then (some .noTarget, refuseNote d r .noTarget off)
        else
          let old := rdBytes e d ks
          let data := match view with
            | .normal => bs
            | .set => (old.zip bs).map (fun p => p.1 ||| p.2)
            | .clear => (old.zip bs).map (fun p => p.1 &&& ~~~p.2)
          let w := wrCells (wakeBanks d site bk) (view != .normal) ks data ens
          (if w.1 then some .poison else none, w.2)
      | _, _ => (some .noTarget, refuseNote d r .noTarget off)
    | .guest g off => (none, emit d (.guestWrite g off bs))
    | .host p off => (none, emit d (.hostWrite p off bs))
    | .none_ => (some .noTarget, refuseNote d r .noTarget a)

/-- A home atomic by a requester (R248, R249): performed in the HBM region and in the normal views of a core window,
over at most two lines; anywhere else it completes with NOTARGET. -/
def pkgAtomic (e : Env) (d : Dev) (r : Requester) (a : Nat) (op : MemOp) : Except MemErr (List Byte) × Dev :=
  let len := opLen op
  let noT (d : Dev) : Except MemErr (List Byte) × Dev := (.error .noTarget, refuseNote d r .noTarget a)
  match reachErr d r a len with
  | some er => (.error er, refuseNote d r er a)
  | none =>
    match targetOf d a len with
    | .hbm =>
      let ks := hbmKeys d a len
      if 1 < (a + len - 1) / 128 - a / 128 then noT d
      else
      let d := recallRange d a len 2
      if hbmPoison d ks then (.error .poison, d)
      else
        let x := atomApply op (rdBytes e d ks)
        (.ok x.2, wrBytes d ks x.1)
    | .core c off =>
      match siteOfCore d c, windowView off len with
      | some site, some (.normal, mbx, o) =>
        let ks := windowKeys d site mbx o len
        let bk := banksOf ks
        if bk.any (bankRefuses d site) then (.error .noTarget, refuseNote d r .noTarget off)
        else if anyPoison d ks then (.error .poison, d)
        else
          let x := atomApply op (rdBytes e d ks)
          (.ok x.2, wrBytes (wakeBanks d site bk) ks x.1)
      | _, _ => noT d
    | _ => noT d

/-- The descriptor status of an error response (Table 7.2). -/
def errStatus : MemErr → Nat
  | .noTarget => 0x05
  | .denied => 0x05
  | .poison => 0x16
  | .timeout => 0x16

end Sys2Proof.Machine
end

