-- ==== Sys2Proof/Machine/Rng.lean ====
section
/-!
DEFINITION. The counter-based generator G (R151) and its users' draws (R75, R151, R152).
-/
namespace Sys2Proof.Machine

/-- The four 32-bit words that G works on and returns. -/
structure Quad where
  x0 : Word
  x1 : Word
  x2 : Word
  x3 : Word
deriving DecidableEq, Repr

/-- One round of G (R151). -/
def gRound (k0 k1 : Word) (x : Quad) : Quad :=
  let p0 := 0xC4F3A5B1 * x.x0.toNat
  let p1 := 0x9E6D2B37 * x.x2.toNat
  { x0 := high32 p1 ^^^ x.x1 ^^^ k0, x1 := low32 p1, x2 := high32 p0 ^^^ x.x3 ^^^ k1, x3 := low32 p0 }

/-- `n` rounds of G with the key schedule of R151. -/
def gRounds : Nat → Word → Word → Quad → Quad
  | 0, _, _, x => x
  | n + 1, k0, k1, x => gRounds n (k0 + 0x8F1BBCDD) (k1 + 0x6C8E9CF5) (gRound k0 k1 x)

/-- G(key, counter) (R151). -/
def gen (key : Word × Word) (x : Quad) : Quad := gRounds 10 key.1 key.2 x

/-- The draw x0 for element index `i`, rounding tag `g` and purpose `p` (R151). -/
def draw (key : Word × Word) (i g p : Nat) : Word :=
  (gen key { x0 := low32 i, x1 := BitVec.ofNat 32 (bits i 47 32), x2 := low32 g, x3 := low32 p }).x0

/-- The 24-bit draw of stochastic rounding (R74, R75). -/
def drawSr (key : Word × Word) (i g : Nat) : Nat := (draw key i g 0).toNat % 2 ^ 24

/-- u = (x0 >> 8) × 2^−24 as an FP32 code (R151). -/
def uniformOf (x : Word) : Nat := fp32Of (.fin false (x.toNat / 256) (-24))

end Sys2Proof.Machine
end

