-- ==== Sys2Proof/Machine/Mxe.lean ====
section
/-!
DEFINITION. The matrix engine (R78-R112): descriptor checks, slots, weight tiles, row issue, entries in the
accumulator file, drain and conversion, the window record, and every way a descriptor ends.
-/
namespace Sys2Proof.Machine

/-- The fields of an MXE descriptor (Table 3.6). -/
structure MxeDesc where
  aAddr : Nat
  bAddr : Nat
  outAddr : Nat
  aFmt : Nat
  outSc : Nat
  bFmt : Nat
  m : Nat
  n : Nat
  k : Nat
  os : Bool
  sparse : Bool
  conv : ConvWord
  pitch : Nat
  accRow : Nat
  accInit : Bool
  drain : Bool
  final : Bool
  record : Bool
  outBlk : Bool
  aScale : Nat
  bScale : Nat
  window : Nat
  tag : Nat
  idxLd : Nat
  idxBase : Nat
deriving DecidableEq, Repr

/-- Read the fields of an MXE descriptor (R102). -/
def mxeDesc (b : List Byte) : MxeDesc :=
  { aAddr := dfield b 16 19 0 * 64, bAddr := dfield b 16 39 20 * 64, outAddr := dfield b 16 59 40 * 64,
    aFmt := dfield b 16 63 60, outSc := dfield b 24 19 0 * 64, bFmt := dfield b 24 23 20,
    m := dfield b 24 32 24 + 1, n := dfield b 24 41 33 + 1, k := dfield b 24 61 42 + 1,
    os := dbit b 24 62, sparse := dbit b 24 63, conv := convOf (dfield b 32 15 0), pitch := dfield b 32 31 16 * 64,
    accRow := dfield b 32 40 32, accInit := dbit b 32 41, drain := dbit b 32 42, final := dbit b 32 43,
    record := dbit b 32 44, outBlk := dbit b 32 45, aScale := dfield b 32 55 48, bScale := dfield b 32 63 56,
    window := dword b 5, tag := dfield b 48 31 0, idxLd := dfield b 48 63 32, idxBase := dfield b 56 47 0 }

/-! ### Geometry (R82-R87) -/

/-- Round up to a multiple of 64. -/
def up64 (n : Nat) : Nat := ceilDiv n 64 * 64

/-- K rounded up to a multiple of 32 (R83). -/
def MxeDesc.kPad (x : MxeDesc) : Nat := ceilDiv x.k 32 * 32

/-- The pair is in the exact class (R81). -/
def MxeDesc.exact (x : MxeDesc) : Bool := fmtExact x.aFmt && fmtExact x.bFmt

/-- Both operands are 4-bit (R82). -/
def MxeDesc.four (x : MxeDesc) : Bool := fmtWidth x.aFmt == 4 && fmtWidth x.bFmt == 4

/-- K indices of a weight tile (Table 3.2). -/
def MxeDesc.tileK (x : MxeDesc) : Nat := 512 * (if x.four then 2 else 1) * (if x.sparse then 2 else 1)

/-- Weight tiles of the descriptor (R86, weight-stationary). -/
def MxeDesc.tiles (x : MxeDesc) : Nat := ceilDiv x.kPad x.tileK

/-- Rounds of an output-stationary descriptor (R93). -/
def MxeDesc.rounds (x : MxeDesc) : Nat := ceilDiv (x.kPad / 32) 8

/-- Entries that land in each accumulator row. -/
def MxeDesc.entries (x : MxeDesc) : Nat := if x.os then x.rounds else x.tiles

/-- Bytes of a row of the A image (R83). -/
def MxeDesc.aRow (x : MxeDesc) : Nat := up64 (packedLen (fmtWidth x.aFmt) x.kPad)

/-- Bytes of a value row of the B image (R84, R85). -/
def MxeDesc.bRow (x : MxeDesc) : Nat := up64 (packedLen (fmtWidth x.bFmt) x.n)

/-- The A scale array (R83). -/
def MxeDesc.aScBase (x : MxeDesc) : Nat := x.aAddr + x.m * x.aRow

/-- Bytes of the A image with its scales. -/
def MxeDesc.aSize (x : MxeDesc) : Nat := x.m * x.aRow + (if fmtMx x.aFmt then x.m * (x.kPad / 32) else 0)

/-- Value rows of the B image. -/
def MxeDesc.bRows (x : MxeDesc) : Nat := if x.sparse then x.kPad / 2 else x.kPad

/-- The metadata of a sparse B image, and the bytes of a metadata row (R85). -/
def MxeDesc.metaBase (x : MxeDesc) : Nat := x.bAddr + x.bRows * x.bRow
def MxeDesc.metaRow (x : MxeDesc) : Nat := up64 (ceilDiv x.n 2)

/-- The B scale array (R84, R85). -/
def MxeDesc.bScBase (x : MxeDesc) : Nat := x.metaBase + (if x.sparse then x.kPad / 4 * x.metaRow else 0)

/-- Bytes of the B image with metadata and scales. -/
def MxeDesc.bSize (x : MxeDesc) : Nat :=
  x.bScBase - x.bAddr + (if fmtMx x.bFmt then x.kPad / 32 * up64 x.n else 0)

/-- Bytes of an output row (R97). -/
def MxeDesc.outRow (x : MxeDesc) : Nat := packedLen (fmtWidth x.conv.fmt) x.n

/-- The byte ranges a draining descriptor writes: output rows, and MX scales (R97, R99). -/
def MxeDesc.outRanges (x : MxeDesc) : List (Nat × Nat) :=
  if !x.drain then [] else
    (List.range x.m).map (fun r => (x.outAddr + r * x.pitch, x.outRow)) ++
      (if !(fmtMx x.conv.fmt) then []
       else if x.outBlk then (List.range (ceilDiv x.m 32)).map (fun b => (x.outSc + 512 * b, x.n))
       else (List.range x.m).map (fun r => (x.outSc + 16 * r, ceilDiv x.n 32)))

/-- Two byte ranges share a byte. -/
def overlap (a la b lb : Nat) : Bool := decide (a < b + lb) && decide (b < a + la) && la != 0 && lb != 0

/-! ### Checks at entry (R103) -/

/-- A pair that R81 accepts. -/
def MxeDesc.pairOk (x : MxeDesc) : Bool :=
  x.exact || (x.aFmt == 1 && x.bFmt == 1) || (x.aFmt == 0 && x.bFmt == 0)

/-- The pair contains E5M2 (R89). -/
def MxeDesc.hasE5 (x : MxeDesc) : Bool := fmtElem x.aFmt == some .e5m2 || fmtElem x.bFmt == some .e5m2

/-- A reserved field is nonzero (Table 3.6, Table 2.8). -/
def mxeReserved (b : List Byte) (x : MxeDesc) : Bool :=
  dfield b 32 47 46 != 0 || dfield b 56 63 48 != 0 || x.conv.rsv ||
    (if x.record then x.window % 16 != 0 || x.window / 2 ^ 52 != 0 else x.window / 2 ^ 16 != 0)

/-- The accumulator row of output row `r`. -/
def accState (d : Dev) (site row : Nat) : Nat := fget d Reg.MXE_ROW_STATE [site, row] Fld.MXE_ROW_STATE_state

/-- The window of an accumulator row. -/
def accWin (d : Dev) (site row : Nat) : Int := signed 16 (fget d Reg.MXE_ROW_STATE [site, row] Fld.MXE_ROW_STATE_w)

/-- R95 for acc_init = 1: every row in the class's state, and at the window once it is known. -/
def mxeWindowOk (d : Dev) (site : Nat) (x : MxeDesc) (w : Option Int) : Bool :=
  !x.accInit || (List.range x.m).all (fun r =>
    if x.exact then accState d site (x.accRow + r) == 1 &&
      (match w with | some w => accWin d site (x.accRow + r) == w | none => true)
    else accState d site (x.accRow + r) == 2)

/-- The window of a FIXED descriptor (R59). -/
def MxeDesc.fixedWin (x : MxeDesc) : Option Int := if x.record then none else some (signed 16 (x.window % 2 ^ 16))

/-- Status of the entry checks, in the order of R103; 0 when the descriptor is accepted. -/
def mxeCheck (d : Dev) (site : Nat) (b : List Byte) : Nat :=
  let x := mxeDesc b
  if !(fbit d Reg.MXE_CFG [site] Fld.MXE_CFG_enable) then 0x09
  else if mxeReserved b x then 0x0A
  else if 0xE ≤ x.conv.fmt || !x.pairOk || (x.os && (!x.exact || x.hasE5)) || (x.sparse && x.aFmt == 0) then 0x01
  else if 512 < x.accRow + x.m || (x.os && (64 < x.m || x.sparse)) ||
      (x.os && !(fbit d Reg.MXE_CFG [site] Fld.MXE_CFG_os_allow)) then 0x02
  else if (!x.exact && x.conv.fmt == 0xC) || (x.final && !(x.exact && x.record && x.drain)) then 0x03
  else if !(mxeWindowOk d site x x.fixedWin) then 0x04
  else if 2 ^ 26 < x.aAddr + x.aSize || 2 ^ 26 < x.bAddr + x.bSize ||
      x.outRanges.any (fun o => decide (2 ^ 26 < o.1 + o.2) || overlap o.1 o.2 x.aAddr x.aSize ||
        overlap o.1 o.2 x.bAddr x.bSize) then 0x05
  else 0

/-! ### Slots -/

/-- The MXE of a site. -/
def getMxe (d : Dev) (site : Nat) : Mxe := Sparse.get {} d.mxe site

/-- Replace the MXE of a site. -/
def setMxe (d : Dev) (site : Nat) (m : Mxe) : Dev := { d with mxe := Sparse.set {} d.mxe site m }

/-- Report a final status to the stream scheduler (R194). -/
def engReport (d : Dev) (j : Job) (status : Nat) (f : XFlags) (detail : Nat) : Dev :=
  { d with engDone := d.engDone ++ [⟨j.stream, j.seq, status, f, detail⟩] }

/-- The staged descriptor moves to the active slot once that is empty and it has started (R104, R105). -/
def mxePromote (m : Mxe) : Mxe :=
  match m.active, m.staged with
  | none, some j => if j.started then
      { m with active := some j, staged := none, shadow := m.shadow.map (fun t => (false, t.2)) } else m
  | _, _ => m

/-- The same descriptor. -/
def sameJob (j : MxeJob) (st : BitVec 16) (q : BitVec 32) : Bool := j.job.stream == st && j.job.seq == q

/-- Accumulator rows of a descriptor become INVALID (R109, R110). -/
def mxeInvalidate (d : Dev) (site : Nat) (x : MxeDesc) : Dev :=
  (List.range x.m).foldl (fun d r => wrReg d Reg.MXE_ROW_STATE [site, x.accRow + r] 0) d

/-- Take a descriptor out of its slot with everything it has in the array. -/
def mxeRemove (m : Mxe) (staged : Bool) : Mxe :=
  match (if staged then m.staged else m.active) with
  | none => m
  | some j =>
    let m := { m with flight := m.flight.filter (fun f => !(f.stream == j.job.stream && f.seq == j.job.seq)),
                      shadow := match m.shadow with | some t => if t.1 == staged then none else some t | none => none }
    mxePromote (if staged then { m with staged := none } else { m with active := none })

/-- A descriptor ends with a status (R103, R109, R110). -/
def mxeEnd (d : Dev) (site : Nat) (staged inval : Bool) (status : Nat) : Dev :=
  let m := getMxe d site
  match (if staged then m.staged else m.active) with
  | none => d
  | some j =>
    let d := if inval then undefRanges (mxeInvalidate d site (mxeDesc j.job.bytes)) site (mxeDesc j.job.bytes).outRanges
      else d
    engReport (setMxe d site (mxeRemove m staged)) j.job status j.flags 0

/-- The first rejection since the last clear is kept (Table 3.13). -/
def noteReject (d : Dev) (r : RegDesc) (ix : List Nat) (valid code stream : Fld) (status st : Nat) : Dev :=
  if fbit d r ix valid then d
  else fset (fset (fset d r ix valid 1) r ix code status) r ix stream st

/-- MXE_DESCRIPTOR_ENTRY (R103): rejected with a status, or accepted into the staged slot. -/
def mxeEntry (d : Dev) (site : Nat) (job : Job) : Dev :=
  let m := getMxe d site
  if m.staged.isSome then d
  else
    let st := mxeCheck d site job.bytes
    if st = 0 then setMxe d site { m with staged := some { job := job } }
    else engReport (noteReject d Reg.MXE_REJ [site] Fld.MXE_REJ_valid Fld.MXE_REJ_code Fld.MXE_REJ_stream st
      job.stream.toNat) job st {} 0

/-- A descriptor on its way to a unit has arrived there. -/
def dropHandoff (d : Dev) (site u : Nat) (job : Job) : Dev :=
  { d with handoff := d.handoff.filter (fun h => !(h.site == site && h.unit == u && h.job.stream == job.stream && h.job.seq == job.seq)) }

/-- MXE_DESCRIPTOR_ENTRY (R103, Table 3.9). -/
def execMxeDescriptorEntry (site : Fin 36) (job : Job) (s : State) : Host.Outcome State Fault Refusal :=
  s.run (fun _ d => mxeEntry (dropHandoff d site.val 0 job) site.val job)

/-- A descriptor's window becomes known; R95 is checked at the start (R95, R104). -/
def mxeSetWindow (d : Dev) (site : Nat) (staged : Bool) (w : Option Int) : Dev :=
  let m := getMxe d site
  match (if staged then m.staged else m.active) with
  | none => d
  | some j =>
    let j := { j with win := w, reading := false }
    let d := setMxe d site (if staged then { m with staged := some j } else { m with active := some j })
    if mxeWindowOk d site (mxeDesc j.job.bytes) w then setMxe d site (mxePromote (getMxe d site))
    else mxeEnd d site staged false 0x04

/-- MXE_DESCRIPTOR_START (R104): the staged descriptor starts; in RECORD mode its record is read. -/
def mxeStart (d : Dev) (site : Nat) : Dev :=
  let m := getMxe d site
  match m.staged with
  | none => d
  | some j =>
    if j.started then d
    else
      let x := mxeDesc j.job.bytes
      let d := setMxe d site { m with staged := some { j with started := true, reading := x.record } }
      if x.record then setMxe d site (mxePromote (getMxe d site)) else mxeSetWindow d site true x.fixedWin

def execMxeDescriptorStart (site : Fin 36) (s : State) : Host.Outcome State Fault Refusal :=
  s.run (fun _ d => mxeStart d site.val)

/-- The window of a record at a package address, for a stream (R59, R104); none for an error. -/
def readWindow (e : Env) (d : Dev) (site st addr : Nat) (resp : Resp) : Option Int × Dev :=
  match resp with
  | .err _ => (none, d)
  | .ok =>
    match pkgRead e d (streamReq d site st) addr 16 with
    | (.ok b, d) => (some (winRecOf b).w, d)
    | (.error _, d) => (none, d)

/-- MXE_RECORD_READ_RETURN (R104): the window, or status RECORD with nothing changed. -/
def mxeRecordReturn (e : Env) (d : Dev) (site : Nat) (resp : Resp) : Dev :=
  let m := getMxe d site
  let waiting (j : Option MxeJob) : Bool := match j with | some j => j.reading | none => false
  let staged := !(waiting m.active)
  match (if staged then m.staged else m.active) with
  | none => d
  | some j =>
    if !j.reading then d
    else
      let r := readWindow e d site j.job.stream.toNat (mxeDesc j.job.bytes).window resp
      match r.1 with
      | some w => mxeSetWindow r.2 site staged (some w)
      | none => mxeEnd r.2 site staged false 0x06

def execMxeRecordReadReturn (site : Fin 36) (resp : Resp) (s : State) : Host.Outcome State Fault Refusal :=
  s.run (fun e d => mxeRecordReturn e d site.val resp)

/-! ### Operand reads -/

/-- A byte of the site's local memory as an operand read sees it. -/
def localByte (e : Env) (d : Dev) (site a : Nat) : Byte := rdByte e d (localKey d site a)

/-- The status of an operand read over some byte ranges: ADDRESS for a refusing bank, MEM_UE for poison (R174, R176). -/
def rangesStatus (d : Dev) (site : Nat) (rs : List (Nat × Nat)) : Nat :=
  rs.foldl (fun st r => if st = 0 then localStatus d site r.1 r.2 true else st) 0

/-- A descriptor stops during the operation (R109, Table 3.9 codes 0x05 and 0x16): its rows become INVALID. -/
def mxeStop (d : Dev) (site : Nat) (staged : Bool) (status addr : Nat) : Dev :=
  let d := if status = 0x05 then refusedEvent d (unitSite site) addr (partOfCore d (siteLogical d site)) else d
  mxeEnd d site staged true status

/-- The elements of one column of a weight tile (R84-R86): k ascending, K beyond the operand left out. -/
def tileCol (e : Env) (d : Dev) (site : Nat) (x : MxeDesc) (t c : Nat) : List WElem :=
  let w := fmtWidth x.bFmt
  let k0 := t * x.tileK
  let byteAt (row : Nat) (i : Nat) : Byte := localByte e d site (x.bAddr + row * x.bRow + i)
  if x.sparse then
    let groups := (List.range (x.tileK / 4)).filter (fun g => k0 + 4 * g < x.kPad)
    (groups.map (fun g =>
      let gg := k0 / 4 + g
      let md := packedAt (fun i => localByte e d site (x.metaBase + gg * x.metaRow + i)) 4 c
      [⟨4 * gg + md % 4, packedAt (byteAt (2 * gg)) w c⟩, ⟨4 * gg + md / 4 % 4, packedAt (byteAt (2 * gg + 1)) w c⟩])).flatten
  else
    ((List.range x.tileK).filter (fun i => k0 + i < x.k)).map (fun i => ⟨k0 + i, packedAt (byteAt (k0 + i)) w c⟩)

/-- The scale bytes of one column of a weight tile, one for each block of 32 k. -/
def tileScales (e : Env) (d : Dev) (site : Nat) (x : MxeDesc) (t c : Nat) : List Nat :=
  ((List.range (x.tileK / 32)).filter (fun b => t * x.tileK + 32 * b < x.kPad)).map (fun b =>
    if fmtMx x.bFmt then (localByte e d site (x.bScBase + (t * (x.tileK / 32) + b) * up64 x.n + c)).toNat else x.bScale)

/-- Load a weight tile (R87). -/
def loadTile (e : Env) (d : Dev) (site : Nat) (x : MxeDesc) (t : Nat) : Tile :=
  { idx := t, cols := (List.range x.n).map (tileCol e d site x t), scales := (List.range x.n).map (tileScales e d site x t) }

/-- The byte ranges that a tile's load reads. -/
def tileRanges (x : MxeDesc) (t : Nat) : List (Nat × Nat) :=
  let r0 := if x.sparse then t * x.tileK / 2 else t * x.tileK
  let rows := min (if x.sparse then x.tileK / 2 else x.tileK) (x.bRows - r0)
  let b0 := t * (x.tileK / 32)
  [(x.bAddr + r0 * x.bRow, rows * x.bRow)] ++
    (if x.sparse then [(x.metaBase + t * x.tileK / 4 * x.metaRow, rows / 2 * x.metaRow)] else []) ++
    (if fmtMx x.bFmt then [(x.bScBase + b0 * up64 x.n, min (x.tileK / 32) (x.kPad / 32 - b0) * up64 x.n)] else [])

/-- The tile that the shadow registers load next, and whether it is the staged descriptor's (R87, R105). -/
def nextTile (d : Dev) (site : Nat) (m : Mxe) : Option (Bool × MxeDesc × Nat) :=
  if m.shadow.isSome then none
  else
    let nxt (j : MxeJob) : Nat := match j.tile with | some t => t.idx + 1 | none => 0
    match m.active with
    | none => none
    | some a =>
      let x := mxeDesc a.job.bytes
      if x.os then none
      else if nxt a < x.tiles then some (false, x, nxt a)
      else match m.staged with
        | some b =>
          let y := mxeDesc b.job.bytes
          if b.started && !y.os && b.tile.isNone && fbit d Reg.MXE_CFG [site] Fld.MXE_CFG_prefetch then some (true, y, 0) else none
        | none => none

/-- MXE_SHADOW_LOAD_DONE (R87, R105, R107). -/
def mxeLoadDone (e : Env) (d : Dev) (site : Nat) : Dev :=
  let m := getMxe d site
  match nextTile d site m with
  | none => d
  | some (staged, x, t) =>
    let st := rangesStatus d site (tileRanges x t)
    if st = 0 then setMxe d site { m with shadow := some (staged, loadTile e d site x t) }
    else mxeStop d site staged st x.bAddr

def execMxeShadowLoadDone (site : Fin 36) (s : State) : Host.Outcome State Fault Refusal :=
  s.run (fun e d => mxeLoadDone e d site.val)

/-- A descriptor has issued every row of its last tile. -/
def jobIssued (j : MxeJob) : Bool :=
  let x := mxeDesc j.job.bytes
  match j.tile with | some t => t.idx + 1 == x.tiles && j.issued == x.m | none => false

/-- MXE_SWAP_TOKEN (R88): after the last row of the current tile, and once the load is complete, each PE takes its
shadow weight. -/
def mxeSwap (d : Dev) (site : Nat) : Dev :=
  let m := getMxe d site
  match m.shadow, m.active with
  | some (false, t), some a =>
    if a.tile.isNone || a.issued == (mxeDesc a.job.bytes).m then
      setMxe d site { m with shadow := none, active := some { a with tile := some t, issued := 0 } } else d
  | some (true, t), some a =>
    match m.staged with
    | some b => if jobIssued a then
        setMxe d site { m with shadow := none, staged := some { b with tile := some t, issued := 0 } } else d
    | none => d
  | _, _ => d

def execMxeSwapToken (site : Fin 36) (s : State) : Host.Outcome State Fault Refusal :=
  s.run (fun _ d => mxeSwap d site.val)

/-! ### Sums -/

/-- An element of row `r` of A, unscaled (R83). -/
def aElem (e : Env) (d : Dev) (site : Nat) (x : MxeDesc) (r k : Nat) : Nat :=
  packedAt (fun i => localByte e d site (x.aAddr + r * x.aRow + i)) (fmtWidth x.aFmt) k

/-- The A scale byte of row `r` and block `b` (R83). -/
def aScaleAt (e : Env) (d : Dev) (site : Nat) (x : MxeDesc) (r b : Nat) : Nat :=
  if fmtMx x.aFmt then (localByte e d site (x.aScBase + r * (x.kPad / 32) + b)).toNat else x.aScale

/-- The block sum of one column, one row and one block of 32 k, with its exponent (R51-R53, R55, R89): a NaN scale
contributes the nan flag alone. -/
def blockTermOf (fa fb : Elem) (sa sb : Nat) (pairs : List (Nat × Nat)) : BTerm :=
  match scaleExp sa, scaleExp sb with
  | some ea, some eb =>
    let s := blockSum fa fb (pairs.map (fun p => (fa.decode p.1, fb.decode p.2)))
    { p := s.p, e := s.l + ea + eb, flags := s.flags }
  | _, _ => { p := 0, e := 0, flags := .nanOnly }

/-- The terms of one column for one activation row and one tile (R89), in the exact class. -/
def exactTerms (e : Env) (d : Dev) (site : Nat) (x : MxeDesc) (r : Nat) (t : Tile) (col : List WElem) (sc : List Nat) :
    List BTerm :=
  let fa := (fmtElem x.aFmt).getD .e4m3
  let fb := (fmtElem x.bFmt).getD .e4m3
  let b0 := t.idx * (x.tileK / 32)
  ((List.range sc.length).filter (fun b => col.any (fun w => w.k / 32 == b0 + b))).map (fun b =>
    let ws := col.filter (fun w => w.k / 32 == b0 + b)
    blockTermOf fa fb (aScaleAt e d site x r (b0 + b)) (sc.getD b 0)
      (ws.map (fun w => (aElem e d site x r w.k, w.code))))

/-- The tile result of one column in the float class (R64, R65, R91): from +0, in row order. -/
def floatSum (e : Env) (d : Dev) (site : Nat) (x : MxeDesc) (r : Nat) (col : List WElem) : Nat :=
  col.foldl (fun acc w =>
    if w.k < x.k then
      if x.aFmt = 0 then fp32Split acc (aElem e d site x r w.k) w.code
      else fp32Fma acc (Elem.bf16.decode (aElem e d site x r w.k)).input (Elem.bf16.decode w.code).input
    else acc) 0

/-- The sums of one activation row and one tile (R89, R91). -/
def rowSums (e : Env) (d : Dev) (site : Nat) (x : MxeDesc) (r : Nat) (t : Tile) : List (List BTerm) :=
  (t.cols.zip t.scales).map (fun c =>
    if x.exact then exactTerms e d site x r t c.1 c.2
    else [{ p := (floatSum e d site x r c.1 : Nat), e := 0, flags := {} }])

/-- The descriptor that issues rows: the staged one once its first tile is active, else the active one (R105). -/
def issuing (m : Mxe) : Option (Bool × MxeJob × Tile) :=
  match m.staged.bind (fun j => j.tile.map (fun t => (true, j, t))) with
  | some x => some x
  | none => m.active.bind (fun j => j.tile.map (fun t => (false, j, t)))

/-- The byte ranges of row `r` of A. -/
def aRanges (x : MxeDesc) (r : Nat) : List (Nat × Nat) :=
  [(x.aAddr + r * x.aRow, x.aRow)] ++ (if fmtMx x.aFmt then [(x.aScBase + r * (x.kPad / 32), x.kPad / 32)] else [])

/-- MXE_ROW_ISSUE (R78, R82, R83, R89, R91): the next activation row of the tile enters the array. -/
def mxeIssue (e : Env) (d : Dev) (site : Nat) : Dev :=
  let m := getMxe d site
  match issuing m with
  | none => d
  | some (staged, j, t) =>
    let x := mxeDesc j.job.bytes
    if x.os || x.m ≤ j.issued then d
    else
      let st := rangesStatus d site (aRanges x j.issued)
      if st ≠ 0 then mxeStop d site staged st x.aAddr
      else
        let f : Flight := { stream := j.job.stream, seq := j.job.seq, tile := t.idx, row := j.issued,
                            cols := rowSums e d site x j.issued t }
        let j := { j with issued := j.issued + 1 }
        setMxe d site (if staged then { m with staged := some j, flight := m.flight ++ [f] }
          else { m with active := some j, flight := m.flight ++ [f] })

def execMxeRowIssue (site : Fin 36) (s : State) : Host.Outcome State Fault Refusal :=
  s.run (fun e d => mxeIssue e d site.val)

/-- The sums of round `t` for output row `r`: block 8t + g of slab g, for each column (R93). -/
def roundSums (e : Env) (d : Dev) (site : Nat) (x : MxeDesc) (t r : Nat) : List (List BTerm) :=
  let fa := (fmtElem x.aFmt).getD .e4m3
  let fb := (fmtElem x.bFmt).getD .e4m3
  let blocks := ((List.range 8).map (8 * t + ·)).filter (· < x.kPad / 32)
  (List.range x.n).map (fun c => blocks.map (fun b =>
    let ks := ((List.range 32).map (32 * b + ·)).filter (· < x.k)
    let sb := if fmtMx x.bFmt then (localByte e d site (x.bScBase + b * up64 x.n + c)).toNat else x.bScale
    blockTermOf fa fb (aScaleAt e d site x r b) sb (ks.map (fun k =>
      (aElem e d site x r k, packedAt (fun i => localByte e d site (x.bAddr + k * x.bRow + i)) (fmtWidth x.bFmt) c)))))

/-- MXE_ROUND_END (R93): at the end of a round the eight block sums of each output go south as one entry. -/
def mxeRound (e : Env) (d : Dev) (site : Nat) : Dev :=
  let m := getMxe d site
  match m.active with
  | none => d
  | some j =>
    let x := mxeDesc j.job.bytes
    if !x.os || x.rounds ≤ j.issued then d
    else
      let st := rangesStatus d site [(x.aAddr, x.aSize), (x.bAddr, x.bSize)]
      if st ≠ 0 then mxeStop d site false st x.bAddr
      else
        let fs := (List.range x.m).map (fun r =>
          Flight.mk j.job.stream j.job.seq j.issued r (roundSums e d site x j.issued r))
        setMxe d site { m with active := some { j with issued := j.issued + 1 }, flight := m.flight ++ fs }

def execMxeRoundEnd (site : Fin 36) (s : State) : Host.Outcome State Fault Refusal :=
  s.run (fun e d => mxeRound e d site.val)

/-! ### Landing -/

/-- One entry into one accumulator entry in the exact class: all terms aligned to the window, added in one exact
addition, then limited (R55, R56 step 3, R57, R90). -/
def landExact (w : Int) (a : AccEnt) (ts : List BTerm) : AccEnt :=
  let en := ts.map (fun t => exEntry t.p t.e w)
  let fl := (ts.zip en).foldl (fun f t => (f.or t.1.flags).or t.2.flags) a.flags
  if a.flags.spillHigh then { a with flags := fl }
  else
    let total := en.foldl (fun s t => s + t.i) a.i
    { i := exClamp total, flags := fl.or { spillHigh := exOver total } }

/-- One tile result into one FP32 accumulator entry (R91). -/
def landFloat (a : AccEnt) (ts : List BTerm) : AccEnt :=
  match ts with
  | t :: _ => { a with i := (fp32Add a.i.toNat t.p.toNat : Nat) }
  | [] => a

/-- The entry of one row lands (R90, R91, R95): columns 0 to N − 1. -/
def landRow (x : MxeDesc) (w : Int) (acc : Sparse.Map AccEnt) (cols : List (List BTerm)) : Sparse.Map AccEnt :=
  (cols.zip (List.range cols.length)).foldl (fun acc c =>
    let a := Sparse.get {} acc c.2
    Sparse.set {} acc c.2 (if x.exact then landExact w a c.1 else landFloat a c.1)) acc

/-- An earlier descriptor still uses an accumulator row (R96). -/
def rowBusy (a : MxeJob) (row : Nat) : Bool :=
  let x := mxeDesc a.job.bytes
  decide (x.accRow ≤ row) && decide (row < x.accRow + x.m) &&
    !(decide (x.entries ≤ Sparse.get 0 a.landed (row - x.accRow)) && (!x.drain || decide (row - x.accRow < a.drained)))

/-- Every row has landed every entry, and with drain = 1 is written (R97, R100). -/
def jobLanded (j : MxeJob) : Bool :=
  let x := mxeDesc j.job.bytes
  (List.range x.m).all (fun r => decide (x.entries ≤ Sparse.get 0 j.landed r))

/-- The active descriptor completes OK once nothing is left of it; a final one waits for its report (R100). -/
def mxeMaybeDone (d : Dev) (site : Nat) : Dev :=
  match (getMxe d site).active with
  | none => d
  | some j =>
    let x := mxeDesc j.job.bytes
    if jobLanded j && (!x.drain || decide (x.m ≤ j.drained)) && !x.final then mxeEnd d site false false 0 else d

/-- The first entry of a row with acc_init = 0 clears the row and gives it the class and window (R95). -/
def claimRow (d : Dev) (site row : Nat) (x : MxeDesc) (w : Int) : Dev :=
  let d := fset d Reg.MXE_ROW_STATE [site, row] Fld.MXE_ROW_STATE_state (if x.exact then 1 else 2)
  let d := fset d Reg.MXE_ROW_STATE [site, row] Fld.MXE_ROW_STATE_w (if x.exact then unsigned 16 w else 0)
  let m := getMxe d site
  setMxe d site { m with acc := Sparse.del m.acc row }

/-- MXE_ENTRY_LANDS (R90, R91, R95, R96, R108): the oldest sums in flight land, unless an earlier descriptor still
uses the row or the window is not yet known. -/
def mxeLand (d : Dev) (site corrected : Nat) : Dev :=
  let d := fincSat d Reg.MXE_ECC [site] Fld.MXE_ECC_corrected corrected
  let m := getMxe d site
  match m.flight with
  | [] => d
  | f :: rest =>
    let isA := match m.active with | some j => sameJob j f.stream f.seq | none => false
    let isB := match m.staged with | some j => sameJob j f.stream f.seq | none => false
    match (if isA then m.active else if isB then m.staged else none) with
    | none => setMxe d site { m with flight := rest }
    | some j =>
      let x := mxeDesc j.job.bytes
      let row := x.accRow + f.row
      let busy := !isA && (match m.active with | some a => rowBusy a row | none => false)
      if busy || (x.exact && j.win.isNone) then d
      else if j.landed.isEmpty && !(mxeWindowOk d site x j.win) then mxeEnd d site (!isA) false 0x04
      else
        let w := j.win.getD 0
        let n := Sparse.get 0 j.landed f.row
        let d := if !x.accInit && n == 0 then claimRow d site row x w else d
        let m := getMxe d site
        let acc := landRow x w (Sparse.get [] m.acc row) f.cols
        let j := { j with landed := Sparse.put j.landed f.row (n + 1) }
        let m := { m with acc := Sparse.set [] m.acc row acc, flight := rest }
        mxeMaybeDone (setMxe d site (if isA then { m with active := some j } else { m with staged := some j })) site

def execMxeEntryLands (site : Fin 36) (corrected : Nat) (s : State) : Host.Outcome State Fault Refusal :=
  s.run (fun _ d => mxeLand d site.val corrected)

/-! ### Drain (R97-R99) -/

/-- The value of an accumulator entry as a conversion sees it, with the flags it reports (R67, R71, R72). -/
def accValue (x : MxeDesc) (w : Int) (a : AccEnt) : Num × XFlags :=
  if x.exact then (exNum { i := a.i, w := w, flags := a.flags }, a.flags)
  else let v := fp32Num a.i.toNat; (v, a.flags.or (XFlags.ofNum v))

/-- Element index of output (m, n) (R75, R102). -/
def MxeDesc.index (x : MxeDesc) (m n : Nat) : Nat := (x.idxBase + m * x.idxLd + n) % 2 ^ 48

/-- What one output row converts to without MX blocks: its bytes, flags and largest top. -/
def drainPlain (x : MxeDesc) (w : Int) (key : Word × Word) (m : Nat) (acc : Sparse.Map AccEnt) : List Byte :=
  let ents := (List.range x.n).map (fun c => Sparse.get {} acc c)
  if x.conv.fmt = 0xC then (ents.map (fun a => exBytes { i := a.i, w := w, flags := a.flags })).flatten
  else
    let f := (fmtElem x.conv.fmt).getD .fp32
    packBytes f.width ((ents.zip (List.range x.n)).map (fun p =>
      convNum f x.conv.rnd x.conv.sat (convDiv x.conv) (drawSr key (x.index m p.2) x.tag) (accValue x w p.1).1))

/-- The flags and largest top of one output row (R72, R100). -/
def drainFlags (x : MxeDesc) (w : Int) (acc : Sparse.Map AccEnt) : XFlags × Option Int :=
  (List.range x.n).foldl (fun r c =>
    let a := Sparse.get {} acc c
    ((r.1.or (accValue x w a).2).or (convFlags x.conv), topMax r.2 (if x.exact then exTop { i := a.i, w := w } else none)))
    ({}, none)

/-- A list cut into pieces of 32. -/
def chunks32 {α : Type} : Nat → List α → List (List α)
  | 0, _ => []
  | n + 1, l => if l.isEmpty then [] else l.take 32 :: chunks32 n (l.drop 32)

/-- The MX blocks of one output row, along n (R99, out_blk = 0). -/
def drainMxRow (x : MxeDesc) (w : Int) (key : Word × Word) (m : Nat) (acc : Sparse.Map AccEnt) : List MxBlock :=
  let f := (fmtElem x.conv.fmt).getD .e4m3
  let vs := (List.range x.n).map (fun c => ((accValue x w (Sparse.get {} acc c)).1, drawSr key (x.index m c) x.tag))
  (chunks32 (ceilDiv x.n 32) vs).map (mxConvert f x.conv.rnd)

/-- Write some ranges in turn; the first status that is not 0 stays. -/
def wrRanges (d : Dev) (site : Nat) : List (Nat × List Byte) → Nat × Dev
  | [] => (0, d)
  | (a, b) :: rest =>
    let r := wrLocal d site a b
    if r.1 = 0 then wrRanges r.2 site rest else r

/-- The accumulator row of output row `m`. -/
def accRowOf (d : Dev) (site : Nat) (x : MxeDesc) (m : Nat) : Sparse.Map AccEnt :=
  Sparse.get [] (getMxe d site).acc (x.accRow + m)

/-- What the drain of rows `m0` to `m0 + cnt − 1` writes: one row, or the rows of one MX block along m (R97, R99). -/
def drainWrites (d : Dev) (site : Nat) (x : MxeDesc) (w : Int) (key : Word × Word) (m0 cnt : Nat) :
    List (Nat × List Byte) :=
  let outAt (m : Nat) : Nat := x.outAddr + m * x.pitch
  if !(fmtMx x.conv.fmt) then [(outAt m0, drainPlain x w key m0 (accRowOf d site x m0))]
  else
    let f := (fmtElem x.conv.fmt).getD .e4m3
    if !x.outBlk then
      let bl := drainMxRow x w key m0 (accRowOf d site x m0)
      [(outAt m0, packBytes f.width (bl.map (·.codes)).flatten),
       (x.outSc + 16 * m0, bl.map (fun b => BitVec.ofNat 8 b.scale))]
    else
      let rows := (List.range cnt).map (m0 + ·)
      let cols := (List.range x.n).map (fun c => mxConvert f x.conv.rnd (rows.map (fun m =>
        ((accValue x w (Sparse.get {} (accRowOf d site x m) c)).1, drawSr key (x.index m c) x.tag))))
      (rows.map (fun m => (outAt m, packBytes f.width (cols.map (fun b => b.codes.getD (m - m0) 0))))) ++
        [(x.outSc + 512 * (m0 / 32), cols.map (fun b => BitVec.ofNat 8 b.scale))]

/-- MXE_ROW_DRAIN (R67-R75, R97, R99): the next row whose entries have all landed is converted and written; MX blocks
along m wait for their 32 rows. -/
def mxeDrain (d : Dev) (site : Nat) : Dev :=
  let m := getMxe d site
  match m.active with
  | none => d
  | some j =>
    let x := mxeDesc j.job.bytes
    let cnt := if fmtMx x.conv.fmt && x.outBlk then min 32 (x.m - j.drained) else 1
    let ready := (List.range cnt).all (fun i => decide (x.entries ≤ Sparse.get 0 j.landed (j.drained + i)))
    if !x.drain || x.m ≤ j.drained || !ready then d
    else
      let w := accWin d site (x.accRow + j.drained)
      let rows := (List.range cnt).map (j.drained + ·)
      let ft := rows.foldl (fun r i => let f := drainFlags x w (accRowOf d site x i); (r.1.or f.1, topMax r.2 f.2)) (j.flags, j.top)
      let r := wrRanges d site (drainWrites d site x w (streamSeed d j.job.stream.toNat) j.drained cnt)
      if r.1 ≠ 0 then mxeEnd r.2 site false true r.1
      else
        let m := getMxe r.2 site
        let j := { j with drained := j.drained + cnt, flags := ft.1, top := ft.2 }
        mxeMaybeDone (setMxe r.2 site { m with active := some j }) site

def execMxeRowDrain (site : Fin 36) (s : State) : Host.Outcome State Fault Refusal :=
  s.run (fun _ d => mxeDrain d site.val)

/-- Report the top and flags of a final descriptor to its window record (R61, R100); false for an error. -/
def reportRecord (e : Env) (d : Dev) (site st addr : Nat) (top : Option Int) (f : XFlags) (resp : Resp) : Bool × Dev :=
  match resp with
  | .err _ => (false, d)
  | .ok =>
    let op := MemOp.recReport (match top with | some t => BitVec.ofInt 16 t | none => 0x8000) (BitVec.ofNat 5 f.toNat)
    match pkgAtomic e d (streamReq d site st) addr op with
    | (.ok _, d) => (true, d)
    | (.error _, d) => (false, d)

/-- MXE_FINAL_REPORT (R100). -/
def mxeFinal (e : Env) (d : Dev) (site : Nat) (resp : Resp) : Dev :=
  match (getMxe d site).active with
  | none => d
  | some j =>
    let x := mxeDesc j.job.bytes
    if !x.final || j.drained < x.m then d
    else
      let r := reportRecord e d site j.job.stream.toNat x.window j.top j.flags resp
      mxeEnd r.2 site false false (if r.1 then 0 else 0x06)

def execMxeFinalReport (site : Fin 36) (resp : Resp) (s : State) : Host.Outcome State Fault Refusal :=
  s.run (fun e d => mxeFinal e d site.val resp)

/-! ### Other ends -/

/-- MXE_ABORT (R109): the descriptor leaves the MXE; rows of one that has issued become INVALID. -/
def mxeAbort (d : Dev) (site : Nat) (st : BitVec 16) (q : BitVec 32) : Dev :=
  let m := getMxe d site
  let drop (d : Dev) (staged inval : Bool) (j : MxeJob) : Dev :=
    let d := if inval then undefRanges (mxeInvalidate d site (mxeDesc j.job.bytes)) site (mxeDesc j.job.bytes).outRanges
      else d
    setMxe d site (mxeRemove (getMxe d site) staged)
  match m.active, m.staged with
  | some a, b => if sameJob a st q then drop d false true a
      else match b with | some b => if sameJob b st q then drop d true (b.issued != 0 || !b.landed.isEmpty) b else d | none => d
  | none, some b => if sameJob b st q then drop d true false b else d
  | none, none => d

def execMxeAbort (site : Fin 36) (stream : BitVec 16) (seq : BitVec 32) (s : State) : Host.Outcome State Fault Refusal :=
  s.run (fun _ d => mxeAbort d site.val stream seq)

/-- The class C0 record of an accumulator or weight-register error (Table 16.2 code 0x12): the detail is MXE_ECC. -/
def engineUe (d : Dev) (site sub : Nat) : Dev :=
  report d { source := 0x12, unit := unitSite site, sub := sub, stat := Reg.MXE_ECC.slot [site],
             part := partOfCore d (siteLogical d site) }

/-- MXE_ACC_UE (R110): charged to the descriptor whose entry or drain read the failing entry. -/
def execMxeAccUe (site : Fin 36) (staged : Bool) (s : State) : Host.Outcome State Fault Refusal :=
  s.run (fun _ d =>
    let m := getMxe d site.val
    if (if staged then m.staged else m.active).isNone then d
    else mxeEnd (engineUe d site.val 0) site.val staged true 0x08)

/-- MXE_WREG_PARITY (R110): charged to the descriptor whose row was being multiplied. -/
def execMxeWregParity (site : Fin 36) (s : State) : Host.Outcome State Fault Refusal :=
  s.run (fun _ d =>
    match issuing (getMxe d site.val) with
    | none => d
    | some (staged, _, _) => mxeEnd (engineUe d site.val 0) site.val staged true 0x07)

/-- MXE_BANK_REFUSED (R174): a bank that refuses meets an access of the operation, which stops with ADDRESS. -/
def execMxeBankRefused (site : Fin 36) (bank : Fin 32) (s : State) : Host.Outcome State Fault Refusal :=
  s.run (fun _ d =>
    let m := getMxe d site.val
    if m.active.isNone || !(bankRefuses d site.val bank.val) then d
    else mxeStop d site.val false 0x05 (cellWindowOff d site.val (bankCells site.val bank.val).1))

/-- MXE_MEM_UE (R176): an operand read meets an error in a word; an uncorrectable or poisoned word stops the
descriptor with MEM_UE. -/
def execMxeMemUe (site : Fin 36) (found : EccFound) (localAddr : BitVec 26) (s : State) :
    Host.Outcome State Fault Refusal :=
  s.run (fun _ d =>
    let k := localKey d site.val localAddr.toNat
    let d := if poisoned d (wordMark k) then d else eccWord d site.val k found.kind
    if (getMxe d site.val).active.isSome && poisoned d (wordMark k) then mxeStop d site.val false 0x16 0 else d)

/-- MXE_RATE_UPDATE (R79): measured, replica, or kept in SLEEP and OFF (Table 14.7 codes 3 and 4). -/
def execMxeRateUpdate (site : Fin 36) (issued : Bool) (measured replica : BitVec 16) (s : State) :
    Host.Outcome State Fault Refusal :=
  s.run (fun _ d =>
    let ps := fget d Reg.THM_CORE [site.val] Fld.THM_CORE_pstate
    if 3 ≤ ps then d
    else fset d Reg.MXE_RATE [site.val] Fld.MXE_RATE_wf_per_us (if issued then measured.toNat else replica.toNat))

/-- MXE_CFG_WRITE (R111, R112). -/
def mxeCfgWrite (d : Dev) (p : Path) (site : Nat) (data : Word) : Dev :=
  onSite d p site (Reg.MXE_CFG.key [site]) (fun d =>
    Reg.MXE_CFG.store d [site] (fbit d Reg.MXE_CFG [site] Fld.MXE_CFG_lock) data)

def execMxeCfgWrite (p : Path) (site : Fin 36) (data : Word) (s : State) : Host.Outcome State Fault Refusal :=
  s.run (fun _ d => if portHalted d p then d else mxeCfgWrite d p site.val data)

end Sys2Proof.Machine
end

