-- ==== Sys2Proof/Machine/Sync.lean ====
section
/-!
DEFINITION. The sync counters (R206-R212), the SYNC window (R207), and interrupt vectors as MSI-X messages (R454).
-/
namespace Sys2Proof.Machine

/-! ### Interrupts -/

/-- The key of entry `v` of a port's MSI-X table. -/
def msixKey (port v : Nat) : Nat := 2048 * port + v

/-- An entry of a port's MSI-X table. -/
def getMsix (d : Dev) (port v : Nat) : Msix := Sparse.get {} d.msix (msixKey port v)

/-- Replace an entry of a port's MSI-X table. -/
def setMsix (d : Dev) (port v : Nat) (x : Msix) : Dev := { d with msix := Sparse.set {} d.msix (msixKey port v) x }

/-- A port's link is up and its function is in D0 (R454; `dstate` of Table 13.17: 0 is D0). -/
def portSends (d : Dev) (p : Nat) : Bool :=
  fbit d Reg.HOST_PORT_STAT [p] Fld.HOST_PORT_STAT_up && fget d Reg.HOST_PORT_STAT [p] Fld.HOST_PORT_STAT_dstate == 0

/-- Signal a vector on a port (R454): sent, or held in its pending bit. -/
def signalVector (d : Dev) (port v : Nat) : Dev :=
  let x := getMsix d port v
  if x.masked || !(portSends d port) then setMsix d port v { x with pend := true }
  else emit d (.msix port v)

/-! ### Counters -/

/-- A sync counter. -/
def getCtr (d : Dev) (c : Nat) : Ctr := Sparse.get {} d.ctr c

/-- Replace a sync counter. -/
def setCtr (d : Dev) (c : Nat) (x : Ctr) : Dev := { d with ctr := Sparse.set {} d.ctr c x }

/-- The counter word (Table 6.8a). -/
def ctrWord (x : Ctr) : Nat := x.value + 2 ^ 32 * x.epoch + 2 ^ 48 * bit x.poison + 2 ^ 49 * bit x.holder.isSome

/-- ADD (R208): an overflow saturates and poisons; a poisoned counter refuses. -/
def ctrAdd (x : Ctr) (v : Nat) : Option Ctr :=
  if x.poison then none
  else if 2 ^ 32 ≤ x.value + v then some { x with value := 2 ^ 32 - 1, poison := true }
  else some { x with value := x.value + v }

/-- MAX (Table 6.8). -/
def ctrMax (x : Ctr) (v : Nat) : Option Ctr := if x.poison then none else some { x with value := max x.value v }

/-- SET (Table 6.8): refused while another holds the lock; `who` is the stream that asks, if one does. -/
def ctrSet (x : Ctr) (who : Option Nat) (v : Nat) : Option Ctr :=
  if x.holder.isSome && x.holder != who then none
  else some { x with value := v, epoch := (x.epoch + 1) % 2 ^ 16, poison := false }

/-- RESET (Table 6.8): never refused; the lock is released without poisoning. -/
def ctrReset (x : Ctr) : Ctr := { x with value := 0, epoch := (x.epoch + 1) % 2 ^ 16, poison := false, holder := none }

/-- A counter operation by code (Table 6.8): the counter after it, or none where it is refused. -/
def ctrApply (x : Ctr) (who : Option Nat) (op v : Nat) : Option Ctr :=
  if op = 0 then ctrAdd x v else if op = 1 then ctrMax x v else if op = 2 then ctrSet x who v else some (ctrReset x)

/-- Perform a counter operation; false where it is refused, and nothing changes. -/
def ctrDo (d : Dev) (who : Option Nat) (c op v : Nat) : Bool × Dev :=
  match ctrApply (getCtr d c) who op v with
  | some x => (true, setCtr d c x)
  | none => (false, d)

/-- Poison a counter. -/
def ctrPoison (d : Dev) (c : Nat) : Dev := setCtr d c { getCtr d c with poison := true }

/-- Break every lock that a stream holds (R211), and take its waits for locks out of their queues. -/
def breakLocks (d : Dev) (st : Nat) : Dev :=
  (d.ctr.map (·.1)).foldl (fun d c =>
    let x := getCtr d c
    let x := { x with waiters := x.waiters.filter (· != st) }
    setCtr d c (if x.holder = some st then { x with holder := none, poison := true } else x)) d

/-- A stream holds at least one lock. -/
def lockHeld (d : Dev) (st : Nat) : Bool := d.ctr.any (fun e => e.2.holder == some st)

/-! ### The SYNC window -/

/-- The address of counter `c` (R206). -/
def ctrAddr (c : Nat) : Nat := 0x3800000 + 8 * c

/-- A write of the SYNC window (R207): an aligned 8-byte write that names an operation on an owned counter, or a
discarded write with a class C0 event; a refused operation too is discarded with one. -/
def syncWrite (d : Dev) (p : Path) (addr size : Nat) (data : Nat) : Dev :=
  let c := (addr - 0x3800000) / 8
  if size ≠ 8 ∨ addr % 8 ≠ 0 ∨ 4 ≤ bits data 63 32 ∨ pathOwns d p (partOfCounter d c) = false then regEvent d p addr
  else
    let r := ctrDo d none c (bits data 34 32) (bits data 31 0)
    if r.1 then r.2 else regEvent d p addr

/-- A read of the SYNC window (R207): the words of the counter, or all ones with a class C0 event. -/
def syncRead (d : Dev) (p : Path) (addr size : Nat) : List Word × Dev :=
  let c := (addr - 0x3800000) / 8
  let ones := List.replicate (max 1 (size / 4)) (BitVec.allOnes 32)
  if pathOwns d p (partOfCounter d c) = false then (ones, regEvent d p addr)
  else
    let w := ctrWord (getCtr d c)
    if size = 8 ∧ addr % 8 = 0 then ([low32 w, high32 w], d)
    else if size = 4 ∧ addr % 4 = 0 then ([if addr % 8 = 0 then low32 w else high32 w], d)
    else (ones, regEvent d p addr)

/-- COUNTER_ADD (R207, R208), through the SYNC window. -/
def execCounterAdd (p : Path) (c : BitVec 16) (v : Word) (s : State) : Host.Outcome State Fault Refusal :=
  s.run (fun _ d => if portHalted d p then d else syncWrite d p (ctrAddr c.toNat) 8 v.toNat)

/-- COUNTER_MAX (R207), through the SYNC window. -/
def execCounterMax (p : Path) (c : BitVec 16) (v : Word) (s : State) : Host.Outcome State Fault Refusal :=
  s.run (fun _ d => if portHalted d p then d else syncWrite d p (ctrAddr c.toNat) 8 (2 ^ 32 + v.toNat))

/-- COUNTER_SET (R207), through the SYNC window. -/
def execCounterSet (p : Path) (c : BitVec 16) (v : Word) (s : State) : Host.Outcome State Fault Refusal :=
  s.run (fun _ d => if portHalted d p then d else syncWrite d p (ctrAddr c.toNat) 8 (2 * 2 ^ 32 + v.toNat))

/-- COUNTER_RESET (R207), through the SYNC window. -/
def execCounterReset (p : Path) (c : BitVec 16) (s : State) : Host.Outcome State Fault Refusal :=
  s.run (fun _ d => if portHalted d p then d else syncWrite d p (ctrAddr c.toNat) 8 (3 * 2 ^ 32))

/-- SYNC_WINDOW_BAD_ACCESS (R14, R207): any access of the window by offset, size and data; one that the window does not
accept is discarded, or reads all ones, with a class C0 event. -/
def execSyncWindowBadAccess (p : Path) (off : BitVec 19) (size : Nat) (write : Option (BitVec 64)) (s : State) :
    Host.Outcome State Fault Refusal :=
  s.run (fun _ d =>
    match write with
    | some data => if portHalted d p then d else syncWrite d p (0x3800000 + off.toNat) size data.toNat
    | none => let r := syncRead d p (0x3800000 + off.toNat) size; emit r.2 (.regData p r.1))

end Sys2Proof.Machine
end

