-- ==== Sys2Proof/Machine/EngCommon.lean ====
section
/-!
DEFINITION. What the engines of chapter 4 share (R113-R120): register groups, slots, reports, row following, tensor
records, and the reading and writing of elements.
-/
namespace Sys2Proof.Machine

/-! ### Units and register groups -/

/-- The CFG register of a unit of a site: 1-4 VXE0-3, 5 SFE, 6 Topiary, 7 GDE, 8 CPE, 9-10 DME0-1, 11 RNG
(Table 4.17). -/
def engCfg (u : Nat) : RegDesc :=
  if u ≤ 4 then Reg.VXE_CFG else if u = 5 then Reg.SFE_CFG else if u = 6 then Reg.TOP_CFG else if u = 7 then Reg.GDE_CFG
  else if u = 8 then Reg.CPE_CFG else if u ≤ 10 then Reg.DME_CFG else Reg.RNG_CFG

/-- The REJ register of a unit (Table 4.20). -/
def engRej (u : Nat) : RegDesc :=
  if u ≤ 4 then Reg.VXE_REJ else if u = 5 then Reg.SFE_REJ else if u = 6 then Reg.TOP_REJ else if u = 7 then Reg.GDE_REJ
  else if u = 8 then Reg.CPE_REJ else if u ≤ 10 then Reg.DME_REJ else Reg.RNG_REJ

/-- The index list of a unit's registers. -/
def engIx (site u : Nat) : List Nat :=
  if u ≤ 4 then [site, u - 1] else if u = 9 ∨ u = 10 then [site, u - 9] else [site]

/-- The unit's enable bit (Table 4.18). -/
def engEnabled (d : Dev) (site u : Nat) : Bool := fbit d (engCfg u) (engIx site u) Fld.VXE_CFG_enable

/-- The unit's follow_allow bit (Table 4.18). -/
def followAllowed (d : Dev) (site u : Nat) : Bool := fbit d (engCfg u) (engIx site u) Fld.VXE_CFG_follow_allow

/-! ### Slots -/

/-- The slots of a unit (R113). -/
def getEng (d : Dev) (site u : Nat) : EngSlots := Sparse.get {} d.eng (16 * site + u)

/-- Replace the slots of a unit. -/
def setEng (d : Dev) (site u : Nat) (x : EngSlots) : Dev := { d with eng := Sparse.set {} d.eng (16 * site + u) x }

/-- The descriptor that a unit works on. -/
def engActive (d : Dev) (site u : Nat) : Option EJob := (getEng d site u).active

/-- Replace the active descriptor's progress. -/
def setActive (d : Dev) (site u : Nat) (j : EJob) : Dev := setEng d site u { getEng d site u with active := some j }

/-- The active descriptor completes; the staged one takes its slot. -/
def engEnd (d : Dev) (site u status : Nat) (f : XFlags) (detail : Nat) : Dev :=
  let g := getEng d site u
  match g.active with
  | none => d
  | some j => engReport (setEng d site u { active := g.staged, staged := none }) j.job status f detail

/-- A rejected descriptor (R113): its status goes to the stream and to the unit's REJ register. -/
def engReject (d : Dev) (site u status : Nat) (job : Job) : Dev :=
  engReport (noteReject d (engRej u) (engIx site u) Fld.VXE_REJ_valid Fld.VXE_REJ_code Fld.VXE_REJ_stream status
    job.stream.toNat) job status {} 0

/-- An accepted descriptor takes the active slot, or waits in the staged one (R113). -/
def engAccept (d : Dev) (site u : Nat) (j : EJob) : Dev :=
  let g := getEng d site u
  match g.active, g.staged with
  | none, _ => setEng d site u { g with active := some j }
  | some _, none => setEng d site u { g with staged := some j }
  | some _, some _ => d

/-- A descriptor that is aborted or flushed leaves its unit (R201). -/
def engDrop (d : Dev) (site u : Nat) (st : BitVec 16) (q : BitVec 32) : Dev :=
  let g := getEng d site u
  let is (j : Option EJob) : Bool := match j with | some j => j.job.stream == st && j.job.seq == q | none => false
  if is g.active then setEng d site u { active := g.staged, staged := none }
  else if is g.staged then setEng d site u { g with staged := none } else d

/-! ### Statuses of the operation -/

/-- The part of a failing access that R174 records: an ADDRESS inside the memory is a refused access. -/
def noteLocal (d : Dev) (site status addr : Nat) : Dev :=
  if status = 0x05 ∧ addr < 2 ^ 26 then refusedEvent d (unitSite site) addr (partOfCore d (siteLogical d site)) else d

/-- Read checks of byte ranges of the own core's memory: the status, 0 when every byte may be read (R114, R174, R176). -/
def readStatus (d : Dev) (site : Nat) (rs : List (Nat × Nat)) : Nat :=
  rangesStatus d site (rs.filter (fun r => r.2 != 0))

/-- The banks of ranges that AUTO holds in RET wake for an access (R173). -/
def wakeRanges (d : Dev) (site : Nat) (rs : List (Nat × Nat)) : Dev :=
  rs.foldl (fun d r => wakeBanks d site (banksOf (localKeys d site r.1 r.2))) d

/-- Every range lies at or below 0x3FF_FFFF (R114). -/
def insideCore (rs : List (Nat × Nat)) : Bool := rs.all (fun r => decide (r.1 + r.2 ≤ 2 ^ 26))

/-- Some range of one list shares a byte with some range of another. -/
def rangesMeet (a b : List (Nat × Nat)) : Bool := a.any (fun x => b.any (fun y => overlap x.1 x.2 y.1 y.2))

/-- The active descriptor fails during its operation: its output ranges are undefined (Table 4.1). -/
def engFail (d : Dev) (site u status : Nat) (outs : List (Nat × Nat)) (f : XFlags) : Dev :=
  engEnd (undefRanges d site outs) site u status f 0

/-- Finish the active descriptor: write its ranges, and report OK, or the status of the write that failed. -/
def writeAndEnd (d : Dev) (site u : Nat) (ws : List (Nat × List Byte)) (f : XFlags) (detail : Nat) : Dev :=
  let r := wrRanges d site (ws.filter (fun w => !w.2.isEmpty))
  if r.1 = 0 then engEnd r.2 site u 0 f detail else engFail r.2 site u r.1 (ws.map (fun w => (w.1, w.2.length))) f

/-! ### Row following (R118) -/

/-- The MXE descriptor of a site with a stream and a sequence number, if it is in the MXE: (staged?, job). -/
def mxeFind (d : Dev) (site : Nat) (st : BitVec 16) (q : BitVec 32) : Option (Bool × MxeJob) :=
  let m := getMxe d site
  match m.active, m.staged with
  | some a, b => if sameJob a st q then some (false, a) else
      b.bind (fun b => if sameJob b st q then some (true, b) else none)
  | none, some b => if sameJob b st q then some (true, b) else none
  | none, none => none

/-- The uncommitted descriptor of a stream with a sequence number. -/
def heldDesc (d : Dev) (st q : Nat) : Option SDesc := (Sparse.get {} d.strm st).held.find? (fun x => x.seq == q)

/-- The bytes of the descriptor that precedes a follower in its stream: in the MXE, on its way there, or held by the
scheduler. -/
def producerBytes (d : Dev) (site : Nat) (job : Job) : Option (List Byte) :=
  let q := job.seq - 1
  match mxeFind d site job.stream q with
  | some x => some x.2.job.bytes
  | none =>
    match d.handoff.find? (fun h => h.unit == 0 && h.job.stream == job.stream && h.job.seq == q) with
    | some h => some h.job.bytes
    | none => (heldDesc d job.stream.toNat q.toNat).map (·.bytes)

/-- The status that the producer reported, if it is done. -/
def producerStatus (d : Dev) (job : Job) : Option Nat :=
  let q := job.seq - 1
  match d.engDone.find? (fun x => x.stream == job.stream && x.seq == q) with
  | some x => some x.status
  | none => (heldDesc d job.stream.toNat q.toNat).bind (fun x => if x.phase = .done then some x.status else none)

/-- The conditions of R118 on the producer, given what the follower names as input 0: its address, pitch in bytes,
format and rows. -/
def followOk (d : Dev) (site u : Nat) (job : Job) (addr pitch fmt rows : Nat) : Bool :=
  followAllowed d site u &&
  match producerBytes d site job with
  | none => false
  | some b =>
    let x := mxeDesc b
    dfield b 0 4 0 == 0 && x.drain && x.outAddr == addr && x.pitch == pitch && x.conv.fmt == fmt && decide (rows ≤ x.m)

/-- The rows that the producer of a follower has written: all of them once it is done with status OK. -/
def rowsWritten (d : Dev) (site : Nat) (job : Job) : Nat :=
  match mxeFind d site job.stream (job.seq - 1) with
  | some (_, j) => j.drained
  | none => match producerStatus d job with
    | some 0 => 2 ^ 20
    | some _ => 0
    | none => if (heldDesc d job.stream.toNat (job.seq - 1).toNat).isNone then 2 ^ 20 else 0

/-- The producer has completed other than OK, or left the MXE without completing (R118). -/
def producerFailed (d : Dev) (site : Nat) (job : Job) : Bool :=
  match producerStatus d job with
  | some s => s != 0
  | none => match heldDesc d job.stream.toNat (job.seq - 1).toNat with
    | some x => x.phase == .dispatched && (mxeFind d site job.stream (job.seq - 1)).isNone &&
        !(d.handoff.any (fun h => h.job.stream == job.stream && h.job.seq == job.seq - 1))
    | none => false

/-- The follow bit of a descriptor of a unit (Tables 4.6, 4.8, 4.10). -/
def followBit (u : Nat) (b : List Byte) : Bool :=
  if 1 ≤ u ∧ u ≤ 4 then dbit b 56 50 else if u = 5 then dbit b 24 56 else if u = 6 then dbit b 16 52 else false

/-- Enough rows of a follower's producer have been read for it to run over `rows` rows. -/
def rowsReady (u rows : Nat) (j : EJob) : Bool := !(followBit u j.job.bytes) || decide (rows ≤ j.rowsReady)

/-- FOLLOW_ROW_READY (R118): the follower may read one more row, once the MXE has written it. -/
def execFollowRowReady (site : Fin 36) (unit : Fin 12) (s : State) : Host.Outcome State Fault Refusal :=
  s.run (fun _ d =>
    match engActive d site.val unit.val with
    | some j => if followBit unit.val j.job.bytes && decide (j.rowsReady < rowsWritten d site.val j.job)
        then setActive d site.val unit.val { j with rowsReady := j.rowsReady + 1 } else d
    | none => d)

/-! ### Tensor records (R120) -/

/-- A tensor record (Table 4.3). -/
structure TRec where
  addr : Nat
  fmt : Nat
  space : Bool
  scAddr : Nat
  blkDim : Nat
  size : List Nat
  stride : List Int
  tscale : Nat
  rsv : Bool
deriving DecidableEq, Repr

/-- The record of 64 bytes. -/
def tRec (b : List Byte) : TRec :=
  { addr := dfield b 0 51 0, fmt := dfield b 0 55 52, space := dbit b 0 56, scAddr := dfield b 8 51 0,
    blkDim := dfield b 8 53 52,
    size := [dfield b 16 15 0 + 1, dfield b 16 31 16 + 1, dfield b 16 47 32 + 1, dfield b 16 63 48 + 1],
    stride := [signed 48 (dfield b 24 47 0), signed 48 (dfield b 32 47 0), signed 48 (dfield b 40 47 0)],
    tscale := dfield b 48 7 0,
    rsv := dfield b 0 63 57 != 0 || dfield b 8 63 54 != 0 || dfield b 24 63 48 != 0 || dfield b 32 63 48 != 0 ||
      dfield b 40 63 48 != 0 || dfield b 48 63 8 != 0 || dword b 7 != 0 }

/-- The size of a dimension. -/
def TRec.dim (t : TRec) (i : Nat) : Nat := t.size.getD i 1

/-- The byte offset of the row (j1, j2, j3). -/
def TRec.rowOff (t : TRec) (j : List Nat) : Int :=
  (j.getD 1 0 : Int) * t.stride.getD 0 0 + (j.getD 2 0 : Int) * t.stride.getD 1 0 + (j.getD 3 0 : Int) * t.stride.getD 2 0

/-- The bytes of a row of dimension 0. -/
def TRec.rowLen (t : TRec) : Nat := packedLen (fmtWidth t.fmt) (t.dim 0)

/-- The format codes a record may carry: all of Table 2.1. -/
def TRec.fmtOk (t : TRec) : Bool := decide (t.fmt < 0xE)

/-- A stride leaves a row off a group boundary (R120): the start of a 6-bit row is a multiple of 3 bytes from the
start of the tensor. -/
def TRec.badStride (t : TRec) : Bool :=
  fmtWidth t.fmt == 6 && (List.range 3).any (fun i => t.dim (i + 1) != 1 && t.stride.getD i 0 % 3 != 0)

/-- Every multi-index of sizes given, dimension 0 fastest. -/
def allIdx : List Nat → List (List Nat)
  | [] => [[]]
  | n :: ns => ((allIdx ns).map (fun t => (List.range n).map (fun i => i :: t))).flatten

/-- The sizes of a record's scale array (R120). -/
def TRec.scSize (t : TRec) : List Nat := (List.range 4).map (fun i => if i = t.blkDim then ceilDiv (t.dim i) 32 else t.dim i)

/-- The number of bytes of a record's scale array; 0 where the format has no block scale. -/
def TRec.scLen (t : TRec) : Nat := if fmtMx t.fmt then t.scSize.foldl (· * ·) 1 else 0

/-- Offset of the lowest byte and one past the highest byte of the elements, from `addr`. -/
def TRec.span (t : TRec) : Int × Int :=
  let ext (i : Nat) : Int := ((t.dim (i + 1) - 1 : Nat) : Int) * t.stride.getD i 0
  let lo := (List.range 3).foldl (fun a i => a + min 0 (ext i)) (0 : Int)
  let hi := (List.range 3).foldl (fun a i => a + max 0 (ext i)) (0 : Int)
  (lo, hi + (t.rowLen : Int))

/-- Every byte of the record lies in the space the engine reaches (R120). -/
def TRec.inside (t : TRec) (limit : Nat) : Bool :=
  decide (0 ≤ (t.addr : Int) + t.span.1) && decide ((t.addr : Int) + t.span.2 ≤ (limit : Int)) &&
    (t.scLen == 0 || decide (t.scAddr + t.scLen ≤ limit))

/-- The byte address of a row. -/
def TRec.rowAddr (t : TRec) (j : List Nat) : Nat := ((t.addr : Int) + t.rowOff j).toNat

/-- The rows of a record: every (0, j1, j2, j3). -/
def TRec.rows (t : TRec) : List (List Nat) := allIdx [1, t.dim 1, t.dim 2, t.dim 3]

/-- The byte ranges of a record's elements and scales. -/
def TRec.ranges (t : TRec) : List (Nat × Nat) :=
  t.rows.map (fun j => (t.rowAddr j, t.rowLen)) ++ (if t.scLen = 0 then [] else [(t.scAddr, t.scLen)])

/-- The position of a block's scale byte, dimension 0 fastest (R120). -/
def TRec.scIdx (t : TRec) (j : List Nat) : Nat :=
  let g (i : Nat) : Nat := if i = t.blkDim then j.getD i 0 / 32 else j.getD i 0
  let z (i : Nat) : Nat := t.scSize.getD i 1
  g 0 + z 0 * (g 1 + z 1 * (g 2 + z 2 * g 3))

/-- The code of an element of a local tensor. -/
def tCode (e : Env) (d : Dev) (site : Nat) (t : TRec) (j : List Nat) : Nat :=
  packedAt (fun i => localByte e d site (t.rowAddr j + i)) (fmtWidth t.fmt) (j.getD 0 0)

/-- The scale byte of an element of a local tensor. -/
def tScale (e : Env) (d : Dev) (site : Nat) (t : TRec) (j : List Nat) : Nat :=
  if fmtMx t.fmt then (localByte e d site (t.scAddr + t.scIdx j)).toNat else t.tscale

/-- The linear index of an element, dimension 0 fastest. -/
def TRec.linear (t : TRec) (j : List Nat) : Nat :=
  j.getD 0 0 + t.dim 0 * (j.getD 1 0 + t.dim 1 * (j.getD 2 0 + t.dim 2 * j.getD 3 0))

/-- Read a record of the own core's memory: its bytes, or the status of the read. -/
def readRecord (e : Env) (d : Dev) (site a : Nat) : Except Nat (List Byte) × Dev := rdLocal e d site a 64

/-- A format that a conversion reads: an element format other than INT32 (Table 2.1). -/
def inputFmt (c : Nat) : Bool := decide (c < 0xC)

/-- A format that a conversion writes: every element format (Table 2.1). -/
def outputFmt (c : Nat) : Bool := decide (c < 0xE) && c != 0xC

/-- The number an operand element stands for: a float format keeps the sign of zero (R48), an exact format reads −0 as
zero (R47), and a NaN scale makes it NaN (R587). -/
def operandNum (fmt code scale : Nat) : Num :=
  match fmt with
  | 0 => Elem.fp32.decode code
  | 1 => Elem.bf16.decode code
  | _ => scaledElem fmt code scale

end Sys2Proof.Machine
end

