-- ==== Sys2Proof/Machine/Vxe.lean ====
section
/-!
DEFINITION. The vector engines (R121-R128): expression blocks, the checks of a program, its operations over rows of
lanes, and the writes and reports of a descriptor.
-/
namespace Sys2Proof.Machine

/-! ### Descriptor and block -/

/-- The fields of a VXE descriptor (Table 4.6). -/
structure VDesc where
  inAddr : List Nat
  outAddr : List Nat
  expr : Nat
  cols : Nat
  rows : Nat
  window : Nat
  tag : Nat
  idxLd : Nat
  idxBase : Nat
  record : Bool
  final : Bool
  follow : Bool
  rsv : Bool
deriving DecidableEq, Repr

/-- Read a VXE descriptor (R123). -/
def vDesc (b : List Byte) : VDesc :=
  { inAddr := [dfield b 16 19 0 * 64, dfield b 16 39 20 * 64, dfield b 16 59 40 * 64, dfield b 24 19 0 * 64],
    outAddr := [dfield b 24 39 20 * 64, dfield b 24 59 40 * 64], expr := dfield b 32 19 0 * 64,
    cols := dfield b 32 43 20 + 1, rows := dfield b 32 63 44 + 1, window := dword b 5, tag := dfield b 48 31 0,
    idxLd := dfield b 48 63 32, idxBase := dfield b 56 47 0, record := dbit b 56 48, final := dbit b 56 49,
    follow := dbit b 56 50,
    rsv := dfield b 16 63 60 != 0 || dfield b 24 63 60 != 0 || dfield b 56 63 51 != 0 ||
      (if dbit b 56 48 then dword b 5 % 16 != 0 || dword b 5 / 2 ^ 52 != 0 else dword b 5 / 2 ^ 16 != 0) }

/-- An operand entry (Table 4.5). -/
structure VEntry where
  fmt : Nat
  shape : Nat
  tscale : Nat
  pitch : Nat
  sc : Nat
  conv : ConvWord
  convBits : Nat
  rsv : Bool
  zero : Bool
deriving DecidableEq, Repr

/-- The operand entry at an offset of the block. -/
def vEntry (b : List Byte) (o : Nat) : VEntry :=
  let n := leNat (slice b o 16)
  { fmt := bits n 3 0, shape := bits n 5 4, tscale := bits n 15 8, pitch := bits n 35 16 * 64, sc := bits n 55 36 * 64,
    conv := convOf (bits n 79 64), convBits := bits n 79 64,
    rsv := bits n 7 6 != 0 || bits n 63 56 != 0 || bits n 127 80 != 0, zero := n == 0}

/-- An expression block (Table 4.4). -/
structure VBlock where
  ctype : Nat
  ins : List VEntry
  outs : List VEntry
  prog : List Nat
  consts : List Nat
  rsv : Bool
deriving DecidableEq, Repr

/-- The operation words up to END, or all 32. -/
def vLive (ws : List Nat) : List Nat := ws.takeWhile (fun w => w / 1024 != 0)

/-- Read an expression block (R121). -/
def vBlock (b : List Byte) : VBlock :=
  { ctype := (b.getD 0 0).toNat % 4,
    ins := (List.range 4).map (fun i => vEntry b (16 + 16 * i)),
    outs := (List.range 2).map (fun i => vEntry b (80 + 16 * i)),
    prog := (List.range 32).map (fun i => leNat (slice b (128 + 2 * i) 2)),
    consts := (List.range 16).map (fun i => leNat (slice b (192 + 4 * i) 4)),
    rsv := (b.getD 0 0).toNat / 4 != 0 || (slice b 1 15).any (· != 0) || (slice b 112 16).any (· != 0)}

/-- An absent entry. -/
def vNone : VEntry := vEntry [] 0

/-- The element format of a ctype. -/
def vLane (ctype : Nat) : Elem := if ctype = 1 then .bf16 else if ctype = 2 then .e4m3 else .fp32

/-! ### Typing (R125, R126) -/

/-- The kinds of stack entries. -/
inductive VKind where
  | elem | xelem | row | xrow
deriving DecidableEq, Repr

/-- The argument of an operation is in range (Table 4.7). -/
def vArgOk (op arg : Nat) : Bool :=
  if op = 0x01 ∨ op = 0x24 then arg < 4 else if op = 0x02 then arg < 16 else if op = 0x03 ∨ op = 0x07 then arg < 2
  else if op = 0x18 ∨ op = 0x1F then true else if op = 0x1D ∨ op = 0x1E then arg < 32 else arg == 0

/-- The operation needs ctype FP32 (R126). -/
def vNeedsFp32 (op : Nat) : Bool := op == 0x07 || (decide (0x15 ≤ op) && decide (op ≤ 0x1F)) || decide (0x20 ≤ op)

/-- The stack after an operation, top first; none for a reserved opcode, an underflow, or an operand of the wrong kind.
ROW and XROW entries are taken by ST and XTOF alone. -/
def vType (op : Nat) (st : List VKind) : Option (List VKind) :=
  match op, st with
  | 0x01, s => some (.elem :: s)
  | 0x02, s => some (.elem :: s)
  | 0x07, s => some (.elem :: s)
  | 0x1F, s => some (.elem :: s)
  | 0x24, s => some (.xelem :: s)
  | 0x03, _ :: s => some s
  | 0x04, .elem :: s => some (.elem :: .elem :: s)
  | 0x04, .xelem :: s => some (.xelem :: .xelem :: s)
  | 0x05, a :: b :: s =>
    if (a = .elem ∨ a = .xelem) ∧ (b = .elem ∨ b = .xelem) then some (b :: a :: s) else none
  | 0x06, .elem :: s => some s
  | 0x06, .xelem :: s => some s
  | 0x20, .elem :: s => some (.row :: s)
  | 0x21, .elem :: s => some (.row :: s)
  | 0x22, .elem :: s => some (.row :: s)
  | 0x23, .elem :: s => some (.xrow :: s)
  | 0x25, .elem :: s => some (.xelem :: s)
  | 0x26, .xelem :: .xelem :: s => some (.xelem :: s)
  | 0x27, .xelem :: .xelem :: s => some (.xelem :: s)
  | 0x28, .xelem :: .xelem :: s => some (.xelem :: s)
  | 0x29, .xelem :: s => some (.elem :: s)
  | 0x29, .xrow :: s => some (.row :: s)
  | op, .elem :: s =>
    if op = 0x0E ∨ op = 0x0F ∨ (0x15 ≤ op ∧ op ≤ 0x18) ∨ op = 0x1D ∨ op = 0x1E then some (.elem :: s)
    else match s with
      | .elem :: t =>
        if op = 0x08 ∨ op = 0x09 ∨ op = 0x0A ∨ (0x0C ≤ op ∧ op ≤ 0x0D) ∨ (0x10 ≤ op ∧ op ≤ 0x12) ∨
            (0x1A ≤ op ∧ op ≤ 0x1C) then some (.elem :: t)
        else match t with
          | .elem :: v => if op = 0x0B ∨ op = 0x13 ∨ op = 0x14 then some (.elem :: v) else none
          | _ => none
      | _ => none
  | _, _ => none

/-- Type a program: whether every operation passes, and the outputs that it stores with the kind stored. -/
def vTypes (ctype : Nat) : List Nat → List VKind → Bool × List (Nat × VKind)
  | [], st => (st.isEmpty, [])
  | w :: ws, st =>
    let op := w / 1024
    let arg := w % 1024
    match vType op st with
    | none => (false, [])
    | some st' =>
      if !(vArgOk op arg) || (vNeedsFp32 op && ctype != 0) || decide (8 < st'.length) then (false, [])
      else
        let r := vTypes ctype ws st'
        match op, st with
        | 0x03, k :: _ => (r.1, (arg, k) :: r.2)
        | _, _ => r

/-- The inputs that a program loads as lanes, and as EX128. -/
def vLoads (ws : List Nat) : List Nat × List Nat :=
  (((ws.filter (fun w => w / 1024 == 0x01)).map (· % 1024)).eraseDups,
   ((ws.filter (fun w => w / 1024 == 0x24)).map (· % 1024)).eraseDups)

/-! ### Geometry -/

/-- The byte ranges of an operand (R122). -/
def vRanges (en : VEntry) (fmt addr rows cols : Nat) : List (Nat × Nat) :=
  let w := fmtWidth fmt
  if en.shape = 0 then
    (List.range rows).map (fun r => (addr + r * en.pitch, packedLen w cols)) ++
      (if fmtMx fmt then [(en.sc, rows * ceilDiv cols 32)] else [])
  else [(addr, packedLen w (if en.shape = 1 then rows else if en.shape = 2 then cols else 1))]

/-- The ranges of the inputs a program names. -/
def vInRanges (x : VDesc) (k : VBlock) : List (Nat × List (Nat × Nat)) :=
  let l := vLoads (vLive k.prog)
  ((l.1 ++ l.2).eraseDups).map (fun i =>
    let en := k.ins.getD i vNone
    (i, vRanges en en.fmt (x.inAddr.getD i 0) x.rows x.cols))

/-- The ranges of the outputs a program stores. -/
def vOutRanges (x : VDesc) (k : VBlock) : List (Nat × List (Nat × Nat)) :=
  let st := ((vTypes k.ctype (vLive k.prog) []).2.map (·.1)).eraseDups
  st.map (fun j => let en := k.outs.getD j vNone; (j, vRanges en en.conv.fmt (x.outAddr.getD j 0) x.rows x.cols))

/-- An output is an in-place update of an input (R122). -/
def vInPlace (x : VDesc) (k : VBlock) (i j : Nat) : Bool :=
  let a := k.ins.getD i vNone
  let b := k.outs.getD j vNone
  a.fmt == b.conv.fmt && a.shape == b.shape && a.pitch == b.pitch && x.inAddr.getD i 0 == x.outAddr.getD j 0 &&
    (!(fmtMx a.fmt) || a.sc == b.sc)

/-! ### Checks (R113, R122-R127) -/

/-- A field of the block that must be 0 is not (Table 4.4, Table 4.5). -/
def vReserved (k : VBlock) : Bool :=
  k.rsv || (k.ins ++ k.outs).any (fun en => en.rsv || (en.shape != 0 && en.pitch != 0)) ||
    k.ins.any (fun en => en.convBits != 0) || k.outs.any (fun en => en.conv.rsv)

/-- A format code in a position that does not allow it (R44, R122). -/
def vFormat (k : VBlock) : Bool :=
  let ws := vLive k.prog
  let l := vLoads ws
  k.ctype == 3 || (k.ins ++ k.outs).any (fun en => decide (0xE ≤ en.fmt)) ||
    k.outs.any (fun en => decide (0xE ≤ en.conv.fmt)) ||
    l.1.any (fun i => !(inputFmt (k.ins.getD i vNone).fmt)) || l.2.any (fun i => (k.ins.getD i vNone).fmt != 0xC)

/-- The program fails a check of R126, or stores a kind into an output of another shape (R127). -/
def vProgram (x : VDesc) (k : VBlock) : Bool :=
  let ws := vLive k.prog
  let t := vTypes k.ctype ws []
  let l := vLoads ws
  let used := (l.1 ++ l.2).eraseDups
  let st := t.2.map (·.1)
  !t.1 || st.eraseDups.length != st.length ||
    (List.range 2).any (fun j => !(st.contains j) && (!((k.outs.getD j vNone).zero) || x.outAddr.getD j 0 != 0)) ||
    (List.range 4).any (fun i => !(used.contains i) && (!((k.ins.getD i vNone).zero) || x.inAddr.getD i 0 != 0)) ||
    t.2.any (fun s => (k.outs.getD s.1 vNone).shape != (if s.2 = .elem ∨ s.2 = .xelem then 0 else 1)) ||
    (k.prog.takeWhile (fun w => w / 1024 != 0)).length != k.prog.length &&
      (k.prog.dropWhile (fun w => w / 1024 != 0)).headD 0 != 0

/-- The status of the checks that the block's content decides, in the order of R113. -/
def vBlockStatus (d : Dev) (site u : Nat) (job : Job) (x : VDesc) (k : VBlock) : Nat :=
  let ins := vInRanges x k
  let outs := vOutRanges x k
  let in0 := k.ins.getD 0 vNone
  let stores := (vTypes k.ctype (vLive k.prog) []).2
  if vReserved k then 0x0A
  else if vFormat k then 0x01
  else if (k.ins.any (fun en => fmtMx en.fmt && en.shape != 0)) || k.outs.any (fun en => fmtMx en.conv.fmt && en.shape != 0)
    then 0x02
  else if (x.final && !x.record) ||
      stores.any (fun s => (s.2 = .elem ∨ s.2 = .row) && (k.outs.getD s.1 vNone).conv.fmt == 0xC) then 0x03
  else if x.follow && !(followOk d site u job (x.inAddr.getD 0 0) in0.pitch in0.fmt x.rows) then 0x11
  else if vProgram x k then 0x10
  else if !(ins.all (fun i => insideCore i.2)) || !(outs.all (fun o => insideCore o.2)) ||
      outs.any (fun o => ins.any (fun i => !(vInPlace x k i.1 o.1) && rangesMeet i.2 o.2)) ||
      (match outs with | [a, b] => rangesMeet a.2 b.2 | _ => false) then 0x05
  else 0

/-- Status of a VXE descriptor at entry, and the block read once (R113, R121). -/
def vxeCheck (e : Env) (d : Dev) (site u : Nat) (job : Job) : Nat × List Byte × Dev :=
  let x := vDesc job.bytes
  if !(engEnabled d site u) then (0x09, [], d)
  else if x.rsv then (0x0A, [], d)
  else
    match rdLocal e d site x.expr 256 with
    | (.ok b, d) => (vBlockStatus d site u job x (vBlock b), b, d)
    | (.error st, d) => (if x.final && !x.record then 0x03 else st, [], d)

/-! ### Operations (R125-R128) -/

/-- A stack entry of one row: a lane code or an EX128 value for each column, or one for the row. -/
inductive VCol where
  | elem (l : List Nat)
  | xelem (l : List EX)
  | row (c : Nat)
  | xrow (x : EX)
deriving DecidableEq, Repr

/-- A number rounded to the lane format (RNE, sat = 0). -/
def laneOf (f : Elem) (v : Num) : Nat := convNum f .rne false (some 0) 0 v

/-- LD: the lane value of an operand element and the flags that it sets (R126). -/
def vLoad (f : Elem) (fmt code scale : Nat) : Nat × XFlags :=
  let v := operandNum fmt code scale
  if fmt ≤ 1 then (laneOf f v, {})
  else
    match v with
    | .fin neg m e =>
      let mag := Num.fin false m e
      if m = 0 then (0, {})
      else if (f.decode f.maxCode).lt mag then (laneOf f (.inf neg), .ofInf neg)
      else if mag.lt (f.decode 1) then (0, { spillLow := true })
      else (laneOf f v, {})
    | _ => (laneOf f v, {})

/-- The larger of two lane values: NaN if either is, +0 over −0. -/
def laneMax (f : Elem) (a b : Nat) : Nat :=
  let x := f.decode a
  let y := f.decode b
  if x.isNan || y.isNan then f.nanCode
  else if x.lt y then b else if y.lt x then a else if x.isNeg then b else a

/-- The smaller of two lane values: NaN if either is, −0 over +0. -/
def laneMin (f : Elem) (a b : Nat) : Nat :=
  let x := f.decode a
  let y := f.decode b
  if x.isNan || y.isNan then f.nanCode
  else if x.lt y then a else if y.lt x then b else if x.isNeg then a else b

/-- 1.0 or 0.0 in the lane format. -/
def laneBool (f : Elem) (b : Bool) : Nat := if b then laneOf f (.fin false 1 0) else 0

/-- FLOOR, CEIL and RINT (0x15 to 0x17) of an FP32 code. -/
def laneRint (op : Nat) (c : Nat) : Nat :=
  match fp32Num c with
  | .fin neg m e =>
    if !((Num.fin false m e).lt (.fin false 1 23)) then c
    else
      let fl := Num.floorAt 0 (.fin neg m e)
      let exact := !(Num.drops 0 (.fin neg m e))
      let i : Int := if op = 0x15 || exact then fl else if op = 0x16 then fl + 1
        else let q : Int := (roundMag .rne neg m e 0 0 : Nat); if neg then -q else q
      fp32Of (Num.ofInt neg i 0)
  | _ => c

/-- An operation that pops one lane value. -/
def laneOp1 (f : Elem) (op arg a : Nat) : Nat :=
  let top := 2 ^ (f.width - 1)
  if op = 0x0E then a % top
  else if op = 0x0F then (if a < top then a + top else a - top)
  else if op = 0x18 then laneOf f ((f.decode a).scale (signed 10 arg))
  else if op = 0x1D then a * 2 ^ arg % 2 ^ 32
  else if op = 0x1E then a / 2 ^ arg
  else laneRint op a

/-- An operation that pops two lane values; `a` is the deeper one. -/
def laneOp2 (f : Elem) (op a b : Nat) : Nat :=
  let x := f.decode a
  let y := f.decode b
  if op = 0x08 then laneOf f (x.add y)
  else if op = 0x09 then laneOf f (x.add y.neg)
  else if op = 0x0A then laneOf f (x.mul y)
  else if op = 0x0C then laneMax f a b
  else if op = 0x0D then laneMin f a b
  else if op = 0x10 then laneBool f (x.lt y)
  else if op = 0x11 then laneBool f (x.lt y || x.eqv y)
  else if op = 0x12 then laneBool f (x.eqv y)
  else if op = 0x1A then a &&& b
  else if op = 0x1B then a ||| b
  else a ^^^ b

/-- An operation that pops three lane values; `a` is the deepest, `c` the top. -/
def laneOp3 (f : Elem) (op a b c : Nat) : Nat :=
  if op = 0x0B then laneOf f (((f.decode a).mul (f.decode b)).add (f.decode c))
  else if op = 0x13 then (if (f.decode a).isZero then c else b)
  else laneMin f (laneMax f a b) c

/-- Combine a list in pairs, `n` levels deep (R128). -/
def pairTree (g : Nat → Nat → Nat) : Nat → List Nat → Nat
  | 0, l => l.headD 0
  | n + 1, l => g (pairTree g n (l.take (2 ^ n))) (pairTree g n (l.drop (2 ^ n)))

/-- A list cut into chunks of 512, the last filled up with a value. -/
def chunks512 (fill : Nat) : Nat → List Nat → List (List Nat)
  | 0, _ => []
  | n + 1, l => if l.isEmpty then [] else (l.take 512 ++ List.replicate (512 - (l.take 512).length) fill) :: chunks512 fill n (l.drop 512)

/-- A row reduction: the tree of nine levels within each chunk, then the chunks in ascending order (R128). -/
def rowTree (g : Nat → Nat → Nat) (fill : Nat) (l : List Nat) : Nat :=
  match (chunks512 fill (ceilDiv l.length 512) l).map (pairTree g 9) with
  | [] => fill
  | c :: cs => cs.foldl g c

/-- XCVT: a lane value in EX128 at the window (R126), before the limit of R57. -/
def exPlace (w : Int) (v : Num) : EX :=
  match v with
  | .nan => { i := 0, w := w, flags := .nanOnly }
  | .inf n => { i := 0, w := w, flags := .ofInf n }
  | .fin n m e => exEntry (if n then -(m : Int) else (m : Int)) e w

/-- Limit an exact sum to the range of EX128 (R57). -/
def exLimit (x : EX) : EX := { x with i := exClamp x.i, flags := x.flags.or { spillHigh := exOver x.i } }

/-- XCVT of a lane value. -/
def exOfLane (f : Elem) (w : Int) (c : Nat) : EX := exLimit (exPlace w (f.decode c))

/-- RSUMX: the exact sum of a row (R128). -/
def exRowSum (f : Elem) (w : Int) (l : List Nat) : EX :=
  exLimit (l.foldl (fun a c => let t := exPlace w (f.decode c); { a with i := a.i + t.i, flags := a.flags.or t.flags })
    { i := 0, w := w, flags := {} })

/-- What one row of an expression is evaluated over. -/
structure VCtx where
  f : Elem
  w : Int
  key : Word × Word
  x : VDesc
  k : VBlock
  row : Nat
  /-- The elements of a row of an input: code and scale. -/
  elems : Nat → List (Nat × Nat)
  /-- The EX128 elements of a row of an input. -/
  exs : Nat → List EX

/-- The evaluation of one row: stack, outputs stored, flags of the loads and of the conversions to FP32. -/
structure VRun where
  stack : List VCol := []
  outs : List (Nat × VCol) := []
  flags : XFlags := {}

/-- The element index of a column of a row (R123). -/
def VDesc.index (x : VDesc) (r c : Nat) : Nat := (x.idxBase + r * x.idxLd + c) % 2 ^ 48

/-- EX128 to FP32 (XTOF). -/
def exToLane (x : EX) : Nat := fp32Of (exNum x)

/-- One operation on one row. -/
def vStep (c : VCtx) (r : VRun) (w : Nat) : VRun :=
  let op := w / 1024
  let arg := w % 1024
  let cols := List.range c.x.cols
  match op, r.stack with
  | 0x01, s =>
    let l := (c.elems arg).map (fun p => vLoad c.f (c.k.ins.getD arg vNone).fmt p.1 p.2)
    { r with stack := .elem (l.map (·.1)) :: s, flags := l.foldl (fun a p => a.or p.2) r.flags }
  | 0x02, s => { r with stack := .elem (cols.map (fun _ => laneOf c.f (fp32Num (c.k.consts.getD arg 0)))) :: s }
  | 0x07, s => { r with stack := .elem (cols.map (fun j => fp32Of (.fin false (if arg = 0 then j else c.row) 0))) :: s }
  | 0x1F, s =>
    { r with stack := .elem (cols.map (fun j => uniformOf (draw c.key (c.x.index c.row j) c.x.tag (arg + 1)))) :: s }
  | 0x24, s => { r with stack := .xelem ((c.exs arg).map (fun x => exRealign x c.w)) :: s }
  | 0x03, v :: s => { r with stack := s, outs := r.outs ++ [(arg, v)] }
  | 0x04, v :: s => { r with stack := v :: v :: s }
  | 0x05, a :: b :: s => { r with stack := b :: a :: s }
  | 0x06, _ :: s => { r with stack := s }
  | 0x20, .elem l :: s => { r with stack := .row (rowTree fp32Add 0 l) :: s }
  | 0x21, .elem l :: s => { r with stack := .row (rowTree (laneMax .fp32) 0xFF800000 l) :: s }
  | 0x22, .elem l :: s => { r with stack := .row (rowTree (laneMin .fp32) 0x7F800000 l) :: s }
  | 0x23, .elem l :: s => { r with stack := .xrow (exRowSum c.f c.w l) :: s }
  | 0x25, .elem l :: s => { r with stack := .xelem (l.map (exOfLane c.f c.w)) :: s }
  | 0x26, .xelem b :: .xelem a :: s => { r with stack := .xelem ((a.zip b).map (fun p => exAdd p.1 p.2)) :: s }
  | 0x27, .xelem b :: .xelem a :: s => { r with stack := .xelem ((a.zip b).map (fun p => exMaxOf c.w p.1 p.2)) :: s }
  | 0x28, .xelem b :: .xelem a :: s => { r with stack := .xelem ((a.zip b).map (fun p => exMinOf c.w p.1 p.2)) :: s }
  | 0x29, .xelem l :: s =>
    { r with stack := .elem (l.map exToLane) :: s, flags := l.foldl (fun a x => a.or x.flags) r.flags }
  | 0x29, .xrow x :: s => { r with stack := .row (exToLane x) :: s, flags := r.flags.or x.flags }
  | op, .elem c1 :: s =>
    if op = 0x0E ∨ op = 0x0F ∨ (0x15 ≤ op ∧ op ≤ 0x18) ∨ op = 0x1D ∨ op = 0x1E then
      { r with stack := .elem (c1.map (laneOp1 c.f op arg)) :: s }
    else match s with
      | .elem b1 :: t =>
        if op = 0x0B ∨ op = 0x13 ∨ op = 0x14 then
          match t with
          | .elem a1 :: v =>
            { r with stack := .elem (((a1.zip b1).zip c1).map (fun p => laneOp3 c.f op p.1.1 p.1.2 p.2)) :: v }
          | _ => r
        else { r with stack := .elem ((b1.zip c1).map (fun p => laneOp2 c.f op p.1 p.2)) :: t }
      | _ => r
  | _, _ => r

/-- The elements of one row of an input: code and scale byte for each column. -/
def vElems (e : Env) (d : Dev) (site : Nat) (x : VDesc) (k : VBlock) (r i : Nat) : List (Nat × Nat) :=
  let en := k.ins.getD i vNone
  let a := x.inAddr.getD i 0
  let w := fmtWidth en.fmt
  let at_ (base j : Nat) : Nat := packedAt (fun n => localByte e d site (base + n)) w j
  (List.range x.cols).map (fun c =>
    if en.shape = 0 then
      (at_ (a + r * en.pitch) c,
       if fmtMx en.fmt then (localByte e d site (en.sc + r * ceilDiv x.cols 32 + c / 32)).toNat else en.tscale)
    else (at_ a (if en.shape = 1 then r else if en.shape = 2 then c else 0), en.tscale))

/-- The EX128 elements of one row of an input. -/
def vExs (e : Env) (d : Dev) (site : Nat) (x : VDesc) (k : VBlock) (r i : Nat) : List EX :=
  (vElems e d site x k r i).map (fun p => exOfBytes (leBytes 24 p.1))

/-- The context of one row. -/
def vCtx (e : Env) (d : Dev) (site : Nat) (key : Word × Word) (x : VDesc) (k : VBlock) (w : Int) (r : Nat) : VCtx :=
  { f := vLane k.ctype, w := w, key := key, x := x, k := k, row := r,
    elems := vElems e d site x k r, exs := vExs e d site x k r}

/-! ### Results -/

/-- The values of a stored entry, each as the number a conversion sees, its flags, and itself if it is EX128. -/
def vValues (f : Elem) : VCol → List (Num × XFlags × Option EX)
  | .elem l => l.map (fun c => let v := f.decode c; (v, XFlags.ofNum v, none))
  | .xelem l => l.map (fun x => (exNum x, x.flags, some x))
  | .row c => let v := f.decode c; [(v, XFlags.ofNum v, none)]
  | .xrow x => [(exNum x, x.flags, some x)]

/-- Convert the values of one row, or of the rows of a ROW output: the bytes, and the block scales for an MX format. -/
def convRow (c : ConvWord) (draws : List Nat) (vs : List (Num × XFlags × Option EX)) : List Byte × List Byte :=
  if c.fmt = 0xC then ((vs.map (fun v => match v.2.2 with | some x => exBytes x | none => [])).flatten, [])
  else
    let f := (fmtElem c.fmt).getD .fp32
    if fmtMx c.fmt then
      let bl := (chunks32 (ceilDiv vs.length 32) ((vs.map (·.1)).zip draws)).map (mxConvert f c.rnd)
      (packBytes f.width (bl.map (·.codes)).flatten, bl.map (fun b => BitVec.ofNat 8 b.scale))
    else (packBytes f.width ((vs.zip draws).map (fun p => convNum f c.rnd c.sat (convDiv c) p.2 p.1.1)), [])

/-- The flags of values written under a conversion word (R72, R587). -/
def convRowFlags (c : ConvWord) (vs : List (Num × XFlags × Option EX)) : XFlags :=
  vs.foldl (fun a v => a.or v.2.1) (if vs.isEmpty then {} else convFlags c)

/-- The writes of one output, from what each row stored there (R127). -/
def vWrites (x : VDesc) (k : VBlock) (key : Word × Word) (rows : List (Nat × List (Nat × VCol))) (j : Nat) :
    List (Nat × List Byte) :=
  let en := k.outs.getD j vNone
  let a := x.outAddr.getD j 0
  let f := vLane k.ctype
  let got := rows.filterMap (fun r => (r.2.find? (fun o => o.1 == j)).map (fun o => (r.1, vValues f o.2)))
  if en.shape = 0 then
    (got.map (fun g =>
      let b := convRow en.conv ((List.range x.cols).map (fun c => drawSr key (x.index g.1 c) x.tag)) g.2
      [(a + g.1 * en.pitch, b.1), (en.sc + g.1 * ceilDiv x.cols 32, b.2)])).flatten
  else
    let b := convRow en.conv (got.map (fun g => drawSr key (x.index g.1 0) x.tag)) ((got.map (·.2)).flatten)
    [(a, b.1)]

/-- Every value stored in any output, with its conversion word. -/
def vStored (k : VBlock) (rows : List (Nat × List (Nat × VCol))) : List (ConvWord × List (Num × XFlags × Option EX)) :=
  (rows.map (fun r => r.2.map (fun o => ((k.outs.getD o.1 vNone).conv, vValues (vLane k.ctype) o.2)))).flatten

/-- The OR of the flags and the largest top of the EX128 values stored (R61, R124). -/
def vReportOf (vs : List (ConvWord × List (Num × XFlags × Option EX))) : XFlags × Option Int :=
  (vs.map (·.2)).flatten.foldl (fun r v => match v.2.2 with
    | some x => (r.1.or x.flags, topMax r.2 (exTop x)) | none => r) ({}, none)

/-- What an expression writes over its range, the flags of its outputs, and what it reports of EX128 (R124-R128). -/
def vResult (e : Env) (d : Dev) (site : Nat) (j : EJob) (w : Int) : List (Nat × List Byte) × XFlags × XFlags × Option Int :=
  let x := vDesc j.job.bytes
  let k := vBlock j.block
  let key := streamSeed d j.job.stream.toNat
  let runs := (List.range x.rows).map (fun r =>
    (r, (vLive k.prog).foldl (vStep (vCtx e d site key x k w r)) {}))
  let rows := runs.map (fun r => (r.1, r.2.outs))
  let stored := vStored k rows
  let fl := stored.foldl (fun a s => a.or (convRowFlags s.1 s.2)) (runs.foldl (fun a r => a.or r.2.flags) {})
  (((List.range 2).map (vWrites x k key rows)).flatten, fl, vReportOf stored)

/-- Apply the expression over the range, write the outputs, and complete or wait for the final report (R124-R128). -/
def vApply (e : Env) (d : Dev) (site u : Nat) (j : EJob) (w : Int) : Dev :=
  let x := vDesc j.job.bytes
  let k := vBlock j.block
  let ins := ((vInRanges x k).map (·.2)).flatten
  let st := readStatus d site ins
  if st ≠ 0 then engFail (noteLocal d site st (ins.headD (0, 0)).1) site u st ((vOutRanges x k).map (·.2)).flatten {}
  else
    let d := wakeRanges d site ins
    let v := vResult e d site j w
    if x.final then
      let r := wrRanges d site (v.1.filter (fun w => !w.2.isEmpty))
      if r.1 ≠ 0 then engFail r.2 site u r.1 ((vOutRanges x k).map (·.2)).flatten v.2.1
      else setActive r.2 site u
        { j with win := some w, reporting := true, flags := v.2.2.1, top := v.2.2.2, outFlags := v.2.1 }
    else writeAndEnd d site u v.1 v.2.1 0

/-- VXE_EXPRESSION (R121-R128): the active descriptor of a VXE reads its window, then its rows, and writes. -/
def execVxeExpression (site : Fin 36) (x : Fin 4) (resp : Resp) (s : State) : Host.Outcome State Fault Refusal :=
  s.run (fun e d =>
    let u := x.val + 1
    match engActive d site.val u with
    | none => d
    | some j =>
      let v := vDesc j.job.bytes
      if j.reporting || !(rowsReady u v.rows j) then d
      else if v.record then
        let r := readWindow e d site.val j.job.stream.toNat v.window resp
        match r.1 with
        | some w => vApply e r.2 site.val u j w
        | none => engFail r.2 site.val u 0x06 ((vOutRanges v (vBlock j.block)).map (·.2)).flatten {}
      else vApply e d site.val u j (signed 16 (v.window % 2 ^ 16)))

/-- VXE_FINAL_REPORT (R124): the report to the window record, after the last write. -/
def execVxeFinalReport (site : Fin 36) (x : Fin 4) (resp : Resp) (s : State) : Host.Outcome State Fault Refusal :=
  s.run (fun e d =>
    let u := x.val + 1
    match engActive d site.val u with
    | none => d
    | some j =>
      if !j.reporting then d
      else
        let r := reportRecord e d site.val j.job.stream.toNat (vDesc j.job.bytes).window j.top j.flags resp
        if r.1 then engEnd r.2 site.val u 0 j.outFlags 0
        else engFail r.2 site.val u 0x06 ((vOutRanges (vDesc j.job.bytes) (vBlock j.block)).map (·.2)).flatten j.outFlags)

end Sys2Proof.Machine
end

