-- ==== Sys2Proof/Machine/Topiary.lean ====
section
/-!
DEFINITION. Topiary, the layout engine (R136-R138): moves with permutation, crop, pad and conversion, and the A, B and
2:4 sparse B images of the MXE.
-/
namespace Sys2Proof.Machine

/-! ### Writing over what is read -/

/-- Replace by free values the bytes that fall into some ranges: the result where an operation writes over what it
reads, which the spec leaves undefined or does not state (R154; log entries 4 and 16). -/
def freeWhere (rs : List (Nat × Nat)) : Nat → List Byte → Dev → List Byte × Dev
  | _, [], d => ([], d)
  | a, b :: bs, d =>
    let hit := rs.any (fun r => decide (r.1 ≤ a) && decide (a < r.1 + r.2))
    let x := if hit then takeFree d 8 else (b.toNat, d)
    let r := freeWhere rs (a + 1) bs x.2
    (BitVec.ofNat 8 x.1 :: r.1, r.2)

/-- `freeWhere` over a list of writes. -/
def freeWrites (rs : List (Nat × Nat)) : List (Nat × List Byte) → Dev → List (Nat × List Byte) × Dev
  | [], d => ([], d)
  | w :: ws, d =>
    let x := freeWhere rs w.1 w.2 d
    let r := freeWrites rs ws x.2
    ((w.1, x.1) :: r.1, r.2)

/-- A descriptor's results, free where they overlap what it reads. -/
def freed (d : Dev) (reads : List (Nat × Nat)) (ws : List (Nat × List Byte)) : List (Nat × List Byte) × Dev :=
  if reads.any (fun a => ws.any (fun w => overlap a.1 a.2 w.1 w.2.length)) then freeWrites reads ws d else (ws, d)

/-- Write a descriptor's results, free where they overlap what it reads, and complete it. -/
def writeFreeAndEnd (d : Dev) (site u : Nat) (reads : List (Nat × Nat)) (ws : List (Nat × List Byte)) (f : XFlags)
    (detail : Nat) : Dev :=
  let r := freed d reads ws
  writeAndEnd r.2 site u r.1 f detail

/-! ### The descriptor -/

/-- The fields of a Topiary descriptor (Table 4.10). -/
structure TDesc where
  src : Nat
  dst : Nat
  op : Nat
  perm : List Nat
  follow : Bool
  off : List Int
  conv : ConvWord
  pad : Nat
  tag : Nat
  idxBase : Nat
  rsv : Bool
deriving DecidableEq, Repr

/-- Read a Topiary descriptor (R136). -/
def topDesc (b : List Byte) : TDesc :=
  { src := dfield b 16 19 0 * 64, dst := dfield b 16 39 20 * 64, op := dfield b 16 43 40,
    perm := [dfield b 16 45 44, dfield b 16 47 46, dfield b 16 49 48, dfield b 16 51 50], follow := dbit b 16 52,
    off := [signed 16 (dfield b 24 15 0), signed 16 (dfield b 24 31 16), signed 16 (dfield b 24 47 32),
      signed 16 (dfield b 24 63 48)],
    conv := convOf (dfield b 32 15 0), pad := dfield b 32 47 16, tag := dfield b 48 31 0, idxBase := dfield b 56 47 0,
    rsv := dfield b 16 63 53 != 0 || dfield b 32 63 48 != 0 || dword b 5 != 0 || dfield b 48 63 32 != 0 ||
      dfield b 56 63 48 != 0 || (convOf (dfield b 32 15 0)).rsv }

/-- The two records of a descriptor, as the unit read them at entry. -/
def topSrc (blk : List Byte) : TRec := tRec (blk.take 64)
def topDst (blk : List Byte) : TRec := tRec (blk.drop 64)

/-- perm is a permutation of 0 to 3. -/
def permOk (p : List Nat) : Bool := (List.range 4).all (fun i => p.contains i)

/-- Fields of an image's destination record other than addr, fmt and size (R138). -/
def imageExtra (b : List Byte) : Bool :=
  dfield b 0 56 56 != 0 || dword b 1 != 0 || (List.range 5).any (fun i => dword b (3 + i) != 0)

/-! ### Images (R83-R85) -/

/-- Rows of the image, bytes of each, and where they start: value rows, then metadata, then scales. -/
structure Image where
  base : Nat
  rows : Nat
  rowLen : Nat
  metaRows : Nat
  metaLen : Nat
  scRows : Nat
  scLen : Nat
deriving DecidableEq, Repr

/-- K rounded up to whole blocks. -/
def padK (k : Nat) : Nat := ceilDiv k 32 * 32

/-- The geometry of the image that a descriptor builds. -/
def imageOf (op : Nat) (t : TRec) : Image :=
  let w := fmtWidth t.fmt
  let mx := fmtMx t.fmt
  if op = 1 then
    let kp := padK (t.dim 0)
    { base := t.addr, rows := t.dim 1, rowLen := up64 (packedLen w kp), metaRows := 0, metaLen := 0,
      scRows := if mx then t.dim 1 else 0, scLen := kp / 32}
  else
    let kp := padK (t.dim 1)
    let n := t.dim 0
    { base := t.addr, rows := if op = 3 then kp / 2 else kp, rowLen := up64 (packedLen w n),
      metaRows := if op = 3 then kp / 4 else 0, metaLen := up64 (ceilDiv n 2),
      scRows := if mx then kp / 32 else 0, scLen := up64 n}

/-- Where the metadata and the scales start. -/
def Image.metaBase (i : Image) : Nat := i.base + i.rows * i.rowLen
def Image.scBase (i : Image) : Nat := i.metaBase + i.metaRows * i.metaLen

/-- The bytes of an image. -/
def Image.ranges (i : Image) : List (Nat × Nat) := [(i.base, i.scBase - i.base + i.scRows * i.scLen)]

/-! ### Checks at entry -/

/-- The byte ranges a descriptor writes. -/
def topOut (op : Nat) (t : TRec) : List (Nat × Nat) := if op = 0 then t.ranges else (imageOf op t).ranges

/-- The checks that the records decide, in the order of R113. -/
def topRecStatus (d : Dev) (site : Nat) (job : Job) (x : TDesc) (blk : List Byte) : Nat :=
  let s := topSrc blk
  let t := topDst blk
  if s.rsv || t.rsv || (x.op != 0 && decide (x.op < 4) && imageExtra (blk.drop 64)) then 0x0A
  else if 4 ≤ x.op then 0x17
  else if !(decide (s.fmt ≤ 0xC)) || x.conv.fmt != t.fmt ||
      (if x.op = 0 then !(decide (t.fmt < 0xE)) else !(inputFmt t.fmt) || (x.op == 3 && t.fmt == 0)) then 0x01
  else if !(permOk x.perm) || s.badStride || (x.op == 0 && t.badStride) ||
      (x.op != 0 && (t.dim 2 != 1 || t.dim 3 != 1)) then 0x02
  else if t.fmt == 0xC && s.fmt != 0xC then 0x03
  else if x.follow && !(followOk d site 6 job s.addr (s.stride.getD 0 0).toNat s.fmt (s.dim 1 * s.dim 2 * s.dim 3)) then 0x11
  else if s.space || t.space || !(s.inside (2 ^ 26)) || (x.op == 0 && !(t.inside (2 ^ 26))) || !(insideCore (topOut x.op t))
    then 0x05
  else 0

/-- Status of a Topiary descriptor at entry, and its two records (R113, R136-R138). -/
def topCheck (e : Env) (d : Dev) (site : Nat) (job : Job) : Nat × List Byte × Dev :=
  let x := topDesc job.bytes
  if !(engEnabled d site 6) then (0x09, [], d)
  else if x.rsv then (0x0A, [], d)
  else
    let late (st : Nat) : Nat := if 4 ≤ x.op then 0x17 else if !(permOk x.perm) then 0x02 else st
    match readRecord e d site x.src with
    | (.error st, d) => (late st, [], d)
    | (.ok a, d) =>
      match readRecord e d site x.dst with
      | (.error st, d) => (late st, [], d)
      | (.ok b, d) => (topRecStatus d site job x (a ++ b), a ++ b, d)

/-! ### Elements -/

/-- What an element of the destination is made from: a code copied, the pad element, or a number to convert with its
flags. -/
inductive TCell where
  | copy (code : Nat)
  | pad
  | val (v : Num) (f : XFlags) (ex : Option EX)
deriving DecidableEq, Repr

/-- The source index of a destination index (R137): none outside the source sizes. -/
def srcIdx (x : TDesc) (s : TRec) (j : List Nat) : Option (List Nat) :=
  let at_ (k : Nat) : Int := (((List.range 4).find? (fun dd => x.perm.getD dd 0 == k)).map
    (fun dd => (j.getD dd 0 : Int))).getD 0 + x.off.getD k 0
  if (List.range 4).all (fun k => decide (0 ≤ at_ k) && decide (at_ k < (s.dim k : Int)))
  then some ((List.range 4).map (fun k => (at_ k).toNat)) else none

/-- Formats, scales and block dimensions are equal, block by block, so that the bits are copied (R137). -/
def bitCopy (x : TDesc) (s t : TRec) : Bool :=
  s.fmt == t.fmt && (!(fmtTensorScale s.fmt) || s.tscale == t.tscale) &&
    (!(fmtMx s.fmt) || (s.blkDim == t.blkDim && x.perm.getD t.blkDim 0 == t.blkDim && x.off.getD t.blkDim 0 % 32 == 0))

/-- The cell of a destination index. -/
def topCell (e : Env) (d : Dev) (site : Nat) (x : TDesc) (s : TRec) (copy : Bool) (j : List Nat) : TCell :=
  match srcIdx x s j with
  | none => .pad
  | some i =>
    let c := tCode e d site s i
    if copy then .copy c
    else if s.fmt = 0xC then let v := exOfBytes (leBytes 24 c); .val (exNum v) v.flags (some v)
    else let v := operandNum s.fmt c (tScale e d site s i); .val v (XFlags.ofNum v) none

/-- The value of a cell in a block conversion: pads count as zero. -/
def TCell.num : TCell → Num
  | .val v _ _ => v
  | _ => .zero

/-- The flags of a cell that is converted (R72). -/
def TCell.flags : TCell → XFlags
  | .val _ f _ => f
  | _ => {}

/-- Two numbers are the same value. -/
def sameNum (a b : Num) : Bool := (a.isNan && b.isNan) || a.eqv b

/-- A converted cell's code, and whether its value changed. -/
def cellCode (x : TDesc) (fmt : Nat) (draw : Nat) (c : TCell) : Nat × Bool :=
  match c with
  | .copy k => (k, false)
  | .pad => (x.pad % 2 ^ fmtWidth fmt, false)
  | .val v _ ex =>
    if fmt = 0xC then ((match ex with | some q => leNat (exBytes q) | none => 0), false)
    else
      let f := (fmtElem fmt).getD .fp32
      let k := convNum f x.conv.rnd x.conv.sat (convDiv x.conv) draw v
      (k, !(sameNum v ((f.decode k).scale ((convDiv x.conv).getD 0))))

/-- An MX block from its cells and draws: scale byte, codes, and whether a value changed. -/
def cellBlock (x : TDesc) (fmt : Nat) (cs : List (TCell × Nat)) : Nat × List Nat × Bool :=
  let f := (fmtElem fmt).getD .e4m3
  let b := mxConvert f x.conv.rnd (cs.map (fun c => (c.1.num, c.2)))
  let codes := (cs.zip b.codes).map (fun p => match p.1.1 with | .val _ _ _ => p.2 | _ => x.pad % 2 ^ f.width)
  let changed := (cs.zip b.codes).any (fun p => match p.1.1 with
    | .val v _ _ => !(sameNum v (if b.scale = 0xFF then .nan else (f.decode p.2).scale ((b.scale : Int) - 127)))
    | _ => false)
  (b.scale, codes, changed)

/-- The draw of a destination index (R75, Table 4.10). -/
def topDraw (x : TDesc) (key : Word × Word) (t : TRec) (j : List Nat) : Nat :=
  drawSr key ((x.idxBase + t.linear j) % 2 ^ 48) x.tag

/-! ### MOVE -/

/-- The converted blocks of an MX destination, by block number: scale, codes, changed. -/
def moveBlocks (e : Env) (d : Dev) (site : Nat) (x : TDesc) (key : Word × Word) (s t : TRec) :
    List (Nat × Nat × List Nat × Bool) :=
  (allIdx t.scSize).map (fun bj =>
    let n := min 32 (t.dim t.blkDim - 32 * bj.getD t.blkDim 0)
    let js := (List.range n).map (fun i => setAt bj t.blkDim (32 * bj.getD t.blkDim 0 + i))
    let b := cellBlock x t.fmt (js.map (fun j => (topCell e d site x s false j, topDraw x key t j)))
    (t.scIdx (js.headD bj), b))

/-- The codes of a row of the destination, and whether any value changed. -/
def moveRow (e : Env) (d : Dev) (site : Nat) (x : TDesc) (key : Word × Word) (s t : TRec)
    (blocks : List (Nat × Nat × List Nat × Bool)) (j : List Nat) : List Nat × Bool :=
  let js := (List.range (t.dim 0)).map (fun i => setAt j 0 i)
  if fmtMx t.fmt && !(bitCopy x s t) then
    (js.map (fun j => match Sparse.find blocks (t.scIdx j) with
      | some b => b.2.1.getD (j.getD t.blkDim 0 % 32) 0 | none => 0), blocks.any (fun b => b.2.2.2))
  else
    let cs := js.map (fun j => cellCode x t.fmt (topDraw x key t j) (topCell e d site x s (bitCopy x s t) j))
    (cs.map (·.1), cs.any (·.2))

/-- The scale bytes of an MX destination: of the converted blocks, or copied with their blocks. -/
def moveScales (e : Env) (d : Dev) (site : Nat) (x : TDesc) (s t : TRec) (blocks : List (Nat × Nat × List Nat × Bool)) :
    List Byte :=
  if bitCopy x s t then
    (allIdx t.scSize).map (fun bj =>
      match srcIdx x s (setAt bj t.blkDim (32 * bj.getD t.blkDim 0)) with
      | some i => BitVec.ofNat 8 (tScale e d site s i)
      | none => 0)
  else blocks.map (fun b => BitVec.ofNat 8 b.2.1)

/-- The flags of every converted value of the destination (R72). -/
def topFlags (e : Env) (d : Dev) (site : Nat) (x : TDesc) (s t : TRec) : XFlags :=
  if bitCopy x s t && x.op == 0 then {} else
    (allIdx t.size).foldl (fun a j => a.or (topCell e d site x s false j).flags) (convFlags x.conv)

/-- Run an active Topiary descriptor of one operation: the writes and the detail bits. -/
def topRun (e : Env) (d : Dev) (site op : Nat)
    (f : Dev → TDesc → Word × Word → TRec → TRec → List (Nat × List Byte) × Nat) : Dev :=
  match engActive d site 6 with
  | none => d
  | some j =>
    let x := topDesc j.job.bytes
    let s := topSrc j.block
    let t := topDst j.block
    if x.op ≠ op ∨ rowsReady 6 (s.dim 1 * s.dim 2 * s.dim 3) j = false then d
    else
      let st := readStatus d site s.ranges
      if st ≠ 0 then engFail (noteLocal d site st s.addr) site 6 st (topOut op t) {}
      else
        let d := wakeRanges d site s.ranges
        let r := f d x (streamSeed d j.job.stream.toNat) s t
        writeFreeAndEnd d site 6 s.ranges r.1 (topFlags e d site x s t) r.2

/-- What MOVE writes, and its detail bits (R137). -/
def moveResult (e : Env) (site : Nat) (d : Dev) (x : TDesc) (key : Word × Word) (s t : TRec) :
    List (Nat × List Byte) × Nat :=
  let blocks := if fmtMx t.fmt && !(bitCopy x s t) then moveBlocks e d site x key s t else []
  let rows := t.rows.map (fun j => (j, moveRow e d site x key s t blocks j))
  (rows.map (fun r => (t.rowAddr r.1, packBytes (fmtWidth t.fmt) r.2.1)) ++
    (if fmtMx t.fmt then [(t.scAddr, moveScales e d site x s t blocks)] else []),
   bit (rows.any (fun r => r.2.2)))

/-- MOVE (R137). -/
def execTopMove (site : Fin 36) (s : State) : Host.Outcome State Fault Refusal :=
  s.run (fun e d => topRun e d site.val 0 (moveResult e site.val))

/-! ### Images -/

/-- A line of 32 converted elements along k, for one row of A or one column of B: scale, codes, changed. -/
def imageBlock (e : Env) (d : Dev) (site : Nat) (x : TDesc) (key : Word × Word) (s t : TRec) (k : Nat)
    (idx : Nat → List Nat) (b : Nat) : Nat × List Nat × Bool :=
  let ks := ((List.range 32).map (32 * b + ·)).filter (· < k)
  let cs := ks.map (fun i => (topCell e d site x s false (idx i), topDraw x key t (idx i)))
  if fmtMx t.fmt then
    let r := cellBlock x t.fmt cs
    (r.1, r.2.1 ++ List.replicate (32 - r.2.1.length) 0, r.2.2)
  else
    let r := cs.map (fun c => cellCode x t.fmt c.2 c.1)
    (0, r.map (·.1) ++ List.replicate (32 - r.length) 0, r.any (·.2))

/-- Bytes filled up with zeros. -/
def zeroFill (n : Nat) (b : List Byte) : List Byte := b ++ List.replicate (n - b.length) 0

/-- The A image and its detail bits (R83, R138). -/
def imageAResult (e : Env) (site : Nat) (d : Dev) (x : TDesc) (key : Word × Word) (s t : TRec) :
    List (Nat × List Byte) × Nat :=
  let im := imageOf 1 t
  let rows := (List.range (t.dim 1)).map (fun m => (List.range (padK (t.dim 0) / 32)).map
    (imageBlock e d site x key s t (t.dim 0) (fun k => [k, m, 0, 0])))
  ([(im.base, (rows.map (fun r => zeroFill im.rowLen (packBytes (fmtWidth t.fmt) (r.map (·.2.1)).flatten))).flatten),
    (im.scBase, if im.scRows = 0 then [] else (rows.map (fun r => r.map (fun b => BitVec.ofNat 8 b.1))).flatten)],
   bit (rows.any (fun r => r.any (fun b => b.2.2))))

/-- IMAGE_A (R83, R138). -/
def execImageA (site : Fin 36) (s : State) : Host.Outcome State Fault Refusal :=
  s.run (fun e d => topRun e d site.val 1 (imageAResult e site.val))

/-- The B image and its detail bits (R84, R138). -/
def imageBResult (e : Env) (site : Nat) (d : Dev) (x : TDesc) (key : Word × Word) (s t : TRec) :
    List (Nat × List Byte) × Nat :=
  let im := imageOf 2 t
  let blocks := (List.range (padK (t.dim 1) / 32)).map (fun b => (List.range (t.dim 0)).map (fun n =>
    imageBlock e d site x key s t (t.dim 1) (fun k => [n, k, 0, 0]) b))
  let row (b : List (Nat × List Nat × Bool)) (i : Nat) : List Byte :=
    zeroFill im.rowLen (packBytes (fmtWidth t.fmt) (b.map (fun c => c.2.1.getD i 0)))
  ([(im.base, (blocks.map (fun b => ((List.range 32).map (row b)).flatten)).flatten),
    (im.scBase, if im.scRows = 0 then []
      else (blocks.map (fun b => zeroFill im.scLen (b.map (fun c => BitVec.ofNat 8 c.1)))).flatten)],
   bit (blocks.any (fun b => b.any (fun c => c.2.2))))

/-- IMAGE_B (R84, R138). -/
def execImageB (site : Fin 36) (s : State) : Host.Outcome State Fault Refusal :=
  s.run (fun e d => topRun e d site.val 2 (imageBResult e site.val))

/-- The magnitude order of a 2:4 selection: a NaN counts as the largest (log entry 17). -/
def magLess (a b : Num) : Bool := if a.isNan then false else if b.isNan then true else a.abs.lt b.abs

/-- The best position of a group of four that is not in a list: the largest magnitude, the lower k on a tie. -/
def pickOne (vs : List Num) (taken : List Nat) : Option Nat :=
  (List.range vs.length).foldl (fun best i =>
    if taken.contains i || (vs.getD i .zero).isZero then best
    else match best with
      | none => some i
      | some b => if magLess (vs.getD b .zero) (vs.getD i .zero) then some i else best) none

/-- The two positions kept of a group of four, ascending, and whether a nonzero value is dropped (R138). -/
def pickTwo (vs : List Num) : Nat × Nat × Bool :=
  let a := pickOne vs []
  let b := match a with | some i => pickOne vs [i] | none => none
  let kept := a.toList ++ b.toList
  let free := (List.range 4).filter (fun i => !(kept.contains i))
  let two := (kept ++ free).take 2
  let p := two.getD 0 0
  let q := two.getD 1 1
  (min p q, max p q, (List.range 4).any (fun i => !(two.contains i) && !((vs.getD i .zero).isZero)))

/-- One block of 32 k of one column of a 2:4 image: scale, the kept codes and metadata of its eight groups, inexact,
pruned (R85, R138). For a block-scaled format the selection is by exact value, since the scale follows the selection. -/
def sparseBlock (e : Env) (d : Dev) (site : Nat) (x : TDesc) (key : Word × Word) (s t : TRec) (n b : Nat) :
    Nat × List (Nat × Nat × Nat) × Bool × Bool :=
  let f := (fmtElem t.fmt).getD .fp32
  let mx := fmtMx t.fmt
  let cell (k : Nat) : TCell × Nat :=
    if k < t.dim 1 then (topCell e d site x s false [n, k, 0, 0], topDraw x key t [n, k, 0, 0]) else (.copy 0, 0)
  let cs := (List.range 32).map (fun i => cell (32 * b + i))
  let codes := cs.map (fun c => cellCode x t.fmt c.2 c.1)
  let vals := (cs.zip codes).map (fun p => if mx then (match p.1.1 with | .pad => f.decode p.2.1 | c => c.num) else f.decode p.2.1)
  let picks := (List.range 8).map (fun g => pickTwo (slice vals (4 * g) 4))
  let keeps (i : Nat) : Bool := let p := picks.getD (i / 4) (0, 1, false); i % 4 == p.1 || i % 4 == p.2.1
  let kept := (List.range 32).map (fun i => if keeps i then cs.getD i (.copy 0, 0) else (.val .zero {} none, 0))
  let bl := cellBlock x t.fmt kept
  let code (i : Nat) : Nat := if mx then bl.2.1.getD i 0 else (codes.getD i (0, false)).1
  (bl.1, (List.range 8).map (fun g =>
      let p := picks.getD g (0, 1, false)
      (code (4 * g + p.1), code (4 * g + p.2.1), p.1 + 4 * p.2.1)),
   if mx then bl.2.2 else codes.any (·.2), picks.any (·.2.2))

/-- The 2:4 sparse B image, its metadata and its detail bits (R85, R138). -/
def imageBsResult (e : Env) (site : Nat) (d : Dev) (x : TDesc) (key : Word × Word) (s t : TRec) :
    List (Nat × List Byte) × Nat :=
  let im := imageOf 3 t
  let w := fmtWidth t.fmt
  let blocks := (List.range (padK (t.dim 1) / 32)).map (fun b => (List.range (t.dim 0)).map (fun n =>
    sparseBlock e d site x key s t n b))
  let row (b : List (Nat × List (Nat × Nat × Nat) × Bool × Bool)) (i : Nat) : List Byte :=
    zeroFill im.rowLen (packBytes w (b.map (fun c =>
      let g := c.2.1.getD (i / 2) (0, 0, 0); if i % 2 = 0 then g.1 else g.2.1)))
  let meta_ (b : List (Nat × List (Nat × Nat × Nat) × Bool × Bool)) (g : Nat) : List Byte :=
    zeroFill im.metaLen (packBytes 4 (b.map (fun c => (c.2.1.getD g (0, 0, 0)).2.2)))
  ([(im.base, (blocks.map (fun b => ((List.range 16).map (row b)).flatten)).flatten),
    (im.metaBase, (blocks.map (fun b => ((List.range 8).map (meta_ b)).flatten)).flatten),
    (im.scBase, if im.scRows = 0 then []
      else (blocks.map (fun b => zeroFill im.scLen (b.map (fun c => BitVec.ofNat 8 c.1)))).flatten)],
   bit (blocks.any (fun b => b.any (fun c => c.2.2.1))) + 2 * bit (blocks.any (fun b => b.any (fun c => c.2.2.2))))

/-- IMAGE_BS (R85, R138). -/
def execImageBs (site : Fin 36) (s : State) : Host.Outcome State Fault Refusal :=
  s.run (fun e d => topRun e d site.val 3 (imageBsResult e site.val))

end Sys2Proof.Machine
end

