-- ==== Sys2Proof/Machine/Cpe.lean ====
section
/-!
DEFINITION. The compression engine (R150): block streams of RAW, ZERO and PLANE blocks, and requantising of MX tensors.
-/
namespace Sys2Proof.Machine

/-- The fields of a CPE descriptor (Table 4.14). -/
structure CDesc where
  src : Nat
  dst : Nat
  op : Nat
  length : Nat
  conv : ConvWord
  tag : Nat
  idxBase : Nat
  rsv : Bool
deriving DecidableEq, Repr

/-- Read a CPE descriptor. -/
def cpeDesc (b : List Byte) : CDesc :=
  { src := dfield b 16 19 0 * 64, dst := dfield b 16 39 20 * 64, op := dfield b 16 41 40, length := dfield b 24 31 0,
    conv := convOf (dfield b 24 47 32), tag := dfield b 48 31 0, idxBase := dfield b 56 47 0,
    rsv := dfield b 16 63 42 != 0 || dfield b 24 63 48 != 0 || dword b 4 != 0 || dword b 5 != 0 ||
      dfield b 48 63 32 != 0 || dfield b 56 63 48 != 0 || (convOf (dfield b 24 47 32)).rsv }

/-- Element bytes of a format in a block stream: sub-byte formats use 1. -/
def planeBytes (fmt : Nat) : Nat := max 1 (fmtWidth fmt / 8)

/-- The checks that the records decide, in the order of R113. -/
def cpeRecStatus (x : CDesc) (blk : List Byte) : Nat :=
  let s := topSrc blk
  let t := topDst blk
  let stream := x.op != 2
  if s.rsv || t.rsv then 0x0A
  else if x.op = 3 then 0x17
  else if (if stream then decide (0xE ≤ s.fmt) || decide (0xE ≤ t.fmt) || s.fmt == 0xC || t.fmt == 0xC
      else !(fmtMx s.fmt) || !(fmtMx t.fmt) || x.conv.fmt != t.fmt) then 0x01
  else if !stream && (s.size != t.size || s.blkDim != t.blkDim || s.badStride || t.badStride) then 0x02
  else if s.space || t.space || (if stream then decide (2 ^ 26 < s.addr + x.length) || decide (2 ^ 26 ≤ t.addr)
      else !(s.inside (2 ^ 26)) || !(t.inside (2 ^ 26))) then 0x05
  else 0

/-- Status of a CPE descriptor at entry, and its two records (R113, R150). -/
def cpeCheck (e : Env) (d : Dev) (site : Nat) (job : Job) : Nat × List Byte × Dev :=
  let x := cpeDesc job.bytes
  if !(engEnabled d site 8) then (0x09, [], d)
  else if x.rsv then (0x0A, [], d)
  else
    let late (st : Nat) : Nat := if x.op = 3 then 0x17 else st
    match readRecord e d site x.src with
    | (.error st, d) => (late st, [], d)
    | (.ok a, d) =>
      match readRecord e d site x.dst with
      | (.error st, d) => (late st, [], d)
      | (.ok b, d) => (cpeRecStatus x (a ++ b), a ++ b, d)

/-! ### Planes -/

/-- Byte `p` of every element. -/
def planeOf (wb p : Nat) (bs : List Byte) : List Byte :=
  ((bs.zip (List.range bs.length)).filter (fun x => x.2 % wb == p)).map (·.1)

/-- Decode tokens until `n` bytes are made; none where the tokens end early or make more. -/
def planeDecode : Nat → Nat → List Byte → Option (List Byte)
  | _, 0, _ => some []
  | 0, _, _ => none
  | _, _, [] => none
  | fuel + 1, n, c :: rest =>
    let c := c.toNat
    if c < 128 then
      if n < c + 1 ∨ rest.length < c + 1 then none
      else (planeDecode fuel (n - (c + 1)) (rest.drop (c + 1))).map (rest.take (c + 1) ++ ·)
    else
      match rest with
      | [] => none
      | b :: rest => if n < c - 126 then none
          else (planeDecode fuel (n - (c - 126)) rest).map (List.replicate (c - 126) b ++ ·)

/-- A coding of a plane that always decodes: literals of at most 128 bytes. -/
def planeLiterals : Nat → List Byte → List Byte
  | 0, _ => []
  | n + 1, l => if l.isEmpty then [] else
      BitVec.ofNat 8 ((l.take 128).length - 1) :: l.take 128 ++ planeLiterals n (l.drop 128)

/-- The tokens of a plane (R150): the engine's own division where it decodes to the plane. -/
def planeEncode (l : List Byte) : List Byte :=
  let t := Config.planeTokens l
  if planeDecode t.length l.length t = some l then t else planeLiterals l.length l

/-- A block header (Table 4.15). -/
def blockHeader (plen mode wb blen : Nat) (poff : List Nat) : List Byte :=
  leBytes 8 (plen + 2 ^ 13 * mode + 2 ^ 15 * wb + 2 ^ 18 * blen) ++
    ((List.range 4).map (fun i => leBytes 2 (poff.getD i 0))).flatten

/-- The offsets of planes laid one after another. -/
def planeOffsets : Nat → List (List Byte) → List Nat
  | _, [] => []
  | o, p :: ps => o :: planeOffsets (o + p.length) ps

/-- One block of a stream (R150): ZERO, PLANE where it is smaller than RAW, or RAW. -/
def encodeBlock (wb : Nat) (bs : List Byte) : List Byte :=
  if bs.all (· == 0) then blockHeader 0 1 wb bs.length []
  else
    let ps := (List.range wb).map (fun p => planeEncode (planeOf wb p bs))
    let payload := ps.flatten
    if payload.length < bs.length then blockHeader payload.length 2 wb bs.length (planeOffsets 0 ps) ++ payload
    else blockHeader bs.length 0 wb bs.length [] ++ bs

/-- Source bytes cut into blocks of 4,096. -/
def blocks4k : Nat → List Byte → List (List Byte)
  | 0, _ => []
  | n + 1, l => if l.isEmpty then [] else l.take 4096 :: blocks4k n (l.drop 4096)

/-- Blocks placed on 16-byte boundaries. -/
def placeBlocks : Nat → List (List Byte) → List (Nat × List Byte)
  | _, [] => []
  | a, b :: bs => (a, b) :: placeBlocks (a + ceilDiv b.length 16 * 16) bs

/-- The bytes of one plane-coded block. -/
def unplane (wb blen : Nat) (ps : List (List Byte)) : List Byte :=
  (List.range blen).map (fun i => (ps.getD (i % wb) []).getD (i / wb) 0)

/-- Decode one block: its source bytes and the bytes of stream it takes; none for DECODE. -/
def decodeBlock (s : List Byte) : Option (List Byte × Nat) :=
  let h := leNat (s.take 8)
  let plen := bits h 12 0
  let mode := bits h 14 13
  let wb := bits h 17 15
  let blen := bits h 30 18
  let payload := slice s 16 plen
  let size := ceilDiv (16 + plen) 16 * 16
  if s.length < 16 ∨ payload.length < plen ∨ blen = 0 ∨ 4096 < blen ∨ !(wb == 1 || wb == 2 || wb == 4) then none
  else if mode = 0 then (if plen = blen then some (payload, size) else none)
  else if mode = 1 then (if plen = 0 then some (List.replicate blen 0, size) else none)
  else if mode = 2 then
    let ps := (List.range wb).map (fun p =>
      let o := leNat (slice s (8 + 2 * p) 2)
      planeDecode (payload.length) (ceilDiv (blen - p) wb) (payload.drop o))
    if ps.any Option.isNone then none else some (unplane wb blen (ps.map (·.getD [])), size)
  else none

/-- Decode a stream of blocks: whether all of it is valid, and the bytes of the blocks up to the first that is not. -/
def decodeStream : Nat → List Byte → Bool × List Byte
  | 0, s => (s.isEmpty, [])
  | n + 1, s =>
    if s.isEmpty then (true, [])
    else match decodeBlock s with
      | none => (false, [])
      | some b => let r := decodeStream n (s.drop b.2); (r.1, b.1 ++ r.2)

/-- Run an active CPE descriptor of one operation. -/
def cpeRun (d : Dev) (site op : Nat) (reads : CDesc → TRec → List (Nat × Nat))
    (f : Dev → EJob → CDesc → TRec → TRec → Dev) : Dev :=
  match engActive d site 8 with
  | none => d
  | some j =>
    let x := cpeDesc j.job.bytes
    let s := topSrc j.block
    let t := topDst j.block
    if x.op ≠ op then d
    else
      let st := readStatus d site (reads x s)
      if st ≠ 0 then engFail (noteLocal d site st s.addr) site 8 st (if op = 2 then t.ranges else []) {}
      else f (wakeRanges d site (reads x s)) j x s t

/-- The bytes of a local range. -/
def localBytes (e : Env) (d : Dev) (site a len : Nat) : List Byte := (List.range len).map (fun i => localByte e d site (a + i))

/-- COMPRESS (R150). -/
def execCompress (site : Fin 36) (s : State) : Host.Outcome State Fault Refusal :=
  s.run (fun e d => cpeRun d site.val 0 (fun x s => [(s.addr, x.length)]) (fun d _ x s t =>
    let bs := localBytes e d site.val s.addr x.length
    writeFreeAndEnd d site.val 8 [(s.addr, x.length)]
      (placeBlocks t.addr ((blocks4k bs.length bs).map (encodeBlock (planeBytes s.fmt)))) {} 0))

/-- DECOMPRESS (R150): the source bytes exactly, or status DECODE. -/
def execDecompress (site : Fin 36) (s : State) : Host.Outcome State Fault Refusal :=
  s.run (fun e d => cpeRun d site.val 1 (fun x s => [(s.addr, x.length)]) (fun d _ x s t =>
    let r := decodeStream x.length (localBytes e d site.val s.addr x.length)
    if r.1 then writeFreeAndEnd d site.val 8 [(s.addr, x.length)] [(t.addr, r.2)] {} 0
    else engFail d site.val 8 0x15 [(t.addr, r.2.length)] {}))

/-- REPACK (R73, R150): every block requantised; the two tensors have the same sizes and block dimension. -/
def execRepack (site : Fin 36) (s : State) : Host.Outcome State Fault Refusal :=
  s.run (fun e d => cpeRun d site.val 2 (fun _ s => s.ranges) (fun d j x s t =>
    let y : TDesc := ⟨0, 0, 1, [0, 1, 2, 3], false, [0, 0, 0, 0], x.conv, 0, x.tag, x.idxBase, false⟩
    let blocks := moveBlocks e d site.val y (streamSeed d j.job.stream.toNat) s t
    let row (r : List Nat) : List Nat := (List.range (t.dim 0)).map (fun i =>
      let i := setAt r 0 i
      match Sparse.find blocks (t.scIdx i) with | some b => b.2.1.getD (i.getD t.blkDim 0 % 32) 0 | none => 0)
    writeFreeAndEnd d site.val 8 s.ranges
      (t.rows.map (fun r => (t.rowAddr r, packBytes (fmtWidth t.fmt) (row r))) ++
        [(t.scAddr, blocks.map (fun b => BitVec.ofNat 8 b.2.1))])
      (topFlags e d site.val y s t) (bit (blocks.any (fun b => b.2.2.2)))))

end Sys2Proof.Machine
end

