-- ==== Sys2Proof/Machine/DmeRng.lean ====
section
/-!
DEFINITION. The DMA engines (R153, R154) and the random generator's fill descriptor (R151, R152).
-/
namespace Sys2Proof.Machine

/-! ### DME -/

/-- The fields of a DME descriptor (Table 4.16). -/
structure DDesc where
  src : Nat
  srcLocal : Bool
  dst : Nat
  dstLocal : Bool
  op : Nat
  rowBytes : Nat
  rows : Nat
  srcPitch : Int
  dstPitch : Int
  pattern : List Byte
  rsv : Bool
deriving DecidableEq, Repr

/-- Read a DME descriptor. -/
def dmeDesc (b : List Byte) : DDesc :=
  { src := dfield b 16 51 0, srcLocal := dbit b 16 52, dst := dfield b 24 51 0, dstLocal := dbit b 24 52,
    op := dfield b 24 54 53, rowBytes := dfield b 32 31 0, rows := dfield b 32 63 32,
    srcPitch := signed 48 (dfield b 40 47 0), dstPitch := signed 48 (dfield b 48 47 0), pattern := slice b 56 8,
    rsv := dfield b 16 63 53 != 0 || dfield b 24 63 55 != 0 || dfield b 40 63 48 != 0 || dfield b 48 63 48 != 0 }

/-- The address of a row, as an integer. -/
def rowAt (base : Nat) (pitch : Int) (r : Nat) : Int := (base : Int) + (r : Int) * pitch

/-- Lowest byte of a side and one past its highest, over all rows. -/
def DDesc.spanOf (x : DDesc) (base : Nat) (pitch : Int) : Int × Int :=
  let last := rowAt base pitch (x.rows - 1)
  (min (base : Int) last, max (base : Int) last + (x.rowBytes : Int))

/-- A local side that would touch a byte outside core memory, or a package side outside the address space. -/
def DDesc.sideBad (x : DDesc) (isLocal : Bool) (base : Nat) (pitch : Int) : Bool :=
  let s := x.spanOf base pitch
  decide (s.1 < 0) || decide ((if isLocal then 2 ^ 26 else 2 ^ 52 : Int) < s.2)

/-- Status of a DME descriptor at entry (R113, R114, R153). -/
def dmeCheck (d : Dev) (site u : Nat) (job : Job) : Nat :=
  let x := dmeDesc job.bytes
  if !(engEnabled d site u) then 0x09
  else if x.rsv then 0x0A
  else if 2 ≤ x.op then 0x17
  else if x.rowBytes = 0 ∨ x.rows = 0 then 0x02
  else if (x.op == 0 && x.sideBad x.srcLocal x.src x.srcPitch) || x.sideBad x.dstLocal x.dst x.dstPitch then 0x05
  else 0

/-- A byte range cut at 128-byte lines. -/
def linePieces : Nat → Nat → Nat → List (Nat × Nat)
  | 0, _, _ => []
  | fuel + 1, a, len =>
    if len = 0 then []
    else let n := min len (128 - a % 128); (a, n) :: linePieces fuel (a + n) (len - n)

/-- Read package memory line by line for a stream (R154): the bytes, or a status. -/
def pkgReadAll (e : Env) (r : Requester) : List (Nat × Nat) → Dev → Except Nat (List Byte) × Dev
  | [], d => (.ok [], d)
  | p :: ps, d =>
    match pkgRead e d r p.1 p.2 with
    | (.error er, d) => (.error (errStatus er), d)
    | (.ok b, d) =>
      match pkgReadAll e r ps d with
      | (.error st, d) => (.error st, d)
      | (.ok bs, d) => (.ok (b ++ bs), d)

/-- Write package memory line by line for a stream: the status. -/
def pkgWriteAll (e : Env) (r : Requester) : List (Nat × Nat) → List Byte → Dev → Nat × Dev
  | [], _, d => (0, d)
  | p :: ps, bs, d =>
    match pkgWrite e d r p.1 (bs.take p.2) (allEnabled p.2) with
    | (some er, d) => (errStatus er, d)
    | (none, d) => pkgWriteAll e r ps (bs.drop p.2) d

/-- Read one row of a side. -/
def dmeRead (e : Env) (d : Dev) (site : Nat) (r : Requester) (isLocal : Bool) (a len : Nat) : Except Nat (List Byte) × Dev :=
  if isLocal then rdLocal e d site a len else pkgReadAll e r (linePieces len a len) d

/-- Write one row of a side. -/
def dmeWrite (e : Env) (d : Dev) (site : Nat) (r : Requester) (isLocal : Bool) (a : Nat) (bs : List Byte) : Nat × Dev :=
  if isLocal then wrLocal d site a bs else pkgWriteAll e r (linePieces bs.length a bs.length) bs d

/-- The destination of a failed descriptor becomes undefined (Table 4.1, log entry 4). -/
def dmeUndef (e : Env) (site : Nat) (r : Requester) (x : DDesc) : List Nat → Dev → Dev
  | [], d => d
  | i :: is, d =>
    let a := (rowAt x.dst x.dstPitch i).toNat
    let d := if x.dstLocal then undefRanges d site [(a, x.rowBytes)]
      else let f := freeBytes x.rowBytes d; (pkgWriteAll e r (linePieces x.rowBytes a x.rowBytes) f.1 f.2).2
    dmeUndef e site r x is d

/-- The bytes of a copied row: those that fall into the source of the same COPY are free values (R154). -/
def dmeFree (x : DDesc) : Nat → List Byte → Dev → List Byte × Dev
  | _, [], d => ([], d)
  | a, b :: bs, d =>
    let hit := x.srcLocal == x.dstLocal && (List.range x.rows).any (fun i =>
      let s := rowAt x.src x.srcPitch i
      decide (s ≤ (a : Int)) && decide ((a : Int) < s + (x.rowBytes : Int)))
    let y := if hit then takeFree d 8 else (b.toNat, d)
    let r := dmeFree x (a + 1) bs y.2
    (BitVec.ofNat 8 y.1 :: r.1, r.2)

/-- Copy or fill rows in order; the first status that is not 0 ends it. -/
def dmeRows (e : Env) (site : Nat) (r : Requester) (x : DDesc) : List Nat → Dev → Nat × Dev
  | [], d => (0, d)
  | i :: is, d =>
    let dst := (rowAt x.dst x.dstPitch i).toNat
    let src := (rowAt x.src x.srcPitch i).toNat
    let got : Except Nat (List Byte) × Dev :=
      if x.op = 1 then (.ok ((List.range x.rowBytes).map (fun n => x.pattern.getD (n % 8) 0)), d)
      else dmeRead e d site r x.srcLocal src x.rowBytes
    match got with
    | (.error st, d) => (st, d)
    | (.ok bs, d) =>
      let f := if x.op = 0 then dmeFree x dst bs d else (bs, d)
      let w := dmeWrite e f.2 site r x.dstLocal dst f.1
      if w.1 = 0 then dmeRows e site r x is w.2 else w

/-- Run an active DME descriptor of one operation; `found` are the errors met in the words of a local source. -/
def dmeRun (e : Env) (d : Dev) (site m op : Nat) (found : List EccFound) : Dev :=
  let u := 9 + m
  match engActive d site u with
  | none => d
  | some j =>
    let x := dmeDesc j.job.bytes
    if x.op ≠ op then d
    else
      let r := streamReq d site j.job.stream.toNat
      let d := if x.srcLocal && op == 0 then
          eccAll d site ((List.range x.rows).map (fun i =>
            localKeys d site (rowAt x.src x.srcPitch i).toNat x.rowBytes)).flatten found else d
      let w := dmeRows e site r x (List.range x.rows) d
      if w.1 = 0 then engEnd w.2 site u 0 {} 0
      else engEnd (dmeUndef e site r x (List.range x.rows) w.2) site u w.1 {} 0

/-- DME_COPY (R153, R154); `ext` is what host or guest memory returns. -/
def execDmeCopy (site : Fin 36) (dme : Fin 2) (ext : List Byte) (found : List EccFound) (s : State) :
    Host.Outcome State Fault Refusal :=
  s.run (fun e d => dmeRun e { d with extIn := ext } site.val dme.val 0 found)

/-- DME_FILL (R153). -/
def execDmeFill (site : Fin 36) (dme : Fin 2) (s : State) : Host.Outcome State Fault Refusal :=
  s.run (fun e d => dmeRun e d site.val dme.val 1 [])

/-! ### RNG -/

/-- The fields of an RNG fill descriptor (R152). -/
structure RDesc where
  out : Nat
  dist : Nat
  count : Nat
  pDrop : Nat
  tag : Nat
  idxBase : Nat
  rsv : Bool
deriving DecidableEq, Repr

/-- Read an RNG fill descriptor. -/
def rngDesc (b : List Byte) : RDesc :=
  { out := dfield b 16 19 0 * 64, dist := dfield b 16 21 20, count := dfield b 24 31 0, pDrop := dfield b 24 63 32,
    tag := dfield b 48 31 0, idxBase := dfield b 56 47 0,
    rsv := dfield b 16 63 22 != 0 || dword b 4 != 0 || dword b 5 != 0 || dfield b 48 63 32 != 0 || dfield b 56 63 48 != 0 }

/-- Bytes that an RNG fill writes. -/
def RDesc.bytes (x : RDesc) : Nat := if x.dist = 2 then x.count else 4 * x.count

/-- Status of an RNG descriptor at entry (R113, R152). -/
def rngCheck (d : Dev) (site : Nat) (job : Job) : Nat :=
  let x := rngDesc job.bytes
  if !(engEnabled d site 11) then 0x09
  else if x.rsv then 0x0A
  else if x.dist = 3 then 0x17
  else if 2 ^ 26 < x.out + x.bytes ∧ x.count ≠ 0 then 0x05
  else 0

/-- One element of a fill: a raw draw, a uniform number, or a keep byte (R152). -/
def rngElem (x : RDesc) (key : Word × Word) (i : Nat) : List Byte :=
  let w := draw key ((x.idxBase + i) % 2 ^ 48) x.tag 0x800
  if x.dist = 0 then leBytes 4 w.toNat
  else if x.dist = 1 then leBytes 4 (uniformOf w)
  else
    let u := fp32Num (uniformOf w)
    let p := fp32Num x.pDrop
    [if !p.isNan && !(u.lt p) then 1 else 0]

/-- RNG_FILL (R152). -/
def execRngFill (site : Fin 36) (s : State) : Host.Outcome State Fault Refusal :=
  s.run (fun _ d =>
    match engActive d site.val 11 with
    | none => d
    | some j =>
      let x := rngDesc j.job.bytes
      writeAndEnd d site.val 11
        [(x.out, ((List.range x.count).map (rngElem x (streamSeed d j.job.stream.toNat))).flatten)] {} 0)

end Sys2Proof.Machine
end

