-- ==== Sys2Proof/Machine/LinkCode.lean ====
section
/-!
DEFINITION. The coding of Ouvquel code blocks (R354-R357, R360, R382): RS(18,16) over GF(2^8), the PRBS31 scramble
pattern, the CRC-64 of a flit and the CRC-16 of a training block.
-/
namespace Sys2Proof.Machine

/-- Multiplication by α = 2 in the field of x^8 + x^4 + x^3 + x^2 + 1 (R355). -/
def gfDouble (a : Nat) : Nat := if a < 128 then 2 * a else (2 * a) ^^^ 0x11D

/-- Multiplication in the field, by the low `n` bits of the second factor. -/
def gfMulN : Nat → Nat → Nat → Nat
  | 0, _, _ => 0
  | n + 1, a, b => (if b % 2 = 1 then a else 0) ^^^ gfMulN n (gfDouble a) (b / 2)

/-- Multiplication in the field. -/
def gfMul (a b : Nat) : Nat := gfMulN 8 a b

/-- Powers of α. -/
def gfPow : Nat → Nat
  | 0 => 1
  | n + 1 => gfDouble (gfPow n)

/-- The inverse of a nonzero element, x^254. -/
def gfInv (a : Nat) : Nat :=
  let a2 := gfMul a a; let a4 := gfMul a2 a2; let a8 := gfMul a4 a4; let a16 := gfMul a8 a8
  let a32 := gfMul a16 a16; let a64 := gfMul a32 a32; let a128 := gfMul a64 a64
  gfMul a128 (gfMul a64 (gfMul a32 (gfMul a16 (gfMul a8 (gfMul a4 a2)))))

/-- c(1) of a column of 18 symbols. -/
def syn0 (c : List Nat) : Nat := c.foldl (· ^^^ ·) 0

/-- c(α) of a column: the symbol of lane L is the coefficient of x^(17 − L). -/
def syn1 (c : List Nat) : Nat := c.foldl (fun s x => gfDouble s ^^^ x) 0

/-- The symbols of a column with one replaced. -/
def colSet (c : List Nat) (l v : Nat) : List Nat := setAt c l v

/-- What decoding makes of a column (Table 11.5): the corrected column and the lane corrected, or none. -/
def rsDecode (erased : List Nat) (c : List Nat) : Option (List Nat × Option Nat) :=
  match erased with
  | [] =>
    let s0 := syn0 c
    let s1 := syn1 c
    if s0 = 0 ∧ s1 = 0 then some (c, none)
    else if s0 = 0 then none
    else match lowest 18 (fun l => gfMul s0 (gfPow (17 - l)) == s1) with
      | some l => some (colSet c l (c.getD l 0 ^^^ s0), some l)
      | none => none
  | [l] =>
    let z := colSet c l 0
    let s0 := syn0 z
    if gfMul s0 (gfPow (17 - l)) = syn1 z then some (colSet z l s0, none) else none
  | [l, m] =>
    let z := colSet (colSet c l 0) m 0
    let s0 := syn0 z
    let x := gfPow (17 - l)
    let y := gfPow (17 - m)
    let a := gfMul (syn1 z ^^^ gfMul s0 y) (gfInv (x ^^^ y))
    some (colSet (colSet z l a) m (s0 ^^^ a), none)
  | _ => none

/-- The column of 16 data symbols and the two check symbols that make c(1) = c(α) = 0 (R355). -/
def rsEncode (data : List Nat) : List Nat :=
  match rsDecode [16, 17] (data ++ [0, 0]) with
  | some (c, _) => c
  | none => data

/-- The next state of the PRBS31 generator x^31 + x^28 + 1; its output bit is the one shifted out. -/
def prbs31 (s : Nat) : Nat := (2 * s) % 2 ^ 31 + bit (xor (s.testBit 30) (s.testBit 27))

/-- The first `n` output bits of the generator, the first in the least significant place. -/
def prbsBits : Nat → Nat → Nat
  | 0, _ => 0
  | n + 1, s => bit (s.testBit 30) + 2 * prbsBits n (prbs31 s)

/-- The scramble pattern of a lane's 160 bits in block n (R357). -/
def scramble (n l : Nat) : Nat := prbsBits 160 (((n % 2 ^ 24) * 2 ^ 7 + l + 1) % 2 ^ 31)

/-- One bit into a CRC register of `w` bits, most significant bit first. -/
def crcBit (w poly crc : Nat) (b : Bool) : Nat :=
  let top := xor (crc.testBit (w - 1)) b
  let sh := (2 * crc) % 2 ^ w
  if top then sh ^^^ poly else sh

/-- One byte into a CRC, its most significant bit first. -/
def crcByte (w poly crc : Nat) (b : Byte) : Nat :=
  [7, 6, 5, 4, 3, 2, 1, 0].foldl (fun c i => crcBit w poly c (b.toNat.testBit i)) crc

/-- The CRC-64 of a flit's bytes 0 to 303 (R360). -/
def crc64 (bs : List Byte) : Nat := (2 ^ 64 - 1) ^^^ bs.foldl (crcByte 64 0x42F0E1EBA9EA3693) (2 ^ 64 - 1)

/-- The `n` low bits of a number, in the order in which they are sent. -/
def bitsSent (n x : Nat) : List Bool := (List.range n).map (fun i => x.testBit i)

/-- The CRC-16 of a training block's bits 143 to 0, taken in the order in which they are sent (R382). -/
def crc16 (n x : Nat) : Nat := (bitsSent n x).foldl (crcBit 16 0x1021) 0xFFFF

/-- The symbol of a flit in lane l (0 to 15) and column c (R356). -/
def flitSymbol (flit : List Byte) (l c : Nat) : Nat := (flit.getD (16 * c + l) 0).toNat

/-- The 20 columns of a flit, encoded. -/
def flitColumns (flit : List Byte) : List (List Nat) :=
  (List.range 20).map (fun c => rsEncode ((List.range 16).map (fun l => flitSymbol flit l c)))

/-- The 20 bytes that each of the 18 lanes sends for a flit in block n (R354-R357). -/
def encodeLanes (n : Nat) (flit : List Byte) : List (List Byte) :=
  let cols := flitColumns flit
  (List.range 18).map (fun l =>
    let w := leNat (cols.map (fun c => BitVec.ofNat 8 (c.getD l 0)))
    leBytes 20 (w ^^^ scramble n l))

/-- The columns of a received block with the scramble pattern removed. -/
def blockColumns (n : Nat) (lanes : List (List Byte)) : List (List Nat) :=
  let ws := (List.range 18).map (fun l => leNat (lanes.getD l []) ^^^ scramble n l)
  (List.range 20).map (fun c => ws.map (fun w => bits w (8 * c + 7) (8 * c)))

/-- What decoding makes of a block (R362, Table 11.5): the flit's bytes if every column decodes, the lanes corrected,
and how many columns were. -/
structure Decoded where
  flit : Option (List Byte)
  corrected : Nat
  count : Nat
deriving DecidableEq, Repr

/-- Decode the columns of a block with an erasure set. -/
def decodeColumns (erased : List Nat) (cols : List (List Nat)) : Decoded :=
  let rs := cols.map (rsDecode erased)
  { flit := if rs.all Option.isSome then
      some ((rs.map (fun r => match r with | some (c, _) => (c.take 16).map (BitVec.ofNat 8) | none => [])).flatten)
      else none,
    corrected := rs.foldl (fun m r => match r with | some (_, some l) => m ||| 2 ^ l | _ => m) 0,
    count := rs.foldl (fun n r => match r with | some (_, some _) => n + 1 | _ => n) 0 }

/-- A flit's CRC-64 matches (R360, R362). -/
def crcOk (flit : List Byte) : Bool := leNat (slice flit 304 8) == crc64 (flit.take 304)

/-- The training block of a lane (Table 11.7). -/
def trainBlock (l state : Nat) (ack : Bool) (n : Nat) : List Byte :=
  let low := 0xD4B271E6 + l * 2 ^ 32 + state * 2 ^ 37 + bit ack * 2 ^ 41 + (n % 2 ^ 24) * 2 ^ 42 +
    bits (scramble n l) 143 66 * 2 ^ 66
  leBytes 20 (low + crc16 144 low * 2 ^ 144)

/-- A lane's bytes are a training block of that lane: marker, lane and check (R382). -/
def trainOk (l : Nat) (b : List Byte) : Bool :=
  let w := leNat b
  b.length == 20 && bits w 31 0 == 0xD4B271E6 && bits w 36 32 == l && bits w 159 144 == crc16 144 (bits w 143 0)

end Sys2Proof.Machine
end

