-- ==== Sys2Proof/Machine/Link.lean ====
section
/-!
DEFINITION. The Ouvquel link layer (chapter 11): code blocks, flits, erasure, credits, slips, replay, and the steps
of training that touch one end's state alone.
-/
namespace Sys2Proof.Machine

/-! ### Access -/

/-- The link of a global fibre. -/
def getLq (d : Dev) (g : Nat) : Lq := Sparse.get {} d.lq g

/-- Replace the link of a global fibre. -/
def setLq (d : Dev) (g : Nat) (x : Lq) : Dev := { d with lq := Sparse.set {} d.lq g x }

/-- The light engine and fibre pair of a global fibre (R23). -/
def lqIx (g : Nat) : List Nat := [g / 8, g % 8]

/-- A field of LQ_STAT. -/
def lqStat (d : Dev) (g : Nat) (f : Fld) : Nat := fget d Reg.LQ_STAT (lqIx g) f

/-- Write a field of LQ_STAT. -/
def setLqStat (d : Dev) (g : Nat) (f : Fld) (v : Nat) : Dev := fset d Reg.LQ_STAT (lqIx g) f v

/-- The state of a link (Table 11.8). -/
def lqState (d : Dev) (g : Nat) : Nat := lqStat d g Fld.LQ_STAT_state

/-- A link is ACTIVE. -/
def lqActive (d : Dev) (g : Nat) : Bool := lqState d g == 5

/-- OQ1 is agreed on a link. -/
def lqOq1 (d : Dev) (g : Nat) : Bool := lqStat d g Fld.LQ_STAT_oq1 == 1

/-- The link's end here leads. -/
def lqLead (d : Dev) (g : Nat) : Bool := lqStat d g Fld.LQ_STAT_lead == 1

/-- The register of a VC. -/
def lqVc (v : Nat) : RegDesc := if v < 2 then Reg.LQ_VC_LOW else Reg.LQ_VC_HIGH

/-- The index of a VC's register. -/
def lqVcIx (g v : Nat) : List Nat := [g / 8, g % 8, v % 2]

/-- The credits of a VC. -/
def lqCredits (d : Dev) (g v : Nat) : Nat := fget d (lqVc v) (lqVcIx g v) Fld.LQ_VC_LOW_credits

/-- Write the credits of a VC. -/
def setCredits (d : Dev) (g v n : Nat) : Dev := fset d (lqVc v) (lqVcIx g v) Fld.LQ_VC_LOW_credits n

/-- The written window of a VC. -/
def lqWindow (d : Dev) (g v : Nat) : Nat := fget d (lqVc v) (lqVcIx g v) Fld.LQ_VC_LOW_window

/-- The erasure set, as a mask of lanes (R363). -/
def erasure (d : Dev) (g : Nat) : Nat := fget d Reg.LQ_ERASED (lqIx g) Fld.LQ_ERASED_lanes

/-- Write the erasure set, also where the calibration registers show it (Table 10.12). -/
def setErasure (d : Dev) (g m : Nat) : Dev :=
  let old := erasure d g
  let d := (List.range 18).foldl (fun d l =>
    if tbit old l == tbit m l then d else traceEv d (36 + g / 8) 0x21 (g % 8) 0 (l + 32 * bit (tbit m l))) d
  fset (fset d Reg.LQ_ERASED (lqIx g) Fld.LQ_ERASED_lanes m) Reg.LE_CAL_FIBRE (lqIx g) Fld.LE_CAL_FIBRE_erased m

/-- The lanes of a mask. -/
def lanesOf (m : Nat) : List Nat := (List.range 18).filter (fun l => m.testBit l)

/-- The next sequence number to send, and the one expected. -/
def seqTx (d : Dev) (g : Nat) : Nat := fget d Reg.LQ_SEQ_TX (lqIx g) Fld.LQ_SEQ_TX_seq
def seqRx (d : Dev) (g : Nat) : Nat := fget d Reg.LQ_SEQ_RX (lqIx g) Fld.LQ_SEQ_RX_seq

/-- Write the next sequence number to send. -/
def setSeqTx (d : Dev) (g n : Nat) : Dev := fset d Reg.LQ_SEQ_TX (lqIx g) Fld.LQ_SEQ_TX_seq n

/-- Write the expected sequence number. -/
def setSeqRx (d : Dev) (g n : Nat) : Dev := fset d Reg.LQ_SEQ_RX (lqIx g) Fld.LQ_SEQ_RX_seq n

/-- The modulus of sequence numbers: 2^24, or 2^16 on an OQ1 link (R377, Table 11.13). -/
def seqMod (d : Dev) (g : Nat) : Nat := if lqOq1 d g then 2 ^ 16 else 2 ^ 24

/-- Number a is at or after b (R377). -/
def seqAfter (m a b : Nat) : Bool := decide ((a + m - b % m) % m < m / 2)

/-- Item `v` of a list of four counts. -/
def nth4 (l : List Nat) (v : Nat) : Nat := l.getD v 0

/-- Add to item `v` of a list of four counts, modulo 2^24. -/
def add4 (l : List Nat) (v n : Nat) : List Nat := setAt l v ((nth4 l v + n) % 2 ^ 24)

/-- The receive side of a fibre takes part in a Gap (R323). -/
def inGap (d : Dev) (g : Nat) : Bool := fbit d Reg.LE_FIBRE (lqIx g) Fld.LE_FIBRE_rx_gap

/-- The receive side of a fibre is in PATH_RX (R391). -/
def pathRx (d : Dev) (g : Nat) : Bool := tbit (lqStat d g Fld.LQ_STAT_path) 1

/-- For calibration a side in path mode counts as GAPPED (R392). -/
def rxGapped (d : Dev) (g : Nat) : Bool := inGap d g || pathRx d g

/-- The fibre delivers no flits: three lanes erased (Table 11.5), or R364. -/
def unreadable (d : Dev) (g : Nat) : Bool :=
  decide (3 ≤ ones 18 (erasure d g)) || (decide (64 ≤ (getLq d g).discards) && decide (2 ≤ ones 18 (erasure d g)))

/-- The package identity of this device (Table 1.8). -/
def ownId (e : Env) : Nat := e.fuses.pkgId.toNat

/-- The block number at the device time base (R358). -/
def blockNow (d : Dev) : Nat := d.tb * 2 / 5

/-! ### Queues -/

/-- Queue a management message: a header word and its body (Table 11.9). -/
def queueMsg (d : Dev) (g ty : Nat) (body : List Byte) : Dev :=
  let x := getLq d g
  let pad := (4 - body.length % 4) % 4
  setLq d g { x with mgmt := x.mgmt ++ [leBytes 4 (ty + 256 * body.length) ++ body ++ leBytes pad 0] }

/-- Queue a slip on a fibre; with 64 waiting, its producer waits (R372). -/
def queueSlip (d : Dev) (g : Nat) (s : Slip) : Dev :=
  let x := getLq d g
  if 64 ≤ x.slips.length then d else setLq d g { x with slips := x.slips ++ [s] }

/-- Queue the payload of a VC; one that enters a direction needs two credits to leave (R406), which its queue entry
notes as 4 added to the VC. -/
def queueCell (d : Dev) (g vc : Nat) (entering : Bool) (payload : List Byte) : Dev :=
  let x := getLq d g
  setLq d g { x with txq := x.txq ++ [(vc + 4 * bit entering, payload)] }

/-- The first received message of a type: its body, and the link without it. -/
def takeMsg (d : Dev) (g ty : Nat) : Option (List Byte × Dev) :=
  let x := getLq d g
  match x.rxMsgs.find? (fun m => leNat (m.take 1) == ty) with
  | none => none
  | some m => some (slice m 4 (leNat (slice m 1 1)), setLq d g { x with rxMsgs := x.rxMsgs.erase m })

/-- The first received slip that satisfies a test: its word, and the link without it. -/
def takeSlip (d : Dev) (g : Nat) (p : Nat × Nat → Bool) : Option (Nat × Dev) :=
  let x := getLq d g
  match x.rxSlips.find? p with
  | none => none
  | some s => some (s.2, setLq d g { x with rxSlips := x.rxSlips.erase s })

/-- The layer above takes the first payload of a VC: its buffer is freed (R370). -/
def takePayload (d : Dev) (g vc : Nat) : Option (List Byte × Dev) :=
  let x := getLq d g
  match x.rxCells.find? (fun c => c.1 == vc) with
  | none => none
  | some c => some (c.2, setLq d g { x with rxCells := x.rxCells.erase c, freed := add4 x.freed vc 1 })

/-- The occupied receive buffers of a VC (R374). -/
def occupied (x : Lq) (v : Nat) : Nat := (x.rxCells.filter (fun c => c.1 == v)).length

/-! ### Sending (R360, R361, R370-R372) -/

/-- The 320 bytes of a flit with its CRC (Tables 11.1 to 11.3, R393). -/
def flitBytes (oq1 : Bool) (ftype vc nak skind seq ack crVc crCnt slip : Nat) (payload : List Byte) : List Byte :=
  let s := if oq1 then (seq % 2 ^ 16) else seq % 2 ^ 24
  let a := if oq1 then (ack % 2 ^ 16) else ack % 2 ^ 24
  let head := ftype + vc * 8 + nak * 32 + skind * 64 + s * 2 ^ 8 + a * 2 ^ 32 + crVc * 2 ^ 56 + crCnt * 2 ^ 58
  let b := leBytes 8 head ++ leBytes 8 slip ++ (payload.take 288 ++ leBytes (288 - payload.length) 0)
  b ++ leBytes 8 (crc64 b) ++ leBytes 8 0

/-- A VC whose freed buffers await return, most first, lowest number on a tie; up to 63 at once (R370). -/
def creditToReturn (x : Lq) : Nat × Nat :=
  let v := (List.range 4).foldl (fun b v => if nth4 x.freed b < nth4 x.freed v then v else b) 0
  (v, min 63 (nth4 x.freed v))

/-- Take a slip for the next sequenced flit, and note it in the ring of R408 if it is an ADD of this node's. -/
def popSlip (x : Lq) : Option Slip × Lq :=
  match x.slips with
  | [] => (none, x)
  | s :: ss =>
    let x := { x with slips := ss }
    if s.kind = 1 then
      (some s, { x with
          slipTx := (x.slipTx + 1) % 2 ^ 16,
          slipRing := match s.who with
            | some w => Sparse.put x.slipRing (x.slipTx % 2 ^ 14) w
            | none => Sparse.del x.slipRing (x.slipTx % 2 ^ 14)})
    else (some s, x)

/-- The last flit accepted in order. -/
def lastAcc (d : Dev) (g : Nat) : Nat := let m := seqMod d g; (seqRx d g + m - 1) % m

/-- Emit a flit: encoded, scrambled and sent on all 18 lanes (R355-R359). -/
def emitFlit (d : Dev) (g : Nat) (ftype vc seq crVc crCnt : Nat) (slip : Option Slip) (payload : List Byte) : Dev :=
  let x := getLq d g
  let b := flitBytes (lqOq1 d g) ftype vc (bit x.nakOut) ((slip.map (·.kind)).getD 0) seq (lastAcc d g) crVc crCnt
    ((slip.map (·.value)).getD 0) payload
  let d := setLq d g (if x.nakOut then { x with nakOut := false, nakAt := some d.tb } else x)
  emit d (.fibre g 0 ((encodeLanes (blockNow d) b).flatten))

/-- Send a new sequenced flit: it takes the next number, carries the oldest slip and a credit return, and is kept for
replay (R370, R372, R377). -/
def sendNew (d : Dev) (g ftype vc : Nat) (payload : List Byte) : Dev :=
  let s := popSlip (getLq d g)
  let cr := creditToReturn s.2
  let q := seqTx d g
  let f : OFlit := { seq := q, ftype := ftype, vc := vc, slip := s.1, crVc := cr.1, crCnt := cr.2, payload := payload }
  let x := { s.2 with
      freed := setAt s.2.freed cr.1 (nth4 s.2.freed cr.1 - cr.2), replay := s.2.replay ++ [f],
      progress := if s.2.replay.isEmpty then d.tb else s.2.progress}
  let d := setSeqTx (setLq d g x) g ((q + 1) % seqMod d g)
  emitFlit d g ftype vc q cr.1 cr.2 s.1 payload

/-- Resend the flit with a number, and move on to the one after it (R371, R379). -/
def sendReplay (d : Dev) (g : Nat) (f : OFlit) : Dev :=
  let x := getLq d g
  let rest := (x.replay.dropWhile (fun y => y.seq != f.seq)).drop 1
  emitFlit (setLq d g { x with resend := rest.head?.map (·.seq) }) g f.ftype f.vc f.seq f.crVc f.crCnt f.slip f.payload

/-- Send an unsequenced flit, which carries the next number to be used (R361). -/
def sendPlain (d : Dev) (g ftype : Nat) (payload : List Byte) : Dev := emitFlit d g ftype 0 (seqTx d g) 0 0 none payload

/-- The messages that fit into one LINK payload, and those that wait. -/
def packMsgs : Nat → List (List Byte) → List Byte × List (List Byte)
  | _, [] => ([], [])
  | room, m :: ms => if m.length ≤ room then let r := packMsgs (room - m.length) ms; (m ++ r.1, r.2) else ([], m :: ms)

/-- The first payload of a VC waits with enough credits: one, or two to enter a direction (R371, R406). -/
def vcReady (d : Dev) (g v : Nat) : Bool :=
  match (getLq d g).txq.find? (fun c => c.1 % 4 == v) with
  | some c => decide (c.1 / 4 + 1 ≤ lqCredits d g v)
  | none => false

/-- The VC whose payload goes next: VC1 first, then VC0, VC2 and VC3 in rotation; one with no payload or no credit is
passed over (R371). -/
def nextVc (d : Dev) (g : Nat) : Option Nat :=
  if vcReady d g 1 then some 1
  else ((List.range 3).map (fun i => [0, 2, 3].getD (((getLq d g).rot + i) % 3) 0)).find? (vcReady d g)

/-- Send one DATA flit of a VC: a credit is spent (R370). -/
def sendData (d : Dev) (g v : Nat) : Dev :=
  let x := getLq d g
  match x.txq.find? (fun c => c.1 % 4 == v) with
  | none => d
  | some c =>
    let rot := if v = 0 then 1 else if v = 2 then 2 else if v = 3 then 0 else x.rot
    let d := setLq d g { x with txq := x.txq.erase c, sent := add4 x.sent v 1, rot := rot }
    sendNew (setCredits d g v (lqCredits d g v - 1)) g 1 v c.2

/-- One block of an ACTIVE link, in the order of R371. -/
def sendActive (d : Dev) (g : Nat) : Dev :=
  let x := getLq d g
  let again := x.resend.bind (fun q => x.replay.find? (fun f => f.seq == q))
  match again with
  | some f => sendReplay d g f
  | none =>
    if 819 ≤ x.replay.length then sendPlain d g 0 []
    else if !x.mgmt.isEmpty then
      let p := packMsgs 288 x.mgmt
      sendNew (setLq d g { x with mgmt := p.2 }) g 2 0 p.1
    else match nextVc d g with
      | some v => sendData d g v
      | none =>
        if !x.slips.isEmpty || (creditToReturn x).2 != 0 then sendNew d g 3 0 [] else sendPlain d g 0 []

/-- One block of a through path: DATA of its VC, numbered from 0 at entry, with no ack and no credit (R391). -/
def sendPath (d : Dev) (g : Nat) : Dev :=
  let x := getLq d g
  match x.txq.find? (fun c => c.1 % 4 == x.pathVc) with
  | none => emit d (.fibre g 2 ((encodeLanes (blockNow d) (flitBytes false 0 0 0 0 x.pathSeq 0 0 0 0 [])).flatten))
  | some c =>
    emit (setLq d g { x with txq := x.txq.erase c, pathSeq := (x.pathSeq + 1) % 2 ^ 24 })
      (.fibre g 2 ((encodeLanes (blockNow d) (flitBytes false 1 x.pathVc 0 0 x.pathSeq 0 0 0 0 c.2)).flatten))

/-- The free receive buffers of a VC (Table 11.10). -/
def freeBuffers (d : Dev) (g v : Nat) : Nat := nth4 (getLq d g).windows v - occupied (getLq d g) v

/-- The lane map of a fibre's receive side, 5 bits a lane (R352, Table 10.13). -/
def laneMap (d : Dev) (g : Nat) : Nat :=
  let w0 := (rdReg d Reg.LE_CAL_LANEMAP0 (lqIx g)).toNat % 2 ^ 30
  let w1 := (rdReg d Reg.LE_CAL_LANEMAP1 (lqIx g)).toNat % 2 ^ 30
  let w2 := (rdReg d Reg.LE_CAL_LANEMAP2 (lqIx g)).toNat % 2 ^ 30
  w0 + w1 * 2 ^ 30 + w2 * 2 ^ 60

/-- This end's TRAIN_PARAM (Table 11.10). -/
def trainParam (e : Env) (d : Dev) (g : Nat) : List Byte :=
  let x := getLq d g
  leBytes 8 (ownId e) ++ leBytes 1 0x20 ++ leBytes 1 (bit x.fresh + 2 * bit x.peer.isSome + 4) ++
    leBytes 3 (lastAcc d g) ++ leBytes 3 (seqTx d g) ++ leBytes 12 (laneMap d g) ++
    ((List.range 4).map (fun v => leBytes 2 (freeBuffers d g v))).flatten ++ leBytes 4 x.aligned ++ leBytes 8 0

/-- Training blocks on every lane (R382). -/
def sendTraining (d : Dev) (g : Nat) : Dev :=
  let x := getLq d g
  let n := blockNow d
  emit d (.fibre g 1 (((List.range 18).map (fun l => trainBlock l x.phase (decide (16 ≤ ones 18 x.aligned)) n)).flatten))

/-- OQ_BLOCK_SEND (R358-R361, R371, R372, R382, R387): what this end sends in one block instant. -/
def execOqBlockSend (g : Fin 128) (s : State) : Host.Outcome State Fault Refusal :=
  s.run (fun e d =>
    let x := getLq d g.val
    let st := lqState d g.val
    if st = 0 then d
    else if tbit (lqStat d g.val Fld.LQ_STAT_path) 0 then sendPath d g.val
    else if st = 5 then sendActive d g.val
    else if st = 8 then sendPlain d g.val 0 []
    else if (st = 6 ∨ st = 7) ∧ blockNow d % 400 = 0 then sendPlain d g.val 4 []
    else if x.phase = 3 then sendPlain d g.val 2 (leBytes 4 (1 + 256 * 48) ++ trainParam e d g.val)
    else if x.phase = 4 then
      let p := packMsgs 288 x.mgmt
      sendPlain (setLq d g.val { x with mgmt := p.2 }) g.val 2 p.1
    else sendTraining d g.val)

/-! ### Receiving (R362-R365, R378) -/

/-- A loss of block lock (R363): counted. -/
def noteLockLoss (d : Dev) (g : Nat) : Dev := fincSat d Reg.LQ_EVENTS (lqIx g) Fld.LQ_EVENTS_lock_losses 1

/-- The receiver asks for a resend, unless it has done so within RTT + 200 ns (R378). -/
def askResend (d : Dev) (g : Nat) : Dev :=
  let x := getLq d g
  let again := match x.nakAt with
    | none => true
    | some t => decide (t + fget d Reg.LQ_RTT (lqIx g) Fld.LQ_RTT_rtt_ns + 200 ≤ d.tb)
  if again then setLq d g { x with nakOut := true, nakAt := none } else d

/-- A decoded flit's fields (Table 11.2). -/
def fType (b : List Byte) : Nat := bits (leNat (b.take 8)) 2 0
def fVc (b : List Byte) : Nat := bits (leNat (b.take 8)) 4 3
def fNak (b : List Byte) : Bool := tbit (leNat (b.take 8)) 5
def fSkind (b : List Byte) : Nat := bits (leNat (b.take 8)) 7 6
def fSeq (b : List Byte) : Nat := bits (leNat (b.take 8)) 31 8
def fAck (b : List Byte) : Nat := bits (leNat (b.take 8)) 55 32
def fCrVc (b : List Byte) : Nat := bits (leNat (b.take 8)) 57 56
def fCrCnt (b : List Byte) : Nat := bits (leNat (b.take 8)) 63 58
def fSlip (b : List Byte) : Nat := leNat (slice b 8 8)
def fPayload (b : List Byte) : List Byte := slice b 16 288

/-- CODE_BLOCK_RECEIVE (R355-R357, R362, R364, Table 11.5): the 18 lanes of a block, with the block number that the
receiver tracks. -/
def execCodeBlockReceive (g : Fin 128) (n : BitVec 24) (lanes : List (List Byte)) (s : State) :
    Host.Outcome State Fault Refusal :=
  s.run (fun _ d =>
    let er := lanesOf (erasure d g.val)
    if lqState d g.val = 0 ∨ unreadable d g.val = true then d
    else
      let cols := blockColumns n.toNat lanes
      let r := decodeColumns er cols
      let good := match r.flit with
        | some f => crcOk f && decide (fType f ≤ 4) && !(lqOq1 d g.val && fType f == 1 && fVc f == 2)
        | none => false
      let fixes := if good || er.length != 1 then 0 else
        (List.range 18).foldl (fun m l =>
          if er.contains l then m
          else match (decodeColumns (er ++ [l]) cols).flit with
            | some f => if crcOk f then m + 2 ^ l else m
            | none => m) 0
      let d := if r.count = 0 then d else fincSat d Reg.LQ_ERR (lqIx g.val) Fld.LQ_ERR_corrected r.count
      let x := getLq d g.val
      let note : BlockNote := { corrected := r.corrected, bad := r.flit.isNone, fixes := fixes }
      let x := { x with hist := note :: x.hist.take 31 }
      let path := pathRx d g.val
      let locked := fbit d Reg.LQ_PATH_STAT (lqIx g.val) Fld.LQ_PATH_STAT_locked
      if good then
        let x := { x with got := r.flit, discards := 0, pathRun := x.pathRun + 1 }
        let d := setLq d g.val x
        if path && decide (8 ≤ x.pathRun) then fset d Reg.LQ_PATH_STAT (lqIx g.val) Fld.LQ_PATH_STAT_locked 1 else d
      else
        let d := fincSat (setLq d g.val { x with discards := min 64 (x.discards + 1), pathRun := 0, got := none })
          Reg.LQ_ERR (lqIx g.val) Fld.LQ_ERR_check_fail 1
        if path && locked then
          fincSat (setLq d g.val { getLq d g.val with pathFails := (getLq d g.val).pathFails + 1 })
            Reg.LQ_PATH_STAT (lqIx g.val) Fld.LQ_PATH_STAT_lost 1
        else if path then d
        else if lqActive d g.val then askResend d g.val else d)

/-- The sender acts on an ack: flits it covers leave the replay buffer (R377, R379). -/
def takeAck (d : Dev) (g a : Nat) : Dev :=
  let x := getLq d g
  let m := seqMod d g
  let a := if lqOq1 d g then a % 2 ^ 16 else a
  let keep := x.replay.filter (fun f => !(seqAfter m a f.seq))
  if keep.length = x.replay.length then d
  else setLq d g { x with
      replay := keep, progress := d.tb,
      resend := x.resend.bind (fun q => if keep.any (fun f => f.seq == q) then some q else keep.head?.map (·.seq))}

/-- Cut a LINK payload into its messages (Table 11.9); a reserved type ends the list. -/
def cutMsgs : Nat → List Byte → List (List Byte) × Bool
  | 0, _ => ([], false)
  | fuel + 1, b =>
    let ty := leNat (b.take 1)
    let len := leNat (slice b 1 1)
    let step := 4 + (len + 3) / 4 * 4
    if b.length < 4 ∨ ty = 0 then ([], false)
    else if 0x0A < ty then ([], true)
    else let r := cutMsgs fuel (b.drop step); (b.take step :: r.1, r.2)

/-- The coordinates and sizes of the four dimensions (R396). -/
def dimSize (d : Dev) (i : Nat) : Nat := fget d Reg.FAB_DIM [i] Fld.FAB_DIM_size_m1 + 1
def dimCoord (d : Dev) (i : Nat) : Nat := fget d Reg.FAB_DIM [i] Fld.FAB_DIM_coord

/-- Table mode (R397). -/
def tableMode (d : Dev) : Bool := fbit d Reg.FAB_CFG [] Fld.FAB_CFG_mode

/-- The node identity (R395): computed from the coordinates in torus mode (R396). -/
def ownNode (d : Dev) : Nat :=
  if tableMode d then fget d Reg.FAB_ID [] Fld.FAB_ID_node
  else (dimCoord d 0 + dimSize d 0 * (dimCoord d 1 + dimSize d 1 * (dimCoord d 2 + dimSize d 2 * dimCoord d 3))) % 2 ^ 16

/-- A discarded control slip, message or malformed cell is counted (Table 12.21). -/
def countCtl (d : Dev) : Dev := fincSat d Reg.FAB_ERR [] Fld.FAB_ERR_ctl 1

/-- A control slip that this node does not take: another node's, or a reserved code (R400). -/
def badCtl (d : Dev) (w : Nat) : Bool :=
  bits w 15 0 != ownNode d || bits w 19 16 == 0 || decide (0xA ≤ bits w 19 16)

/-- Hand the messages of a LINK payload to the layers that act on them; a FABRIC message with a reserved subtype is
ignored and counted (R401). -/
def takeMsgs (d : Dev) (g : Nat) (payload : List Byte) : Dev :=
  let r := cutMsgs 72 payload
  let bad (m : List Byte) : Bool := leNat (m.take 1) == 0x0A && !(decide (1 ≤ leNat (slice m 4 1)) && decide (leNat (slice m 4 1) ≤ 5))
  let x := getLq d g
  let d := setLq d g { x with rxMsgs := x.rxMsgs ++ r.1.filter (fun m => !(bad m)) }
  let d := (r.1.filter bad).foldl (fun d _ => countCtl d) d
  if r.2 then fincSat d Reg.LQ_ERR (lqIx g) Fld.LQ_ERR_check_fail 1 else d

/-- Accept a sequenced flit: the sequence number, the credits, the slip and the payload (R370, R373, R378). -/
def acceptFlit (d : Dev) (g : Nat) (b : List Byte) : Dev :=
  let d := setSeqRx d g ((seqRx d g + 1) % seqMod d g)
  let v := fCrVc b
  let d := setCredits d g v (min (lqCredits d g v + fCrCnt b) 0xFFF)
  let x := getLq d g
  let x := { x with nakOut := false, nakAt := none }
  let bad := fSkind b == 2 && badCtl d (fSlip b)
  let x := if (fSkind b = 1 ∨ fSkind b = 2) ∧ bad = false then { x with rxSlips := x.rxSlips ++ [(fSkind b, fSlip b)] }
    else x
  let x := if fType b = 1 then
      { x with rxCells := x.rxCells ++ [(fVc b, fPayload b)], acc := add4 x.acc (fVc b) 1 } else x
  let d := setLq d g x
  let d := if bad then countCtl d else d
  if fType b = 2 then takeMsgs d g (fPayload b) else d

/-- OQ_FLIT_ACCEPT (R361, R378): a checked flit is accepted in order, or is a duplicate, or asks for a resend. -/
def execOqFlitAccept (g : Fin 128) (s : State) : Host.Outcome State Fault Refusal :=
  s.run (fun _ d =>
    let x := getLq d g.val
    match x.got with
    | none => d
    | some b =>
      if pathRx d g.val || fType b == 4 then d
      else
        let d := setLq d g.val { x with got := none }
        if lqState d g.val = 5 ∨ lqState d g.val = 8 then
          if fType b = 0 then
            let d := takeAck d g.val (fAck b)
            if fNak b then setLq d g.val { getLq d g.val with nakIn := true } else d
          else
            let m := seqMod d g.val
            let q := if lqOq1 d g.val then fSeq b % 2 ^ 16 else fSeq b
            if q = seqRx d g.val then
              let d := takeAck (acceptFlit d g.val b) g.val (fAck b)
              if fNak b then setLq d g.val { getLq d g.val with nakIn := true } else d
            else if seqAfter m q (seqRx d g.val) then askResend d g.val
            else d
        else if fType b = 2 ∧ (x.phase = 3 ∨ x.phase = 4) then takeMsgs d g.val (fPayload b)
        else d)

/-- OQ_NAK (R379): the sender resends from ack + 1. -/
def execOqNak (g : Fin 128) (s : State) : Host.Outcome State Fault Refusal :=
  s.run (fun _ d =>
    let x := getLq d g.val
    if x.nakIn then
      let d := setLq d g.val { x with nakIn := false, resend := x.replay.head?.map (·.seq) }
      if x.replay.isEmpty then d else fincSat d Reg.LQ_REPLAY (lqIx g.val) Fld.LQ_REPLAY_replays 1
    else d)

/-- OQ_REPLAY_TIMER (R379): no ack progress for 2 × RTT + 1 µs; not while the link is in path mode (R391). -/
def execOqReplayTimer (g : Fin 128) (s : State) : Host.Outcome State Fault Refusal :=
  s.run (fun _ d =>
    let x := getLq d g.val
    if x.replay.isEmpty || lqStat d g.val Fld.LQ_STAT_path != 0 || !(lqActive d g.val) then d
    else fincSat (setLq d g.val { x with resend := x.replay.head?.map (·.seq), progress := d.tb })
      Reg.LQ_REPLAY (lqIx g.val) Fld.LQ_REPLAY_replays 1)

/-! ### Lanes -/

/-- With one lane erased, the lowest other lane whose erasure made four successive failing flits pass (R363). -/
def causeLane (x : Lq) : Option Nat :=
  let bad := (x.hist.filter (·.bad)).map (·.fixes)
  lowest 18 (fun l => (List.range (bad.length - 3)).any (fun i => 4 ≤ bad.length && (slice bad i 4).all (fun m => tbit m l)))

/-- A cause of R363 holds for a lane: 1, 2 and 3 are events of the controller and the front end. Cause 0 is R391's: a lane that has
not locked to the source of a through path. -/
def eraseCause (d : Dev) (g lane cause : Nat) : Bool :=
  let x := getLq d g
  let er := ones 18 (erasure d g)
  if cause = 4 then er == 0 && decide (8 ≤ (x.hist.filter (fun h => tbit h.corrected lane)).length)
  else if cause = 5 then er == 1 && decide (8 ≤ (x.hist.filter (·.bad)).length) && causeLane x == some lane
  else if cause = 0 then pathRx d g
  else decide (cause ≤ 3)

/-- A lane enters E (R363, R367). -/
def eraseLane (d : Dev) (g lane : Nat) : Dev :=
  let m := erasure d g
  if tbit m lane then d
  else
    let d := setErasure d g (m + 2 ^ lane)
    setLq d g { getLq d g with hist := [], discards := 0 }

/-- LANE_ERASE (R363, R367). -/
def execLaneErase (g : Fin 128) (lane : Fin 18) (cause : Fin 6) (s : State) : Host.Outcome State Fault Refusal :=
  s.run (fun _ d =>
    if inGap d g.val || !(eraseCause d g.val lane.val cause.val) then d
    else
      let d := if 3 ≤ cause.val then noteLockLoss d g.val else d
      eraseLane d g.val lane.val)

/-- A lane leaves E if that is admitted (R364, R365): not in a Gap (R367) or without light (R368), nor while E holds three or more. -/
def readmitLane (d : Dev) (g lane : Nat) : Dev :=
  let m := erasure d g
  if inGap d g || decide (2 < ones 18 m) || !(tbit m lane) || lqStat d g Fld.LQ_STAT_los == 1 then d
  else setLq (setErasure d g (m - 2 ^ lane)) g { getLq d g with hist := [], discards := 0 }

/-- LANE_READMIT (R365): a lane has passed the lock test and regained block lock. -/
def execLaneReadmit (g : Fin 128) (lane : Fin 18) (s : State) : Host.Outcome State Fault Refusal :=
  s.run (fun _ d => readmitLane d g.val lane.val)

/-- BLOCK_LOCK_TIMEOUT (R365): a lane in E has not regained block lock within 100 µs, and is reported once more. -/
def execBlockLockTimeout (g : Fin 128) (lane : Fin 18) (s : State) : Host.Outcome State Fault Refusal :=
  s.run (fun _ d => if tbit (erasure d g.val) lane.val then noteLockLoss d g.val else d)

/-! ### Training -/

/-- The windows pass the check of R369. -/
def windowsOk (d : Dev) (g : Nat) : Bool :=
  let ws := (List.range 4).map (lqWindow d g)
  ws.all (fun w => decide (4 ≤ w)) && decide (ws.foldl (· + ·) 0 ≤ 2048)

/-- Set the state of a link, as its trace shows (Table 17.4). -/
def setLqState (d : Dev) (g v : Nat) : Dev :=
  let d := if lqState d g = v then d else traceEv d (36 + g / 8) 0x20 (g % 8) 0 v
  setLqStat d g Fld.LQ_STAT_state v

/-- Set the phase of training; a link in HOLD or DOWN keeps that state until ACTIVE (R388). -/
def setPhase (d : Dev) (g p : Nat) : Dev :=
  let st := lqState d g
  let d := setLq d g { getLq d g with phase := p }
  if (st = 6 ∨ st = 7) ∧ p ≠ 5 then d else setLqState d g p

/-- Enter WAIT (R369, R381): training starts again, every lane to be aligned; windows are checked, sequence numbers,
replay buffer and accepted flits stay. -/
def linkWait (d : Dev) (g : Nat) : Dev :=
  let x := getLq d g
  let ok := windowsOk d g
  let d := if ok then d else setLqStat d g Fld.LQ_STAT_cfg_err 1
  let d := setLq d g { x with
      aligned := 0, peerAck := false, peer := none, seen := false, swapOpen := false, got := none,
      mgmt := [], rxMsgs := [], hist := [], discards := 0, resend := none, nakIn := false, nakOut := false, nakAt := none,
      windows := if ok then (List.range 4).map (lqWindow d g) else x.windows}
  setPhase d g 1

/-- A retrain (R381): counted, and back to WAIT. -/
def linkRetrain (d : Dev) (g : Nat) : Dev := linkWait (fincSat d Reg.LQ_EVENTS (lqIx g) Fld.LQ_EVENTS_retrains 1) g

/-- A retrain is wanted at this end (R381, R385): the lead starts it, a follow asks for it. -/
def wantRetrain (d : Dev) (g reason : Nat) : Dev :=
  if !(lqActive d g) then d
  else if lqLead d g then linkRetrain d g
  else queueMsg d g 0x09 (leBytes 1 reason)

/-- LQ_RETRAIN (R381): the lead decides on a retrain. -/
def execLqRetrain (g : Fin 128) (s : State) : Host.Outcome State Fault Refusal :=
  s.run (fun _ d => if lqActive d g.val && lqLead d g.val then linkRetrain d g.val else d)

/-- OQ_RETRAIN_REQ (R385): the follow's request has arrived at the lead. -/
def execOqRetrainReq (g : Fin 128) (s : State) : Host.Outcome State Fault Refusal :=
  s.run (fun _ d => match takeMsg d g.val 0x09 with
    | some (_, d) => if lqActive d g.val && lqLead d g.val then linkRetrain d g.val else d
    | none => d)

/-- A training attempt fails (Table 11.8): back to WAIT, counted, with its reason. -/
def trainFail (d : Dev) (g reason : Nat) : Dev :=
  let d := setLqStat d g Fld.LQ_STAT_fail_reason reason
  linkWait (fincSat d Reg.LQ_STAT (lqIx g) Fld.LQ_STAT_attempts 1) g

/-- The receive rings of a fibre that are LOCKED (Table 10.14). -/
def lockedRings (d : Dev) (g : Nat) : Nat :=
  ((List.range 20).filter (fun r =>
    fget d Reg.LE_CAL_RSTATE [g / 8, 40 * (g % 8) + 20 + r] Fld.LE_CAL_RSTATE_state == 2)).length

/-- Training blocks received on a link in ALIGN: lanes align, and with both ends' acks PARAM begins (R382). -/
def alignLanes (d : Dev) (g : Nat) (lanes : List (List Byte)) : Dev :=
  let x := getLq d g
  let ok := (List.range 18).filter (fun l => trainOk l (lanes.getD l []))
  let blk (l : Nat) : Nat := bits (leNat (lanes.getD l [])) 65 42
  let n := (ok.head?.map blk).getD 0
  let ok := ok.filter (fun l => blk l == n)
  let x := { x with
      aligned := ok.foldl (fun m l => m ||| 2 ^ l) x.aligned,
      peerAck := x.peerAck || ok.any (fun l => tbit (leNat (lanes.getD l [])) 41)}
  let d := setLq d g x
  if 16 ≤ ones 18 x.aligned ∧ x.peerAck then
    setPhase (setErasure d g (2 ^ 18 - 1 - x.aligned)) g 3
  else d

/-- TRAINING_BLOCK_ALIGN (R382): training blocks arrive; a link in WAIT with 16 receive rings locked and light present
enters ALIGN, and an ACTIVE link whose peer sends them trains again. -/
def execTrainingBlockAlign (g : Fin 128) (lanes : List (List Byte)) (s : State) : Host.Outcome State Fault Refusal :=
  s.run (fun _ d =>
    let d := if (lqActive d g.val || lqState d g.val == 8) &&
        decide (16 ≤ ((List.range 18).filter (fun l => trainOk l (lanes.getD l []))).length)
      then linkWait d g.val else d
    let d := if (getLq d g.val).phase = 1 ∧ 16 ≤ lockedRings d g.val ∧ lqStat d g.val Fld.LQ_STAT_los = 0
      then setPhase d g.val 2 else d
    if (getLq d g.val).phase = 2 then alignLanes d g.val lanes else d)

/-- TRAINING_TIMER (Table 11.8): the timer of ALIGN, PARAM or RTT expires. -/
def execTrainingTimer (g : Fin 128) (s : State) : Host.Outcome State Fault Refusal :=
  s.run (fun _ d =>
    let p := (getLq d g.val).phase
    if 2 ≤ p ∧ p ≤ 4 then trainFail d g.val 1 else d)

/-! ### Credits -/

/-- CREDIT_AUDIT_PERIOD (R375): the receiver sends A, O and P of each VC, taken in one action. -/
def execCreditAuditPeriod (g : Fin 128) (s : State) : Host.Outcome State Fault Refusal :=
  s.run (fun _ d =>
    let x := getLq d g.val
    if !(lqActive d g.val) || lqOq1 d g.val then d
    else queueMsg d g.val 0x04 ((List.range 4).map (fun v =>
      leBytes 6 (nth4 x.acc v + occupied x v % 2 ^ 12 * 2 ^ 24 + nth4 x.freed v % 2 ^ 12 * 2 ^ 36))).flatten)

/-- The deficit of one VC, from a CREDIT_CHECK body (R375, R376). -/
def checkVc (g : Nat) (body : List Byte) (v : Nat) (d : Dev) : Dev :=
  let w := leNat (slice body (6 * v) 6)
  let x := getLq d g
  let inFlight := (nth4 x.sent v + 2 ^ 24 - bits w 23 0) % 2 ^ 24
  let win := nth4 x.windows v
  let have_ := lqCredits d g v + inFlight + bits w 35 24 + bits w 47 36
  let deficit := win - have_
  let d := fset d Reg.LQ_DEFICIT [g / 8, g % 8, v] Fld.LQ_DEFICIT_deficit deficit
  let low := decide ((win - deficit) * 4 < win * 3)
  let d := setLq d g { x with fell := (List.range 4).map (fun u => if u = v then low else x.fell.getD u false) }
  if low && !(x.fell.getD v false) then
    report (fset d Reg.LQ_DEFICIT [g / 8, g % 8, v] Fld.LQ_DEFICIT_low75 1)
      { source := 0x05, unit := unitLe (g / 8), stat := Reg.LQ_DEFICIT.slot [g / 8, g % 8, v] }
  else d

/-- Some VC's usable window is below half (R376). -/
def belowHalf (d : Dev) (g : Nat) : Bool :=
  (List.range 4).any (fun v =>
    let w := nth4 (getLq d g).windows v
    decide ((w - fget d Reg.LQ_DEFICIT [g / 8, g % 8, v] Fld.LQ_DEFICIT_deficit) * 2 < w))

/-- CREDIT_CHECK (R375, R376): the sender computes each VC's deficit; below half the window the link retrains. -/
def execCreditCheck (g : Fin 128) (s : State) : Host.Outcome State Fault Refusal :=
  s.run (fun _ d => match takeMsg d g.val 0x04 with
    | none => d
    | some (body, d) =>
      let d := (List.range 4).foldl (fun d v => checkVc g.val body v d) d
      if belowHalf d g.val then wantRetrain d g.val 1 else d)

/-- SLIP_QUEUE (R372, R373): a slip is queued on a fibre; with 64 waiting its producer waits. -/
def execSlipQueue (g : Fin 128) (kind : Fin 4) (value : BitVec 64) (s : State) : Host.Outcome State Fault Refusal :=
  s.run (fun _ d => if kind.val = 1 ∨ kind.val = 2 then queueSlip d g.val { kind := kind.val, value := value.toNat } else d)

/-! ### Roles -/

/-- The peer's package identity, from its TRAIN_PARAM. -/
def peerId (d : Dev) (g : Nat) : Nat := leNat (((getLq d g).peer.getD []).take 8)

/-- Software writes LQ_CTL.swap. -/
def proposeSwap (d : Dev) (g : Nat) : Dev :=
  if lqActive d g && !(lqOq1 d g) then
    setLq (queueMsg d g 0x07 []) g { getLq (queueMsg d g 0x07 []) g with swapOpen := true }
  else setLqStat d g Fld.LQ_STAT_swap 3

/-- Run a write of a fibre's link registers if the path is admitted (R452): a port must own the trunk. -/
def onFibreReg (d : Dev) (p : Path) (g addr : Nat) (f : Dev → Dev) : Dev :=
  if pathOwns d p (partOfTrunk d (g / 16)) then f d else regEvent d p addr

/-- ROLE_SWAP_PROPOSE (R386). -/
def execRoleSwapPropose (p : Path) (g : Fin 128) (s : State) : Host.Outcome State Fault Refusal :=
  s.run (fun _ d => if portHalted d p then d else onFibreReg d p g.val (Reg.LQ_CTL.key (lqIx g.val)) (fun d => proposeSwap d g.val))

/-- ROLE_SWAP (R386): a proposal from the peer is answered, or meets this end's own. -/
def execRoleSwap (g : Fin 128) (s : State) : Host.Outcome State Fault Refusal :=
  s.run (fun e d => match takeMsg d g.val 0x07 with
    | none => d
    | some (_, d) =>
      let x := getLq d g.val
      if x.swapOpen then
        let d := setLqStat (setLq d g.val { x with swapOpen := false }) g.val Fld.LQ_STAT_swap 2
        setLqStat d g.val Fld.LQ_STAT_lead (bit (decide (ownId e < peerId d g.val)))
      else
        let d := queueMsg d g.val 0x08 []
        setLqStat (setLqStat d g.val Fld.LQ_STAT_lead (bit (!(lqLead d g.val)))) g.val Fld.LQ_STAT_swap 1)

/-- ROLE_ACK (R386): the peer has agreed, and the roles swap. -/
def execRoleAck (g : Fin 128) (s : State) : Host.Outcome State Fault Refusal :=
  s.run (fun _ d => match takeMsg d g.val 0x08 with
    | none => d
    | some (_, d) =>
      let x := getLq d g.val
      if x.swapOpen then
        let d := setLqStat (setLq d g.val { x with swapOpen := false }) g.val Fld.LQ_STAT_swap 1
        setLqStat d g.val Fld.LQ_STAT_lead (bit (!(lqLead d g.val)))
      else d)

/-! ### Path mode -/

/-- The light engines are in the conservative profile (R293, LE_STAT.profile of Table 9.13). -/
def conservative (d : Dev) (k : Nat) : Bool := fbit d Reg.LE_STAT [k] Fld.LE_STAT_profile

/-- Apply a path mode to a fibre pair (R391): entry numbers from 0; the return to HOME replays from ack + 1. -/
def applyPath (d : Dev) (g mode vc : Nat) : Dev :=
  let x := getLq d g
  let old := lqStat d g Fld.LQ_STAT_path
  let x := { x with
      pathVc := vc,
      pathSeq := if tbit mode 0 && !(tbit old 0) then 0 else x.pathSeq,
      pathExp := if tbit mode 1 && !(tbit old 1) then 0 else x.pathExp,
      pathRun := 0, pathFails := 0, got := none, nakOut := false, nakAt := none,
      progress := d.tb,
      resend := if mode = 0 then x.replay.head?.map (·.seq) else x.resend}
  let d := fset (setLq d g x) Reg.LQ_PATH_STAT (lqIx g) Fld.LQ_PATH_STAT_locked 0
  setLqStat d g Fld.LQ_STAT_path mode

/-- Path mode is asked for on a fibre pair (R390): refused on OQ1 or in the conservative profile, else applied at once
or at an instant. -/
def askPath (d : Dev) (g mode vc : Nat) (at_ : Option Nat) : Bool × Dev :=
  if lqOq1 d g || conservative d (g / 8) then (false, setLqStat d g Fld.LQ_STAT_fail_reason 4)
  else match at_ with
    | some t => (true, if d.tb < t then setLq d g { getLq d g with pathPend := some (t, mode, vc) } else applyPath d g mode vc)
    | none => (true, applyPath d g mode vc)

/-- LQ_PATH_GO (R390): a write of LQ_PATH_CTL; with go its values are taken. -/
def lqPathWrite (d : Dev) (g : Nat) (data : Word) : Dev :=
  let d := Reg.LQ_PATH_CTL.store d (lqIx g) false data
  if Fld.LQ_PATH_CTL_go.get data = 1 then
    let t := pair64 (rdReg d Reg.LQ_PATH_TIME_LO (lqIx g)) (rdReg d Reg.LQ_PATH_TIME_HI (lqIx g))
    (askPath d g (Fld.LQ_PATH_CTL_mode.get data) (Fld.LQ_PATH_CTL_vc.get data)
      (if Fld.LQ_PATH_CTL_at_time.get data = 1 then some t else none)).2
  else d

/-- LQ_PATH_GO (R390). -/
def execLqPathGo (p : Path) (g : Fin 128) (data : Word) (s : State) : Host.Outcome State Fault Refusal :=
  s.run (fun _ d => if portHalted d p then d else onFibreReg d p g.val (Reg.LQ_PATH_CTL.key (lqIx g.val)) (fun d => lqPathWrite d g.val data))

/-- PATH_MODE_APPLY (R390, R391): the apply instant has come. -/
def execPathModeApply (g : Fin 128) (s : State) : Host.Outcome State Fault Refusal :=
  s.run (fun _ d =>
    match (getLq d g.val).pathPend with
    | none => d
    | some (t, mode, vc) =>
      if d.tb < t then d else applyPath (setLq d g.val { getLq d g.val with pathPend := none }) g.val mode vc)

/-- PATH_FLIT_RECEIVE (R391): a checked flit of a locked through path is delivered; the numbers missing before it are lost, and are
counted unless their flits have counted as failing the check. -/
def execPathFlitReceive (g : Fin 128) (s : State) : Host.Outcome State Fault Refusal :=
  s.run (fun _ d =>
    let x := getLq d g.val
    match x.got with
    | none => d
    | some b =>
      if !(pathRx d g.val) || !(fbit d Reg.LQ_PATH_STAT (lqIx g.val) Fld.LQ_PATH_STAT_locked) || fType b != 1 then d
      else
        let gap := (fSeq b + 2 ^ 24 - x.pathExp) % 2 ^ 24
        if 2 ^ 23 ≤ gap then setLq d g.val { x with got := none }
        else
          let d := setLq d g.val { x with
              got := none, pathExp := (fSeq b + 1) % 2 ^ 24, rxPath := x.rxPath ++ [(fVc b, fPayload b)], pathFails := 0,
              pathLost := x.pathLost ++ (List.range (min gap 0xFFFF)).map (fun i => (x.pathExp + i) % 2 ^ 24)}
          if gap ≤ x.pathFails then d else fincSat d Reg.LQ_PATH_STAT (lqIx g.val) Fld.LQ_PATH_STAT_lost (gap - x.pathFails))

end Sys2Proof.Machine
end

