-- ==== Sys2Proof/Machine/Route.lean ====
section
/-!
DEFINITION. The routing stage (R402-R411): cells, usable fibres, dimension order and table routing, discards, the
remote transaction table, and what a flush of a link does to what it held (R389).
-/
namespace Sys2Proof.Machine

/-! ### Cells -/

/-- A cell (Table 12.4). -/
structure Cell where
  dst : Nat
  src : Nat
  kind : Nat
  detour : Bool := false
  first : Bool := true
  last : Bool := true
  hops : Nat := 0
  tag : Nat := 0
  object : Nat := 0
  value : Nat := 0
  data : List Byte := []
deriving DecidableEq, Repr

/-- Read a payload as a cell. -/
def cellOf (b : List Byte) : Cell :=
  let h := leNat (b.take 16)
  { dst := bits h 15 0, src := bits h 31 16, kind := bits h 35 32, detour := tbit h 36, first := tbit h 37,
    last := tbit h 38, hops := bits h 47 40, tag := bits h 79 64, object := bits h 95 80, value := bits h 127 96,
    data := slice b 16 272}

/-- The payload of a cell. -/
def Cell.bytes (c : Cell) : List Byte :=
  leBytes 16 (c.dst + c.src * 2 ^ 16 + c.kind * 2 ^ 32 + bit c.detour * 2 ^ 36 + bit c.first * 2 ^ 37 +
    bit c.last * 2 ^ 38 + c.hops * 2 ^ 40 + c.tag * 2 ^ 64 + c.object * 2 ^ 80 + c.value * 2 ^ 96) ++
    (c.data ++ leBytes (272 - c.data.length) 0)

/-- The VC of a cell kind (Table 12.5); none for a reserved kind. -/
def kindVc (k : Nat) : Option Nat :=
  if k = 1 ∨ k = 2 ∨ k = 3 then some 0 else if k = 4 ∨ k = 6 ∨ k = 7 then some 1 else if k = 5 then some 3 else none

/-- A response kind (CTR_RSP, PARCEL_RSP). -/
def isResponse (k : Nat) : Bool := k == 4 || k == 6

/-! ### Fibres -/

/-- The direction code of a fibre (R398). -/
def fibreDir (d : Dev) (g : Nat) : Nat := fget d Reg.FAB_FDIR [g] Fld.FAB_FDIR_dir

/-- The state of a fibre: 0 none, 1 OK, 2 MISWIRED (Table 12.23). -/
def fibreState (d : Dev) (g : Nat) : Nat := fget d Reg.FAB_FDIR [g] Fld.FAB_FDIR_state

/-- The peer's node identity, from the last HELLO. -/
def fibrePeer (d : Dev) (g : Nat) : Nat := fget d Reg.FAB_FDIR [g] Fld.FAB_FDIR_peer

/-- A fibre is usable: OK, and its link ACTIVE or DORMANT (R399). -/
def usable (d : Dev) (g : Nat) : Bool := fibreState d g == 1 && (lqState d g == 5 || lqState d g == 8)

/-- A fibre of a direction whose link is in HOLD: traffic for it waits (R403). -/
def holding (d : Dev) (g : Nat) : Bool := fibreState d g == 1 && lqState d g == 6

/-- The fibres that a cell of a direction may take, by rank: the usable ones; with none, those in HOLD (R403, R405). -/
def dirFibres (d : Dev) (dir : Nat) : List Nat :=
  let fs := (List.range 128).filter (fun g => fibreDir d g == dir)
  let us := fs.filter (usable d)
  if us.isEmpty then fs.filter (holding d) else us

/-- The direction that continues a cell arriving on a fibre: the opposite of the one the fibre serves (R398). -/
def throughDir (d : Dev) (g : Nat) : Nat :=
  let c := fibreDir d g
  if c = 0 then 0 else if c % 2 = 1 then c + 1 else c - 1

/-! ### The way of a cell -/

/-- Coordinate `i` of a node (R396). -/
def nodeCoord (d : Dev) (n i : Nat) : Nat :=
  n / ((List.range i).foldl (fun a j => a * dimSize d j) 1) % dimSize d i

/-- A dimension is a ring. -/
def isRing (d : Dev) (i : Nat) : Bool := tbit (fget d Reg.FAB_CFG [] Fld.FAB_CFG_wrap) i

/-- The direction a cell for a node takes in torus mode, whether it is a detour, and whether it enters the direction;
none with reason NOROUTE (R403). `came` is the direction that continues the cell's way, `det` its detour bit. -/
def torusDir (d : Dev) (dst came : Nat) (det : Bool) : Option (Nat × Bool) :=
  match lowest 4 (fun i => nodeCoord d dst i != dimCoord d i) with
  | none => none
  | some i =>
    let n := dimSize d i
    let x := dimCoord d i
    let y := nodeCoord d dst i
    let up := 1 + 2 * i
    let down := 2 + 2 * i
    let ring := isRing d i
    let best := if ring then (if 2 * ((y + n - x) % n) ≤ n then up else down) else (if x < y then up else down)
    let other := if best = up then down else up
    if det && (came == up || came == down) then
      (if (dirFibres d came).isEmpty then none else some (came, true))
    else if !(dirFibres d best).isEmpty then some (best, false)
    else if ring && !(dirFibres d other).isEmpty then some (other, true)
    else none

/-- The port of table mode (R404). -/
def tablePort (d : Dev) (dst : Nat) : Option Nat :=
  match lowest 64 (fun i => fbit d Reg.FAB_RTE1 [i] Fld.FAB_RTE1_en &&
      decide (fget d Reg.FAB_RTE0 [i] Fld.FAB_RTE0_lo ≤ dst) && decide (dst ≤ fget d Reg.FAB_RTE0 [i] Fld.FAB_RTE0_hi)) with
  | none => none
  | some i =>
    let p := fget d Reg.FAB_RTE1 [i] Fld.FAB_RTE1_port
    if (dirFibres d p).isEmpty then none else some p

/-- The fibre that the first cell of a message takes in a direction (R405). -/
def pickFibre (d : Dev) (came : Option Nat) (dir : Nat) (c : Cell) : Nat :=
  let all := dirFibres d dir
  let h := (c.src + 3 * c.dst + 7 * c.tag) % 65536
  let near := match came with
    | some g => if throughDir d g = dir then all.filter (fun x => x / 8 == g / 8) else []
    | none => []
  let fs := if near.isEmpty then all else near
  fs.getD (h % max fs.length 1) 0

/-- Where a cell goes: a fibre with the cell as it leaves and whether it enters a direction, or a reason of Table 12.5. -/
def routeCell (d : Dev) (came : Option Nat) (c : Cell) : Except Nat (Nat × Cell × Bool) :=
  let cd := match came with | some g => throughDir d g | none => 0
  let same (r : Route) : Bool := r.src == c.src && r.dst == c.dst && r.tag == c.tag && r.kind == c.kind
  let way : Except Nat (Nat × Cell) :=
    if tableMode d then
      let c := { c with hops := (c.hops + 1) % 256 }
      if fget d Reg.FAB_CFG [] Fld.FAB_CFG_hop_limit ≤ c.hops then .error 3
      else match tablePort d c.dst with | some p => .ok (p, c) | none => .error 1
    else match torusDir d c.dst cd c.detour with
      | some (dir, det) => .ok (dir, { c with detour := det })
      | none => .error 1
  match way with
  | .error r => if c.first then .error r else match d.fab.routes.find? same with
      | some _ => .error 2
      | none => .error r
  | .ok (dir, c') =>
    let to_ : Nat × Cell := match (if c.first then none else d.fab.routes.find? same) with
      | some r => (r.fibre, { c' with detour := r.detour })
      | none => (pickFibre d came dir c, c')
    if usable d to_.1 || holding d to_.1 then .ok (to_.1, to_.2, came.isNone || cd != fibreDir d to_.1) else .error 2

/-- Remember the fibre of a message until its last cell (R405). -/
def noteRoute (d : Dev) (c : Cell) (g : Nat) (det : Bool) : Dev :=
  let same (r : Route) : Bool := r.src == c.src && r.dst == c.dst && r.tag == c.tag && r.kind == c.kind
  let rest := d.fab.routes.filter (fun r => !(same r))
  let routes := if c.last then rest else ⟨c.src, c.dst, c.tag, c.kind, g, det⟩ :: rest
  { d with fab := { d.fab with routes := routes } }

/-- A DORMANT fibre with traffic sends SLP_WAKE (R435, R437). -/
def wakeFibre (d : Dev) (g : Nat) : Dev :=
  if lqState d g = 8 then
    queueSlip (setPhase d g 5) g { kind := 2, value := fibrePeer d g + 0x8 * 2 ^ 16 }
  else d

/-- Put a cell on its way: delivered at this node, queued on a fibre, or none with the reason it cannot be forwarded. -/
def forwardCell (d : Dev) (came : Option Nat) (c : Cell) : Except Nat Dev :=
  if c.dst = ownNode d then .ok { d with fab := { d.fab with cells := d.fab.cells ++ [(came.getD 128, c.bytes)] } }
  else match routeCell d came c with
    | .error r => .error r
    | .ok (g, c', entering) =>
      .ok (queueCell (wakeFibre (noteRoute d c g c'.detour) g) g ((kindVc c.kind).getD 0) entering c'.bytes)

/-- Count a cell discarded with a reason (Table 12.21). -/
def countDiscard (d : Dev) (reason : Nat) : Dev :=
  if reason = 1 then fincSat d Reg.FAB_ERR [] Fld.FAB_ERR_noroute 1
  else if reason = 3 then fincSat d Reg.FAB_ERR [] Fld.FAB_ERR_hops 1 else d

/-- A node discards a cell that it cannot forward (R411): the requester is told by an ERR cell; an ERR cell that cannot
be delivered is counted. -/
def discardCell (d : Dev) (reason : Nat) (c : Cell) : Dev :=
  let d := countDiscard d reason
  if c.kind = 7 then (if reason = 1 ∨ reason = 3 then d else countCtl d)
  else
    let dest := if isResponse c.kind then c.dst else c.src
    let er : Cell := { dst := dest, src := ownNode d, kind := 7, tag := c.tag, object := c.kind, value := reason }
    match forwardCell d none er with
    | .ok d => d
    | .error r => countCtl (countDiscard d r)

/-- Send a cell from this node. -/
def sendCell (d : Dev) (c : Cell) : Dev :=
  match forwardCell d none c with
  | .ok d => d
  | .error r => discardCell d r c

/-- The class C0 event of the fabric (Table 16.2 code 0x05), with the register its rule names. -/
def fabricEvent (d : Dev) (g : Nat) (stat : Option (Nat × Word)) : Dev :=
  report d { source := 0x05, unit := unitLe (g / 8), stat := stat }

/-- CELL_ARRIVE (R402-R407): the routing stage takes the first cell of a VC from its buffer. A fibre that is not OK
carries no cells (R399). -/
def execCellArrive (g : Fin 128) (vc : Fin 4) (s : State) : Host.Outcome State Fault Refusal :=
  s.run (fun _ d =>
    if vc.val = 2 ∨ fibreState d g.val ≠ 1 then d
    else match takePayload d g.val vc.val with
      | none => d
      | some (b, d) =>
        let c := cellOf b
        if kindVc c.kind = some vc.val then
          match forwardCell d (some g.val) c with
          | .ok d => d
          | .error r => discardCell d r c
        else
          let d := countCtl d
          fabricEvent d g.val (Reg.FAB_ERR.slot []))

/-! ### Slips -/

/-- The fibre of a list with the fewest slips waiting, the lowest on a tie (R405). -/
def fewestSlips (d : Dev) : List Nat → Option Nat
  | [] => none
  | g :: gs =>
    match fewestSlips d gs with
    | none => some g
    | some h => if (getLq d h).slips.length < (getLq d g).slips.length then some h else some g

/-- A slip that this node was forwarding is lost (R411). -/
def slipLost (d : Dev) (g : Nat) : Dev :=
  let d := fincSat d Reg.FAB_ERR [] Fld.FAB_ERR_slip_lost 1
  fabricEvent d g (Reg.FAB_ERR.slot [])

/-- Forward an ADD slip towards its node (R405). -/
def forwardSlip (d : Dev) (came : Nat) (w : Nat) : Dev :=
  let dst := bits w 15 0
  let fs := if tableMode d then (match tablePort d dst with | some p => dirFibres d p | none => [])
    else match torusDir d dst (throughDir d came) false with | some (dir, _) => dirFibres d dir | none => []
  match fewestSlips d fs with
  | some g => queueSlip (wakeFibre d g) g { kind := 1, value := w }
  | none => slipLost d came

/-! ### Remote operations -/

/-- An entry of the remote transaction table. -/
def remoteAt (d : Dev) (tag : Nat) : Option Remote := Sparse.find d.fab.remote tag

/-- Free an entry. -/
def freeRemote (d : Dev) (tag : Nat) : Dev := { d with fab := { d.fab with remote := Sparse.del d.fab.remote tag } }

/-- Take a free entry: its tag; none while the table is full (R407). -/
def takeTag (d : Dev) (r : Remote) : Option (Nat × Dev) :=
  if 65536 ≤ d.fab.remote.length then none
  else
    let start := d.fab.nextTag
    let tag := ((List.range (d.fab.remote.length + 1)).map (fun i => (start + i) % 65536)).find?
      (fun t => (Sparse.find d.fab.remote t).isNone)
    match tag with
    | none => none
    | some t => some (t, { d with fab := { d.fab with remote := Sparse.put d.fab.remote t r, nextTag := (t + 1) % 65536 } })

/-- A completion record waits to be written for a stream (R197, R198). -/
def pushRec (d : Dev) (st : Nat) (r : CRec) : Dev :=
  let x := Sparse.get {} d.strm st
  { d with strm := Sparse.set {} d.strm st { x with recs := x.recs ++ [r] } }

/-- A remote operation fails: a kind-2 record of status REMOTE_FAIL (R198, R410). -/
def remoteFail (d : Dev) (st q : Nat) : Dev :=
  pushRec d st { seq := q, status := 0x94, kind := 2, time := d.tb, core := fget d Reg.HUB_STRM_CFG [st] Fld.HUB_STRM_CFG_core }

/-- A parcel of an active GDE descriptor is answered (R412): the last answer completes it, OK or REJECT. -/
def parcelAnswer (d : Dev) (site st q : Nat) (ok : Bool) : Dev :=
  match engActive d site 7 with
  | none => d
  | some j =>
    if j.job.stream.toNat == st && j.job.seq.toNat == q then
      let j := { j with await := j.await - 1, refused := j.refused || !ok }
      let d := setActive d site 7 j
      if j.await = 0 then engEnd d site 7 (if j.refused then 0x14 else 0) {} j.detail else d
    else d

/-- An entry's request or parcel has failed (R410, R412). -/
def entryFails (d : Dev) (tag : Nat) : Dev :=
  match remoteAt d tag with
  | none => d
  | some r =>
    let d := freeRemote d tag
    match r.site with
    | some site => parcelAnswer d site r.stream r.seq false
    | none => remoteFail d r.stream r.seq

/-- Send a remote counter operation for a stream (R408): an ADD to the peer of a usable fibre as a slip, any other as a
cell. None while the table is full. -/
def sendCounterOp (d : Dev) (st q op node c v : Nat) : Option Dev :=
  let near := if op = 0 then (List.range 128).filter (fun g => usable d g && fibrePeer d g == node) else []
  match fewestSlips d near with
  | some g =>
    let s : Slip := { kind := 1, value := node + c * 2 ^ 16 + v * 2 ^ 32, who := some (st, q) }
    if 64 ≤ (getLq d g).slips.length then none else some (queueSlip (wakeFibre d g) g s)
  | none =>
    match takeTag d { stream := st, seq := q, node := node, object := c } with
    | none => none
    | some (t, d) =>
      some (sendCell d { dst := node, src := ownNode d, kind := if op = 0 then 1 else if op = 2 then 2 else 3, tag := t,
                         object := c, value := v})

/-- A partition's FAB_PIN entry admits a source node (R409, Table 12.25). -/
def pinAdmits (d : Dev) (q : Option Nat) (src : Nat) : Bool :=
  match q with
  | none => false
  | some q => decide (fget d Reg.FAB_PIN [q] Fld.FAB_PIN_lo ≤ src) && decide (src ≤ fget d Reg.FAB_PIN [q] Fld.FAB_PIN_hi)

/-- Perform a counter operation that came from another node: the CTR_RSP code (R409, Table 12.5). -/
def remoteCounter (d : Dev) (src c op v : Nat) : Nat × Dev :=
  if !(pinAdmits d (partOfCounter d c) src) then (1, d)
  else
    let r := ctrDo d none c op v
    if r.1 then (0, r.2) else ((if op = 2 then 3 else 2), d)

/-- The first delivered cell of a kind, and the device without it. -/
def takeCell (d : Dev) (kind : Nat) : Option (Nat × Cell × Dev) :=
  match d.fab.cells.find? (fun x => (cellOf x.2).kind == kind) with
  | none => none
  | some x => some (x.1, cellOf x.2, { d with fab := { d.fab with cells := d.fab.cells.erase x } })

/-- A CTR request at its counter's node (R409): performed, and answered with CTR_RSP. -/
def counterCell (d : Dev) (kind op : Nat) : Dev :=
  match takeCell d kind with
  | none => d
  | some (_, c, d) =>
    let r := remoteCounter d c.src c.object op c.value
    sendCell r.2 { dst := c.src, src := ownNode d, kind := 4, tag := c.tag, object := c.object, value := r.1 }

/-- CTR_ADD (R409). -/
def execCtrAdd (s : State) : Host.Outcome State Fault Refusal := s.run (fun _ d => counterCell d 1 0)

/-- CTR_SET (R409). -/
def execCtrSet (s : State) : Host.Outcome State Fault Refusal := s.run (fun _ d => counterCell d 2 2)

/-- CTR_MAX (R409). -/
def execCtrMax (s : State) : Host.Outcome State Fault Refusal := s.run (fun _ d => counterCell d 3 1)

/-- ADD_SLIP (R407, R408, R409): an ADD slip at its node is performed, and answered with ADD_REFUSE where it is refused;
one for another node is forwarded. -/
def execAddSlip (g : Fin 128) (s : State) : Host.Outcome State Fault Refusal :=
  s.run (fun _ d =>
    match takeSlip d g.val (fun x => x.1 == 1) with
    | none => d
    | some (w, d) =>
      let x := getLq d g.val
      let ord := x.slipRx
      let d := setLq d g.val { x with slipRx := (ord + 1) % 2 ^ 16 }
      if fibreState d g.val ≠ 1 then slipLost d g.val
      else if bits w 15 0 = ownNode d then
        let r := remoteCounter d (fibrePeer d g.val) (bits w 31 16) 0 (bits w 63 32)
        if r.1 = 0 then r.2
        else queueSlip d g.val { kind := 2, value := fibrePeer d g.val + 0x9 * 2 ^ 16 + r.1 * 2 ^ 20 + ord * 2 ^ 32 }
      else forwardSlip d g.val w)

/-- CTR_RSP (R410): DONE frees the entry; any other status fails the operation. -/
def execCtrRsp (s : State) : Host.Outcome State Fault Refusal :=
  s.run (fun _ d =>
    match takeCell d 4 with
    | none => d
    | some (_, c, d) => if c.value % 256 = 0 then freeRemote d c.tag else entryFails d c.tag)

/-- ERR (R410, R412): the operation or parcel of the entry has failed. -/
def execErrCell (s : State) : Host.Outcome State Fault Refusal :=
  s.run (fun _ d => match takeCell d 7 with | none => d | some (_, c, d) => entryFails d c.tag)

/-- The operation of a slip that this node sent, by its ordinal; none where it is not held or was overwritten (R408). -/
def slipOp (x : Lq) (ord : Nat) : Option (Nat × Nat) :=
  if (x.slipTx + 2 ^ 16 - ord) % 2 ^ 16 ≤ 2 ^ 14 then Sparse.find x.slipRing (ord % 2 ^ 14) else none

/-- ADD_REFUSE (R410): the slip's operation fails; one whose ordinal has been overwritten is counted. -/
def execAddRefuse (g : Fin 128) (s : State) : Host.Outcome State Fault Refusal :=
  s.run (fun _ d =>
    match takeSlip d g.val (fun x => x.1 == 2 && bits x.2 19 16 == 9) with
    | none => d
    | some (w, d) =>
      match slipOp (getLq d g.val) (bits w 47 32) with
      | some (st, q) => remoteFail d st q
      | none => fincSat d Reg.FAB_ERR [] Fld.FAB_ERR_slip_lost 1)

/-- REMOTE_TIMEOUT (R410): no response within FAB_RTO.rto_ms. -/
def execRemoteTimeout (tag : BitVec 16) (s : State) : Host.Outcome State Fault Refusal :=
  s.run (fun _ d => entryFails d tag.toNat)

/-! ### Flush (R389, R411) -/

/-- Every cell that a flush discards goes back to the routing stage. -/
def flushCells (reason : Nat) : List (List Byte) → Dev → Dev
  | [], d => d
  | b :: bs, d => flushCells reason bs (discardCell d reason (cellOf b))

/-- A discarded slip: this node's own fails its operation, a forwarded one is lost (R411). -/
def flushSlips (g : Nat) : List Slip → Dev → Dev
  | [], d => d
  | s :: ss, d =>
    let d := if s.kind ≠ 1 then d else match s.who with
      | some w => remoteFail d w.1 w.2
      | none => slipLost d g
    flushSlips g ss d

/-- Plans with VC2 data on a fibre fail when it is flushed (R429). -/
def planFlushed (d : Dev) (g : Nat) : Dev :=
  { d with
      fab := { d.fab with
          plans := d.fab.plans.map (fun p =>
            if p.2.fibres.any (fun f => f.2 == g) then (p.1, { p.2 with failed := some (p.2.failed.getD 4) }) else p)}}

/-- Flush a link (R389): its queue and replay buffer are discarded, requesters told, credits zero. -/
def flushLink (d : Dev) (g : Nat) : Dev :=
  let x := getLq d g
  let reason := if lqOq1 d g then 4 else 2
  let data := x.txq.map (fun c => (c.1 % 4, c.2)) ++ (x.replay.filter (fun f => f.ftype == 1)).map (fun f => (f.vc, f.payload))
  let cells := (data.filter (fun c => c.1 != 2)).map (·.2)
  let slips := x.slips ++ x.replay.filterMap (·.slip)
  let vc2 := data.any (fun c => c.1 == 2)
  let d := setLq d g { x with txq := [], replay := [], slips := [], mgmt := [], resend := none }
  let d := (List.range 4).foldl (fun d v => setCredits d g v 0) d
  let d := fincSat d Reg.LQ_EVENTS (lqIx g) Fld.LQ_EVENTS_flushes 1
  let d := flushSlips g slips (flushCells reason cells d)
  if vc2 then planFlushed d g else d

/-- The flush at the end of the grace period (R389): the state becomes DOWN, and Hawthorn records it. -/
def flushDown (d : Dev) (g : Nat) : Dev :=
  let d := flushLink (setLqState d g 7) g
  report d { source := 0x2A, unit := unitLe (g / 8), sub := g % 8 }

/-! ### Link down (R387, R388) -/

/-- An end declares the link down: HOLD for the grace period, or flushed at once; training starts again. -/
def linkDown (d : Dev) (g : Nat) : Dev :=
  let d := fincSat d Reg.LQ_EVENTS (lqIx g) Fld.LQ_EVENTS_downs 1
  let d := if lqOq1 d g || fget d Reg.LQ_CFG (lqIx g) Fld.LQ_CFG_grace == 0 then flushDown d g
    else setLqState d g 6
  linkWait d g

/-- LINK_DOWN_TIMER (R387): LDT has passed with the fibre unreadable, or with no ack progress; suspended while the receive
side is GAPPED or in PATH_RX. -/
def execLinkDownTimer (g : Fin 128) (s : State) : Host.Outcome State Fault Refusal :=
  s.run (fun _ d =>
    if (lqActive d g.val || lqState d g.val == 8) && !(rxGapped d g.val) &&
      (unreadable d g.val || !(getLq d g.val).replay.isEmpty) then linkDown d g.val else d)

/-- DOWN_FLIT (R387): a DOWN flit is accepted. -/
def execDownFlit (g : Fin 128) (s : State) : Host.Outcome State Fault Refusal :=
  s.run (fun _ d =>
    let x := getLq d g.val
    match x.got with
    | none => d
    | some b =>
      if fType b ≠ 4 then d
      else
        let d := takeAck (setLq d g.val { x with got := none }) g.val (fAck b)
        if lqActive d g.val || lqState d g.val == 8 then linkDown d g.val else d)

/-- GRACE_EXPIRY (R389): the grace period ends in HOLD. -/
def execGraceExpiry (g : Fin 128) (s : State) : Host.Outcome State Fault Refusal :=
  s.run (fun _ d => if lqState d g.val = 6 then flushDown d g.val else d)

end Sys2Proof.Machine
end

