-- ==== Sys2Proof/Machine/Gde.lean ====
section
/-!
DEFINITION. The gather and dispatch engine (R140-R149, R156), and parcels on the package and between packages (R412).
-/
namespace Sys2Proof.Machine

/-! ### The descriptor -/

/-- The fields of a GDE descriptor (Table 4.11). -/
structure GDesc where
  rows : Nat
  route : Nat
  aux : Nat
  op : Nat
  table : Nat
  count : Nat
  k : Nat
  combine : Nat
  rowBytes : Nat
  pitch : Nat
  epoch : Nat
  retWin : Nat
  srcRank : Nat
  nExp : Nat
  rsv : Bool
deriving DecidableEq, Repr

/-- A row size in units of 64 bytes: 0 means 1,024 (Table 4.11). -/
def rowUnits (n : Nat) : Nat := if n = 0 then 1024 else n

/-- Read a GDE descriptor. -/
def gdeDesc (b : List Byte) : GDesc :=
  { rows := dfield b 16 19 0 * 64, route := dfield b 16 39 20 * 64, aux := dfield b 16 59 40 * 64, op := dfield b 16 63 60,
    table := dfield b 24 19 0 * 64, count := dfield b 24 43 20, k := dfield b 24 50 44, combine := dfield b 24 52 51,
    rowBytes := rowUnits (dfield b 32 9 0) * 64, pitch := dfield b 32 29 10 * 64, epoch := dfield b 32 37 30,
    retWin := dfield b 32 41 38, srcRank := dfield b 32 57 42, nExp := dfield b 40 12 0,
    rsv := dfield b 24 63 53 != 0 || dfield b 32 63 58 != 0 || dfield b 40 63 13 != 0 || dword b 6 != 0 || dword b 7 != 0}

/-- The local bytes that a descriptor's rows and arrays take: the ranges it reads, and those it writes. -/
def GDesc.reads (x : GDesc) : List (Nat × Nat) :=
  let rowsR := (List.range x.count).map (fun i => (x.rows + i * x.pitch, x.rowBytes))
  if x.op = 0 then [(x.route, 4 * x.count)]
  else if x.op = 1 then (x.route, 4 * x.count) :: rowsR
  else if x.op = 2 then (x.route, 4 * x.count * x.k) :: (x.table, 8 * x.nExp) :: rowsR
  else [(x.aux, 8 * x.count)]

/-- The local ranges that it writes. -/
def GDesc.writes (x : GDesc) : List (Nat × Nat) :=
  if x.op = 0 then (List.range x.count).map (fun i => (x.rows + i * x.pitch, x.rowBytes))
  else if x.op = 2 then [(x.aux, 4 * x.count * x.k)] else []

/-- The formats that a SCATTER with a combine needs (R142): its table record's. -/
def combineFmtOk (combine fmt : Nat) : Bool := combine == 0 || (combine == 1 && fmt == 0x0) || (combine == 2 && fmt == 0xC)

/-- The shape of a table (R141): dimension 0 is the row, and there are no others than the index. -/
def tableShapeOk (x : GDesc) (t : TRec) : Bool := t.rowLen == x.rowBytes && t.dim 2 == 1 && t.dim 3 == 1

/-- Status of a GDE descriptor at entry, with its table record (R113, R140-R144). -/
def gdeCheck (e : Env) (d : Dev) (site : Nat) (job : Job) : Nat × List Byte × Dev :=
  let x := gdeDesc job.bytes
  let tableOp := decide (x.op ≤ 1)
  if !(engEnabled d site 7) then (0x09, [], d)
  else if x.rsv then (0x0A, [], d)
  else
    let shape := (2 ≤ x.op ∧ (x.k = 0 ∨ 64 < x.k)) ∨ (x.op = 2 ∧ (x.nExp = 0 ∨ 4096 < x.nExp)) ∨ (x.op ≠ 2 ∧ x.nExp ≠ 0)
    let addr := !(insideCore x.reads) || !(insideCore x.writes)
    if !tableOp then
      (if 4 ≤ x.op ∨ (x.op = 1 ∧ x.combine = 3) then 0x17 else if shape then 0x02 else if addr then 0x05 else 0, [], d)
    else match readRecord e d site x.table with
      | (.error st, d) => (if x.combine = 3 then 0x17 else st, [], d)
      | (.ok b, d) =>
        let t := tRec b
        let st :=
          if t.rsv then 0x0A
          else if x.op = 1 ∧ x.combine = 3 then 0x17
          else if !t.fmtOk then 0x01
          else if shape ∨ tableShapeOk x t = false ∨ t.badStride then 0x02
          else if x.op = 1 ∧ combineFmtOk x.combine t.fmt = false then 0x03
          else if addr ∨ (!t.space && !(t.inside (2 ^ 26))) ∨ (t.space && !(t.inside (2 ^ 52))) then 0x05 else 0
        (st, b, d)

/-! ### Gather and scatter -/

/-- The local number at an array position. -/
def localWord (e : Env) (d : Dev) (site a n : Nat) : Nat :=
  leNat ((List.range n).map (fun i => localByte e d site (a + i)))

/-- Read one table row: local, or by lines in package memory. -/
def tableRead (e : Env) (d : Dev) (site : Nat) (r : Requester) (t : TRec) (i : Nat) : Except Nat (List Byte) × Dev :=
  dmeRead e d site r (!t.space) (t.rowAddr [0, i, 0, 0]) t.rowLen

/-- Atomic updates of a package row, element by element (R142). -/
def pkgCombine (e : Env) (r : Requester) (n : Nat) (mk : List Byte → MemOp) : Nat → List Byte → Nat → Dev → Nat × Dev
  | 0, _, _, d => (0, d)
  | fuel + 1, bs, a, d =>
    if bs.isEmpty then (0, d)
    else match pkgAtomic e d r a (mk (bs.take n)) with
      | (.error er, d) => (errStatus er, d)
      | (.ok _, d) => pkgCombine e r n mk fuel (bs.drop n) (a + n) d

/-- Update a local row, element by element. -/
def localCombine (n : Nat) (mk : List Byte → MemOp) : Nat → List Byte → List Byte → List Byte
  | 0, _, _ => []
  | fuel + 1, old, bs =>
    if bs.isEmpty then [] else (atomApply (mk (bs.take n)) (old.take n)).1 ++ localCombine n mk fuel (old.drop n) (bs.drop n)

/-- The element operation of a combine. -/
def combineOp (combine : Nat) : Nat × (List Byte → MemOp) :=
  if combine = 1 then (4, fun b => .fadd32 b (allEnabled 4)) else (24, fun b => .xadd b)

/-- Write or combine one table row. -/
def tableWrite (e : Env) (d : Dev) (site : Nat) (r : Requester) (t : TRec) (combine i : Nat) (bs : List Byte) : Nat × Dev :=
  let a := t.rowAddr [0, i, 0, 0]
  if combine = 0 then dmeWrite e d site r (!t.space) a bs
  else
    let op := combineOp combine
    if t.space then pkgCombine e r op.1 op.2 bs.length bs a d
    else match rdLocal e d site a bs.length with
      | (.error st, d) => (st, d)
      | (.ok old, d) => wrLocal d site a (localCombine op.1 op.2 bs.length old bs)

/-- GATHER over the indices in order: the first status that is not 0 ends it (R141). -/
def gatherRows (e : Env) (site : Nat) (r : Requester) (x : GDesc) (t : TRec) : List Nat → Dev → Nat × Dev
  | [], d => (0, d)
  | i :: is, d =>
    let ix := localWord e d site (x.route + 4 * i) 4
    let got : Except Nat (List Byte) × Dev :=
      if ix = 0xFFFFFFFF then (.ok ((List.range x.rowBytes).map (fun _ => 0)), d)
      else if t.dim 1 ≤ ix then (.error 0x13, d)
      else tableRead e d site r t ix
    match got with
    | (.error st, d) => (st, d)
    | (.ok bs, d) =>
      let w := wrLocal d site (x.rows + i * x.pitch) bs
      if w.1 = 0 then gatherRows e site r x t is w.2 else w

/-- SCATTER over the indices in order (R141, R142). -/
def scatterRows (e : Env) (site : Nat) (r : Requester) (x : GDesc) (t : TRec) : List Nat → Dev → Nat × Dev
  | [], d => (0, d)
  | i :: is, d =>
    let ix := localWord e d site (x.route + 4 * i) 4
    if ix = 0xFFFFFFFF then scatterRows e site r x t is d
    else if t.dim 1 ≤ ix then (0x13, d)
    else match rdLocal e d site (x.rows + i * x.pitch) x.rowBytes with
      | (.error st, d) => (st, d)
      | (.ok bs, d) =>
        let w := tableWrite e d site r t x.combine ix bs
        if w.1 = 0 then scatterRows e site r x t is w.2 else w

/-- The active GDE descriptor of an operation. -/
def gdeActive (d : Dev) (site op : Nat) : Option (EJob × GDesc) :=
  match engActive d site 7 with
  | none => none
  | some j => let x := gdeDesc j.job.bytes; if x.op = op then some (j, x) else none

/-- GATHER (R141); `ext` is what host or guest memory returns. -/
def execGather (site : Fin 36) (ext : List Byte) (s : State) : Host.Outcome State Fault Refusal :=
  s.run (fun e d =>
    match gdeActive d site.val 0 with
    | none => d
    | some (j, x) =>
      let d := { d with extIn := ext }
      let st := readStatus d site.val x.reads
      if st ≠ 0 then engFail d site.val 7 st x.writes {}
      else
        let w := gatherRows e site.val (streamReq d site.val j.job.stream.toNat) x (tRec j.block) (List.range x.count) d
        if w.1 = 0 then engEnd w.2 site.val 7 0 {} 0 else engFail w.2 site.val 7 w.1 x.writes {})

/-- The table rows that a failed SCATTER may have written become undefined (Table 4.1). -/
def scatterUndef (e : Env) (site : Nat) (r : Requester) (x : GDesc) (t : TRec) : List Nat → Dev → Dev
  | [], d => d
  | i :: is, d =>
    let ix := localWord e d site (x.route + 4 * i) 4
    let d := if ix = 0xFFFFFFFF ∨ t.dim 1 ≤ ix then d
      else if t.space then
        let f := freeBytes x.rowBytes d
        (dmeWrite e f.2 site r false (t.rowAddr [0, ix, 0, 0]) f.1).2
      else undefRanges d site [(t.rowAddr [0, ix, 0, 0], x.rowBytes)]
    scatterUndef e site r x t is d

/-- SCATTER (R141, R142). -/
def execScatter (site : Fin 36) (ext : List Byte) (s : State) : Host.Outcome State Fault Refusal :=
  s.run (fun e d =>
    match gdeActive d site.val 1 with
    | none => d
    | some (j, x) =>
      let d := { d with extIn := ext }
      let t := tRec j.block
      let r := streamReq d site.val j.job.stream.toNat
      let st := readStatus d site.val x.reads
      if st ≠ 0 then engEnd (scatterUndef e site.val r x t (List.range x.count) d) site.val 7 st {} 0
      else
        let w := scatterRows e site.val r x t (List.range x.count) d
        if w.1 = 0 then engEnd w.2 site.val 7 0 {} 0
        else engEnd (scatterUndef e site.val r x t (List.range x.count) w.2) site.val 7 w.1 {} 0)

/-! ### Parcels -/

/-- A parcel to be sent: its node and core, and its bytes. -/
structure Parcel where
  node : Nat
  core : Nat
  win : Nat
  bytes : List Byte
deriving DecidableEq, Repr

/-- The 32-byte header of a parcel (Table 4.13). -/
def parcelHeader (node rank win epoch ntok pidx ptot seqtok first units : Nat) : List Byte :=
  leBytes 8 (node + rank * 2 ^ 16 + win * 2 ^ 32 + epoch * 2 ^ 48) ++
  leBytes 8 (ntok + pidx % 2 ^ 16 * 2 ^ 16 + ptot % 2 ^ 16 * 2 ^ 32 + seqtok % 2 ^ 16 * 2 ^ 48) ++
  leBytes 8 (first % 2 ^ 16 + units * 2 ^ 16) ++ leBytes 8 0

/-- Tokens that one parcel may hold: 64, and 262,144 bytes in all (R145). -/
def tokensPer (rowBytes : Nat) : Nat := max 1 (min 64 ((262144 - 32) / (8 + rowBytes)))

/-- Cut a list into pieces of `n`; an empty list is one empty piece. -/
def chunks {α : Type} (n : Nat) : Nat → List α → List (List α)
  | 0, _ => [[]]
  | fuel + 1, l => if l.length ≤ n then [l] else l.take n :: chunks n fuel (l.drop n)

/-- Send a parcel of the active descriptor: to a core of this package, or as one message of VC3 cells (R412). -/
def sendParcel (d : Dev) (site : Nat) (job : Job) (ret : Bool) (p : Parcel) : Dev :=
  if p.node = ownNode d then
    let m : ParcelMsg := ⟨p.core, site, job.stream.toNat, job.seq.toNat, ret, p.bytes⟩
    { d with fab := { d.fab with box := d.fab.box ++ [m] } }
  else match takeTag d { stream := job.stream.toNat, seq := job.seq.toNat, node := p.node, object := p.core, site := some site } with
    | none => d
    | some (t, d) =>
      let cs := chunks 272 (p.bytes.length) p.bytes
      let n := cs.length
      (cs.zip (List.range n)).foldl (fun d c => sendCell d
        { dst := p.node, src := ownNode d, kind := 5, first := c.2 == 0, last := c.2 + 1 == n, tag := t,
          object := p.core + p.win * 2 ^ 5, value := c.2 + (n - 1) * 2 ^ 16, data := c.1}) d

/-- Send the parcels of a descriptor, and wait for their answers; with no room in the remote transaction table it waits
(R407), and with none to send it completes. -/
def sendParcels (d : Dev) (site : Nat) (j : EJob) (ret : Bool) (ps : List Parcel) : Dev :=
  if ps.isEmpty then engEnd d site 7 0 {} j.detail
  else
    let d := setActive d site 7 { j with await := ps.length, refused := false }
    ps.foldl (fun d p => sendParcel d site j.job ret p) d

/-- Parcels of a list for other packages. -/
def remoteParcels (d : Dev) (ps : List Parcel) : Nat := (ps.filter (fun p => p.node != ownNode d)).length

/-- One expert's entries of the route array: (t, q) in order. -/
def routedTo (x : GDesc) (route : List Nat) (ex : Nat) : List (Nat × Nat) :=
  ((route.zip (List.range route.length)).filter (fun r => r.1 == ex)).map (fun r => (r.2 / x.k, r.2 % x.k))

/-- The parcels of one expert (R145). -/
def forwardParcels (e : Env) (d : Dev) (site : Nat) (x : GDesc) (route : List Nat) (ex : Nat) : List Parcel :=
  let m := localWord e d site (x.table + 8 * ex) 8
  let toks := (routedTo x route ex).take (bits m 47 32)
  let per := tokensPer x.rowBytes
  let cs := chunks per (toks.length + 1) toks
  let core := siteLogical d site
  (cs.zip (List.range cs.length)).map (fun c =>
    let body := (c.1.map (fun tq =>
      leBytes 8 (tq.1 + tq.2 * 2 ^ 32 + core * 2 ^ 40 + ownNode d * 2 ^ 48) ++
        (List.range x.rowBytes).map (fun i => localByte e d site (x.rows + tq.1 * x.pitch + i)))).flatten
    { node := bits m 15 0, core := bits m 20 16, win := bits m 27 24,
      bytes := parcelHeader (ownNode d) x.srcRank (bits m 27 24) x.epoch c.1.length c.2 cs.length toks.length (c.2 * per)
        (x.rowBytes / 64 % 1024) ++ body })

/-- The position of route entry n among those that name its expert. -/
def positionOf (route : List Nat) (n : Nat) : Nat := ((route.take n).filter (fun r => r == route.getD n 0)).length

/-- FORWARD (R144, R145): placement, and one sequence of parcels to every expert. -/
def execGdeForward (site : Fin 36) (s : State) : Host.Outcome State Fault Refusal :=
  s.run (fun e d =>
    match gdeActive d site.val 2 with
    | none => d
    | some (j, x) =>
      if j.await ≠ 0 then d
      else
        let st := readStatus d site.val x.reads
        let n := x.count * x.k
        let route := (List.range n).map (fun i => localWord e d site.val (x.route + 4 * i) 4)
        if st ≠ 0 then engFail d site.val 7 st x.writes {}
        else if route.any (fun r => decide (x.nExp ≤ r)) then engFail d site.val 7 0x13 x.writes {}
        else
          let cap (ex : Nat) : Nat := bits (localWord e d site.val (x.table + 8 * ex) 8) 47 32
          let place := (List.range n).map (fun i =>
            let p := positionOf route i
            if p < cap (route.getD i 0) then p else 0xFFFFFFFF)
          let dropped := place.any (fun p => p == 0xFFFFFFFF)
          let ps := ((List.range x.nExp).map (forwardParcels e d site.val x route)).flatten
          if 65536 < d.fab.remote.length + remoteParcels d ps then d
          else
            let w := wrRanges d site.val [(x.aux, (place.map (leBytes 4)).flatten)]
            if w.1 ≠ 0 then engFail w.2 site.val 7 w.1 x.writes {}
            else sendParcels w.2 site.val { j with detail := if dropped then 4 else 0 } false ps)

/-- The EXPERT window whose tag array a RETURN names (R148, R156). -/
def windowOfTags (d : Dev) (site tags : Nat) : Option Nat :=
  lowest 16 (fun w => fget d Reg.GDE_RXWIN_CTL [site, w] Fld.GDE_RXWIN_CTL_kind == 0 &&
    fget d Reg.GDE_RXWIN_AUX [site, w] Fld.GDE_RXWIN_AUX_aux_base * 64 == tags)

/-- The runs of a rank's tokens that go to one node and core, each at most one parcel long. -/
def returnRuns (per : Nat) : List (Nat × Nat) → List (Nat × List Nat)
  | [] => []
  | (x, j) :: rest =>
    match returnRuns per rest with
    | (y, js) :: rs => if x = y ∧ js.length < per then (y, j :: js) :: rs else (x, [j]) :: (y, js) :: rs
    | [] => [(x, [j])]

/-- The parcels of one source rank of a RETURN (R148). -/
def returnParcels (e : Env) (d : Dev) (site : Nat) (x : GDesc) (w cap r : Nat) : List Parcel :=
  let n := bits (localWord e d site (x.aux + 8 * r) 8) 15 0
  let tag (j : Nat) : Nat := localWord e d site (x.route + 8 * (r * cap + j)) 8
  let runs := returnRuns (tokensPer x.rowBytes) ((List.range n).map (fun j => (bits (tag j) 44 40 + bits (tag j) 63 48 * 32, j)))
  (runs.zip (List.range runs.length)).map (fun c =>
    let body := (c.1.2.map (fun j => leBytes 8 (tag j) ++
      (List.range x.rowBytes).map (fun i => localByte e d site (x.rows + (r * cap + j) * x.pitch + i)))).flatten
    { node := c.1.1 / 32, core := c.1.1 % 32, win := x.retWin,
      bytes := parcelHeader (ownNode d) w x.retWin x.epoch c.1.2.length c.2 runs.length n (c.1.2.headD 0)
        (x.rowBytes / 64 % 1024) ++ body })

/-- RETURN (R148): the rows of an EXPERT window go back to the tokens that their tags name. -/
def execGdeReturn (site : Fin 36) (s : State) : Host.Outcome State Fault Refusal :=
  s.run (fun e d =>
    match gdeActive d site.val 3 with
    | none => d
    | some (j, x) =>
      if j.await ≠ 0 then d
      else match windowOfTags d site.val x.route with
        | none => engEnd d site.val 7 0x14 {} 0
        | some w =>
          let cap := fget d Reg.GDE_RXWIN_SHAPE [site.val, w] Fld.GDE_RXWIN_SHAPE_cap
          let st := readStatus d site.val (x.reads ++ [(x.route, 8 * x.count * cap)])
          let ps := ((List.range x.count).map (returnParcels e d site.val x w cap)).flatten
          if st ≠ 0 then engEnd d site.val 7 st {} 0
          else if 65536 < d.fab.remote.length + remoteParcels d ps then d
          else sendParcels d site.val j true ps)

/-! ### Receive windows -/

/-- The tokens of a parcel: tag and row. -/
def parcelToken (b : List Byte) (rowBytes i : Nat) : Nat × List Byte :=
  let o := 32 + i * (8 + rowBytes)
  (leNat (slice b o 8), slice b (o + 8) rowBytes)

/-- A window's fields. -/
structure RxWin where
  armed : Bool
  ret : Bool
  epoch : Nat
  counter : Nat
  units : Nat
  base : Nat
  num : Nat
  cap : Nat
  aux : Nat
deriving DecidableEq, Repr

/-- Read a window's registers (Tables 4.21 to 4.24). -/
def rxWin (d : Dev) (site w : Nat) : RxWin :=
  { armed := fbit d Reg.GDE_RXWIN_CTL [site, w] Fld.GDE_RXWIN_CTL_armed,
    ret := fbit d Reg.GDE_RXWIN_CTL [site, w] Fld.GDE_RXWIN_CTL_kind,
    epoch := fget d Reg.GDE_RXWIN_CTL [site, w] Fld.GDE_RXWIN_CTL_epoch,
    counter := fget d Reg.GDE_RXWIN_CTL [site, w] Fld.GDE_RXWIN_CTL_counter,
    units := rowUnits (fget d Reg.GDE_RXWIN_BASE [site, w] Fld.GDE_RXWIN_BASE_row_units),
    base := fget d Reg.GDE_RXWIN_BASE [site, w] Fld.GDE_RXWIN_BASE_row_base * 64,
    num := fget d Reg.GDE_RXWIN_SHAPE [site, w] Fld.GDE_RXWIN_SHAPE_num_src,
    cap := fget d Reg.GDE_RXWIN_SHAPE [site, w] Fld.GDE_RXWIN_SHAPE_cap,
    aux := fget d Reg.GDE_RXWIN_AUX [site, w] Fld.GDE_RXWIN_AUX_aux_base * 64}

/-- Fields of a parcel header. -/
def pRank (b : List Byte) : Nat := dfield b 0 31 16
def pWin (b : List Byte) : Nat := dfield b 0 35 32
def pEpoch (b : List Byte) : Nat := dfield b 0 55 48
def pTok (b : List Byte) : Nat := dfield b 8 15 0
def pTotal (b : List Byte) : Nat := dfield b 8 47 32
def pSeqTok (b : List Byte) : Nat := dfield b 8 63 48
def pFirst (b : List Byte) : Nat := dfield b 16 15 0
def pUnits (b : List Byte) : Nat := rowUnits (dfield b 16 25 16)

/-- Why a parcel is refused, from its header (R146): the code of GDE_RXREJ.last_reason; `ret` is its kind, where the
sender's operation is known. -/
def headerRefusal (w : RxWin) (ret : Option Bool) (b : List Byte) : Option Nat :=
  if !w.armed then some 0
  else if w.epoch != pEpoch b then some 1
  else if ret.isSome && ret != some w.ret then some 2
  else if w.units != pUnits b then some 3
  else if !w.ret && (decide (w.num ≤ pRank b) || decide (w.cap < pFirst b + pTok b)) then some 4
  else none

/-- A RETURN parcel places a token at or beyond the window's rows (R146). -/
def tokenRefusal (w : RxWin) (b : List Byte) : Option Nat :=
  if w.ret && (List.range (pTok b)).any (fun i => decide (w.num ≤ bits (parcelToken b (w.units * 64) i).1 31 0)) then some 4
  else none

/-- Why a whole parcel is refused. -/
def parcelRefusal (w : RxWin) (ret : Option Bool) (b : List Byte) : Option Nat :=
  match headerRefusal w ret b with | some r => some r | none => tokenRefusal w b

/-- Note a refused parcel at the receiving GDE (R146). -/
def noteRefused (d : Dev) (site win reason : Nat) : Dev :=
  let d := fincSat d Reg.GDE_RXREJ [site] Fld.GDE_RXREJ_refused 1
  let d := fset (fset d Reg.GDE_RXREJ [site] Fld.GDE_RXREJ_last_win win) Reg.GDE_RXREJ [site] Fld.GDE_RXREJ_last_reason reason
  report d { source := 0x03, unit := unitSite site, stat := Reg.GDE_RXREJ.slot [site],
             part := partOfCore d (siteLogical d site)}

/-- Where a token's row goes, and its tag (R147, R148). -/
def tokenPlace (w : RxWin) (b : List Byte) (i : Nat) : Nat × Option Nat :=
  let tag := (parcelToken b (w.units * 64) i).1
  if w.ret then (w.base + (bits tag 31 0 * (w.cap % 128) + bits tag 39 32) * (w.units * 64), none)
  else
    let p := pRank b * w.cap + pFirst b + i
    (w.base + p * (w.units * 64), some (w.aux + 8 * p))

/-- Write the first `n` tokens of a parcel. -/
def writeTokens (d : Dev) (site : Nat) (w : RxWin) (b : List Byte) (n : Nat) : Dev :=
  (List.range n).foldl (fun d i =>
    let t := parcelToken b (w.units * 64) i
    let p := tokenPlace w b i
    let d := (wrLocal d site p.1 t.2).2
    match p.2 with
    | some a => (wrLocal d site a (leBytes 8 t.1)).2
    | none => d) d

/-- The count array of a window (R156). -/
def countBase (w : RxWin) : Nat := (w.aux + 8 * w.num * w.cap + 63) / 64 * 64

/-- The end of an accepted parcel: the count entry and the window's sync counter (R147, R148). -/
def finishParcel (e : Env) (d : Dev) (site : Nat) (w : RxWin) (b : List Byte) : Dev :=
  if w.ret then (ctrDo d none w.counter 0 (pTok b)).2
  else
    let a := countBase w + 8 * pRank b
    let old := localWord e d site a 8
    let seen := (bits old 31 16 + 1) % 2 ^ 16
    let d := (wrLocal d site a (leBytes 8 (pSeqTok b + seen * 2 ^ 16 + pTotal b * 2 ^ 32))).2
    if seen = pTotal b then (ctrDo d none w.counter 0 1).2 else d

/-- PARCEL_RECEIVE (R146-R148): the oldest parcel of this package for the core at a site is refused whole, or written;
its sender is told. -/
def execParcelReceive (site : Fin 36) (s : State) : Host.Outcome State Fault Refusal :=
  s.run (fun e d =>
    match d.fab.box.find? (fun m => siteOfCore d m.core == some site.val || (siteOfCore d m.core).isNone) with
    | none => d
    | some m =>
      let d := { d with fab := { d.fab with box := d.fab.box.erase m } }
      if siteOfCore d m.core ≠ some site.val then parcelAnswer d m.site m.stream m.seq false
      else
        let w := rxWin d site.val (pWin m.bytes)
        match parcelRefusal w (some m.ret) m.bytes with
        | some r => parcelAnswer (noteRefused d site.val (pWin m.bytes) r) m.site m.stream m.seq false
        | none =>
          let d := writeTokens d site.val w m.bytes (pTok m.bytes)
          parcelAnswer (finishParcel e d site.val w m.bytes) m.site m.stream m.seq true)

/-- RXWIN_WRITE (R156): a write of CTL is stored; one of BASE, SHAPE or AUX is discarded while the window is armed. -/
def rxwinWrite (d : Dev) (p : Path) (site w reg : Nat) (data : Word) : Dev :=
  let r := if reg = 0 then Reg.GDE_RXWIN_CTL else if reg = 1 then Reg.GDE_RXWIN_BASE
    else if reg = 2 then Reg.GDE_RXWIN_SHAPE else Reg.GDE_RXWIN_AUX
  if reg ≠ 0 ∧ (rxWin d site w).armed = true then regEvent d p (r.key [site, w])
  else r.store d [site, w] false data

/-- RXWIN_WRITE (R156). -/
def execRxwinWrite (p : Path) (site : Fin 36) (win : Fin 16) (reg : Fin 4) (data : Word) (s : State) :
    Host.Outcome State Fault Refusal :=
  s.run (fun _ d => if portHalted d p then d else onSite d p site.val (Reg.GDE_RXWIN_CTL.key [site.val, win.val] + 4 * reg.val)
    (fun d => rxwinWrite d p site.val win.val reg.val data))

/-! ### Parcels from other packages (R412) -/

/-- Answer a parcel of another package. -/
def answerParcel (d : Dev) (dest tag code reason : Nat) : Dev :=
  sendCell d { dst := dest, src := ownNode d, kind := 6, tag := tag, value := code + reason * 2 ^ 8 }

/-- The refusal of a first cell, if any, with the site (R412): source not admitted, core without a site, or R146. -/
def firstCellRefusal (d : Dev) (c : Cell) : Option Nat × Nat :=
  let core := bits c.object 4 0
  match siteOfCore d core with
  | none => (some 9, 0)
  | some site =>
    if !(pinAdmits d (partOfCore d core) c.src) then (some 8, site)
    else (headerRefusal (rxWin d site (bits c.object 8 5)) none c.data, site)

/-- Take one cell of a parcel into what has arrived of it. -/
def parcelCell (e : Env) (d : Dev) (c : Cell) : Dev :=
  let core := bits c.object 4 0
  let win := bits c.object 8 5
  let same (p : ParcelIn) : Bool := p.src == c.src && p.tag == c.tag
  let drop (d : Dev) : Dev := { d with fab := { d.fab with parcels := d.fab.parcels.filter (fun p => !(same p)) } }
  let keep (d : Dev) (p : ParcelIn) : Dev := { drop d with fab := { (drop d).fab with parcels := p :: (drop d).fab.parcels } }
  let started : Option (ParcelIn × Dev) :=
    if c.first then
      let r := firstCellRefusal d c
      let d := match r.1 with
        | some n => if n ≤ 4 then noteRefused d r.2 win n else d
        | none => d
      let d := match r.1 with | some n => answerParcel d c.src c.tag 1 n | none => d
      some ({ src := c.src, tag := c.tag, core := core, win := win, refused := r.1 }, d)
    else (d.fab.parcels.find? same).map (fun p => (p, d))
  match started with
  | none => d
  | some (p, d) =>
    if p.refused.isSome then (if c.last then drop d else keep d p)
    else
      let p := { p with bytes := p.bytes ++ c.data }
      match siteOfCore d p.core with
      | none => (if c.last then drop d else keep d p)
      | some site =>
        let w := rxWin d site p.win
        if c.last then
          match tokenRefusal w p.bytes with
          | some r => answerParcel (noteRefused (drop d) site p.win r) c.src c.tag 1 r
          | none =>
            let d := writeTokens (drop d) site w p.bytes (pTok p.bytes)
            answerParcel (finishParcel e d site w p.bytes) c.src c.tag 0 0
        else
          let n := min (pTok p.bytes) ((p.bytes.length - 32) / (8 + w.units * 64))
          keep (if w.ret then d else writeTokens d site w p.bytes n) p

/-- PARCEL (R412): the next cell of a parcel from another package. -/
def execParcelCell (s : State) : Host.Outcome State Fault Refusal :=
  s.run (fun e d => match takeCell d 5 with | none => d | some (_, c, d) => parcelCell e d c)

/-- PARCEL_RSP (R412): a parcel sent to another package is accepted or refused. -/
def execParcelRsp (s : State) : Host.Outcome State Fault Refusal :=
  s.run (fun _ d =>
    match takeCell d 6 with
    | none => d
    | some (_, c, d) =>
      if c.value % 256 = 0 then
        match remoteAt d c.tag with
        | none => d
        | some r =>
          let d := freeRemote d c.tag
          match r.site with
          | some site => parcelAnswer d site r.stream r.seq true
          | none => d
      else entryFails d c.tag)

end Sys2Proof.Machine
end

