-- ==== Sys2Proof/Machine/Sfe.lean ====
section
/-!
DEFINITION. The special-function engine (R130-R134): elementwise functions, online softmax and top-k.
-/
namespace Sys2Proof.Machine

/-- The fields of an SFE descriptor (Table 4.8). -/
structure SDescF where
  inAddr : Nat
  outAddr : Nat
  auxAddr : Nat
  func : Nat
  cols : Nat
  rows : Nat
  fmt : Nat
  k : Nat
  merge : Bool
  renorm : Bool
  follow : Bool
  inPitch : Nat
  outPitch : Nat
  auxPitch : Nat
  conv : ConvWord
  tscale : Nat
  pre : Nat
  inSc : Nat
  idxBase : Nat
  rsv : Bool
deriving DecidableEq, Repr

/-- Read an SFE descriptor (R130). SMX_STATS writes no output tensor: its out_addr must be 0 (R132). -/
def sfeDesc (b : List Byte) : SDescF :=
  { inAddr := dfield b 16 19 0 * 64, outAddr := dfield b 16 39 20 * 64, auxAddr := dfield b 16 59 40 * 64,
    func := dfield b 16 63 60, cols := dfield b 24 23 0 + 1, rows := dfield b 24 43 24 + 1, fmt := dfield b 24 47 44,
    k := dfield b 24 53 48 + 1, merge := dbit b 24 54, renorm := dbit b 24 55, follow := dbit b 24 56,
    inPitch := dfield b 32 19 0 * 64, outPitch := dfield b 32 39 20 * 64, auxPitch := dfield b 32 59 40 * 64,
    conv := convOf (dfield b 40 15 0), tscale := dfield b 40 23 16, pre := dfield b 40 63 32,
    inSc := dfield b 48 19 0 * 64, idxBase := dfield b 56 47 0,
    rsv := dfield b 24 63 57 != 0 || dfield b 32 63 60 != 0 || dfield b 40 31 24 != 0 || dfield b 48 63 20 != 0 ||
      dfield b 56 63 48 != 0 || (convOf (dfield b 40 15 0)).rsv ||
      (dfield b 16 63 60 == 6 && dfield b 16 39 20 != 0) }

/-! ### Geometry -/

/-- The byte ranges of the input. -/
def SDescF.inRanges (x : SDescF) : List (Nat × Nat) :=
  (List.range x.rows).map (fun r => (x.inAddr + r * x.inPitch, packedLen (fmtWidth x.fmt) x.cols)) ++
    (if fmtMx x.fmt then [(x.inSc, x.rows * ceilDiv x.cols 32)] else [])

/-- Elements of an output row. -/
def SDescF.outCols (x : SDescF) : Nat := if x.func = 8 then x.k else x.cols

/-- The byte ranges of the output tensor; SMX_STATS has none. -/
def SDescF.outRanges (x : SDescF) : List (Nat × Nat) :=
  if x.func = 6 then [] else
    (List.range x.rows).map (fun r => (x.outAddr + r * x.outPitch, packedLen (fmtWidth x.conv.fmt) x.outCols))

/-- The byte ranges of the state or of the indices; the elementwise functions have none. -/
def SDescF.auxRanges (x : SDescF) : List (Nat × Nat) :=
  if x.func < 6 then [] else
    (List.range x.rows).map (fun r => (x.auxAddr + r * x.auxPitch, if x.func = 8 then 4 * x.k else 8))

/-- The output is an in-place update of the input (R122). -/
def SDescF.inPlace (x : SDescF) : Bool :=
  x.fmt == x.conv.fmt && x.inAddr == x.outAddr && x.inPitch == x.outPitch && x.outCols == x.cols && !(fmtMx x.fmt)

/-- Status of an SFE descriptor at entry (R113, R118, R122, R130, R134). -/
def sfeCheck (d : Dev) (site : Nat) (job : Job) : Nat :=
  let x := sfeDesc job.bytes
  if !(engEnabled d site 5) then 0x09
  else if x.rsv then 0x0A
  else if 9 ≤ x.func then 0x17
  else if !(inputFmt x.fmt) || (x.func != 6 && decide (0xE ≤ x.conv.fmt)) then 0x01
  else if x.func == 8 && decide (x.cols < x.k) then 0x02
  else if x.func != 6 && x.conv.fmt == 0xC then 0x03
  else if x.follow && !(followOk d site 5 job x.inAddr x.inPitch x.fmt x.rows) then 0x11
  else if !(insideCore x.inRanges) || !(insideCore x.outRanges) || !(insideCore x.auxRanges) ||
      (!x.inPlace && rangesMeet x.inRanges x.outRanges) || rangesMeet x.auxRanges x.inRanges ||
      rangesMeet x.auxRanges x.outRanges then 0x05
  else 0

/-! ### Functions (Table 4.9) -/

/-- 1/x, correctly rounded (RCP). -/
def fp32Rcp (c : Nat) : Nat :=
  match fp32Num c with
  | .nan => 0x7FC00000
  | .inf n => if n then 0x80000000 else 0
  | .fin n m e =>
    if m = 0 then fp32Of (.inf n)
    else
      let k := 64 + Nat.log2 m
      let q := 2 ^ k / m
      let sticky := if 2 ^ k % m = 0 then 0 else 1
      fp32Of (.fin n (2 * q + sticky) (-(k : Int) - 1 - e))

/-- The functions 0 to 5: special cases as the table gives them, and for the rest the fixed map of R131, which is left
free (log entry 13). -/
def sfeFn (func c : Nat) : Nat :=
  let free : Nat := (Config.sfeValue func (BitVec.ofNat 32 c)).toNat
  match fp32Num c with
  | .nan => 0x7FC00000
  | .inf n =>
    if func = 0 then (if n then 0 else 0x7F800000)
    else if func = 1 then (if n then 0x7FC00000 else 0x7F800000)
    else if func = 2 then fp32Rcp c
    else if func = 3 then (if n then 0x7FC00000 else 0)
    else if func = 4 then (if n then 0 else 0x3F800000)
    else (if n then 0 else 0x7F800000)
  | .fin n m _ =>
    if func = 0 then (if !n && decide (0x42B17218 ≤ c) then 0x7F800000 else free)
    else if func = 1 then (if m = 0 then 0xFF800000 else if n then 0x7FC00000 else free)
    else if func = 2 then fp32Rcp c
    else if func = 3 then (if m = 0 then (if n then 0xFF800000 else 0x7F800000) else if n then 0x7FC00000 else free)
    else free

/-- EXP. -/
def fp32Exp (c : Nat) : Nat := sfeFn 0 c

/-- a − b in FP32. -/
def fp32Sub (a b : Nat) : Nat := fp32Of ((fp32Num a).add (fp32Num b).neg)

/-! ### Rows -/

/-- The values y of one row: loaded as LD does and multiplied by pre (R130), with the flags of the loads. -/
def sfeRow (e : Env) (d : Dev) (site : Nat) (x : SDescF) (r : Nat) : List Nat × XFlags :=
  let w := fmtWidth x.fmt
  let l := (List.range x.cols).map (fun c =>
    vLoad .fp32 x.fmt (packedAt (fun n => localByte e d site (x.inAddr + r * x.inPitch + n)) w c)
      (if fmtMx x.fmt then (localByte e d site (x.inSc + r * ceilDiv x.cols 32 + c / 32)).toNat else x.tscale))
  (l.map (fun p => if x.pre = 0 then p.1 else fp32Mul x.pre p.1), l.foldl (fun a p => a.or p.2) {})

/-- The write of one output row, and the flags of its values. -/
def sfeOut (x : SDescF) (key : Word × Word) (r : Nat) (ys : List Nat) : (Nat × List Byte) × XFlags :=
  let vs := vValues .fp32 (.elem ys)
  let draws := (List.range ys.length).map (fun c => drawSr key ((x.idxBase + r * x.cols + c) % 2 ^ 48) 0)
  ((x.outAddr + r * x.outPitch, (convRow x.conv draws vs).1), convRowFlags x.conv vs)

/-- Run an active SFE descriptor whose rows each give writes and flags. -/
def sfeRun (e : Env) (d : Dev) (site : Nat) (funcs : Nat → Bool)
    (reads : SDescF → List (Nat × Nat))
    (f : SDescF → Word × Word → Nat → List Nat → List (Nat × List Byte) × XFlags) : Dev :=
  match engActive d site 5 with
  | none => d
  | some j =>
    let x := sfeDesc j.job.bytes
    if !(funcs x.func) || !(rowsReady 5 x.rows j) then d
    else
      let rs := reads x
      let st := readStatus d site rs
      if st ≠ 0 then engFail (noteLocal d site st x.inAddr) site 5 st (x.outRanges ++ x.auxRanges) {}
      else
        let d := wakeRanges d site rs
        let key := streamSeed d j.job.stream.toNat
        let rows := (List.range x.rows).map (fun r => let y := sfeRow e d site x r; let o := f x key r y.1; (o.1, y.2.or o.2))
        writeAndEnd d site 5 (rows.map (·.1)).flatten (rows.foldl (fun a r => a.or r.2) {}) 0

/-- A row of an elementwise function: its write and flags (R131). -/
def fnRow (x : SDescF) (key : Word × Word) (r : Nat) (ys : List Nat) : List (Nat × List Byte) × XFlags :=
  let o := sfeOut x key r (ys.map (sfeFn x.func))
  ([o.1], o.2)

/-- SFE_ELEMENTWISE (R131). -/
def execSfeElementwise (site : Fin 36) (s : State) : Host.Outcome State Fault Refusal :=
  s.run (fun e d => sfeRun e d site.val (fun f => decide (f < 6)) SDescF.inRanges fnRow)

/-- −∞ in FP32. -/
def negInf : Nat := 0xFF800000

/-- The state of a row's softmax. -/
structure SmxState where
  m : Nat
  s : Nat
deriving DecidableEq, Repr

/-- The update of a row's state by one chunk (R132). A chunk that is all −∞ adds +0. -/
def smxChunk (st : SmxState) (ys : List Nat) : SmxState :=
  let mc := ys.foldl (laneMax .fp32) negInf
  let ex := ys.map (fun y => fp32Exp (fp32Sub y mc))
  let sc := pairTree fp32Add 9 (ex ++ List.replicate (512 - ex.length) 0)
  let mn := laneMax .fp32 st.m mc
  let a := fp32Mul st.s (if st.m = negInf then 0 else fp32Exp (fp32Sub st.m mn))
  let b := if mc = negInf then 0 else fp32Mul sc (fp32Exp (fp32Sub mc mn))
  { m := mn, s := fp32Add a b }

/-- A row cut into chunks of 512 columns. -/
def rowChunks : Nat → List Nat → List (List Nat)
  | 0, _ => []
  | n + 1, l => if l.isEmpty then [] else l.take 512 :: rowChunks n (l.drop 512)

/-- The stored state of a row. -/
def smxLoad (e : Env) (d : Dev) (site : Nat) (x : SDescF) (r : Nat) : SmxState :=
  let b := (List.range 8).map (fun i => localByte e d site (x.auxAddr + r * x.auxPitch + i))
  { m := leNat (b.take 4), s := leNat (b.drop 4) }

/-- A row of SMX_STATS: the state written (R132). -/
def statsRow (e : Env) (d : Dev) (site : Nat) (x : SDescF) (_ : Word × Word) (r : Nat) (ys : List Nat) :
    List (Nat × List Byte) × XFlags :=
  let st := if x.merge then smxLoad e d site x r else { m := negInf, s := 0 }
  let st := (rowChunks (ceilDiv x.cols 512) ys).foldl smxChunk st
  ([(x.auxAddr + r * x.auxPitch, leBytes 4 st.m ++ leBytes 4 st.s)], {})

/-- SMX_STATS (R132). -/
def execSmxStats (site : Fin 36) (s : State) : Host.Outcome State Fault Refusal :=
  s.run (fun e d => sfeRun e d site.val (· == 6) (fun x => x.inRanges ++ (if x.merge then x.auxRanges else []))
    (statsRow e d site.val))

/-- A row of SMX_APPLY: the normalised values (R133). -/
def applyRow (e : Env) (d : Dev) (site : Nat) (x : SDescF) (key : Word × Word) (r : Nat) (ys : List Nat) :
    List (Nat × List Byte) × XFlags :=
  let st := smxLoad e d site x r
  let o := sfeOut x key r (ys.map (fun y =>
    if st.s = 0 then 0 else fp32Mul (fp32Exp (fp32Sub y st.m)) (fp32Rcp st.s)))
  ([o.1], o.2)

/-- SMX_APPLY (R133). -/
def execSmxApply (site : Fin 36) (s : State) : Host.Outcome State Fault Refusal :=
  s.run (fun e d => sfeRun e d site.val (· == 7) (fun x => x.inRanges ++ x.auxRanges) (applyRow e d site.val))

/-- The first of two ranked entries stays first (R134): larger, then the lower column; NaN is last. -/
def rankBefore (a b : Nat × Nat) : Bool :=
  let x := fp32Num a.1
  let y := fp32Num b.1
  if x.isNan then y.isNan && decide (a.2 < b.2)
  else if y.isNan then true
  else if y.lt x then true else if x.lt y then false else decide (a.2 < b.2)

/-- Put an entry at its rank. -/
def rankInsert (a : Nat × Nat) : List (Nat × Nat) → List (Nat × Nat)
  | [] => [a]
  | b :: l => if rankBefore a b then a :: b :: l else b :: rankInsert a l

/-- The k largest of a row in rank order: (value, column). -/
def topOf (k : Nat) (ys : List Nat) : List (Nat × Nat) :=
  (((ys.zip (List.range ys.length)).foldl (fun l p => (rankInsert p l).take k) [])).take k

/-- Softmax weights over values in rank order (R134). -/
def topWeights (vs : List Nat) : List Nat :=
  let v0 := vs.headD negInf
  if v0 = negInf || (fp32Num v0).isNan then vs.map (fun _ => 0)
  else
    let ex := vs.map (fun v => fp32Exp (fp32Sub v v0))
    let sum := match ex with | [] => 0 | a :: l => l.foldl fp32Add a
    ex.map (fun w => fp32Mul w (fp32Rcp sum))

/-- A row of TOPK: the values or weights, and the columns (R134). -/
def topkRow (x : SDescF) (key : Word × Word) (r : Nat) (ys : List Nat) : List (Nat × List Byte) × XFlags :=
  let t := topOf x.k ys
  let vs := t.map (·.1)
  let o := sfeOut x key r (if x.renorm then topWeights vs else vs)
  ([o.1, (x.auxAddr + r * x.auxPitch, (t.map (fun p => leBytes 4 p.2)).flatten)], o.2)

/-- TOPK (R134). -/
def execTopk (site : Fin 36) (s : State) : Host.Outcome State Fault Refusal :=
  s.run (fun e d => sfeRun e d site.val (· == 8) SDescF.inRanges topkRow)

end Sys2Proof.Machine
end

