-- ==== Sys2Proof/Machine/Engines.lean ====
section
/-!
DEFINITION. The entry of descriptors into the engines of chapter 4 (R113, R114), and what their output ranges hold
once they end without completing (R118, R201, Table 4.1).
-/
namespace Sys2Proof.Machine

/-- The entry checks of a unit: the status, the block or records that the descriptor names, the device. -/
def engCheck (e : Env) (d : Dev) (site u : Nat) (job : Job) : Nat × List Byte × Dev :=
  if u = 0 then (0x09, [], d)
  else if u ≤ 4 then vxeCheck e d site u job
  else if u = 5 then (sfeCheck d site job, [], d)
  else if u = 6 then topCheck e d site job
  else if u = 7 then gdeCheck e d site job
  else if u = 8 then cpeCheck e d site job
  else if u ≤ 10 then (dmeCheck d site u job, [], d)
  else (rngCheck d site job, [], d)

/-- ENGINE_DESCRIPTOR_ENTRY (R113, R114): checked in the order of R113; rejected, or taken into a slot. A read of a record
or block that fails ends the descriptor with the read's status, without rejecting it. -/
def execEngineDescriptorEntry (site : Fin 36) (unit : Fin 12) (job : Job) (s : State) : Host.Outcome State Fault Refusal :=
  s.run (fun e d =>
    let g := getEng d site.val unit.val
    if unit.val = 0 ∨ (g.active.isSome ∧ g.staged.isSome) then d
    else
      let d := dropHandoff d site.val unit.val job
      let r := engCheck e d site.val unit.val job
      if r.1 = 0 then engAccept r.2.2 site.val unit.val { job := job, block := r.2.1 }
      else if r.1 = 0x16 then engReport r.2.2 job r.1 {} 0
      else engReject r.2.2 site.val unit.val r.1 job)

/-- The local output ranges of a descriptor in a unit. -/
def engOutputs (u : Nat) (j : EJob) : List (Nat × Nat) :=
  let b := j.job.bytes
  if 1 ≤ u ∧ u ≤ 4 then ((vOutRanges (vDesc b) (vBlock j.block)).map (·.2)).flatten
  else if u = 5 then (sfeDesc b).outRanges ++ (sfeDesc b).auxRanges
  else if u = 6 then topOut (topDesc b).op (tRec (slice j.block 64 64))
  else if u = 7 then (gdeDesc b).writes
  else if u = 8 then (if (cpeDesc b).op = 2 then (tRec (slice j.block 64 64)).ranges else [])
  else if u = 9 ∨ u = 10 then
    let x := dmeDesc b
    (if x.dstLocal then (List.range x.rows).map (fun i => ((rowAt x.dst x.dstPitch i).toNat, x.rowBytes)) else [])
  else if u = 11 then [((rngDesc b).out, (rngDesc b).bytes)]
  else []

/-- FOLLOW_UPSTREAM_FAIL (R118): the producer completed other than OK, or left without completing. -/
def execFollowUpstreamFail (site : Fin 36) (unit : Fin 12) (s : State) : Host.Outcome State Fault Refusal :=
  s.run (fun _ d =>
    match engActive d site.val unit.val with
    | none => d
    | some j =>
      if followBit unit.val j.job.bytes && producerFailed d site.val j.job then
        engFail d site.val unit.val 0x12 (engOutputs unit.val j) {}
      else d)

/-- A descriptor leaves a unit without completing (R201): its local output ranges become undefined if it was active. -/
def engAbort (d : Dev) (site u : Nat) (st : BitVec 16) (q : BitVec 32) : Dev :=
  let d := match engActive d site u with
    | some j => if j.job.stream == st && j.job.seq == q then undefRanges d site (engOutputs u j) else d
    | none => d
  engDrop d site u st q

end Sys2Proof.Machine
end

