-- ==== Sys2Proof/Machine/Streams.lean ====
section
/-!
DEFINITION. Streams (chapter 6): contexts and doorbells, fetch and header checks, waits and locks, dispatch, commit,
completion records, stops, aborts, restarts, and recovery after a core fault.
-/
namespace Sys2Proof.Machine

/-! ### The context -/

/-- The hidden state of a stream. -/
def getStrm (d : Dev) (st : Nat) : Strm := Sparse.get {} d.strm st

/-- Replace the hidden state of a stream. -/
def setStrm (d : Dev) (st : Nat) (x : Strm) : Dev := { d with strm := Sparse.set {} d.strm st x }

/-- A field of HUB_STRM_CFG. -/
def strmCfg (d : Dev) (st : Nat) (f : Fld) : Nat := fget d Reg.HUB_STRM_CFG [st] f

/-- The state of a stream (Table 6.1). -/
def strmState (d : Dev) (st : Nat) : Nat := fget d Reg.HUB_STRM_STAT [st] Fld.HUB_STRM_STAT_state

/-- Write the state of a stream. -/
def setStrmState (d : Dev) (st n : Nat) : Dev := fset d Reg.HUB_STRM_STAT [st] Fld.HUB_STRM_STAT_state n

/-- A stream is enabled. -/
def strmOn (d : Dev) (st : Nat) : Bool := strmCfg d st Fld.HUB_STRM_CFG_enable == 1

/-- A count of a stream. -/
def cnt (d : Dev) (st : Nat) (r : RegDesc) : Nat := (rdReg d r [st]).toNat

/-- Write a count of a stream, modulo 2^32. -/
def setCnt (d : Dev) (st : Nat) (r : RegDesc) (n : Nat) : Dev := wrReg d r [st] (low32 n)

/-- a − b modulo 2^32 (Table 6.2 text). -/
def sub32 (a b : Nat) : Nat := (a % 2 ^ 32 + 2 ^ 32 - b % 2 ^ 32) % 2 ^ 32

/-- a ≥ b for free-running counts (Table 6.2 text). -/
def ge32 (a b : Nat) : Bool := decide (sub32 a b < 2 ^ 31)

/-- The logical core of a stream, and the site that serves it now. -/
def strmCore (d : Dev) (st : Nat) : Nat := strmCfg d st Fld.HUB_STRM_CFG_core
def strmSite (d : Dev) (st : Nat) : Option Nat := siteOfCore d (strmCore d st)

/-- The ring of a pair of LO and HI registers: base, space, log2 of its entries. -/
def ringOf (d : Dev) (st : Nat) (lo hi : RegDesc) : Nat × Bool × Nat :=
  let w := rdReg d lo [st]
  (Fld.HUB_STRM_SQ_LO_addr_lo.get w * 64 + (rdReg d hi [st]).toNat * 2 ^ 32, Fld.HUB_STRM_SQ_LO_space.get w == 1,
    Fld.HUB_STRM_SQ_LO_log2_size.get w)

/-- The submission and completion rings. -/
def subRing (d : Dev) (st : Nat) : Nat × Bool × Nat := ringOf d st Reg.HUB_STRM_SQ_LO Reg.HUB_STRM_SQ_HI
def compRing (d : Dev) (st : Nat) : Nat × Bool × Nat := ringOf d st Reg.HUB_STRM_CQ_LO Reg.HUB_STRM_CQ_HI

/-- The requester that the scheduler is for a stream. -/
def schedReq (d : Dev) (st : Nat) : Requester := streamReq d ((strmSite d st).getD 0) st

/-- The host port of the stream's partition. -/
def strmPort (d : Dev) (st : Nat) : Option Nat := (partOfStream d st).map (portOfPart d)

/-- Signal the stream's interrupt vector (R200). -/
def strmVector (d : Dev) (st : Nat) : Dev :=
  match strmPort d st with
  | some p => signalVector d p (strmCfg d st Fld.HUB_STRM_CFG_vector)
  | none => d

/-- Read a submission-ring entry (R189, R190). -/
def readEntry (e : Env) (d : Dev) (st q : Nat) : Except MemErr (List Byte) × Dev :=
  let r := subRing d st
  let a := r.1 + 64 * (q % 2 ^ r.2.2)
  if r.2.1 then pkgRead e d (schedReq d st) a 64
  else match strmPort d st with
    | none => (.error .noTarget, d)
    | some p =>
      if portUp d p then (match takeExt d 64 with | (some b, d) => (.ok b, d) | (none, d) => (.error .timeout, d))
      else (.error .noTarget, d)

/-! ### Doorbells (R188-R189, R199, R202-R204) -/

/-- A refused doorbell access (R188, R520): the detail is its offset in the doorbell region with bit 31 set. -/
def doorbellEvent (d : Dev) (p : Path) (off : Nat) : Dev :=
  report d { source := 0x01, unit := pathUnit p, detail := low32 (off % 2 ^ 28 + 2 ^ 31) }

/-- A discarded doorbell value. -/
def badDoorbell (d : Dev) (p : Path) (st word : Nat) : Dev :=
  doorbellEvent (fset d Reg.HUB_STRM_STAT [st] Fld.HUB_STRM_STAT_db_err 1) p (st * 0x1000 + 8 * word)

/-- Remember the last value accepted in a doorbell word (R188). -/
def keepDoorbell (d : Dev) (st word v : Nat) : Dev :=
  let x := getStrm d st
  setStrm d st { x with doorbell := setAt x.doorbell word v }

/-- A core site runs again (R489, R548): its trace shows that it left SLEEP or OFF. -/
def wakeCore (d : Dev) (s : Nat) : Dev :=
  let ps := fget d Reg.THM_CORE [s] Fld.THM_CORE_pstate
  if 2 ≤ ps ∧ ps ≤ 4 then
    let d := fset d Reg.THM_CORE [s] Fld.THM_CORE_pstate 1
    if 3 ≤ ps then traceEv d s 9 15 0 ps else d
  else d

/-- The core of a stream is woken by its doorbell or dispatch (R489). -/
def wakeStrm (d : Dev) (st : Nat) : Dev := match strmSite d st with | some s => wakeCore d s | none => d

/-- SQ_TAIL (R189). -/
def sqTailWrite (d : Dev) (p : Path) (st t : Nat) : Dev :=
  let n := (subRing d st).2.2
  if strmState d st = 0 ∨ ge32 t (cnt d st Reg.HUB_STRM_TAIL) = false ∨ 2 ^ n < sub32 t (cnt d st Reg.HUB_STRM_COMMIT)
  then badDoorbell d p st 0
  else keepDoorbell (setCnt (wakeStrm d st) st Reg.HUB_STRM_TAIL t) st 0 t

/-- CQ_HEAD (R199). -/
def cqHeadWrite (d : Dev) (p : Path) (st h : Nat) : Dev :=
  if strmState d st = 0 ∨ ge32 (cnt d st Reg.HUB_STRM_CQT) h = false ∨ ge32 h (cnt d st Reg.HUB_STRM_CQH) = false
  then badDoorbell d p st 1
  else keepDoorbell (setCnt d st Reg.HUB_STRM_CQH h) st 1 h

/-- ABORT (R202, R203): one may be pending. -/
def abortWrite (d : Dev) (p : Path) (st a : Nat) : Dev :=
  if strmState d st = 0 then badDoorbell d p st 2
  else if (getStrm d st).abort.isSome then
    doorbellEvent (fset d Reg.HUB_STRM_STAT [st] Fld.HUB_STRM_STAT_abort_ovr 1) p (st * 0x1000 + 0x10)
  else
    let d := keepDoorbell d st 2 a
    fset (setStrm d st { getStrm d st with abort := some a }) Reg.HUB_STRM_STAT [st] Fld.HUB_STRM_STAT_abort_pend 1

/-- A completion record of a stream with the values of its context (R197). -/
def mkRec (d : Dev) (st q status kind : Nat) : CRec :=
  { seq := q, status := status, kind := kind, time := d.tb, core := strmCore d st }

/-- RESTART (R204). -/
def restartWrite (d : Dev) (p : Path) (st r : Nat) : Dev :=
  if strmState d st ≠ 2 ∨ ge32 r (cnt d st Reg.HUB_STRM_COMMIT) = false ∨ ge32 (cnt d st Reg.HUB_STRM_TAIL) r = false
  then badDoorbell d p st 3
  else
    let d := keepDoorbell (setCnt (setCnt d st Reg.HUB_STRM_COMMIT r) st Reg.HUB_STRM_FETCH r) st 3 r
    setStrmState (pushRec d st (mkRec d st r 0 0)) st 1

/-- A path reaches a doorbell page (R453): a port that of a stream of its partitions, one that is being released among them, whose
streams it finds OFF (Table 13.8). -/
def pageHeld (d : Dev) (p : Path) (st : Nat) : Bool :=
  match pathPort p with
  | none => true
  | some n => match partOfStream d st with | some q => portOfPart d q == n | none => false

/-- A write of the doorbell region (R188): an aligned 8-byte write of one of the four words. A halted device discards it (R529). -/
def doorbellWrite (d : Dev) (p : Path) (off size data : Nat) : Dev :=
  let st := off / 0x1000
  let o := off % 0x1000
  let v := data % 2 ^ 32
  if devHalted d then d
  else if pageHeld d p st = false ∨ size ≠ 8 ∨ 0x20 ≤ o ∨ o % 8 ≠ 0 then doorbellEvent d p off
  else if o = 0 then sqTailWrite d p st v
  else if o = 8 then cqHeadWrite d p st v
  else if o = 16 then abortWrite d p st v
  else restartWrite d p st v

/-- A read of the doorbell region (R188, R453): a page that the path's partitions do not own reads 0. -/
def doorbellRead (d : Dev) (p : Path) (off size : Nat) : List Word × Dev :=
  let st := off / 0x1000
  let o := off % 0x1000
  let w := if pageHeld d p st && decide (o < 0x20) && decide (o % 8 = 0) then low32 ((getStrm d st).doorbell.getD (o / 8) 0) else 0
  (w :: List.replicate (size / 4 - 1) 0, d)

/-- SQ_TAIL (R189). -/
def execSqTail (p : Path) (stream : BitVec 16) (data : BitVec 64) (s : State) : Host.Outcome State Fault Refusal :=
  s.run (fun _ d => doorbellWrite d p (stream.toNat * 0x1000) 8 data.toNat)

/-- CQ_HEAD (R199). -/
def execCqHead (p : Path) (stream : BitVec 16) (data : BitVec 64) (s : State) : Host.Outcome State Fault Refusal :=
  s.run (fun _ d => doorbellWrite d p (stream.toNat * 0x1000 + 8) 8 data.toNat)

/-- ABORT (R202, R203). -/
def execStrmAbort (p : Path) (stream : BitVec 16) (data : BitVec 64) (s : State) : Host.Outcome State Fault Refusal :=
  s.run (fun _ d => doorbellWrite d p (stream.toNat * 0x1000 + 16) 8 data.toNat)

/-- RESTART (R204). -/
def execStrmRestart (p : Path) (stream : BitVec 16) (data : BitVec 64) (s : State) : Host.Outcome State Fault Refusal :=
  s.run (fun _ d => doorbellWrite d p (stream.toNat * 0x1000 + 24) 8 data.toNat)

/-- DOORBELL_BAD_ACCESS (R188): any access of the region by offset and size. -/
def execDoorbellBadAccess (p : Path) (off : BitVec 28) (size : Nat) (write : Option (BitVec 64)) (s : State) :
    Host.Outcome State Fault Refusal :=
  s.run (fun _ d => match write with
    | some v => doorbellWrite d p off.toNat size v.toNat
    | none => let r := doorbellRead d p off.toNat size; emit r.2 (.regData p r.1))

/-! ### Descriptor headers (R191, R192, R213-R215, R217) -/

/-- Header fields (Table 6.3). -/
def hEngine (b : List Byte) : Nat := dfield b 0 4 0
def hUnit (b : List Byte) : Nat := dfield b 0 7 5
def hBarrier (b : List Byte) : Bool := dbit b 0 8
def hReplay (b : List Byte) : Bool := dbit b 0 9
def hIrq (b : List Byte) : Bool := dbit b 0 10
def hQuiet (b : List Byte) : Bool := dbit b 0 11
def hWaitEn (b : List Byte) : Bool := dbit b 0 12
def hSigEn (b : List Byte) : Bool := dbit b 0 13
def hWaitCtr (b : List Byte) : Nat := dfield b 0 31 16
def hSigCtr (b : List Byte) : Nat := dfield b 0 47 32
def hSigOp (b : List Byte) : Nat := dfield b 0 49 48
def hWaitVal (b : List Byte) : Nat := dfield b 8 31 0
def hSigVal (b : List Byte) : Nat := dfield b 8 63 32

/-- A SYNC slot (Table 6.9). -/
structure Slot where
  op : Nat
  epChk : Bool
  remote : Bool
  rsv : Bool
  counter : Nat
  node : Nat
  epoch : Nat
  value : Nat
deriving DecidableEq, Repr

/-- Slot `i` of a SYNC descriptor. -/
def slotOf (b : List Byte) (i : Nat) : Slot :=
  let w := leNat (slice b (16 + 12 * i) 12)
  { op := bits w 3 0, epChk := tbit w 4, remote := tbit w 5, rsv := bits w 15 6 != 0, counter := bits w 31 16,
    node := bits w 47 32, epoch := bits w 63 48, value := bits w 95 64}

/-- The stream's partition owns a local counter. -/
def ctrOwned (d : Dev) (st c : Nat) : Bool := (partOfStream d st).isSome && partOfCounter d c == partOfStream d st

/-- A slot breaks a check of R214. -/
def slotBad (d : Dev) (st : Nat) (x : Slot) : Bool :=
  if x.op = 0 then false
  else decide (7 ≤ x.op) || x.rsv || (x.remote && (x.op == 1 || x.op == 5 || x.op == 6)) ||
    (!x.remote && (!(ctrOwned d st x.counter) || x.node != 0)) || (x.epChk && x.op != 1) || (!x.epChk && x.epoch != 0)

/-- A WADV body breaks a check of R215. -/
def wadvBad (b : List Byte) : Bool :=
  dfield b 16 3 0 != 0 || dfield b 16 63 52 != 0 || [3, 4, 5, 6, 7].any (fun i => dword b i != 0)

/-- unit is allowed for the engine (Table 6.3). -/
def unitOk (eng unit : Nat) : Bool :=
  if eng = 1 then decide (unit ≤ 3) || unit == 7 else if eng = 6 then decide (unit ≤ 1) || unit == 7 else unit == 0

/-- replay_safe is admitted (R217). -/
def replayOk (b : List Byte) : Bool :=
  if hEngine b = 6 then
    let x := dmeDesc b
    if x.op = 1 then true
    else if x.op = 0 && !x.srcLocal then
      let s := x.spanOf x.src x.srcPitch
      let t := x.spanOf x.dst x.dstPitch
      x.dstLocal || decide (s.2 ≤ t.1) || decide (t.2 ≤ s.1)
    else false
  else hEngine b == 7 || hEngine b == 8 || hEngine b == 9

/-- The status of the header check: 0, HEADER or NOT_REPLAY_SAFE (R192). -/
def headerStatus (d : Dev) (st : Nat) (b : List Byte) : Nat :=
  let eng := hEngine b
  let bad := decide (11 ≤ eng) || dfield b 0 15 14 != 0 || dfield b 0 63 50 != 0 || !(unitOk eng (hUnit b)) || hSigOp b == 3 ||
    (hWaitEn b && !(ctrOwned d st (hWaitCtr b))) || (hSigEn b && !(ctrOwned d st (hSigCtr b))) ||
    (eng == 8 && (List.range 4).any (fun i => slotBad d st (slotOf b i))) || (eng == 9 && wadvBad b)
  if bad then 0x85 else if hReplay b && !(replayOk b) then 0x86 else 0

/-! ### Fetch -/

/-- Fetched descriptors held for a core (R187). -/
def heldFor (d : Dev) (core : Nat) : Nat :=
  d.strm.foldl (fun n x => if strmCore d x.1 = core ∧ strmOn d x.1 = true then n + x.2.held.length else n) 0

/-- The scheduler may fetch for a stream (R187, R192, R529): it runs, is not stopping, and there is room. -/
def mayFetch (d : Dev) (st : Nat) : Bool :=
  let x := getStrm d st
  strmState d st == 1 && !x.stopping && !x.disabling && cnt d st Reg.HUB_STRM_FETCH != cnt d st Reg.HUB_STRM_TAIL &&
    decide (x.held.length < 16) && decide (heldFor d (strmCore d st) < 4096) && (strmSite d st).isSome && !(devHalted d)

/-- A fetched descriptor is held. -/
def holdDesc (d : Dev) (st : Nat) (x : SDesc) : Dev :=
  let s := getStrm d st
  setCnt (setStrm d st { s with held := s.held ++ [x] }) st Reg.HUB_STRM_FETCH (x.seq + 1)

/-- Hold the descriptor that a fetch returned, or its error. -/
def holdFetched (d : Dev) (st : Nat) (r : Except MemErr (List Byte)) : Dev :=
  let q := cnt d st Reg.HUB_STRM_FETCH
  match r with
  | .ok b =>
    let h := headerStatus d st b
    holdDesc d st { seq := q, bytes := b, phase := if h = 0 then .fetched else .done, status := h }
  | .error _ => holdDesc d st { seq := q, bytes := leBytes 64 0, phase := .done, status := 0x88 }

/-- DESCRIPTOR_FETCH (R192); `ext` is what host memory returns. -/
def execDescriptorFetch (stream : BitVec 16) (ext : List Byte) (s : State) : Host.Outcome State Fault Refusal :=
  s.run (fun e d =>
    let st := stream.toNat
    if mayFetch d st then
      let r := readEntry e { d with extIn := ext } st (cnt d st Reg.HUB_STRM_FETCH)
      holdFetched r.2 st r.1
    else d)

/-- FETCH_ERR (R201, Table 6.6): the read of the ring entry failed. -/
def execFetchErr (stream : BitVec 16) (err : MemErr) (s : State) : Host.Outcome State Fault Refusal :=
  s.run (fun _ d => if mayFetch d stream.toNat then holdFetched d stream.toNat (.error err) else d)

/-! ### Waits and locks (R193, R208-R212, R214) -/

/-- Replace the held descriptor with a sequence number. -/
def putDesc (d : Dev) (st : Nat) (x : SDesc) : Dev :=
  let s := getStrm d st
  setStrm d st { s with held := s.held.map (fun y => if y.seq = x.seq then x else y) }

/-- The next descriptor to be dispatched: the first fetched one, once all before it are dispatched (R193). -/
def nextDesc (d : Dev) (st : Nat) : Option SDesc := (getStrm d st).held.find? (fun x => x.phase == .fetched)

/-- The descriptor is done without running: its status is decided. -/
def decideDesc (d : Dev) (st : Nat) (x : SDesc) (status : Nat) : Dev :=
  putDesc d st { x with phase := .done, status := status }

/-- What a WAIT or LOCK slot finds: satisfied, poisoned, or still waiting, with the device after it (R210, R212). -/
def trySlot (d : Dev) (st : Nat) (x : Slot) : Option Bool × Dev :=
  let c := getCtr d x.counter
  if c.poison then (some false, d)
  else if x.op = 1 then
    (if x.value ≤ c.value ∧ (x.epChk = false ∨ x.epoch = c.epoch) then some true else none, d)
  else if c.holder = some st then (some true, d)
  else if c.holder = none ∧ (c.waiters = [] ∨ c.waiters.head? = some st) then
    (some true, setCtr d x.counter { c with holder := some st, waiters := c.waiters.filter (· != st) })
  else (none, if c.waiters.contains st then d else setCtr d x.counter { c with waiters := c.waiters ++ [st] })

/-- A traced event of a stream's core (Table 17.4), for a unit of Table 17.1. -/
def traceStrm (d : Dev) (st kind e arg : Nat) : Dev :=
  match strmSite d st with
  | some s => traceEv d s kind e st arg
  | none => d

/-- The unit of Table 17.1 that a descriptor runs on: its engine's, or the scheduler. -/
def traceUnit (x : SDesc) : Nat :=
  let eng := hEngine x.bytes
  if eng = 1 then 1 + x.unit else if eng = 6 then 9 + x.unit
  else if eng = 0 then 0 else if eng = 2 then 5 else if eng = 3 then 6 else if eng = 4 then 7 else if eng = 5 then 8
  else if eng = 7 then 11 else if eng = 10 then 13 else 12

/-- A descriptor begins to wait for a counter, once. -/
def beginWait (d : Dev) (st : Nat) (x : SDesc) (c : Nat) : Dev :=
  if x.waitOn = some c then d else traceStrm (putDesc d st { x with waitOn := some c }) st 5 12 c

/-- A wait ends. -/
def endWait (d : Dev) (st : Nat) (x : SDesc) : Dev :=
  match x.waitOn with
  | some c => traceStrm d st 6 12 c
  | none => d

/-- Take the WAIT and LOCK slots of a SYNC descriptor in order until one still waits (R214). -/
def trySlots (st : Nat) : Nat → SDesc → Dev → Dev
  | 0, _, d => d
  | fuel + 1, x, d =>
    if 4 ≤ x.slots then d
    else
      let sl := slotOf x.bytes x.slots
      let next : SDesc := { x with slots := x.slots + 1, waitOn := none }
      if sl.op ≠ 1 ∧ sl.op ≠ 5 then trySlots st fuel next (putDesc d st next)
      else match trySlot d st sl with
        | (some true, d) => trySlots st fuel next (putDesc (endWait d st x) st next)
        | (some false, d) => decideDesc (endWait d st x) st { x with waitOn := none } 0x84
        | (none, d) => beginWait d st x sl.counter

/-- Examine the waits of a stream's next descriptor (R193, R208, R212). -/
def examine (d : Dev) (st : Nat) : Dev :=
  match nextDesc d st with
  | none => d
  | some x =>
    if hWaitEn x.bytes && !x.waited then
      let c := getCtr d (hWaitCtr x.bytes)
      if c.poison then decideDesc (endWait d st x) st { x with waitOn := none } 0x84
      else if hWaitVal x.bytes ≤ c.value then
        let d := endWait d st x
        let x := { x with waited := true, waitOn := none }
        let d := putDesc d st x
        if hEngine x.bytes = 8 then trySlots st 5 x d else d
      else beginWait d st x (hWaitCtr x.bytes)
    else if hEngine x.bytes = 8 then trySlots st 5 x d else d

/-- WAITER_SATISFIED (R208): a waiter is examined again. -/
def execWaiterSatisfied (stream : BitVec 16) (s : State) : Host.Outcome State Fault Refusal :=
  s.run (fun _ d => examine d stream.toNat)

/-- LOCK_GRANTED (R210): a free lock goes to the first waiting locker. -/
def execLockGranted (ctr : BitVec 16) (s : State) : Host.Outcome State Fault Refusal :=
  s.run (fun _ d =>
    let c := getCtr d ctr.toNat
    match c.holder, c.waiters with
    | none, st :: _ => if c.poison then d else examine d st
    | _, _ => d)

/-! ### Dispatch (R193) -/

/-- The waits of a descriptor are met. -/
def waitsMet (x : SDesc) : Bool := (!(hWaitEn x.bytes) || x.waited) && (hEngine x.bytes != 8 || decide (4 ≤ x.slots))

/-- A unit of a site has a free slot, with nothing on its way there. -/
def unitFree (d : Dev) (site u : Nat) : Bool :=
  !(d.handoff.any (fun h => h.site == site && h.unit == u)) &&
    (if u = 0 then (getMxe d site).staged.isNone || (getMxe d site).active.isNone
     else let g := getEng d site u; g.active.isNone || g.staged.isNone)

/-- The first unit of an engine, as the header allows, that is free (Table 6.4); any unit passes over a unit whose enable bit is
clear (Table 16.4), unless none of them is enabled. -/
def pickUnit (d : Dev) (site : Nat) (b : List Byte) : Option Nat :=
  let eng := hEngine b
  let us : List Nat :=
    if eng = 1 then (if hUnit b = 7 then [1, 2, 3, 4] else [1 + hUnit b])
    else if eng = 6 then (if hUnit b = 7 then [9, 10] else [9 + hUnit b])
    else [if eng = 0 then 0 else if eng = 2 then 5 else if eng = 3 then 6 else if eng = 4 then 7 else if eng = 5 then 8
      else if eng = 7 then 11 else 12]
  let on := us.filter (engEnabled d site)
  (if hUnit b = 7 ∧ on ≠ [] then on else us).find? (unitFree d site)

/-- A follower is dispatched with its producer (R118, R193). -/
def isFollower (b : List Byte) : Bool :=
  followBit (if hEngine b = 1 then 1 else if hEngine b = 2 then 5 else if hEngine b = 3 then 6 else 0) b

/-- A halt, a duty window or a device-fatal halt holds the stream's dispatch (R484, R529, R555, R556). -/
def dispatchHeld (d : Dev) (st site : Nat) : Bool :=
  let x := getStrm d st
  x.halt == 2 || x.halt == 3 || (x.halt == 1 && !(lockHeld d st)) || d.pow.dutyHold.contains site || devHalted d

/-- The halt state of a stream changes (Table 17.8), as its trace shows. -/
def setHalt (d : Dev) (st h : Nat) : Dev :=
  let d := setStrm d st { getStrm d st with halt := h, deferAt := d.tb }
  traceStrm d st 0xB 12 h

/-- The first armed entry of a partition's dumps that a name and a step match (R550). -/
def dumpEntry (d : Dev) (q name step : Nat) : Option Nat :=
  lowest 4 (fun i => fbit d Reg.DBG_DUMP_ARM_CTL [q, i] Fld.DBG_DUMP_ARM_CTL_en
    && (rdReg d Reg.DBG_DUMP_ARM_NAME [q, i]).toNat == name
    && (fbit d Reg.DBG_DUMP_ARM_CTL [q, i] Fld.DBG_DUMP_ARM_CTL_any_step || (rdReg d Reg.DBG_DUMP_ARM_STEP [q, i]).toNat == step))

/-- A DUMP descriptor at its dispatch (R549, R550): its step is taken, and a match decided; a match counts and disarms an entry with
once set. -/
def dumpDispatch (d : Dev) (st : Nat) (x : SDesc) : SDesc × Dev :=
  let c := dfield x.bytes 24 47 32
  let own := (partOfStream d st).isSome && partOfCounter d c == partOfStream d st
  let fromCtr := dbit x.bytes 24 48
  let step := if fromCtr then (getCtr d c).value else dfield x.bytes 32 31 0
  let x := { x with dumpStep := step }
  match partOfStream d st with
  | none => (x, d)
  | some q => match (if fromCtr && !own then none else dumpEntry d q (dfield x.bytes 24 31 0) step) with
    | none => (x, d)
    | some i =>
      let d := fincSat d Reg.DBG_DUMP_ARM_CTL [q, i] Fld.DBG_DUMP_ARM_CTL_hits 1
      let d := if fbit d Reg.DBG_DUMP_ARM_CTL [q, i] Fld.DBG_DUMP_ARM_CTL_once
        then fset d Reg.DBG_DUMP_ARM_CTL [q, i] Fld.DBG_DUMP_ARM_CTL_en 0 else d
      ({ x with dumpHit := true }, traceStrm d st 7 13 (dfield x.bytes 24 31 0))

/-- After a dispatch, a stepped stream halts again, or defers while it holds a lock (R555, R556). -/
def afterStep (d : Dev) (st : Nat) : Dev :=
  let x := getStrm d st
  if x.halt = 4 then setHalt d st (if lockHeld d st then 1 else 2) else d

/-- Dispatch the next descriptor of a stream, if every condition of R193 holds. -/
def dispatchNext (d : Dev) (st : Nat) : Dev :=
  match nextDesc d st, strmSite d st with
  | some x, some site =>
    let s := getStrm d st
    let barrier := hBarrier x.bytes && !(isFollower x.bytes)
    if strmState d st ≠ 1 ∨ s.stopping ∨ waitsMet x = false ∨ (barrier ∧ cnt d st Reg.HUB_STRM_COMMIT ≠ x.seq) ∨
        dispatchHeld d st site then
      (if s.halt = 1 && !(lockHeld d st) then setHalt d st 2 else d)
    else if hEngine x.bytes = 8 ∨ hEngine x.bytes = 9 then
      let d := traceStrm (traceStrm d st 1 12 x.seq) st 2 12 x.seq
      afterStep (putDesc d st { x with phase := .done, sent := some d.tb, unit := 0 }) st
    else match pickUnit d site x.bytes with
      | none => d
      | some u =>
        let no := if 1 ≤ u ∧ u ≤ 4 then u - 1 else if u = 10 then 1 else 0
        let xd := if hEngine x.bytes = 10 then dumpDispatch d st x else (x, d)
        let x := { xd.1 with phase := .dispatched, sent := some d.tb, unit := no }
        let d := traceStrm (putDesc (wakeCore xd.2 site) st x) st 1 (traceUnit x) x.seq
        afterStep { d with handoff := d.handoff ++ [⟨site, u, ⟨BitVec.ofNat 16 st, BitVec.ofNat 32 x.seq, x.bytes⟩⟩] } st
  | _, _ => d

/-- Every condition of R193 holds for the stream's next descriptor. -/
def ready (d : Dev) (st : Nat) : Bool :=
  match nextDesc d st, strmSite d st with
  | some x, some site =>
    strmState d st == 1 && !(getStrm d st).stopping && waitsMet x &&
      !(hBarrier x.bytes && !(isFollower x.bytes) && cnt d st Reg.HUB_STRM_COMMIT != x.seq) && !(dispatchHeld d st site) &&
      (hEngine x.bytes == 8 || hEngine x.bytes == 9 || (pickUnit d site x.bytes).isSome)
  | _, _ => false

/-- A core's scheduler serves stream `a` before stream `b` (R187): the higher priority first, equal ones in rotation by number. -/
def servedBefore (d : Dev) (core a b : Nat) : Bool :=
  let prio (st : Nat) : Nat := strmCfg d st Fld.HUB_STRM_CFG_prio
  let place (st : Nat) : Nat := (st + 65536 - Sparse.get 0 d.turn core) % 65536
  decide (prio b < prio a) || (prio a == prio b && decide (place a < place b))

/-- Another stream of the same core is ready and is served first (R187). -/
def outranked (d : Dev) (st : Nat) : Bool :=
  d.strm.any (fun x => x.1 != st && strmCore d x.1 == strmCore d st && ready d x.1 && servedBefore d (strmCore d st) x.1 st)

/-- DESCRIPTOR_DISPATCH (R187, R193): the waits of the stream's next descriptor are examined, and it goes to its engine if every
condition holds and no other ready stream of the core is served first. -/
def execDescriptorDispatch (stream : BitVec 16) (s : State) : Host.Outcome State Fault Refusal :=
  s.run (fun _ d =>
    let st := stream.toNat
    let d := examine d st
    if ready d st = false then dispatchNext d st
    else if outranked d st then d
    else
      let d := dispatchNext d st
      { d with turn := Sparse.set 0 d.turn (strmCore d st) ((st + 1) % 65536) })

/-! ### Commit (R194, R198) -/

/-- A commit may be decided: the ring has room for its record (R199), and no earlier record waits that may yet be lost, after which
the stream stops at that record's descriptor (R588). -/
def recRoom (d : Dev) (st : Nat) : Bool :=
  (getStrm d st).recs.isEmpty && decide (sub32 (cnt d st Reg.HUB_STRM_CQT) (cnt d st Reg.HUB_STRM_CQH) < 2 ^ (compRing d st).2.2)

/-- Perform the ADD, SET, MAX and UNLOCK slots from slot `i` on, in order (R214): refused or not; none where a remote
operation has no place and the commit waits. -/
def commitSlots (st q : Nat) (b : List Byte) : Nat → Nat → Dev → Option (Bool × Dev)
  | 0, _, d => some (true, d)
  | fuel + 1, i, d =>
    if 4 ≤ i then some (true, d)
    else
      let x := slotOf b i
      let code := if x.op = 2 then 0 else if x.op = 3 then 2 else 1
      if x.op = 0 ∨ x.op = 1 ∨ x.op = 5 then commitSlots st q b fuel (i + 1) d
      else if x.remote then
        match sendCounterOp d st q code x.node x.counter x.value with
        | none => none
        | some d => commitSlots st q b fuel (i + 1) d
      else if x.op = 6 then
        let c := getCtr d x.counter
        if c.holder = some st then commitSlots st q b fuel (i + 1) (setCtr d x.counter { c with holder := none })
        else some (false, d)
      else
        let r := ctrDo d (some st) x.counter code x.value
        if r.1 then commitSlots st q b fuel (i + 1) r.2 else some (false, r.2)

/-- The header signal of an OK descriptor, or the poison that takes its place (R194). -/
def headerSignal (d : Dev) (st status : Nat) (b : List Byte) : Dev :=
  if !(hSigEn b) then d
  else if status = 0 then (ctrDo d (some st) (hSigCtr b) (hSigOp b) (hSigVal b)).2
  else if strmCfg d st Fld.HUB_STRM_CFG_abort_poison = 1 ∧ ctrOwned d st (hSigCtr b) = true then ctrPoison d (hSigCtr b)
  else d

/-- A status stops the stream (R201). -/
def statusStops (d : Dev) (st status : Nat) : Bool :=
  decide (0x80 ≤ status) || (status != 0 && strmCfg d st Fld.HUB_STRM_CFG_stop_on_err == 1)

/-- A unit of the stream's core has one more descriptor committed (Table 17.17). -/
def countDone (d : Dev) (st e : Nat) : Dev :=
  match strmSite d st with
  | some s =>
    let a := Sparse.get {} d.dbg.act (16 * s + e)
    { d with dbg := { d.dbg with act := Sparse.set {} d.dbg.act (16 * s + e) { a with done := a.done + 1 } } }
  | none => d

/-- Decide a descriptor: signal, record, counts (R194, R197, R198). -/
def settleDesc (d : Dev) (st : Nat) (x : SDesc) (status : Nat) : Dev :=
  let d := headerSignal d st status x.bytes
  let d := traceStrm (countDone d st (traceUnit x)) st 3 (traceUnit x) (x.seq % 2 ^ 24 + 2 ^ 24 * status)
  let d := setCnt d st Reg.HUB_STRM_COMMIT (x.seq + 1)
  let d := fset d Reg.HUB_STRM_STAT [st] Fld.HUB_STRM_STAT_last_status status
  let r : CRec :=
    { seq := x.seq, status := status, detail := x.detail, time := d.tb, flags := x.flags,
      replayed := (getStrm d st).replay.contains x.seq && x.sent.isSome, kind := 0, engine := hEngine x.bytes, unit := x.unit,
      core := strmCore d st, busy := x.busy, irq := hIrq x.bytes}
  if hQuiet x.bytes && status == 0 && x.flags == {} && x.detail == 0 then (if hIrq x.bytes then strmVector d st else d)
  else pushRec d st r

/-- Commit the head of a stream, if it is done and the commit is not held back; none where nothing commits. -/
def commitOne (e : Env) (d : Dev) (st : Nat) : Option Dev :=
  let s := getStrm d st
  match s.held with
  | [] => none
  | x :: rest =>
    if x.phase ≠ .done ∨ s.stopping ∨ recRoom d st = false ∨ strmState d st ≠ 1 ∨ s.abort = some x.seq ∨ s.disabling ∨ devHalted d then none
    else
      let run : Option (Nat × Dev) :=
        if x.status ≠ 0 then some (x.status, d)
        else if hEngine x.bytes = 8 then (commitSlots st x.seq x.bytes 5 0 d).map (fun r => (if r.1 then 0 else 0x87, r.2))
        else if hEngine x.bytes = 9 then
          match pkgAtomic e d (schedReq d st) (dfield x.bytes 16 51 0) .recAdvance with
          | (.ok _, d) => some (0, d)
          | (.error _, d) => some (0x06, d)
        else some (0, d)
      run.map (fun r =>
        let d := setStrm r.2 st { getStrm r.2 st with held := rest }
        let d := settleDesc d st x r.1
        if statusStops d st r.1 then setStrm d st { getStrm d st with stopping := true } else d)

/-- Commit as many as may commit, in order. -/
def commitAll (e : Env) (st : Nat) : Nat → Dev → Dev
  | 0, d => d
  | fuel + 1, d => match commitOne e d st with | none => d | some d => commitAll e st fuel d

/-- Take the first final status that an engine reported for a stream: its descriptor is done. -/
def takeDone (d : Dev) (st : Nat) : Dev :=
  match d.engDone.find? (fun x => x.stream.toNat == st) with
  | none => d
  | some x =>
    let d := { d with engDone := d.engDone.erase x }
    match (getStrm d st).held.find? (fun y => y.seq == x.seq.toNat && y.phase == .dispatched) with
    | none => d
    | some y =>
      let busy := min (d.tb - y.sent.getD d.tb) 0xFFFFFFFF
      let d := traceStrm d st 2 (traceUnit y) y.seq
      putDesc d st { y with phase := .done, status := x.status, flags := x.flags, detail := x.detail, busy := busy }

/-- DESCRIPTOR_DONE (R194): an engine's final status makes a descriptor done, and what is done commits in order. -/
def execDescriptorDone (stream : BitVec 16) (s : State) : Host.Outcome State Fault Refusal :=
  s.run (fun e d => commitAll e stream.toNat 17 (takeDone d stream.toNat))

/-- Commit the head if it is a descriptor of an engine code. -/
def commitKind (e : Env) (d : Dev) (st eng : Nat) : Dev :=
  match (getStrm d st).held with
  | x :: _ => if hEngine x.bytes = eng then (commitOne e d st).getD d else d
  | [] => d

/-- SYNC (R214): a SYNC descriptor commits, its slots performed in order. -/
def execSyncDesc (stream : BitVec 16) (s : State) : Host.Outcome State Fault Refusal :=
  s.run (fun e d => commitKind e d stream.toNat 8)

/-- WADV (R215): a WADV descriptor commits with the window advance of its record. -/
def execWadv (stream : BitVec 16) (s : State) : Host.Outcome State Fault Refusal :=
  s.run (fun e d => commitKind e d stream.toNat 9)

/-! ### Records (R197, R199, R200, R588) -/

/-- The 32 bytes of a record (Table 6.5). -/
def recBytes (st : Nat) (r : CRec) (phase : Bool) : List Byte :=
  leBytes 8 (r.seq + st * 2 ^ 32 + r.status * 2 ^ 48 + r.detail * 2 ^ 56) ++ leBytes 8 r.time ++
  leBytes 8 (bit r.flags.spillLow + 2 * bit r.flags.spillHigh + 4 * bit r.flags.nan + 8 * bit r.flags.infPos +
    16 * bit r.flags.infNeg + 32 * bit r.replayed + 64 * r.kind + r.engine * 2 ^ 8 + r.unit * 2 ^ 13 + r.core * 2 ^ 16) ++
  leBytes 8 (r.busy + bit phase * 2 ^ 63)

/-- Take a stream out of service once a disable has been carried out (R186). -/
def strmOff (d : Dev) (st : Nat) : Dev :=
  let d := fset (setStrmState d st 0) Reg.HUB_STRM_CFG [st] Fld.HUB_STRM_CFG_enable 0
  let d := fset d Reg.HUB_STRM_STAT [st] Fld.HUB_STRM_STAT_abort_pend 0
  setStrm (breakLocks d st) st { doorbell := (getStrm d st).doorbell }

/-- The state that a change ends in is entered once its last record is written; the vector is signalled (R200, R201). -/
def reachGoal (d : Dev) (st : Nat) : Dev :=
  let x := getStrm d st
  match x.goal with
  | none => d
  | some g =>
    if !x.recs.isEmpty then d
    else
      let d := strmVector (setStrmState (setStrm d st { x with goal := none }) st g) st
      if x.disabling then strmOff d st else d

/-- The first record is gone from the queue, and the completion count has advanced. -/
def popRec (d : Dev) (st : Nat) : Dev :=
  let x := getStrm d st
  setCnt (setStrm d st { x with recs := x.recs.drop 1 }) st Reg.HUB_STRM_CQT (cnt d st Reg.HUB_STRM_CQT + 1)

/-- A record write has failed (R588): the record is lost, cq_err is set, the error recorded, and the stream stops. -/
def recordLost (d : Dev) (st : Nat) (er : MemErr) (a : Nat) : Dev :=
  let d := fset (popRec d st) Reg.HUB_STRM_STAT [st] Fld.HUB_STRM_STAT_cq_err 1
  let part := partOfStream d st
  let d := match er with
    | .poison => d
    | .timeout => report d { source := 0x17, unit := match strmPort d st with
                               | some p => unitPort p | none => 0,
                             detail := low32 (a / 8), part := part}
    | _ => report d { source := 0x02, unit := match strmSite d st with
                        | some s => unitSite s | none => 0, detail := low32 (a / 8),
                      part := part}
  let x := getStrm d st
  reachGoal (if strmState d st = 1 ∧ x.goal = none then setStrm d st { x with stopping := true } else d) st

/-- COMPLETION_RECORD_WRITE (R197, R199, R200): the oldest waiting record is written, and the vector signalled where its
descriptor asks; `resp` is the answer of host memory. -/
def execCompletionRecordWrite (stream : BitVec 16) (resp : Resp) (s : State) : Host.Outcome State Fault Refusal :=
  s.run (fun e d =>
    let st := stream.toNat
    let x := getStrm d st
    let r := compRing d st
    let n := cnt d st Reg.HUB_STRM_CQT
    match x.recs with
    | [] => reachGoal d st
    | c :: _ =>
      if devHalted d ∨ 2 ^ r.2.2 ≤ sub32 n (cnt d st Reg.HUB_STRM_CQH) then d
      else
        let a := r.1 + 32 * (n % 2 ^ r.2.2)
        let b := recBytes st c ((n / 2 ^ r.2.2) % 2 == 0)
        let done (d : Dev) : Dev := let d := popRec d st; reachGoal (if c.irq then strmVector d st else d) st
        if r.2.1 then
          match pkgWrite e d (schedReq d st) a b (allEnabled 32) with
          | (none, d) => done d
          | (some er, d) => recordLost d st er a
        else match strmPort d st with
          | none => recordLost d st .noTarget a
          | some p =>
            if !(portUp d p) then recordLost d st .noTarget a
            else match resp with
              | .ok => done (emit d (.hostWrite p a b))
              | .err er => recordLost d st er a)

/-- RECORD_WRITE_ERROR (R588): a record write completed with an error. -/
def execRecordWriteError (stream : BitVec 16) (err : MemErr) (s : State) : Host.Outcome State Fault Refusal :=
  s.run (fun _ d =>
    let st := stream.toNat
    if (getStrm d st).recs.isEmpty || devHalted d then d
    else
      let r := compRing d st
      recordLost d st err (r.1 + 32 * (cnt d st Reg.HUB_STRM_CQT % 2 ^ r.2.2)))

/-! ### Stops (R186, R201, R202, R205) -/

/-- Engines stop working on a descriptor (R201). -/
def pullDesc (d : Dev) (st : Nat) (x : SDesc) : Dev :=
  let q := BitVec.ofNat 32 x.seq
  let t := BitVec.ofNat 16 st
  let d := { d with
      handoff := d.handoff.filter (fun h => !(h.job.stream == t && h.job.seq == q)),
      engDone := d.engDone.filter (fun r => !(r.stream == t && r.seq == q))}
  match strmSite d st with
  | none => d
  | some site =>
    (List.range 12).foldl (fun d u => engAbort d site (u + 1) t q) (mxeAbort d site t q)

/-- Complete every descriptor of a list with a status, in order. -/
def flushDescs (st status : Nat) : List SDesc → Dev → Dev
  | [], d => d
  | x :: xs, d =>
    flushDescs st status xs (settleDesc (pullDesc d st x) st
      { x with flags := {}, detail := 0, busy := if x.phase = .dispatched then d.tb - x.sent.getD d.tb else x.busy } status)

/-- The result record of a pending abort, after the records of the change (R202). -/
def settleAbort (d : Dev) (st : Nat) : Dev :=
  let x := getStrm d st
  let d := match x.abort with
    | some a => pushRec d st (mkRec d st a (if x.taken then 0x90 else 0x93) 1)
    | none => d
  fset (setStrm d st { getStrm d st with abort := none, taken := false }) Reg.HUB_STRM_STAT [st] Fld.HUB_STRM_STAT_abort_pend 0

/-- Stop a stream (R201): everything fetched is flushed, locks are broken, and the state follows the last record. -/
def stopStream (d : Dev) (st : Nat) : Dev :=
  let x := getStrm d st
  let d := setStrm d st { x with held := [] }
  let d := flushDescs st 0x81 x.held d
  let d := settleAbort d st
  let d := breakLocks d st
  let d := setStrm d st { getStrm d st with stopping := false, goal := some 2, replay := [], recov := [] }
  reachGoal d st

/-- STREAM_STOP (R201). -/
def execStreamStop (stream : BitVec 16) (s : State) : Host.Outcome State Fault Refusal :=
  s.run (fun _ d => if (getStrm d stream.toNat).stopping then stopStream d stream.toNat else d)

/-- The descriptor at the commit count is ABORTED (R201, R202): one not yet fetched is counted as fetched, and with
abort_poison its ring entry is read once for its signal counter. -/
def abortHead (e : Env) (d : Dev) (st : Nat) : Dev :=
  let x := getStrm d st
  match x.held with
  | y :: rest =>
    let d := setStrm d st { x with held := rest, stopping := true }
    flushDescs st 0x80 [y] d
  | [] =>
    let q := cnt d st Reg.HUB_STRM_COMMIT
    let d := if strmCfg d st Fld.HUB_STRM_CFG_abort_poison = 1 then
        match readEntry e d st q with
        | (.ok b, d) => if hSigEn b && ctrOwned d st (hSigCtr b) then ctrPoison d (hSigCtr b) else d
        | (.error _, d) => d
      else d
    let d := setCnt (setCnt d st Reg.HUB_STRM_FETCH (q + 1)) st Reg.HUB_STRM_COMMIT (q + 1)
    let d := fset d Reg.HUB_STRM_STAT [st] Fld.HUB_STRM_STAT_last_status 0x80
    let d := pushRec d st (mkRec d st q 0x80 0)
    setStrm d st { getStrm d st with stopping := true }

/-- Write the result of an abort that changes nothing, and forget it. -/
def abortResult (d : Dev) (st a status : Nat) : Dev :=
  let d := pushRec d st (mkRec d st a status 1)
  fset (setStrm d st { getStrm d st with abort := none }) Reg.HUB_STRM_STAT [st] Fld.HUB_STRM_STAT_abort_pend 0

/-- ABORT_DECIDED (R186, R202): the pending abort is decided at the commit, or a disable's. -/
def execAbortDecided (stream : BitVec 16) (ext : List Byte) (s : State) : Host.Outcome State Fault Refusal :=
  s.run (fun e d =>
    let st := stream.toNat
    let x := getStrm d st
    let c := cnt d st Reg.HUB_STRM_COMMIT
    let d := { d with extIn := ext }
    if x.stopping || x.goal.isSome then d
    else if x.disabling then (if recRoom d st then abortHead e d st else d)
    else match x.abort with
      | none => d
      | some a =>
        if ge32 a c = false then abortResult d st a 0x91
        else if ge32 a (cnt d st Reg.HUB_STRM_TAIL) then abortResult d st a 0x92
        else if strmState d st = 2 ∨ strmState d st = 4 then abortResult d st a 0x93
        else if a ≠ c ∨ recRoom d st = false then d
        else
          let d := abortHead e d st
          setStrm d st { getStrm d st with taken := true })

/-- STREAM_TIMEOUT (R205): a dispatched descriptor passes the limit; it takes TIMEOUT, and the stream stops at it. -/
def execStreamTimeout (stream : BitVec 16) (seq : BitVec 32) (s : State) : Host.Outcome State Fault Refusal :=
  s.run (fun _ d =>
    let st := stream.toNat
    match (getStrm d st).held.find? (fun x => x.seq == seq.toNat && x.phase == .dispatched) with
    | none => d
    | some x =>
      if fget d Reg.HUB_STRM_LIMIT [st] Fld.HUB_STRM_LIMIT_limit_us = 0 then d
      else
        let d := pullDesc d st x
        let d := putDesc d st { x with phase := .done, status := 0x82, busy := min (d.tb - x.sent.getD d.tb) 0xFFFFFFFF }
        report d { source := 0x04, unit := match strmSite d st with
                     | some s => unitSite s | none => 0,
                   detail := low32 (st + seq.toNat % 2 ^ 16 * 2 ^ 16), part := partOfStream d st})

/-! ### Enable and configuration (R184-R186, R220) -/

/-- The stream that a path has selected. -/
def selected (d : Dev) (p : Path) : Nat := fget d Reg.HUB_STRM_SEL [pathIndex p] Fld.HUB_STRM_SEL_stream

/-- A ring passes the check of R185. -/
def ringOk (r : Nat × Bool × Nat) (entry : Nat) : Bool :=
  decide (6 ≤ r.2.2) && decide (r.2.2 ≤ 16) && (!r.2.1 || decide (r.1 < 2 ^ 52)) && r.1 % (entry * 2 ^ r.2.2) == 0

/-- The context passes the check of R185, and its partition is not FATAL (R528). -/
def contextOk (d : Dev) (st : Nat) : Bool :=
  (match partOfStream d st with | some q => partEnabled d q && !(partFatal d q) | none => false) && partOfCore d (strmCore d st) == partOfStream d st && (strmSite d st).isSome &&
    ringOk (subRing d st) 64 && ringOk (compRing d st) 32

/-- Set enable (R185). -/
def enableStream (d : Dev) (st : Nat) : Dev :=
  if contextOk d st then
    let d := [Reg.HUB_STRM_TAIL, Reg.HUB_STRM_FETCH, Reg.HUB_STRM_COMMIT, Reg.HUB_STRM_CQT, Reg.HUB_STRM_CQH].foldl
      (fun d r => setCnt d st r 0) d
    let d := setStrm d st { doorbell := (getStrm d st).doorbell }
    setStrmState (fset d Reg.HUB_STRM_CFG [st] Fld.HUB_STRM_CFG_enable 1) st 1
  else fset d Reg.HUB_STRM_STAT [st] Fld.HUB_STRM_STAT_cfg_err 1

/-- Clear enable (R186). -/
def disableStream (e : Env) (d : Dev) (st : Nat) : Dev :=
  let x := getStrm d st
  let state := strmState d st
  let d := setStrm d st { x with disabling := true, halt := 0 }
  if x.goal.isSome || x.stopping then d
  else if state = 1 ∨ state = 3 then
    if cnt d st Reg.HUB_STRM_TAIL = cnt d st Reg.HUB_STRM_COMMIT then stopStream d st
    else if recRoom d st then abortHead e d st else d
  else if x.recs.isEmpty then strmOff d st
  else setStrm d st { getStrm d st with goal := some state }

/-- A write of HUB_STRM_CFG (R184-R186). -/
def strmCfgRegWrite (e : Env) (d : Dev) (p : Path) (st : Nat) (data : Word) : Dev :=
  let want := Fld.HUB_STRM_CFG_enable.get data == 1
  if strmOn d st then
    if want then regEvent d p (Reg.HUB_STRM_CFG.key []) else disableStream e d st
  else
    let d := Reg.HUB_STRM_CFG.store d [st] false (Fld.HUB_STRM_CFG_enable.put data 0)
    if want then enableStream d st else d

/-- The context registers by offset in the stream block (Tables 6.12 to 6.18). -/
def strmReg (off : Nat) : Option RegDesc :=
  match off with
  | 0x04 => some Reg.HUB_STRM_CFG | 0x08 => some Reg.HUB_STRM_LIMIT | 0x10 => some Reg.HUB_STRM_SQ_LO
  | 0x14 => some Reg.HUB_STRM_SQ_HI | 0x18 => some Reg.HUB_STRM_CQ_LO | 0x1C => some Reg.HUB_STRM_CQ_HI
  | 0x20 => some Reg.HUB_STRM_SEED_LO | 0x24 => some Reg.HUB_STRM_SEED_HI | 0x30 => some Reg.HUB_STRM_STAT
  | 0x34 => some Reg.HUB_STRM_COMMIT | 0x38 => some Reg.HUB_STRM_FETCH | 0x3C => some Reg.HUB_STRM_TAIL
  | 0x40 => some Reg.HUB_STRM_CQT | 0x44 => some Reg.HUB_STRM_CQH | _ => none

/-- A write of the stream block through a path (R184, R220): the selected stream must be the path's. -/
def strmRegWrite (e : Env) (d : Dev) (p : Path) (off : Nat) (data : Word) : Dev :=
  let addr := 0x10000 + off
  if off = 0 then fset d Reg.HUB_STRM_SEL [pathIndex p] Fld.HUB_STRM_SEL_stream (data.toNat % 2 ^ 16)
  else
    let st := selected d p
    if pathOwns d p (partOfStream d st) = false then regEvent d p addr
    else if off = 0x04 then strmCfgRegWrite e d p st data
    else match strmReg off with
      | none => d
      | some r =>
        if off = 0x30 then r.store d [st] false data
        else if strmOn d st then regEvent d p addr
        else r.store d [st] false data

/-- A read of the stream block through a path (R220). -/
def strmRegRead (d : Dev) (p : Path) (off : Nat) : Word × Dev :=
  if off = 0 then (rdReg d Reg.HUB_STRM_SEL [pathIndex p], d)
  else
    let st := selected d p
    if pathOwns d p (partOfStream d st) = false then (0, regEvent d p (0x10000 + off))
    else match strmReg off with
      | none => (0, d)
      | some r =>
        let w := rdReg d r [st]
        if off = 0x30 then
          let w := Fld.HUB_STRM_STAT_inflight.put w (sub32 (cnt d st Reg.HUB_STRM_FETCH) (cnt d st Reg.HUB_STRM_COMMIT))
          (Fld.HUB_STRM_STAT_lock_held.put w (bit (lockHeld d st)), d)
        else (w, d)

/-- STREAM_ENABLE (R185): a write of the selected stream's HUB_STRM_CFG with enable set. -/
def execStreamEnable (p : Path) (data : Word) (s : State) : Host.Outcome State Fault Refusal :=
  s.run (fun e d => if portHalted d p then d else strmRegWrite e d p 0x04 (Fld.HUB_STRM_CFG_enable.put data 1))

/-- STREAM_DISABLE (R186): a write with enable clear. -/
def execStreamDisable (p : Path) (data : Word) (ext : List Byte) (s : State) : Host.Outcome State Fault Refusal :=
  s.run (fun e d => if portHalted d p then d else strmRegWrite e { d with extIn := ext } p 0x04 (Fld.HUB_STRM_CFG_enable.put data 0))

/-- STREAM_CFG_WRITE (R184): a write of a register of the selected stream's context. -/
def execStreamCfgWrite (p : Path) (off : BitVec 8) (data : Word) (s : State) : Host.Outcome State Fault Refusal :=
  s.run (fun e d => if portHalted d p then d else strmRegWrite e d p (off.toNat / 4 * 4) data)

/-! ### Recovery after a core fault (R216, Table 6.10) -/

/-- The enabled streams bound to a logical core. -/
def boundStreams (d : Dev) (core : Nat) : List Nat :=
  (d.regs.filterMap (fun r => if Reg.HUB_STRM_CFG.base ≤ r.1 ∧ r.1 < Reg.HUB_STRM_CFG.base + 0x100 * 65536 ∧
      (r.1 - Reg.HUB_STRM_CFG.base) % 0x100 = 0 then some ((r.1 - Reg.HUB_STRM_CFG.base) / 0x100) else none)).filter
    (fun st => strmOn d st && strmCore d st == core)

/-- A stream becomes LOST (R216): its uncommitted descriptors complete with CORE_LOST, its locks are broken. -/
def loseStream (d : Dev) (st : Nat) : Dev :=
  let x := getStrm d st
  let xs := x.held ++ x.recov
  let d := setStrm d st { x with held := [], recov := [] }
  let d := flushDescs st 0x83 xs d
  let d := setCnt d st Reg.HUB_STRM_FETCH (cnt d st Reg.HUB_STRM_COMMIT)
  let d := settleAbort d st
  let d := breakLocks d st
  reachGoal (setStrm d st { getStrm d st with stopping := false, goal := some 4, replay := [] }) st

/-- The partition's replay-recovery setting is on (R216). -/
def replayOn (d : Dev) (st : Nat) : Bool :=
  match partOfStream d st with | some q => fbit d Reg.HUB_PART_CTL [q] Fld.HUB_PART_CTL_replay_rec | none => false

/-- A stream's core fails (Table 6.10 steps 1 and 2). -/
def faultStream (d : Dev) (st : Nat) : Dev :=
  let x := getStrm d st
  if strmState d st ≠ 1 then d
  else match x.held with
    | [] => setStrmState d st 3
    | y :: _ =>
      if replayOn d st && hReplay y.bytes then
        let d := x.held.foldl (fun d y => pullDesc d st y) d
        let d := setStrm d st { getStrm d st with
          held := [], recov := x.held, replay := (x.held.filter (fun y => y.sent.isSome)).map (·.seq), stopping := false }
        setStrmState (setCnt d st Reg.HUB_STRM_FETCH (cnt d st Reg.HUB_STRM_COMMIT)) st 3
      else loseStream d st

/-- Every stream of a failed core (R216). -/
def faultStreams (d : Dev) (core : Nat) : Dev := (boundStreams d core).foldl faultStream d

/-- No spare remains: every stream of the core becomes LOST, STOPPED ones included (R216). -/
def loseStreams (d : Dev) (core : Nat) : Dev :=
  (boundStreams d core).foldl (fun d st => if strmState d st = 4 then d else loseStream d st) d

/-- STREAM_REFETCH (R216, Table 6.10 step 4): the core has a site again, and the stream runs from its commit count. -/
def execStreamRefetch (stream : BitVec 16) (s : State) : Host.Outcome State Fault Refusal :=
  s.run (fun _ d =>
    let st := stream.toNat
    if strmState d st = 3 ∧ (strmSite d st).isSome then
      setStrmState (setStrm d st { getStrm d st with recov := [] }) st 1
    else d)

/-- STREAMS_LOST (R216): the core has no site and no spare remains. -/
def execStreamsLost (core : Fin 32) (s : State) : Host.Outcome State Fault Refusal :=
  s.run (fun _ d => if (siteOfCore d core.val).isNone then loseStreams d core.val else d)

end Sys2Proof.Machine
end

