-- ==== Sys2Proof/Machine/Coherence.lean ====
section
/-!
DEFINITION. Coherence of the HBM region (R238-R249): the homes' directory and transactions, the agents' answers, crossings,
lost agents, home atomics; and the memory side of it: the range table (R225), decoding of lines (R230), scrub, the cache
slices (R237).
-/
namespace Sys2Proof.Machine

/-! ### HBM ranges -/

/-- The slice of a range, as first and end GiB of each stack. -/
def rangeSlice (w : Word) : Nat × Nat :=
  (Fld.HUB_HBM_RANGE_off_gib.get w, Fld.HUB_HBM_RANGE_off_gib.get w + Fld.HUB_HBM_RANGE_len_gib.get w)

/-- A range is refused: empty, beyond the stack's capacity, or overlapping an enabled range below it (R225). -/
def rangeBad (cap : Nat) (d : Dev) (i : Nat) : Bool :=
  let w := rdReg d Reg.HUB_HBM_RANGE [i]
  let s := rangeSlice w
  Fld.HUB_HBM_RANGE_len_gib.get w == 0 || decide (cap < s.2) ||
    (List.range i).any (fun j =>
      let t := rangeSlice (rdReg d Reg.HUB_HBM_RANGE [j])
      rangeOn d j && decide (s.1 < t.2) && decide (t.1 < s.2))

/-- Check range i and give it its base (R225, R226). -/
def lockRange (cap : Nat) (d : Dev) (i : Nat) : Dev :=
  if !(rangeOn d i) then d
  else if rangeBad cap d i then
    let d := fset d Reg.HUB_HBM_RANGE [i] Fld.HUB_HBM_RANGE_enable 0
    let d := fset d Reg.HUB_HBM_RANGE [i] Fld.HUB_HBM_RANGE_err 1
    fset d Reg.HUB_HBM_CFG [] Fld.HUB_HBM_CFG_cfg_err 1
  else
    let base := (List.range i).foldl (fun n j => if rangeOn d j then n + rangeGib d j else n) 0
    fset d Reg.HUB_HBM_RANGE [i] Fld.HUB_HBM_RANGE_base_gib base

/-- A write of HUB_HBM_CFG: setting the lock checks every enabled range, once; the ranges are then decoded (R225). -/
def rangeLockWrite (gradeB : Bool) (d : Dev) (data : Word) : Dev :=
  if rangesLocked d || Fld.HUB_HBM_CFG_lock.get data = 0 then d
  else
    let d := fset d Reg.HUB_HBM_CFG [] Fld.HUB_HBM_CFG_lock 1
    let d := (List.range 32).foldl (lockRange (if gradeB then 36 else 48)) d
    fset d Reg.HUB_HBM_CFG [] Fld.HUB_HBM_CFG_ready 1

/-- HBM_RANGE_LOCK (R225): a write of HUB_HBM_CFG, which MFW makes at boot; another path's is refused (R14 and the BAR0
filter are checked by the register access, REG_WRITE). -/
def execHbmRangeLock (p : Path) (data : Word) (s : State) : Host.Outcome State Fault Refusal :=
  s.run (fun e d => if portHalted d p then d else match p with
    | .port _ => regEvent d p 0x2000
    | _ => rangeLockWrite e.fuses.gradeB d data)

/-! ### Agents and homes -/

/-- The coherence agent that a requester is (Table 7.3): a core is behind its die's base cache; a host where its port holds
a committed HDM range; a guest die whose agreed profile has coh. -/
def agentOf (d : Dev) : Source → Option Nat
  | .core s => some (s.val / 6)
  | .port p => if fbit d Reg.HOST_PORT_STAT [p.val] Fld.HOST_PORT_STAT_agent then some (6 + p.val) else none
  | .guest g => if guestActive d g.val && tbit (rdReg d Reg.PRV_PROF [g.val, 0]).toNat 26 then some (10 + g.val) else none
  | _ => none

/-- Base cache m keeps copies: in use and not fenced (R233, R237). -/
def cacheUsed (d : Dev) (m : Nat) : Bool :=
  fbit d Reg.PKM_CACHE_CFG [m] Fld.PKM_CACHE_CFG_enable && !(fbit d Reg.PKM_CACHE_CFG [m] Fld.PKM_CACHE_CFG_fenced)
    && decide (0 < fget d Reg.PKM_CACHE_CFG [m] Fld.PKM_CACHE_CFG_remote_ways)

/-- The home of a line. -/
def lineHome (d : Dev) (line : Nat) : Nat := (homeOf d (128 * line)).getD 0

/-- A transaction holds a line (R243). -/
def lineBusy (d : Dev) (line : Nat) : Bool := d.coh.txns.any (fun t => t.lines.contains line)

/-- Transactions active at a home (PKM_DIR_STAT.inflight). -/
def homeLoad (d : Dev) (m : Nat) : Nat :=
  (d.coh.txns.filter (fun t => lineHome d (t.lines.headD 0) == m)).length

/-- The lines a request holds. -/
def reqLines (q : HReq) : List Nat :=
  match q.op with | some op => linesOf q.addr (opLen op) | none => [q.addr / 128]

/-- Replace the transaction that holds a line. -/
def setTxn (d : Dev) (t : Txn) : Dev :=
  { d with coh := { d.coh with txns := d.coh.txns.map (fun u => if u.lines = t.lines then t else u) } }

/-- End the transaction that holds given lines. -/
def endTxn (d : Dev) (t : Txn) : Dev :=
  { d with coh := { d.coh with txns := d.coh.txns.filter (fun u => decide (u.lines ≠ t.lines)) } }

/-- The transaction that holds a line. -/
def txnOf (d : Dev) (line : Nat) : Option Txn := d.coh.txns.find? (fun t => t.lines.contains line)

/-- The snoops a request makes at a line (Table 7.7a). -/
def snoopsAt (d : Dev) (q : HReq) (line : Nat) : List Snoop :=
  match Sparse.find d.coh.dir line with
  | none => []
  | some en =>
    let kind := if q.kind = 0 then 8 else if q.kind = 3 then 7 else 9
    if en.x then (if q.agent = some en.who ∧ q.kind < 3 then [] else [{ agent := en.who, line := line, kind := kind }])
    else if q.kind = 0 ∨ q.kind = 3 then []
    else ((vecAgents en.who).filter (fun a => !(decide (q.kind < 3) && q.agent == some a))).map
      (fun a => { agent := a, line := line, kind := kind })

/-- The requester of an Upg is recorded as a sharer (R246). -/
def isSharer (d : Dev) (q : HReq) : Bool :=
  match Sparse.find d.coh.dir (q.addr / 128), q.agent with
  | some en, some a => !en.x && tbit en.who a
  | _, _ => false

/-- Perform a write or atomic at its home and answer it (R244, R248). -/
def performReq (e : Env) (d : Dev) (q : HReq) : Dev :=
  let r : Requester := ⟨q.src, srcPart d q.src⟩
  match q.op with
  | some (.write bs ens) =>
    match pkgWrite e d r q.addr bs ens with
    | (none, d) => emit d (.memData q.src [])
    | (some er, d) => emit d (.memErr q.src er)
  | some (.read n) =>
    match pkgRead e d r q.addr n with
    | (.ok bs, d) => emit d (.memData q.src bs)
    | (.error er, d) => emit d (.memErr q.src er)
  | some op =>
    match pkgAtomic e d r q.addr op with
    | (.ok bs, d) => emit d (.memData q.src bs)
    | (.error er, d) => emit d (.memErr q.src er)
  | none => d

/-- Send the snoops of a transaction: those to hosts and guest dies leave the device. -/
def sendSnoops (d : Dev) (ss : List Snoop) : Dev :=
  ss.foldl (fun d s => if 6 ≤ s.agent then emit d (.coh s.agent s.kind s.line []) else d) d

/-- Start a request at its home (R243, R244): a write or atomic that meets no copy is performed at once; anything else
becomes a transaction with its transient states. -/
def startReq (e : Env) (d : Dev) (q : HReq) : Dev :=
  let lines := reqLines q
  let snoops := lines.flatMap (snoopsAt d q)
  let sharer := q.kind == 2 && isSharer d q
  if 4 ≤ q.kind ∧ q.kind < 30 ∧ snoops = [] then performReq e d q
  else
    let excl := if q.kind = 0 then
        (match q.agent with | some a => decide (6 ≤ a) | none => false) && (Sparse.find d.coh.dir (q.addr / 128)).isNone
      else sharer
    let t : Txn := { req := q, lines := lines, rd := decide (q.kind < 4) && !sharer, snoops := snoops, excl := excl }
    sendSnoops { d with coh := { d.coh with txns := d.coh.txns ++ [t] } } snoops

/-- A request may start: none of its lines is held, its home has room, and no request for its lines waits before it
(R243). -/
def canStart (d : Dev) (ahead : List HReq) (q : HReq) : Bool :=
  let lines := reqLines q
  lines.all (fun l => !(lineBusy d l)) && decide (homeLoad d (lineHome d (lines.headD 0)) < 1024)
    && lines.all (fun l => ahead.all (fun p => !((reqLines p).contains l)))

/-- The first waiting request that may start, with the queue without it. -/
def nextWaiting (d : Dev) : List HReq → List HReq → Option (HReq × List HReq)
  | _, [] => none
  | ahead, q :: qs => if canStart d ahead q then some (q, ahead ++ qs) else nextWaiting d (ahead ++ [q]) qs

/-- Entries of the set that a line of a home falls in. -/
def dirSetOf (d : Dev) (line : Nat) : List (Nat × DirEnt) :=
  d.coh.dir.filter (fun x => lineHome d x.1 == lineHome d line && Config.dirSet x.1 % 2 ^ 19 == Config.dirSet line % 2 ^ 19)

/-- A grant needs a new entry and its set is full (R240). -/
def dirFull (d : Dev) (line : Nat) : Bool :=
  (Sparse.find d.coh.dir line).isNone && decide (16 ≤ d.coh.dir.length) && decide (16 ≤ (dirSetOf d line).length)

/-- The entry allocated longest ago whose line no transaction holds (R240). -/
def dirVictim (d : Dev) (line : Nat) : Option Nat :=
  ((dirSetOf d line).filter (fun x => !(lineBusy d x.1))).foldl (fun b x =>
    match b with
    | none => some x
    | some y => if x.2.born < y.2.born then some x else some y) none |>.map (·.1)

/-- A transaction waits for nothing and has granted nothing. -/
def txnReady (d : Dev) (t : Txn) : Bool :=
  !t.rd && t.snoops.isEmpty && t.evw.isEmpty && t.grant.isNone &&
    (match t.hdir with | some v => !(lineBusy d v) | none => true) &&
    (!(decide (t.req.kind < 3) && dirFull d (t.lines.headD 0)) || (dirVictim d (t.lines.headD 0)).isSome)

/-- The home copy of a line is poisoned, or its stack has failed. -/
def homePoison (d : Dev) (line : Nat) : Bool := hbmPoison d ((lineKeys d line).take 1)

/-- Grant a line to the requester's agent (R244): the directory's new entry, the message, and the wait in H_ACK. -/
def grantLine (d : Dev) (t : Txn) (a line : Nat) : Dev :=
  let old := Sparse.find d.coh.dir line
  let born := match old with | some en => en.born | none => d.coh.next
  let d := { d with coh := { d.coh with next := d.coh.next + 1 } }
  let sharedNow := t.req.kind == 0 && !t.excl
  let en : DirEnt := if sharedNow then
      { x := false, who := (match old with | some en => if en.x then 0 else en.who | none => 0) ||| 2 ^ a, born := born }
    else { x := true, who := a, born := born }
  let code := if sharedNow then 17 else if t.req.kind == 2 && t.excl && isSharer d t.req then 14 else 18
  setTxn (setDir d line (some en)) { t with grant := some code, hdir := none }

/-- Answer a requester with an error: its agent's pending request is withdrawn. -/
def failReq (d : Dev) (q : HReq) (er : MemErr) : Dev :=
  let line := q.addr / 128
  let d := emit d (.memErr q.src er)
  match q.agent with
  | none => d
  | some a =>
    let l := aLine d a line
    let d := (l.want.drop 1).foldl (fun d _ => emit d (.memErr q.src er)) d
    let d := setALine d a line { l with want := [] }
    match l.st with
    | .isD => setASt d a line .i
    | .imD => setASt d a line .i
    | .smD => setASt d a line .s
    | _ => d

/-- Finish a ready transaction: grant, return data, perform, or end (Table 7.7a). -/
def finishTxn (e : Env) (d : Dev) (t : Txn) : Dev :=
  let line := t.lines.headD 0
  if t.req.kind = 30 then setDir (endTxn d t) line none
  else if 4 ≤ t.req.kind then performReq e (endTxn d t) t.req
  else if t.req.kind = 3 ∧ 1 < t.lines.length then performReq e (endTxn d t) t.req
  else if t.req.kind = 3 then
    let d := endTxn d t
    let part (bs : List Byte) : List Byte :=
      match t.req.op with | some (.read n) => slice bs (t.req.addr % 128) n | _ => bs
    match t.cur with
    | some bs => emit d (.memData t.req.src (part bs))
    | none =>
      if homePoison d line then emit d (.memErr t.req.src .poison)
      else emit d (.memData t.req.src (part (rdBytes e d (lineKeys d line))))
  else if homePoison d line then failReq (endTxn d t) t.req .poison
  else if dirFull d line then
    match dirVictim d line with
    | none => d
    | some v =>
      let q : HReq := { kind := 30, src := t.req.src, agent := none, addr := 128 * v }
      let d := setTxn d { t with hdir := some v }
      startReq e (fincSat d Reg.PKM_DIR_STAT [lineHome d line] Fld.PKM_DIR_STAT_dir_evict 1) q
  else match t.req.agent with
    | some a => grantLine d t a line
    | none => endTxn d t

/-- Let the homes go on: finish what is ready and start what waits, in order, until nothing can. -/
def settleHomes (e : Env) : Nat → Dev → Dev
  | 0, d => d
  | n + 1, d =>
    match d.coh.txns.find? (txnReady d) with
    | some t => settleHomes e n (finishTxn e d t)
    | none =>
      match nextWaiting d [] d.coh.waiting with
      | some (q, rest) => settleHomes e n (startReq e { d with coh := { d.coh with waiting := rest } } q)
      | none => d

/-- As often as could be needed. -/
def settle (e : Env) (d : Dev) : Dev := settleHomes e (3 * (d.coh.txns.length + d.coh.waiting.length) + 3) d

/-- A request reaches its home: it waits its turn in arrival order (R243). -/
def homeRequest (e : Env) (d : Dev) (q : HReq) : Dev :=
  settle e { d with coh := { d.coh with waiting := d.coh.waiting ++ [q] } }

/-- The request of an agent for a line (R241): sent only where its state lets it, and never while its WbM awaits WbAck. -/
def agentRequest (e : Env) (d : Dev) (src : Source) (addr kind : Nat) : Dev :=
  match agentOf d src with
  | none => d
  | some a =>
    let line := addr / 128
    let cur := (aLine d a line).st
    let next : Option AState := match kind, cur with
      | 0, .i => some .isD
      | 0, .e => some .isD
      | 1, .i => some .imD
      | 1, .s => some .imD
      | 2, .s => some .smD
      | _, _ => none
    match next with
    | none => d
    | some st =>
      match reachErr d ⟨src, srcPart d src⟩ (128 * line) 128, targetOf d (128 * line) 128 with
      | some er, _ => refuse d src er addr
      | none, .hbm =>
        homeRequest e (setASt d a line st) { kind := kind, src := src, agent := some a, addr := 128 * line }
      | none, _ => refuse d src .noTarget addr

/-- RDS (R244): a base cache asks for a core's read, a host or guest die for a shared copy. -/
def execRds (src : Source) (addr : BitVec 52) (s : State) : Host.Outcome State Fault Refusal :=
  s.run (fun e d => agentRequest e d src addr.toNat 0)

/-- RDX (R244). A base cache never asks for ownership (Table 7.3). -/
def execRdx (src : Source) (addr : BitVec 52) (s : State) : Host.Outcome State Fault Refusal :=
  s.run (fun e d => match src with
    | .core _ => d
    | _ => agentRequest e d src addr.toNat 1)

/-- UPG (R244, R246). A base cache never asks for ownership (Table 7.3). -/
def execUpg (src : Source) (addr : BitVec 52) (s : State) : Host.Outcome State Fault Refusal :=
  s.run (fun e d => match src with
    | .core _ => d
    | _ => agentRequest e d src addr.toNat 2)

/-- A request that keeps no copy: refused with an error of Table 7.2, sent to the home of an HBM line, or served by its
target where that is not coherent (R236). -/
def plainRequest (e : Env) (d : Dev) (q : HReq) (len : Nat) : Dev :=
  match reachErr d ⟨q.src, srcPart d q.src⟩ q.addr len, targetOf d q.addr len with
  | some er, _ => refuse d q.src er q.addr
  | none, .hbm => homeRequest e d q
  | none, _ => performReq e d q

/-- RDCUR (R244): the current data of the line that holds an address. -/
def execRdcur (src : Source) (addr : BitVec 52) (s : State) : Host.Outcome State Fault Refusal :=
  s.run (fun e d => plainRequest e d { kind := 3, src := src, agent := none, addr := addr.toNat / 128 * 128, op := some (.read 128) } 128)

/-- WRLINE (R244): a write of a whole line. -/
def execWrline (src : Source) (addr : BitVec 52) (data : BitVec 1024) (s : State) : Host.Outcome State Fault Refusal :=
  s.run (fun e d => plainRequest e d { kind := 4, src := src, agent := none, addr := addr.toNat / 128 * 128, op := some (.write (leBytes 128 data.toNat) (allEnabled 128)) } 128)

/-- WRPART (R244): a byte-enabled write of a line. -/
def execWrpart (src : Source) (addr : BitVec 52) (data : BitVec 1024) (enables : BitVec 128) (s : State) :
    Host.Outcome State Fault Refusal :=
  s.run (fun e d => plainRequest e d { kind := 5, src := src, agent := none, addr := addr.toNat / 128 * 128, op := some (.write (leBytes 128 data.toNat) ((List.range 128).map (tbit enables.toNat))) } 128)

/-! ### Home atomics -/

/-- A home atomic by a requester (R248, R249): in the HBM region over at most two lines its home recalls every copy first;
in the normal views of a core window core memory performs it; anywhere else it completes with NOTARGET. -/
def atomRequest (e : Env) (d : Dev) (src : Source) (addr : Nat) (op : MemOp) : Dev :=
  if targetOf d addr (opLen op) = .hbm ∧ (linesOf addr (opLen op)).length ≤ 2 then
    plainRequest e d { kind := 6, src := src, agent := none, addr := addr, op := some op } (opLen op)
  else performReq e d { kind := 6, src := src, agent := none, addr := addr, op := some op }

/-- REC_REPORT (R61): a top, or none (0x8000), and flags into a window record. -/
def execRecReport (src : Source) (addr : BitVec 52) (top : BitVec 16) (flags : BitVec 5) (s : State) :
    Host.Outcome State Fault Refusal :=
  s.run (fun e d => atomRequest e d src addr.toNat (.recReport top flags))

/-- REC_ADVANCE (R62). -/
def execRecAdvance (src : Source) (addr : BitVec 52) (s : State) : Host.Outcome State Fault Refusal :=
  s.run (fun e d => atomRequest e d src addr.toNat .recAdvance)

/-- FADD32 (R248): up to 32 values. -/
def execFadd32 (src : Source) (addr : BitVec 52) (values : List Word) (enables : List Bool) (s : State) :
    Host.Outcome State Fault Refusal :=
  s.run (fun e d => atomRequest e d src addr.toNat
    (.fadd32 ((values.take 32).flatMap (fun w => leBytes 4 w.toNat)) (enables.take 32)))

/-- XADD (R248): a stored EX128 element of 24 bytes. -/
def execXadd (src : Source) (addr : BitVec 52) (value : BitVec 192) (s : State) : Host.Outcome State Fault Refusal :=
  s.run (fun e d => atomRequest e d src addr.toNat (.xadd (leBytes 24 value.toNat)))

/-- FETCH_ADD (R248): 4 or 8 bytes. -/
def execFetchAdd (src : Source) (addr : BitVec 52) (wide : Bool) (value : BitVec 64) (s : State) :
    Host.Outcome State Fault Refusal :=
  s.run (fun e d => atomRequest e d src addr.toNat (.fetchAdd (if wide then 8 else 4) value))

/-- SWAP (R248): 4 or 8 bytes. -/
def execAtomSwap (src : Source) (addr : BitVec 52) (wide : Bool) (value : BitVec 64) (s : State) :
    Host.Outcome State Fault Refusal :=
  s.run (fun e d => atomRequest e d src addr.toNat (.swap (if wide then 8 else 4) value))

/-- CAS (R248): 4, 8 or 16 bytes. -/
def execAtomCas (src : Source) (addr : BitVec 52) (width : Fin 3) (expect value : BitVec 128) (s : State) :
    Host.Outcome State Fault Refusal :=
  s.run (fun e d => atomRequest e d src addr.toNat (.cas (4 * 2 ^ width.val) expect value))

/-! ### Agents' answers -/

/-- The state that an agent's silent changes have brought it to (R241): E to M, E or S to I, and by its own choice an
eviction of M; a base cache only drops S. Of a host's line its port knows all but the changes of a half held in E (R448). -/
def silently (a : Nat) (l : ALine) (now : AState) : AState :=
  let old := l.st
  if 6 ≤ a ∧ a < 10 then
    (if old = .e ∧ now = .m ∧ (l.half0 = 2 ∨ l.half1 = 2) then .m else old)
  else match old, now with
  | .s, .i => .i
  | .e, .i => if a < 6 then old else .i
  | .e, .m => if a < 6 then old else .m
  | .e, .miA => if a < 6 then old else .miA
  | .m, .miA => if a < 6 then old else .miA
  | _, _ => old

/-- The answer of an agent to a snoop, and its new state (Table 7.5, R242). -/
def snoopAnswer (kind : Nat) (st : AState) (data : List Byte) (evbuf : Bool) : SnpAns × AState :=
  match st with
  | .s => if kind = 9 then (.rspI, .i) else (.rspS, .s)
  | .smD => if kind = 9 then (.rspI, .imD) else (.rspS, .smD)
  | .e => if kind = 9 then (.rspI, .i) else if kind = 8 then (.rspS, .s) else (.rspS, .e)
  | .m => (.dirty data, if kind = 9 then .i else if kind = 8 then .s else .m)
  | .miA => (if evbuf then .dirty data else .evicting, .miA)
  | st => (.rspI, st)

/-- The bytes of a host's line: those that the host gives for the halves it holds in E, and the tracker's for the rest (R448). -/
def hostMix (l : ALine) (bs : List Byte) : List Byte :=
  let half (n h : Nat) : List Byte := slice (if n = 2 then bs else l.data) (64 * h) 64
  half l.half0 0 ++ half l.half1 1

/-- An agent takes the snoop of a kind for a line that is on its way to it, and answers by its state (R241). A host alone
may answer from its eviction buffer (R242). -/
def takeSnoop (d : Dev) (a line kind : Nat) (now : AState) (data : List Byte) (evbuf : Bool) : Dev :=
  let isIt (s : Snoop) : Bool := s.agent == a && s.line == line && s.kind == kind && s.ans.isNone
  match d.coh.txns.find? (fun t => t.snoops.any isIt) with
  | none => d
  | some t =>
    let l := aLine d a line
    let st := silently a l now
    let host := decide (6 ≤ a) && decide (a < 10) && decide (l.data ≠ [])
    let data := if host then hostMix l data else data
    let d := if host && (st == .m || st == .e) then setALine d a line { l with data := data } else d
    let d := if st = .miA ∧ (aLine d a line).st ≠ .miA then
        { d with coh := { d.coh with wbs := d.coh.wbs ++ [(a, line, data)] } } else d
    let sent := match wbOf d a line with | some bs => if st = .miA then bs else data | none => data
    let r := snoopAnswer kind st sent (evbuf && host)
    setTxn (setASt d a line r.2)
      { t with snoops := t.snoops.map (fun s => if isIt s then { s with ans := some r.1 } else s) }

/-- SNPCUR (R241). -/
def execSnpcur (agent : Fin 12) (addr : BitVec 52) (now : AState) (data : BitVec 1024) (evbuf : Bool) (s : State) :
    Host.Outcome State Fault Refusal :=
  s.run (fun _ d => takeSnoop d agent.val (addr.toNat / 128) 7 now (leBytes 128 data.toNat) evbuf)

/-- SNPS (R241). -/
def execSnps (agent : Fin 12) (addr : BitVec 52) (now : AState) (data : BitVec 1024) (evbuf : Bool) (s : State) :
    Host.Outcome State Fault Refusal :=
  s.run (fun _ d => takeSnoop d agent.val (addr.toNat / 128) 8 now (leBytes 128 data.toNat) evbuf)

/-- SNPI (R241). -/
def execSnpi (agent : Fin 12) (addr : BitVec 52) (now : AState) (data : BitVec 1024) (evbuf : Bool) (s : State) :
    Host.Outcome State Fault Refusal :=
  s.run (fun _ d => takeSnoop d agent.val (addr.toNat / 128) 9 now (leBytes 128 data.toNat) evbuf)

/-- The directory after an answer (Table 7.7a): SnpS leaves an answering owner a sharer, SnpI takes the agent out. -/
def dirAnswered (d : Dev) (line a kind : Nat) (holds : Bool) : Dev :=
  if kind = 7 then d
  else if kind = 9 then dirDrop d line a
  else match Sparse.find d.coh.dir line with
    | some en =>
      if en.x && en.who == a then setDir d line (if holds then some { en with x := false, who := 2 ^ a } else none) else d
    | none => d

/-- The home takes an answer that is not SNOOP_EVICTING (R244): dirty data replaces the home copy, except for SnpCur. -/
def takeAnswer (d : Dev) (t : Txn) (s : Snoop) (ans : SnpAns) : Dev :=
  let t := { t with snoops := t.snoops.filter (fun u => decide (u ≠ s)) }
  match ans with
  | .dirty bs =>
    if s.kind = 7 then setTxn d { t with cur := some bs }
    else
      let d := if (match Sparse.find d.coh.dir s.line with | some en => en.x && en.who == s.agent | none => false)
        then writeHome d s.line bs else d
      dirAnswered (setTxn d t) s.line s.agent s.kind true
  | .rspS => dirAnswered (setTxn d t) s.line s.agent s.kind true
  | _ => dirAnswered (setTxn d t) s.line s.agent s.kind false

/-- The snoop of a line whose answer from an agent is on its way to the home. -/
def answered (d : Dev) (a line : Nat) (evicting : Bool) : Option (Txn × Snoop × SnpAns) :=
  d.coh.txns.findSome? (fun t => t.snoops.findSome? (fun s =>
    match s.ans with
    | some x => if s.agent == a && s.line == line && (x == .evicting) == evicting then some (t, s, x) else none
    | none => none))

/-- SNOOP_ANSWER (R244). -/
def execSnoopAnswer (agent : Fin 12) (addr : BitVec 52) (s : State) : Host.Outcome State Fault Refusal :=
  s.run (fun e d => match answered d agent.val (addr.toNat / 128) false with
    | some (t, sn, x) => settle e (takeAnswer d t sn x)
    | none => d)

/-- SNOOP_EVICTING (R245): counted; the transaction waits in H_EVW unless the WbM came first. -/
def execSnoopEvicting (agent : Fin 12) (addr : BitVec 52) (s : State) : Host.Outcome State Fault Refusal :=
  s.run (fun e d => match answered d agent.val (addr.toNat / 128) true with
    | some (t, sn, _) =>
      let d := fincSat d Reg.PKM_XSTAT [lineHome d sn.line] Fld.PKM_XSTAT_snp_evicting 1
      let key := (sn.agent, sn.line)
      let t := { t with snoops := t.snoops.filter (fun u => decide (u ≠ sn)) }
      let t := if t.early.contains key then { t with early := t.early.filter (· != key) }
        else { t with evw := t.evw ++ [key] }
      settle e (setTxn d t)
    | none => d)

/-- A WbM reaches its home (R245, R246): from the recorded owner its data becomes the home copy and the owner leaves the
directory; from any other agent it is counted and discarded. WbAck answers either. -/
def takeWb (e : Env) (d : Dev) (a line : Nat) (bs : List Byte) : Dev :=
  let owner := match Sparse.find d.coh.dir line with | some en => en.x && en.who == a | none => false
  if owner then
    let d := setDir (ackWb (writeHome d line bs) a line) line none
    match txnOf d line with
    | none => settle e d
    | some t =>
      if t.evw.contains (a, line) then settle e (setTxn d { t with evw := t.evw.filter (· != (a, line)) })
      else if t.snoops.any (fun s => s.agent == a && s.line == line) then
        setTxn d { t with early := t.early ++ [(a, line)] }
      else settle e d
  else
    let d := fincSat (ackWb d a line) Reg.PKM_XSTAT [lineHome d line] Fld.PKM_XSTAT_stale_wb 1
    settle e d

/-- WBM (R245): the WbM on its way, or one that a host or guest die with an E or M copy now sends. -/
def execWbm (agent : Fin 12) (addr : BitVec 52) (data : BitVec 1024) (s : State) : Host.Outcome State Fault Refusal :=
  s.run (fun e d =>
    let line := addr.toNat / 128
    if agent.val < 6 then d
    else match wbOf d agent.val line with
      | some bs => takeWb e d agent.val line bs
      | none =>
        match (aLine d agent.val line).st with
        | .isD => d
        | .imD => d
        | .smD => d
        | .miA => d
        | st =>
          let a := agent.val
          let l := aLine d a line
          if a < 10 then
            (if st = .e ∨ st = .m then takeWb e (setASt d a line .miA) a line (hostMix l (leBytes 128 data.toNat)) else d)
          else takeWb e (setASt d a line .miA) a line (leBytes 128 data.toNat))

/-- Answer a host's request from its port's copy, where the tracker's state allows it (R448). -/
def serveHalf (d : Dev) (p line : Nat) (r : HostReq) : Option Dev :=
  let a := 6 + p
  let l := aLine d a line
  let owned : Bool := l.st == .e || l.st == .m
  let src : Source := .port (Fin.ofNat 4 p)
  let half (n : Nat) : ALine := if r.half = 0 then { l with half0 := max n l.half0 } else { l with half1 := max n l.half1 }
  let bytes := slice l.data (64 * r.half) 64
  if r.kind = 0 then (if owned || l.st == .s then some (emit (setALine d a line (half 1)) (.memData src bytes)) else none)
  else if r.kind = 2 then (if owned || l.st == .s then some (emit d (.memData src bytes)) else none)
  else if !owned then none
  else if r.kind = 1 then some (emit (setALine d a line (half 2)) (.memData src bytes))
  else if r.kind = 3 then some (emit (setALine d a line (half 2)) (.memData src []))
  else
    let merged := (List.range 128).map (fun i =>
      if i / 64 = r.half && r.en.getD (i % 64) false then r.data.getD (i % 64) 0 else l.data.getD i 0)
    some (emit (setALine d a line { l with st := .m, data := merged }) (.memData src []))

/-- Serve the requests that a tracker entry waits to answer, in order; what its state does not allow asks the home (R448, Table 13.3). -/
def serveHost (e : Env) (p line : Nat) : Nat → Dev → Dev
  | 0, d => d
  | n + 1, d =>
    let a := 6 + p
    let l := aLine d a line
    let src : Source := .port (Fin.ofNat 4 p)
    match l.want with
    | [] => d
    | r :: rest =>
      let popped : ALine := { l with want := rest }
      match serveHalf (setALine d a line popped) p line r with
      | some d => serveHost e p line n d
      | none =>
        if l.st = .isD ∨ l.st = .imD ∨ l.st = .smD ∨ l.st = .miA then d
        else if l.st = .i ∧ (r.kind = 2 ∨ 4 ≤ r.kind) then
          let addr := 128 * line + 64 * r.half
          let d := setALine d a line popped
          let d := if r.kind = 2 then plainRequest e d { kind := 3, src := src, agent := none, addr := addr, op := some (.read 64) } 64
            else plainRequest e d { kind := 5, src := src, agent := none, addr := addr, op := some (.write r.data r.en) } 64
          serveHost e p line n d
        else
          let d := agentRequest e d src (128 * line) (if l.st = .s then 2 else bit (r.kind != 0))
          let now := (aLine d a line).st
          if now = .isD ∨ now = .imD ∨ now = .smD then d
          else serveHost e p line n (setALine d a line { aLine d a line with want := rest })

/-- DATA_GRANT (R242): the agent takes DataS, DataE or Cmp, with the line's data, and sends CmpAck. A base cache that is
bypassed or may hold no remote line drops its copy at once; a port keeps both halves and answers what its host asked (R448). -/
def execDataGrant (agent : Fin 12) (addr : BitVec 52) (s : State) : Host.Outcome State Fault Refusal :=
  s.run (fun e d =>
    let line := addr.toNat / 128
    let a := agent.val
    match txnOf d line with
    | none => d
    | some t =>
      match t.grant with
      | none => d
      | some g =>
        if t.req.agent ≠ some a ∨ t.acked then d
        else
          let bs := rdBytes e d (lineKeys d line)
          let host : Bool := decide (6 ≤ a) && decide (a < 10)
          let asked := host && !((aLine d a line).want.isEmpty)
          let d := if asked then d else if 6 ≤ a then emit d (.coh a g line (if g = 14 then [] else bs))
            else emit d (.memData t.req.src bs)
          let st : AState := if g = 17 then (if a < 6 && !(cacheUsed d a) then .i else .s) else .e
          let d := setTxn (setASt d a line st) { t with acked := true }
          let l := aLine d a line
          let d := if host then setALine d a line { l with data := if g = 14 then l.data else bs } else d
          let l := aLine d a line
          if asked then serveHost e (a - 6) line (2 * l.want.length + 2) d
          else if host then setALine d a line { l with half0 := if g = 17 then 1 else 2, half1 := if g = 17 then 1 else 2 }
          else d)

/-- WBACK (R241): the eviction completes; a port's tracker then serves what waits for the line. -/
def execWback (agent : Fin 12) (addr : BitVec 52) (s : State) : Host.Outcome State Fault Refusal :=
  s.run (fun e d =>
    let a := agent.val
    let line := addr.toNat / 128
    if d.coh.wbAcks.contains (a, line) then
      let d := { d with coh := { d.coh with wbAcks := d.coh.wbAcks.filter (· != (a, line)) } }
      let l := aLine d a line
      if l.st ≠ .miA then d
      else if l.want.isEmpty then setASt d a line .i
      else serveHost e (a - 6) line (2 * l.want.length + 2) (setALine d a line { want := l.want })
    else d)

/-- CMPACK (R243): the home's transaction ends. -/
def execCmpack (agent : Fin 12) (addr : BitVec 52) (s : State) : Host.Outcome State Fault Refusal :=
  s.run (fun e d => match txnOf d (addr.toNat / 128) with
    | some t => if t.acked && t.req.agent == some agent.val then settle e (endTxn d t) else d
    | none => d)

/-- HBM_READ_DATA (R243): data reaches a home transaction in H_RD. -/
def execHbmReadData (addr : BitVec 52) (s : State) : Host.Outcome State Fault Refusal :=
  s.run (fun e d => match txnOf d (addr.toNat / 128) with
    | some t => settle e (setTxn d { t with rd := false })
    | none => d)

/-! ### Lost agents -/

/-- Lines that an agent owns in X. -/
def ownedLines (d : Dev) (a : Nat) : List Nat := (d.coh.dir.filter (fun x => x.2.x && x.2.who == a)).map (·.1)

/-- The unit of an agent in a fault record. -/
def agentUnit (a : Nat) : Nat := if a < 6 then unitBase a else if a < 10 then unitPort (a - 6) else unitGuest (a - 10)

/-- An agent is lost (R247): its owned lines are poisoned, it leaves every directory entry and every transaction, its own
requests end, every home notes it and Hawthorn records it. -/
def loseAgent (e : Env) (d : Dev) (a : Nat) : Dev :=
  let d := (ownedLines d a).foldl (fun d l => setPoison d (lineMark ((lineKeys d l).headD 0)) true) d
  let d := d.coh.dir.foldl (fun d x => dirDrop d x.1 a) d
  let mine (q : HReq) : Bool := q.agent == some a
  let d := { d with
      coh := { d.coh with
        agents := d.coh.agents.filter (fun x => x.1 % 12 != a)
        wbs := d.coh.wbs.filter (·.1 != a)
        wbAcks := d.coh.wbAcks.filter (·.1 != a)
        waiting := d.coh.waiting.filter (fun q => !(mine q))
        txns := (d.coh.txns.filter (fun t => !(mine t.req))).map (fun t => { t with
        snoops := t.snoops.filter (·.agent != a), evw := t.evw.filter (·.1 != a), early := t.early.filter (·.1 != a) }) }}
  let d := (List.range 6).foldl (fun d m =>
    fset d Reg.PKM_AGENT_LOST [m] Fld.PKM_AGENT_LOST_lost (fget d Reg.PKM_AGENT_LOST [m] Fld.PKM_AGENT_LOST_lost ||| 2 ^ a)) d
  settle e (report d { source := 0x2C, unit := agentUnit a, stat := Reg.PKM_AGENT_LOST.slot [0] })

/-- AGENT_LOST (R247): a host whose port is down or a guest die that is cut off. -/
def execAgentLost (agent : Fin 12) (s : State) : Host.Outcome State Fault Refusal :=
  s.run (fun e d => loseAgent e d agent.val)

/-- SNOOP_TIMEOUT (R247): the agent has left a snoop of the line unanswered for 1 ms. -/
def execSnoopTimeout (agent : Fin 12) (addr : BitVec 52) (s : State) : Host.Outcome State Fault Refusal :=
  s.run (fun e d =>
    if d.coh.txns.any (fun t => t.snoops.any (fun x => x.agent == agent.val && x.line == addr.toNat / 128 && x.ans.isNone))
    then loseAgent e d agent.val else d)

/-- Unit and sub-unit of the target of an address, and the address of the record's detail (Table 16.2, R520). -/
def targetUnit (d : Dev) (a : Nat) : Nat × Nat × Nat :=
  match targetOf d a 1 with
  | .hbm => match decodeHbm d a with | some (n, sa) => (unitBase (n / 4), n % 4, sa) | none => (0, 0, a)
  | .core c off => match siteOfCore d c with | some s => (unitSite s, 0, off) | none => (0, 0, a)
  | .guest g _ => (unitGuest g, 0, a)
  | .host p _ => (unitPort p, 0, a)
  | .none_ => (0, 0, a)

/-- REQUEST_TIMEOUT (R223): the request gets TIMEOUT, and the target is recorded. -/
def execRequestTimeout (src : Source) (addr : BitVec 52) (s : State) : Host.Outcome State Fault Refusal :=
  s.run (fun e d =>
    let line := addr.toNat / 128
    let isIt (q : HReq) : Bool := q.src == src && q.addr / 128 == line
    let hits := (d.coh.waiting.filter isIt) ++ ((d.coh.txns.filter (fun t => isIt t.req && t.grant.isNone)).map (·.req))
    let d := { d with
        coh := { d.coh with
          waiting := d.coh.waiting.filter (fun q => !(isIt q))
          txns := d.coh.txns.filter (fun t => !(isIt t.req && t.grant.isNone)) }}
    let d := match hits with
      | [] => emit d (.memErr src .timeout)
      | qs => qs.foldl (fun d q => failReq d q .timeout) d
    let u := targetUnit d addr.toNat
    settle e (report d { source := 0x17, unit := u.1, sub := u.2.1, detail := low32 (u.2.2 / 8), part := srcPart d src }))

/-! ### Stacks -/

/-- The erased symbols of byte column j (R229): data symbol i of an erased sector i, and the check symbols that lie with
sectors j mod 8 and (j + 4) mod 8. -/
def erasedIn (erased : List Nat) (j : Nat) : List Nat :=
  (List.range 8).filter erased.contains ++ (if erased.contains (j % 8) then [8] else [])
    ++ (if erased.contains ((j + 4) % 8) then [9] else [])

/-- What RS(10,8) makes of a column (R230): 0 as stored, 1 corrected, 2 found uncorrectable, 3 beyond the code. -/
def columnClass (erased wrong : List Nat) : Nat :=
  let bad := wrong.filter (fun s => !(erased.contains s))
  match erased.length, bad.length with
  | 0, 0 => 0
  | 0, 1 => 1
  | 0, 2 => 2
  | 1, 0 => 0
  | 2, 0 => 0
  | _, _ => 3

/-- The first poisoned line of a base die is recorded until cleared (R231, Table 7.21), and Hawthorn is told. -/
def poisonLine (d : Dev) (stack saddr : Nat) : Dev :=
  let k := stackCells stack + saddr
  if poisoned d (lineMark k) then d
  else
    let m := stack / 4
    let d := setPoison d (lineMark k) true
    let d := if fbit d Reg.PKM_HBM_UE_HI [m] Fld.PKM_HBM_UE_HI_valid then d
      else
        let d := fset d Reg.PKM_HBM_UE_LO [m] Fld.PKM_HBM_UE_LO_saddr_lo (saddr % 2 ^ 32)
        let d := fset d Reg.PKM_HBM_UE_HI [m] Fld.PKM_HBM_UE_HI_saddr_hi (saddr / 2 ^ 32)
        let d := fset d Reg.PKM_HBM_UE_HI [m] Fld.PKM_HBM_UE_HI_stack (stack % 4)
        fset d Reg.PKM_HBM_UE_HI [m] Fld.PKM_HBM_UE_HI_valid 1
    report d { source := 0x16, unit := unitBase m, sub := stack % 4, detail := low32 (saddr / 8) }

/-- Add the rows of erased sectors to the stack's row-loss list of 64 (R230). -/
def addRows (d : Dev) (stack : Nat) (rows : List Nat) : Dev :=
  let l := rows.foldl (fun l r => if l.contains r || decide (64 ≤ l.length) then l else l ++ [r])
    (Sparse.get [] d.coh.rowLoss stack)
  let d := { d with coh := { d.coh with rowLoss := Sparse.set [] d.coh.rowLoss stack l } }
  fset d Reg.PKM_HBM_STAT [stack / 4, stack % 4] Fld.PKM_HBM_STAT_rowloss l.length

/-- A line of a stack is decoded (R230, R231). A column beyond the code leaves the line poisoned, with free data, or as it
was, by a free choice (log entry 4). -/
def decodeLine (d : Dev) (stack line : Nat) (seen : LineSeen) : Dev :=
  let saddr := 128 * line
  let k := stackCells stack + saddr
  if poisoned d (lineMark k) then d
  else
    let er := (seen.erased.map (·.1.val)).eraseDups
    let cls := (List.range 16).map (fun j =>
      columnClass (erasedIn er j) ((seen.wrong.filter (fun w => w.1.val == j)).map (·.2.val)).eraseDups)
    let ix := [stack / 4, stack % 4]
    let d := addRows d stack (seen.erased.map (·.2))
    let d := if er ≠ [] then fincSat d Reg.PKM_HBM_ECC ix Fld.PKM_HBM_ECC_erased 1
      else if cls.contains 1 ∧ cls.all (fun c => decide (c ≤ 1)) then
        fincSat d Reg.PKM_HBM_ECC ix Fld.PKM_HBM_ECC_corrected 1
      else d
    if cls.contains 3 then
      let x := takeFree d 2
      if x.1 = 0 then poisonLine x.2 stack saddr
      else if x.1 = 1 then let y := freeBytes 128 x.2; wrBytes y.2 (span k 128) y.1
      else x.2
    else if cls.contains 2 then poisonLine d stack saddr
    else if er ≠ [] ∨ cls.contains 1 then
      report d { source := 0x15, unit := unitBase (stack / 4), sub := stack % 4, detail := low32 (saddr / 8) }
    else d

/-- HBM_LINE_DECODE (R230): a line read of a stack in service. -/
def execHbmLineDecode (stack : Fin 24) (line : BitVec 29) (seen : LineSeen) (s : State) : Host.Outcome State Fault Refusal :=
  s.run (fun _ d => if (stacksIn d).contains stack.val then decodeLine d stack.val line.toNat seen else d)

/-- HBM_SCRUB (R253): while scrub runs, the controller reads and decodes its next line. -/
def execHbmScrub (stack : Fin 24) (line : BitVec 29) (seen : LineSeen) (s : State) : Host.Outcome State Fault Refusal :=
  s.run (fun _ d =>
    if (stacksIn d).contains stack.val && fbit d Reg.PKM_SCRUB [stack.val / 4] Fld.PKM_SCRUB_enable
    then decodeLine d stack.val line.toNat seen else d)

/-! ### Base-die caches -/

/-- Poison the line that holds an address of the HBM region. -/
def poisonAddr (d : Dev) (a : Nat) : Dev :=
  match decodeHbm d a with
  | some (n, sa) => poisonLine d n (sa / 128 * 128)
  | none => d

/-- Partitions that own a range with lines homed on base die m (R237, R521). -/
def partsHomed (d : Dev) (m : Nat) : List Nat :=
  (List.range 16).filter (fun q => partOn d q && (List.range 32).any (fun i =>
    tbit (fget d Reg.HUB_PART_MEM [q] Fld.HUB_PART_MEM_ranges) i && rangeOn d i && decide (stacksOn d m ≠ [])))

/-- A cache slice is fenced (R237): dirty lines are written back, those named whose data cannot be corrected are poisoned,
remote lines dropped; unreadable tags are told to every partition that may own a lost line. -/
def fenceSlice (d : Dev) (m : Nat) (lost : List Nat) (tags : Bool) : Dev :=
  let d := fset d Reg.PKM_CACHE_CFG [m] Fld.PKM_CACHE_CFG_fenced 1
  let d := lost.foldl poisonAddr d
  let d := { d with coh := { d.coh with agents := d.coh.agents.filter (fun x => !(x.1 % 12 == m && x.2.st == .s)) } }
  if tags then (partsHomed d m).foldl (fun d q => report d { source := 0x31, unit := unitBase m, part := some q }) d else d

/-- CACHE_SLICE_FENCE (R237): Hawthorn is told of a slice not yet fenced (Table 16.2). -/
def execCacheSliceFence (die : Fin 6) (lost : List (BitVec 52)) (tags : Bool) (s : State) :
    Host.Outcome State Fault Refusal :=
  s.run (fun _ d =>
    let m := die.val
    let d := if fbit d Reg.PKM_CACHE_CFG [m] Fld.PKM_CACHE_CFG_fenced then d
      else report d { source := 0x26, unit := unitBase m }
    fenceSlice d m (lost.map (·.toNat)) tags)

/-- CACHE_SCRUB (R233): words corrected and found uncorrectable in a pass are counted and recorded. -/
def execCacheScrub (die : Fin 6) (corrected uncorrected : BitVec 16) (addr : BitVec 52) (s : State) :
    Host.Outcome State Fault Refusal :=
  s.run (fun _ d =>
    let m := die.val
    let d := fincSat d Reg.PKM_CACHE_ECC [m] Fld.PKM_CACHE_ECC_corrected corrected.toNat
    let d := fincSat d Reg.PKM_CACHE_ECC [m] Fld.PKM_CACHE_ECC_uncorrected uncorrected.toNat
    let d := if 0 < corrected.toNat then
        report d { source := 0x13, unit := unitBase m, detail := low32 (addr.toNat / 8) } else d
    if 0 < uncorrected.toNat then report d { source := 0x14, unit := unitBase m, detail := low32 (addr.toNat / 8) } else d)

end Sys2Proof.Machine
end

