-- ==== Sys2Proof/Machine/Feino.lean ====
section
/-!
DEFINITION. Feino die-to-die bundles (R256-R279): topology, training, lane repair, alignment slots, protocol flits with
credits and replay, raw frames, control messages, discovery and the fence of a bundle.
-/
namespace Sys2Proof.Machine

/-! ### Topology (R18-R20, R289) -/

/-- Neighbouring base dies, ascending. -/
def baseNeighbours (m : Nat) : List Nat :=
  (([[1, 3], [0, 2, 4], [1, 5], [0, 4], [1, 3, 5], [2, 4]] : List (List Nat)).getD m [])

/-- Light engines of a base die (Table 1.2). -/
def baseEngines (m : Nat) : List Nat :=
  (([[0, 14, 15], [1, 2], [3, 4, 5], [11, 12, 13], [9, 10], [6, 7, 8]] : List (List Nat)).getD m [])

/-- The base die of a light engine (Table 1.2). -/
def engineBase (k : Nat) : Nat := (lowest 6 (fun m => (baseEngines m).contains k)).getD 0

/-- The position of an item in a list. -/
def posIn (l : List Nat) (x : Nat) : Nat := (lowest l.length (fun i => l.getD i 0 == x && l.contains x)).getD 0

/-- The far end of a bundle; none where base die m has no bundle j, and for a guest site. -/
def farEnd : BundleEnd → Option BundleEnd
  | .guest _ => none
  | .hub j =>
    let m := if j.val < 2 then 1 else 4
    let b := 6 * (baseNeighbours m).length + 3 * (baseEngines m).length + j.val % 2
    some (.base (Fin.ofNat 6 m) (Fin.ofNat 26 b))
  | .le k j =>
    let m := engineBase k.val
    some (.base (Fin.ofNat 6 m) (Fin.ofNat 26 (6 * (baseNeighbours m).length + 3 * posIn (baseEngines m) k.val + j.val)))
  | .base m j =>
    let nb := baseNeighbours m.val
    let es := baseEngines m.val
    let b := j.val
    if b < 6 * nb.length then
      let n := nb.getD (b / 6) 0
      some (.base (Fin.ofNat 6 n) (Fin.ofNat 26 (6 * posIn (baseNeighbours n) m.val + b % 6)))
    else
      let b := b - 6 * nb.length
      if b < 3 * es.length then some (.le (Fin.ofNat 16 (es.getD (b / 3) 0)) (Fin.ofNat 3 (b % 3)))
      else
        let b := b - 3 * es.length
        if b < 2 ∧ (m.val = 1 ∨ m.val = 4) then some (.hub (Fin.ofNat 4 (if m.val = 1 then b else 2 + b))) else none

/-- The die of an end, by device-map index (R278). -/
def endDie : BundleEnd → Nat
  | .hub _ => 0
  | .base m _ => unitBase m.val
  | .le k _ => unitLe k.val
  | .guest _ => 0

/-- The die at the far end. -/
def farDie (x : BundleEnd) : Nat :=
  match x with
  | .guest g => unitGuest g.val
  | _ => match farEnd x with | some y => endDie y | none => 0

/-- The bundle number within its die (R289). -/
def endBundle : BundleEnd → Nat
  | .hub j => j.val
  | .base _ j => j.val
  | .le _ j => j.val
  | .guest _ => 0

/-- The end leads: its die type's code is lower, or between base dies its base index (R261). -/
def endLeads (x : BundleEnd) : Bool :=
  match x, farEnd x with
  | .hub _, _ => true
  | .base m _, some (.base n _) => decide (m.val < n.val)
  | .base _ _, some (.le _ _) => true
  | _, _ => false

/-- Every end of a die's bundles that exists. -/
def dieEnds (die : Nat) : List BundleEnd :=
  if die = 0 then (List.range 4).map (fun j => .hub (Fin.ofNat 4 j))
  else if die < 7 then
    ((List.range 26).map (fun j => BundleEnd.base (Fin.ofNat 6 (die - 1)) (Fin.ofNat 26 j))).filter (fun x => (farEnd x).isSome)
  else if 43 ≤ die ∧ die < 59 then (List.range 3).map (fun j => .le (Fin.ofNat 16 (die - 43)) (Fin.ofNat 3 j))
  else []

/-- The ends of an edge: those of one die that lead to the same far die, in ascending bundle number (R272). -/
def edgeEnds (x : BundleEnd) : List BundleEnd := (dieEnds (endDie x)).filter (fun y => farDie y == farDie x)

/-- The number of a bundle within its edge. -/
def edgeNumber (x : BundleEnd) : Nat := (lowest 6 (fun i => (edgeEnds x).getD i x == x)).getD 0

/-! ### Registers and hidden state of an end -/

/-- The key of an end. -/
def endKey : BundleEnd → Nat
  | .hub j => j.val
  | .base m j => 8 + 32 * m.val + j.val
  | .le k j => 208 + 4 * k.val + j.val
  | .guest g => 280 + g.val

/-- Register group i of an end: 0 FEI_CTL, 1 FEI_STAT, 2 FEI_TXMAP, 3 FEI_RXMAP, 4 FEI_FUSE, 5 FEI_ERR, 6 FEI_SWAP, 7 FEI_CRED. -/
def feiDesc (x : BundleEnd) (i : Nat) : RegDesc :=
  let three : List (RegDesc × RegDesc × RegDesc) :=
    [(Reg.HUB_FEI_CTL, Reg.BASE_FEI_CTL, Reg.LE_FEI_CTL), (Reg.HUB_FEI_STAT, Reg.BASE_FEI_STAT, Reg.LE_FEI_STAT),
     (Reg.HUB_FEI_TXMAP, Reg.BASE_FEI_TXMAP, Reg.LE_FEI_TXMAP), (Reg.HUB_FEI_RXMAP, Reg.BASE_FEI_RXMAP, Reg.LE_FEI_RXMAP),
     (Reg.HUB_FEI_FUSE, Reg.BASE_FEI_FUSE, Reg.LE_FEI_FUSE), (Reg.HUB_FEI_ERR, Reg.BASE_FEI_ERR, Reg.LE_FEI_ERR),
     (Reg.HUB_FEI_SWAP, Reg.BASE_FEI_SWAP, Reg.LE_FEI_SWAP), (Reg.HUB_FEI_CRED, Reg.BASE_FEI_CRED, Reg.LE_FEI_CRED)]
  let r := three.getD i (Reg.HUB_FEI_CTL, Reg.BASE_FEI_CTL, Reg.LE_FEI_CTL)
  match x with | .base _ _ => r.2.1 | .le _ _ => r.2.2 | _ => r.1

/-- Its index. -/
def feiIx : BundleEnd → List Nat
  | .hub j => [j.val]
  | .base m j => [m.val, j.val]
  | .le k j => [k.val, j.val]
  | .guest _ => []

/-- An end of a bundle has registers; a guest site's UCIe interface has none of these. -/
def hasFei (x : BundleEnd) : Bool := match x with | .guest _ => false | _ => (farEnd x).isSome

/-- Read a field of an end's registers; the three dies' tables share their layout (R289). -/
def feiGet (d : Dev) (x : BundleEnd) (i : Nat) (f : Fld) : Nat := fget d (feiDesc x i) (feiIx x) f

/-- Write a field of an end's registers. -/
def feiSet (d : Dev) (x : BundleEnd) (i : Nat) (f : Fld) (v : Nat) : Dev :=
  if hasFei x then fset d (feiDesc x i) (feiIx x) f v else d

/-- Add to a counter of an end, which stops at its largest value. -/
def feiInc (d : Dev) (x : BundleEnd) (i : Nat) (f : Fld) (n : Nat) : Dev :=
  if hasFei x then fincSat d (feiDesc x i) (feiIx x) f n else d

/-- Hidden state of an end. -/
def fei (d : Dev) (x : BundleEnd) : Fei := Sparse.get {} d.fei (endKey x)

/-- Change the hidden state of an end. -/
def setFei (d : Dev) (x : BundleEnd) (v : Fei) : Dev := { d with fei := Sparse.set {} d.fei (endKey x) v }

/-- The training state of an end (Table 8.2); a guest interface is ACTIVE while its site is. -/
def feiState (d : Dev) (x : BundleEnd) : Nat :=
  match x with
  | .guest g => if guestActive d g.val then 6 else 0
  | _ => if hasFei x then feiGet d x 1 Fld.HUB_FEI_STAT_state else 0

/-- Set the training state of an end. -/
def setFeiState (d : Dev) (x : BundleEnd) (st : Nat) : Dev := feiSet d x 1 Fld.HUB_FEI_STAT_state st

/-- Credits held for a class (FEI_CRED.avail; for a guest interface the model's own). -/
def feiCredit (d : Dev) (x : BundleEnd) (c : Nat) : Nat :=
  if hasFei x then fget d (feiDesc x 7) (feiIx x ++ [c]) Fld.HUB_FEI_CRED_avail else (fei d x).credits.getD c 0

/-- Set the credits held for a class. -/
def setFeiCredit (d : Dev) (x : BundleEnd) (c v : Nat) : Dev :=
  if hasFei x then fset d (feiDesc x 7) (feiIx x ++ [c]) Fld.HUB_FEI_CRED_avail v
  else let f := fei d x; setFei d x { f with credits := setAt f.credits c v }

/-- Lanes of an exclusion register (Table 8.16). -/
def mapLanes (w : Word) : List Nat :=
  ((List.range 4).map (fun i => bits w.toNat (8 * i + 7) (8 * i))).filterMap
    (fun b => if 128 ≤ b then some (b - 128) else none)

/-- Insert into an ascending list without repeats. -/
def insertAsc (x : Nat) : List Nat → List Nat
  | [] => [x]
  | y :: ys => if x < y then x :: y :: ys else if x = y then y :: ys else y :: insertAsc x ys

/-- An exclusion register of up to four lanes, ascending, unused entries zero (R259). -/
def packLanes (ls : List Nat) : Word :=
  let s := (ls.foldl (fun l x => insertAsc x l) []).take 4
  low32 (leNat (s.map (fun l => BitVec.ofNat 8 (l + 128))))

/-- Set the transmit or receive exclusions of an end and their count. -/
def setExcl (d : Dev) (x : BundleEnd) (tx : Bool) (ls : List Nat) : Dev :=
  if !(hasFei x) then d
  else
    let w := packLanes ls
    let d := wrReg d (feiDesc x (if tx then 2 else 3)) (feiIx x) w
    feiSet d x 1 (if tx then Fld.HUB_FEI_STAT_tx_excl else Fld.HUB_FEI_STAT_rx_excl) (mapLanes w).length

/-- Exclusions of an end. -/
def exclOf (d : Dev) (x : BundleEnd) (tx : Bool) : List Nat :=
  if hasFei x then mapLanes (rdReg d (feiDesc x (if tx then 2 else 3)) (feiIx x)) else []

/-- Fused transmit exclusions (R260). -/
def fusedExcl (d : Dev) (x : BundleEnd) : List Nat := if hasFei x then mapLanes (rdReg d (feiDesc x 4) (feiIx x)) else []

/-! ### Messages -/

/-- CRC-32C of RFC 3720 (R267): one reflected step. -/
def crc32Step : Nat → Nat → Nat
  | 0, c => c
  | n + 1, c => crc32Step n (if c % 2 = 1 then (c / 2) ^^^ 0x82F63B78 else c / 2)

/-- CRC-32C of bytes. -/
def crc32c (bs : List Byte) : Nat :=
  (bs.foldl (fun c b => crc32Step 8 (c ^^^ b.toNat)) (2 ^ 32 - 1)) ^^^ (2 ^ 32 - 1)

/-- A field of a message header (Table 8.5). -/
def mfield (m : List Byte) (hi lo : Nat) : Nat := bits (leNat (m.take 16)) hi lo

/-- Class, operation and data slots of a message. -/
def msgClass (m : List Byte) : Nat := mfield m 3 0
def msgOp (m : List Byte) : Nat := mfield m 9 4
def msgDslots (m : List Byte) : Nat := mfield m 13 10
def msgAddr (m : List Byte) : Nat := mfield m 115 64

/-- Slots a message takes. -/
def msgSlots (m : List Byte) : Nat := 1 + msgDslots m

/-- The range of data slots that an operation needs (R269, Table 8.6); none for a reserved class or operation. Where the
amount of data depends on the access, the range takes in every amount. -/
def opSlots (cls op aux : Nat) : Option (Nat × Nat) :=
  match cls, op with
  | 0, 0 => some (0, 0) | 0, 1 => some (0, 0) | 0, 2 => some (0, 0)
  | 1, 0 => some (0, 0) | 1, 1 => some (0, 0) | 1, 2 => some (0, 0)
  | 2, op => if op ≤ 6 then some (0, 0) else none
  | 3, op => if op ≤ 3 then some (8, 8) else none
  | 4, 0 => some (8, 8)
  | 5, 0 => some (0, 0) | 5, 1 => some (8, 8) | 5, 2 => some (2, 9)
  | 5, 3 =>
    match aux with
    | 0 => some (1, 1) | 1 => some (0, 0) | 2 => some (2, 9) | 3 => some (2, 2)
    | 4 => some (1, 1) | 5 => some (1, 1) | 6 => some (1, 2) | _ => none
  | 6, 0 => some (0, 0) | 6, 1 => some (0, 0)
  | 7, 0 => some (1, 8)
  | 8, 0 => some (0, 0)
  | 9, 0 => some (0, 0) | 9, 1 => some (1, 1) | 9, 2 => some (0, 1)
  | _, _ => none

/-- A message is malformed (R269). -/
def msgBad (m : List Byte) : Bool :=
  match opSlots (msgClass m) (msgOp m) (mfield m 63 56) with
  | none => true
  | some r => decide (msgDslots m < r.1) || decide (r.2 < msgDslots m) || decide (m.length < 16 * msgSlots m)

/-- Zero bytes up to a length. -/
def padTo (n : Nat) (bs : List Byte) : List Byte := (bs ++ (List.range (n - bs.length)).map (fun _ => 0)).take n

/-- A control message's slot area (R276): the code at byte 8 of the flit, the fields from byte 16. -/
def ctlArea (code : Nat) (fields : List Byte) : List Byte := padTo 240 (leBytes 8 code ++ fields)

/-! ### Sending -/

/-- Replace the credits that two class nibbles return. -/
def takeOwed (owed : List Nat) : Nat × List Nat :=
  match lowest 10 (fun c => decide (0 < owed.getD c 0)) with
  | none => (0, owed)
  | some c => let n := min 15 (owed.getD c 0); (c + 16 * n, setAt owed c (owed.getD c 0 - n))

/-- Messages that fit one flit, in queue order, each whole, each class within its credits and never past a message of its
class that waits (R269, R270): what is packed, and what stays. -/
def feiPack (credit : Nat → Nat) : List (List Byte) → Nat → List Nat → List Nat → List (List Byte) × List (List Byte)
  | [], _, _, _ => ([], [])
  | m :: ms, used, spent, stuck =>
    let n := msgSlots m
    let c := msgClass m
    if stuck.contains c ∨ 15 < used + n ∨ credit c < spent.getD c 0 + n then
      let r := feiPack credit ms used spent (c :: stuck)
      (r.1, m :: r.2)
    else
      let r := feiPack credit ms (used + n) (setAt spent c (spent.getD c 0 + n)) stuck
      (m :: r.1, r.2)

/-- The start bits of messages packed from slot `at`. -/
def sovBits : Nat → List (List Byte) → Nat
  | _, [] => 0
  | s, m :: ms => 2 ^ s + sovBits (s + msgSlots m) ms

/-- The 256 bytes of a flit as it is sent now (Table 8.4). -/
def feiFlitBytes (f : Fei) (x : FFlit) : List Byte :=
  let w := x.ftype % 16 + 16 * bit f.nakOut + 2 ^ 6 * (x.sov % 2 ^ 15) + 2 ^ 24 * (x.cr % 2 ^ 16)
    + 2 ^ 40 * ((f.seqRx + 4095) % 4096) + 2 ^ 52 * (x.seq % 4096)
  let t := (f.rawSeqRx + 4095) % 4096 + 2 ^ 12 * bit f.rawNakOut + 2 ^ 16 * (x.rawCr % 256)
  let body := leBytes 8 w ++ padTo 240 x.slots ++ leBytes 4 t
  body ++ leBytes 4 (crc32c body)

/-- Put a flit on the lanes; the nak bits go out once (R271). -/
def sendFlit (d : Dev) (x : BundleEnd) (fl : FFlit) : Dev :=
  let f := fei d x
  emit (setFei d x { f with nakOut := false, rawNakOut := false }) (.feino (endKey x) 0 (feiFlitBytes f fl))

/-- A new sequenced flit: it takes the next sequence number and is kept for replay (R268). -/
def sendNewFlit (d : Dev) (x : BundleEnd) (ftype sov : Nat) (slots : List Byte) : Dev :=
  let f := fei d x
  let a := takeOwed f.owed
  let b := takeOwed a.2
  let rc := min 255 f.rawOwed
  let fl : FFlit := { seq := f.seqTx, ftype := ftype, sov := sov, cr := a.1 + 256 * b.1, rawCr := rc, slots := slots }
  let f := { f with
      owed := b.2, rawOwed := f.rawOwed - rc, seqTx := (f.seqTx + 1) % 4096, replay := f.replay ++ [fl]
      progress := if f.replay.isEmpty then d.tb else f.progress}
  sendFlit (setFei d x f) x fl

/-- A fenced bundle of the edge waits for FENCE_INFO (R272). -/
def edgeWaits (d : Dev) (x : BundleEnd) : Bool := (edgeEnds x).any (fun y => (fei d y).waitInfo)

/-- The lowest end of an edge, where what the edge holds is kept. -/
def edgeHead (x : BundleEnd) : BundleEnd := (edgeEnds x).headD x

/-- New traffic of the edge is held from a fence until the messages resent are acknowledged (R272). -/
def edgeHeld (d : Dev) (x : BundleEnd) : Bool := edgeWaits d x || (fei d (edgeHead x)).draining

/-- One flit of an end (R268, R271): what a replay has still to send, a control message, messages and credits, or IDLE. -/
def sendNextFlit (d : Dev) (x : BundleEnd) : Dev :=
  let f := fei d x
  let idle : FFlit := { seq := f.seqTx, ftype := 0, sov := 0, cr := 0, rawCr := 0, slots := [] }
  match f.resend.bind (fun q => f.replay.find? (fun y => y.seq == q)) with
  | some fl =>
    let nx := (fl.seq + 1) % 4096
    let f := { f with resend := if f.replay.any (fun y => y.seq == nx) then some nx else none }
    sendFlit (setFei d x f) x fl
  | none =>
    if 128 ≤ f.replay.length then sendFlit d x idle
    else match f.ctlq with
      | c :: cs => sendNewFlit (setFei d x { f with ctlq := cs }) x 2 0 c
      | [] =>
        let r := if feiState d x = 6 ∧ !(edgeWaits d x) then feiPack (feiCredit d x) f.txq 0 [0, 0, 0, 0, 0, 0, 0, 0, 0, 0] []
          else ([], f.txq)
        if r.1 = [] ∧ f.owed.all (· == 0) ∧ f.rawOwed = 0 then sendFlit d x idle
        else
          let d := setFei d x { f with txq := r.2 }
          let d := r.1.foldl (fun d m => setFeiCredit d x (msgClass m) (feiCredit d x (msgClass m) - msgSlots m)) d
          sendNewFlit d x 1 (sovBits 0 r.1) (r.1.flatMap (fun m => padTo (16 * msgSlots m) m))

/-- The bytes of a raw frame (R273). -/
def frameBytes (r : RFrame) : List Byte :=
  let body := padTo 248 r.data ++ leBytes 4 (r.seq % 4096 + 2 ^ 12 * (r.chan % 16) + 2 ^ 16 * bit r.last)
  body ++ leBytes 4 (crc32c body)

/-- One raw frame of an end: a replay's next, the next of its queue, or an idle frame, which is not sequenced (R273, R274). -/
def sendNextFrame (d : Dev) (x : BundleEnd) : Dev :=
  let f := fei d x
  let out (d : Dev) (r : RFrame) : Dev := emit d (.feino (endKey x) 1 (frameBytes r))
  match f.rawResend.bind (fun q => f.rawReplay.find? (fun y => y.seq == q)) with
  | some r =>
    let nx := (r.seq + 1) % 4096
    out (setFei d x { f with rawResend := if f.rawReplay.any (fun y => y.seq == nx) then some nx else none }) r
  | none =>
    match f.rawQ with
    | (c, l, b) :: qs =>
      if 128 ≤ f.rawReplay.length ∨ f.rawCredits = 0 ∨ f.broken then
        out d { seq := 0, chan := 15, last := false, data := [] }
      else
        let r : RFrame := { seq := f.rawSeqTx, chan := c, last := l, data := b }
        out (setFei d x { f with rawQ := qs, rawReplay := f.rawReplay ++ [r], rawSeqTx := (f.rawSeqTx + 1) % 4096, rawCredits := f.rawCredits - 1 }) r
    | [] => out d { seq := 0, chan := 15, last := false, data := [] }

/-- CRC-8 of an ALN word over bits 55 to 0, polynomial x^8 + x^2 + x + 1 (Table 8.1). -/
def crc8Bits : Nat → Nat → Nat → Nat
  | 0, _, c => c
  | n + 1, w, c =>
    let c2 := 2 * c + bit (w.testBit n)
    crc8Bits n w (if 256 ≤ c2 then c2 ^^^ 0x107 else c2)

/-- The check of an ALN word: bits sent from bit 55 down, then eight zeros. -/
def alnCheck (w : Nat) : Nat := crc8Bits 64 (bits w 55 0 * 256) 0

/-- The ALN word of a lane (Table 8.1). -/
def alnWord (lane gen : Nat) (excl : Word) (req : Option Nat) : Nat :=
  let w := lane + 2 ^ 8 * gen + 2 ^ 16 * excl.toNat + (match req with | some r => 2 ^ 48 * r + 2 ^ 55 | none => 0)
  w + 2 ^ 56 * alnCheck w

/-- The alignment slot of an end (R258, R259, R264): exclusions asked of it join its list, the generation rises, and one
request of its own goes out. -/
def sendAln (d : Dev) (x : BundleEnd) : Dev :=
  let f := fei d x
  let cur := exclOf d x true
  let d := if f.newExcl = [] then d
    else
      let d := setExcl d x true (cur ++ f.newExcl)
      feiSet d x 1 Fld.HUB_FEI_STAT_gen ((feiGet d x 1 Fld.HUB_FEI_STAT_gen + 1) % 256)
  let gen := feiGet d x 1 Fld.HUB_FEI_STAT_gen
  let ex := rdReg d (feiDesc x 2) (feiIx x)
  let d := setFei d x { f with newExcl := [], reqs := f.reqs.drop 1 }
  emit d (.feino (endKey x) 2 ((List.range 68).flatMap (fun l => leBytes 8 (alnWord l gen ex f.reqs.head?))))

/-- A bundle is in service: ACTIVE, or in a run-time retrain (R263, R272). -/
def inService (d : Dev) (x : BundleEnd) : Bool :=
  feiState d x == 6 || ((fei d x).runtime && feiState d x != 0 && feiState d x != 7)

/-- The end of an edge that a message's address chooses among its bundles in service in protocol mode (R272). -/
def edgeChoice (d : Dev) (x : BundleEnd) (m : List Byte) : BundleEnd :=
  let live := (edgeEnds x).filter (fun y => inService d y && (fei d y).txRaw != 15)
  if live = [] then x else live.getD (bits (msgAddr m) 14 7 % live.length) x

/-- Queue messages on an edge: each at the bundle its address chooses. -/
def queueMsgs (d : Dev) (x : BundleEnd) (ms : List (List Byte)) : Dev :=
  ms.foldl (fun d m =>
    let y := match x with | .guest _ => x | _ => edgeChoice d x m
    let f := fei d y
    setFei d y { f with txq := f.txq ++ [m] }) d

/-- Give messages to an edge, which may hold them (R272). -/
def offerMsgs (d : Dev) (x : BundleEnd) (ms : List (List Byte)) : Dev :=
  if edgeHeld d x then
    let h := edgeHead x
    setFei d h { fei d h with held := (fei d h).held ++ ms }
  else queueMsgs d x ms

/-- Traffic of an edge resumes once every message resent is acknowledged (R272). -/
def edgeResume (d : Dev) (x : BundleEnd) : Dev :=
  let h := edgeHead x
  let clear := (edgeEnds x).all (fun y => !(inService d y) || ((fei d y).txq.isEmpty && (fei d y).replay.all (fun z => z.sov == 0)))
  if (fei d h).draining && !(edgeWaits d x) && clear then
    queueMsgs (setFei d h { fei d h with held := [], draining := false }) x (fei d h).held
  else d

/-- Resend messages over the bundles of an edge that remain; what was queued behind them, and on the fenced bundle, is held (R272). -/
def edgeResend (d : Dev) (x : BundleEnd) (ms : List (List Byte)) : Dev :=
  let h := edgeHead x
  let queued := (edgeEnds x).flatMap (fun y => (fei d y).txq)
  let d := (edgeEnds x).foldl (fun d y => setFei d y { fei d y with txq := [] }) d
  let d := queueMsgs d x ms
  edgeResume (setFei d h { fei d h with held := queued ++ (fei d h).held, draining := true }) x

/-- FEINO_SLOT_SEND (R258, R265, R268): one slot time of an end, with the messages and raw frames that its die offers at it. The
groups send a flit or frame each time they have gathered four quarters of a slot time. -/
def execFeinoSlotSend (x : BundleEnd) (msgs : List (List Byte)) (frames : List RawFrame) (s : State) :
    Host.Outcome State Fault Refusal :=
  s.run (fun _ d =>
    let d := offerMsgs d x (msgs.filter (fun m => !(msgBad m)))
    let f := fei d x
    let d := setFei d x { f with rawQ := f.rawQ ++ (frames.filter (fun r => r.chan != 15)).map (fun r => (r.chan.toNat, r.last, r.data)) }
    match x with
    | .guest _ => if feiState d x = 6 then sendNextFlit d x else d
    | _ =>
      let st := feiState d x
      if st < 4 ∨ st = 7 then d
      else
        let f := fei d x
        let d := setFei d x { f with slot := (f.slot + 1) % 1024 }
        if f.slot = 0 then sendAln d x
        else if f.slot = 1 ∨ st = 4 then d
        else
          let qr := ones 4 f.txRaw
          let p := f.accP + (4 - qr)
          let r := f.accR + qr
          let f2 := fei d x
          let d := setFei d x { f2 with accP := p % 4, accR := r % 4 }
          let d := if 4 ≤ p then sendNextFlit d x else d
          if 4 ≤ r ∧ st = 6 then sendNextFrame d x else d)

/-! ### Training, retrain, fence -/

/-- Both ends of a bundle, the lead first. -/
def bundleEnds (x : BundleEnd) : List BundleEnd :=
  match farEnd x with
  | some y => if endLeads x then [x, y] else [y, x]
  | none => []

/-- The unit and sub-unit of a bundle in a fault record (Table 16.2 code 0x23): the light engine or base die at its end. -/
def bundleUnit (x : BundleEnd) : Nat × Nat :=
  match x, farEnd x with
  | .hub _, some y => (endDie y, endBundle y)
  | x, _ => (endDie x, endBundle x)

/-- The fence of a bundle (R39, R272): both ends go to FENCED, and each end that received on it reports its last accepted number over
the lowest other ACTIVE bundle of the edge, while the edge holds new traffic. -/
def feiClose (d : Dev) (x : BundleEnd) : Dev :=
  if feiState d x = 7 then d
  else
    let d := (bundleEnds x).foldl (fun d y => setFeiState d y 7) d
    let d := (bundleEnds x).foldl (fun d y =>
      match (edgeEnds y).find? (fun z => feiState d z == 6 && (fei d z).txRaw != 15) with
      | some z =>
        let last := ((fei d y).seqRx + 4095) % 4096
        let g := fei d z
        let d := setFei d z { g with ctlq := g.ctlq ++ [ctlArea 5 (leBytes 1 (edgeNumber y) ++ leBytes 2 last)] }
        setFei d y { fei d y with waitInfo := true }
      | none => d) d
    let far := farDie x
    if (dieEnds far).all (fun y => feiState d y == 7) && fget d Reg.HUB_DIEMAP [far] Fld.HUB_DIEMAP_state == 0
    then fset d Reg.HUB_DIEMAP [far] Fld.HUB_DIEMAP_state 2 else d

/-- A bundle fails (R39, R262): it is fenced, and Hawthorn is told. -/
def feiFence (d : Dev) (x : BundleEnd) : Dev :=
  if feiState d x = 7 then d
  else
    let d := feiClose d x
    let u := bundleUnit x
    report d { source := 0x23, unit := u.1, sub := u.2, stat := (feiDesc x 1).slot (feiIx x) }

/-- A training attempt fails (R262): back to DETECT, or the bundle is fenced after three attempts at start or one of a
run-time retrain. -/
def feiFail (d : Dev) (x : BundleEnd) : Dev :=
  let n := feiGet d x 1 Fld.HUB_FEI_STAT_attempts + 1
  let d := (bundleEnds x).foldl (fun d y => feiSet d y 1 Fld.HUB_FEI_STAT_attempts (min n 7)) d
  if (fei d x).runtime ∨ 3 ≤ n then feiFence d x
  else (bundleEnds x).foldl (fun d y => setFei (setFeiState d y 1) y { fei d y with bad := [] }) d

/-- A bundle in ACTIVE retrains (R263): sequence numbers, replay buffers, credits, roles and fused exclusions stay. -/
def feiRetrain (d : Dev) (x : BundleEnd) : Dev :=
  if feiState d x = 6 ∧ hasFei x then
    (bundleEnds x).foldl (fun d y =>
      let d := feiInc (setFeiState d y 1) y 6 Fld.HUB_FEI_SWAP_retrains 1
      setFei d y { fei d y with runtime := true, alnGood := 0, gotCredit := false, gotRaw := false, bad := [] }) d
  else d

/-- A write of FEI_CTL: its fields, the start of training, and a retrain (R262, R263). -/
def feiCtlWrite (d : Dev) (x : BundleEnd) (data : Word) : Dev :=
  if !(hasFei x) then d
  else
    let r := feiDesc x 0
    let locked := fbit d r (feiIx x) Fld.HUB_FEI_CTL_lock
    let d := r.store d (feiIx x) locked data
    let on := fbit d r (feiIx x) Fld.HUB_FEI_CTL_enable
    let st := feiState d x
    let d := if on ∧ st = 0 then
        let d := feiSet (setFeiState d x 1) x 1 Fld.HUB_FEI_STAT_lead (bit (endLeads x))
        setFei d x { fei d x with runtime := false, bad := [] }
      else if !on ∧ st ≠ 7 then setFeiState d x 0
      else d
    if Fld.HUB_FEI_CTL_retrain.get data = 1 then feiRetrain d x else d

/-- Enter CREDIT: the end sends CREDIT_INIT and RAW_INIT with its receive depths (R262, R270, R274). -/
def enterCredit (d : Dev) (x : BundleEnd) : Dev :=
  let depths := (List.range 10).flatMap (fun c => leBytes 2 (10 + Config.feiDepth (endKey x) c % 4086))
  let raw := leBytes 1 (4 + Config.feiRawDepth (endKey x) % 252)
  let f := fei (setFeiState d x 5) x
  setFei (setFeiState d x 5) x { f with ctlq := [ctlArea 1 depths, ctlArea 2 raw] ++ f.ctlq }

/-- The classes and the type, instance and revision of an announcement record of this device's dies (Table 8.9); stepping and
identifier are the die's own fuses. -/
def announceRecord (d : Dev) (x : BundleEnd) : List Byte × Dev :=
  let t : Nat × Nat := match x with
    | .hub _ => (1, 0)
    | .base m _ => (2, m.val)
    | .le k _ => (4, k.val)
    | .guest _ => (1, 0)
  let st := takeFree d 8
  let uid := takeFree st.2 64
  let home := match x with | .base _ _ => 1 | _ => 0
  (leBytes 16 (t.1 + 2 ^ 8 * t.2 + 2 ^ 16 * st.1 + 2 ^ 24 * 0x20 + 2 ^ 32 * 0x3FF + 2 ^ 42 + 2 ^ 43 + 2 ^ 44 * home + 2 ^ 45 * home
    + 2 ^ 64 * uid.1), uid.2)

/-- Send DISCOVER (R277). -/
def sendDiscover (d : Dev) (x : BundleEnd) : Dev :=
  let r := announceRecord d x
  let f := fei r.2 x
  setFei r.2 x { f with ctlq := f.ctlq ++ [ctlArea 3 r.1] }

/-- Roles and lists of EXCHANGE (R260, R262, R265, R266): the lead's roles apply, each direction excludes its fused lanes and those
its receiver found bad; too many lanes fence the bundle, and a raw direction without a protocol group to answer it fails. -/
def exchange (d : Dev) (x : BundleEnd) : Dev :=
  match bundleEnds x with
  | [a, b] =>
    let tx := feiGet d a 0 Fld.HUB_FEI_CTL_tx_raw
    let rx := feiGet d a 0 Fld.HUB_FEI_CTL_rx_raw
    if (tx ≠ 0 ∧ rx = 15) ∨ (rx ≠ 0 ∧ tx = 15) then feiFail d x
    else
      let mis := feiGet d b 0 Fld.HUB_FEI_CTL_tx_raw != rx || feiGet d b 0 Fld.HUB_FEI_CTL_rx_raw != tx
      let d := if mis then feiSet d b 1 Fld.HUB_FEI_STAT_role_mis 1 else d
      let ab := (fusedExcl d a ++ (fei d b).bad).foldl (fun l y => insertAsc y l) []
      let ba := (fusedExcl d b ++ (fei d a).bad).foldl (fun l y => insertAsc y l) []
      if 4 < ab.length ∨ 4 < ba.length then feiFence d x
      else
        let d := setExcl (setExcl d a true ab) b false ab
        let d := setExcl (setExcl d b true ba) a false ba
        let d := setFei d a { fei d a with txRaw := tx, rxRaw := rx, alnGood := 0, slot := 0 }
        let d := setFei d b { fei d b with txRaw := rx, rxRaw := tx, alnGood := 0, slot := 0 }
        let d := feiSet (feiSet d a 1 Fld.HUB_FEI_STAT_gen 0) b 1 Fld.HUB_FEI_STAT_gen 0
        setFeiState (setFeiState d a 4) b 4
  | _ => d

/-- Lanes of a mask. -/
def laneList (m : BitVec 68) : List Nat := (List.range 68).filter (tbit m.toNat)

/-- FEINO_TRAIN_ACK (R262): both ends acknowledge the state. DETECT needs 64 lanes locked at both, ALIGN eight successive ALN slots
decoded at both, CREDIT both messages at both. -/
def execFeinoTrainAck (x : BundleEnd) (here far : BitVec 68) (s : State) : Host.Outcome State Fault Refusal :=
  s.run (fun _ d =>
    let ends := bundleEnds x
    if !(ends.all (fun y => feiState d y == feiState d x)) || ends.isEmpty then d
    else match feiState d x with
      | 1 => if 64 ≤ ones 68 here.toNat ∧ 64 ≤ ones 68 far.toNat then ends.foldl (fun d y => setFeiState d y 2) d else d
      | 3 => exchange d x
      | 4 => if ends.all (fun y => decide (8 ≤ (fei d y).alnGood)) then ends.foldl enterCredit d else d
      | 5 =>
        if ends.all (fun y => (fei d y).gotCredit && (fei d y).gotRaw) then
          ends.foldl (fun d y =>
            let run := (fei d y).runtime
            let d := setFeiState d y 6
            let f := fei d y
            let d := setFei d y { f with resend := f.replay.head?.map (·.seq), rawResend := f.rawReplay.head?.map (·.seq), progress := d.tb, runtime := false }
            if run || f.txRaw == 15 then d else sendDiscover d y) d
        else d
      | _ => d)

/-- FEINO_TRAIN_TIMER (R262): the end of LANE_TEST, with the lanes that showed an error or no lock at each end, beside those whose
number made it retrain (R264); in any other state a failed attempt. -/
def execFeinoTrainTimer (x : BundleEnd) (here far : BitVec 68) (s : State) : Host.Outcome State Fault Refusal :=
  s.run (fun _ d =>
    if !(hasFei x) then d
    else match feiState d x with
      | 2 =>
        match farEnd x with
        | some y =>
          let d := setFei d x { fei d x with bad := (fei d x).bad ++ laneList here }
          let d := setFei d y { fei d y with bad := (fei d y).bad ++ laneList far }
          setFeiState (setFeiState d x 3) y 3
        | none => d
      | 1 => feiFail d x
      | 3 => feiFail d x
      | 4 => feiFail d x
      | 5 => feiFail d x
      | _ => d)

/-- FEINO_RETRAIN (R263): 4 µs without acknowledge progress while flits are unacknowledged, or software's write. -/
def execFeinoRetrain (x : BundleEnd) (soft : Bool) (s : State) : Host.Outcome State Fault Refusal :=
  s.run (fun _ d => if soft || !((fei d x).replay.isEmpty) then feiRetrain d x else d)

/-- A receiver asks for the exclusion of a lane (R264); a fifth in its direction retrains the bundle. -/
def loseLane (d : Dev) (x : BundleEnd) (lane : Nat) : Dev :=
  let f := fei d x
  let gone := exclOf d x false ++ f.reqs
  if feiState d x ≠ 6 ∨ !(hasFei x) ∨ gone.contains lane then d
  else if 4 ≤ gone.length then
    let d := feiRetrain d x
    setFei d x { fei d x with bad := gone ++ [lane] }
  else feiInc (setFei d x { f with reqs := f.reqs ++ [lane] }) x 6 Fld.HUB_FEI_SWAP_swaps 1

/-- FEINO_LANE_LOSS (R264). -/
def execFeinoLaneLoss (x : BundleEnd) (lane : Fin 68) (s : State) : Host.Outcome State Fault Refusal :=
  s.run (fun _ d => loseLane d x lane.val)

/-- The value that the most items carry; the earliest of equals. -/
def mostCommon (vs : List Nat) : Nat :=
  (vs.foldl (fun (b : Nat × Nat) v => let n := vs.count v; if b.2 < n then (v, n) else b) (0, 0)).1

/-- ALN_RECEIVED (R259, R264): the words of the 68 lanes. Lanes whose check fails in two successive slots are asked to be excluded;
the map fields come from the value that most good lanes carry. -/
def execAlnReceived (x : BundleEnd) (words : List (BitVec 64)) (s : State) : Host.Outcome State Fault Refusal :=
  s.run (fun _ d =>
    let st := feiState d x
    if !(hasFei x) || !(st == 4 || st == 5 || st == 6) then d
    else
      let good (l : Nat) : Bool :=
        let w := (words.getD l 0).toNat
        words.length > l && bits w 6 0 == l && bits w 63 56 == alnCheck w
      let ok := (List.range 68).filter good
      let failed := (List.range 68).filter (fun l => !(good l))
      let f := fei d x
      let again := failed.filter f.failed.contains
      let d := setFei d x { f with failed := failed, alnGood := if ok = [] then 0 else f.alnGood + 1 }
      let d := again.foldl (fun d l => loseLane d x l) d
      if ok = [] then d
      else
        let v := mostCommon (ok.map (fun l => bits (words.getD l 0).toNat 55 8))
        let d := setExcl d x false (mapLanes (low32 (bits v 39 8)))
        if tbit v 47 then
          let lane := bits v 46 40
          let f := fei d x
          let cur := exclOf d x true ++ f.newExcl
          if cur.contains lane then d
          else if 4 ≤ cur.length then
            match farEnd x with
            | some y => let d := feiRetrain d x; setFei d y { fei d y with bad := cur ++ [lane] }
            | none => d
          else setFei d x { f with newExcl := f.newExcl ++ [lane] }
        else d)

/-! ### Receiving -/

/-- A sequence number lies at or before another, modulo 4,096. -/
def seqLe (a b : Nat) : Bool := decide ((b + 4096 - a) % 4096 < 2048)

/-- The messages of a flit's slots, by its start bits; none where a message does not lie within the flit. -/
def splitMsgs (sov : Nat) (area : List Byte) : List (Option (List Byte)) :=
  ((List.range 15).filter (tbit sov)).map (fun s =>
    let m := area.drop (16 * s)
    let n := msgSlots m
    if s + n ≤ 15 then some (m.take (16 * n)) else none)

/-- Act on acknowledges and naks that a flit carries. -/
def takeAcks (d : Dev) (x : BundleEnd) (w t : Nat) : Dev :=
  let f := fei d x
  let ack := bits w 51 40
  let left := f.replay.filter (fun y => !(seqLe y.seq ack))
  let rack := bits t 11 0
  let rleft := f.rawReplay.filter (fun y => !(seqLe y.seq rack))
  setFei d x { f with replay := left, progress := if left.length < f.replay.length then d.tb else f.progress, nakIn := f.nakIn || tbit w 4, rawReplay := rleft, rawNakIn := f.rawNakIn || tbit t 12 }

/-- Credits that a sequenced flit returns. -/
def takeCredits (d : Dev) (x : BundleEnd) (w t : Nat) : Dev :=
  let one (d : Dev) (v : Nat) : Dev :=
    let c := v % 16
    if 10 ≤ c ∨ v / 16 = 0 then d else setFeiCredit d x c (min 4095 (feiCredit d x c + v / 16))
  let d := one (one d (bits w 31 24)) (bits w 39 32)
  let f := fei d x
  setFei d x { f with rawCredits := f.rawCredits + bits t 23 16 }

/-- A faulty message or control code: counted, and recorded against the die that sent it (R269). -/
def feiMalformed (d : Dev) (x : BundleEnd) : Dev :=
  let d := feiInc d x 5 Fld.HUB_FEI_ERR_malformed 1
  let st := if hasFei x then (feiDesc x 5).slot (feiIx x) else none
  report d { source := 0x24, unit := farDie x, stat := st, bundle := some x }

/-- Deliver the messages of an accepted flit; their slots are freed as the die takes them, and for a guest die the credits wait for
tokens (R270, R287). Privet itself judges a guest die's messages (R284). -/
def deliver (d : Dev) (x : BundleEnd) (ms : List (Option (List Byte))) : Dev :=
  ms.foldl (fun d m =>
    match m with
    | none => match x with | .guest _ => setFei d x { fei d x with inbox := (fei d x).inbox ++ [[]] } | _ => feiMalformed d x
    | some m =>
      match x with
      | .guest _ =>
        let f := fei d x
        let c := msgClass m
        setFei d x { f with inbox := f.inbox ++ [m], heldBack := setAt f.heldBack c (f.heldBack.getD c 0 + msgSlots m) }
      | _ =>
        if msgBad m then feiMalformed d x
        else
          let f := fei d x
          let c := msgClass m
          setFei d x { f with inbox := f.inbox ++ [m], owed := setAt f.owed c (f.owed.getD c 0 + msgSlots m) }) d

/-- FEINO_FLIT_RECEIVE (R268, R270, R271): 256 bytes as they arrive. -/
def execFeinoFlitReceive (x : BundleEnd) (flit : List Byte) (s : State) : Host.Outcome State Fault Refusal :=
  s.run (fun _ d =>
    let st := feiState d x
    if !(st == 5 || st == 6) || flit.length != 256 then d
    else
      let w := leNat (flit.take 8)
      let t := leNat (slice flit 248 4)
      let f := fei d x
      let mayNak := match f.nakAt with | none => true | some n => decide (n + 32 ≤ d.tb)
      let nak (d : Dev) : Dev :=
        if mayNak then setFei d x { fei d x with nakOut := true, nakAt := some d.tb } else d
      if leNat (slice flit 252 4) ≠ crc32c (flit.take 252) then nak (feiInc d x 5 Fld.HUB_FEI_ERR_crc_err 1)
      else
        let ty := bits w 3 0
        if ty = 0 then edgeResume (takeAcks d x w t) x
        else if 3 ≤ ty then feiMalformed d x
        else
          let seq := bits w 63 52
          if seq ≠ f.seqRx then (if seqLe seq f.seqRx then edgeResume (takeAcks d x w t) x else nak d)
          else
            let d := edgeResume (takeCredits (takeAcks d x w t) x w t) x
            let f := fei d x
            let d := setFei d x { f with seqRx := (seq + 1) % 4096 }
            let area := slice flit 8 240
            if ty = 1 then deliver d x (splitMsgs (bits w 20 6) area)
            else
              let code := (area.headD 0).toNat
              if code = 0 ∨ 6 < code then feiMalformed d x
              else let f := fei d x; setFei d x { f with ctl := f.ctl ++ [area] })

/-- FEINO_NAK (R271, R274): the sender resends from the number after ack, and counts a replay. -/
def execFeinoNak (x : BundleEnd) (s : State) : Host.Outcome State Fault Refusal :=
  s.run (fun _ d =>
    let f := fei d x
    let d1 := setFei d x { f with
      nakIn := false, rawNakIn := false, resend := if f.nakIn then f.replay.head?.map (·.seq) else f.resend, rawResend := if f.rawNakIn then f.rawReplay.head?.map (·.seq) else f.rawResend }
    feiInc d1 x 5 Fld.HUB_FEI_ERR_replays (bit (f.nakIn && !f.replay.isEmpty) + bit (f.rawNakIn && !f.rawReplay.isEmpty)))

/-- FEINO_REPLAY_TIMER (R271): the sender resends from its oldest unacknowledged flit. -/
def execFeinoReplayTimer (x : BundleEnd) (s : State) : Host.Outcome State Fault Refusal :=
  s.run (fun _ d =>
    let f := fei d x
    match f.replay with
    | [] => d
    | y :: _ => feiInc (setFei d x { f with resend := some y.seq }) x 5 Fld.HUB_FEI_ERR_replays 1)

/-- RAW_FRAME_RECEIVE (R273, R274): 256 bytes of a raw group as they arrive. -/
def execRawFrameReceive (x : BundleEnd) (frame : List Byte) (s : State) : Host.Outcome State Fault Refusal :=
  s.run (fun _ d =>
    let f := fei d x
    if feiState d x ≠ 6 ∨ frame.length ≠ 256 ∨ f.rxRaw = 0 ∨ f.broken then d
    else
      let w := leNat (slice frame 248 4)
      if leNat (slice frame 252 4) ≠ crc32c (frame.take 252) then
        feiInc (setFei d x { f with rawNakOut := true }) x 5 Fld.HUB_FEI_ERR_crc_err 1
      else
        let ch := bits w 15 12
        let seq := bits w 11 0
        if ch = 15 then d
        else if seq ≠ f.rawSeqRx then (if seqLe seq f.rawSeqRx then d else setFei d x { f with rawNakOut := true })
        else setFei d x { f with rawSeqRx := (seq + 1) % 4096, rawOwed := f.rawOwed + 1, rawIn := f.rawIn ++ [{ seq := seq, chan := ch, last := tbit w 16, data := frame.take 248 }] })

/-- RAW_CHANNEL_BROKEN (R275): the bundle of a raw group is fenced, and every channel on it is broken at both ends. -/
def execRawChannelBroken (x : BundleEnd) (s : State) : Host.Outcome State Fault Refusal :=
  s.run (fun _ d =>
    if feiState d x = 7 then
      (bundleEnds x).foldl (fun d y =>
        let f := fei d y
        if f.txRaw ≠ 0 ∨ f.rxRaw ≠ 0 then setFei d y { f with broken := true, rawQ := [], rawReplay := [] } else d) d
    else d)

/-! ### Control messages -/

/-- Take the first control message of a code that an end has received: its fields. -/
def takeCtlMsg (d : Dev) (x : BundleEnd) (code : Nat) : Option (List Byte × Dev) :=
  let f := fei d x
  match f.ctl.find? (fun a => (a.headD 0).toNat == code) with
  | none => none
  | some a => some (a.drop 8, setFei d x { f with ctl := f.ctl.erase a })

/-- CREDIT_INIT (R270): the far receiver's depths; after a run-time retrain the counts stay as they were (R263). -/
def execCreditInit (x : BundleEnd) (s : State) : Host.Outcome State Fault Refusal :=
  s.run (fun _ d => match takeCtlMsg d x 1 with
    | none => d
    | some (b, d) =>
      let d := if (fei d x).runtime then d
        else (List.range 10).foldl (fun d c =>
          let n := leNat (slice b (2 * c) 2) % 4096
          let d := if hasFei x then fset d (feiDesc x 7) (feiIx x ++ [c]) Fld.HUB_FEI_CRED_depth n else d
          setFeiCredit d x c n) d
      setFei d x { fei d x with gotCredit := true })

/-- RAW_INIT (R274). -/
def execRawInit (x : BundleEnd) (s : State) : Host.Outcome State Fault Refusal :=
  s.run (fun _ d => match takeCtlMsg d x 2 with
    | none => d
    | some (b, d) =>
      let f := fei d x
      let n := (b.headD 0).toNat
      setFei d x (if f.runtime then { f with gotRaw := true } else { f with gotRaw := true, rawDepth := n, rawCredits := n }))

/-- The type and instance that belong at a place of the device map (R278). -/
def placeDie (i : Nat) : Nat × Nat :=
  if i = 0 then (1, 0) else if i < 7 then (2, i - 1) else if i < 43 then (3, i - 7) else if i < 59 then (4, i - 43) else (8, i - 59)

/-- DISCOVER (R277, R278): the announcement record of the die at a place reaches the hub die, which enters it; a record that does not
belong there marks the entry UNEXPECTED and fences the die's bundles. -/
def execDiscover (place : Fin 61) (record : BitVec 128) (s : State) : Host.Outcome State Fault Refusal :=
  s.run (fun _ d =>
    let i := place.val
    let r := record.toNat
    let ok := placeDie i == (bits r 7 0, bits r 15 8)
    let d := wrReg d Reg.HUB_DIEMAP [i] (low32 (bits r 23 0))
    let d := fset d Reg.HUB_DIEMAP [i] Fld.HUB_DIEMAP_state (if ok then 1 else 3)
    if ok then { d with mapAcks := d.mapAcks ++ [i] }
    else
      let d := (dieEnds i).foldl feiFence d
      report d { source := 0x25, unit := i, stat := Reg.HUB_DIEMAP.slot [i] })

/-- MAP_ACK (R276): the hub die's answer reaches the announcing die; the ends of bundles that lead to it show its index. -/
def execMapAck (place : Fin 61) (s : State) : Host.Outcome State Fault Refusal :=
  s.run (fun _ d =>
    if d.mapAcks.contains place.val then
      let d := { d with mapAcks := d.mapAcks.erase place.val }
      (dieEnds place.val).foldl (fun d y => match farEnd y with
        | some z => feiSet d z 1 Fld.HUB_FEI_STAT_peer place.val
        | none => d) d
    else d)

/-- FENCE_INFO (R272): the last number that the far die accepted on a fenced bundle of the edge; the messages of later flits go to the
remaining bundles, and those not sent follow once they are acknowledged. -/
def execFenceInfo (x : BundleEnd) (s : State) : Host.Outcome State Fault Refusal :=
  s.run (fun _ d => match takeCtlMsg d x 5 with
    | none => d
    | some (b, d) =>
      match (edgeEnds x).find? (fun y => edgeNumber y == (b.headD 0).toNat && (fei d y).waitInfo) with
      | none => d
      | some y =>
        let last := leNat (slice b 1 2) % 4096
        let f := fei d y
        let later := f.replay.filter (fun z => !(seqLe z.seq last) && z.ftype == 1)
        let msgs := later.flatMap (fun z => (splitMsgs z.sov (padTo 240 z.slots)).filterMap id)
        edgeResend (setFei d y { f with replay := [], waitInfo := false }) x msgs)

/-- FENCE_INFO_TIMEOUT (R272): the messages that no ack covers are dropped, and their requesters see TIMEOUT. -/
def execFenceInfoTimeout (x : BundleEnd) (s : State) : Host.Outcome State Fault Refusal :=
  s.run (fun _ d =>
    let f := fei d x
    if !f.waitInfo then d
    else
      let msgs := f.replay.flatMap (fun z => if z.ftype = 1 then (splitMsgs z.sov (padTo 240 z.slots)).filterMap id else [])
      let d := edgeResend (setFei d x { f with replay := [], waitInfo := false }) x []
      (msgs.filter (fun m => msgClass m == 0 || msgClass m == 5)).foldl (fun d m =>
        let u := targetUnit d (msgAddr m)
        report d { source := 0x17, unit := u.1, sub := u.2.1, detail := low32 (u.2.2 / 8) }) d)

/-- RETRAIN_REQ (R276): the far end asked for a retrain. -/
def execRetrainReq (x : BundleEnd) (s : State) : Host.Outcome State Fault Refusal :=
  s.run (fun _ d => match takeCtlMsg d x 6 with
    | some (_, d) => feiRetrain d x
    | none => d)

end Sys2Proof.Machine
end

