-- ==== Sys2Proof/Machine/Train.lean ====
section
/-!
DEFINITION. Training from PARAM to ACTIVE (R383, R384), the neighbour checks of HELLO (R399), the election of a root
(R413-R416), the time base (R417-R419), and the sleep of links (R434-R437).
-/
namespace Sys2Proof.Machine

/-! ### The root, as HELLO and ANNOUNCE show it -/

/-- The election state (Table 12.6). -/
def fabState (d : Dev) : Nat := fget d Reg.FAB_STAT [] Fld.FAB_STAT_state

/-- The generation held. -/
def fabGen (d : Dev) : Nat := fget d Reg.FAB_STAT [] Fld.FAB_STAT_gen

/-- The root's package identity. -/
def rootId (d : Dev) : Nat := pair64 (rdReg d Reg.FAB_ROOT_ID_LO []) (rdReg d Reg.FAB_ROOT_ID_HI [])

/-- The fibre of the parent; 0xFF for none. -/
def parentOf (d : Dev) : Nat := fget d Reg.FAB_TB [] Fld.FAB_TB_parent

/-- Replace the hidden state of the fabric. -/
def setFab (d : Dev) (f : Fabric) : Dev := { d with fab := f }

/-- Send a FABRIC message on a fibre (R401); a DORMANT one wakes for it (R437). -/
def sendFabric (d : Dev) (g sub : Nat) (body : List Byte) : Dev :=
  queueMsg (wakeFibre d g) g 0x0A (leBytes 1 sub ++ body)

/-- Send a FABRIC message on every usable fibre but one. -/
def floodFabric (d : Dev) (sub : Nat) (body : List Byte) (except : Option Nat) : Dev :=
  ((List.range 128).filter (fun g => usable d g && some g != except)).foldl (fun d g => sendFabric d g sub body) d

/-- Send HELLO (Table 12.3). -/
def sendHello (d : Dev) (g : Nat) : Dev :=
  sendFabric d g 0x01 (leBytes 2 (ownNode d) ++ ((List.range 4).map (fun i => leBytes 2 (dimCoord d i))).flatten ++
    leBytes 1 (fibreDir d g) ++ leBytes 8 (rootId d) ++ leBytes 2 (fabGen d) ++
    leBytes 2 (fget d Reg.FAB_ROOT [] Fld.FAB_ROOT_hops))

/-- A link becomes ACTIVE (R382, R399, R408): slip ordinals start again, the replay buffer is resent, HELLO is sent. -/
def linkActive (d : Dev) (g : Nat) : Dev :=
  let d := setPhase d g 5
  let x := getLq d g
  let d := setLq d g { x with
      fresh := false, slipTx := 0, slipRx := 0, slipRing := [], resend := x.replay.head?.map (·.seq),
      progress := d.tb, sleep := 0}
  sendHello d g

/-! ### PARAM and RTT -/

/-- The agreed major revision, or none where training fails with REV (R383). -/
def agreeRev (d : Dev) (g theirs : Nat) : Option Nat :=
  let m := min 2 theirs
  if m = 2 then some 2
  else if m = 1 ∧ fbit d Reg.LQ_CTL (lqIx g) Fld.LQ_CTL_oq1_allow = true then some 1 else none

/-- Apply the peer's TRAIN_PARAM (R376, R383, R389): revision, roles, lane map, replay from last_acc + 1, expected
number, credits; then RTT begins. -/
def applyParam (e : Env) (d : Dev) (g : Nat) (b : List Byte) : Dev :=
  match agreeRev d g (leNat (slice b 8 1) / 16) with
  | none => trainFail d g 2
  | some rev =>
    let x := getLq d g
    let fl := leNat (slice b 9 1)
    let peerFresh := tbit fl 0
    let lower := decide (ownId e < leNat (b.take 8))
    let d := setLqStat d g Fld.LQ_STAT_oq1 (bit (rev == 1))
    let d := if x.fresh || rev == 1 then setLqStat d g Fld.LQ_STAT_lead (bit lower) else d
    let d := if peerFresh && lqState d g == 6 then flushLink d g else d
    let d := takeAck d g (leNat (slice b 10 3))
    let d := if peerFresh || lqState d g == 7 || x.fresh then setSeqRx d g (leNat (slice b 13 3)) else d
    let d := (List.range 4).foldl (fun d v =>
      fset (setCredits d g v (leNat (slice b (28 + 2 * v) 2) % 2 ^ 12)) Reg.LQ_DEFICIT [g / 8, g % 8, v]
        Fld.LQ_DEFICIT_deficit 0) d
    let x := getLq d g
    let d := setLq d g { x with
        txMap := some (leNat (slice b 16 12) % 2 ^ 90), resend := x.replay.head?.map (·.seq),
        fell := [false, false, false, false], sent := x.sent, mgmt := []}
    let d := setPhase d g 4
    if lqLead d g then queueMsg d g 0x02 (leBytes 8 d.tb) else d

/-- TRAIN_PARAM (R383): the peer's parameters are held; once it holds ours too, they are applied. -/
def execTrainParam (g : Fin 128) (s : State) : Host.Outcome State Fault Refusal :=
  s.run (fun e d => match takeMsg d g.val 0x01 with
    | none => d
    | some (b, d) =>
      let x := getLq d g.val
      if x.phase ≠ 3 then d
      else
        let seen := x.seen || tbit (leNat (slice b 9 1)) 1
        let d := setLq d g.val { x with peer := some b, seen := seen }
        if seen then applyParam e d g.val b else d)

/-- ECHO_REQ (R384): the follow answers the first request, and takes the round trip that the second announces. -/
def execEchoReq (g : Fin 128) (s : State) : Host.Outcome State Fault Refusal :=
  s.run (fun _ d => match takeMsg d g.val 0x02 with
    | none => d
    | some (b, d) =>
      if (getLq d g.val).phase ≠ 4 ∨ lqLead d g.val then d
      else if b.length < 12 then
        queueMsg d g.val 0x03 (b.take 8 ++ leBytes 8 d.tb ++ leBytes 8 d.tb)
      else linkActive (fset d Reg.LQ_RTT (lqIx g.val) Fld.LQ_RTT_rtt_ns (leNat (slice b 8 4))) g.val)

/-- ECHO_RSP (R380, R384): the lead has the round trip; beyond 21,100 ns training fails with REACH. -/
def execEchoRsp (g : Fin 128) (s : State) : Host.Outcome State Fault Refusal :=
  s.run (fun _ d => match takeMsg d g.val 0x03 with
    | none => d
    | some (b, d) =>
      if (getLq d g.val).phase ≠ 4 ∨ lqLead d g.val = false then d
      else
        let t1 := leNat (b.take 8); let t2 := leNat (slice b 8 8); let t3 := leNat (slice b 16 8)
        let rtt := (d.tb - t1) - (t3 - t2)
        if 21100 < rtt then trainFail d g.val 3
        else
          let d := fset d Reg.LQ_RTT (lqIx g.val) Fld.LQ_RTT_rtt_ns rtt
          let d := queueMsg d g.val 0x02 (leBytes 8 t1 ++ leBytes 4 rtt)
          linkActive d g.val)

/-! ### HELLO -/

/-- The opposite direction of the same dimension (R398). -/
def oppositeDir (c : Nat) : Nat := if c = 0 then 0 else if c % 2 = 1 then c + 1 else c - 1

/-- The coordinates that a neighbour in a direction must have (R399). -/
def neighbourOk (d : Dev) (dir : Nat) (xs : List Nat) : Bool :=
  let i := (dir - 1) / 2
  let n := dimSize d i
  let x := dimCoord d i
  let up := dir % 2 == 1
  let want : Int := if up then (x : Int) + 1 else (x : Int) - 1
  let want := if isRing d i then want % (n : Int) else want
  (List.range 4).all (fun j => if j = i then decide (((xs.getD j 0 : Nat) : Int) = want) else xs.getD j 0 == dimCoord d j)

/-- A HELLO passes the checks of R399. -/
def helloOk (d : Dev) (g : Nat) (b : List Byte) : Bool :=
  let dir := fibreDir d g
  let xs := (List.range 4).map (fun i => leNat (slice b (3 + 2 * i) 2))
  (leNat (slice b 11 1) == oppositeDir dir) && (tableMode d || (dir != 0 && neighbourOk d dir xs)) &&
    (leNat (slice b 1 2) != ownNode d)

/-- Among fibres that showed the current root, the usable one with the fewest hops, lowest on a tie. -/
def bestParent (d : Dev) : Option Nat :=
  let ok (g : Nat) : Option Nat := match Sparse.find d.fab.shown g with
    | some (id, gen, hops, _) => if usable d g && id == rootId d && gen == fabGen d then some hops else none
    | none => none
  (List.range 128).foldl (fun b g => match ok g, b with
    | none, _ => b
    | some _, none => some g
    | some h, some g' => match ok g' with | some h' => if h < h' then some g else b | none => some g) none

/-- A node adopts a root shown on a fibre (R415, R416), and sends the ANNOUNCE on. The root that it has already may be shown on a
better fibre, or to a node that has lost its parent (R419). -/
def adoptRoot (d : Dev) (g id node gen hops : Nat) : Dev :=
  let d := setFab d { d.fab with shown := Sparse.put d.fab.shown g (id, gen, hops, node), maxGen := max d.fab.maxGen gen }
  let better := decide (fabGen d < gen) || (gen == fabGen d && gen != 0 && decide (id < rootId d))
  if better then
    let d := fset (fset d Reg.FAB_STAT [] Fld.FAB_STAT_state 4) Reg.FAB_STAT [] Fld.FAB_STAT_gen gen
    let d := wrReg (wrReg d Reg.FAB_ROOT_ID_LO [] (low32 id)) Reg.FAB_ROOT_ID_HI [] (high32 id)
    let d := fset (fset d Reg.FAB_ROOT [] Fld.FAB_ROOT_node node) Reg.FAB_ROOT [] Fld.FAB_ROOT_hops (min (hops + 1) 0xFFFF)
    let d := fset (fset d Reg.FAB_TB [] Fld.FAB_TB_parent g) Reg.FAB_TB [] Fld.FAB_TB_aligned 0
    let d := setFab d { d.fab with firstTb := true, good := 0, tbSent := none, best := none }
    floodFabric d 0x03 (leBytes 8 id ++ leBytes 2 node ++ leBytes 2 gen ++ leBytes 2 (min (hops + 1) 0xFFFF)) (some g)
  else
    let cur := fget d Reg.FAB_ROOT [] Fld.FAB_ROOT_hops
    if fabState d = 4 ∧ gen = fabGen d ∧ id = rootId d ∧
        (hops + 1 < cur ∨ (hops + 1 = cur ∧ g < parentOf d) ∨ parentOf d = 0xFF) then
      let d := fset d Reg.FAB_ROOT [] Fld.FAB_ROOT_hops (min (hops + 1) 0xFFFF)
      fset d Reg.FAB_TB [] Fld.FAB_TB_parent g
    else d

/-- A FABRIC message of a subtype, from its subtype byte on. -/
def takeFabric (d : Dev) (g sub : Nat) : Option (List Byte × Dev) :=
  let x := getLq d g
  match x.rxMsgs.find? (fun m => leNat (m.take 1) == 0x0A && leNat (slice m 4 1) == sub) with
  | none => none
  | some m => some (m.drop 4, setLq d g { x with rxMsgs := x.rxMsgs.erase m })

/-- HELLO (R399, R416): the fibre is OK or MISWIRED, and the sender's root is adopted as from an ANNOUNCE. -/
def execHelloMsg (g : Fin 128) (s : State) : Host.Outcome State Fault Refusal :=
  s.run (fun _ d => match takeFabric d g.val 0x01 with
    | none => d
    | some (b, d) =>
      let node := leNat (slice b 1 2)
      let d := fset d Reg.FAB_FDIR [g.val] Fld.FAB_FDIR_peer node
      if helloOk d g.val b then
        let d := fset d Reg.FAB_FDIR [g.val] Fld.FAB_FDIR_state 1
        let hops := leNat (slice b 22 2)
        let gen := leNat (slice b 20 2)
        if gen = 0 then d
        else
          let r := if hops = 0 then (node, d) else match Sparse.find d.fab.shown g.val with
            | some (id, gn, _, rn) => if id = leNat (slice b 12 8) ∧ gn = gen then (rn, d) else takeFree d 16
            | none => takeFree d 16
          adoptRoot r.2 g.val (leNat (slice b 12 8)) r.1 gen hops
      else
        let d := fset d Reg.FAB_FDIR [g.val] Fld.FAB_FDIR_state 2
        fabricEvent d g.val (Reg.FAB_FDIR.slot [g.val]))

/-- HELLO_PERIOD (R399): once a second on an ACTIVE link. -/
def execHelloPeriod (g : Fin 128) (s : State) : Host.Outcome State Fault Refusal :=
  s.run (fun _ d => if lqActive d g.val || lqState d g.val == 8 then sendHello d g.val else d)

/-! ### Election -/

/-- The body of a CLAIM of this node. -/
def claimBody (id node gen hops : Nat) : List Byte := leBytes 8 id ++ leBytes 2 node ++ leBytes 2 gen ++ leBytes 2 hops

/-- A start of the fabric (R413). -/
def fabStart (e : Env) (d : Dev) : Dev :=
  if fabState d = 0 then
    let gen := max d.fab.maxGen (fabGen d)
    let d := fset d Reg.FAB_STAT [] Fld.FAB_STAT_state 1
    let d := setFab d { d.fab with best := some (ownId e, ownNode d, gen, 0) }
    floodFabric d 0x02 (claimBody (ownId e) (ownNode d) gen 0) none
  else fset d Reg.FAB_STAT [] Fld.FAB_STAT_start_ref 1

/-- A leave (R416): back to IDLE; the generation stays recorded. -/
def fabLeave (d : Dev) : Dev :=
  let d := setFab d { d.fab with
      maxGen := max d.fab.maxGen (fabGen d), best := none, good := 0, firstTb := true, tbSent := none,
      shown := []}
  let d := fset (fset d Reg.FAB_STAT [] Fld.FAB_STAT_state 0) Reg.FAB_STAT [] Fld.FAB_STAT_gen 0
  let d := wrReg (wrReg (wrReg d Reg.FAB_ROOT [] 0) Reg.FAB_ROOT_ID_LO [] 0) Reg.FAB_ROOT_ID_HI [] 0
  fset (fset d Reg.FAB_TB [] Fld.FAB_TB_parent 0xFF) Reg.FAB_TB [] Fld.FAB_TB_aligned 0

/-- FAB_CTL_START (R413): a write of FAB_CTL.start. -/
def execFabCtlStart (p : Path) (s : State) : Host.Outcome State Fault Refusal :=
  s.run (fun e d => if portHalted d p then d else if (pathPort p).isNone then fabStart e d else regEvent d p (Reg.FAB_CTL.key []))

/-- FAB_CTL_LEAVE (R416): a write of FAB_CTL.leave. -/
def execFabCtlLeave (p : Path) (s : State) : Host.Outcome State Fault Refusal :=
  s.run (fun _ d => if portHalted d p then d else if (pathPort p).isNone then fabLeave d else regEvent d p (Reg.FAB_CTL.key []))

/-- CLAIM (R414). -/
def execClaimMsg (g : Fin 128) (s : State) : Host.Outcome State Fault Refusal :=
  s.run (fun _ d => match takeFabric d g.val 0x02 with
    | none => d
    | some (b, d) =>
      let id := leNat (slice b 1 8)
      let node := leNat (slice b 9 2)
      let gen := leNat (slice b 11 2)
      let hops := leNat (slice b 13 2)
      let d := setFab d { d.fab with maxGen := max d.fab.maxGen gen }
      let better := match d.fab.best with | none => true | some (id', _, _, _) => decide (id < id')
      if better then
        let d := setFab d { d.fab with best := some (id, node, gen, hops) }
        let d := if fabState d = 1 then fset d Reg.FAB_STAT [] Fld.FAB_STAT_state 2 else d
        floodFabric d 0x02 (claimBody id node gen (min (hops + 1) 0xFFFF)) (some g.val)
      else d)

/-- CLAIM_WINDOW_CLOSE (R415): a node still CLAIMING becomes ROOT and announces itself. -/
def execClaimWindowClose (s : State) : Host.Outcome State Fault Refusal :=
  s.run (fun e d =>
    if fabState d = 1 then
      let gen := (max d.fab.maxGen (fabGen d) + 1) % 2 ^ 16
      let d := setFab d { d.fab with maxGen := gen, best := none }
      let d := fset (fset d Reg.FAB_STAT [] Fld.FAB_STAT_state 3) Reg.FAB_STAT [] Fld.FAB_STAT_gen gen
      let d := wrReg (wrReg d Reg.FAB_ROOT_ID_LO [] (low32 (ownId e))) Reg.FAB_ROOT_ID_HI [] (high32 (ownId e))
      let d := wrReg d Reg.FAB_ROOT [] (low32 (ownNode d))
      floodFabric d 0x03 (claimBody (ownId e) (ownNode d) gen 0) none
    else d)

/-- ANNOUNCE (R415). -/
def execAnnounceMsg (g : Fin 128) (s : State) : Host.Outcome State Fault Refusal :=
  s.run (fun _ d => match takeFabric d g.val 0x03 with
    | none => d
    | some (b, d) => adoptRoot d g.val (leNat (slice b 1 8)) (leNat (slice b 9 2)) (leNat (slice b 11 2)) (leNat (slice b 13 2)))

/-! ### Time base -/

/-- TB_EXCHANGE_PERIOD (R417): once every 1 ms a node other than the root asks its parent. -/
def execTbExchangePeriod (s : State) : Host.Outcome State Fault Refusal :=
  s.run (fun _ d =>
    let g := parentOf d
    if fabState d = 4 ∧ g < 128 then
      setFab (sendFabric d g 0x04 (leBytes 8 d.tb)) { (sendFabric d g 0x04 (leBytes 8 d.tb)).fab with tbSent := some d.tb }
    else d)

/-- TB_REQ (R417): answered with the times of its receipt and of the answer. -/
def execTbReq (g : Fin 128) (s : State) : Host.Outcome State Fault Refusal :=
  s.run (fun _ d => match takeFabric d g.val 0x04 with
    | none => d
    | some (b, d) => sendFabric d g.val 0x05 (slice b 1 8 ++ leBytes 8 d.tb ++ leBytes 8 d.tb))

/-- One exchange with offset θ (R417): a step at the first beyond 1 µs, the slew, and alignment. -/
def takeOffset (d : Dev) (th : Int) : Dev :=
  let f := d.fab
  let d := fset d Reg.FAB_TB [] Fld.FAB_TB_offset (unsigned 16 (clampInt (-32768) 32767 th))
  if f.firstTb && decide (1000 < th.natAbs) then
    let d := { d with tb := ((d.tb : Int) + th).toNat % 2 ^ 64 }
    setFab (fset d Reg.FAB_TB [] Fld.FAB_TB_stepped 1) { f with firstTb := false, good := 0, slew := 0, tbSent := none }
  else
    let good := if th.natAbs ≤ 2 then min 8 (f.good + 1) else 0
    let d := setFab d { f with firstTb := false, good := good, slew := clampInt (-50) 50 th, tbSent := none }
    if 8 ≤ good then fset d Reg.FAB_TB [] Fld.FAB_TB_aligned 1
    else if 8 < th.natAbs then fset d Reg.FAB_TB [] Fld.FAB_TB_aligned 0 else d

/-- TB_RSP (R417). Half a nanosecond goes down or up: the spec states no rounding. -/
def execTbRsp (g : Fin 128) (s : State) : Host.Outcome State Fault Refusal :=
  s.run (fun _ d => match takeFabric d g.val 0x05 with
    | none => d
    | some (b, d) =>
      let t1 := leNat (slice b 1 8)
      if fabState d ≠ 4 ∨ parentOf d ≠ g.val ∨ d.fab.tbSent ≠ some t1 then d
      else
        let t2 : Int := leNat (slice b 9 8)
        let t3 : Int := leNat (slice b 17 8)
        let x := (t2 - (t1 : Int)) - ((d.tb : Int) - t3)
        if x % 2 = 0 then takeOffset d (x / 2)
        else
          let r := takeFree d 1
          takeOffset r.2 (x / 2 + (r.1 : Int)))

/-- PARENT_LOST (R417, R419): a new parent that shows the same root, or none. -/
def execParentLost (s : State) : Host.Outcome State Fault Refusal :=
  s.run (fun _ d =>
    let g := parentOf d
    if fabState d = 4 ∧ g < 128 ∧ usable d g = false then
      let d := fset d Reg.FAB_TB [] Fld.FAB_TB_aligned 0
      let d := setFab d { d.fab with good := 0, tbSent := none }
      match bestParent d with
      | some h =>
        let hops := match Sparse.find d.fab.shown h with | some (_, _, n, _) => n | none => 0
        fset (fset d Reg.FAB_TB [] Fld.FAB_TB_parent h) Reg.FAB_ROOT [] Fld.FAB_ROOT_hops (min (hops + 1) 0xFFFF)
      | none => fset d Reg.FAB_TB [] Fld.FAB_TB_parent 0xFF
    else d)

/-! ### Sleep -/

/-- A slip of the sleep agreement itself (Table 12.2). -/
def sleepSlip (s : Slip) : Bool := s.kind == 2 && decide (4 ≤ bits s.value 19 16) && decide (bits s.value 19 16 ≤ 8)

/-- No traffic waits for a fibre: no cell, slip or management message (R437). -/
def noTraffic (d : Dev) (g : Nat) : Bool :=
  let x := getLq d g
  x.txq.isEmpty && x.slips.all sleepSlip && x.mgmt.isEmpty

/-- A Gap or path command is pending or running on a pair (R434). -/
def pairBusy (d : Dev) (g : Nat) : Bool :=
  let x := getLq d g
  x.pathPend.isSome || lqStat d g Fld.LQ_STAT_path != 0 ||
    fbit d Reg.LE_GAP_STAT [g / 8] Fld.LE_GAP_STAT_busy || fbit d Reg.LE_GAP_STAT [g / 8] Fld.LE_GAP_STAT_pending ||
    fbit d Reg.LE_FIBRE (lqIx g) Fld.LE_FIBRE_rx_gap || fbit d Reg.LE_FIBRE (lqIx g) Fld.LE_FIBRE_tx_gap

/-- The smallest wake-up latency that partitions state, in 100 ns; none for no limit (R460). -/
def partsLat (d : Dev) (qs : List Nat) : Option Nat :=
  qs.foldl (fun m q =>
    let l := fget d Reg.HUB_PART_CTL [q] Fld.HUB_PART_CTL_lat
    if l = 0xFFFF then m else some (min l (m.getD l))) none

/-- DORMANT fits what the owner of the trunk states; a trunk that no partition owns follows all enabled ones (R460). -/
def latencyAllows (d : Dev) (g : Nat) : Bool :=
  latFits (partsLat d (match partOfTrunk d (g / 16) with | some q => [q] | none => (List.range 16).filter (partOn d))) 1600

/-- The conditions of R434. -/
def sleepOk (d : Dev) (g : Nat) : Bool :=
  fbit d Reg.FAB_SLEEP [] Fld.FAB_SLEEP_enable && lqActive d g && !(lqOq1 d g) && noTraffic d g &&
    (getLq d g).replay.isEmpty && !(pairBusy d g) &&
    d.fab.plans.all (fun p => p.2.fibres.all (fun f => f.2 != g)) && latencyAllows d g

/-- A fabric control slip to the peer of a fibre (Table 12.1). -/
def ctlSlip (d : Dev) (g code arg value : Nat) : Slip :=
  { kind := 2, value := fibrePeer d g + code * 2 ^ 16 + arg % 2 ^ 12 * 2 ^ 20 + value % 2 ^ 32 * 2 ^ 32 }

/-- Send a fabric control slip. -/
def sendCtl (d : Dev) (g code arg value : Nat) : Dev := queueSlip d g (ctlSlip d g code arg value)

/-- The first fabric control slip of a code: its word. -/
def takeCtl (d : Dev) (g code : Nat) : Option (Nat × Dev) := takeSlip d g (fun x => x.1 == 2 && bits x.2 19 16 == code)

/-- Set where the sleep agreement stands: 0 none, 1 proposed, 2 accepted, 3 cancelled after it was accepted. -/
def setSleep (d : Dev) (g n : Nat) : Dev := setLq d g { getLq d g with sleep := n }

/-- SLEEP_IDLE (R434, R435): the link has been idle for idle_us, and an end proposes. -/
def execSleepIdle (g : Fin 128) (s : State) : Host.Outcome State Fault Refusal :=
  s.run (fun _ d => if sleepOk d g.val && (getLq d g.val).sleep == 0 then sendCtl (setSleep d g.val 1) g.val 0x4 0 0 else d)

/-- SLP_PROPOSE (R435, Table 12.13): accepted or cancelled; where both proposed, the lower identity stays proposer. -/
def execSlpPropose (g : Fin 128) (s : State) : Host.Outcome State Fault Refusal :=
  s.run (fun e d => match takeCtl d g.val 0x4 with
    | none => d
    | some (_, d) =>
      let x := getLq d g.val
      if x.sleep = 1 then
        (if ownId e < peerId d g.val then d else sendCtl (setSleep d g.val 2) g.val 0x5 0 0)
      else if sleepOk d g.val then sendCtl (setSleep d g.val 2) g.val 0x5 0 0
      else sendCtl d g.val 0x7 0 0)

/-- SLP_ACCEPT (R435, Table 12.13): the proposer commits, and its end is DORMANT; with traffic it cancels. -/
def execSlpAccept (g : Fin 128) (s : State) : Host.Outcome State Fault Refusal :=
  s.run (fun _ d => match takeCtl d g.val 0x5 with
    | none => d
    | some (_, d) =>
      if (getLq d g.val).sleep ≠ 1 then d
      else if noTraffic d g.val && (getLq d g.val).slips.isEmpty && lqActive d g.val then
        let d := sendNew (sendCtl (setSleep d g.val 0) g.val 0x6 0 0) g.val 3 0 []
        setPhase d g.val 5 |> fun d => setLqState d g.val 8
      else sendCtl (setSleep d g.val 0) g.val 0x7 0 0)

/-- Wake a DORMANT link: SLP_WAKE is sent and the end is ACTIVE (R435). -/
def wakeLink (d : Dev) (g : Nat) : Dev :=
  if lqState d g = 8 then sendCtl (setPhase d g 5) g 0x8 0 0 else d

/-- SLP_COMMIT (R435, Table 12.13): the peer's end is DORMANT; with traffic, or a cancel that crossed it, it wakes at once. -/
def execSlpCommit (g : Fin 128) (s : State) : Host.Outcome State Fault Refusal :=
  s.run (fun _ d => match takeCtl d g.val 0x6 with
    | none => d
    | some (_, d) =>
      if (getLq d g.val).sleep < 2 ∨ lqActive d g.val = false then d
      else
        let busy := !(noTraffic d g.val) || (getLq d g.val).sleep == 3
        let d := setLqState (setSleep d g.val 0) g.val 8
        if busy then wakeLink d g.val else d)

/-- SLP_CANCEL (R436): the agreement ends. -/
def execSlpCancel (g : Fin 128) (s : State) : Host.Outcome State Fault Refusal :=
  s.run (fun _ d => match takeCtl d g.val 0x7 with | none => d | some (_, d) => setSleep d g.val 0)

/-- SLP_WAKE (R435): the link is ACTIVE again. -/
def execSlpWake (g : Fin 128) (s : State) : Host.Outcome State Fault Refusal :=
  s.run (fun _ d => match takeCtl d g.val 0x8 with
    | none => d
    | some (_, d) => if lqState d g.val = 8 then setPhase d g.val 5 else d)

/-- SLEEP_PROPOSAL_LAPSE (R435): no answer within 2 µs. -/
def execSleepProposalLapse (g : Fin 128) (s : State) : Host.Outcome State Fault Refusal :=
  s.run (fun _ d => if (getLq d g.val).sleep = 1 then setSleep d g.val 0 else d)

/-- DORMANT_TRAFFIC (R437, Table 12.13): traffic waits for a DORMANT fibre, which wakes; an end that has accepted sleep and has not
had SLP_COMMIT yet sends SLP_CANCEL. -/
def execDormantTraffic (g : Fin 128) (s : State) : Host.Outcome State Fault Refusal :=
  s.run (fun _ d =>
    if noTraffic d g.val then d
    else if lqActive d g.val && (getLq d g.val).sleep == 2 then sendCtl (setSleep d g.val 3) g.val 0x7 0 0
    else wakeLink d g.val)

end Sys2Proof.Machine
end

