-- ==== Sys2Proof/Machine/Optics.lean ====
section
/-!
DEFINITION. Lasers, monitors and heaters of a light engine (R292-R315): sparing, bias and ageing, margin reports, location of a
loss, crosstalk compensation, and the fence of a fibre.
-/
namespace Sys2Proof.Machine

/-! ### Hidden state -/

/-- Hidden state of a light engine. -/
def le (d : Dev) (k : Nat) : Le := Sparse.get {} d.le k

/-- Change it. -/
def setLe (d : Dev) (k : Nat) (x : Le) : Dev := { d with le := Sparse.set {} d.le k x }

/-- Hidden state of a ring. -/
def ring (d : Dev) (k h : Nat) : Ring := Sparse.get {} (le d k).rings h

/-- Change it. -/
def setRing (d : Dev) (k h : Nat) (r : Ring) : Dev :=
  let x := le d k
  setLe d k { x with rings := Sparse.set {} x.rings h r }

/-- Hidden state of a fibre, by global number. -/
def leFib (d : Dev) (g : Nat) : LeFib := Sparse.get {} (le d (g / 8)).fibs (g % 8)

/-- Change it. -/
def setLeFib (d : Dev) (g : Nat) (f : LeFib) : Dev :=
  let x := le d (g / 8)
  setLe d (g / 8) { x with fibs := Sparse.set {} x.fibs (g % 8) f }

/-- The state of a light engine (Table 9.13): 0 OFF, 1 STARTING, 2 ACTIVE, 3 INTERLOCK, 4 DARK. -/
def leState (d : Dev) (k : Nat) : Nat := fget d Reg.LE_STAT [k] Fld.LE_STAT_state

/-- Set it. -/
def setLeState (d : Dev) (k v : Nat) : Dev := fset d Reg.LE_STAT [k] Fld.LE_STAT_state v

/-- A setting that LE_CTL.lock fixes may still be written. -/
def leLocked (d : Dev) (k : Nat) : Bool := fbit d Reg.LE_CTL [k] Fld.LE_CTL_lock

/-- The state of a fibre (Table 9.17): 0 IN_SERVICE, 1 FENCED, 2 STARTING; LE_STAT.fibres_in follows it. -/
def setFibre (d : Dev) (g st : Nat) : Dev :=
  let k := g / 8
  let bitf := 2 ^ (g % 8)
  let cur := fget d Reg.LE_STAT [k] Fld.LE_STAT_fibres_in
  let new := if st = 0 then cur ||| bitf else cur &&& (255 ^^^ bitf)
  fset (fset d Reg.LE_FIBRE (lqIx g) Fld.LE_FIBRE_state st) Reg.LE_STAT [k] Fld.LE_STAT_fibres_in new

/-- A fibre is fenced as class C1 (R37, R38, R39). -/
def fenceFibre (d : Dev) (g : Nat) : Dev :=
  if fget d Reg.LE_FIBRE (lqIx g) Fld.LE_FIBRE_state = 1 then d
  else report (setFibre d g 1) { source := 0x28, unit := unitLe (g / 8), sub := g % 8 }

/-! ### Lasers -/

/-- The state of a laser (Table 9.4). -/
def laserState (d : Dev) (k b n : Nat) : Nat := fget d Reg.LE_LASER [k, b, n] Fld.LE_LASER_state

/-- Set it; a laser that goes dark is told to its driver. -/
def setLaser (d : Dev) (k b n st : Nat) : Dev :=
  let d := fset d Reg.LE_LASER [k, b, n] Fld.LE_LASER_state st
  if st = 0 ∨ st = 2 ∨ st = 5 ∨ st = 7 then emit d (.optic k 0 (23 * b + n) 0) else d

/-- The spare laser of a slot (R297, Table 9.3). -/
def spareFor (slot : Nat) : Nat := 18 + (if slot < 16 then slot / 4 else 4)

/-- A slot of a bank stays dark: R38 applies to the bank's four fibres. -/
def darkSlot (d : Dev) (k b slot : Nat) : Dev :=
  let x := le d k
  let id := 18 * b + slot
  let d := if x.dark.contains id then d else setLe d k { x with dark := x.dark ++ [id] }
  (List.range 4).foldl (fun d i => fenceFibre d (8 * k + 4 * b + i)) d

/-- A laser failed (R296): it is recorded with Hawthorn. -/
def laserBad (d : Dev) (k b n st : Nat) : Dev :=
  report (setLaser d k b n st) { source := 0x18, unit := unitLe k, sub := 23 * b + n }

/-- LASER_MONITOR (R296, R304): the LM reading is published; two successive readings more than 6 dB below what the bias should
give, a bias sense outside 10 %, or a frequency not held for 200 µs fail a laser in service. -/
def execLaserMonitor (k : Fin 16) (b : Fin 2) (n : Fin 23) (lm expected : BitVec 16) (biasBad : Bool) (s : State) :
    Host.Outcome State Fault Refusal :=
  s.run (fun _ d =>
    let st := laserState d k.val b.val n.val
    let i := 23 * b.val + n.val
    let ix := [k.val, b.val, n.val]
    let d := fset d Reg.LE_MON_LM ix Fld.LE_MON_LM_power lm.toNat
    let d := fset d Reg.LE_MON_LM ix Fld.LE_MON_LM_valid 1
    let x := le d k.val
    let low := decide (lm.toInt + 6 * 256 < expected.toInt)
    let cnt := if low then Sparse.get 0 x.low i + 1 else 0
    let d := setLe d k.val { x with low := Sparse.set 0 x.low i cnt, expected := Sparse.set 0 x.expected i expected.toNat }
    if st = 1 ∨ st = 3 ∨ st = 4 then
      if 2 ≤ cnt ∨ biasBad ∨ 20 ≤ Sparse.get 0 x.off i then laserBad d k.val b.val n.val 5 else d
    else d)

/-- LASER_FAIL (R297): a FAILED laser is turned off at once; the slot's spare, if idle, is brought onto it; otherwise the slot stays
dark, but a WORN laser without a spare stays lit at the ceiling (R300). A failed spare leaves its slot dark. -/
def execLaserFail (k : Fin 16) (b : Fin 2) (n : Fin 23) (s : State) : Host.Outcome State Fault Refusal :=
  s.run (fun _ d =>
    let st := laserState d k.val b.val n.val
    if st ≠ 5 ∧ st ≠ 6 then d
    else
      let d := if st = 5 then emit d (.optic k.val 0 (23 * b.val + n.val) 0) else d
      if 18 ≤ n.val then
        let slot := fget d Reg.LE_LASER [k.val, b.val, n.val] Fld.LE_LASER_slot
        if (laserState d k.val b.val slot = 5 ∨ laserState d k.val b.val slot = 6 ∨ laserState d k.val b.val slot = 7) ∧ spareFor slot = n.val
        then darkSlot d k.val b.val slot else d
      else
        let sp := spareFor n.val
        let sst := laserState d k.val b.val sp
        let here := fget d Reg.LE_LASER [k.val, b.val, sp] Fld.LE_LASER_slot = n.val
        if sst = 2 then
          let d := setLaser d k.val b.val sp 3
          fset d Reg.LE_LASER [k.val, b.val, sp] Fld.LE_LASER_slot n.val
        else if (sst = 3 ∨ sst = 4) ∧ here then d
        else if st = 6 then report d { source := 0x06, unit := unitLe k.val }
        else darkSlot d k.val b.val n.val)

/-- SPARE_LASER_ON_FREQUENCY (R297): the tuning spare covers its slot; a worn laser goes dark first, so that the two never share the
bus. -/
def execSpareLaserOnFrequency (k : Fin 16) (b : Fin 2) (n : Fin 23) (s : State) : Host.Outcome State Fault Refusal :=
  s.run (fun _ d =>
    if laserState d k.val b.val n.val = 3 ∧ 18 ≤ n.val then
      let slot := fget d Reg.LE_LASER [k.val, b.val, n.val] Fld.LE_LASER_slot
      let d := if laserState d k.val b.val slot = 6 then emit d (.optic k.val 0 (23 * b.val + slot) 0) else d
      emit (setLaser d k.val b.val n.val 4) (.optic k.val 1 (23 * b.val + n.val) slot)
    else d)

/-! ### Bias and ageing -/

/-- The bias code of a laser for a band (R299). -/
def biasOf (d : Dev) (k b n band : Nat) : Nat :=
  min (Config.biasBase k (23 * b + n) band + fget d Reg.LE_LASER [k, b, n] Fld.LE_LASER_age)
    (fget d Reg.LE_AGE_CFG [k] Fld.LE_AGE_CFG_ceiling)

/-- The codes that a move in steps of at most 8 takes, after the first (R299). -/
def biasSteps : Nat → Nat → Nat → List Nat
  | 0, _, _ => []
  | n + 1, a, z =>
    if a = z then [] else
    let a2 := if a < z then min (a + 8) z else max (a - 8) z
    a2 :: biasSteps n a2 z

/-- Move a laser's bias to a code. -/
def moveBias (d : Dev) (k b n code : Nat) : Dev :=
  let old := fget d Reg.LE_LASER [k, b, n] Fld.LE_LASER_bias
  let d := (biasSteps 512 old code).foldl (fun d c => emit d (.optic k 3 (23 * b + n) c)) d
  fset d Reg.LE_LASER [k, b, n] Fld.LE_LASER_bias code

/-- A laser emits. -/
def laserLit (st : Nat) : Bool := st == 1 || st == 3 || st == 4 || st == 6

/-- Every laser of a light engine, as bank and number. -/
def allLasers : List (Nat × Nat) := (List.range 46).map (fun i => (i / 23, i % 23))

/-- BIAS_BAND_CHANGE (R299): every lit laser moves to the bias of the new band. -/
def execBiasBandChange (k : Fin 16) (s : State) : Host.Outcome State Fault Refusal :=
  s.run (fun _ d =>
    let band := Sparse.get 0 d.pow.bands (66 + k.val)
    let d := setLe d k.val { le d k.val with band := band }
    allLasers.foldl (fun d x =>
      if laserLit (laserState d k.val x.1 x.2) then moveBias d k.val x.1 x.2 (biasOf d k.val x.1 x.2 band) else d) d)

/-- The lowest margin reported for a channel over the bank's fibres in service whose two ends are LOCAL (R300). -/
def marginMin (d : Dev) (k b chan farLocal : Nat) : Option Int :=
  ((List.range 4).map (fun i => 4 * b + i)).foldl (fun m f =>
    let g := 8 * k + f
    let v := (leFib d g).margins.getD chan 0x80
    let ok := fget d Reg.LE_FIBRE (lqIx g) Fld.LE_FIBRE_state == 0 && !(fbit d Reg.LE_FIBRE (lqIx g) Fld.LE_FIBRE_tx_gap)
      && tbit farLocal f && v != 0x80
    if ok then some (match m with | some x => min x (signed 8 v) | none => signed 8 v) else m) none

/-- One laser's ageing decision (R300). -/
def ageLaser (d : Dev) (k b n farLocal : Nat) : Dev :=
  let st := laserState d k b n
  if st ≠ 1 ∧ st ≠ 4 then d
  else
    let chan := if n < 18 then n else fget d Reg.LE_LASER [k, b, n] Fld.LE_LASER_slot
    match marginMin d k b chan farLocal with
    | none => d
    | some m =>
      let target : Int := ((fget d Reg.LE_AGE_CFG [k] Fld.LE_AGE_CFG_target : Nat) : Int)
      let step := fget d Reg.LE_AGE_CFG [k] Fld.LE_AGE_CFG_step
      let age := fget d Reg.LE_LASER [k, b, n] Fld.LE_LASER_age
      let base := Config.biasBase k (23 * b + n) (le d k).band
      if m < target then
        if base + age + step ≤ fget d Reg.LE_AGE_CFG [k] Fld.LE_AGE_CFG_ceiling then
          let d := fset d Reg.LE_LASER [k, b, n] Fld.LE_LASER_age (min (age + step) 4095)
          moveBias d k b n (biasOf d k b n (le d k).band)
        else if m < target - 16 then laserBad d k b n 6
        else d
      else d

/-- AGEING_DECISION (R300): every LE_AGE_CFG.period_min minutes while LE_CTL.age_en is 1; `farLocal` tells the fibres whose far
end is LOCAL. -/
def execAgeingDecision (k : Fin 16) (farLocal : BitVec 8) (s : State) : Host.Outcome State Fault Refusal :=
  s.run (fun _ d =>
    if fbit d Reg.LE_CTL [k.val] Fld.LE_CTL_age_en then
      allLasers.foldl (fun d x => ageLaser d k.val x.1 x.2 farLocal.toNat) d
    else d)

/-- MARGIN_RPT (R300, Table 11.11): the far end's report updates the margins of the fibre's channels and its CM reading. -/
def execMarginRpt (g : Fin 128) (s : State) : Host.Outcome State Fault Refusal :=
  s.run (fun _ d => match takeMsg d g.val 0x05 with
    | none => d
    | some (b, d) =>
      let f := leFib d g.val
      let old := (List.range 18).map (fun i => f.margins.getD i 0x80)
      let new := (List.range 18).map (fun i => let v := (b.getD i 0x80).toNat; if v = 0x80 then old.getD i 0x80 else v)
      let seen := new.filter (· != 0x80)
      let low := seen.foldl (fun (m : Option Int) v => some (match m with | some x => min x (signed 8 v) | none => signed 8 v)) none
      let d := setLeFib d g.val { f with margins := new, farCm := some (leNat (slice b 24 2)) }
      match low with
      | some m => fset d Reg.LE_FIBRE (lqIx g.val) Fld.LE_FIBRE_margin_min (unsigned 8 m)
      | none => d)

/-- LASER_TRIM_UPDATE (R293, R326): the trim loop moves the laser's trim heater, by a law that the spec does not give (the new
setting is free); updates of 10 µs that find the laser beyond ±20 GHz are counted for R296. -/
def execLaserTrimUpdate (k : Fin 16) (b : Fin 2) (n : Fin 23) (offGhz : BitVec 16) (s : State) :
    Host.Outcome State Fault Refusal :=
  s.run (fun _ d =>
    let i := 23 * b.val + n.val
    if laserLit (laserState d k.val b.val n.val) && leState d k.val == 2 then
      let x := le d k.val
      let far := decide (20 < offGhz.toInt.natAbs)
      let d := setLe d k.val { x with off := Sparse.set 0 x.off i (if far then min (Sparse.get 0 x.off i + 1) 20 else 0) }
      let v := takeFree d 16
      emit v.2 (.optic k.val 2 i v.1)
    else d)

/-! ### Monitors -/

/-- Publish a reading of a fibre's monitor, unless it is held stale (R332). -/
def publish (d : Dev) (r : RegDesc) (ix : List Nat) (v : Nat) (hold : Bool) : Dev :=
  if hold then fset d r ix Fld.LE_MON_LM_stale 1
  else
    let d := fset d r ix Fld.LE_MON_LM_power v
    let d := fset d r ix Fld.LE_MON_LM_valid 1
    fset d r ix Fld.LE_MON_LM_stale 0

/-- A transmit ring of a fibre moves under calibration, retune or transit (R332). -/
def txMoving (d : Dev) (g : Nat) : Bool := (leFib d g).txOp.isSome || (leFib d g).txTransit.isSome

/-- MONITOR_SCAN (R304, R327): the scan chains publish SM, MM and CM of the eight fibres. -/
def execMonitorScan (k : Fin 16) (sm mm cm : List (BitVec 16)) (s : State) : Host.Outcome State Fault Refusal :=
  s.run (fun _ d => (List.range 8).foldl (fun d f =>
    let hold := txMoving d (8 * k.val + f)
    let d := publish d Reg.LE_MON_SM [k.val, f] (sm.getD f 0x8000).toNat false
    let d := publish d Reg.LE_MON_MM [k.val, f] (mm.getD f 0x8000).toNat hold
    publish d Reg.LE_MON_CM [k.val, f] (cm.getD f 0x8000).toNat hold) d)

/-- A reading, in 1/256 dBm. -/
def power (d : Dev) (r : RegDesc) (ix : List Nat) : Int := signed 16 (fget d r ix Fld.LE_MON_LM_power)

/-- The channel that a ring serves; none when parked. -/
def ringChan (d : Dev) (k h : Nat) : Option Nat :=
  let c := fget d Reg.LE_RING_CTL [k, h] Fld.LE_RING_CTL_channel
  if c < 18 then some c else none

/-- The ring of a fibre's row (0 transmit, 1 receive) that serves a channel. -/
def ringFor (d : Dev) (g row chan : Nat) : Option Nat :=
  (lowest 20 (fun r => ringChan d (g / 8) (40 * (g % 8) + 20 * row + r) == some chan)).map (fun r => 40 * (g % 8) + 20 * row + r)

/-- The DM readings of a fibre's rings in service. -/
def dmReadings (d : Dev) (g : Nat) : List Int :=
  ((List.range 20).filter (fun r => (ringChan d (g / 8) (40 * (g % 8) + 20 + r)).isSome)).map
    (fun r => power d Reg.LE_MON_DM [g / 8, g % 8, r])

/-- Losses of the channels over the span, in 1/1280 dB: the far CM per channel (CM less 12.55 dB) to the local DM, less the far
transmit coupler (1.5 dB) and the local receive path (3.3 dB). -/
def spanLosses (d : Dev) (g : Nat) (cm : Int) : List Int :=
  (dmReadings d g).map (fun dm => 5 * cm - 16064 - 5 * dm - 1920 - 4224)

/-- The first segment whose measured loss exceeds its nominal loss by more than 1.5 dB (R306, Table 9.7); 0 none. -/
def lossSeg (d : Dev) (g : Nat) : Nat :=
  let k := g / 8
  let f := g % 8
  let b := f / 4
  let lit := (List.range 23).filter (fun n => let st := laserState d k b n; st == 1 || st == 4)
  let lmLow := lit.any (fun n =>
    decide (power d Reg.LE_MON_LM [k, b, n] + 384 < signed 16 (Sparse.get 0 (le d k).expected (23 * b + n))))
  let sum := Config.powerSum (lit.map (fun n => power d Reg.LE_MON_LM [k, b, n]))
  let smBad (f : Nat) : Bool := decide (2560 < sum - power d Reg.LE_MON_SM [k, f])
  let sm := power d Reg.LE_MON_SM [k, f]
  let mm := power d Reg.LE_MON_MM [k, f]
  let cm := power d Reg.LE_MON_CM [k, f]
  if lmLow then 1
  else if (List.range 4).all (fun i => smBad (4 * b + i)) then 2
  else if smBad f then 3
  else if 1408 < sm - mm then 4
  else if 2304 < 5 * (mm - cm) then 5
  else match (leFib d g).farCm with
    | none => 0
    | some c =>
      let ls := spanLosses d g (signed 16 c)
      if ls ≠ [] ∧ ls.all (fun x => decide (5504 < x)) then 6
      else if ls.any (fun x => decide (5504 < x)) then 7
      else 0

/-- The span loss of segment 6 in 1/16 dB, from the channel with the least loss (log entry 43). -/
def spanLoss (d : Dev) (g : Nat) : Option Nat :=
  match (leFib d g).farCm with
  | none => none
  | some c => (spanLosses d g (signed 16 c)).foldl (fun (m : Option Int) x => some (match m with | some y => min x y | none => x)) none
      |>.map (fun x => (clampInt 0 255 (x / 80)).toNat)

/-- LOSS_LOCATE (R306): each fibre's first lossy segment is shown; a located loss is recorded. -/
def execLossLocate (k : Fin 16) (s : State) : Host.Outcome State Fault Refusal :=
  s.run (fun _ d => (List.range 8).foldl (fun d f =>
    let g := 8 * k.val + f
    let seg := lossSeg d g
    let old := fget d Reg.LE_FIBRE (lqIx g) Fld.LE_FIBRE_loss_seg
    let d := match spanLoss d g with
      | some v => fset d Reg.LE_FIBRE (lqIx g) Fld.LE_FIBRE_span_loss v
      | none => d
    let d := fset d Reg.LE_FIBRE (lqIx g) Fld.LE_FIBRE_loss_seg seg
    if seg ≠ 0 ∧ seg ≠ old then
      report d { source := 0x18, unit := unitLe k.val, sub := 400 + f, stat := Reg.LE_FIBRE.slot (lqIx g) }
    else d) d)

/-! ### Heaters -/

/-- The target of a heater. -/
def heaterTarget (d : Dev) (k h : Nat) : Nat := fget d Reg.LE_RING_CTL [k, h] Fld.LE_RING_CTL_heater_code

/-- The heater that an entry of row h names, if it is valid (R308). -/
def xtNamed (h : Nat) (w : Word) : Int := (h : Int) + signed 7 (Fld.LE_XT_off.get w)

/-- The drive of a heater and whether it is clamped (R307). -/
def heaterDrive (d : Dev) (k h : Nat) : Nat × Bool :=
  let t := heaterTarget d k h
  if !(fbit d Reg.LE_CTL [k] Fld.LE_CTL_xt_en) then (t, false)
  else
    let acc := (List.range 8).foldl (fun (a : Int) e =>
      let w := rdReg d Reg.LE_XT_ACT [k, h, e]
      if Fld.LE_XT_valid.get w = 1 then
        a - signed 16 (Fld.LE_XT_coeff.get w) * ((heaterTarget d k (xtNamed h w).toNat : Nat) : Int)
      else a) ((t : Int) * 32768)
    let u := (acc + 16384) / 32768
    let c := clampInt 0 65535 u
    (c.toNat, decide (c ≠ u))

/-- Drive a heater anew. -/
def redrive (d : Dev) (k h : Nat) : Dev :=
  let u := heaterDrive d k h
  let d := fset d Reg.LE_RING_STAT [k, h] Fld.LE_RING_STAT_drive u.1
  fset d Reg.LE_RING_STAT [k, h] Fld.LE_RING_STAT_xt_clamp (bit u.2)

/-- The heaters whose active row names heater h (R309), within the band of 63. -/
def xtNamers (d : Dev) (k h : Nat) : List Nat :=
  ((List.range 127).map (fun i => h + i - 63)).filter (fun j =>
    decide (j ≠ h) && decide (j < 320) && (List.range 8).any (fun e =>
      let w := rdReg d Reg.LE_XT_ACT [k, j, e]
      Fld.LE_XT_valid.get w == 1 && xtNamed j w == (h : Int)))

/-- A change of a target recomputes its drive and that of every heater whose row names it (R309). -/
def setTarget (d : Dev) (k h code : Nat) : Dev :=
  let d := fset d Reg.LE_RING_CTL [k, h] Fld.LE_RING_CTL_heater_code code
  (h :: xtNamers d k h).foldl (fun d j => redrive d k j) d

/-- HEATER_TARGET_CHANGE (R309). -/
def execHeaterTargetChange (k : Fin 16) (h : Fin 320) (code : BitVec 16) (s : State) : Host.Outcome State Fault Refusal :=
  s.run (fun _ d => setTarget d k.val h.val code.toNat)

/-- The entries of a light engine's shadow matrix that are not zero, as (row, entry, word). -/
def xtShadow (d : Dev) (k : Nat) : List (Nat × Nat × Word) :=
  ((List.range 2560).map (fun i => (i / 8, i % 8, rdReg d Reg.LE_XT [k, i / 8, i % 8]))).filter (fun x => x.2.2 != 0)

/-- The first invalid entry of the shadow matrix (R308): an offset of 0, a name outside 0 to 319, or one that another valid entry of
its row names too. -/
def xtBad (es : List (Nat × Nat × Word)) : Option (Nat × Nat) :=
  let valid := es.filter (fun x => Fld.LE_XT_valid.get x.2.2 == 1)
  (valid.find? (fun x =>
    let n := xtNamed x.1 x.2.2
    Fld.LE_XT_off.get x.2.2 == 0 || decide (n < 0) || decide (319 < n) ||
      valid.any (fun y => y.1 == x.1 && decide (y.2.1 ≠ x.2.1) && Fld.LE_XT_off.get y.2.2 == Fld.LE_XT_off.get x.2.2))).map
    (fun x => (x.1, x.2.1))

/-- Apply the shadow matrix, or refuse it (R308, R309): the drives are recomputed from the current targets at one DAC update. -/
def xtCommit (d : Dev) (k : Nat) : Dev :=
  match xtBad (xtShadow d k) with
  | some (h, e) =>
    let d := fset d Reg.LE_XT_COMMIT [k] Fld.LE_XT_COMMIT_err 1
    let d := fset d Reg.LE_XT_COMMIT [k] Fld.LE_XT_COMMIT_err_heater h
    fset d Reg.LE_XT_COMMIT [k] Fld.LE_XT_COMMIT_err_entry e
  | none =>
    let d := (List.range 2560).foldl (fun d i =>
      wrReg d Reg.LE_XT_ACT [k, i / 8, i % 8] (rdReg d Reg.LE_XT [k, i / 8, i % 8])) d
    let d := (List.range 320).foldl (fun d h => redrive d k h) d
    fincWrap d Reg.LE_XT_COMMIT [k] Fld.LE_XT_COMMIT_generation 1

/-- A path may write a light engine's registers: the side-band, the console, JTAG and MFW, and the port of the partition that owns
its trunk (R452). -/
def leWritable (d : Dev) (p : Path) (k : Nat) : Bool := pathOwns d p (partOfTrunk d (k / 2))

/-- LE_XT_COMMIT (R308): a write of LE_XT_COMMIT.commit. -/
def execLeXtCommit (p : Path) (k : Fin 16) (s : State) : Host.Outcome State Fault Refusal :=
  s.run (fun _ d => if portHalted d p then d else if leWritable d p k.val then xtCommit d k.val
    else regEvent d p (Reg.LE_XT_COMMIT.key [k.val]))

end Sys2Proof.Machine
end

