-- ==== Sys2Proof/Machine/Calib.lean ====
section
/-!
DEFINITION. Optical calibration and lock (R326-R353): the start of a light engine, assignment of rings, the loops, loss of lock,
calibration between the two ends of a fibre, retunes, spare rings by transit, runs, and the measurement chain.
-/
namespace Sys2Proof.Machine

/-! ### Rings -/

/-- The hold window of a target (R334). -/
def inHold (c : Int) : Bool := decide (1024 ≤ c) && decide (c ≤ 64511)

/-- The lowest code at or above the hold window's start that differs from a code by whole orders, of 20 spacings (4.0 THz). -/
def lowestOrder (spacing : Nat) (c : Int) : Int := 1024 + (c - 1024) % ((20 * max spacing 1 : Nat) : Int)

/-- The codes of a good ring's channels (R334): λk lies k spacings below λ0, in the lowest order within the hold window. -/
def fitCodes (f : RingFit) : List Nat :=
  (List.range 18).map (fun k => (lowestOrder f.spacing (f.lambda0 - (k * f.spacing : Nat))).toNat)

/-- The park code (R334): 18.5 spacings below λ0, in the order nearest to 32,768 within the hold window. -/
def fitPark (f : RingFit) : Nat :=
  let a := lowestOrder f.spacing (f.lambda0 - (37 * f.spacing / 2 : Nat))
  let b := a + (20 * f.spacing : Nat)
  if inHold b ∧ (b - 32768).natAbs < (a - 32768).natAbs then b.toNat else a.toNat

/-- A ring is good by its sweep (R334), unless fuses keep it out (R25). -/
def fitGood (out : Bool) (f : RingFit) : Bool :=
  !out && f.gap && decide (9 ≤ f.resolved) && decide (2300 ≤ f.spacing) && decide (f.spacing ≤ 3100)

/-- State, retunes and reason of a ring (Table 10.14). -/
def ringState (d : Dev) (k h : Nat) : Nat := fget d Reg.LE_CAL_RSTATE [k, h] Fld.LE_CAL_RSTATE_state

/-- Set the state of a ring. -/
def setRingState (d : Dev) (k h st : Nat) : Dev := fset d Reg.LE_CAL_RSTATE [k, h] Fld.LE_CAL_RSTATE_state st

/-- Mark the values of a ring held, or not (R332). -/
def setStale (d : Dev) (k h : Nat) (b : Bool) : Dev :=
  let d := fset d Reg.LE_CAL_RSTATE [k, h] Fld.LE_CAL_RSTATE_stale (bit b)
  if h / 20 % 2 = 1 ∧ b then fset d Reg.LE_MON_DM [k, h / 40, h % 20] Fld.LE_MON_LM_stale 1 else d

/-- The last locked target of a ring. -/
def holdCode (d : Dev) (k h : Nat) : Nat := fget d Reg.LE_CAL_RHOLD [k, h] Fld.LE_CAL_RHOLD_hold_code

/-- The values of a ring are no longer held: a receive ring's stale flags clear at its next published reading (R332). -/
def endStale (d : Dev) (k h : Nat) : Dev := if h / 20 % 2 = 1 then d else setStale d k h false

/-- A ring is locked at a target: its hold code follows. -/
def lockRing (d : Dev) (k h code : Nat) : Dev :=
  let d := setTarget d k h code
  let d := fset d Reg.LE_CAL_RHOLD [k, h] Fld.LE_CAL_RHOLD_hold_code code
  let d := endStale (setRingState d k h 2) k h
  setRing d k h { ring d k h with bad := 0, clamp := 0, ask := false, tries := 0 }

/-- A ring fails with a reason (1 SEARCH, 2 RETUNE): it keeps its target, and Hawthorn is told (R334, R348, R351). -/
def failRing (d : Dev) (k h reason : Nat) : Dev :=
  let d := fset (setRingState d k h 6) Reg.LE_CAL_RSTATE [k, h] Fld.LE_CAL_RSTATE_reason reason
  report (setRing d k h { ring d k h with good := false }) { source := 0x18, unit := unitLe k, sub := 64 + h }

/-- Enter a ring's search (R333, R334): its fit, its codes; it is set to its park code. -/
def searched (e : Env) (d : Dev) (k h : Nat) (f : RingFit) : Dev :=
  if fitGood (e.fuses.ringOut.contains (320 * k + h)) f then
    let d := setRing d k h { good := true, codes := fitCodes f, park := fitPark f }
    let d := fset d Reg.LE_CAL_RSTATE [k, h] Fld.LE_CAL_RSTATE_spacing f.spacing
    let d := fset (setRingState d k h 0) Reg.LE_CAL_RSTATE [k, h] Fld.LE_CAL_RSTATE_reason 0
    let d := fset d Reg.LE_RING_CTL [k, h] Fld.LE_RING_CTL_channel 31
    setTarget d k h (fitPark f)
  else failRing (fset (setRing d k h {}) Reg.LE_RING_CTL [k, h] Fld.LE_RING_CTL_channel 31) k h 1

/-- The ring that R335 gives a channel, out of the good ones not yet assigned (ascending ring numbers). -/
def pickRing (code : Nat → Nat) (cand : List Nat) : Option Nat :=
  let hi := cand.filter (fun h => decide (8192 ≤ code h))
  if hi ≠ [] then hi.foldl (fun b h => match b with | none => some h | some x => if code h < code x then some h else some x) none
  else cand.foldl (fun b h => match b with | none => some h | some x => if code x < code h then some h else some x) none

/-- Assign the channels of a row to its good rings (R335): (ring, channel) pairs. -/
def assignRow (code : Nat → Nat → Nat) : List Nat → List Nat → List (Nat × Nat)
  | [], _ => []
  | k :: ks, cand =>
    match pickRing (fun h => code h k) cand with
    | some h => (h, k) :: assignRow code ks (cand.filter (· != h))
    | none => assignRow code ks cand

/-- Bring a searched row onto its channels (R335); with fewer than 18 good rings the fibre is fenced (R37). -/
def assignRings (d : Dev) (g row : Nat) : Dev :=
  let k := g / 8
  let hs := (List.range 20).map (fun r => 40 * (g % 8) + 20 * row + r)
  let good := hs.filter (fun h => (ring d k h).good)
  let pairs := assignRow (fun h c => (ring d k h).codes.getD c 0) (List.range 18) good
  let d := pairs.foldl (fun d p =>
    let d := fset d Reg.LE_RING_CTL [k, p.1] Fld.LE_RING_CTL_channel p.2
    lockRing d k p.1 ((ring d k p.1).codes.getD p.2 0)) d
  if good.length < 18 then fenceFibre d g else d

/-! ### Lanes -/

/-- The channel of a lane by a map. -/
def mapChan (m lane : Nat) : Nat := bits m (5 * lane + 4) (5 * lane)

/-- The channel of a logical lane of a row of a pair (R352): the transmit row rides the map that its receiver has announced. -/
def laneChan (d : Dev) (g row lane : Nat) : Nat :=
  mapChan (if row = 0 then (getLq d g).txMap.getD (laneMap d g) else laneMap d g) lane

/-- The lane that rides a channel of a row. -/
def laneFor (d : Dev) (g row chan : Nat) : Nat := (lowest 18 (fun l => laneChan d g row l == chan)).getD 0

/-- A lane map that is no permutation is replaced by the identity, with the reason set (R352). -/
def checkLaneMap (d : Dev) (g : Nat) : Dev :=
  if (List.range 18).all (fun c => (List.range 18).any (fun l => laneChan d g 1 l == c)) then d
  else
    let d := wrReg d Reg.LE_CAL_LANEMAP0 (lqIx g) (low32 0xA418820)
    let d := wrReg d Reg.LE_CAL_LANEMAP1 (lqIx g) (low32 0x16A4A0E6)
    let d := wrReg d Reg.LE_CAL_LANEMAP2 (lqIx g) (low32 0x2307B9AC)
    let d := fset d Reg.LE_CAL_STAT [g / 8] Fld.LE_CAL_STAT_refused 1
    fset d Reg.LE_CAL_STAT [g / 8] Fld.LE_CAL_STAT_reason 4

/-- Show what a fibre's master does (Table 10.12). -/
def showCal (d : Dev) (g lane step : Nat) : Dev :=
  let d := traceEv d (36 + g / 8) 0x22 (g % 8) 0 (lane + 32 * step)
  fset (fset d Reg.LE_CAL_FIBRE (lqIx g) Fld.LE_CAL_FIBRE_cal_lane lane) Reg.LE_CAL_FIBRE (lqIx g) Fld.LE_CAL_FIBRE_step step

/-! ### Start -/

/-- The grid lasers and spares at a start (R298, Table 10.4 step 2): fused lasers stay out, WORN stay WORN, the others are tested;
a grid laser that fails is spared at once, or its slot is dark. -/
def startLasers (e : Env) (d : Dev) (k lit : Nat) : Dev :=
  let d := setLe d k { le d k with dark := [], low := [], off := [] }
  let d := allLasers.foldl (fun d x =>
    let i := 23 * x.1 + x.2
    let st := laserState d k x.1 x.2
    let ok := tbit lit i
    let fused := e.fuses.laserOut.contains (64 * k + i)
    let st2 := if fused then 7 else if st = 6 then 6 else if !ok then 5 else if x.2 < 18 then 1 else 2
    let d := if st2 = 5 ∧ st ≠ 5 then laserBad d k x.1 x.2 5 else setLaser d k x.1 x.2 st2
    let d := fset d Reg.LE_LASER [k, x.1, x.2] Fld.LE_LASER_slot (if x.2 < 18 then x.2 else 0)
    if st2 = 1 then moveBias d k x.1 x.2 (biasOf d k x.1 x.2 (le d k).band) else d) d
  (List.range 36).foldl (fun d i =>
    let b := i / 18
    let n := i % 18
    if laserState d k b n = 1 then d
    else
      let sp := spareFor n
      if laserState d k b sp = 2 then
        let d := fset (setLaser d k b sp 4) Reg.LE_LASER [k, b, sp] Fld.LE_LASER_slot n
        moveBias d k b sp (biasOf d k b sp (le d k).band)
      else darkSlot d k b n) d

/-- LIGHT_ENGINE_START (R337, Table 10.4 steps 1 to 5): a write of LE_CTL.enable = 1. `lit` tells the lasers that light and lock,
`fits` the sweeps of the transmit rings, 20 to a fibre. With the connector absent the interlock holds the lasers off (R314). -/
def execLightEngineStart (k : Fin 16) (lit : BitVec 46) (fits : List RingFit) (s : State) :
    Host.Outcome State Fault Refusal :=
  s.run (fun e d =>
    let k := k.val
    let on := fbit d Reg.LE_CTL [k] Fld.LE_CTL_enable
    if (leLocked d k && !on) || decide (2 ≤ leState d k) then d
    else
      let d := fset d Reg.LE_CTL [k] Fld.LE_CTL_enable 1
      if !(fbit d Reg.LE_STAT [k] Fld.LE_STAT_conn) then setLeState d k 3
      else
        let d := (List.range 8).foldl (fun d f =>
          let g := 8 * k + f
          let d := if fget d Reg.LE_FIBRE (lqIx g) Fld.LE_FIBRE_state = 1 then d else setFibre d g 2
          showCal (checkLaneMap d g) g 31 5) d
        let d := startLasers e d k lit.toNat
        let none_ : RingFit := { gap := false, resolved := 0, spacing := 0, lambda0 := 0 }
        let d := (List.range 160).foldl (fun d i => searched e d k (40 * (i / 20) + i % 20) (fits.getD i none_)) d
        let d := (List.range 8).foldl (fun d f => assignRings d (8 * k + f) 0) d
        setLeState d k 2)

/-- FAR_LIGHT_SEEN (R336, Table 10.4 steps 6 to 9): the receive rings of a fibre are searched and assigned; the lanes whose rings
pass the lock test are handed to link training, the others are erased and to be retuned. -/
def execFarLightSeen (g : Fin 128) (fits : List RingFit) (amps : List (BitVec 16)) (locked : BitVec 20) (s : State) :
    Host.Outcome State Fault Refusal :=
  s.run (fun e d =>
    let g := g.val
    let k := g / 8
    if leState d k ≠ 2 ∨ fget d Reg.LE_FIBRE (lqIx g) Fld.LE_FIBRE_state ≠ 2 ∨ fbit d Reg.LE_FIBRE (lqIx g) Fld.LE_FIBRE_rx_gap then d
    else
      let base := 40 * (g % 8) + 20
      let none_ : RingFit := { gap := false, resolved := 0, spacing := 0, lambda0 := 0 }
      let d := (List.range 20).foldl (fun d r => searched e d k (base + r) (fits.getD r none_)) d
      let d := assignRings d g 1
      let d := showCal d g 31 0
      if fget d Reg.LE_FIBRE (lqIx g) Fld.LE_FIBRE_state = 1 then d
      else
        let d := setFibre d g 0
        (List.range 20).foldl (fun d r =>
          match ringChan d k (base + r) with
          | none => d
          | some c =>
            let d := setRing d k (base + r) { ring d k (base + r) with aRef := (amps.getD r 0).toNat }
            if tbit locked.toNat r then readmitLane d g (laneFor d g 1 c)
            else eraseLane (setStale (setRingState d k (base + r) 3) k (base + r) true) g (laneFor d g 1 c)) d)

/-! ### Loops -/

/-- A fibre's rings of a row are held: PRBS tests apart, the loops of a GAPPED side keep their targets (R323). -/
def loopRuns (d : Dev) (k h : Nat) : Bool := leState d k == 2 && ringState d k h == 2 && (ringChan d k h).isSome

/-- Move a target by a loop's step; a target outside the hold window is asked for and not taken (R341). -/
def loopMove (d : Dev) (k h : Nat) (by_ : Int) : Dev :=
  let t := ((heaterTarget d k h : Nat) : Int) + by_
  if by_ = 0 then d
  else if inHold t then setTarget d k h t.toNat
  else setRing d k h { ring d k h with ask := true }

/-- One update's lock test (R340): successive failures and clamps are counted; a passed test records the hold code. -/
def loopTest (d : Dev) (k h : Nat) (locked lost : Bool) : Dev :=
  let r := ring d k h
  let cl := fbit d Reg.LE_RING_STAT [k, h] Fld.LE_RING_STAT_xt_clamp
  let d := setRing d k h { r with bad := if lost then r.bad + 1 else 0, clamp := if cl then r.clamp + 1 else 0 }
  if locked && !(fbit d Reg.LE_CAL_RSTATE [k, h] Fld.LE_CAL_RSTATE_stale) then
    fset d Reg.LE_CAL_RHOLD [k, h] Fld.LE_CAL_RHOLD_hold_code (heaterTarget d k h)
  else d

/-- MOD_BIAS_UPDATE (R338, R340): ρ in 1/65,536; the target moves by 8 × (1 − ρ) codes, rounded toward zero. -/
def execModBiasUpdate (k : Fin 16) (h : Fin 320) (rho : BitVec 32) (s : State) : Host.Outcome State Fault Refusal :=
  s.run (fun _ d =>
    let k := k.val
    let h := h.val
    if !(loopRuns d k h) || h / 20 % 2 != 0 then d
    else
      let r := rho.toInt
      let d := loopMove d k h ((8 * (65536 - r)).tdiv 65536)
      loopTest d k h (decide (4 * 65536 ≤ 5 * r) && decide (5 * r ≤ 6 * 65536))
        (decide (2 * r < 65536) || decide (3 * 65536 < 2 * r)))

/-- The readings of a receive ring are held (R323, R332): its side is GAPPED, it moves under calibration, retune or transit, or its
lane has not been re-admitted since. -/
def readingHeld (d : Dev) (k h : Nat) : Bool :=
  let g := 8 * k + h / 40
  inGap d g || ringState d k h == 3 || ringState d k h == 5 ||
    (fbit d Reg.LE_CAL_RSTATE [k, h] Fld.LE_CAL_RSTATE_stale &&
      (match ringChan d k h with | some c => tbit (erasure d g) (laneFor d g 1 c) | none => false))

/-- RX_RING_UPDATE (R339, R340): the eye amplitudes of the two dither halves, whether the integrator mean is centred, and the drop
chain's latest reading, which is published. The amplitude tested is the mean of the halves (log entry 44). -/
def execRxRingUpdate (k : Fin 16) (h : Fin 320) (plus minus : BitVec 16) (centred : Bool) (dm : BitVec 16) (s : State) :
    Host.Outcome State Fault Refusal :=
  s.run (fun _ d =>
    let k := k.val
    let h := h.val
    if h / 20 % 2 ≠ 1 then d
    else
      let ix := [k, h / 40, h % 20]
      let held := readingHeld d k h
      let d := publish d Reg.LE_MON_DM ix dm.toNat held
      let d := if held then d else fset d Reg.LE_CAL_RSTATE [k, h] Fld.LE_CAL_RSTATE_stale 0
      if !(loopRuns d k h) || fbit d Reg.LE_FIBRE [k, h / 40] Fld.LE_FIBRE_rx_gap then d
      else
        let a := (ring d k h).aRef
        let diff := ((plus.toNat : Nat) : Int) - ((minus.toNat : Nat) : Int)
        let d := if a = 0 then d else loopMove d k h ((diff * 32).tdiv (a : Int))
        let amp2 := plus.toNat + minus.toNat
        let ok := centred && decide (16 * a ≤ 10 * amp2)
        loopTest d k h ok (!ok))

/-- THRESHOLD_UPDATE (R339): the decision threshold is the integrator mean. -/
def execThresholdUpdate (k : Fin 16) (h : Fin 320) (mean : BitVec 16) (s : State) : Host.Outcome State Fault Refusal :=
  s.run (fun _ d =>
    if loopRuns d k.val h.val && h.val / 20 % 2 == 1 && !(fbit d Reg.LE_FIBRE [k.val, h.val / 40] Fld.LE_FIBRE_rx_gap) then
      emit (setRing d k.val h.val { ring d k.val h.val with threshold := mean.toNat }) (.optic k.val 4 h.val mean.toNat)
    else d)

/-! ### Messages between the two ends -/

/-- Send a calibration message (Table 10.5). -/
def sendCal (d : Dev) (g code lane op arg result : Nat) : Dev :=
  queueMsg d g 0x06 (leBytes 4 (code + 16 * lane + 2 ^ 9 * op + 2 ^ 12 * arg + 2 ^ 17 * result))

/-- Take the first calibration message of a code: its word. -/
def takeCal (d : Dev) (g code : Nat) : Option (Nat × Dev) :=
  let x := getLq d g
  match x.rxMsgs.find? (fun m => leNat (m.take 1) == 0x06 && leNat (slice m 4 4) % 16 == code) with
  | none => none
  | some m => some (leNat (slice m 4 4), setLq d g { x with rxMsgs := x.rxMsgs.erase m })

/-- Fields of a calibration message. -/
def calLane (w : Nat) : Nat := bits w 8 4
def calOp (w : Nat) : Nat := bits w 11 9
def calArg (w : Nat) : Nat := bits w 16 12
def calResult (w : Nat) : Nat := bits w 19 17

/-- The pair's other fibre carries messages. -/
def pairUp (d : Dev) (g : Nat) : Bool := lqActive d g && !(fbit d Reg.LE_FIBRE (lqIx g) Fld.LE_FIBRE_tx_gap)

/-! ### Runs -/

/-- Start a run: every lane of every fibre (R346). -/
def startRun (d : Dev) (k : Nat) : Dev :=
  let d := fset d Reg.LE_CAL_STAT [k] Fld.LE_CAL_STAT_running 1
  let d := fset d Reg.LE_CAL_TEMP [k] Fld.LE_CAL_TEMP_t_last (fget d Reg.LE_CAL_TEMP [k] Fld.LE_CAL_TEMP_t_now)
  (List.range 8).foldl (fun d f =>
    setLeFib d (8 * k + f) { leFib d (8 * k + f) with queue := List.range 18, retry := [], again := false }) d

/-- Ask for a run: one may be pending, and further requests merge into it (R346). -/
def askRun (d : Dev) (k : Nat) : Dev :=
  if fbit d Reg.LE_CAL_STAT [k] Fld.LE_CAL_STAT_running then fset d Reg.LE_CAL_STAT [k] Fld.LE_CAL_STAT_pending 1
  else startRun d k

/-- Lanes put off come up once more after the others; a run with nothing left ends, and a pending one starts (R346). -/
def runGoesOn (d : Dev) (k : Nat) : Dev :=
  let d := (List.range 8).foldl (fun d f =>
    let x := leFib d (8 * k + f)
    if x.queue = [] ∧ x.retry ≠ [] then setLeFib d (8 * k + f) { x with queue := x.retry, retry := [], again := true } else d) d
  let idle := (List.range 8).all (fun f =>
    let x := leFib d (8 * k + f)
    x.queue.isEmpty && (match x.cal with | some c => c.op != 0 | none => true))
  if fbit d Reg.LE_CAL_STAT [k] Fld.LE_CAL_STAT_running && idle then
    let d := fset d Reg.LE_CAL_STAT [k] Fld.LE_CAL_STAT_running 0
    let d := fincWrap d Reg.LE_CAL_STAT [k] Fld.LE_CAL_STAT_runs 1
    if fbit d Reg.LE_CAL_STAT [k] Fld.LE_CAL_STAT_pending then
      startRun (fset d Reg.LE_CAL_STAT [k] Fld.LE_CAL_STAT_pending 0) k
    else d
  else d

/-- CAL_RUN_TRIGGER (R346): the temperature has moved by more than dT since the last run. -/
def execCalRunTrigger (k : Fin 16) (s : State) : Host.Outcome State Fault Refusal :=
  s.run (fun _ d =>
    let now := signed 16 (fget d Reg.LE_CAL_TEMP [k.val] Fld.LE_CAL_TEMP_t_now)
    let last := signed 16 (fget d Reg.LE_CAL_TEMP [k.val] Fld.LE_CAL_TEMP_t_last)
    let dT := max 1 (fget d Reg.LE_CAL_CFG [k.val] Fld.LE_CAL_CFG_dT)
    if fbit d Reg.LE_CAL_CFG [k.val] Fld.LE_CAL_CFG_run_en && !(conservative d k.val) && decide (dT < (now - last).natAbs)
    then askRun d k.val else d)

/-- CAL_RUN_PERIOD (R347): the period of the conservative profile has passed. -/
def execCalRunPeriod (k : Fin 16) (s : State) : Host.Outcome State Fault Refusal :=
  s.run (fun _ d => if conservative d k.val then askRun d k.val else d)

/-- LE_CAL_CMD_RUN (R346). -/
def execLeCalCmdRun (p : Path) (k : Fin 16) (s : State) : Host.Outcome State Fault Refusal :=
  s.run (fun _ d => if portHalted d p then d else if leWritable d p k.val then askRun d k.val else regEvent d p (Reg.LE_CAL_CMD.key [k.val]))

/-- A write of LE_CAL_CMD: a run, and a single lane with its refusals (R346, R347). -/
def calCmdWrite (d : Dev) (k : Nat) (data : Word) : Dev :=
  let d := if Fld.LE_CAL_CMD_run.get data = 1 then askRun d k else d
  if Fld.LE_CAL_CMD_lane.get data = 1 then
    let lane := Fld.LE_CAL_CMD_lane_no.get data
    let reason := if 17 < lane then 2 else if (le d k).single.isSome then 3 else 0
    if reason = 0 then setLe d k { le d k with single := some (Fld.LE_CAL_CMD_fibre.get data, lane) }
    else fset (fset d Reg.LE_CAL_STAT [k] Fld.LE_CAL_STAT_refused 1) Reg.LE_CAL_STAT [k] Fld.LE_CAL_STAT_reason reason
  else d

/-- LE_CAL_CMD_LANE (R347). -/
def execLeCalCmdLane (p : Path) (k : Fin 16) (data : Word) (s : State) : Host.Outcome State Fault Refusal :=
  s.run (fun _ d => if portHalted d p then d else if leWritable d p k.val then calCmdWrite d k.val data else regEvent d p (Reg.LE_CAL_CMD.key [k.val]))

/-! ### Calibration of a lane -/

/-- The conditions of a start that the master sees (R343). -/
def calMayStart (d : Dev) (g : Nat) : Bool :=
  erasure d g == 0 && fget d Reg.LE_FIBRE (lqIx g) Fld.LE_FIBRE_state == 0 && !(rxGapped d g)
    && leState d (g / 8) == 2 && (leFib d g).cal.isNone && (leFib d g).rxTransit.isNone

/-- The master starts a lane (R343, R344 step 1): erased, told to the sender, its values stale. Without the pair's other fibre the
receive ring is calibrated alone (R342). -/
def beginCal (d : Dev) (g lane op : Nat) : Dev :=
  let up := pairUp d g
  let d := eraseLane d g lane
  let d := if up then sendCal d g 0x1 lane op 0 0 else d
  let d := match ringFor d g 1 (laneChan d g 1 lane) with
    | some h => setStale (setRingState d (g / 8) h 3) (g / 8) h true
    | none => d
  let d := setLeFib d g { leFib d g with cal := some { lane := lane, op := op, sent := up } }
  showCal d g lane (if up then 1 else 2)

/-- CAL_START (R343, R346, R347): the single lane asked for, or the run's next lane; one whose conditions do not hold is tried again
after the others, and then skipped. -/
def execCalStart (g : Fin 128) (s : State) : Host.Outcome State Fault Refusal :=
  s.run (fun _ d =>
    let g := g.val
    let k := g / 8
    let ok := calMayStart d g
    let single := match (le d k).single with | some (f, l) => if f = g % 8 then some l else none | none => none
    match single, ok with
    | some l, true => beginCal (setLe d k { le d k with single := none }) g l 0
    | some _, false => d
    | none, _ =>
      let x := leFib d g
      match x.queue with
      | [] => d
      | l :: rest =>
        if x.cal.isSome ∨ x.rxTransit.isSome then d
        else if ok then beginCal (setLeFib d g { x with queue := rest }) g l 0
        else if x.again then
          runGoesOn (fincSat (setLeFib d g { x with queue := rest }) Reg.LE_CAL_STAT [k] Fld.LE_CAL_STAT_skipped 1) k
        else runGoesOn (setLeFib d g { x with queue := rest, retry := x.retry ++ [l] }) k)

/-- The transmit ring returns to its hold code, and its loop resumes (R342, R345). -/
def txReturn (d : Dev) (g : Nat) : Dev :=
  match (leFib d g).txOp with
  | none => d
  | some (_, h) =>
    let d := setTarget d (g / 8) h (holdCode d (g / 8) h)
    let d := endStale (if ringState d (g / 8) h = 3 then setRingState d (g / 8) h 2 else d) (g / 8) h
    setLeFib d g { leFib d g with txOp := none, txTries := 0 }

/-- An attempt of a retune is counted (Table 10.14). -/
def countRetune (d : Dev) (k h : Nat) : Dev := fincSat d Reg.LE_CAL_RSTATE [k, h] Fld.LE_CAL_RSTATE_retunes 1

/-- Attempts of a retune before a spare (R348). -/
def retuneMax (d : Dev) (k : Nat) : Nat := max 1 (fget d Reg.LE_CAL_CFG [k] Fld.LE_CAL_CFG_retune_max)

/-- The transmit ring's narrow search ends (R344, R348): locked and told to the master; or for a retune tried again, and after the
last attempt failed. -/
def txSearched (d : Dev) (g lane h op : Nat) (t : Tuned) : Dev :=
  let k := g / 8
  let d := if op = 1 then countRetune d k h else d
  if t.ok then
    let d := lockRing d k h t.target.toNat
    sendCal (setLeFib d g { leFib d g with txOp := none, txTries := 0 }) g 0x2 lane op 0 0
  else if op = 0 then
    sendCal (txReturn d g) g 0x2 lane op 0 1
  else
    let x := leFib d g
    if retuneMax d k ≤ x.txTries + 1 then
      sendCal (failRing (setLeFib d g { x with txOp := none, txTries := 0 }) k h 2) g 0x2 lane op 0 1
    else setLeFib d g { x with txTries := x.txTries + 1 }

/-- CAL_GO (R342, R344): the sender performs the operation on the lane's transmit ring, with the outcome of its search. A transit
step lets the crossing of a transmit row proceed. -/
def execCalGo (g : Fin 128) (t : Tuned) (s : State) : Host.Outcome State Fault Refusal :=
  s.run (fun _ d => match takeCal d g.val 0x1 with
    | none => d
    | some (w, d) =>
      let g := g.val
      let lane := calLane w
      let op := calOp w
      if leState d (g / 8) ≠ 2 ∨ fbit d Reg.LE_FIBRE (lqIx g) Fld.LE_FIBRE_tx_gap then sendCal d g 0x2 lane op 0 2
      else if op = 2 then
        match (leFib d g).txTransit with
        | some x => sendCal (setLeFib d g { leFib d g with txTransit := some { x with erased := some lane } }) g 0x2 lane op 0 0
        | none => sendCal d g 0x2 lane op 0 2
      else match ringFor d g 0 (laneChan d g 0 lane) with
        | none => sendCal d g 0x2 lane op 0 2
        | some h =>
          let d := setStale (setRingState d (g / 8) h 3) (g / 8) h true
          let d := setLeFib d g { leFib d g with txOp := some (lane, h), txTries := 0 }
          txSearched d g lane h op t)

/-- The master ends a calibration without success (R345): the sender is told, the receive ring returns to its hold code, and the lane
waits for the lock test. -/
def abandon (d : Dev) (g : Nat) : Dev :=
  match (leFib d g).cal with
  | none => d
  | some c =>
    let k := g / 8
    let d := if c.sent then sendCal d g 0x3 c.lane c.op 0 0 else d
    let d := match ringFor d g 1 (laneChan d g 1 c.lane) with
      | some h =>
        let d := setTarget d k h (holdCode d k h)
        if ringState d k h = 3 then setRingState d k h (if rxGapped d g then 4 else 2) else d
      | none => d
    runGoesOn (showCal (setLeFib d g { leFib d g with cal := none }) g 31 0) k

/-- A retune or a spare abandons a calibration of the fibre, and no other retune (R345, R348). -/
def abandonCal (d : Dev) (g : Nat) : Dev :=
  match (leFib d g).cal with
  | some c => if c.op = 0 then abandon d g else d
  | none => d

/-- The fibre's master turns to an operation on a lane; one that runs already stays the one shown. -/
def beginOp (d : Dev) (g lane op step : Nat) (sent : Bool) : Dev :=
  match (leFib d g).cal with
  | some _ => d
  | none => showCal (setLeFib d g { leFib d g with cal := some { lane := lane, op := op, sent := sent } }) g lane step

/-- The master's operation on a lane has ended. -/
def endOp (d : Dev) (g lane : Nat) : Dev :=
  match (leFib d g).cal with
  | some c => if c.lane = lane then runGoesOn (showCal (setLeFib d g { leFib d g with cal := none }) g 31 0) (g / 8) else d
  | none => d

/-- A lane counts as having lost lock (R345, R348): it stays erased and its receive ring is to be retuned. -/
def beginRetune (d : Dev) (g lane : Nat) : Dev :=
  let k := g / 8
  let d := eraseLane d g lane
  let d := match ringFor d g 1 (laneChan d g 1 lane) with
    | some h => setStale (setRingState (setRing d k h { ring d k h with tries := 0 }) k h 3) k h true
    | none => d
  beginOp d g lane 1 2 false

/-- CAL_TXDONE (R344, R348): after a locked transmit ring a calibration goes on with the receive ring, and a retune or a spare's transit
is done, its lane waiting for the lock test. A failed calibration step costs the lane its lock; a failed retune brings a spare; any
other result abandons the operation. -/
def execCalTxdone (g : Fin 128) (s : State) : Host.Outcome State Fault Refusal :=
  s.run (fun _ d => match takeCal d g.val 0x2 with
    | none => d
    | some (w, d) =>
      let g := g.val
      match (leFib d g).cal with
      | none => d
      | some c =>
        if c.lane ≠ calLane w ∨ calOp w ≠ (if c.op = 3 then 2 else c.op) then d
        else
          let d := setLeFib d g { leFib d g with cal := some { c with sent := false } }
          if calResult w = 0 then if c.op = 0 then showCal d g c.lane 2 else endOp d g c.lane
          else if calResult w = 1 ∧ c.op = 0 then beginRetune (abandon d g) g c.lane
          else if calResult w = 1 ∧ c.op = 1 then
            showCal (setLeFib d g { leFib d g with cal := some { lane := c.lane, op := 3 } }) g c.lane 4
          else abandon d g)

/-- CAL_RX_DONE (R344 steps 4 to 6): the receive ring's narrow search and lock test. -/
def execCalRxDone (g : Fin 128) (t : Tuned) (s : State) : Host.Outcome State Fault Refusal :=
  s.run (fun _ d =>
    let g := g.val
    let k := g / 8
    match (leFib d g).cal with
    | none => d
    | some c =>
      if fget d Reg.LE_CAL_FIBRE (lqIx g) Fld.LE_CAL_FIBRE_step ≠ 2 ∨ c.op ≠ 0 then d
      else match ringFor d g 1 (laneChan d g 1 c.lane) with
        | none => abandon d g
        | some h =>
          if t.ok then
            let d := setRing (lockRing d k h t.target.toNat) k h { ring (lockRing d k h t.target.toNat) k h with aRef := t.amp.toNat }
            let d := readmitLane (setLeFib d g { leFib d g with cal := none }) g c.lane
            runGoesOn (showCal d g 31 0) k
          else beginRetune (abandon d g) g c.lane)

/-- CAL_ABANDON (R345): a second erasure, a Gap change, the other fibre of the pair down. -/
def execCalAbandon (g : Fin 128) (s : State) : Host.Outcome State Fault Refusal :=
  s.run (fun _ d => abandonCal d g.val)

/-- CAL_ABORT (R342): the sender returns its transmit ring to its hold code. -/
def execCalAbort (g : Fin 128) (s : State) : Host.Outcome State Fault Refusal :=
  s.run (fun _ d => match takeCal d g.val 0x3 with
    | none => d
    | some (_, d) => txReturn d g.val)

/-- CAL_SENDER_TIMEOUT (R342): 4 ms without a message after CAL_GO. -/
def execCalSenderTimeout (g : Fin 128) (s : State) : Host.Outcome State Fault Refusal :=
  s.run (fun _ d => txReturn d g.val)

/-- CAL_REQ (R348): the sender asks for a retune (1) or a hold-window swap (3) of its ring; another calibration is abandoned, the
lane erased, and the sender told to go on. -/
def execCalReq (g : Fin 128) (s : State) : Host.Outcome State Fault Refusal :=
  s.run (fun _ d => match takeCal d g.val 0x4 with
    | none => d
    | some (w, d) =>
      let g := g.val
      let lane := calLane w
      if 17 < lane ∨ leState d (g / 8) ≠ 2 ∨ ¬ (calOp w = 1 ∨ calOp w = 3) then d
      else
        let d := eraseLane (abandonCal d g) g lane
        if calOp w = 1 then beginOp (sendCal d g 0x1 lane 1 0 0) g lane 1 1 true else beginOp d g lane 3 4 false)

/-! ### Loss of lock, retune, spares -/

/-- RING_LOCK_LOSS (R340, R348): three successive failures or clamps, or the link layer's word that the lane lost block lock. The
receive ring's lane is erased and its retune begins; the sender asks the master for one of its transmit ring. -/
def execRingLockLoss (k : Fin 16) (h : Fin 320) (linkSays : Bool) (s : State) : Host.Outcome State Fault Refusal :=
  s.run (fun _ d =>
    let k := k.val
    let h := h.val
    let r := ring d k h
    let g := 8 * k + h / 40
    match ringChan d k h with
    | none => d
    | some c =>
      if !(loopRuns d k h) || !(decide (3 ≤ r.bad) || decide (3 ≤ r.clamp) || linkSays) then d
      else
        let d := setRing d k h { r with bad := 0, clamp := 0 }
        if h / 20 % 2 = 1 then beginRetune (abandonCal d g) g (laneFor d g 1 c)
        else sendCal (setRingState d k h 3) g 0x4 (laneFor d g 0 c) 1 0 0)

/-- RETUNE (R348): one attempt of a ring under retune: locked and re-admitted; or counted, and FAILED after the last. -/
def execRetune (k : Fin 16) (h : Fin 320) (t : Tuned) (s : State) : Host.Outcome State Fault Refusal :=
  s.run (fun _ d =>
    let k := k.val
    let h := h.val
    let g := 8 * k + h / 40
    if ringState d k h ≠ 3 then d
    else if h / 20 % 2 = 0 then
      match (leFib d g).txOp with
      | some (lane, r) => if r = h then txSearched d g lane h 1 t else d
      | none => d
    else match ringChan d k h with
      | none => d
      | some c =>
        if rxGapped d g then d
        else
          let lane := laneFor d g 1 c
          let d := countRetune d k h
          if t.ok then
            let d := lockRing d k h t.target.toNat
            let d := setRing d k h { ring d k h with aRef := t.amp.toNat }
            endOp (readmitLane d g lane) g lane
          else if retuneMax d k ≤ (ring d k h).tries + 1 then endOp (failRing d k h 2) g lane
          else setRing d k h { ring d k h with tries := (ring d k h).tries + 1 })

/-- Targets and crossings of the two ways from one place to another, places in half spacings (channel k at 2k, the park position at
−3 and at 37): cooling first, each with its target and the channels crossed in order. -/
def transitWays (code spacing : Int) (from_ to_ : Int) : List (Int × List Nat) :=
  let up := if from_ < to_ then to_ - from_ else to_ + 40 - from_
  let down := 40 - up
  let cross (n : Int) (dir : Int) : List Nat :=
    ((List.range n.toNat).drop 1).filterMap (fun (i : Nat) =>
      let p := (from_ + dir * (i : Int) + 80) % 40
      if p % 2 = 0 ∧ p < 36 then some (p / 2).toNat else none)
  [(code - up * spacing / 2, cross up 1), (code + down * spacing / 2, cross down (-1))]

/-- The way that Coppice takes (R349): a target in the hold window, fewer crossings, then the lower target. -/
def transitChoice (ways : List (Int × List Nat)) : Option (Int × List Nat) :=
  (ways.filter (fun w => inHold w.1)).foldl (fun b w =>
    match b with
    | none => some w
    | some x => if w.2.length < x.2.length ∨ (w.2.length = x.2.length ∧ w.1 < x.1) then some w else some x) none

/-- The spacing of a ring. -/
def ringSpacing (d : Dev) (k h : Nat) : Nat := fget d Reg.LE_CAL_RSTATE [k, h] Fld.LE_CAL_RSTATE_spacing

/-- Ask for or make the next crossing of a transit (R350): a receive row's master erases the crossed lane itself, while the lane that
the spare will serve is the only other one erased; a transmit row's sender asks the master. -/
def nextCrossing (d : Dev) (g row : Nat) (x : Transit) : Dev :=
  match x.cross with
  | [] => d
  | c :: _ =>
    let lane := laneFor d g row c
    if row = 0 then sendCal d g 0x5 (if x.chan < 18 then laneFor d g 0 x.chan else lane) 0 c 0
    else
      let only := if x.chan < 18 then 2 ^ laneFor d g 1 x.chan else 0
      if erasure d g = only then
        setLeFib (eraseLane d g lane) g { leFib (eraseLane d g lane) g with rxTransit := some { x with erased := some lane } }
      else d

/-- Set the transit of a row. -/
def setTransit (d : Dev) (g row : Nat) (x : Option Transit) : Dev :=
  let f := leFib d g
  setLeFib d g (if row = 0 then { f with txTransit := x } else { f with rxTransit := x })

/-- Begin a transit of a ring: to the first midpoint, then across the channels one at a time (R349, R350). -/
def beginTransit (d : Dev) (g row : Nat) (x : Transit) (from_ : Nat) : Dev :=
  let k := g / 8
  let s := ringSpacing d k x.spare
  let first : Int := if x.target < from_ then (from_ : Int) - s else (from_ : Int) + s
  let first := if x.chan < 18 then first else if x.target < from_ then (from_ : Int) - s / 2 else (from_ : Int) + s / 2
  let d := setTarget (setStale (setRingState d k x.spare 5) k x.spare true) k x.spare (clampInt 0 65535 first).toNat
  let d := setTransit d g row (some x)
  let d := if row = 1 then showCal d g (if x.chan < 18 then laneFor d g 1 x.chan else 31) 4 else d
  nextCrossing d g row x

/-- Bring the lowest parked good spare of a ring's row onto its channel, or fence the fibre (R349). -/
def useSpare (d : Dev) (k h : Nat) (parkOld : Bool) : Dev :=
  let g := 8 * k + h / 40
  let row := h / 20 % 2
  match ringChan d k h, lowest 20 (fun r => let i := h / 20 * 20 + r; ringState d k i == 0 && (ring d k i).good) with
  | none, _ => d
  | some _, none => fenceFibre d g
  | some c, some r =>
    let sp := h / 20 * 20 + r
    let p := (ring d k sp).park
    match transitChoice (transitWays p (ringSpacing d k sp) (-3) ((2 * c : Nat) : Int)) with
    | none => fenceFibre d g
    | some w => beginTransit d g row { spare := sp, old := h, chan := c, target := w.1.toNat, cross := w.2, parkOld := parkOld } p

/-- SPARE_RING_TRANSIT (R349): the spare of a ring that FAILED with reason RETUNE. -/
def execSpareRingTransit (k : Fin 16) (h : Fin 320) (s : State) : Host.Outcome State Fault Refusal :=
  s.run (fun _ d =>
    let g := 8 * k.val + h.val / 40
    let busy := if h.val / 20 % 2 = 0 then (leFib d g).txTransit.isSome else (leFib d g).rxTransit.isSome
    if ringState d k.val h.val = 6 ∧ fget d Reg.LE_CAL_RSTATE [k.val, h.val] Fld.LE_CAL_RSTATE_reason = 2 ∧ !busy
    then useSpare d k.val h.val false else d)

/-- HOLD_WINDOW_EXCEEDED (R341): the ring is replaced by a spare; its lane is erased meanwhile, by the master or at its word. -/
def execHoldWindowExceeded (k : Fin 16) (h : Fin 320) (s : State) : Host.Outcome State Fault Refusal :=
  s.run (fun _ d =>
    let k := k.val
    let h := h.val
    let g := 8 * k + h / 40
    match ringChan d k h with
    | none => d
    | some c =>
      if !(ring d k h).ask ∨ ringState d k h ≠ 2 then d
      else
        let d := setRing d k h { ring d k h with ask := false }
        if h / 20 % 2 = 1 then
          if (leFib d g).rxTransit.isSome then d
          else useSpare (eraseLane (abandonCal d g) g (laneFor d g 1 c)) k h true
        else if (leFib d g).txTransit.isSome then d
        else useSpare (sendCal d g 0x4 (laneFor d g 0 c) 3 0 0) k h true)

/-- CAL_XING (R350): the master grants a crossing while the spare's lane is the only one erased, and erases the crossed lane; a
grant lets the sender's ring ramp. A request that cannot be granted yet stays. -/
def execCalXing (g : Fin 128) (s : State) : Host.Outcome State Fault Refusal :=
  s.run (fun _ d => match takeCal d g.val 0x5 with
    | none => d
    | some (w, d2) =>
      let g := g.val
      let chan := calArg w
      if calResult w = 1 then
        match (leFib d2 g).txTransit with
        | some x => setTransit d2 g 0 (some { x with erased := some (laneFor d2 g 0 chan) })
        | none => d2
      else
        let lane := laneFor d2 g 1 chan
        let own := if calLane w = lane then 0 else 2 ^ calLane w
        if erasure d2 g = own ∧ chan < 18 then sendCal (eraseLane d2 g lane) g 0x5 (calLane w) 0 chan 1
        else d)

/-- The spare is at its last midpoint: its narrow search and lock test bring it onto the channel, or fail it (R350). A ring that
goes to its park code is PARKED there and good (R341). -/
def endTransit (d : Dev) (g row : Nat) (x : Transit) (t : Tuned) : Dev :=
  let k := g / 8
  let d := setTransit d g row none
  let d := if row = 1 then showCal d g 31 0 else d
  if 18 ≤ x.chan then
    let d := setTarget d k x.spare x.target
    let d := endStale (setRingState d k x.spare 0) k x.spare
    setRing d k x.spare { ring d k x.spare with good := true }
  else if t.ok then
    let d := fset d Reg.LE_RING_CTL [k, x.old] Fld.LE_RING_CTL_channel 31
    let d := fset d Reg.LE_RING_CTL [k, x.spare] Fld.LE_RING_CTL_channel x.chan
    let d := lockRing d k x.spare t.target.toNat
    let d := setRing d k x.spare { ring d k x.spare with aRef := t.amp.toNat }
    let d := if row = 1 then readmitLane d g (laneFor d g 1 x.chan) else sendCal d g 0x2 (laneFor d g 0 x.chan) 2 0 0
    if x.parkOld then
      let from_ := heaterTarget d k x.old
      match transitChoice (transitWays from_ (ringSpacing d k x.old) ((2 * x.chan : Nat) : Int) 37) with
      | some w => beginTransit d g row { spare := x.old, old := x.old, chan := 31, target := w.1.toNat, cross := w.2 } from_
      | none => d
    else d
  else failRing d k x.spare 2

/-- TRANSIT_CROSSING_DONE (R350): the ring has ramped to the next midpoint, and the crossed lane is re-admitted once it passes the
lock test; after the last crossing `t` is the outcome on the channel. -/
def execTransitCrossingDone (k : Fin 16) (h : Fin 320) (locked : Bool) (t : Tuned) (s : State) :
    Host.Outcome State Fault Refusal :=
  s.run (fun _ d =>
    let k := k.val
    let h := h.val
    let g := 8 * k + h / 40
    let row := h / 20 % 2
    match (if row = 0 then (leFib d g).txTransit else (leFib d g).rxTransit) with
    | none => d
    | some x =>
      if x.spare ≠ h then d
      else match x.cross, x.erased with
        | [], _ => endTransit d g row x t
        | _ :: _, none => nextCrossing d g row x
        | _ :: cs, some lane =>
          if !locked then d
          else
            let s := ringSpacing d k h
            let now := heaterTarget d k h
            let d := setTarget d k h (if x.target < now then now - s else min 65535 (now + s))
            let d := if row = 1 then readmitLane d g lane else d
            let x := { x with cross := cs, erased := none }
            let d := setTransit d g row (some x)
            if cs = [] then endTransit d g row x t else nextCrossing d g row x)

/-! ### Loss of light -/

/-- LOS (R368): every receive reading is below −25 dBm; every lane is erased, calibration and retunes end, and the receive rings hold
their hold codes. -/
def execLossOfLight (g : Fin 128) (s : State) : Host.Outcome State Fault Refusal :=
  s.run (fun _ d =>
    let g := g.val
    let k := g / 8
    if inGap d g || lqState d g == 0 || lqStat d g Fld.LQ_STAT_los == 1 then d
    else
      let d := setErasure (setLqStat (abandon d g) g Fld.LQ_STAT_los 1) g (2 ^ 18 - 1)
      (List.range 20).foldl (fun d r =>
        let h := 40 * (g % 8) + 20 + r
        if ringState d k h = 2 ∨ ringState d k h = 3 then
          setRingState (setTarget d k h (holdCode d k h)) k h 4
        else d) d)

/-- LOS_END (R368): at least 16 receive rings pass the lock test again: the loops resume, and training recovers the lanes. -/
def execLosEnd (g : Fin 128) (rings : BitVec 20) (s : State) : Host.Outcome State Fault Refusal :=
  s.run (fun _ d =>
    let g := g.val
    if lqStat d g Fld.LQ_STAT_los = 1 ∧ 16 ≤ ones 20 rings.toNat then
      let d := (List.range 20).foldl (fun d r =>
        let h := 40 * (g % 8) + 20 + r
        if ringState d (g / 8) h = 4 then setRingState d (g / 8) h 2 else d) d
      let d := setLqStat d g Fld.LQ_STAT_los 0
      if lqState d g = 0 then d else linkWait d g
    else d)

/-! ### The measurement chain -/

/-- The taps of a stage (Table 9.20). -/
def tapCount (stage : Nat) : Nat := if stage = 0 then 46 else if stage < 4 then 8 else if stage = 4 then 160 else 0

/-- Start the conversion that LE_CAL_MON_CTL names (R331). -/
def startConv (d : Dev) (k : Nat) : Dev :=
  let w := rdReg d Reg.LE_CAL_MON_CTL [k]
  let c := (Fld.LE_CAL_MON_CTL_stage.get w, Fld.LE_CAL_MON_CTL_index.get w, Fld.LE_CAL_MON_CTL_gain.get w, Fld.LE_CAL_MON_CTL_span.get w)
  fset (setLe d k { le d k with conv := some c }) Reg.LE_CAL_MON_RES [k] Fld.LE_CAL_MON_RES_busy 1

/-- A write of LE_CAL_MON_CTL (R330, R331): its settings; a synchronising reset; a trigger, which starts a conversion, waits as the
one pending, or is dropped. -/
def monCtlWrite (d : Dev) (k : Nat) (data : Word) : Dev :=
  let d := Reg.LE_CAL_MON_CTL.store d [k] false data
  let d := if Fld.LE_CAL_MON_CTL_sync.get data = 1 then setLe d k { le d k with syncAt := d.tb } else d
  if Fld.LE_CAL_MON_CTL_trig.get data = 1 then
    if tapCount (Fld.LE_CAL_MON_CTL_stage.get data) ≤ Fld.LE_CAL_MON_CTL_index.get data then
      report d { source := 0x06, unit := unitLe k, stat := Reg.LE_CAL_MON_RES.slot [k] }
    else if fbit d Reg.LE_CAL_MON_RES [k] Fld.LE_CAL_MON_RES_pending then
      fset d Reg.LE_CAL_MON_RES [k] Fld.LE_CAL_MON_RES_trig_ovr 1
    else if (le d k).conv.isSome then fset d Reg.LE_CAL_MON_RES [k] Fld.LE_CAL_MON_RES_pending 1
    else startConv d k
  else d

/-- MON_TRIG (R331): a write of LE_CAL_MON_CTL with trig. -/
def execMonTrig (p : Path) (k : Fin 16) (data : Word) (s : State) : Host.Outcome State Fault Refusal :=
  s.run (fun _ d => if portHalted d p then d else if leWritable d p k.val then monCtlWrite d k.val data else regEvent d p (Reg.LE_CAL_MON_CTL.key [k.val]))

/-- MON_CONVERSION_DONE (R329, R331): the result, with the gain range that automatic mode settled on, and a pending trigger's start. -/
def execMonConversionDone (k : Fin 16) (power : BitVec 16) (gain : BitVec 2) (s : State) :
    Host.Outcome State Fault Refusal :=
  s.run (fun _ d =>
    let k := k.val
    match (le d k).conv with
    | none => d
    | some c =>
      let d := setLe d k { le d k with conv := none }
      let d := fset d Reg.LE_CAL_MON_RES [k] Fld.LE_CAL_MON_RES_power power.toNat
      let d := fset d Reg.LE_CAL_MON_RES [k] Fld.LE_CAL_MON_RES_gain_used (if c.2.2.1 = 0 then gain.toNat else c.2.2.1)
      let d := fset d Reg.LE_CAL_MON_RES [k] Fld.LE_CAL_MON_RES_valid 1
      let d := fset d Reg.LE_CAL_MON_RES [k] Fld.LE_CAL_MON_RES_busy 0
      if fbit d Reg.LE_CAL_MON_RES [k] Fld.LE_CAL_MON_RES_pending then
        startConv (fset d Reg.LE_CAL_MON_RES [k] Fld.LE_CAL_MON_RES_pending 0) k
      else d)

/-- MON_SYNC (R330): a synchronising reset of the measurement chain. -/
def execMonSync (p : Path) (k : Fin 16) (s : State) : Host.Outcome State Fault Refusal :=
  s.run (fun _ d => if portHalted d p then d else if leWritable d p k.val then setLe d k.val { le d k.val with syncAt := d.tb }
    else regEvent d p (Reg.LE_CAL_MON_CTL.key [k.val]))

end Sys2Proof.Machine
end

