-- ==== Sys2Proof/Machine/Gap.lean ====
section
/-!
DEFINITION. Gaps (R316-R324): the Gap switch of a light engine, its commands, and what the connector's interlock and a dark light
engine do to it.
-/
namespace Sys2Proof.Machine

/-- What a configuration gives output j (Table 9.23): 8 + i for PATCH from input i, 0 for LOCAL. -/
def gapOut (cfg j : Nat) : Nat := if tbit cfg (4 * j + 3) then bits cfg (4 * j + 3) (4 * j) else 0

/-- A configuration with the input of every LOCAL output at 0. -/
def gapNorm (cfg : Nat) : Nat := (List.range 8).foldl (fun n j => n + gapOut cfg j * 16 ^ j) 0

/-- An output patches input i, so that its selector is in MATRIX (R317). -/
def gapInput (cfg i : Nat) : Bool := (List.range 8).any (fun j => gapOut cfg j == 8 + i)

/-- Two outputs patch the same input (R317). -/
def gapMalformed (cfg : Nat) : Bool :=
  (List.range 8).any (fun j => (List.range j).any (fun i => decide (8 ≤ gapOut cfg j) && gapOut cfg i == gapOut cfg j))

/-- The configuration in force. -/
def gapCur (d : Dev) (k : Nat) : Nat := (rdReg d Reg.LE_GAP_CUR [k]).toNat

/-- Outputs in BLOCK now. -/
def gapBlocked (d : Dev) (k : Nat) : Nat := fget d Reg.LE_GAP_STAT [k] Fld.LE_GAP_STAT_blocked

/-- Turn an output's amplifier off. -/
def ampOff (d : Dev) (k j : Nat) : Dev :=
  fset (fset d Reg.LE_GAP_AMP [k, j] Fld.LE_GAP_AMP_gain 0) Reg.LE_GAP_AMP [k, j] Fld.LE_GAP_AMP_gain_lim 0

/-- An output's amplifier ramps to its target, needing a gain in 1/16 dB: it stops at 12 dB (R318). -/
def ampTo (d : Dev) (k j need : Nat) : Dev :=
  fset (fset d Reg.LE_GAP_AMP [k, j] Fld.LE_GAP_AMP_gain (min need 192)) Reg.LE_GAP_AMP [k, j] Fld.LE_GAP_AMP_gain_lim
    (bit (decide (192 < need)))

/-- Show a receive side GAPPED or LOCAL (R323): its drop rings hold and its DM readings are stale, or its loops resume. -/
def setRxGap (d : Dev) (g : Nat) (b : Bool) : Dev :=
  let k := g / 8
  let m := 2 ^ (g % 8)
  let cur := fget d Reg.LE_STAT [k] Fld.LE_STAT_gapped_rx
  let d := fset d Reg.LE_STAT [k] Fld.LE_STAT_gapped_rx (if b then cur ||| m else cur &&& (255 ^^^ m))
  let d := fset d Reg.LE_FIBRE (lqIx g) Fld.LE_FIBRE_rx_gap (bit b)
  (List.range 20).foldl (fun d r =>
    let h := 40 * (g % 8) + 20 + r
    let d := if b then fset d Reg.LE_MON_DM [k, g % 8, r] Fld.LE_MON_LM_stale 1 else d
    if b && ringState d k h == 2 then setRingState d k h 4
    else if !b && ringState d k h == 4 then setRingState d k h 2 else d) d

/-- Show a transmit side GAPPED or LOCAL. -/
def setTxGap (d : Dev) (g : Nat) (b : Bool) : Dev :=
  let k := g / 8
  let m := 2 ^ (g % 8)
  let cur := fget d Reg.LE_STAT [k] Fld.LE_STAT_gapped_tx
  let d := fset d Reg.LE_STAT [k] Fld.LE_STAT_gapped_tx (if b then cur ||| m else cur &&& (255 ^^^ m))
  fset d Reg.LE_FIBRE (lqIx g) Fld.LE_FIBRE_tx_gap (bit b)

/-- Steps 1 and 2 of a configuration (Table 9.11, R323): changing outputs go to BLOCK with their amplifiers off; a side that
leaves LOCAL ends its calibration and is GAPPED. -/
def gapBegin (d : Dev) (k cfg : Nat) : Dev :=
  let old := gapCur d k
  let d := setLe d k { le d k with gapExec := some cfg, gapPend := none }
  let d := fset (fset d Reg.LE_GAP_STAT [k] Fld.LE_GAP_STAT_busy 1) Reg.LE_GAP_STAT [k] Fld.LE_GAP_STAT_pending 0
  (List.range 8).foldl (fun d f =>
    let g := 8 * k + f
    let d := if gapOut old f = gapOut cfg f then d
      else ampOff (fset d Reg.LE_GAP_STAT [k] Fld.LE_GAP_STAT_blocked (gapBlocked d k ||| 2 ^ f)) k f
    let d := if gapOut old f = 0 ∧ gapOut cfg f ≠ 0 then txReturn (setTxGap d g true) g else d
    if !(gapInput old f) && gapInput cfg f then abandon (setRxGap d g true) g else d) d

/-- The pending command begins, if none executes and its instant has come; after its instant it is late (R320, R321). -/
def gapNext (d : Dev) (k : Nat) : Dev :=
  match (le d k).gapExec, (le d k).gapPend with
  | none, some (cfg, none) => gapBegin d k cfg
  | none, some (cfg, some t) =>
    if d.tb < t then d
    else gapBegin (if t < d.tb then fset d Reg.LE_GAP_STAT [k] Fld.LE_GAP_STAT_late 1 else d) k cfg
  | _, _ => d

/-- Why a command is refused (R321): 0 for no reason. -/
def gapReason (d : Dev) (k cfg : Nat) : Nat :=
  if gapMalformed cfg then 1
  else if conservative d k then 2
  else if leState d k = 3 then 3
  else if leState d k ≠ 2 then 4 else 0

/-- A command is given (R320, R321), from software or a plan: discarded while one is pending, refused, or accepted; it applies at
once, at its instant, or after the one that executes. Answers whether it was accepted. -/
def gapCommand (d : Dev) (k cfg : Nat) (at_ : Option Nat) : Bool × Dev :=
  if (le d k).gapPend.isSome then (false, fset d Reg.LE_GAP_STAT [k] Fld.LE_GAP_STAT_cmd_ovr 1)
  else
    let r := gapReason d k cfg
    if r ≠ 0 then
      (false, fset (fset d Reg.LE_GAP_STAT [k] Fld.LE_GAP_STAT_refused 1) Reg.LE_GAP_STAT [k] Fld.LE_GAP_STAT_reason r)
    else
      let d := setLe d k { le d k with gapPend := some (gapNorm cfg, at_) }
      (true, gapNext (fset d Reg.LE_GAP_STAT [k] Fld.LE_GAP_STAT_pending 1) k)

/-- Withdraw a pending command that has not begun. -/
def gapCancel (d : Dev) (k : Nat) : Dev :=
  fset (setLe d k { le d k with gapPend := none }) Reg.LE_GAP_STAT [k] Fld.LE_GAP_STAT_pending 0

/-- A write of LE_GAP_CMD (R320). -/
def gapCmdWrite (d : Dev) (k : Nat) (data : Word) : Dev :=
  let d := if Fld.LE_GAP_CMD_cancel.get data = 1 then gapCancel d k else d
  if Fld.LE_GAP_CMD_go.get data = 1 then
    let t := pair64 (rdReg d Reg.LE_GAP_TIME_LO [k]) (rdReg d Reg.LE_GAP_TIME_HI [k])
    (gapCommand d k (rdReg d Reg.LE_GAP_NEXT [k]).toNat (if Fld.LE_GAP_CMD_at_time.get data = 1 then some t else none)).2
  else d

/-- GAP_CMD_GO (R320): a write of LE_GAP_CMD. -/
def execGapCmdGo (p : Path) (k : Fin 16) (data : Word) (s : State) : Host.Outcome State Fault Refusal :=
  s.run (fun _ d => if portHalted d p then d else if leWritable d p k.val then gapCmdWrite d k.val data else regEvent d p (Reg.LE_GAP_CMD.key [k.val]))

/-- GAP_CMD_CANCEL (R320). -/
def execGapCmdCancel (p : Path) (k : Fin 16) (s : State) : Host.Outcome State Fault Refusal :=
  s.run (fun _ d => if portHalted d p then d else if leWritable d p k.val then gapCancel d k.val else regEvent d p (Reg.LE_GAP_CMD.key [k.val]))

/-- GAP_EXECUTE (R322): the pending configuration begins, its instant having come. -/
def execGapExecute (k : Fin 16) (s : State) : Host.Outcome State Fault Refusal :=
  s.run (fun _ d => gapNext d k.val)

/-- Steps 3 and 4 (Table 9.11): newly patched outputs' amplifiers stand at their gains, changing outputs leave BLOCK, sides back in
LOCAL take up their light again. -/
def gapFinish (d : Dev) (k cfg : Nat) (need : List (BitVec 16)) : Dev :=
  let old := gapCur d k
  let d := setLe d k { le d k with gapExec := none }
  let d := (List.range 8).foldl (fun d f =>
    let g := 8 * k + f
    let changed := gapOut old f != gapOut cfg f
    let d := if changed && gapOut cfg f != 0 then ampTo d k f (need.getD f 0).toNat else d
    let d := if changed then
      fset d Reg.LE_GAP_STAT [k] Fld.LE_GAP_STAT_blocked (gapBlocked d k &&& (255 ^^^ 2 ^ f)) else d
    let d := if gapOut cfg f = 0 ∧ gapOut old f ≠ 0 then setTxGap d g false else d
    if gapInput old f && !(gapInput cfg f) then setRxGap d g false else d) d
  let d := traceEv (wrReg d Reg.LE_GAP_CUR [k] (low32 cfg)) (36 + k) 0x23 10 0 cfg
  let d := wrReg d Reg.LE_GAP_DONE_LO [k] (low32 d.tb)
  let d := wrReg d Reg.LE_GAP_DONE_HI [k] (high32 d.tb)
  fset d Reg.LE_GAP_STAT [k] Fld.LE_GAP_STAT_busy 0

/-- GAP_EXECUTE_DONE (R322): `need` is the gain that each output's target asks for, in 1/16 dB. A pending command whose instant
has come begins then (R321). -/
def execGapExecuteDone (k : Fin 16) (need : List (BitVec 16)) (s : State) : Host.Outcome State Fault Refusal :=
  s.run (fun _ d => match (le d k.val).gapExec with
    | none => d
    | some cfg => gapNext (gapFinish d k.val cfg need) k.val)

/-- Turn every amplifier off and set every output to BLOCK; a command that executes or is pending ends (R314, R324). -/
def blockAll (d : Dev) (k : Nat) : Dev :=
  let d := setLe d k { le d k with gapExec := none, gapPend := none }
  let d := (List.range 8).foldl (fun d j => ampOff d k j) d
  let d := fset (fset d Reg.LE_GAP_STAT [k] Fld.LE_GAP_STAT_busy 0) Reg.LE_GAP_STAT [k] Fld.LE_GAP_STAT_pending 0
  fset d Reg.LE_GAP_STAT [k] Fld.LE_GAP_STAT_blocked 255

/-- The sides of a light engine's fibres follow its configuration. -/
def gapSides (d : Dev) (k cfg : Nat) : Dev :=
  (List.range 8).foldl (fun d f =>
    setRxGap (setTxGap d (8 * k + f) (gapOut cfg f != 0)) (8 * k + f) (gapInput cfg f)) d

/-- CONNECTOR_OPEN (R314): the interlock turns every laser and amplifier off and blocks every output; the configuration stands
(log entry 45), and each fibre starts anew. -/
def execConnectorOpen (k : Fin 16) (s : State) : Host.Outcome State Fault Refusal :=
  s.run (fun _ d =>
    let k := k.val
    if !(fbit d Reg.LE_STAT [k] Fld.LE_STAT_conn) then d
    else
      let d := fset d Reg.LE_STAT [k] Fld.LE_STAT_conn 0
      let d := allLasers.foldl (fun d x =>
        if laserState d k x.1 x.2 < 5 then setLaser d k x.1 x.2 0 else d) d
      let d := gapSides (blockAll d k) k (gapCur d k)
      let d := (List.range 8).foldl (fun d f =>
        let g := 8 * k + f
        let d := txReturn (abandon d g) g
        if fget d Reg.LE_FIBRE (lqIx g) Fld.LE_FIBRE_state = 0 then setFibre d g 2 else d) d
      let d := if leState d k = 4 then d else setLeState d k 3
      report d { source := 0x29, unit := unitLe k, stat := Reg.LE_STAT.slot [k] })

/-- CONNECTOR_CLOSED (R314): the switch has stayed closed for 100 ms; the outputs leave BLOCK for their configuration, with free
gains (log entry 45), and the light engine starts again if it is enabled (LIGHT_ENGINE_START brings up lasers and rings). -/
def execConnectorClosed (k : Fin 16) (s : State) : Host.Outcome State Fault Refusal :=
  s.run (fun _ d =>
    let k := k.val
    if fbit d Reg.LE_STAT [k] Fld.LE_STAT_conn then d
    else
      let d := fset d Reg.LE_STAT [k] Fld.LE_STAT_conn 1
      if leState d k ≠ 3 then d
      else
        let d := (List.range 8).foldl (fun d j =>
          if gapOut (gapCur d k) j = 0 then d
          else
            let v := takeFree d 8
            ampTo v.2 k j v.1) d
        let d := fset d Reg.LE_GAP_STAT [k] Fld.LE_GAP_STAT_blocked 0
        setLeState d k (fget d Reg.LE_CTL [k] Fld.LE_CTL_enable))

/-- A light engine goes dark, or its controller stops (R39, R324, R508): every output in BLOCK, amplifiers off, the configuration
all LOCAL, and its fibres fenced. -/
def leDark (d : Dev) (k : Nat) : Dev :=
  let d := wrReg (blockAll d k) Reg.LE_GAP_CUR [k] 0
  let d := setLeState (gapSides d k 0) k 4
  (List.range 8).foldl (fun d f => fenceFibre d (8 * k + f)) d

/-- LIGHT_ENGINE_DARK (R324). -/
def execLightEngineDark (k : Fin 16) (s : State) : Host.Outcome State Fault Refusal :=
  s.run (fun _ d => if leState d k.val = 4 then d else leDark d k.val)

end Sys2Proof.Machine
end

