-- ==== Sys2Proof/Machine/Pleach.lean ====
section
/-!
DEFINITION. Pleach (R420-R432): plans, chunks and striping, reduce-scatter, all-gather, all-gather through Gaps, barriers,
completion and failure.
-/
namespace Sys2Proof.Machine

/-! ### Plan records (Table 12.7) -/

/-- The fields of a plan record. -/
structure PlanRec where
  op : Nat
  fmt : Nat
  kind : Nat
  dim : Nat
  dirs : Nat
  record : Bool
  arm : Bool
  size : Nat
  pos : Nat
  gen : Nat
  elems : Nat
  inAddr : Nat
  outAddr : Nat
  window : Nat
  trigCtr : Nat
  trigVal : Nat
  doneCtr : Nat
  limit : Nat
  dlyP : Nat
  dlyM : Nat
deriving DecidableEq, Repr

/-- The record of 64 bytes. -/
def planRecOf (b : List Byte) : PlanRec :=
  { op := dfield b 0 1 0, fmt := dfield b 0 5 2, kind := dfield b 0 7 6, dim := dfield b 0 9 8, dirs := dfield b 0 11 10,
    record := dbit b 0 12, arm := dbit b 0 13, size := dfield b 0 31 16 + 1, pos := dfield b 0 47 32,
    gen := dfield b 0 55 48, elems := dfield b 8 39 0 + 1, inAddr := dfield b 16 51 0, outAddr := dfield b 24 51 0,
    window := dword b 4, trigCtr := dfield b 40 15 0, trigVal := dfield b 40 47 16, doneCtr := dfield b 40 63 48,
    limit := dfield b 48 23 0, dlyP := dfield b 48 47 32, dlyM := dfield b 48 63 48}

/-- The bytes of a plan record, from its sixteen words. -/
def planBytes (d : Dev) (c : Nat) : List Byte :=
  ((List.range 16).map (fun w => leBytes 4 (rdReg d Reg.FAB_COLL [c, w]).toNat)).flatten

/-- The record of a slot as its registers hold it. -/
def planRec (d : Dev) (c : Nat) : PlanRec := planRecOf (planBytes d c)

/-- A reserved field of a record is used (R422): Table 12.7's reserved bits and values, and addresses off 64 bytes. -/
def planReserved (b : List Byte) (r : PlanRec) : Bool :=
  r.op == 3 || r.dirs == 0 || dfield b 0 15 14 != 0 || dfield b 0 63 56 != 0 || dfield b 8 63 40 != 0 ||
    dfield b 16 63 52 != 0 || dfield b 24 63 52 != 0 || r.inAddr % 64 != 0 || r.outAddr % 64 != 0 ||
    dfield b 48 31 24 != 0 || dword b 7 != 0 ||
    (if r.record then r.window % 16 != 0 || r.window / 2 ^ 52 != 0 else r.window / 2 ^ 16 != 0)

/-- The state of a plan (Table 12.27). -/
def planState (d : Dev) (c : Nat) : Nat := fget d Reg.FAB_COLL_STAT0 [c] Fld.FAB_COLL_STAT0_state

/-- A plan disarms itself. -/
def disarm (d : Dev) (c : Nat) : Dev :=
  wrReg d Reg.FAB_COLL [c, 0] (rdReg d Reg.FAB_COLL [c, 0] &&& 0xFFFFDFFF)

/-- A running plan. -/
def planAt (d : Dev) (c : Nat) : Option Plan := Sparse.find d.fab.plans c

/-- Change it. -/
def setPlan (d : Dev) (c : Nat) (x : Plan) : Dev := { d with fab := { d.fab with plans := Sparse.put d.fab.plans c x } }

/-- The record of a running plan. -/
def Plan.r (x : Plan) : PlanRec := planRecOf x.recd

/-! ### Lanes -/

/-- The fibres of a light engine that serve a direction. -/
def laneDir (d : Dev) (k dir : Nat) : List Nat := ((List.range 8).map (8 * k + ·)).filter (fun g => fibreDir d g == dir)

/-- The lanes of a dimension (R421). -/
def planLanes (d : Dev) (dim : Nat) : List Nat :=
  (List.range 16).filter (fun k => !(laneDir d k (1 + 2 * dim)).isEmpty && !(laneDir d k (2 + 2 * dim)).isEmpty)

/-- Set the state and status of a plan, as the traces of its dimension's light engines show. -/
def setPlanState (d : Dev) (c st status : Nat) : Dev :=
  let d := (planLanes d (planRec d c).dim).foldl (fun d k => traceEv d (36 + k) 0x24 9 0 (c + 2 ^ 8 * st + 2 ^ 12 * status)) d
  fset (fset d Reg.FAB_COLL_STAT0 [c] Fld.FAB_COLL_STAT0_state st) Reg.FAB_COLL_STAT0 [c] Fld.FAB_COLL_STAT0_status status

/-- A plan uses a ring: 0 for +, 1 for −. -/
def ringUsed (r : PlanRec) (ring : Nat) : Bool := tbit r.dirs ring && decide (1 < r.size)

/-- An all-gather through Gaps with a Gap in its way (R431). -/
def gapped (r : PlanRec) : Bool := r.kind == 3 && r.size == 4

/-- The fibres of a lane that a plan sends on along a ring, at most four: the first two of an XAG ring of four (Table 12.11). -/
def sendFibres (d : Dev) (r : PlanRec) (k ring : Nat) : List Nat :=
  let dir := 1 + 2 * r.dim + ring
  if gapped r then ((laneDir d k dir).take 2).filter (usable d) else ((laneDir d k dir).filter (usable d)).take 4

/-- The usable fibres of a lane that a ring's data arrives on. -/
def recvFibres (d : Dev) (r : PlanRec) (k ring : Nat) : List Nat := sendFibres d r k (1 - ring)

/-- The four fibres of a lane that the paths of Table 12.11 use: the two senders (F2, F6) and the two receivers (F3, F7). -/
def pathFibres (d : Dev) (r : PlanRec) (k : Nat) : List Nat :=
  let a := laneDir d k (1 + 2 * r.dim)
  let b := laneDir d k (2 + 2 * r.dim)
  [a.getD 2 0, b.getD 2 0, a.getD 3 0, b.getD 3 0]

/-- The rings of a plan. -/
def planRings (r : PlanRec) : List Nat := [0, 1].filter (ringUsed r)

/-- Every fibre of a plan, as (ring, fibre). -/
def planFibres (d : Dev) (r : PlanRec) (lanes : List Nat) : List (Nat × Nat) :=
  (lanes.map (fun k =>
    ((planRings r).map (fun ring =>
      (sendFibres d r k ring).map (fun g => (ring, g)) ++ (recvFibres d r k ring).map (fun g => (4, g)))).flatten ++
    (if gapped r then
      match pathFibres d r k with
      | [a, b, x, y] => [(5, a), (6, b), (4, x), (4, y)]
      | _ => []
    else []))).flatten

/-- The fibres that a running plan sends on in a lane along a ring, by rank. -/
def Plan.sends (x : Plan) (ring k : Nat) : List Nat := (x.fibres.filter (fun f => f.1 == ring && f.2 / 8 == k)).map (·.2)

/-- A raw channel of the feed of a light engine is broken (R275, R420). -/
def feedBroken (d : Dev) (k : Nat) : Bool :=
  let n := fget d Reg.FAB_PL_CFG [] Fld.FAB_PL_CFG_feed_bundles
  (if n = 1 then [2] else [1, 2]).any (fun j =>
    let x : BundleEnd := .le (Fin.ofNat 16 k) (Fin.ofNat 3 j)
    (fei d x).broken || (match farEnd x with | some y => (fei d y).broken | none => false))

/-- Why a plan fails at its start (R421, R275): 0 for no reason. -/
def startReason (d : Dev) (r : PlanRec) (lanes : List Nat) : Nat :=
  if (planRings r).isEmpty then 0
  else if lanes.isEmpty || lanes.any (fun k => (planRings r).any (fun ring =>
      (sendFibres d r k ring).isEmpty || (recvFibres d r k ring).isEmpty) ||
      (gapped r && (decide ((laneDir d k (1 + 2 * r.dim)).length < 4) || decide ((laneDir d k (2 + 2 * r.dim)).length < 4)))) then 3
  else if (planFibres d r lanes).any (fun f => lqOq1 d f.2) then 2
  else if lanes.any (feedBroken d) then 5
  else 0

/-! ### Flits and chunks (R424) -/

/-- Elements of a flit. -/
def flitElems (r : PlanRec) : Nat := if r.fmt = 0xC then 12 else 72

/-- Flits of the array. -/
def planFlits (r : PlanRec) : Nat := ceilDiv r.elems (flitElems r)

/-- The first flit of a chunk. -/
def chunkLo (r : PlanRec) (c : Nat) : Nat := c * planFlits r / r.size

/-- The flits of a chunk. -/
def chunkLen (r : PlanRec) (c : Nat) : Nat := chunkLo r (c + 1) - chunkLo r c

/-- Both rings carry different flits: even positions + and odd positions − (R424), save on an XAG ring of three or four (R431). -/
def splitRings (r : PlanRec) : Bool := r.dirs == 3 && !(r.kind == 3 && decide (3 ≤ r.size))

/-- Flits of a chunk on a ring. -/
def ringLen (r : PlanRec) (ring c : Nat) : Nat :=
  if splitRings r then (chunkLen r c + 1 - ring) / 2 else chunkLen r c

/-- The flit of the array that is flit j of a ring's part of a chunk. -/
def ringFlit (r : PlanRec) (ring c j : Nat) : Nat := chunkLo r c + (if splitRings r then 2 * j + ring else j)

/-- The position of a node. -/
def planPos (r : PlanRec) : Nat := r.pos % r.size

/-- The chunks that arrive on a ring in reduce-scatter, in order (R425). -/
def rsChunks (r : PlanRec) (ring : Nat) : List Nat :=
  (List.range (r.size - 1)).map (fun i =>
    if ring = 0 then (planPos r + 2 * r.size - 2 - i) % r.size else (planPos r + 2 + i) % r.size)

/-- The chunks that arrive on a ring in all-gather, in order (R426). -/
def agChunks (r : PlanRec) (ring : Nat) : List Nat :=
  (List.range (r.size - 1)).map (fun i =>
    if ring = 0 then (planPos r + 2 * r.size - 1 - i) % r.size else (planPos r + 1 + i) % r.size)

/-- What arrives on a ring: (in reduce-scatter, chunk). An XAG ring brings its neighbour's chunk alone. -/
def arrivals (r : PlanRec) (ring : Nat) : List (Bool × Nat) :=
  let rs := (rsChunks r ring).map (fun c => (true, c))
  let ag := (agChunks r ring).map (fun c => (false, c))
  match r.kind with
  | 0 => rs
  | 1 => ag
  | 2 => rs ++ ag
  | _ => ag.take 1

/-- Flits that a plan takes from its rings, in reduce-scatter or in all. -/
def ringTotal (r : PlanRec) (rsOnly : Bool) : Nat :=
  ((planRings r).map (fun ring =>
    (((arrivals r ring).filter (fun a => !rsOnly || a.1)).map (fun a => ringLen r ring a.2)).foldl (· + ·) 0)).foldl (· + ·) 0

/-- All the flits that a plan takes; through Gaps also the chunk two positions away (R431). -/
def planTotal (r : PlanRec) : Nat :=
  ringTotal r false + (if gapped r then chunkLen r ((planPos r + 2) % 4) else 0)

/-- Flits of a chunk of `n` on one fibre of a lane, by the striping of R424. -/
def onFibre (n nl lane rank f : Nat) : Nat :=
  if n ≤ lane + nl * rank then 0 else (n - 1 - lane - nl * rank) / (nl * f) + 1

/-- Where the n-th flit of a fibre belongs: (in reduce-scatter, chunk, j). -/
def locate (r : PlanRec) (ring nl lane rank f : Nat) : List (Bool × Nat) → Nat → Option (Bool × Nat × Nat)
  | [], _ => none
  | a :: as, n =>
    let m := onFibre (ringLen r ring a.2) nl lane rank f
    if n < m then some (a.1, a.2, lane + nl * (rank + f * n)) else locate r ring nl lane rank f as (n - m)

/-! ### Elements (R424, R427) -/

/-- Bytes of an element in memory. -/
def memElem (r : PlanRec) : Nat := if r.fmt = 0xC then 24 else if r.fmt = 1 then 2 else 4

/-- Bytes of an element on its way. -/
def wayElem (r : PlanRec) : Nat := if r.fmt = 0xC then 24 else 4

/-- Real elements of a flit. -/
def realElems (r : PlanRec) (q : Nat) : Nat := min (flitElems r) (r.elems - q * flitElems r)

/-- Split bytes into elements of `w` bytes. -/
def splitElems (w : Nat) (n : Nat) (b : List Byte) : List (List Byte) := (List.range n).map (fun i => slice b (w * i) w)

/-- A contribution on its way: BF16 as FP32, EX128 at the plan's window. -/
def wayOf (r : PlanRec) (w : Int) (b : List Byte) : List Byte :=
  if r.fmt = 1 then leBytes 4 (leNat b * 65536)
  else if r.fmt = 0xC then exBytes (exRealign (exOfBytes b) w)
  else b

/-- A result as memory holds it: BF16 rounded to nearest even. -/
def memOf (r : PlanRec) (b : List Byte) : List Byte :=
  if r.fmt = 1 then leBytes 2 (convNum .bf16 .rne false (some 0) 0 (fp32Num (leNat b))) else b

/-- The identity of the operator, which padding holds. -/
def identityElem (r : PlanRec) (w : Int) : List Byte :=
  if r.fmt = 0xC then exBytes { i := if r.op = 0 then 0 else if r.op = 1 then exMin else exMax, w := w }
  else if r.fmt = 0xD then leBytes 4 (if r.op = 0 then 0 else if r.op = 1 then 0x80000000 else 0x7FFFFFFF)
  else leBytes 4 (if r.op = 0 then 0 else if r.op = 1 then 0xFF800000 else 0x7F800000)

/-- An operator on the passing element and a contribution (Table 12.10), and whether an INT32 sum saturated. -/
def mergeElem (r : PlanRec) (w : Int) (a b : List Byte) : List Byte × Bool :=
  if r.fmt = 0xC then
    let x := exOfBytes a
    let y := exOfBytes b
    (exBytes (if r.op = 0 then exAdd { x with w := w } y else if r.op = 1 then exMaxOf w x y else exMinOf w x y), false)
  else if r.fmt = 0xD then
    let x := signed 32 (leNat a)
    let y := signed 32 (leNat b)
    let s := if r.op = 0 then x + y else if r.op = 1 then max x y else min x y
    let z := clampInt (-2147483648) 2147483647 s
    (leBytes 4 (unsigned 32 z), z != s)
  else
    let x := leNat a
    let y := leNat b
    (leBytes 4 (if r.op = 0 then fp32Add x y else if r.op = 1 then laneMax .fp32 x y else laneMin .fp32 x y), false)

/-- The flags of an element that is written. -/
def elemFlags (r : PlanRec) (b : List Byte) : XFlags :=
  if r.fmt = 0xC then (exOfBytes b).flags
  else if r.fmt = 0xD then .none
  else .ofNum (fp32Num (leNat (if r.fmt = 1 then leBytes 4 (leNat (memOf r b) * 65536) else b)))

/-! ### Memory -/

/-- The requester that a plan of slot c is, in a light engine: it belongs to the partition of its slot (R452, R457). -/
def planReq (c k : Nat) : Requester := { src := .light (Fin.ofNat 16 k), part := some (c / 16) }

/-- Read a flit's elements from an array, as they travel; padding holds the identity. -/
def readFlit (e : Env) (d : Dev) (c : Nat) (x : Plan) (base k q : Nat) : Option (List (List Byte)) × Dev :=
  let r := x.r
  let n := realElems r q
  match pkgRead e d (planReq c k) (base + q * flitElems r * memElem r) (n * memElem r) with
  | (.error _, d) => (none, d)
  | (.ok b, d) =>
    (some ((splitElems (memElem r) n b).map (wayOf r x.window) ++
      List.replicate (flitElems r - n) (identityElem r x.window)), d)

/-- Write a flit's real elements to the result array; the flags of what is written are gathered. -/
def writeFlit (e : Env) (d : Dev) (c : Nat) (k q : Nat) (es : List (List Byte)) : Bool × Dev :=
  match planAt d c with
  | none => (false, d)
  | some x =>
    let r := x.r
    let n := realElems r q
    let real := es.take n
    match pkgWrite e d (planReq c k) (r.outAddr + q * flitElems r * memElem r) ((real.map (memOf r)).flatten)
        (allEnabled (n * memElem r)) with
    | (some _, d) => (false, d)
    | (none, d) =>
      (true, setPlan d c { x with flags := (real.map (elemFlags r)).foldl XFlags.or x.flags })

/-- Count a contribution read and merged (R430). -/
def countBooks (d : Dev) (c : Nat) : Dev :=
  fincWrap (fincWrap d Reg.FAB_COLL_STAT1 [c] Fld.FAB_COLL_STAT1_injected 1) Reg.FAB_COLL_STAT2 [c] Fld.FAB_COLL_STAT2_merged 1

/-! ### Slips, failure and barriers -/

/-- Queue a plan's control slip; its producer waits where R372 says so, in the queue. -/
def planSlip (d : Dev) (g code arg value : Nat) : Dev :=
  let q := getLq d g
  setLq d g { q with slips := q.slips ++ [ctlSlip d g code arg value] }

/-- The first usable fibre of a direction over the lanes of a dimension. -/
def ringFibre (d : Dev) (dim ring : Nat) : Option Nat :=
  (((planLanes d dim).map (fun k => laneDir d k (1 + 2 * dim + ring))).flatten).find? (usable d)

/-- Tell the neighbour along a ring that a plan failed (R429). -/
def sendAbort (d : Dev) (c : Nat) (r : PlanRec) (status ring : Nat) : Dev :=
  match ringFibre d r.dim ring with
  | some g => planSlip d g 0x2 c (r.gen + 256 * status)
  | none => d

/-- The Gap configuration of a lane of Table 12.11: output F3 from input F6, output F7 from input F2. -/
def xagCfg (fs : List Nat) : Nat :=
  match fs with
  | [a, b, x, y] => (8 + b % 8) * 16 ^ (x % 8) + (8 + a % 8) * 16 ^ (y % 8)
  | _ => 0

/-- Give a lane's Gap and path commands for an instant (Table 12.12 steps 3 and 7): false where one is refused or discarded. -/
def xagLane (d : Dev) (r : PlanRec) (k : Nat) (go : Bool) (at_ : Option Nat) : Bool × Dev :=
  match pathFibres d r k with
  | [a, b, x, y] =>
    let g := gapCommand d k (if go then xagCfg [a, b, x, y] else 0) at_
    let d := if go then fset (fset g.2 Reg.LQ_PATH_DLY (lqIx x) Fld.LQ_PATH_DLY_delay_ns r.dlyM) Reg.LQ_PATH_DLY (lqIx y)
      Fld.LQ_PATH_DLY_delay_ns r.dlyP else g.2
    [(a, 1), (b, 1), (x, 2), (y, 2)].foldl (fun s p =>
      let t := askPath s.2 p.1 (if go then p.2 else 0) 2 at_
      (s.1 && t.1, t.2)) (g.1, d)
  | _ => (false, d)

/-- The commands of every lane; a refusal fails the plan with GAP (R429). -/
def xagCommands (d : Dev) (c : Nat) (x : Plan) (go : Bool) (at_ : Option Nat) : Dev :=
  if !(gapped x.r) then d
  else
    let s := x.lanes.foldl (fun (s : Bool × Dev) k =>
      let t := xagLane s.2 x.r k go at_
      (s.1 && t.1, t.2)) (true, d)
    if s.1 then s.2
    else match planAt s.2 c with
      | some y => setPlan s.2 c { y with failed := some (y.failed.getD 12) }
      | none => s.2

/-- Send a barrier slip on the + ring (Table 12.2). -/
def sendBar (d : Dev) (c : Nat) (r : PlanRec) (pass late value : Nat) : Dev :=
  match ringFibre d r.dim 0 with
  | some g => planSlip d g 0x3 (c + 256 * pass + 1024 * late) value
  | none => d

/-- The leader, ready for the second barrier, opens it (R432). -/
def openSecond (d : Dev) (c : Nat) (x : Plan) : Dev :=
  if x.r.kind = 3 ∧ planPos x.r = 0 ∧ x.bar = 1 then sendBar (setPlan d c { x with bar := 2 }) c x.r 1 1 0 else d

/-- A plan ends with a failure (R429): its status, done_ctr poisoned, PL_ABORT along the rings given, its data dropped. -/
def planEnd (d : Dev) (c status : Nat) (rings : List Nat) : Dev :=
  match planAt d c with
  | none =>
    let r := planRec d c
    rings.foldl (fun d ring => sendAbort d c r status ring) (disarm (setPlanState (ctrPoison d r.doneCtr) c 5 status) c)
  | some x =>
    let d := x.opens.foldl (fun d o =>
      let q := getLq d o.2.1
      let mine := q.rxCells.filter (fun b => b.1 == 2)
      setLq d o.2.1 { q with rxCells := q.rxCells.filter (fun b => b.1 != 2), freed := add4 q.freed 2 mine.length }) d
    let d := disarm (setPlanState (ctrPoison d x.r.doneCtr) c 5 status) c
    let d := { d with fab := { d.fab with plans := Sparse.del d.fab.plans c } }
    rings.foldl (fun d ring => sendAbort d c x.r status ring) d

/-- A plan fails (R429): through Gaps, once they were asked for, only after the second barrier (R432). -/
def planFail (d : Dev) (c status : Nat) (rings : List Nat) : Dev :=
  match planAt d c with
  | some x =>
    if x.r.kind = 3 ∧ 1 ≤ x.bar then
      let x := { x with failed := some (x.failed.getD status) }
      openSecond (setPlan d c x) c x
    else planEnd d c status rings
  | none => planEnd d c status rings

/-- The rings along which a plan tells of its failure. -/
def abortRings (d : Dev) (c : Nat) : List Nat :=
  planRings (match planAt d c with | some x => x.r | none => planRec d c)

/-! ### Sending -/

/-- Queue a flit of a ring's chunk on its lane and fibre (R424). -/
def sendVc2 (d : Dev) (x : Plan) (ring j : Nat) (es : List (List Byte)) : Dev :=
  let nl := x.lanes.length
  let fs := x.sends ring (x.lanes.getD (j % nl) 0)
  queueCell d (fs.getD (j / nl % fs.length) 0) 2 false es.flatten

/-- The lane that works on flit j. -/
def laneFlit (x : Plan) (j : Nat) : Nat := x.lanes.getD (j % max 1 x.lanes.length) 0

/-- Read a chunk from an array and send it along a ring; in reduce-scatter each flit read is merged (R425, R426, R430). -/
def sendChunk (e : Env) (d : Dev) (c : Nat) (x : Plan) (rs : Bool) (ring chunk : Nat) : Dev :=
  let base := if rs then x.r.inAddr else x.r.outAddr
  ((List.range (ringLen x.r ring chunk)).foldl (fun (s : Bool × Dev) j =>
    if !s.1 then s
    else match readFlit e s.2 c x base (laneFlit x j) (ringFlit x.r ring chunk j) with
      | (none, d) => (false, planFail d c 11 (abortRings d c))
      | (some es, d) => (true, sendVc2 (if rs then countBooks d c else d) x ring j es)) (true, d)).2

/-- A ring of one: its result is its own contribution (R425). -/
def aloneRs (e : Env) (d : Dev) (c : Nat) (x : Plan) : Dev :=
  ((List.range (planFlits x.r)).foldl (fun (s : Bool × Dev) q =>
    if !s.1 then s
    else match readFlit e s.2 c x x.r.inAddr (laneFlit x q) q with
      | (none, d) => (false, planFail d c 11 [])
      | (some es, d) =>
        let w := writeFlit e (countBooks d c) c (laneFlit x q) q es
        if w.1 then w else (false, planFail w.2 c 11 [])) (true, d)).2

/-- The first sends of a plan (R423, R425, R426): reduce-scatter originates the neighbour's chunk, all-gather its own. -/
def firstSends (e : Env) (d : Dev) (c : Nat) (x : Plan) : Dev :=
  let p := planPos x.r
  let n := x.r.size
  if n = 1 then (if x.r.kind = 0 ∨ x.r.kind = 2 then aloneRs e d c x else d)
  else if x.r.kind = 3 then d
  else (planRings x.r).foldl (fun d ring =>
    if (planAt d c).isNone then d
    else if x.r.kind = 1 then sendChunk e d c x false ring p
    else sendChunk e d c x true ring (if ring = 0 then (p + n - 1) % n else (p + 1) % n)) d

/-! ### Commands -/

/-- Why a plan is not armed (R422). -/
def armRefused (d : Dev) (b : List Byte) : Bool :=
  let r := planRecOf b
  planReserved b r || !(r.fmt == 0 || r.fmt == 1 || r.fmt == 0xC || r.fmt == 0xD) ||
    (!(tableMode d) && (r.size != dimSize d r.dim || r.pos != dimCoord d r.dim || !(isRing d r.dim))) ||
    (r.kind == 3 && (decide (4 < r.size) || r.dirs != 3 || (planLanes d r.dim).any (conservative d))) ||
    fget d Reg.FAB_PL_CFG [] Fld.FAB_PL_CFG_feed_bundles == 0

/-- A write of a word of a plan record (R422). -/
def planWrite (d : Dev) (c word : Nat) (data : Word) : Dev :=
  let armed := (planRec d c).arm
  if armed ∧ ¬(word = 0 ∧ tbit data.toNat 13 = false) then d
  else
    let d := wrReg d Reg.FAB_COLL [c, word] data
    if armed then (if planState d c = 1 ∨ planState d c = 2 then setPlanState d c 0 0 else d)
    else if word = 0 ∧ tbit data.toNat 13 then
      if armRefused d (planBytes d c) then setPlanState (disarm d c) c 5 1 else setPlanState d c 1 0
    else d

/-- PLAN_ARM (R422): a write of a word of a plan record, word 0 with arm among them. -/
def execPlanArm (p : Path) (c : BitVec 8) (word : Fin 16) (data : Word) (s : State) : Host.Outcome State Fault Refusal :=
  s.run (fun _ d => if portHalted d p then d else
    if pathOwns d p (some (c.toNat / 16)) then planWrite d c.toNat word.val data
    else regEvent d p (Reg.FAB_COLL.key [c.toNat, word.val]))

/-- The window that a plan starts with (R59, R423). -/
def planWindow (e : Env) (d : Dev) (c : Nat) (r : PlanRec) (k : Nat) (resp : Resp) : Option Int × Dev :=
  if !r.record then (some (signed 16 (r.window % 2 ^ 16)), d)
  else match resp with
    | .err _ => (none, d)
    | .ok => match pkgRead e d (planReq c k) r.window 16 with
      | (.ok b, d) => (some (winRecOf b).w, d)
      | (.error _, d) => (none, d)

/-- A plan starts (R423). -/
def planBegin (e : Env) (d : Dev) (c : Nat) (resp : Resp) : Dev :=
  let b := planBytes d c
  let r := planRecOf b
  let lanes := planLanes d r.dim
  let d := setPlanState (wrReg d Reg.FAB_COLL_STAT0 [c] 0) c 3 0
  let d := wrReg (wrReg (wrReg d Reg.FAB_COLL_STAT1 [c] 0) Reg.FAB_COLL_STAT2 [c] 0) Reg.FAB_COLL_STAT3 [c] 0
  let why := startReason d r lanes
  if why ≠ 0 then planEnd d c why (planRings r)
  else match planWindow e d c r (lanes.getD 0 0) resp with
    | (none, d) => planEnd d c 10 (planRings r)
    | (some w, d) =>
      let x : Plan := { recd := b, start := d.tb, window := w, lanes := lanes, fibres := planFibres d r lanes }
      let d := setPlan d c x
      let d := (planRings r).foldl (fun d ring => lanes.foldl (fun d k =>
        let fs := x.sends ring k
        (List.range fs.length).foldl (fun d i =>
          planSlip d (fs.getD i 0) 0x1 (c + 256 * ring) (r.gen + 256 * i + 1024 * fs.length)) d) d) d
      let d := if r.kind = 3 ∧ planPos r = 0 ∧ 1 < r.size then sendBar d c r 1 0 0 else d
      firstSends e d c x

/-- PLAN_START (R423): the trigger counter has reached its value; while another plan of the dimension runs, the plan waits. -/
def execPlanStart (c : BitVec 8) (resp : Resp) (ext : List Byte) (s : State) : Host.Outcome State Fault Refusal :=
  s.run (fun e d =>
    let c := c.toNat
    let r := planRec d c
    let d := { d with extIn := ext }
    if (planState d c = 1 ∨ planState d c = 2) ∧ r.trigVal ≤ (getCtr d r.trigCtr).value then
      if d.fab.plans.any (fun p => p.2.r.dim == r.dim) then setPlanState d c 2 0 else planBegin e d c resp
    else d)

/-- PL_OPEN (R424): the first PL_OPEN of the fibre that names the running plan; any other is held. -/
def execPlOpen (g : Fin 128) (s : State) : Host.Outcome State Fault Refusal :=
  s.run (fun _ d =>
    let mine (w : Nat) : Bool := match planAt d (bits w 27 20) with
      | some x => x.r.gen == bits w 39 32
      | none => false
    match takeSlip d g.val (fun x => x.1 == 2 && bits x.2 19 16 == 1 && mine x.2) with
    | none => d
    | some (w, d) =>
      let c := bits w 27 20
      match planAt d c with
      | none => d
      | some x => setPlan d c { x with
          opens := x.opens.filter (fun o => o.2.1 != g.val) ++ [(bits w 28 28, g.val, bits w 41 40, max 1 (bits w 44 42))] })

/-- A flit of a chunk in reduce-scatter (R425, R430). -/
def rsFlit (e : Env) (d : Dev) (c : Nat) (x : Plan) (ring chunk j : Nat) (es : List (List Byte)) : Dev :=
  let r := x.r
  let q := ringFlit r ring chunk j
  let k := laneFlit x j
  match readFlit e d c x r.inAddr k q with
  | (none, d) => planFail d c 11 (abortRings d c)
  | (some own, d) =>
    let n := realElems r q
    let m := ((es.take n).zip own).map (fun p => mergeElem r x.window p.1 p.2)
    let out := m.map (·.1) ++ es.drop n
    let d := countBooks d c
    let d := if m.any (·.2) then
        match planAt d c with | some y => setPlan d c { y with sat := true } | none => d
      else d
    if chunk = planPos r then
      let w := writeFlit e d c k q out
      if w.1 then w.2 else planFail w.2 c 11 (abortRings d c)
    else sendVc2 d x ring j out

/-- A flit of a chunk in all-gather (R426). -/
def agFlit (e : Env) (d : Dev) (c : Nat) (x : Plan) (ring chunk j : Nat) (es : List (List Byte)) : Dev :=
  let r := x.r
  let w := writeFlit e d c (laneFlit x j) (ringFlit r ring chunk j) es
  let last := if ring = 0 then (planPos r + 1) % r.size else (planPos r + r.size - 1) % r.size
  if !w.1 then planFail w.2 c 11 (abortRings d c)
  else if r.kind = 3 ∨ chunk = last then w.2
  else sendVc2 w.2 x ring j es

/-- After a flit: it is counted; an all-reduce whose reduce-scatter is complete begins its all-gather (R426); the leader of an
XAG ring that has its chunks opens the second barrier. -/
def flitTaken (e : Env) (d : Dev) (c ring g : Nat) : Dev :=
  match planAt d c with
  | none => d
  | some x =>
    let key := 256 * ring + g
    let x := { x with rxCount := Sparse.set 0 x.rxCount key (Sparse.get 0 x.rxCount key + 1), got := x.got + 1 }
    let d := setPlan d c x
    if x.r.kind = 2 ∧ x.gathered = false ∧ x.got = ringTotal x.r true then
      let x := { x with gathered := true }
      (planRings x.r).foldl (fun d ring =>
        if (planAt d c).isNone then d else sendChunk e d c x false ring (planPos x.r)) (setPlan d c x)
    else if x.got = planTotal x.r then openSecond d c x else d

/-- The running plan that a fibre's path carries (Table 12.11): its slot, 0 for the even flits at F7 and 1 for the odd at F3. -/
def pathPlan (d : Dev) (g : Nat) : Option (Nat × Nat) :=
  (d.fab.plans.find? (fun p => gapped p.2.r && p.2.lanes.contains (g / 8) &&
    ((pathFibres d p.2.r (g / 8)).drop 2).contains g)).map
    (fun p => (p.1, if (pathFibres d p.2.r (g / 8)).getD 2 0 = g then 1 else 0))

/-- A flit of a through path: it belongs to the chunk two positions away (R431). -/
def pathFlit (e : Env) (d : Dev) (c odd g : Nat) (x : Plan) : Dev :=
  let q := getLq d g
  let r := x.r
  let chunk := (planPos r + 2) % 4
  if q.pathLost ≠ [] then
    let d := fset (setLq d g { q with pathLost := [] }) Reg.FAB_COLL_STAT3 [c] Fld.FAB_COLL_STAT3_lost
      (min 0xFFFF (fget d Reg.FAB_COLL_STAT3 [c] Fld.FAB_COLL_STAT3_lost + q.pathLost.length))
    planFail d c 8 (abortRings d c)
  else match q.rxPath with
    | [] => d
    | f :: fs =>
      let d := setLq d g { q with rxPath := fs }
      let i := Sparse.get 0 x.rxCount (512 + g)
      let lane := (lowest x.lanes.length (fun l => x.lanes.getD l 0 == g / 8)).getD 0
      let j := 2 * (lane + x.lanes.length * i) + odd
      if chunkLen r chunk ≤ j then d
      else
        let w := writeFlit e d c (g / 8) (chunkLo r chunk + j) (splitElems (wayElem r) (flitElems r) f.2)
        if w.1 then flitTaken e w.2 c 2 g else planFail w.2 c 11 (abortRings d c)

/-- PLEACH_FLIT (R425, R426, R431): the next VC2 flit of a fibre, or of a through path, reaches Pleach. One that the plan cannot take yet
waits; one of no running plan, with no PL_OPEN held, is dropped. -/
def execPleachFlit (g : Fin 128) (ext : List Byte) (s : State) : Host.Outcome State Fault Refusal :=
  s.run (fun e d =>
    let g := g.val
    let d := { d with extIn := ext }
    match pathPlan d g with
    | some (c, odd) => match planAt d c with | some x => pathFlit e d c odd g x | none => d
    | none =>
      match d.fab.plans.find? (fun p => p.2.opens.any (fun o => o.2.1 == g)) with
      | none =>
        if (getLq d g).rxSlips.any (fun x => x.1 == 2 && bits x.2 19 16 == 1) then d
        else match takePayload d g 2 with | some (_, d) => d | none => d
      | some (c, x) =>
        match x.opens.find? (fun o => o.2.1 == g) with
        | none => d
        | some (ring, _, rank, f) =>
          let lane := (lowest x.lanes.length (fun l => x.lanes.getD l 0 == g / 8)).getD 0
          match locate x.r ring x.lanes.length lane rank f (arrivals x.r ring) (Sparse.get 0 x.rxCount (256 * ring + g)) with
          | none => d
          | some (rs, chunk, j) =>
            if !rs && x.r.kind == 2 && !x.gathered then d
            else match takePayload d g 2 with
              | none => d
              | some (b, d) =>
                let es := splitElems (wayElem x.r) (flitElems x.r) b
                flitTaken e (if rs then rsFlit e d c x ring chunk j es else agFlit e d c x ring chunk j es) c ring g)

/-- Everything that a plan waits for has come (R428, Table 12.12 step 8). -/
def planComplete (d : Dev) (c : Nat) (x : Plan) : Bool :=
  let r := x.r
  let books := rdReg d Reg.FAB_COLL_STAT1 [c] == rdReg d Reg.FAB_COLL_STAT2 [c] &&
    ((r.kind != 0 && r.kind != 2) || (rdReg d Reg.FAB_COLL_STAT2 [c]).toNat == planFlits r)
  let home := !(gapped r) || x.lanes.all (fun k => (pathFibres d r k).all (fun g =>
    lqActive d g && lqStat d g Fld.LQ_STAT_path == 0 && !(fbit d Reg.LE_FIBRE (lqIx g) Fld.LE_FIBRE_rx_gap) &&
      !(fbit d Reg.LE_FIBRE (lqIx g) Fld.LE_FIBRE_tx_gap)))
  x.failed.isNone && x.got == planTotal r && books &&
    (r.kind != 3 || r.size == 1 || (x.bar == 3 && decide (x.tr ≤ d.tb) && home))

/-- PLAN_DONE (R428): done_ctr is raised, and the slot shows DONE with the flags of what was written. -/
def execPlanDone (c : BitVec 8) (s : State) : Host.Outcome State Fault Refusal :=
  s.run (fun _ d =>
    let c := c.toNat
    match planAt d c with
    | none => d
    | some x =>
      if planComplete d c x then
        let d := (ctrDo d none x.r.doneCtr 0 1).2
        let d := disarm (setPlanState d c 4 0) c
        let d := fset d Reg.FAB_COLL_STAT0 [c] Fld.FAB_COLL_STAT0_flags x.flags.toNat
        let d := fset d Reg.FAB_COLL_STAT0 [c] Fld.FAB_COLL_STAT0_sat (bit x.sat)
        { d with fab := { d.fab with plans := Sparse.del d.fab.plans c } }
      else d)

/-- Why a running plan fails now (R429): what is recorded, a broken feed, unbalanced books, or an error of a read or write that
the memory reports (`status` 11). -/
def failReason (d : Dev) (c status : Nat) (x : Plan) : Option Nat :=
  match x.failed with
  | some v => some v
  | none =>
    if x.lanes.any (feedBroken d) && decide (1 < x.r.size) then some 5
    else if x.got = planTotal x.r ∧ (x.r.kind = 0 ∨ x.r.kind = 2) ∧
      (rdReg d Reg.FAB_COLL_STAT2 [c]).toNat ≠ planFlits x.r then some 9
    else if status = 11 then some 11 else none

/-- PLAN_FAIL (R429): a running plan fails; through Gaps, after the return to LOCAL (R432). -/
def execPlanFail (c : BitVec 8) (status : Fin 16) (s : State) : Host.Outcome State Fault Refusal :=
  s.run (fun _ d =>
    let c := c.toNat
    match planAt d c with
    | none => d
    | some x =>
      match failReason d c status.val x with
      | none => d
      | some v =>
        if x.r.kind = 3 ∧ x.bar = 3 then (if x.tr ≤ d.tb then planEnd d c v (abortRings d c) else d)
        else planFail d c v (abortRings d c))

/-- PL_ABORT (R429): a plan with its slot and generation, armed or running, fails with PEER and sends it on in the same direction. -/
def execPlAbort (g : Fin 128) (s : State) : Host.Outcome State Fault Refusal :=
  s.run (fun _ d =>
    match takeCtl d g.val 0x2 with
    | none => d
    | some (w, d) =>
      let c := bits w 27 20
      let r := match planAt d c with | some x => x.r | none => planRec d c
      let st := planState d c
      if (st = 1 ∨ st = 2 ∨ st = 3) ∧ r.gen = bits w 39 32 then
        planFail d c 6 [if throughDir d g.val = 1 + 2 * r.dim then 0 else 1]
      else d)

/-- The time limit of a plan passes, or its partition is reset (R429, R432): the Gaps return to LOCAL first. -/
def planTimeout (d : Dev) (c : Nat) : Dev :=
  match planAt d c with
  | none => d
  | some x =>
    let rings := abortRings d c
    let d := if x.r.kind = 3 ∧ 1 ≤ x.bar ∧ x.bar < 3 then xagCommands d c x false none else d
    planEnd d c (x.failed.getD 7) rings

/-- PLAN_LIMIT_EXPIRY (R429). -/
def execPlanLimitExpiry (c : BitVec 8) (s : State) : Host.Outcome State Fault Refusal :=
  s.run (fun _ d => match planAt d c.toNat with
    | some x => if x.r.limit = 0 then d else planTimeout d c.toNat
    | none => d)

/-- The first time after now whose low 32 bits match a value (R432). -/
def nextInstant (now v : Nat) : Nat := now + 1 + (v + 2 ^ 32 - (now + 1) % 2 ^ 32) % 2 ^ 32

/-- A release instant takes force at a node (Table 12.12 steps 3 and 7). -/
def barRelease (d : Dev) (c : Nat) (x : Plan) (late : Bool) (t : Nat) : Dev :=
  let x := if late then { x with bar := 3, tr := t } else { x with bar := 1, tg := t }
  xagCommands (setPlan d c x) c x (!late) (some t)

/-- A node of a running XAG plan is ready for a barrier: the first at once, the second with its chunks or a failure (R432). -/
def barReady (x : Plan) (late : Bool) : Bool :=
  if late then decide (1 ≤ x.bar) && (x.failed.isSome || x.got == planTotal x.r) else x.bar == 0

/-- PL_BAR (R432): the first barrier slip of the fibre that a running plan is ready for; the leader ends a gather circuit by
setting the release instant, and absorbs a release circuit. -/
def execPlBar (g : Fin 128) (s : State) : Host.Outcome State Fault Refusal :=
  s.run (fun _ d =>
    let ok (w : Nat) : Bool := match planAt d (bits w 27 20) with
      | some x => x.r.kind == 3 && (bits w 29 28 == 2 || (bits w 29 28 == 1 && barReady x (tbit w 30)))
      | none => false
    match takeSlip d g.val (fun x => x.1 == 2 && bits x.2 19 16 == 3 && ok x.2) with
    | none => d
    | some (w, d) =>
      let c := bits w 27 20
      let late := tbit w 30
      match planAt d c with
      | none => d
      | some x =>
        let leader := planPos x.r = 0
        if bits w 29 28 = 1 then
          if leader then
            let t := d.tb + fget d Reg.FAB_PL_CFG [] Fld.FAB_PL_CFG_guard_ns
            sendBar (barRelease d c x late t) c x.r 2 (bit late) (t % 2 ^ 32)
          else sendBar d c x.r 1 (bit late) 0
        else if leader then d
        else
          let v := bits w 63 32
          sendBar (barRelease d c x late (nextInstant d.tb v)) c x.r 2 (bit late) v)

/-- Read a chunk and send it through Gaps (Table 12.11): even flits on F2, odd on F6. -/
def sendPaths (e : Env) (d : Dev) (c : Nat) (x : Plan) : Dev :=
  let r := x.r
  let own := planPos r
  ((List.range (chunkLen r own)).foldl (fun (s : Bool × Dev) j =>
    if !s.1 then s
    else
      let k := x.lanes.getD (j / 2 % max 1 x.lanes.length) 0
      match readFlit e s.2 c x r.outAddr k (chunkLo r own + j) with
      | (none, d) => (false, planFail d c 11 (abortRings d c))
      | (some es, d) => (true, queueCell d ((x.sends (5 + j % 2) k).getD 0 0) 2 false es.flatten)) (true, d)).2

/-- XAG_SEND_START (R432, Table 12.12 step 5): settle after T_g, Pleach sends its chunk on the home links and the paths. -/
def execXagSendStart (c : BitVec 8) (ext : List Byte) (s : State) : Host.Outcome State Fault Refusal :=
  s.run (fun e d =>
    let c := c.toNat
    let d := { d with extIn := ext }
    match planAt d c with
    | none => d
    | some x =>
      let t := x.tg + 100 * fget d Reg.FAB_PL_CFG [] Fld.FAB_PL_CFG_settle
      if x.r.kind ≠ 3 ∨ x.bar = 0 ∨ x.gathered ∨ x.failed.isSome ∨ d.tb < t then d
      else
        let x := { x with gathered := true }
        let d := (planRings x.r).foldl (fun d ring => sendChunk e d c x false ring (planPos x.r)) (setPlan d c x)
        if gapped x.r then sendPaths e d c x else d)

end Sys2Proof.Machine
end

