-- ==== Sys2Proof/Machine/Privet.lean ====
section
/-!
DEFINITION. Guest sites and Privet (R280-R288): release, negotiation, the checks of every guest message, commits of the rule
table, the token bucket, and the kill of a site.
-/
namespace Sys2Proof.Machine

/-- Hidden state of a guest site. -/
def guest (d : Dev) (g : Nat) : Guest := Sparse.get {} d.guest g

/-- Change it. -/
def setGuest (d : Dev) (g : Nat) (x : Guest) : Dev := { d with guest := Sparse.set {} d.guest g x }

/-- The state of a guest site (Table 8.10). -/
def guestState (d : Dev) (g : Nat) : Nat := fget d Reg.PRV_STAT [g] Fld.PRV_STAT_state

/-- A guest die is mounted at the site (R2). -/
def guestMounted (e : Env) (g : Nat) : Bool := decide (g < e.fuses.guestPop)

/-- The UCIe interface of a site. -/
def guestEnd (g : Nat) : BundleEnd := .guest (Fin.ofNat 2 g)

/-- The words of a profile record in four registers. -/
def profWord (d : Dev) (r : RegDesc) (g : Nat) : Nat :=
  leNat ((List.range 4).flatMap (fun w => leBytes 4 (rdReg d r [g, w]).toNat))

/-- Store a profile record in PRV_PROF. -/
def setProf (d : Dev) (g v : Nat) : Dev :=
  (List.range 4).foldl (fun d w => wrReg d Reg.PRV_PROF [g, w] (low32 (v / 2 ^ (32 * w)))) d

/-- Requests of a guest die that have not completed at their homes. -/
def guestReqs (d : Dev) (g : Nat) : List HReq :=
  (d.coh.waiting ++ d.coh.txns.map (·.req)).filter (fun q => match q.src with | .guest h => h.val == g | _ => false)

/-- The commit in progress completes: busy clears and the generation rises (R286). -/
def commitDone (d : Dev) (g : Nat) : Dev :=
  if fbit d Reg.PRV_COMMIT [g] Fld.PRV_COMMIT_busy then
    let d := fset d Reg.PRV_COMMIT [g] Fld.PRV_COMMIT_busy 0
    fincWrap (setGuest d g { guest d g with old := [] }) Reg.PRV_COMMIT [g] Fld.PRV_COMMIT_generation 1
  else d

/-- A guest site is killed (R288, Table 8.13): reason 1 software, 2 NEGOTIATE, 3 PROTOCOL, 4 fence, 5 OWNER. Requests already
admitted complete at their homes; if coh was agreed the agent is lost. -/
def killGuest (e : Env) (d : Dev) (g reason : Nat) : Dev :=
  let st := guestState d g
  if st = 0 ∨ st = 4 then d
  else
    let coh := st == 3 && tbit (guest d g).agreed 26
    let d := commitDone d g
    let d := fset d Reg.PRV_STAT [g] Fld.PRV_STAT_state 4
    let d := fset d Reg.PRV_STAT [g] Fld.PRV_STAT_kill_reason reason
    let d := setFei d (guestEnd g) {}
    let d := setGuest d g {}
    let d := emit d (.guestMsg g 4 [])
    let d := if coh then loseAgent e d (10 + g) else d
    report d { source := 0x2B, unit := unitGuest g, stat := Reg.PRV_STAT.slot [g] }

/-- GUEST_KILL (R288): by a write of PRV_CTL.kill, a fence by Hawthorn, or a change of owner. -/
def execGuestKill (g : Fin 2) (reason : BitVec 4) (s : State) : Host.Outcome State Fault Refusal :=
  s.run (fun e d => killGuest e d g.val reason.toNat)

/-- A path may write the Privet registers of a site: MFW, the side-band, and the port of the owning partition (R291). -/
def privetPath (d : Dev) (p : Path) (g : Nat) : Bool := pathOwns d p (partOfGuest d g)

/-- Release a site from HELD into negotiation (R282); without an owning partition it stays, with reason OWNER. -/
def releaseGuest (e : Env) (d : Dev) (g : Nat) : Dev :=
  if guestState d g ≠ 1 ∨ !(guestMounted e g) then d
  else match partOfGuest d g with
    | none => fset d Reg.PRV_STAT [g] Fld.PRV_STAT_kill_reason 5
    | some q =>
      let d := fset d Reg.PRV_STAT [g] Fld.PRV_STAT_state 2
      let d := fset d Reg.PRV_STAT [g] Fld.PRV_STAT_part q
      let d := fset d Reg.PRV_CTL [g] Fld.PRV_CTL_release 1
      setGuest d g { step := 1 }

/-- PRV_RELEASE (R282): a write of PRV_CTL.release. -/
def execPrvRelease (p : Path) (g : Fin 2) (s : State) : Host.Outcome State Fault Refusal :=
  s.run (fun e d => if portHalted d p then d else if privetPath d p g.val then releaseGuest e d g.val
    else regEvent d p (Reg.PRV_CTL.key [g.val]))

/-- GUEST_UCIE_TRAINED (R282): the hub die sends PROFILE_REQ. -/
def execGuestUcieTrained (g : Fin 2) (s : State) : Host.Outcome State Fault Refusal :=
  s.run (fun _ d =>
    if guestState d g.val = 2 ∧ (guest d g.val).step = 1 then
      emit (setGuest d g.val { guest d g.val with step := 2 }) (.guestMsg g.val 1 [])
    else d)

/-- The agreed profile of an offer and a ceiling (R283, Table 8.11). -/
def agreeProfile (offer limit : Nat) : Nat :=
  let small (hi lo : Nat) : Nat := min (bits offer hi lo) (bits limit hi lo) * 2 ^ lo
  let both (hi lo : Nat) : Nat := (bits offer hi lo &&& bits limit hi lo) * 2 ^ lo
  let classes := bits offer 25 16 &&& bits limit 25 16
  let flags := both 29 26
  let flags := if classes % 32 = 31 then flags else flags - (bits flags 26 26) * 2 ^ 26
  bits offer 7 4 * 16 + small 3 0 + small 15 8 + classes * 2 ^ 16 + flags + small 43 32 + small 53 48

/-- The negotiation of an offer fails (R283): major revisions differ, or a class of 5, 6 and 7 is missing. -/
def profileFails (offer limit : Nat) : Bool :=
  bits offer 7 4 != bits limit 7 4 || bits (agreeProfile offer limit) 23 21 != 7

/-- PROFILE_ANSWER (R283). -/
def execProfileAnswer (g : Fin 2) (offer : BitVec 128) (s : State) : Host.Outcome State Fault Refusal :=
  s.run (fun e d =>
    if guestState d g.val = 2 ∧ (guest d g.val).step = 2 then
      let limit := profWord d Reg.PRV_LIMIT g.val
      if profileFails offer.toNat limit then killGuest e d g.val 2
      else
        let a := agreeProfile offer.toNat limit
        let d := setProf (setGuest d g.val { guest d g.val with step := 3, agreed := a }) g.val a
        emit d (.guestMsg g.val 2 (leBytes 16 a))
    else d)

/-- PROFILE_ACK (R283): the record acknowledged unchanged lets CREDIT_INIT and DISCOVER follow, and the site is ACTIVE. -/
def execProfileAck (g : Fin 2) (echo : BitVec 128) (s : State) : Host.Outcome State Fault Refusal :=
  s.run (fun e d =>
    let x := guest d g.val
    if guestState d g.val = 2 ∧ x.step = 3 then
      if echo.toNat ≠ x.agreed then killGuest e d g.val 2
      else
        let en := guestEnd g.val
        let burst := fget d Reg.PRV_RATE [g.val] Fld.PRV_RATE_burst
        let d := setGuest d g.val { x with step := 0, tokens := 64 * burst }
        let d := fset d Reg.PRV_STAT [g.val] Fld.PRV_STAT_state 3
        let depths := (List.range 10).flatMap (fun c => leBytes 2 (10 + Config.feiDepth (endKey en) c % 4086))
        let d := setFei d en { ctlq := [ctlArea 1 depths] }
        sendDiscover d en
    else d)

/-- NEGOTIATION_TIMEOUT (R283). -/
def execNegotiationTimeout (g : Fin 2) (s : State) : Host.Outcome State Fault Refusal :=
  s.run (fun e d => if guestState d g.val = 2 then killGuest e d g.val 2 else d)

/-! ### Rules -/

/-- A word of the active rules. -/
def ruleWord (d : Dev) (g i w : Nat) : Nat := (rdReg d Reg.PRV_RULE_ACT [g, 4 * i + w]).toNat

/-- Active rule i holds every byte of a range and permits the access (R285, Table 8.12): 0 read, 1 write, 2 atomic; `coh` for
coherent caching too. -/
def ruleAdmits (d : Dev) (g i a len perm : Nat) (coh : Bool) : Bool :=
  let w0 := ruleWord d g i 0
  let base := bits w0 31 12 * 2 ^ 12 + bits (ruleWord d g i 1) 19 0 * 2 ^ 32
  let limit := bits (ruleWord d g i 2) 31 12 * 2 ^ 12 + bits (ruleWord d g i 3) 19 0 * 2 ^ 32
  tbit w0 0 && decide (base ≤ a) && decide (a + len ≤ limit + 4096) && tbit w0 (1 + perm)
    && (!coh || (tbit w0 4 && tbit (guest d g).agreed 26))

/-- Some enabled rule admits a request. -/
def privetAdmits (d : Dev) (g a len perm : Nat) (coh : Bool) : Bool :=
  (List.range 32).any (fun i => ruleAdmits d g i a len perm coh)

/-- Switch to the shadow rules (R286). -/
def applyRules (d : Dev) (g : Nat) : Dev :=
  (List.range 128).foldl (fun d w => wrReg d Reg.PRV_RULE_ACT [g, w] (rdReg d Reg.PRV_RULE [g, w])) d

/-- A write of PRV_COMMIT.commit (R286): applied between two checks, or discarded with a class C0 event while busy. -/
def commitRules (d : Dev) (p : Path) (g : Nat) : Dev :=
  if fbit d Reg.PRV_COMMIT [g] Fld.PRV_COMMIT_busy then regEvent d p (Reg.PRV_COMMIT.key [g])
  else
    let d := fset (applyRules d g) Reg.PRV_COMMIT [g] Fld.PRV_COMMIT_busy 1
    setGuest d g { guest d g with old := guestReqs d g }

/-- PRV_COMMIT (R286). -/
def execPrvCommit (p : Path) (g : Fin 2) (s : State) : Host.Outcome State Fault Refusal :=
  s.run (fun _ d => if portHalted d p then d else if privetPath d p g.val then commitRules d p g.val
    else regEvent d p (Reg.PRV_COMMIT.key [g.val]))

/-- PRV_COMMIT_DRAINED (R286): every request admitted under the old table has completed. -/
def execPrvCommitDrained (g : Fin 2) (s : State) : Host.Outcome State Fault Refusal :=
  s.run (fun _ d =>
    if (guest d g.val).old.any (guestReqs d g.val).contains then d else commitDone d g.val)

/-! ### Messages of a guest die -/

/-- A header slot of a response to a guest die. -/
def guestReply (m : List Byte) (cls op err : Nat) : List Byte :=
  leBytes 16 (cls + 2 ^ 4 * op + 2 ^ 16 * mfield m 27 16 + 2 ^ 28 * mfield m 35 28 + 2 ^ 36 * mfield m 43 36
    + 2 ^ 44 * mfield m 47 44 + 2 ^ 48 * err + 2 ^ 64 * msgAddr m + 2 ^ 120 * mfield m 43 36)

/-- A denial (R284): an error response, the count, the first in the log, and a class C0 event. `check` is 3 class or 5 window. -/
def denyGuest (d : Dev) (g : Nat) (m : List Byte) (check : Nat) : Dev :=
  let d := emit d (.guestMsg g 3 (guestReply m (if msgClass m = 5 then 6 else 2) (if msgClass m = 5 then 1 else 6) 5))
  let d := fincSat d Reg.PRV_DENY [g] Fld.PRV_DENY_denied 1
  let d := if fbit d Reg.PRV_DENY_LOG_HI [g] Fld.PRV_DENY_LOG_HI_valid then d
    else
      let a := msgAddr m
      let d := fset d Reg.PRV_DENY_LOG_LO [g] Fld.PRV_DENY_LOG_LO_addr_lo (a % 2 ^ 32)
      let d := fset d Reg.PRV_DENY_LOG_HI [g] Fld.PRV_DENY_LOG_HI_addr_hi (a / 2 ^ 32)
      let d := fset d Reg.PRV_DENY_LOG_HI [g] Fld.PRV_DENY_LOG_HI_class (msgClass m)
      let d := fset d Reg.PRV_DENY_LOG_HI [g] Fld.PRV_DENY_LOG_HI_check check
      fset d Reg.PRV_DENY_LOG_HI [g] Fld.PRV_DENY_LOG_HI_valid 1
  report d { source := 0x03, unit := unitGuest g, stat := Reg.PRV_DENY.slot [g], part := partOfGuest d g }

/-- A response that matches nothing outstanding (R284). -/
def unmatched (d : Dev) (g : Nat) : Dev := fincSat d Reg.PRV_DENY [g] Fld.PRV_DENY_unmatched 1

/-- The snoop of a line that awaits the guest's answer. -/
def guestSnoop (d : Dev) (g line : Nat) : Option (Txn × Snoop) :=
  d.coh.txns.findSome? (fun t => (t.snoops.find? (fun s => s.agent == 10 + g && s.line == line && s.ans.isNone)).map (fun s => (t, s)))

/-- The guest's state of a line after its answer to a snoop (Table 7.5). -/
def guestAfter (cur : AState) (kind : Nat) (ans : SnpAns) : AState :=
  match ans with
  | .evicting => .miA
  | .rspI => match cur with | .smD => .imD | .isD => .isD | .imD => .imD | _ => .i
  | .rspS => match cur with | .smD => .smD | _ => if kind = 7 then cur else .s
  | .dirty _ => if kind = 9 then .i else if kind = 8 then .s else .m

/-- A snoop answer of the guest reaches the home (R241, R244, R245). SnpData clean is an answer that keeps or drops as RspS does. -/
def guestAnswers (e : Env) (d : Dev) (g : Nat) (m : List Byte) (ans : SnpAns) : Dev :=
  let line := msgAddr m / 128
  match guestSnoop d g line with
  | none => unmatched d g
  | some (t, sn) =>
    let cur := (aLine d (10 + g) line).st
    let d := setASt d (10 + g) line (guestAfter cur sn.kind ans)
    match ans with
    | .evicting =>
      let d := fincSat d Reg.PKM_XSTAT [lineHome d line] Fld.PKM_XSTAT_snp_evicting 1
      let key := (10 + g, line)
      let t := { t with snoops := t.snoops.filter (fun u => decide (u ≠ sn)) }
      let t := if t.early.contains key then { t with early := t.early.filter (· != key) } else { t with evw := t.evw ++ [key] }
      settle e (setTxn d t)
    | _ => settle e (takeAnswer d t sn ans)

/-- CmpAck of the guest: it has its grant, and the home's transaction ends (R242, R243). -/
def guestAck (e : Env) (d : Dev) (g line : Nat) : Dev :=
  match txnOf d line with
  | none => unmatched d g
  | some t =>
    match t.grant with
    | none => unmatched d g
    | some code =>
      if t.req.agent ≠ some (10 + g) then unmatched d g
      else
        let d := if t.acked then d else emit (setASt d (10 + g) line (if code = 17 then .s else .e)) (.coh (10 + g) code line (if code = 14 then [] else rdBytes e d (lineKeys d line)))
        settle e (endTxn d t)

/-- The atomic of a guest's Atom message (Table 8.5 aux, Table 7.7): operands fill the data slots from byte 0. -/
def guestAtom (m : List Byte) : Option MemOp :=
  let b := m.drop 16
  let n := 2 ^ mfield m 55 52
  match mfield m 63 56 with
  | 0 => some (.recReport (BitVec.ofNat 16 (leNat (b.take 2))) (BitVec.ofNat 5 (leNat (slice b 2 1))))
  | 1 => some .recAdvance
  | 2 => some (.fadd32 (b.drop 16) ((List.range ((b.length - 16) / 4)).map (fun i => tbit (leNat (b.take 16)) (4 * i))))
  | 3 => some (.xadd (b.take 24))
  | 4 => if n = 4 ∨ n = 8 then some (.fetchAdd n (BitVec.ofNat 64 (leNat (b.take n)))) else none
  | 5 => if n = 4 ∨ n = 8 then some (.swap n (BitVec.ofNat 64 (leNat (b.take n)))) else none
  | 6 => if n = 4 ∨ n = 8 ∨ n = 16 then
      some (.cas n (BitVec.ofNat 128 (leNat (b.take n))) (BitVec.ofNat 128 (leNat (slice b n n)))) else none
  | _ => none

/-- An admitted request of the guest goes on with its owner's stamp (R284 check 6, R223). -/
def guestRequest (e : Env) (d : Dev) (g : Nat) (m : List Byte) : Dev :=
  let src : Source := .guest (Fin.ofNat 2 g)
  let a := msgAddr m
  match msgClass m, msgOp m with
  | 0, op => agentRequest e d src a op
  | 5, 0 => plainRequest e d { kind := 3, src := src, agent := none, addr := a, op := some (.read (2 ^ mfield m 55 52)) } (2 ^ mfield m 55 52)
  | 5, 1 => plainRequest e d { kind := 4, src := src, agent := none, addr := a / 128 * 128, op := some (.write (padTo 128 (m.drop 16)) (allEnabled 128)) } 128
  | 5, 2 =>
    let en := leNat (slice m 16 16)
    plainRequest e d { kind := 5, src := src, agent := none, addr := a / 128 * 128, op := some (.write (padTo 128 (m.drop 32)) ((List.range 128).map (tbit en))) } 128
  | _, _ => match guestAtom m with | some op => atomRequest e d src a op | none => d

/-- Bytes that a request touches, its permission and whether it caches (R285). -/
def guestTouch (m : List Byte) : Nat × Nat × Nat × Bool :=
  let a := msgAddr m
  let line := a / 128 * 128
  match msgClass m, msgOp m with
  | 0, 0 => (line, 128, 0, true)
  | 0, _ => (line, 128, 1, true)
  | 5, 0 => (a, 2 ^ mfield m 55 52, 0, false)
  | 5, 1 => (line, 128, 1, false)
  | 5, 2 => (line, 128, 1, false)
  | _, _ => (a, match guestAtom m with | some op => opLen op | none => 1, 2, false)

/-- Outstanding guest requests have reached the agreed tags (R284 check 4). -/
def tagsFull (d : Dev) (g : Nat) : Bool := decide (bits (guest d g).agreed 43 32 + 1 ≤ (guestReqs d g).length)

/-- An INT of the guest within PRV_INT is sent on the port of the owning partition (R284, R454). -/
def guestInt (d : Dev) (g : Nat) (m : List Byte) : Dev :=
  let v := mfield m 63 56 + 256 * bits (msgAddr m) 2 0
  let base := fget d Reg.PRV_INT [g] Fld.PRV_INT_base
  let n := fget d Reg.PRV_INT [g] Fld.PRV_INT_count
  if tbit (guest d g).agreed 28 ∧ base ≤ v ∧ v < base + n then
    match partOfGuest d g with | some q => signalVector d (portOfPart d q) v | none => d
  else denyGuest d g m 5

/-- One message of a guest die, checked in order (R284). -/
def judge (e : Env) (d : Dev) (g : Nat) (m : List Byte) : Dev :=
  let cls := msgClass m
  let op := msgOp m
  let line := msgAddr m / 128
  if msgBad m ∨ mfield m 43 36 ≠ unitGuest g ∨ (cls = 9 ∧ op ≠ 2) then killGuest e d g 3
  else if cls = 2 ∧ op ≤ 3 ∨ cls = 3 ∧ 2 ≤ op then
    match cls, op with
    | 2, 0 => guestAnswers e d g m .rspI
    | 2, 1 => guestAnswers e d g m .rspS
    | 2, 2 => guestAnswers e d g m .evicting
    | 2, _ => guestAck e d g line
    | _, 2 => guestAnswers e d g m .rspS
    | _, _ => guestAnswers e d g m (.dirty (padTo 128 (m.drop 16)))
  else if cls = 1 ∨ cls = 2 ∨ cls = 3 ∨ cls = 6 ∨ cls = 7 ∨ cls = 9 then unmatched d g
  else if !(tbit (guest d g).agreed (16 + cls)) ∨ !(tbit (fget d Reg.PRV_CTL [g] Fld.PRV_CTL_class_allow) cls) then denyGuest d g m 3
  else if cls = 4 then
    takeWb e (setASt d (10 + g) line .miA) (10 + g) line (padTo 128 (m.drop 16))
  else if cls = 8 then guestInt d g m
  else
    let t := guestTouch m
    if privetAdmits d g t.1 t.2.1 t.2.2.1 t.2.2.2 then guestRequest e d g m else denyGuest d g m 5

/-- GUEST_MESSAGE (R284): the first message received from the guest die; a request beyond the agreed tags waits. -/
def execGuestMessage (g : Fin 2) (s : State) : Host.Outcome State Fault Refusal :=
  s.run (fun e d =>
    let en := guestEnd g.val
    let f := fei d en
    match f.inbox with
    | [] => d
    | m :: rest =>
      if !(guestActive d g.val) then d
      else if (msgClass m = 0 ∨ msgClass m = 5) ∧ tagsFull d g.val then d
      else judge e (setFei d en { f with inbox := rest }) g.val m)

/-- Return the credits of held-back slots that tokens of 16 bytes each allow, class by class (R287). -/
def returnCredits : Nat → Nat → Fei → Nat → Fei × Nat
  | 0, _, f, tokens => (f, tokens)
  | n + 1, c, f, tokens =>
    let k := min (f.heldBack.getD c 0) (tokens / 16)
    returnCredits n (c + 1)
      { f with heldBack := setAt f.heldBack c (f.heldBack.getD c 0 - k), owed := setAt f.owed c (f.owed.getD c 0 + k) }
      (tokens - 16 * k)

/-- PRV_TOKEN_REFILL (R287): one microsecond's refill; a rate of 0 returns every credit. -/
def execPrvTokenRefill (g : Fin 2) (s : State) : Host.Outcome State Fault Refusal :=
  s.run (fun _ d =>
    if !(guestActive d g.val) then d
    else
      let en := guestEnd g.val
      let f := fei d en
      let rate := fget d Reg.PRV_RATE [g.val] Fld.PRV_RATE_rate
      let burst := 64 * fget d Reg.PRV_RATE [g.val] Fld.PRV_RATE_burst
      let x := guest d g.val
      if rate = 0 then
        setFei d en (returnCredits 10 0 f (16 * f.heldBack.foldl (· + ·) 0)).1
      else
        let r := returnCredits 10 0 f (min burst (x.tokens + 64 * rate))
        setGuest (setFei d en r.1) g.val { x with tokens := r.2 })

end Sys2Proof.Machine
end

