-- ==== Sys2Proof/Machine/Thermal.lean ====
section
/-!
DEFINITION. Housekeeping, temperature, throttling and the power manager (R470-R488, R491, R492): sensors and their cross-checks,
bands, step counts, caps and core rails, hard throttle, and the reference of the time base.
-/
namespace Sys2Proof.Machine

/-! ### Slots and sensors -/

/-- The kind of a housekeeping slot (Table 14.4, Table 14.22): 0 temperature, 1 voltage, 2 current, 3 optical, 15 reserved. -/
def hkKind (i : Nat) : Nat :=
  if i < 262 then 0
  else if i < 554 then (if i % 2 = 0 then 1 else 2)
  else if i < 858 then 2
  else if i < 986 then 3
  else if i < 1002 then 1
  else 15

/-- The unit of a temperature slot (Table 14.4). -/
def hkUnit (i : Nat) : Nat :=
  if i < 72 then unitSite (i / 2)
  else if i < 168 then unitBase ((i - 72) / 16)
  else if i < 192 then unitBase ((i - 168) / 4)
  else if i < 256 then unitLe ((i - 192) / 4)
  else if i < 260 then 0
  else unitGuest (i - 260)

/-- The base sensor beneath a site (Table 14.4). -/
def beneath (s : Nat) : Nat := 72 + 16 * (s / 6) + s % 6

/-- The neighbours of a temperature sensor (R481). -/
def neighbours (i : Nat) : List Nat :=
  if i < 72 then [4 * (i / 2) + 1 - i, beneath (i / 2)]
  else if i < 168 then
    let m := (i - 72) / 16
    let j := (i - 72) % 16
    ((List.range 16).map (72 + 16 * m + ·)).filter (· != i)
      ++ (if j < 6 then [2 * (6 * m + j), 2 * (6 * m + j) + 1] else if j < 10 then [168 + 4 * m + (j - 6)] else [])
  else if i < 192 then
    let n := i - 168
    ((List.range 4).map (168 + 4 * (n / 4) + ·)).filter (· != i) ++ [72 + 16 * (n / 4) + 6 + n % 4]
  else if i < 256 then ((List.range 4).map (192 + 4 * ((i - 192) / 4) + ·)).filter (· != i)
  else if i < 260 then (List.range 6).map (256 + ·) |>.filter (· != i)
  else (List.range 4).map (256 + ·)

/-- A published reading (R477), as a signed number. -/
def hkVal (d : Dev) (i : Nat) : Int := signed 16 (fget d Reg.THM_HK_CH [i] Fld.THM_HK_CH_value)

/-- A reading has been published. -/
def hkValid (d : Dev) (i : Nat) : Bool := fbit d Reg.THM_HK_CH [i] Fld.THM_HK_CH_valid

/-- A sensor is declared broken. -/
def hkBroken (d : Dev) (i : Nat) : Bool := fbit d Reg.THM_HK_CH [i] Fld.THM_HK_CH_broken

/-- The neighbours that count. -/
def goodNeighbours (d : Dev) (i : Nat) : List Nat := (neighbours i).filter (fun j => hkValid d j && !(hkBroken d j))

/-- The largest of a list of readings. -/
def maxInt : List Int → Option Int
  | [] => none
  | x :: xs => some (xs.foldl max x)

/-- Insert into an ascending list. -/
def insertInt (x : Int) : List Int → List Int
  | [] => [x]
  | y :: ys => if x ≤ y then x :: y :: ys else y :: insertInt x ys

/-- Twice the median of a list of readings; of an even count, the sum of the two middle ones. -/
def medianTwice (l : List Int) : Int :=
  let s := l.foldl (fun a x => insertInt x a) []
  let n := s.length
  if n % 2 = 1 then 2 * s.getD (n / 2) 0 else s.getD (n / 2 - 1) 0 + s.getD (n / 2) 0

/-! ### Governing temperatures -/

/-- The sensors of a governing temperature (Table 14.5), by the model's number: core s's band; 36 + s its throttling; 72 + m a base
die; 78 + n a stack; 102 + k and 118 + k a light engine's highest and mean; 134 on the hub die's sensors and those beside the
guest sites. -/
def govSlots (u : Nat) : List Nat :=
  if u < 36 then [2 * u, 2 * u + 1, beneath u]
  else if u < 72 then [beneath (u - 36)]
  else if u < 78 then (List.range 16).map (72 + 16 * (u - 72) + ·)
  else if u < 102 then [168 + (u - 78)]
  else if u < 134 then (List.range 4).map (192 + 4 * ((u - 102) % 16) + ·)
  else [256 + (u - 134)]

/-- A governing temperature in 1/64 °C, once a sensor of it has been read. -/
def govTemp (d : Dev) (u : Nat) : Option Int :=
  let ts := ((govSlots u).filter (hkValid d)).map (hkVal d)
  if 118 ≤ u ∧ u < 134 then
    if ts.isEmpty then none else some (4 * ts.foldl (· + ·) 0 / (ts.length : Int))
  else (maxInt ts).map (4 * ·)

/-- Every sensor of a governing temperature is broken (R481). -/
def govLost (d : Dev) (u : Nat) : Bool := (govSlots u).all (hkBroken d)

/-- The hottest sensor of a governing temperature. -/
def govSlot (d : Dev) (u : Nat) : Nat :=
  let ss := govSlots u
  (ss.find? (fun i => ss.all (fun j => decide (hkVal d j ≤ hkVal d i)))).getD (ss.headD 0)

/-- A governing temperature is at least a limit in °C. -/
def govAtLeast (d : Dev) (u c : Nat) : Bool :=
  match govTemp d u with
  | some t => decide ((64 * c : Nat) ≤ t)
  | none => false

/-! ### Bands -/

/-- The lower bound of a band, in 1/64 °C (R474). -/
def bandLow : Nat → Int
  | 0 => -100000 | 1 => 2560 | 2 => 4480 | _ => 5760

/-- The band that a temperature alone gives. -/
def bandRaw (t : Int) : Nat := if 5760 ≤ t then 3 else if 4480 ≤ t then 2 else if 2560 ≤ t then 1 else 0

/-- A band falls while the temperature lies 2 °C below the band's lower bound. -/
def bandFall (t : Int) : Nat → Nat
  | 0 => 0
  | b + 1 => if t ≤ bandLow (b + 1) - 128 then bandFall t b else b + 1

/-- The band after a temperature (R474). -/
def bandNext (old : Nat) (t : Int) : Nat := if old ≤ bandRaw t then bandRaw t else bandFall t old

/-- The governing temperature of a band: core s, 36 + m, 42 + n, 66 + k. -/
def bandGov (i : Nat) : Nat := if i < 36 then i else if i < 42 then i + 36 else if i < 66 then i + 36 else i + 36

/-- The bands that a sensor bears on. -/
def bandsOf (i : Nat) : List Nat :=
  if i < 72 then [i / 2]
  else if i < 168 then
    let m := (i - 72) / 16
    let j := (i - 72) % 16
    (if j < 6 then [6 * m + j] else []) ++ [36 + m]
  else if i < 192 then [42 + (i - 168)]
  else if i < 256 then [66 + (i - 192) / 4]
  else []

/-- Bring a band up to date; a unit whose sensors are all broken is in B3 (R481). A core shows its band in THM_CORE. -/
def setBand (d : Dev) (i : Nat) : Dev :=
  match govTemp d (bandGov i) with
  | none => d
  | some t =>
    let b := if govLost d (bandGov i) then 3 else bandNext (Sparse.get 0 d.pow.bands i) t
    let d := { d with pow := { d.pow with bands := Sparse.set 0 d.pow.bands i b } }
    if i < 36 then fset d Reg.THM_CORE [i] Fld.THM_CORE_dband b else d

/-! ### Publishing -/

/-- A reading as published: of a broken sensor, its hottest unbroken neighbour's (R481). -/
def hkShown (d : Dev) (i v : Nat) : Nat :=
  if i < 262 ∧ hkBroken d i then
    match maxInt ((goodNeighbours d i).map (hkVal d)) with
    | some x => unsigned 16 x
    | none => fget d Reg.THM_HK_CH [i] Fld.THM_HK_CH_value
  else v

/-- The CM sense of a fibre above +12 dBm on two successive rounds turns off the lasers and the Gap amplifier that feed the fibre,
and fences it (R479). -/
def cmSense (d : Dev) (g v : Nat) : Dev :=
  let n := if 3072 < signed 16 v then Sparse.get 0 d.pow.cmHigh g + 1 else 0
  let d := { d with pow := { d.pow with cmHigh := Sparse.set 0 d.pow.cmHigh g n } }
  if n = 2 then
    let k := g / 8
    let d := (List.range 23).foldl (fun d i =>
      if laserLit (laserState d k (g % 8 / 4) i) then setLaser d k (g % 8 / 4) i 0 else d) d
    fenceFibre (ampOff d k (g % 8)) g
  else d

/-- The mean of a light engine's sensors, as calibration reads it; how it is rounded to 1/16 °C is free. -/
def leMean (d : Dev) (k : Nat) : Dev :=
  match govTemp d (118 + k) with
  | none => d
  | some t =>
    let up := if t % 4 = 0 then (0, d) else takeFree d 1
    fset up.2 Reg.LE_CAL_TEMP [k] Fld.LE_CAL_TEMP_t_now (unsigned 16 (t / 4 + (up.1 : Int)))

/-- Publish a reading (R476, R478), with what hangs on it: bands, a light engine's mean, the CM sense. -/
def hkPublish (d : Dev) (i v : Nat) : Dev :=
  if hkKind i = 15 then d
  else
    let v := hkShown d i v
    let d := fset d Reg.THM_HK_CH [i] Fld.THM_HK_CH_value v
    let d := fset d Reg.THM_HK_CH [i] Fld.THM_HK_CH_valid 1
    let d := (bandsOf i).foldl setBand d
    let d := if 192 ≤ i ∧ i < 256 then leMean d ((i - 192) / 4) else d
    if hkKind i = 3 then cmSense d (i - 858) v else d

/-- Show whether a trigger runs or is pending. -/
def showTrig (d : Dev) : Dev :=
  let d := fset d Reg.THM_HK_RES [] Fld.THM_HK_RES_busy (bit d.pow.trigRun.isSome)
  fset d Reg.THM_HK_RES [] Fld.THM_HK_RES_pending (bit d.pow.trigPend.isSome)

/-! ### Step counts -/

/-- The step count of a partition, or of the package as 16 (R483). -/
def stepCount (d : Dev) (q : Nat) : Nat :=
  if q < 16 then fget d Reg.THM_PART_STAT [q] Fld.THM_PART_STAT_n else fget d Reg.THM_PKG_STAT [] Fld.THM_PKG_STAT_n_pkg

/-- Set it. -/
def setSteps (d : Dev) (q n : Nat) : Dev :=
  if q < 16 then fset d Reg.THM_PART_STAT [q] Fld.THM_PART_STAT_n n else fset d Reg.THM_PKG_STAT [] Fld.THM_PKG_STAT_n_pkg n

/-- A count rises, to at most 32, for a temperature (R485). -/
def raiseSteps (d : Dev) (q by_ : Nat) (why : List Nat) : Dev :=
  let d := setSteps d q (min 32 (stepCount d q + by_))
  let old := Sparse.get [] d.pow.raised q
  { d with pow := { d.pow with raised := Sparse.set [] d.pow.raised q (old ++ why.filter (fun u => !(old.contains u))) } }

/-- The site's logical core, if it has one. -/
def coreOfSite (d : Dev) (s : Nat) : Option Nat := lowest 32 (fun c => siteOfCore d c == some s)

/-- The sites of the cores a partition owns. -/
def partSites (d : Dev) (q : Nat) : List Nat :=
  ((List.range 32).filter (fun c => partOfCore d c == some q)).filterMap (siteOfCore d)

/-- The enabled partitions. -/
def partsOn (d : Dev) : List Nat := (List.range 16).filter (partOn d)

/-- The partitions that own a core on a base die. -/
def partsOverBase (d : Dev) (m : Nat) : List Nat := (partsOn d).filter (fun q => (partSites d q).any (fun s => s / 6 == m))

/-- A thermal record in the event store (Table 14.10). -/
def thermalRecord (d : Dev) (slot : Nat) (temp : Nat) (kind : Nat) : Dev :=
  storeWrite d (leBytes 8 d.tb ++ leBytes 2 slot ++ leBytes 2 temp ++ [BitVec.ofNat 8 kind,
    BitVec.ofNat 8 (stepCount d 16), 0, 0])

/-- The published reading of a sensor, as its record takes it. -/
def hkCode (d : Dev) (i : Nat) : Nat := fget d Reg.THM_HK_CH [i] Fld.THM_HK_CH_value

/-! ### The end of a round -/

/-- A sensor misses its cross-check (R481); with fewer than two unbroken neighbours it is not checked. -/
def crossMiss (d : Dev) (i : Nat) : Bool :=
  let ns := goodNeighbours d i
  let lim : Int := (2 * 16 * max 1 (fget d Reg.THM_TH_CFG [] Fld.THM_TH_CFG_xchk) : Nat)
  hkValid d i && decide (2 ≤ ns.length) && decide (lim < (2 * hkVal d i - medianTwice (ns.map (hkVal d))).natAbs)

/-- A sensor is declared broken (R481). -/
def breakSensor (d : Dev) (i : Nat) : Dev :=
  let temp := hkCode d i
  let d := fset d Reg.THM_HK_CH [i] Fld.THM_HK_CH_broken 1
  let d := fincSat d Reg.THM_HK_STAT [] Fld.THM_HK_STAT_broken 1
  let d := report d { source := 0x19, unit := hkUnit i, sub := i }
  let d := thermalRecord d i temp 4
  hkPublish d i temp

/-- Every unbroken sensor is compared; three successive misses break it. -/
def crossCheck (d : Dev) : Dev :=
  let ms := (List.range 262).filter (fun i => !(hkBroken d i) && crossMiss d i)
  let offs : Sparse.Map Nat := ms.map (fun i => (i, Sparse.get 0 d.pow.offs i + 1))
  let d := { d with pow := { d.pow with offs := offs.filter (fun x => x.2 < 3) } }
  (offs.filter (fun x => 3 ≤ x.2)).foldl (fun d x => breakSensor d x.1) d

/-- The rounds of the rate-of-rise window (R482): 4 ms each. -/
def riseRounds (d : Dev) : Nat := 5 * max 1 (fget d Reg.THM_TH_CFG [] Fld.THM_TH_CFG_ror_win) / 2

/-- A governing temperature has risen too fast: above its lowest value over the window by more than ror_dt (R482). -/
def roseFast (d : Dev) (u : Nat) : Bool :=
  match govTemp d u with
  | some t => (Sparse.get [] d.pow.hist u).any (fun x =>
      decide (((64 * max 1 (fget d Reg.THM_TH_CFG [] Fld.THM_TH_CFG_ror_dt) : Nat) : Int) < t - x))
  | none => false

/-- Keep a governing temperature for the window; after an event the window begins anew. -/
def keepTemp (d : Dev) (u : Nat) (event : Bool) : Dev :=
  match govTemp d u with
  | some t =>
    let h := if event then [t] else (t :: Sparse.get [] d.pow.hist u).take (riseRounds d)
    { d with pow := { d.pow with hist := Sparse.set [] d.pow.hist u h } }
  | none => d

/-- The counts that a rate-of-rise event of a temperature raises: those of the partitions over its base die, or the package's. -/
def riseScope (d : Dev) (u : Nat) : List Nat := if u < 72 then partsOverBase d (u % 36 / 6) else [16]

/-- The rate-of-rise events of a round (R482): each count rises by four at most once, and holds for 1 s. -/
def rateOfRise (d : Dev) : Dev :=
  let us := (List.range 140).filter (roseFast d)
  let d := ((List.range 17).filter (fun q => us.any (fun u => (riseScope d u).contains q))).foldl (fun d q =>
    let d := raiseSteps d q 4 (us.filter (fun u => (riseScope d u).contains q))
    { d with pow := { d.pow with hold := Sparse.set 0 d.pow.hold q (d.tb + 1000000000) } }) d
  let d := us.foldl (fun d u =>
    let d := thermalRecord d (govSlot d u) (hkCode d (govSlot d u)) 3
    report d { source := 0x1A, unit := hkUnit (govSlot d u), sub := govSlot d u }) d
  (List.range 140).foldl (fun d u => keepTemp d u (us.contains u)) d

/-- The end of a round, once it is due. -/
def roundEnd (d : Dev) : Dev :=
  if d.pow.roundDone then
    let d := { d with pow := { d.pow with roundDone := false } }
    rateOfRise (crossCheck (fincWrap d Reg.THM_HK_STAT [] Fld.THM_HK_STAT_rounds 1))
  else d

/-- HK_SLOT (R476, R479): `value` is the fourth filter output of the conversion that now ends: a triggered one, if one runs, or the
slot in progress. -/
def execHkSlot (value : BitVec 16) (s : State) : Host.Outcome State Fault Refusal :=
  s.run (fun _ d => match d.pow.trigRun with
    | some i =>
      let d := hkPublish d i value.toNat
      let d := fset d Reg.THM_HK_RES [] Fld.THM_HK_RES_valid 1
      let d := fset d Reg.THM_HK_RES [] Fld.THM_HK_RES_slot i
      let d := fset d Reg.THM_HK_RES [] Fld.THM_HK_RES_value value.toNat
      showTrig { d with pow := { d.pow with trigRun := d.pow.trigPend, trigPend := none } }
    | none =>
      let d := roundEnd d
      let i := d.pow.hkSlot
      let d := hkPublish d i value.toNat
      let d := { d with pow := { d.pow with hkSlot := (i + 1) % 1024, roundDone := i == 1023 } }
      showTrig { d with pow := { d.pow with trigRun := d.pow.trigPend, trigPend := none } })

/-- HK_ROUND_END (R481, R482): all 1,024 slots of the round have been read. -/
def execHkRoundEnd (s : State) : Host.Outcome State Fault Refusal := s.run (fun _ d => roundEnd d)

/-- A path may write the THM block: ports read it only (R494). -/
def thmWrites (p : Path) : Bool := (pathPort p).isNone

/-- Ask for an extra conversion (R479). -/
def hkTrigger (d : Dev) (slot : Nat) : Dev :=
  if d.pow.trigPend.isSome then fset d Reg.THM_HK_RES [] Fld.THM_HK_RES_trig_ovr 1
  else showTrig { d with pow := { d.pow with trigPend := some slot } }

/-- Restart the round (R478). -/
def hkRestart (d : Dev) : Dev := { d with pow := { d.pow with hkSlot := 0, roundDone := false } }

/-- A write of THM_HK_CTL. -/
def hkCtlWrite (d : Dev) (data : Word) : Dev :=
  let d := fset d Reg.THM_HK_CTL [] Fld.THM_HK_CTL_slot (Fld.THM_HK_CTL_slot.get data)
  let d := if Fld.THM_HK_CTL_sync.get data = 1 then hkRestart d else d
  if Fld.THM_HK_CTL_trig.get data = 1 then hkTrigger d (Fld.THM_HK_CTL_slot.get data) else d

/-- HK_TRIG (R479). -/
def execHkTrig (p : Path) (slot : Fin 1024) (s : State) : Host.Outcome State Fault Refusal :=
  s.run (fun _ d => if portHalted d p then d else
    if thmWrites p then hkTrigger (fset d Reg.THM_HK_CTL [] Fld.THM_HK_CTL_slot slot.val) slot.val
    else regEvent d p (Reg.THM_HK_CTL.key []))

/-- HK_SYNC (R478). -/
def execHkSync (p : Path) (s : State) : Host.Outcome State Fault Refusal :=
  s.run (fun _ d => if portHalted d p then d else if thmWrites p then hkRestart d else regEvent d p (Reg.THM_HK_CTL.key []))

/-! ### Throttling -/

/-- The throttle temperature in °C: a value outside 80 to 105 acts as the nearer bound (Table 14.14). -/
def tLim (d : Dev) : Nat := clampNat 80 105 (fget d Reg.THM_TH_CFG [] Fld.THM_TH_CFG_tlim)

/-- The controller pair is halted: the power manager's actions hold (R559). -/
def pairHalted (d : Dev) : Bool := d.dbg.haltAt.isSome

/-- The temperatures that raise a count now (R485, R486): at or above tlim, or in hard throttle. -/
def stepCauses (d : Dev) (q : Nat) : List Nat :=
  if q < 16 then
    if partOn d q then ((partSites d q).map (36 + ·)).filter (fun u => govAtLeast d u (tLim d)) else []
  else ((List.range 140).filter (fun u => decide (u < 36) || decide (72 ≤ u))).filter (fun u =>
    govAtLeast d u (tLim d) || d.pow.hard.contains u)

/-- A count may fall: every temperature that raised it is 5 °C or more below tlim, and no hold runs (R485). -/
def stepFalls (d : Dev) (q : Nat) : Bool :=
  decide (Sparse.get 0 d.pow.hold q ≤ d.tb) && (Sparse.get [] d.pow.raised q).all (fun u =>
    match govTemp d u with
    | some t => decide (t ≤ ((64 * (tLim d - 5) : Nat) : Int))
    | none => true)

/-- Lower a count by one; at zero nothing remains that raised it. -/
def lowerSteps (d : Dev) (q : Nat) : Dev :=
  let n := stepCount d q - 1
  let d := setSteps d q n
  if n = 0 then { d with pow := { d.pow with raised := Sparse.set [] d.pow.raised q [] } } else d

/-- THROTTLE_STEP (R485): the 10 ms at which counts rise, or the 100 ms at which they fall. -/
def execThrottleStep (fall : Bool) (s : State) : Host.Outcome State Fault Refusal :=
  s.run (fun _ d =>
    if pairHalted d then d
    else (List.range 17).foldl (fun d q =>
      if fall then (if 0 < stepCount d q ∧ stepFalls d q then lowerSteps d q else d)
      else if (stepCauses d q).isEmpty then d else raiseSteps d q 1 (stepCauses d q)) d)

/-- INPUT_CURRENT_OVERRUN (R484): `amps` has flowed for 100 µs. -/
def execInputCurrentOverrun (amps : BitVec 16) (s : State) : Host.Outcome State Fault Refusal :=
  s.run (fun _ d =>
    if fget d Reg.THM_PKG_LIMIT [] Fld.THM_PKG_LIMIT_iin_a < amps.toNat ∧ !(pairHalted d) then raiseSteps d 16 4 [] else d)

/-- The sites over a base die. -/
def baseSites (m : Nat) : List Nat := (List.range 6).map (6 * m + ·)

/-- Show a hard throttle of the cores on a base die; it forces their rails to 0.65 V (R486). -/
def hardCores (d : Dev) (m : Nat) (on : Bool) : Dev :=
  (baseSites m).foldl (fun d s =>
    let d := fset d Reg.THM_CORE [s] Fld.THM_CORE_hard (bit on)
    if on then fset d Reg.THM_CORE [s] Fld.THM_CORE_v_mv 650 else d) d

/-- HARD_THROTTLE (R486): a core's throttle temperature, or another unit's, exceeds 105 °C, or the unit's sensors are all broken. -/
def execHardThrottle (u : Fin 140) (s : State) : Host.Outcome State Fault Refusal :=
  s.run (fun _ d =>
    let u := u.val
    let hot := match govTemp d u with
      | some t => decide (6720 < t)
      | none => false
    if u < 36 ∨ d.pow.hard.contains u ∨ !(hot || govLost d u) then d
    else
      let d := { d with pow := { d.pow with hard := d.pow.hard ++ [u] } }
      let d := fset d Reg.THM_PKG_STAT [] Fld.THM_PKG_STAT_hard 1
      let d := if u < 72 then hardCores d ((u - 36) / 6) true else raiseSteps d 16 4 [u]
      let i := govSlot d u
      report (thermalRecord d i (hkCode d i) 1) { source := 0x1A, unit := hkUnit i, sub := i })

/-- HARD_THROTTLE_END (R486): the temperature is below 103 °C. -/
def execHardThrottleEnd (u : Fin 140) (s : State) : Host.Outcome State Fault Refusal :=
  s.run (fun _ d =>
    let u := u.val
    let cool := match govTemp d u with
      | some t => decide (t < 6592)
      | none => false
    if d.pow.hard.contains u && cool && !(govLost d u) then
      let hard := d.pow.hard.filter (· != u)
      let d := { d with pow := { d.pow with hard := hard } }
      let d := fset d Reg.THM_PKG_STAT [] Fld.THM_PKG_STAT_hard (bit (!hard.isEmpty))
      if u < 72 ∧ !(hard.any (fun x => decide (36 ≤ x) && decide (x < 72) && (x - 36) / 6 == (u - 36) / 6))
      then hardCores d ((u - 36) / 6) false else d
    else d)

/-- GUEST_OVERPOWER (R487): a guest die has drawn more than 150 W for 10 ms; its site is fenced and killed. -/
def execGuestOverpower (g : Fin 2) (s : State) : Host.Outcome State Fault Refusal :=
  s.run (fun e d => killGuest e d g.val 4)

/-! ### Caps and rails -/

/-- The package limit in W: values above 7,500 act as 7,500 (R483). -/
def pkgLimit (d : Dev) : Nat := min 7500 (fget d Reg.THM_PKG_LIMIT [] Fld.THM_PKG_LIMIT_limit_w)

/-- The package cap in 1/40 W (R483). -/
def pkgCap (d : Dev) : Nat := pkgLimit d * (40 - stepCount d 16)

/-- A partition's power share in W. -/
def powerW (d : Dev) (q : Nat) : Nat := fget d Reg.HUB_PART_RES [q] Fld.HUB_PART_RES_power_w

/-- The shares of the enabled partitions. -/
def powerSum (d : Dev) : Nat := ((partsOn d).map (powerW d)).foldl (· + ·) 0

/-- The attributed power of a partition as numerator and denominator in W (R483). -/
def attributed (d : Dev) (m : PowerReading) (q : Nat) : Nat × Nat :=
  let t := max 1 (powerSum d)
  ((m.own.getD q 0 * t + m.shared * powerW d q) * m.pIn, t * max 1 m.pOut)

/-- A partition's cap as numerator and denominator in W (R483). -/
def partCap (d : Dev) (q : Nat) : Nat × Nat :=
  let t := max 1 (powerSum d)
  (min (powerW d q * (40 - stepCount d q) * t) (pkgCap d * powerW d q), 40 * t)

/-- A partition is over its cap. -/
def overCap (d : Dev) (m : PowerReading) (q : Nat) : Bool :=
  decide ((partCap d q).1 * (attributed d m q).2 < (attributed d m q).1 * (partCap d q).2)

/-- A partition is under its cap by more than 2.5 %. -/
def wellUnder (d : Dev) (m : PowerReading) (q : Nat) : Bool :=
  decide ((attributed d m q).1 * (partCap d q).2 * 40 < (partCap d q).1 * (attributed d m q).2 * 39)

/-- A core rail in mV. -/
def rail (d : Dev) (s : Nat) : Nat := fget d Reg.THM_CORE [s] Fld.THM_CORE_v_mv

/-- Set it. -/
def setRail (d : Dev) (s v : Nat) : Dev := fset d Reg.THM_CORE [s] Fld.THM_CORE_v_mv v

/-- The highest rail that a partition asks for: v_req within 650 to 850 mV (Table 14.21), in steps of 5 mV. -/
def railWish (d : Dev) (q : Nat) : Nat := clampNat 650 850 (fget d Reg.THM_PART_PERF [q] Fld.THM_PART_PERF_v_req) / 5 * 5

/-- A rail after a period (R484, R471): down by what the slope predicts, in whole steps, at most 25 mV; up by one step; never above
v_req or below 0.65 V. -/
def railNext (above up : Bool) (lower wish v : Nat) : Nat :=
  let t := if above then v - ceilDiv lower 5 * 5 else if up then v + 5 else v
  max (v - 25) (max 650 (min t wish))

/-- Move a partition's rails, but those in hard throttle. -/
def moveRails (d : Dev) (m : PowerReading) (q : Nat) (up : Bool) : Dev :=
  (partSites d q).foldl (fun d s =>
    if fbit d Reg.THM_CORE [s] Fld.THM_CORE_hard then d
    else setRail d s (railNext (overCap d m q) (up && wellUnder d m q) (m.lower.getD q 0) (railWish d q) (rail d s))) d

/-- Show a partition's attributed power; how it is rounded to W is free. -/
def showPower (d : Dev) (m : PowerReading) (q : Nat) : Dev :=
  let p := attributed d m q
  let up := if p.1 % p.2 = 0 then (0, d) else takeFree d 1
  fset up.2 Reg.THM_PART_STAT [q] Fld.THM_PART_STAT_p_w (p.1 / p.2 + up.1)

/-- The period of one partition: over its cap with every rail at 0.65 V it is duty-limited; its rails move. -/
def partPeriod (m : PowerReading) (up : Bool) (d : Dev) (q : Nat) : Dev :=
  let d := showPower d m q
  let low := (partSites d q).all (fun s => decide (rail d s ≤ 650))
  let was := fbit d Reg.THM_PART_STAT [q] Fld.THM_PART_STAT_duty
  let d := fset d Reg.THM_PART_STAT [q] Fld.THM_PART_STAT_duty (bit (overCap d m q && (low || was)))
  moveRails d m q up

/-- POWER_MANAGER_PERIOD (R484, R487): the caps in force are those of the counts as they stand. -/
def execPowerManagerPeriod (m : PowerReading) (s : State) : Host.Outcome State Fault Refusal :=
  s.run (fun _ d =>
    if pairHalted d then d
    else
      let d := fset d Reg.THM_PKG_STAT [] Fld.THM_PKG_STAT_p_in_w (min m.pIn 65535)
      let d := fset d Reg.THM_PKG_STAT [] Fld.THM_PKG_STAT_duty (bit (decide (pkgCap d < 40 * m.pIn)))
      let up := d.pow.raiseAt == 9
      let d := { d with pow := { d.pow with raiseAt := if up then 0 else d.pow.raiseAt + 1 } }
      (partsOn d).foldl (partPeriod m up) d)

/-- A core's scheduler is duty-limited (R484, R486). -/
def dutyLimited (d : Dev) (s : Nat) : Bool :=
  fbit d Reg.THM_CORE [s] Fld.THM_CORE_hard || (match (coreOfSite d s).bind (partOfCore d) with
    | some q => fbit d Reg.THM_PART_STAT [q] Fld.THM_PART_STAT_duty || fbit d Reg.THM_PKG_STAT [] Fld.THM_PKG_STAT_duty
    | none => false)

/-- DUTY_WINDOW (R484): a duty-limited core holds dispatch in alternate windows. -/
def execDutyWindow (site : Fin 36) (s : State) : Host.Outcome State Fault Refusal :=
  s.run (fun _ d =>
    let held := d.pow.dutyHold.contains site.val
    let rest := d.pow.dutyHold.filter (· != site.val)
    { d with pow := { d.pow with dutyHold := if dutyLimited d site.val && !held then rest ++ [site.val] else rest } })

/-- HBM_REFRESH (R252): the stack's next refresh, from which the interval of its band holds. -/
def execHbmRefresh (stack : Fin 24) (s : State) : Host.Outcome State Fault Refusal :=
  s.run (fun _ d => fset d Reg.PKM_HBM_STAT [stack.val / 4, stack.val % 4] Fld.PKM_HBM_STAT_band
    (Sparse.get 0 d.pow.bands (42 + stack.val)))

/-! ### The reference of the time base -/

/-- TBCLK_LOSS (R491): no edge for 1 µs. -/
def execTbclkLoss (s : State) : Host.Outcome State Fault Refusal :=
  s.run (fun _ d =>
    if fbit d Reg.THM_TB_CFG [] Fld.THM_TB_CFG_present then
      fset (fset d Reg.THM_TB_CFG [] Fld.THM_TB_CFG_present 0) Reg.THM_TB_CFG [] Fld.THM_TB_CFG_holdover 1
    else d)

/-- TBCLK_RETURN (R491): the time base has locked to TBCLK. -/
def execTbclkReturn (s : State) : Host.Outcome State Fault Refusal :=
  s.run (fun _ d =>
    fset (fset d Reg.THM_TB_CFG [] Fld.THM_TB_CFG_present 1) Reg.THM_TB_CFG [] Fld.THM_TB_CFG_holdover 0)

/-- Step the time base to THM_TB_SET: only while FAB_STAT.state is IDLE or ROOT; otherwise the write is discarded (R492). -/
def tbSet (d : Dev) (p : Path) : Dev :=
  if fabState d = 0 ∨ fabState d = 3 then
    let d := fset d Reg.FAB_TB [] Fld.FAB_TB_stepped 1
    { d with tb := pair64 (rdReg d Reg.THM_TB_SET_LO []) (rdReg d Reg.THM_TB_SET_HI []) }
  else regEvent d p (Reg.THM_TB_CTL.key [])

/-- THM_TB_CTL_SET (R492). -/
def execThmTbCtlSet (p : Path) (s : State) : Host.Outcome State Fault Refusal :=
  s.run (fun _ d => if portHalted d p then d else if thmWrites p then tbSet d p else regEvent d p (Reg.THM_TB_CTL.key []))

end Sys2Proof.Machine
end

