-- ==== Sys2Proof/Machine/Debug.lean ====
section
/-!
DEFINITION. Instruments (R538-R562): activity counters and their snapshots, trace, tensor dumps, halts of streams and of the
controller pair, test patterns and their checkers, and the JTAG instruction.
-/
namespace Sys2Proof.Machine

/-! ### Activity counters -/

/-- The counters of a unit of Table 17.1. -/
def actOf (d : Dev) (site e : Nat) : Act := Sparse.get {} d.dbg.act (16 * site + e)

/-- Change them. -/
def setAct (d : Dev) (site e : Nat) (a : Act) : Dev :=
  { d with dbg := { d.dbg with act := Sparse.set {} d.dbg.act (16 * site + e) a } }

/-- The stream of the descriptor that is active in a unit, if one is (R538); the scheduler's is the lowest stream that holds one. -/
def activeIn (d : Dev) (site e : Nat) : Option Nat :=
  if e = 0 then (Sparse.get {} d.mxe site).active.map (fun j => j.job.stream.toNat)
  else if e < 12 then (engActive d site e).map (fun j => j.job.stream.toNat)
  else if e = 12 then (d.strm.find? (fun x => !(x.2.held.isEmpty) && strmSite d x.1 == some site)).map (·.1)
  else (d.handoff.find? (fun h => h.site == site && h.unit == 12)).map (fun h => h.job.stream.toNat)

/-- Units that may hold an active descriptor, as 16 × site + index. -/
def liveUnits (d : Dev) : List Nat :=
  let us := d.mxe.map (fun x => 16 * x.1) ++ d.eng.map (·.1) ++ (d.strm.filterMap (fun x => strmSite d x.1)).map (fun s => 16 * s + 12)
    ++ (d.handoff.filter (fun h => h.unit == 12)).map (fun h => 16 * h.site + 13) ++ (d.dbg.act.filter (fun x => x.2.cur.isSome)).map (·.1)
  us.eraseDups

/-- The stall in progress ends: one of 256 ns or more is traced (Table 17.4). -/
def endStall (d : Dev) (site e : Nat) : Dev :=
  let a := actOf d site e
  match a.cur with
  | none => d
  | some (r, since, st) =>
    let d := setAct d site e { a with cur := none }
    if 256 ≤ d.tb - since then traceEv d site 4 e st (r + 8 * min ((d.tb - since) / 16) (2 ^ 29 - 1)) else d

/-- A unit's nanosecond (R538, R539): BUSY, or STALLED under a reason, while it holds an active descriptor; the scheduler is BUSY. -/
def unitTick (d : Dev) (site e : Nat) : Dev :=
  match activeIn d site e with
  | none => endStall d site e
  | some st =>
    let r := if e = 12 then 8 else Config.unitPhase d.tb site e
    if 8 ≤ r then
      let d := endStall d site e
      setAct d site e { actOf d site e with busy := (actOf d site e).busy + 1 }
    else
      let d := match (actOf d site e).cur with
        | some (r0, _, _) => if r0 = r then d else endStall d site e
        | none => d
      let a := actOf d site e
      setAct d site e { a with
          stall := a.stall + 1, reasons := setAt a.reasons r (a.reasons.getD r 0 + 1),
          cur := some (match a.cur with
            | some c => c
            | none => (r, d.tb, st))}

/-- The counters of every site that is not FENCED move on by one nanosecond (R540). -/
def countersTick (d : Dev) : Dev :=
  let d := (liveUnits d).foldl (fun d i => if siteState d (i / 16) = 4 then d else unitTick d (i / 16) (i % 16)) d
  { d with dbg := { d.dbg with elapsed := d.dbg.elapsed + 1 } }

/-- One nanosecond of the time base (log entry 2). -/
def idleTick (d : Dev) : Dev :=
  let d := countersTick d
  { d with tb := (d.tb + 1) % 2 ^ 64 }

/-- The counters of a site that becomes FENCED stop (R540). -/
def stopCounters (d : Dev) (site : Nat) : Dev :=
  if (Sparse.find d.dbg.stopped site).isSome then d
  else { d with dbg := { d.dbg with stopped := Sparse.put d.dbg.stopped site d.dbg.elapsed } }

/-- How long the counters of a site have run. -/
def countedFor (d : Dev) (site : Nat) : Nat := (Sparse.find d.dbg.stopped site).getD d.dbg.elapsed

/-- Copy the counters of a unit into the snapshot (Table 17.17). -/
def snapUnit (site : Nat) (d : Dev) (e : Nat) : Dev :=
  let a := actOf d site e
  let idle := countedFor d site - a.busy - a.stall
  let two (d : Dev) (r : RegDesc) (v : Nat) : Dev := wrReg (wrReg d r [site, e, 0] (low32 v)) r [site, e, 1] (high32 v)
  let d := two (two (two d Reg.DBG_SNAP_BUSY a.busy) Reg.DBG_SNAP_STALL a.stall) Reg.DBG_SNAP_IDLE idle
  let d := (List.range 8).foldl (fun d r => wrReg d Reg.DBG_SNAP_REASON [site, e, r] (low32 (a.reasons.getD r 0 / 16))) d
  wrReg d Reg.DBG_SNAP_DONE [site, e] (low32 a.done)

/-- Take a snapshot of a site (R541). -/
def snapTake (d : Dev) (site : Nat) : Dev :=
  let d := (List.range 14).foldl (snapUnit site) d
  let d := wrReg d Reg.DBG_SNAP_TIME [site, 0] (low32 d.tb)
  let d := wrReg d Reg.DBG_SNAP_TIME [site, 1] (high32 d.tb)
  fincWrap d Reg.DBG_SNAP [site] Fld.DBG_SNAP_gen 1

/-- DBG_SNAP_TAKE (R541): a write of DBG_SNAP[s].take. -/
def execDbgSnapTake (p : Path) (site : Fin 36) (s : State) : Host.Outcome State Fault Refusal :=
  s.run (fun _ d => if portHalted d p then d else onSite d p site.val (Reg.DBG_SNAP.key [site.val]) (fun d => snapTake d site.val))

/-! ### Trace -/

/-- Hidden state of a trace unit. -/
def trc (d : Dev) (u : Nat) : Trc := Sparse.get {} d.dbg.trc u

/-- Change it. -/
def setTrc (d : Dev) (u : Nat) (x : Trc) : Dev := { d with dbg := { d.dbg with trc := Sparse.set {} d.dbg.trc u x } }

/-- Write a field of a trace register. -/
def trcSet (d : Dev) (u : Nat) (core lightEngine : RegDesc) (f : Fld) (v : Nat) : Dev :=
  fset d (trcReg u core lightEngine).1 (trcReg u core lightEngine).2 f v

/-- The state of a trace unit: 0 OFF, 1 ON, 2 ERR. -/
def trcState (d : Dev) (u : Nat) : Nat := trcGet d u Reg.CORE_TRC_STAT Reg.LE_TRC_STAT Fld.CORE_TRC_STAT_state

/-- Set it. -/
def setTrcState (d : Dev) (u v : Nat) : Dev := trcSet d u Reg.CORE_TRC_STAT Reg.LE_TRC_STAT Fld.CORE_TRC_STAT_state v

/-- Its enable bit. -/
def trcEnabled (d : Dev) (u : Nat) : Bool := trcGet d u Reg.CORE_TRC_CTL Reg.LE_TRC_CTL Fld.CORE_TRC_CTL_enable == 1

/-- Count dropped records. -/
def trcLose (d : Dev) (u n : Nat) : Dev :=
  fincSat d (trcReg u Reg.CORE_TRC_STAT Reg.LE_TRC_STAT).1 (trcReg u Reg.CORE_TRC_STAT Reg.LE_TRC_STAT).2 Fld.CORE_TRC_STAT_lost n

/-- Records that a local buffer holds (R543). -/
def trcRoom (u : Nat) : Nat := if u < 36 then 4096 else 2048

/-- A record of 16 bytes, its phase bit clear (Table 17.3). -/
def trcRecord (time kind who stream arg : Nat) : List Byte :=
  leBytes 8 time ++ [BitVec.ofNat 8 kind, BitVec.ofNat 8 who] ++ leBytes 2 stream ++ leBytes 4 arg

/-- A record enters the local buffer or is dropped (R544, R547): after drops, a LOST record comes first. -/
def trcPush (d : Dev) (x : TrcEv) : Dev :=
  let t := trc d x.unit
  let t : Trc := if 0 < t.missed ∧ t.buf.length < trcRoom x.unit then
    { t with buf := t.buf ++ [trcRecord x.time 0xA 15 0 t.missed], missed := 0 } else t
  if t.buf.length < trcRoom x.unit then
    setTrc d x.unit { t with buf := t.buf ++ [trcRecord x.time x.kind x.who x.stream x.arg] }
  else trcLose (setTrc d x.unit { t with missed := t.missed + 1 }) x.unit 1

/-- TRACE_EVENT (R544): the earliest event on its way reaches its trace unit. -/
def execTraceEvent (s : State) : Host.Outcome State Fault Refusal :=
  s.run (fun _ d => match d.dbg.events with
    | [] => d
    | x :: xs => trcPush { d with dbg := { d.dbg with events := xs } } x)

/-- The partition a trace unit belongs to (R545). -/
def trcPart (d : Dev) (u : Nat) : Option Nat :=
  if u < 36 then (coreOfSite d u).bind (partOfCore d) else partOfTrunk d ((u - 36) / 2)

/-- The requester that a trace unit's drain is. -/
def trcSource (u : Nat) : Source := if u < 36 then .core (Fin.ofNat 36 u) else .light (Fin.ofNat 16 (u - 36))

/-- The ring of a trace unit: its address and log2 of its records. -/
def trcRing (d : Dev) (u : Nat) : Nat × Nat :=
  (trcGet d u Reg.CORE_TRC_RING_LO Reg.LE_TRC_RING_LO Fld.CORE_TRC_RING_LO_addr_lo * 2 ^ 12 +
    trcGet d u Reg.CORE_TRC_RING_HI Reg.LE_TRC_RING_HI Fld.CORE_TRC_RING_HI_addr_hi * 2 ^ 32,
   trcGet d u Reg.CORE_TRC_RING_LO Reg.LE_TRC_RING_LO Fld.CORE_TRC_RING_LO_log2_size)

/-- Records written, and records consumed. -/
def trcW (d : Dev) (u : Nat) : Nat := trcGet d u Reg.CORE_TRC_WPTR Reg.LE_TRC_WPTR Fld.CORE_TRC_WPTR_count
def trcR (d : Dev) (u : Nat) : Nat := trcGet d u Reg.CORE_TRC_RPTR Reg.LE_TRC_RPTR Fld.CORE_TRC_RPTR_count

/-- A drain write has failed (R547): ERR, and the buffer's records are discarded and counted. -/
def drainFail (d : Dev) (u : Nat) : Dev :=
  let t := trc d u
  let d := trcLose (setTrc d u {}) u t.buf.length
  { setTrcState d u 2 with dbg := { (setTrcState d u 2).dbg with events := d.dbg.events.filter (fun x => x.unit != u) } }

/-- Once what was made is drained, a disabled trace is OFF (R547). -/
def drainEnd (d : Dev) (u : Nat) : Dev :=
  let t := trc d u
  if t.closing && t.buf.isEmpty && d.dbg.events.all (fun x => x.unit != u) then setTrcState (setTrc d u { t with closing := false }) u 0
  else d

/-- A record with its phase bit, as record w of a ring of 2^n (Table 17.3). -/
def phased (w n : Nat) (rec : List Byte) : List Byte :=
  if w / 2 ^ n % 2 = 0 then setAt rec 8 (rec.getD 8 0 ||| 0x80) else rec

/-- Write buffered records into the ring while it has room (R545, R547). -/
def drainSome (e : Env) (u : Nat) : Nat → Dev → Dev
  | 0, d => d
  | fuel + 1, d =>
    let t := trc d u
    let ring := trcRing d u
    let w := trcW d u
    match t.buf with
    | [] => d
    | rec :: rest =>
      if 2 ^ ring.2 ≤ sub32 w (trcR d u) then d
      else
        let r : Requester := { src := trcSource u, part := trcPart d u }
        match pkgWrite e d r (ring.1 + 16 * (w % 2 ^ ring.2)) (phased w ring.2 rec) (allEnabled 16) with
        | (some _, d) => drainFail d u
        | (none, d) =>
          drainSome e u fuel (trcSet (setTrc d u { t with buf := rest }) u Reg.CORE_TRC_WPTR Reg.LE_TRC_WPTR
            Fld.CORE_TRC_WPTR_count (w + 1))

/-- TRACE_DRAIN (R546): `count` records are what the share of bandwidth lets pass. -/
def execTraceDrain (u : Fin 52) (count : BitVec 12) (ext : List Byte) (s : State) : Host.Outcome State Fault Refusal :=
  s.run (fun e d =>
    if trcState d u.val = 1 then drainEnd (drainSome e u.val count.toNat { d with extIn := ext }) u.val else d)

/-- TRACE_DRAIN_ERROR (R547): a drain write completes with an error. -/
def execTraceDrainError (u : Fin 52) (s : State) : Host.Outcome State Fault Refusal :=
  s.run (fun _ d => if trcState d u.val = 1 && !((trc d u.val).buf.isEmpty) then drainFail d u.val else d)

/-- A path may write a trace unit's registers. -/
def trcWrites (d : Dev) (p : Path) (u : Nat) : Bool := if u < 36 then siteAdmits d p u else leWritable d p (u - 36)

/-- The address of a trace register. -/
def trcAddr (u : Nat) (core lightEngine : RegDesc) : Nat := (trcReg u core lightEngine).1.key (trcReg u core lightEngine).2

/-- The ring fields break a rule of R545: 2^8 to 2^20 records, aligned to the ring's size. -/
def trcRingBad (d : Dev) (u : Nat) : Bool :=
  let r := trcRing d u
  decide (r.2 < 8) || decide (20 < r.2) || r.1 % (16 * 2 ^ r.2) != 0

/-- A write of TRC_CTL (R545, R547): while enabled only enable is taken, and clearing it drains what was made; setting it checks the ring
and the unit's partition. -/
def trcCtlWrite (d : Dev) (u : Nat) (data : Word) : Dev :=
  let on := Fld.CORE_TRC_CTL_enable.get data == 1
  if trcEnabled d u then
    if on then d
    else drainEnd (setTrc (trcSet d u Reg.CORE_TRC_CTL Reg.LE_TRC_CTL Fld.CORE_TRC_CTL_enable 0) u { trc d u with closing := true }) u
  else
    let d := trcSet d u Reg.CORE_TRC_CTL Reg.LE_TRC_CTL Fld.CORE_TRC_CTL_share (Fld.CORE_TRC_CTL_share.get data)
    let d := trcSet d u Reg.CORE_TRC_CTL Reg.LE_TRC_CTL Fld.CORE_TRC_CTL_mask (Fld.CORE_TRC_CTL_mask.get data)
    if !on then d
    else if trcRingBad d u || (trcPart d u).isNone then
      trcSet d u Reg.CORE_TRC_STAT Reg.LE_TRC_STAT Fld.CORE_TRC_STAT_cfg_err 1
    else
      let d := trcSet d u Reg.CORE_TRC_CTL Reg.LE_TRC_CTL Fld.CORE_TRC_CTL_enable 1
      setTrcState (setTrc d u { trc d u with closing := false }) u 1

/-- Run a write of TRC_CTL for a path. -/
def trcCtlFrom (d : Dev) (p : Path) (u : Nat) (data : Word) : Dev :=
  if trcWrites d p u then trcCtlWrite d u data else regEvent d p (trcAddr u Reg.CORE_TRC_CTL Reg.LE_TRC_CTL)

/-- TRC_CTL_ENABLE (R545): the write has enable = 1. -/
def execTrcCtlEnable (p : Path) (u : Fin 52) (data : Word) (s : State) : Host.Outcome State Fault Refusal :=
  s.run (fun _ d => if portHalted d p then d else trcCtlFrom d p u.val (Fld.CORE_TRC_CTL_enable.put data 1))

/-- TRC_CTL_DISABLE (R547): the write has enable = 0. -/
def execTrcCtlDisable (p : Path) (u : Fin 52) (data : Word) (s : State) : Host.Outcome State Fault Refusal :=
  s.run (fun _ d => if portHalted d p then d else trcCtlFrom d p u.val (Fld.CORE_TRC_CTL_enable.put data 0))

/-- A write of TRC_RPTR: a value above TRC_WPTR is discarded with a class C0 event (R545). -/
def trcRptrWrite (d : Dev) (p : Path) (u : Nat) (data : Word) : Dev :=
  if ge32 (trcW d u) data.toNat then trcSet d u Reg.CORE_TRC_RPTR Reg.LE_TRC_RPTR Fld.CORE_TRC_RPTR_count data.toNat
  else regEvent d p (trcAddr u Reg.CORE_TRC_RPTR Reg.LE_TRC_RPTR)

/-- TRC_RPTR_WRITE (R545). -/
def execTrcRptrWrite (p : Path) (u : Fin 52) (data : Word) (s : State) : Host.Outcome State Fault Refusal :=
  s.run (fun _ d => if portHalted d p then d else
    if trcWrites d p u.val then trcRptrWrite d p u.val data
    else regEvent d p (trcAddr u.val Reg.CORE_TRC_RPTR Reg.LE_TRC_RPTR))

/-! ### Tensor dumps -/

/-- The base of a partition's dump area, and its size in bytes (Table 17.16). -/
def dumpArea (d : Dev) (q : Nat) : Nat × Nat :=
  (fget d Reg.DBG_DUMP_AREA_BASE_LO [q] Fld.DBG_DUMP_AREA_BASE_LO_base_lo * 2 ^ 6 +
    fget d Reg.DBG_DUMP_AREA_BASE_HI [q] Fld.DBG_DUMP_AREA_BASE_HI_base_hi * 2 ^ 32,
   4096 * fget d Reg.DBG_DUMP_AREA_SIZE [q] Fld.DBG_DUMP_AREA_SIZE_size)

/-- Read the rows of a tensor, in either space. -/
def dumpRows (e : Env) (site : Nat) (r : Requester) (t : TRec) : List (List Nat) → Dev → Except Nat (List (List Byte)) × Dev
  | [], d => (.ok [], d)
  | j :: js, d =>
    match dmeRead e d site r (!t.space) (t.rowAddr j) t.rowLen with
    | (.error st, d) => (.error st, d)
    | (.ok b, d) =>
      match dumpRows e site r t js d with
      | (.error st, d) => (.error st, d)
      | (.ok bs, d) => (.ok (b :: bs), d)

/-- The elements of rows, packed anew without gaps (R551, R49). -/
def packRows (w n : Nat) (rows : List (List Byte)) : List Byte :=
  packBytes w ((rows.map (fun b => (List.range n).map (packedAt (fun i => b.getD i 0) w))).flatten)

/-- The dump header (Table 17.6). -/
def dumpHeader (x : SDesc) (st core len : Nat) (rec : List Byte) : List Byte :=
  leBytes 4 (dfield x.bytes 24 31 0) ++ leBytes 4 x.dumpStep ++ leBytes 8 (x.sent.getD 0) ++ leBytes 2 st ++ leBytes 4 x.seq ++
    [BitVec.ofNat 8 core, 0] ++ leBytes 8 len ++ rec.take 32

/-- The bytes of a dump after its header: the elements, then at the next 64-byte boundary the scale array (R551). -/
def dumpBody (t : TRec) (elems scales : List Byte) : List Byte :=
  if t.scLen = 0 then elems else elems ++ (List.range (up64 elems.length - elems.length)).map (fun _ => 0) ++ scales

/-- Copy a tensor into the area (R551): its status. -/
def dumpCopy (e : Env) (d : Dev) (site q : Nat) (x : SDesc) (st : Nat) (rec : List Byte) : Nat × Dev :=
  let t := tRec rec
  let area := dumpArea d q
  let r := streamReq d site st
  if t.rsv || !t.fmtOk || t.badStride then (0x02, d)
  else if !(t.inside (if t.space then 2 ^ 52 else 2 ^ 26)) || area.1 == 0 || area.2 == 0 then (0x05, d)
  else
    let n := packedLen (fmtWidth t.fmt) (t.dim 0 * t.dim 1 * t.dim 2 * t.dim 3)
    let len := 64 + up64 n + t.scLen
    match pkgAtomic e d r area.1 (.fetchAdd 8 (BitVec.ofNat 64 len)) with
    | (.error er, d) => (errStatus er, d)
    | (.ok old, d) =>
      let o := leNat old
      if area.2 < o + len then (0x18, d)
      else match dumpRows e site r t t.rows d with
        | (.error s, d) => (s, d)
        | (.ok rows, d) =>
          match (if t.scLen = 0 then (.ok [], d) else dmeRead e d site r (!t.space) t.scAddr t.scLen) with
          | (.error s, d) => (s, d)
          | (.ok scales, d) =>
            let body := dumpBody t (packRows (fmtWidth t.fmt) (t.dim 0) rows) scales
            let a := area.1 + o
            let w := pkgWriteAll e r (linePieces body.length (a + 64) body.length) body d
            if w.1 ≠ 0 then w
            else
              let h := dumpHeader x st ((coreOfSite d site).getD 0) body.length rec
              pkgWriteAll e r (linePieces 64 a 64) h w.2

/-- Run a dump that was dispatched: its status and detail byte (Table 17.7). -/
def dumpRun (e : Env) (d : Dev) (site : Nat) (job : Job) : Nat × Nat × Dev :=
  let st := job.stream.toNat
  let c := dfield job.bytes 24 47 32
  match heldDesc d st job.seq.toNat, partOfStream d st with
  | some x, some q =>
    if dbit job.bytes 24 48 && partOfCounter d c != some q then (0x13, 0, d)
    else if !x.dumpHit then (0, 0, d)
    else match readRecord e d site (64 * dfield job.bytes 16 19 0) with
      | (.error s, d) => (s, 0, d)
      | (.ok rec, d) =>
        let y := dumpCopy e d site q x st rec
        (y.1, bit (y.1 == 0), y.2)
  | _, _ => (0x13, 0, d)

/-- DUMP (R550, R551): the dump unit of a site takes the descriptor that was dispatched to it. -/
def execDumpDesc (site : Fin 36) (ext : List Byte) (s : State) : Host.Outcome State Fault Refusal :=
  s.run (fun e d => match d.handoff.find? (fun h => h.site == site.val && h.unit == 12) with
    | none => d
    | some h =>
      let r := dumpRun e { d with handoff := d.handoff.erase h, extIn := ext } site.val h.job
      engReport r.2.2 h.job r.1 {} r.2.1)

/-! ### Halts of streams -/

/-- A halt (R555, R556): DEFERRED while the stream holds a lock. -/
def haltStream (d : Dev) (st : Nat) : Dev :=
  if (getStrm d st).halt = 0 ∨ (getStrm d st).halt = 4 then setHalt d st (if lockHeld d st then 1 else 2) else d

/-- A resume. -/
def resumeStream (d : Dev) (st : Nat) : Dev := if (getStrm d st).halt = 0 then d else setHalt d st 0

/-- A step: the next descriptor of a halted stream is dispatched as soon as it may be, and the stream halts again. -/
def stepStream (d : Dev) (st : Nat) : Dev :=
  if (getStrm d st).halt = 2 ∨ (getStrm d st).halt = 3 then
    dispatchNext (examine (setStrm d st { getStrm d st with halt := 4 }) st) st
  else d

/-- A deferred halt is forced: the stream's locks are broken (R556, R211). -/
def forceStream (d : Dev) (st : Nat) : Dev := if (getStrm d st).halt = 1 then setHalt (breakLocks d st) st 3 else d

/-- A path may halt a stream (R220, R555). -/
def haltFrom (d : Dev) (p : Path) (st : Nat) (f : Dev → Nat → Dev) : Dev :=
  let d := fset d Reg.DBG_HALT_CTL [pathIndex p] Fld.DBG_HALT_CTL_stream st
  if pathOwns d p (partOfStream d st) then f d st else regEvent d p 0x600010

/-- A write of DBG_HALT_CTL. -/
def haltCtlWrite (d : Dev) (p : Path) (data : Word) : Dev :=
  haltFrom d p (Fld.DBG_HALT_CTL_stream.get data) (fun d st =>
    let d := if Fld.DBG_HALT_CTL_halt.get data = 1 then haltStream d st else d
    let d := if Fld.DBG_HALT_CTL_resume.get data = 1 then resumeStream d st else d
    let d := if Fld.DBG_HALT_CTL_step.get data = 1 then stepStream d st else d
    if Fld.DBG_HALT_CTL_force.get data = 1 then forceStream d st else d)

/-- HALT (R555, R556). -/
def execDbgHalt (p : Path) (stream : BitVec 16) (s : State) : Host.Outcome State Fault Refusal :=
  s.run (fun _ d => if portHalted d p then d else haltFrom d p stream.toNat haltStream)

/-- RESUME (R555). -/
def execDbgResume (p : Path) (stream : BitVec 16) (s : State) : Host.Outcome State Fault Refusal :=
  s.run (fun _ d => if portHalted d p then d else haltFrom d p stream.toNat resumeStream)

/-- STEP (R555). -/
def execDbgStep (p : Path) (stream : BitVec 16) (s : State) : Host.Outcome State Fault Refusal :=
  s.run (fun _ d => if portHalted d p then d else haltFrom d p stream.toNat stepStream)

/-- FORCE (R556). -/
def execDbgForce (p : Path) (stream : BitVec 16) (s : State) : Host.Outcome State Fault Refusal :=
  s.run (fun _ d => if portHalted d p then d else haltFrom d p stream.toNat forceStream)

/-- DEFER_EXPIRY (R556, R557): defer_us has passed; without a lock the halt is plain. -/
def execDeferExpiry (stream : BitVec 16) (s : State) : Host.Outcome State Fault Refusal :=
  s.run (fun _ d =>
    let st := stream.toNat
    if (getStrm d st).halt ≠ 1 then d else if lockHeld d st then forceStream d st else setHalt d st 2)

/-! ### Halts of the controller pair -/

/-- The pair halts (R558); its ALIVE deadline is suspended (R559). -/
def pairHalt (d : Dev) (forced : Bool) : Dev :=
  let d := fset d Reg.DBG_MC_HALT [] Fld.DBG_MC_HALT_halted 1
  let d := fset d Reg.DBG_MC_HALT [] Fld.DBG_MC_HALT_deferred 0
  let d := fincSat d Reg.DBG_MC_HALT [] Fld.DBG_MC_HALT_halts 1
  let d := if forced then fincSat d Reg.DBG_MC_HALT [] Fld.DBG_MC_HALT_forced 1 else d
  { d with dbg := { d.dbg with haltAsked := none, haltAt := some d.tb } }

/-- The pair resumes; the ALIVE deadline moves by the length of the halt. -/
def pairResume (d : Dev) : Dev :=
  match d.dbg.haltAt with
  | none => d
  | some t =>
    let d := fset d Reg.DBG_MC_HALT [] Fld.DBG_MC_HALT_halted 0
    { d with dbg := { d.dbg with haltAt := none }, flt := { d.flt with kickAt := d.flt.kickAt + (d.tb - t) } }

/-- MC_HALT (R558): a request is accepted only while mc_halt_en is 1, and deferred within a marked sequence; the end of the sequence
lets it halt, the end of the deferral forces it. -/
def execMcHalt (ev : McEvent) (s : State) : Host.Outcome State Fault Refusal :=
  s.run (fun _ d =>
    match ev, d.dbg.haltAt, d.dbg.haltAsked with
    | .request marked, none, none =>
      if fbit d Reg.DBG_CFG [] Fld.DBG_CFG_mc_halt_en = false then d
      else if marked then
        fset { d with dbg := { d.dbg with haltAsked := some d.tb } } Reg.DBG_MC_HALT [] Fld.DBG_MC_HALT_deferred 1
      else pairHalt d false
    | .sequenceEnds, none, some _ => pairHalt d false
    | .deferralEnds, none, some _ => pairHalt d true
    | .resume, _, _ => pairResume d
    | _, _, _ => d)

/-- MC_HALT_EXPIRY (R559): mc_halt_ms after the halt. -/
def execMcHaltExpiry (s : State) : Host.Outcome State Fault Refusal := s.run (fun _ d => pairResume d)

/-! ### Test patterns -/

/-- The test registers of a unit: 0 CTL, 1 STAT, 2 ERRMAP, 3 MASK, 4 ERRCNT, 5 BITS_LO, 6 MASK2, 7 MASK3, 8 BITS_HI (Table 17.19). -/
def tstDesc (u : TestUnit) (i : Nat) : RegDesc :=
  let hub := [Reg.HUB_TST_CTL, Reg.HUB_TST_STAT, Reg.HUB_TST_ERRMAP, Reg.HUB_TST_MASK, Reg.HUB_TST_ERRCNT, Reg.HUB_TST_BITS_LO,
    Reg.HUB_TST_MASK2, Reg.HUB_TST_MASK3, Reg.HUB_TST_BITS_HI]
  let base := [Reg.BASE_TST_CTL, Reg.BASE_TST_STAT, Reg.BASE_TST_ERRMAP, Reg.BASE_TST_MASK, Reg.BASE_TST_ERRCNT, Reg.BASE_TST_BITS_LO,
    Reg.BASE_TST_MASK2, Reg.BASE_TST_MASK3, Reg.BASE_TST_BITS_HI]
  let lightE := [Reg.LE_TST_CTL, Reg.LE_TST_STAT, Reg.LE_TST_ERRMAP, Reg.LE_TST_MASK, Reg.LE_TST_ERRCNT, Reg.LE_TST_BITS_LO,
    Reg.LE_TST_MASK2, Reg.LE_TST_MASK3, Reg.LE_TST_BITS_HI]
  let fib := [Reg.LQ_TST_CTL, Reg.LQ_TST_STAT, Reg.LQ_TST_ERRMAP, Reg.LQ_TST_MASK, Reg.LQ_TST_ERRCNT, Reg.LQ_TST_BITS_LO,
    Reg.LQ_TST_MASK2, Reg.LQ_TST_MASK3, Reg.LQ_TST_BITS_HI]
  let host := [Reg.HOST_TST_CTL, Reg.HOST_TST_STAT, Reg.HOST_TST_ERRMAP, Reg.HOST_TST_MASK, Reg.HOST_TST_ERRCNT, Reg.HOST_TST_BITS_LO,
    Reg.HOST_TST_MASK2, Reg.HOST_TST_MASK3, Reg.HOST_TST_BITS_HI]
  let l := match u with
    | .feino (.base _ _) => base
    | .feino (.le _ _) => lightE
    | .feino _ => hub
    | .fibre _ => fib
    | .port _ => host
  l.getD i Reg.HUB_TST_CTL

/-- Their index. -/
def tstIx : TestUnit → List Nat
  | .feino x => feiIx x
  | .fibre g => lqIx g.val
  | .port p => [p.val]

/-- The unit exists. -/
def tstExists : TestUnit → Bool
  | .feino x => hasFei x
  | _ => true

/-- Lanes of a unit (Table 17.10). -/
def tstLanes : TestUnit → Nat
  | .feino _ => 68
  | .fibre _ => 18
  | .port _ => 16

/-- The lanes selected for a test. -/
def tstMask (d : Dev) (u : TestUnit) : Nat :=
  (rdReg d (tstDesc u 3) (tstIx u)).toNat + 2 ^ 32 * (rdReg d (tstDesc u 6) (tstIx u)).toNat
    + 2 ^ 64 * (rdReg d (tstDesc u 7) (tstIx u)).toNat

/-- A lane may be tested in a direction now (R561, Table 17.10). -/
def laneTestable (d : Dev) (u : TestUnit) (tx : Bool) (lane : Nat) : Bool :=
  match u with
  | .feino x =>
    let st := feiState d x
    st == 0 || st == 7 || (st == 6 && (exclOf d x tx).contains lane)
  | .fibre g => lqState d g.val == 0 && leState d (g.val / 8) == 2
  | .port p => !(fbit d Reg.HOST_PORT_CTL [p.val] Fld.HOST_PORT_CTL_enable)

/-- A test with these enables may run. -/
def tstAllowed (d : Dev) (u : TestUnit) (tx rx : Bool) : Bool :=
  tstExists u && (match u with
    | .feino x => feiState d x == 0 || decide (6 ≤ feiState d x)
    | _ => laneTestable d u tx 0) &&
    (List.range (tstLanes u)).all (fun l =>
      !(tbit (tstMask d u) l) || ((!tx || laneTestable d u true l) && (!rx || laneTestable d u false l)))

/-- The key of a lane's checker. -/
def checkerKey (u : TestUnit) (lane : Nat) : Nat := 128 * (tstDesc u 0).key (tstIx u) + lane

/-- Start the counts of the selected lane anew (R562, R554). -/
def tstZero (d : Dev) (u : TestUnit) : Dev :=
  let d := wrReg (wrReg (wrReg d (tstDesc u 4) (tstIx u) 0) (tstDesc u 5) (tstIx u) 0) (tstDesc u 8) (tstIx u) 0
  let b := 8 * (tstDesc u 5).key (tstIx u)
  { d with dbg := { d.dbg with bitsHi := Sparse.clear d.dbg.bitsHi b 8 } }

/-- Every checker of a unit seeds anew. -/
def dropCheckers (d : Dev) (u : TestUnit) : Dev :=
  { d with dbg := { d.dbg with checkers := Sparse.clear d.dbg.checkers (checkerKey u 0) 128 } }

/-- A write of TST_CTL (R561, R562). -/
def tstCtlWrite (d : Dev) (p : Path) (u : TestUnit) (data : Word) : Dev :=
  let tx := Fld.HUB_TST_CTL_tx_en.get data == 1
  let rx := Fld.HUB_TST_CTL_rx_en.get data == 1
  let addr := (tstDesc u 0).key (tstIx u)
  if (tx || rx) && !(tstAllowed d u tx rx) then regEvent d p addr
  else
    let lane := fget d (tstDesc u 0) (tstIx u) Fld.HUB_TST_CTL_lane_sel
    let d := (tstDesc u 0).store d (tstIx u) false data
    let d := if rx || lane != Fld.HUB_TST_CTL_lane_sel.get data then tstZero d u else d
    let d := if rx then dropCheckers d u else d
    let d := if rx then fset d (tstDesc u 1) (tstIx u) Fld.HUB_TST_STAT_locked 0 else d
    fset d (tstDesc u 1) (tstIx u) Fld.HUB_TST_STAT_running (bit (tx || rx))

/-- A path may write a unit's test registers (Table 13.7). -/
def tstWrites (d : Dev) (p : Path) (u : TestUnit) : Bool :=
  match u with
  | .fibre g => leWritable d p (g.val / 8)
  | .feino (.le k _) => leWritable d p k.val
  | _ => (pathPort p).isNone

/-- TST_CTL_START (R561). -/
def execTstCtlStart (p : Path) (u : TestUnit) (data : Word) (s : State) : Host.Outcome State Fault Refusal :=
  s.run (fun _ d => if portHalted d p then d else if tstWrites d p u then tstCtlWrite d p u data else regEvent d p ((tstDesc u 0).key (tstIx u)))

/-- The test of a unit runs in a direction. -/
def testing (d : Dev) (u : TestUnit) (f : Fld) : Bool := fbit d (tstDesc u 0) (tstIx u) f

/-- TEST_ABORT (R561): the condition of a running test has ended; its lanes are back in their normal role. -/
def execTestAbort (u : TestUnit) (s : State) : Host.Outcome State Fault Refusal :=
  s.run (fun _ d =>
    let tx := testing d u Fld.HUB_TST_CTL_tx_en
    let rx := testing d u Fld.HUB_TST_CTL_rx_en
    if (tx || rx) && !(tstAllowed d u tx rx) then
      let d := fset (fset d (tstDesc u 0) (tstIx u) Fld.HUB_TST_CTL_tx_en 0) (tstDesc u 0) (tstIx u) Fld.HUB_TST_CTL_rx_en 0
      let d := dropCheckers d u
      let d := fset (fset d (tstDesc u 1) (tstIx u) Fld.HUB_TST_STAT_running 0) (tstDesc u 1) (tstIx u) Fld.HUB_TST_STAT_locked 0
      fset d (tstDesc u 1) (tstIx u) Fld.HUB_TST_STAT_abort 1
    else d)

/-- The taps of a pattern (Table 17.9): its length and its second tap. -/
def patternTaps : Nat → Nat × Nat
  | 0 => (7, 6) | 1 => (15, 14) | 2 => (23, 18) | _ => (31, 28)

/-- The next bit of a pattern after a register, whose latest bit comes first. -/
def patternNext (pattern : Nat) (reg : List Bool) : Bool :=
  xor (reg.getD ((patternTaps pattern).1 - 1) false) (reg.getD ((patternTaps pattern).2 - 1) false)

/-- The first `n` bits that a generator sends: it starts from all ones (R560). -/
def patternBits (pattern : Nat) : Nat → List Bool → List Bool
  | 0, _ => []
  | n + 1, reg => let b := patternNext pattern reg; b :: patternBits pattern n (b :: reg.dropLast)

/-- A checker takes a bit (R562): it seeds from what it receives, then compares; 64 bits without error lock it; locked, more than 16
mismatches within 64 bits make it seed again. Answers the checker, whether it compared the bit while locked, a mismatch, and a
re-seed. -/
def checkBit (pattern : Nat) (c : Checker) (b : Bool) : Checker × Bool × Bool × Bool :=
  let n := (patternTaps pattern).1
  if c.reg.length < n then ({ c with reg := b :: c.reg }, false, false, false)
  else
    let want := patternNext pattern c.reg
    let miss := b != want
    let reg := want :: c.reg.dropLast
    if c.locked then
      let recent := (miss :: c.recent).take 64
      if 16 < (recent.filter id).length then ({}, true, miss, true)
      else ({ c with reg := reg, recent := recent }, true, miss, false)
    else if miss then ({ reg := (b :: c.reg).take n }, false, true, false)
    else ({ c with reg := reg, good := c.good + 1, locked := c.good + 1 == 64 }, false, false, false)

/-- A lane's checker takes bits; a mismatch shows in TST_ERRMAP, and the selected lane counts (R562). -/
def checkBits (u : TestUnit) (lane : Nat) : List Bool → Dev → Dev
  | [], d => d
  | b :: bs, d =>
    let ctl := rdReg d (tstDesc u 0) (tstIx u)
    let c := Sparse.get {} d.dbg.checkers (checkerKey u lane)
    let r := checkBit (Fld.HUB_TST_CTL_pattern.get ctl) c (xor b (Fld.HUB_TST_CTL_invert.get ctl == 1))
    let d := { d with dbg := { d.dbg with checkers := Sparse.set {} d.dbg.checkers (checkerKey u lane) r.1 } }
    let d := if r.2.2.1 && r.2.1 then
      wrReg d (tstDesc u 2) (tstIx u ++ [lane / 32]) (rdReg d (tstDesc u 2) (tstIx u ++ [lane / 32]) ||| BitVec.ofNat 32 (2 ^ (lane % 32)))
      else d
    let d := if Fld.HUB_TST_CTL_lane_sel.get ctl = lane then
      let d := fset d (tstDesc u 1) (tstIx u) Fld.HUB_TST_STAT_locked (bit r.1.locked)
      let d := if r.2.2.2 then fincSat d (tstDesc u 1) (tstIx u) Fld.HUB_TST_STAT_relocks 1 else d
      let d := if r.2.1 && r.2.2.1 then fincSat d (tstDesc u 4) (tstIx u) Fld.HUB_TST_ERRCNT_errors 1 else d
      if r.2.1 then
        let n := pair64 (rdReg d (tstDesc u 5) (tstIx u)) (rdReg d (tstDesc u 8) (tstIx u)) + 1
        wrReg (wrReg d (tstDesc u 5) (tstIx u) (low32 n)) (tstDesc u 8) (tstIx u) (high32 n)
      else d
      else d
    checkBits u lane bs d

/-- CHECKER_LOCK (R562): a lane's checker receives bits. -/
def execCheckerLock (u : TestUnit) (lane : Fin 68) (rx : List Bool) (s : State) : Host.Outcome State Fault Refusal :=
  s.run (fun _ d =>
    if testing d u Fld.HUB_TST_CTL_rx_en && tbit (tstMask d u) lane.val then checkBits u lane.val rx d else d)

/-! ### JTAG -/

/-- The instruction register after Update-IR (R563): a reserved code acts as BYPASS, and so do the boundary-scan instructions while
RESET_N is high. -/
def jtagIr (resetLow : Bool) (code : Nat) : Nat :=
  if code = 0x01 ∨ code = 0x02 ∨ code = 0x20 ∨ code = 0x21 then code
  else if (code = 0x00 ∨ code = 0x03 ∨ code = 0x04 ∨ code = 0x08 ∨ code = 0x09) ∧ resetLow then code
  else 0xFF

/-- JTAG_INSTRUCTION (R563). -/
def execJtagInstruction (code : BitVec 8) (s : State) : Host.Outcome State Fault Refusal :=
  s.run (fun _ d => { d with dbg := { d.dbg with ir := jtagIr d.fw.resetLow code.toNat } })

/-- JTAG_TAP_RESET (R563): the instruction is IDCODE. -/
def execJtagTapReset (s : State) : Host.Outcome State Fault Refusal :=
  s.run (fun _ d => { d with dbg := { d.dbg with ir := 2 } })

end Sys2Proof.Machine
end

