-- ==== Sys2Proof/Machine/Coppice.lean ====
section
/-!
DEFINITION. Coppice (R25-R36): site states, the core map, the plan of a start, the choice of a spare, the fence of a core site and its
replacement at run time.
-/
namespace Sys2Proof.Machine

/-- The active count T of the grade (R29, R41). -/
def coreTarget (e : Env) : Nat := if e.fuses.gradeB then 28 else 32

/-- Set what Coppice shows of a site (Table 1.12). -/
def setSite (d : Dev) (s st logical reason : Nat) : Dev :=
  let r := Reg.HUB_SITE_STATE
  fset (fset (fset d r [s] Fld.HUB_SITE_STATE_state st) r [s] Fld.HUB_SITE_STATE_logical logical) r [s]
    Fld.HUB_SITE_STATE_reason reason

/-- Give a logical number its site, or none (Table 1.13). -/
def setCore (d : Dev) (c : Nat) (site : Option Nat) : Dev :=
  match site with
  | some s => fset (fset d Reg.HUB_CORE_MAP [c] Fld.HUB_CORE_MAP_site s) Reg.HUB_CORE_MAP [c] Fld.HUB_CORE_MAP_valid 1
  | none => wrReg d Reg.HUB_CORE_MAP [c] 0

/-- After a change of the maps: the counts of HUB_COPPICE_STAT, and one more generation (R36). -/
def mapChanged (d : Dev) : Dev :=
  let r := Reg.HUB_COPPICE_STAT
  let n := ((List.range 32).filter (fun c => (siteOfCore d c).isSome)).length
  let sp := ((List.range 36).filter (fun s => siteState d s == 1)).length
  let d := fset (fset d r [] Fld.HUB_COPPICE_STAT_cores_active n) r [] Fld.HUB_COPPICE_STAT_spares_left sp
  fincWrap d r [] Fld.HUB_COPPICE_STAT_generation 1

/-- Sites of a base die that count as active (R30). -/
def activeOn (d : Dev) (m : Nat) : Nat := ((baseSites m).filter (fun s => siteState d s == 0 || siteState d s == 5)).length

/-- The lowest spare of a base die. -/
def spareOn (d : Dev) (m : Nat) : Option Nat := (baseSites m).find? (fun s => siteState d s == 1)

/-- The spare of the base die, of those with a spare, with the fewest active sites; a tie goes to the lowest index (R30). -/
def spareElsewhere (d : Dev) : Option Nat :=
  let ms := (List.range 6).filter (fun m => (spareOn d m).isSome)
  (ms.find? (fun m => ms.all (fun n => decide (activeOn d m ≤ activeOn d n)))).bind (spareOn d)

/-- The spare that replaces a site (R30): on the same base die; otherwise from the base die with the fewest active sites. -/
def chooseSpare (d : Dev) (old : Nat) : Option Nat :=
  match spareOn d (old / 6) with
  | some s => some s
  | none => spareElsewhere d

/-- The configuration registers of a site that a replacement keeps (R35): MXE_CFG, the engine groups of Table 4.17, CMEM_CFG and
CMEM_SCRUB; with the index that follows the site. -/
def configRegs : List (RegDesc × List Nat) :=
  [(Reg.MXE_CFG, []), (Reg.VXE_CFG, [0]), (Reg.VXE_CFG, [1]), (Reg.VXE_CFG, [2]), (Reg.VXE_CFG, [3]), (Reg.SFE_CFG, []),
   (Reg.TOP_CFG, []), (Reg.GDE_CFG, []), (Reg.CPE_CFG, []), (Reg.DME_CFG, [0]), (Reg.DME_CFG, [1]), (Reg.RNG_CFG, []),
   (Reg.CMEM_CFG, []), (Reg.CMEM_SCRUB, [])]

/-- The first byte of a site's register block (R15). -/
def siteBlock (s : Nat) : Nat := 0x1000000 + 0x40000 * s

/-- What the configuration registers of a site hold, lock bits included, by their offsets in the site block. -/
def siteConfig (d : Dev) (s : Nat) : List (Nat × Word) :=
  configRegs.map (fun r => (r.1.key (s :: r.2) - siteBlock s, rdReg d r.1 (s :: r.2)))

/-- Write a recorded configuration to a site. -/
def writeConfig (d : Dev) (s : Nat) (cfg : List (Nat × Word)) : Dev :=
  (configRegs.zip cfg).foldl (fun d x => wrReg d x.1.1 (s :: x.1.2) x.2.2) d

/-- A core site reset (R35): every register of the block, the engine slots and the accumulator file. -/
def resetSite (d : Dev) (s : Nat) : Dev :=
  { d with
      regs := Sparse.clear d.regs (siteBlock s) 0x40000,
      mxe := Sparse.del d.mxe s,
      eng := Sparse.clear d.eng (16 * s) 16,
      cmem := Sparse.del d.cmem s,
      handoff := d.handoff.filter (fun h => h.site != s),
      dbg := { d.dbg with trc := Sparse.del d.dbg.trc s, events := d.dbg.events.filter (fun x => x.unit != s) }}

/-- A logical number has no site and no spare remains (R31, R34): it stays vacant, and its streams are lost (R216). -/
def vacate (d : Dev) (c : Nat) : Dev :=
  let d := { d with coppice := { d.coppice with replacing := Sparse.del d.coppice.replacing c } }
  let d := report d { source := 0x21, unit := 0, sub := c, stat := Reg.HUB_CORE_MAP.slot [c] }
  loseStreams d c

/-- Coppice shows that it is changing the map while a spare is being brought in. -/
def showBusy (d : Dev) : Dev :=
  fset d Reg.HUB_COPPICE_STAT [] Fld.HUB_COPPICE_STAT_busy (bit ((List.range 36).any (fun s => siteState d s == 5)))

/-- Table 1.5 step 2: choose a spare for a logical number whose site failed. -/
def bringSpare (d : Dev) (c old : Nat) : Dev :=
  match chooseSpare d old with
  | none => showBusy (vacate d c)
  | some s =>
    let d := { d with coppice := { d.coppice with replacing := Sparse.put d.coppice.replacing c old } }
    showBusy (mapChanged (setSite (resetSite d s) s 5 c 0))

/-- The fence of an active core site (R34, Table 1.5 step 1), and the choice of its spare. -/
def fenceCore (d : Dev) (s : Nat) : Dev :=
  if siteState d s ≠ 0 then d
  else
    let c := siteLogical d s
    let d := { d with coppice := { d.coppice with recorded := Sparse.put d.coppice.recorded c (siteConfig d s) } }
    let d := faultStreams (stopCounters d s) c
    let d := mapChanged (setCore (setSite (resetSite d s) s 4 0 5) c none)
    bringSpare d c s

/-- SPARE_ACTIVATION_DONE (R35, Table 1.5 steps 3 and 4): the banks have been marched and read zero; the recorded configuration is
written; the spare takes the logical number, and the standing map follows. -/
def execSpareActivationDone (site : Fin 36) (s : State) : Host.Outcome State Fault Refusal :=
  s.run (fun _ d =>
    let s := site.val
    if siteState d s ≠ 5 then d
    else
      let c := siteLogical d s
      let d := (List.range 34).foldl (fun d b => zeroBank d s b) d
      let d := writeConfig d s (Sparse.get [] d.coppice.recorded c)
      let d := setCore (setSite d s 0 c 0) c (some s)
      let d := { d with
          coppice := { d.coppice with
            replacing := Sparse.del d.coppice.replacing c,
            standing := d.coppice.standing.map (fun m => Sparse.put m c s) }}
      let d := wrReg d Reg.THM_CORE [s] (Fld.THM_CORE_pstate.put (rdReg d Reg.THM_CORE [s]) 1)
      let d := setRail d s (match partOfCore d c with | some q => railWish d q | none => 750)
      showBusy (mapChanged d))

/-- SPARE_ACTIVATION_FAIL (R34): the spare is fenced, and the choice is made again for the same logical number. -/
def execSpareActivationFail (site : Fin 36) (s : State) : Host.Outcome State Fault Refusal :=
  s.run (fun _ d =>
    let s := site.val
    if siteState d s ≠ 5 then d
    else
      let c := siteLogical d s
      let old := Sparse.get s d.coppice.replacing c
      let d := report d { source := 0x20, unit := unitSite s, part := partOfCore d c, stat := Reg.HUB_CORE_MAP.slot [c] }
      let d := mapChanged (setSite (resetSite (stopCounters d s) s) s 4 0 5)
      bringSpare d c old)

/-! ### The plan of a start -/

/-- The base die with the most active sites; a tie goes to the highest index (R29). -/
def fullest (act : List Nat) : Nat :=
  let n (m : Nat) : Nat := (act.filter (fun s => s / 6 == m)).length
  ((List.range 6).foldl (fun b m => if n b ≤ n m then m else b) 0)

/-- The fresh plan: from the good sites, take the highest-numbered site of the fullest base die until T remain (R29). -/
def freshActive (t : Nat) : Nat → List Nat → List Nat
  | 0, act => act
  | fuel + 1, act =>
    if act.length ≤ t then act
    else match (act.filter (fun s => s / 6 == fullest act)).getLast? with
      | some s => freshActive t fuel (act.filter (· != s))
      | none => act

/-- Set the states of a start's sites: `bad` gives the reason of a site that is not good (0: good). -/
def startSites (d : Dev) (bad : Nat → Nat) : Dev :=
  (List.range 36).foldl (fun d s =>
    if bad s = 1 then setSite d s 2 0 1 else if bad s ≠ 0 then setSite d s 3 0 (bad s) else setSite d s 1 0 0) d

/-- A logical number takes a site at a start. -/
def placeCore (d : Dev) (c s : Nat) : Dev := setCore (setSite d s 0 c 0) c (some s)

/-- The plan of a start (R28, R29, R31): the standing map on its good sites and spares for the rest, or a fresh plan; numbers without
a site are vacant. -/
def planStart (e : Env) (d : Dev) (bad : Nat → Nat) : Dev :=
  let t := coreTarget e
  let replan := fbit d Reg.HUB_COPPICE_CTL [] Fld.HUB_COPPICE_CTL_replan
  let d := startSites d bad
  let d := (List.range 32).foldl (fun d c => setCore d c none) d
  let fresh (d : Dev) : Dev :=
    let act := freshActive t 36 ((List.range 36).filter (fun s => bad s == 0))
    let d := ((List.range t).zip act).foldl (fun d x => placeCore d x.1 x.2) d
    fset d Reg.HUB_COPPICE_STAT [] Fld.HUB_COPPICE_STAT_map_source 2
  let d := match d.coppice.standing with
    | none => fresh d
    | some m =>
      if replan then fresh d
      else
        let d := m.foldl (fun d x => if x.1 < t ∧ siteState d x.2 = 1 then placeCore d x.1 x.2 else d) d
        let d := (List.range t).foldl (fun d c =>
          if (siteOfCore d c).isSome then d
          else match (match Sparse.find m c with | some old => chooseSpare d old | none => spareElsewhere d) with
            | some s => placeCore d c s
            | none => d) d
        fset d Reg.HUB_COPPICE_STAT [] Fld.HUB_COPPICE_STAT_map_source 1
  let d := (List.range t).foldl (fun d c =>
    if (siteOfCore d c).isSome then d else report d { source := 0x21, unit := 0, sub := c, stat := Reg.HUB_CORE_MAP.slot [c] }) d
  mapChanged { d with coppice := { d.coppice with replacing := [] } }

/-- When a start completes, the map is recorded as standing, and a replanning mark is cleared (R27, Table 1.11). -/
def mapStands (d : Dev) : Dev :=
  let m : Sparse.Map Nat := (List.range 32).filterMap (fun c => (siteOfCore d c).map (fun s => (c, s)))
  let d := fset { d with coppice := { d.coppice with standing := some m } } Reg.HUB_COPPICE_CTL [] Fld.HUB_COPPICE_CTL_replan 0
  fset d Reg.HUB_COPPICE_STAT [] Fld.HUB_COPPICE_STAT_busy 0

end Sys2Proof.Machine
end

