-- ==== Sys2Proof/Machine/Hawthorn.lean ====
section
/-!
DEFINITION. Hawthorn, the fault collector (R518-R537): the class of a report, the partitions it affects, escalation, latches, pending
records, the reactions, vectors, PLDM events, ALIVE, acknowledgement and clearing.
-/
namespace Sys2Proof.Machine

/-! ### Classes and affected partitions -/

/-- The class of a source (Table 16.2). -/
def classOf (source : Nat) : Nat := if source < 0x20 then 0 else if source < 0x30 then 1 else if source < 0x40 then 2 else 3

/-- A source marked as escalating (Table 16.2). -/
def escalates (source : Nat) : Bool :=
  [0x11, 0x12, 0x14, 0x16, 0x17, 0x20, 0x22, 0x23, 0x24, 0x26, 0x27, 0x28].contains source

/-- The partition that a core site serves: the one that owns its logical core (R521). -/
def partOfSite (d : Dev) (s : Nat) : Option Nat :=
  if siteState d s = 0 ∨ siteState d s = 5 then partOfCore d (siteLogical d s) else none

/-- The partitions that a unit serves (R521). -/
def unitServes (d : Dev) (u : Nat) : List Nat :=
  if u = 0 then (List.range 16).filter (partOn d)
  else if u < 7 then
    (List.range 16).filter (fun q => (partsHomed d (u - 1)).contains q || (baseSites (u - 1)).any (fun s => partOfSite d s == some q))
  else if u < 43 then (partOfSite d (u - 7)).toList
  else if u < 59 then (partOfTrunk d ((u - 43) / 2)).toList
  else if u < 61 then (partOfGuest d (u - 59)).toList
  else (List.range 16).filter (fun q => partOn d q && portOfPart d q == u - 61)

/-- The partitions that a fault affects: a usage source the requester's, an unreadable set of tags each partition told of it, any other
those its unit serves (R237, R521). -/
def affected (d : Dev) (r : Report) : List Nat :=
  if (1 ≤ r.source ∧ r.source ≤ 4) ∨ r.source = 0x31 then (r.part.toList).filter (partOn d) else unitServes d r.unit

/-! ### Pending records -/

/-- Replace the pending records, and what the registers show of them: FLT_STAT.pend, FLT_PEND1, FLT_PEND2 and FLT_PART.pend. -/
def setPendings (d : Dev) (ps : List Pend) : Dev :=
  let d := { d with flt := { d.flt with pend := ps } }
  let cls (c : Nat) : Bool := ps.any (fun x => x.cls == c)
  let d := fset d Reg.FLT_STAT [] Fld.FLT_STAT_pend (bit (cls 0) + 2 * bit (cls 1) + 4 * bit (cls 2))
  let unit (u : Nat) : Bool := ps.any (fun x => x.cls == 1 && x.unit == u)
  let units (lo n : Nat) : Nat := ((List.range n).map (fun i => bit (unit (lo + i)) * 2 ^ i)).sum
  let part (q : Nat) : Bool := ps.any (fun x => x.cls == 2 && x.parts.contains q)
  let d := wrReg d Reg.FLT_PEND1_LO [] (low32 (units 0 32))
  let d := wrReg d Reg.FLT_PEND1_MID [] (low32 (units 32 32))
  let d := wrReg d Reg.FLT_PEND1_HI [] (low32 (units 64 1))
  let d := wrReg d Reg.FLT_PEND2 [] (low32 ((List.range 16).map (fun q => bit (part q) * 2 ^ q)).sum)
  (List.range 16).foldl (fun d q => fset d Reg.FLT_PART_STAT [q] Fld.FLT_PART_STAT_pend (bit (part q))) d

/-- A fault meets a pending record of its class in its scope (R524). -/
def meetsPending (d : Dev) (r : Report) (parts : List Nat) : Bool :=
  let c := classOf r.source
  d.flt.pend.any (fun x => x.cls == c &&
    (if c = 0 then escalates r.source && x.source == r.source && x.unit == r.unit && x.sub == r.sub
     else if c = 1 then escalates r.source && x.unit == r.unit
     else decide (c = 2) && x.parts.any (fun q => parts.contains q)))

/-- Pending records of escalating class C0 sources (R525). -/
def pendTable (d : Dev) : Nat := (d.flt.pend.filter (fun x => x.cls == 0 && escalates x.source)).length

/-- Enter a record among the pending ones; a class C0 fault of an escalating source that finds the table full is not entered (R525). -/
def enterPending (d : Dev) (r : Report) (cls : Nat) (parts : List Nat) (core : Option Nat) : Dev :=
  if cls = 0 ∧ escalates r.source ∧ 64 ≤ pendTable d then
    fincSat d Reg.FLT_STAT [] Fld.FLT_STAT_pend_full 1
  else
    let auto_ := tbit (fget d Reg.FLT_CFG [] Fld.FLT_CFG_auto_ack) cls && decide (cls < 3)
    setPendings d (d.flt.pend ++ [⟨r.source, r.unit, r.sub, cls, parts, d.tb, auto_, core⟩])

/-! ### Latches, reports and the event store -/

/-- Latch a record in its class and in each partition that it affects (R522). -/
def latchRecord (d : Dev) (cls ident : Nat) (detail : Word) (parts : List Nat) : Dev :=
  let valid := fget d Reg.FLT_STAT [] Fld.FLT_STAT_valid
  let d := if tbit valid cls then
      fset d Reg.FLT_STAT [] Fld.FLT_STAT_ovr (fget d Reg.FLT_STAT [] Fld.FLT_STAT_ovr ||| 2 ^ cls)
    else
      let d := wrReg d Reg.FLT_FIRST_IDENT [cls] (low32 ident)
      let d := wrReg d Reg.FLT_FIRST_DETAIL [cls] detail
      let d := wrReg d Reg.FLT_FIRST_TIME_LO [cls] (low32 d.tb)
      let d := wrReg d Reg.FLT_FIRST_TIME_HI [cls] (high32 d.tb)
      fset d Reg.FLT_STAT [] Fld.FLT_STAT_valid (valid ||| 2 ^ cls)
  let d := fincSat d Reg.FLT_COUNT [cls] Fld.FLT_COUNT_count 1
  parts.foldl (fun d q =>
    let d := if fget d Reg.FLT_PART_STAT [q] Fld.FLT_PART_STAT_count = 0 then
        wrReg (wrReg d Reg.FLT_PART_REC [q] (low32 ident)) Reg.FLT_PART_DET [q] detail else d
    fincSat (fset d Reg.FLT_PART_STAT [q] Fld.FLT_PART_STAT_last cls) Reg.FLT_PART_STAT [q] Fld.FLT_PART_STAT_count 1) d

/-- The fault vector of a partition (R531). -/
def faultVector (d : Dev) (q : Nat) : Dev :=
  signalVector d (portOfPart d q) (fget d Reg.FLT_PART_CTL [q] Fld.FLT_PART_CTL_vector)

/-- Send the vectors of a record (R531, Table 16.5 step 2). -/
def faultVectors (d : Dev) (cls : Nat) (parts : List Nat) : Dev :=
  let on (q : Nat) (f : Fld) : Bool := fbit d Reg.FLT_PART_CTL [q] f
  let irq := Fld.FLT_PART_CTL_irq_en
  let qs := if cls = 3 then (List.range 16).filter (fun q => partOn d q && portSends d (portOfPart d q))
    else parts.filter (fun q => on q irq && (decide (0 < cls) || on q Fld.FLT_PART_CTL_c0_irq))
  qs.foldl faultVector d

/-- The queue of PLDM events (R532): full at 64. -/
def pldmQueue (d : Dev) (ws : List Word) : Dev :=
  if d.flt.pldm.length < 64 then { d with flt := { d.flt with pldm := d.flt.pldm ++ [ws] } }
  else fset d Reg.FLT_STAT [] Fld.FLT_STAT_pldm_ovr 1

/-- A fault record of the event store (R533). -/
def storeFault (d : Dev) (ident : Nat) (detail : Word) (parts : List Nat) : Dev :=
  storeWrite d (leBytes 8 d.tb ++ leBytes 4 ident ++ leBytes 1 5 ++ leBytes 1 (parts.headD 0xFF) ++ leBytes 2 detail.toNat)

/-! ### Reactions -/

/-- The enable bit of an engine of a site is cleared (Table 16.4): 0 MXE, 1 to 11 the units of Table 4.17. -/
def fenceEngine (d : Dev) (s u : Nat) : Dev :=
  if u = 0 then fset d Reg.MXE_CFG [s] Fld.MXE_CFG_enable 0
  else if u < 12 then fset d (engCfg u) (engIx s u) Fld.VXE_CFG_enable 0 else d

/-- A stack whose accesses return POISON until the next start (Table 16.4). -/
def killStack (d : Dev) (n : Nat) : Dev :=
  if d.coh.deadStacks.contains n then d else { d with coh := { d.coh with deadStacks := d.coh.deadStacks ++ [n] } }

/-- The fence of a class C1 fault (R527, Table 16.4). The sources whose own rules have acted before Hawthorn takes them have no arm. -/
def reactC1 (e : Env) (d : Dev) (r : Report) : Dev :=
  let site := r.unit - 7
  let onSite : Bool := decide (7 ≤ r.unit) && decide (r.unit < 43)
  let onBase : Bool := decide (1 ≤ r.unit) && decide (r.unit < 7)
  if r.source = 0x11 ∧ onSite then fset d Reg.CMEM_BANK [site, r.sub] Fld.CMEM_BANK_state 6
  else if r.source = 0x12 ∧ onSite then fenceEngine d site r.sub
  else if (r.source = 0x20 ∨ r.source = 0x17) ∧ onSite then fenceCore d site
  else if r.source = 0x14 ∧ onBase then fenceSlice d (r.unit - 1) [] false
  else if (r.source = 0x16 ∨ r.source = 0x17) ∧ onBase then killStack d (4 * (r.unit - 1) + r.sub)
  else if r.source = 0x17 ∧ 59 ≤ r.unit ∧ r.unit < 61 then killGuest e d (r.unit - 59) 4
  else if r.source = 0x24 then (match r.bundle with | some x => feiClose d x | none => d)
  else d

/-- The enabled streams of a partition. -/
def partStreams (d : Dev) (q : Nat) : List Nat :=
  (d.regs.filterMap (fun r => if Reg.HUB_STRM_CFG.base ≤ r.1 ∧ r.1 < Reg.HUB_STRM_CFG.base + 0x100 * 65536 ∧
      (r.1 - Reg.HUB_STRM_CFG.base) % 0x100 = 0 then some ((r.1 - Reg.HUB_STRM_CFG.base) / 0x100) else none)).filter
    (fun st => strmOn d st && partOfStream d st == some q)

/-- The plans of a partition's slots: armed ones are disarmed, running ones fail as if their limit had passed (R528). -/
def stopPlans (d : Dev) (q : Nat) : Dev :=
  (List.range 16).foldl (fun d i =>
    let c := 16 * q + i
    if (planAt d c).isSome then planTimeout d c
    else if (planRec d c).arm then setPlanState (disarm d c) c 0 0 else d) d

/-- A class C2 fault stops a partition (R528). -/
def stopPartition (e : Env) (d : Dev) (q : Nat) : Dev :=
  let d := fset d Reg.FLT_PART_STAT [q] Fld.FLT_PART_STAT_fatal 1
  let d := stopPlans ((partStreams d q).foldl (disableStream e) d) q
  (List.range 2).foldl (fun d g => if partOfGuest d g = some q then killGuest e d g 4 else d) d

/-- A class C3 fault halts the device (R529, Table 16.5). -/
def haltDevice (e : Env) (d : Dev) : Dev :=
  let d := { d with mxe := [], eng := [], engDone := [], handoff := [] }
  let d := (List.range 2).foldl (fun d g => killGuest e d g 4) d
  let d := (List.range 16).foldl (fun d k => if leState d k = 0 ∨ leState d k = 4 then d else leDark d k) d
  fset d Reg.FLT_ALIVE [] Fld.FLT_ALIVE_running 0

/-- Hawthorn takes a fault (R519-R528): class, escalation, record, latch, reaction. -/
def takeFault (e : Env) (d : Dev) (r : Report) : Dev :=
  let parts := affected d r
  let esc := meetsPending d r parts
  let cls := classOf r.source + bit esc
  let detail := match r.stat with
    | some (k, z) => Sparse.get z d.regs k
    | none => r.detail
  let ident := r.source * 2 ^ 24 + r.unit * 2 ^ 17 + r.sub * 2 ^ 7 + cls * 2 ^ 5 + bit esc * 2 ^ 4
  let onSite : Bool := decide (7 ≤ r.unit) && decide (r.unit < 43)
  let core := if cls = 1 ∧ (r.source = 0x20 ∨ r.source = 0x17) ∧ onSite ∧ siteState d (r.unit - 7) = 0
    then some (siteLogical d (r.unit - 7)) else none
  let d := if cls = 3 then fset d Reg.FLT_STAT [] Fld.FLT_STAT_fatal 1 else d
  let d := enterPending (latchRecord d cls ident detail parts) r cls parts core
  let d := if 0 < cls then pldmQueue (storeFault d ident detail parts) [low32 ident, detail, low32 d.tb, high32 d.tb] else d
  let d := faultVectors d cls parts
  if cls = 1 then reactC1 e d r
  else if cls = 2 then parts.foldl (stopPartition e) d
  else if cls = 3 then haltDevice e d else d

/-! ### The commands -/

/-- FAULT_TAKEN (R525): Hawthorn takes one of the faults that reached it; the order among them is not defined. -/
def execFaultTaken (n : BitVec 16) (s : State) : Host.Outcome State Fault Refusal :=
  s.run (fun e d => match d.reports[n.toNat]? with
    | some r => takeFault e { d with reports := d.reports.take n.toNat ++ d.reports.drop (n.toNat + 1) } r
    | none => d)

/-- CORE_FAIL (R34, Table 1.5): Hawthorn takes the failure of an active core site. -/
def execCoreFail (site : Fin 36) (s : State) : Host.Outcome State Fault Refusal :=
  s.run (fun e d =>
    let i := site.val
    if siteState d i ≠ 0 then d
    else takeFault e d { source := 0x20, unit := unitSite i, stat := Reg.HUB_CORE_MAP.slot [siteLogical d i] })

/-- The reaction to a record has completed (Table 16.1, R518). -/
def reactionDone (d : Dev) (x : Pend) : Bool :=
  if x.cls = 1 then
    (match x.core with
      | some c => !((List.range 36).any (fun s => siteState d s == 5 && siteLogical d s == c))
      | none => true)
  else if x.cls = 2 then x.parts.all (fun q => (partStreams d q).isEmpty)
  else true

/-- FAULT_PENDING_END (R518, R523): a record with automatic acknowledgement ends when its reaction has completed. -/
def execFaultPendingEnd (n : BitVec 16) (s : State) : Host.Outcome State Fault Refusal :=
  s.run (fun _ d => match d.flt.pend[n.toNat]? with
    | some x =>
      if x.auto_ && decide (x.cls < 3) && reactionDone d x then
        setPendings d (d.flt.pend.take n.toNat ++ d.flt.pend.drop (n.toNat + 1))
      else d
    | none => d)

/-- Acknowledge every pending record of the named classes (R523): a class C3 record never. -/
def fltAckWrite (d : Dev) (classes : Nat) : Dev :=
  setPendings d (d.flt.pend.filter (fun x => decide (3 ≤ x.cls) || !(tbit classes x.cls)))

/-- Clear a class (R535): refused while a record of it is pending. -/
def clearClass (d : Dev) (c : Nat) : Dev :=
  if d.flt.pend.any (fun x => x.cls == c) then fset d Reg.FLT_STAT [] Fld.FLT_STAT_clr_ref 1
  else
    let off (f : Fld) : Nat := Nat.land (fget d Reg.FLT_STAT [] f) (15 - 2 ^ c)
    let v := off Fld.FLT_STAT_valid
    let o := off Fld.FLT_STAT_ovr
    let d := fset (fset d Reg.FLT_STAT [] Fld.FLT_STAT_valid v) Reg.FLT_STAT [] Fld.FLT_STAT_ovr o
    [Reg.FLT_FIRST_IDENT, Reg.FLT_FIRST_DETAIL, Reg.FLT_FIRST_TIME_LO, Reg.FLT_FIRST_TIME_HI, Reg.FLT_COUNT].foldl
      (fun d r => wrReg d r [c] 0) d

/-- A write of FLT_CLEAR. -/
def fltClearWrite (d : Dev) (classes : Nat) : Dev :=
  (List.range 3).foldl (fun d c => if tbit classes c then clearClass d c else d) d

/-- FLT_ACK, from the side-band or MFW; a port does not reach it (R523, R537). -/
def execFltAck (p : Path) (classes : BitVec 3) (s : State) : Host.Outcome State Fault Refusal :=
  s.run (fun _ d => if (pathPort p).isSome then regEvent d p (Reg.FLT_ACK.key []) else fltAckWrite d classes.toNat)

/-- FLT_CLEAR, from the side-band or MFW (R535, R537). -/
def execFltClear (p : Path) (classes : BitVec 3) (s : State) : Host.Outcome State Fault Refusal :=
  s.run (fun _ d => if (pathPort p).isSome then regEvent d p (Reg.FLT_CLEAR.key []) else fltClearWrite d classes.toNat)

/-- Acknowledge the pending class C2 records that affect a partition (R523). -/
def partAck (d : Dev) (q : Nat) : Dev := setPendings d (d.flt.pend.filter (fun x => !(x.cls == 2 && x.parts.contains q)))

/-- Clear a partition's entry (R535): refused while a class C2 record affecting it is pending or a stream of it is not OFF. -/
def partClear (d : Dev) (q : Nat) : Dev :=
  if d.flt.pend.any (fun x => x.cls == 2 && x.parts.contains q) || !(partStreams d q).isEmpty then
    fset d Reg.FLT_STAT [] Fld.FLT_STAT_clr_ref 1
  else
    let d := fset d Reg.FLT_PART_STAT [q] Fld.FLT_PART_STAT_fatal 0
    let d := fset d Reg.FLT_PART_STAT [q] Fld.FLT_PART_STAT_count 0
    wrReg (wrReg d Reg.FLT_PART_REC [q] 0) Reg.FLT_PART_DET [q] 0

/-- A path reaches FLT_PART_CTL of a partition: a port that of a partition bound to it, enabled or not (R537, log entry 147). -/
def fltPartPath (d : Dev) (p : Path) (q : Nat) : Bool := match pathPort p with | none => true | some n => portOfPart d q == n

/-- A write of FLT_PART_CTL: its fields, then an acknowledgement, then a clear (log entry 80). -/
def fltPartCtlWrite (d : Dev) (q : Nat) (data : Word) : Dev :=
  let d := Reg.FLT_PART_CTL.store d [q] false data
  let d := if Fld.FLT_PART_CTL_ack.get data = 1 then partAck d q else d
  if Fld.FLT_PART_CTL_clear.get data = 1 then partClear d q else d

/-- FLT_PART_ACK (R523). -/
def execFltPartAck (p : Path) (q : Fin 16) (s : State) : Host.Outcome State Fault Refusal :=
  s.run (fun _ d => if fltPartPath d p q.val then partAck d q.val else regEvent d p (Reg.FLT_PART_CTL.key [q.val]))

/-- FLT_PART_CLEAR (R535). -/
def execFltPartClear (p : Path) (q : Fin 16) (s : State) : Host.Outcome State Fault Refusal :=
  s.run (fun _ d => if fltPartPath d p q.val then partClear d q.val else regEvent d p (Reg.FLT_PART_CTL.key [q.val]))

/-- ALIVE_KICK (R534): accepted from MFW only; a port does not reach the register (R537). -/
def execAliveKick (p : Path) (s : State) : Host.Outcome State Fault Refusal :=
  s.run (fun _ d =>
    if (pathPort p).isSome then regEvent d p (Reg.FLT_ALIVE.key [])
    else if p = .mfw then { d with flt := { d.flt with kickAt := d.tb } } else d)

/-- MFW_HANG (R534): a kick is 100 ms late while the generator runs; a halt of the pair holds the deadline (R559). -/
def execMfwHang (s : State) : Host.Outcome State Fault Refusal :=
  s.run (fun e d =>
    if fbit d Reg.FLT_ALIVE [] Fld.FLT_ALIVE_running && !(pairHalted d) then
      takeFault e d { source := 0x43, unit := 0, stat := Reg.FLT_ALIVE.slot [] }
    else d)

/-- PLDM_POLL_EVENT (R532): the bus owner collects the oldest queued event. -/
def execPldmPollEvent (s : State) : Host.Outcome State Fault Refusal :=
  s.run (fun _ d => match d.flt.pldm with
    | ws :: rest => emit { d with flt := { d.flt with pldm := rest } } (.pldm ws)
    | [] => d)

end Sys2Proof.Machine
end

