-- ==== Sys2Proof/Machine/Power.lean ====
section
/-!
DEFINITION. Power states (R460, R461, R489, R490, R548): entry of the deepest state that a tolerated latency and the idle time allow,
wakes, and what a new tolerance wakes.
-/
namespace Sys2Proof.Machine

/-- The engines of a site hold no descriptor, and none is on its way to them (Table 14.7, IDLE). -/
def siteIdle (d : Dev) (s : Nat) : Bool :=
  (getMxe d s).active.isNone && (getMxe d s).staged.isNone && !(d.handoff.any (fun h => h.site == s)) &&
    (List.range 16).all (fun u => (getEng d s u).active.isNone && (getEng d s u).staged.isNone)

/-- The power state of a core site: 1 awake, and the codes 2 to 5 of Table 14.7. -/
def corePstate (d : Dev) (s : Nat) : Nat := fget d Reg.THM_CORE [s] Fld.THM_CORE_pstate

/-- Set it. -/
def setPstate (d : Dev) (s n : Nat) : Dev := fset d Reg.THM_CORE [s] Fld.THM_CORE_pstate n

/-- The worst exit of a core's power state, in ns (Table 14.7). -/
def coreExit (n : Nat) : Nat := if n = 2 then 130 else if n = 3 then 3000 else if n = 4 then 25000 else 0

/-- The deepest power state that an idle core may enter (R489). -/
def coreTargetState (d : Dev) (s idle : Nat) : Nat :=
  let fits (n : Nat) : Bool := latFits (siteLat d s) (coreExit n)
  if fits 4 && (boundStreams d (siteLogical d s)).isEmpty then 4
  else if fits 3 && decide (1000 * fget d Reg.THM_IDLE [] Fld.THM_IDLE_sleep_us ≤ idle) then 3
  else if fits 2 && decide (fget d Reg.THM_IDLE [] Fld.THM_IDLE_gate_ns ≤ idle) then 2 else 1

/-- The trace unit of a core that enters SLEEP or OFF (R548): POWER_DOWN, then the drain of as many records as the entry time allows; what
is left is kept in SLEEP, and lost in OFF. -/
def traceDown (e : Env) (d : Dev) (s state drain : Nat) : Dev :=
  let d := traceEv d s 8 15 0 state
  let mine := d.dbg.events.filter (fun x => x.unit == s)
  let d := mine.foldl trcPush { d with dbg := { d.dbg with events := d.dbg.events.filter (fun x => x.unit != s) } }
  let d := if trcState d s = 1 then drainEnd (drainSome e s drain d) s else d
  if state = 4 then trcLose (setTrc d s { trc d s with buf := [] }) s (trc d s).buf.length else d

/-- The partitions that a stack serves: those that own an enabled range, for every range has lines on every stack (R228, R489). -/
def stackParts (d : Dev) : List Nat :=
  (List.range 16).filter (fun q => partOn d q && (List.range 32).any (fun i =>
    rangeOn d i && tbit (fget d Reg.HUB_PART_MEM [q] Fld.HUB_PART_MEM_ranges) i))

/-- The power state of a stack: 0 active, 1 power-down, 2 self-refresh. -/
def stackPower (d : Dev) (n : Nat) : Nat := Sparse.get 0 d.pow.stackSt n

/-- Set it. -/
def setStackPower (d : Dev) (n v : Nat) : Dev := { d with pow := { d.pow with stackSt := Sparse.set 0 d.pow.stackSt n v } }

/-- The worst exit of a stack's power state, in ns (Table 14.7). -/
def stackExit (n : Nat) : Nat := if n = 1 then 40 else if n = 2 then 2000 else 0

/-- The deepest power state that an idle stack may enter (R489). -/
def stackTarget (d : Dev) (idle : Nat) : Nat :=
  let fits (n : Nat) : Bool := latFits (partsLat d (stackParts d)) (stackExit n)
  if fits 2 && decide (100000 ≤ idle) then 2 else if fits 1 && decide (1000 ≤ idle) then 1 else 0

/-- POWER_STATE_ENTRY (R489): a resource that has been idle for a time, in ns, enters the deepest state that fits; `drain` is how many
trace records the entry time lets out, and `ext` what memories outside the device answer to them. -/
def execPowerStateEntry (res : Resource) (idleNs : BitVec 32) (drain : BitVec 13) (ext : List Byte) (s : State) :
    Host.Outcome State Fault Refusal :=
  s.run (fun e d => match res with
    | .core i =>
      let s := i.val
      let n := coreTargetState d s idleNs.toNat
      if siteState d s = 0 ∧ corePstate d s < n ∧ siteIdle d s = true then
        let d := if 3 ≤ n then traceDown e { d with extIn := ext } s n drain.toNat else d
        setPstate d s n
      else d
    | .stack n =>
      let v := stackTarget d idleNs.toNat
      if (stacksIn d).contains n.val ∧ stackPower d n.val < v then setStackPower d n.val v else d)

/-- POWER_STATE_WAKE (R489, R490). -/
def execPowerStateWake (res : Resource) (s : State) : Host.Outcome State Fault Refusal :=
  s.run (fun _ d => match res with
    | .core i => wakeCore d i.val
    | .stack n => setStackPower d n.val 0)

/-! ### A new tolerance (R461) -/

/-- The cores whose state no longer fits are woken, and their banks that AUTO moved to RET. -/
def wakeSite (d : Dev) (s : Nat) : Dev :=
  if siteState d s ≠ 0 then d
  else
    let lat := siteLat d s
    let d := if latFits lat (coreExit (corePstate d s)) then d else wakeCore d s
    if latFits lat 150 then d
    else (List.range 34).foldl (fun d b => if bankMode d s b = 1 ∧ bankState d s b = 1 then bankBegin d s b 0 else d) d

/-- Every resource whose state no longer fits the latency that its partitions tolerate is woken (R461). -/
def wakeUnfit (d : Dev) : Dev :=
  let d := (List.range 36).foldl wakeSite d
  let d := (List.range 24).foldl (fun d n =>
    if latFits (partsLat d (stackParts d)) (stackExit (stackPower d n)) then d else setStackPower d n 0) d
  (List.range 128).foldl (fun d g => if lqState d g = 8 && !(latencyAllows d g) then wakeLink d g else d) d

end Sys2Proof.Machine
end

