-- ==== Sys2Proof/Machine/Host.lean ====
section
/-!
DEFINITION. Host ports, CXL, MSI-X, partitions and the side-band commands that are no register access (R440-R466).
-/
namespace Sys2Proof.Machine

/-! ### Ports (R441, R443, R444, R454) -/

/-- Write a field of a port's status. -/
def setPort (d : Dev) (p : Nat) (f : Fld) (v : Nat) : Dev := fset d Reg.HOST_PORT_STAT [p] f v

/-- Read one. -/
def portStat (d : Dev) (p : Nat) (f : Fld) : Nat := fget d Reg.HOST_PORT_STAT [p] f

/-- Partitions bound to a port. -/
def portParts (d : Dev) (p : Nat) : List Nat := (List.range 16).filter (fun q => partOn d q && portOfPart d q == p)

/-- A ring lies in the host memory behind a port (R191, R222). -/
def ringBehind (d : Dev) (p : Nat) (r : Nat × Bool × Nat) : Bool :=
  !r.2.1 || (match targetOf d r.1 64 with | .host n _ => n == p | _ => false)

/-- Stop the enabled streams of a port's partitions that a test picks, as a clear of enable does (R186). -/
def stopStreams (e : Env) (d : Dev) (p : Nat) (pick : Dev → Nat → Bool) : Dev :=
  (portParts d p).foldl (fun d q => ((partStreams d q).filter (pick d)).foldl (disableStream e) d) d

/-- Host memory behind a port is lost (R443). -/
def hostLost (e : Env) (d : Dev) (p : Nat) : Dev :=
  let d := stopStreams e d p (fun d st => ringBehind d p (subRing d st) || ringBehind d p (compRing d st))
  if portStat d p Fld.HOST_PORT_STAT_agent = 1 then loseAgent e (setPort d p Fld.HOST_PORT_STAT_agent 0) (6 + p) else d

/-- Send a port's vectors that are pending and not masked, if it sends (R454). -/
def sendPending (d : Dev) (p : Nat) : Dev :=
  if !(portSends d p) then d
  else (d.msix.filter (fun x => x.1 / 2048 == p && x.2.pend && !x.2.masked)).foldl (fun d x =>
    emit (setMsix d p (x.1 % 2048) { x.2 with pend := false }) (.msix p (x.1 % 2048))) d

/-- The highest rate code that a port advertises (Table 13.16, Table 13.17). -/
def rateCap (d : Dev) (p : Nat) : Nat := 5 - fget d Reg.HOST_PORT_CTL [p] Fld.HOST_PORT_CTL_max_gen

/-- PORT_LINK_UP (R441, R445, R447): what training and the Flex Bus negotiation reached, and the HDM range (base, size) that the host
commits and enables, if any. -/
def execPortLinkUp (p : Fin 4) (rate : Fin 6) (width : BitVec 5) (flit : Bool) (cxl : Fin 3)
    (hdm : Option (BitVec 52 × BitVec 52)) (s : State) : Host.Outcome State Fault Refusal :=
  s.run (fun _ d =>
    let n := p.val
    let ctl (f : Fld) : Bool := fbit d Reg.HOST_PORT_CTL [n] f
    if !(ctl Fld.HOST_PORT_CTL_enable) ∨ portUp d n then d
    else
      let r := min rate.val (rateCap d n)
      let cx := if ctl Fld.HOST_PORT_CTL_cxl_en then cxl.val else 0
      let range := hdm.bind (fun x =>
        let base := x.1.toNat
        let size := x.2.toNat
        if cx = 2 ∧ ctl Fld.HOST_PORT_CTL_cxl_mem ∧ base % 2 ^ 28 = 0 ∧ size % 2 ^ 28 = 0 ∧ 0 < size ∧ base + size ≤ 2 ^ 42
        then some (base, size) else none)
      let d := setPort d n Fld.HOST_PORT_STAT_up 1
      let d := setPort (setPort d n Fld.HOST_PORT_STAT_rate r) n Fld.HOST_PORT_STAT_width width.toNat
      let d := setPort (setPort d n Fld.HOST_PORT_STAT_flit (bit (flit || r == 5))) n Fld.HOST_PORT_STAT_cxl cx
      let d := setPort (setPort d n Fld.HOST_PORT_STAT_slow (bit (decide (r < 2)))) n Fld.HOST_PORT_STAT_dstate 0
      let d := setPort d n Fld.HOST_PORT_STAT_agent (bit range.isSome)
      let d := { d with hdm := match range with | some x => Sparse.put d.hdm n x | none => Sparse.del d.hdm n }
      let d := if r < 2 then report d { source := 0x06, unit := unitPort n, stat := Reg.HOST_PORT_STAT.slot [n] } else d
      sendPending d n)

/-- A port's function is at its reset values: its MSI-X table, HOST_APER and power state (R444, Table 15.1). -/
def resetFunction (d : Dev) (p : Nat) : Dev :=
  let d := { d with msix := Sparse.clear d.msix (2048 * p) 2048 }
  setPort (wrReg d Reg.HOST_APER [p] Reg.HOST_APER.reset) p Fld.HOST_PORT_STAT_dstate 0

/-- A port's link goes down (R443), which resets its function (Table 15.1, log entry 146). -/
def linkLost (e : Env) (d : Dev) (p : Nat) : Dev :=
  if portStat d p Fld.HOST_PORT_STAT_up = 0 then d
  else
    let d := fincSat (setPort d p Fld.HOST_PORT_STAT_up 0) Reg.HOST_PORT_STAT [p] Fld.HOST_PORT_STAT_downs 1
    resetFunction (hostLost e d p) p

/-- PORT_LINK_DOWN (R443). -/
def execPortLinkDown (p : Fin 4) (s : State) : Host.Outcome State Fault Refusal := s.run (fun e d => linkLost e d p.val)

/-- FUNCTION_POWER_STATE (R443, R444, R454): a function leaves D3cold only as its link comes up. -/
def execFunctionPowerState (p : Fin 4) (dstate : Fin 3) (s : State) : Host.Outcome State Fault Refusal :=
  s.run (fun e d =>
    let n := p.val
    if !(portUp d n) then d
    else
      let d := setPort d n Fld.HOST_PORT_STAT_dstate dstate.val
      if dstate.val = 2 then hostLost e d n else sendPending d n)

/-- FUNCTION_LEVEL_RESET (R444). -/
def execFunctionLevelReset (p : Fin 4) (s : State) : Host.Outcome State Fault Refusal :=
  s.run (fun e d =>
    let n := p.val
    if !(portUp d n) then d
    else resetFunction (stopStreams e d n (fun _ _ => true)) n)

/-- Unmask a vector (R454). -/
def unmaskVector (d : Dev) (p v : Nat) : Dev := sendPending (setMsix d p v { getMsix d p v with masked := false }) p

/-- MSIX_UNMASK (R454). -/
def execMsixUnmask (p : Fin 4) (v : Fin 2048) (s : State) : Host.Outcome State Fault Refusal :=
  s.run (fun _ d => unmaskVector d p.val v.val)

/-! ### BAR2 and BAR4 (R444, R450, R453) -/

/-- A port's BARs decode: its link is up, its function is in D0, and the start has reached READY (R444, R506). -/
def barsDecode (d : Dev) (p : Nat) : Bool := portSends d p && fget d Reg.MGMT_FW_STAT [] Fld.MGMT_FW_STAT_stage == 10

/-- BAR2_DOORBELL (R188, R453): a write of a size in bytes, or a read. -/
def execBar2Doorbell (p : Fin 4) (off : BitVec 28) (size : Nat) (write : Option (BitVec 64)) (s : State) :
    Host.Outcome State Fault Refusal :=
  s.run (fun _ d =>
    if !(barsDecode d p.val) then d
    else match write with
      | some v => doorbellWrite d (.port p) off.toNat size v.toNat
      | none => let r := doorbellRead d (.port p) off.toNat size; emit r.2 (.regData (.port p) r.1))

/-- BAR4_ACCESS (R450): the aperture onto the DPA, as a request of the host; a halted device answers NOTARGET (R529). -/
def execBar4Access (p : Fin 4) (off : BitVec 36) (op : MemOp) (ext : List Byte) (s : State) : Host.Outcome State Fault Refusal :=
  s.run (fun e d =>
    let src : Source := .port p
    let a := fget d Reg.HOST_APER [p.val] Fld.HOST_APER_base_64g * 2 ^ 36 + off.toNat
    let r : Requester := ⟨src, srcPart d src⟩
    if !(barsDecode d p.val) then d
    else if devHalted d ∨ 2 ^ 36 < off.toNat + opLen op then refuse d src .noTarget a
    else
      let d := { d with extIn := ext }
      match op with
      | .read n =>
        (match pkgRead e d r a n with
        | (.ok bs, d) => emit d (.memData src bs)
        | (.error er, d) => emit d (.memErr src er))
      | .write bs ens =>
        (match pkgWrite e d r a bs ens with
        | (none, d) => emit d (.memData src [])
        | (some er, d) => emit d (.memErr src er))
      | op =>
        (match pkgAtomic e d r a op with
        | (.ok bs, d) => emit d (.memData src bs)
        | (.error er, d) => emit d (.memErr src er)))

/-! ### CXL.mem (R447, R448) -/

/-- Lines that a port's tracker holds. -/
def trackerLines (d : Dev) (p : Nat) : Sparse.Map ALine :=
  d.coh.agents.filter (fun x => x.1 % 12 == 6 + p && x.2.st != .i && x.2.st != .miA)

/-- The tracker entry that was allocated longest ago, of those that wait for nothing (R448). -/
def oldestLine (d : Dev) (p : Nat) : Option Nat :=
  ((trackerLines d p).filter (fun x => x.2.st == .s || x.2.st == .e || x.2.st == .m)).foldl (fun b x =>
    match b with
    | none => some x
    | some y => if x.2.born < y.2.born then some x else some y) none |>.map (fun x => x.1 / 12)

/-- Free a tracker entry for a new line (R448): both halves are invalidated at the host, which returns what it changed of the halves
it held in E; a dirty copy is sent as WbM, a clean one dropped. -/
def freeEntry (d : Dev) (p line : Nat) (dirty : Nat) (bs : List Byte) : Dev :=
  let a := 6 + p
  let l := aLine d a line
  let changed (h n : Nat) : Bool := tbit dirty h && n == 2 && l.st != .s
  let half (h n : Nat) : List Byte := slice (if changed h n then bs else l.data) (64 * h) 64
  let data := half 0 l.half0 ++ half 1 l.half1
  let d := fincSat (emit d (.coh a 9 line [])) Reg.HOST_TRK [p] Fld.HOST_TRK_evict 1
  if l.st = .m ∨ changed 0 l.half0 ∨ changed 1 l.half1 then
    let d := setALine d a line { l with st := .miA, half0 := 0, half1 := 0 }
    { d with coh := { d.coh with wbs := d.coh.wbs ++ [(a, line, data)] } }
  else setASt d a line .i

/-- CXL_HOST_REQUEST (R447, R448, Table 13.3): a message of a host that is a coherence agent, by device address, with the bytes of a
write; `dirty` and `evicted` are what the host has changed of an entry freed for the line. -/
def execCxlHostRequest (p : Fin 4) (kind : Fin 6) (addr : BitVec 52) (data : BitVec 512) (enables : BitVec 64) (dirty : BitVec 2)
    (evicted : BitVec 1024) (s : State) : Host.Outcome State Fault Refusal :=
  s.run (fun e d =>
    let n := p.val
    let a := 6 + n
    let src : Source := .port p
    let line := addr.toNat / 128
    let half := addr.toNat / 64 % 2
    let at_ := 128 * line + 64 * half
    let range := (Sparse.find d.hdm n).getD (0, 0)
    let en := if kind.val = 4 then allEnabled 64 else (List.range 64).map (tbit enables.toNat)
    let r : HostReq := { half := half, kind := kind.val, data := leBytes 64 data.toNat, en := en }
    if portStat d n Fld.HOST_PORT_STAT_agent = 0 then d
    else if at_ < range.1 ∨ range.1 + range.2 < at_ + 64 then refuse d src .noTarget at_
    else match reachErr d ⟨src, srcPart d src⟩ at_ 64 with
      | some er => refuse d src er at_
      | none =>
        let l := aLine d a line
        let fresh : Bool := l.st == .i && l.want.isEmpty && (decide (kind.val < 2) || kind.val == 3)
        let d := if fresh && decide (32768 ≤ (trackerLines d n).length) then
            (match oldestLine d n with | some v => freeEntry d n v dirty.toNat (leBytes 128 evicted.toNat) | none => d)
          else d
        let d := if fresh then { d with coh := { d.coh with next := d.coh.next + 1 } } else d
        let born := if fresh then d.coh.next else l.born
        let d := setALine d a line { aLine d a line with born := born, want := l.want ++ [r] }
        serveHost e n line (2 * l.want.length + 4) d)

/-! ### Partitions (R455-R461) -/

/-- Two block ranges of HUB_PART_STRM or HUB_PART_CTR share a block. -/
def blkMeet (v w : Word) : Bool :=
  let b (x : Word) : Nat := Fld.HUB_PART_STRM_base_blk.get x
  let n (x : Word) : Nat := Fld.HUB_PART_STRM_n_blk.get x
  decide (0 < n v) && decide (0 < n w) && decide (b v < b w + n w) && decide (b w < b v + n v)

/-- Two partitions name one resource (R456). -/
def partsMeet (d : Dev) (q r : Nat) : Bool :=
  let share (reg : RegDesc) (f : Fld) : Bool := Nat.land (fget d reg [q] f) (fget d reg [r] f) != 0
  share Reg.HUB_PART_CORES Fld.HUB_PART_CORES_cores || share Reg.HUB_PART_MEM Fld.HUB_PART_MEM_ranges ||
    share Reg.HUB_PART_RES Fld.HUB_PART_RES_trunks || share Reg.HUB_PART_RES Fld.HUB_PART_RES_guests ||
    blkMeet (rdReg d Reg.HUB_PART_STRM [q]) (rdReg d Reg.HUB_PART_STRM [r]) ||
    blkMeet (rdReg d Reg.HUB_PART_CTR [q]) (rdReg d Reg.HUB_PART_CTR [r])

/-- The power share of a partition in W. -/
def powerOf (d : Dev) (q : Nat) : Nat := fget d Reg.HUB_PART_RES [q] Fld.HUB_PART_RES_power_w

/-- The check of a partition (R456, R458): it holds. -/
def partOk (e : Env) (d : Dev) (q : Nat) : Bool :=
  let blkOk (w : Word) : Bool := decide (Fld.HUB_PART_STRM_base_blk.get w + Fld.HUB_PART_STRM_n_blk.get w ≤ 256)
  decide (fget d Reg.HUB_PART_CORES [q] Fld.HUB_PART_CORES_cores < 2 ^ coreTarget e) &&
    blkOk (rdReg d Reg.HUB_PART_STRM [q]) && blkOk (rdReg d Reg.HUB_PART_CTR [q]) &&
    (List.range 16).all (fun r => r == q || !(partOn d r) || !(partsMeet d q r)) &&
    !(fbit d Reg.HUB_PART_CTL [q] Fld.HUB_PART_CTL_busy) &&
    (List.range 32).all (fun i => rangeOn d i || !(tbit (fget d Reg.HUB_PART_MEM [q] Fld.HUB_PART_MEM_ranges) i)) &&
    decide (powerOf d q + (((List.range 16).filter (fun r => r != q && partEnabled d r)).map (powerOf d)).sum ≤ 7500)

/-- Enable is written to 1 (R456). -/
def enablePart (e : Env) (d : Dev) (q : Nat) : Dev :=
  if partEnabled d q then d
  else if partOk e d q then fset d Reg.HUB_PART_CTL [q] Fld.HUB_PART_CTL_enable 1
  else fset d Reg.HUB_PART_CTL [q] Fld.HUB_PART_CTL_cfg_err 1

/-- Enable is written to 0 (R458, Table 13.8 steps 1 and 2). -/
def releasePart (e : Env) (d : Dev) (q : Nat) : Dev :=
  if !(partEnabled d q) then d
  else
    let d := fset (fset d Reg.HUB_PART_CTL [q] Fld.HUB_PART_CTL_busy 1) Reg.HUB_PART_CTL [q] Fld.HUB_PART_CTL_enable 0
    let d := stopPlans ((partStreams d q).foldl (disableStream e) d) q
    (List.range 2).foldl (fun d g => if partOfGuest d g = some q then killGuest e d g 5 else d) d

/-- A new tolerated latency (R461). -/
def setLat (d : Dev) (q lat : Nat) : Dev := wakeUnfit (fset d Reg.HUB_PART_CTL [q] Fld.HUB_PART_CTL_lat lat)

/-- A write of HUB_PART_CTL (R455-R461). While the partition holds its resources only enable and lat are writable (log entry 81). -/
def partCtlWrite (e : Env) (d : Dev) (p : Path) (q : Nat) (data : Word) : Dev :=
  let on := partOn d q
  let r := Reg.HUB_PART_CTL
  let same (f : Fld) : Bool := f.get data == fget d r [q] f
  let d := if Fld.HUB_PART_CTL_cfg_err.get data = 1 then fset d r [q] Fld.HUB_PART_CTL_cfg_err 0 else d
  let d := if same Fld.HUB_PART_CTL_lat then d else setLat d q (Fld.HUB_PART_CTL_lat.get data)
  let d := if on then
      (if same Fld.HUB_PART_CTL_replay_rec && same Fld.HUB_PART_CTL_port then d else regEvent d p (r.key [q]))
    else
      fset (fset d r [q] Fld.HUB_PART_CTL_replay_rec (Fld.HUB_PART_CTL_replay_rec.get data)) r [q] Fld.HUB_PART_CTL_port
        (Fld.HUB_PART_CTL_port.get data)
  if Fld.HUB_PART_CTL_enable.get data = 1 then enablePart e d q else releasePart e d q

/-- The registers of a partition, by word (Tables 13.11 to 13.14). -/
def partReg (word : Nat) : RegDesc :=
  match word with
  | 0 => Reg.HUB_PART_CTL | 1 => Reg.HUB_PART_CORES | 2 => Reg.HUB_PART_MEM | 3 => Reg.HUB_PART_STRM | 4 => Reg.HUB_PART_CTR
  | _ => Reg.HUB_PART_RES

/-- A write of a partition's register (R455, R468): a port reaches none of them; the fields of a partition that holds its resources
stand. -/
def partWrite (e : Env) (d : Dev) (p : Path) (q word : Nat) (data : Word) : Dev :=
  let r := partReg word
  if (pathPort p).isSome then regEvent d p (r.key [q])
  else if word = 0 then partCtlWrite e d p q data
  else if partOn d q then regEvent d p (r.key [q])
  else r.store d [q] false data

/-- PARTITION_ENABLE (R456). -/
def execPartitionEnable (p : Path) (q : Fin 16) (s : State) : Host.Outcome State Fault Refusal :=
  s.run (fun e d => if portHalted d p then d else
    let w := Fld.HUB_PART_CTL_cfg_err.put (rdReg d Reg.HUB_PART_CTL [q.val]) 0
    partWrite e d p q.val 0 (Fld.HUB_PART_CTL_enable.put w 1))

/-- PARTITION_RELEASE (R458). -/
def execPartitionRelease (p : Path) (q : Fin 16) (s : State) : Host.Outcome State Fault Refusal :=
  s.run (fun e d => if portHalted d p then d else
    let w := Fld.HUB_PART_CTL_cfg_err.put (rdReg d Reg.HUB_PART_CTL [q.val]) 0
    partWrite e d p q.val 0 (Fld.HUB_PART_CTL_enable.put w 0))

/-- PART_CFG_WRITE (R455). -/
def execPartCfgWrite (p : Path) (q : Fin 16) (word : Fin 6) (data : Word) (s : State) : Host.Outcome State Fault Refusal :=
  s.run (fun e d => if portHalted d p then d else partWrite e d p q.val word.val data)

/-- LAT_WRITE (R461). -/
def execLatWrite (p : Path) (q : Fin 16) (lat : BitVec 16) (s : State) : Host.Outcome State Fault Refusal :=
  s.run (fun _ d => if portHalted d p then d else if (pathPort p).isSome then regEvent d p (Reg.HUB_PART_CTL.key [q.val]) else setLat d q.val lat.toNat)

/-- Every bank of a core is set OFF and then ON (Table 13.8 step 4, Table 5.6): fenced and offline banks stay out of use. -/
def cycleBanks (d : Dev) (s : Nat) : Dev :=
  (List.range 34).foldl (fun d b =>
    if bankState d s b = 6 ∨ bankState d s b = 3 then d
    else
      let c := Sparse.get {} d.cmem s
      let d := { d with cmem := Sparse.set {} d.cmem s { c with target := Sparse.del c.target b } }
      zeroBank (fset (fset d Reg.CMEM_BANK [s, b] Fld.CMEM_BANK_mode 0) Reg.CMEM_BANK [s, b] Fld.CMEM_BANK_state 0) s b) d

/-- Every line of an HBM range is written with zeros, and cached copies are recalled (Table 13.8 step 5, R232). -/
def zeroRange (d : Dev) (i : Nat) : Dev :=
  let off := fget d Reg.HUB_HBM_RANGE [i] Fld.HUB_HBM_RANGE_off_gib * 2 ^ 30
  let len := fget d Reg.HUB_HBM_RANGE [i] Fld.HUB_HBM_RANGE_len_gib * 2 ^ 30
  let d := (d.coh.dir.filter (fun x => rangeOf d (128 * x.1) == some i)).foldl (fun d x => (recallLine d x.1 2).2) d
  (stacksIn d).foldl (fun d n =>
    let k := stackCells n + off
    clearMem { d with poison := Sparse.clear d.poison (lineMark k) (len / 128) } k len) d

/-- RESET of every counter of a block range (Table 13.8 step 6). -/
def resetCounters (d : Dev) (w : Word) : Dev :=
  (List.range (256 * Fld.HUB_PART_CTR_n_blk.get w)).foldl (fun d i =>
    let c := 256 * Fld.HUB_PART_CTR_base_blk.get w + i
    setCtr d c (ctrReset (getCtr d c))) d

/-- PARTITION_RELEASE_DONE (R458, Table 13.8 steps 3 to 7): once every stream is OFF, the resources are cleared. -/
def execPartitionReleaseDone (q : Fin 16) (s : State) : Host.Outcome State Fault Refusal :=
  s.run (fun _ d =>
    let n := q.val
    if !(fbit d Reg.HUB_PART_CTL [n] Fld.HUB_PART_CTL_busy) || !((partStreams d n).isEmpty) then d
    else
      let cores := fget d Reg.HUB_PART_CORES [n] Fld.HUB_PART_CORES_cores
      let ranges := fget d Reg.HUB_PART_MEM [n] Fld.HUB_PART_MEM_ranges
      let d := (List.range 32).foldl (fun d c => if tbit cores c then
          (match siteOfCore d c with | some s => cycleBanks d s | none => d) else d) d
      let d := (List.range 32).foldl (fun d i => if tbit ranges i then zeroRange d i else d) d
      let d := resetCounters d (rdReg d Reg.HUB_PART_CTR [n])
      let d := wrReg d Reg.FAB_PIN [n] Reg.FAB_PIN.reset
      fset d Reg.HUB_PART_CTL [n] Fld.HUB_PART_CTL_busy 0)

/-! ### Side-band commands (R462, R463, R466) -/

/-- I3C_ADDRESS_ASSIGN (R462). -/
def execI3cAddressAssign (addr : BitVec 7) (s : State) : Host.Outcome State Fault Refusal :=
  s.run (fun _ d => { fset d Reg.HOST_SB_CFG [] Fld.HOST_SB_CFG_i3c 1 with i3cAddr := addr.toNat })

/-- RSTDAA (R462). -/
def execRstdaa (s : State) : Host.Outcome State Fault Refusal :=
  s.run (fun _ d => { fset d Reg.HOST_SB_CFG [] Fld.HOST_SB_CFG_i3c 0 with i3cAddr := 0 })

/-- MCTP_CONTROL (R463): the bus owner assigns the endpoint ID. -/
def execMctpControl (eid : BitVec 8) (s : State) : Host.Outcome State Fault Refusal :=
  s.run (fun _ d => emit (fset d Reg.HOST_SB_CFG [] Fld.HOST_SB_CFG_eid eid.toNat) (.sideBand 0 [eid]))

/-- SYNC_OP (R463, Table 13.10): status 1 for an op that R207 refuses, 3 while the main rails are off, 4 for one that Table 6.8
refuses. -/
def execSyncOp (ctr : BitVec 16) (op : BitVec 8) (operand : Word) (s : State) : Host.Outcome State Fault Refusal :=
  s.run (fun _ d =>
    if !d.fw.mainOn then emit d (.sideBand 3 [])
    else if 4 ≤ op.toNat then emit (regEvent d .sideBand (ctrAddr ctr.toNat)) (.sideBand 1 [])
    else
      let r := ctrDo d none ctr.toNat op.toNat operand.toNat
      if r.1 then emit r.2 (.sideBand 0 []) else emit (regEvent d .sideBand (ctrAddr ctr.toNat)) (.sideBand 4 []))

/-- STATE (R463, Table 13.10): main rails on, HUB_COPPICE_STAT, partitions enabled. -/
def execMgmtState (s : State) : Host.Outcome State Fault Refusal :=
  s.run (fun _ d =>
    let parts := ((List.range 16).map (fun q => bit (partEnabled d q) * 2 ^ q)).sum
    emit d (.sideBand 0 (leBytes 1 (bit d.fw.mainOn) ++ leBytes 4 (rdReg d Reg.HUB_COPPICE_STAT []).toNat ++ leBytes 2 parts)))

/-- UART_CHARACTER (R466): a character whose stop bit is judged low is a framing error and is dropped; others join the line, which ends
with a carriage return or line feed and holds up to 128. -/
def execUartCharacter (ch : BitVec 8) (stopLow : Bool) (s : State) : Host.Outcome State Fault Refusal :=
  s.run (fun _ d =>
    if stopLow then d
    else if ch = 0x0D then { d with fw := { d.fw with line := [] } }
    else if 128 < d.fw.line.length then d
    else { d with fw := { d.fw with line := d.fw.line ++ [ch] } })

end Sys2Proof.Machine
end

