-- ==== Sys2Proof/Machine/Reset.lean ====
section
/-!
DEFINITION. Power domains and resets (R495-R497, R571, Table 15.1), and the thermal trip (R488, Table 14.6).
-/
namespace Sys2Proof.Machine

/-! ### What a reset keeps -/

/-- A register of the standby domain, by its key (R470, R488, R494, R517, R533): the MGMT block, FLT_STORE, THM_TRIP, the housekeeping
sequencer's registers and HOST_SB_CFG. -/
def standbyKey (k : Nat) : Bool :=
  (decide (0x100000 ≤ k) && decide (k < 0x103000)) || k == Reg.FLT_STORE.base || k == Reg.THM_TRIP.base
    || (decide (0x300030 ≤ k) && decide (k < 0x30003C)) || (decide (0x301000 ≤ k) && decide (k < 0x302000)) || k == Reg.HOST_SB_CFG.base

/-- The range table (R255), as a warm reset saves it (R507). -/
def rangeTable (d : Dev) : List Word := (List.range 32).map (fun i => rdReg d Reg.HUB_HBM_RANGE [i])

/-- The stage of the start (Table 15.4). -/
def stage (d : Dev) : Nat := fget d Reg.MGMT_FW_STAT [] Fld.MGMT_FW_STAT_stage

/-- Set it. -/
def setStage (d : Dev) (n : Nat) : Dev := fset d Reg.MGMT_FW_STAT [] Fld.MGMT_FW_STAT_stage n

/-- The main domain goes off or is reset (Table 15.1): what the standby domain holds stays, and with `warm` the contents of the stacks,
their poison marks and the replanning mark (R496). An update session ends (R513). -/
def mainReset (d : Dev) (warm : Bool) : Dev :=
  let keep (k : Nat) : Bool := standbyKey k || (warm && k == Reg.HUB_COPPICE_CTL.base)
  let saved := if !warm then [] else if fbit d Reg.HUB_HBM_CFG [] Fld.HUB_HBM_CFG_ready then rangeTable d else d.fw.saved
  let d : Dev :=
    { regs := d.regs.filter (fun x => keep x.1),
      poison := if warm then d.poison.filter (fun x => decide (2 ^ 40 ≤ x.1)) else [],
      out := d.out,
      freeCtr := d.freeCtr,
      wq := d.wq,
      extIn := d.extIn,
      coppice := { standing := d.coppice.standing },
      coh := { rowLoss := d.coh.rowLoss },
      pow := { trigRun := d.pow.trigRun, trigPend := d.pow.trigPend },
      fw := { d.fw with mainOn := false, session := none, warm := warm, saved := saved },
      i3cAddr := d.i3cAddr,
      tb := d.tb,
      store := d.store,
      dbg := { ir := d.dbg.ir, acc := d.dbg.acc }}
  let d := fset (fset d Reg.MGMT_UPD_STAT [] Fld.MGMT_UPD_STAT_open 0) Reg.MGMT_BOOT_CTL [] Fld.MGMT_BOOT_CTL_bcb_rej 0
  let d := if d.fw.running then setStage d 2 else d
  let d := clearMem d 0 (2 ^ 40)
  if warm then d else clearMem d (2 ^ 40) (24 * 2 ^ 36)

/-- A start: the main domain is reset, the housekeeping sequencer starts anew (R478), the time base restarts at 0 (R492, R496), and the
cause is shown (Table 15.14). -/
def startFrom (d : Dev) (warm : Bool) (cause : Nat) : Dev :=
  let d := mainReset d warm
  let d := { d with
      regs := d.regs.filter (fun x => !(decide (0x300030 ≤ x.1) && decide (x.1 < 0x30003C)) && !(decide (0x301000 ≤ x.1) && decide (x.1 < 0x302000)))
      pow := {} }
  let d := { d with tb := 0, fw := { d.fw with backAt := d.fw.backAt.map (fun _ => 0) } }
  fset d Reg.MGMT_RST_CAUSE [] Fld.MGMT_RST_CAUSE_cause cause

/-- A cold reset (Table 15.1). -/
def coldReset (d : Dev) (cause : Nat) : Dev := startFrom d false cause

/-- The pair restarts from the boot ROM, without a reset of the MGMT block (R514). -/
def restartPair (d : Dev) (cause : Nat) : Dev :=
  let d := { d with fw := { d.fw with running := false, table := [], lfw := none, mbx := [], line := [] } }
  fset (setStage d 0) Reg.MGMT_RST_CAUSE [] Fld.MGMT_RST_CAUSE_cause cause

/-! ### Coming to rest before a warm reset (R497) -/

/-- Step 4 of R497: every base cache writes back its dirty local lines, and those already on their way to the home arrive. -/
def writeBackAll (d : Dev) : Dev :=
  let d := d.coh.wbs.foldl (fun d x => if x.1 < 6 then writeHome d x.2.1 x.2.2 else d) d
  d.coh.agents.foldl (fun d x => if x.1 % 12 < 6 ∧ x.2.st = .m then writeHome d (x.1 / 12) x.2.data else d) d

/-- R497: ports held down, guest sites killed, engines stopped, caches written back, stacks in self-refresh; and Hawthorn takes the
reports that this made (R525). -/
def quiesce (e : Env) (d : Dev) : Dev :=
  let d := (List.range 4).foldl (fun d p => linkLost e d p) d
  let d := (List.range 2).foldl (fun d g => killGuest e d g 4) d
  let d := { d with mxe := [], eng := [], engDone := [], handoff := [] }
  let d := writeBackAll d
  d.reports.foldl (takeFault e) { d with reports := [] }

/-- A warm reset finds the stacks in use, or in self-refresh since an earlier one whose start has not ended; in every other case, and
while a class C3 halt stands, it is performed as a cold reset (R495, R529). -/
def warmPossible (d : Dev) : Bool := !(devHalted d) && ((stage d == 10 && d.fw.mainOn) || d.fw.warm)

/-- A warm reset, with or without a restart of the pair (Table 15.1, R495, R497, R514). -/
def warmReset (e : Env) (d : Dev) (cause : Nat) (mfwRestart : Bool) : Dev :=
  let d := if warmPossible d then startFrom (quiesce e d) true cause else coldReset d cause
  if mfwRestart then restartPair d 7 else d

/-- A standby power-on (Table 15.1, R501): everything but what is kept without power. -/
def standbyReset (d : Dev) : Dev :=
  let d := startFrom d false 0
  let kept : Fw := { flash := d.fw.flash, vin := d.fw.vin, resetLow := d.fw.resetLow, ages := d.fw.ages, mirror := d.fw.mirror }
  { d with
      regs := d.regs.filter (fun x => x.1 == Reg.FLT_STORE.base),
      pow := {},
      fw := kept,
      i3cAddr := 0,
      dbg := {} }

/-! ### Commands -/

/-- STANDBY_POWER_ON (R495, R501). -/
def execStandbyPowerOn (s : State) : Host.Outcome State Fault Refusal := s.run (fun _ d => standbyReset d)

/-- COLD_RESET (R495), by its cause: RESET_N, the return of 48 V, a trip clear, the register, the console. -/
def execColdReset (cause : Fin 5) (s : State) : Host.Outcome State Fault Refusal :=
  s.run (fun _ d => coldReset d ([1, 2, 3, 4, 6].getD cause.val 4))

/-- WARM_RESET (R495, R497), by the register or the console. -/
def execWarmReset (console mfwRestart : Bool) (s : State) : Host.Outcome State Fault Refusal :=
  s.run (fun e d => warmReset e d (if console then 6 else 5) mfwRestart)

/-- PORT_RESET (R443, R444, R495): during a start the deeper reset stands, and the port's function is at its reset values. -/
def execPortReset (p : Fin 4) (s : State) : Host.Outcome State Fault Refusal :=
  s.run (fun e d =>
    let n := p.val
    resetFunction (stopStreams e (linkLost e d n) n (fun _ _ => true)) n)

/-- RESET_N_LOW (R495, R579): a low time of 1 µs or more. The pin is low until t0 of the start that follows (R504). -/
def execResetNLow (s : State) : Host.Outcome State Fault Refusal :=
  s.run (fun _ d => let d := coldReset d 1; { d with fw := { d.fw with resetLow := true } })

/-- VIN48_RETURN (R496, R571): after a loss, a cold reset; the first 48 V since a standby power-on, and one that comes while the standby
phase runs, belong to that start. -/
def execVin48Return (s : State) : Host.Outcome State Fault Refusal :=
  s.run (fun _ d =>
    if d.fw.vin then d
    else
      let lost := d.fw.vinLost
      let d := { d with fw := { d.fw with vin := true, vinLost := false } }
      if lost ∧ d.fw.running then coldReset d 2 else d)

/-- VIN48_LOSS (R496): the main domain turns off. -/
def execVin48Loss (s : State) : Host.Outcome State Fault Refusal :=
  s.run (fun _ d => if d.fw.vin then let d := mainReset d false; { d with fw := { d.fw with vin := false, vinLost := true } } else d)

/-- VSB_DROP (R571): the main rails turn off; the pair stops with its rail, and the return is a standby power-on. -/
def execVsbDrop (s : State) : Host.Outcome State Fault Refusal :=
  s.run (fun _ d => let d := mainReset d false; { d with fw := { d.fw with running := false } })

/-- A keyed request of MGMT_RST_CTL (Table 15.13): a wrong key discards the write with a class C0 event; a port does not write the
register (R515, R517). With both bits set the deeper reset applies (R495). -/
def rstCtlWrite (e : Env) (d : Dev) (p : Path) (data : Word) : Dev :=
  if (pathPort p).isSome ∨ Fld.MGMT_RST_CTL_key.get data ≠ 0x5257 then regEvent d p Reg.MGMT_RST_CTL.base
  else
    let restart := Fld.MGMT_RST_CTL_mfw_restart.get data = 1
    if Fld.MGMT_RST_CTL_cold.get data = 1 then coldReset d 4
    else if Fld.MGMT_RST_CTL_warm.get data = 1 then warmReset e d 5 restart else d

/-- MGMT_RST_CTL_COLD (R495, Table 15.13). -/
def execMgmtRstCtlCold (p : Path) (key : BitVec 16) (s : State) : Host.Outcome State Fault Refusal :=
  s.run (fun e d => rstCtlWrite e d p (low32 (2 ^ 31 + key.toNat)))

/-- MGMT_RST_CTL_WARM (R495, R514, Table 15.13). -/
def execMgmtRstCtlWarm (p : Path) (key : BitVec 16) (restart : Bool) (s : State) : Host.Outcome State Fault Refusal :=
  s.run (fun e d => rstCtlWrite e d p (low32 (2 ^ 30 + 2 ^ 29 * bit restart + key.toNat)))

/-! ### The thermal trip -/

/-- THERMAL_TRIP (R488, Table 14.6): the comparator of an unbroken sensor asserts THERMTRIP_N, the trip is recorded, and the main rails
turn off. -/
def execThermalTrip (slot : Fin 262) (temp : BitVec 16) (s : State) : Host.Outcome State Fault Refusal :=
  s.run (fun e d =>
    let i := slot.val
    if hkBroken d i ∨ fbit d Reg.THM_TRIP [] Fld.THM_TRIP_tripped then d
    else
      let d := fset (fset d Reg.THM_TRIP [] Fld.THM_TRIP_tripped 1) Reg.THM_TRIP [] Fld.THM_TRIP_slot i
      let d := thermalRecord d i temp.toNat 2
      let d := takeFault e d { source := 0x40, unit := hkUnit i, sub := i, stat := Reg.THM_TRIP.slot [] }
      mainReset d false)

/-- Every unbroken temperature sensor that has a reading reads below 90 °C (R488). -/
def tripCool (d : Dev) : Bool :=
  (List.range 262).all (fun i => hkBroken d i || !(hkValid d i) || decide (hkVal d i < 16 * 90))

/-- A write of THM_TRIP.clear by the side-band (R488, R495): THERMTRIP_N is released, and the next start runs from cold. -/
def tripClear (d : Dev) (p : Path) : Dev :=
  if pathIndex p ≠ 4 then regEvent d p Reg.THM_TRIP.base
  else if fbit d Reg.THM_TRIP [] Fld.THM_TRIP_tripped && tripCool d then
    coldReset (fset d Reg.THM_TRIP [] Fld.THM_TRIP_tripped 0) 3
  else d

/-- THM_TRIP_CLEAR (R488). -/
def execThmTripClear (p : Path) (s : State) : Host.Outcome State Fault Refusal := s.run (fun _ d => tripClear d p)

end Sys2Proof.Machine
end

