-- ==== Sys2Proof/Machine/Access.lean ====
section
/-!
DEFINITION. One 32-bit access to the configuration space (R9-R16, R452, R464, R553, R554): which register an address names, which
accesses of a port are admitted (Table 13.7), what a register shows, and what a write of it does.
-/
namespace Sys2Proof.Machine

/-! ### Addresses -/

/-- The indices of an instance at an offset. -/
def indexAt : List (Nat × Nat) → Nat → Option (List Nat)
  | [], off => if off = 0 then some [] else none
  | (stride, n) :: ds, off => if off / stride < n then (indexAt ds (off % stride)).map (off / stride :: ·) else none

/-- The register at an address: the first of the tables with an instance there; none at a reserved or unlisted address (R16). -/
def regIn (rs : List RegDesc) (addr : Nat) : Option (RegDesc × List Nat) :=
  rs.findSome? (fun r => if addr < r.base then none else (indexAt r.dims (addr - r.base)).map (fun ix => (r, ix)))

/-- The register at an address of the configuration space. -/
def regAt (addr : Nat) : Option (RegDesc × List Nat) := regIn Reg.table addr

/-- Index i of an index list. -/
def ixAt (ix : List Nat) (i : Nat) : Nat := ix.getD i 0

/-- With the main rails off only the standby domain answers (R464). -/
def railsOff (d : Dev) (addr : Nat) : Bool :=
  !d.fw.mainOn && !([0x0, 0x8, 0xC, 0x10].contains addr || (decide (0x100000 ≤ addr) && decide (addr < 0x200000))
    || addr == Reg.FLT_STORE.base || addr == Reg.HOST_SB_CFG.base || addr == Reg.THM_TRIP.base)

/-- A path through which everything but an MSI-X table and a stream block of its own is reached by address. -/
def strmBlock (addr : Nat) : Bool := decide (0x10000 ≤ addr) && decide (addr < 0x10100)

/-- The SYNC window (R207). -/
def syncAddr (addr : Nat) : Bool := decide (0x3800000 ≤ addr) && decide (addr < 0x3880000)

/-- The address of the path's own DBG_QADDR and DBG_HALT_CTL (R566). -/
def addrQaddr : Nat := 0x600004
def addrHaltCtl : Nat := 0x600010

/-! ### The filter of a port (R452, Table 13.7) -/

/-- Partition q is enabled and bound to port n (R452). -/
def ownsPart (d : Dev) (n q : Nat) : Bool := boundTo d n (some q)

/-- Port n reads a register (Table 13.7, R537, R566). -/
def portReads (d : Dev) (n : Nat) (r : RegDesc) (ix : List Nat) : Bool :=
  let b := r.base
  let i := ixAt ix 0
  if b < 0x100000 then
    if 0x5000 ≤ b ∧ b < 0x6000 then ownsPart d n i else !(decide (0x3000 ≤ b) && decide (b < 0x4000))
  else if b < 0x200000 then true
  else if b < 0x300000 then
    if 0x200100 ≤ b then portOfPart d i == n else b == Reg.FLT_STAT.base || b == Reg.FLT_COUNT.base || b == Reg.FLT_ALIVE.base || b == Reg.FLT_STORE.base
  else if b < 0x400000 then true
  else if b < 0x500000 then b != Reg.HOST_SB_CFG.base && i == n
  else if b < 0x600000 then boundTo d n (partOfGuest d i)
  else if b < 0x700000 then
    if b = Reg.DBG_CFG.base ∨ b = Reg.DBG_MC_HALT.base ∨ b = Reg.DBG_QDATA.base then true
    else if b = Reg.DBG_HALT_STAT.base then boundTo d n (partOfStream d (fget d Reg.DBG_HALT_CTL [n] Fld.DBG_HALT_CTL_stream))
    else if b < 0x610000 then ownsPart d n i
    else siteAdmits d (.port (Fin.ofNat 4 n)) i
  else if 0x1000000 ≤ b ∧ b < 0x2000000 then siteAdmits d (.port (Fin.ofNat 4 n)) i
  else true

/-- Port n writes a register. -/
def portWrites (d : Dev) (n : Nat) (r : RegDesc) (ix : List Nat) : Bool :=
  let b := r.base
  let i := ixAt ix 0
  if b < 0x100000 then false
  else if b < 0x200000 then (b == Reg.MGMT_MBX_CTL.base || b == Reg.MGMT_MBX_DATA.base) && i == n
  else if b < 0x300000 then b == Reg.FLT_PART_CTL.base && portOfPart d i == n
  else if b < 0x400000 then false
  else if b < 0x500000 then b == Reg.HOST_APER.base && i == n
  else if b < 0x600000 then boundTo d n (partOfGuest d i)
  else if b < 0x700000 then
    if b < 0x600100 then false else if b < 0x610000 then ownsPart d n i else siteAdmits d (.port (Fin.ofNat 4 n)) i
  else if b < 0x1000000 then false
  else if b < 0x2000000 then siteAdmits d (.port (Fin.ofNat 4 n)) i
  else if b < 0x3000000 then leWritable d (.port (Fin.ofNat 4 n)) i
  else if b = Reg.FAB_PIN.base then ownsPart d n i
  else decide (0x3010000 ≤ b) && ownsPart d n (i / 16)

/-- A path reads a register. -/
def pathReads (d : Dev) (p : Path) (r : RegDesc) (ix : List Nat) : Bool :=
  match pathPort p with | some n => portReads d n r ix | none => true

/-- A path writes a register; every path but MFW writes only its own mailbox (R515). -/
def pathWrites (d : Dev) (p : Path) (r : RegDesc) (ix : List Nat) : Bool :=
  let mbx := r.base == Reg.MGMT_MBX_CTL.base || r.base == Reg.MGMT_MBX_DATA.base
  match pathPort p with
  | some n => portWrites d n r ix
  | none => !mbx || p == .mfw || ixAt ix 0 == 4

/-! ### What a register shows -/

/-- The _STAT word of an engine's two slots (Table 3.11, Table 4.19). -/
def slotWord (active staged : Option (BitVec 16)) : Word :=
  low32 ((active.map (·.toNat)).getD 0 * 2 ^ 16 + 2 * bit staged.isSome + bit active.isSome)

/-- MXE_STAT (Table 3.11). -/
def mxeStatWord (d : Dev) (site : Nat) : Word :=
  let m := getMxe d site
  let draining := match m.active with | some j => decide (0 < j.drained) || (jobIssued j && m.flight.isEmpty) | none => false
  slotWord (m.active.map (·.job.stream)) (m.staged.map (·.job.stream)) |||
    low32 (8 * bit draining + 4 * bit (nextTile d site m).isSome)

/-- The unit of a site that a register of Table 4.17 belongs to. -/
def engOf (r : RegDesc) (ix : List Nat) : Nat :=
  let b := r.base % 0x10000
  if b < 0x6000 then 1 + ixAt ix 1 else if b < 0x7000 then 5 else if b < 0x8000 then 6 else if b < 0x9000 then 7
  else if b < 0xA000 then 8 else if b < 0xB000 then 9 + ixAt ix 1 else 11

/-- The _STAT word of a unit of Table 4.17. -/
def engStatWord (d : Dev) (site u : Nat) : Word :=
  let g := getEng d site u
  slotWord (g.active.map (·.job.stream)) (g.staged.map (·.job.stream))

/-- Enabled streams of a core (Table 6.19). -/
def coreStreams (d : Dev) (core : Nat) : Nat := (boundStreams d core).length

/-- THM_CORE (Table 14.22): RUN while the scheduler holds a descriptor for the core, IDLE without one; the rail of SLEEP and of OFF. -/
def coreWord (d : Dev) (s : Nat) (w : Word) : Word :=
  let held := siteState d s == 0 && decide (0 < heldFor d (siteLogical d s))
  let ps := Fld.THM_CORE_pstate.get w
  if ps ≤ 1 then Fld.THM_CORE_pstate.put w (if held then 0 else 1)
  else if ps = 3 then Fld.THM_CORE_v_mv.put w 450
  else if 4 ≤ ps then Fld.THM_CORE_v_mv.put w 0 else w

/-- The high word that a path's normal read of a HI register returns: what it captured, or the live word (R492, R554). -/
def capturedOr (m : Sparse.Map Nat) (key live : Nat) : Word := low32 ((Sparse.find m key).getD live)

/-- The halt state of a stream (Table 17.8, Table 17.15); a stream that steps reads HALTED. -/
def haltWord (d : Dev) (st : Nat) : Word :=
  let h := (getStrm d st).halt
  let w := Fld.DBG_HALT_STAT_state.put 0 (if h = 4 then 2 else h)
  Fld.DBG_HALT_STAT_lock_held.put w (bit (lockHeld d st))

/-- Where the diameter of the fabric is computed (R415, Table 12.16). -/
def diameter (d : Dev) : Nat :=
  (List.range 4).foldl (fun n i => n + (if isRing d i then dimSize d i / 2 else dimSize d i - 1)) 0

/-- A register whose contents are fused. -/
def fusedWord (e : Env) (r : RegDesc) (w : Word) : Option Word :=
  let f := e.fuses
  let b := r.base
  if b = Reg.HUB_ID.base then some (low32 (0x9600 * 2 ^ 16 + f.stepping.toNat * 2 ^ 8))
  else if b = Reg.HUB_PKG_ID_LO.base then some (low32 f.pkgId.toNat)
  else if b = Reg.HUB_PKG_ID_HI.base then some (high32 f.pkgId.toNat)
  else if b = Reg.HUB_GRADE.base then
    some (low32 (f.guestPop % 4 * 2 ^ 18 + (if f.gradeB then 36 else 48) * 2 ^ 12 + (if f.gradeB then 28 else 32) * 2 ^ 6 + bit f.gradeB))
  else if b = Reg.THM_SILICON.base then some (Fld.THM_SILICON_wf_n.put w f.wfN.toNat)
  else if b = Reg.HOST_PORT_ID.base then some (Fld.HOST_PORT_ID_vendor.put w f.vendor.toNat)
  else none

/-- A register that shows state held elsewhere. -/
def liveWord (d : Dev) (r : RegDesc) (ix : List Nat) (w : Word) : Word :=
  let b := r.base
  let i := ixAt ix 0
  if b = Reg.MXE_STAT.base then mxeStatWord d i
  else if b = Reg.VXE_STAT.base ∨ b = Reg.SFE_STAT.base ∨ b = Reg.TOP_STAT.base ∨ b = Reg.GDE_STAT.base ∨ b = Reg.CPE_STAT.base
      ∨ b = Reg.DME_STAT.base ∨ b = Reg.RNG_STAT.base then engStatWord d i (engOf r ix)
  else if b = Reg.SCHED_STAT.base then
    if siteState d i = 0 then low32 (min 0xFFFF (coreStreams d (siteLogical d i)) * 2 ^ 16 + heldFor d (siteLogical d i)) else 0
  else if b = Reg.HUB_PART_STAT.base then Fld.HUB_PART_STAT_streams_on.put w (min 0xFFFF (partStreams d i).length)
  else if b = Reg.PKM_DIR_STAT.base then Fld.PKM_DIR_STAT_inflight.put w (homeLoad d i)
  else if b = Reg.HOST_TRK.base then Fld.HOST_TRK_used.put w (trackerLines d i).length
  else if b = Reg.FAB_RTO.base then Fld.FAB_RTO_outstanding.put w (min 0xFFFF d.fab.remote.length)
  else if b = Reg.LQ_REPLAY.base then Fld.LQ_REPLAY_held.put w (getLq d (8 * i + ixAt ix 1)).replay.length
  else if b = Reg.FAB_ID.base then if tableMode d then w else Fld.FAB_ID_node.put w (ownNode d)
  else if b = Reg.FAB_CFG.base then if tableMode d then w else Fld.FAB_CFG_diameter.put w (diameter d)
  else if b = Reg.THM_HK_CH.base then Fld.THM_HK_CH_kind.put w (hkKind i)
  else if b = Reg.THM_CORE.base then coreWord d i w
  else if b = Reg.CMEM_BANK.base ∧ siteState d i = 1 then Fld.CMEM_BANK_state.put w 2
  else if b = Reg.THM_TB_LO.base then low32 d.tb
  else if b = Reg.THM_TB_HI.base then high32 d.tb
  else w

/-- The word of a register as a quiet read through a path shows it (R12, R553, R554): no field is cleared and nothing is captured.
Write-only fields read 0. -/
def showWord (e : Env) (d : Dev) (r : RegDesc) (ix : List Nat) : Word :=
  let w := rdReg d r ix
  match fusedWord e r w with
  | some x => x
  | none =>
    if r.base = Reg.PRV_STAT.base ∧ !(guestMounted e (ixAt ix 0)) then Fld.PRV_STAT_state.put w 0
    else liveWord d r ix w &&& ~~~(r.accMask .wo)

/-- The test unit of a TST register, and which of its registers it is. -/
def tstOf (r : RegDesc) (ix : List Nat) : Option (TestUnit × Nat) :=
  let us : List TestUnit := [.feino (.hub (Fin.ofNat 4 (ixAt ix 0))), .feino (.base (Fin.ofNat 6 (ixAt ix 0)) (Fin.ofNat 26 (ixAt ix 1))),
    .feino (.le (Fin.ofNat 16 (ixAt ix 0)) (Fin.ofNat 3 (ixAt ix 1))), .fibre (Fin.ofNat 128 (8 * ixAt ix 0 + ixAt ix 1)), .port (Fin.ofNat 4 (ixAt ix 0))]
  us.findSome? (fun u => (lowest 9 (fun i => (tstDesc u i).base == r.base)).map (fun i => (u, i)))

/-- The address of the LO register that a TST_BITS_HI belongs to. -/
def bitsKey (u : TestUnit) (p : Path) : Nat := 8 * (tstDesc u 5).key (tstIx u) + pathIndex p

/-! ### MSI-X tables in BAR0 (R450) -/

/-- The port whose MSI-X table or pending bits an address lies in, with the offset: a port's own in its BAR0; every port's by the
side-band. -/
def msixAt (p : Path) (addr : Nat) : Option (Nat × Nat) :=
  match pathPort p with
  | some n => if 0x440000 ≤ addr ∧ addr < 0x448100 then some (n, addr - 0x440000) else none
  | none =>
    if 0x480000 ≤ addr ∧ addr < 0x4C0000 ∧ (addr - 0x480000) % 0x10000 < 0x8100 then some ((addr - 0x480000) / 0x10000, (addr - 0x480000) % 0x10000)
    else none

/-- Read a word of a table entry or of the pending bits. -/
def msixRead (d : Dev) (n off : Nat) : Word :=
  if off < 0x8000 then
    let x := getMsix d n (off / 16)
    match off % 16 / 4 with
    | 0 => low32 x.addr | 1 => high32 x.addr | 2 => x.data | _ => low32 (bit x.masked)
  else low32 ((List.range 32).foldl (fun w i => w + bit (getMsix d n (32 * ((off - 0x8000) / 4) + i)).pend * 2 ^ i) 0)

/-! ### Reads -/

/-- A quiet read of an address through a path (R553): where the table does not admit the read, it returns 0 with a class C0 event. -/
def quietWord (e : Env) (d : Dev) (p : Path) (addr : Nat) : Word × Dev :=
  if addr = addrQaddr then (rdReg d Reg.DBG_QADDR [pathIndex p], d)
  else if addr = addrHaltCtl then (Fld.DBG_HALT_CTL_stream.put 0 (fget d Reg.DBG_HALT_CTL [pathIndex p] Fld.DBG_HALT_CTL_stream), d)
  else if strmBlock addr then strmRegRead d p (addr - 0x10000)
  else if syncAddr addr then let r := syncRead d p addr 4; (r.1.headD 0, r.2)
  else match msixAt p addr with
  | some (n, off) => (msixRead d n off, d)
  | none => match regAt addr with
    | none => (0, d)
    | some (r, ix) =>
      if pathReads d p r ix = false then (0, regEvent d p addr)
      else if r.base = Reg.DBG_HALT_STAT.base then (haltWord d (fget d Reg.DBG_HALT_CTL [pathIndex p] Fld.DBG_HALT_CTL_stream), d)
      else if r.base = Reg.DBG_QDATA.base then (0, d)
      else (showWord e d r ix, d)

/-- A read of DBG_QDATA (R553): a quiet read of the word that the path's DBG_QADDR names; of DBG_QDATA itself, 0 and nothing further. -/
def qdataRead (e : Env) (d : Dev) (p : Path) : Word × Dev :=
  let a := (fget d Reg.DBG_QADDR [pathIndex p] Fld.DBG_QADDR_addr) * 4
  if a = Reg.DBG_QDATA.base then (0, d) else quietWord e d p a

/-- A normal read's side effects (R11, R492, R554): RC fields keep what arrived during the read, and a LO word captures its high word. -/
def afterNormal (d : Dev) (p : Path) (r : RegDesc) (ix : List Nat) (during : Word) : Dev :=
  let d := if r.accMask .rc = 0 then d else wrReg d r ix (r.afterRead (rdReg d r ix) during)
  if r.base = Reg.THM_TB_LO.base then
    { d with dbg := { d.dbg with tbHi := Sparse.put d.dbg.tbHi (pathIndex p) (high32 d.tb).toNat } }
  else match tstOf r ix with
    | some (u, 5) =>
      { d with dbg := { d.dbg with bitsHi := Sparse.put d.dbg.bitsHi (bitsKey u p) (rdReg d (tstDesc u 8) (tstIx u)).toNat } }
    | _ => d

/-- What a normal read of a register returns: a HI word returns what the path captured (R492, R554). -/
def normalWord (e : Env) (d : Dev) (p : Path) (r : RegDesc) (ix : List Nat) : Word :=
  if r.base = Reg.THM_TB_HI.base then capturedOr d.dbg.tbHi (pathIndex p) (high32 d.tb).toNat
  else match tstOf r ix with
    | some (u, 8) => capturedOr d.dbg.bitsHi (bitsKey u p) (rdReg d r ix).toNat
    | _ => showWord e d r ix

/-! ### Writes to an MSI-X table -/

/-- Write a word of a table entry; pending bits are read only. An unmasked vector that is pending is sent (R454). -/
def msixWrite (d : Dev) (n off : Nat) (data : Word) : Dev :=
  if 0x8000 ≤ off then d
  else
    let v := off / 16
    let x := getMsix d n v
    match off % 16 / 4 with
    | 0 => setMsix d n v { x with addr := x.addr / 2 ^ 32 * 2 ^ 32 + data.toNat }
    | 1 => setMsix d n v { x with addr := x.addr % 2 ^ 32 + data.toNat * 2 ^ 32 }
    | 2 => setMsix d n v { x with data := data }
    | _ => if data.toNat % 2 = 1 then setMsix d n v { x with masked := true } else unmaskVector d n v

/-! ### Writes with an effect of their own -/

/-- The lock of an RWL field of a register (R10), as it stands before a write. -/
def lockOf (d : Dev) (r : RegDesc) (ix : List Nat) : Bool :=
  let b := r.base
  let i := ixAt ix 0
  if b = Reg.HUB_HBM_RANGE.base then rangesLocked d
  else if b < 0x200000 then fbit d Reg.MGMT_CFG [] Fld.MGMT_CFG_lock
  else if b < 0x300000 then fbit d Reg.FLT_CFG [] Fld.FLT_CFG_lock
  else if b < 0x400000 then fbit d Reg.THM_PKG_LIMIT [] Fld.THM_PKG_LIMIT_lock
  else if b = Reg.HOST_SB_CFG.base then fbit d Reg.HOST_SB_CFG [] Fld.HOST_SB_CFG_lock
  else if b < 0x500000 then fbit d Reg.HOST_PORT_CTL [i] Fld.HOST_PORT_CTL_lock
  else if b < 0x600000 then fbit d Reg.PRV_CTL [i] Fld.PRV_CTL_lock
  else if b < 0x700000 then fbit d Reg.DBG_CFG [] Fld.DBG_CFG_lock
  else if b < 0x1000000 then fbit d Reg.PKM_CACHE_CFG [i] Fld.PKM_CACHE_CFG_lock
  else if b < 0x2000000 then (rdReg d r ix).toNat.testBit 31
  else if b < 0x3000000 then leLocked d i
  else fbit d Reg.FAB_CFG [] Fld.FAB_CFG_lock

/-- The links of a light engine go down as its light does (R387, R514): one that carries traffic declares it, one in training starts
anew. -/
def linksDark (d : Dev) (k : Nat) : Dev :=
  (List.range 8).foldl (fun d f =>
    let g := 8 * k + f
    let st := lqState d g
    if st = 5 ∨ st = 8 then linkDown d g else if st = 0 ∨ st = 6 ∨ st = 7 then d else linkWait d g) d

/-- A light engine is turned off: lasers dark, outputs blocked, fibres to be started anew. -/
def leOff (d : Dev) (k : Nat) : Dev :=
  let d := gapSides (wrReg (blockAll d k) Reg.LE_GAP_CUR [k] 0) k 0
  let d := allLasers.foldl (fun d x => let st := laserState d k x.1 x.2; if st = 1 ∨ st = 4 then setLaser d k x.1 x.2 0 else d) d
  let d := (List.range 8).foldl (fun d f => if fget d Reg.LE_FIBRE (lqIx (8 * k + f)) Fld.LE_FIBRE_state = 1 then d else setFibre d (8 * k + f) 2) d
  setLeState (linksDark d k) k 0

/-- A write of LE_CTL: turning it on begins Table 10.4, which LIGHT_ENGINE_START carries out; the interlock holds it (R314). -/
def leCtlWrite (d : Dev) (k : Nat) (data : Word) : Dev :=
  let was := fbit d Reg.LE_CTL [k] Fld.LE_CTL_enable
  let d := Reg.LE_CTL.store d [k] (leLocked d k) data
  let now := fbit d Reg.LE_CTL [k] Fld.LE_CTL_enable
  if !was && now then setLeState d k (if fbit d Reg.LE_STAT [k] Fld.LE_STAT_conn then 1 else 3)
  else if was && !now then leOff d k else d

/-- A link is turned off: its traffic is flushed (R389). -/
def lqOff (d : Dev) (g : Nat) : Dev :=
  if lqState d g = 0 then d else setLqState (setLq (flushLink d g) g {}) g 0

/-- A write of LQ_CTL (R369, R381, R386). -/
def lqCtlWrite (d : Dev) (g : Nat) (data : Word) : Dev :=
  let was := fbit d Reg.LQ_CTL (lqIx g) Fld.LQ_CTL_enable
  let d := Reg.LQ_CTL.store d (lqIx g) (leLocked d (g / 8)) data
  let now := fbit d Reg.LQ_CTL (lqIx g) Fld.LQ_CTL_enable
  let d := if !was && now && lqState d g == 0 then linkWait d g else if was && !now then lqOff d g else d
  let d := if Fld.LQ_CTL_retrain.get data = 1 then wantRetrain d g 0 else d
  if Fld.LQ_CTL_swap.get data = 1 then proposeSwap d g else d

/-- A write of FAB_CTL (R413, R416). -/
def fabCtlWrite (e : Env) (d : Dev) (data : Word) : Dev :=
  let d := if Fld.FAB_CTL_leave.get data = 1 then fabLeave d else d
  if Fld.FAB_CTL_start.get data = 1 then fabStart e d else d

/-- A write of PRV_CTL (R282, R288, R291). -/
def prvCtlWrite (e : Env) (d : Dev) (g : Nat) (data : Word) : Dev :=
  let d := Reg.PRV_CTL.store d [g] (fbit d Reg.PRV_CTL [g] Fld.PRV_CTL_lock) (Fld.PRV_CTL_kill.put (Fld.PRV_CTL_release.put data 0) 0)
  let d := if Fld.PRV_CTL_release.get data = 1 then releaseGuest e d g else d
  if Fld.PRV_CTL_kill.get data = 1 then killGuest e (fset d Reg.PRV_CTL [g] Fld.PRV_CTL_kill 1) g 1 else d

/-- A write of MGMT_MBX_CTL (R515): with go the command waits for MFW. -/
def mbxCtlWrite (d : Dev) (i : Nat) (data : Word) : Dev :=
  let d := Reg.MGMT_MBX_CTL.store d [i] false data
  if Fld.MGMT_MBX_CTL_go.get data = 1 ∧ !(d.fw.mbx.contains i) then { d with fw := { d.fw with mbx := d.fw.mbx ++ [i] } } else d

/-- A write of FLT_ALIVE (R534). -/
def aliveWrite (d : Dev) (p : Path) (data : Word) : Dev :=
  if Fld.FLT_ALIVE_kick.get data = 1 ∧ p = .mfw then { d with flt := { d.flt with kickAt := d.tb } } else d

/-- The bundle end of a FEI_CTL. -/
def feiEndOf (r : RegDesc) (ix : List Nat) : BundleEnd :=
  if r.base = Reg.HUB_FEI_CTL.base then .hub (Fin.ofNat 4 (ixAt ix 0))
  else if r.base = Reg.BASE_FEI_CTL.base then .base (Fin.ofNat 6 (ixAt ix 0)) (Fin.ofNat 26 (ixAt ix 1))
  else .le (Fin.ofNat 16 (ixAt ix 0)) (Fin.ofNat 3 (ixAt ix 1))

/-- A write to the HUB and MGMT blocks and to Hawthorn. -/
def hubWrite (e : Env) (d : Dev) (p : Path) (r : RegDesc) (ix : List Nat) (data : Word) : Option Dev :=
  let b := r.base
  let i := ixAt ix 0
  if b = Reg.HUB_HBM_CFG.base then some (rangeLockWrite e.fuses.gradeB d data)
  else if b = Reg.HUB_PART_CTL.base then some (partWrite e d p i 0 data)
  else if Reg.HUB_PART_CORES.base ≤ b ∧ b ≤ Reg.HUB_PART_RES.base then some (partWrite e d p i ((b - Reg.HUB_PART_CTL.base) / 4) data)
  else if b = Reg.MGMT_RST_CTL.base then some (rstCtlWrite e d p data)
  else if b = Reg.MGMT_MBX_CTL.base then some (mbxCtlWrite d i data)
  else if b = Reg.FLT_ACK.base then some (fltAckWrite d (data.toNat % 8))
  else if b = Reg.FLT_CLEAR.base then some (fltClearWrite d (data.toNat % 8))
  else if b = Reg.FLT_ALIVE.base then some (aliveWrite d p data)
  else if b = Reg.FLT_PART_CTL.base then some (fltPartCtlWrite d i data)
  else none

/-- A write to the THM, HOST, PRV, DBG and BASE blocks. -/
def midWrite (e : Env) (d : Dev) (p : Path) (r : RegDesc) (ix : List Nat) (data : Word) : Option Dev :=
  let b := r.base
  let i := ixAt ix 0
  if b = Reg.THM_TRIP.base then some (if Fld.THM_TRIP_clear.get data = 1 then tripClear d p else d)
  else if b = Reg.THM_HK_CTL.base then some (hkCtlWrite d data)
  else if b = Reg.THM_TB_CTL.base then some (if Fld.THM_TB_CTL_set.get data = 1 then tbSet d p else d)
  else if b = Reg.PRV_CTL.base then some (prvCtlWrite e d i data)
  else if b = Reg.PRV_COMMIT.base then some (if Fld.PRV_COMMIT_commit.get data = 1 then commitRules d p i else d)
  else if b = Reg.DBG_SNAP.base then some (if Fld.DBG_SNAP_take.get data = 1 then snapTake d i else d)
  else none

/-- A write to a core site block. -/
def siteWrite (d : Dev) (p : Path) (r : RegDesc) (ix : List Nat) (data : Word) : Option Dev :=
  let b := r.base
  let i := ixAt ix 0
  if b = Reg.CMEM_CFG.base then some (cmemMapWrite d p i data)
  else if b = Reg.CMEM_MARCH_CTL.base then some (marchCtlWrite d p i data)
  else if b = Reg.CMEM_BANK.base then some (bankModeWrite d p i (ixAt ix 1) data)
  else if b = Reg.MXE_CFG.base then some (mxeCfgWrite d p i data)
  else if Reg.GDE_RXWIN_CTL.base ≤ b ∧ b ≤ Reg.GDE_RXWIN_AUX.base then
    some (rxwinWrite d p i (ixAt ix 1) ((b - Reg.GDE_RXWIN_CTL.base) / 4) data)
  else none

/-- A write to a trace unit's registers (R545): the ring fields stand while it is enabled. -/
def trcWrite (d : Dev) (p : Path) (r : RegDesc) (ix : List Nat) (data : Word) : Option Dev :=
  let b := r.base
  let u := if b < 0x2000000 then ixAt ix 0 else 36 + ixAt ix 0
  if b = Reg.CORE_TRC_CTL.base ∨ b = Reg.LE_TRC_CTL.base then some (trcCtlFrom d p u data)
  else if b = Reg.CORE_TRC_RPTR.base ∨ b = Reg.LE_TRC_RPTR.base then some (trcRptrWrite d p u data)
  else if (b = Reg.CORE_TRC_RING_LO.base ∨ b = Reg.CORE_TRC_RING_HI.base ∨ b = Reg.LE_TRC_RING_LO.base ∨ b = Reg.LE_TRC_RING_HI.base)
      ∧ trcEnabled d u then some d
  else none

/-- A write to the LE and FAB blocks. -/
def fabricWrite (e : Env) (d : Dev) (r : RegDesc) (ix : List Nat) (data : Word) : Option Dev :=
  let b := r.base
  let k := ixAt ix 0
  let g := 8 * k + ixAt ix 1
  if b = Reg.LE_CTL.base then some (leCtlWrite d k data)
  else if b = Reg.LE_XT_COMMIT.base then 
    let d := Reg.LE_XT_COMMIT.store d [k] false data
    some (if Fld.LE_XT_COMMIT_commit.get data = 1 then xtCommit d k else d)
  else if b = Reg.LE_RING_CTL.base then some (setTarget d k (ixAt ix 1) (Fld.LE_RING_CTL_heater_code.get data))
  else if b = Reg.LE_GAP_CMD.base then some (gapCmdWrite d k data)
  else if b = Reg.LE_CAL_CMD.base then some (calCmdWrite d k data)
  else if b = Reg.LE_CAL_MON_CTL.base then some (monCtlWrite d k data)
  else if b = Reg.LQ_CTL.base then some (lqCtlWrite d g data)
  else if b = Reg.LQ_PATH_CTL.base then some (lqPathWrite d g data)
  else if b = Reg.FAB_CTL.base then some (fabCtlWrite e d data)
  else if b = Reg.FAB_ID.base then
    some (if tableMode d then Reg.FAB_ID.store d [] (fbit d Reg.FAB_CFG [] Fld.FAB_CFG_lock) data else d)
  else if b = Reg.FAB_CFG.base then
    let old := fget d Reg.FAB_CFG [] Fld.FAB_CFG_diameter
    let d := Reg.FAB_CFG.store d [] (fbit d Reg.FAB_CFG [] Fld.FAB_CFG_lock) data
    some (if tableMode d then d else fset d Reg.FAB_CFG [] Fld.FAB_CFG_diameter old)
  else if b = Reg.FAB_COLL.base then some (planWrite d k (ixAt ix 1) data)
  else none

/-- The effect of a write that is admitted: a register's own, or its fields by their access codes (R9, R10). -/
def performWrite (e : Env) (d : Dev) (p : Path) (r : RegDesc) (ix : List Nat) (data : Word) : Dev :=
  let own : Option Dev :=
    if r.base < 0x300000 then hubWrite e d p r ix data
    else if r.base < 0x1000000 then midWrite e d p r ix data
    else if r.base < 0x2000000 then siteWrite d p r ix data
    else fabricWrite e d r ix data
  match own, trcWrite d p r ix data, tstOf r ix with
  | some d, _, _ => d
  | none, some d, _ => d
  | none, none, some (u, 0) => if tstWrites d p u then tstCtlWrite d p u data else regEvent d p (r.key ix)
  | none, none, _ =>
    if r.base = Reg.HUB_FEI_CTL.base ∨ r.base = Reg.BASE_FEI_CTL.base ∨ r.base = Reg.LE_FEI_CTL.base then feiCtlWrite d (feiEndOf r ix) data
    else r.store d ix (lockOf d r ix) data

/-! ### One access -/

/-- A normal 32-bit read at an aligned address through a path: what it returns, and its side effects. `during` holds the RC events that
arrive during it (R11). -/
def regReadAt (e : Env) (d : Dev) (p : Path) (addr : Nat) (during : Word) : Word × Dev :=
  match msixAt p addr with
  | some (n, off) => (msixRead d n off, d)
  | none =>
    if addr = addrQaddr ∨ addr = addrHaltCtl ∨ strmBlock addr then quietWord e d p addr
    else match regAt addr with
      | none => (0, d)
      | some (r, ix) =>
        if r.base = Reg.DBG_QDATA.base then qdataRead e d p
        else if pathReads d p r ix = false ∨ r.base = Reg.DBG_HALT_STAT.base then quietWord e d p addr
        else (normalWord e d p r ix, afterNormal d p r ix during)

/-- A 32-bit write at an aligned address through a path. While the device is halted a port writes only the FLT and MGMT blocks
(R529). -/
def regWriteAt (e : Env) (d : Dev) (p : Path) (addr : Nat) (data : Word) : Dev :=
  if (pathPort p).isSome && devHalted d && !(decide (0x100000 ≤ addr) && decide (addr < 0x300000)) then d
  else match msixAt p addr with
    | some (n, off) => msixWrite d n off data
    | none =>
      if addr = addrQaddr then Reg.DBG_QADDR.store d [pathIndex p] false data
      else if addr = addrHaltCtl then haltCtlWrite d p data
      else if strmBlock addr then strmRegWrite e d p (addr - 0x10000) data
      else match regAt addr with
        | none => d
        | some (r, ix) => if pathWrites d p r ix then performWrite e d p r ix data else regEvent d p addr

end Sys2Proof.Machine
end

