-- ==== Sys2Proof/Machine/Paths.lean ====
section
/-!
DEFINITION. The paths to the configuration space: accesses by size (R13, R14), BAR0 (R452), the vendor commands (R463, Table 13.10),
the quiet view (R553), the console (R516, Table 15.9) and DBGACC (R564).
-/
namespace Sys2Proof.Machine

/-! ### Accesses by size -/

/-- An access reaches the hub die: a port's while its BARs decode; JTAG writes while DBG_CFG.jtag_wr is 1 (R564); with the main rails off
only what the standby domain answers (R464). -/
def pathAlive (d : Dev) (p : Path) (addr : Nat) (write : Bool) : Bool :=
  match p with
  | .port n => barsDecode d n.val
  | .jtag => !(railsOff d addr) && (!write || fbit d Reg.DBG_CFG [] Fld.DBG_CFG_jtag_wr)
  | _ => !(railsOff d addr)

/-- An access outside the SYNC window has an accepted size and alignment (R13). -/
def sizeOk (addr size : Nat) : Bool := (size == 4 && addr % 4 == 0) || (size == 8 && addr % 8 == 0)

/-- A write of a size (R13, R14, R207): a 64-bit write as two, lower address first. -/
def accessWrite (e : Env) (d : Dev) (p : Path) (addr size data : Nat) : Dev :=
  if pathAlive d p addr true = false then d
  else if syncAddr addr then (if (pathPort p).isSome && devHalted d then d else syncWrite d p addr size data)
  else if sizeOk addr size = false then regEvent d p addr
  else
    let d := regWriteAt e d p addr (low32 data)
    if size = 8 then regWriteAt e d p (addr + 4) (high32 data) else d

/-- A normal read of a size. -/
def accessRead (e : Env) (d : Dev) (p : Path) (addr size during : Nat) : List Word × Dev :=
  if pathAlive d p addr false = false then ([], d)
  else if syncAddr addr then syncRead d p addr size
  else if sizeOk addr size = false then (List.replicate (max 1 (size / 4)) (BitVec.allOnes 32), regEvent d p addr)
  else
    let r := regReadAt e d p addr (low32 during)
    if size = 8 then let r2 := regReadAt e r.2 p (addr + 4) (high32 during); ([r.1, r2.1], r2.2) else ([r.1], r.2)

/-- A quiet read of a size. -/
def accessQuiet (e : Env) (d : Dev) (p : Path) (addr size : Nat) : List Word × Dev :=
  if pathAlive d p addr false = false then ([], d)
  else if sizeOk addr size = false then (List.replicate (max 1 (size / 4)) (BitVec.allOnes 32), regEvent d p addr)
  else
    let r := quietWord e d p addr
    if size = 8 then let r2 := quietWord e r.2 p (addr + 4); ([r.1, r2.1], r2.2) else ([r.1], r.2)

/-- Answer a read on its path. -/
def answerRead (p : Path) (r : List Word × Dev) : Dev := if r.1.isEmpty then r.2 else emit r.2 (.regData p r.1)

/-- REG_WRITE (R9, R10, R13, R14): `ext` is what memory outside the device answers, where the write stops a stream whose ring lies
there. -/
def execRegWrite (p : Path) (addr : BitVec 26) (size : Nat) (data : BitVec 64) (ext : List Byte) (s : State) :
    Host.Outcome State Fault Refusal :=
  s.run (fun e d => accessWrite e { d with extIn := ext } p addr.toNat size data.toNat)

/-- RC_READ (R11): a normal read; `during` holds the events that arrive during it, in the bits of its RC fields. -/
def execRcRead (p : Path) (addr : BitVec 26) (size : Nat) (during : BitVec 64) (s : State) : Host.Outcome State Fault Refusal :=
  s.run (fun e d => answerRead p (accessRead e d p addr.toNat size during.toNat))

/-- QUIET_READ (R12, R553, R554). -/
def execQuietRead (p : Path) (addr : BitVec 26) (size : Nat) (s : State) : Host.Outcome State Fault Refusal :=
  s.run (fun e d => answerRead p (accessQuiet e d p addr.toNat size))

/-- DBG_QDATA_READ (R553). -/
def execDbgQdataRead (p : Path) (s : State) : Host.Outcome State Fault Refusal :=
  s.run (fun e d => answerRead p (accessRead e d p Reg.DBG_QDATA.base 4 0))

/-- THM_TB_LO_READ (R492). -/
def execThmTbLoRead (p : Path) (s : State) : Host.Outcome State Fault Refusal :=
  s.run (fun e d => answerRead p (accessRead e d p Reg.THM_TB_LO.base 4 0))

/-- TST_BITS_LO_READ (R554): a normal read of a unit's TST_BITS_LO. -/
def execTstBitsLoRead (p : Path) (addr : BitVec 26) (s : State) : Host.Outcome State Fault Refusal :=
  s.run (fun e d => answerRead p (accessRead e d p addr.toNat 4 0))

/-- BAR0_ACCESS (R452, R506): a write of a size, or a normal read. Without a decoding BAR it is an unsupported request. -/
def execBar0Access (p : Fin 4) (addr : BitVec 26) (size : Nat) (write : Option (BitVec 64)) (during : BitVec 64) (ext : List Byte)
    (s : State) : Host.Outcome State Fault Refusal :=
  s.run (fun e d => match write with
    | some v => accessWrite e { d with extIn := ext } (.port p) addr.toNat size v.toNat
    | none => answerRead (.port p) (accessRead e d (.port p) addr.toNat size during.toNat))

/-! ### The vendor commands -/

/-- The words of a vendor command: from an address, all inside the configuration space. -/
def cmdAddrs (addr n : Nat) : List Nat := (List.range n).map (fun i => addr + 4 * i)

/-- Why a vendor command of n words is refused as a whole: 2 LENGTH, 1 ADDRESS (R14), 3 OFF (R464). -/
def cmdStatus (d : Dev) (addr n : Nat) : Nat :=
  if n = 0 ∨ 64 < n then 2
  else if addr % 4 ≠ 0 ∨ 2 ^ 26 < addr + 4 * n then 1
  else if (cmdAddrs addr n).any (railsOff d) then 3 else 0

/-- Read words one by one, in the normal or the quiet view. -/
def readWords (e : Env) (p : Path) (quiet : Bool) : List Nat → Dev → List Word × Dev
  | [], d => ([], d)
  | a :: as, d =>
    let r := if quiet || syncAddr a then quietWord e d p a else regReadAt e d p a 0
    let rs := readWords e p quiet as r.2
    (r.1 :: rs.1, rs.2)

/-- Write words one by one; a word of the SYNC window is refused, since R207 takes 8 bytes. Answers whether none was refused. -/
def writeWords (e : Env) (p : Path) : List (Nat × Word) → Dev → Bool × Dev
  | [], d => (true, d)
  | x :: xs, d =>
    if syncAddr x.1 then let r := writeWords e p xs (regEvent d p x.1); (false, r.2)
    else writeWords e p xs (regWriteAt e d p x.1 x.2)

/-- The bytes of words, little-endian. -/
def wordBytes (ws : List Word) : List Byte := ws.flatMap (fun w => leBytes 4 w.toNat)

/-- REG_READ (R463, Table 13.10): address, word count, view. -/
def execRegRead (addr : Word) (count : Byte) (quiet : Bool) (s : State) : Host.Outcome State Fault Refusal :=
  s.run (fun e d =>
    let st := cmdStatus d addr.toNat count.toNat
    if st = 1 then emit (regEvent d .sideBand addr.toNat) (.sideBand 1 [])
    else if st ≠ 0 then emit d (.sideBand st [])
    else
      let r := readWords e .sideBand quiet (cmdAddrs addr.toNat count.toNat) d
      emit r.2 (.sideBand 0 (wordBytes r.1)))

/-- REG_WRITE_CMD (R463, Table 13.10): the vendor command REG_WRITE, with its words. -/
def execRegWriteCmd (addr : Word) (count : Byte) (words : List Word) (ext : List Byte) (s : State) : Host.Outcome State Fault Refusal :=
  s.run (fun e d =>
    let st := if words.length ≠ count.toNat then 2 else cmdStatus d addr.toNat count.toNat
    if st = 1 then emit (regEvent d .sideBand addr.toNat) (.sideBand 1 [])
    else if st ≠ 0 then emit d (.sideBand st [])
    else
      let r := writeWords e .sideBand ((cmdAddrs addr.toNat count.toNat).zip words) { d with extIn := ext }
      emit r.2 (.sideBand (if r.1 then 0 else 1) []))

/-! ### The console -/

/-- The console works from STANDBY on (R516), and pauses while the pair is halted (R559). -/
def consoleUp (d : Dev) : Bool := d.fw.running && !(pairHalted d)

/-- Console commands that write are accepted (Table 15.17). -/
def consoleWrites (d : Dev) : Bool := consoleUp d && fbit d Reg.MGMT_CFG [] Fld.MGMT_CFG_console_wr

/-- CONSOLE_RD (R516, R553): n words, in the quiet view; words that do not answer (R464) or that R14 refuses are left out. -/
def execConsoleRd (addr : Word) (n : BitVec 16) (s : State) : Host.Outcome State Fault Refusal :=
  s.run (fun e d =>
    if consoleUp d = false then d
    else if addr.toNat % 4 ≠ 0 then regEvent d .console addr.toNat
    else
      let as := (cmdAddrs addr.toNat n.toNat).filter (fun a => !(railsOff d a) && decide (a < 2 ^ 26))
      let r := readWords e .console true as d
      emit r.2 (.console (wordBytes r.1)))

/-- CONSOLE_WR (R516). -/
def execConsoleWr (addr value : Word) (ext : List Byte) (s : State) : Host.Outcome State Fault Refusal :=
  s.run (fun e d =>
    if consoleWrites d ∧ addr.toNat < 2 ^ 26 then accessWrite e { d with extIn := ext } .console addr.toNat 4 value.toNat else d)

/-- CONSOLE_RESET (R516, Table 15.14 cause 6). -/
def execConsoleReset (warm : Bool) (s : State) : Host.Outcome State Fault Refusal :=
  s.run (fun e d => if consoleWrites d then (if warm then warmReset e d 6 false else coldReset d 6) else d)

/-! ### DBGACC -/

/-- DBGACC (R564): the access that an Update-DR starts; its status and data stand for the next Capture-DR. -/
def execDbgacc (reg : BitVec 64) (ext : List Byte) (s : State) : Host.Outcome State Fault Refusal :=
  s.run (fun e d =>
    if d.dbg.ir ≠ 0x20 then d
    else
      let a := bits reg.toNat 25 2 * 4
      let done (st v : Nat) (d : Dev) : Dev := { d with dbg := { d.dbg with acc := (st, v) } }
      if reg.toNat.testBit 26 then
        if fbit d Reg.DBG_CFG [] Fld.DBG_CFG_jtag_wr = false then done 3 0 d
        else if railsOff d a then done 2 0 d
        else if syncAddr a then done 2 0 (regEvent d .jtag a)
        else done 0 0 (regWriteAt e { d with extIn := ext } .jtag a (high32 reg.toNat))
      else if railsOff d a then done 2 0 d
      else
        let r := if reg.toNat.testBit 27 || syncAddr a then quietWord e d .jtag a else regReadAt e d .jtag a 0
        done 0 r.1.toNat r.2)

end Sys2Proof.Machine
end

