-- ==== Sys2Proof/Machine/Boot.lean ====
section
/-!
DEFINITION. Firmware and the start (R498-R516): flash and images, the boot ROM, the standby phase, the main phase, pairing, the
controller pair, updates, mailboxes and the console.
-/
namespace Sys2Proof.Machine

/-! ### Flash (R498, R499) -/

/-- A byte of flash; an erased byte reads 0xFF. -/
def flashByte (d : Dev) (off : Nat) : Byte := Sparse.get 0xFF d.fw.flash off

/-- Bytes of flash. -/
def flashBytes (d : Dev) (off n : Nat) : List Byte := (List.range n).map (fun i => flashByte d (off + i))

/-- A little-endian field of flash. -/
def flashNat (d : Dev) (off n : Nat) : Nat := leNat (flashBytes d off n)

/-- Replace the flash. -/
def setFlash (d : Dev) (m : Sparse.Map Byte) : Dev := { d with fw := { d.fw with flash := m } }

/-- Program bytes: programming only clears bits. -/
def flashProgram (d : Dev) (off : Nat) (bs : List Byte) : Dev :=
  setFlash d (((List.range bs.length).zip bs).foldl (fun m x => Sparse.set 0xFF m (off + x.1) (Sparse.get 0xFF m (off + x.1) &&& x.2)) d.fw.flash)

/-- Erase a range. -/
def flashErase (d : Dev) (off n : Nat) : Dev := setFlash d (Sparse.clear d.fw.flash off n)

/-- The offset of a slot (Table 15.2): kind 1 MFW, 2 LFW. -/
def slotOff (kind slot : Nat) : Nat := if kind = 1 then 0x100000 + 0x400000 * slot else 0x900000 + 0x100000 * slot

/-- Its size. -/
def slotSize (kind : Nat) : Nat := if kind = 1 then 0x400000 else 0x100000

/-- A field of a slot's header (Table 15.3). -/
def hdr (d : Dev) (kind slot off n : Nat) : Nat := flashNat d (slotOff kind slot + off) n

/-- Header fields. -/
def hdrVersion (d : Dev) (kind slot : Nat) : Nat := hdr d kind slot 4 4
def hdrIf (d : Dev) (kind slot : Nat) : Nat := hdr d kind slot 8 2
def hdrLfwIf (d : Dev) (slot : Nat) : Nat := hdr d 1 slot 10 2
def hdrSeq (d : Dev) (kind slot : Nat) : Nat := hdr d kind slot 12 4
def hdrState (d : Dev) (kind slot : Nat) : Nat := hdr d kind slot 20 4

/-- The state words (Table 15.3). -/
def statePending : Nat := 0xFFFFFFFF
def stateConfirmed : Nat := 0x0000FFFF

/-- What of R500 the header shows: its magic, its length, its state. -/
def headerOk (d : Dev) (kind slot : Nat) : Bool :=
  hdr d kind slot 0 4 == (if kind = 1 then 0x57464D49 else 0x57464C49)
    && decide (hdr d kind slot 16 4 ≤ (if kind = 1 then 0x200000 else 0x80000))
    && (hdrState d kind slot == statePending || hdrState d kind slot == stateConfirmed)

/-- A slot is valid (R500); `good` tells the slots whose digest and signature check. -/
def slotValid (d : Dev) (good : BitVec 4) (kind slot : Nat) : Bool := headerOk d kind slot && tbit good.toNat (2 * (kind - 1) + slot)

/-- Program a slot's state word (R501, R513, R514). -/
def setSlotState (d : Dev) (kind slot v : Nat) : Dev := flashProgram d (slotOff kind slot + 20) (leBytes 4 v)

/-- Of the valid slots in a state, the one with the higher sequence number. -/
def newest (d : Dev) (good : BitVec 4) (kind st : Nat) : Option Nat :=
  let ok (s : Nat) : Bool := slotValid d good kind s && hdrState d kind s == st
  if ok 0 && ok 1 then some (if hdrSeq d kind 0 < hdrSeq d kind 1 then 1 else 0) else if ok 0 then some 0 else if ok 1 then some 1 else none

/-- The slot that a choice under R501 takes, and whether it is PENDING: a PENDING valid slot newer than every CONFIRMED valid one, or the
newest CONFIRMED valid one. -/
def chooseSlot (d : Dev) (good : BitVec 4) (kind : Nat) : Option (Nat × Bool) :=
  match newest d good kind statePending, newest d good kind stateConfirmed with
  | some p, some c => if hdrSeq d kind c < hdrSeq d kind p then some (p, true) else some (c, false)
  | some p, none => some (p, true)
  | none, some c => some (c, false)
  | none, none => none

/-! ### The boot configuration block (R502, R503) -/

/-- An entry: address, value, stage. -/
structure BcbEntry where
  addr : Nat
  value : Word
  stage : Nat
deriving DecidableEq, Repr

/-- A copy whose header and CRC are right: its seq. -/
def bcbSeq (d : Dev) (off : Nat) : Option Nat :=
  let n := flashNat d (off + 8) 4
  if flashNat d off 4 = 0x47434642 ∧ n ≤ 4096 ∧ (flashBytes d (off + 16) 48).all (· == 0)
      ∧ crc32c (flashBytes d (off + 64) (12 * n)) = flashNat d (off + 12) 4 then some (flashNat d (off + 4) 4) else none

/-- The entries of a copy. -/
def bcbAt (d : Dev) (off : Nat) : List BcbEntry :=
  (List.range (flashNat d (off + 8) 4)).map (fun i =>
    let o := off + 64 + 12 * i
    { addr := flashNat d o 4, value := low32 (flashNat d (o + 4) 4), stage := flashNat d (o + 8) 1 })

/-- The block in use: the right copy with the higher seq; none where the defaults apply. -/
def bcbOf (d : Dev) : Option (List BcbEntry) :=
  match bcbSeq d 0, bcbSeq d 0x10000 with
  | some a, some b => some (bcbAt d (if a < b then 0x10000 else 0))
  | some _, none => some (bcbAt d 0)
  | none, some _ => some (bcbAt d 0x10000)
  | none, none => none

/-- A lock holds a field that the entry would change. -/
def lockedOut (d : Dev) (addr : Nat) (value : Word) : Bool :=
  match regAt addr with
  | some (r, ix) => lockOf d r ix && (r.accMask .rwl &&& (rdReg d r ix ^^^ value)) != 0
  | none => !(strmBlock addr || addr == addrQaddr || addr == addrHaltCtl)

/-- Apply an entry as a register write; one that is discarded, or that addresses a reserved range, is counted. -/
def applyEntry (e : Env) (d : Dev) (x : BcbEntry) : Dev :=
  let out := lockedOut d x.addr x.value
  let d2 := accessWrite e d .mfw x.addr 4 x.value.toNat
  if out ∨ d.reports.length < d2.reports.length ∧ (d2.reports.drop d.reports.length).any (·.source == 1)
  then fincSat d2 Reg.MGMT_BOOT_CTL [] Fld.MGMT_BOOT_CTL_bcb_rej 1 else d2

/-- Apply the entries of a stage in block order. -/
def applyStage (e : Env) (d : Dev) (st : Nat) : Dev :=
  (((bcbOf d).getD []).filter (fun x => x.stage == st)).foldl (applyEntry e) d

/-! ### The boot ROM and the standby phase (R501, Table 15.5) -/

/-- The loaded LFW is chosen as in R501 (Table 15.5 step 3, R514). -/
def loadLfw (d : Dev) (good : BitVec 4) : Dev :=
  match chooseSlot d good 2 with
  | none => fset { d with fw := { d.fw with lfw := none } } Reg.MGMT_LFW_VER [] Fld.MGMT_LFW_VER_version 0
  | some (s, _) =>
    let d := { d with fw := { d.fw with lfw := some (hdrIf d 2 s) } }
    let d := fset d Reg.MGMT_LFW_VER [] Fld.MGMT_LFW_VER_version (hdrVersion d 2 s)
    fset d Reg.MGMT_FW_STAT [] Fld.MGMT_FW_STAT_lfw_slot s

/-- MFW reads the mirror only if the event store fails its check, and restores the store when the mirror's CRC passes (R498). -/
def checkStore (d : Dev) (t : RomTests) : Dev :=
  if t.storeOk ∨ !t.mirrorOk then d
  else match d.fw.mirror with
    | none => d
    | some m =>
      wrReg { d with store := m.records, coppice := { d.coppice with standing := m.standing }, fw := { d.fw with ages := m.ages } }
        Reg.FLT_STORE [] m.place

/-- The standby phase from step 3: boot configuration block, LFW, event store; stage STANDBY, ALIVE toggling (Table 15.5, R534). -/
def standbyPhase (e : Env) (d : Dev) (t : RomTests) : Dev :=
  let d := { d with fw := { d.fw with running := true, table := (t.table.take 64).map (fun x => (x.1.toNat, x.2.toNat)) } }
  let d := checkStore (loadLfw d t.good) t
  let d := if (bcbOf d).isNone then report d { source := 0x06, unit := 0 } else d
  let d := applyStage e (setStage d 2) 2
  let d := { d with flt := { d.flt with kickAt := d.tb } }
  fset d Reg.FLT_ALIVE [] Fld.FLT_ALIVE_running 1

/-- The ROM runs a slot: stage MFW_LOAD, and STANDBY unless the image hangs. -/
def runSlot (e : Env) (d : Dev) (slot : Nat) (t : RomTests) : Dev :=
  let d := fset (setStage d 1) Reg.MGMT_FW_STAT [] Fld.MGMT_FW_STAT_mfw_slot slot
  let d := fset d Reg.MGMT_MFW_VER [] Fld.MGMT_MFW_VER_version (hdrVersion d 1 slot)
  let d := fset d Reg.MGMT_MFW_IF [] Fld.MGMT_MFW_IF_if_level (hdrIf d 1 slot)
  let d := fset d Reg.MGMT_MFW_IF [] Fld.MGMT_MFW_IF_lfw_if (hdrLfwIf d slot)
  if t.hang then d else standbyPhase e d t

/-- ROM_SLOT_CHOICE (R501). -/
def execRomSlotChoice (t : RomTests) (s : State) : Host.Outcome State Fault Refusal :=
  s.run (fun e d =>
    if stage d ≠ 0 ∨ d.fw.running then d
    else
      let failed := fbit d Reg.MGMT_UPD_STAT [] Fld.MGMT_UPD_STAT_trial
      let d := if failed then
          let d := setSlotState d 1 (fget d Reg.MGMT_FW_STAT [] Fld.MGMT_FW_STAT_mfw_slot) 0
          fset (fset d Reg.MGMT_UPD_STAT [] Fld.MGMT_UPD_STAT_trial 0) Reg.MGMT_FW_STAT [] Fld.MGMT_FW_STAT_fallback 1
        else d
      match chooseSlot d t.good 1 with
      | none => setStage d 15
      | some (slot, pending) =>
        let d := if pending then fset d Reg.MGMT_UPD_STAT [] Fld.MGMT_UPD_STAT_trial 1 else d
        runSlot e d slot t)

/-- ROM_WATCHDOG (R501): MFW has not reached STANDBY within 1 s of its load starting. -/
def execRomWatchdog (s : State) : Host.Outcome State Fault Refusal :=
  s.run (fun _ d => if stage d = 1 ∧ d.fw.running = false then restartPair d 8 else d)

/-- ROM_RECOVERY_LOAD (R514): with no runnable slot, an image received over the console or SMBus goes into slot 0 and runs once it passes
R500. -/
def execRomRecoveryLoad (image : List Byte) (t : RomTests) (s : State) : Host.Outcome State Fault Refusal :=
  s.run (fun e d =>
    if stage d ≠ 15 ∨ d.fw.running then d
    else
      let d := flashProgram (flashErase d (slotOff 1 0) (slotSize 1)) (slotOff 1 0) (image.take (slotSize 1))
      if slotValid d t.good 1 0 then runSlot e d 0 t else d)

/-! ### Pairing (R508) -/

/-- How a light engine of a stepping pairs with an LFW of a version and interface level: 0 FULL, 1 CONSERVATIVE, 2 DARK. -/
def pairing (d : Dev) (lfw : Option (Nat × Nat)) (stepping : Nat) : Nat :=
  match lfw with
  | none => 2
  | some (version, level) =>
    if level / 256 ≠ fget d Reg.MGMT_MFW_IF [] Fld.MGMT_MFW_IF_lfw_if / 256 then 2
    else if d.fw.table.any (fun x => x.1 == version && tbit x.2 stepping && decide (stepping < 32)) then 0 else 1

/-- The loaded LFW. -/
def loadedLfw (d : Dev) : Option (Nat × Nat) :=
  d.fw.lfw.map (fun level => (fget d Reg.MGMT_LFW_VER [] Fld.MGMT_LFW_VER_version, level))

/-- Pair a light engine and turn it on where allowed (R508, Table 15.6 step 8). -/
def pairEngine (lfw : Option (Nat × Nat)) (d : Dev) (k : Nat) : Dev :=
  if fget d Reg.HUB_DIEMAP [43 + k] Fld.HUB_DIEMAP_state ≠ 1 then fset d Reg.MGMT_LE_FW [k] Fld.MGMT_LE_FW_result 3
  else
    let res := pairing d lfw (fget d Reg.HUB_DIEMAP [43 + k] Fld.HUB_DIEMAP_stepping)
    let d := fset d Reg.MGMT_LE_FW [k] Fld.MGMT_LE_FW_result res
    let d := fset d Reg.MGMT_LE_FW [k] Fld.MGMT_LE_FW_level ((lfw.map (·.2)).getD 0)
    let d := fset d Reg.LE_STAT [k] Fld.LE_STAT_profile (bit (res == 1))
    if res = 2 then
      let d := fset d Reg.MGMT_FW_STAT [] Fld.MGMT_FW_STAT_lfw_incompat 1
      let d := (List.range 8).foldl (fun d f => fenceFibre d (8 * k + f)) d
      report d { source := if (partOfTrunk d (k / 2)).isSome then 0x30 else 0x2E, unit := unitLe k, stat := Reg.MGMT_LE_FW.slot [k] }
    else
      let d := if res = 1 then
          report (fset d Reg.MGMT_FW_STAT [] Fld.MGMT_FW_STAT_lfw_untested 1) { source := 0x06, unit := unitLe k, stat := Reg.MGMT_LE_FW.slot [k] }
        else d
      leCtlWrite d k (Fld.LE_CTL_enable.put (rdReg d Reg.LE_CTL [k]) 1)

/-- Pair every discovered light engine; MFW then writes a PENDING LFW slot CONFIRMED (R514). -/
def pairAll (d : Dev) : Dev :=
  let d := fset (fset d Reg.MGMT_FW_STAT [] Fld.MGMT_FW_STAT_lfw_untested 0) Reg.MGMT_FW_STAT [] Fld.MGMT_FW_STAT_lfw_incompat 0
  let d := (List.range 16).foldl (pairEngine (loadedLfw d)) d
  if d.fw.lfw.isSome then setSlotState d 2 (fget d Reg.MGMT_FW_STAT [] Fld.MGMT_FW_STAT_lfw_slot) stateConfirmed else d

/-! ### The main phase (R504-R507, Table 15.6) -/

/-- A start stops at FAILED (R507). -/
def startFails (e : Env) (d : Dev) : Dev := takeFault e (setStage d 15) { source := 0x42, unit := 0, stat := Reg.MGMT_FW_STAT.slot [] }

/-- The ends that lead the bundles of a wave (Table 15.6 steps 2 to 4): hub bundles; base-to-base; light engines. -/
def waveEnds (wave : Nat) : List BundleEnd :=
  if wave = 1 then (List.range 4).map (fun j => .hub (Fin.ofNat 4 j))
  else
    let bs : List BundleEnd := (List.range 6).flatMap (fun m => (List.range 26).map (fun j => .base (Fin.ofNat 6 m) (Fin.ofNat 26 j)))
    bs.filter (fun x => match farEnd x with
      | some (.base _ _) => wave == 2 && endLeads x
      | some (.le _ _) => wave == 3
      | _ => false)

/-- Start the training of a wave: both ends are enabled. -/
def startWave (d : Dev) (wave : Nat) : Dev :=
  (waveEnds wave).foldl (fun d x => (bundleEnds x).foldl (fun d y =>
    feiCtlWrite d y (Fld.HUB_FEI_CTL_enable.put (rdReg d (feiDesc y 0) (feiIx y)) 1)) d) d

/-- Every bundle of a wave is ACTIVE or fenced. -/
def waveSettled (d : Dev) (wave : Nat) : Bool := (waveEnds wave).all (fun x => decide (6 ≤ feiState d x))

/-- A wave has been started. -/
def waveStarted (d : Dev) (wave : Nat) : Bool := (waveEnds wave).any (fun x => feiState d x != 0)

/-- Step 1: the rails, the fused exclusions (R260), the ageing offsets (R300), the stage-3 entries, then the ports (R503); wave 1. -/
def powerStep (e : Env) (d : Dev) (t : StartTests) : Dev :=
  let d := { d with
      fw := { d.fw with mainOn := true, resetLow := false, startAt := d.tb },
      flt := { d.flt with kickAt := d.tb } }
  let d := setStage (fset d Reg.FLT_ALIVE [] Fld.FLT_ALIVE_running 1) 3
  let d := { d with regs := e.fuses.lanes.foldl (fun (m : Sparse.Map Word) (x : Nat × Word) => Sparse.set 0 m x.1 x.2) d.regs }
  let d := d.fw.ages.foldl (fun (d : Dev) (x : Nat × Nat) => fset d Reg.LE_LASER [x.1 / 64, x.1 % 64 / 23, x.1 % 64 % 23] Fld.LE_LASER_age x.2) d
  let d := applyStage e (loadLfw d t.good) 3
  let d := (List.range 4).foldl (fun d p =>
    Reg.HOST_PORT_CTL.store d [p] (fbit d Reg.HOST_PORT_CTL [p] Fld.HOST_PORT_CTL_lock) (Fld.HOST_PORT_CTL_enable.put (rdReg d Reg.HOST_PORT_CTL [p]) 1)) d
  let d := wrReg d Reg.HUB_DIEMAP [0] (Fld.HUB_DIEMAP_state.put (low32 (0x01 + e.fuses.stepping.toNat * 2 ^ 16)) 1)
  startWave (setStage d 4) 1

/-- A base die has been discovered. -/
def baseFound (d : Dev) (m : Nat) : Bool := fget d Reg.HUB_DIEMAP [1 + m] Fld.HUB_DIEMAP_state == 1

/-- The reason of a site that is not good (Table 1.12): fused, failed a test, or behind a base die that was not discovered. -/
def siteBad (e : Env) (d : Dev) (t : StartTests) (s : Nat) : Nat :=
  if e.fuses.siteOut.contains s then 1
  else match t.sites.find? (fun x => x.1.val == s) with
    | some x => 2 + x.2.val
    | none => if baseFound d (s / 6) then 0 else 4

/-- Steps 6 and 7: the tests of core sites, and Coppice's plan. -/
def siteStep (e : Env) (d : Dev) (t : StartTests) : Dev :=
  let d := planStart e (setStage d 6) (siteBad e d t)
  (List.range 36).foldl (fun d s => if siteState d s = 0 then setRail (setPstate d s 1) s 750 else d) d

/-- The stacks of a start: those that pass their test on a discovered base die (R40, R224). -/
def stackStep (d : Dev) (t : StartTests) : Dev :=
  let ok (n : Nat) : Bool := baseFound d (n / 4) && !(tbit t.badStacks.toNat n)
  let d := fset d Reg.HUB_HBM_STACKS [] Fld.HUB_HBM_STACKS_in_service (((List.range 24).filter ok).foldl (fun w n => w + 2 ^ n) 0)
  (List.range 24).foldl (fun d n =>
    if ok n then d
    else
      let d := fset d Reg.PKM_HBM_STAT [n / 4, n % 4] Fld.PKM_HBM_STAT_fenced 1
      report d { source := 0x27, unit := unitBase (n / 4), sub := n % 4, stat := Reg.PKM_HBM_STAT.slot [n / 4, n % 4] }) d

/-- What of a range entry describes the range (R507). -/
def rangeShape (w : Word) : Word := w &&& Reg.HUB_HBM_RANGE.accMask .rwl

/-- Steps 9 (R232, R503, R504, R507): row repair, range entries or the default, the comparison of a warm start, the lock, ready. -/
def hbmStep (e : Env) (d : Dev) (t : StartTests) : Dev :=
  let d := stackStep (setStage d 7) t
  let d := { d with coh := { d.coh with rowLoss := [] } }
  let d := if d.fw.warm then t.lost.foldl (fun d x => setPoison d (lineMark (stackCells x.1.val + x.2.toNat / 128 * 128)) true) d else d
  let d := if (bcbOf d).isSome then applyStage e d 7
    else
      let w := Fld.HUB_HBM_RANGE_len_gib.put (Fld.HUB_HBM_RANGE_enable.put 0 1) (if e.fuses.gradeB then 36 else 48)
      wrReg d Reg.HUB_HBM_RANGE [0] w
  let d := if d.fw.warm ∧ (rangeTable d).map rangeShape ≠ d.fw.saved.map rangeShape then
      let d := clearMem { d with poison := d.poison.filter (fun x => decide (x.1 < 2 ^ 40)) } (2 ^ 40) (24 * 2 ^ 36)
      report d { source := 0x06, unit := 0 }
    else d
  rangeLockWrite e.fuses.gradeB d (Fld.HUB_HBM_CFG_lock.put 0 1)

/-- Step 12 (R504, R514): READY. Host ports are released, the map stands, a trial slot is CONFIRMED, the boot time is recorded; how a part
of a millisecond counts is free. -/
def readyStep (d : Dev) : Dev :=
  let d := mapStands (setStage d 10)
  let slot := fget d Reg.MGMT_FW_STAT [] Fld.MGMT_FW_STAT_mfw_slot
  let d := if hdrState d 1 slot = statePending then setSlotState d 1 slot stateConfirmed else d
  let d := fset d Reg.MGMT_UPD_STAT [] Fld.MGMT_UPD_STAT_trial 0
  let up := takeFree d 1
  let d := { up.2 with fw := { up.2.fw with warm := false, saved := [] } }
  fset d Reg.MGMT_BOOT_CTL [] Fld.MGMT_BOOT_CTL_boot_ms (min 0xFFFF ((d.tb - d.fw.startAt) / 1000000 + up.1))

/-- HOLD: the start goes on to READY once hold is 0. -/
def holdStep (d : Dev) : Dev := if fbit d Reg.MGMT_BOOT_CTL [] Fld.MGMT_BOOT_CTL_hold then d else readyStep d

/-- Steps 2 to 5: the waves, one after another, then discovery complete. -/
def discoverStep (e : Env) (d : Dev) (t : StartTests) : Dev :=
  if waveSettled d 1 = false then d
  else if (waveEnds 1).all (fun x => feiState d x == 7) then startFails e d
  else if waveStarted d 2 = false then startWave d 2
  else if waveSettled d 2 = false then d
  else if waveStarted d 3 = false then startWave d 3
  else if waveSettled d 3 = false then d
  else if (List.range 6).all (fun m => !(baseFound d m)) then startFails e d
  else setStage (hbmStep e (pairAll (siteStep e d t)) t) 8

/-- The bring-up of every enabled light engine has ended (step 10). -/
def opticsSettled (d : Dev) : Bool := (List.range 16).all (fun k => leState d k != 1)

/-- MAIN_PHASE_START (R504): at t0, with the 48 V input in range and RESET_N high, the main phase begins; each further one carries the
start on over the wait where it stands: for a wave to train, for discovery to end, for the light engines, for the hold. -/
def execMainPhaseStart (t : StartTests) (s : State) : Host.Outcome State Fault Refusal :=
  s.run (fun e d =>
    if !(d.fw.running) ∨ !(d.fw.vin) ∨ pairHalted d ∨ fbit d Reg.THM_TRIP [] Fld.THM_TRIP_tripped then d
    else if d.fw.mainOn = false then (if stage d = 2 then powerStep e d t else d)
    else match stage d with
      | 4 => discoverStep e d t
      | 8 => if opticsSettled d then holdStep (setStage (applyStage e d 8) 9) else d
      | 9 => holdStep d
      | _ => d)

/-- HOLD_CLEAR (R504): hold is cleared, and a start that waits at HOLD reaches READY. A port does not write the register (R517). -/
def execHoldClear (p : Path) (s : State) : Host.Outcome State Fault Refusal :=
  s.run (fun _ d =>
    if (pathPort p).isSome then regEvent d p Reg.MGMT_BOOT_CTL.base
    else
      let d := fset d Reg.MGMT_BOOT_CTL [] Fld.MGMT_BOOT_CTL_hold 0
      if stage d = 9 ∧ d.fw.running ∧ pairHalted d = false then readyStep d else d)

/-! ### The controller pair (R509-R512) -/

/-- The active instance. -/
def activeMc (d : Dev) : Nat := fget d Reg.MGMT_FW_STAT [] Fld.MGMT_FW_STAT_active

/-- The pair's state: 0 LOCKSTEP, 1 RESYNC, 2 SIMPLEX. -/
def setPair (d : Dev) (n : Nat) : Dev := fset d Reg.MGMT_FW_STAT [] Fld.MGMT_FW_STAT_pair n

/-- An instance is held out (R512). -/
def holdOut (d : Dev) : Dev := report (setPair d 2) { source := 0x2D, unit := 0, stat := Reg.MGMT_PAIR.slot [] }

/-- CONTROLLER_FAULT (R509, R510, R512): an instance's own checker reports it, or its watchdog; a mismatch without a report is taken as the
active instance's. -/
def execControllerFault (checker : Option (Fin 2)) (watchdog : Bool) (s : State) : Host.Outcome State Fault Refusal :=
  s.run (fun _ d =>
    let act := activeMc d
    let i := match checker with | some i => i.val | none => act
    let cause := match checker with | some _ => if watchdog then 3 else 1 | none => 2
    if d.fw.faulty = some i then d
    else
      let d := fset d Reg.MGMT_PAIR [] Fld.MGMT_PAIR_last_cause cause
      if d.fw.faulty.isSome then report d { source := 0x41, unit := 0, stat := Reg.MGMT_PAIR.slot [] }
      else
        let again := match d.fw.backAt with | some t => i == 0 && decide (d.tb < t + 1000000000) | none => false
        let d := { d with fw := { d.fw with faulty := some i } }
        let d := if i = act then
            let d := fset d Reg.MGMT_FW_STAT [] Fld.MGMT_FW_STAT_active (1 - act)
            report (fincSat d Reg.MGMT_PAIR [] Fld.MGMT_PAIR_failovers 1) { source := 0x1B, unit := 0, stat := Reg.MGMT_PAIR.slot [] }
          else d
        if again then holdOut d else setPair d 1)

/-- CONTROLLER_HANDBACK (R511, Table 15.7 steps 3 and 4): the repaired instance runs in step again; MC0 takes control back at a quiet
instant. -/
def execControllerHandback (s : State) : Host.Outcome State Fault Refusal :=
  s.run (fun _ d =>
    match d.fw.faulty with
    | none => d
    | some i =>
      if fget d Reg.MGMT_FW_STAT [] Fld.MGMT_FW_STAT_pair ≠ 1 then d
      else
        let d := setPair { d with fw := { d.fw with faulty := none } } 0
        if i = 0 then
          let d := fset { d with fw := { d.fw with backAt := some d.tb } } Reg.MGMT_FW_STAT [] Fld.MGMT_FW_STAT_active 0
          fincSat d Reg.MGMT_PAIR [] Fld.MGMT_PAIR_handbacks 1
        else d)

/-- CONTROLLER_SIMPLEX (R512): the instance under repair fails its test. -/
def execControllerSimplex (s : State) : Host.Outcome State Fault Refusal :=
  s.run (fun _ d => if d.fw.faulty.isSome ∧ fget d Reg.MGMT_FW_STAT [] Fld.MGMT_FW_STAT_pair = 1 then holdOut d else d)

/-! ### Commands of the mailboxes, PLDM and the console (R513-R516) -/

/-- MFW serves commands while it runs and is not halted (R515, R559). -/
def mfwServes (d : Dev) : Bool := d.fw.running && !(pairHalted d)

/-- The bytes of a mailbox's data area. -/
def mbxData (d : Dev) (i : Nat) : List Byte := (List.range 64).flatMap (fun w => leBytes 4 (rdReg d Reg.MGMT_MBX_DATA [i, w]).toNat)

/-- The request of a command on a path: a mailbox's waiting command with that code, or what PLDM or the console sent. -/
def request (d : Dev) (path code : Nat) (data : List Byte) : Option (List Byte) :=
  if mfwServes d = false then none
  else if path < 5 then
    if d.fw.mbx.contains path ∧ fget d Reg.MGMT_MBX_CTL [path] Fld.MGMT_MBX_CTL_code = code then
      some ((mbxData d path).take (fget d Reg.MGMT_MBX_CTL [path] Fld.MGMT_MBX_CTL_length))
    else none
  else some data

/-- Complete a command: status, response, done (R515). -/
def respond (d : Dev) (path status : Nat) (resp : List Byte) : Dev :=
  let d := emit d (.mailbox path status resp)
  if 5 ≤ path then d
  else
    let d := { d with fw := { d.fw with mbx := d.fw.mbx.filter (· != path) } }
    let b := padTo (ceilDiv resp.length 4 * 4) resp
    let d := (List.range (b.length / 4)).foldl (fun d w => wrReg d Reg.MGMT_MBX_DATA [path, w] (low32 (leNat (slice b (4 * w) 4)))) d
    let r := Reg.MGMT_MBX_CTL
    fset (fset (fset d r [path] Fld.MGMT_MBX_CTL_length resp.length) r [path] Fld.MGMT_MBX_CTL_status status) r [path] Fld.MGMT_MBX_CTL_done 1

/-- An update command on a path runs, or completes with DENIED (R515). -/
def updCommand (d : Dev) (path code : Nat) (data : List Byte) (f : List Byte → Dev → Nat × Dev) : Dev :=
  match request d path code data with
  | none => d
  | some req =>
    if path < 4 ∧ tbit (fget d Reg.MGMT_CFG [] Fld.MGMT_CFG_host_upd) path = false then respond d path 2 []
    else let r := f req d; respond r.2 path r.1 []

/-- Open or close the session. -/
def setSession (d : Dev) (s : Option Session) : Dev :=
  let d := { d with fw := { d.fw with session := s } }
  let d := fset d Reg.MGMT_UPD_STAT [] Fld.MGMT_UPD_STAT_open (bit s.isSome)
  match s with | some x => fset d Reg.MGMT_UPD_STAT [] Fld.MGMT_UPD_STAT_path x.path | none => d

/-- The slot of a kind that runs, or is loaded. -/
def runningSlot (d : Dev) (kind : Nat) : Nat :=
  if kind = 1 then fget d Reg.MGMT_FW_STAT [] Fld.MGMT_FW_STAT_mfw_slot else fget d Reg.MGMT_FW_STAT [] Fld.MGMT_FW_STAT_lfw_slot

/-- Close the session as by UPD_ABORT: its slot is programmed NOT VALID (R513). -/
def abortSession (d : Dev) : Dev :=
  match d.fw.session with
  | some x => setSession (setSlotState d x.kind x.slot 0) none
  | none => d

/-- The session of a path: STATE without one, BUSY where it is another path's. -/
def onSession (d : Dev) (path : Nat) (f : Session → Nat × Dev) : Nat × Dev :=
  match d.fw.session with
  | none => (5, d)
  | some x => if x.path = path then f x else (1, d)

/-- UPD_BEGIN (R513): kind, length. -/
def execUpdBegin (path : Fin 7) (data : List Byte) (s : State) : Host.Outcome State Fault Refusal :=
  s.run (fun _ d => updCommand d path.val 0x10 data (fun req d =>
    let kind := leNat (req.take 1)
    let len := leNat (slice req 1 4)
    if d.fw.session.any (fun x => x.path != path.val) then (1, d)
    else if req.length ≠ 5 ∨ (kind ≠ 1 ∧ kind ≠ 2) ∨ slotSize kind < len then (4, d)
    else
      let slot := 1 - runningSlot d kind
      (0, setSession (flashErase d (slotOff kind slot) (slotSize kind)) (some { path := path.val, kind := kind, slot := slot, len := len }))))

/-- UPD_DATA (R513): offset, count, data; the header's state word stays erased. -/
def execUpdData (path : Fin 7) (data : List Byte) (s : State) : Host.Outcome State Fault Refusal :=
  s.run (fun _ d => updCommand d path.val 0x11 data (fun req d => onSession d path.val (fun x =>
    let off := leNat (req.take 4)
    let n := leNat (slice req 4 2)
    if req.length ≠ 6 + n ∨ 248 < n ∨ slotSize x.kind < off + n then (4, d)
    else
      let bs := ((List.range n).zip (req.drop 6)).map (fun b => if 20 ≤ off + b.1 ∧ off + b.1 < 24 then 0xFF else b.2)
      (0, flashProgram d (slotOff x.kind x.slot + off) bs))))

/-- UPD_END (R513): `good` tells that the digest matches and the signature verifies. -/
def execUpdEnd (path : Fin 7) (good : Bool) (s : State) : Host.Outcome State Fault Refusal :=
  s.run (fun _ d => updCommand d path.val 0x12 [] (fun _ d => onSession d path.val (fun x =>
    let newer := decide (hdrSeq d x.kind (runningSlot d x.kind) < hdrSeq d x.kind x.slot) || (x.kind == 2 && d.fw.lfw.isNone)
    if headerOk d x.kind x.slot && good && newer then (0, setSession d none) else (3, abortSession d))))

/-- UPD_ACTIVATE (R514): kind; for LFW a light engine, or 0xFF for the next start. `good` as for UPD_END. -/
def execUpdActivate (path : Fin 7) (data : List Byte) (good : Bool) (s : State) : Host.Outcome State Fault Refusal :=
  s.run (fun _ d => updCommand d path.val 0x13 data (fun req d =>
    let kind := leNat (req.take 1)
    let k := leNat (slice req 1 1)
    let slot := 1 - runningSlot d kind
    if !((kind == 1 && decide (1 ≤ req.length)) || (kind == 2 && req.length == 2 && (decide (k < 16) || k == 255))) then (4, d)
    else if !(headerOk d kind slot && good && hdrState d kind slot == statePending) then (5, d)
    else if kind = 1 ∨ k = 255 ∨ d.fw.mainOn = false then (0, d)
    else
      let d := leCtlWrite d k (Fld.LE_CTL_enable.put (rdReg d Reg.LE_CTL [k]) 0)
      (0, pairEngine (some (hdrVersion d 2 slot, hdrIf d 2 slot)) d k)))

/-- UPD_ABORT (R513). -/
def execUpdAbort (path : Fin 7) (s : State) : Host.Outcome State Fault Refusal :=
  s.run (fun _ d => updCommand d path.val 0x14 [] (fun _ d => onSession d path.val (fun _ => (0, abortSession d))))

/-- UPD_SESSION_TIMEOUT (R513): the session has seen no command for 60 s. -/
def execUpdSessionTimeout (s : State) : Host.Outcome State Fault Refusal := s.run (fun _ d => abortSession d)

/-- What GET_VERSIONS tells (Table 15.8): of MFW, then LFW: the running and the pending version, then if_level and seq of both slots; last
lfw_if. The order and widths are the model's (log entry 92). -/
def versions (d : Dev) : List Byte :=
  let of (kind running : Nat) : List Byte :=
    let slot := 1 - runningSlot d kind
    let pend := if headerOk d kind slot && hdrState d kind slot == statePending then hdrVersion d kind slot else 0
    leBytes 4 running ++ leBytes 4 pend ++
      [0, 1].flatMap (fun s => leBytes 2 (hdrIf d kind s) ++ leBytes 4 (hdrSeq d kind s))
  of 1 (fget d Reg.MGMT_MFW_VER [] Fld.MGMT_MFW_VER_version) ++ of 2 (fget d Reg.MGMT_LFW_VER [] Fld.MGMT_LFW_VER_version) ++
    leBytes 2 (fget d Reg.MGMT_MFW_IF [] Fld.MGMT_MFW_IF_lfw_if)

/-- GET_VERSIONS (R515). -/
def execGetVersions (path : Fin 7) (s : State) : Host.Outcome State Fault Refusal :=
  s.run (fun _ d => match request d path.val 0x01 [] with
    | some _ => respond d path.val 0 (versions d)
    | none => d)

/-- Records of the event store from an index, at most `n`, up to the first place that holds none. -/
def storeFrom (d : Dev) : Nat → Nat → List Byte
  | 0, _ => []
  | n + 1, i => match Sparse.find d.store i with
    | some r => if i < storeLen then padTo 16 r ++ storeFrom d n (i + 1) else []
    | none => []

/-- READ_EVENTS (R533): the index of the first record. -/
def execReadEvents (path : Fin 7) (data : List Byte) (s : State) : Host.Outcome State Fault Refusal :=
  s.run (fun _ d => match request d path.val 0x20 data with
    | some req =>
      if req.length ≠ 4 ∨ storeLen ≤ leNat req then respond d path.val 4 []
      else respond d path.val 0 (storeFrom d 15 (leNat req))
    | none => d)

/-- CONSOLE_STAT (R516): MGMT_FW_STAT, which holds stage and pair state, and HUB_COPPICE_STAT. -/
def execConsoleStat (s : State) : Host.Outcome State Fault Refusal :=
  s.run (fun _ d => if consoleUp d then emit d (.console (wordBytes [rdReg d Reg.MGMT_FW_STAT [], rdReg d Reg.HUB_COPPICE_STAT []])) else d)

/-- CONSOLE_VER (R516). -/
def execConsoleVer (s : State) : Host.Outcome State Fault Refusal :=
  s.run (fun _ d => if consoleUp d then emit d (.console (versions d)) else d)

/-- The place of the record written i + 1 records ago. -/
def storeBack (d : Dev) (i : Nat) : Nat := (fget d Reg.FLT_STORE [] Fld.FLT_STORE_next + storeLen - 1 - i % storeLen) % storeLen

/-- CONSOLE_LOG (R516): the last n records, latest first. -/
def execConsoleLog (n : BitVec 16) (s : State) : Host.Outcome State Fault Refusal :=
  s.run (fun _ d =>
    if consoleUp d then emit d (.console ((List.range (min n.toNat storeLen)).flatMap (fun i => match Sparse.find d.store (storeBack d i) with
      | some r => padTo 16 r
      | none => [])))
    else d)

/-- CONSOLE_HOLD (R504, R516): hold on sets MGMT_BOOT_CTL.hold, hold off clears it, and a start that waits at HOLD goes on. -/
def execConsoleHold (on : Bool) (s : State) : Host.Outcome State Fault Refusal :=
  s.run (fun _ d =>
    if consoleWrites d = false then d
    else
      let d := fset d Reg.MGMT_BOOT_CTL [] Fld.MGMT_BOOT_CTL_hold (bit on)
      if stage d = 9 ∧ !on then readyStep d else d)

/-- The ageing offsets of every laser (R300). -/
def laserAges (d : Dev) : Sparse.Map Nat :=
  (List.range 16).foldl (fun m k => allLasers.foldl (fun m x =>
    Sparse.set 0 m (64 * k + 23 * x.1 + x.2) (fget d Reg.LE_LASER [k, x.1, x.2] Fld.LE_LASER_age)) m) []

/-- EVENT_STORE_MIRROR_WRITE (R300, R498): once an hour and at an orderly shutdown, the ageing offsets go to the event store, and the store
to its mirror in flash. -/
def execEventStoreMirrorWrite (s : State) : Host.Outcome State Fault Refusal :=
  s.run (fun _ d =>
    if mfwServes d = false then d
    else
      let ages := if d.fw.mainOn then laserAges d else d.fw.ages
      let m : Mirror := { records := d.store, place := rdReg d Reg.FLT_STORE [], standing := d.coppice.standing, ages := ages }
      { d with fw := { d.fw with ages := ages, mirror := some m } })

end Sys2Proof.Machine
end

