-- ==== Sys2Proof/Machine/Dispatch.lean ====
section
/-!
DEFINITION. One arm for each command: the one call of its meaning.
-/
namespace Sys2Proof.Machine

def exec (i : Instr) (s : State) : Host.Outcome State Fault Refusal :=
  match i with
  | .regWrite p addr size data ext => Sys2Proof.Machine.execRegWrite p addr size data ext s
  | .rcRead p addr size during => Sys2Proof.Machine.execRcRead p addr size during s
  | .quietRead p addr size => Sys2Proof.Machine.execQuietRead p addr size s
  | .dbgQdataRead p => Sys2Proof.Machine.execDbgQdataRead p s
  | .thmTbLoRead p => Sys2Proof.Machine.execThmTbLoRead p s
  | .tstBitsLoRead p addr => Sys2Proof.Machine.execTstBitsLoRead p addr s
  | .coreFail site => Sys2Proof.Machine.execCoreFail site s
  | .spareActivationDone site => Sys2Proof.Machine.execSpareActivationDone site s
  | .spareActivationFail site => Sys2Proof.Machine.execSpareActivationFail site s
  | .mxeDescriptorEntry site job => Sys2Proof.Machine.execMxeDescriptorEntry site job s
  | .mxeDescriptorStart site => Sys2Proof.Machine.execMxeDescriptorStart site s
  | .mxeRecordReadReturn site resp => Sys2Proof.Machine.execMxeRecordReadReturn site resp s
  | .mxeShadowLoadDone site => Sys2Proof.Machine.execMxeShadowLoadDone site s
  | .mxeSwapToken site => Sys2Proof.Machine.execMxeSwapToken site s
  | .mxeRowIssue site => Sys2Proof.Machine.execMxeRowIssue site s
  | .mxeEntryLands site corrected => Sys2Proof.Machine.execMxeEntryLands site corrected s
  | .mxeRoundEnd site => Sys2Proof.Machine.execMxeRoundEnd site s
  | .mxeRowDrain site => Sys2Proof.Machine.execMxeRowDrain site s
  | .mxeFinalReport site resp => Sys2Proof.Machine.execMxeFinalReport site resp s
  | .mxeAbort site stream seq => Sys2Proof.Machine.execMxeAbort site stream seq s
  | .mxeAccUe site staged => Sys2Proof.Machine.execMxeAccUe site staged s
  | .mxeWregParity site => Sys2Proof.Machine.execMxeWregParity site s
  | .mxeBankRefused site bank => Sys2Proof.Machine.execMxeBankRefused site bank s
  | .mxeMemUe site found localAddr => Sys2Proof.Machine.execMxeMemUe site found localAddr s
  | .mxeRateUpdate site issued measured replica => Sys2Proof.Machine.execMxeRateUpdate site issued measured replica s
  | .mxeCfgWrite p site data => Sys2Proof.Machine.execMxeCfgWrite p site data s
  | .engineDescriptorEntry site unit job => Sys2Proof.Machine.execEngineDescriptorEntry site unit job s
  | .vxeExpression site x resp => Sys2Proof.Machine.execVxeExpression site x resp s
  | .vxeFinalReport site x resp => Sys2Proof.Machine.execVxeFinalReport site x resp s
  | .followUpstreamFail site unit => Sys2Proof.Machine.execFollowUpstreamFail site unit s
  | .followRowReady site unit => Sys2Proof.Machine.execFollowRowReady site unit s
  | .sfeElementwise site => Sys2Proof.Machine.execSfeElementwise site s
  | .smxStats site => Sys2Proof.Machine.execSmxStats site s
  | .smxApply site => Sys2Proof.Machine.execSmxApply site s
  | .topk site => Sys2Proof.Machine.execTopk site s
  | .topMove site => Sys2Proof.Machine.execTopMove site s
  | .imageA site => Sys2Proof.Machine.execImageA site s
  | .imageB site => Sys2Proof.Machine.execImageB site s
  | .imageBs site => Sys2Proof.Machine.execImageBs site s
  | .gather site ext => Sys2Proof.Machine.execGather site ext s
  | .scatter site ext => Sys2Proof.Machine.execScatter site ext s
  | .gdeForward site => Sys2Proof.Machine.execGdeForward site s
  | .gdeReturn site => Sys2Proof.Machine.execGdeReturn site s
  | .parcelReceive site => Sys2Proof.Machine.execParcelReceive site s
  | .rxwinWrite p site win reg data => Sys2Proof.Machine.execRxwinWrite p site win reg data s
  | .compress site => Sys2Proof.Machine.execCompress site s
  | .decompress site => Sys2Proof.Machine.execDecompress site s
  | .repack site => Sys2Proof.Machine.execRepack site s
  | .rngFill site => Sys2Proof.Machine.execRngFill site s
  | .dmeCopy site dme ext found => Sys2Proof.Machine.execDmeCopy site dme ext found s
  | .dmeFill site dme => Sys2Proof.Machine.execDmeFill site dme s
  | .cmemMapWrite p site data => Sys2Proof.Machine.execCmemMapWrite p site data s
  | .coreWindowAccess src core off op found coll => Sys2Proof.Machine.execCoreWindowAccess src core off op found coll s
  | .aliasWrite src core off data enables found => Sys2Proof.Machine.execAliasWrite src core off data enables found s
  | .partialWordWrite src core off data enables found => Sys2Proof.Machine.execPartialWordWrite src core off data enables found s
  | .bankModeWrite p site bank data => Sys2Proof.Machine.execBankModeWrite p site bank data s
  | .bankAutoIdle site bank => Sys2Proof.Machine.execBankAutoIdle site bank s
  | .bankTransitionDone site bank => Sys2Proof.Machine.execBankTransitionDone site bank s
  | .cmemScrubAccess site bank row found => Sys2Proof.Machine.execCmemScrubAccess site bank row found s
  | .cmemMarchCtlGo p site data => Sys2Proof.Machine.execCmemMarchCtlGo p site data s
  | .marchDone site pass element row failWords poisoned => Sys2Proof.Machine.execMarchDone site pass element row failWords poisoned s
  | .streamEnable p data => Sys2Proof.Machine.execStreamEnable p data s
  | .streamDisable p data ext => Sys2Proof.Machine.execStreamDisable p data ext s
  | .streamCfgWrite p off data => Sys2Proof.Machine.execStreamCfgWrite p off data s
  | .sqTail p stream data => Sys2Proof.Machine.execSqTail p stream data s
  | .cqHead p stream data => Sys2Proof.Machine.execCqHead p stream data s
  | .strmAbort p stream data => Sys2Proof.Machine.execStrmAbort p stream data s
  | .abortDecided stream ext => Sys2Proof.Machine.execAbortDecided stream ext s
  | .strmRestart p stream data => Sys2Proof.Machine.execStrmRestart p stream data s
  | .doorbellBadAccess p off size write => Sys2Proof.Machine.execDoorbellBadAccess p off size write s
  | .descriptorFetch stream ext => Sys2Proof.Machine.execDescriptorFetch stream ext s
  | .fetchErr stream err => Sys2Proof.Machine.execFetchErr stream err s
  | .descriptorDispatch stream => Sys2Proof.Machine.execDescriptorDispatch stream s
  | .descriptorDone stream => Sys2Proof.Machine.execDescriptorDone stream s
  | .completionRecordWrite stream resp => Sys2Proof.Machine.execCompletionRecordWrite stream resp s
  | .recordWriteError stream err => Sys2Proof.Machine.execRecordWriteError stream err s
  | .streamStop stream => Sys2Proof.Machine.execStreamStop stream s
  | .streamTimeout stream seq => Sys2Proof.Machine.execStreamTimeout stream seq s
  | .counterAdd p c v => Sys2Proof.Machine.execCounterAdd p c v s
  | .counterMax p c v => Sys2Proof.Machine.execCounterMax p c v s
  | .counterSet p c v => Sys2Proof.Machine.execCounterSet p c v s
  | .counterReset p c => Sys2Proof.Machine.execCounterReset p c s
  | .syncWindowBadAccess p off size write => Sys2Proof.Machine.execSyncWindowBadAccess p off size write s
  | .waiterSatisfied stream => Sys2Proof.Machine.execWaiterSatisfied stream s
  | .lockGranted ctr => Sys2Proof.Machine.execLockGranted ctr s
  | .syncDesc stream => Sys2Proof.Machine.execSyncDesc stream s
  | .wadv stream => Sys2Proof.Machine.execWadv stream s
  | .streamRefetch stream => Sys2Proof.Machine.execStreamRefetch stream s
  | .streamsLost core => Sys2Proof.Machine.execStreamsLost core s
  | .hbmRangeLock p data => Sys2Proof.Machine.execHbmRangeLock p data s
  | .rds src addr => Sys2Proof.Machine.execRds src addr s
  | .rdx src addr => Sys2Proof.Machine.execRdx src addr s
  | .upg src addr => Sys2Proof.Machine.execUpg src addr s
  | .rdcur src addr => Sys2Proof.Machine.execRdcur src addr s
  | .wrline src addr data => Sys2Proof.Machine.execWrline src addr data s
  | .wrpart src addr data enables => Sys2Proof.Machine.execWrpart src addr data enables s
  | .snpcur agent addr now data evbuf => Sys2Proof.Machine.execSnpcur agent addr now data evbuf s
  | .snps agent addr now data evbuf => Sys2Proof.Machine.execSnps agent addr now data evbuf s
  | .snpi agent addr now data evbuf => Sys2Proof.Machine.execSnpi agent addr now data evbuf s
  | .snoopAnswer agent addr => Sys2Proof.Machine.execSnoopAnswer agent addr s
  | .snoopEvicting agent addr => Sys2Proof.Machine.execSnoopEvicting agent addr s
  | .wbm agent addr data => Sys2Proof.Machine.execWbm agent addr data s
  | .cmpack agent addr => Sys2Proof.Machine.execCmpack agent addr s
  | .dataGrant agent addr => Sys2Proof.Machine.execDataGrant agent addr s
  | .wback agent addr => Sys2Proof.Machine.execWback agent addr s
  | .agentLost agent => Sys2Proof.Machine.execAgentLost agent s
  | .snoopTimeout agent addr => Sys2Proof.Machine.execSnoopTimeout agent addr s
  | .requestTimeout src addr => Sys2Proof.Machine.execRequestTimeout src addr s
  | .recReport src addr top flags => Sys2Proof.Machine.execRecReport src addr top flags s
  | .recAdvance src addr => Sys2Proof.Machine.execRecAdvance src addr s
  | .fadd32 src addr values enables => Sys2Proof.Machine.execFadd32 src addr values enables s
  | .xadd src addr value => Sys2Proof.Machine.execXadd src addr value s
  | .fetchAdd src addr wide value => Sys2Proof.Machine.execFetchAdd src addr wide value s
  | .atomSwap src addr wide value => Sys2Proof.Machine.execAtomSwap src addr wide value s
  | .atomCas src addr width expect value => Sys2Proof.Machine.execAtomCas src addr width expect value s
  | .hbmLineDecode stack line seen => Sys2Proof.Machine.execHbmLineDecode stack line seen s
  | .hbmRefresh stack => Sys2Proof.Machine.execHbmRefresh stack s
  | .hbmScrub stack line seen => Sys2Proof.Machine.execHbmScrub stack line seen s
  | .cacheSliceFence die lost tags => Sys2Proof.Machine.execCacheSliceFence die lost tags s
  | .feinoTrainAck e here far => Sys2Proof.Machine.execFeinoTrainAck e here far s
  | .feinoTrainTimer e here far => Sys2Proof.Machine.execFeinoTrainTimer e here far s
  | .feinoRetrain e soft => Sys2Proof.Machine.execFeinoRetrain e soft s
  | .feinoLaneLoss e lane => Sys2Proof.Machine.execFeinoLaneLoss e lane s
  | .alnReceived e words => Sys2Proof.Machine.execAlnReceived e words s
  | .feinoFlitReceive e flit => Sys2Proof.Machine.execFeinoFlitReceive e flit s
  | .feinoNak e => Sys2Proof.Machine.execFeinoNak e s
  | .feinoReplayTimer e => Sys2Proof.Machine.execFeinoReplayTimer e s
  | .rawFrameReceive e frame => Sys2Proof.Machine.execRawFrameReceive e frame s
  | .rawChannelBroken e => Sys2Proof.Machine.execRawChannelBroken e s
  | .creditInit e => Sys2Proof.Machine.execCreditInit e s
  | .rawInit e => Sys2Proof.Machine.execRawInit e s
  | .discover place record => Sys2Proof.Machine.execDiscover place record s
  | .mapAck place => Sys2Proof.Machine.execMapAck place s
  | .fenceInfo e => Sys2Proof.Machine.execFenceInfo e s
  | .fenceInfoTimeout e => Sys2Proof.Machine.execFenceInfoTimeout e s
  | .retrainReq e => Sys2Proof.Machine.execRetrainReq e s
  | .prvRelease p g => Sys2Proof.Machine.execPrvRelease p g s
  | .profileAnswer g offer => Sys2Proof.Machine.execProfileAnswer g offer s
  | .profileAck g echo => Sys2Proof.Machine.execProfileAck g echo s
  | .negotiationTimeout g => Sys2Proof.Machine.execNegotiationTimeout g s
  | .guestMessage g => Sys2Proof.Machine.execGuestMessage g s
  | .guestKill g reason => Sys2Proof.Machine.execGuestKill g reason s
  | .prvCommit p g => Sys2Proof.Machine.execPrvCommit p g s
  | .prvCommitDrained g => Sys2Proof.Machine.execPrvCommitDrained g s
  | .prvTokenRefill g => Sys2Proof.Machine.execPrvTokenRefill g s
  | .laserMonitor k b n lm expected biasBad => Sys2Proof.Machine.execLaserMonitor k b n lm expected biasBad s
  | .laserFail k b n => Sys2Proof.Machine.execLaserFail k b n s
  | .spareLaserOnFrequency k b n => Sys2Proof.Machine.execSpareLaserOnFrequency k b n s
  | .biasBandChange k => Sys2Proof.Machine.execBiasBandChange k s
  | .ageingDecision k farLocal => Sys2Proof.Machine.execAgeingDecision k farLocal s
  | .marginRpt g => Sys2Proof.Machine.execMarginRpt g s
  | .monitorScan k sm mm cm => Sys2Proof.Machine.execMonitorScan k sm mm cm s
  | .lossLocate k => Sys2Proof.Machine.execLossLocate k s
  | .heaterTargetChange k h code => Sys2Proof.Machine.execHeaterTargetChange k h code s
  | .leXtCommit p k => Sys2Proof.Machine.execLeXtCommit p k s
  | .gapCmdGo p k data => Sys2Proof.Machine.execGapCmdGo p k data s
  | .gapCmdCancel p k => Sys2Proof.Machine.execGapCmdCancel p k s
  | .gapExecute k => Sys2Proof.Machine.execGapExecute k s
  | .gapExecuteDone k need => Sys2Proof.Machine.execGapExecuteDone k need s
  | .connectorOpen k => Sys2Proof.Machine.execConnectorOpen k s
  | .connectorClosed k => Sys2Proof.Machine.execConnectorClosed k s
  | .lightEngineDark k => Sys2Proof.Machine.execLightEngineDark k s
  | .lightEngineStart k lit fits => Sys2Proof.Machine.execLightEngineStart k lit fits s
  | .farLightSeen g fits amps locked => Sys2Proof.Machine.execFarLightSeen g fits amps locked s
  | .modBiasUpdate k h rho => Sys2Proof.Machine.execModBiasUpdate k h rho s
  | .rxRingUpdate k h plus minus centred dm => Sys2Proof.Machine.execRxRingUpdate k h plus minus centred dm s
  | .thresholdUpdate k h mean => Sys2Proof.Machine.execThresholdUpdate k h mean s
  | .ringLockLoss k h linkSays => Sys2Proof.Machine.execRingLockLoss k h linkSays s
  | .holdWindowExceeded k h => Sys2Proof.Machine.execHoldWindowExceeded k h s
  | .calStart g => Sys2Proof.Machine.execCalStart g s
  | .calGo g t => Sys2Proof.Machine.execCalGo g t s
  | .calTxdone g => Sys2Proof.Machine.execCalTxdone g s
  | .calAbort g => Sys2Proof.Machine.execCalAbort g s
  | .calReq g => Sys2Proof.Machine.execCalReq g s
  | .calXing g => Sys2Proof.Machine.execCalXing g s
  | .calSenderTimeout g => Sys2Proof.Machine.execCalSenderTimeout g s
  | .calRxDone g t => Sys2Proof.Machine.execCalRxDone g t s
  | .calAbandon g => Sys2Proof.Machine.execCalAbandon g s
  | .calRunTrigger k => Sys2Proof.Machine.execCalRunTrigger k s
  | .calRunPeriod k => Sys2Proof.Machine.execCalRunPeriod k s
  | .leCalCmdRun p k => Sys2Proof.Machine.execLeCalCmdRun p k s
  | .leCalCmdLane p k data => Sys2Proof.Machine.execLeCalCmdLane p k data s
  | .retune k h t => Sys2Proof.Machine.execRetune k h t s
  | .spareRingTransit k h => Sys2Proof.Machine.execSpareRingTransit k h s
  | .transitCrossingDone k h locked t => Sys2Proof.Machine.execTransitCrossingDone k h locked t s
  | .monTrig p k data => Sys2Proof.Machine.execMonTrig p k data s
  | .monConversionDone k power gain => Sys2Proof.Machine.execMonConversionDone k power gain s
  | .monSync p k => Sys2Proof.Machine.execMonSync p k s
  | .codeBlockReceive g n lanes => Sys2Proof.Machine.execCodeBlockReceive g n lanes s
  | .oqFlitAccept g => Sys2Proof.Machine.execOqFlitAccept g s
  | .oqNak g => Sys2Proof.Machine.execOqNak g s
  | .oqReplayTimer g => Sys2Proof.Machine.execOqReplayTimer g s
  | .laneErase g lane cause => Sys2Proof.Machine.execLaneErase g lane cause s
  | .laneReadmit g lane => Sys2Proof.Machine.execLaneReadmit g lane s
  | .blockLockTimeout g lane => Sys2Proof.Machine.execBlockLockTimeout g lane s
  | .lossOfLight g => Sys2Proof.Machine.execLossOfLight g s
  | .losEnd g rings => Sys2Proof.Machine.execLosEnd g rings s
  | .slipQueue g kind value => Sys2Proof.Machine.execSlipQueue g kind value s
  | .creditCheck g => Sys2Proof.Machine.execCreditCheck g s
  | .creditAuditPeriod g => Sys2Proof.Machine.execCreditAuditPeriod g s
  | .lqRetrain g => Sys2Proof.Machine.execLqRetrain g s
  | .oqRetrainReq g => Sys2Proof.Machine.execOqRetrainReq g s
  | .trainingBlockAlign g lanes => Sys2Proof.Machine.execTrainingBlockAlign g lanes s
  | .trainingTimer g => Sys2Proof.Machine.execTrainingTimer g s
  | .trainParam g => Sys2Proof.Machine.execTrainParam g s
  | .echoReq g => Sys2Proof.Machine.execEchoReq g s
  | .echoRsp g => Sys2Proof.Machine.execEchoRsp g s
  | .roleSwapPropose p g => Sys2Proof.Machine.execRoleSwapPropose p g s
  | .roleSwap g => Sys2Proof.Machine.execRoleSwap g s
  | .roleAck g => Sys2Proof.Machine.execRoleAck g s
  | .linkDownTimer g => Sys2Proof.Machine.execLinkDownTimer g s
  | .downFlit g => Sys2Proof.Machine.execDownFlit g s
  | .graceExpiry g => Sys2Proof.Machine.execGraceExpiry g s
  | .lqPathGo p g data => Sys2Proof.Machine.execLqPathGo p g data s
  | .pathModeApply g => Sys2Proof.Machine.execPathModeApply g s
  | .pathFlitReceive g => Sys2Proof.Machine.execPathFlitReceive g s
  | .helloMsg g => Sys2Proof.Machine.execHelloMsg g s
  | .helloPeriod g => Sys2Proof.Machine.execHelloPeriod g s
  | .cellArrive g vc => Sys2Proof.Machine.execCellArrive g vc s
  | .ctrAdd => Sys2Proof.Machine.execCtrAdd s
  | .ctrSet => Sys2Proof.Machine.execCtrSet s
  | .ctrMax => Sys2Proof.Machine.execCtrMax s
  | .addSlip g => Sys2Proof.Machine.execAddSlip g s
  | .ctrRsp => Sys2Proof.Machine.execCtrRsp s
  | .errCell => Sys2Proof.Machine.execErrCell s
  | .addRefuse g => Sys2Proof.Machine.execAddRefuse g s
  | .remoteTimeout tag => Sys2Proof.Machine.execRemoteTimeout tag s
  | .parcelCell => Sys2Proof.Machine.execParcelCell s
  | .parcelRsp => Sys2Proof.Machine.execParcelRsp s
  | .fabCtlStart p => Sys2Proof.Machine.execFabCtlStart p s
  | .fabCtlLeave p => Sys2Proof.Machine.execFabCtlLeave p s
  | .claimMsg g => Sys2Proof.Machine.execClaimMsg g s
  | .claimWindowClose => Sys2Proof.Machine.execClaimWindowClose s
  | .announceMsg g => Sys2Proof.Machine.execAnnounceMsg g s
  | .tbExchangePeriod => Sys2Proof.Machine.execTbExchangePeriod s
  | .tbReq g => Sys2Proof.Machine.execTbReq g s
  | .tbRsp g => Sys2Proof.Machine.execTbRsp g s
  | .parentLost => Sys2Proof.Machine.execParentLost s
  | .planArm p c word data => Sys2Proof.Machine.execPlanArm p c word data s
  | .planStart c resp ext => Sys2Proof.Machine.execPlanStart c resp ext s
  | .plOpen g => Sys2Proof.Machine.execPlOpen g s
  | .pleachFlit g ext => Sys2Proof.Machine.execPleachFlit g ext s
  | .planDone c => Sys2Proof.Machine.execPlanDone c s
  | .planFail c status => Sys2Proof.Machine.execPlanFail c status s
  | .plAbort g => Sys2Proof.Machine.execPlAbort g s
  | .planLimitExpiry c => Sys2Proof.Machine.execPlanLimitExpiry c s
  | .plBar g => Sys2Proof.Machine.execPlBar g s
  | .sleepIdle g => Sys2Proof.Machine.execSleepIdle g s
  | .slpPropose g => Sys2Proof.Machine.execSlpPropose g s
  | .slpAccept g => Sys2Proof.Machine.execSlpAccept g s
  | .slpCommit g => Sys2Proof.Machine.execSlpCommit g s
  | .slpCancel g => Sys2Proof.Machine.execSlpCancel g s
  | .slpWake g => Sys2Proof.Machine.execSlpWake g s
  | .sleepProposalLapse g => Sys2Proof.Machine.execSleepProposalLapse g s
  | .dormantTraffic g => Sys2Proof.Machine.execDormantTraffic g s
  | .portLinkDown p => Sys2Proof.Machine.execPortLinkDown p s
  | .functionLevelReset p => Sys2Proof.Machine.execFunctionLevelReset p s
  | .bar0Access p addr size write during ext => Sys2Proof.Machine.execBar0Access p addr size write during ext s
  | .bar2Doorbell p off size write => Sys2Proof.Machine.execBar2Doorbell p off size write s
  | .bar4Access p off op ext => Sys2Proof.Machine.execBar4Access p off op ext s
  | .msixUnmask p v => Sys2Proof.Machine.execMsixUnmask p v s
  | .cxlHostRequest p kind addr data enables dirty evicted => Sys2Proof.Machine.execCxlHostRequest p kind addr data enables dirty evicted s
  | .partitionEnable p q => Sys2Proof.Machine.execPartitionEnable p q s
  | .partitionRelease p q => Sys2Proof.Machine.execPartitionRelease p q s
  | .partitionReleaseDone q => Sys2Proof.Machine.execPartitionReleaseDone q s
  | .partCfgWrite p q word data => Sys2Proof.Machine.execPartCfgWrite p q word data s
  | .latWrite p q lat => Sys2Proof.Machine.execLatWrite p q lat s
  | .i3cAddressAssign addr => Sys2Proof.Machine.execI3cAddressAssign addr s
  | .rstdaa => Sys2Proof.Machine.execRstdaa s
  | .regRead addr count quiet => Sys2Proof.Machine.execRegRead addr count quiet s
  | .regWriteCmd addr count words ext => Sys2Proof.Machine.execRegWriteCmd addr count words ext s
  | .syncOp ctr op operand => Sys2Proof.Machine.execSyncOp ctr op operand s
  | .mgmtState => Sys2Proof.Machine.execMgmtState s
  | .uartCharacter ch stopLow => Sys2Proof.Machine.execUartCharacter ch stopLow s
  | .hkSlot value => Sys2Proof.Machine.execHkSlot value s
  | .hkRoundEnd => Sys2Proof.Machine.execHkRoundEnd s
  | .hkTrig p slot => Sys2Proof.Machine.execHkTrig p slot s
  | .hkSync p => Sys2Proof.Machine.execHkSync p s
  | .powerManagerPeriod m => Sys2Proof.Machine.execPowerManagerPeriod m s
  | .inputCurrentOverrun amps => Sys2Proof.Machine.execInputCurrentOverrun amps s
  | .throttleStep fall => Sys2Proof.Machine.execThrottleStep fall s
  | .hardThrottle u => Sys2Proof.Machine.execHardThrottle u s
  | .hardThrottleEnd u => Sys2Proof.Machine.execHardThrottleEnd u s
  | .guestOverpower g => Sys2Proof.Machine.execGuestOverpower g s
  | .thermalTrip slot temp => Sys2Proof.Machine.execThermalTrip slot temp s
  | .thmTripClear p => Sys2Proof.Machine.execThmTripClear p s
  | .powerStateEntry res idleNs drain ext => Sys2Proof.Machine.execPowerStateEntry res idleNs drain ext s
  | .powerStateWake res => Sys2Proof.Machine.execPowerStateWake res s
  | .tbclkLoss => Sys2Proof.Machine.execTbclkLoss s
  | .thmTbCtlSet p => Sys2Proof.Machine.execThmTbCtlSet p s
  | .standbyPowerOn => Sys2Proof.Machine.execStandbyPowerOn s
  | .coldReset cause => Sys2Proof.Machine.execColdReset cause s
  | .warmReset console mfwRestart => Sys2Proof.Machine.execWarmReset console mfwRestart s
  | .portReset p => Sys2Proof.Machine.execPortReset p s
  | .resetNLow => Sys2Proof.Machine.execResetNLow s
  | .vin48Return => Sys2Proof.Machine.execVin48Return s
  | .vin48Loss => Sys2Proof.Machine.execVin48Loss s
  | .vsbDrop => Sys2Proof.Machine.execVsbDrop s
  | .romSlotChoice t => Sys2Proof.Machine.execRomSlotChoice t s
  | .romWatchdog => Sys2Proof.Machine.execRomWatchdog s
  | .mainPhaseStart t => Sys2Proof.Machine.execMainPhaseStart t s
  | .holdClear p => Sys2Proof.Machine.execHoldClear p s
  | .controllerFault checker watchdog => Sys2Proof.Machine.execControllerFault checker watchdog s
  | .controllerHandback => Sys2Proof.Machine.execControllerHandback s
  | .controllerSimplex => Sys2Proof.Machine.execControllerSimplex s
  | .updBegin path data => Sys2Proof.Machine.execUpdBegin path data s
  | .updData path data => Sys2Proof.Machine.execUpdData path data s
  | .updEnd path good => Sys2Proof.Machine.execUpdEnd path good s
  | .updActivate path data good => Sys2Proof.Machine.execUpdActivate path data good s
  | .updAbort path => Sys2Proof.Machine.execUpdAbort path s
  | .updSessionTimeout => Sys2Proof.Machine.execUpdSessionTimeout s
  | .getVersions path => Sys2Proof.Machine.execGetVersions path s
  | .readEvents path data => Sys2Proof.Machine.execReadEvents path data s
  | .mgmtRstCtlCold p key => Sys2Proof.Machine.execMgmtRstCtlCold p key s
  | .mgmtRstCtlWarm p key restart => Sys2Proof.Machine.execMgmtRstCtlWarm p key restart s
  | .consoleStat => Sys2Proof.Machine.execConsoleStat s
  | .consoleVer => Sys2Proof.Machine.execConsoleVer s
  | .consoleLog n => Sys2Proof.Machine.execConsoleLog n s
  | .consoleRd addr n => Sys2Proof.Machine.execConsoleRd addr n s
  | .consoleWr addr value ext => Sys2Proof.Machine.execConsoleWr addr value ext s
  | .consoleHold on => Sys2Proof.Machine.execConsoleHold on s
  | .consoleReset warm => Sys2Proof.Machine.execConsoleReset warm s
  | .faultTaken n => Sys2Proof.Machine.execFaultTaken n s
  | .faultPendingEnd n => Sys2Proof.Machine.execFaultPendingEnd n s
  | .fltAck p classes => Sys2Proof.Machine.execFltAck p classes s
  | .fltClear p classes => Sys2Proof.Machine.execFltClear p classes s
  | .fltPartAck p q => Sys2Proof.Machine.execFltPartAck p q s
  | .fltPartClear p q => Sys2Proof.Machine.execFltPartClear p q s
  | .aliveKick p => Sys2Proof.Machine.execAliveKick p s
  | .mfwHang => Sys2Proof.Machine.execMfwHang s
  | .dbgSnapTake p site => Sys2Proof.Machine.execDbgSnapTake p site s
  | .traceEvent => Sys2Proof.Machine.execTraceEvent s
  | .traceDrain u count ext => Sys2Proof.Machine.execTraceDrain u count ext s
  | .traceDrainError u => Sys2Proof.Machine.execTraceDrainError u s
  | .trcCtlEnable p u data => Sys2Proof.Machine.execTrcCtlEnable p u data s
  | .trcCtlDisable p u data => Sys2Proof.Machine.execTrcCtlDisable p u data s
  | .trcRptrWrite p u data => Sys2Proof.Machine.execTrcRptrWrite p u data s
  | .dumpDesc site ext => Sys2Proof.Machine.execDumpDesc site ext s
  | .dbgHalt p stream => Sys2Proof.Machine.execDbgHalt p stream s
  | .dbgResume p stream => Sys2Proof.Machine.execDbgResume p stream s
  | .dbgStep p stream => Sys2Proof.Machine.execDbgStep p stream s
  | .dbgForce p stream => Sys2Proof.Machine.execDbgForce p stream s
  | .deferExpiry stream => Sys2Proof.Machine.execDeferExpiry stream s
  | .mcHalt ev => Sys2Proof.Machine.execMcHalt ev s
  | .mcHaltExpiry => Sys2Proof.Machine.execMcHaltExpiry s
  | .tstCtlStart p u data => Sys2Proof.Machine.execTstCtlStart p u data s
  | .testAbort u => Sys2Proof.Machine.execTestAbort u s
  | .checkerLock u lane rx => Sys2Proof.Machine.execCheckerLock u lane rx s
  | .dbgacc reg ext => Sys2Proof.Machine.execDbgacc reg ext s
  | .jtagInstruction code => Sys2Proof.Machine.execJtagInstruction code s
  | .portLinkUp p rate width flit cxl hdm => Sys2Proof.Machine.execPortLinkUp p rate width flit cxl hdm s
  | .functionPowerState p dstate => Sys2Proof.Machine.execFunctionPowerState p dstate s
  | .guestUcieTrained g => Sys2Proof.Machine.execGuestUcieTrained g s
  | .hbmReadData addr => Sys2Proof.Machine.execHbmReadData addr s
  | .laserTrimUpdate k b n offGhz => Sys2Proof.Machine.execLaserTrimUpdate k b n offGhz s
  | .oqBlockSend g => Sys2Proof.Machine.execOqBlockSend g s
  | .feinoSlotSend e msgs frames => Sys2Proof.Machine.execFeinoSlotSend e msgs frames s
  | .xagSendStart c ext => Sys2Proof.Machine.execXagSendStart c ext s
  | .tbclkReturn => Sys2Proof.Machine.execTbclkReturn s
  | .eventStoreMirrorWrite => Sys2Proof.Machine.execEventStoreMirrorWrite s
  | .cacheScrub die corrected uncorrected addr => Sys2Proof.Machine.execCacheScrub die corrected uncorrected addr s
  | .jtagTapReset => Sys2Proof.Machine.execJtagTapReset s
  | .mctpControl eid => Sys2Proof.Machine.execMctpControl eid s
  | .pldmPollEvent => Sys2Proof.Machine.execPldmPollEvent s
  | .dutyWindow site => Sys2Proof.Machine.execDutyWindow site s
  | .romRecoveryLoad image t => Sys2Proof.Machine.execRomRecoveryLoad image t s

end Sys2Proof.Machine
end

