-- ==== Sys2Proof/WellFormed.lean ====
section
/-!
DEFINITION. Which commands are well-formed: the conditions on operands that their types do not say. A command that is
not well-formed is no command that the device can be sent; its meaning is total all the same.
-/
namespace Sys2Proof

/-- An access of 1 to 4096 bytes: the largest read request of a host port (chapter 13, the port's parameters). -/
def accessSize (n : Nat) : Bool := decide (1 ≤ n) && decide (n ≤ 4096)

/-- Bytes to write with one enable each, at most the 512 that a host's write carries (chapter 13). -/
def enabledBytes (bs : List Byte) (en : List Bool) : Bool :=
  decide (bs.length = en.length) && decide (1 ≤ bs.length) && decide (bs.length ≤ 512)

/-- A descriptor is 64 bytes (R190). -/
def Job.wf (j : Job) : Bool := decide (j.bytes.length = 64)

/-- A memory operation of the sizes that R161 and R248 give. -/
def MemOp.wf : MemOp → Bool
  | .read n => accessSize n
  | .write bs en => enabledBytes bs en
  | .fadd32 vs en => decide (vs.length = 4 * en.length) && accessSize vs.length
  | .xadd v => decide (v.length = 24)
  | .fetchAdd w _ => decide (w = 4) || decide (w = 8)
  | .swap w _ => decide (w = 4) || decide (w = 8)
  | .cas w _ _ => decide (w = 4) || decide (w = 8) || decide (w = 16)
  | .recReport _ _ => true
  | .recAdvance => true

/-- A code block: 18 lanes of 20 columns (R355). -/
def eighteenLanes (ls : List (List Byte)) : Bool := decide (ls.length = 18) && ls.all (fun l => decide (l.length = 20))

/-- The data of a management command: at most what a mailbox's data area holds (R517). -/
def payload (bs : List Byte) : Bool := decide (bs.length ≤ 256)

/-- The command's operands are as the device can be sent them. -/
def Instr.wf : Instr → Bool
  | .regWrite _ _ size _ _ => accessSize size
  | .rcRead _ _ size _ => accessSize size
  | .quietRead _ _ size => accessSize size
  | .dbgQdataRead _ => true
  | .thmTbLoRead _ => true
  | .tstBitsLoRead _ _ => true
  | .coreFail _ => true
  | .spareActivationDone _ => true
  | .spareActivationFail _ => true
  | .mxeDescriptorEntry _ job => job.wf
  | .mxeDescriptorStart _ => true
  | .mxeRecordReadReturn _ _ => true
  | .mxeShadowLoadDone _ => true
  | .mxeSwapToken _ => true
  | .mxeRowIssue _ => true
  | .mxeEntryLands _ _ => true
  | .mxeRoundEnd _ => true
  | .mxeRowDrain _ => true
  | .mxeFinalReport _ _ => true
  | .mxeAbort _ _ _ => true
  | .mxeAccUe _ _ => true
  | .mxeWregParity _ => true
  | .mxeBankRefused _ _ => true
  | .mxeMemUe _ _ _ => true
  | .mxeRateUpdate _ _ _ _ => true
  | .mxeCfgWrite _ _ _ => true
  | .engineDescriptorEntry _ _ job => job.wf
  | .vxeExpression _ _ _ => true
  | .vxeFinalReport _ _ _ => true
  | .followUpstreamFail _ _ => true
  | .followRowReady _ _ => true
  | .sfeElementwise _ => true
  | .smxStats _ => true
  | .smxApply _ => true
  | .topk _ => true
  | .topMove _ => true
  | .imageA _ => true
  | .imageB _ => true
  | .imageBs _ => true
  | .gather _ _ => true
  | .scatter _ _ => true
  | .gdeForward _ => true
  | .gdeReturn _ => true
  | .parcelReceive _ => true
  | .rxwinWrite _ _ _ _ _ => true
  | .compress _ => true
  | .decompress _ => true
  | .repack _ => true
  | .rngFill _ => true
  | .dmeCopy _ _ _ _ => true
  | .dmeFill _ _ => true
  | .cmemMapWrite _ _ _ => true
  | .coreWindowAccess _ _ _ op _ _ => op.wf
  | .aliasWrite _ _ _ data enables _ => enabledBytes data enables
  | .partialWordWrite _ _ _ data enables _ => enabledBytes data enables
  | .bankModeWrite _ _ _ _ => true
  | .bankAutoIdle _ _ => true
  | .bankTransitionDone _ _ => true
  | .cmemScrubAccess _ _ _ _ => true
  | .cmemMarchCtlGo _ _ _ => true
  | .marchDone _ _ _ _ _ _ => true
  | .streamEnable _ _ => true
  | .streamDisable _ _ _ => true
  | .streamCfgWrite _ _ _ => true
  | .sqTail _ _ _ => true
  | .cqHead _ _ _ => true
  | .strmAbort _ _ _ => true
  | .abortDecided _ _ => true
  | .strmRestart _ _ _ => true
  | .doorbellBadAccess _ _ size _ => accessSize size
  | .descriptorFetch _ _ => true
  | .fetchErr _ _ => true
  | .descriptorDispatch _ => true
  | .descriptorDone _ => true
  | .completionRecordWrite _ _ => true
  | .recordWriteError _ _ => true
  | .streamStop _ => true
  | .streamTimeout _ _ => true
  | .counterAdd _ _ _ => true
  | .counterMax _ _ _ => true
  | .counterSet _ _ _ => true
  | .counterReset _ _ => true
  | .syncWindowBadAccess _ _ size _ => accessSize size
  | .waiterSatisfied _ => true
  | .lockGranted _ => true
  | .syncDesc _ => true
  | .wadv _ => true
  | .streamRefetch _ => true
  | .streamsLost _ => true
  | .hbmRangeLock _ _ => true
  | .rds _ _ => true
  | .rdx _ _ => true
  | .upg _ _ => true
  | .rdcur _ _ => true
  | .wrline _ _ _ => true
  | .wrpart _ _ _ _ => true
  | .snpcur _ _ _ _ _ => true
  | .snps _ _ _ _ _ => true
  | .snpi _ _ _ _ _ => true
  | .snoopAnswer _ _ => true
  | .snoopEvicting _ _ => true
  | .wbm _ _ _ => true
  | .cmpack _ _ => true
  | .dataGrant _ _ => true
  | .wback _ _ => true
  | .agentLost _ => true
  | .snoopTimeout _ _ => true
  | .requestTimeout _ _ => true
  | .recReport _ _ _ _ => true
  | .recAdvance _ _ => true
  | .fadd32 _ _ values enables => decide (values.length = 32) && decide (enables.length = 32)
  | .xadd _ _ _ => true
  | .fetchAdd _ _ _ _ => true
  | .atomSwap _ _ _ _ => true
  | .atomCas _ _ _ _ _ => true
  | .hbmLineDecode _ _ _ => true
  | .hbmRefresh _ => true
  | .hbmScrub _ _ _ => true
  | .cacheSliceFence _ _ _ => true
  | .feinoTrainAck _ _ _ => true
  | .feinoTrainTimer _ _ _ => true
  | .feinoRetrain _ _ => true
  | .feinoLaneLoss _ _ => true
  | .alnReceived _ words => decide (words.length = 68)
  | .feinoFlitReceive _ flit => decide (flit.length = 256)
  | .feinoNak _ => true
  | .feinoReplayTimer _ => true
  | .rawFrameReceive _ frame => decide (frame.length = 256)
  | .rawChannelBroken _ => true
  | .creditInit _ => true
  | .rawInit _ => true
  | .discover _ _ => true
  | .mapAck _ => true
  | .fenceInfo _ => true
  | .fenceInfoTimeout _ => true
  | .retrainReq _ => true
  | .prvRelease _ _ => true
  | .profileAnswer _ _ => true
  | .profileAck _ _ => true
  | .negotiationTimeout _ => true
  | .guestMessage _ => true
  | .guestKill _ _ => true
  | .prvCommit _ _ => true
  | .prvCommitDrained _ => true
  | .prvTokenRefill _ => true
  | .laserMonitor _ _ _ _ _ _ => true
  | .laserFail _ _ _ => true
  | .spareLaserOnFrequency _ _ _ => true
  | .biasBandChange _ => true
  | .ageingDecision _ _ => true
  | .marginRpt _ => true
  | .monitorScan _ sm mm cm => decide (sm.length = 8) && decide (mm.length = 8) && decide (cm.length = 8)
  | .lossLocate _ => true
  | .heaterTargetChange _ _ _ => true
  | .leXtCommit _ _ => true
  | .gapCmdGo _ _ _ => true
  | .gapCmdCancel _ _ => true
  | .gapExecute _ => true
  | .gapExecuteDone _ need => decide (need.length = 8)
  | .connectorOpen _ => true
  | .connectorClosed _ => true
  | .lightEngineDark _ => true
  | .lightEngineStart _ _ fits => decide (fits.length = 160)
  | .farLightSeen _ fits amps _ => decide (fits.length = 20) && decide (amps.length = 20)
  | .modBiasUpdate _ _ _ => true
  | .rxRingUpdate _ _ _ _ _ _ => true
  | .thresholdUpdate _ _ _ => true
  | .ringLockLoss _ _ _ => true
  | .holdWindowExceeded _ _ => true
  | .calStart _ => true
  | .calGo _ _ => true
  | .calTxdone _ => true
  | .calAbort _ => true
  | .calReq _ => true
  | .calXing _ => true
  | .calSenderTimeout _ => true
  | .calRxDone _ _ => true
  | .calAbandon _ => true
  | .calRunTrigger _ => true
  | .calRunPeriod _ => true
  | .leCalCmdRun _ _ => true
  | .leCalCmdLane _ _ _ => true
  | .retune _ _ _ => true
  | .spareRingTransit _ _ => true
  | .transitCrossingDone _ _ _ _ => true
  | .monTrig _ _ _ => true
  | .monConversionDone _ _ _ => true
  | .monSync _ _ => true
  | .codeBlockReceive _ _ lanes => eighteenLanes lanes
  | .oqFlitAccept _ => true
  | .oqNak _ => true
  | .oqReplayTimer _ => true
  | .laneErase _ _ _ => true
  | .laneReadmit _ _ => true
  | .blockLockTimeout _ _ => true
  | .lossOfLight _ => true
  | .losEnd _ _ => true
  | .slipQueue _ _ _ => true
  | .creditCheck _ => true
  | .creditAuditPeriod _ => true
  | .lqRetrain _ => true
  | .oqRetrainReq _ => true
  | .trainingBlockAlign _ lanes => eighteenLanes lanes
  | .trainingTimer _ => true
  | .trainParam _ => true
  | .echoReq _ => true
  | .echoRsp _ => true
  | .roleSwapPropose _ _ => true
  | .roleSwap _ => true
  | .roleAck _ => true
  | .linkDownTimer _ => true
  | .downFlit _ => true
  | .graceExpiry _ => true
  | .lqPathGo _ _ _ => true
  | .pathModeApply _ => true
  | .pathFlitReceive _ => true
  | .helloMsg _ => true
  | .helloPeriod _ => true
  | .cellArrive _ _ => true
  | .ctrAdd => true
  | .ctrSet => true
  | .ctrMax => true
  | .addSlip _ => true
  | .ctrRsp => true
  | .errCell => true
  | .addRefuse _ => true
  | .remoteTimeout _ => true
  | .parcelCell => true
  | .parcelRsp => true
  | .fabCtlStart _ => true
  | .fabCtlLeave _ => true
  | .claimMsg _ => true
  | .claimWindowClose => true
  | .announceMsg _ => true
  | .tbExchangePeriod => true
  | .tbReq _ => true
  | .tbRsp _ => true
  | .parentLost => true
  | .planArm _ _ _ _ => true
  | .planStart _ _ _ => true
  | .plOpen _ => true
  | .pleachFlit _ _ => true
  | .planDone _ => true
  | .planFail _ _ => true
  | .plAbort _ => true
  | .planLimitExpiry _ => true
  | .plBar _ => true
  | .sleepIdle _ => true
  | .slpPropose _ => true
  | .slpAccept _ => true
  | .slpCommit _ => true
  | .slpCancel _ => true
  | .slpWake _ => true
  | .sleepProposalLapse _ => true
  | .dormantTraffic _ => true
  | .portLinkDown _ => true
  | .functionLevelReset _ => true
  | .bar0Access _ _ size _ _ _ => accessSize size
  | .bar2Doorbell _ _ size _ => accessSize size
  | .bar4Access _ _ op _ => op.wf
  | .msixUnmask _ _ => true
  | .cxlHostRequest _ _ _ _ _ _ _ => true
  | .partitionEnable _ _ => true
  | .partitionRelease _ _ => true
  | .partitionReleaseDone _ => true
  | .partCfgWrite _ _ _ _ => true
  | .latWrite _ _ _ => true
  | .i3cAddressAssign _ => true
  | .rstdaa => true
  | .regRead _ _ _ => true
  | .regWriteCmd _ count words _ => decide (words.length = count.toNat)
  | .syncOp _ _ _ => true
  | .mgmtState => true
  | .uartCharacter _ _ => true
  | .hkSlot _ => true
  | .hkRoundEnd => true
  | .hkTrig _ _ => true
  | .hkSync _ => true
  | .powerManagerPeriod m => decide (m.own.length = 16) && decide (m.lower.length = 16)
  | .inputCurrentOverrun _ => true
  | .throttleStep _ => true
  | .hardThrottle _ => true
  | .hardThrottleEnd _ => true
  | .guestOverpower _ => true
  | .thermalTrip _ _ => true
  | .thmTripClear _ => true
  | .powerStateEntry _ _ _ _ => true
  | .powerStateWake _ => true
  | .tbclkLoss => true
  | .thmTbCtlSet _ => true
  | .standbyPowerOn => true
  | .coldReset _ => true
  | .warmReset _ _ => true
  | .portReset _ => true
  | .resetNLow => true
  | .vin48Return => true
  | .vin48Loss => true
  | .vsbDrop => true
  | .romSlotChoice _ => true
  | .romWatchdog => true
  | .mainPhaseStart t => t.sites.all (fun x => t.sites.count x == 1)
  | .holdClear _ => true
  | .controllerFault _ _ => true
  | .controllerHandback => true
  | .controllerSimplex => true
  | .updBegin _ data => payload data
  | .updData _ data => payload data
  | .updEnd _ _ => true
  | .updActivate _ data _ => payload data
  | .updAbort _ => true
  | .updSessionTimeout => true
  | .getVersions _ => true
  | .readEvents _ data => payload data
  | .mgmtRstCtlCold _ _ => true
  | .mgmtRstCtlWarm _ _ _ => true
  | .consoleStat => true
  | .consoleVer => true
  | .consoleLog _ => true
  | .consoleRd _ _ => true
  | .consoleWr _ _ _ => true
  | .consoleHold _ => true
  | .consoleReset _ => true
  | .faultTaken _ => true
  | .faultPendingEnd _ => true
  | .fltAck _ _ => true
  | .fltClear _ _ => true
  | .fltPartAck _ _ => true
  | .fltPartClear _ _ => true
  | .aliveKick _ => true
  | .mfwHang => true
  | .dbgSnapTake _ _ => true
  | .traceEvent => true
  | .traceDrain _ _ _ => true
  | .traceDrainError _ => true
  | .trcCtlEnable _ _ _ => true
  | .trcCtlDisable _ _ _ => true
  | .trcRptrWrite _ _ _ => true
  | .dumpDesc _ _ => true
  | .dbgHalt _ _ => true
  | .dbgResume _ _ => true
  | .dbgStep _ _ => true
  | .dbgForce _ _ => true
  | .deferExpiry _ => true
  | .mcHalt _ => true
  | .mcHaltExpiry => true
  | .tstCtlStart _ _ _ => true
  | .testAbort _ => true
  | .checkerLock _ _ _ => true
  | .dbgacc _ _ => true
  | .jtagInstruction _ => true
  | .portLinkUp _ _ _ _ _ _ => true
  | .functionPowerState _ _ => true
  | .guestUcieTrained _ => true
  | .hbmReadData _ => true
  | .laserTrimUpdate _ _ _ _ => true
  | .oqBlockSend _ => true
  | .feinoSlotSend _ msgs frames => msgs.all (fun m => decide (m.length % 4 = 0)) && frames.all (fun r => decide (r.data.length ≤ 248))
  | .xagSendStart _ _ => true
  | .tbclkReturn => true
  | .eventStoreMirrorWrite => true
  | .cacheScrub _ _ _ _ => true
  | .jtagTapReset => true
  | .mctpControl _ => true
  | .pldmPollEvent => true
  | .dutyWindow _ => true
  | .romRecoveryLoad image _ => decide (image.length ≤ 4 * 2 ^ 20)

end Sys2Proof
end

