-- ==== Sys2Proof/Safety.lean ====
section
/-!
DEFINITION. What holds of the block between commands, and what a command leaves as it was: the terms of the claims.
-/
namespace Sys2Proof.Machine

/-- What every state of a run meets between commands: the memories are in canonical form, and no change of a command is
left over. -/
def Inv (s : State) : Prop := s.mem.wf = true ∧ s.dev.wq = [] ∧ s.dev.extIn = []

/-- A byte of memory by its key (log entry 5). -/
def State.byte (s : State) (k : Nat) : Byte := Sparse.get memDefault s.mem k

/-- The state after an effect on the device: its memory changes are applied in order, the queue and the fuses stay. -/
def State.after (s : State) (f : Env → Dev → Dev) : State :=
  let d := f ⟨s.fuses, s.mem⟩ s.dev.rest
  { s with mem := applyChanges s.mem d.wq.reverse, dev := d.rest }

/-- The active descriptor of a unit has ended: the staged one takes its slot, and its result is on its way to the
scheduler (R113, R194). -/
def engEnded (s t : State) (site u : Nat) (j : EJob) (status : Nat) (f : XFlags) (detail : Nat) : Prop :=
  getEng t.dev site u = { active := (getEng s.dev site u).staged, staged := none } ∧
  t.dev.engDone = s.dev.engDone ++ [⟨j.job.stream, j.job.seq, status, f, detail⟩]

/-- A byte of the memory of a core site, by local address, is in one of the ranges. -/
def inRanges (s : State) (site k : Nat) (rs : List (Nat × Nat)) : Prop :=
  ∃ r ∈ rs, k ∈ localKeys s.dev site r.1 r.2

/-- Every register but those of the listed keys is as it was. -/
def keepsRegs (d d' : Dev) (ks : List Nat) : Prop := ∀ k, k ∉ ks → Sparse.find d'.regs k = Sparse.find d.regs k

/-- A register whose write only stores its fields by their access codes: no rule gives its write an effect of its own. -/
def plainReg (r : RegDesc) : Bool :=
  !(([Reg.HUB_HBM_CFG, Reg.HUB_PART_CTL, Reg.HUB_PART_CORES, Reg.HUB_PART_MEM, Reg.HUB_PART_STRM, Reg.HUB_PART_CTR,
      Reg.HUB_PART_RES, Reg.MGMT_RST_CTL, Reg.MGMT_MBX_CTL, Reg.FLT_ACK, Reg.FLT_CLEAR, Reg.FLT_ALIVE,
      Reg.FLT_PART_CTL, Reg.THM_TRIP, Reg.THM_HK_CTL, Reg.THM_TB_CTL, Reg.PRV_CTL, Reg.PRV_COMMIT, Reg.DBG_SNAP,
      Reg.CMEM_CFG, Reg.CMEM_MARCH_CTL, Reg.CMEM_BANK, Reg.MXE_CFG, Reg.GDE_RXWIN_CTL, Reg.GDE_RXWIN_BASE,
      Reg.GDE_RXWIN_SHAPE, Reg.GDE_RXWIN_AUX, Reg.CORE_TRC_CTL, Reg.CORE_TRC_RPTR, Reg.CORE_TRC_RING_LO,
      Reg.CORE_TRC_RING_HI, Reg.LE_TRC_CTL, Reg.LE_TRC_RPTR, Reg.LE_TRC_RING_LO, Reg.LE_TRC_RING_HI, Reg.LE_CTL,
      Reg.LE_XT_COMMIT, Reg.LE_RING_CTL, Reg.LE_GAP_CMD, Reg.LE_CAL_CMD, Reg.LE_CAL_MON_CTL, Reg.LQ_CTL,
      Reg.LQ_PATH_CTL, Reg.FAB_CTL, Reg.FAB_ID, Reg.FAB_CFG, Reg.FAB_COLL, Reg.HUB_TST_CTL, Reg.BASE_TST_CTL,
      Reg.LE_TST_CTL, Reg.LQ_TST_CTL, Reg.HOST_TST_CTL, Reg.HUB_FEI_CTL, Reg.BASE_FEI_CTL, Reg.LE_FEI_CTL].map
    RegDesc.base).contains r.base)

/-- A register whose normal read captures a word, shows a captured word, or reads another register. -/
def capturing (r : RegDesc) : Bool :=
  ([Reg.THM_TB_LO, Reg.THM_TB_HI, Reg.DBG_QDATA, Reg.DBG_HALT_STAT, Reg.HUB_TST_BITS_LO, Reg.HUB_TST_BITS_HI,
    Reg.BASE_TST_BITS_LO, Reg.BASE_TST_BITS_HI, Reg.LE_TST_BITS_LO, Reg.LE_TST_BITS_HI, Reg.LQ_TST_BITS_LO,
    Reg.LQ_TST_BITS_HI, Reg.HOST_TST_BITS_LO, Reg.HOST_TST_BITS_HI].map RegDesc.base).contains r.base

end Sys2Proof.Machine
end

