-- ==== Sys2Proof/Certificates/Slice0/Obligations.lean ====
section
/-!
DEFINITION. The statements for the provers.
-/
open Sys2Proof Sys2Proof.Machine

/-- For every state and every command c at the front of its queue, a step is the effect of c on the state with the
rest of the queue; nothing is put round it. -/
def Obligations.StepRunsFrontCommand : Prop :=
  ∀ (s : State) (c : Instr) (rest : List Instr), s.pending = c :: rest → step s = exec c { s with pending := rest }

/-- On an empty queue a step answers a state whose 64-bit time base (R491) is one nanosecond on, with the registers,
the memories, the queue and the fuses as they were. That a step stands for a nanosecond is the model's choice (log
entry 2). -/
def Obligations.IdleStepAdvancesTime : Prop :=
  ∀ s : State, s.pending = [] → ∃ t, step s = .next t ∧ t.dev.tb = (s.dev.tb + 1) % 2 ^ 64 ∧ t.dev.regs = s.dev.regs ∧
    t.mem = s.mem ∧ t.pending = [] ∧ t.fuses = s.fuses ∧ t.dev.out = s.dev.out

/-- The state after reset meets the invariant: its memories are in canonical form and no change of a command is left
over. Its queue is empty. -/
def Obligations.ResetMeetsInvariant : Prop := Inv State.reset ∧ State.reset.pending = []

/-- For every state that meets the invariant (the memories list rising keys and no byte that an unlisted key reads as;
no memory change and no outside answer of a command is left over), whatever command is in front, the step answers a
next state, and that state meets the invariant. -/
def Obligations.StepKeepsInvariant : Prop :=
  ∀ s : State, Inv s → ∃ t, step s = .next t ∧ Inv t

/-- Every command, in every state, answers a next state in which the queue of waiting commands and everything fused at
assembly (R2, R25) are as they were, and every byte of memory is what the command's last change of it made, or what it
was. -/
def Obligations.CommandsKeepQueueAndFuses : Prop :=
  ∀ (c : Instr) (s : State), ∃ t cs, exec c s = .next t ∧ t.pending = s.pending ∧ t.fuses = s.fuses ∧
    ∀ k, t.byte k = (changeAt cs k).getD (s.byte k)

/-- For every register of the register tables, every field of it and every bit of the field: after a write the bit is
the written bit where the code is RW, or RWL without the lock; it is cleared by a written 1 where the code is W1C and
set by one where it is W1S; and it is as it was where the code is RO or RC, or RWL with the lock set. Bits in no field
stay as they were. The lock is the one before the write (R10). -/
def Obligations.AccessCodesDecideWrite : Prop :=
  ∀ r ∈ Reg.table, ∀ (locked : Bool) (old new : Word) (i : Nat), i < 32 →
    (∀ f ∈ r.fields, f.lo ≤ i → i ≤ f.hi →
      (r.afterWrite locked old new).getLsbD i =
        match f.acc with
        | .rw => new.getLsbD i
        | .rwl => if locked then old.getLsbD i else new.getLsbD i
        | .w1c => old.getLsbD i && !(new.getLsbD i)
        | .w1s => old.getLsbD i || new.getLsbD i
        | .ro | .rc | .wo | .rsv => old.getLsbD i) ∧
    ((∀ f ∈ r.fields, ¬ (f.lo ≤ i ∧ i ≤ f.hi)) → (r.afterWrite locked old new).getLsbD i = old.getLsbD i)

/-- At every aligned address of the four reserved ranges, and at every other aligned address that is in no register
table, selector, MSI-X table or SYNC window, a read that reaches it returns 0 and changes nothing but the record of
answers, and a write changes nothing. -/
def Obligations.ReservedAddressesReadZero : Prop :=
  (∀ (e : Env) (d : Dev) (p : Path) (a : Nat) (during data : Word), a % 4 = 0 →
      (0x700000 ≤ a ∧ a < 0x800000) ∨ (0xE00000 ≤ a ∧ a < 0x1000000) ∨ (0x1900000 ≤ a ∧ a < 0x2000000) ∨
        (0x3880000 ≤ a ∧ a < 0x4000000) →
      regReadAt e d p a during = (0, d) ∧ regWriteAt e d p a data = d ∧ quietWord e d p a = (0, d)) ∧
  (∀ (s : State) (p : Path) (addr : BitVec 26) (during : BitVec 64) (data : BitVec 64) (ext : List Byte),
      regAt addr.toNat = none → msixAt p addr.toNat = none → addr.toNat ≠ addrQaddr → addr.toNat ≠ addrHaltCtl →
      strmBlock addr.toNat = false → syncAddr addr.toNat = false → addr.toNat % 4 = 0 →
      pathAlive s.dev p addr.toNat true = true → pathAlive s.dev p addr.toNat false = true →
      (∃ t, exec (.rcRead p addr 4 during) s = .next t ∧
        t = { s with dev := { s.dev.rest with out := s.dev.out ++ [.regData p [0]] } }) ∧
      (∃ t, exec (.quietRead p addr 4) s = .next t ∧
        t = { s with dev := { s.dev.rest with out := s.dev.out ++ [.regData p [0]] } }) ∧
      (∃ t, exec (.regWrite p addr 4 data ext) s = .next t ∧ t = { s with dev := s.dev.rest }))

/-- An access outside the SYNC window that reaches the block and is neither an aligned 32-bit nor an aligned 64-bit
access is not performed: a read returns words of all ones, a write changes no register and no memory, and either sends
Hawthorn the class C0 report of the access (source 0x01, the byte address as its detail) and nothing else. Stated for
REG_WRITE, RC_READ and QUIET_READ. -/
def Obligations.WrongSizeAccessRefused : Prop :=
  ∀ (s : State) (p : Path) (addr : BitVec 26) (size : Nat) (during data : BitVec 64) (ext : List Byte),
    syncAddr addr.toNat = false → Sys2Proof.Machine.sizeOk addr.toNat size = false →
    pathAlive s.dev p addr.toNat true = true → pathAlive s.dev p addr.toNat false = true →
    let refused := { s.dev.rest with reports := s.dev.reports ++
      [{ source := 0x01, unit := pathUnit p, detail := low32 addr.toNat : Report }] }
    let answered := { refused with out := s.dev.out ++ [.regData p (List.replicate (max 1 (size / 4)) 0xFFFFFFFF)] }
    (∃ t, exec (.rcRead p addr size during) s = .next t ∧ t = { s with dev := answered }) ∧
    (∃ t, exec (.quietRead p addr size) s = .next t ∧ t = { s with dev := answered }) ∧
    (∃ t, exec (.regWrite p addr size data ext) s = .next t ∧ t = { s with dev := refused })

/-- A 32-bit write that reaches a register whose write has no effect of its own, on a path that may write it, answers
a next state in which that register holds what its access codes make of the old and the written word under the lock as
it stood, and every other register, the memories and the rest of the device are as they were. Stated for REG_WRITE,
and for BAR0_ACCESS and REG_WRITE_CMD as the same access on their paths. -/
def Obligations.PlainWriteStoresFields : Prop :=
  (∀ (s : State) (p : Path) (addr : BitVec 26) (data : BitVec 64) (ext : List Byte) (r : RegDesc) (ix : List Nat),
    regAt addr.toNat = some (r, ix) → plainReg r = true → addr.toNat % 4 = 0 → syncAddr addr.toNat = false →
    msixAt p addr.toNat = none → addr.toNat ≠ addrQaddr → addr.toNat ≠ addrHaltCtl → strmBlock addr.toNat = false →
    pathAlive s.dev p addr.toNat true = true → pathWrites s.dev p r ix = true → portHalted s.dev p = false →
    ∃ t, exec (.regWrite p addr 4 data ext) s = .next t ∧
      t = { s with dev := { s.dev.rest with regs := t.dev.regs } } ∧
      rdReg t.dev r ix = r.afterWrite (lockOf s.dev r ix) (rdReg s.dev r ix) (low32 data.toNat) ∧
      keepsRegs s.dev t.dev [r.key ix]) ∧
  (∀ (s : State) (p : Fin 4) (addr : BitVec 26) (size : Nat) (data during : BitVec 64) (ext : List Byte),
    ∃ t, exec (.bar0Access p addr size (some data) during ext) s = .next t ∧
      exec (.regWrite (.port p) addr size data ext) s = .next t) ∧
  (∀ (s : State) (addr : BitVec 26) (data : Word) (ext : List Byte),
    addr.toNat % 4 = 0 → railsOff s.dev addr.toNat = false → syncAddr addr.toNat = false →
    ∃ t u, exec (.regWriteCmd (addr.setWidth 32) 1 [data] ext) s = .next t ∧
      exec (.regWrite .sideBand addr 4 (data.setWidth 64) ext) s = .next u ∧
      t = { u with dev := { u.dev with out := u.dev.out ++ [.sideBand 0 []] } })

/-- For a register that the path may read: a normal 32-bit read answers the word that the register shows and leaves in
its RC fields the events that arrived during the read, every other bit and every other register as it was; a quiet
read answers the word and changes nothing. Stated for RC_READ, QUIET_READ, BAR0_ACCESS and REG_READ. The registers
with a captured high word, DBG_QDATA and DBG_HALT_STAT have statements of their own. -/
def Obligations.ReadsAnswerAndClear : Prop :=
  (∀ (s : State) (p : Path) (addr : BitVec 26) (during : BitVec 64) (r : RegDesc) (ix : List Nat),
    regAt addr.toNat = some (r, ix) → capturing r = false → addr.toNat % 4 = 0 → syncAddr addr.toNat = false →
    msixAt p addr.toNat = none → addr.toNat ≠ addrQaddr → addr.toNat ≠ addrHaltCtl → strmBlock addr.toNat = false →
    pathAlive s.dev p addr.toNat false = true → pathReads s.dev p r ix = true →
    let answer := s.dev.out ++ [.regData p [showWord ⟨s.fuses, s.mem⟩ s.dev r ix]]
    (∃ t, exec (.rcRead p addr 4 during) s = .next t ∧
      t = { s with dev := { s.dev.rest with regs := t.dev.regs, out := answer } } ∧
      rdReg t.dev r ix = r.afterRead (rdReg s.dev r ix) (low32 during.toNat) ∧ keepsRegs s.dev t.dev [r.key ix]) ∧
    (∃ t, exec (.quietRead p addr 4) s = .next t ∧ t = { s with dev := { s.dev.rest with out := answer } })) ∧
  (∀ (s : State) (p : Fin 4) (addr : BitVec 26) (size : Nat) (during : BitVec 64) (ext : List Byte),
    ∃ t, exec (.bar0Access p addr size none during ext) s = .next t ∧
      exec (.rcRead (.port p) addr size during) s = .next t) ∧
  (∀ (s : State) (addr : BitVec 26) (r : RegDesc) (ix : List Nat),
    regAt addr.toNat = some (r, ix) → capturing r = false → addr.toNat % 4 = 0 → syncAddr addr.toNat = false →
    msixAt .sideBand addr.toNat = none → addr.toNat ≠ addrQaddr → addr.toNat ≠ addrHaltCtl →
    strmBlock addr.toNat = false → railsOff s.dev addr.toNat = false →
    ∃ t, exec (.regRead (addr.setWidth 32) 1 true) s = .next t ∧
      t = { s with dev := { s.dev.rest with
                            out := s.dev.out ++ [.sideBand 0 (leBytes 4 (showWord ⟨s.fuses, s.mem⟩ s.dev r ix).toNat)] } })

/-- A normal read of THM_TB_LO answers the low word of the time base and captures its high word for the path alone; a
read of THM_TB_HI by that path then answers the captured word, however the time base has moved. A normal read of a
TST_BITS_LO captures the unit's high word in the same way. DBG_QDATA answers what a quiet read of the path's DBG_QADDR
answers, with its effects. Stated for THM_TB_LO_READ, TST_BITS_LO_READ, DBG_QDATA_READ and RC_READ. -/
def Obligations.TimeBaseReadsAreConsistent : Prop :=
  (∀ (s : State) (p : Path), pathAlive s.dev p Reg.THM_TB_LO.base false = true →
    ∃ t, exec (.thmTbLoRead p) s = .next t ∧
      t = { s with dev := { s.dev.rest with dbg := t.dev.dbg, out := s.dev.out ++ [.regData p [low32 s.dev.tb]] } } ∧
      t.dev.dbg = { s.dev.dbg with tbHi := t.dev.dbg.tbHi } ∧
      ∀ q, Sparse.find t.dev.dbg.tbHi q =
        if q = pathIndex p then some (high32 s.dev.tb).toNat else Sparse.find s.dev.dbg.tbHi q) ∧
  (∀ (s : State) (p : Path) (hi : Nat), hi < 2 ^ 32 → Sparse.find s.dev.dbg.tbHi (pathIndex p) = some hi →
    pathAlive s.dev p Reg.THM_TB_HI.base false = true →
    ∃ t, exec (.rcRead p 0x300048 4 0) s = .next t ∧
      t = { s with dev := { s.dev.rest with out := s.dev.out ++ [.regData p [low32 hi]] } }) ∧
  (∀ (s : State) (p : Path) (g : Fin 128) (addr : BitVec 26),
    addr.toNat = Reg.LQ_TST_BITS_LO.key (lqIx g.val) → pathAlive s.dev p addr.toNat false = true →
    ∃ t, exec (.tstBitsLoRead p addr) s = .next t ∧
      t = { s with dev := { s.dev.rest with
                            dbg := t.dev.dbg,
                            out := s.dev.out ++ [.regData p [rdReg s.dev Reg.LQ_TST_BITS_LO (lqIx g.val)]] } } ∧
      t.dev.dbg = { s.dev.dbg with bitsHi := t.dev.dbg.bitsHi } ∧
      Sparse.find t.dev.dbg.bitsHi (bitsKey (.fibre g) p) =
        some (rdReg s.dev Reg.LQ_TST_BITS_HI (lqIx g.val)).toNat) ∧
  (∀ (s : State) (p : Path), pathAlive s.dev p Reg.DBG_QDATA.base false = true →
    ∃ t, exec (.dbgQdataRead p) s = .next t ∧
      let r := qdataRead ⟨s.fuses, s.mem⟩ s.dev p
      t = { s with dev := { r.2.rest with out := s.dev.out ++ [.regData p [r.1]] } })

/-- For a site in ACTIVATING: SPARE_ACTIVATION_DONE answers a state in which the site is ACTIVE under its logical
number, HUB_CORE_MAP gives that number the site, the standing map (if there is one) follows, and every byte of the
site's main banks reads 0. SPARE_ACTIVATION_FAIL sends the CORE_FAIL report of the site, and where another spare can
be chosen for the failed site it leaves the site FENCED with the reason 5 and the chosen spare ACTIVATING under the
same logical number. -/
def Obligations.SpareTakesOver : Prop :=
  (∀ (s : State) (site : Fin 36), siteState s.dev site.val = 5 →
    let c := siteLogical s.dev site.val
    ∃ t, exec (.spareActivationDone site) s = .next t ∧ siteState t.dev site.val = 0 ∧
      siteLogical t.dev site.val = c ∧ siteOfCore t.dev c = some site.val ∧
      t.dev.coppice.standing = s.dev.coppice.standing.map (fun m => Sparse.put m c site.val) ∧
      (∀ k, k < 2 ^ 26 → t.byte (coreCells site.val + k) = 0) ∧
      (∀ k, k < coreCells site.val ∨ coreCells (site.val + 1) ≤ k → t.byte k = s.byte k)) ∧
  (∀ (s : State) (site : Fin 36), siteState s.dev site.val = 5 →
    let c := siteLogical s.dev site.val
    let old := Sparse.get site.val s.dev.coppice.replacing c
    let d := mapChanged (setSite (resetSite (stopCounters s.dev site.val) site.val) site.val 4 0 5)
    ∃ t, exec (.spareActivationFail site) s = .next t ∧ t.mem = s.mem ∧
      (∀ x, chooseSpare d old = some x →
        siteState t.dev site.val = 4 ∧ siteState t.dev x = 5 ∧ siteLogical t.dev x = c ∧
        t.dev.reports = s.dev.reports ++ [{ source := 0x20, unit := 7 + site.val, part := partOfCore s.dev c,
                                            stat := Reg.HUB_CORE_MAP.slot [c] }]))

/-- For an ACTIVE site, CORE_FAIL is Hawthorn's taking of the report CORE_FAIL (source 0x20) of that site, with
HUB_CORE_MAP of its logical number as the detail; the reaction of class C1 to it is the fence of the core. A site in
any other state is left alone. -/
def Obligations.CoreFailureIsTaken : Prop :=
  ∀ (s : State) (site : Fin 36),
    (siteState s.dev site.val = 0 →
      exec (.coreFail site) s = .next (s.after (fun e d => takeFault e d
        { source := 0x20, unit := 7 + site.val, stat := Reg.HUB_CORE_MAP.slot [siteLogical s.dev site.val] }))) ∧
    (siteState s.dev site.val ≠ 0 → exec (.coreFail site) s = .next { s with dev := s.dev.rest }) ∧
    (∀ (e : Env) (d : Dev) (r : Report), r.source = 0x20 → r.unit = 7 + site.val → reactC1 e d r = fenceCore d site.val)

/-- The fresh plan of R29 keeps only good sites, keeps all of them where they are no more than T, and else keeps
exactly T of them. -/
def Obligations.FreshPlanKeepsGoodCores : Prop :=
  ∀ (t : Nat) (good : List Nat), good.Nodup → (∀ x ∈ good, x < 36) →
    let act := freshActive t 36 good
    (∀ x ∈ act, x ∈ good) ∧ act.Nodup ∧ (good.length ≤ t → act = good) ∧ (t ≤ good.length → act.length = t)

/-- MXE_DESCRIPTOR_ENTRY with an empty staged slot: a descriptor that passes every check of Table 3.9 is staged and
nothing is reported; one that fails the first check with a status is reported to the scheduler with that status and no
flags, and the engine is as it was. MXE_DESCRIPTOR_START marks the staged descriptor started; in RECORD mode it waits
for its record, and with the active slot empty it moves there. MXE_RECORD_READ_RETURN with an error completes the
waiting descriptor with RECORD (0x06) and writes no memory. -/
def Obligations.MxeAdmission : Prop :=
  (∀ (s : State) (site : Fin 36) (job : Job), (getMxe s.dev site.val).staged = none →
    let st := mxeCheck s.dev site.val job.bytes
    ∃ t, exec (.mxeDescriptorEntry site job) s = .next t ∧ t.mem = s.mem ∧
      (st = 0 → (getMxe t.dev site.val) = { getMxe s.dev site.val with staged := some { job := job } } ∧
        t.dev.engDone = s.dev.engDone ∧ t.dev.regs = s.dev.regs) ∧
      (st ≠ 0 → t.dev.mxe = s.dev.mxe ∧ t.dev.engDone = s.dev.engDone ++ [⟨job.stream, job.seq, st, {}, 0⟩])) ∧
  (∀ (s : State) (site : Fin 36) (j : MxeJob), (getMxe s.dev site.val).staged = some j → j.started = false →
    (mxeDesc j.job.bytes).record = true → (getMxe s.dev site.val).active = none →
    ∃ t, exec (.mxeDescriptorStart site) s = .next t ∧ t.mem = s.mem ∧ t.dev.regs = s.dev.regs ∧
      (getMxe t.dev site.val).active = some { j with started := true, reading := true } ∧
      (getMxe t.dev site.val).staged = none) ∧
  (∀ (s : State) (site : Fin 36) (j : MxeJob) (er : MemErr), (getMxe s.dev site.val).active = some j →
    j.reading = true →
    ∃ t, exec (.mxeRecordReadReturn site (.err er)) s = .next t ∧ t.mem = s.mem ∧ t.dev.regs = s.dev.regs ∧
      t.dev.engDone = s.dev.engDone ++ [⟨j.job.stream, j.job.seq, 0x06, j.flags, 0⟩] ∧
      (getMxe t.dev site.val).acc = (getMxe s.dev site.val).acc)

/-- MXE_SHADOW_LOAD_DONE loads the next tile into the shadow registers where its operand can be read. MXE_SWAP_TOKEN
makes the shadow tile of the active descriptor its tile once every row of the previous tile has issued. MXE_ROW_ISSUE
puts the sums of the next row of the tile in flight and counts the row. MXE_ROUND_END puts the sums of a round of an
output-stationary descriptor in flight, one entry for each row. None writes memory or a register. -/
def Obligations.MxeTilesAndRows : Prop :=
  (∀ (s : State) (site : Fin 36) (b : Bool) (x : MxeDesc) (n : Nat),
    nextTile s.dev site.val (getMxe s.dev site.val) = some (b, x, n) →
    rangesStatus s.dev site.val (tileRanges x n) = 0 →
    ∃ t, exec (.mxeShadowLoadDone site) s = .next t ∧ t.mem = s.mem ∧ t.dev.regs = s.dev.regs ∧
      getMxe t.dev site.val = { getMxe s.dev site.val with
        shadow := some (b, loadTile ⟨s.fuses, s.mem⟩ s.dev.rest site.val x n) }) ∧
  (∀ (s : State) (site : Fin 36) (w : Tile) (a : MxeJob), (getMxe s.dev site.val).shadow = some (false, w) →
    (getMxe s.dev site.val).active = some a → (a.tile = none ∨ a.issued = (mxeDesc a.job.bytes).m) →
    ∃ t, exec (.mxeSwapToken site) s = .next t ∧ t.mem = s.mem ∧ t.dev.regs = s.dev.regs ∧
      getMxe t.dev site.val = { getMxe s.dev site.val with
        shadow := none, active := some { a with tile := some w, issued := 0 } }) ∧
  (∀ (s : State) (site : Fin 36) (j : MxeJob) (w : Tile), issuing (getMxe s.dev site.val) = some (false, j, w) →
    (mxeDesc j.job.bytes).os = false → j.issued < (mxeDesc j.job.bytes).m →
    rangesStatus s.dev site.val (aRanges (mxeDesc j.job.bytes) j.issued) = 0 →
    ∃ t, exec (.mxeRowIssue site) s = .next t ∧ t.mem = s.mem ∧ t.dev.regs = s.dev.regs ∧
      getMxe t.dev site.val = { getMxe s.dev site.val with
        active := some { j with issued := j.issued + 1 },
        flight := (getMxe s.dev site.val).flight ++ [⟨j.job.stream, j.job.seq, w.idx, j.issued,
          rowSums ⟨s.fuses, s.mem⟩ s.dev.rest site.val (mxeDesc j.job.bytes) j.issued w⟩] }) ∧
  (∀ (s : State) (site : Fin 36) (j : MxeJob), (getMxe s.dev site.val).active = some j →
    let x := mxeDesc j.job.bytes
    x.os = true → j.issued < x.rounds → rangesStatus s.dev site.val [(x.aAddr, x.aSize), (x.bAddr, x.bSize)] = 0 →
    ∃ t, exec (.mxeRoundEnd site) s = .next t ∧ t.mem = s.mem ∧ t.dev.regs = s.dev.regs ∧
      (getMxe t.dev site.val).active = some { j with issued := j.issued + 1 } ∧
      (getMxe t.dev site.val).flight = (getMxe s.dev site.val).flight ++ (List.range x.m).map (fun r =>
        ⟨j.job.stream, j.job.seq, j.issued, r, roundSums ⟨s.fuses, s.mem⟩ s.dev.rest site.val x j.issued r⟩))

/-- MXE_ENTRY_LANDS adds the oldest sums in flight of the active descriptor, one that has landed some and does not
clear its rows, into its accumulator row, each column as R90 and R91 give it. MXE_ROW_DRAIN, where the next row has
all its entries, its format is no MX one and the write is not refused, makes exactly the writes of the converted row.
MXE_FINAL_REPORT whose record answers with an error completes the drained descriptor with RECORD (0x06). -/
def Obligations.MxeLandingAndDrain : Prop :=
  (∀ (s : State) (site : Fin 36) (corrected : Nat) (f : Flight) (rest : List Flight) (j : MxeJob) (w : Int),
    (getMxe s.dev site.val).flight = f :: rest → (getMxe s.dev site.val).active = some j →
    f.stream = j.job.stream → f.seq = j.job.seq → j.win = some w → j.landed ≠ [] →
    (mxeDesc j.job.bytes).accInit = true →
    let row := (mxeDesc j.job.bytes).accRow + f.row
    ∃ t, exec (.mxeEntryLands site corrected) s = .next t ∧ t.mem = s.mem ∧
      Sparse.get [] (getMxe t.dev site.val).acc row =
        landRow (mxeDesc j.job.bytes) w (Sparse.get [] (getMxe s.dev site.val).acc row) f.cols) ∧
  (∀ (s : State) (site : Fin 36) (j : MxeJob), (getMxe s.dev site.val).active = some j →
    let x := mxeDesc j.job.bytes
    x.drain = true → j.drained < x.m → fmtMx x.conv.fmt = false → x.entries ≤ Sparse.get 0 j.landed j.drained →
    let row := j.drained
    let r := wrRanges s.dev.rest site.val [(x.outAddr + row * x.pitch, drainPlain x (accWin s.dev site.val (x.accRow + row))
      (streamSeed s.dev j.job.stream.toNat) row (accRowOf s.dev site.val x row))]
    r.1 = 0 →
    ∃ t, exec (.mxeRowDrain site) s = .next t ∧ t.mem = applyChanges s.mem r.2.wq.reverse ∧
      (row + 1 < x.m → (getMxe t.dev site.val).active.map (·.drained) = some (row + 1))) ∧
  (∀ (s : State) (site : Fin 36) (j : MxeJob) (er : MemErr), (getMxe s.dev site.val).active = some j →
    (mxeDesc j.job.bytes).final = true → (mxeDesc j.job.bytes).m ≤ j.drained →
    ∃ t, exec (.mxeFinalReport site (.err er)) s = .next t ∧ t.mem = s.mem ∧ t.dev.regs = s.dev.regs ∧
      t.dev.engDone = s.dev.engDone ++ [⟨j.job.stream, j.job.seq, 0x06, j.flags, 0⟩])

/-- For the active descriptor of a site: MXE_ACC_UE completes it with ACC_UE (0x08), MXE_WREG_PARITY with WREG_PARITY
(0x07) where it issues rows, each with the class C0 report ENGINE_UE of the site; MXE_BANK_REFUSED of a bank that
refuses with ADDRESS (0x05); MXE_MEM_UE of a poisoned word with MEM_UE (0x16); MXE_ABORT takes it out and reports no
status. Each leaves every accumulator row of the descriptor INVALID. -/
def Obligations.MxeStopsLeaveRowsInvalid : Prop :=
  ∀ (s : State) (site : Fin 36) (j : MxeJob), (getMxe s.dev site.val).active = some j →
    let x := mxeDesc j.job.bytes
    let ended (t : State) (status : Nat) : Prop :=
      t.dev.engDone = s.dev.engDone ++ [⟨j.job.stream, j.job.seq, status, j.flags, 0⟩] ∧
      ∀ r, r < x.m → rdReg t.dev Reg.MXE_ROW_STATE [site.val, x.accRow + r] = 0
    let ue : List Report := [{ source := 0x12, unit := 7 + site.val, stat := Reg.MXE_ECC.slot [site.val],
                               part := partOfCore s.dev (siteLogical s.dev site.val) }]
    (∃ t, exec (.mxeAccUe site false) s = .next t ∧ ended t 0x08 ∧ t.dev.reports = s.dev.reports ++ ue) ∧
    (∀ w, issuing (getMxe s.dev site.val) = some (false, j, w) →
      ∃ t, exec (.mxeWregParity site) s = .next t ∧ ended t 0x07 ∧ t.dev.reports = s.dev.reports ++ ue) ∧
    (∀ bank : Fin 32, bankRefuses s.dev site.val bank.val = true →
      ∃ t, exec (.mxeBankRefused site bank) s = .next t ∧ ended t 0x05) ∧
    (∀ (found : EccFound) (a : BitVec 26), poisoned s.dev (wordMark (localKey s.dev site.val a.toNat)) = true →
      ∃ t, exec (.mxeMemUe site found a) s = .next t ∧ ended t 0x16 ∧ t.dev.reports = s.dev.reports) ∧
    (∃ t, exec (.mxeAbort site j.job.stream j.job.seq) s = .next t ∧ t.dev.engDone = s.dev.engDone ∧
      t.dev.reports = s.dev.reports ∧ ∀ r, r < x.m → rdReg t.dev Reg.MXE_ROW_STATE [site.val, x.accRow + r] = 0)

/-- MXE_RATE_UPDATE sets MXE_RATE.wf_per_us to the measured rate where rows were issued in the millisecond and to the
replica's otherwise, and keeps it in SLEEP and OFF; it changes no other register. MXE_CFG_WRITE from a path that is no
port stores MXE_CFG by its access codes under its lock. -/
def Obligations.MxeRateAndConfiguration : Prop :=
  (∀ (s : State) (site : Fin 36) (issued : Bool) (measured replica : BitVec 16),
    ∃ t, exec (.mxeRateUpdate site issued measured replica) s = .next t ∧
      t = { s with dev := { s.dev.rest with regs := t.dev.regs } } ∧
      keepsRegs s.dev t.dev [Reg.MXE_RATE.key [site.val]] ∧
      fget t.dev Reg.MXE_RATE [site.val] Fld.MXE_RATE_wf_per_us =
        if 3 ≤ fget s.dev Reg.THM_CORE [site.val] Fld.THM_CORE_pstate then fget s.dev Reg.MXE_RATE [site.val] Fld.MXE_RATE_wf_per_us
        else (if issued then measured.toNat else replica.toNat)) ∧
  (∀ (s : State) (p : Path) (site : Fin 36) (data : Word), pathPort p = none →
    ∃ t, exec (.mxeCfgWrite p site data) s = .next t ∧
      t = { s with dev := { s.dev.rest with regs := t.dev.regs } } ∧
      keepsRegs s.dev t.dev [Reg.MXE_CFG.key [site.val]] ∧
      rdReg t.dev Reg.MXE_CFG [site.val] = Reg.MXE_CFG.afterWrite (fbit s.dev Reg.MXE_CFG [site.val] Fld.MXE_CFG_lock)
        (rdReg s.dev Reg.MXE_CFG [site.val]) data)

/-- ENGINE_DESCRIPTOR_ENTRY of a unit with a free slot: a descriptor that passes the checks of R113 takes the active
slot, or the staged one behind an active descriptor, and nothing is reported; any other is reported with the status of
the first check it fails, and the slots stay. Neither changes memory. FOLLOW_ROW_READY lets a follower read one more
row that its producer has written, and changes nothing where there is none. FOLLOW_UPSTREAM_FAIL completes a follower
whose producer failed with UPSTREAM (0x12) and changes no byte outside its output ranges. VXE_FINAL_REPORT answered
with an error completes the reporting descriptor with RECORD (0x06), and answered well with OK. -/
def Obligations.EngineAdmission : Prop :=
  (∀ (s : State) (site : Fin 36) (unit : Fin 12) (job : Job), unit ≠ 0 →
    let g := getEng s.dev site.val unit.val
    let st := (engCheck ⟨s.fuses, s.mem⟩ (dropHandoff s.dev.rest site.val unit.val job) site.val unit.val job).1
    g.active = none ∨ g.staged = none →
    ∃ t, exec (.engineDescriptorEntry site unit job) s = .next t ∧ t.mem = s.mem ∧
      (st = 0 → t.dev.engDone = s.dev.engDone ∧ ∃ j, j.job = job ∧
        getEng t.dev site.val unit.val =
          if g.active = none then { g with active := some j } else { g with staged := some j }) ∧
      (st ≠ 0 → t.dev.eng = s.dev.eng ∧ t.dev.engDone = s.dev.engDone ++ [⟨job.stream, job.seq, st, {}, 0⟩])) ∧
  (∀ (s : State) (site : Fin 36) (unit : Fin 12) (j : EJob), engActive s.dev site.val unit.val = some j →
    followBit unit.val j.job.bytes = true →
    let n := if j.rowsReady < rowsWritten s.dev site.val j.job then j.rowsReady + 1 else j.rowsReady
    ∃ t, exec (.followRowReady site unit) s = .next t ∧ t.mem = s.mem ∧ t.dev.regs = s.dev.regs ∧
      getEng t.dev site.val unit.val =
        { getEng s.dev site.val unit.val with active := some { j with rowsReady := n } }) ∧
  (∀ (s : State) (site : Fin 36) (unit : Fin 12) (j : EJob), engActive s.dev site.val unit.val = some j →
    followBit unit.val j.job.bytes = true → producerFailed s.dev site.val j.job = true →
    ∃ t, exec (.followUpstreamFail site unit) s = .next t ∧ engEnded s t site.val unit.val j 0x12 {} 0 ∧
      t.dev.regs = s.dev.regs ∧ ∀ k, ¬ inRanges s site.val k (engOutputs unit.val j) → t.byte k = s.byte k) ∧
  (∀ (s : State) (site : Fin 36) (x : Fin 4) (j : EJob) (resp : Resp),
    engActive s.dev site.val (x.val + 1) = some j → j.reporting = true →
    (resp = .ok → (reportRecord ⟨s.fuses, s.mem⟩ s.dev.rest site.val j.job.stream.toNat (vDesc j.job.bytes).window j.top
      j.flags .ok).1 = true) →
    ∃ t, exec (.vxeFinalReport site x resp) s = .next t ∧
      engEnded s t site.val (x.val + 1) j (if resp = .ok then 0 else 0x06) j.outFlags 0)

/-- For an active descriptor of a VXE in FIXED mode, or of the SFE, whose rows may be read: with every input range
readable and every write granted, VXE_EXPRESSION, SFE_ELEMENTWISE, SMX_STATS, SMX_APPLY and TOPK make exactly the
writes that their rules give row by row, and complete the descriptor with OK and the flags of R72. With an input range
that may not be read, the descriptor completes with the status of the read. -/
def Obligations.VectorAndFunctionResults : Prop :=
  (∀ (s : State) (site : Fin 36) (x : Fin 4) (j : EJob) (resp : Resp),
    engActive s.dev site.val (x.val + 1) = some j → j.reporting = false →
    let v := vDesc j.job.bytes
    let e : Env := ⟨s.fuses, s.mem⟩
    let ins := ((vInRanges v (vBlock j.block)).map (·.2)).flatten
    let d := wakeRanges s.dev.rest site.val ins
    let r := vResult e d site.val j (signed 16 (v.window % 2 ^ 16))
    let w := wrRanges d site.val (r.1.filter (fun w => !w.2.isEmpty))
    rowsReady (x.val + 1) v.rows j = true → v.record = false → v.final = false →
    ∃ t, exec (.vxeExpression site x resp) s = .next t ∧
      (readStatus s.dev site.val ins = 0 → w.1 = 0 →
        engEnded s t site.val (x.val + 1) j 0 r.2.1 0 ∧ t.mem = applyChanges s.mem w.2.wq.reverse) ∧
      (readStatus s.dev site.val ins ≠ 0 → engEnded s t site.val (x.val + 1) j (readStatus s.dev site.val ins) {} 0)) ∧
  (∀ (s : State) (site : Fin 36) (j : EJob), engActive s.dev site.val 5 = some j →
    let x := sfeDesc j.job.bytes
    let e : Env := ⟨s.fuses, s.mem⟩
    let cmd : Instr := if x.func = 8 then .topk site else if x.func = 7 then .smxApply site
      else if x.func = 6 then .smxStats site else .sfeElementwise site
    let row := if x.func = 8 then topkRow else if x.func = 7 then applyRow e s.dev.rest site.val
      else if x.func = 6 then statsRow e s.dev.rest site.val else fnRow
    let ins := x.inRanges ++ (if x.func = 7 ∨ (x.func = 6 ∧ x.merge = true) then x.auxRanges else [])
    let d := wakeRanges s.dev.rest site.val ins
    let rows := (List.range x.rows).map (fun r =>
      let y := sfeRow e d site.val x r
      ((row x (streamSeed d j.job.stream.toNat) r y.1).1, y.2.or (row x (streamSeed d j.job.stream.toNat) r y.1).2))
    let w := wrRanges d site.val ((rows.map (·.1)).flatten.filter (fun w => !w.2.isEmpty))
    rowsReady 5 x.rows j = true → x.func < 9 →
    ∃ t, exec cmd s = .next t ∧
      (readStatus s.dev site.val ins = 0 → w.1 = 0 →
        engEnded s t site.val 5 j 0 (rows.foldl (fun a r => a.or r.2) {}) 0 ∧ t.mem = applyChanges s.mem w.2.wq.reverse) ∧
      (readStatus s.dev site.val ins ≠ 0 → engEnded s t site.val 5 j (readStatus s.dev site.val ins) {} 0))

/-- For an active descriptor whose inputs may be read and whose writes are granted: MOVE, IMAGE_A, IMAGE_B and
IMAGE_BS write the tensor or image of R137 and R138 and report its detail bits; COMPRESS and DECOMPRESS write the
block stream and its bytes; REPACK completes with OK or the status of a write; RNG_FILL writes count draws; DME_COPY
and DME_FILL move or fill their rows in order. Each completes its descriptor with OK. A stream that is not valid
completes DECOMPRESS with DECODE (0x15), and a row that DME may not read or write ends it with that status. -/
def Obligations.LayoutCompressionAndCopyResults : Prop :=
  (∀ (s : State) (site : Fin 36) (j : EJob), engActive s.dev site.val 6 = some j →
    let x := topDesc j.job.bytes
    let a := topSrc j.block
    let b := topDst j.block
    let e : Env := ⟨s.fuses, s.mem⟩
    let cmd : Instr := if x.op = 0 then .topMove site else if x.op = 1 then .imageA site else if x.op = 2 then .imageB site
      else .imageBs site
    let f := if x.op = 0 then moveResult e site.val else if x.op = 1 then imageAResult e site.val
      else if x.op = 2 then imageBResult e site.val else imageBsResult e site.val
    let d := wakeRanges s.dev.rest site.val a.ranges
    let r := f d x (streamSeed d j.job.stream.toNat) a b
    let o := freed d a.ranges r.1
    let w := wrRanges o.2 site.val (o.1.filter (fun w => !w.2.isEmpty))
    x.op < 4 → rowsReady 6 (a.dim 1 * a.dim 2 * a.dim 3) j = true → readStatus s.dev site.val a.ranges = 0 → w.1 = 0 →
    ∃ t, exec cmd s = .next t ∧ engEnded s t site.val 6 j 0 (topFlags e d site.val x a b) r.2 ∧
      t.mem = applyChanges s.mem w.2.wq.reverse) ∧
  (∀ (s : State) (site : Fin 36) (j : EJob), engActive s.dev site.val 8 = some j →
    let x := cpeDesc j.job.bytes
    let a := topSrc j.block
    let b := topDst j.block
    let e : Env := ⟨s.fuses, s.mem⟩
    let d := wakeRanges s.dev.rest site.val [(a.addr, x.length)]
    let bs := localBytes e d site.val a.addr x.length
    (x.op = 2 → readStatus s.dev site.val a.ranges = 0 → ∃ t status f detail, exec (.repack site) s = .next t ∧
      engEnded s t site.val 8 j status f detail ∧ (status = 0 ∨ status = 0x05 ∨ status = 0x16)) ∧
    (readStatus s.dev site.val [(a.addr, x.length)] = 0 →
      (x.op = 0 →
        let o := freed d [(a.addr, x.length)] (placeBlocks b.addr ((blocks4k bs.length bs).map (encodeBlock (planeBytes a.fmt))))
        let w := wrRanges o.2 site.val (o.1.filter (fun w => !w.2.isEmpty))
        w.1 = 0 → ∃ t, exec (.compress site) s = .next t ∧ engEnded s t site.val 8 j 0 {} 0 ∧
          t.mem = applyChanges s.mem w.2.wq.reverse) ∧
      (x.op = 1 →
        let r := decodeStream x.length bs
        let o := freed d [(a.addr, x.length)] [(b.addr, r.2)]
        let w := wrRanges o.2 site.val (o.1.filter (fun w => !w.2.isEmpty))
        ∃ t, exec (.decompress site) s = .next t ∧
          (r.1 = true → w.1 = 0 → engEnded s t site.val 8 j 0 {} 0 ∧ t.mem = applyChanges s.mem w.2.wq.reverse) ∧
          (r.1 = false → engEnded s t site.val 8 j 0x15 {} 0)))) ∧
  (∀ (s : State) (site : Fin 36) (j : EJob), engActive s.dev site.val 11 = some j →
    let x := rngDesc j.job.bytes
    let w := wrRanges s.dev.rest site.val ([(x.out, ((List.range x.count).map
      (rngElem x (streamSeed s.dev j.job.stream.toNat))).flatten)].filter (fun w => !w.2.isEmpty))
    w.1 = 0 → ∃ t, exec (.rngFill site) s = .next t ∧ engEnded s t site.val 11 j 0 {} 0 ∧
      t.mem = applyChanges s.mem w.2.wq.reverse) ∧
  (∀ (s : State) (site : Fin 36) (m : Fin 2) (j : EJob), engActive s.dev site.val (9 + m.val) = some j →
    let x := dmeDesc j.job.bytes
    let r := streamReq s.dev site.val j.job.stream.toNat
    let rows (d : Dev) := dmeRows ⟨s.fuses, s.mem⟩ site.val r x (List.range x.rows) d
    (∀ ext found, x.op = 0 →
      let d : Dev := { s.dev.rest with extIn := ext }
      let d := if x.srcLocal then eccAll d site.val ((List.range x.rows).map (fun i =>
        localKeys d site.val (rowAt x.src x.srcPitch i).toNat x.rowBytes)).flatten found else d
      ∃ t, exec (.dmeCopy site m ext found) s = .next t ∧ engEnded s t site.val (9 + m.val) j (rows d).1 {} 0 ∧
        ((rows d).1 = 0 → t.mem = applyChanges s.mem (rows d).2.wq.reverse)) ∧
    (x.op = 1 → ∃ t, exec (.dmeFill site m) s = .next t ∧ engEnded s t site.val (9 + m.val) j (rows s.dev.rest).1 {} 0 ∧
      ((rows s.dev.rest).1 = 0 → t.mem = applyChanges s.mem (rows s.dev.rest).2.wq.reverse)))

/-- GATHER and SCATTER of an active descriptor whose local ranges may be read move the rows of their indices in order
and complete with OK, or with the status of the first row that fails. FORWARD and RETURN whose parcels all go to this
package put one parcel after another on the way to its core and wait for as many answers; FORWARD writes its placement
array first. PARCEL_RECEIVE refuses a parcel whole, counting it in GDE_RXREJ and leaving memory as it was, or, into a
window of returned rows, makes exactly the writes of its tokens and counts them. PARCEL takes a middle cell of an
accepted parcel into it, and PARCEL_RSP counts an accepted answer, the last of which completes the descriptor. A write
of BASE, SHAPE or AUX of an armed window is discarded with a class C0 event; any other RXWIN_WRITE stores its
register. -/
def Obligations.GatherDispatchAndParcels : Prop :=
  (∀ (s : State) (site : Fin 36) (ext : List Byte) (j : EJob) (x : GDesc),
    let d : Dev := { s.dev.rest with extIn := ext }
    let r := streamReq s.dev site.val j.job.stream.toNat
    readStatus s.dev site.val x.reads = 0 →
    (gdeActive s.dev site.val 0 = some (j, x) →
      let w := gatherRows ⟨s.fuses, s.mem⟩ site.val r x (tRec j.block) (List.range x.count) d
      ∃ t, exec (.gather site ext) s = .next t ∧ engEnded s t site.val 7 j w.1 {} 0 ∧
        (w.1 = 0 → t.mem = applyChanges s.mem w.2.wq.reverse)) ∧
    (gdeActive s.dev site.val 1 = some (j, x) →
      let w := scatterRows ⟨s.fuses, s.mem⟩ site.val r x (tRec j.block) (List.range x.count) d
      ∃ t, exec (.scatter site ext) s = .next t ∧ engEnded s t site.val 7 j w.1 {} 0 ∧
        (w.1 = 0 → t.mem = applyChanges s.mem w.2.wq.reverse))) ∧
  (∀ (s : State) (site : Fin 36) (j : EJob) (x : GDesc), gdeActive s.dev site.val 2 = some (j, x) → j.await = 0 →
    let e : Env := ⟨s.fuses, s.mem⟩
    let route := (List.range (x.count * x.k)).map (fun i => localWord e s.dev.rest site.val (x.route + 4 * i) 4)
    let place := (List.range (x.count * x.k)).map (fun i =>
      if positionOf route i < bits (localWord e s.dev.rest site.val (x.table + 8 * route.getD i 0) 8) 47 32
      then positionOf route i else 0xFFFFFFFF)
    let ps := ((List.range x.nExp).map (forwardParcels e s.dev.rest site.val x route)).flatten
    let w := wrRanges s.dev.rest site.val [(x.aux, (place.map (leBytes 4)).flatten)]
    readStatus s.dev site.val x.reads = 0 → (∀ r ∈ route, r < x.nExp) → w.1 = 0 →
    s.dev.fab.remote.length + remoteParcels s.dev ps ≤ 65536 → ps ≠ [] → (∀ p ∈ ps, p.node = ownNode w.2) →
    ∃ t, exec (.gdeForward site) s = .next t ∧ t.mem = applyChanges s.mem w.2.wq.reverse ∧
      t.dev.fab.box = s.dev.fab.box ++ ps.map (fun p => ⟨p.core, site.val, j.job.stream.toNat, j.job.seq.toNat, false, p.bytes⟩) ∧
      engActive t.dev site.val 7 = some { j with await := ps.length, refused := false,
                                                 detail := if place.any (fun p => p == 0xFFFFFFFF) then 4 else 0 }) ∧
  (∀ (s : State) (site : Fin 36) (j : EJob) (x : GDesc) (n : Nat), gdeActive s.dev site.val 3 = some (j, x) → j.await = 0 →
    windowOfTags s.dev site.val x.route = some n →
    let cap := fget s.dev Reg.GDE_RXWIN_SHAPE [site.val, n] Fld.GDE_RXWIN_SHAPE_cap
    let ps := ((List.range x.count).map (returnParcels ⟨s.fuses, s.mem⟩ s.dev.rest site.val x n cap)).flatten
    readStatus s.dev site.val (x.reads ++ [(x.route, 8 * x.count * cap)]) = 0 →
    s.dev.fab.remote.length + remoteParcels s.dev ps ≤ 65536 → (∀ p ∈ ps, p.node = ownNode s.dev) →
    ∃ t, exec (.gdeReturn site) s = .next t ∧ t.mem = s.mem ∧ t.dev.regs = s.dev.regs ∧
      t.dev.fab.box = s.dev.fab.box ++ ps.map (fun p => ⟨p.core, site.val, j.job.stream.toNat, j.job.seq.toNat, true, p.bytes⟩) ∧
      (ps = [] → engEnded s t site.val 7 j 0 {} j.detail) ∧
      (ps ≠ [] → engActive t.dev site.val 7 = some { j with await := ps.length, refused := false })) ∧
  (∀ (s : State) (site : Fin 36) (m : ParcelMsg),
    s.dev.fab.box.find? (fun m => siteOfCore s.dev m.core == some site.val || (siteOfCore s.dev m.core).isNone) = some m →
    siteOfCore s.dev m.core = some site.val →
    let w := rxWin s.dev site.val (pWin m.bytes)
    let d : Dev := { s.dev.rest with fab := { s.dev.fab with box := s.dev.fab.box.erase m } }
    ∃ t, exec (.parcelReceive site) s = .next t ∧ t.dev.fab.box = s.dev.fab.box.erase m ∧
      (∀ r, parcelRefusal w (some m.ret) m.bytes = some r → t.mem = s.mem ∧ t.dev.ctr = s.dev.ctr ∧
        fget t.dev Reg.GDE_RXREJ [site.val] Fld.GDE_RXREJ_refused =
          min 0xFFFF (fget s.dev Reg.GDE_RXREJ [site.val] Fld.GDE_RXREJ_refused + 1) ∧
        fget t.dev Reg.GDE_RXREJ [site.val] Fld.GDE_RXREJ_last_win = pWin m.bytes ∧
        fget t.dev Reg.GDE_RXREJ [site.val] Fld.GDE_RXREJ_last_reason = r) ∧
      (parcelRefusal w (some m.ret) m.bytes = none → w.ret = true →
        t.mem = applyChanges s.mem (writeTokens d site.val w m.bytes (pTok m.bytes)).wq.reverse ∧
        getCtr t.dev w.counter =
          (ctrAdd (getCtr s.dev w.counter) (pTok m.bytes)).getD (getCtr s.dev w.counter))) ∧
  (∀ (s : State) (g : Nat) (c : Cell) (d : Dev) (p : ParcelIn), takeCell s.dev.rest 5 = some (g, c, d) →
    c.first = false → c.last = false → d.fab.parcels.find? (fun p => p.src == c.src && p.tag == c.tag) = some p →
    ∃ t, exec .parcelCell s = .next t ∧ t.dev.fab.cells = d.fab.cells ∧ t.dev.ctr = s.dev.ctr ∧
      (p.refused.isSome = true → t.mem = s.mem ∧ p ∈ t.dev.fab.parcels) ∧
      (p.refused = none → { p with bytes := p.bytes ++ c.data } ∈ t.dev.fab.parcels)) ∧
  (∀ (s : State) (g : Nat) (c : Cell) (d : Dev) (r : Remote) (site : Nat) (j : EJob),
    takeCell s.dev.rest 6 = some (g, c, d) → c.value % 256 = 0 → remoteAt s.dev c.tag = some r → r.site = some site →
    engActive s.dev site 7 = some j → j.job.stream.toNat = r.stream → j.job.seq.toNat = r.seq →
    ∃ t, exec .parcelRsp s = .next t ∧ t.mem = s.mem ∧ t.dev.fab.remote = Sparse.del s.dev.fab.remote c.tag ∧
      (j.await ≤ 1 → engEnded s t site 7 j (if j.refused then 0x14 else 0) {} j.detail) ∧
      (2 ≤ j.await → engActive t.dev site 7 = some { j with await := j.await - 1 })) ∧
  (∀ (s : State) (p : Path) (site : Fin 36) (win : Fin 16) (reg : Fin 4) (data : Word), pathPort p = none →
    let r := if reg = 0 then Reg.GDE_RXWIN_CTL else if reg = 1 then Reg.GDE_RXWIN_BASE
      else if reg = 2 then Reg.GDE_RXWIN_SHAPE else Reg.GDE_RXWIN_AUX
    let blocked := reg ≠ 0 ∧ (rxWin s.dev site.val win.val).armed = true
    ∃ t, exec (.rxwinWrite p site win reg data) s = .next t ∧ t.mem = s.mem ∧
      keepsRegs s.dev t.dev [r.key [site.val, win.val]] ∧
      (blocked → t.dev.regs = s.dev.regs ∧ t.dev.reports = s.dev.reports ++
        [{ source := 0x01, unit := pathUnit p, detail := low32 (r.key [site.val, win.val]) : Report }]) ∧
      (¬ blocked → t.dev.reports = s.dev.reports ∧
        rdReg t.dev r [site.val, win.val] = r.afterWrite false (rdReg s.dev r [site.val, win.val]) data))

/-- A write through the bit-set or bit-clear alias of a core's window, main banks or mailboxes, by a requester that
may reach the core, to banks that accept it and words without poison or error: every enabled byte becomes the old byte
OR the data, or AND its complement; bytes not enabled and every byte outside the written ones are unchanged, and no
poison mark changes. -/
def Obligations.AliasWritesSetAndClear : Prop :=
  ∀ (s : State) (src : Source) (core : Fin 32) (off : BitVec 28) (data : List Byte) (enables : List Bool) (site o : Nat)
    (mbx clear : Bool), enables.length = data.length → siteOfCore s.dev core.val = some site →
    windowView off.toNat data.length = some (if clear then .clear else .set, mbx, o) →
    srcAdmits s.dev src (partOfCore s.dev core.val) = true →
    let ks := windowKeys s.dev site mbx o data.length
    (∀ b ∈ banksOf ks, bankRefuses s.dev site b = false) → anyPoison s.dev ks = false →
    ∃ t, exec (.aliasWrite src core off data enables []) s = .next t ∧ t.dev.poison = s.dev.poison ∧
      (∀ i, i < data.length → t.byte (ks.getD i 0) =
        if enables.getD i false then
          (if clear then s.byte (ks.getD i 0) &&& ~~~(data.getD i 0) else s.byte (ks.getD i 0) ||| data.getD i 0)
        else s.byte (ks.getD i 0)) ∧
      ∀ k, k ∉ ks → t.byte k = s.byte k

/-- An access to the window of a core by a requester that may reach it, to banks that accept it: a read in any view
returns the bytes where no word is poisoned and the POISON error otherwise, and changes no memory; a write of part of
a word in the normal view changes exactly the enabled bytes. An access to a reserved offset, across two views, to a
core without a site, or to a bank that refuses, is answered with NOTARGET, changes no byte and records the class C0
event. -/
def Obligations.CoreWindowAccess : Prop :=
  ∀ (s : State) (src : Source) (core : Fin 32) (off : BitVec 28), srcAdmits s.dev src (partOfCore s.dev core.val) = true →
    let refused (op : MemOp) (found : List EccFound) (coll : Option Collision) : Prop :=
      ∃ t, exec (.coreWindowAccess src core off op found coll) s = .next t ∧ t.mem = s.mem ∧ t.dev.poison = s.dev.poison ∧
        t.dev.out = s.dev.out ++ [.memErr src .noTarget] ∧
        t.dev.reports = s.dev.reports ++ [{ source := 0x02, unit := srcUnit src, detail := low32 (off.toNat / 8),
                                            part := srcPart s.dev src : Report }]
    (∀ op found coll, siteOfCore s.dev core.val = none ∨ windowView off.toNat (opLen op) = none → refused op found coll) ∧
    (∀ (site o : Nat) (view : View) (mbx : Bool), siteOfCore s.dev core.val = some site →
      (∀ op found coll, windowView off.toNat (opLen op) = some (view, mbx, o) →
        (∃ b ∈ banksOf (windowKeys s.dev site mbx o (opLen op)), bankRefuses s.dev site b = true) → refused op found coll) ∧
      (∀ n : Nat, windowView off.toNat n = some (view, mbx, o) →
        let ks := windowKeys s.dev site mbx o n
        (∀ b ∈ banksOf ks, bankRefuses s.dev site b = false) →
        ∃ t, exec (.coreWindowAccess src core off (.read n) [] none) s = .next t ∧ t.mem = s.mem ∧
          t.dev.out = s.dev.out ++ [if anyPoison s.dev ks then .memErr src .poison else .memData src (ks.map s.byte)]) ∧
      (∀ (data : List Byte) (enables : List Bool), windowView off.toNat data.length = some (.normal, mbx, o) →
        enables.length = data.length →
        let ks := windowKeys s.dev site mbx o data.length
        (∀ b ∈ banksOf ks, bankRefuses s.dev site b = false) → anyPoison s.dev ks = false →
        ∃ t, exec (.partialWordWrite src core off data enables []) s = .next t ∧ t.dev.poison = s.dev.poison ∧
          (∀ i, i < data.length → t.byte (ks.getD i 0) =
            if enables.getD i false then data.getD i 0 else s.byte (ks.getD i 0)) ∧
          ∀ k, k ∉ ks → t.byte k = s.byte k))

/-- CMEM_MAP_WRITE is stored while the core is quiet and discarded with a class C0 event otherwise. BANK_MODE_WRITE of
a reserved mode, or to a bank under march or fenced, is discarded with the event; any other stores the mode and begins
the transition of Table 5.6 from a settled state. BANK_AUTO_IDLE moves an idle AUTO bank toward RET.
BANK_TRANSITION_DONE reaches its target, and OFF loses the contents. The scrubber counts and records a corrected word.
A march request is refused with its reason, or starts; MARCH_DONE leaves the bank as it is on a pass, with zeros after
a destructive march, and fences it on a failure. -/
def Obligations.BankStatesScrubAndMarch : Prop :=
  (∀ (s : State) (p : Path) (site : Fin 36) (data : Word), pathPort p = none →
    ∃ t, exec (.cmemMapWrite p site data) s = .next t ∧ t.mem = s.mem ∧ keepsRegs s.dev t.dev [Reg.CMEM_CFG.key [site.val]] ∧
      (siteQuiet s.dev site.val = true → t.dev.reports = s.dev.reports ∧ rdReg t.dev Reg.CMEM_CFG [site.val] =
        Reg.CMEM_CFG.afterWrite (fbit s.dev Reg.CMEM_CFG [site.val] Fld.CMEM_CFG_lock) (rdReg s.dev Reg.CMEM_CFG [site.val]) data) ∧
      (siteQuiet s.dev site.val = false → t.dev.regs = s.dev.regs ∧ t.dev.reports.length = s.dev.reports.length + 1)) ∧
  (∀ (s : State) (p : Path) (site : Fin 36) (bank : Fin 34) (data : Word), pathPort p = none → siteState s.dev site.val ≠ 1 →
    let m := Fld.CMEM_BANK_mode.get data
    let st := bankState s.dev site.val bank.val
    let goal := modeState m st
    let bad := 5 ≤ m ∨ fbit s.dev Reg.CMEM_BANK [site.val, bank.val] Fld.CMEM_BANK_march = true ∨ st = 6
    ∃ t, exec (.bankModeWrite p site bank data) s = .next t ∧ t.mem = s.mem ∧
      keepsRegs s.dev t.dev [Reg.CMEM_BANK.key [site.val, bank.val]] ∧
      (bad → t.dev.regs = s.dev.regs ∧ t.dev.reports.length = s.dev.reports.length + 1) ∧
      (¬ bad → t.dev.reports = s.dev.reports ∧ bankMode t.dev site.val bank.val = m ∧ bankState t.dev site.val bank.val =
        if st = 4 ∨ st = 5 ∨ st = goal then st
        else if (st = 0 ∨ st = 3) ∧ (goal = 0 ∨ goal = 3) then goal
        else if st = 2 ∨ (st = 1 ∧ goal ≠ 2) then 5 else 4)) ∧
  (∀ (s : State) (site : Fin 36) (bank : Fin 34), bankMode s.dev site.val bank.val = 1 →
    bankState s.dev site.val bank.val = 0 → latFits (siteLat s.dev site.val) 150 = true →
    ∃ t, exec (.bankAutoIdle site bank) s = .next t ∧ t.mem = s.mem ∧ bankState t.dev site.val bank.val = 4 ∧
      Sparse.get 0 (Sparse.get {} t.dev.cmem site.val).target bank.val = 1) ∧
  (∀ (s : State) (site : Fin 36) (bank : Fin 34),
    let goal := Sparse.get 0 (Sparse.get {} s.dev.cmem site.val).target bank.val
    let cells := bankCells site.val bank.val
    bankState s.dev site.val bank.val = 4 ∨ bankState s.dev site.val bank.val = 5 →
    modeState (bankMode s.dev site.val bank.val) goal = goal →
    ∃ t, exec (.bankTransitionDone site bank) s = .next t ∧ bankState t.dev site.val bank.val = goal ∧
      bankMode t.dev site.val bank.val = bankMode s.dev site.val bank.val ∧
      ∀ k, t.byte k = if goal = 2 ∧ cells.1 ≤ k ∧ k < cells.1 + cells.2 then 0 else s.byte k) ∧
  (∀ (s : State) (site : Fin 36) (bank : Fin 34) (row : BitVec 13) (w : Nat),
    fbit s.dev Reg.CMEM_SCRUB [site.val] Fld.CMEM_SCRUB_enable = true → bankState s.dev site.val bank.val = 0 →
    row.toNat < bankRows bank.val → 8 * w < (if bank.val < 32 then 256 else 64) →
    poisoned s.dev (wordMark (rowKey site.val bank.val row.toNat + 8 * w)) = false →
    ∃ t, exec (.cmemScrubAccess site bank row [⟨w, .single⟩]) s = .next t ∧ t.mem = s.mem ∧ t.dev.poison = s.dev.poison ∧
      keepsRegs s.dev t.dev [Reg.CMEM_ECC.key [site.val]] ∧ t.dev.reports.length = s.dev.reports.length + 1 ∧
      fget t.dev Reg.CMEM_ECC [site.val] Fld.CMEM_ECC_corrected =
        min 0xFFFF (fget s.dev Reg.CMEM_ECC [site.val] Fld.CMEM_ECC_corrected + 1)) ∧
  (∀ (s : State) (p : Path) (site : Fin 36) (data : Word), pathPort p = none → Fld.CMEM_MARCH_CTL_go.get data = 1 →
    let b := Fld.CMEM_MARCH_CTL_bank.get data
    let kind := Fld.CMEM_MARCH_CTL_kind.get data
    let why := marchReason s.dev site.val b kind
    ∃ t, exec (.cmemMarchCtlGo p site data) s = .next t ∧ t.mem = s.mem ∧
      fget t.dev Reg.CMEM_MARCH_STAT [site.val] Fld.CMEM_MARCH_STAT_reason = why ∧
      fget t.dev Reg.CMEM_MARCH_STAT [site.val] Fld.CMEM_MARCH_STAT_bank = b ∧
      (why ≠ 0 → t.dev.cmem = s.dev.cmem ∧ fget t.dev Reg.CMEM_MARCH_STAT [site.val] Fld.CMEM_MARCH_STAT_result = 2) ∧
      (why = 0 → (Sparse.get {} t.dev.cmem site.val).march = some ⟨b, kind⟩ ∧
        fbit t.dev Reg.CMEM_BANK [site.val, b] Fld.CMEM_BANK_march = true)) ∧
  (∀ (s : State) (site : Fin 36) (pass : Bool) (element : BitVec 3) (row : BitVec 13) (failed skipped : BitVec 16) (m : March),
    (Sparse.get {} s.dev.cmem site.val).march = some m → m.bank < 34 →
    let cells := bankCells site.val m.bank
    ∃ t, exec (.marchDone site pass element row failed skipped) s = .next t ∧
      (Sparse.get {} t.dev.cmem site.val).march = none ∧
      fget t.dev Reg.CMEM_MARCH_STAT [site.val] Fld.CMEM_MARCH_STAT_result = (if pass then 0 else 1) ∧
      bankState t.dev site.val m.bank = (if pass then bankState s.dev site.val m.bank else 6) ∧
      t.dev.reports.length = s.dev.reports.length + (if pass then 0 else 1) ∧
      ∀ k, t.byte k = if m.kind = 0 ∧ cells.1 ≤ k ∧ k < cells.1 + cells.2 then 0 else s.byte k)

/-- Through a path that owns the selected stream: a context register is stored while enable is 0 and discarded with a
class C0 event while it is 1. Setting enable stores the fields and checks the context: RUN with every count 0, or
cfg_err with enable 0. Clearing enable on a RUN stream with nothing submitted beyond its commits and nothing pending
leaves it OFF and holding no lock. An SQ_TAIL, CQ_HEAD, ABORT or RESTART value is accepted under the conditions of its
rule and discarded with db_err, or abort_ovr, and a class C0 event otherwise. A doorbell access of another size,
alignment or offset changes no stream. -/
def Obligations.StreamContextAndDoorbells : Prop :=
  (∀ (s : State) (p : Path) (data : Word), portHalted s.dev p = false →
    let st := selected s.dev p
    pathOwns s.dev p (partOfStream s.dev st) = true →
    (∀ (off : BitVec 8) (r : RegDesc), strmReg (off.toNat / 4 * 4) = some r → off.toNat / 4 * 4 ≠ 0x04 → off.toNat / 4 * 4 ≠ 0x30 →
      ∃ t, exec (.streamCfgWrite p off data) s = .next t ∧ t.mem = s.mem ∧ t.dev.strm = s.dev.strm ∧
        (strmOn s.dev st = false → t.dev.reports = s.dev.reports ∧ keepsRegs s.dev t.dev [r.key [st]] ∧
          rdReg t.dev r [st] = r.afterWrite false (rdReg s.dev r [st]) data) ∧
        (strmOn s.dev st = true → t.dev.regs = s.dev.regs ∧ t.dev.reports.length = s.dev.reports.length + 1)) ∧
    (∃ t, exec (.streamEnable p data) s = .next t ∧ t.mem = s.mem ∧
      let d := Reg.HUB_STRM_CFG.store s.dev.rest [st] false (Fld.HUB_STRM_CFG_enable.put data 0)
      (strmOn s.dev st = true → t.dev.regs = s.dev.regs ∧ t.dev.reports.length = s.dev.reports.length + 1) ∧
      (strmOn s.dev st = false → contextOk d st = true → strmOn t.dev st = true ∧ strmState t.dev st = 1 ∧
        cnt t.dev st Reg.HUB_STRM_TAIL = 0 ∧ cnt t.dev st Reg.HUB_STRM_FETCH = 0 ∧ cnt t.dev st Reg.HUB_STRM_COMMIT = 0 ∧
        cnt t.dev st Reg.HUB_STRM_CQT = 0 ∧ cnt t.dev st Reg.HUB_STRM_CQH = 0 ∧ (getStrm t.dev st).held = []) ∧
      (strmOn s.dev st = false → contextOk d st = false → strmOn t.dev st = false ∧
        fbit t.dev Reg.HUB_STRM_STAT [st] Fld.HUB_STRM_STAT_cfg_err = true ∧ t.dev.strm = s.dev.strm)) ∧
    (∀ ext, strmOn s.dev st = true → strmState s.dev st = 1 →
      cnt s.dev st Reg.HUB_STRM_TAIL = cnt s.dev st Reg.HUB_STRM_COMMIT →
      (getStrm s.dev st).held = [] → (getStrm s.dev st).recs = [] → (getStrm s.dev st).abort = none →
      (getStrm s.dev st).goal = none → (getStrm s.dev st).stopping = false →
      ∃ t, exec (.streamDisable p data ext) s = .next t ∧ t.mem = s.mem ∧ strmState t.dev st = 0 ∧ strmOn t.dev st = false ∧
        ∀ c, (getCtr t.dev c).holder ≠ some st)) ∧
  (∀ (s : State) (p : Path) (stream : BitVec 16) (data : BitVec 64), devHalted s.dev = false →
    let st := stream.toNat
    let v := data.toNat % 2 ^ 32
    let tail := cnt s.dev st Reg.HUB_STRM_TAIL
    let commit := cnt s.dev st Reg.HUB_STRM_COMMIT
    pageHeld s.dev p st = true →
    let discarded (t : State) : Prop := t.dev.strm = s.dev.strm ∧ t.dev.reports.length = s.dev.reports.length + 1 ∧
      fbit t.dev Reg.HUB_STRM_STAT [st] Fld.HUB_STRM_STAT_db_err = true ∧
      keepsRegs s.dev t.dev [Reg.HUB_STRM_STAT.key [st]]
    (∃ t, exec (.sqTail p stream data) s = .next t ∧ t.mem = s.mem ∧
      if strmState s.dev st ≠ 0 ∧ ge32 v tail = true ∧ sub32 v commit ≤ 2 ^ (subRing s.dev st).2.2
      then cnt t.dev st Reg.HUB_STRM_TAIL = v ∧ t.dev.reports = s.dev.reports ∧ strmState t.dev st = strmState s.dev st
      else discarded t) ∧
    (∃ t, exec (.cqHead p stream data) s = .next t ∧ t.mem = s.mem ∧
      if strmState s.dev st ≠ 0 ∧ ge32 (cnt s.dev st Reg.HUB_STRM_CQT) v = true ∧ ge32 v (cnt s.dev st Reg.HUB_STRM_CQH) = true
      then cnt t.dev st Reg.HUB_STRM_CQH = v ∧ t.dev.reports = s.dev.reports ∧
        keepsRegs s.dev t.dev [Reg.HUB_STRM_CQH.key [st]]
      else discarded t) ∧
    (∃ t, exec (.strmAbort p stream data) s = .next t ∧ t.mem = s.mem ∧
      if strmState s.dev st = 0 then discarded t
      else if (getStrm s.dev st).abort.isSome then
        t.dev.strm = s.dev.strm ∧ t.dev.reports.length = s.dev.reports.length + 1 ∧
          fbit t.dev Reg.HUB_STRM_STAT [st] Fld.HUB_STRM_STAT_abort_ovr = true
      else (getStrm t.dev st).abort = some v ∧ t.dev.reports = s.dev.reports ∧
        fbit t.dev Reg.HUB_STRM_STAT [st] Fld.HUB_STRM_STAT_abort_pend = true) ∧
    (∃ t, exec (.strmRestart p stream data) s = .next t ∧ t.mem = s.mem ∧
      if strmState s.dev st = 2 ∧ ge32 v commit = true ∧ ge32 tail v = true then
        strmState t.dev st = 1 ∧ cnt t.dev st Reg.HUB_STRM_COMMIT = v ∧ cnt t.dev st Reg.HUB_STRM_FETCH = v ∧
          t.dev.reports = s.dev.reports ∧
          (getStrm t.dev st).recs = (getStrm s.dev st).recs ++ [mkRec s.dev st v 0 0]
      else discarded t)) ∧
  (∀ (s : State) (p : Path) (off : BitVec 28) (size : Nat) (data : BitVec 64), devHalted s.dev = false →
    size ≠ 8 ∨ 0x20 ≤ off.toNat % 0x1000 ∨ off.toNat % 8 ≠ 0 →
    ∃ t, exec (.doorbellBadAccess p off size (some data)) s = .next t ∧ t.mem = s.mem ∧ t.dev.regs = s.dev.regs ∧
      t.dev.strm = s.dev.strm ∧ t.dev.reports.length = s.dev.reports.length + 1)

/-- A stream that may fetch holds the next ring entry, checked by its header, and counts it; a read that fails holds
it as done with FETCH_ERR. WAITER_SATISFIED marks the waited counter reached, or decides POISONED. LOCK_GRANTED gives
a free counter to the first waiting locker whose slot is its next. DESCRIPTOR_DISPATCH of a descriptor whose waits are
met, whose barrier is met, on a RUN stream that nothing holds back, puts it on its way to a free unit of its engine,
where no other ready stream of the core is served first, by its priority or the rotation; where one is, nothing
changes. A stream that may not fetch is as it was. -/
def Obligations.StreamFetchWaitAndDispatch : Prop :=
  (∀ (s : State) (stream : BitVec 16) (ext : List Byte) (er : MemErr),
    let st := stream.toNat
    let q := cnt s.dev st Reg.HUB_STRM_FETCH
    let r := readEntry ⟨s.fuses, s.mem⟩ { s.dev.rest with extIn := ext } st q
    let failed : SDesc := { seq := q, bytes := leBytes 64 0, phase := .done, status := 0x88 }
    let held (t : State) (n : Nat) (x : SDesc) : Prop := cnt t.dev st Reg.HUB_STRM_FETCH = (n + 1) % 2 ^ 32 ∧
      (getStrm t.dev st).held = (getStrm s.dev st).held ++ [x]
    let n := cnt r.2 st Reg.HUB_STRM_FETCH
    (mayFetch s.dev st = false →
      exec (.descriptorFetch stream ext) s = .next { s with dev := s.dev.rest } ∧
      exec (.fetchErr stream er) s = .next { s with dev := s.dev.rest }) ∧
    (mayFetch s.dev st = true → (∃ t, exec (.fetchErr stream er) s = .next t ∧ t.mem = s.mem ∧ held t q failed) ∧
      ∃ t, exec (.descriptorFetch stream ext) s = .next t ∧ ((subRing s.dev st).2.1 = false → t.mem = s.mem ∧ n = q) ∧
        held t n (match r.1 with
          | .ok b => { seq := n, bytes := b, phase := if headerStatus r.2 st b = 0 then .fetched else .done,
                       status := headerStatus r.2 st b }
          | .error _ => { failed with seq := n }))) ∧
  (∀ (s : State) (stream : BitVec 16) (x : SDesc), nextDesc s.dev stream.toNat = some x → hWaitEn x.bytes = true →
    x.waited = false → hEngine x.bytes ≠ 8 →
    let c := getCtr s.dev (hWaitCtr x.bytes)
    let becomes (y : SDesc) : Prop := ∃ t, exec (.waiterSatisfied stream) s = .next t ∧ t.mem = s.mem ∧ t.dev.regs = s.dev.regs ∧
      (getStrm t.dev stream.toNat).held = (getStrm s.dev stream.toNat).held.map (fun z => if z.seq = x.seq then y else z)
    (c.poison = true → becomes { x with waitOn := none, phase := .done, status := 0x84 }) ∧
    (c.poison = false → hWaitVal x.bytes ≤ c.value → becomes { x with waited := true, waitOn := none })) ∧
  (∀ (s : State) (ctr : BitVec 16) (stream : BitVec 16) (rest : List Nat) (x : SDesc),
    let c := getCtr s.dev ctr.toNat
    c.holder = none → c.waiters = stream.toNat :: rest → c.poison = false → nextDesc s.dev stream.toNat = some x →
    hEngine x.bytes = 8 → hWaitEn x.bytes = false → x.slots < 4 → (slotOf x.bytes x.slots).op = 5 →
    (slotOf x.bytes x.slots).counter = ctr.toNat →
    ∃ t, exec (.lockGranted ctr) s = .next t ∧ t.mem = s.mem ∧ t.dev.regs = s.dev.regs ∧
      (getCtr t.dev ctr.toNat).holder = some stream.toNat) ∧
  (∀ (s : State) (stream : BitVec 16) (x : SDesc) (site u : Nat),
    let st := stream.toNat
    nextDesc s.dev st = some x → strmSite s.dev st = some site → strmState s.dev st = 1 →
    (getStrm s.dev st).stopping = false → hEngine x.bytes < 8 → (hWaitEn x.bytes = true → x.waited = true) →
    (hBarrier x.bytes = true → isFollower x.bytes = false → cnt s.dev st Reg.HUB_STRM_COMMIT = x.seq) →
    dispatchHeld s.dev st site = false → pickUnit s.dev site x.bytes = some u →
    (outranked s.dev st = true → exec (.descriptorDispatch stream) s = .next { s with dev := s.dev.rest }) ∧
    (outranked s.dev st = false →
    ∃ t, exec (.descriptorDispatch stream) s = .next t ∧ t.mem = s.mem ∧
      t.dev.handoff = s.dev.handoff ++ [⟨site, u, ⟨stream, BitVec.ofNat 32 x.seq, x.bytes⟩⟩] ∧
      (getStrm t.dev st).held = (getStrm s.dev st).held.map (fun z => if z.seq = x.seq then
        { x with phase := .dispatched, sent := some s.dev.tb,
                 unit := if 1 ≤ u ∧ u ≤ 4 then u - 1 else if u = 10 then 1 else 0 } else z) ∧
      ∀ b, b < 65536 → b ≠ st → strmCfg s.dev b Fld.HUB_STRM_CFG_prio = strmCfg s.dev st Fld.HUB_STRM_CFG_prio →
        servedBefore t.dev (strmCore s.dev st) b st = true))

/-- DESCRIPTOR_DONE with one descriptor held, dispatched and now reported, commits it where a record has room and no
earlier one waits: the commit count passes it and the stream stops where its status stops it. SYNC and WADV at the
head of a RUN stream commit, with SYNC_REFUSED where a slot is refused and RECORD where the record's update fails. A
waiting record goes to the ring of host memory and the completion count advances, as it does for a lost one, which
sets cq_err. STREAM_STOP leaves nothing held and no lock. STREAM_TIMEOUT decides TIMEOUT and records it. A pending
abort below the commit count, or at or above the submission count, writes its result and changes nothing; one of the
head decides it. -/
def Obligations.StreamCommitRecordsAndStops : Prop :=
  (∀ (s : State) (stream : BitVec 16) (x : SDesc) (r : EngDone),
    let st := stream.toNat
    let z := getStrm s.dev st
    s.dev.engDone.find? (fun r => r.stream.toNat == st) = some r → z.held = [x] → x.phase = .dispatched →
    x.seq = r.seq.toNat → hEngine x.bytes < 8 → z.stopping = false → recRoom s.dev st = true → strmState s.dev st = 1 →
    z.abort ≠ some x.seq → z.disabling = false → devHalted s.dev = false →
    ∃ t, exec (.descriptorDone stream) s = .next t ∧ t.mem = s.mem ∧ t.dev.engDone = s.dev.engDone.erase r ∧
      (getStrm t.dev st).held = [] ∧ cnt t.dev st Reg.HUB_STRM_COMMIT = (x.seq + 1) % 2 ^ 32 ∧
      (getStrm t.dev st).stopping = statusStops s.dev st r.status) ∧
  (∀ (s : State) (stream : BitVec 16) (x : SDesc) (rest : List SDesc),
    let st := stream.toNat
    let z := getStrm s.dev st
    z.held = x :: rest → x.phase = .done → x.status = 0 → z.stopping = false → recRoom s.dev st = true →
    strmState s.dev st = 1 → z.abort ≠ some x.seq → z.disabling = false → devHalted s.dev = false →
    let committed (t : State) (status : Nat) : Prop := (getStrm t.dev st).held = rest ∧
      cnt t.dev st Reg.HUB_STRM_COMMIT = (x.seq + 1) % 2 ^ 32 ∧
      fget t.dev Reg.HUB_STRM_STAT [st] Fld.HUB_STRM_STAT_last_status = status
    (∀ ok d, hEngine x.bytes = 8 → commitSlots st x.seq x.bytes 5 0 s.dev.rest = some (ok, d) →
      ∃ t, exec (.syncDesc stream) s = .next t ∧ committed t (if ok then 0 else 0x87)) ∧
    (hEngine x.bytes = 9 → ∃ t, exec (.wadv stream) s = .next t ∧ committed t
      (match (pkgAtomic ⟨s.fuses, s.mem⟩ s.dev.rest (schedReq s.dev st) (dfield x.bytes 16 51 0) .recAdvance).1 with
        | .ok _ => 0 | .error _ => 0x06))) ∧
  (∀ (s : State) (stream : BitVec 16) (c : CRec) (cs : List CRec) (er : MemErr),
    let st := stream.toNat
    let r := compRing s.dev st
    let n := cnt s.dev st Reg.HUB_STRM_CQT
    (getStrm s.dev st).recs = c :: cs → devHalted s.dev = false →
    (sub32 n (cnt s.dev st Reg.HUB_STRM_CQH) < 2 ^ r.2.2 → r.2.1 = false → ∀ port, strmPort s.dev st = some port →
      portUp s.dev port = true →
      ∃ t, exec (.completionRecordWrite stream .ok) s = .next t ∧ t.mem = s.mem ∧ (getStrm t.dev st).recs = cs ∧
        cnt t.dev st Reg.HUB_STRM_CQT = (n + 1) % 2 ^ 32 ∧
        .hostWrite port (r.1 + 32 * (n % 2 ^ r.2.2)) (recBytes st c ((n / 2 ^ r.2.2) % 2 == 0)) ∈ t.dev.out) ∧
    (2 ^ r.2.2 ≤ sub32 n (cnt s.dev st Reg.HUB_STRM_CQH) →
      exec (.completionRecordWrite stream .ok) s = .next { s with dev := s.dev.rest }) ∧
    (∃ t, exec (.recordWriteError stream er) s = .next t ∧ t.mem = s.mem ∧ (getStrm t.dev st).recs = cs ∧
      cnt t.dev st Reg.HUB_STRM_CQT = (n + 1) % 2 ^ 32 ∧
      fbit t.dev Reg.HUB_STRM_STAT [st] Fld.HUB_STRM_STAT_cq_err = true ∧
      (strmState s.dev st = 1 → (getStrm s.dev st).goal = none → (getStrm t.dev st).stopping = true))) ∧
  (∀ (s : State) (stream : BitVec 16), (getStrm s.dev stream.toNat).stopping = true →
    ∃ t, exec (.streamStop stream) s = .next t ∧ (getStrm t.dev stream.toNat).held = [] ∧
      (getStrm t.dev stream.toNat).stopping = false ∧ (getStrm t.dev stream.toNat).abort = none ∧
      ∀ c, (getCtr t.dev c).holder ≠ some stream.toNat) ∧
  (∀ (s : State) (stream : BitVec 16) (seq : BitVec 32) (x : SDesc),
    (getStrm s.dev stream.toNat).held.find? (fun x => x.seq == seq.toNat && x.phase == .dispatched) = some x →
    fget s.dev Reg.HUB_STRM_LIMIT [stream.toNat] Fld.HUB_STRM_LIMIT_limit_us ≠ 0 →
    ∃ t y, exec (.streamTimeout stream seq) s = .next t ∧ t.dev.reports.length = s.dev.reports.length + 1 ∧
      y.phase = .done ∧ y.status = 0x82 ∧ y.bytes = x.bytes ∧
      (getStrm t.dev stream.toNat).held = (getStrm s.dev stream.toNat).held.map (fun z => if z.seq = x.seq then y else z)) ∧
  (∀ (s : State) (stream : BitVec 16) (ext : List Byte) (a : Nat),
    let st := stream.toNat
    let z := getStrm s.dev st
    let commit := cnt s.dev st Reg.HUB_STRM_COMMIT
    z.abort = some a → z.stopping = false → z.goal = none → z.disabling = false →
    let result (status : Nat) : Prop := ∃ t, exec (.abortDecided stream ext) s = .next t ∧ t.mem = s.mem ∧
      (getStrm t.dev st).held = z.held ∧ (getStrm t.dev st).abort = none ∧
      (getStrm t.dev st).recs = z.recs ++ [mkRec s.dev st a status 1] ∧
      keepsRegs s.dev t.dev [Reg.HUB_STRM_STAT.key [st]]
    (ge32 a commit = false → result 0x91) ∧
    (ge32 a commit = true → ge32 a (cnt s.dev st Reg.HUB_STRM_TAIL) = true → result 0x92) ∧
    (∀ (y : SDesc) (rest : List SDesc), a = commit → ge32 a (cnt s.dev st Reg.HUB_STRM_TAIL) = false →
      strmState s.dev st = 1 → recRoom s.dev st = true → z.held = y :: rest →
      ∃ t, exec (.abortDecided stream ext) s = .next t ∧ (getStrm t.dev st).held = rest ∧
        (getStrm t.dev st).stopping = true ∧ (getStrm t.dev st).taken = true ∧
        cnt t.dev st Reg.HUB_STRM_COMMIT = (y.seq + 1) % 2 ^ 32 ∧
        fget t.dev Reg.HUB_STRM_STAT [st] Fld.HUB_STRM_STAT_last_status = 0x80))

/-- STREAM_REFETCH of a RECOVERING stream whose core has a site again sets RUN and changes no count. STREAMS_LOST of a
core without a site, with one stream bound to it that holds nothing uncommitted and has no record waiting and no abort
pending, leaves that stream LOST. -/
def Obligations.StreamRecovery : Prop :=
  (∀ (s : State) (stream : BitVec 16), strmState s.dev stream.toNat = 3 → (strmSite s.dev stream.toNat).isSome = true →
    ∃ t, exec (.streamRefetch stream) s = .next t ∧ t.mem = s.mem ∧ strmState t.dev stream.toNat = 1 ∧
      keepsRegs s.dev t.dev [Reg.HUB_STRM_STAT.key [stream.toNat]] ∧ (getStrm t.dev stream.toNat).recov = []) ∧
  (∀ (s : State) (core : Fin 32) (st : Nat), siteOfCore s.dev core.val = none → boundStreams s.dev core.val = [st] →
    strmState s.dev st ≠ 4 → (getStrm s.dev st).held = [] → (getStrm s.dev st).recov = [] → (getStrm s.dev st).recs = [] →
    (getStrm s.dev st).abort = none → (getStrm s.dev st).disabling = false →
    ∃ t, exec (.streamsLost core) s = .next t ∧ t.mem = s.mem ∧ strmState t.dev st = 4 ∧
      cnt t.dev st Reg.HUB_STRM_FETCH = cnt s.dev st Reg.HUB_STRM_COMMIT ∧ ∀ c, (getCtr t.dev c).holder ≠ some st)

/-- Through a path that owns the counter: ADD adds, or saturates and poisons; MAX keeps the larger; both are refused
while it is poisoned; SET stores the value, advances the epoch and clears the poison, refused while the counter is
locked; RESET is never refused. A refused operation is discarded with a class C0 event, as is a write of another size.
No other counter and no register changes. No operation that leaves the epoch lowers the value. An aligned 8-byte read
answers the counter word. -/
def Obligations.CounterOperations : Prop :=
  (∀ (s : State) (p : Path) (c : BitVec 16) (v : Word), portHalted s.dev p = false →
    pathOwns s.dev p (partOfCounter s.dev c.toNat) = true →
    let x := getCtr s.dev c.toNat
    let becomes (i : Instr) (y : Option Ctr) : Prop := ∃ t, exec i s = .next t ∧ t.mem = s.mem ∧ t.dev.regs = s.dev.regs ∧
      getCtr t.dev c.toNat = y.getD x ∧ (∀ k, k ≠ c.toNat → getCtr t.dev k = getCtr s.dev k) ∧
      t.dev.reports.length = s.dev.reports.length + (if y.isSome then 0 else 1)
    becomes (.counterAdd p c v) (if x.poison then none
      else if 2 ^ 32 ≤ x.value + v.toNat then some { x with value := 2 ^ 32 - 1, poison := true }
      else some { x with value := x.value + v.toNat }) ∧
    becomes (.counterMax p c v) (if x.poison then none else some { x with value := max x.value v.toNat }) ∧
    becomes (.counterSet p c v) (if x.holder.isSome then none
      else some { x with value := v.toNat, epoch := (x.epoch + 1) % 2 ^ 16, poison := false }) ∧
    becomes (.counterReset p c)
      (some { x with value := 0, epoch := (x.epoch + 1) % 2 ^ 16, poison := false, holder := none }) ∧
    (∃ t, exec (.syncWindowBadAccess p (BitVec.ofNat 19 (8 * c.toNat)) 8 none) s = .next t ∧ t.mem = s.mem ∧
      t.dev.ctr = s.dev.ctr ∧ t.dev.reports = s.dev.reports ∧
      t.dev.out = s.dev.out ++ [.regData p [low32 (ctrWord x), high32 (ctrWord x)]]) ∧
    (∀ (off : BitVec 19) (size : Nat) (data : BitVec 64), size ≠ 8 ∨ off.toNat % 8 ≠ 0 →
      ∃ t, exec (.syncWindowBadAccess p off size (some data)) s = .next t ∧ t.mem = s.mem ∧ t.dev.ctr = s.dev.ctr ∧
        t.dev.reports.length = s.dev.reports.length + 1)) ∧
  (∀ (x y : Ctr) (who : Option Nat) (op v : Nat), ctrApply x who op v = some y → x.value < 2 ^ 32 → x.epoch < 2 ^ 16 →
    v < 2 ^ 32 → y.value < 2 ^ 32 ∧ y.epoch < 2 ^ 16 ∧ (y.epoch = x.epoch → x.value ≤ y.value) ∧
    (y.epoch ≠ x.epoch → y.poison = false))

/-- In a state with no cached copy recorded and no transaction: each of the seven home atomics, in the HBM region over
at most two lines or in the normal view of a core window, applies the function of Table 7.7 to the old bytes, returns
the old value or nothing, and changes no other byte. Addressed to host memory, a guest window, an alias, or an address
with no target it completes with NOTARGET and changes nothing. WRLINE writes the whole line and clears its poison;
WRPART writes the enabled bytes, and one that enables some bytes but not all of a poisoned line is refused with
POISON. -/
def Obligations.HomeAtomicsAndWrites : Prop :=
  ∀ (s : State) (src : Source) (addr : BitVec 52),
    let d := s.dev.rest
    let a := addr.toNat
    let quiet := s.dev.coh.dir = [] ∧ s.dev.coh.txns = [] ∧ s.dev.coh.waiting = []
    let reach (len : Nat) (ks : List Nat) : Prop := reachErr d ⟨src, srcPart d src⟩ a len = none ∧
      ((quiet ∧ targetOf d a len = .hbm ∧ (a + len - 1) / 128 ≤ a / 128 + 1 ∧ ks = hbmKeys d a len ∧ hbmPoison d ks = false) ∨
       (∃ c off site mbx o, targetOf d a len = .core c off ∧ siteOfCore d c = some site ∧
          windowView off len = some (.normal, mbx, o) ∧ ks = windowKeys d site mbx o len ∧
          (∀ b ∈ banksOf ks, bankRefuses d site b = false) ∧ anyPoison d ks = false))
    let nowhere (len : Nat) : Prop := reachErr d ⟨src, srcPart d src⟩ a len ≠ some .denied ∧
      (targetOf d a len = .none_ ∨ (∃ p off, targetOf d a len = .host p off) ∨ (∃ g off, targetOf d a len = .guest g off) ∨
       (∃ c off mbx o, targetOf d a len = .core c off ∧
          (windowView off len = some (.set, mbx, o) ∨ windowView off len = some (.clear, mbx, o))))
    let performs (c : Instr) (len : Nat) (f : List Byte → List Byte × List Byte) : Prop :=
      (∀ ks, reach len ks → ∃ t, exec c s = .next t ∧ t.dev.poison = s.dev.poison ∧ t.dev.reports = s.dev.reports ∧
        t.mem = applyChanges s.mem ((ks.zip (f (ks.map s.byte)).1).map (fun p => MemChange.put p.1 p.2)) ∧
        t.dev.out = s.dev.out ++ [.memData src (f (ks.map s.byte)).2]) ∧
      (nowhere len → ∃ t, exec c s = .next t ∧ t.mem = s.mem ∧ t.dev.poison = s.dev.poison ∧
        t.dev.out = s.dev.out ++ [.memErr src .noTarget] ∧ t.dev.reports.length = s.dev.reports.length + 1)
    (∀ (top : BitVec 16) (flags : BitVec 5), performs (.recReport src addr top flags) 16 (fun old =>
      (winRecBytes (winReport (winRecOf old) (if top = 0x8000 then none else some (signed 16 top.toNat)) (.ofNat flags.toNat)), []))) ∧
    performs (.recAdvance src addr) 16 (fun old => (winRecBytes (winAdvance (winRecOf old)), [])) ∧
    (∀ (vs : List Word) (en : List Bool), vs.length ≤ 32 → vs.length = en.length → vs ≠ [] →
      performs (.fadd32 src addr vs en) (4 * vs.length)
        (fun old => (faddBytes old (vs.flatMap (fun w => leBytes 4 w.toNat)) en, []))) ∧
    (∀ v : BitVec 192, performs (.xadd src addr v) 24
      (fun old => (exBytes (exAdd (exOfBytes old) (exOfBytes (leBytes 24 v.toNat))), []))) ∧
    (∀ (wide : Bool) (v : BitVec 64), let w := if wide then 8 else 4
      performs (.fetchAdd src addr wide v) w (fun old => (leBytes w (leNat old + v.toNat), old)) ∧
      performs (.atomSwap src addr wide v) w (fun old => (leBytes w v.toNat, old))) ∧
    (∀ (width : Fin 3) (x v : BitVec 128), let w := 4 * 2 ^ width.val
      performs (.atomCas src addr width x v) w
        (fun old => (if leNat old = x.toNat % 2 ^ (8 * w) then leBytes w v.toNat else old, old))) ∧
    (quiet → let la := a / 128 * 128
      let ks := hbmKeys d la 128
      targetOf d la 128 = .hbm → (homeOf d la).isSome = true → reachErr d ⟨src, srcPart d src⟩ la 128 = none → (∀ k ∈ ks, deadKey d k = false) →
      ∀ data : BitVec 1024, let bs := leBytes 128 data.toNat
      (∃ t, exec (.wrline src addr data) s = .next t ∧ t.dev.out = s.dev.out ++ [.memData src []] ∧
        poisoned t.dev (lineMark (ks.headD 0)) = false ∧ (∀ i, i < 128 → t.byte (ks.getD i 0) = bs.getD i 0) ∧
        ∀ k, k ∉ ks → t.byte k = s.byte k) ∧
      (∀ en : BitVec 128, poisoned s.dev (lineMark (ks.headD 0)) = false →
        ∃ t, exec (.wrpart src addr data en) s = .next t ∧ t.dev.out = s.dev.out ++ [.memData src []] ∧
        t.dev.poison = s.dev.poison ∧
        (∀ i, i < 128 → t.byte (ks.getD i 0) = if tbit en.toNat i then bs.getD i 0 else s.byte (ks.getD i 0)) ∧
        ∀ k, k ∉ ks → t.byte k = s.byte k) ∧
      (∀ en : BitVec 128, poisoned s.dev (lineMark (ks.headD 0)) = true → en ≠ 0 → en.toNat ≠ 2 ^ 128 - 1 →
        ∃ t, exec (.wrpart src addr data en) s = .next t ∧ t.mem = s.mem ∧ t.dev.poison = s.dev.poison ∧
        t.dev.out = s.dev.out ++ [.memErr src .poison]))

/-- At a home with no other transaction, RDS, RDX, UPG and RDCUR begin the transaction of Table 7.7a: the snoops are
those that the directory state gives, and the agent moves to IS_D, IM_D or SM_D. SNPCUR, SNPS and SNPI of a base cache
or a guest die move the agent and fix its answer as Table 7.5 says. SNOOP_ANSWER takes the answer out of the
transaction, dirty data replacing the home copy but for SnpCur; SNOOP_EVICTING moves it to H_EVW and counts.
HBM_READ_DATA grants DataS or DataE or returns the data; DATA_GRANT puts a base cache or a guest die in S or E; CMPACK
ends the transaction. WBM from the recorded owner updates the home copy and removes the owner; from any other it is
counted and discarded; both are acknowledged. WBACK completes the eviction. -/
def Obligations.HomesSnoopGrantAndEnd : Prop :=
  (∀ (s : State) (src : Source) (addr : BitVec 52), s.dev.coh.txns = [] → s.dev.coh.waiting = [] →
    let d := s.dev.rest
    let line := addr.toNat / 128
    targetOf d (128 * line) 128 = .hbm → reachErr d ⟨src, srcPart d src⟩ (128 * line) 128 = none →
    let snoops (owner sharers : Nat) (req : Option Nat) : List Snoop :=
      match Sparse.find s.dev.coh.dir line with
      | none => []
      | some en =>
        if en.x then (if req = some en.who then [] else [{ agent := en.who, line := line, kind := owner }])
        else if sharers = 0 then []
        else ((vecAgents en.who).filter (fun a => some a != req)).map (fun a => { agent := a, line := line, kind := sharers })
    let starts (c : Instr) (q : HReq) (rd : Bool) (ss : List Snoop) (t : State) : Prop :=
      exec c s = .next t ∧ t.mem = s.mem ∧ t.dev.regs = s.dev.regs ∧ t.dev.coh.dir = s.dev.coh.dir ∧
        t.dev.coh.waiting = [] ∧ ∃ x, t.dev.coh.txns = [x] ∧ x.req = q ∧ x.lines = [line] ∧ x.rd = rd ∧ x.snoops = ss ∧
        x.grant = none
    (∃ t, starts (.rdcur src addr)
      { kind := 3, src := src, agent := none, addr := 128 * line, op := some (.read 128) } true (snoops 7 0 none) t) ∧
    (∀ a, agentOf d src = some a →
      let q (k : Nat) : HReq := { kind := k, src := src, agent := some a, addr := 128 * line }
      ((aLine d a line).st = .i → ∃ t, starts (.rds src addr) (q 0) true (snoops 8 0 (some a)) t ∧
        (aLine t.dev a line).st = .isD) ∧
      (6 ≤ a → (aLine d a line).st = .i → ∃ t, starts (.rdx src addr) (q 1) true (snoops 9 9 (some a)) t ∧
        (aLine t.dev a line).st = .imD) ∧
      (6 ≤ a → (aLine d a line).st = .s → isSharer d (q 2) = false ∨ snoops 9 9 (some a) ≠ [] →
        ∃ t, starts (.upg src addr) (q 2) (!(isSharer d (q 2))) (snoops 9 9 (some a)) t ∧
        (aLine t.dev a line).st = .smD))) ∧
  (∀ (s : State) (agent : Fin 12) (addr : BitVec 52) (data : BitVec 1024) (kind : Nat) (x : Txn),
    let a := agent.val
    let line := addr.toNat / 128
    let isIt (n : Snoop) : Bool := n.agent == a && n.line == line && n.kind == kind && n.ans.isNone
    let st := (aLine s.dev a line).st
    a < 6 ∨ 10 ≤ a → 7 ≤ kind → kind ≤ 9 → s.dev.coh.txns.find? (fun x => x.snoops.any isIt) = some x →
    let bs := leBytes 128 data.toNat
    let r : SnpAns × AState := match st with
      | .s => if kind = 9 then (.rspI, .i) else (.rspS, .s)
      | .smD => if kind = 9 then (.rspI, .imD) else (.rspS, .smD)
      | .e => if kind = 9 then (.rspI, .i) else if kind = 8 then (.rspS, .s) else (.rspS, .e)
      | .m => (.dirty bs, if kind = 9 then .i else if kind = 8 then .s else .m)
      | .miA => (.evicting, .miA)
      | .i => (.rspI, .i)
      | .isD => (.rspI, .isD)
      | .imD => (.rspI, .imD)
    ∃ t, exec (if kind = 7 then .snpcur agent addr st data false else if kind = 8 then .snps agent addr st data false
        else .snpi agent addr st data false) s = .next t ∧
      t.mem = s.mem ∧ t.dev.regs = s.dev.regs ∧ t.dev.coh.dir = s.dev.coh.dir ∧ (aLine t.dev a line).st = r.2 ∧
      t.dev.coh.txns = s.dev.coh.txns.map (fun y => if y.lines = x.lines then
        { x with snoops := x.snoops.map (fun n => if isIt n then { n with ans := some r.1 } else n) } else y)) ∧
  (∀ (s : State) (agent : Fin 12) (addr : BitVec 52) (x : Txn) (n : Snoop) (ans : SnpAns),
    let a := agent.val
    let line := addr.toNat / 128
    let ks := lineKeys s.dev line
    let owned := ∃ en, Sparse.find s.dev.coh.dir line = some en ∧ en.x = true ∧ en.who = a
    s.dev.coh.txns = [x] → s.dev.coh.waiting = [] → x.snoops = [n] → x.rd = true → n.agent = a → n.line = line →
    7 ≤ n.kind → n.kind ≤ 9 → n.ans = some ans → (homeOf s.dev (128 * line)).isSome = true →
    (ans ≠ .evicting → ∃ t, exec (.snoopAnswer agent addr) s = .next t ∧ t.dev.regs = s.dev.regs ∧
      (∃ y, t.dev.coh.txns = [y] ∧ y.snoops = [] ∧ y.rd = true ∧ y.req = x.req ∧
        y.cur = match ans with | .dirty bs => if n.kind = 7 then some bs else x.cur | _ => x.cur) ∧
      (∀ bs, bs.length = 128 → ans = .dirty bs → n.kind ≠ 7 → owned →
        (∀ i, i < 128 → t.byte (ks.getD i 0) = bs.getD i 0) ∧ (∀ k, k ∉ ks → t.byte k = s.byte k) ∧
        Sparse.find t.dev.coh.dir line =
          if n.kind = 9 then none else (Sparse.find s.dev.coh.dir line).map (fun en => { en with x := false, who := 2 ^ a })) ∧
      (ans = .rspI ∨ ans = .rspS ∨ n.kind = 7 → t.mem = s.mem) ∧
      (ans = .rspI → n.kind = 9 → ∀ en, Sparse.find t.dev.coh.dir line = some en →
        if en.x then en.who ≠ a else tbit en.who a = false)) ∧
    (ans = .evicting → (a, line) ∉ x.early → ∃ t, exec (.snoopEvicting agent addr) s = .next t ∧ t.mem = s.mem ∧
      t.dev.coh.txns = [{ x with snoops := [], evw := x.evw ++ [(a, line)] }] ∧
      fget t.dev Reg.PKM_XSTAT [lineHome s.dev line] Fld.PKM_XSTAT_snp_evicting =
        min (fget s.dev Reg.PKM_XSTAT [lineHome s.dev line] Fld.PKM_XSTAT_snp_evicting + 1) 0xFFFF)) ∧
  (∀ (s : State) (addr : BitVec 52) (x : Txn), let line := addr.toNat / 128
    let d := s.dev.rest
    s.dev.coh.txns = [x] → s.dev.coh.waiting = [] → x.lines = [line] → x.rd = true → x.snoops = [] → x.evw = [] →
    x.grant = none → x.hdir = none → homePoison d line = false →
    (x.req.kind = 3 → x.cur = none → x.req.op = some (.read 128) → x.req.addr = 128 * line →
      ∃ t, exec (.hbmReadData addr) s = .next t ∧ t.mem = s.mem ∧ t.dev.coh.txns = [] ∧
        t.dev.out = s.dev.out ++ [.memData x.req.src ((lineKeys d line).map s.byte)]) ∧
    (∀ a, x.req.kind < 2 → x.req.agent = some a → dirFull d line = false →
      ∃ t en, exec (.hbmReadData addr) s = .next t ∧ t.mem = s.mem ∧ Sparse.find t.dev.coh.dir line = some en ∧
        (if x.req.kind = 0 ∧ x.excl = false then en.x = false ∧ (a < 12 → tbit en.who a = true) ∧
            t.dev.coh.txns = [{ x with rd := false, grant := some 17 }]
         else en.x = true ∧ en.who = a ∧ t.dev.coh.txns = [{ x with rd := false, grant := some 18 }]))) ∧
  (∀ (s : State) (agent : Fin 12) (addr : BitVec 52) (x : Txn) (g : Nat),
    let a := agent.val
    let line := addr.toNat / 128
    s.dev.coh.txns = [x] → s.dev.coh.waiting = [] → x.lines = [line] → x.req.agent = some a →
    (x.grant = some g → x.acked = false → a < 6 ∨ 10 ≤ a → g = 14 ∨ g = 17 ∨ g = 18 →
      let bs := (lineKeys s.dev line).map s.byte
      ∃ t, exec (.dataGrant agent addr) s = .next t ∧ t.mem = s.mem ∧ t.dev.regs = s.dev.regs ∧
        t.dev.coh.txns = [{ x with acked := true }] ∧
        t.dev.out = s.dev.out ++ [if 10 ≤ a then .coh a g line (if g = 14 then [] else bs) else .memData x.req.src bs] ∧
        (aLine t.dev a line).st = if g = 17 then (if a < 6 ∧ cacheUsed s.dev a = false then .i else .s) else .e) ∧
    (x.acked = true → ∃ t, exec (.cmpack agent addr) s = .next t ∧ t.mem = s.mem ∧ t.dev.regs = s.dev.regs ∧
      t.dev.coh.txns = [] ∧ t.dev.coh.dir = s.dev.coh.dir)) ∧
  (∀ (s : State) (agent : Fin 12) (addr : BitVec 52) (data : BitVec 1024) (bs : List Byte),
    let a := agent.val
    let line := addr.toNat / 128
    let ks := lineKeys s.dev line
    let owned := ∃ en, Sparse.find s.dev.coh.dir line = some en ∧ en.x = true ∧ en.who = a
    (6 ≤ a → wbOf s.dev a line = some bs → bs.length = 128 → s.dev.coh.txns = [] → s.dev.coh.waiting = [] →
      (homeOf s.dev (128 * line)).isSome = true →
      ∃ t, exec (.wbm agent addr data) s = .next t ∧ t.dev.coh.wbAcks = s.dev.coh.wbAcks ++ [(a, line)] ∧
        t.dev.out = s.dev.out ++ [.coh a 15 line []] ∧
        (owned → (∀ i, i < 128 → t.byte (ks.getD i 0) = bs.getD i 0) ∧ (∀ k, k ∉ ks → t.byte k = s.byte k) ∧
          (∀ en, Sparse.find t.dev.coh.dir line ≠ some en) ∧ t.dev.regs = s.dev.regs) ∧
        (¬ owned → t.mem = s.mem ∧ t.dev.coh.dir = s.dev.coh.dir ∧
          fget t.dev Reg.PKM_XSTAT [lineHome s.dev line] Fld.PKM_XSTAT_stale_wb =
            min (fget s.dev Reg.PKM_XSTAT [lineHome s.dev line] Fld.PKM_XSTAT_stale_wb + 1) 0xFFFF)) ∧
    ((a, line) ∈ s.dev.coh.wbAcks → (aLine s.dev a line).st = .miA → (aLine s.dev a line).want = [] →
      ∃ t, exec (.wback agent addr) s = .next t ∧ t.mem = s.mem ∧ t.dev.regs = s.dev.regs ∧
        (aLine t.dev a line).st = .i ∧ (a, line) ∉ t.dev.coh.wbAcks))

/-- HBM_RANGE_LOCK of an unlocked table, by a path that is no host port: an enabled range stays enabled exactly where
it is not empty, lies within the stack's capacity and overlaps no range below it that stays enabled. An enabled
range's base_gib, which the device writes, is the sum of the sizes of the enabled ranges below it; an address of the
HBM region belongs to the enabled range whose span holds it; and one at or beyond the end of the last enabled range
has no target. No two addresses of the region name the same byte of the same stack, and each names a byte within the
capacity of a stack in service. -/
def Obligations.HbmRangesAreLaidEndToEnd : Prop :=
  ∀ (s : State) (p : Path) (data : Word), pathPort p = none → Fld.HUB_HBM_CFG_lock.get data = 1 → rangesLocked s.dev = false →
    ∃ t, exec (.hbmRangeLock p data) s = .next t ∧ t.mem = s.mem ∧ t.dev.reports = s.dev.reports ∧
      rangesLocked t.dev = true ∧
      let cap := if s.fuses.gradeB then 36 else 48
      let sl (i : Nat) := rangeSlice (rdReg s.dev Reg.HUB_HBM_RANGE [i])
      let base (i : Nat) := fget t.dev Reg.HUB_HBM_RANGE [i] Fld.HUB_HBM_RANGE_base_gib
      let size (i : Nat) := ((sl i).2 - (sl i).1) * (stacksIn s.dev).length
      (∀ i, i < 32 → (rangeOn t.dev i = true ↔ rangeOn s.dev i = true ∧ (sl i).1 < (sl i).2 ∧ (sl i).2 ≤ cap ∧
        ∀ j, j < i → rangeOn t.dev j = true → (sl i).2 ≤ (sl j).1 ∨ (sl j).2 ≤ (sl i).1)) ∧
      (∀ i, i < 32 → rangeOn t.dev i = true →
        base i = (List.range i).foldl (fun n j => if rangeOn t.dev j then n + size j else n) 0) ∧
      (∀ (i a : Nat), i < 32 → (rangeOf t.dev a = some i ↔
        rangeOn t.dev i = true ∧ base i * 2 ^ 30 ≤ a ∧ a < (base i + size i) * 2 ^ 30)) ∧
      (∀ a, a < 2 ^ 42 → (∀ i, i < 32 → rangeOn t.dev i = true → (base i + size i) * 2 ^ 30 ≤ a) →
        rangeOf t.dev a = none ∧ targetOf t.dev a 1 = .none_) ∧
      (∀ (a b n sa : Nat), decodeHbm t.dev a = some (n, sa) → n ∈ stacksIn s.dev ∧ sa < cap * 2 ^ 30 ∧
        (decodeHbm t.dev b = some (n, sa) → a = b))

/-- A line of a stack in service, not yet poisoned, is decoded by HBM_LINE_DECODE, and by HBM_SCRUB while scrub runs:
as stored nothing changes; with at most one wrong symbol in every column and no erasure it counts as corrected and is
recorded; with two wrong symbols in some column, and no column beyond the code, it is poisoned and recorded.
CACHE_SLICE_FENCE sets fenced and drops the remote lines. CACHE_SCRUB counts and records. AGENT_LOST, and
SNOOP_TIMEOUT of an agent with an unanswered snoop, poison every line the agent owned, take it from every directory
entry, and set its bit at every home. REQUEST_TIMEOUT answers TIMEOUT and records the target. -/
def Obligations.StacksCachesAndLostAgents : Prop :=
  (∀ (s : State) (stack : Fin 24) (line : BitVec 29) (seen : LineSeen), stack.val ∈ stacksIn s.dev →
    let sa := 128 * line.toNat
    let mark := lineMark (stackCells stack.val + sa)
    let ix := [stack.val / 4, stack.val % 4]
    let wrong (j : Nat) := ((seen.wrong.filter (fun w => w.1.val == j)).map (·.2.val)).eraseDups.length
    let rec_ (src : Nat) : Report := { source := src, unit := 1 + stack.val / 4, sub := stack.val % 4, detail := low32 (sa / 8) }
    poisoned s.dev mark = false → seen.erased = [] →
    ∀ c, c = Instr.hbmLineDecode stack line seen ∨
      (c = Instr.hbmScrub stack line seen ∧ fbit s.dev Reg.PKM_SCRUB [stack.val / 4] Fld.PKM_SCRUB_enable = true) →
    ∃ t, exec c s = .next t ∧ t.mem = s.mem ∧
      ((∀ j, j < 16 → wrong j = 0) → t.dev.reports = s.dev.reports ∧ t.dev.poison = s.dev.poison) ∧
      ((∀ j, j < 16 → wrong j ≤ 1) → (∃ j, j < 16 ∧ wrong j = 1) → t.dev.poison = s.dev.poison ∧
        t.dev.reports = s.dev.reports ++ [rec_ 0x15] ∧ fget t.dev Reg.PKM_HBM_ECC ix Fld.PKM_HBM_ECC_corrected =
          min (fget s.dev Reg.PKM_HBM_ECC ix Fld.PKM_HBM_ECC_corrected + 1) 0xFFFF) ∧
      ((∀ j, j < 16 → wrong j ≤ 2) → (∃ j, j < 16 ∧ wrong j = 2) → poisoned t.dev mark = true ∧
        t.dev.reports = s.dev.reports ++ [rec_ 0x16] ∧
        fbit t.dev Reg.PKM_HBM_UE_HI [stack.val / 4] Fld.PKM_HBM_UE_HI_valid = true ∧
        (fbit s.dev Reg.PKM_HBM_UE_HI [stack.val / 4] Fld.PKM_HBM_UE_HI_valid = false →
          fget t.dev Reg.PKM_HBM_UE_LO [stack.val / 4] Fld.PKM_HBM_UE_LO_saddr_lo = sa % 2 ^ 32 ∧
          fget t.dev Reg.PKM_HBM_UE_HI [stack.val / 4] Fld.PKM_HBM_UE_HI_saddr_hi = sa / 2 ^ 32 ∧
          fget t.dev Reg.PKM_HBM_UE_HI [stack.val / 4] Fld.PKM_HBM_UE_HI_stack = stack.val % 4))) ∧
  (∀ (s : State) (die : Fin 6), fbit s.dev Reg.PKM_CACHE_CFG [die.val] Fld.PKM_CACHE_CFG_fenced = false →
    (∃ t, exec (.cacheSliceFence die [] false) s = .next t ∧ t.mem = s.mem ∧
      keepsRegs s.dev t.dev [Reg.PKM_CACHE_CFG.key [die.val]] ∧ t.dev.poison = s.dev.poison ∧
      fbit t.dev Reg.PKM_CACHE_CFG [die.val] Fld.PKM_CACHE_CFG_fenced = true ∧ cacheUsed t.dev die.val = false ∧
      t.dev.reports = s.dev.reports ++ [{ source := 0x26, unit := 1 + die.val }] ∧
      ∀ line, (aLine t.dev die.val line).st ≠ .s) ∧
    (∀ (c u : BitVec 16) (addr : BitVec 52), ∃ t, exec (.cacheScrub die c u addr) s = .next t ∧ t.mem = s.mem ∧
      keepsRegs s.dev t.dev [Reg.PKM_CACHE_ECC.key [die.val]] ∧
      fget t.dev Reg.PKM_CACHE_ECC [die.val] Fld.PKM_CACHE_ECC_corrected =
        min (fget s.dev Reg.PKM_CACHE_ECC [die.val] Fld.PKM_CACHE_ECC_corrected + c.toNat) 0xFFFF ∧
      fget t.dev Reg.PKM_CACHE_ECC [die.val] Fld.PKM_CACHE_ECC_uncorrected =
        min (fget s.dev Reg.PKM_CACHE_ECC [die.val] Fld.PKM_CACHE_ECC_uncorrected + u.toNat) 0xFFFF ∧
      t.dev.reports.length = s.dev.reports.length + (if c = 0 then 0 else 1) + (if u = 0 then 0 else 1))) ∧
  (∀ (s : State) (agent : Fin 12) (addr : BitVec 52), s.dev.coh.txns.all (fun x => x.req.agent != some agent.val &&
      x.snoops.all (fun n => n.agent == agent.val) && x.snoops.length == s.dev.coh.txns.length && x.rd) = true →
    s.dev.coh.waiting = [] → s.dev.coh.txns.length ≤ 1 → Sparse.rising 0 s.dev.coh.dir = true →
    ∀ c, c = Instr.agentLost agent ∨ (c = Instr.snoopTimeout agent addr ∧
      ∃ x ∈ s.dev.coh.txns, ∃ n ∈ x.snoops, n.line = addr.toNat / 128 ∧ n.ans = none) →
    ∃ t, exec c s = .next t ∧ t.mem = s.mem ∧ t.dev.reports.length = s.dev.reports.length + 1 ∧
      (∀ x ∈ t.dev.coh.txns, x.snoops = []) ∧
      (∀ line en, Sparse.find s.dev.coh.dir line = some en → en.x = true → en.who = agent.val →
        poisoned t.dev (lineMark ((lineKeys s.dev line).headD 0)) = true) ∧
      (∀ line en, Sparse.find t.dev.coh.dir line = some en → if en.x then en.who ≠ agent.val else tbit en.who agent.val = false) ∧
      (∀ m, m < 6 → tbit (fget t.dev Reg.PKM_AGENT_LOST [m] Fld.PKM_AGENT_LOST_lost) agent.val = true) ∧
      keepsRegs s.dev t.dev ((List.range 6).map (fun m => Reg.PKM_AGENT_LOST.key [m]))) ∧
  (∀ (s : State) (src : Source) (addr : BitVec 52), s.dev.coh.txns = [] → s.dev.coh.waiting = [] →
    let u := targetUnit s.dev addr.toNat
    ∃ t, exec (.requestTimeout src addr) s = .next t ∧ t.mem = s.mem ∧ t.dev.regs = s.dev.regs ∧
      t.dev.out = s.dev.out ++ [.memErr src .timeout] ∧
      t.dev.reports = s.dev.reports ++ [{ source := 0x17, unit := u.1, sub := u.2.1, detail := low32 (u.2.2 / 8),
                                          part := srcPart s.dev src }])

/-- For a bundle with both ends x and y: an acknowledgement moves both from DETECT to LANE_TEST where 64 lanes are
locked at both, from EXCHANGE to ALIGN with the lead's roles and the fused and failed lanes excluded, from ALIGN to
CREDIT after eight ALN slots at both, and from CREDIT to ACTIVE once both messages came. The timer ends LANE_TEST; in
any other training state it returns both ends to DETECT, or fences the bundle after three attempts or one of a
run-time retrain. A retrain keeps numbers, replay buffers, credits and roles. A failed lane is requested in an ALN and
counted; a fifth retrains. A slot of 68 good ALN words is taken with its exclusions and request. The raw channels of a
fenced bundle break. -/
def Obligations.FeinoTrainingAndRepair : Prop :=
  ∀ (s : State) (x y : BundleEnd), farEnd x = some y →
    let n := feiGet s.dev x 1 Fld.HUB_FEI_STAT_attempts + 1
    let both (t : State) (st : Nat) : Prop := t.mem = s.mem ∧ feiState t.dev x = st ∧ feiState t.dev y = st
    let at_ (st : Nat) : Prop := feiState s.dev x = st ∧ feiState s.dev y = st
    let same (c : Instr) : Prop := exec c s = .next { s with dev := s.dev.rest }
    (∀ here far : BitVec 68, at_ 1 →
      (64 ≤ ones 68 here.toNat → 64 ≤ ones 68 far.toNat →
        ∃ t, exec (.feinoTrainAck x here far) s = .next t ∧ both t 2 ∧ t.dev.fei = s.dev.fei) ∧
      (ones 68 here.toNat < 64 ∨ ones 68 far.toNat < 64 → same (.feinoTrainAck x here far))) ∧
    (∀ here far : BitVec 68, (∃ st, at_ st ∧ (st = 1 ∨ st = 3 ∨ st = 4 ∨ st = 5)) →
      ∃ t, exec (.feinoTrainTimer x here far) s = .next t ∧
        ((fei s.dev x).runtime = false → n < 3 → both t 1 ∧ t.dev.reports = s.dev.reports ∧
          feiGet t.dev x 1 Fld.HUB_FEI_STAT_attempts = n ∧ feiGet t.dev y 1 Fld.HUB_FEI_STAT_attempts = n) ∧
        ((fei s.dev x).runtime = true ∨ 3 ≤ n → both t 7 ∧
          ∃ r, t.dev.reports = s.dev.reports ++ [r] ∧ r.source = 0x23 ∧ (r.unit, r.sub) = bundleUnit x)) ∧
    (∀ here far : BitVec 68, feiState s.dev x = 2 →
      ∃ t, exec (.feinoTrainTimer x here far) s = .next t ∧ both t 3 ∧ t.dev.reports = s.dev.reports ∧
        (fei t.dev x).bad = (fei s.dev x).bad ++ laneList here ∧ (fei t.dev y).bad = (fei s.dev y).bad ++ laneList far) ∧
    (∀ here far : BitVec 68, at_ 3 → endLeads x = true →
      let tx := feiGet s.dev x 0 Fld.HUB_FEI_CTL_tx_raw
      let rx := feiGet s.dev x 0 Fld.HUB_FEI_CTL_rx_raw
      let out := (fusedExcl s.dev x ++ (fei s.dev y).bad).foldl (fun l z => insertAsc z l) []
      let back := (fusedExcl s.dev y ++ (fei s.dev x).bad).foldl (fun l z => insertAsc z l) []
      ¬ ((tx ≠ 0 ∧ rx = 15) ∨ (rx ≠ 0 ∧ tx = 15)) →
      ∃ t, exec (.feinoTrainAck x here far) s = .next t ∧
        (4 < out.length ∨ 4 < back.length → both t 7 ∧ t.dev.reports.length = s.dev.reports.length + 1) ∧
        (out.length ≤ 4 → back.length ≤ 4 → both t 4 ∧ t.dev.reports = s.dev.reports ∧
          rdReg t.dev (feiDesc x 2) (feiIx x) = packLanes out ∧ rdReg t.dev (feiDesc y 3) (feiIx y) = packLanes out ∧
          rdReg t.dev (feiDesc y 2) (feiIx y) = packLanes back ∧ rdReg t.dev (feiDesc x 3) (feiIx x) = packLanes back ∧
          feiGet t.dev x 1 Fld.HUB_FEI_STAT_gen = 0 ∧ feiGet t.dev y 1 Fld.HUB_FEI_STAT_gen = 0 ∧
          (fei t.dev x).txRaw = tx ∧ (fei t.dev x).rxRaw = rx ∧ (fei t.dev y).txRaw = rx ∧ (fei t.dev y).rxRaw = tx ∧
          (feiGet s.dev y 0 Fld.HUB_FEI_CTL_tx_raw ≠ rx ∨ feiGet s.dev y 0 Fld.HUB_FEI_CTL_rx_raw ≠ tx →
            feiGet t.dev y 1 Fld.HUB_FEI_STAT_role_mis = 1))) ∧
    (∀ here far : BitVec 68, at_ 4 →
      (8 ≤ (fei s.dev x).alnGood → 8 ≤ (fei s.dev y).alnGood →
        ∃ t a b, exec (.feinoTrainAck x here far) s = .next t ∧ both t 5 ∧
          (fei t.dev x).ctlq = ctlArea 1 a :: ctlArea 2 b :: (fei s.dev x).ctlq ∧ a.length = 20) ∧
      ((fei s.dev x).alnGood < 8 ∨ (fei s.dev y).alnGood < 8 → same (.feinoTrainAck x here far))) ∧
    (∀ here far : BitVec 68, at_ 5 →
      ((∀ z ∈ [x, y], (fei s.dev z).gotCredit = true ∧ (fei s.dev z).gotRaw = true) →
        ∃ t, exec (.feinoTrainAck x here far) s = .next t ∧ both t 6 ∧ (fei t.dev x).runtime = false ∧
          (fei t.dev x).replay = (fei s.dev x).replay ∧ (fei t.dev x).resend = (fei s.dev x).replay.head?.map (·.seq)) ∧
      ((∃ z ∈ [x, y], (fei s.dev z).gotCredit = false ∨ (fei s.dev z).gotRaw = false) → same (.feinoTrainAck x here far))) ∧
    (let retrains (c : Instr) : Prop := ∃ t, exec c s = .next t ∧ both t 1 ∧ t.dev.reports = s.dev.reports ∧
        feiGet t.dev x 6 Fld.HUB_FEI_SWAP_retrains = min (feiGet s.dev x 6 Fld.HUB_FEI_SWAP_retrains + 1) 0xFF ∧
        (fei t.dev x).runtime = true ∧ (fei t.dev x).seqTx = (fei s.dev x).seqTx ∧ (fei t.dev x).seqRx = (fei s.dev x).seqRx ∧
        (fei t.dev x).replay = (fei s.dev x).replay ∧ (fei t.dev x).txRaw = (fei s.dev x).txRaw ∧
        (∀ c, c < 10 → feiCredit t.dev x c = feiCredit s.dev x c) ∧ fusedExcl t.dev x = fusedExcl s.dev x;
      feiState s.dev x = 6 →
      retrains (.feinoRetrain x true) ∧
      ((fei s.dev x).replay ≠ [] → retrains (.feinoRetrain x false)) ∧
      ((fei s.dev x).replay = [] → same (.feinoRetrain x false)) ∧
      ((∃ a ∈ (fei s.dev x).ctl, (a.headD 0).toNat = 6) → retrains (.retrainReq x)) ∧
      (∀ lane : Fin 68, let gone := exclOf s.dev x false ++ (fei s.dev x).reqs
        lane.val ∉ gone →
        (gone.length < 4 → ∃ t, exec (.feinoLaneLoss x lane) s = .next t ∧ t.mem = s.mem ∧ feiState t.dev x = 6 ∧
          (fei t.dev x).reqs = (fei s.dev x).reqs ++ [lane.val] ∧
          feiGet t.dev x 6 Fld.HUB_FEI_SWAP_swaps = min (feiGet s.dev x 6 Fld.HUB_FEI_SWAP_swaps + 1) 0xFF) ∧
        (4 ≤ gone.length → retrains (.feinoLaneLoss x lane)))) ∧
    (∀ (gen : Fin 256) (excl : Word) (req : Option (Fin 68)), feiState s.dev x = 6 →
      let cur := exclOf s.dev x true ++ (fei s.dev x).newExcl
      cur.length < 4 →
      ∃ t, exec (.alnReceived x ((List.range 68).map (fun l => BitVec.ofNat 64 (alnWord l gen.val excl (req.map (·.val)))))) s = .next t ∧
        t.mem = s.mem ∧ feiState t.dev x = 6 ∧ (fei t.dev x).failed = [] ∧ (fei t.dev x).alnGood = (fei s.dev x).alnGood + 1 ∧
        rdReg t.dev (feiDesc x 3) (feiIx x) = packLanes (mapLanes excl) ∧
        (fei t.dev x).newExcl = match req with
          | some l => if l.val ∈ cur then (fei s.dev x).newExcl else (fei s.dev x).newExcl ++ [l.val]
          | none => (fei s.dev x).newExcl) ∧
    (feiState s.dev x = 7 → ∃ t, exec (.rawChannelBroken x) s = .next t ∧ t.mem = s.mem ∧ t.dev.regs = s.dev.regs ∧
      ∀ z ∈ [x, y], (fei t.dev z).rawIn = (fei s.dev z).rawIn ∧
        ((fei s.dev z).txRaw ≠ 0 ∨ (fei s.dev z).rxRaw ≠ 0 → (fei t.dev z).broken = true ∧ (fei t.dev z).rawQ = []))

/-- At an ACTIVE end: slot time 0 sends the ALN; a slot time with a whole group sends one 256-byte flit with its CRC,
and an offered message that fits its credits goes out in a new flit, spends them and is kept for replay. A received
flit with a bad CRC is counted and asked for again and nothing of it is taken; one in order advances the expected
number and delivers its messages or control message; one out of order delivers nothing. A nak, or the replay timer,
resends from the oldest unacknowledged flit. A raw frame in order is delivered with its last bit. CREDIT_INIT and
RAW_INIT set depths; DISCOVER enters a die that belongs at its place, or marks it UNEXPECTED; MAP_ACK shows the index;
FENCE_INFO moves the later messages to the remaining bundles, and its time-out drops them with TIMEOUT. -/
def Obligations.FeinoFlitsAndDiscovery : Prop :=
  (∀ (s : State) (x y : BundleEnd), farEnd x = some y → feiState s.dev x = 6 →
    let f := fei s.dev x
    (f.slot = 0 → f.newExcl = [] → ∃ t, exec (.feinoSlotSend x [] []) s = .next t ∧ t.mem = s.mem ∧ t.dev.regs = s.dev.regs ∧
      (fei t.dev x).slot = 1 ∧ t.dev.out = s.dev.out ++ [.feino (endKey x) 2 ((List.range 68).flatMap (fun l =>
        leBytes 8 (alnWord l (feiGet s.dev x 1 Fld.HUB_FEI_STAT_gen) (rdReg s.dev (feiDesc x 2) (feiIx x)) f.reqs.head?)))]) ∧
    (2 ≤ f.slot → f.slot < 1024 → f.txRaw = 0 → f.accR < 4 → ∃ t b, exec (.feinoSlotSend x [] []) s = .next t ∧ t.mem = s.mem ∧
      (fei t.dev x).slot = (f.slot + 1) % 1024 ∧ t.dev.out = s.dev.out ++ [.feino (endKey x) 0 b] ∧ b.length = 256 ∧
      leNat (b.drop 252) = crc32c (b.take 252)) ∧
    (∀ m : List Byte, msgBad m = false → 2 ≤ f.slot → f.slot < 1024 → f.txRaw = 0 → f.accR < 4 → f.txq = [] → f.ctlq = [] → f.resend = none →
      f.replay.length < 128 → edgeHeld s.dev x = false → edgeChoice s.dev x m = x → msgSlots m ≤ 15 →
      msgSlots m ≤ feiCredit s.dev x (msgClass m) → feiCredit s.dev x (msgClass m) ≤ 4095 →
      ∃ t fl, exec (.feinoSlotSend x [m] []) s = .next t ∧ t.mem = s.mem ∧ (fei t.dev x).replay = f.replay ++ [fl] ∧
        fl.seq = f.seqTx ∧ fl.ftype = 1 ∧ fl.sov = 1 ∧ fl.slots = padTo (16 * msgSlots m) m ∧
        (fei t.dev x).seqTx = (f.seqTx + 1) % 4096 ∧ (fei t.dev x).txq = [] ∧
        feiCredit t.dev x (msgClass m) = feiCredit s.dev x (msgClass m) - msgSlots m ∧
        t.dev.out.length = s.dev.out.length + 1)) ∧
  (∀ (s : State) (x y : BundleEnd) (flit : List Byte), farEnd x = some y → feiState s.dev x = 6 → flit.length = 256 →
    let f := fei s.dev x
    let w := leNat (flit.take 8)
    let good := leNat (flit.drop 252) = crc32c (flit.take 252)
    let ms := splitMsgs (bits w 20 6) (slice flit 8 240)
    ∃ t, exec (.feinoFlitReceive x flit) s = .next t ∧ t.mem = s.mem ∧ feiState t.dev x = 6 ∧
      (¬ good → (fei t.dev x).seqRx = f.seqRx ∧ (fei t.dev x).inbox = f.inbox ∧ (fei t.dev x).replay = f.replay ∧
        feiGet t.dev x 5 Fld.HUB_FEI_ERR_crc_err = min (feiGet s.dev x 5 Fld.HUB_FEI_ERR_crc_err + 1) 0xFFFF ∧
        ((∀ n, f.nakAt = some n → n + 32 ≤ s.dev.tb) → (fei t.dev x).nakOut = true)) ∧
      (good → bits w 3 0 = 0 → (fei t.dev x).seqRx = f.seqRx ∧ (fei t.dev x).inbox = f.inbox ∧
        (fei t.dev x).replay = f.replay.filter (fun z => !(seqLe z.seq (bits w 51 40)))) ∧
      (good → bits w 3 0 = 1 ∨ bits w 3 0 = 2 → bits w 63 52 ≠ f.seqRx →
        (fei t.dev x).seqRx = f.seqRx ∧ (fei t.dev x).inbox = f.inbox ∧ (fei t.dev x).ctl = f.ctl) ∧
      (good → bits w 3 0 = 1 → bits w 63 52 = f.seqRx → (∀ m ∈ ms, ∃ b, m = some b ∧ msgBad b = false) →
        (fei t.dev x).seqRx = (f.seqRx + 1) % 4096 ∧ (fei t.dev x).inbox = f.inbox ++ ms.filterMap id ∧
        t.dev.reports = s.dev.reports ∧
        (fei t.dev x).replay = f.replay.filter (fun z => !(seqLe z.seq (bits w 51 40)))) ∧
      (good → bits w 3 0 = 2 → bits w 63 52 = f.seqRx →
        let code := ((slice flit 8 240).headD 0).toNat
        (fei t.dev x).seqRx = (f.seqRx + 1) % 4096 ∧
        (1 ≤ code → code ≤ 6 → (fei t.dev x).ctl = f.ctl ++ [slice flit 8 240] ∧ t.dev.reports = s.dev.reports) ∧
        (code = 0 ∨ 6 < code → (fei t.dev x).ctl = f.ctl ∧ t.dev.reports.length = s.dev.reports.length + 1))) ∧
  (∀ (s : State) (x y : BundleEnd), farEnd x = some y →
    let f := fei s.dev x
    (f.replay ≠ [] → f.nakIn = true → f.rawNakIn = false → ∃ t, exec (.feinoNak x) s = .next t ∧ t.mem = s.mem ∧
      fei t.dev x = { f with nakIn := false, resend := f.replay.head?.map (·.seq) } ∧
      feiGet t.dev x 5 Fld.HUB_FEI_ERR_replays = min (feiGet s.dev x 5 Fld.HUB_FEI_ERR_replays + 1) 0xFFF) ∧
    (f.replay ≠ [] → ∃ t, exec (.feinoReplayTimer x) s = .next t ∧ t.mem = s.mem ∧
      fei t.dev x = { f with resend := f.replay.head?.map (·.seq) } ∧
      feiGet t.dev x 5 Fld.HUB_FEI_ERR_replays = min (feiGet s.dev x 5 Fld.HUB_FEI_ERR_replays + 1) 0xFFF) ∧
    (∀ frame : List Byte, feiState s.dev x = 6 → frame.length = 256 → f.rxRaw ≠ 0 → f.broken = false →
      let w := leNat (slice frame 248 4)
      ∃ t, exec (.rawFrameReceive x frame) s = .next t ∧ t.mem = s.mem ∧
        (leNat (frame.drop 252) ≠ crc32c (frame.take 252) → (fei t.dev x).rawIn = f.rawIn ∧ (fei t.dev x).rawNakOut = true) ∧
        (leNat (frame.drop 252) = crc32c (frame.take 252) → bits w 15 12 ≠ 15 → bits w 11 0 = f.rawSeqRx →
          fei t.dev x = { f with rawSeqRx := (f.rawSeqRx + 1) % 4096, rawOwed := f.rawOwed + 1,
                                 rawIn := f.rawIn ++ [⟨f.rawSeqRx, bits w 15 12, tbit w 16, frame.take 248⟩] })) ∧
    (∀ a rest, f.ctl = a :: rest → f.runtime = false →
      ((a.headD 0).toNat = 1 → ∃ t, exec (.creditInit x) s = .next t ∧ t.mem = s.mem ∧ (fei t.dev x).gotCredit = true ∧
        (fei t.dev x).ctl = rest ∧ ∀ c, c < 10 → feiCredit t.dev x c = leNat (slice a (8 + 2 * c) 2) % 4096 ∧
          fget t.dev (feiDesc x 7) (feiIx x ++ [c]) Fld.HUB_FEI_CRED_depth = leNat (slice a (8 + 2 * c) 2) % 4096) ∧
      ((a.headD 0).toNat = 2 → ∃ t, exec (.rawInit x) s = .next t ∧ t.mem = s.mem ∧ t.dev.regs = s.dev.regs ∧
        fei t.dev x = { f with ctl := rest, gotRaw := true, rawDepth := (a.getD 8 0).toNat, rawCredits := (a.getD 8 0).toNat })) ∧
    (∀ z ∈ edgeEnds x, ∀ a rest, f.ctl = a :: rest → (a.headD 0).toNat = 5 →
      (edgeEnds x).find? (fun u => edgeNumber u == (a.getD 8 0).toNat && (fei s.dev u).waitInfo) = some z → z ≠ x →
      ∃ t, exec (.fenceInfo x) s = .next t ∧ t.mem = s.mem ∧ t.dev.regs = s.dev.regs ∧
        (fei t.dev z).waitInfo = false ∧ (fei t.dev z).replay = [] ∧
        ∀ u ∈ (fei s.dev z).replay, u.ftype = 1 → seqLe u.seq (leNat (slice a 9 2) % 4096) = false →
          ∀ m ∈ (splitMsgs u.sov (padTo 240 u.slots)).filterMap id, ∃ v ∈ edgeEnds x, m ∈ (fei t.dev v).txq) ∧
    (f.waitInfo = true → ∃ t, exec (.fenceInfoTimeout x) s = .next t ∧ t.mem = s.mem ∧ t.dev.regs = s.dev.regs ∧
      (fei t.dev x).waitInfo = false ∧ (fei t.dev x).replay = [] ∧ t.dev.reports.length = s.dev.reports.length +
        ((f.replay.flatMap (fun u => if u.ftype = 1 then (splitMsgs u.sov (padTo 240 u.slots)).filterMap id else [])).filter
          (fun m => msgClass m == 0 || msgClass m == 5)).length)) ∧
  (∀ (s : State) (place : Fin 61) (r : BitVec 128),
    let w (d : Dev) := rdReg d Reg.HUB_DIEMAP [place.val]
    (∃ t, exec (.discover place r) s = .next t ∧ t.mem = s.mem ∧ bits (w t.dev).toNat 23 0 = bits r.toNat 23 0 ∧
      (placeDie place.val = (bits r.toNat 7 0, bits r.toNat 15 8) → Fld.HUB_DIEMAP_state.get (w t.dev) = 1 ∧
        t.dev.mapAcks = s.dev.mapAcks ++ [place.val] ∧ t.dev.reports = s.dev.reports ∧
        keepsRegs s.dev t.dev [Reg.HUB_DIEMAP.key [place.val]]) ∧
      (placeDie place.val ≠ (bits r.toNat 7 0, bits r.toNat 15 8) → Fld.HUB_DIEMAP_state.get (w t.dev) = 3 ∧
        t.dev.mapAcks = s.dev.mapAcks ∧ (∀ z ∈ dieEnds place.val, feiState t.dev z = 7) ∧
        s.dev.reports.length < t.dev.reports.length)) ∧
    (place.val ∈ s.dev.mapAcks → ∃ t, exec (.mapAck place) s = .next t ∧ t.mem = s.mem ∧
      t.dev.mapAcks = s.dev.mapAcks.erase place.val ∧
      ∀ z ∈ dieEnds place.val, ∀ u, farEnd z = some u → feiGet t.dev u 1 Fld.HUB_FEI_STAT_peer = place.val))

/-- PRV_RELEASE of a HELD, mounted site begins negotiation for its owning partition, or with no owner leaves it HELD
with reason OWNER. The hub die then asks for the profile, answers an offer with the agreed profile of R283 or kills
the site, and makes the site ACTIVE when the record is echoed unchanged; a timer or another echo kills it with reason
NEGOTIATE. A malformed message kills with reason PROTOCOL; an unmatched response is dropped and counted; a class not
allowed, or a request no rule admits, is denied, counted, logged first and recorded; a message beyond the tags waits.
PRV_COMMIT switches to the shadow rules and is busy until the old requests complete; a commit while busy is discarded.
A refill returns held credits as tokens allow. A kill leaves the site KILLED with its reason. -/
def Obligations.PrivetGuardsGuestDies : Prop :=
  ∀ (s : State) (g : Fin 2),
    let x := guest s.dev g.val
    let killed (t : State) (reason : Nat) : Prop := guestState t.dev g.val = 4 ∧ t.mem = s.mem ∧
      fget t.dev Reg.PRV_STAT [g.val] Fld.PRV_STAT_kill_reason = reason ∧
      ∃ r, t.dev.reports = s.dev.reports ++ [r] ∧ r.source = 0x2B ∧ r.unit = 59 + g.val
    let same (c : Instr) : Prop := exec c s = .next { s with dev := s.dev.rest }
    (∀ p : Path, pathPort p = none → guestState s.dev g.val = 1 → g.val < s.fuses.guestPop →
      ∃ t, exec (.prvRelease p g) s = .next t ∧ t.mem = s.mem ∧ t.dev.reports = s.dev.reports ∧
        (partOfGuest s.dev g.val = none → guestState t.dev g.val = 1 ∧
          fget t.dev Reg.PRV_STAT [g.val] Fld.PRV_STAT_kill_reason = 5) ∧
        (∀ q, partOfGuest s.dev g.val = some q → guestState t.dev g.val = 2 ∧
          fget t.dev Reg.PRV_STAT [g.val] Fld.PRV_STAT_part = q ∧ (guest t.dev g.val).step = 1)) ∧
    (guestState s.dev g.val = 2 →
      (∃ t, exec (.negotiationTimeout g) s = .next t ∧ killed t 2) ∧
      (x.step = 1 → ∃ t, exec (.guestUcieTrained g) s = .next t ∧ t.mem = s.mem ∧ t.dev.regs = s.dev.regs ∧
        guest t.dev g.val = { x with step := 2 } ∧ t.dev.out = s.dev.out ++ [.guestMsg g.val 1 []]) ∧
      (x.step = 2 → ∀ offer : BitVec 128, let o := offer.toNat
        let l := profWord s.dev Reg.PRV_LIMIT g.val
        let classes := bits o 25 16 &&& bits l 25 16
        let fails := bits o 7 4 ≠ bits l 7 4 ∨ bits classes 7 5 ≠ 7
        ∃ t, exec (.profileAnswer g offer) s = .next t ∧ (fails → killed t 2) ∧
          (¬ fails → guestState t.dev g.val = 2 ∧ t.dev.reports = s.dev.reports ∧
            let a := profWord t.dev Reg.PRV_PROF g.val
            guest t.dev g.val = { x with step := 3, agreed := a } ∧ t.dev.out = s.dev.out ++ [.guestMsg g.val 2 (leBytes 16 a)] ∧
            bits a 7 4 = bits o 7 4 ∧ bits a 3 0 = min (bits o 3 0) (bits l 3 0) ∧
            bits a 15 8 = min (bits o 15 8) (bits l 15 8) ∧ bits a 25 16 = classes ∧
            bits a 29 27 = bits o 29 27 &&& bits l 29 27 ∧
            tbit a 26 = (tbit o 26 && tbit l 26 && decide (bits classes 4 0 = 31)) ∧
            bits a 43 32 = min (bits o 43 32) (bits l 43 32) ∧ bits a 53 48 = min (bits o 53 48) (bits l 53 48))) ∧
      (x.step = 3 → ∀ echo : BitVec 128, ∃ t, exec (.profileAck g echo) s = .next t ∧
        (echo.toNat ≠ x.agreed → killed t 2) ∧
        (echo.toNat = x.agreed → guestActive t.dev g.val = true ∧ t.mem = s.mem ∧ t.dev.reports = s.dev.reports ∧
          guest t.dev g.val = { x with step := 0, tokens := 64 * fget s.dev Reg.PRV_RATE [g.val] Fld.PRV_RATE_burst }))) ∧
    (∀ reason : BitVec 4, guestState s.dev g.val ≠ 0 → guestState s.dev g.val ≠ 4 →
      (guestState s.dev g.val = 3 → tbit x.agreed 26 = false) →
      ∃ t, exec (.guestKill g reason) s = .next t ∧ killed t reason.toNat) ∧
    (guestState s.dev g.val = 4 → ∀ reason, same (.guestKill g reason)) ∧
    (∀ p : Path, pathPort p = none →
      (fbit s.dev Reg.PRV_COMMIT [g.val] Fld.PRV_COMMIT_busy = false → ∃ t, exec (.prvCommit p g) s = .next t ∧ t.mem = s.mem ∧
        t.dev.reports = s.dev.reports ∧ fbit t.dev Reg.PRV_COMMIT [g.val] Fld.PRV_COMMIT_busy = true ∧
        (guest t.dev g.val).old = guestReqs s.dev g.val ∧
        ∀ w, w < 128 → rdReg t.dev Reg.PRV_RULE_ACT [g.val, w] = rdReg s.dev Reg.PRV_RULE [g.val, w]) ∧
      (fbit s.dev Reg.PRV_COMMIT [g.val] Fld.PRV_COMMIT_busy = true → ∃ t, exec (.prvCommit p g) s = .next t ∧ t.mem = s.mem ∧
        t.dev.regs = s.dev.regs ∧ t.dev.reports.length = s.dev.reports.length + 1)) ∧
    (fbit s.dev Reg.PRV_COMMIT [g.val] Fld.PRV_COMMIT_busy = true →
      ((∀ q ∈ x.old, q ∉ guestReqs s.dev g.val) → ∃ t, exec (.prvCommitDrained g) s = .next t ∧ t.mem = s.mem ∧
        keepsRegs s.dev t.dev [Reg.PRV_COMMIT.key [g.val]] ∧
        fbit t.dev Reg.PRV_COMMIT [g.val] Fld.PRV_COMMIT_busy = false ∧
        fget t.dev Reg.PRV_COMMIT [g.val] Fld.PRV_COMMIT_generation =
          (fget s.dev Reg.PRV_COMMIT [g.val] Fld.PRV_COMMIT_generation + 1) % 2 ^ 16) ∧
      ((∃ q ∈ x.old, q ∈ guestReqs s.dev g.val) → same (.prvCommitDrained g))) ∧
    (∀ (m : List Byte) (rest : List (List Byte)), (fei s.dev (.guest g)).inbox = m :: rest → guestActive s.dev g.val = true →
      let cls := msgClass m
      let bad := msgBad m = true ∨ mfield m 43 36 ≠ 59 + g.val ∨ (cls = 9 ∧ msgOp m ≠ 2)
      let waits := (cls = 0 ∨ cls = 5) ∧ tagsFull s.dev g.val = true
      let off := tbit x.agreed (16 + cls) = false ∨
        tbit (fget s.dev Reg.PRV_CTL [g.val] Fld.PRV_CTL_class_allow) cls = false
      let touch := guestTouch m
      let denied (t : State) (check : Nat) : Prop := t.mem = s.mem ∧ (fei t.dev (.guest g)).inbox = rest ∧
        fget t.dev Reg.PRV_DENY [g.val] Fld.PRV_DENY_denied = min (fget s.dev Reg.PRV_DENY [g.val] Fld.PRV_DENY_denied + 1) 0xFFFF ∧
        (∃ r, t.dev.reports = s.dev.reports ++ [r] ∧ r.source = 0x03 ∧ r.unit = 59 + g.val) ∧
        (∃ reply, t.dev.out = s.dev.out ++ [.guestMsg g.val 3 reply] ∧ mfield reply 51 48 = 5) ∧
        (fbit s.dev Reg.PRV_DENY_LOG_HI [g.val] Fld.PRV_DENY_LOG_HI_valid = false →
          fbit t.dev Reg.PRV_DENY_LOG_HI [g.val] Fld.PRV_DENY_LOG_HI_valid = true ∧
          fget t.dev Reg.PRV_DENY_LOG_HI [g.val] Fld.PRV_DENY_LOG_HI_check = check ∧
          fget t.dev Reg.PRV_DENY_LOG_HI [g.val] Fld.PRV_DENY_LOG_HI_class = cls ∧
          fget t.dev Reg.PRV_DENY_LOG_LO [g.val] Fld.PRV_DENY_LOG_LO_addr_lo = msgAddr m % 2 ^ 32)
      (waits → same (.guestMessage g)) ∧
      (¬ waits → bad → tbit x.agreed 26 = false → ∃ t, exec (.guestMessage g) s = .next t ∧ killed t 3) ∧
      (¬ bad → cls = 6 ∨ cls = 7 → ∃ t, exec (.guestMessage g) s = .next t ∧ t.mem = s.mem ∧ t.dev.out = s.dev.out ∧
        keepsRegs s.dev t.dev [Reg.PRV_DENY.key [g.val]] ∧ (fei t.dev (.guest g)).inbox = rest ∧
        fget t.dev Reg.PRV_DENY [g.val] Fld.PRV_DENY_unmatched =
          min (fget s.dev Reg.PRV_DENY [g.val] Fld.PRV_DENY_unmatched + 1) 0xFFFF) ∧
      (¬ waits → ¬ bad → cls = 0 ∨ cls = 4 ∨ cls = 5 ∨ cls = 8 → off →
        ∃ t, exec (.guestMessage g) s = .next t ∧ denied t 3) ∧
      (¬ waits → ¬ bad → cls = 0 ∨ cls = 5 → ¬ off →
        privetAdmits s.dev g.val touch.1 touch.2.1 touch.2.2.1 touch.2.2.2 = false →
        ∃ t, exec (.guestMessage g) s = .next t ∧ denied t 5) ∧
      (¬ waits → ¬ bad → cls = 5 → msgOp m = 0 → ¬ off →
        let len := 2 ^ mfield m 55 52
        privetAdmits s.dev g.val (msgAddr m) len 0 false = true → targetOf s.dev (msgAddr m) len = .none_ →
        ∃ t, exec (.guestMessage g) s = .next t ∧ t.mem = s.mem ∧ t.dev.regs = s.dev.regs ∧
          (fei t.dev (.guest g)).inbox = rest ∧ t.dev.out = s.dev.out ++ [.memErr (.guest g) .noTarget])) ∧
    (let f := fei s.dev (.guest g)
      let rate := fget s.dev Reg.PRV_RATE [g.val] Fld.PRV_RATE_rate
      let burst := 64 * fget s.dev Reg.PRV_RATE [g.val] Fld.PRV_RATE_burst
      guestActive s.dev g.val = true → f.heldBack.length = 10 → f.owed.length = 10 →
      ∃ t, exec (.prvTokenRefill g) s = .next t ∧ t.mem = s.mem ∧ t.dev.regs = s.dev.regs ∧
        let f' := fei t.dev (.guest g)
        (∀ c, c < 10 → f'.owed.getD c 0 + f'.heldBack.getD c 0 = f.owed.getD c 0 + f.heldBack.getD c 0 ∧
          f'.heldBack.getD c 0 ≤ f.heldBack.getD c 0) ∧
        (rate = 0 → ∀ c, c < 10 → f'.heldBack.getD c 0 = 0) ∧
        (rate ≠ 0 → (guest t.dev g.val).tokens + 16 * f.heldBack.foldl (· + ·) 0 =
            min burst (x.tokens + 64 * rate) + 16 * f'.heldBack.foldl (· + ·) 0 ∧
          (16 ≤ (guest t.dev g.val).tokens → ∀ c, c < 10 → f'.heldBack.getD c 0 = 0)))

/-- LASER_MONITOR publishes the LM reading and fails a laser in service on a second low reading, a bad bias sense or a
frequency not held. LASER_FAIL of a grid laser puts the idle spare of its slot to TUNING; without one a FAILED laser's
four fibres are fenced, and a WORN laser is recorded. SPARE_LASER_ON_FREQUENCY makes the spare COVERING.
BIAS_BAND_CHANGE sets each lit laser's bias to base + age, at most the ceiling. AGEING_DECISION follows the rule of
R300. MARGIN_RPT, LASER_TRIM_UPDATE and MONITOR_SCAN update what they report. LOSS_LOCATE shows the first lossy
segment and records a new one. A heater target change, and a committed matrix, recompute the drives by R307; an
invalid matrix is refused. -/
def Obligations.LasersMonitorsAndHeaters : Prop :=
  (∀ (s : State) (k : Fin 16) (b : Fin 2) (n : Fin 23),
    let i := 23 * b.val + n.val
    let ix := [k.val, b.val, n.val]
    let st := laserState s.dev k.val b.val n.val
    let x := le s.dev k.val
    (∀ (lm expected : BitVec 16) (biasBad : Bool),
      let cnt := if lm.toInt + 1536 < expected.toInt then Sparse.get 0 x.low i + 1 else 0
      let fails := (st = 1 ∨ st = 3 ∨ st = 4) ∧ (2 ≤ cnt ∨ biasBad = true ∨ 20 ≤ Sparse.get 0 x.off i)
      ∃ t, exec (.laserMonitor k b n lm expected biasBad) s = .next t ∧ t.mem = s.mem ∧
        keepsRegs s.dev t.dev [Reg.LE_MON_LM.key ix, Reg.LE_LASER.key ix] ∧
        fget t.dev Reg.LE_MON_LM ix Fld.LE_MON_LM_power = lm.toNat ∧ fbit t.dev Reg.LE_MON_LM ix Fld.LE_MON_LM_valid = true ∧
        laserState t.dev k.val b.val n.val = (if fails then 5 else st) ∧
        (fails → ∃ r, t.dev.reports = s.dev.reports ++ [r] ∧ r.source = 0x18 ∧ r.sub = i) ∧
        (¬ fails → t.dev.reports = s.dev.reports ∧ Sparse.get 0 (le t.dev k.val).low i = cnt)) ∧
    (n.val < 18 → st = 5 ∨ st = 6 →
      let sp := 18 + (if n.val < 16 then n.val / 4 else 4)
      let sst := laserState s.dev k.val b.val sp
      let spSlot (d : Dev) := fget d Reg.LE_LASER [k.val, b.val, sp] Fld.LE_LASER_slot
      ∃ t, exec (.laserFail k b n) s = .next t ∧ t.mem = s.mem ∧
        (sst = 2 → laserState t.dev k.val b.val sp = 3 ∧ spSlot t.dev = n.val ∧ t.dev.reports = s.dev.reports) ∧
        (sst ≠ 2 → ¬ ((sst = 3 ∨ sst = 4) ∧ spSlot s.dev = n.val) → laserState t.dev k.val b.val sp = sst ∧
          (st = 5 → ∀ f, f < 4 → fget t.dev Reg.LE_FIBRE [k.val, 4 * b.val + f] Fld.LE_FIBRE_state = 1) ∧
          (st = 6 → ∃ r, t.dev.reports = s.dev.reports ++ [r] ∧ r.source = 0x06))) ∧
    (18 ≤ n.val → st = 3 → ∃ t, exec (.spareLaserOnFrequency k b n) s = .next t ∧ t.mem = s.mem ∧
      keepsRegs s.dev t.dev [Reg.LE_LASER.key ix] ∧ laserState t.dev k.val b.val n.val = 4 ∧
      t.dev.out.getLast? = some (.optic k.val 1 i (fget s.dev Reg.LE_LASER ix Fld.LE_LASER_slot))) ∧
    (∀ off : BitVec 16, laserLit st = true → leState s.dev k.val = 2 → ∃ t v, exec (.laserTrimUpdate k b n off) s = .next t ∧
      t.mem = s.mem ∧ t.dev.regs = s.dev.regs ∧ t.dev.out = s.dev.out ++ [.optic k.val 2 i v] ∧
      Sparse.get 0 (le t.dev k.val).off i = if 20 < off.toInt.natAbs then min (Sparse.get 0 x.off i + 1) 20 else 0)) ∧
  (∀ (s : State) (k : Fin 16),
    let band := Sparse.get 0 s.dev.pow.bands (66 + k.val)
    let laser (d : Dev) (x : Nat × Nat) (f : Fld) := fget d Reg.LE_LASER [k.val, x.1, x.2] f
    let cfg (f : Fld) := fget s.dev Reg.LE_AGE_CFG [k.val] f
    (∃ t, exec (.biasBandChange k) s = .next t ∧ t.mem = s.mem ∧ (le t.dev k.val).band = band ∧ ∀ x ∈ allLasers,
      laser t.dev x Fld.LE_LASER_bias = if laserLit (laserState s.dev k.val x.1 x.2) then
        min (Config.biasBase k.val (23 * x.1 + x.2) band + laser s.dev x Fld.LE_LASER_age) (cfg Fld.LE_AGE_CFG_ceiling)
      else laser s.dev x Fld.LE_LASER_bias) ∧
    (∀ far : BitVec 8,
      (fbit s.dev Reg.LE_CTL [k.val] Fld.LE_CTL_age_en = false →
        exec (.ageingDecision k far) s = .next { s with dev := s.dev.rest }) ∧
      (fbit s.dev Reg.LE_CTL [k.val] Fld.LE_CTL_age_en = true → ∃ t, exec (.ageingDecision k far) s = .next t ∧ t.mem = s.mem ∧
        ∀ x ∈ allLasers, let st := laserState s.dev k.val x.1 x.2
          let m := marginMin s.dev k.val x.1 (if x.2 < 18 then x.2 else laser s.dev x Fld.LE_LASER_slot) far.toNat
          let raised := Config.biasBase k.val (23 * x.1 + x.2) (le s.dev k.val).band + laser s.dev x Fld.LE_LASER_age +
            cfg Fld.LE_AGE_CFG_step
          let low (by_ : Nat) := (st = 1 ∨ st = 4) ∧ ∃ v, m = some v ∧ v + (by_ : Int) < (cfg Fld.LE_AGE_CFG_target : Int)
          (low 0 → raised ≤ cfg Fld.LE_AGE_CFG_ceiling → laserState t.dev k.val x.1 x.2 = st ∧
            laser t.dev x Fld.LE_LASER_age = laser s.dev x Fld.LE_LASER_age + cfg Fld.LE_AGE_CFG_step) ∧
          (low 16 → cfg Fld.LE_AGE_CFG_ceiling < raised → laserState t.dev k.val x.1 x.2 = 6) ∧
          (¬ low 0 ∨ (¬ low 16 ∧ cfg Fld.LE_AGE_CFG_ceiling < raised) → laserState t.dev k.val x.1 x.2 = st ∧
            laser t.dev x Fld.LE_LASER_age = laser s.dev x Fld.LE_LASER_age))) ∧
    (∀ sm mm cm : List (BitVec 16), ∃ t, exec (.monitorScan k sm mm cm) s = .next t ∧ t.mem = s.mem ∧ ∀ f, f < 8 →
      let p (r : RegDesc) := fget t.dev r [k.val, f] Fld.LE_MON_LM_power
      p Reg.LE_MON_SM = (sm.getD f 0x8000).toNat ∧
      (txMoving s.dev (8 * k.val + f) = false →
        p Reg.LE_MON_MM = (mm.getD f 0x8000).toNat ∧ p Reg.LE_MON_CM = (cm.getD f 0x8000).toNat) ∧
      (txMoving s.dev (8 * k.val + f) = true → fbit t.dev Reg.LE_MON_MM [k.val, f] Fld.LE_MON_LM_stale = true ∧
        p Reg.LE_MON_MM = fget s.dev Reg.LE_MON_MM [k.val, f] Fld.LE_MON_LM_power)) ∧
    (∃ t, exec (.lossLocate k) s = .next t ∧ t.mem = s.mem ∧
      (∀ f, f < 8 → fget t.dev Reg.LE_FIBRE [k.val, f] Fld.LE_FIBRE_loss_seg = lossSeg s.dev (8 * k.val + f)) ∧
      t.dev.reports.length = s.dev.reports.length + ((List.range 8).filter (fun f => lossSeg s.dev (8 * k.val + f) != 0 &&
        lossSeg s.dev (8 * k.val + f) != fget s.dev Reg.LE_FIBRE [k.val, f] Fld.LE_FIBRE_loss_seg)).length) ∧
    (∀ (h : Fin 320) (code : BitVec 16), ∃ t, exec (.heaterTargetChange k h code) s = .next t ∧ t.mem = s.mem ∧
      heaterTarget t.dev k.val h.val = code.toNat ∧ (∀ j, j < 320 → j ≠ h.val → heaterTarget t.dev k.val j = heaterTarget s.dev k.val j) ∧
      ∀ j, j = h.val ∨ j ∈ xtNamers s.dev k.val h.val →
        fget t.dev Reg.LE_RING_STAT [k.val, j] Fld.LE_RING_STAT_drive = (heaterDrive t.dev k.val j).1 ∧
        (fbit t.dev Reg.LE_RING_STAT [k.val, j] Fld.LE_RING_STAT_xt_clamp = (heaterDrive t.dev k.val j).2)) ∧
    (∀ p : Path, pathPort p = none →
      ∃ t, exec (.leXtCommit p k) s = .next t ∧ t.mem = s.mem ∧ t.dev.reports = s.dev.reports ∧
        (∀ h e, xtBad (xtShadow s.dev k.val) = some (h, e) → keepsRegs s.dev t.dev [Reg.LE_XT_COMMIT.key [k.val]] ∧
          fbit t.dev Reg.LE_XT_COMMIT [k.val] Fld.LE_XT_COMMIT_err = true) ∧
        (xtBad (xtShadow s.dev k.val) = none →
          fget t.dev Reg.LE_XT_COMMIT [k.val] Fld.LE_XT_COMMIT_generation =
            (fget s.dev Reg.LE_XT_COMMIT [k.val] Fld.LE_XT_COMMIT_generation + 1) % 2 ^ 16 ∧
          (∀ h e, h < 320 → e < 8 → rdReg t.dev Reg.LE_XT_ACT [k.val, h, e] = rdReg s.dev Reg.LE_XT [k.val, h, e]) ∧
          ∀ h, h < 320 → fget t.dev Reg.LE_RING_STAT [k.val, h] Fld.LE_RING_STAT_drive = (heaterDrive t.dev k.val h).1))) ∧
  (∀ (s : State) (g : Fin 128) (m : List Byte) (rest : List (List Byte)), (getLq s.dev g.val).rxMsgs = m :: rest →
    leNat (m.take 1) = 0x05 → let b := slice m 4 (leNat (slice m 1 1))
    ∃ t, exec (.marginRpt g) s = .next t ∧ t.mem = s.mem ∧ (getLq t.dev g.val).rxMsgs = rest ∧
      (leFib t.dev g.val).farCm = some (leNat (slice b 24 2)) ∧ ∀ i, i < 18 → (leFib t.dev g.val).margins.getD i 0x80 =
        if (b.getD i 0x80).toNat = 0x80 then (leFib s.dev g.val).margins.getD i 0x80 else (b.getD i 0x80).toNat)

/-- A go of LE_GAP_CMD is discarded with cmd_ovr while a command is pending, refused with its reason, or accepted with
LE_GAP_NEXT: at once where nothing executes and its instant is not ahead, late after its instant. Beginning, every
changing output goes to BLOCK with its amplifier off; done, LE_GAP_CUR holds the configuration, the time is recorded,
and changing outputs leave BLOCK with gains of at most 12 dB. A cancel withdraws a pending command. An open connector
turns lasers and amplifiers off and blocks every output with state INTERLOCK; closed again the engine starts if
enabled. A dark engine blocks, is all LOCAL, and its fibres are fenced. -/
def Obligations.GapSwitchAndInterlock : Prop :=
  ∀ (s : State) (k : Fin 16),
    let x := le s.dev k.val
    let stat (d : Dev) (f : Fld) := fbit d Reg.LE_GAP_STAT [k.val] f
    let blocked (d : Dev) (j : Nat) : Bool := tbit (gapBlocked d k.val) j
    let begun (t : State) (cfg : Nat) : Prop := (le t.dev k.val).gapExec = some cfg ∧ (le t.dev k.val).gapPend = none ∧
      stat t.dev Fld.LE_GAP_STAT_busy = true ∧ gapCur t.dev k.val = gapCur s.dev k.val ∧ ∀ j, j < 8 →
        if gapOut (gapCur s.dev k.val) j = gapOut cfg j then blocked t.dev j = blocked s.dev j
        else blocked t.dev j = true ∧ fget t.dev Reg.LE_GAP_AMP [k.val, j] Fld.LE_GAP_AMP_gain = 0
    (∀ (p : Path) (data : Word), pathPort p = none → Fld.LE_GAP_CMD_go.get data = 1 → Fld.LE_GAP_CMD_cancel.get data = 0 →
      let cfg := (rdReg s.dev Reg.LE_GAP_NEXT [k.val]).toNat
      let at_ := (rdReg s.dev Reg.LE_GAP_TIME_LO [k.val]).toNat + 2 ^ 32 * (rdReg s.dev Reg.LE_GAP_TIME_HI [k.val]).toNat
      let timed := Fld.LE_GAP_CMD_at_time.get data = 1
      ∃ t, exec (.gapCmdGo p k data) s = .next t ∧ t.mem = s.mem ∧
        (x.gapPend.isSome = true → t.dev.le = s.dev.le ∧ stat t.dev Fld.LE_GAP_STAT_cmd_ovr = true ∧
          keepsRegs s.dev t.dev [Reg.LE_GAP_STAT.key [k.val]]) ∧
        (x.gapPend = none → gapReason s.dev k.val cfg ≠ 0 → t.dev.le = s.dev.le ∧ stat t.dev Fld.LE_GAP_STAT_refused = true ∧
          fget t.dev Reg.LE_GAP_STAT [k.val] Fld.LE_GAP_STAT_reason = gapReason s.dev k.val cfg ∧
          keepsRegs s.dev t.dev [Reg.LE_GAP_STAT.key [k.val]]) ∧
        (x.gapPend = none → gapReason s.dev k.val cfg = 0 →
          (x.gapExec = none → (¬ timed ∨ at_ ≤ s.dev.tb) → begun t (gapNorm cfg) ∧
            (timed → at_ < s.dev.tb → stat t.dev Fld.LE_GAP_STAT_late = true)) ∧
          (x.gapExec ≠ none ∨ (timed ∧ s.dev.tb < at_) → (le t.dev k.val).gapExec = x.gapExec ∧
            (le t.dev k.val).gapPend = some (gapNorm cfg, if timed then some at_ else none) ∧
            stat t.dev Fld.LE_GAP_STAT_pending = true ∧ keepsRegs s.dev t.dev [Reg.LE_GAP_STAT.key [k.val]]))) ∧
    (∀ p : Path, pathPort p = none → ∃ t, exec (.gapCmdCancel p k) s = .next t ∧ t.mem = s.mem ∧
      (le t.dev k.val).gapPend = none ∧ (le t.dev k.val).gapExec = x.gapExec ∧ stat t.dev Fld.LE_GAP_STAT_pending = false ∧
      keepsRegs s.dev t.dev [Reg.LE_GAP_STAT.key [k.val]]) ∧
    (∀ (cfg at_ : Nat), x.gapPend = some (cfg, some at_) → x.gapExec = none → ∃ t, exec (.gapExecute k) s = .next t ∧ t.mem = s.mem ∧
      (at_ ≤ s.dev.tb → begun t cfg ∧ (at_ < s.dev.tb → stat t.dev Fld.LE_GAP_STAT_late = true)) ∧
      (s.dev.tb < at_ → t = { s with dev := s.dev.rest })) ∧
    (∀ (cfg : Nat) (need : List (BitVec 16)), x.gapExec = some cfg → x.gapPend = none → cfg < 2 ^ 32 →
      ∃ t, exec (.gapExecuteDone k need) s = .next t ∧ t.mem = s.mem ∧ (le t.dev k.val).gapExec = none ∧
        gapCur t.dev k.val = cfg ∧ stat t.dev Fld.LE_GAP_STAT_busy = false ∧
        rdReg t.dev Reg.LE_GAP_DONE_LO [k.val] = low32 s.dev.tb ∧ rdReg t.dev Reg.LE_GAP_DONE_HI [k.val] = high32 s.dev.tb ∧
        ∀ j, j < 8 → if gapOut (gapCur s.dev k.val) j = gapOut cfg j then blocked t.dev j = blocked s.dev j
          else blocked t.dev j = false ∧ (gapOut cfg j ≠ 0 → fget t.dev Reg.LE_GAP_AMP [k.val, j] Fld.LE_GAP_AMP_gain =
            min (need.getD j 0).toNat 192)) ∧
    (fbit s.dev Reg.LE_STAT [k.val] Fld.LE_STAT_conn = true → ∃ t, exec (.connectorOpen k) s = .next t ∧ t.mem = s.mem ∧
      fbit t.dev Reg.LE_STAT [k.val] Fld.LE_STAT_conn = false ∧ leState t.dev k.val = (if leState s.dev k.val = 4 then 4 else 3) ∧
      gapBlocked t.dev k.val = 255 ∧ gapCur t.dev k.val = gapCur s.dev k.val ∧
      (∀ j, j < 8 → fget t.dev Reg.LE_GAP_AMP [k.val, j] Fld.LE_GAP_AMP_gain = 0) ∧
      (∀ y ∈ allLasers, laserState t.dev k.val y.1 y.2 =
        if laserState s.dev k.val y.1 y.2 < 5 then 0 else laserState s.dev k.val y.1 y.2) ∧
      ∃ r ∈ t.dev.reports, r.source = 0x29 ∧ r.unit = 43 + k.val) ∧
    (fbit s.dev Reg.LE_STAT [k.val] Fld.LE_STAT_conn = false → ∃ t, exec (.connectorClosed k) s = .next t ∧ t.mem = s.mem ∧
      fbit t.dev Reg.LE_STAT [k.val] Fld.LE_STAT_conn = true ∧ t.dev.reports = s.dev.reports ∧
      (leState s.dev k.val = 3 → gapBlocked t.dev k.val = 0 ∧
        leState t.dev k.val = fget s.dev Reg.LE_CTL [k.val] Fld.LE_CTL_enable) ∧
      (leState s.dev k.val ≠ 3 → leState t.dev k.val = leState s.dev k.val)) ∧
    (leState s.dev k.val ≠ 4 → ∃ t, exec (.lightEngineDark k) s = .next t ∧ t.mem = s.mem ∧ leState t.dev k.val = 4 ∧
      gapCur t.dev k.val = 0 ∧ gapBlocked t.dev k.val = 255 ∧
      ∀ f, f < 8 → fget t.dev Reg.LE_FIBRE [k.val, f] Fld.LE_FIBRE_state = 1)

/-- A run is requested by command, by the period of the conservative profile or by a temperature change beyond dT: it
starts with every lane queued, or becomes pending. A single-lane request is held, or refused with its reason.
CAL_START erases the lane, sends CAL_GO where the pair's other fibre carries messages, and marks the receive ring; a
lane whose conditions do not hold is put off, and then skipped. CAL_GO calibrates or retunes the sender's ring and
answers CAL_TXDONE. CAL_TXDONE takes the master on. CAL_ABORT and CAL_SENDER_TIMEOUT return the ring to its hold code.
CAL_RX_DONE ends a calibration; CAL_ABANDON abandons one. CAL_REQ erases the lane and answers CAL_GO for a retune.
CAL_XING is granted only while the spare's lane alone is erased. -/
def Obligations.CalibrationBetweenTheEnds : Prop :=
  let msg (code lane op arg res : Nat) : List Byte :=
    leBytes 4 (6 + 256 * 4) ++ leBytes 4 (code + 16 * lane + 2 ^ 9 * op + 2 ^ 12 * arg + 2 ^ 17 * res)
  let mgmt (s : State) (g : Fin 128) := (getLq s.dev g.val).mgmt
  let cal (s : State) (g : Fin 128) := (leFib s.dev g.val).cal
  let calLaneOf (s : State) (g : Fin 128) := fget s.dev Reg.LE_CAL_FIBRE (lqIx g.val) Fld.LE_CAL_FIBRE_cal_lane
  let stepOf (s : State) (g : Fin 128) := fget s.dev Reg.LE_CAL_FIBRE (lqIx g.val) Fld.LE_CAL_FIBRE_step
  (∀ (s : State) (k : Fin 16),
    let stat (s : State) (f : Fld) := fget s.dev Reg.LE_CAL_STAT [k.val] f
    let asked (t : State) : Prop := t.mem = s.mem ∧
      keepsRegs s.dev t.dev [Reg.LE_CAL_STAT.key [k.val], Reg.LE_CAL_TEMP.key [k.val]] ∧ stat t Fld.LE_CAL_STAT_running = 1 ∧
      (stat s Fld.LE_CAL_STAT_running = 1 → stat t Fld.LE_CAL_STAT_pending = 1 ∧ t.dev.le = s.dev.le) ∧
      (stat s Fld.LE_CAL_STAT_running = 0 → stat t Fld.LE_CAL_STAT_pending = stat s Fld.LE_CAL_STAT_pending ∧
        fget t.dev Reg.LE_CAL_TEMP [k.val] Fld.LE_CAL_TEMP_t_last = fget s.dev Reg.LE_CAL_TEMP [k.val] Fld.LE_CAL_TEMP_t_now ∧
        ∀ f, f < 8 → (leFib t.dev (8 * k.val + f)).queue = List.range 18)
    let temp (f : Fld) := signed 16 (fget s.dev Reg.LE_CAL_TEMP [k.val] f)
    let due := fbit s.dev Reg.LE_CAL_CFG [k.val] Fld.LE_CAL_CFG_run_en = true ∧ conservative s.dev k.val = false ∧
      max 1 (fget s.dev Reg.LE_CAL_CFG [k.val] Fld.LE_CAL_CFG_dT) < (temp Fld.LE_CAL_TEMP_t_now - temp Fld.LE_CAL_TEMP_t_last).natAbs
    (∀ p : Path, pathPort p = none → ∃ t, exec (.leCalCmdRun p k) s = .next t ∧ asked t) ∧
    (conservative s.dev k.val = true → ∃ t, exec (.calRunPeriod k) s = .next t ∧ asked t) ∧
    (conservative s.dev k.val = false → exec (.calRunPeriod k) s = .next { s with dev := s.dev.rest }) ∧
    (due → ∃ t, exec (.calRunTrigger k) s = .next t ∧ asked t) ∧
    (¬ due → exec (.calRunTrigger k) s = .next { s with dev := s.dev.rest }) ∧
    (∀ (p : Path) (data : Word), pathPort p = none → Fld.LE_CAL_CMD_run.get data = 0 → Fld.LE_CAL_CMD_lane.get data = 1 →
      let lane := Fld.LE_CAL_CMD_lane_no.get data
      let single := (le s.dev k.val).single
      ∃ t, exec (.leCalCmdLane p k data) s = .next t ∧ t.mem = s.mem ∧
        (lane ≤ 17 → single = none → (le t.dev k.val).single = some (Fld.LE_CAL_CMD_fibre.get data, lane) ∧ t.dev.regs = s.dev.regs) ∧
        (17 < lane ∨ single ≠ none → t.dev.le = s.dev.le ∧ keepsRegs s.dev t.dev [Reg.LE_CAL_STAT.key [k.val]] ∧
          stat t Fld.LE_CAL_STAT_refused = 1 ∧ stat t Fld.LE_CAL_STAT_reason = if 17 < lane then 2 else 3))) ∧
  (∀ (s : State) (g : Fin 128) (l : Nat) (rest : List Nat), (le s.dev (g.val / 8)).single = none →
    (leFib s.dev g.val).queue = l :: rest → l < 18 →
    let up := pairUp s.dev g.val
    let skipped (s : State) := fget s.dev Reg.LE_CAL_STAT [g.val / 8] Fld.LE_CAL_STAT_skipped
    ∃ t, exec (.calStart g) s = .next t ∧ t.mem = s.mem ∧
      (calMayStart s.dev g.val = true → erasure t.dev g.val = 2 ^ l ∧ (leFib t.dev g.val).queue = rest ∧
        cal t g = some { lane := l, op := 0, sent := up } ∧ calLaneOf t g = l ∧ stepOf t g = (if up then 1 else 2) ∧
        mgmt t g = mgmt s g ++ (if up then [msg 1 l 0 0 0] else []) ∧
        ∀ h, ringFor s.dev g.val 1 (laneChan s.dev g.val 1 l) = some h → ringState t.dev (g.val / 8) h = 3 ∧
          heaterTarget t.dev (g.val / 8) h = heaterTarget s.dev (g.val / 8) h ∧
          fbit t.dev Reg.LE_CAL_RSTATE [g.val / 8, h] Fld.LE_CAL_RSTATE_stale = true) ∧
      (calMayStart s.dev g.val = false → cal s g = none → (leFib s.dev g.val).rxTransit = none →
        erasure t.dev g.val = erasure s.dev g.val ∧ cal t g = none ∧
        skipped t = if (leFib s.dev g.val).again then min (skipped s + 1) 255 else skipped s)) ∧
  (∀ (s : State) (g : Fin 128) (w : Nat) (d1 : Dev) (x : Tuned), takeCal s.dev g.val 0x1 = some (w, d1) →
    let k := g.val / 8
    let told (t : State) (res : Nat) := mgmt t g = mgmt s g ++ [msg 2 (calLane w) (calOp w) 0 res]
    let away := leState s.dev k ≠ 2 ∨ fbit s.dev Reg.LE_FIBRE (lqIx g.val) Fld.LE_FIBRE_tx_gap = true
    ∃ t, exec (.calGo g x) s = .next t ∧ t.mem = s.mem ∧ (away → told t 2 ∧ t.dev.regs = s.dev.regs) ∧
      (¬ away → calOp w < 2 → ∀ h, ringFor s.dev g.val 0 (laneChan s.dev g.val 0 (calLane w)) = some h →
        (x.ok = true → told t 0 ∧ ringState t.dev k h = 2 ∧ heaterTarget t.dev k h = x.target.toNat ∧
          holdCode t.dev k h = x.target.toNat) ∧
        (x.ok = false → calOp w = 0 → told t 1 ∧ ringState t.dev k h = 2 ∧ heaterTarget t.dev k h = holdCode s.dev k h) ∧
        (x.ok = false → calOp w = 1 → retuneMax s.dev k = 1 → told t 1 ∧ ringState t.dev k h = 6 ∧
          heaterTarget t.dev k h = heaterTarget s.dev k h) ∧
        (x.ok = false → calOp w = 1 → 1 < retuneMax s.dev k → mgmt t g = mgmt s g ∧ ringState t.dev k h = 3 ∧
          (leFib t.dev g.val).txOp = some (calLane w, h) ∧ (leFib t.dev g.val).txTries = 1))) ∧
  (∀ (s : State) (g : Fin 128) (w : Nat) (d1 : Dev) (c : Cal), takeCal s.dev g.val 0x2 = some (w, d1) → cal s g = some c →
    c.lane = calLane w → c.lane < 18 → calOp w = (if c.op = 3 then 2 else c.op) →
    let k := g.val / 8
    ∃ t, exec (.calTxdone g) s = .next t ∧ t.mem = s.mem ∧
      (calResult w = 0 → erasure t.dev g.val = erasure s.dev g.val ∧
        if c.op = 0 then cal t g = some { c with sent := false } ∧ stepOf t g = 2
        else cal t g = none ∧ calLaneOf t g = 31) ∧
      (calResult w = 1 → c.op = 0 → cal t g = some { lane := c.lane, op := 1 } ∧ tbit (erasure t.dev g.val) c.lane = true ∧
        ∀ h, ringFor s.dev g.val 1 (laneChan s.dev g.val 1 c.lane) = some h → ringState t.dev k h = 3 ∧
          heaterTarget t.dev k h = holdCode s.dev k h) ∧
      (calResult w = 1 → c.op = 1 → cal t g = some { lane := c.lane, op := 3 } ∧ erasure t.dev g.val = erasure s.dev g.val) ∧
      (2 ≤ calResult w → cal t g = none ∧ erasure t.dev g.val = erasure s.dev g.val ∧
        ∀ h, ringFor s.dev g.val 1 (laneChan s.dev g.val 1 c.lane) = some h → heaterTarget t.dev k h = holdCode s.dev k h)) ∧
  (∀ (s : State) (g : Fin 128) (c : Instr) (lane h : Nat), c = .calSenderTimeout g ∨ (c = .calAbort g ∧ (takeCal s.dev g.val 0x3).isSome) →
    (leFib s.dev g.val).txOp = some (lane, h) → h < 320 →
    let k := g.val / 8
    ∃ t, exec c s = .next t ∧ t.mem = s.mem ∧ (leFib t.dev g.val).txOp = none ∧ heaterTarget t.dev k h = holdCode s.dev k h ∧
      ringState t.dev k h = (if ringState s.dev k h = 3 then 2 else ringState s.dev k h)) ∧
  (∀ (s : State) (g : Fin 128) (x : Tuned) (c : Cal) (h : Nat), cal s g = some c → c.op = 0 → c.lane < 18 → stepOf s g = 2 →
    ringFor s.dev g.val 1 (laneChan s.dev g.val 1 c.lane) = some h →
    let k := g.val / 8
    let open_ := inGap s.dev g.val = false ∧ ones 18 (erasure s.dev g.val) ≤ 2 ∧ lqStat s.dev g.val Fld.LQ_STAT_los = 0
    ∃ t, exec (.calRxDone g x) s = .next t ∧ t.mem = s.mem ∧
      (x.ok = true → cal t g = none ∧ calLaneOf t g = 31 ∧ ringState t.dev k h = 2 ∧ heaterTarget t.dev k h = x.target.toNat ∧
        holdCode t.dev k h = x.target.toNat ∧ (ring t.dev k h).aRef = x.amp.toNat ∧
        (open_ → tbit (erasure t.dev g.val) c.lane = false)) ∧
      (x.ok = false → cal t g = some { lane := c.lane, op := 1 } ∧ ringState t.dev k h = 3 ∧
        heaterTarget t.dev k h = holdCode s.dev k h ∧ tbit (erasure t.dev g.val) c.lane = true)) ∧
  (∀ (s : State) (g : Fin 128),
    (∀ c, cal s g = some c → c.op = 0 → ∃ t, exec (.calAbandon g) s = .next t ∧ t.mem = s.mem ∧ cal t g = none ∧
      calLaneOf t g = 31 ∧ mgmt t g = mgmt s g ++ (if c.sent then [msg 3 c.lane 0 0 0] else []) ∧
      erasure t.dev g.val = erasure s.dev g.val ∧ ∀ h, ringFor s.dev g.val 1 (laneChan s.dev g.val 1 c.lane) = some h →
        heaterTarget t.dev (g.val / 8) h = holdCode s.dev (g.val / 8) h) ∧
    ((∀ c, cal s g = some c → c.op ≠ 0) → exec (.calAbandon g) s = .next { s with dev := s.dev.rest })) ∧
  (∀ (s : State) (g : Fin 128) (w : Nat) (d1 : Dev), takeCal s.dev g.val 0x4 = some (w, d1) → leState s.dev (g.val / 8) = 2 →
    calLane w < 18 → (∀ c, cal s g = some c → c.op = 0 → c.sent = false) →
    let now (op : Nat) (sent : Bool) : Option Cal := match cal s g with
      | some c => if c.op = 0 then some { lane := calLane w, op := op, sent := sent } else some c
      | none => some { lane := calLane w, op := op, sent := sent }
    (calOp w = 1 → ∃ t, exec (.calReq g) s = .next t ∧ t.mem = s.mem ∧ tbit (erasure t.dev g.val) (calLane w) = true ∧
      mgmt t g = mgmt s g ++ [msg 1 (calLane w) 1 0 0] ∧ cal t g = now 1 true) ∧
    (calOp w = 3 → ∃ t, exec (.calReq g) s = .next t ∧ t.mem = s.mem ∧ tbit (erasure t.dev g.val) (calLane w) = true ∧
      mgmt t g = mgmt s g ∧ cal t g = now 3 false)) ∧
  (∀ (s : State) (g : Fin 128) (w : Nat) (d1 : Dev), takeCal s.dev g.val 0x5 = some (w, d1) → calArg w < 18 →
    let lane := laneFor s.dev g.val 1 (calArg w)
    let own := if calLane w = lane then 0 else 2 ^ calLane w
    (calResult w ≠ 1 → erasure s.dev g.val = own → ∃ t, exec (.calXing g) s = .next t ∧ t.mem = s.mem ∧
      erasure t.dev g.val = own + 2 ^ lane ∧ mgmt t g = mgmt s g ++ [msg 5 (calLane w) 0 (calArg w) 1]) ∧
    (calResult w ≠ 1 → erasure s.dev g.val ≠ own → exec (.calXing g) s = .next { s with dev := s.dev.rest }) ∧
    (∀ x, calResult w = 1 → (leFib s.dev g.val).txTransit = some x → ∃ t, exec (.calXing g) s = .next t ∧ t.mem = s.mem ∧
      t.dev.regs = s.dev.regs ∧
      (leFib t.dev g.val).txTransit = some { x with erased := some (laneFor s.dev g.val 0 (calArg w)) }))

/-- LIGHT_ENGINE_START tests the lasers, searches the transmit rings and assigns the good ones by R335, or meets the
interlock; FAR_LIGHT_SEEN does the same for a receive row. A row with fewer than 18 good rings has its fibre fenced.
The bias and receive loops move a target within the hold window by the steps of R338 and R339, count failed lock tests
and record the hold code; THRESHOLD_UPDATE sets the threshold. RING_LOCK_LOSS puts a ring under retune. RETUNE locks
it, counts the attempt, or fails it after the last. SPARE_RING_TRANSIT and HOLD_WINDOW_EXCEEDED begin the transit of
the lowest parked good spare the way that R349 chooses, or fence the fibre. TRANSIT_CROSSING_DONE takes it across and
onto its channel. MON_TRIG starts, queues or drops a conversion; MON_CONVERSION_DONE publishes; MON_SYNC resets the
chain. -/
def Obligations.RingsStartHoldAndMoveToSpares : Prop :=
  let none_ : RingFit := { gap := false, resolved := 0, spacing := 0, lambda0 := 0 }
  let chanOf (s : State) (k h : Nat) := fget s.dev Reg.LE_RING_CTL [k, h] Fld.LE_RING_CTL_channel
  let fibState (s : State) (g : Nat) := fget s.dev Reg.LE_FIBRE (lqIx g) Fld.LE_FIBRE_state
  let msg (code lane op : Nat) : List Byte := leBytes 4 (6 + 256 * 4) ++ leBytes 4 (code + 16 * lane + 2 ^ 9 * op)
  let stale (s : State) (k h : Nat) := fbit s.dev Reg.LE_CAL_RSTATE [k, h] Fld.LE_CAL_RSTATE_stale
  (∀ (s : State) (k : Fin 16) (lit : BitVec 46) (fits : List RingFit), leState s.dev k.val < 2 →
    (leLocked s.dev k.val = true → fbit s.dev Reg.LE_CTL [k.val] Fld.LE_CTL_enable = true) →
    let fit (h : Nat) := fits.getD (20 * (h / 40) + h % 20) none_
    let good (h : Nat) := fitGood (s.fuses.ringOut.contains (320 * k.val + h)) (fit h)
    let goods (f : Nat) := ((List.range 20).map (fun r => 40 * f + r)).filter good
    ∃ t, exec (.lightEngineStart k lit fits) s = .next t ∧ t.mem = s.mem ∧
      fbit t.dev Reg.LE_CTL [k.val] Fld.LE_CTL_enable = true ∧
      (fbit s.dev Reg.LE_STAT [k.val] Fld.LE_STAT_conn = false → leState t.dev k.val = 3) ∧
      (fbit s.dev Reg.LE_STAT [k.val] Fld.LE_STAT_conn = true → leState t.dev k.val = 2 ∧
        (∀ b n, b < 2 → n < 18 → laserState t.dev k.val b n = if s.fuses.laserOut.contains (64 * k.val + (23 * b + n)) then 7
          else if laserState s.dev k.val b n = 6 then 6 else if tbit lit.toNat (23 * b + n) then 1 else 5) ∧
        ∀ f, f < 8 → ((goods f).length < 18 → fibState t (8 * k.val + f) = 1) ∧
          (∀ h, h / 40 = f → h % 40 < 20 → good h = false → ringState t.dev k.val h = 6 ∧ chanOf t k.val h = 31) ∧
          ∀ x ∈ assignRow (fun h c => (fitCodes (fit h)).getD c 0) (List.range 18) (goods f),
            chanOf t k.val x.1 = x.2 ∧ ringState t.dev k.val x.1 = 2 ∧
              heaterTarget t.dev k.val x.1 = (fitCodes (fit x.1)).getD x.2 0)) ∧
  (∀ (s : State) (g : Fin 128) (fits : List RingFit) (amps : List (BitVec 16)) (locked : BitVec 20),
    let k := g.val / 8
    leState s.dev k = 2 → fibState s g.val = 2 → inGap s.dev g.val = false →
    let fit (h : Nat) := fits.getD (h % 20) none_
    let good (h : Nat) := fitGood (s.fuses.ringOut.contains (320 * k + h)) (fit h)
    let goods := ((List.range 20).map (fun r => 40 * (g.val % 8) + 20 + r)).filter good
    ∃ t, exec (.farLightSeen g fits amps locked) s = .next t ∧ t.mem = s.mem ∧ fibState t g.val = (if goods.length < 18 then 1 else 0) ∧
      ∀ x ∈ assignRow (fun h c => (fitCodes (fit h)).getD c 0) (List.range 18) goods, chanOf t k x.1 = x.2 ∧
        heaterTarget t.dev k x.1 = (fitCodes (fit x.1)).getD x.2 0 ∧
        (18 ≤ goods.length → (ring t.dev k x.1).aRef = (amps.getD (x.1 % 20) 0).toNat ∧
          ringState t.dev k x.1 = if tbit locked.toNat (x.1 % 20) then 2 else 3)) ∧
  (∀ (s : State) (k : Fin 16) (h : Fin 320),
    let r := ring s.dev k.val h.val
    let tgt := heaterTarget s.dev k.val h.val
    let runs := loopRuns s.dev k.val h.val = true
    let gap := inGap s.dev (8 * k.val + h.val / 40)
    let moved (t : State) (step : Int) (ok lost : Bool) (held : Bool) : Prop :=
      let new := (tgt : Int) + step
      let takes := step ≠ 0 ∧ inHold new = true
      (takes → (heaterTarget t.dev k.val h.val : Int) = new) ∧ (¬ takes → heaterTarget t.dev k.val h.val = tgt) ∧
      ((ring t.dev k.val h.val).ask = true ↔ r.ask = true ∨ (step ≠ 0 ∧ inHold new = false)) ∧
      (ring t.dev k.val h.val).bad = (if lost then r.bad + 1 else 0) ∧
      holdCode t.dev k.val h.val = if ok && !held then heaterTarget t.dev k.val h.val else holdCode s.dev k.val h.val
    (h.val / 20 % 2 = 0 → ∀ rho : BitVec 32,
      (runs → let v := rho.toInt
        ∃ t, exec (.modBiasUpdate k h rho) s = .next t ∧ t.mem = s.mem ∧ moved t ((8 * (65536 - v)).tdiv 65536)
          (decide (4 * 65536 ≤ 5 * v ∧ 5 * v ≤ 6 * 65536)) (decide (2 * v < 65536 ∨ 3 * 65536 < 2 * v)) (stale s k.val h.val)) ∧
      (¬ runs → exec (.modBiasUpdate k h rho) s = .next { s with dev := s.dev.rest })) ∧
    (h.val / 20 % 2 = 1 → ∀ (plus minus : BitVec 16) (centred : Bool) (dm : BitVec 16),
      let ix := [k.val, h.val / 40, h.val % 20]
      let ok := centred && decide (16 * r.aRef ≤ 10 * (plus.toNat + minus.toNat))
      let held := readingHeld s.dev k.val h.val
      ∃ t, exec (.rxRingUpdate k h plus minus centred dm) s = .next t ∧ t.mem = s.mem ∧
        (held = true → fbit t.dev Reg.LE_MON_DM ix Fld.LE_MON_LM_stale = true ∧
          fget t.dev Reg.LE_MON_DM ix Fld.LE_MON_LM_power = fget s.dev Reg.LE_MON_DM ix Fld.LE_MON_LM_power) ∧
        (held = false → fbit t.dev Reg.LE_MON_DM ix Fld.LE_MON_LM_stale = false ∧ stale t k.val h.val = false ∧
          fget t.dev Reg.LE_MON_DM ix Fld.LE_MON_LM_power = dm.toNat) ∧
        (runs → gap = false → r.aRef ≠ 0 → moved t ((((plus.toNat : Int) - (minus.toNat : Int)) * 32).tdiv (r.aRef : Int)) ok (!ok)
          (held && stale s k.val h.val)) ∧
        (¬ runs ∨ gap = true → t.dev.le = s.dev.le ∧ heaterTarget t.dev k.val h.val = tgt)) ∧
    (h.val / 20 % 2 = 1 → ∀ mean : BitVec 16,
      (runs → gap = false → ∃ t, exec (.thresholdUpdate k h mean) s = .next t ∧ t.mem = s.mem ∧ t.dev.regs = s.dev.regs ∧
        ring t.dev k.val h.val = { r with threshold := mean.toNat } ∧
        t.dev.out = s.dev.out ++ [.optic k.val 4 h.val mean.toNat]) ∧
      (¬ runs ∨ gap = true → exec (.thresholdUpdate k h mean) s = .next { s with dev := s.dev.rest })) ∧
    (∀ linkSays : Bool,
      let g := 8 * k.val + h.val / 40
      let due := runs ∧ (3 ≤ r.bad ∨ 3 ≤ r.clamp ∨ linkSays = true)
      (¬ due → exec (.ringLockLoss k h linkSays) s = .next { s with dev := s.dev.rest }) ∧
      (due → let lane := laneFor s.dev g (h.val / 20 % 2) (chanOf s k.val h.val)
        ∃ t, exec (.ringLockLoss k h linkSays) s = .next t ∧ t.mem = s.mem ∧
        (h.val / 20 % 2 = 0 → ringState t.dev k.val h.val = 3 ∧ (getLq t.dev g).mgmt = (getLq s.dev g).mgmt ++ [msg 4 lane 1] ∧
          erasure t.dev g = erasure s.dev g) ∧
        (h.val / 20 % 2 = 1 → tbit (erasure t.dev g) lane = true ∧
          (ringFor s.dev g 1 (laneChan s.dev g 1 lane) = some h.val → ringState t.dev k.val h.val = 3 ∧
            stale t k.val h.val = true ∧ (ring t.dev k.val h.val).tries = 0)))) ∧
    (∀ x : Tuned, ringState s.dev k.val h.val = 3 →
      let g := 8 * k.val + h.val / 40
      let row := h.val / 20 % 2
      let tries := if row = 0 then (leFib s.dev g).txTries else r.tries
      let last := decide (retuneMax s.dev k.val ≤ tries + 1)
      (row = 0 → ∃ lane, (leFib s.dev g).txOp = some (lane, h.val)) →
      (row = 1 → chanOf s k.val h.val < 18 ∧ rxGapped s.dev g = false) →
      ∃ t, exec (.retune k h x) s = .next t ∧ t.mem = s.mem ∧
        fget t.dev Reg.LE_CAL_RSTATE [k.val, h.val] Fld.LE_CAL_RSTATE_retunes =
          min (fget s.dev Reg.LE_CAL_RSTATE [k.val, h.val] Fld.LE_CAL_RSTATE_retunes + 1) 7 ∧
        (x.ok = true → ringState t.dev k.val h.val = 2 ∧ heaterTarget t.dev k.val h.val = x.target.toNat ∧
          holdCode t.dev k.val h.val = x.target.toNat ∧ t.dev.reports = s.dev.reports ∧
          (row = 1 → (ring t.dev k.val h.val).aRef = x.amp.toNat)) ∧
        (x.ok = false → heaterTarget t.dev k.val h.val = tgt ∧
          (last = true → ringState t.dev k.val h.val = 6 ∧ t.dev.reports.length = s.dev.reports.length + 1 ∧
            fget t.dev Reg.LE_CAL_RSTATE [k.val, h.val] Fld.LE_CAL_RSTATE_reason = 2) ∧
          (last = false → ringState t.dev k.val h.val = 3 ∧ t.dev.reports = s.dev.reports ∧
            (if row = 0 then (leFib t.dev g).txTries else (ring t.dev k.val h.val).tries) = tries + 1))) ∧
    (∀ c : Instr, chanOf s k.val h.val < 18 →
      let g := 8 * k.val + h.val / 40
      let row := h.val / 20 % 2
      let transit (s : State) := if row = 0 then (leFib s.dev g).txTransit else (leFib s.dev g).rxTransit
      let spare := (lowest 20 (fun i => ringState s.dev k.val (h.val / 20 * 20 + i) == 0 &&
        (ring s.dev k.val (h.val / 20 * 20 + i)).good)).map (h.val / 20 * 20 + ·)
      transit s = none →
      (c = .spareRingTransit k h ∧ ringState s.dev k.val h.val = 6 ∧
        fget s.dev Reg.LE_CAL_RSTATE [k.val, h.val] Fld.LE_CAL_RSTATE_reason = 2) ∨
      (c = .holdWindowExceeded k h ∧ r.ask = true ∧ ringState s.dev k.val h.val = 2) →
      ∃ t, exec c s = .next t ∧ t.mem = s.mem ∧
        (spare = none → fibState t g = 1 ∧ transit t = none) ∧
        (∀ sp w, spare = some sp →
          let p := (ring s.dev k.val sp).park
          let gap : Int := (ringSpacing s.dev k.val sp : Nat)
          transitChoice (transitWays p gap (-3) ((2 * chanOf s k.val h.val : Nat) : Int)) = some w →
          ringState t.dev k.val sp = 5 ∧
          (heaterTarget t.dev k.val sp : Int) = clampInt 0 65535 (if w.1.toNat < p then (p : Int) - gap else (p : Int) + gap) ∧
          ∃ x, transit t = some x ∧ x.spare = sp ∧ x.old = h.val ∧ x.chan = chanOf s k.val h.val ∧ x.target = w.1.toNat ∧
            x.cross = w.2 ∧ (x.parkOld = true ↔ c = .holdWindowExceeded k h))) ∧
    (∀ (ok : Bool) (u : Tuned) (x : Transit),
      let g := 8 * k.val + h.val / 40
      let row := h.val / 20 % 2
      let transit (s : State) := if row = 0 then (leFib s.dev g).txTransit else (leFib s.dev g).rxTransit
      transit s = some x → x.spare = h.val → x.old < 320 →
      (∀ c cs lane, x.cross = c :: cs → x.erased = some lane → ok = false →
        exec (.transitCrossingDone k h ok u) s = .next { s with dev := s.dev.rest }) ∧
      (∀ c cs lane, x.cross = c :: cs → cs ≠ [] → x.erased = some lane → ok = true → ringSpacing s.dev k.val h.val ≤ tgt →
        ∃ t y, exec (.transitCrossingDone k h ok u) s = .next t ∧ t.mem = s.mem ∧ transit t = some y ∧ y.cross = cs ∧
          heaterTarget t.dev k.val h.val = if x.target < tgt then tgt - ringSpacing s.dev k.val h.val
            else min 65535 (tgt + ringSpacing s.dev k.val h.val)) ∧
      (x.cross = [] → x.chan < 18 → x.old ≠ h.val → x.parkOld = false → ∃ t, exec (.transitCrossingDone k h ok u) s = .next t ∧
        t.mem = s.mem ∧ transit t = none ∧ (u.ok = true → ringState t.dev k.val h.val = 2 ∧ chanOf t k.val h.val = x.chan ∧
          chanOf t k.val x.old = 31 ∧ heaterTarget t.dev k.val h.val = u.target.toNat) ∧
        (u.ok = false → ringState t.dev k.val h.val = 6)) ∧
      (x.cross = [] → 18 ≤ x.chan → x.target < 65536 → ∃ t, exec (.transitCrossingDone k h ok u) s = .next t ∧ t.mem = s.mem ∧
        transit t = none ∧ ringState t.dev k.val h.val = 0 ∧ (ring t.dev k.val h.val).good = true ∧
        heaterTarget t.dev k.val h.val = x.target))) ∧
  (∀ (s : State) (k : Fin 16),
    let res (s : State) (f : Fld) := fget s.dev Reg.LE_CAL_MON_RES [k.val] f
    let conv (s : State) := (le s.dev k.val).conv
    let named (w : Word) := (Fld.LE_CAL_MON_CTL_stage.get w, Fld.LE_CAL_MON_CTL_index.get w, Fld.LE_CAL_MON_CTL_gain.get w,
      Fld.LE_CAL_MON_CTL_span.get w)
    (∀ (p : Path) (data : Word), pathPort p = none → Fld.LE_CAL_MON_CTL_trig.get data = 1 →
      let bad := tapCount (Fld.LE_CAL_MON_CTL_stage.get data) ≤ Fld.LE_CAL_MON_CTL_index.get data
      ∃ t, exec (.monTrig p k data) s = .next t ∧ t.mem = s.mem ∧
        keepsRegs s.dev t.dev [Reg.LE_CAL_MON_CTL.key [k.val], Reg.LE_CAL_MON_RES.key [k.val]] ∧
        named (rdReg t.dev Reg.LE_CAL_MON_CTL [k.val]) = named data ∧
        (bad → conv t = conv s ∧ t.dev.reports.length = s.dev.reports.length + 1 ∧
          rdReg t.dev Reg.LE_CAL_MON_RES [k.val] = rdReg s.dev Reg.LE_CAL_MON_RES [k.val]) ∧
        (¬ bad → t.dev.reports = s.dev.reports ∧
          (res s Fld.LE_CAL_MON_RES_pending = 1 → conv t = conv s ∧ res t Fld.LE_CAL_MON_RES_trig_ovr = 1) ∧
          (res s Fld.LE_CAL_MON_RES_pending = 0 → conv s ≠ none → conv t = conv s ∧ res t Fld.LE_CAL_MON_RES_pending = 1) ∧
          (res s Fld.LE_CAL_MON_RES_pending = 0 → conv s = none → conv t = some (named data) ∧ res t Fld.LE_CAL_MON_RES_busy = 1))) ∧
    (∀ (power : BitVec 16) (gain : BitVec 2),
      (conv s = none → exec (.monConversionDone k power gain) s = .next { s with dev := s.dev.rest }) ∧
      (∀ c, conv s = some c → ∃ t, exec (.monConversionDone k power gain) s = .next t ∧ t.mem = s.mem ∧
        keepsRegs s.dev t.dev [Reg.LE_CAL_MON_RES.key [k.val]] ∧ res t Fld.LE_CAL_MON_RES_power = power.toNat ∧
        res t Fld.LE_CAL_MON_RES_valid = 1 ∧ res t Fld.LE_CAL_MON_RES_pending = 0 ∧
        res t Fld.LE_CAL_MON_RES_gain_used = (if c.2.2.1 = 0 then gain.toNat else c.2.2.1 % 4) ∧
        res t Fld.LE_CAL_MON_RES_busy = res s Fld.LE_CAL_MON_RES_pending ∧
        conv t = if res s Fld.LE_CAL_MON_RES_pending = 1 then some (named (rdReg s.dev Reg.LE_CAL_MON_CTL [k.val])) else none)) ∧
    (∀ p : Path, pathPort p = none → ∃ t, exec (.monSync p k) s = .next t ∧ t.mem = s.mem ∧ t.dev.regs = s.dev.regs ∧
      (le t.dev k.val).syncAt = s.dev.tb ∧ t.dev.reports = s.dev.reports))

/-- OQ_BLOCK_SEND of an ACTIVE link outside path mode sends one flit: a replayed flit; or IDLE with the replay buffer
full; or a LINK flit; or DATA of the VC that R371 selects, spending a credit; or CTL for a slip or a credit return; or
IDLE. A new sequenced flit takes the next number and the oldest slip, and is held for replay. In HOLD or DOWN a DOWN
flit leaves once a microsecond. CODE_BLOCK_RECEIVE keeps a flit that passes the check, counts one that fails, and asks
for a resend in ACTIVE. OQ_FLIT_ACCEPT acts on ack and nak of an IDLE flit; accepts the expected flit's credits, slip
and payload; discards a later one, asking for a resend; and discards a duplicate. OQ_NAK and OQ_REPLAY_TIMER resend
from the oldest flit held. SLIP_QUEUE holds up to 64 slips. -/
def Obligations.FlitsAreSentCheckedAndReplayed : Prop :=
  (∀ (s : State) (g : Fin 128), tbit (lqStat s.dev g.val Fld.LQ_STAT_path) 0 = false →
    let x := getLq s.dev g.val
    let q := seqTx s.dev g.val
    let st := lqState s.dev g.val
    let oq1 := lqOq1 s.dev g.val
    let wire (ftype vc seq crVc crCnt : Nat) (slip : Option Slip) (payload : List Byte) : Out := .fibre g.val 0
      ((encodeLanes (blockNow s.dev) (flitBytes oq1 ftype vc (bit x.nakOut) ((slip.map (·.kind)).getD 0) seq (lastAcc s.dev g.val)
        crVc crCnt ((slip.map (·.value)).getD 0) payload)).flatten)
    let plain (t : State) (ftype : Nat) : Prop := t.dev.out = s.dev.out ++ [wire ftype 0 q 0 0 none []] ∧
      t.dev.regs = s.dev.regs ∧ (getLq t.dev g.val).replay = x.replay ∧ (getLq t.dev g.val).txq = x.txq ∧
      (getLq t.dev g.val).nakOut = false
    let new (t : State) (ftype vc : Nat) (payload : List Byte) : Prop :=
      let cr := creditToReturn x
      let f : OFlit := { seq := q, ftype := ftype, vc := vc, slip := x.slips.head?, crVc := cr.1, crCnt := cr.2, payload := payload }
      t.dev.out = s.dev.out ++ [wire ftype vc q cr.1 cr.2 f.slip payload] ∧
      (getLq t.dev g.val).replay = x.replay ++ [f] ∧ (getLq t.dev g.val).slips = x.slips.drop 1 ∧
      seqTx t.dev g.val = (q + 1) % seqMod s.dev g.val ∧ nth4 (getLq t.dev g.val).freed cr.1 = nth4 x.freed cr.1 - cr.2
    let again := x.resend.bind (fun n => x.replay.find? (fun f => f.seq == n))
    ∃ t, exec (.oqBlockSend g) s = .next t ∧ t.mem = s.mem ∧ t.dev.reports = s.dev.reports ∧
      (st = 0 → t.dev.out = s.dev.out ∧ t.dev.lq = s.dev.lq) ∧
      (st = 5 → (∀ f, again = some f → t.dev.regs = s.dev.regs ∧ (getLq t.dev g.val).replay = x.replay ∧
          (getLq t.dev g.val).resend = (((x.replay.dropWhile (fun y => y.seq != f.seq)).drop 1).head?).map (·.seq) ∧
          t.dev.out = s.dev.out ++ [wire f.ftype f.vc f.seq f.crVc f.crCnt f.slip f.payload]) ∧
        (again = none →
          (819 ≤ x.replay.length → plain t 0) ∧
          (x.replay.length < 819 → x.mgmt ≠ [] → new t 2 0 (packMsgs 288 x.mgmt).1 ∧
            (getLq t.dev g.val).mgmt = (packMsgs 288 x.mgmt).2) ∧
          (x.replay.length < 819 → x.mgmt = [] →
            (∀ v, nextVc s.dev g.val = some v → ∃ c ∈ x.txq, c.1 % 4 = v ∧ (x.txq.find? (fun y => y.1 % 4 == v)) = some c ∧
              new t 1 v c.2 ∧ lqCredits t.dev g.val v = lqCredits s.dev g.val v - 1 ∧
              (getLq t.dev g.val).txq = x.txq.erase c) ∧
            (nextVc s.dev g.val = none → (x.slips ≠ [] ∨ (creditToReturn x).2 ≠ 0 → new t 3 0 []) ∧
              (x.slips = [] → (creditToReturn x).2 = 0 → plain t 0))))) ∧
      ((st = 6 ∨ st = 7) → blockNow s.dev % 400 = 0 → plain t 4)) ∧
  (∀ (s : State) (g : Fin 128) (n : BitVec 24) (lanes : List (List Byte)),
    let er := lanesOf (erasure s.dev g.val)
    let r := decodeColumns er (blockColumns n.toNat lanes)
    let passes (b : List Byte) : Prop := crcOk b = true ∧ fType b ≤ 4 ∧ ¬ (lqOq1 s.dev g.val = true ∧ fType b = 1 ∧ fVc b = 2)
    let err (s : State) (f : Fld) := fget s.dev Reg.LQ_ERR (lqIx g.val) f
    let x := getLq s.dev g.val
    let stale := x.nakAt = none ∨ ∃ at_, x.nakAt = some at_ ∧ at_ + fget s.dev Reg.LQ_RTT (lqIx g.val) Fld.LQ_RTT_rtt_ns + 200 ≤ s.dev.tb
    (lqState s.dev g.val = 0 ∨ unreadable s.dev g.val = true →
      exec (.codeBlockReceive g n lanes) s = .next { s with dev := s.dev.rest }) ∧
    (lqState s.dev g.val ≠ 0 → unreadable s.dev g.val = false → pathRx s.dev g.val = false →
      ∃ t, exec (.codeBlockReceive g n lanes) s = .next t ∧ t.mem = s.mem ∧ keepsRegs s.dev t.dev [Reg.LQ_ERR.key (lqIx g.val)] ∧
        err t Fld.LQ_ERR_corrected = min (err s Fld.LQ_ERR_corrected + r.count) 65535 ∧
        (∀ b, r.flit = some b → passes b → (getLq t.dev g.val).got = some b ∧ (getLq t.dev g.val).discards = 0 ∧
          err t Fld.LQ_ERR_check_fail = err s Fld.LQ_ERR_check_fail ∧ (getLq t.dev g.val).nakOut = x.nakOut) ∧
        ((∀ b, r.flit = some b → ¬ passes b) → (getLq t.dev g.val).got = none ∧
          err t Fld.LQ_ERR_check_fail = min (err s Fld.LQ_ERR_check_fail + 1) 65535 ∧
          (lqActive s.dev g.val = true → stale → (getLq t.dev g.val).nakOut = true)))) ∧
  (∀ (s : State) (g : Fin 128) (b : List Byte), (getLq s.dev g.val).got = some b → pathRx s.dev g.val = false →
    lqState s.dev g.val = 5 ∨ lqState s.dev g.val = 8 → fType b ≤ 3 →
    let x := getLq s.dev g.val
    let m := seqMod s.dev g.val
    let seq := if lqOq1 s.dev g.val then fSeq b % 2 ^ 16 else fSeq b
    let ack := if lqOq1 s.dev g.val then fAck b % 2 ^ 16 else fAck b
    let y (t : State) := getLq t.dev g.val
    let acked (t : State) : Prop := (y t).replay = x.replay.filter (fun f => !(seqAfter m ack f.seq)) ∧
      (y t).nakIn = (x.nakIn || fNak b)
    let ridden := (fSkind b = 1 ∨ fSkind b = 2) ∧ ¬ (fSkind b = 2 ∧ badCtl s.dev (fSlip b) = true)
    ∃ t, exec (.oqFlitAccept g) s = .next t ∧ t.mem = s.mem ∧ (y t).got = none ∧
      (fType b = 0 → acked t ∧ t.dev.regs = s.dev.regs ∧ (y t).rxCells = x.rxCells ∧ (y t).rxSlips = x.rxSlips) ∧
      (fType b ≠ 0 → seq = seqRx s.dev g.val → acked t ∧ seqRx t.dev g.val = (seq + 1) % m ∧
        lqCredits t.dev g.val (fCrVc b) = min (lqCredits s.dev g.val (fCrVc b) + fCrCnt b) 4095 ∧
        (ridden → (y t).rxSlips = x.rxSlips ++ [(fSkind b, fSlip b)]) ∧ (¬ ridden → (y t).rxSlips = x.rxSlips) ∧
        (fType b = 1 → (y t).rxCells = x.rxCells ++ [(fVc b, fPayload b)] ∧
          (x.acc.length = 4 → nth4 (y t).acc (fVc b) = (nth4 x.acc (fVc b) + 1) % 2 ^ 24)) ∧
        (fType b ≠ 1 → (y t).rxCells = x.rxCells) ∧ (fType b ≠ 2 → (y t).rxMsgs = x.rxMsgs)) ∧
      (fType b ≠ 0 → seq ≠ seqRx s.dev g.val → t.dev.regs = s.dev.regs ∧ (y t).rxCells = x.rxCells ∧ (y t).rxSlips = x.rxSlips ∧
        (y t).rxMsgs = x.rxMsgs ∧ (y t).replay = x.replay ∧ (seqAfter m seq (seqRx s.dev g.val) = false → (y t).nakOut = x.nakOut) ∧
        (seqAfter m seq (seqRx s.dev g.val) = true → x.nakAt = none → (y t).nakOut = true))) ∧
  (∀ (s : State) (g : Fin 128),
    let x := getLq s.dev g.val
    let resent (t : State) : Prop := t.mem = s.mem ∧ keepsRegs s.dev t.dev [Reg.LQ_REPLAY.key (lqIx g.val)] ∧
      (getLq t.dev g.val).resend = x.replay.head?.map (·.seq) ∧ (getLq t.dev g.val).replay = x.replay ∧
      fget t.dev Reg.LQ_REPLAY (lqIx g.val) Fld.LQ_REPLAY_replays =
        min (fget s.dev Reg.LQ_REPLAY (lqIx g.val) Fld.LQ_REPLAY_replays + 1) 65535
    (x.nakIn = true → x.replay ≠ [] → ∃ t, exec (.oqNak g) s = .next t ∧ resent t ∧ (getLq t.dev g.val).nakIn = false) ∧
    (x.nakIn = false → exec (.oqNak g) s = .next { s with dev := s.dev.rest }) ∧
    (let runs := x.replay ≠ [] ∧ lqStat s.dev g.val Fld.LQ_STAT_path = 0 ∧ lqActive s.dev g.val = true
     (runs → ∃ t, exec (.oqReplayTimer g) s = .next t ∧ resent t ∧ (getLq t.dev g.val).progress = s.dev.tb) ∧
     (¬ runs → exec (.oqReplayTimer g) s = .next { s with dev := s.dev.rest })) ∧
    (∀ (kind : Fin 4) (value : BitVec 64),
      (x.slips.length < 64 → kind.val = 1 ∨ kind.val = 2 → ∃ t, exec (.slipQueue g kind value) s = .next t ∧ t.mem = s.mem ∧
        t.dev.regs = s.dev.regs ∧ (getLq t.dev g.val).slips = x.slips ++ [{ kind := kind.val, value := value.toNat }]) ∧
      (64 ≤ x.slips.length → exec (.slipQueue g kind value) s = .next { s with dev := s.dev.rest })))

/-- LANE_ERASE puts a lane into E for a cause that holds, counting losses of block lock, and LANE_READMIT takes it out
where R364, R365 and R367 admit it; BLOCK_LOCK_TIMEOUT counts. LOS erases every lane and the receive rings hold;
LOS_END resumes them and trains. CREDIT_AUDIT_PERIOD sends A, O and P; CREDIT_CHECK computes deficits, records falls
below 75 %, and below half retrains or asks the lead. LQ_RETRAIN and OQ_RETRAIN_REQ return an ACTIVE link to WAIT at
the lead, keeping numbers, replay buffer and accepted flits. TRAINING_BLOCK_ALIGN aligns lanes; TRAINING_TIMER fails
an attempt. Role swaps are proposed, answered, collide or are refused. LQ_PATH_GO and PATH_MODE_APPLY set path mode at
once or at its instant, or refuse; PATH_FLIT_RECEIVE delivers and counts losses. -/
def Obligations.LanesCreditsRolesAndPathMode : Prop :=
  let x (s : State) (g : Fin 128) := getLq s.dev g.val
  let stat (s : State) (g : Fin 128) (f : Fld) := lqStat s.dev g.val f
  let events (s : State) (g : Fin 128) (f : Fld) := fget s.dev Reg.LQ_EVENTS (lqIx g.val) f
  (∀ (s : State) (g : Fin 128) (lane : Fin 18),
    let m := erasure s.dev g.val
    let here := tbit m lane.val
    (∀ cause : Fin 6,
      let holds := inGap s.dev g.val = false ∧ eraseCause s.dev g.val lane.val cause.val = true
      (¬ holds → exec (.laneErase g lane cause) s = .next { s with dev := s.dev.rest }) ∧
      (holds → ∃ t, exec (.laneErase g lane cause) s = .next t ∧ t.mem = s.mem ∧ t.dev.reports = s.dev.reports ∧
        erasure t.dev g.val = (if here then m else m + 2 ^ lane.val) ∧ (here = false → (x t g).hist = [] ∧ (x t g).discards = 0) ∧
        events t g Fld.LQ_EVENTS_lock_losses = if 3 ≤ cause.val then min (events s g Fld.LQ_EVENTS_lock_losses + 1) 255
          else events s g Fld.LQ_EVENTS_lock_losses)) ∧
    (let admitted := inGap s.dev g.val = false ∧ ones 18 m ≤ 2 ∧ here = true ∧ stat s g Fld.LQ_STAT_los = 0
     (¬ admitted → exec (.laneReadmit g lane) s = .next { s with dev := s.dev.rest }) ∧
     (admitted → ∃ t, exec (.laneReadmit g lane) s = .next t ∧ t.mem = s.mem ∧ erasure t.dev g.val = m - 2 ^ lane.val ∧
        (x t g).discards = 0)) ∧
    (here = true → ∃ t, exec (.blockLockTimeout g lane) s = .next t ∧ t.mem = s.mem ∧
      keepsRegs s.dev t.dev [Reg.LQ_EVENTS.key (lqIx g.val)] ∧
      events t g Fld.LQ_EVENTS_lock_losses = min (events s g Fld.LQ_EVENTS_lock_losses + 1) 255) ∧
    (here = false → exec (.blockLockTimeout g lane) s = .next { s with dev := s.dev.rest })) ∧
  (∀ (s : State) (g : Fin 128),
    let st (s : State) (r : Nat) := ringState s.dev (g.val / 8) (40 * (g.val % 8) + 20 + r)
    let turn (r : Nat) := 40 * (g.val % 8) + 20 + r
    (let dark := inGap s.dev g.val = false ∧ lqState s.dev g.val ≠ 0 ∧ stat s g Fld.LQ_STAT_los = 0
     (¬ dark → exec (.lossOfLight g) s = .next { s with dev := s.dev.rest }) ∧
     (dark → ∃ t, exec (.lossOfLight g) s = .next t ∧ t.mem = s.mem ∧ stat t g Fld.LQ_STAT_los = 1 ∧ erasure t.dev g.val = 2 ^ 18 - 1 ∧
       ∀ r, r < 20 → st s r = 2 ∨ st s r = 3 → st t r = 4 ∧
         heaterTarget t.dev (g.val / 8) (turn r) = holdCode s.dev (g.val / 8) (turn r))) ∧
    (∀ rings : BitVec 20, let lit := stat s g Fld.LQ_STAT_los = 1 ∧ 16 ≤ ones 20 rings.toNat
      (¬ lit → exec (.losEnd g rings) s = .next { s with dev := s.dev.rest }) ∧
      (lit → ∃ t, exec (.losEnd g rings) s = .next t ∧ t.mem = s.mem ∧ stat t g Fld.LQ_STAT_los = 0 ∧
        (∀ r, r < 20 → st t r = if st s r = 4 then 2 else st s r) ∧
        (lqState s.dev g.val ≠ 0 → (x t g).phase = 1 ∧ (x t g).aligned = 0)))) ∧
  (∀ (s : State) (g : Fin 128),
    let on := lqActive s.dev g.val = true
    let lead := lqLead s.dev g.val = true
    let back (t : State) : Prop := t.mem = s.mem ∧ lqState t.dev g.val = 1 ∧ (x t g).phase = 1 ∧ (x t g).aligned = 0 ∧
      events t g Fld.LQ_EVENTS_retrains = min (events s g Fld.LQ_EVENTS_retrains + 1) 255 ∧
      seqTx t.dev g.val = seqTx s.dev g.val ∧ seqRx t.dev g.val = seqRx s.dev g.val ∧ (x t g).replay = (x s g).replay ∧
      (x t g).rxCells = (x s g).rxCells ∧ (x t g).txq = (x s g).txq
    (on → lead → ∃ t, exec (.lqRetrain g) s = .next t ∧ back t) ∧
    (¬ (on ∧ lead) → exec (.lqRetrain g) s = .next { s with dev := s.dev.rest }) ∧
    ((takeMsg s.dev g.val 0x09).isSome → ∃ t, exec (.oqRetrainReq g) s = .next t ∧ (on → lead → back t) ∧
      (¬ (on ∧ lead) → t.mem = s.mem ∧ t.dev.regs = s.dev.regs)) ∧
    (let audits := on ∧ lqOq1 s.dev g.val = false
     let l := x s g
     (audits → ∃ t, exec (.creditAuditPeriod g) s = .next t ∧ t.mem = s.mem ∧ t.dev.regs = s.dev.regs ∧
       (x t g).mgmt = l.mgmt ++ [leBytes 4 (4 + 256 * 24) ++ ((List.range 4).map (fun v =>
         leBytes 6 (nth4 l.acc v + occupied l v % 2 ^ 12 * 2 ^ 24 + nth4 l.freed v % 2 ^ 12 * 2 ^ 36))).flatten]) ∧
     (¬ audits → exec (.creditAuditPeriod g) s = .next { s with dev := s.dev.rest })) ∧
    (∀ body d1, takeMsg s.dev g.val 0x04 = some (body, d1) → (∀ v, v < 4 → nth4 (x s g).windows v ≤ 2048) →
      let l := x s g
      let word (v : Nat) := leNat (slice body (6 * v) 6)
      let lost (v : Nat) := nth4 l.windows v - (lqCredits s.dev g.val v + (nth4 l.sent v + 2 ^ 24 - bits (word v) 23 0) % 2 ^ 24 +
        bits (word v) 35 24 + bits (word v) 47 36)
      let low (v : Nat) := decide ((nth4 l.windows v - lost v) * 4 < nth4 l.windows v * 3)
      let half := ∃ v, v < 4 ∧ (nth4 l.windows v - lost v) * 2 < nth4 l.windows v
      ∃ t, exec (.creditCheck g) s = .next t ∧ t.mem = s.mem ∧
        (∀ v, v < 4 → fget t.dev Reg.LQ_DEFICIT [g.val / 8, g.val % 8, v] Fld.LQ_DEFICIT_deficit = lost v ∧
          (x t g).fell.getD v false = low v ∧
          (low v = true → l.fell.getD v false = false →
            fbit t.dev Reg.LQ_DEFICIT [g.val / 8, g.val % 8, v] Fld.LQ_DEFICIT_low75 = true)) ∧
        t.dev.reports.length = s.dev.reports.length + ((List.range 4).filter (fun v => low v && !(l.fell.getD v false))).length ∧
        (half → on → lead → lqState t.dev g.val = 1 ∧
          events t g Fld.LQ_EVENTS_retrains = min (events s g Fld.LQ_EVENTS_retrains + 1) 255) ∧
        (half → on → ¬ lead → (x t g).mgmt = l.mgmt ++ [leBytes 4 (9 + 256 * 1) ++ leBytes 1 1 ++ leBytes 3 0]) ∧
        (¬ half ∨ ¬ on → (x t g).mgmt = l.mgmt ∧ lqState t.dev g.val = lqState s.dev g.val)) ∧
    (∀ (n st : Nat) (ack : Bool), n < 2 ^ 24 → st < 16 → 16 ≤ lockedRings s.dev g.val → stat s g Fld.LQ_STAT_los = 0 →
      let again := lqState s.dev g.val = 5 ∨ lqState s.dev g.val = 8
      again ∨ (x s g).phase = 1 ∨ (x s g).phase = 2 →
      let both := ack = true ∨ (¬ again ∧ (x s g).peerAck = true)
      ∃ t, exec (.trainingBlockAlign g ((List.range 18).map (fun l => trainBlock l st ack n))) s = .next t ∧ t.mem = s.mem ∧
        seqTx t.dev g.val = seqTx s.dev g.val ∧ seqRx t.dev g.val = seqRx s.dev g.val ∧
        ((x s g).aligned < 2 ^ 18 → (x t g).aligned = 2 ^ 18 - 1 ∧ (both → erasure t.dev g.val = 0)) ∧
        (both → (x t g).phase = 3) ∧ (¬ both → (x t g).phase = 2)) ∧
    (∀ p, (x s g).phase = p → (2 ≤ p ∧ p ≤ 4 → ∃ t, exec (.trainingTimer g) s = .next t ∧ t.mem = s.mem ∧ (x t g).phase = 1 ∧
        stat t g Fld.LQ_STAT_fail_reason = 1 ∧ stat t g Fld.LQ_STAT_attempts = min (stat s g Fld.LQ_STAT_attempts + 1) 255) ∧
      (¬ (2 ≤ p ∧ p ≤ 4) → exec (.trainingTimer g) s = .next { s with dev := s.dev.rest })) ∧
    (let may := on ∧ lqOq1 s.dev g.val = false
     ∀ p : Path, pathPort p = none → ∃ t, exec (.roleSwapPropose p g) s = .next t ∧ t.mem = s.mem ∧
       (may → (x t g).swapOpen = true ∧ (x t g).mgmt = (x s g).mgmt ++ [leBytes 4 7] ∧ t.dev.regs = s.dev.regs) ∧
       (¬ may → stat t g Fld.LQ_STAT_swap = 3 ∧ t.dev.lq = s.dev.lq ∧ keepsRegs s.dev t.dev [Reg.LQ_STAT.key (lqIx g.val)])) ∧
    ((takeMsg s.dev g.val 0x07).isSome → ∃ t, exec (.roleSwap g) s = .next t ∧ t.mem = s.mem ∧
      keepsRegs s.dev t.dev [Reg.LQ_STAT.key (lqIx g.val)] ∧ (x t g).swapOpen = false ∧
      ((x s g).swapOpen = true → stat t g Fld.LQ_STAT_swap = 2 ∧ (x t g).mgmt = (x s g).mgmt ∧
        (lqLead t.dev g.val = true ↔ s.fuses.pkgId.toNat < peerId s.dev g.val)) ∧
      ((x s g).swapOpen = false → stat t g Fld.LQ_STAT_swap = 1 ∧ (x t g).mgmt = (x s g).mgmt ++ [leBytes 4 8] ∧
        lqLead t.dev g.val = !(lqLead s.dev g.val))) ∧
    ((takeMsg s.dev g.val 0x08).isSome → ∃ t, exec (.roleAck g) s = .next t ∧ t.mem = s.mem ∧ (x t g).swapOpen = false ∧
      ((x s g).swapOpen = true → stat t g Fld.LQ_STAT_swap = 1 ∧ lqLead t.dev g.val = !(lqLead s.dev g.val)) ∧
      ((x s g).swapOpen = false → t.dev.regs = s.dev.regs))) ∧
  (∀ (s : State) (g : Fin 128),
    let old := stat s g Fld.LQ_STAT_path
    let applied (t : State) (mode vc : Nat) : Prop := stat t g Fld.LQ_STAT_path = mode % 4 ∧ (x t g).pathVc = vc ∧
      fbit t.dev Reg.LQ_PATH_STAT (lqIx g.val) Fld.LQ_PATH_STAT_locked = false ∧ (x t g).got = none ∧
      (x t g).pathSeq = (if tbit mode 0 && !(tbit old 0) then 0 else (x s g).pathSeq) ∧
      (x t g).pathExp = (if tbit mode 1 && !(tbit old 1) then 0 else (x s g).pathExp) ∧
      (mode = 0 → (x t g).resend = (x s g).replay.head?.map (·.seq)) ∧ (x t g).replay = (x s g).replay
    (∀ (p : Path) (data : Word), pathPort p = none → Fld.LQ_PATH_CTL_go.get data = 1 →
      let mode := Fld.LQ_PATH_CTL_mode.get data
      let vc := Fld.LQ_PATH_CTL_vc.get data
      let at_ := (rdReg s.dev Reg.LQ_PATH_TIME_LO (lqIx g.val)).toNat + 2 ^ 32 * (rdReg s.dev Reg.LQ_PATH_TIME_HI (lqIx g.val)).toNat
      let waits := Fld.LQ_PATH_CTL_at_time.get data = 1 ∧ s.dev.tb < at_
      let refused := lqOq1 s.dev g.val = true ∨ conservative s.dev (g.val / 8) = true
      ∃ t, exec (.lqPathGo p g data) s = .next t ∧ t.mem = s.mem ∧ Fld.LQ_PATH_CTL_mode.get (rdReg t.dev Reg.LQ_PATH_CTL (lqIx g.val)) = mode ∧
        (refused → stat t g Fld.LQ_STAT_fail_reason = 4 ∧ stat t g Fld.LQ_STAT_path = old ∧ t.dev.lq = s.dev.lq) ∧
        (¬ refused → waits → (x t g).pathPend = some (at_, mode, vc) ∧ stat t g Fld.LQ_STAT_path = old) ∧
        (¬ refused → ¬ waits → applied t mode vc)) ∧
    (∀ at_ mode vc, (x s g).pathPend = some (at_, mode, vc) →
      (s.dev.tb < at_ → exec (.pathModeApply g) s = .next { s with dev := s.dev.rest }) ∧
      (at_ ≤ s.dev.tb → ∃ t, exec (.pathModeApply g) s = .next t ∧ t.mem = s.mem ∧ applied t mode vc ∧ (x t g).pathPend = none)) ∧
    (∀ b, (x s g).got = some b → pathRx s.dev g.val = true → fType b = 1 →
      fbit s.dev Reg.LQ_PATH_STAT (lqIx g.val) Fld.LQ_PATH_STAT_locked = true →
      let gap := (fSeq b + 2 ^ 24 - (x s g).pathExp) % 2 ^ 24
      let lost (s : State) := fget s.dev Reg.LQ_PATH_STAT (lqIx g.val) Fld.LQ_PATH_STAT_lost
      ∃ t, exec (.pathFlitReceive g) s = .next t ∧ t.mem = s.mem ∧ (x t g).got = none ∧
        (2 ^ 23 ≤ gap → (x t g).rxPath = (x s g).rxPath ∧ t.dev.regs = s.dev.regs) ∧
        (gap < 2 ^ 23 → (x t g).rxPath = (x s g).rxPath ++ [(fVc b, fPayload b)] ∧ (x t g).pathExp = (fSeq b + 1) % 2 ^ 24 ∧
          lost t = min (lost s + (gap - (x s g).pathFails)) 65535)))

/-- TRAIN_PARAM agrees the revision, sets the credits to the announced free counts and begins RTT, or fails with REV.
ECHO_REQ answers, or takes the announced round trip; ECHO_RSP measures it, and the link is ACTIVE, or fails with
REACH. HELLO_MSG marks the fibre OK or MISWIRED; HELLO_PERIOD sends. FAB_CTL_START claims from IDLE or is refused;
CLAIM_MSG keeps the best claim; CLAIM_WINDOW_CLOSE makes a ROOT; ANNOUNCE_MSG is adopted by R415; FAB_CTL_LEAVE
returns to IDLE. TB_EXCHANGE_PERIOD, TB_REQ and TB_RSP steer the time base; PARENT_LOST takes a new parent. SLEEP_IDLE
proposes; proposals are accepted, cancelled, committed or lapse as Table 12.13 says; SLP_WAKE and DORMANT_TRAFFIC
wake. -/
def Obligations.LinksTrainElectAlignAndSleep : Prop :=
  let x (s : State) (g : Nat) := getLq s.dev g
  let stat (s : State) (g : Nat) (f : Fld) := lqStat s.dev g f
  let lm (ty : Nat) (body : List Byte) : List Byte :=
    leBytes 4 (ty + 256 * body.length) ++ body ++ leBytes ((4 - body.length % 4) % 4) 0
  let tbOf (s : State) (f : Fld) := fget s.dev Reg.FAB_TB [] f
  let rootHops (s : State) := fget s.dev Reg.FAB_ROOT [] Fld.FAB_ROOT_hops
  (∀ (s : State) (g : Fin 128),
    let failed (t : State) (reason : Nat) : Prop := (x t g.val).phase = 1 ∧ stat t g.val Fld.LQ_STAT_fail_reason = reason ∧
      stat t g.val Fld.LQ_STAT_attempts = min (stat s g.val Fld.LQ_STAT_attempts + 1) 255
    (∀ b d1, takeMsg s.dev g.val 0x01 = some (b, d1) → (x s g.val).phase = 3 →
      let seen := (x s g.val).seen || tbit (leNat (slice b 9 1)) 1
      let rev := agreeRev s.dev g.val (leNat (slice b 8 1) / 16)
      ∃ t, exec (.trainParam g) s = .next t ∧ t.mem = s.mem ∧
        (seen = false → (x t g.val).phase = 3 ∧ (x t g.val).peer = some b ∧ t.dev.regs = s.dev.regs) ∧
        (seen = true → rev = none → failed t 2) ∧
        (∀ r, seen = true → rev = some r → (x t g.val).phase = 4 ∧ stat t g.val Fld.LQ_STAT_oq1 = (if r = 1 then 1 else 0) ∧
          (∀ v, v < 4 → lqCredits t.dev g.val v = leNat (slice b (28 + 2 * v) 2) % 2 ^ 12 ∧
            fget t.dev Reg.LQ_DEFICIT [g.val / 8, g.val % 8, v] Fld.LQ_DEFICIT_deficit = 0) ∧
          (tbit (leNat (slice b 9 1)) 0 = false → lqState s.dev g.val ≠ 7 → (x s g.val).fresh = false →
            seqRx t.dev g.val = seqRx s.dev g.val ∧ (r = 2 → (x t g.val).replay =
              (x s g.val).replay.filter (fun f => !(seqAfter (2 ^ 24) (leNat (slice b 10 3)) f.seq)))) ∧
          (tbit (leNat (slice b 9 1)) 0 = true ∨ lqState s.dev g.val = 7 ∨ (x s g.val).fresh = true →
            seqRx t.dev g.val = leNat (slice b 13 3)))) ∧
    (∀ b d1, takeMsg s.dev g.val 0x02 = some (b, d1) →
      let mine := (x s g.val).phase = 4 ∧ lqLead s.dev g.val = false
      ∃ t, exec (.echoReq g) s = .next t ∧ t.mem = s.mem ∧ (¬ mine → t.dev.regs = s.dev.regs) ∧
        (mine → b.length < 12 → (x t g.val).mgmt = (x s g.val).mgmt ++
          [lm 3 (b.take 8 ++ leBytes 8 s.dev.tb ++ leBytes 8 s.dev.tb)] ∧ t.dev.regs = s.dev.regs) ∧
        (mine → 12 ≤ b.length → lqState t.dev g.val = 5 ∧ (x t g.val).fresh = false ∧
          fget t.dev Reg.LQ_RTT (lqIx g.val) Fld.LQ_RTT_rtt_ns = leNat (slice b 8 4) % 2 ^ 24)) ∧
    (∀ b d1, takeMsg s.dev g.val 0x03 = some (b, d1) → (x s g.val).phase = 4 → lqLead s.dev g.val = true →
      let rtt := (s.dev.tb - leNat (b.take 8)) - (leNat (slice b 16 8) - leNat (slice b 8 8))
      ∃ t, exec (.echoRsp g) s = .next t ∧ t.mem = s.mem ∧ (21100 < rtt → failed t 3) ∧
        (rtt ≤ 21100 → lqState t.dev g.val = 5 ∧ fget t.dev Reg.LQ_RTT (lqIx g.val) Fld.LQ_RTT_rtt_ns = rtt ∧
          ∃ hello, (x t g.val).mgmt = (x s g.val).mgmt ++ [lm 2 (leBytes 8 (leNat (b.take 8)) ++ leBytes 4 rtt), hello])) ∧
    (∀ b d1, takeFabric s.dev g.val 0x01 = some (b, d1) →
      let fdir (t : State) (f : Fld) := fget t.dev Reg.FAB_FDIR [g.val] f
      ∃ t, exec (.helloMsg g) s = .next t ∧ t.mem = s.mem ∧ fdir t Fld.FAB_FDIR_peer = leNat (slice b 1 2) ∧
        fdir t Fld.FAB_FDIR_dir = fdir s Fld.FAB_FDIR_dir ∧
        (helloOk s.dev g.val b = true → fdir t Fld.FAB_FDIR_state = 1 ∧ t.dev.reports = s.dev.reports) ∧
        (helloOk s.dev g.val b = false → fdir t Fld.FAB_FDIR_state = 2 ∧ keepsRegs s.dev t.dev [Reg.FAB_FDIR.key [g.val]] ∧
          ∃ r, t.dev.reports = s.dev.reports ++ [r] ∧ r.source = 0x05)) ∧
    (lqState s.dev g.val = 5 → ∃ t, exec (.helloPeriod g) s = .next t ∧ t.mem = s.mem ∧ t.dev.regs = s.dev.regs ∧
      (x t g.val).mgmt = (x s g.val).mgmt ++ [lm 0x0A (leBytes 1 1 ++ (leBytes 2 (ownNode s.dev) ++
        ((List.range 4).map (fun i => leBytes 2 (dimCoord s.dev i))).flatten ++ leBytes 1 (fibreDir s.dev g.val) ++
        leBytes 8 (rootId s.dev) ++ leBytes 2 (fabGen s.dev) ++ leBytes 2 (rootHops s)))]) ∧
    (lqState s.dev g.val ≠ 5 → lqState s.dev g.val ≠ 8 → exec (.helloPeriod g) s = .next { s with dev := s.dev.rest })) ∧
  (∀ s : State,
    (∀ p : Path, pathPort p = none → ∃ t, exec (.fabCtlStart p) s = .next t ∧ t.mem = s.mem ∧
      (fabState s.dev = 0 → fabState t.dev = 1 ∧
        t.dev.fab.best = some (s.fuses.pkgId.toNat, ownNode s.dev, max s.dev.fab.maxGen (fabGen s.dev), 0)) ∧
      (fabState s.dev ≠ 0 → fabState t.dev = fabState s.dev ∧ fget t.dev Reg.FAB_STAT [] Fld.FAB_STAT_start_ref = 1 ∧
        t.dev.lq = s.dev.lq ∧ t.dev.fab = s.dev.fab)) ∧
    (∀ p : Path, pathPort p = none → ∃ t, exec (.fabCtlLeave p) s = .next t ∧ t.mem = s.mem ∧ fabState t.dev = 0 ∧
      fabGen t.dev = 0 ∧ parentOf t.dev = 0xFF ∧ t.dev.fab.maxGen = max s.dev.fab.maxGen (fabGen s.dev) ∧ t.dev.fab.best = none) ∧
    (fabState s.dev = 1 → ∃ t, exec .claimWindowClose s = .next t ∧ t.mem = s.mem ∧ fabState t.dev = 3 ∧
      fabGen t.dev = (max s.dev.fab.maxGen (fabGen s.dev) + 1) % 2 ^ 16 ∧ rootId t.dev = s.fuses.pkgId.toNat ∧ rootHops t = 0) ∧
    (fabState s.dev ≠ 1 → exec .claimWindowClose s = .next { s with dev := s.dev.rest }) ∧
    (∀ (g : Fin 128) b d1, takeFabric s.dev g.val 0x02 = some (b, d1) →
      let id := leNat (slice b 1 8)
      let better := ∀ y, s.dev.fab.best = some y → id < y.1
      ∃ t, exec (.claimMsg g) s = .next t ∧ t.mem = s.mem ∧ t.dev.fab.maxGen = max s.dev.fab.maxGen (leNat (slice b 11 2)) ∧
        (better → t.dev.fab.best = some (id, leNat (slice b 9 2), leNat (slice b 11 2), leNat (slice b 13 2)) ∧
          fabState t.dev = if fabState s.dev = 1 then 2 else fabState s.dev) ∧
        (¬ better → t.dev.fab.best = s.dev.fab.best ∧ t.dev.regs = s.dev.regs)) ∧
    (∀ (g : Fin 128) b d1, takeFabric s.dev g.val 0x03 = some (b, d1) →
      let id := leNat (slice b 1 8)
      let gen := leNat (slice b 11 2)
      let hops := leNat (slice b 13 2)
      let better := fabGen s.dev < gen ∨ (gen = fabGen s.dev ∧ gen ≠ 0 ∧ id < rootId s.dev)
      let nearer := fabState s.dev = 4 ∧ gen = fabGen s.dev ∧ id = rootId s.dev ∧ (hops + 1 < rootHops s ∨
        (hops + 1 = rootHops s ∧ g.val < parentOf s.dev) ∨ parentOf s.dev = 0xFF)
      ∃ t, exec (.announceMsg g) s = .next t ∧ t.mem = s.mem ∧
        (better → fabState t.dev = 4 ∧ fabGen t.dev = gen ∧ rootId t.dev = id ∧ tbOf t Fld.FAB_TB_aligned = 0) ∧
        (better ∨ nearer → parentOf t.dev = g.val ∧ rootHops t = min (hops + 1) 65535) ∧
        (¬ better → nearer → fabState t.dev = 4 ∧ t.dev.tb = s.dev.tb) ∧ (¬ better → ¬ nearer → t.dev.regs = s.dev.regs)) ∧
    (let asks := fabState s.dev = 4 ∧ parentOf s.dev < 128
     (asks → ∃ t, exec .tbExchangePeriod s = .next t ∧ t.mem = s.mem ∧ t.dev.fab.tbSent = some s.dev.tb ∧
       (x t (parentOf s.dev)).mgmt = (x s (parentOf s.dev)).mgmt ++ [lm 0x0A (leBytes 1 4 ++ leBytes 8 s.dev.tb)]) ∧
     (¬ asks → exec .tbExchangePeriod s = .next { s with dev := s.dev.rest })) ∧
    (∀ (g : Fin 128) b d1, takeFabric s.dev g.val 0x04 = some (b, d1) → ∃ t, exec (.tbReq g) s = .next t ∧ t.mem = s.mem ∧
      t.dev.tb = s.dev.tb ∧ (x t g.val).mgmt = (x s g.val).mgmt ++
        [lm 0x0A (leBytes 1 5 ++ (slice b 1 8 ++ leBytes 8 s.dev.tb ++ leBytes 8 s.dev.tb))]) ∧
    (∀ (g : Fin 128) b d1, takeFabric s.dev g.val 0x05 = some (b, d1) → fabState s.dev = 4 → parentOf s.dev = g.val →
      s.dev.fab.tbSent = some (leNat (slice b 1 8)) →
      let twice : Int := ((leNat (slice b 9 8) : Int) - (leNat (slice b 1 8) : Int)) - ((s.dev.tb : Int) - (leNat (slice b 17 8) : Int))
      ∃ t th, exec (.tbRsp g) s = .next t ∧ t.mem = s.mem ∧ (twice = 2 * th ∨ twice = 2 * th + 1 ∨ twice = 2 * th - 1) ∧
        tbOf t Fld.FAB_TB_offset = unsigned 16 (clampInt (-32768) 32767 th) ∧ t.dev.fab.tbSent = none ∧ t.dev.fab.firstTb = false ∧
        (s.dev.fab.firstTb = true → 1000 < th.natAbs → t.dev.tb = ((s.dev.tb : Int) + th).toNat % 2 ^ 64 ∧
          tbOf t Fld.FAB_TB_stepped = 1) ∧
        (s.dev.fab.firstTb = false ∨ th.natAbs ≤ 1000 → t.dev.tb = s.dev.tb ∧
          t.dev.fab.good = (if th.natAbs ≤ 2 then min 8 (s.dev.fab.good + 1) else 0) ∧
          t.dev.fab.slew = clampInt (-50) 50 th ∧
          (t.dev.fab.good = 8 → tbOf t Fld.FAB_TB_aligned = 1) ∧ (8 < th.natAbs → tbOf t Fld.FAB_TB_aligned = 0) ∧
          (t.dev.fab.good < 8 → th.natAbs ≤ 8 → tbOf t Fld.FAB_TB_aligned = tbOf s Fld.FAB_TB_aligned))) ∧
    (let lost := fabState s.dev = 4 ∧ parentOf s.dev < 128 ∧ usable s.dev (parentOf s.dev) = false
     (lost → ∃ t, exec .parentLost s = .next t ∧ t.mem = s.mem ∧ fabState t.dev = 4 ∧ tbOf t Fld.FAB_TB_aligned = 0 ∧
       parentOf t.dev = (bestParent s.dev).getD 0xFF ∧ t.dev.tb = s.dev.tb) ∧
     (¬ lost → exec .parentLost s = .next { s with dev := s.dev.rest }))) ∧
  (∀ (s : State) (g : Fin 128), (x s g.val).slips.length < 64 →
    let sent (t : State) (code : Nat) := (x t g.val).slips = (x s g.val).slips ++ [ctlSlip s.dev g.val code 0 0]
    let quiet := noTraffic s.dev g.val
    let on := lqActive s.dev g.val = true
    let sleep := (x s g.val).sleep
    (sleepOk s.dev g.val = true → sleep = 0 → ∃ t, exec (.sleepIdle g) s = .next t ∧ t.mem = s.mem ∧ t.dev.regs = s.dev.regs ∧
      (x t g.val).sleep = 1 ∧ sent t 4) ∧
    (¬ (sleepOk s.dev g.val = true ∧ sleep = 0) → exec (.sleepIdle g) s = .next { s with dev := s.dev.rest }) ∧
    ((takeCtl s.dev g.val 4).isSome → ∃ t, exec (.slpPropose g) s = .next t ∧ t.mem = s.mem ∧ t.dev.regs = s.dev.regs ∧
      let leads := s.fuses.pkgId.toNat < peerId s.dev g.val
      (sleep = 1 → leads → (x t g.val).sleep = 1 ∧ (x t g.val).slips = (x s g.val).slips) ∧
      ((sleep = 1 ∧ ¬ leads) ∨ (sleep ≠ 1 ∧ sleepOk s.dev g.val = true) → (x t g.val).sleep = 2 ∧ sent t 5) ∧
      (sleep ≠ 1 → sleepOk s.dev g.val = false → (x t g.val).sleep = sleep ∧ sent t 7)) ∧
    ((takeCtl s.dev g.val 5).isSome → sleep = 1 → ∃ t, exec (.slpAccept g) s = .next t ∧ t.mem = s.mem ∧ (x t g.val).sleep = 0 ∧
      let commits := quiet = true ∧ (x s g.val).slips = [] ∧ on
      (commits → lqState t.dev g.val = 8 ∧ t.dev.out.length = s.dev.out.length + 1 ∧
        ∃ f, (x t g.val).replay = (x s g.val).replay ++ [f] ∧ f.ftype = 3 ∧ f.slip = some (ctlSlip s.dev g.val 6 0 0)) ∧
      (¬ commits → t.dev.regs = s.dev.regs ∧ sent t 7)) ∧
    ((takeCtl s.dev g.val 6).isSome → 2 ≤ sleep → on → ∃ t, exec (.slpCommit g) s = .next t ∧ t.mem = s.mem ∧ (x t g.val).sleep = 0 ∧
      (quiet = true → sleep = 2 → lqState t.dev g.val = 8 ∧ (x t g.val).slips = (x s g.val).slips) ∧
      (quiet = false ∨ sleep = 3 → lqState t.dev g.val = 5 ∧ sent t 8)) ∧
    ((takeCtl s.dev g.val 7).isSome → ∃ t, exec (.slpCancel g) s = .next t ∧ t.mem = s.mem ∧ t.dev.regs = s.dev.regs ∧
      (x t g.val).sleep = 0) ∧
    ((takeCtl s.dev g.val 8).isSome → ∃ t, exec (.slpWake g) s = .next t ∧ t.mem = s.mem ∧
      lqState t.dev g.val = if lqState s.dev g.val = 8 then 5 else lqState s.dev g.val) ∧
    (sleep = 1 → ∃ t, exec (.sleepProposalLapse g) s = .next t ∧ t.mem = s.mem ∧ t.dev.regs = s.dev.regs ∧ (x t g.val).sleep = 0) ∧
    (sleep ≠ 1 → exec (.sleepProposalLapse g) s = .next { s with dev := s.dev.rest }) ∧
    (quiet = true → exec (.dormantTraffic g) s = .next { s with dev := s.dev.rest }) ∧
    (quiet = false → ∃ t, exec (.dormantTraffic g) s = .next t ∧ t.mem = s.mem ∧
      (lqState s.dev g.val = 8 → lqState t.dev g.val = 5 ∧ sent t 8) ∧
      (on → sleep = 2 → (x t g.val).sleep = 3 ∧ sent t 7 ∧ lqActive t.dev g.val = true)))

/-- LINK_DOWN_TIMER and DOWN_FLIT take a link in service to HOLD, or flush it at once on OQ1 or with no grace, and
training starts again; GRACE_EXPIRY flushes: queue, replay buffer and slips are empty, credits zero, the state DOWN
and Hawthorn told. CELL_ARRIVE frees a buffer and delivers a cell for this node, sends another on by the route of R403
to R405, returns an ERR cell for one that has no route, or discards and records a malformed one. CTR_ADD, CTR_SET and
CTR_MAX perform the operation where R409 admits it, and the answer goes to the source; ADD_SLIP does so without an
answer, or refuses with the ordinal. CTR_RSP DONE frees the entry; any other answer, ERR_CELL and REMOTE_TIMEOUT fail
it with a record; ADD_REFUSE fails the slip's operation, or is counted. -/
def Obligations.CellsAreRoutedAndRemoteOperationsEnd : Prop :=
  let x (s : State) (g : Nat) := getLq s.dev g
  let events (s : State) (g : Nat) (f : Fld) := fget s.dev Reg.LQ_EVENTS (lqIx g) f
  let err (s : State) (f : Fld) := fget s.dev Reg.FAB_ERR [] f
  let recs (s : State) (st : Nat) := (Sparse.get {} s.dev.strm st).recs
  let answer (s : State) (c : Cell) (kind object value : Nat) : Cell :=
    { dst := c.src, src := ownNode s.dev, kind := kind, tag := c.tag, object := object, value := value }
  let coreOf (s : State) (st : Nat) := fget s.dev Reg.HUB_STRM_CFG [st] Fld.HUB_STRM_CFG_core
  let failRec (s : State) (st q : Nat) : CRec := { seq := q, status := 0x94, kind := 2, time := s.dev.tb, core := coreOf s st }
  (∀ (s : State) (g : Fin 128),
    let serves := lqActive s.dev g.val = true ∨ lqState s.dev g.val = 8
    let flushed (t : State) : Prop := (x t g.val).txq = [] ∧ (x t g.val).replay = [] ∧ (x t g.val).slips = [] ∧
      (∀ v, v < 4 → lqCredits t.dev g.val v = 0) ∧ lqState t.dev g.val = 7 ∧
      events t g.val Fld.LQ_EVENTS_flushes = min (events s g.val Fld.LQ_EVENTS_flushes + 1) 255 ∧
      ∃ r ∈ t.dev.reports, r.source = 0x2A ∧ r.unit = unitLe (g.val / 8) ∧ r.sub = g.val % 8
    let down (t : State) (replay : List OFlit) : Prop := t.mem = s.mem ∧ (x t g.val).phase = 1 ∧
      events t g.val Fld.LQ_EVENTS_downs = min (events s g.val Fld.LQ_EVENTS_downs + 1) 255 ∧
      let now := lqOq1 s.dev g.val = true ∨ fget s.dev Reg.LQ_CFG (lqIx g.val) Fld.LQ_CFG_grace = 0
      (now → flushed t) ∧ (¬ now → lqState t.dev g.val = 6 ∧ (x t g.val).replay = replay ∧ (x t g.val).txq = (x s g.val).txq ∧
        (x t g.val).slips = (x s g.val).slips ∧ t.dev.reports = s.dev.reports)
    (let fails := serves ∧ rxGapped s.dev g.val = false ∧ (unreadable s.dev g.val = true ∨ (x s g.val).replay ≠ [])
     (fails → ∃ t, exec (.linkDownTimer g) s = .next t ∧ down t (x s g.val).replay) ∧
     (¬ fails → exec (.linkDownTimer g) s = .next { s with dev := s.dev.rest })) ∧
    (∀ b, (x s g.val).got = some b → fType b = 4 → ∃ t, exec (.downFlit g) s = .next t ∧ (x t g.val).got = none ∧
      let ack := if lqOq1 s.dev g.val then fAck b % 2 ^ 16 else fAck b
      let kept := (x s g.val).replay.filter (fun f => !(seqAfter (seqMod s.dev g.val) ack f.seq))
      (serves → down t kept) ∧ (¬ serves → t.mem = s.mem ∧ t.dev.regs = s.dev.regs ∧ (x t g.val).replay = kept)) ∧
    (lqState s.dev g.val = 6 → ∃ t, exec (.graceExpiry g) s = .next t ∧ t.mem = s.mem ∧ flushed t) ∧
    (lqState s.dev g.val ≠ 6 → exec (.graceExpiry g) s = .next { s with dev := s.dev.rest }) ∧
    (∀ (vc : Fin 4) b d1, vc.val ≠ 2 → fibreState s.dev g.val = 1 → takePayload s.dev.rest g.val vc.val = some (b, d1) →
      let c := cellOf b
      let fits := kindVc c.kind = some vc.val
      ∃ t, exec (.cellArrive g vc) s = .next t ∧ t.mem = s.mem ∧ nth4 (x t g.val).freed vc.val = nth4 (getLq d1 g.val).freed vc.val ∧
        (x t g.val).rxCells = (x s g.val).rxCells.erase (vc.val, b) ∧
        (¬ fits → err t Fld.FAB_ERR_ctl = min (err s Fld.FAB_ERR_ctl + 1) 255 ∧
          t.dev.reports.length = s.dev.reports.length + 1 ∧ t.dev.fab = s.dev.fab) ∧
        (fits → c.dst = ownNode s.dev → t.dev.fab.cells = s.dev.fab.cells ++ [(g.val, c.bytes)] ∧ t.dev.regs = s.dev.regs) ∧
        (∀ f c' entering, fits → c.dst ≠ ownNode s.dev → routeCell d1 (some g.val) c = .ok (f, c', entering) →
          (x t f).txq = (getLq d1 f).txq ++ [(vc.val + 4 * bit entering, c'.bytes)] ∧ t.dev.fab.cells = s.dev.fab.cells) ∧
        (∀ r, fits → c.dst ≠ ownNode s.dev → routeCell d1 (some g.val) c = .error r → c.kind ≠ 7 → isResponse c.kind = false →
          c.src = ownNode s.dev → t.dev.fab.cells = s.dev.fab.cells ++ [(128, (answer s c 7 c.kind r).bytes)]))) ∧
  (∀ (s : State) (op : Fin 3) (g : Nat) (c : Cell) (d1 : Dev),
    let kind := if op.val = 0 then 1 else if op.val = 2 then 2 else 3
    takeCell s.dev kind = some (g, c, d1) →
    let cmd : Instr := if op.val = 0 then .ctrAdd else if op.val = 2 then .ctrSet else .ctrMax
    let q := partOfCounter s.dev c.object
    let admitted := ∃ p, q = some p ∧ fget s.dev Reg.FAB_PIN [p] Fld.FAB_PIN_lo ≤ c.src ∧ c.src ≤ fget s.dev Reg.FAB_PIN [p] Fld.FAB_PIN_hi
    let new := ctrApply (getCtr s.dev c.object) none op.val c.value
    ∃ t code, exec cmd s = .next t ∧ t.mem = s.mem ∧
      (¬ admitted → t.dev.ctr = s.dev.ctr ∧ code = 1) ∧
      (admitted → new = none → t.dev.ctr = s.dev.ctr ∧ code = if op.val = 2 then 3 else 2) ∧
      (∀ y, admitted → new = some y → getCtr t.dev c.object = y ∧ (∀ k, k ≠ c.object → getCtr t.dev k = getCtr s.dev k) ∧ code = 0) ∧
      (c.src = ownNode s.dev → t.dev.fab.cells = d1.fab.cells ++ [(128, (answer s c 4 c.object code).bytes)])) ∧
  (∀ (s : State) (g : Fin 128) (w : Nat) (d1 : Dev), takeSlip s.dev g.val (fun y => y.1 == 1) = some (w, d1) →
    fibreState s.dev g.val = 1 → bits w 15 0 = ownNode s.dev → (x s g.val).slips.length < 64 →
    let k := bits w 31 16
    let ord := (x s g.val).slipRx
    let admitted := pinAdmits s.dev (partOfCounter s.dev k) (fibrePeer s.dev g.val) = true
    let new := ctrAdd (getCtr s.dev k) (bits w 63 32)
    let refused (t : State) (code : Nat) : Prop := t.dev.ctr = s.dev.ctr ∧ (x t g.val).slips = (x s g.val).slips ++
      [{ kind := 2, value := fibrePeer s.dev g.val + 9 * 2 ^ 16 + code * 2 ^ 20 + ord * 2 ^ 32 }]
    ∃ t, exec (.addSlip g) s = .next t ∧ t.mem = s.mem ∧ t.dev.regs = s.dev.regs ∧ (x t g.val).slipRx = (ord + 1) % 2 ^ 16 ∧
      (¬ admitted → refused t 1) ∧ (admitted → new = none → refused t 2) ∧
      (∀ y, admitted → new = some y → getCtr t.dev k = y ∧ (∀ j, j ≠ k → getCtr t.dev j = getCtr s.dev j) ∧
        (x t g.val).slips = (x s g.val).slips)) ∧
  (∀ (s : State) (tag : BitVec 16) (r : Remote), remoteAt s.dev tag.toNat = some r →
    let gone (t : State) : Prop := remoteAt t.dev tag.toNat = none ∧
      ∀ k, k ≠ tag.toNat → remoteAt t.dev k = remoteAt s.dev k
    let failed (t : State) : Prop := gone t ∧ (r.site = none → t.mem = s.mem ∧
      recs t r.stream = recs s r.stream ++ [failRec s r.stream r.seq] ∧ t.dev.regs = s.dev.regs)
    (∃ t, exec (.remoteTimeout tag) s = .next t ∧ failed t) ∧
    (∀ g c d1, takeCell s.dev 7 = some (g, c, d1) → c.tag = tag.toNat → ∃ t, exec .errCell s = .next t ∧ failed t) ∧
    (∀ g c d1, takeCell s.dev 4 = some (g, c, d1) → c.tag = tag.toNat → ∃ t, exec .ctrRsp s = .next t ∧
      (c.value % 256 = 0 → gone t ∧ t.mem = s.mem ∧ t.dev.strm = s.dev.strm ∧ t.dev.regs = s.dev.regs) ∧ (c.value % 256 ≠ 0 → failed t))) ∧
  (∀ (s : State) (g : Fin 128) (w : Nat) (d1 : Dev), takeSlip s.dev g.val (fun y => y.1 == 2 && bits y.2 19 16 == 9) = some (w, d1) →
    ∃ t, exec (.addRefuse g) s = .next t ∧ t.mem = s.mem ∧
      (∀ st q, slipOp (x s g.val) (bits w 47 32) = some (st, q) → recs t st = recs s st ++ [failRec s st q] ∧ t.dev.regs = s.dev.regs) ∧
      (slipOp (x s g.val) (bits w 47 32) = none → err t Fld.FAB_ERR_slip_lost = min (err s Fld.FAB_ERR_slip_lost + 1) 255 ∧
        t.dev.strm = s.dev.strm))

/-- A write of word 0 with arm arms a plan or, refused, shows FAILED with PLAN and arm 0; an armed plan's words stay,
and clearing arm makes it idle. PLAN_START at the trigger waits while the dimension is busy, fails with the status of
R421 and poisons done_ctr, or records the start and queues a PL_OPEN on each fibre of each ring and lane. PL_OPEN
gives a plan its sender's rank. PLEACH_FLIT drops a flit of no plan, merges a passing reduce-scatter flit and sends it
on with the books one higher, writes a final one, writes and forwards an all-gather flit, and takes or fails on a
path's flit. PLAN_DONE needs all of R428 and raises done_ctr; PLAN_FAIL, PL_ABORT and PLAN_LIMIT_EXPIRY end a plan
FAILED with its status, or, within an XAG barrier, record it until the release. PL_BAR goes round the ring and sets
the release instants. XAG_SEND_START waits for T_g and settle, then queues the chunk on VC2. -/
def Obligations.PlansArmStartMergeAndEnd : Prop :=
  let lq (s : State) (g : Nat) := getLq s.dev g
  let idle (s : State) : State := { s with dev := s.dev.rest }
  let status (s : State) (c : Nat) := fget s.dev Reg.FAB_COLL_STAT0 [c] Fld.FAB_COLL_STAT0_status
  let shows (t : State) (c st v : Nat) : Prop := planState t.dev c = st ∧ status t c = v
  let failed (t : State) (c done v : Nat) : Prop := shows t c 5 (v % 16) ∧ planAt t.dev c = none ∧ (getCtr t.dev done).poison = true
  let told (t : State) (c v : Nat) (r : PlanRec) (ring : Nat) : Prop :=
    ∀ g, ringFibre t.dev r.dim ring = some g → ctlSlip t.dev g 2 c (r.gen + 256 * v) ∈ (lq t g).slips
  (∀ (s : State) (p : Path) (c : BitVec 8) (word : Fin 16) (data : Word), pathPort p = none →
    let k := c.toNat
    let armed := (planRec s.dev k).arm
    let clears := word.val = 0 ∧ tbit data.toNat 13 = false
    let stored (t : State) : Prop := t.mem = s.mem ∧ t.dev.ctr = s.dev.ctr ∧ t.dev.fab = s.dev.fab ∧
      keepsRegs s.dev t.dev [Reg.FAB_COLL.key [k, word.val], Reg.FAB_COLL_STAT0.key [k]]
    (armed = true → ¬ clears → exec (.planArm p c word data) s = .next (idle s)) ∧
    (armed = true → clears → ∃ t, exec (.planArm p c word data) s = .next t ∧ stored t ∧ (planRec t.dev k).arm = false ∧
      planState t.dev k = if planState s.dev k = 1 ∨ planState s.dev k = 2 then 0 else planState s.dev k) ∧
    (armed = false → ∃ t, exec (.planArm p c word data) s = .next t ∧ stored t ∧
      let arms := word.val = 0 ∧ tbit data.toNat 13 = true
      let refused := armRefused s.dev (planBytes (wrReg s.dev Reg.FAB_COLL [k, 0] data) k) = true
      (¬ arms → rdReg t.dev Reg.FAB_COLL [k, word.val] = data ∧ planState t.dev k = planState s.dev k) ∧
      (arms → refused → shows t k 5 1 ∧ (planRec t.dev k).arm = false) ∧
      (arms → ¬ refused → shows t k 1 0 ∧ rdReg t.dev Reg.FAB_COLL [k, 0] = data))) ∧
  (∀ (s : State) (c : BitVec 8) (resp : Resp) (ext : List Byte), planAt s.dev c.toNat = none →
    let k := c.toNat
    let r := planRec s.dev k
    let lanes := planLanes s.dev r.dim
    let due := (planState s.dev k = 1 ∨ planState s.dev k = 2) ∧ r.trigVal ≤ (getCtr s.dev r.trigCtr).value
    let busy := s.dev.fab.plans.any (fun p => p.2.r.dim == r.dim) = true
    let why := startReason s.dev r lanes
    (¬ due → exec (.planStart c resp ext) s = .next (idle s)) ∧
    (due → busy → ∃ t, exec (.planStart c resp ext) s = .next t ∧ t.mem = s.mem ∧ planState t.dev k = 2 ∧
      t.dev.fab = s.dev.fab ∧ t.dev.ctr = s.dev.ctr) ∧
    (due → ¬ busy → why ≠ 0 → ∃ t, exec (.planStart c resp ext) s = .next t ∧ t.mem = s.mem ∧ failed t k r.doneCtr why ∧
      ∀ ring ∈ planRings r, told t k why r ring) ∧
    (due → ¬ busy → why = 0 → ∀ m, r.record = true → resp = .err m → ∃ t, exec (.planStart c resp ext) s = .next t ∧
      t.mem = s.mem ∧ failed t k r.doneCtr 10) ∧
    (due → ¬ busy → why = 0 → r.record = false → ∃ t, exec (.planStart c resp ext) s = .next t ∧
      (∀ ring ∈ planRings r, ∀ l ∈ lanes, let fs := sendFibres s.dev r l ring
        ∀ i, i < fs.length → ctlSlip s.dev (fs.getD i 0) 1 (k + 256 * ring) (r.gen + 256 * i + 1024 * fs.length) ∈
          (lq t (fs.getD i 0)).slips) ∧
      ((shows t k 3 0 ∧ ∃ x, planAt t.dev k = some x ∧ x.recd = planBytes s.dev k ∧ x.start = s.dev.tb ∧
          x.window = signed 16 (r.window % 2 ^ 16) ∧ x.lanes = lanes ∧ x.got = 0) ∨
        (r.kind ≠ 3 ∧ failed t k r.doneCtr 11)))) ∧
  (∀ (s : State) (g : Fin 128) (w : Nat) (d1 : Dev) (x : Plan),
    takeSlip s.dev.rest g.val (fun y => y.1 == 2 && bits y.2 19 16 == 1 && (match planAt s.dev (bits y.2 27 20) with
      | some x => x.r.gen == bits y.2 39 32
      | none => false)) = some (w, d1) → planAt s.dev (bits w 27 20) = some x →
    ∃ t, exec (.plOpen g) s = .next t ∧ t.mem = s.mem ∧ t.dev.regs = s.dev.regs ∧
      (lq t g.val).rxSlips = (getLq d1 g.val).rxSlips ∧ ∃ y, planAt t.dev (bits w 27 20) = some y ∧
        y = { x with opens := y.opens } ∧ ∀ o, o ∈ y.opens ↔ (o ∈ x.opens ∧ o.2.1 ≠ g.val) ∨
          o = (bits w 28 28, g.val, bits w 41 40, max 1 (bits w 44 42))) ∧
  (∀ (s : State) (g : Fin 128) (ext : List Byte) (b : List Byte) (d1 : Dev), pathPlan s.dev g.val = none →
    takePayload { s.dev.rest with extIn := ext } g.val 2 = some (b, d1) →
    let e : Env := { fuses := s.fuses, mem := s.mem }
    let mine := s.dev.fab.plans.find? (fun p => p.2.opens.any (fun o => o.2.1 == g.val))
    (mine = none → (∀ y ∈ (lq s g.val).rxSlips, ¬ (y.1 = 2 ∧ bits y.2 19 16 = 1)) →
      exec (.pleachFlit g ext) s = .next { s with dev := d1.rest }) ∧
    (∀ (c : Nat) (x : Plan) (ring lk rank f : Nat) (rs : Bool) (chunk j : Nat), mine = some (c, x) → planAt s.dev c = some x →
      x.opens.find? (fun o => o.2.1 == g.val) = some (ring, lk, rank, f) →
      let lane := (lowest x.lanes.length (fun l => x.lanes.getD l 0 == g.val / 8)).getD 0
      let key := 256 * ring + g.val
      locate x.r ring x.lanes.length lane rank f (arrivals x.r ring) (Sparse.get 0 x.rxCount key) = some (rs, chunk, j) →
      let q := ringFlit x.r ring chunk j
      let es := splitElems (wayElem x.r) (flitElems x.r) b
      let n := realElems x.r q
      let taken (t : State) : Prop := (lq t g.val).freed = (getLq d1 g.val).freed ∧ ∃ y, planAt t.dev c = some y ∧
        y.recd = x.recd ∧ y.got = x.got + 1 ∧ Sparse.get 0 y.rxCount key = Sparse.get 0 x.rxCount key + 1
      let fs := x.sends ring (x.lanes.getD (j % x.lanes.length) 0)
      let out := fs.getD (j / x.lanes.length % fs.length) 0
      let merged (own : List (List Byte)) := ((es.take n).zip own).map (fun p => (mergeElem x.r x.window p.1 p.2).1) ++ es.drop n
      let booked (own : List (List Byte)) (d : Dev) :=
        if ((es.take n).zip own).any (fun p => (mergeElem x.r x.window p.1 p.2).2)
        then setPlan (countBooks d c) c { x with sat := true } else countBooks d c
      let inj (d : Dev) := fget d Reg.FAB_COLL_STAT1 [c] Fld.FAB_COLL_STAT1_injected
      let mrg (d : Dev) := fget d Reg.FAB_COLL_STAT2 [c] Fld.FAB_COLL_STAT2_merged
      (rs = true → ¬ (x.r.kind = 2 ∧ x.gathered = false ∧ x.got + 1 = ringTotal x.r true) →
        ∀ own d2, readFlit e d1 c x x.r.inAddr (laneFlit x j) q = (some own, d2) →
        (chunk ≠ planPos x.r → ∃ t, exec (.pleachFlit g ext) s = .next t ∧ taken t ∧
          inj t.dev = (inj d2 + 1) % 2 ^ 32 ∧ mrg t.dev = (mrg d2 + 1) % 2 ^ 32 ∧
          t.mem = applyChanges s.mem d2.wq.reverse ∧ (lq t out).txq = (getLq d2 out).txq ++ [(2, (merged own).flatten)]) ∧
        (chunk = planPos x.r → ∀ d3, writeFlit e (booked own d2) c (laneFlit x j) q (merged own) = (true, d3) →
          ∃ t, exec (.pleachFlit g ext) s = .next t ∧ taken t ∧ t.mem = applyChanges s.mem d3.wq.reverse ∧ t.dev.lq = d3.lq)) ∧
      (rs = false → ¬ (x.r.kind = 2 ∧ x.gathered = false) →
        ∀ d3, writeFlit e d1 c (laneFlit x j) q es = (true, d3) → ∃ t, exec (.pleachFlit g ext) s = .next t ∧ taken t ∧
          t.mem = applyChanges s.mem d3.wq.reverse ∧
          let last := if ring = 0 then (planPos x.r + 1) % x.r.size else (planPos x.r + x.r.size - 1) % x.r.size
          (x.r.kind ≠ 3 → chunk ≠ last → (lq t out).txq = (getLq d3 out).txq ++ [(2, es.flatten)]) ∧
          (x.r.kind ≠ 3 → chunk = last → t.dev.lq = d3.lq)))) ∧
  (∀ (s : State) (g : Fin 128) (ext : List Byte) (c odd : Nat) (x : Plan), pathPlan s.dev g.val = some (c, odd) →
    planAt s.dev c = some x → x.r.kind = 3 → 1 ≤ x.bar → (lq s g.val).pathLost ≠ [] →
    ∃ t, exec (.pleachFlit g ext) s = .next t ∧ t.mem = s.mem ∧ (lq t g.val).pathLost = [] ∧
      fget t.dev Reg.FAB_COLL_STAT3 [c] Fld.FAB_COLL_STAT3_lost =
        min 0xFFFF (fget s.dev Reg.FAB_COLL_STAT3 [c] Fld.FAB_COLL_STAT3_lost + (lq s g.val).pathLost.length) ∧
      ∃ y, planAt t.dev c = some y ∧ y.failed = some (x.failed.getD 8)) ∧
  (∀ (s : State) (c : BitVec 8) (x : Plan), planAt s.dev c.toNat = some x →
    let k := c.toNat
    let within := x.r.kind = 3 ∧ (x.bar = 1 ∨ x.bar = 2)
    let ends (t : State) (v : Nat) : Prop := failed t k x.r.doneCtr v ∧ (planRec t.dev k).arm = false ∧
      ∀ o ∈ x.opens, ∀ b ∈ (lq t o.2.1).rxCells, b.1 ≠ 2
    (planComplete s.dev k x = false → exec (.planDone c) s = .next (idle s)) ∧
    (planComplete s.dev k x = true → ∃ t, exec (.planDone c) s = .next t ∧ t.mem = s.mem ∧ shows t k 4 0 ∧
      planAt t.dev k = none ∧ (planRec t.dev k).arm = false ∧
      fget t.dev Reg.FAB_COLL_STAT0 [k] Fld.FAB_COLL_STAT0_flags = x.flags.toNat % 32 ∧
      (∀ y, ctrAdd (getCtr s.dev x.r.doneCtr) 1 = some y → getCtr t.dev x.r.doneCtr = y) ∧
      ∀ j, j ≠ x.r.doneCtr → getCtr t.dev j = getCtr s.dev j) ∧
    (∀ st : Fin 16, failReason s.dev k st.val x = none → exec (.planFail c st) s = .next (idle s)) ∧
    (∀ (st : Fin 16) (v : Nat), failReason s.dev k st.val x = some v →
      (x.r.kind ≠ 3 ∨ x.bar = 0 → ∃ t, exec (.planFail c st) s = .next t ∧ t.mem = s.mem ∧ ends t v ∧
        ∀ ring ∈ planRings x.r, told t k v x.r ring) ∧
      (within → ∃ t, exec (.planFail c st) s = .next t ∧ t.mem = s.mem ∧ planState t.dev k = planState s.dev k ∧
        ∃ y, planAt t.dev k = some y ∧ y.failed = some (x.failed.getD v)) ∧
      (x.r.kind = 3 → x.bar = 3 → s.dev.tb < x.tr → exec (.planFail c st) s = .next (idle s)) ∧
      (x.r.kind = 3 → x.bar = 3 → x.tr ≤ s.dev.tb → ∃ t, exec (.planFail c st) s = .next t ∧ t.mem = s.mem ∧ ends t v)) ∧
    (x.r.limit = 0 → exec (.planLimitExpiry c) s = .next (idle s)) ∧
    (x.r.limit ≠ 0 → ∃ t, exec (.planLimitExpiry c) s = .next t ∧ t.mem = s.mem ∧ ends t (x.failed.getD 7)) ∧
    (∀ (g : Fin 128) (w : Nat) (d1 : Dev), takeCtl s.dev.rest g.val 2 = some (w, d1) → bits w 27 20 = k →
      let st := planState s.dev k
      let mine := (st = 1 ∨ st = 2 ∨ st = 3) ∧ x.r.gen = bits w 39 32
      (¬ mine → exec (.plAbort g) s = .next { s with dev := d1.rest }) ∧
      (mine → x.r.kind ≠ 3 ∨ x.bar = 0 → ∃ t, exec (.plAbort g) s = .next t ∧ t.mem = s.mem ∧ ends t 6 ∧
        told t k 6 x.r (if throughDir s.dev g.val = 1 + 2 * x.r.dim then 0 else 1))) ∧
    (∀ (g : Fin 128) (w : Nat) (d1 : Dev) (late : Bool), takeSlip s.dev.rest g.val (fun y => y.1 == 2 && bits y.2 19 16 == 3 &&
        (match planAt s.dev (bits y.2 27 20) with
        | some x => x.r.kind == 3 && (bits y.2 29 28 == 2 || (bits y.2 29 28 == 1 && barReady x (tbit y.2 30)))
        | none => false)) = some (w, d1) → bits w 27 20 = k → tbit w 30 = late →
      let leads := planPos x.r = 0
      let passed (t : State) (pass value : Nat) : Prop := ∀ g', ringFibre t.dev x.r.dim 0 = some g' →
        ctlSlip t.dev g' 3 (k + 256 * pass + 1024 * bit late) value ∈ (lq t g').slips
      let released (t : State) (at_ : Nat) : Prop := ∃ y, planAt t.dev k = some y ∧ y.recd = x.recd ∧
        (late = true → y.bar = 3 ∧ y.tr = at_ ∧ y.tg = x.tg) ∧ (late = false → y.bar = 1 ∧ y.tg = at_ ∧ y.tr = x.tr)
      let after := s.dev.tb + fget s.dev Reg.FAB_PL_CFG [] Fld.FAB_PL_CFG_guard_ns
      (bits w 29 28 = 1 → ¬ leads → ∃ t, exec (.plBar g) s = .next t ∧ t.mem = s.mem ∧ t.dev.fab = s.dev.fab ∧ passed t 1 0) ∧
      (bits w 29 28 = 1 → leads → ∃ t, exec (.plBar g) s = .next t ∧ t.mem = s.mem ∧ released t after ∧ passed t 2 after) ∧
      (bits w 29 28 = 2 → leads → exec (.plBar g) s = .next { s with dev := d1.rest }) ∧
      (bits w 29 28 = 2 → ¬ leads → ∃ t, exec (.plBar g) s = .next t ∧ t.mem = s.mem ∧
        released t (nextInstant s.dev.tb (bits w 63 32)) ∧ passed t 2 (bits w 63 32))) ∧
    (∀ ext : List Byte, let go := x.r.kind = 3 ∧ x.bar ≠ 0 ∧ x.gathered = false ∧ x.failed = none ∧
        x.tg + 100 * fget s.dev Reg.FAB_PL_CFG [] Fld.FAB_PL_CFG_settle ≤ s.dev.tb
      (¬ go → exec (.xagSendStart c ext) s = .next (idle s)) ∧
      (go → ∃ t, exec (.xagSendStart c ext) s = .next t ∧ (∃ y, planAt t.dev k = some y ∧ y.gathered = true ∧
        y.tg = x.tg ∧ (y.failed = none ∨ y.failed = some 11)) ∧
        ∀ g, ∃ more, (lq t g).txq = (lq s g).txq ++ more ∧ ∀ z ∈ more, z.1 = 2)))

/-- PORT_LINK_UP shows the capped rate, the width and the agreed CXL, records a slow link, makes the host an agent
only with a legal HDM range, and sends pending vectors; PORT_LINK_DOWN and D3cold lose host memory: the agent bit
clears, and the streams of the port's partitions with a ring behind the port stop; a link down also resets HOST_APER
and the MSI-X table. FUNCTION_LEVEL_RESET stops every stream of the port's partitions and resets HOST_APER, the MSI-X
table and the function's power state, but no partition table. A doorbell write through BAR2 is the stream's SQ_TAIL or
CQ_HEAD, an unowned one is discarded with an event, and a page reads 0 unowned. BAR4 answers from memory, or NOTARGET
past the aperture or on a halted device. MSIX_UNMASK sends a pending vector of a port that sends. A CXL request of no
agent does nothing, one outside the HDM range gets NOTARGET, one of a half that the tracker owns is served or merged
there, and a miss asks the home for the line. SYNC_OP and STATE answer with the status of Table 13.10. -/
def Obligations.PortsServeHostsAndStopTheirStreams : Prop :=
  let idle (s : State) : State := { s with dev := s.dev.rest }
  let stat (s : State) (p : Nat) (f : Fld) := fget s.dev Reg.HOST_PORT_STAT [p] f
  let ctl (s : State) (p : Nat) (f : Fld) := fget s.dev Reg.HOST_PORT_CTL [p] f
  let port (p : Fin 4) : Path := .port p
  let env (s : State) : Env := { fuses := s.fuses, mem := s.mem }
  let stopped (s t : State) (p : Nat) (pick : Nat → Prop) : Prop := ∀ (st : BitVec 16) (q : Nat), q < 16 →
    partOfStream s.dev st.toNat = some q → portOfPart s.dev q = p → strmOn s.dev st.toNat = true → pick st.toNat →
    strmOn t.dev st.toNat = false ∨ (getStrm t.dev st.toNat).disabling = true
  let behind (s : State) (p st : Nat) : Prop := ringBehind s.dev p (subRing s.dev st) = true ∨ ringBehind s.dev p (compRing s.dev st) = true
  (∀ (s : State) (p : Fin 4) (rate : Fin 6) (width : BitVec 5) (flit : Bool) (cxl : Fin 3) (hdm : Option (BitVec 52 × BitVec 52)),
    let cmd := Instr.portLinkUp p rate width flit cxl hdm
    let trains := ctl s p.val Fld.HOST_PORT_CTL_enable = 1 ∧ portUp s.dev p.val = false
    let r := min rate.val (5 - ctl s p.val Fld.HOST_PORT_CTL_max_gen)
    let cx := if ctl s p.val Fld.HOST_PORT_CTL_cxl_en = 1 then cxl.val else 0
    let legal := ∃ base size, hdm = some (base, size) ∧ cx = 2 ∧ ctl s p.val Fld.HOST_PORT_CTL_cxl_mem = 1 ∧
      base.toNat % 2 ^ 28 = 0 ∧ size.toNat % 2 ^ 28 = 0 ∧ 0 < size.toNat ∧ base.toNat + size.toNat ≤ 2 ^ 42
    (¬ trains → exec cmd s = .next (idle s)) ∧
    (trains → ∃ t, exec cmd s = .next t ∧ t.mem = s.mem ∧ keepsRegs s.dev t.dev [Reg.HOST_PORT_STAT.key [p.val]] ∧
      portSends t.dev p.val = true ∧ stat t p.val Fld.HOST_PORT_STAT_rate = r ∧ stat t p.val Fld.HOST_PORT_STAT_width = width.toNat ∧
      stat t p.val Fld.HOST_PORT_STAT_cxl = cx ∧ stat t p.val Fld.HOST_PORT_STAT_slow = bit (decide (r < 2)) ∧
      t.dev.reports.length = s.dev.reports.length + bit (decide (r < 2)) ∧
      (legal → stat t p.val Fld.HOST_PORT_STAT_agent = 1 ∧
        ∀ base size, hdm = some (base, size) → Sparse.find t.dev.hdm p.val = some (base.toNat, size.toNat)) ∧
      (¬ legal → stat t p.val Fld.HOST_PORT_STAT_agent = 0 ∧ Sparse.find t.dev.hdm p.val = none) ∧
      ∀ v : Fin 2048, (getMsix s.dev p.val v.val).pend = true → (getMsix s.dev p.val v.val).masked = false →
        .msix p.val v.val ∈ t.dev.out ∧ (getMsix t.dev p.val v.val).pend = false)) ∧
  (∀ (s : State) (p : Fin 4), let up := stat s p.val Fld.HOST_PORT_STAT_up = 1
    (¬ up → exec (.portLinkDown p) s = .next (idle s)) ∧
    (up → ∃ t, exec (.portLinkDown p) s = .next t ∧ portUp t.dev p.val = false ∧ stat t p.val Fld.HOST_PORT_STAT_agent = 0 ∧
      stat t p.val Fld.HOST_PORT_STAT_downs = min (stat s p.val Fld.HOST_PORT_STAT_downs + 1) 255 ∧ stopped s t p.val (behind s p.val) ∧
      rdReg t.dev Reg.HOST_APER [p.val] = Reg.HOST_APER.reset ∧ ∀ v : Fin 2048, getMsix t.dev p.val v.val = {}) ∧
    (∀ ds : Fin 3, portUp s.dev p.val = false → exec (.functionPowerState p ds) s = .next (idle s)) ∧
    (∀ ds : Fin 3, portUp s.dev p.val = true → ∃ t, exec (.functionPowerState p ds) s = .next t ∧
      stat t p.val Fld.HOST_PORT_STAT_dstate = ds.val ∧
      (ds.val = 2 → stat t p.val Fld.HOST_PORT_STAT_agent = 0 ∧ portUp t.dev p.val = false ∧ stopped s t p.val (behind s p.val)) ∧
      (ds.val < 2 → t.mem = s.mem ∧ keepsRegs s.dev t.dev [Reg.HOST_PORT_STAT.key [p.val]] ∧ t.dev.strm = s.dev.strm) ∧
      (ds.val = 0 → ∀ v : Fin 2048, (getMsix s.dev p.val v.val).pend = true → (getMsix s.dev p.val v.val).masked = false →
        .msix p.val v.val ∈ t.dev.out)) ∧
    (portUp s.dev p.val = false → exec (.functionLevelReset p) s = .next (idle s)) ∧
    (portUp s.dev p.val = true → ∃ t, exec (.functionLevelReset p) s = .next t ∧ portSends t.dev p.val = true ∧
      rdReg t.dev Reg.HOST_APER [p.val] = Reg.HOST_APER.reset ∧ (∀ v : Fin 2048, getMsix t.dev p.val v.val = {}) ∧
      (∀ (q : Fin 16) (w : Fin 6), rdReg t.dev (partReg w.val) [q.val] = rdReg s.dev (partReg w.val) [q.val]) ∧
      stopped s t p.val (fun _ => True)) ∧
    (∀ v : Fin 2048, ∃ t, exec (.msixUnmask p v) s = .next t ∧ t.mem = s.mem ∧ t.dev.regs = s.dev.regs ∧
      (getMsix t.dev p.val v.val).masked = false ∧
      ((getMsix s.dev p.val v.val).pend = true → portSends s.dev p.val = true →
        .msix p.val v.val ∈ t.dev.out ∧ (getMsix t.dev p.val v.val).pend = false) ∧
      (portSends s.dev p.val = false → t.dev.out = s.dev.out ∧ (getMsix t.dev p.val v.val).pend = (getMsix s.dev p.val v.val).pend)) ∧
    (∀ (off : BitVec 28) (size : Nat) (v : BitVec 64) (st : BitVec 16), let on := barsDecode s.dev p.val = true
      let owned := pageHeld s.dev (port p) (off.toNat / 0x1000) = true
      (¬ on → ∀ w, exec (.bar2Doorbell p off size w) s = .next (idle s)) ∧
      (on → off.toNat = st.toNat * 0x1000 → exec (.bar2Doorbell p off 8 (some v)) s = exec (.sqTail (port p) st v) s) ∧
      (on → off.toNat = st.toNat * 0x1000 + 8 → exec (.bar2Doorbell p off 8 (some v)) s = exec (.cqHead (port p) st v) s) ∧
      (on → ¬ owned → devHalted s.dev = false → ∃ t, exec (.bar2Doorbell p off size (some v)) s = .next t ∧ t.mem = s.mem ∧
        t.dev.regs = s.dev.regs ∧ t.dev.strm = s.dev.strm ∧ t.dev.reports.length = s.dev.reports.length + 1) ∧
      (on → ¬ owned → ∃ t, exec (.bar2Doorbell p off size none) s = .next t ∧ t.mem = s.mem ∧ t.dev.regs = s.dev.regs ∧
        ∃ ws, t.dev.out = s.dev.out ++ [.regData (port p) ws] ∧ ∀ w ∈ ws, w = 0)) ∧
    (∀ (off : BitVec 36) (op : MemOp) (ext : List Byte), let on := barsDecode s.dev p.val = true
      let cmd := Instr.bar4Access p off op ext
      let a := fget s.dev Reg.HOST_APER [p.val] Fld.HOST_APER_base_64g * 2 ^ 36 + off.toNat
      let r : Requester := { src := .port p, part := srcPart s.dev (.port p) }
      let served := on ∧ devHalted s.dev = false ∧ off.toNat + opLen op ≤ 2 ^ 36
      let gives (d1 : Dev) (o : Out) : Prop := ∃ t, exec cmd s = .next t ∧ t.mem = applyChanges s.mem d1.wq.reverse ∧
        t.dev = (emit d1 o).rest
      let d0 : Dev := { s.dev.rest with extIn := ext }
      (¬ on → exec cmd s = .next (idle s)) ∧
      (on → ¬ served → ∃ t, exec cmd s = .next t ∧ t.mem = s.mem ∧ t.dev.out = s.dev.out ++ [.memErr (.port p) .noTarget] ∧
        t.dev.reports.length = s.dev.reports.length + 1) ∧
      (∀ n bs d1, served → op = .read n → pkgRead (env s) d0 r a n = (.ok bs, d1) → gives d1 (.memData (.port p) bs)) ∧
      (∀ n er d1, served → op = .read n → pkgRead (env s) d0 r a n = (.error er, d1) → gives d1 (.memErr (.port p) er)) ∧
      (∀ bs en d1, served → op = .write bs en → pkgWrite (env s) d0 r a bs en = (none, d1) → gives d1 (.memData (.port p) [])))) ∧
  (∀ (s : State) (p : Fin 4) (kind : Fin 6) (addr : BitVec 52) (data : BitVec 512) (en : BitVec 64) (dy : BitVec 2) (ev : BitVec 1024),
    let cmd := Instr.cxlHostRequest p kind addr data en dy ev
    let a := 6 + p.val
    let line := addr.toNat / 128
    let half := addr.toNat / 64 % 2
    let at_ := 64 * (addr.toNat / 64)
    let range := (Sparse.find s.dev.hdm p.val).getD (0, 0)
    let agent := stat s p.val Fld.HOST_PORT_STAT_agent = 1
    let inside := range.1 ≤ at_ ∧ at_ + 64 ≤ range.1 + range.2
    let r : Requester := { src := .port p, part := srcPart s.dev (.port p) }
    let l := aLine s.dev a line
    (¬ agent → exec cmd s = .next (idle s)) ∧
    (agent → ¬ inside → ∃ t, exec cmd s = .next t ∧ t.mem = s.mem ∧ t.dev.out = s.dev.out ++ [.memErr (.port p) .noTarget] ∧ t.dev.coh = s.dev.coh) ∧
    (∀ er, agent → inside → reachErr s.dev r at_ 64 = some er → ∃ t, exec cmd s = .next t ∧ t.mem = s.mem ∧
      t.dev.out = s.dev.out ++ [.memErr (.port p) er] ∧ t.dev.coh = s.dev.coh) ∧
    (agent → inside → reachErr s.dev r at_ 64 = none → l.want = [] → l.st = .e ∨ l.st = .m →
      ∃ t, exec cmd s = .next t ∧ t.mem = s.mem ∧ t.dev.regs = s.dev.regs ∧
      t.dev.out = s.dev.out ++ [.memData (.port p) (if kind.val < 3 then slice l.data (64 * half) 64 else [])] ∧
      let m := aLine t.dev a line
      m.want = [] ∧ (kind.val = 2 → m = l) ∧ (kind.val < 4 → m.data = l.data ∧ m.st = l.st) ∧
      (kind.val = 1 ∨ kind.val = 3 → (if half = 0 then m.half0 else m.half1) = max 2 (if half = 0 then l.half0 else l.half1)) ∧
      (4 ≤ kind.val → m.st = .m ∧ ∀ i, i < 128 → m.data.getD i 0 =
        if i / 64 = half ∧ (kind.val = 4 ∨ tbit en.toNat (i % 64) = true) then (leBytes 64 data.toNat).getD (i % 64) 0 else l.data.getD i 0)) ∧
    (agent → inside → reachErr s.dev r at_ 64 = none → reachErr s.dev r (128 * line) 128 = none →
      targetOf s.dev (128 * line) 128 = .hbm → l.want = [] → l.st = .i → kind.val < 2 → (trackerLines s.dev p.val).length < 32768 →
      s.dev.coh.txns = [] → s.dev.coh.waiting = [] → ∃ t, exec cmd s = .next t ∧
        (aLine t.dev a line).st = (if kind.val = 0 then .isD else .imD) ∧ (aLine t.dev a line).born = s.dev.coh.next + 1)) ∧
  (∀ (s : State) (ctr : BitVec 16) (op : BitVec 8) (v : Word), let new := ctrApply (getCtr s.dev ctr.toNat) none op.toNat v.toNat
    ∃ t st, exec (.syncOp ctr op v) s = .next t ∧ t.mem = s.mem ∧ t.dev.regs = s.dev.regs ∧ t.dev.out = s.dev.out ++ [.sideBand st []] ∧
    (s.dev.fw.mainOn = false → st = 3 ∧ t.dev.ctr = s.dev.ctr) ∧ (s.dev.fw.mainOn = true → 4 ≤ op.toNat → st = 1 ∧ t.dev.ctr = s.dev.ctr) ∧
    (s.dev.fw.mainOn = true → op.toNat < 4 → new = none → st = 4 ∧ t.dev.ctr = s.dev.ctr) ∧
    (∀ y, s.dev.fw.mainOn = true → op.toNat < 4 → new = some y → st = 0 ∧ getCtr t.dev ctr.toNat = y ∧
      ∀ k, k ≠ ctr.toNat → getCtr t.dev k = getCtr s.dev k)) ∧
  (∀ s : State, ∃ t bs, exec .mgmtState s = .next t ∧ t.mem = s.mem ∧ t.dev.regs = s.dev.regs ∧ t.dev.out = s.dev.out ++ [.sideBand 0 bs] ∧
    bs.length = 7 ∧ leNat (bs.take 1) = bit s.dev.fw.mainOn ∧ leNat (slice bs 1 4) = (rdReg s.dev Reg.HUB_COPPICE_STAT []).toNat ∧
    ∀ q, q < 16 → tbit (leNat (slice bs 5 2)) q = partEnabled s.dev q)

/-- PARTITION_ENABLE from a path other than a port sets enable where the check of R456 and R458 holds, and cfg_err
where it does not; from a port it is an event alone. PARTITION_RELEASE sets busy and clears enable, stops the
partition's streams and plans and kills its guests; PARTITION_RELEASE_DONE, once no stream is on, turns the owned
cores' banks off and on, zeroes the owned ranges, resets the counters and FAB_PIN, and clears busy. PART_CFG_WRITE
stores a field only of a partition that holds nothing, else it is an event (that busy counts is the model's choice,
log entry 81). LAT_WRITE sets lat and leaves no link dormant that no longer fits. I3C_ADDRESS_ASSIGN, RSTDAA and
MCTP_CONTROL set what HOST_SB_CFG shows; UART_CHARACTER drops a character with a framing error. -/
def Obligations.PartitionsAreCheckedReleasedAndCleared : Prop :=
  let ctl (s : State) (q : Nat) (f : Fld) := fget s.dev Reg.HUB_PART_CTL [q] f
  let sb (s : State) (f : Fld) := fget s.dev Reg.HOST_SB_CFG [] f
  let event (s t : State) : Prop := t.mem = s.mem ∧ t.dev.regs = s.dev.regs ∧ t.dev.strm = s.dev.strm ∧
    t.dev.reports.length = s.dev.reports.length + 1
  (∀ (s : State) (p : Path) (q : Fin 16), pathPort p = none →
    let on := partEnabled s.dev q.val = true
    let ok := partOk { fuses := s.fuses, mem := s.mem } s.dev q.val = true
    let before := rdReg s.dev Reg.HUB_PART_CTL [q.val]
    (∃ t, exec (.partitionEnable p q) s = .next t ∧ t.mem = s.mem ∧ keepsRegs s.dev t.dev [Reg.HUB_PART_CTL.key [q.val]] ∧
      t.dev.strm = s.dev.strm ∧ t.dev.reports = s.dev.reports ∧
      rdReg t.dev Reg.HUB_PART_CTL [q.val] = if on then before else if ok then Fld.HUB_PART_CTL_enable.put before 1
        else Fld.HUB_PART_CTL_cfg_err.put before 1) ∧
    (¬ on → ∃ t, exec (.partitionRelease p q) s = .next t ∧ t.mem = s.mem ∧ t.dev.reports = s.dev.reports ∧
      t.dev.strm = s.dev.strm ∧ keepsRegs s.dev t.dev [Reg.HUB_PART_CTL.key [q.val]] ∧ rdReg t.dev Reg.HUB_PART_CTL [q.val] = before) ∧
    (on → ∃ t, exec (.partitionRelease p q) s = .next t ∧ ctl t q.val Fld.HUB_PART_CTL_busy = 1 ∧
      ctl t q.val Fld.HUB_PART_CTL_enable = 0 ∧
      (∀ st : BitVec 16, partOfStream s.dev st.toNat = some q.val → strmOn s.dev st.toNat = true →
        strmOn t.dev st.toNat = false ∨ (getStrm t.dev st.toNat).disabling = true) ∧
      (∀ i, i < 16 → planAt t.dev (16 * q.val + i) = none ∧ (planRec t.dev (16 * q.val + i)).arm = false) ∧
      (∀ g, g < 2 → partOfGuest s.dev g = some q.val → guestState t.dev g = if guestState s.dev g = 0 then 0 else 4))) ∧
  (∀ (s : State) (p : Path) (q : Fin 16) (word : Fin 6) (data : Word) (lat : BitVec 16), let on := partOn s.dev q.val = true
    (∀ n, pathPort p = some n → devHalted s.dev = false →
      (∃ t, exec (.partitionEnable p q) s = .next t ∧ event s t) ∧ (∃ t, exec (.partitionRelease p q) s = .next t ∧ event s t) ∧
      (∃ t, exec (.partCfgWrite p q word data) s = .next t ∧ event s t) ∧ (∃ t, exec (.latWrite p q lat) s = .next t ∧ event s t)) ∧
    (pathPort p = none → 0 < word.val → on → ∃ t, exec (.partCfgWrite p q word data) s = .next t ∧ event s t) ∧
    (pathPort p = none → 0 < word.val → ¬ on → ∃ t, exec (.partCfgWrite p q word data) s = .next t ∧ t.mem = s.mem ∧
      keepsRegs s.dev t.dev [(partReg word.val).key [q.val]] ∧ t.dev.reports = s.dev.reports ∧
      rdReg t.dev (partReg word.val) [q.val] = (partReg word.val).afterWrite false (rdReg s.dev (partReg word.val) [q.val]) data) ∧
    (pathPort p = none → word.val = 0 → ¬ on → Fld.HUB_PART_CTL_enable.get data = 0 →
      ∃ t, exec (.partCfgWrite p q word data) s = .next t ∧ t.mem = s.mem ∧ t.dev.reports = s.dev.reports ∧
      ctl t q.val Fld.HUB_PART_CTL_lat = Fld.HUB_PART_CTL_lat.get data ∧ ctl t q.val Fld.HUB_PART_CTL_port = Fld.HUB_PART_CTL_port.get data ∧
      ctl t q.val Fld.HUB_PART_CTL_replay_rec = Fld.HUB_PART_CTL_replay_rec.get data ∧ ctl t q.val Fld.HUB_PART_CTL_enable = 0 ∧
      (Fld.HUB_PART_CTL_cfg_err.get data = 1 → ctl t q.val Fld.HUB_PART_CTL_cfg_err = 0)) ∧
    (pathPort p = none → ∃ t, exec (.latWrite p q lat) s = .next t ∧ t.mem = s.mem ∧ ctl t q.val Fld.HUB_PART_CTL_lat = lat.toNat ∧
      t.dev.reports = s.dev.reports ∧ ∀ g, g < 128 → lqState t.dev g = 8 → latencyAllows t.dev g = true)) ∧
  (∀ (s : State) (q : Fin 16),
    let ready := ctl s q.val Fld.HUB_PART_CTL_busy = 1 ∧ partStreams s.dev q.val = []
    let cores := fget s.dev Reg.HUB_PART_CORES [q.val] Fld.HUB_PART_CORES_cores
    let ranges := fget s.dev Reg.HUB_PART_MEM [q.val] Fld.HUB_PART_MEM_ranges
    (¬ ready → exec (.partitionReleaseDone q) s = .next { s with dev := s.dev.rest }) ∧
    (ready → (∀ c, c < 32 → ∀ x, siteOfCore s.dev c = some x → x < 36) → ∃ t, exec (.partitionReleaseDone q) s = .next t ∧
      ctl t q.val Fld.HUB_PART_CTL_busy = 0 ∧ rdReg t.dev Reg.FAB_PIN [q.val] = Reg.FAB_PIN.reset ∧
      (∀ c, blkHolds (rdReg s.dev Reg.HUB_PART_CTR [q.val]) c = true → getCtr t.dev c = ctrReset (getCtr s.dev c)) ∧
      (∀ c, blkHolds (rdReg s.dev Reg.HUB_PART_CTR [q.val]) c = false → getCtr t.dev c = getCtr s.dev c) ∧
      (∀ c x b, c < 32 → tbit cores c = true → siteOfCore s.dev c = some x → b < 34 → bankState s.dev x b ≠ 3 → bankState s.dev x b ≠ 6 →
        bankState t.dev x b = 0 ∧ bankMode t.dev x b = 0) ∧
      (∀ i n j, i < 32 → tbit ranges i = true → (∀ k, i < k → tbit ranges k = false) → n ∈ stacksIn s.dev →
        j < fget s.dev Reg.HUB_HBM_RANGE [i] Fld.HUB_HBM_RANGE_len_gib * 2 ^ 30 →
        t.byte (stackCells n + fget s.dev Reg.HUB_HBM_RANGE [i] Fld.HUB_HBM_RANGE_off_gib * 2 ^ 30 + j) = 0))) ∧
  (∀ (s : State) (addr : BitVec 7) (eid : BitVec 8) (ch : BitVec 8),
    (∃ t, exec (.i3cAddressAssign addr) s = .next t ∧ t.mem = s.mem ∧ keepsRegs s.dev t.dev [Reg.HOST_SB_CFG.key []] ∧
      sb t Fld.HOST_SB_CFG_i3c = 1 ∧ sb t Fld.HOST_SB_CFG_sa = sb s Fld.HOST_SB_CFG_sa ∧ t.dev.i3cAddr = addr.toNat) ∧
    (∃ t, exec .rstdaa s = .next t ∧ t.mem = s.mem ∧ keepsRegs s.dev t.dev [Reg.HOST_SB_CFG.key []] ∧ sb t Fld.HOST_SB_CFG_i3c = 0) ∧
    (∃ t, exec (.mctpControl eid) s = .next t ∧ t.mem = s.mem ∧ keepsRegs s.dev t.dev [Reg.HOST_SB_CFG.key []] ∧
      sb t Fld.HOST_SB_CFG_eid = eid.toNat ∧ sb t Fld.HOST_SB_CFG_i3c = sb s Fld.HOST_SB_CFG_i3c) ∧
    (exec (.uartCharacter ch true) s = .next { s with dev := s.dev.rest }) ∧
    (ch = 0x0D → ∃ t, exec (.uartCharacter ch false) s = .next t ∧ t.mem = s.mem ∧ t.dev.fw.line = []) ∧
    (ch ≠ 0x0D → s.dev.fw.line.length ≤ 128 → ∃ t, exec (.uartCharacter ch false) s = .next t ∧ t.mem = s.mem ∧
      t.dev.regs = s.dev.regs ∧ t.dev.fw.line = s.dev.fw.line ++ [ch]))

/-- HK_SLOT publishes the reading of the slot in progress, or of a triggered conversion, and a stack's band follows
its reading with the hysteresis of R474. HK_ROUND_END counts the round, breaks a sensor that misses its cross-check a
third time in succession, and raises by four the counts that a rate-of-rise event names, with a hold of 1 s. HK_TRIG
asks for a conversion, or notes an overrun where one is pending; HK_SYNC restarts the round. HBM_REFRESH takes the
stack's band. TBCLK_LOSS and TBCLK_RETURN show holdover. THM_TB_CTL_SET steps the time base in IDLE or ROOT, and is
discarded with a class C0 event otherwise. -/
def Obligations.HousekeepingAndTimeBase : Prop :=
  (∀ (s : State) (v : BitVec 16), s.dev.pow.roundDone = false → s.dev.pow.hkSlot < 1024 →
    let i := s.dev.pow.trigRun.getD s.dev.pow.hkSlot
    i < 1024 → (i < 262 → hkBroken s.dev i = false) →
    ∃ t, exec (.hkSlot v) s = .next t ∧ (hkKind i ≠ 3 → t.mem = s.mem) ∧ t.dev.pow.trigRun = s.dev.pow.trigPend ∧
      t.dev.pow.trigPend = none ∧
      (s.dev.pow.trigRun = none → t.dev.pow.hkSlot = (i + 1) % 1024 ∧ t.dev.pow.roundDone = (i == 1023)) ∧
      (s.dev.pow.trigRun ≠ none → t.dev.pow.hkSlot = s.dev.pow.hkSlot ∧
        fbit t.dev Reg.THM_HK_RES [] Fld.THM_HK_RES_valid = true ∧
        fget t.dev Reg.THM_HK_RES [] Fld.THM_HK_RES_slot = i ∧ fget t.dev Reg.THM_HK_RES [] Fld.THM_HK_RES_value = v.toNat) ∧
      (hkKind i = 15 → ∀ k, k < 1024 → rdReg t.dev Reg.THM_HK_CH [k] = rdReg s.dev Reg.THM_HK_CH [k]) ∧
      (hkKind i ≠ 15 → fget t.dev Reg.THM_HK_CH [i] Fld.THM_HK_CH_value = v.toNat ∧ hkValid t.dev i = true ∧
        ∀ k, k < 1024 → k ≠ i → rdReg t.dev Reg.THM_HK_CH [k] = rdReg s.dev Reg.THM_HK_CH [k]) ∧
      (∀ n, n < 24 → i = 168 + n →
        let old := Sparse.get 0 s.dev.pow.bands (42 + n)
        let new := Sparse.get 0 t.dev.pow.bands (42 + n)
        let c16 : Int := signed 16 v.toNat
        let raw := if 90 * 16 ≤ c16 then 3 else if 70 * 16 ≤ c16 then 2 else if 40 * 16 ≤ c16 then 1 else 0
        old ≤ 3 → (old ≤ raw → new = raw) ∧ (raw < old → raw ≤ new ∧ new ≤ old ∧
          (raw < new → bandLow new - 128 < 4 * c16) ∧ (new < old → 4 * c16 ≤ bandLow (new + 1) - 128)))) ∧
  (∀ s : State,
    (s.dev.pow.roundDone = false → exec .hkRoundEnd s = .next { s with dev := s.dev.rest }) ∧
    (s.dev.pow.roundDone = true → ∃ t, exec .hkRoundEnd s = .next t ∧ t.mem = s.mem ∧ t.dev.pow.roundDone = false ∧
      fget t.dev Reg.THM_HK_STAT [] Fld.THM_HK_STAT_rounds = (fget s.dev Reg.THM_HK_STAT [] Fld.THM_HK_STAT_rounds + 1) % 2 ^ 24 ∧
      (∀ i, i < 262 → (hkBroken t.dev i = true ↔
        hkBroken s.dev i = true ∨ (crossMiss s.dev i = true ∧ 2 ≤ Sparse.get 0 s.dev.pow.offs i))) ∧
      ((∀ i, i < 262 → crossMiss s.dev i = true → hkBroken s.dev i = true) → ∀ q, q < 17 →
        let hit := ∃ u, u < 140 ∧ roseFast s.dev u = true ∧ q ∈ riseScope s.dev u
        (hit → stepCount t.dev q = min 32 (stepCount s.dev q + 4) ∧ Sparse.get 0 t.dev.pow.hold q = s.dev.tb + 1000000000) ∧
        (¬ hit → stepCount t.dev q = stepCount s.dev q ∧ Sparse.get 0 t.dev.pow.hold q = Sparse.get 0 s.dev.pow.hold q)))) ∧
  (∀ (s : State) (p : Path) (slot : Fin 1024), pathPort p = none →
    (∃ t, exec (.hkTrig p slot) s = .next t ∧ t.mem = s.mem ∧ t.dev.reports = s.dev.reports ∧ t.dev.pow.trigRun = s.dev.pow.trigRun ∧
      (s.dev.pow.trigPend = none → t.dev.pow.trigPend = some slot.val ∧
        fbit t.dev Reg.THM_HK_RES [] Fld.THM_HK_RES_pending = true) ∧
      (s.dev.pow.trigPend ≠ none → t.dev.pow = s.dev.pow ∧ fbit t.dev Reg.THM_HK_RES [] Fld.THM_HK_RES_trig_ovr = true)) ∧
    (∃ t, exec (.hkSync p) s = .next t ∧ t.mem = s.mem ∧ t.dev.regs = s.dev.regs ∧
      t.dev.pow = { s.dev.pow with hkSlot := 0, roundDone := false }) ∧
    (∃ t, exec (.thmTbCtlSet p) s = .next t ∧ t.mem = s.mem ∧
      (fabState s.dev = 0 ∨ fabState s.dev = 3 →
        t.dev.tb = (rdReg s.dev Reg.THM_TB_SET_LO []).toNat + 2 ^ 32 * (rdReg s.dev Reg.THM_TB_SET_HI []).toNat ∧
        fbit t.dev Reg.FAB_TB [] Fld.FAB_TB_stepped = true ∧ t.dev.reports = s.dev.reports) ∧
      (¬ (fabState s.dev = 0 ∨ fabState s.dev = 3) → t.dev.tb = s.dev.tb ∧ t.dev.regs = s.dev.regs ∧
        t.dev.reports.length = s.dev.reports.length + 1))) ∧
  (∀ (s : State) (n : Fin 24), Sparse.get 0 s.dev.pow.bands (42 + n.val) < 4 →
    let ix := [n.val / 4, n.val % 4]
    ∃ t, exec (.hbmRefresh n) s = .next t ∧ t.mem = s.mem ∧ keepsRegs s.dev t.dev [Reg.PKM_HBM_STAT.key ix] ∧
      fget t.dev Reg.PKM_HBM_STAT ix Fld.PKM_HBM_STAT_band = Sparse.get 0 s.dev.pow.bands (42 + n.val)) ∧
  (∀ s : State, let present (d : Dev) := fbit d Reg.THM_TB_CFG [] Fld.THM_TB_CFG_present
    let holdover (d : Dev) := fbit d Reg.THM_TB_CFG [] Fld.THM_TB_CFG_holdover
    (present s.dev = true → ∃ t, exec .tbclkLoss s = .next t ∧ t.mem = s.mem ∧ present t.dev = false ∧ holdover t.dev = true ∧
      keepsRegs s.dev t.dev [Reg.THM_TB_CFG.key []] ∧ t.dev.tb = s.dev.tb) ∧
    (present s.dev = false → exec .tbclkLoss s = .next { s with dev := s.dev.rest }) ∧
    (∃ t, exec .tbclkReturn s = .next t ∧ t.mem = s.mem ∧ present t.dev = true ∧ holdover t.dev = false ∧
      keepsRegs s.dev t.dev [Reg.THM_TB_CFG.key []]))

/-- POWER_MANAGER_PERIOD, while the controllers are not halted, moves every core rail of an enabled partition that is
not hard-throttled: over its cap down by the predicted lowering in 5 mV steps, well under it up by one step each tenth
period, by at most 25 mV down, never below 650 mV and, but for that bound, never above v_req; a partition over its cap
with every rail at 650 mV is duty-limited. An input-current overrun raises n_pkg by four. THROTTLE_STEP raises by one
each count that a temperature at tlim names, and lowers by one each that may fall. HARD_THROTTLE forces the rails of a
base die to 650 mV, or raises n_pkg by four, and is recorded; its end clears it. DUTY_WINDOW alternates a duty-limited
core's hold. GUEST_OVERPOWER kills the site with reason 4. -/
def Obligations.PowerManagerAndThrottling : Prop :=
  (∀ (s : State) (m : PowerReading), pairHalted s.dev = false → m.pIn < 65536 →
    ((partsOn s.dev).flatMap (partSites s.dev)).Nodup →
    let d := s.dev
    ∃ t, exec (.powerManagerPeriod m) s = .next t ∧ t.mem = s.mem ∧ t.dev.reports = s.dev.reports ∧
      fget t.dev Reg.THM_PKG_STAT [] Fld.THM_PKG_STAT_p_in_w = m.pIn ∧
      (fbit t.dev Reg.THM_PKG_STAT [] Fld.THM_PKG_STAT_duty = true ↔ pkgLimit d * (40 - stepCount d 16) < 40 * m.pIn) ∧
      (∀ q, stepCount t.dev q = stepCount d q) ∧
      (∀ q ∈ partsOn d,
        (fbit t.dev Reg.THM_PART_STAT [q] Fld.THM_PART_STAT_duty = true ↔ overCap d m q = true ∧
          ((∀ site ∈ partSites d q, rail d site ≤ 650) ∨ fbit d Reg.THM_PART_STAT [q] Fld.THM_PART_STAT_duty = true)) ∧
        ∀ site ∈ partSites d q,
          (fbit d Reg.THM_CORE [site] Fld.THM_CORE_hard = true → rail t.dev site = rail d site) ∧
          (fbit d Reg.THM_CORE [site] Fld.THM_CORE_hard = false → rail t.dev site =
            max (rail d site - 25) (max 650 (min (railWish d q)
              (if overCap d m q then rail d site - (m.lower.getD q 0 + 4) / 5 * 5
               else if d.pow.raiseAt = 9 ∧ wellUnder d m q = true then rail d site + 5 else rail d site)))))) ∧
  (∀ (s : State) (amps : BitVec 16), pairHalted s.dev = false →
    let high := fget s.dev Reg.THM_PKG_LIMIT [] Fld.THM_PKG_LIMIT_iin_a < amps.toNat
    (high → ∃ t, exec (.inputCurrentOverrun amps) s = .next t ∧ t.mem = s.mem ∧
      stepCount t.dev 16 = min 32 (stepCount s.dev 16 + 4) ∧ keepsRegs s.dev t.dev [Reg.THM_PKG_STAT.key []]) ∧
    (¬ high → exec (.inputCurrentOverrun amps) s = .next { s with dev := s.dev.rest })) ∧
  (∀ s : State, pairHalted s.dev = false →
    (∃ t, exec (.throttleStep false) s = .next t ∧ t.mem = s.mem ∧ ∀ q, q < 17 → stepCount t.dev q =
      if stepCauses s.dev q = [] then stepCount s.dev q else min 32 (stepCount s.dev q + 1)) ∧
    (∃ t, exec (.throttleStep true) s = .next t ∧ t.mem = s.mem ∧ ∀ q, q < 17 → stepCount t.dev q =
      if 0 < stepCount s.dev q ∧ stepFalls s.dev q = true then stepCount s.dev q - 1 else stepCount s.dev q)) ∧
  (∀ (s : State) (u : Fin 140), 36 ≤ u.val →
    (∀ temp, govTemp s.dev u.val = some temp → 105 * 64 < temp → u.val ∉ s.dev.pow.hard →
      ∃ t, exec (.hardThrottle u) s = .next t ∧ t.mem = s.mem ∧ u.val ∈ t.dev.pow.hard ∧
        fbit t.dev Reg.THM_PKG_STAT [] Fld.THM_PKG_STAT_hard = true ∧
        (u.val < 72 → stepCount t.dev 16 = stepCount s.dev 16 ∧ ∀ j, j < 6 →
          rail t.dev (6 * ((u.val - 36) / 6) + j) = 650 ∧
          fbit t.dev Reg.THM_CORE [6 * ((u.val - 36) / 6) + j] Fld.THM_CORE_hard = true) ∧
        (72 ≤ u.val → stepCount t.dev 16 = min 32 (stepCount s.dev 16 + 4)) ∧
        (∃ r, t.dev.reports = s.dev.reports ++ [r] ∧ r.source = 0x1A) ∧
        ∃ rec_, t.dev.store = Sparse.set [] s.dev.store (fget s.dev Reg.FLT_STORE [] Fld.FLT_STORE_next) rec_ ∧
          rec_.length = 16 ∧ rec_.getD 12 0 = 1) ∧
    (∀ temp, govTemp s.dev u.val = some temp → temp < 103 * 64 → govLost s.dev u.val = false → u.val ∈ s.dev.pow.hard →
      ∃ t, exec (.hardThrottleEnd u) s = .next t ∧ t.mem = s.mem ∧ t.dev.pow.hard = s.dev.pow.hard.filter (· != u.val) ∧
        (u.val < 72 → (∀ x ∈ t.dev.pow.hard, x < 36 ∨ 72 ≤ x ∨ (x - 36) / 6 ≠ (u.val - 36) / 6) → ∀ j, j < 6 →
          fbit t.dev Reg.THM_CORE [6 * ((u.val - 36) / 6) + j] Fld.THM_CORE_hard = false) ∧
        (fbit t.dev Reg.THM_PKG_STAT [] Fld.THM_PKG_STAT_hard = true ↔ t.dev.pow.hard ≠ []))) ∧
  (∀ (s : State) (site : Fin 36), ∃ t, exec (.dutyWindow site) s = .next t ∧ t.mem = s.mem ∧ t.dev.regs = s.dev.regs ∧
    (site.val ∈ t.dev.pow.dutyHold ↔ dutyLimited s.dev site.val = true ∧ site.val ∉ s.dev.pow.dutyHold) ∧
    ∀ k, k ≠ site.val → (k ∈ t.dev.pow.dutyHold ↔ k ∈ s.dev.pow.dutyHold)) ∧
  (∀ (s : State) (g : Fin 2), guestState s.dev g.val ≠ 0 → guestState s.dev g.val ≠ 4 →
    tbit (guest s.dev g.val).agreed 26 = false →
    ∃ t, exec (.guestOverpower g) s = .next t ∧ t.mem = s.mem ∧ guestState t.dev g.val = 4 ∧
      fget t.dev Reg.PRV_STAT [g.val] Fld.PRV_STAT_kill_reason = 4 ∧ t.dev.reports.length = s.dev.reports.length + 1)

/-- A cold reset, by RESET_N, the return of 48 V after a loss, a clear of the trip, the register or the console,
leaves every register of the main domain at its reset value, no stream, counter, link, engine or plan, memory and
poison marks cleared, flash and event store kept, and the time base at 0. A standby power-on keeps only the flash, the
event store, the standing map, the ageing offsets and the pins. A warm reset of a device at rest keeps the stacks as
the quiescence of R497 left them; one that is not possible is cold. MGMT_RST_CTL needs its key, and no port writes it.
VIN48_LOSS, VSB_DROP and THERMAL_TRIP turn the main domain off. THM_TRIP_CLEAR acts from the side-band once every
sensor is cool. PORT_RESET acts on its port alone. POWER_STATE_ENTRY sets the deepest state that fits, and
POWER_STATE_WAKE ends it. Zeros stand for memory without power (the model's choice, log entry 5). -/
def Obligations.ResetsKeepWhatTheirDomainKeeps : Prop :=
  let idle (s : State) : State := { s with dev := s.dev.rest }
  let cause (t : State) := fget t.dev Reg.MGMT_RST_CAUSE [] Fld.MGMT_RST_CAUSE_cause
  let hk (k : Nat) : Prop := (0x300030 ≤ k ∧ k < 0x30003C) ∨ (0x301000 ≤ k ∧ k < 0x302000)
  let moved : List Nat := [Reg.MGMT_UPD_STAT.key [], Reg.MGMT_BOOT_CTL.key [], Reg.MGMT_FW_STAT.key [], Reg.MGMT_RST_CAUSE.key []]
  let empty (t : State) : Prop := t.dev.strm = [] ∧ t.dev.ctr = [] ∧ t.dev.lq = [] ∧ t.dev.eng = [] ∧ t.dev.mxe = [] ∧
    t.dev.fab = {} ∧ t.dev.msix = [] ∧ t.dev.fw.mainOn = false ∧ t.dev.fw.session = none ∧ ∀ k, k < 2 ^ 40 → t.byte k = 0
  let off (s t : State) : Prop := empty t ∧ t.dev.poison = [] ∧ t.dev.coppice.standing = s.dev.coppice.standing ∧
    (∀ k, standbyKey k = false → Sparse.find t.dev.regs k = none) ∧ ∀ k, k < 2 ^ 40 + 24 * 2 ^ 36 → t.byte k = 0
  let same (s t : State) : Prop := t.dev.store = s.dev.store ∧ t.dev.fw.flash = s.dev.fw.flash ∧ t.dev.fw.ages = s.dev.fw.ages
  let mgmt (s t : State) : Prop := ∀ k, standbyKey k = true → ¬ hk k → k ∉ moved → Sparse.find t.dev.regs k = Sparse.find s.dev.regs k
  let cold (s t : State) (c : Nat) : Prop := off s t ∧ same s t ∧ mgmt s t ∧ cause t = c ∧ t.dev.tb = 0 ∧ t.dev.fw.warm = false ∧
    t.dev.fw.running = s.dev.fw.running ∧ stage t.dev = if s.dev.fw.running then 2 else stage s.dev
  let event (s t : State) : Prop := t.mem = s.mem ∧ t.dev.regs = s.dev.regs ∧ t.dev.fw = s.dev.fw ∧ t.dev.strm = s.dev.strm ∧
    t.dev.reports.length = s.dev.reports.length + 1
  (∀ s : State,
    (∃ t, exec .standbyPowerOn s = .next t ∧ empty t ∧ same s t ∧ t.dev.fw.vin = s.dev.fw.vin ∧ t.dev.fw.running = false ∧
      t.dev.tb = 0 ∧ t.dev.poison = [] ∧ t.dev.coppice.standing = s.dev.coppice.standing ∧ t.dev.dbg = {} ∧
      (∀ k, k ≠ Reg.FLT_STORE.base → Sparse.find t.dev.regs k = none) ∧ (∀ k, k < 2 ^ 40 + 24 * 2 ^ 36 → t.byte k = 0) ∧
      Sparse.find t.dev.regs Reg.FLT_STORE.base = Sparse.find s.dev.regs Reg.FLT_STORE.base) ∧
    (∀ i : Fin 5, ∃ t, exec (.coldReset i) s = .next t ∧ cold s t ([1, 2, 3, 4, 6].getD i.val 4)) ∧
    (∃ t, exec .resetNLow s = .next t ∧ cold s t 1 ∧ t.dev.fw.resetLow = true) ∧
    (s.dev.fw.vin = true → exec .vin48Return s = .next (idle s)) ∧
    (s.dev.fw.vin = false → ∃ t, exec .vin48Return s = .next t ∧ t.dev.fw.vin = true ∧
      (s.dev.fw.vinLost = true ∧ s.dev.fw.running = true → cold s t 2) ∧
      (s.dev.fw.vinLost = false ∨ s.dev.fw.running = false → t.mem = s.mem ∧ t.dev.regs = s.dev.regs ∧ t.dev.strm = s.dev.strm)) ∧
    (s.dev.fw.vin = false → exec .vin48Loss s = .next (idle s)) ∧
    (s.dev.fw.vin = true → ∃ t, exec .vin48Loss s = .next t ∧ off s t ∧ same s t ∧ mgmt s t ∧ cause t = cause s ∧
      t.dev.tb = s.dev.tb ∧ t.dev.fw.vin = false ∧ t.dev.fw.running = s.dev.fw.running) ∧
    (∃ t, exec .vsbDrop s = .next t ∧ off s t ∧ same s t ∧ mgmt s t ∧ t.dev.fw.running = false)) ∧
  (∀ (s : State) (con restart : Bool),
    let d1 := quiesce { fuses := s.fuses, mem := s.mem } s.dev.rest
    let c := if con then 6 else 5
    (warmPossible s.dev = false → ∃ t, exec (.warmReset con false) s = .next t ∧ cold s t c) ∧
    (warmPossible s.dev = true → ∃ t, exec (.warmReset con restart) s = .next t ∧ empty t ∧ t.dev.tb = 0 ∧ t.dev.fw.warm = true ∧
      cause t = (if restart then 7 else c) ∧ t.dev.fw.running = (if restart then false else d1.fw.running) ∧
      (∀ k, standbyKey k = false → k ≠ Reg.HUB_COPPICE_CTL.base → Sparse.find t.dev.regs k = none) ∧
      Sparse.find t.dev.regs Reg.HUB_COPPICE_CTL.base = Sparse.find d1.regs Reg.HUB_COPPICE_CTL.base ∧
      (∀ k, 2 ^ 40 ≤ k → t.byte k = Sparse.get 0 (applyChanges s.mem d1.wq.reverse) k ∧ poisoned t.dev k = poisoned d1 k))) ∧
  (∀ (s : State) (p : Path) (key : BitVec 16) (restart : Bool), let may := pathPort p = none ∧ key = 0x5257
    (¬ may → (∃ t, exec (.mgmtRstCtlCold p key) s = .next t ∧ event s t) ∧ ∃ t, exec (.mgmtRstCtlWarm p key restart) s = .next t ∧ event s t) ∧
    (may → ∃ t, exec (.mgmtRstCtlCold p key) s = .next t ∧ cold s t 4) ∧
    (may → exec (.mgmtRstCtlWarm p key restart) s = exec (.warmReset false restart) s) ∧
    (pathIndex p ≠ 4 → ∃ t, exec (.thmTripClear p) s = .next t ∧ event s t) ∧
    (let clears := fbit s.dev Reg.THM_TRIP [] Fld.THM_TRIP_tripped = true ∧ tripCool s.dev = true
     (pathIndex p = 4 → ¬ clears → exec (.thmTripClear p) s = .next (idle s)) ∧
     (pathIndex p = 4 → clears → ∃ t, exec (.thmTripClear p) s = .next t ∧ off s t ∧ same s t ∧ cause t = 3 ∧ t.dev.tb = 0 ∧
      fbit t.dev Reg.THM_TRIP [] Fld.THM_TRIP_tripped = false))) ∧
  (∀ (s : State) (i : Fin 262) (temp : BitVec 16), let trips := hkBroken s.dev i.val = false ∧ fbit s.dev Reg.THM_TRIP [] Fld.THM_TRIP_tripped = false
    (¬ trips → exec (.thermalTrip i temp) s = .next (idle s)) ∧
    (trips → ∃ t, exec (.thermalTrip i temp) s = .next t ∧ off s t ∧ fbit t.dev Reg.THM_TRIP [] Fld.THM_TRIP_tripped = true ∧
      fget t.dev Reg.THM_TRIP [] Fld.THM_TRIP_slot = i.val)) ∧
  (∀ (s : State) (p : Fin 4), ∃ t, exec (.portReset p) s = .next t ∧
    fget t.dev Reg.HOST_PORT_STAT [p.val] Fld.HOST_PORT_STAT_up = 0 ∧ fget t.dev Reg.HOST_PORT_STAT [p.val] Fld.HOST_PORT_STAT_dstate = 0 ∧
    rdReg t.dev Reg.HOST_APER [p.val] = Reg.HOST_APER.reset ∧ (∀ v : Fin 2048, getMsix t.dev p.val v.val = {}) ∧
    (∀ q : Fin 4, q ≠ p → rdReg t.dev Reg.HOST_PORT_STAT [q.val] = rdReg s.dev Reg.HOST_PORT_STAT [q.val]) ∧
    (∀ (q : Fin 16) (w : Fin 6), rdReg t.dev (partReg w.val) [q.val] = rdReg s.dev (partReg w.val) [q.val]) ∧
    ∀ (st : BitVec 16) (q : Nat), q < 16 → partOfStream s.dev st.toNat = some q → portOfPart s.dev q = p.val →
      strmOn s.dev st.toNat = true → strmOn t.dev st.toNat = false ∨ (getStrm t.dev st.toNat).disabling = true) ∧
  (∀ (s : State) (i : Fin 36) (n : Fin 24) (ns : BitVec 32) (drain : BitVec 13) (ext : List Byte),
    let c := coreTargetState s.dev i.val ns.toNat
    let enters := siteState s.dev i.val = 0 ∧ corePstate s.dev i.val < c ∧ siteIdle s.dev i.val = true
    let v := stackTarget s.dev ns.toNat
    let sinks := (stacksIn s.dev).contains n.val = true ∧ stackPower s.dev n.val < v
    (¬ enters → exec (.powerStateEntry (.core i) ns drain ext) s = .next (idle s)) ∧
    (enters → ∃ t, exec (.powerStateEntry (.core i) ns drain ext) s = .next t ∧ corePstate t.dev i.val = c ∧
      (c < 3 → t.mem = s.mem ∧ keepsRegs s.dev t.dev [Reg.THM_CORE.key [i.val]])) ∧
    (¬ sinks → exec (.powerStateEntry (.stack n) ns drain ext) s = .next (idle s)) ∧
    (sinks → ∃ t, exec (.powerStateEntry (.stack n) ns drain ext) s = .next t ∧ t.mem = s.mem ∧ t.dev.regs = s.dev.regs ∧
      stackPower t.dev n.val = v ∧ ∀ m, m ≠ n.val → stackPower t.dev m = stackPower s.dev m) ∧
    (∃ t, exec (.powerStateWake (.core i)) s = .next t ∧ t.mem = s.mem ∧ keepsRegs s.dev t.dev [Reg.THM_CORE.key [i.val]] ∧
      corePstate t.dev i.val = if 2 ≤ corePstate s.dev i.val ∧ corePstate s.dev i.val ≤ 4 then 1 else corePstate s.dev i.val) ∧
    (∃ t, exec (.powerStateWake (.stack n)) s = .next t ∧ t.mem = s.mem ∧ t.dev.regs = s.dev.regs ∧ stackPower t.dev n.val = 0))

/-- ROM_SLOT_CHOICE writes a failed trial slot NOT VALID and runs the slot that R501 chooses, on trial where it is
PENDING, or stops at FAILED; ROM_WATCHDOG restarts the ROM, and ROM_RECOVERY_LOAD puts an image into slot 0.
MAIN_PHASE_START waits for its inputs, then carries the start from STANDBY to DISCOVER, through the waves, to HOLD and
READY, which confirms a PENDING slot and ends trial and busy. HOLD_CLEAR and CONSOLE_HOLD set hold, and a start that
waits goes on; no port clears it. CONTROLLER_FAULT lets the other instance take over and counts it, or is class C3
where no other is in step; CONTROLLER_HANDBACK resumes lockstep, and MC0 takes control again; CONTROLLER_SIMPLEX holds
an instance out. EVENT_STORE_MIRROR_WRITE copies the store. CONSOLE_RESET acts as MGMT_RST_CTL. Stages are stated for
a boot configuration with no entry of the stage, since entries are writes of their own. -/
def Obligations.StartsRunInStagesAndThePairFailsOver : Prop :=
  let idle (s : State) : State := { s with dev := s.dev.rest }
  let fw (s : State) (f : Fld) := fget s.dev Reg.MGMT_FW_STAT [] f
  let trial (s : State) := fget s.dev Reg.MGMT_UPD_STAT [] Fld.MGMT_UPD_STAT_trial
  let hold (s : State) := fget s.dev Reg.MGMT_BOOT_CTL [] Fld.MGMT_BOOT_CTL_hold
  let pair (s : State) (f : Fld) := fget s.dev Reg.MGMT_PAIR [] f
  let bare (s : State) (st : Nat) : Prop := ∀ x ∈ (bcbOf s.dev).getD [], x.stage ≠ st
  let ready (s t : State) : Prop := stage t.dev = 10 ∧ trial t = 0 ∧ t.dev.fw.warm = false ∧
    fget t.dev Reg.HUB_COPPICE_STAT [] Fld.HUB_COPPICE_STAT_busy = 0 ∧ t.mem = s.mem ∧
    (let slot := fw s Fld.MGMT_FW_STAT_mfw_slot
     hdrState t.dev 1 slot = if hdrState s.dev 1 slot = statePending then stateConfirmed else hdrState s.dev 1 slot)
  (∀ (s : State) (x : RomTests), bare s 2 →
    let atRom := stage s.dev = 0 ∧ s.dev.fw.running = false
    let bad := trial s = 1
    let old := fw s Fld.MGMT_FW_STAT_mfw_slot
    let d1 := if bad then setSlotState s.dev 1 old 0 else s.dev
    let cmd := Instr.romSlotChoice x
    let runs (t : State) (slot : Nat) : Prop := fw t Fld.MGMT_FW_STAT_mfw_slot = slot ∧
      (rdReg t.dev Reg.MGMT_MFW_VER []).toNat = hdrVersion s.dev 1 slot ∧
      (x.hang = true → stage t.dev = 1 ∧ t.dev.fw.running = false) ∧
      (x.hang = false → stage t.dev = 2 ∧ t.dev.fw.running = true ∧ fget t.dev Reg.FLT_ALIVE [] Fld.FLT_ALIVE_running = 1)
    (¬ atRom → exec cmd s = .next (idle s)) ∧
    (atRom → ∃ t, exec cmd s = .next t ∧ t.mem = s.mem ∧ t.dev.fw.flash = d1.fw.flash ∧
      (bad → fw t Fld.MGMT_FW_STAT_fallback = 1 ∧ hdrState t.dev 1 old = 0) ∧
      (chooseSlot d1 x.good 1 = none → stage t.dev = 15 ∧ t.dev.fw.running = false ∧ trial t = 0) ∧
      (∀ slot pending, chooseSlot d1 x.good 1 = some (slot, pending) → runs t slot ∧ trial t = bit pending)) ∧
    (let hung := stage s.dev = 1 ∧ s.dev.fw.running = false
     (¬ hung → exec .romWatchdog s = .next (idle s)) ∧
     (hung → ∃ t, exec .romWatchdog s = .next t ∧ t.mem = s.mem ∧ t.dev.fw.flash = s.dev.fw.flash ∧ stage t.dev = 0 ∧
      t.dev.fw.running = false ∧ fget t.dev Reg.MGMT_RST_CAUSE [] Fld.MGMT_RST_CAUSE_cause = 8 ∧ trial t = trial s)) ∧
    (∀ image : List Byte, let waits := stage s.dev = 15 ∧ s.dev.fw.running = false
      (¬ waits → exec (.romRecoveryLoad image x) s = .next (idle s)) ∧
      (waits → image.length ≤ slotSize 1 → ∃ t, exec (.romRecoveryLoad image x) s = .next t ∧ t.mem = s.mem ∧
        (∀ i, i < slotSize 1 → flashByte t.dev (slotOff 1 0 + i) = image.getD i 0xFF) ∧
        (slotValid t.dev x.good 1 0 = false → stage t.dev = 15) ∧
        (slotValid t.dev x.good 1 0 = true → fw t Fld.MGMT_FW_STAT_mfw_slot = 0 ∧ stage t.dev = if x.hang then 1 else 2)))) ∧
  (∀ (s : State) (x : StartTests),
    let cmd := Instr.mainPhaseStart x
    let free := s.dev.fw.running = true ∧ s.dev.fw.vin = true ∧ pairHalted s.dev = false ∧
      fbit s.dev Reg.THM_TRIP [] Fld.THM_TRIP_tripped = false
    let on := s.dev.fw.mainOn = true
    (¬ free → exec cmd s = .next (idle s)) ∧
    (free → ¬ on → stage s.dev ≠ 2 → exec cmd s = .next (idle s)) ∧
    (free → ¬ on → stage s.dev = 2 → bare s 3 → ∃ t, exec cmd s = .next t ∧ t.mem = s.mem ∧ stage t.dev = 4 ∧
      t.dev.fw.mainOn = true ∧ t.dev.fw.resetLow = false ∧ fget t.dev Reg.HUB_DIEMAP [0] Fld.HUB_DIEMAP_state = 1 ∧
      ∀ p : Fin 4, fbit t.dev Reg.HOST_PORT_CTL [p.val] Fld.HOST_PORT_CTL_lock = false →
        fget t.dev Reg.HOST_PORT_CTL [p.val] Fld.HOST_PORT_CTL_enable = 1) ∧
    (free → on → stage s.dev = 4 → waveSettled s.dev 1 = false → exec cmd s = .next (idle s)) ∧
    (free → on → stage s.dev = 4 → waveSettled s.dev 1 = true → (waveEnds 1).all (fun e => feiState s.dev e == 7) = true →
      ∃ t, exec cmd s = .next t ∧ stage t.dev = 15 ∧ devHalted t.dev = true) ∧
    (free → on → stage s.dev = 4 → waveSettled s.dev 1 = true → (waveEnds 1).all (fun e => feiState s.dev e == 7) = false →
      waveStarted s.dev 2 = false → ∃ t, exec cmd s = .next t ∧ t.mem = s.mem ∧ stage t.dev = 4) ∧
    (free → on → stage s.dev = 8 → opticsSettled s.dev = false → exec cmd s = .next (idle s)) ∧
    (free → on → stage s.dev = 8 → opticsSettled s.dev = true → bare s 8 → ∃ t, exec cmd s = .next t ∧
      (hold s = 1 → t.mem = s.mem ∧ stage t.dev = 9 ∧ hold t = 1) ∧ (hold s = 0 → ready s t)) ∧
    (free → on → stage s.dev = 9 → hold s = 1 → exec cmd s = .next (idle s)) ∧
    (free → on → stage s.dev = 9 → hold s = 0 → ∃ t, exec cmd s = .next t ∧ ready s t) ∧
    (free → on → stage s.dev ≠ 4 → stage s.dev ≠ 8 → stage s.dev ≠ 9 → exec cmd s = .next (idle s))) ∧
  (∀ (s : State) (p : Path) (up : Bool),
    let goes := stage s.dev = 9 ∧ s.dev.fw.running = true ∧ pairHalted s.dev = false
    let set (t : State) (v : Nat) : Prop := t.mem = s.mem ∧ keepsRegs s.dev t.dev [Reg.MGMT_BOOT_CTL.key []] ∧ hold t = v ∧ t.dev.fw = s.dev.fw
    ((pathPort p).isSome = true → ∃ t, exec (.holdClear p) s = .next t ∧ t.mem = s.mem ∧ t.dev.regs = s.dev.regs ∧
      t.dev.reports.length = s.dev.reports.length + 1) ∧
    (pathPort p = none → ∃ t, exec (.holdClear p) s = .next t ∧ hold t = 0 ∧ (goes → ready s t) ∧ (¬ goes → set t 0)) ∧
    (consoleWrites s.dev = false → exec (.consoleHold up) s = .next (idle s) ∧ exec (.consoleReset up) s = .next (idle s)) ∧
    (consoleWrites s.dev = true → (∃ t, exec (.consoleHold true) s = .next t ∧ set t 1) ∧
      (∃ t, exec (.consoleHold false) s = .next t ∧ hold t = 0 ∧ (stage s.dev = 9 → ready s t) ∧ (stage s.dev ≠ 9 → set t 0)) ∧
      exec (.consoleReset false) s = exec (.coldReset 4) s ∧ exec (.consoleReset true) s = exec (.warmReset true false) s)) ∧
  (∀ (s : State) (checker : Option (Fin 2)) (wd : Bool),
    let cmd := Instr.controllerFault checker wd
    let act := activeMc s.dev
    let i := match checker with | some i => i.val | none => act
    let why := match checker with | some _ => if wd then 3 else 1 | none => 2
    let again := i = 0 ∧ ∃ b, s.dev.fw.backAt = some b ∧ s.dev.tb < b + 1000000000
    let keeps (t : State) : Prop := t.mem = s.mem ∧ keepsRegs s.dev t.dev [Reg.MGMT_PAIR.key [], Reg.MGMT_FW_STAT.key []]
    let told (t : State) (n src : Nat) : Prop := t.dev.reports.length = s.dev.reports.length + n ∧ (0 < n → ∃ r ∈ t.dev.reports, r.source = src)
    (s.dev.fw.faulty = some i → exec cmd s = .next (idle s)) ∧
    (∀ j, s.dev.fw.faulty = some j → j ≠ i → ∃ t, exec cmd s = .next t ∧ keeps t ∧ told t 1 0x41 ∧ pair t Fld.MGMT_PAIR_last_cause = why) ∧
    (s.dev.fw.faulty = none → ∃ t, exec cmd s = .next t ∧ keeps t ∧ t.dev.fw.faulty = some i ∧ pair t Fld.MGMT_PAIR_last_cause = why ∧
      fw t Fld.MGMT_FW_STAT_pair = (if decide again then 2 else 1) ∧
      (i = act → activeMc t.dev = 1 - act ∧ told t (if decide again then 2 else 1) 0x1B ∧
        pair t Fld.MGMT_PAIR_failovers = min (pair s Fld.MGMT_PAIR_failovers + 1) 255) ∧
      (i ≠ act → activeMc t.dev = act ∧ told t (if decide again then 1 else 0) 0x2D ∧ pair t Fld.MGMT_PAIR_failovers = pair s Fld.MGMT_PAIR_failovers)) ∧
    (let repairs := s.dev.fw.faulty.isSome = true ∧ fw s Fld.MGMT_FW_STAT_pair = 1
     (¬ repairs → exec .controllerHandback s = .next (idle s) ∧ exec .controllerSimplex s = .next (idle s)) ∧
     (repairs → ∃ t, exec .controllerHandback s = .next t ∧ keeps t ∧ t.dev.fw.faulty = none ∧ fw t Fld.MGMT_FW_STAT_pair = 0 ∧
      (s.dev.fw.faulty = some 0 → activeMc t.dev = 0 ∧ t.dev.fw.backAt = some s.dev.tb ∧
        pair t Fld.MGMT_PAIR_handbacks = min (pair s Fld.MGMT_PAIR_handbacks + 1) 255) ∧
      (s.dev.fw.faulty ≠ some 0 → activeMc t.dev = act ∧ pair t Fld.MGMT_PAIR_handbacks = pair s Fld.MGMT_PAIR_handbacks)) ∧
     (repairs → ∃ t, exec .controllerSimplex s = .next t ∧ keeps t ∧ fw t Fld.MGMT_FW_STAT_pair = 2 ∧ told t 1 0x2D)) ∧
    (mfwServes s.dev = false → exec .eventStoreMirrorWrite s = .next (idle s)) ∧
    (mfwServes s.dev = true → ∃ t m, exec .eventStoreMirrorWrite s = .next t ∧ t.mem = s.mem ∧ t.dev.regs = s.dev.regs ∧
      t.dev.fw.mirror = some m ∧ m.records = s.dev.store ∧ m.place = rdReg s.dev Reg.FLT_STORE [] ∧
      m.standing = s.dev.coppice.standing ∧ m.ages = t.dev.fw.ages ∧ (s.dev.fw.mainOn = false → t.dev.fw.ages = s.dev.fw.ages)))

/-- No command of a mailbox runs unless MFW serves it. Update commands of a host's mailbox without its bit in MGMT_CFG
are DENIED; with another path's session they are BUSY, without one STATE. UPD_BEGIN erases the slot that does not run
and opens the session; UPD_DATA programs its bytes but never the state word; UPD_END closes the session with the slot
PENDING, or with CHECK and the slot NOT VALID, as UPD_ABORT and a timeout leave it; UPD_ACTIVATE leaves MFW to the
next start and pairs one light engine anew. GET_VERSIONS and READ_EVENTS answer into their mailbox, the console's
stat, ver, log and rd answer and change no register; wr acts as a register write. DBGACC acts with its instruction
alone: it refuses writes while they are disabled and anything with the rails off, and otherwise writes as a register
write or reads. The layout of GET_VERSIONS is the model's (log entry 92). -/
def Obligations.UpdatesMailboxesAndTheConsoleServe : Prop :=
  let idle (s : State) : State := { s with dev := s.dev.rest }
  let replied (s t : State) (path st : Nat) (resp : List Byte) : Prop := t.mem = s.mem ∧
    t.dev.out = s.dev.out ++ [.mailbox path st resp] ∧ t.dev.strm = s.dev.strm ∧ t.dev.reports = s.dev.reports ∧
    (path < 5 → fget t.dev Reg.MGMT_MBX_CTL [path] Fld.MGMT_MBX_CTL_done = 1 ∧
      fget t.dev Reg.MGMT_MBX_CTL [path] Fld.MGMT_MBX_CTL_status = st ∧
      fget t.dev Reg.MGMT_MBX_CTL [path] Fld.MGMT_MBX_CTL_length = resp.length % 256 ∧ path ∉ t.dev.fw.mbx)
  let kept (s t : State) : Prop := t.dev.fw.session = s.dev.fw.session ∧ t.dev.fw.flash = s.dev.fw.flash
  let denied (s : State) (path : Nat) : Prop := path < 4 ∧ tbit (fget s.dev Reg.MGMT_CFG [] Fld.MGMT_CFG_host_upd) path = false
  let opened (t : State) := fget t.dev Reg.MGMT_UPD_STAT [] Fld.MGMT_UPD_STAT_open
  let gives (s : State) (c : Instr) (path st : Nat) : Prop := ∃ t, exec c s = .next t ∧ replied s t path st [] ∧ kept s t
  (∀ (s : State) (path : Fin 7) (data : List Byte) (good : Bool),
    let p := path.val
    let asks (c : Instr) (code : Nat) (body : List Byte) : Prop :=
      (request s.dev p code body = none → exec c s = .next (idle s)) ∧
      ((request s.dev p code body).isSome = true → denied s p → gives s c p 2)
    asks (.updBegin path data) 0x10 data ∧ asks (.updData path data) 0x11 data ∧ asks (.updEnd path good) 0x12 [] ∧
    asks (.updActivate path data good) 0x13 data ∧ asks (.updAbort path) 0x14 [] ∧
    (∀ req, request s.dev p 0x10 data = some req → ¬ denied s p →
      let kind := leNat (req.take 1)
      let busy := s.dev.fw.session.any (fun x => x.path != p) = true
      let legal := req.length = 5 ∧ (kind = 1 ∨ kind = 2) ∧ leNat (slice req 1 4) ≤ slotSize kind
      let slot := 1 - runningSlot s.dev kind
      (busy → gives s (.updBegin path data) p 1) ∧ (¬ busy → ¬ legal → gives s (.updBegin path data) p 4) ∧
      (¬ busy → legal → ∃ t, exec (.updBegin path data) s = .next t ∧ replied s t p 0 [] ∧ opened t = 1 ∧
        t.dev.fw.session = some { path := p, kind := kind, slot := slot, len := leNat (slice req 1 4) } ∧
        ∀ k, flashByte t.dev k = if slotOff kind slot ≤ k ∧ k < slotOff kind slot + slotSize kind then 0xFF else flashByte s.dev k)) ∧
    (∀ req, request s.dev p 0x11 data = some req → ¬ denied s p →
      (s.dev.fw.session = none → gives s (.updData path data) p 5) ∧
      (∀ x, s.dev.fw.session = some x → x.path ≠ p → gives s (.updData path data) p 1) ∧
      (∀ x, s.dev.fw.session = some x → x.path = p →
        let off := leNat (req.take 4)
        let n := leNat (slice req 4 2)
        let legal := req.length = 6 + n ∧ n ≤ 248 ∧ off + n ≤ slotSize x.kind
        let base := slotOff x.kind x.slot
        (¬ legal → gives s (.updData path data) p 4) ∧
        (legal → ∃ t, exec (.updData path data) s = .next t ∧ replied s t p 0 [] ∧ t.dev.fw.session = some x ∧
          (∀ i, i < n → flashByte t.dev (base + off + i) = if 20 ≤ off + i ∧ off + i < 24 then flashByte s.dev (base + off + i)
            else flashByte s.dev (base + off + i) &&& req.getD (6 + i) 0) ∧
          ∀ k, k < base + off ∨ base + off + n ≤ k → flashByte t.dev k = flashByte s.dev k))) ∧
    ((request s.dev p 0x12 []).isSome = true → ¬ denied s p →
      (s.dev.fw.session = none → gives s (.updEnd path good) p 5) ∧
      (∀ x, s.dev.fw.session = some x → x.path ≠ p → gives s (.updEnd path good) p 1) ∧
      (∀ x, s.dev.fw.session = some x → x.path = p →
        let newer := hdrSeq s.dev x.kind (runningSlot s.dev x.kind) < hdrSeq s.dev x.kind x.slot ∨ (x.kind = 2 ∧ s.dev.fw.lfw = none)
        let sound := headerOk s.dev x.kind x.slot = true ∧ good = true ∧ newer
        ∃ t, exec (.updEnd path good) s = .next t ∧ replied s t p (if headerOk s.dev x.kind x.slot && good && decide newer then 0 else 3) [] ∧
          t.dev.fw.session = none ∧ opened t = 0 ∧ (sound → t.dev.fw.flash = s.dev.fw.flash) ∧
          (¬ sound → hdrState t.dev x.kind x.slot = 0))) ∧
    ((request s.dev p 0x14 []).isSome = true → ¬ denied s p →
      (s.dev.fw.session = none → gives s (.updAbort path) p 5) ∧
      (∀ x, s.dev.fw.session = some x → x.path ≠ p → gives s (.updAbort path) p 1) ∧
      (∀ x, s.dev.fw.session = some x → x.path = p → ∃ t, exec (.updAbort path) s = .next t ∧ replied s t p 0 [] ∧
        t.dev.fw.session = none ∧ opened t = 0 ∧ hdrState t.dev x.kind x.slot = 0)) ∧
    (s.dev.fw.session = none → exec .updSessionTimeout s = .next (idle s)) ∧
    (∀ x, s.dev.fw.session = some x → ∃ t, exec .updSessionTimeout s = .next t ∧ t.mem = s.mem ∧ t.dev.out = s.dev.out ∧
      t.dev.fw.session = none ∧ opened t = 0 ∧ hdrState t.dev x.kind x.slot = 0) ∧
    (∀ req, request s.dev p 0x13 data = some req → ¬ denied s p →
      let kind := leNat (req.take 1)
      let k := leNat (slice req 1 1)
      let slot := 1 - runningSlot s.dev kind
      let legal := (kind = 1 ∧ 1 ≤ req.length) ∨ (kind = 2 ∧ req.length = 2 ∧ (k < 16 ∨ k = 255))
      let pending := headerOk s.dev kind slot = true ∧ good = true ∧ hdrState s.dev kind slot = statePending
      let cmd := Instr.updActivate path data good
      (¬ legal → gives s cmd p 4) ∧ (legal → ¬ pending → gives s cmd p 5) ∧
      (legal → pending → kind = 1 ∨ k = 255 ∨ s.dev.fw.mainOn = false → gives s cmd p 0) ∧
      (legal → pending → kind = 2 → k < 16 → s.dev.fw.mainOn = true → ∃ t, exec cmd s = .next t ∧
        .mailbox p 0 [] ∈ t.dev.out ∧ t.dev.fw.flash = s.dev.fw.flash ∧
        let die (f : Fld) := fget s.dev Reg.HUB_DIEMAP [43 + k] f
        fget t.dev Reg.MGMT_LE_FW [k] Fld.MGMT_LE_FW_result = if die Fld.HUB_DIEMAP_state = 1
          then pairing s.dev (some (hdrVersion s.dev 2 slot, hdrIf s.dev 2 slot)) (die Fld.HUB_DIEMAP_stepping) else 3)) ∧
    (request s.dev p 1 [] = none → exec (.getVersions path) s = .next (idle s)) ∧
    ((request s.dev p 1 []).isSome = true → ∃ t, exec (.getVersions path) s = .next t ∧ replied s t p 0 (versions s.dev) ∧ kept s t) ∧
    (request s.dev p 0x20 data = none → exec (.readEvents path data) s = .next (idle s)) ∧
    (∀ req, request s.dev p 0x20 data = some req → let legal := req.length = 4 ∧ leNat req < storeLen
      (¬ legal → gives s (.readEvents path data) p 4) ∧
      (legal → ∃ t, exec (.readEvents path data) s = .next t ∧ replied s t p 0 (storeFrom s.dev 15 (leNat req)) ∧ kept s t))) ∧
  (∀ (s : State) (n : BitVec 16) (addr value : Word) (ext : List Byte), let up := consoleUp s.dev = true
    let prints (c : Instr) (bs : List Byte) : Prop := exec c s = .next { s with dev := (emit s.dev (.console bs)).rest }
    (¬ up → exec .consoleStat s = .next (idle s) ∧ exec .consoleVer s = .next (idle s) ∧ exec (.consoleLog n) s = .next (idle s) ∧
      exec (.consoleRd addr n) s = .next (idle s)) ∧
    (up → prints .consoleStat (wordBytes [rdReg s.dev Reg.MGMT_FW_STAT [], rdReg s.dev Reg.HUB_COPPICE_STAT []]) ∧
      prints .consoleVer (versions s.dev) ∧
      prints (.consoleLog n) ((List.range (min n.toNat storeLen)).flatMap (fun i =>
        ((Sparse.find s.dev.store (storeBack s.dev i)).map (padTo 16)).getD []))) ∧
    (up → addr.toNat % 4 = 0 → ∃ t bs, exec (.consoleRd addr n) s = .next t ∧ t.mem = s.mem ∧ t.dev.regs = s.dev.regs ∧
      t.dev.dbg = s.dev.dbg ∧ t.dev.out = s.dev.out ++ [.console bs] ∧ bs.length ≤ 4 * n.toNat) ∧
    (let writes := consoleWrites s.dev = true ∧ addr.toNat < 2 ^ 26
     (¬ writes → exec (.consoleWr addr value ext) s = .next (idle s)) ∧
     (writes → exec (.consoleWr addr value ext) s =
      exec (.regWrite .console (BitVec.ofNat 26 addr.toNat) 4 (BitVec.ofNat 64 value.toNat) ext) s))) ∧
  (∀ (s : State) (reg : BitVec 64) (ext : List Byte),
    let a := bits reg.toNat 25 2 * 4
    let write := reg.toNat.testBit 26 = true
    let cmd := Instr.dbgacc reg ext
    let on := s.dev.dbg.ir = 0x20
    let may := fbit s.dev Reg.DBG_CFG [] Fld.DBG_CFG_jtag_wr = true
    let shows (st v : Nat) : Prop := exec cmd s = .next { s with dev := { s.dev with dbg := { s.dev.dbg with acc := (st, v) } }.rest }
    (¬ on → exec cmd s = .next (idle s)) ∧
    (on → write → ¬ may → shows 3 0) ∧
    (on → (write → may) → railsOff s.dev a = true → shows 2 0) ∧
    (on → write → may → railsOff s.dev a = false → syncAddr a = true → ∃ t, exec cmd s = .next t ∧ t.mem = s.mem ∧ t.dev.ctr = s.dev.ctr ∧
      t.dev.regs = s.dev.regs ∧ t.dev.dbg.acc = (2, 0)) ∧
    (on → write → may → railsOff s.dev a = false → syncAddr a = false →
      ∀ u, exec (.regWrite .jtag (BitVec.ofNat 26 a) 4 (BitVec.ofNat 64 (high32 reg.toNat).toNat) ext) s = .next u →
        exec cmd s = .next { u with dev := { u.dev with dbg := { u.dev.dbg with acc := (0, 0) } } }) ∧
    (on → ¬ write → railsOff s.dev a = false → reg.toNat.testBit 27 = true → ∃ t v, exec cmd s = .next t ∧ t.mem = s.mem ∧
      t.dev.regs = s.dev.regs ∧ t.dev.out = s.dev.out ∧ t.dev.dbg = { s.dev.dbg with acc := (0, v) }))

/-- Hawthorn takes the n-th of the reports that reached it. For a report that affects no partition, whose source is of
class C0 and which meets no pending record: it is removed from the waiting reports; FLT_FIRST[0] holds its identifier
(source, unit, sub-unit, class 0), its detail and the time base where the latch was empty, and is unchanged where it
held a record, in which case the overflow bit of class C0 is set; FLT_COUNT[0] counts it up to its largest value; and,
where the table of 64 has room if its source escalates, a record is entered among the pending ones. A command that
names no report changes nothing. -/
def Obligations.FaultIsLatched : Prop :=
  (∀ (s : State) (n : BitVec 16) (r : Report), s.dev.reports[n.toNat]? = some r → r.source < 0x20 →
    r.unit < 65 → r.sub < 1024 → affected s.dev r = [] → meetsPending s.dev r [] = false →
    (escalates r.source = true → pendTable s.dev < 64) →
    let detail := match r.stat with | some (k, z) => Sparse.get z s.dev.regs k | none => r.detail
    let full := tbit (fget s.dev Reg.FLT_STAT [] Fld.FLT_STAT_valid) 0
    ∃ t, exec (.faultTaken n) s = .next t ∧ t.mem = s.mem ∧
      t.dev.reports = s.dev.reports.take n.toNat ++ s.dev.reports.drop (n.toNat + 1) ∧
      (full = false → rdReg t.dev Reg.FLT_FIRST_IDENT [0] = low32 (r.source * 2 ^ 24 + r.unit * 2 ^ 17 + r.sub * 2 ^ 7) ∧
        rdReg t.dev Reg.FLT_FIRST_DETAIL [0] = detail ∧ rdReg t.dev Reg.FLT_FIRST_TIME_LO [0] = low32 s.dev.tb ∧
        rdReg t.dev Reg.FLT_FIRST_TIME_HI [0] = high32 s.dev.tb) ∧
      (full = true → rdReg t.dev Reg.FLT_FIRST_IDENT [0] = rdReg s.dev Reg.FLT_FIRST_IDENT [0] ∧
        rdReg t.dev Reg.FLT_FIRST_DETAIL [0] = rdReg s.dev Reg.FLT_FIRST_DETAIL [0] ∧
        tbit (fget t.dev Reg.FLT_STAT [] Fld.FLT_STAT_ovr) 0 = true) ∧
      tbit (fget t.dev Reg.FLT_STAT [] Fld.FLT_STAT_valid) 0 = true ∧
      fget t.dev Reg.FLT_COUNT [0] Fld.FLT_COUNT_count = min (fget s.dev Reg.FLT_COUNT [0] Fld.FLT_COUNT_count + 1) 0xFFFFFFFF ∧
      t.dev.flt.pend = s.dev.flt.pend ++ [⟨r.source, r.unit, r.sub, 0, [], s.dev.tb,
        tbit (fget s.dev Reg.FLT_CFG [] Fld.FLT_CFG_auto_ack) 0, none⟩]) ∧
  (∀ (s : State) (n : BitVec 16), s.dev.reports.length ≤ n.toNat →
    exec (.faultTaken n) s = .next { s with dev := s.dev.rest })

/-- A fault meets a pending record where a record of its class is pending in its scope: the scope is source, unit and
sub-unit for an escalating source of class C0, the unit for an escalating source of class C1, and a shared partition
for class C2. A report CMEM_UE of a core bank that meets a pending record is taken as of class C1: it is removed from
the waiting reports, it makes the latch of class C1 valid, with the class 1 and the mark esc in its identifier where
that latch was empty, and the bank is FENCED. A class C3 fault stops the ALIVE deadline. -/
def Obligations.SecondFaultIsRaised : Prop :=
  (∀ (d : Dev) (r : Report) (parts : List Nat), meetsPending d r parts = true ↔
    ∃ x ∈ d.flt.pend, x.cls = classOf r.source ∧
      ((r.source < 0x20 ∧ escalates r.source = true ∧ x.source = r.source ∧ x.unit = r.unit ∧ x.sub = r.sub) ∨
       (0x20 ≤ r.source ∧ r.source < 0x30 ∧ escalates r.source = true ∧ x.unit = r.unit) ∨
       (0x30 ≤ r.source ∧ r.source < 0x40 ∧ ∃ q ∈ x.parts, q ∈ parts))) ∧
  (∀ (s : State) (n : BitVec 16) (r : Report), s.dev.reports[n.toNat]? = some r → r.source = 0x11 →
    7 ≤ r.unit → r.unit < 43 → r.sub < 34 → meetsPending s.dev r (affected s.dev r) = true →
    ∃ t, exec (.faultTaken n) s = .next t ∧
      t.dev.reports = s.dev.reports.take n.toNat ++ s.dev.reports.drop (n.toNat + 1) ∧
      tbit (fget t.dev Reg.FLT_STAT [] Fld.FLT_STAT_valid) 1 = true ∧
      fget t.dev Reg.CMEM_BANK [r.unit - 7, r.sub] Fld.CMEM_BANK_state = 6 ∧
      rdReg t.dev Reg.FLT_FIRST_IDENT [1] =
        if tbit (fget s.dev Reg.FLT_STAT [] Fld.FLT_STAT_valid) 1 then rdReg s.dev Reg.FLT_FIRST_IDENT [1]
        else low32 (0x11 * 2 ^ 24 + r.unit * 2 ^ 17 + r.sub * 2 ^ 7 + 2 ^ 5 + 2 ^ 4)) ∧
  (∀ (e : Env) (d : Dev) (r : Report), 0x40 ≤ r.source →
    fbit (takeFault e d r) Reg.FLT_ALIVE [] Fld.FLT_ALIVE_running = false)

/-- FLT_ACK from a path that is no port removes exactly the pending records of the named classes and never one of
class C3. FLT_PART_ACK from a path that reaches the partition removes exactly the class C2 records that affect it.
FAULT_PENDING_END removes the record it names if it acknowledges itself, is below class C3 and its reaction is done,
and nothing otherwise. None changes the queue of reports, the memories or the event store. A port's FLT_ACK is refused
with the class C0 event. -/
def Obligations.AcknowledgementEndsPending : Prop :=
  (∀ (s : State) (p : Path) (classes : BitVec 3), pathPort p = none →
    ∃ t, exec (.fltAck p classes) s = .next t ∧ t.mem = s.mem ∧ t.dev.reports = s.dev.reports ∧
      t.dev.store = s.dev.store ∧ ∀ x, x ∈ t.dev.flt.pend ↔ x ∈ s.dev.flt.pend ∧ (3 ≤ x.cls ∨ classes.toNat.testBit x.cls = false)) ∧
  (∀ (s : State) (p : Fin 4) (classes : BitVec 3),
    ∃ t, exec (.fltAck (.port p) classes) s = .next t ∧ t.mem = s.mem ∧ t.dev.flt = s.dev.flt ∧ t.dev.regs = s.dev.regs ∧
      t.dev.reports = s.dev.reports ++
        [{ source := 0x01, unit := 61 + p.val, detail := low32 (Reg.FLT_ACK.key []) : Report }]) ∧
  (∀ (s : State) (p : Path) (q : Fin 16), fltPartPath s.dev p q.val = true →
    ∃ t, exec (.fltPartAck p q) s = .next t ∧ t.mem = s.mem ∧ t.dev.reports = s.dev.reports ∧
      t.dev.store = s.dev.store ∧ ∀ x, x ∈ t.dev.flt.pend ↔ x ∈ s.dev.flt.pend ∧ ¬ (x.cls = 2 ∧ q.val ∈ x.parts)) ∧
  (∀ (s : State) (n : BitVec 16) (x : Pend), s.dev.flt.pend[n.toNat]? = some x →
    ∃ t, exec (.faultPendingEnd n) s = .next t ∧ t.mem = s.mem ∧ t.dev.reports = s.dev.reports ∧
      t.dev.flt.pend = if x.auto_ = true ∧ x.cls < 3 ∧ reactionDone s.dev x = true
        then s.dev.flt.pend.take n.toNat ++ s.dev.flt.pend.drop (n.toNat + 1) else s.dev.flt.pend)

/-- FLT_CLEAR of one class, from a path that is no port: while a record of the class is pending the latch, the count
and the overflow bit stay and FLT_STAT.clr_ref is set; otherwise the latch, the count and the valid and overflow bits
of the class are cleared, and those of the other classes stay. FLT_PART_CLEAR from a path that reaches the partition
clears its FATAL mark and its record while no class C2 record that affects it is pending and its streams are OFF, and
is refused with clr_ref otherwise. -/
def Obligations.ClearingALatch : Prop :=
  (∀ (s : State) (p : Path) (c : Fin 3), pathPort p = none →
    ∃ t, exec (.fltClear p (BitVec.ofNat 3 (2 ^ c.val))) s = .next t ∧ t.mem = s.mem ∧ t.dev.flt = s.dev.flt ∧
      (s.dev.flt.pend.any (fun x => x.cls == c.val) = true →
        fbit t.dev Reg.FLT_STAT [] Fld.FLT_STAT_clr_ref = true ∧
        rdReg t.dev Reg.FLT_FIRST_IDENT [c.val] = rdReg s.dev Reg.FLT_FIRST_IDENT [c.val] ∧
        rdReg t.dev Reg.FLT_COUNT [c.val] = rdReg s.dev Reg.FLT_COUNT [c.val] ∧
        fget t.dev Reg.FLT_STAT [] Fld.FLT_STAT_valid = fget s.dev Reg.FLT_STAT [] Fld.FLT_STAT_valid) ∧
      (s.dev.flt.pend.any (fun x => x.cls == c.val) = false →
        rdReg t.dev Reg.FLT_FIRST_IDENT [c.val] = 0 ∧ rdReg t.dev Reg.FLT_FIRST_DETAIL [c.val] = 0 ∧
        rdReg t.dev Reg.FLT_FIRST_TIME_LO [c.val] = 0 ∧ rdReg t.dev Reg.FLT_FIRST_TIME_HI [c.val] = 0 ∧
        rdReg t.dev Reg.FLT_COUNT [c.val] = 0 ∧
        ∀ i, i < 4 → (fget t.dev Reg.FLT_STAT [] Fld.FLT_STAT_valid).testBit i =
          ((fget s.dev Reg.FLT_STAT [] Fld.FLT_STAT_valid).testBit i && decide (i ≠ c.val)))) ∧
  (∀ (s : State) (p : Path) (q : Fin 16), fltPartPath s.dev p q.val = true →
    ∃ t, exec (.fltPartClear p q) s = .next t ∧ t.mem = s.mem ∧ t.dev.flt = s.dev.flt ∧
      if s.dev.flt.pend.any (fun x => x.cls == 2 && x.parts.contains q.val) = true ∨ partStreams s.dev q.val ≠ [] then
        fbit t.dev Reg.FLT_STAT [] Fld.FLT_STAT_clr_ref = true ∧
        rdReg t.dev Reg.FLT_PART_STAT [q.val] = rdReg s.dev Reg.FLT_PART_STAT [q.val]
      else
        fbit t.dev Reg.FLT_PART_STAT [q.val] Fld.FLT_PART_STAT_fatal = false ∧
        fget t.dev Reg.FLT_PART_STAT [q.val] Fld.FLT_PART_STAT_count = 0 ∧
        rdReg t.dev Reg.FLT_PART_REC [q.val] = 0 ∧ rdReg t.dev Reg.FLT_PART_DET [q.val] = 0)

/-- ALIVE_KICK from MFW records the time base and nothing else; from another path it changes no deadline. MFW_HANG,
while the deadline runs and the pair is not halted, is Hawthorn's taking of the class C3 fault MFW_HANG (source 0x43).
PLDM_POLL_EVENT hands out the oldest queued event. -/
def Obligations.AliveAndEventCollection : Prop :=
  (∀ s : State, exec (.aliveKick .mfw) s =
    .next { s with dev := { s.dev.rest with flt := { s.dev.flt with kickAt := s.dev.tb } } }) ∧
  (∀ (s : State) (p : Path), p ≠ .mfw → ∃ t, exec (.aliveKick p) s = .next t ∧ t.dev.flt = s.dev.flt ∧ t.mem = s.mem) ∧
  (∀ s : State, fbit s.dev Reg.FLT_ALIVE [] Fld.FLT_ALIVE_running = true → pairHalted s.dev = false →
    exec .mfwHang s = .next (s.after (fun e d => takeFault e d { source := 0x43, unit := 0, stat := Reg.FLT_ALIVE.slot [] }))) ∧
  (∀ (s : State) (ws : List Word) (rest : List (List Word)), s.dev.flt.pldm = ws :: rest →
    exec .pldmPollEvent s = .next { s with dev :=
      { s.dev.rest with flt := { s.dev.flt with pldm := rest }, out := s.dev.out ++ [.pldm ws] } })

/-- DBG_SNAP_TAKE copies every counter of a site with the time base, and gen counts. TRACE_EVENT buffers a record,
after a LOST record where some were dropped, or drops and counts it; TRACE_DRAIN writes a record with its phase at its
place in the ring while the ring has room; an error ends tracing. TRC_CTL takes enable only with a legal ring and a
partition, and other fields only while disabled; TRC_RPTR stays at or below TRC_WPTR. An unmatched DUMP completes OK
and touches nothing. A halt is DEFERRED while the stream holds a lock; resume, step and force act as R555 and R556
give, and the end of the deferral forces a halt or makes it plain. The pair halts only while mc_halt_en is 1, in or
after a marked sequence, and resumes with its ALIVE deadline moved. A test starts only where Table 17.10 allows it,
ends where it no longer does, and a locked checker counts; one fed its pattern locks after 64 bits. Boundary-scan
instructions need RESET_N low. -/
def Obligations.InstrumentsCountTraceHaltAndTest : Prop :=
  let idle (s : State) : State := { s with dev := s.dev.rest }
  let event (s t : State) : Prop := t.mem = s.mem ∧ t.dev.regs = s.dev.regs ∧ t.dev.dbg = s.dev.dbg ∧ t.dev.strm = s.dev.strm ∧
    t.dev.reports.length = s.dev.reports.length + 1
  let ctl (s : State) (u : Nat) (f : Fld) := trcGet s.dev u Reg.CORE_TRC_CTL Reg.LE_TRC_CTL f
  let enable (s : State) (u : Nat) := ctl s u Fld.CORE_TRC_CTL_enable
  let lost (d : Dev) (u : Nat) := trcGet d u Reg.CORE_TRC_STAT Reg.LE_TRC_STAT Fld.CORE_TRC_STAT_lost
  let halt (s : State) (st : Nat) := (getStrm s.dev st).halt
  let mc (s : State) (f : Fld) := fget s.dev Reg.DBG_MC_HALT [] f
  (∀ (s : State) (p : Path) (site : Fin 36),
    (portHalted s.dev p = false → siteAdmits s.dev p site.val = false → ∃ t, exec (.dbgSnapTake p site) s = .next t ∧ event s t) ∧
    (portHalted s.dev p = false → siteAdmits s.dev p site.val = true → ∃ t, exec (.dbgSnapTake p site) s = .next t ∧ t.mem = s.mem ∧
      t.dev.dbg = s.dev.dbg ∧
      fget t.dev Reg.DBG_SNAP [site.val] Fld.DBG_SNAP_gen = (fget s.dev Reg.DBG_SNAP [site.val] Fld.DBG_SNAP_gen + 1) % 2 ^ 16 ∧
      pair64 (rdReg t.dev Reg.DBG_SNAP_TIME [site.val, 0]) (rdReg t.dev Reg.DBG_SNAP_TIME [site.val, 1]) = s.dev.tb % 2 ^ 64 ∧
      ∀ e, e < 14 → let a := actOf s.dev site.val e
        let word (r : RegDesc) := pair64 (rdReg t.dev r [site.val, e, 0]) (rdReg t.dev r [site.val, e, 1])
        word Reg.DBG_SNAP_BUSY = a.busy % 2 ^ 64 ∧ word Reg.DBG_SNAP_STALL = a.stall % 2 ^ 64 ∧
        word Reg.DBG_SNAP_IDLE = (countedFor s.dev site.val - a.busy - a.stall) % 2 ^ 64 ∧
        rdReg t.dev Reg.DBG_SNAP_DONE [site.val, e] = low32 a.done ∧
        ∀ r, r < 8 → rdReg t.dev Reg.DBG_SNAP_REASON [site.val, e, r] = low32 (a.reasons.getD r 0 / 16))) ∧
  (∀ s : State, (s.dev.dbg.events = [] → exec .traceEvent s = .next (idle s)) ∧
    ∀ x xs, s.dev.dbg.events = x :: xs → x.unit < 52 → let b := trc s.dev x.unit
      let rec_ := trcRecord x.time x.kind x.who x.stream x.arg
      let more := trcRecord x.time 0xA 15 0 b.missed
      let room := trcRoom x.unit
      ∃ t, exec .traceEvent s = .next t ∧ t.mem = s.mem ∧ t.dev.dbg.events = xs ∧ (∀ v, v ≠ x.unit → trc t.dev v = trc s.dev v) ∧
        (b.missed = 0 → b.buf.length < room → t.dev.regs = s.dev.regs ∧ (trc t.dev x.unit).buf = b.buf ++ [rec_]) ∧
        (0 < b.missed → b.buf.length + 1 < room → t.dev.regs = s.dev.regs ∧ (trc t.dev x.unit).buf = b.buf ++ [more, rec_] ∧
          (trc t.dev x.unit).missed = 0) ∧
        (room ≤ b.buf.length → (trc t.dev x.unit).buf = b.buf ∧ (trc t.dev x.unit).missed = b.missed + 1 ∧
          lost t.dev x.unit = min (lost s.dev x.unit + 1) (2 ^ 24 - 1))) ∧
  (∀ (s : State) (u : Fin 52) (ext : List Byte), let on := trcState s.dev u.val = 1
    let b := trc s.dev u.val
    let ring := trcRing s.dev u.val
    let w := trcW s.dev u.val
    let r : Requester := { src := trcSource u.val, part := trcPart s.dev u.val }
    let written (x : List Byte) := pkgWrite { fuses := s.fuses, mem := s.mem } { s.dev.rest with extIn := ext } r
      (ring.1 + 16 * (w % 2 ^ ring.2)) (phased w ring.2 x) (allEnabled 16)
    let failed (t : State) (d : Dev) (n : Nat) : Prop := trcState t.dev u.val = 2 ∧ (trc t.dev u.val).buf = [] ∧
      lost t.dev u.val = min (lost d u.val + n) (2 ^ 24 - 1)
    (¬ on → ∀ n, exec (.traceDrain u n ext) s = .next (idle s)) ∧
    (on → b.buf ≠ [] → 2 ^ ring.2 ≤ sub32 w (trcR s.dev u.val) → exec (.traceDrain u 1 ext) s = .next (idle s)) ∧
    (∀ x xs d, on → b.buf = x :: xs → sub32 w (trcR s.dev u.val) < 2 ^ ring.2 → written x = (none, d) →
      ∃ t, exec (.traceDrain u 1 ext) s = .next t ∧ t.mem = applyChanges s.mem d.wq.reverse ∧ (trc t.dev u.val).buf = xs ∧
      trcW t.dev u.val = (w + 1) % 2 ^ 32) ∧
    (∀ x xs er d, on → b.buf = x :: xs → sub32 w (trcR s.dev u.val) < 2 ^ ring.2 → written x = (some er, d) →
      ∃ t, exec (.traceDrain u 1 ext) s = .next t ∧ failed t d (trc d u.val).buf.length) ∧
    (¬ (on ∧ b.buf ≠ []) → exec (.traceDrainError u) s = .next (idle s)) ∧
    (on → b.buf ≠ [] → ∃ t, exec (.traceDrainError u) s = .next t ∧ t.mem = s.mem ∧ failed t s.dev b.buf.length)) ∧
  (∀ (s : State) (p : Path) (u : Fin 52) (data : Word), portHalted s.dev p = false →
    let may := trcWrites s.dev p u.val = true
    let live := enable s u.val = 1
    let bad := trcRingBad s.dev u.val = true ∨ trcPart s.dev u.val = none
    let on := Instr.trcCtlEnable p u data
    let off := Instr.trcCtlDisable p u data
    let took (t : State) : Prop := t.mem = s.mem ∧ ctl t u.val Fld.CORE_TRC_CTL_mask = Fld.CORE_TRC_CTL_mask.get data ∧
      ctl t u.val Fld.CORE_TRC_CTL_share = Fld.CORE_TRC_CTL_share.get data
    (¬ may → (∃ t, exec on s = .next t ∧ event s t) ∧ (∃ t, exec off s = .next t ∧ event s t) ∧
      ∃ t, exec (.trcRptrWrite p u data) s = .next t ∧ event s t) ∧
    (may → live → exec on s = .next (idle s)) ∧
    (may → ¬ live → ∃ t, exec on s = .next t ∧ took t ∧
      (bad → enable t u.val = 0 ∧ trcGet t.dev u.val Reg.CORE_TRC_STAT Reg.LE_TRC_STAT Fld.CORE_TRC_STAT_cfg_err = 1 ∧
        trcState t.dev u.val = trcState s.dev u.val) ∧
      (¬ bad → enable t u.val = 1 ∧ trcState t.dev u.val = 1 ∧ (trc t.dev u.val).closing = false)) ∧
    (may → ¬ live → ∃ t, exec off s = .next t ∧ took t ∧ enable t u.val = 0 ∧ trcState t.dev u.val = trcState s.dev u.val) ∧
    (may → live → ∃ t, exec off s = .next t ∧ t.mem = s.mem ∧ enable t u.val = 0 ∧ (trc t.dev u.val).buf = (trc s.dev u.val).buf ∧
      (let drained := (trc s.dev u.val).buf = [] ∧ ∀ x ∈ s.dev.dbg.events, x.unit ≠ u.val
       (drained → trcState t.dev u.val = 0) ∧
       (¬ drained → (trc t.dev u.val).closing = true ∧ trcState t.dev u.val = trcState s.dev u.val))) ∧
    (may → ge32 (trcW s.dev u.val) data.toNat = true → ∃ t, exec (.trcRptrWrite p u data) s = .next t ∧ t.mem = s.mem ∧
      trcR t.dev u.val = data.toNat) ∧
    (may → ge32 (trcW s.dev u.val) data.toNat = false → ∃ t, exec (.trcRptrWrite p u data) s = .next t ∧ event s t)) ∧
  (∀ (s : State) (site : Fin 36) (ext : List Byte), let own := s.dev.handoff.find? (fun h => h.site == site.val && h.unit == 12)
    (own = none → exec (.dumpDesc site ext) s = .next (idle s)) ∧
    (∀ h x q, own = some h → heldDesc s.dev h.job.stream.toNat h.job.seq.toNat = some x → partOfStream s.dev h.job.stream.toNat = some q →
      let local_ := dbit h.job.bytes 24 48 = true → partOfCounter s.dev (dfield h.job.bytes 24 47 32) = some q
      (¬ local_ ∨ x.dumpHit = false → ∃ t, exec (.dumpDesc site ext) s = .next t ∧ t.mem = s.mem ∧ t.dev.regs = s.dev.regs ∧
        t.dev.handoff = s.dev.handoff.erase h ∧ ∃ y, t.dev.engDone = s.dev.engDone ++ [y] ∧ y.stream = h.job.stream ∧ y.seq = h.job.seq ∧
        y.detail = 0 ∧ (¬ local_ → y.status = 0x13) ∧ (local_ → y.status = 0)) ∧
      (∀ bytes d1 st d2, local_ → x.dumpHit = true →
        readRecord { fuses := s.fuses, mem := s.mem } { s.dev.rest with handoff := s.dev.handoff.erase h, extIn := ext } site.val
          (64 * dfield h.job.bytes 16 19 0) = (.ok bytes, d1) →
        dumpCopy { fuses := s.fuses, mem := s.mem } d1 site.val q x h.job.stream.toNat bytes = (st, d2) →
        ∃ t, exec (.dumpDesc site ext) s = .next t ∧ t.mem = applyChanges s.mem d2.wq.reverse ∧
          ∃ y, t.dev.engDone = d2.engDone ++ [y] ∧ y.status = st ∧ y.detail = bit (st == 0)))) ∧
  (∀ (s : State) (p : Path) (stream : BitVec 16), portHalted s.dev p = false →
    let st := stream.toNat
    let owns := pathOwns s.dev p (partOfStream s.dev st) = true
    let h := halt s st
    let locked := lockHeld s.dev st = true
    let named (t : State) : Prop := t.mem = s.mem ∧ keepsRegs s.dev t.dev [Reg.DBG_HALT_CTL.key [pathIndex p]] ∧
      fget t.dev Reg.DBG_HALT_CTL [pathIndex p] Fld.DBG_HALT_CTL_stream = st
    let broken (t : State) : Prop := ∀ c, let x := getCtr s.dev c
      (x.holder = some st → (getCtr t.dev c).holder = none ∧ (getCtr t.dev c).poison = true) ∧
      (x.holder ≠ some st → (getCtr t.dev c).holder = x.holder ∧ (getCtr t.dev c).poison = x.poison) ∧ (getCtr t.dev c).value = x.value
    (¬ owns → ∀ c ∈ [Instr.dbgHalt p stream, .dbgResume p stream, .dbgStep p stream, .dbgForce p stream],
      ∃ t, exec c s = .next t ∧ named t ∧ t.dev.strm = s.dev.strm ∧ t.dev.reports.length = s.dev.reports.length + 1) ∧
    (owns → ∃ t, exec (.dbgHalt p stream) s = .next t ∧ named t ∧ t.dev.ctr = s.dev.ctr ∧
      halt t st = if h = 0 ∨ h = 4 then (if lockHeld s.dev st then 1 else 2) else h) ∧
    (owns → ∃ t, exec (.dbgResume p stream) s = .next t ∧ named t ∧ t.dev.ctr = s.dev.ctr ∧ halt t st = 0) ∧
    (owns → h ≠ 2 → h ≠ 3 → ∃ t, exec (.dbgStep p stream) s = .next t ∧ named t ∧ t.dev.strm = s.dev.strm) ∧
    (owns → h = 2 ∨ h = 3 → nextDesc s.dev st = none → ∃ t, exec (.dbgStep p stream) s = .next t ∧ named t ∧ halt t st = 4) ∧
    (∀ x site u, owns → h = 2 ∨ h = 3 → nextDesc s.dev st = some x → strmSite s.dev st = some site → pickUnit s.dev site x.bytes = some u →
      strmState s.dev st = 1 → (getStrm s.dev st).stopping = false → hWaitEn x.bytes = false → hBarrier x.bytes = false →
      hEngine x.bytes < 8 → s.dev.pow.dutyHold.contains site = false → devHalted s.dev = false →
      ∃ t, exec (.dbgStep p stream) s = .next t ∧ t.mem = s.mem ∧ t.dev.ctr = s.dev.ctr ∧ halt t st = (if lockHeld s.dev st then 1 else 2) ∧
        ∃ y, t.dev.handoff = s.dev.handoff ++ [y] ∧ y.site = site ∧ y.unit = u ∧ y.job.stream = stream ∧ y.job.bytes = x.bytes) ∧
    (owns → h ≠ 1 → ∃ t, exec (.dbgForce p stream) s = .next t ∧ named t ∧ t.dev.strm = s.dev.strm ∧ t.dev.ctr = s.dev.ctr) ∧
    (owns → h = 1 → ∃ t, exec (.dbgForce p stream) s = .next t ∧ named t ∧ halt t st = 3 ∧ broken t) ∧
    (h ≠ 1 → exec (.deferExpiry stream) s = .next (idle s)) ∧
    (h = 1 → ¬ locked → ∃ t, exec (.deferExpiry stream) s = .next t ∧ t.mem = s.mem ∧ t.dev.regs = s.dev.regs ∧ halt t st = 2 ∧
      t.dev.ctr = s.dev.ctr) ∧
    (h = 1 → locked → ∃ t, exec (.deferExpiry stream) s = .next t ∧ t.mem = s.mem ∧ t.dev.regs = s.dev.regs ∧ halt t st = 3 ∧ broken t)) ∧
  (∀ s : State, let asked := s.dev.dbg.haltAsked
    let at_ := s.dev.dbg.haltAt
    let en := fbit s.dev Reg.DBG_CFG [] Fld.DBG_CFG_mc_halt_en = true
    let halts (t : State) (forced : Nat) : Prop := t.mem = s.mem ∧ keepsRegs s.dev t.dev [Reg.DBG_MC_HALT.key []] ∧
      mc t Fld.DBG_MC_HALT_halted = 1 ∧ mc t Fld.DBG_MC_HALT_deferred = 0 ∧ pairHalted t.dev = true ∧ t.dev.dbg.haltAsked = none ∧
      mc t Fld.DBG_MC_HALT_halts = min (mc s Fld.DBG_MC_HALT_halts + 1) 255 ∧
      mc t Fld.DBG_MC_HALT_forced = min (mc s Fld.DBG_MC_HALT_forced + forced) 255
    let resumes (c : Instr) : Prop := (at_ = none → exec c s = .next (idle s)) ∧
      ∀ b, at_ = some b → ∃ t, exec c s = .next t ∧ t.mem = s.mem ∧ mc t Fld.DBG_MC_HALT_halted = 0 ∧ pairHalted t.dev = false ∧
        t.dev.flt.kickAt = s.dev.flt.kickAt + (s.dev.tb - b)
    (∀ m, at_ ≠ none ∨ asked ≠ none ∨ ¬ en → exec (.mcHalt (.request m)) s = .next (idle s)) ∧
    (at_ = none → asked = none → en → (∃ t, exec (.mcHalt (.request true)) s = .next t ∧ t.mem = s.mem ∧
      t.dev.dbg.haltAsked = some s.dev.tb ∧ mc t Fld.DBG_MC_HALT_deferred = 1 ∧ pairHalted t.dev = false) ∧
      ∃ t, exec (.mcHalt (.request false)) s = .next t ∧ halts t 0) ∧
    (at_ = none → asked ≠ none → (∃ t, exec (.mcHalt .sequenceEnds) s = .next t ∧ halts t 0) ∧
      ∃ t, exec (.mcHalt .deferralEnds) s = .next t ∧ halts t 1) ∧
    resumes (.mcHalt .resume) ∧ resumes .mcHaltExpiry ∧
    (∃ t, exec .jtagTapReset s = .next t ∧ t = { idle s with dev := { s.dev with dbg := { s.dev.dbg with ir := 2 } }.rest }) ∧
    ∀ code : BitVec 8, ∃ t, exec (.jtagInstruction code) s = .next t ∧ t.mem = s.mem ∧ t.dev.regs = s.dev.regs ∧
      (code.toNat ∈ [0x01, 0x02, 0x20, 0x21] → t.dev.dbg.ir = code.toNat) ∧
      (code.toNat ∈ [0x00, 0x03, 0x04, 0x08, 0x09] → t.dev.dbg.ir = if s.dev.fw.resetLow then code.toNat else 0xFF) ∧
      (code.toNat ∉ [0x00, 0x01, 0x02, 0x03, 0x04, 0x08, 0x09, 0x20, 0x21] → t.dev.dbg.ir = 0xFF)) ∧
  (∀ (s : State) (p : Path) (u : TestUnit) (data : Word) (lane : Fin 68) (b : Bool),
    let reg (t : State) (i : Nat) := rdReg t.dev (tstDesc u i) (tstIx u)
    let stat (t : State) (f : Fld) := f.get (reg t 1)
    let tx := Fld.HUB_TST_CTL_tx_en.get data == 1
    let rx := Fld.HUB_TST_CTL_rx_en.get data == 1
    let starts := (tx || rx) = true
    let fits := tstAllowed s.dev u tx rx = true
    let may := portHalted s.dev p = false ∧ tstWrites s.dev p u = true
    let runs := testing s.dev u Fld.HUB_TST_CTL_tx_en = true ∨ testing s.dev u Fld.HUB_TST_CTL_rx_en = true
    let still := tstAllowed s.dev u (testing s.dev u Fld.HUB_TST_CTL_tx_en) (testing s.dev u Fld.HUB_TST_CTL_rx_en) = true
    let check := testing s.dev u Fld.HUB_TST_CTL_rx_en = true ∧ tbit (tstMask s.dev u) lane.val = true
    let bitsOf (t : State) := pair64 (reg t 5) (reg t 8)
    let c := Sparse.get {} s.dev.dbg.checkers (checkerKey u lane.val)
    let r := checkBit (Fld.HUB_TST_CTL_pattern.get (reg s 0)) c (xor b (Fld.HUB_TST_CTL_invert.get (reg s 0) == 1))
    (portHalted s.dev p = false → tstWrites s.dev p u = false → ∃ t, exec (.tstCtlStart p u data) s = .next t ∧ event s t) ∧
    (may → starts → ¬ fits → ∃ t, exec (.tstCtlStart p u data) s = .next t ∧ event s t) ∧
    (may → ¬ starts ∨ fits → ∃ t, exec (.tstCtlStart p u data) s = .next t ∧ t.mem = s.mem ∧ t.dev.reports = s.dev.reports ∧
      reg t 0 = (tstDesc u 0).afterWrite false (reg s 0) data ∧ stat t Fld.HUB_TST_STAT_running = bit (tx || rx) ∧
      (rx = true → reg t 4 = 0 ∧ bitsOf t = 0 ∧ stat t Fld.HUB_TST_STAT_locked = 0 ∧
        ∀ l, l < 128 → Sparse.get {} t.dev.dbg.checkers (checkerKey u l) = {})) ∧
    (¬ (runs ∧ ¬ still) → exec (.testAbort u) s = .next (idle s)) ∧
    (runs → ¬ still → ∃ t, exec (.testAbort u) s = .next t ∧ t.mem = s.mem ∧ stat t Fld.HUB_TST_STAT_abort = 1 ∧
      stat t Fld.HUB_TST_STAT_running = 0 ∧ testing t.dev u Fld.HUB_TST_CTL_tx_en = false ∧ testing t.dev u Fld.HUB_TST_CTL_rx_en = false) ∧
    (¬ check → exec (.checkerLock u lane [b]) s = .next (idle s)) ∧
    (check → ∃ t, exec (.checkerLock u lane [b]) s = .next t ∧ t.mem = s.mem ∧
      Sparse.get {} t.dev.dbg.checkers (checkerKey u lane.val) = r.1 ∧
      (Fld.HUB_TST_CTL_lane_sel.get (reg s 0) = lane.val → stat t Fld.HUB_TST_STAT_locked = bit r.1.locked ∧
        bitsOf t = (bitsOf s + bit r.2.1) % 2 ^ 64 ∧ (reg t 4).toNat = min ((reg s 4).toNat + bit (r.2.1 && r.2.2.1)) (2 ^ 32 - 1)) ∧
      (Fld.HUB_TST_CTL_lane_sel.get (reg s 0) ≠ lane.val → bitsOf t = bitsOf s ∧ reg t 4 = reg s 4 ∧ reg t 1 = reg s 1))) ∧
  (∀ k, k < 4 → let n := (patternTaps k).1
    ((patternBits k (n + 64) (List.replicate n true)).foldl (fun c b => (checkBit k c b).1) {}).locked = true)
end

