-- ==== Sys2Proof/Laws/State.lean ====
section
/-!
SUPPORT. What each shared update leaves alone: one lemma for each update and field, true by unfolding.
-/
namespace Sys2Proof.Machine

@[simp] theorem regEvent_regs (d : Dev) (p : Path) (a : Nat) : (regEvent d p a).regs = d.regs := rfl
@[simp] theorem regEvent_poison (d : Dev) (p : Path) (a : Nat) : (regEvent d p a).poison = d.poison := rfl
@[simp] theorem regEvent_out (d : Dev) (p : Path) (a : Nat) : (regEvent d p a).out = d.out := rfl
@[simp] theorem regEvent_freeCtr (d : Dev) (p : Path) (a : Nat) : (regEvent d p a).freeCtr = d.freeCtr := rfl
@[simp] theorem regEvent_wq (d : Dev) (p : Path) (a : Nat) : (regEvent d p a).wq = d.wq := rfl
@[simp] theorem regEvent_extIn (d : Dev) (p : Path) (a : Nat) : (regEvent d p a).extIn = d.extIn := rfl
@[simp] theorem regEvent_coppice (d : Dev) (p : Path) (a : Nat) : (regEvent d p a).coppice = d.coppice := rfl
@[simp] theorem regEvent_mxe (d : Dev) (p : Path) (a : Nat) : (regEvent d p a).mxe = d.mxe := rfl
@[simp] theorem regEvent_eng (d : Dev) (p : Path) (a : Nat) : (regEvent d p a).eng = d.eng := rfl
@[simp] theorem regEvent_engDone (d : Dev) (p : Path) (a : Nat) : (regEvent d p a).engDone = d.engDone := rfl
@[simp] theorem regEvent_cmem (d : Dev) (p : Path) (a : Nat) : (regEvent d p a).cmem = d.cmem := rfl
@[simp] theorem regEvent_ctr (d : Dev) (p : Path) (a : Nat) : (regEvent d p a).ctr = d.ctr := rfl
@[simp] theorem regEvent_strm (d : Dev) (p : Path) (a : Nat) : (regEvent d p a).strm = d.strm := rfl
@[simp] theorem regEvent_turn (d : Dev) (p : Path) (a : Nat) : (regEvent d p a).turn = d.turn := rfl
@[simp] theorem regEvent_handoff (d : Dev) (p : Path) (a : Nat) : (regEvent d p a).handoff = d.handoff := rfl
@[simp] theorem regEvent_coh (d : Dev) (p : Path) (a : Nat) : (regEvent d p a).coh = d.coh := rfl
@[simp] theorem regEvent_fei (d : Dev) (p : Path) (a : Nat) : (regEvent d p a).fei = d.fei := rfl
@[simp] theorem regEvent_guest (d : Dev) (p : Path) (a : Nat) : (regEvent d p a).guest = d.guest := rfl
@[simp] theorem regEvent_mapAcks (d : Dev) (p : Path) (a : Nat) : (regEvent d p a).mapAcks = d.mapAcks := rfl
@[simp] theorem regEvent_le (d : Dev) (p : Path) (a : Nat) : (regEvent d p a).le = d.le := rfl
@[simp] theorem regEvent_lq (d : Dev) (p : Path) (a : Nat) : (regEvent d p a).lq = d.lq := rfl
@[simp] theorem regEvent_fab (d : Dev) (p : Path) (a : Nat) : (regEvent d p a).fab = d.fab := rfl
@[simp] theorem regEvent_msix (d : Dev) (p : Path) (a : Nat) : (regEvent d p a).msix = d.msix := rfl
@[simp] theorem regEvent_hdm (d : Dev) (p : Path) (a : Nat) : (regEvent d p a).hdm = d.hdm := rfl
@[simp] theorem regEvent_i3cAddr (d : Dev) (p : Path) (a : Nat) : (regEvent d p a).i3cAddr = d.i3cAddr := rfl
@[simp] theorem regEvent_tb (d : Dev) (p : Path) (a : Nat) : (regEvent d p a).tb = d.tb := rfl
@[simp] theorem regEvent_pow (d : Dev) (p : Path) (a : Nat) : (regEvent d p a).pow = d.pow := rfl
@[simp] theorem regEvent_fw (d : Dev) (p : Path) (a : Nat) : (regEvent d p a).fw = d.fw := rfl
@[simp] theorem regEvent_flt (d : Dev) (p : Path) (a : Nat) : (regEvent d p a).flt = d.flt := rfl
@[simp] theorem regEvent_store (d : Dev) (p : Path) (a : Nat) : (regEvent d p a).store = d.store := rfl
@[simp] theorem regEvent_dbg (d : Dev) (p : Path) (a : Nat) : (regEvent d p a).dbg = d.dbg := rfl

@[simp] theorem wrReg_poison (d : Dev) (r : RegDesc) (ix : List Nat) (w : Word) : (wrReg d r ix w).poison = d.poison := rfl
@[simp] theorem wrReg_reports (d : Dev) (r : RegDesc) (ix : List Nat) (w : Word) : (wrReg d r ix w).reports = d.reports := rfl
@[simp] theorem wrReg_out (d : Dev) (r : RegDesc) (ix : List Nat) (w : Word) : (wrReg d r ix w).out = d.out := rfl
@[simp] theorem wrReg_freeCtr (d : Dev) (r : RegDesc) (ix : List Nat) (w : Word) : (wrReg d r ix w).freeCtr = d.freeCtr := rfl
@[simp] theorem wrReg_wq (d : Dev) (r : RegDesc) (ix : List Nat) (w : Word) : (wrReg d r ix w).wq = d.wq := rfl
@[simp] theorem wrReg_extIn (d : Dev) (r : RegDesc) (ix : List Nat) (w : Word) : (wrReg d r ix w).extIn = d.extIn := rfl
@[simp] theorem wrReg_coppice (d : Dev) (r : RegDesc) (ix : List Nat) (w : Word) : (wrReg d r ix w).coppice = d.coppice := rfl
@[simp] theorem wrReg_mxe (d : Dev) (r : RegDesc) (ix : List Nat) (w : Word) : (wrReg d r ix w).mxe = d.mxe := rfl
@[simp] theorem wrReg_eng (d : Dev) (r : RegDesc) (ix : List Nat) (w : Word) : (wrReg d r ix w).eng = d.eng := rfl
@[simp] theorem wrReg_engDone (d : Dev) (r : RegDesc) (ix : List Nat) (w : Word) : (wrReg d r ix w).engDone = d.engDone := rfl
@[simp] theorem wrReg_cmem (d : Dev) (r : RegDesc) (ix : List Nat) (w : Word) : (wrReg d r ix w).cmem = d.cmem := rfl
@[simp] theorem wrReg_ctr (d : Dev) (r : RegDesc) (ix : List Nat) (w : Word) : (wrReg d r ix w).ctr = d.ctr := rfl
@[simp] theorem wrReg_strm (d : Dev) (r : RegDesc) (ix : List Nat) (w : Word) : (wrReg d r ix w).strm = d.strm := rfl
@[simp] theorem wrReg_turn (d : Dev) (r : RegDesc) (ix : List Nat) (w : Word) : (wrReg d r ix w).turn = d.turn := rfl
@[simp] theorem wrReg_handoff (d : Dev) (r : RegDesc) (ix : List Nat) (w : Word) : (wrReg d r ix w).handoff = d.handoff := rfl
@[simp] theorem wrReg_coh (d : Dev) (r : RegDesc) (ix : List Nat) (w : Word) : (wrReg d r ix w).coh = d.coh := rfl
@[simp] theorem wrReg_fei (d : Dev) (r : RegDesc) (ix : List Nat) (w : Word) : (wrReg d r ix w).fei = d.fei := rfl
@[simp] theorem wrReg_guest (d : Dev) (r : RegDesc) (ix : List Nat) (w : Word) : (wrReg d r ix w).guest = d.guest := rfl
@[simp] theorem wrReg_mapAcks (d : Dev) (r : RegDesc) (ix : List Nat) (w : Word) : (wrReg d r ix w).mapAcks = d.mapAcks := rfl
@[simp] theorem wrReg_le (d : Dev) (r : RegDesc) (ix : List Nat) (w : Word) : (wrReg d r ix w).le = d.le := rfl
@[simp] theorem wrReg_lq (d : Dev) (r : RegDesc) (ix : List Nat) (w : Word) : (wrReg d r ix w).lq = d.lq := rfl
@[simp] theorem wrReg_fab (d : Dev) (r : RegDesc) (ix : List Nat) (w : Word) : (wrReg d r ix w).fab = d.fab := rfl
@[simp] theorem wrReg_msix (d : Dev) (r : RegDesc) (ix : List Nat) (w : Word) : (wrReg d r ix w).msix = d.msix := rfl
@[simp] theorem wrReg_hdm (d : Dev) (r : RegDesc) (ix : List Nat) (w : Word) : (wrReg d r ix w).hdm = d.hdm := rfl
@[simp] theorem wrReg_i3cAddr (d : Dev) (r : RegDesc) (ix : List Nat) (w : Word) : (wrReg d r ix w).i3cAddr = d.i3cAddr := rfl
@[simp] theorem wrReg_tb (d : Dev) (r : RegDesc) (ix : List Nat) (w : Word) : (wrReg d r ix w).tb = d.tb := rfl
@[simp] theorem wrReg_pow (d : Dev) (r : RegDesc) (ix : List Nat) (w : Word) : (wrReg d r ix w).pow = d.pow := rfl
@[simp] theorem wrReg_fw (d : Dev) (r : RegDesc) (ix : List Nat) (w : Word) : (wrReg d r ix w).fw = d.fw := rfl
@[simp] theorem wrReg_flt (d : Dev) (r : RegDesc) (ix : List Nat) (w : Word) : (wrReg d r ix w).flt = d.flt := rfl
@[simp] theorem wrReg_store (d : Dev) (r : RegDesc) (ix : List Nat) (w : Word) : (wrReg d r ix w).store = d.store := rfl
@[simp] theorem wrReg_dbg (d : Dev) (r : RegDesc) (ix : List Nat) (w : Word) : (wrReg d r ix w).dbg = d.dbg := rfl

@[simp] theorem fset_poison (d : Dev) (r : RegDesc) (ix : List Nat) (f : Fld) (v : Nat) : (fset d r ix f v).poison = d.poison := rfl
@[simp] theorem fset_reports (d : Dev) (r : RegDesc) (ix : List Nat) (f : Fld) (v : Nat) : (fset d r ix f v).reports = d.reports := rfl
@[simp] theorem fset_out (d : Dev) (r : RegDesc) (ix : List Nat) (f : Fld) (v : Nat) : (fset d r ix f v).out = d.out := rfl
@[simp] theorem fset_freeCtr (d : Dev) (r : RegDesc) (ix : List Nat) (f : Fld) (v : Nat) : (fset d r ix f v).freeCtr = d.freeCtr := rfl
@[simp] theorem fset_wq (d : Dev) (r : RegDesc) (ix : List Nat) (f : Fld) (v : Nat) : (fset d r ix f v).wq = d.wq := rfl
@[simp] theorem fset_extIn (d : Dev) (r : RegDesc) (ix : List Nat) (f : Fld) (v : Nat) : (fset d r ix f v).extIn = d.extIn := rfl
@[simp] theorem fset_coppice (d : Dev) (r : RegDesc) (ix : List Nat) (f : Fld) (v : Nat) : (fset d r ix f v).coppice = d.coppice := rfl
@[simp] theorem fset_mxe (d : Dev) (r : RegDesc) (ix : List Nat) (f : Fld) (v : Nat) : (fset d r ix f v).mxe = d.mxe := rfl
@[simp] theorem fset_eng (d : Dev) (r : RegDesc) (ix : List Nat) (f : Fld) (v : Nat) : (fset d r ix f v).eng = d.eng := rfl
@[simp] theorem fset_engDone (d : Dev) (r : RegDesc) (ix : List Nat) (f : Fld) (v : Nat) : (fset d r ix f v).engDone = d.engDone := rfl
@[simp] theorem fset_cmem (d : Dev) (r : RegDesc) (ix : List Nat) (f : Fld) (v : Nat) : (fset d r ix f v).cmem = d.cmem := rfl
@[simp] theorem fset_ctr (d : Dev) (r : RegDesc) (ix : List Nat) (f : Fld) (v : Nat) : (fset d r ix f v).ctr = d.ctr := rfl
@[simp] theorem fset_strm (d : Dev) (r : RegDesc) (ix : List Nat) (f : Fld) (v : Nat) : (fset d r ix f v).strm = d.strm := rfl
@[simp] theorem fset_turn (d : Dev) (r : RegDesc) (ix : List Nat) (f : Fld) (v : Nat) : (fset d r ix f v).turn = d.turn := rfl
@[simp] theorem fset_handoff (d : Dev) (r : RegDesc) (ix : List Nat) (f : Fld) (v : Nat) : (fset d r ix f v).handoff = d.handoff := rfl
@[simp] theorem fset_coh (d : Dev) (r : RegDesc) (ix : List Nat) (f : Fld) (v : Nat) : (fset d r ix f v).coh = d.coh := rfl
@[simp] theorem fset_fei (d : Dev) (r : RegDesc) (ix : List Nat) (f : Fld) (v : Nat) : (fset d r ix f v).fei = d.fei := rfl
@[simp] theorem fset_guest (d : Dev) (r : RegDesc) (ix : List Nat) (f : Fld) (v : Nat) : (fset d r ix f v).guest = d.guest := rfl
@[simp] theorem fset_mapAcks (d : Dev) (r : RegDesc) (ix : List Nat) (f : Fld) (v : Nat) : (fset d r ix f v).mapAcks = d.mapAcks := rfl
@[simp] theorem fset_le (d : Dev) (r : RegDesc) (ix : List Nat) (f : Fld) (v : Nat) : (fset d r ix f v).le = d.le := rfl
@[simp] theorem fset_lq (d : Dev) (r : RegDesc) (ix : List Nat) (f : Fld) (v : Nat) : (fset d r ix f v).lq = d.lq := rfl
@[simp] theorem fset_fab (d : Dev) (r : RegDesc) (ix : List Nat) (f : Fld) (v : Nat) : (fset d r ix f v).fab = d.fab := rfl
@[simp] theorem fset_msix (d : Dev) (r : RegDesc) (ix : List Nat) (f : Fld) (v : Nat) : (fset d r ix f v).msix = d.msix := rfl
@[simp] theorem fset_hdm (d : Dev) (r : RegDesc) (ix : List Nat) (f : Fld) (v : Nat) : (fset d r ix f v).hdm = d.hdm := rfl
@[simp] theorem fset_i3cAddr (d : Dev) (r : RegDesc) (ix : List Nat) (f : Fld) (v : Nat) : (fset d r ix f v).i3cAddr = d.i3cAddr := rfl
@[simp] theorem fset_tb (d : Dev) (r : RegDesc) (ix : List Nat) (f : Fld) (v : Nat) : (fset d r ix f v).tb = d.tb := rfl
@[simp] theorem fset_pow (d : Dev) (r : RegDesc) (ix : List Nat) (f : Fld) (v : Nat) : (fset d r ix f v).pow = d.pow := rfl
@[simp] theorem fset_fw (d : Dev) (r : RegDesc) (ix : List Nat) (f : Fld) (v : Nat) : (fset d r ix f v).fw = d.fw := rfl
@[simp] theorem fset_flt (d : Dev) (r : RegDesc) (ix : List Nat) (f : Fld) (v : Nat) : (fset d r ix f v).flt = d.flt := rfl
@[simp] theorem fset_store (d : Dev) (r : RegDesc) (ix : List Nat) (f : Fld) (v : Nat) : (fset d r ix f v).store = d.store := rfl
@[simp] theorem fset_dbg (d : Dev) (r : RegDesc) (ix : List Nat) (f : Fld) (v : Nat) : (fset d r ix f v).dbg = d.dbg := rfl

@[simp] theorem fincSat_poison (d : Dev) (r : RegDesc) (ix : List Nat) (f : Fld) (n : Nat) : (fincSat d r ix f n).poison = d.poison := rfl
@[simp] theorem fincSat_reports (d : Dev) (r : RegDesc) (ix : List Nat) (f : Fld) (n : Nat) : (fincSat d r ix f n).reports = d.reports := rfl
@[simp] theorem fincSat_out (d : Dev) (r : RegDesc) (ix : List Nat) (f : Fld) (n : Nat) : (fincSat d r ix f n).out = d.out := rfl
@[simp] theorem fincSat_freeCtr (d : Dev) (r : RegDesc) (ix : List Nat) (f : Fld) (n : Nat) : (fincSat d r ix f n).freeCtr = d.freeCtr := rfl
@[simp] theorem fincSat_wq (d : Dev) (r : RegDesc) (ix : List Nat) (f : Fld) (n : Nat) : (fincSat d r ix f n).wq = d.wq := rfl
@[simp] theorem fincSat_extIn (d : Dev) (r : RegDesc) (ix : List Nat) (f : Fld) (n : Nat) : (fincSat d r ix f n).extIn = d.extIn := rfl
@[simp] theorem fincSat_coppice (d : Dev) (r : RegDesc) (ix : List Nat) (f : Fld) (n : Nat) : (fincSat d r ix f n).coppice = d.coppice := rfl
@[simp] theorem fincSat_mxe (d : Dev) (r : RegDesc) (ix : List Nat) (f : Fld) (n : Nat) : (fincSat d r ix f n).mxe = d.mxe := rfl
@[simp] theorem fincSat_eng (d : Dev) (r : RegDesc) (ix : List Nat) (f : Fld) (n : Nat) : (fincSat d r ix f n).eng = d.eng := rfl
@[simp] theorem fincSat_engDone (d : Dev) (r : RegDesc) (ix : List Nat) (f : Fld) (n : Nat) : (fincSat d r ix f n).engDone = d.engDone := rfl
@[simp] theorem fincSat_cmem (d : Dev) (r : RegDesc) (ix : List Nat) (f : Fld) (n : Nat) : (fincSat d r ix f n).cmem = d.cmem := rfl
@[simp] theorem fincSat_ctr (d : Dev) (r : RegDesc) (ix : List Nat) (f : Fld) (n : Nat) : (fincSat d r ix f n).ctr = d.ctr := rfl
@[simp] theorem fincSat_strm (d : Dev) (r : RegDesc) (ix : List Nat) (f : Fld) (n : Nat) : (fincSat d r ix f n).strm = d.strm := rfl
@[simp] theorem fincSat_turn (d : Dev) (r : RegDesc) (ix : List Nat) (f : Fld) (n : Nat) : (fincSat d r ix f n).turn = d.turn := rfl
@[simp] theorem fincSat_handoff (d : Dev) (r : RegDesc) (ix : List Nat) (f : Fld) (n : Nat) : (fincSat d r ix f n).handoff = d.handoff := rfl
@[simp] theorem fincSat_coh (d : Dev) (r : RegDesc) (ix : List Nat) (f : Fld) (n : Nat) : (fincSat d r ix f n).coh = d.coh := rfl
@[simp] theorem fincSat_fei (d : Dev) (r : RegDesc) (ix : List Nat) (f : Fld) (n : Nat) : (fincSat d r ix f n).fei = d.fei := rfl
@[simp] theorem fincSat_guest (d : Dev) (r : RegDesc) (ix : List Nat) (f : Fld) (n : Nat) : (fincSat d r ix f n).guest = d.guest := rfl
@[simp] theorem fincSat_mapAcks (d : Dev) (r : RegDesc) (ix : List Nat) (f : Fld) (n : Nat) : (fincSat d r ix f n).mapAcks = d.mapAcks := rfl
@[simp] theorem fincSat_le (d : Dev) (r : RegDesc) (ix : List Nat) (f : Fld) (n : Nat) : (fincSat d r ix f n).le = d.le := rfl
@[simp] theorem fincSat_lq (d : Dev) (r : RegDesc) (ix : List Nat) (f : Fld) (n : Nat) : (fincSat d r ix f n).lq = d.lq := rfl
@[simp] theorem fincSat_fab (d : Dev) (r : RegDesc) (ix : List Nat) (f : Fld) (n : Nat) : (fincSat d r ix f n).fab = d.fab := rfl
@[simp] theorem fincSat_msix (d : Dev) (r : RegDesc) (ix : List Nat) (f : Fld) (n : Nat) : (fincSat d r ix f n).msix = d.msix := rfl
@[simp] theorem fincSat_hdm (d : Dev) (r : RegDesc) (ix : List Nat) (f : Fld) (n : Nat) : (fincSat d r ix f n).hdm = d.hdm := rfl
@[simp] theorem fincSat_i3cAddr (d : Dev) (r : RegDesc) (ix : List Nat) (f : Fld) (n : Nat) : (fincSat d r ix f n).i3cAddr = d.i3cAddr := rfl
@[simp] theorem fincSat_tb (d : Dev) (r : RegDesc) (ix : List Nat) (f : Fld) (n : Nat) : (fincSat d r ix f n).tb = d.tb := rfl
@[simp] theorem fincSat_pow (d : Dev) (r : RegDesc) (ix : List Nat) (f : Fld) (n : Nat) : (fincSat d r ix f n).pow = d.pow := rfl
@[simp] theorem fincSat_fw (d : Dev) (r : RegDesc) (ix : List Nat) (f : Fld) (n : Nat) : (fincSat d r ix f n).fw = d.fw := rfl
@[simp] theorem fincSat_flt (d : Dev) (r : RegDesc) (ix : List Nat) (f : Fld) (n : Nat) : (fincSat d r ix f n).flt = d.flt := rfl
@[simp] theorem fincSat_store (d : Dev) (r : RegDesc) (ix : List Nat) (f : Fld) (n : Nat) : (fincSat d r ix f n).store = d.store := rfl
@[simp] theorem fincSat_dbg (d : Dev) (r : RegDesc) (ix : List Nat) (f : Fld) (n : Nat) : (fincSat d r ix f n).dbg = d.dbg := rfl

@[simp] theorem fincWrap_poison (d : Dev) (r : RegDesc) (ix : List Nat) (f : Fld) (n : Nat) : (fincWrap d r ix f n).poison = d.poison := rfl
@[simp] theorem fincWrap_reports (d : Dev) (r : RegDesc) (ix : List Nat) (f : Fld) (n : Nat) : (fincWrap d r ix f n).reports = d.reports := rfl
@[simp] theorem fincWrap_out (d : Dev) (r : RegDesc) (ix : List Nat) (f : Fld) (n : Nat) : (fincWrap d r ix f n).out = d.out := rfl
@[simp] theorem fincWrap_freeCtr (d : Dev) (r : RegDesc) (ix : List Nat) (f : Fld) (n : Nat) : (fincWrap d r ix f n).freeCtr = d.freeCtr := rfl
@[simp] theorem fincWrap_wq (d : Dev) (r : RegDesc) (ix : List Nat) (f : Fld) (n : Nat) : (fincWrap d r ix f n).wq = d.wq := rfl
@[simp] theorem fincWrap_extIn (d : Dev) (r : RegDesc) (ix : List Nat) (f : Fld) (n : Nat) : (fincWrap d r ix f n).extIn = d.extIn := rfl
@[simp] theorem fincWrap_coppice (d : Dev) (r : RegDesc) (ix : List Nat) (f : Fld) (n : Nat) : (fincWrap d r ix f n).coppice = d.coppice := rfl
@[simp] theorem fincWrap_mxe (d : Dev) (r : RegDesc) (ix : List Nat) (f : Fld) (n : Nat) : (fincWrap d r ix f n).mxe = d.mxe := rfl
@[simp] theorem fincWrap_eng (d : Dev) (r : RegDesc) (ix : List Nat) (f : Fld) (n : Nat) : (fincWrap d r ix f n).eng = d.eng := rfl
@[simp] theorem fincWrap_engDone (d : Dev) (r : RegDesc) (ix : List Nat) (f : Fld) (n : Nat) : (fincWrap d r ix f n).engDone = d.engDone := rfl
@[simp] theorem fincWrap_cmem (d : Dev) (r : RegDesc) (ix : List Nat) (f : Fld) (n : Nat) : (fincWrap d r ix f n).cmem = d.cmem := rfl
@[simp] theorem fincWrap_ctr (d : Dev) (r : RegDesc) (ix : List Nat) (f : Fld) (n : Nat) : (fincWrap d r ix f n).ctr = d.ctr := rfl
@[simp] theorem fincWrap_strm (d : Dev) (r : RegDesc) (ix : List Nat) (f : Fld) (n : Nat) : (fincWrap d r ix f n).strm = d.strm := rfl
@[simp] theorem fincWrap_turn (d : Dev) (r : RegDesc) (ix : List Nat) (f : Fld) (n : Nat) : (fincWrap d r ix f n).turn = d.turn := rfl
@[simp] theorem fincWrap_handoff (d : Dev) (r : RegDesc) (ix : List Nat) (f : Fld) (n : Nat) : (fincWrap d r ix f n).handoff = d.handoff := rfl
@[simp] theorem fincWrap_coh (d : Dev) (r : RegDesc) (ix : List Nat) (f : Fld) (n : Nat) : (fincWrap d r ix f n).coh = d.coh := rfl
@[simp] theorem fincWrap_fei (d : Dev) (r : RegDesc) (ix : List Nat) (f : Fld) (n : Nat) : (fincWrap d r ix f n).fei = d.fei := rfl
@[simp] theorem fincWrap_guest (d : Dev) (r : RegDesc) (ix : List Nat) (f : Fld) (n : Nat) : (fincWrap d r ix f n).guest = d.guest := rfl
@[simp] theorem fincWrap_mapAcks (d : Dev) (r : RegDesc) (ix : List Nat) (f : Fld) (n : Nat) : (fincWrap d r ix f n).mapAcks = d.mapAcks := rfl
@[simp] theorem fincWrap_le (d : Dev) (r : RegDesc) (ix : List Nat) (f : Fld) (n : Nat) : (fincWrap d r ix f n).le = d.le := rfl
@[simp] theorem fincWrap_lq (d : Dev) (r : RegDesc) (ix : List Nat) (f : Fld) (n : Nat) : (fincWrap d r ix f n).lq = d.lq := rfl
@[simp] theorem fincWrap_fab (d : Dev) (r : RegDesc) (ix : List Nat) (f : Fld) (n : Nat) : (fincWrap d r ix f n).fab = d.fab := rfl
@[simp] theorem fincWrap_msix (d : Dev) (r : RegDesc) (ix : List Nat) (f : Fld) (n : Nat) : (fincWrap d r ix f n).msix = d.msix := rfl
@[simp] theorem fincWrap_hdm (d : Dev) (r : RegDesc) (ix : List Nat) (f : Fld) (n : Nat) : (fincWrap d r ix f n).hdm = d.hdm := rfl
@[simp] theorem fincWrap_i3cAddr (d : Dev) (r : RegDesc) (ix : List Nat) (f : Fld) (n : Nat) : (fincWrap d r ix f n).i3cAddr = d.i3cAddr := rfl
@[simp] theorem fincWrap_tb (d : Dev) (r : RegDesc) (ix : List Nat) (f : Fld) (n : Nat) : (fincWrap d r ix f n).tb = d.tb := rfl
@[simp] theorem fincWrap_pow (d : Dev) (r : RegDesc) (ix : List Nat) (f : Fld) (n : Nat) : (fincWrap d r ix f n).pow = d.pow := rfl
@[simp] theorem fincWrap_fw (d : Dev) (r : RegDesc) (ix : List Nat) (f : Fld) (n : Nat) : (fincWrap d r ix f n).fw = d.fw := rfl
@[simp] theorem fincWrap_flt (d : Dev) (r : RegDesc) (ix : List Nat) (f : Fld) (n : Nat) : (fincWrap d r ix f n).flt = d.flt := rfl
@[simp] theorem fincWrap_store (d : Dev) (r : RegDesc) (ix : List Nat) (f : Fld) (n : Nat) : (fincWrap d r ix f n).store = d.store := rfl
@[simp] theorem fincWrap_dbg (d : Dev) (r : RegDesc) (ix : List Nat) (f : Fld) (n : Nat) : (fincWrap d r ix f n).dbg = d.dbg := rfl

@[simp] theorem report_regs (d : Dev) (x : Report) : (report d x).regs = d.regs := rfl
@[simp] theorem report_poison (d : Dev) (x : Report) : (report d x).poison = d.poison := rfl
@[simp] theorem report_out (d : Dev) (x : Report) : (report d x).out = d.out := rfl
@[simp] theorem report_freeCtr (d : Dev) (x : Report) : (report d x).freeCtr = d.freeCtr := rfl
@[simp] theorem report_wq (d : Dev) (x : Report) : (report d x).wq = d.wq := rfl
@[simp] theorem report_extIn (d : Dev) (x : Report) : (report d x).extIn = d.extIn := rfl
@[simp] theorem report_coppice (d : Dev) (x : Report) : (report d x).coppice = d.coppice := rfl
@[simp] theorem report_mxe (d : Dev) (x : Report) : (report d x).mxe = d.mxe := rfl
@[simp] theorem report_eng (d : Dev) (x : Report) : (report d x).eng = d.eng := rfl
@[simp] theorem report_engDone (d : Dev) (x : Report) : (report d x).engDone = d.engDone := rfl
@[simp] theorem report_cmem (d : Dev) (x : Report) : (report d x).cmem = d.cmem := rfl
@[simp] theorem report_ctr (d : Dev) (x : Report) : (report d x).ctr = d.ctr := rfl
@[simp] theorem report_strm (d : Dev) (x : Report) : (report d x).strm = d.strm := rfl
@[simp] theorem report_turn (d : Dev) (x : Report) : (report d x).turn = d.turn := rfl
@[simp] theorem report_handoff (d : Dev) (x : Report) : (report d x).handoff = d.handoff := rfl
@[simp] theorem report_coh (d : Dev) (x : Report) : (report d x).coh = d.coh := rfl
@[simp] theorem report_fei (d : Dev) (x : Report) : (report d x).fei = d.fei := rfl
@[simp] theorem report_guest (d : Dev) (x : Report) : (report d x).guest = d.guest := rfl
@[simp] theorem report_mapAcks (d : Dev) (x : Report) : (report d x).mapAcks = d.mapAcks := rfl
@[simp] theorem report_le (d : Dev) (x : Report) : (report d x).le = d.le := rfl
@[simp] theorem report_lq (d : Dev) (x : Report) : (report d x).lq = d.lq := rfl
@[simp] theorem report_fab (d : Dev) (x : Report) : (report d x).fab = d.fab := rfl
@[simp] theorem report_msix (d : Dev) (x : Report) : (report d x).msix = d.msix := rfl
@[simp] theorem report_hdm (d : Dev) (x : Report) : (report d x).hdm = d.hdm := rfl
@[simp] theorem report_i3cAddr (d : Dev) (x : Report) : (report d x).i3cAddr = d.i3cAddr := rfl
@[simp] theorem report_tb (d : Dev) (x : Report) : (report d x).tb = d.tb := rfl
@[simp] theorem report_pow (d : Dev) (x : Report) : (report d x).pow = d.pow := rfl
@[simp] theorem report_fw (d : Dev) (x : Report) : (report d x).fw = d.fw := rfl
@[simp] theorem report_flt (d : Dev) (x : Report) : (report d x).flt = d.flt := rfl
@[simp] theorem report_store (d : Dev) (x : Report) : (report d x).store = d.store := rfl
@[simp] theorem report_dbg (d : Dev) (x : Report) : (report d x).dbg = d.dbg := rfl

@[simp] theorem emit_regs (d : Dev) (o : Out) : (emit d o).regs = d.regs := rfl
@[simp] theorem emit_poison (d : Dev) (o : Out) : (emit d o).poison = d.poison := rfl
@[simp] theorem emit_reports (d : Dev) (o : Out) : (emit d o).reports = d.reports := rfl
@[simp] theorem emit_freeCtr (d : Dev) (o : Out) : (emit d o).freeCtr = d.freeCtr := rfl
@[simp] theorem emit_wq (d : Dev) (o : Out) : (emit d o).wq = d.wq := rfl
@[simp] theorem emit_extIn (d : Dev) (o : Out) : (emit d o).extIn = d.extIn := rfl
@[simp] theorem emit_coppice (d : Dev) (o : Out) : (emit d o).coppice = d.coppice := rfl
@[simp] theorem emit_mxe (d : Dev) (o : Out) : (emit d o).mxe = d.mxe := rfl
@[simp] theorem emit_eng (d : Dev) (o : Out) : (emit d o).eng = d.eng := rfl
@[simp] theorem emit_engDone (d : Dev) (o : Out) : (emit d o).engDone = d.engDone := rfl
@[simp] theorem emit_cmem (d : Dev) (o : Out) : (emit d o).cmem = d.cmem := rfl
@[simp] theorem emit_ctr (d : Dev) (o : Out) : (emit d o).ctr = d.ctr := rfl
@[simp] theorem emit_strm (d : Dev) (o : Out) : (emit d o).strm = d.strm := rfl
@[simp] theorem emit_turn (d : Dev) (o : Out) : (emit d o).turn = d.turn := rfl
@[simp] theorem emit_handoff (d : Dev) (o : Out) : (emit d o).handoff = d.handoff := rfl
@[simp] theorem emit_coh (d : Dev) (o : Out) : (emit d o).coh = d.coh := rfl
@[simp] theorem emit_fei (d : Dev) (o : Out) : (emit d o).fei = d.fei := rfl
@[simp] theorem emit_guest (d : Dev) (o : Out) : (emit d o).guest = d.guest := rfl
@[simp] theorem emit_mapAcks (d : Dev) (o : Out) : (emit d o).mapAcks = d.mapAcks := rfl
@[simp] theorem emit_le (d : Dev) (o : Out) : (emit d o).le = d.le := rfl
@[simp] theorem emit_lq (d : Dev) (o : Out) : (emit d o).lq = d.lq := rfl
@[simp] theorem emit_fab (d : Dev) (o : Out) : (emit d o).fab = d.fab := rfl
@[simp] theorem emit_msix (d : Dev) (o : Out) : (emit d o).msix = d.msix := rfl
@[simp] theorem emit_hdm (d : Dev) (o : Out) : (emit d o).hdm = d.hdm := rfl
@[simp] theorem emit_i3cAddr (d : Dev) (o : Out) : (emit d o).i3cAddr = d.i3cAddr := rfl
@[simp] theorem emit_tb (d : Dev) (o : Out) : (emit d o).tb = d.tb := rfl
@[simp] theorem emit_pow (d : Dev) (o : Out) : (emit d o).pow = d.pow := rfl
@[simp] theorem emit_fw (d : Dev) (o : Out) : (emit d o).fw = d.fw := rfl
@[simp] theorem emit_flt (d : Dev) (o : Out) : (emit d o).flt = d.flt := rfl
@[simp] theorem emit_store (d : Dev) (o : Out) : (emit d o).store = d.store := rfl
@[simp] theorem emit_dbg (d : Dev) (o : Out) : (emit d o).dbg = d.dbg := rfl

@[simp] theorem wrByte_regs (d : Dev) (k : Nat) (b : Byte) : (wrByte d k b).regs = d.regs := rfl
@[simp] theorem wrByte_poison (d : Dev) (k : Nat) (b : Byte) : (wrByte d k b).poison = d.poison := rfl
@[simp] theorem wrByte_reports (d : Dev) (k : Nat) (b : Byte) : (wrByte d k b).reports = d.reports := rfl
@[simp] theorem wrByte_out (d : Dev) (k : Nat) (b : Byte) : (wrByte d k b).out = d.out := rfl
@[simp] theorem wrByte_freeCtr (d : Dev) (k : Nat) (b : Byte) : (wrByte d k b).freeCtr = d.freeCtr := rfl
@[simp] theorem wrByte_extIn (d : Dev) (k : Nat) (b : Byte) : (wrByte d k b).extIn = d.extIn := rfl
@[simp] theorem wrByte_coppice (d : Dev) (k : Nat) (b : Byte) : (wrByte d k b).coppice = d.coppice := rfl
@[simp] theorem wrByte_mxe (d : Dev) (k : Nat) (b : Byte) : (wrByte d k b).mxe = d.mxe := rfl
@[simp] theorem wrByte_eng (d : Dev) (k : Nat) (b : Byte) : (wrByte d k b).eng = d.eng := rfl
@[simp] theorem wrByte_engDone (d : Dev) (k : Nat) (b : Byte) : (wrByte d k b).engDone = d.engDone := rfl
@[simp] theorem wrByte_cmem (d : Dev) (k : Nat) (b : Byte) : (wrByte d k b).cmem = d.cmem := rfl
@[simp] theorem wrByte_ctr (d : Dev) (k : Nat) (b : Byte) : (wrByte d k b).ctr = d.ctr := rfl
@[simp] theorem wrByte_strm (d : Dev) (k : Nat) (b : Byte) : (wrByte d k b).strm = d.strm := rfl
@[simp] theorem wrByte_turn (d : Dev) (k : Nat) (b : Byte) : (wrByte d k b).turn = d.turn := rfl
@[simp] theorem wrByte_handoff (d : Dev) (k : Nat) (b : Byte) : (wrByte d k b).handoff = d.handoff := rfl
@[simp] theorem wrByte_coh (d : Dev) (k : Nat) (b : Byte) : (wrByte d k b).coh = d.coh := rfl
@[simp] theorem wrByte_fei (d : Dev) (k : Nat) (b : Byte) : (wrByte d k b).fei = d.fei := rfl
@[simp] theorem wrByte_guest (d : Dev) (k : Nat) (b : Byte) : (wrByte d k b).guest = d.guest := rfl
@[simp] theorem wrByte_mapAcks (d : Dev) (k : Nat) (b : Byte) : (wrByte d k b).mapAcks = d.mapAcks := rfl
@[simp] theorem wrByte_le (d : Dev) (k : Nat) (b : Byte) : (wrByte d k b).le = d.le := rfl
@[simp] theorem wrByte_lq (d : Dev) (k : Nat) (b : Byte) : (wrByte d k b).lq = d.lq := rfl
@[simp] theorem wrByte_fab (d : Dev) (k : Nat) (b : Byte) : (wrByte d k b).fab = d.fab := rfl
@[simp] theorem wrByte_msix (d : Dev) (k : Nat) (b : Byte) : (wrByte d k b).msix = d.msix := rfl
@[simp] theorem wrByte_hdm (d : Dev) (k : Nat) (b : Byte) : (wrByte d k b).hdm = d.hdm := rfl
@[simp] theorem wrByte_i3cAddr (d : Dev) (k : Nat) (b : Byte) : (wrByte d k b).i3cAddr = d.i3cAddr := rfl
@[simp] theorem wrByte_tb (d : Dev) (k : Nat) (b : Byte) : (wrByte d k b).tb = d.tb := rfl
@[simp] theorem wrByte_pow (d : Dev) (k : Nat) (b : Byte) : (wrByte d k b).pow = d.pow := rfl
@[simp] theorem wrByte_fw (d : Dev) (k : Nat) (b : Byte) : (wrByte d k b).fw = d.fw := rfl
@[simp] theorem wrByte_flt (d : Dev) (k : Nat) (b : Byte) : (wrByte d k b).flt = d.flt := rfl
@[simp] theorem wrByte_store (d : Dev) (k : Nat) (b : Byte) : (wrByte d k b).store = d.store := rfl
@[simp] theorem wrByte_dbg (d : Dev) (k : Nat) (b : Byte) : (wrByte d k b).dbg = d.dbg := rfl

@[simp] theorem clearMem_regs (d : Dev) (lo len : Nat) : (clearMem d lo len).regs = d.regs := rfl
@[simp] theorem clearMem_poison (d : Dev) (lo len : Nat) : (clearMem d lo len).poison = d.poison := rfl
@[simp] theorem clearMem_reports (d : Dev) (lo len : Nat) : (clearMem d lo len).reports = d.reports := rfl
@[simp] theorem clearMem_out (d : Dev) (lo len : Nat) : (clearMem d lo len).out = d.out := rfl
@[simp] theorem clearMem_freeCtr (d : Dev) (lo len : Nat) : (clearMem d lo len).freeCtr = d.freeCtr := rfl
@[simp] theorem clearMem_extIn (d : Dev) (lo len : Nat) : (clearMem d lo len).extIn = d.extIn := rfl
@[simp] theorem clearMem_coppice (d : Dev) (lo len : Nat) : (clearMem d lo len).coppice = d.coppice := rfl
@[simp] theorem clearMem_mxe (d : Dev) (lo len : Nat) : (clearMem d lo len).mxe = d.mxe := rfl
@[simp] theorem clearMem_eng (d : Dev) (lo len : Nat) : (clearMem d lo len).eng = d.eng := rfl
@[simp] theorem clearMem_engDone (d : Dev) (lo len : Nat) : (clearMem d lo len).engDone = d.engDone := rfl
@[simp] theorem clearMem_cmem (d : Dev) (lo len : Nat) : (clearMem d lo len).cmem = d.cmem := rfl
@[simp] theorem clearMem_ctr (d : Dev) (lo len : Nat) : (clearMem d lo len).ctr = d.ctr := rfl
@[simp] theorem clearMem_strm (d : Dev) (lo len : Nat) : (clearMem d lo len).strm = d.strm := rfl
@[simp] theorem clearMem_turn (d : Dev) (lo len : Nat) : (clearMem d lo len).turn = d.turn := rfl
@[simp] theorem clearMem_handoff (d : Dev) (lo len : Nat) : (clearMem d lo len).handoff = d.handoff := rfl
@[simp] theorem clearMem_coh (d : Dev) (lo len : Nat) : (clearMem d lo len).coh = d.coh := rfl
@[simp] theorem clearMem_fei (d : Dev) (lo len : Nat) : (clearMem d lo len).fei = d.fei := rfl
@[simp] theorem clearMem_guest (d : Dev) (lo len : Nat) : (clearMem d lo len).guest = d.guest := rfl
@[simp] theorem clearMem_mapAcks (d : Dev) (lo len : Nat) : (clearMem d lo len).mapAcks = d.mapAcks := rfl
@[simp] theorem clearMem_le (d : Dev) (lo len : Nat) : (clearMem d lo len).le = d.le := rfl
@[simp] theorem clearMem_lq (d : Dev) (lo len : Nat) : (clearMem d lo len).lq = d.lq := rfl
@[simp] theorem clearMem_fab (d : Dev) (lo len : Nat) : (clearMem d lo len).fab = d.fab := rfl
@[simp] theorem clearMem_msix (d : Dev) (lo len : Nat) : (clearMem d lo len).msix = d.msix := rfl
@[simp] theorem clearMem_hdm (d : Dev) (lo len : Nat) : (clearMem d lo len).hdm = d.hdm := rfl
@[simp] theorem clearMem_i3cAddr (d : Dev) (lo len : Nat) : (clearMem d lo len).i3cAddr = d.i3cAddr := rfl
@[simp] theorem clearMem_tb (d : Dev) (lo len : Nat) : (clearMem d lo len).tb = d.tb := rfl
@[simp] theorem clearMem_pow (d : Dev) (lo len : Nat) : (clearMem d lo len).pow = d.pow := rfl
@[simp] theorem clearMem_fw (d : Dev) (lo len : Nat) : (clearMem d lo len).fw = d.fw := rfl
@[simp] theorem clearMem_flt (d : Dev) (lo len : Nat) : (clearMem d lo len).flt = d.flt := rfl
@[simp] theorem clearMem_store (d : Dev) (lo len : Nat) : (clearMem d lo len).store = d.store := rfl
@[simp] theorem clearMem_dbg (d : Dev) (lo len : Nat) : (clearMem d lo len).dbg = d.dbg := rfl

@[simp] theorem setPoison_regs (d : Dev) (k : Nat) (b : Bool) : (setPoison d k b).regs = d.regs := rfl
@[simp] theorem setPoison_reports (d : Dev) (k : Nat) (b : Bool) : (setPoison d k b).reports = d.reports := rfl
@[simp] theorem setPoison_out (d : Dev) (k : Nat) (b : Bool) : (setPoison d k b).out = d.out := rfl
@[simp] theorem setPoison_freeCtr (d : Dev) (k : Nat) (b : Bool) : (setPoison d k b).freeCtr = d.freeCtr := rfl
@[simp] theorem setPoison_wq (d : Dev) (k : Nat) (b : Bool) : (setPoison d k b).wq = d.wq := rfl
@[simp] theorem setPoison_extIn (d : Dev) (k : Nat) (b : Bool) : (setPoison d k b).extIn = d.extIn := rfl
@[simp] theorem setPoison_coppice (d : Dev) (k : Nat) (b : Bool) : (setPoison d k b).coppice = d.coppice := rfl
@[simp] theorem setPoison_mxe (d : Dev) (k : Nat) (b : Bool) : (setPoison d k b).mxe = d.mxe := rfl
@[simp] theorem setPoison_eng (d : Dev) (k : Nat) (b : Bool) : (setPoison d k b).eng = d.eng := rfl
@[simp] theorem setPoison_engDone (d : Dev) (k : Nat) (b : Bool) : (setPoison d k b).engDone = d.engDone := rfl
@[simp] theorem setPoison_cmem (d : Dev) (k : Nat) (b : Bool) : (setPoison d k b).cmem = d.cmem := rfl
@[simp] theorem setPoison_ctr (d : Dev) (k : Nat) (b : Bool) : (setPoison d k b).ctr = d.ctr := rfl
@[simp] theorem setPoison_strm (d : Dev) (k : Nat) (b : Bool) : (setPoison d k b).strm = d.strm := rfl
@[simp] theorem setPoison_turn (d : Dev) (k : Nat) (b : Bool) : (setPoison d k b).turn = d.turn := rfl
@[simp] theorem setPoison_handoff (d : Dev) (k : Nat) (b : Bool) : (setPoison d k b).handoff = d.handoff := rfl
@[simp] theorem setPoison_coh (d : Dev) (k : Nat) (b : Bool) : (setPoison d k b).coh = d.coh := rfl
@[simp] theorem setPoison_fei (d : Dev) (k : Nat) (b : Bool) : (setPoison d k b).fei = d.fei := rfl
@[simp] theorem setPoison_guest (d : Dev) (k : Nat) (b : Bool) : (setPoison d k b).guest = d.guest := rfl
@[simp] theorem setPoison_mapAcks (d : Dev) (k : Nat) (b : Bool) : (setPoison d k b).mapAcks = d.mapAcks := rfl
@[simp] theorem setPoison_le (d : Dev) (k : Nat) (b : Bool) : (setPoison d k b).le = d.le := rfl
@[simp] theorem setPoison_lq (d : Dev) (k : Nat) (b : Bool) : (setPoison d k b).lq = d.lq := rfl
@[simp] theorem setPoison_fab (d : Dev) (k : Nat) (b : Bool) : (setPoison d k b).fab = d.fab := rfl
@[simp] theorem setPoison_msix (d : Dev) (k : Nat) (b : Bool) : (setPoison d k b).msix = d.msix := rfl
@[simp] theorem setPoison_hdm (d : Dev) (k : Nat) (b : Bool) : (setPoison d k b).hdm = d.hdm := rfl
@[simp] theorem setPoison_i3cAddr (d : Dev) (k : Nat) (b : Bool) : (setPoison d k b).i3cAddr = d.i3cAddr := rfl
@[simp] theorem setPoison_tb (d : Dev) (k : Nat) (b : Bool) : (setPoison d k b).tb = d.tb := rfl
@[simp] theorem setPoison_pow (d : Dev) (k : Nat) (b : Bool) : (setPoison d k b).pow = d.pow := rfl
@[simp] theorem setPoison_fw (d : Dev) (k : Nat) (b : Bool) : (setPoison d k b).fw = d.fw := rfl
@[simp] theorem setPoison_flt (d : Dev) (k : Nat) (b : Bool) : (setPoison d k b).flt = d.flt := rfl
@[simp] theorem setPoison_store (d : Dev) (k : Nat) (b : Bool) : (setPoison d k b).store = d.store := rfl
@[simp] theorem setPoison_dbg (d : Dev) (k : Nat) (b : Bool) : (setPoison d k b).dbg = d.dbg := rfl

@[simp] theorem setCtr_regs (d : Dev) (c : Nat) (x : Ctr) : (setCtr d c x).regs = d.regs := rfl
@[simp] theorem setCtr_poison (d : Dev) (c : Nat) (x : Ctr) : (setCtr d c x).poison = d.poison := rfl
@[simp] theorem setCtr_reports (d : Dev) (c : Nat) (x : Ctr) : (setCtr d c x).reports = d.reports := rfl
@[simp] theorem setCtr_out (d : Dev) (c : Nat) (x : Ctr) : (setCtr d c x).out = d.out := rfl
@[simp] theorem setCtr_freeCtr (d : Dev) (c : Nat) (x : Ctr) : (setCtr d c x).freeCtr = d.freeCtr := rfl
@[simp] theorem setCtr_wq (d : Dev) (c : Nat) (x : Ctr) : (setCtr d c x).wq = d.wq := rfl
@[simp] theorem setCtr_extIn (d : Dev) (c : Nat) (x : Ctr) : (setCtr d c x).extIn = d.extIn := rfl
@[simp] theorem setCtr_coppice (d : Dev) (c : Nat) (x : Ctr) : (setCtr d c x).coppice = d.coppice := rfl
@[simp] theorem setCtr_mxe (d : Dev) (c : Nat) (x : Ctr) : (setCtr d c x).mxe = d.mxe := rfl
@[simp] theorem setCtr_eng (d : Dev) (c : Nat) (x : Ctr) : (setCtr d c x).eng = d.eng := rfl
@[simp] theorem setCtr_engDone (d : Dev) (c : Nat) (x : Ctr) : (setCtr d c x).engDone = d.engDone := rfl
@[simp] theorem setCtr_cmem (d : Dev) (c : Nat) (x : Ctr) : (setCtr d c x).cmem = d.cmem := rfl
@[simp] theorem setCtr_strm (d : Dev) (c : Nat) (x : Ctr) : (setCtr d c x).strm = d.strm := rfl
@[simp] theorem setCtr_turn (d : Dev) (c : Nat) (x : Ctr) : (setCtr d c x).turn = d.turn := rfl
@[simp] theorem setCtr_handoff (d : Dev) (c : Nat) (x : Ctr) : (setCtr d c x).handoff = d.handoff := rfl
@[simp] theorem setCtr_coh (d : Dev) (c : Nat) (x : Ctr) : (setCtr d c x).coh = d.coh := rfl
@[simp] theorem setCtr_fei (d : Dev) (c : Nat) (x : Ctr) : (setCtr d c x).fei = d.fei := rfl
@[simp] theorem setCtr_guest (d : Dev) (c : Nat) (x : Ctr) : (setCtr d c x).guest = d.guest := rfl
@[simp] theorem setCtr_mapAcks (d : Dev) (c : Nat) (x : Ctr) : (setCtr d c x).mapAcks = d.mapAcks := rfl
@[simp] theorem setCtr_le (d : Dev) (c : Nat) (x : Ctr) : (setCtr d c x).le = d.le := rfl
@[simp] theorem setCtr_lq (d : Dev) (c : Nat) (x : Ctr) : (setCtr d c x).lq = d.lq := rfl
@[simp] theorem setCtr_fab (d : Dev) (c : Nat) (x : Ctr) : (setCtr d c x).fab = d.fab := rfl
@[simp] theorem setCtr_msix (d : Dev) (c : Nat) (x : Ctr) : (setCtr d c x).msix = d.msix := rfl
@[simp] theorem setCtr_hdm (d : Dev) (c : Nat) (x : Ctr) : (setCtr d c x).hdm = d.hdm := rfl
@[simp] theorem setCtr_i3cAddr (d : Dev) (c : Nat) (x : Ctr) : (setCtr d c x).i3cAddr = d.i3cAddr := rfl
@[simp] theorem setCtr_tb (d : Dev) (c : Nat) (x : Ctr) : (setCtr d c x).tb = d.tb := rfl
@[simp] theorem setCtr_pow (d : Dev) (c : Nat) (x : Ctr) : (setCtr d c x).pow = d.pow := rfl
@[simp] theorem setCtr_fw (d : Dev) (c : Nat) (x : Ctr) : (setCtr d c x).fw = d.fw := rfl
@[simp] theorem setCtr_flt (d : Dev) (c : Nat) (x : Ctr) : (setCtr d c x).flt = d.flt := rfl
@[simp] theorem setCtr_store (d : Dev) (c : Nat) (x : Ctr) : (setCtr d c x).store = d.store := rfl
@[simp] theorem setCtr_dbg (d : Dev) (c : Nat) (x : Ctr) : (setCtr d c x).dbg = d.dbg := rfl

@[simp] theorem setStrm_regs (d : Dev) (st : Nat) (x : Strm) : (setStrm d st x).regs = d.regs := rfl
@[simp] theorem setStrm_poison (d : Dev) (st : Nat) (x : Strm) : (setStrm d st x).poison = d.poison := rfl
@[simp] theorem setStrm_reports (d : Dev) (st : Nat) (x : Strm) : (setStrm d st x).reports = d.reports := rfl
@[simp] theorem setStrm_out (d : Dev) (st : Nat) (x : Strm) : (setStrm d st x).out = d.out := rfl
@[simp] theorem setStrm_freeCtr (d : Dev) (st : Nat) (x : Strm) : (setStrm d st x).freeCtr = d.freeCtr := rfl
@[simp] theorem setStrm_wq (d : Dev) (st : Nat) (x : Strm) : (setStrm d st x).wq = d.wq := rfl
@[simp] theorem setStrm_extIn (d : Dev) (st : Nat) (x : Strm) : (setStrm d st x).extIn = d.extIn := rfl
@[simp] theorem setStrm_coppice (d : Dev) (st : Nat) (x : Strm) : (setStrm d st x).coppice = d.coppice := rfl
@[simp] theorem setStrm_mxe (d : Dev) (st : Nat) (x : Strm) : (setStrm d st x).mxe = d.mxe := rfl
@[simp] theorem setStrm_eng (d : Dev) (st : Nat) (x : Strm) : (setStrm d st x).eng = d.eng := rfl
@[simp] theorem setStrm_engDone (d : Dev) (st : Nat) (x : Strm) : (setStrm d st x).engDone = d.engDone := rfl
@[simp] theorem setStrm_cmem (d : Dev) (st : Nat) (x : Strm) : (setStrm d st x).cmem = d.cmem := rfl
@[simp] theorem setStrm_ctr (d : Dev) (st : Nat) (x : Strm) : (setStrm d st x).ctr = d.ctr := rfl
@[simp] theorem setStrm_turn (d : Dev) (st : Nat) (x : Strm) : (setStrm d st x).turn = d.turn := rfl
@[simp] theorem setStrm_handoff (d : Dev) (st : Nat) (x : Strm) : (setStrm d st x).handoff = d.handoff := rfl
@[simp] theorem setStrm_coh (d : Dev) (st : Nat) (x : Strm) : (setStrm d st x).coh = d.coh := rfl
@[simp] theorem setStrm_fei (d : Dev) (st : Nat) (x : Strm) : (setStrm d st x).fei = d.fei := rfl
@[simp] theorem setStrm_guest (d : Dev) (st : Nat) (x : Strm) : (setStrm d st x).guest = d.guest := rfl
@[simp] theorem setStrm_mapAcks (d : Dev) (st : Nat) (x : Strm) : (setStrm d st x).mapAcks = d.mapAcks := rfl
@[simp] theorem setStrm_le (d : Dev) (st : Nat) (x : Strm) : (setStrm d st x).le = d.le := rfl
@[simp] theorem setStrm_lq (d : Dev) (st : Nat) (x : Strm) : (setStrm d st x).lq = d.lq := rfl
@[simp] theorem setStrm_fab (d : Dev) (st : Nat) (x : Strm) : (setStrm d st x).fab = d.fab := rfl
@[simp] theorem setStrm_msix (d : Dev) (st : Nat) (x : Strm) : (setStrm d st x).msix = d.msix := rfl
@[simp] theorem setStrm_hdm (d : Dev) (st : Nat) (x : Strm) : (setStrm d st x).hdm = d.hdm := rfl
@[simp] theorem setStrm_i3cAddr (d : Dev) (st : Nat) (x : Strm) : (setStrm d st x).i3cAddr = d.i3cAddr := rfl
@[simp] theorem setStrm_tb (d : Dev) (st : Nat) (x : Strm) : (setStrm d st x).tb = d.tb := rfl
@[simp] theorem setStrm_pow (d : Dev) (st : Nat) (x : Strm) : (setStrm d st x).pow = d.pow := rfl
@[simp] theorem setStrm_fw (d : Dev) (st : Nat) (x : Strm) : (setStrm d st x).fw = d.fw := rfl
@[simp] theorem setStrm_flt (d : Dev) (st : Nat) (x : Strm) : (setStrm d st x).flt = d.flt := rfl
@[simp] theorem setStrm_store (d : Dev) (st : Nat) (x : Strm) : (setStrm d st x).store = d.store := rfl
@[simp] theorem setStrm_dbg (d : Dev) (st : Nat) (x : Strm) : (setStrm d st x).dbg = d.dbg := rfl

@[simp] theorem setMsix_regs (d : Dev) (p v : Nat) (x : Msix) : (setMsix d p v x).regs = d.regs := rfl
@[simp] theorem setMsix_poison (d : Dev) (p v : Nat) (x : Msix) : (setMsix d p v x).poison = d.poison := rfl
@[simp] theorem setMsix_reports (d : Dev) (p v : Nat) (x : Msix) : (setMsix d p v x).reports = d.reports := rfl
@[simp] theorem setMsix_out (d : Dev) (p v : Nat) (x : Msix) : (setMsix d p v x).out = d.out := rfl
@[simp] theorem setMsix_freeCtr (d : Dev) (p v : Nat) (x : Msix) : (setMsix d p v x).freeCtr = d.freeCtr := rfl
@[simp] theorem setMsix_wq (d : Dev) (p v : Nat) (x : Msix) : (setMsix d p v x).wq = d.wq := rfl
@[simp] theorem setMsix_extIn (d : Dev) (p v : Nat) (x : Msix) : (setMsix d p v x).extIn = d.extIn := rfl
@[simp] theorem setMsix_coppice (d : Dev) (p v : Nat) (x : Msix) : (setMsix d p v x).coppice = d.coppice := rfl
@[simp] theorem setMsix_mxe (d : Dev) (p v : Nat) (x : Msix) : (setMsix d p v x).mxe = d.mxe := rfl
@[simp] theorem setMsix_eng (d : Dev) (p v : Nat) (x : Msix) : (setMsix d p v x).eng = d.eng := rfl
@[simp] theorem setMsix_engDone (d : Dev) (p v : Nat) (x : Msix) : (setMsix d p v x).engDone = d.engDone := rfl
@[simp] theorem setMsix_cmem (d : Dev) (p v : Nat) (x : Msix) : (setMsix d p v x).cmem = d.cmem := rfl
@[simp] theorem setMsix_ctr (d : Dev) (p v : Nat) (x : Msix) : (setMsix d p v x).ctr = d.ctr := rfl
@[simp] theorem setMsix_strm (d : Dev) (p v : Nat) (x : Msix) : (setMsix d p v x).strm = d.strm := rfl
@[simp] theorem setMsix_turn (d : Dev) (p v : Nat) (x : Msix) : (setMsix d p v x).turn = d.turn := rfl
@[simp] theorem setMsix_handoff (d : Dev) (p v : Nat) (x : Msix) : (setMsix d p v x).handoff = d.handoff := rfl
@[simp] theorem setMsix_coh (d : Dev) (p v : Nat) (x : Msix) : (setMsix d p v x).coh = d.coh := rfl
@[simp] theorem setMsix_fei (d : Dev) (p v : Nat) (x : Msix) : (setMsix d p v x).fei = d.fei := rfl
@[simp] theorem setMsix_guest (d : Dev) (p v : Nat) (x : Msix) : (setMsix d p v x).guest = d.guest := rfl
@[simp] theorem setMsix_mapAcks (d : Dev) (p v : Nat) (x : Msix) : (setMsix d p v x).mapAcks = d.mapAcks := rfl
@[simp] theorem setMsix_le (d : Dev) (p v : Nat) (x : Msix) : (setMsix d p v x).le = d.le := rfl
@[simp] theorem setMsix_lq (d : Dev) (p v : Nat) (x : Msix) : (setMsix d p v x).lq = d.lq := rfl
@[simp] theorem setMsix_fab (d : Dev) (p v : Nat) (x : Msix) : (setMsix d p v x).fab = d.fab := rfl
@[simp] theorem setMsix_hdm (d : Dev) (p v : Nat) (x : Msix) : (setMsix d p v x).hdm = d.hdm := rfl
@[simp] theorem setMsix_i3cAddr (d : Dev) (p v : Nat) (x : Msix) : (setMsix d p v x).i3cAddr = d.i3cAddr := rfl
@[simp] theorem setMsix_tb (d : Dev) (p v : Nat) (x : Msix) : (setMsix d p v x).tb = d.tb := rfl
@[simp] theorem setMsix_pow (d : Dev) (p v : Nat) (x : Msix) : (setMsix d p v x).pow = d.pow := rfl
@[simp] theorem setMsix_fw (d : Dev) (p v : Nat) (x : Msix) : (setMsix d p v x).fw = d.fw := rfl
@[simp] theorem setMsix_flt (d : Dev) (p v : Nat) (x : Msix) : (setMsix d p v x).flt = d.flt := rfl
@[simp] theorem setMsix_store (d : Dev) (p v : Nat) (x : Msix) : (setMsix d p v x).store = d.store := rfl
@[simp] theorem setMsix_dbg (d : Dev) (p v : Nat) (x : Msix) : (setMsix d p v x).dbg = d.dbg := rfl

@[simp] theorem setMxe_regs (d : Dev) (site : Nat) (x : Mxe) : (setMxe d site x).regs = d.regs := rfl
@[simp] theorem setMxe_poison (d : Dev) (site : Nat) (x : Mxe) : (setMxe d site x).poison = d.poison := rfl
@[simp] theorem setMxe_reports (d : Dev) (site : Nat) (x : Mxe) : (setMxe d site x).reports = d.reports := rfl
@[simp] theorem setMxe_out (d : Dev) (site : Nat) (x : Mxe) : (setMxe d site x).out = d.out := rfl
@[simp] theorem setMxe_freeCtr (d : Dev) (site : Nat) (x : Mxe) : (setMxe d site x).freeCtr = d.freeCtr := rfl
@[simp] theorem setMxe_wq (d : Dev) (site : Nat) (x : Mxe) : (setMxe d site x).wq = d.wq := rfl
@[simp] theorem setMxe_extIn (d : Dev) (site : Nat) (x : Mxe) : (setMxe d site x).extIn = d.extIn := rfl
@[simp] theorem setMxe_coppice (d : Dev) (site : Nat) (x : Mxe) : (setMxe d site x).coppice = d.coppice := rfl
@[simp] theorem setMxe_eng (d : Dev) (site : Nat) (x : Mxe) : (setMxe d site x).eng = d.eng := rfl
@[simp] theorem setMxe_engDone (d : Dev) (site : Nat) (x : Mxe) : (setMxe d site x).engDone = d.engDone := rfl
@[simp] theorem setMxe_cmem (d : Dev) (site : Nat) (x : Mxe) : (setMxe d site x).cmem = d.cmem := rfl
@[simp] theorem setMxe_ctr (d : Dev) (site : Nat) (x : Mxe) : (setMxe d site x).ctr = d.ctr := rfl
@[simp] theorem setMxe_strm (d : Dev) (site : Nat) (x : Mxe) : (setMxe d site x).strm = d.strm := rfl
@[simp] theorem setMxe_turn (d : Dev) (site : Nat) (x : Mxe) : (setMxe d site x).turn = d.turn := rfl
@[simp] theorem setMxe_handoff (d : Dev) (site : Nat) (x : Mxe) : (setMxe d site x).handoff = d.handoff := rfl
@[simp] theorem setMxe_coh (d : Dev) (site : Nat) (x : Mxe) : (setMxe d site x).coh = d.coh := rfl
@[simp] theorem setMxe_fei (d : Dev) (site : Nat) (x : Mxe) : (setMxe d site x).fei = d.fei := rfl
@[simp] theorem setMxe_guest (d : Dev) (site : Nat) (x : Mxe) : (setMxe d site x).guest = d.guest := rfl
@[simp] theorem setMxe_mapAcks (d : Dev) (site : Nat) (x : Mxe) : (setMxe d site x).mapAcks = d.mapAcks := rfl
@[simp] theorem setMxe_le (d : Dev) (site : Nat) (x : Mxe) : (setMxe d site x).le = d.le := rfl
@[simp] theorem setMxe_lq (d : Dev) (site : Nat) (x : Mxe) : (setMxe d site x).lq = d.lq := rfl
@[simp] theorem setMxe_fab (d : Dev) (site : Nat) (x : Mxe) : (setMxe d site x).fab = d.fab := rfl
@[simp] theorem setMxe_msix (d : Dev) (site : Nat) (x : Mxe) : (setMxe d site x).msix = d.msix := rfl
@[simp] theorem setMxe_hdm (d : Dev) (site : Nat) (x : Mxe) : (setMxe d site x).hdm = d.hdm := rfl
@[simp] theorem setMxe_i3cAddr (d : Dev) (site : Nat) (x : Mxe) : (setMxe d site x).i3cAddr = d.i3cAddr := rfl
@[simp] theorem setMxe_tb (d : Dev) (site : Nat) (x : Mxe) : (setMxe d site x).tb = d.tb := rfl
@[simp] theorem setMxe_pow (d : Dev) (site : Nat) (x : Mxe) : (setMxe d site x).pow = d.pow := rfl
@[simp] theorem setMxe_fw (d : Dev) (site : Nat) (x : Mxe) : (setMxe d site x).fw = d.fw := rfl
@[simp] theorem setMxe_flt (d : Dev) (site : Nat) (x : Mxe) : (setMxe d site x).flt = d.flt := rfl
@[simp] theorem setMxe_store (d : Dev) (site : Nat) (x : Mxe) : (setMxe d site x).store = d.store := rfl
@[simp] theorem setMxe_dbg (d : Dev) (site : Nat) (x : Mxe) : (setMxe d site x).dbg = d.dbg := rfl

@[simp] theorem setEng_regs (d : Dev) (site u : Nat) (x : EngSlots) : (setEng d site u x).regs = d.regs := rfl
@[simp] theorem setEng_poison (d : Dev) (site u : Nat) (x : EngSlots) : (setEng d site u x).poison = d.poison := rfl
@[simp] theorem setEng_reports (d : Dev) (site u : Nat) (x : EngSlots) : (setEng d site u x).reports = d.reports := rfl
@[simp] theorem setEng_out (d : Dev) (site u : Nat) (x : EngSlots) : (setEng d site u x).out = d.out := rfl
@[simp] theorem setEng_freeCtr (d : Dev) (site u : Nat) (x : EngSlots) : (setEng d site u x).freeCtr = d.freeCtr := rfl
@[simp] theorem setEng_wq (d : Dev) (site u : Nat) (x : EngSlots) : (setEng d site u x).wq = d.wq := rfl
@[simp] theorem setEng_extIn (d : Dev) (site u : Nat) (x : EngSlots) : (setEng d site u x).extIn = d.extIn := rfl
@[simp] theorem setEng_coppice (d : Dev) (site u : Nat) (x : EngSlots) : (setEng d site u x).coppice = d.coppice := rfl
@[simp] theorem setEng_mxe (d : Dev) (site u : Nat) (x : EngSlots) : (setEng d site u x).mxe = d.mxe := rfl
@[simp] theorem setEng_engDone (d : Dev) (site u : Nat) (x : EngSlots) : (setEng d site u x).engDone = d.engDone := rfl
@[simp] theorem setEng_cmem (d : Dev) (site u : Nat) (x : EngSlots) : (setEng d site u x).cmem = d.cmem := rfl
@[simp] theorem setEng_ctr (d : Dev) (site u : Nat) (x : EngSlots) : (setEng d site u x).ctr = d.ctr := rfl
@[simp] theorem setEng_strm (d : Dev) (site u : Nat) (x : EngSlots) : (setEng d site u x).strm = d.strm := rfl
@[simp] theorem setEng_turn (d : Dev) (site u : Nat) (x : EngSlots) : (setEng d site u x).turn = d.turn := rfl
@[simp] theorem setEng_handoff (d : Dev) (site u : Nat) (x : EngSlots) : (setEng d site u x).handoff = d.handoff := rfl
@[simp] theorem setEng_coh (d : Dev) (site u : Nat) (x : EngSlots) : (setEng d site u x).coh = d.coh := rfl
@[simp] theorem setEng_fei (d : Dev) (site u : Nat) (x : EngSlots) : (setEng d site u x).fei = d.fei := rfl
@[simp] theorem setEng_guest (d : Dev) (site u : Nat) (x : EngSlots) : (setEng d site u x).guest = d.guest := rfl
@[simp] theorem setEng_mapAcks (d : Dev) (site u : Nat) (x : EngSlots) : (setEng d site u x).mapAcks = d.mapAcks := rfl
@[simp] theorem setEng_le (d : Dev) (site u : Nat) (x : EngSlots) : (setEng d site u x).le = d.le := rfl
@[simp] theorem setEng_lq (d : Dev) (site u : Nat) (x : EngSlots) : (setEng d site u x).lq = d.lq := rfl
@[simp] theorem setEng_fab (d : Dev) (site u : Nat) (x : EngSlots) : (setEng d site u x).fab = d.fab := rfl
@[simp] theorem setEng_msix (d : Dev) (site u : Nat) (x : EngSlots) : (setEng d site u x).msix = d.msix := rfl
@[simp] theorem setEng_hdm (d : Dev) (site u : Nat) (x : EngSlots) : (setEng d site u x).hdm = d.hdm := rfl
@[simp] theorem setEng_i3cAddr (d : Dev) (site u : Nat) (x : EngSlots) : (setEng d site u x).i3cAddr = d.i3cAddr := rfl
@[simp] theorem setEng_tb (d : Dev) (site u : Nat) (x : EngSlots) : (setEng d site u x).tb = d.tb := rfl
@[simp] theorem setEng_pow (d : Dev) (site u : Nat) (x : EngSlots) : (setEng d site u x).pow = d.pow := rfl
@[simp] theorem setEng_fw (d : Dev) (site u : Nat) (x : EngSlots) : (setEng d site u x).fw = d.fw := rfl
@[simp] theorem setEng_flt (d : Dev) (site u : Nat) (x : EngSlots) : (setEng d site u x).flt = d.flt := rfl
@[simp] theorem setEng_store (d : Dev) (site u : Nat) (x : EngSlots) : (setEng d site u x).store = d.store := rfl
@[simp] theorem setEng_dbg (d : Dev) (site u : Nat) (x : EngSlots) : (setEng d site u x).dbg = d.dbg := rfl

@[simp] theorem setLe_regs (d : Dev) (k : Nat) (x : Le) : (setLe d k x).regs = d.regs := rfl
@[simp] theorem setLe_poison (d : Dev) (k : Nat) (x : Le) : (setLe d k x).poison = d.poison := rfl
@[simp] theorem setLe_reports (d : Dev) (k : Nat) (x : Le) : (setLe d k x).reports = d.reports := rfl
@[simp] theorem setLe_out (d : Dev) (k : Nat) (x : Le) : (setLe d k x).out = d.out := rfl
@[simp] theorem setLe_freeCtr (d : Dev) (k : Nat) (x : Le) : (setLe d k x).freeCtr = d.freeCtr := rfl
@[simp] theorem setLe_wq (d : Dev) (k : Nat) (x : Le) : (setLe d k x).wq = d.wq := rfl
@[simp] theorem setLe_extIn (d : Dev) (k : Nat) (x : Le) : (setLe d k x).extIn = d.extIn := rfl
@[simp] theorem setLe_coppice (d : Dev) (k : Nat) (x : Le) : (setLe d k x).coppice = d.coppice := rfl
@[simp] theorem setLe_mxe (d : Dev) (k : Nat) (x : Le) : (setLe d k x).mxe = d.mxe := rfl
@[simp] theorem setLe_eng (d : Dev) (k : Nat) (x : Le) : (setLe d k x).eng = d.eng := rfl
@[simp] theorem setLe_engDone (d : Dev) (k : Nat) (x : Le) : (setLe d k x).engDone = d.engDone := rfl
@[simp] theorem setLe_cmem (d : Dev) (k : Nat) (x : Le) : (setLe d k x).cmem = d.cmem := rfl
@[simp] theorem setLe_ctr (d : Dev) (k : Nat) (x : Le) : (setLe d k x).ctr = d.ctr := rfl
@[simp] theorem setLe_strm (d : Dev) (k : Nat) (x : Le) : (setLe d k x).strm = d.strm := rfl
@[simp] theorem setLe_turn (d : Dev) (k : Nat) (x : Le) : (setLe d k x).turn = d.turn := rfl
@[simp] theorem setLe_handoff (d : Dev) (k : Nat) (x : Le) : (setLe d k x).handoff = d.handoff := rfl
@[simp] theorem setLe_coh (d : Dev) (k : Nat) (x : Le) : (setLe d k x).coh = d.coh := rfl
@[simp] theorem setLe_fei (d : Dev) (k : Nat) (x : Le) : (setLe d k x).fei = d.fei := rfl
@[simp] theorem setLe_guest (d : Dev) (k : Nat) (x : Le) : (setLe d k x).guest = d.guest := rfl
@[simp] theorem setLe_mapAcks (d : Dev) (k : Nat) (x : Le) : (setLe d k x).mapAcks = d.mapAcks := rfl
@[simp] theorem setLe_lq (d : Dev) (k : Nat) (x : Le) : (setLe d k x).lq = d.lq := rfl
@[simp] theorem setLe_fab (d : Dev) (k : Nat) (x : Le) : (setLe d k x).fab = d.fab := rfl
@[simp] theorem setLe_msix (d : Dev) (k : Nat) (x : Le) : (setLe d k x).msix = d.msix := rfl
@[simp] theorem setLe_hdm (d : Dev) (k : Nat) (x : Le) : (setLe d k x).hdm = d.hdm := rfl
@[simp] theorem setLe_i3cAddr (d : Dev) (k : Nat) (x : Le) : (setLe d k x).i3cAddr = d.i3cAddr := rfl
@[simp] theorem setLe_tb (d : Dev) (k : Nat) (x : Le) : (setLe d k x).tb = d.tb := rfl
@[simp] theorem setLe_pow (d : Dev) (k : Nat) (x : Le) : (setLe d k x).pow = d.pow := rfl
@[simp] theorem setLe_fw (d : Dev) (k : Nat) (x : Le) : (setLe d k x).fw = d.fw := rfl
@[simp] theorem setLe_flt (d : Dev) (k : Nat) (x : Le) : (setLe d k x).flt = d.flt := rfl
@[simp] theorem setLe_store (d : Dev) (k : Nat) (x : Le) : (setLe d k x).store = d.store := rfl
@[simp] theorem setLe_dbg (d : Dev) (k : Nat) (x : Le) : (setLe d k x).dbg = d.dbg := rfl

@[simp] theorem setLq_regs (d : Dev) (g : Nat) (x : Lq) : (setLq d g x).regs = d.regs := rfl
@[simp] theorem setLq_poison (d : Dev) (g : Nat) (x : Lq) : (setLq d g x).poison = d.poison := rfl
@[simp] theorem setLq_reports (d : Dev) (g : Nat) (x : Lq) : (setLq d g x).reports = d.reports := rfl
@[simp] theorem setLq_out (d : Dev) (g : Nat) (x : Lq) : (setLq d g x).out = d.out := rfl
@[simp] theorem setLq_freeCtr (d : Dev) (g : Nat) (x : Lq) : (setLq d g x).freeCtr = d.freeCtr := rfl
@[simp] theorem setLq_wq (d : Dev) (g : Nat) (x : Lq) : (setLq d g x).wq = d.wq := rfl
@[simp] theorem setLq_extIn (d : Dev) (g : Nat) (x : Lq) : (setLq d g x).extIn = d.extIn := rfl
@[simp] theorem setLq_coppice (d : Dev) (g : Nat) (x : Lq) : (setLq d g x).coppice = d.coppice := rfl
@[simp] theorem setLq_mxe (d : Dev) (g : Nat) (x : Lq) : (setLq d g x).mxe = d.mxe := rfl
@[simp] theorem setLq_eng (d : Dev) (g : Nat) (x : Lq) : (setLq d g x).eng = d.eng := rfl
@[simp] theorem setLq_engDone (d : Dev) (g : Nat) (x : Lq) : (setLq d g x).engDone = d.engDone := rfl
@[simp] theorem setLq_cmem (d : Dev) (g : Nat) (x : Lq) : (setLq d g x).cmem = d.cmem := rfl
@[simp] theorem setLq_ctr (d : Dev) (g : Nat) (x : Lq) : (setLq d g x).ctr = d.ctr := rfl
@[simp] theorem setLq_strm (d : Dev) (g : Nat) (x : Lq) : (setLq d g x).strm = d.strm := rfl
@[simp] theorem setLq_turn (d : Dev) (g : Nat) (x : Lq) : (setLq d g x).turn = d.turn := rfl
@[simp] theorem setLq_handoff (d : Dev) (g : Nat) (x : Lq) : (setLq d g x).handoff = d.handoff := rfl
@[simp] theorem setLq_coh (d : Dev) (g : Nat) (x : Lq) : (setLq d g x).coh = d.coh := rfl
@[simp] theorem setLq_fei (d : Dev) (g : Nat) (x : Lq) : (setLq d g x).fei = d.fei := rfl
@[simp] theorem setLq_guest (d : Dev) (g : Nat) (x : Lq) : (setLq d g x).guest = d.guest := rfl
@[simp] theorem setLq_mapAcks (d : Dev) (g : Nat) (x : Lq) : (setLq d g x).mapAcks = d.mapAcks := rfl
@[simp] theorem setLq_le (d : Dev) (g : Nat) (x : Lq) : (setLq d g x).le = d.le := rfl
@[simp] theorem setLq_fab (d : Dev) (g : Nat) (x : Lq) : (setLq d g x).fab = d.fab := rfl
@[simp] theorem setLq_msix (d : Dev) (g : Nat) (x : Lq) : (setLq d g x).msix = d.msix := rfl
@[simp] theorem setLq_hdm (d : Dev) (g : Nat) (x : Lq) : (setLq d g x).hdm = d.hdm := rfl
@[simp] theorem setLq_i3cAddr (d : Dev) (g : Nat) (x : Lq) : (setLq d g x).i3cAddr = d.i3cAddr := rfl
@[simp] theorem setLq_tb (d : Dev) (g : Nat) (x : Lq) : (setLq d g x).tb = d.tb := rfl
@[simp] theorem setLq_pow (d : Dev) (g : Nat) (x : Lq) : (setLq d g x).pow = d.pow := rfl
@[simp] theorem setLq_fw (d : Dev) (g : Nat) (x : Lq) : (setLq d g x).fw = d.fw := rfl
@[simp] theorem setLq_flt (d : Dev) (g : Nat) (x : Lq) : (setLq d g x).flt = d.flt := rfl
@[simp] theorem setLq_store (d : Dev) (g : Nat) (x : Lq) : (setLq d g x).store = d.store := rfl
@[simp] theorem setLq_dbg (d : Dev) (g : Nat) (x : Lq) : (setLq d g x).dbg = d.dbg := rfl

@[simp] theorem setFei_regs (d : Dev) (b : BundleEnd) (x : Fei) : (setFei d b x).regs = d.regs := rfl
@[simp] theorem setFei_poison (d : Dev) (b : BundleEnd) (x : Fei) : (setFei d b x).poison = d.poison := rfl
@[simp] theorem setFei_reports (d : Dev) (b : BundleEnd) (x : Fei) : (setFei d b x).reports = d.reports := rfl
@[simp] theorem setFei_out (d : Dev) (b : BundleEnd) (x : Fei) : (setFei d b x).out = d.out := rfl
@[simp] theorem setFei_freeCtr (d : Dev) (b : BundleEnd) (x : Fei) : (setFei d b x).freeCtr = d.freeCtr := rfl
@[simp] theorem setFei_wq (d : Dev) (b : BundleEnd) (x : Fei) : (setFei d b x).wq = d.wq := rfl
@[simp] theorem setFei_extIn (d : Dev) (b : BundleEnd) (x : Fei) : (setFei d b x).extIn = d.extIn := rfl
@[simp] theorem setFei_coppice (d : Dev) (b : BundleEnd) (x : Fei) : (setFei d b x).coppice = d.coppice := rfl
@[simp] theorem setFei_mxe (d : Dev) (b : BundleEnd) (x : Fei) : (setFei d b x).mxe = d.mxe := rfl
@[simp] theorem setFei_eng (d : Dev) (b : BundleEnd) (x : Fei) : (setFei d b x).eng = d.eng := rfl
@[simp] theorem setFei_engDone (d : Dev) (b : BundleEnd) (x : Fei) : (setFei d b x).engDone = d.engDone := rfl
@[simp] theorem setFei_cmem (d : Dev) (b : BundleEnd) (x : Fei) : (setFei d b x).cmem = d.cmem := rfl
@[simp] theorem setFei_ctr (d : Dev) (b : BundleEnd) (x : Fei) : (setFei d b x).ctr = d.ctr := rfl
@[simp] theorem setFei_strm (d : Dev) (b : BundleEnd) (x : Fei) : (setFei d b x).strm = d.strm := rfl
@[simp] theorem setFei_turn (d : Dev) (b : BundleEnd) (x : Fei) : (setFei d b x).turn = d.turn := rfl
@[simp] theorem setFei_handoff (d : Dev) (b : BundleEnd) (x : Fei) : (setFei d b x).handoff = d.handoff := rfl
@[simp] theorem setFei_coh (d : Dev) (b : BundleEnd) (x : Fei) : (setFei d b x).coh = d.coh := rfl
@[simp] theorem setFei_guest (d : Dev) (b : BundleEnd) (x : Fei) : (setFei d b x).guest = d.guest := rfl
@[simp] theorem setFei_mapAcks (d : Dev) (b : BundleEnd) (x : Fei) : (setFei d b x).mapAcks = d.mapAcks := rfl
@[simp] theorem setFei_le (d : Dev) (b : BundleEnd) (x : Fei) : (setFei d b x).le = d.le := rfl
@[simp] theorem setFei_lq (d : Dev) (b : BundleEnd) (x : Fei) : (setFei d b x).lq = d.lq := rfl
@[simp] theorem setFei_fab (d : Dev) (b : BundleEnd) (x : Fei) : (setFei d b x).fab = d.fab := rfl
@[simp] theorem setFei_msix (d : Dev) (b : BundleEnd) (x : Fei) : (setFei d b x).msix = d.msix := rfl
@[simp] theorem setFei_hdm (d : Dev) (b : BundleEnd) (x : Fei) : (setFei d b x).hdm = d.hdm := rfl
@[simp] theorem setFei_i3cAddr (d : Dev) (b : BundleEnd) (x : Fei) : (setFei d b x).i3cAddr = d.i3cAddr := rfl
@[simp] theorem setFei_tb (d : Dev) (b : BundleEnd) (x : Fei) : (setFei d b x).tb = d.tb := rfl
@[simp] theorem setFei_pow (d : Dev) (b : BundleEnd) (x : Fei) : (setFei d b x).pow = d.pow := rfl
@[simp] theorem setFei_fw (d : Dev) (b : BundleEnd) (x : Fei) : (setFei d b x).fw = d.fw := rfl
@[simp] theorem setFei_flt (d : Dev) (b : BundleEnd) (x : Fei) : (setFei d b x).flt = d.flt := rfl
@[simp] theorem setFei_store (d : Dev) (b : BundleEnd) (x : Fei) : (setFei d b x).store = d.store := rfl
@[simp] theorem setFei_dbg (d : Dev) (b : BundleEnd) (x : Fei) : (setFei d b x).dbg = d.dbg := rfl

@[simp] theorem setGuest_regs (d : Dev) (g : Nat) (x : Guest) : (setGuest d g x).regs = d.regs := rfl
@[simp] theorem setGuest_poison (d : Dev) (g : Nat) (x : Guest) : (setGuest d g x).poison = d.poison := rfl
@[simp] theorem setGuest_reports (d : Dev) (g : Nat) (x : Guest) : (setGuest d g x).reports = d.reports := rfl
@[simp] theorem setGuest_out (d : Dev) (g : Nat) (x : Guest) : (setGuest d g x).out = d.out := rfl
@[simp] theorem setGuest_freeCtr (d : Dev) (g : Nat) (x : Guest) : (setGuest d g x).freeCtr = d.freeCtr := rfl
@[simp] theorem setGuest_wq (d : Dev) (g : Nat) (x : Guest) : (setGuest d g x).wq = d.wq := rfl
@[simp] theorem setGuest_extIn (d : Dev) (g : Nat) (x : Guest) : (setGuest d g x).extIn = d.extIn := rfl
@[simp] theorem setGuest_coppice (d : Dev) (g : Nat) (x : Guest) : (setGuest d g x).coppice = d.coppice := rfl
@[simp] theorem setGuest_mxe (d : Dev) (g : Nat) (x : Guest) : (setGuest d g x).mxe = d.mxe := rfl
@[simp] theorem setGuest_eng (d : Dev) (g : Nat) (x : Guest) : (setGuest d g x).eng = d.eng := rfl
@[simp] theorem setGuest_engDone (d : Dev) (g : Nat) (x : Guest) : (setGuest d g x).engDone = d.engDone := rfl
@[simp] theorem setGuest_cmem (d : Dev) (g : Nat) (x : Guest) : (setGuest d g x).cmem = d.cmem := rfl
@[simp] theorem setGuest_ctr (d : Dev) (g : Nat) (x : Guest) : (setGuest d g x).ctr = d.ctr := rfl
@[simp] theorem setGuest_strm (d : Dev) (g : Nat) (x : Guest) : (setGuest d g x).strm = d.strm := rfl
@[simp] theorem setGuest_turn (d : Dev) (g : Nat) (x : Guest) : (setGuest d g x).turn = d.turn := rfl
@[simp] theorem setGuest_handoff (d : Dev) (g : Nat) (x : Guest) : (setGuest d g x).handoff = d.handoff := rfl
@[simp] theorem setGuest_coh (d : Dev) (g : Nat) (x : Guest) : (setGuest d g x).coh = d.coh := rfl
@[simp] theorem setGuest_fei (d : Dev) (g : Nat) (x : Guest) : (setGuest d g x).fei = d.fei := rfl
@[simp] theorem setGuest_mapAcks (d : Dev) (g : Nat) (x : Guest) : (setGuest d g x).mapAcks = d.mapAcks := rfl
@[simp] theorem setGuest_le (d : Dev) (g : Nat) (x : Guest) : (setGuest d g x).le = d.le := rfl
@[simp] theorem setGuest_lq (d : Dev) (g : Nat) (x : Guest) : (setGuest d g x).lq = d.lq := rfl
@[simp] theorem setGuest_fab (d : Dev) (g : Nat) (x : Guest) : (setGuest d g x).fab = d.fab := rfl
@[simp] theorem setGuest_msix (d : Dev) (g : Nat) (x : Guest) : (setGuest d g x).msix = d.msix := rfl
@[simp] theorem setGuest_hdm (d : Dev) (g : Nat) (x : Guest) : (setGuest d g x).hdm = d.hdm := rfl
@[simp] theorem setGuest_i3cAddr (d : Dev) (g : Nat) (x : Guest) : (setGuest d g x).i3cAddr = d.i3cAddr := rfl
@[simp] theorem setGuest_tb (d : Dev) (g : Nat) (x : Guest) : (setGuest d g x).tb = d.tb := rfl
@[simp] theorem setGuest_pow (d : Dev) (g : Nat) (x : Guest) : (setGuest d g x).pow = d.pow := rfl
@[simp] theorem setGuest_fw (d : Dev) (g : Nat) (x : Guest) : (setGuest d g x).fw = d.fw := rfl
@[simp] theorem setGuest_flt (d : Dev) (g : Nat) (x : Guest) : (setGuest d g x).flt = d.flt := rfl
@[simp] theorem setGuest_store (d : Dev) (g : Nat) (x : Guest) : (setGuest d g x).store = d.store := rfl
@[simp] theorem setGuest_dbg (d : Dev) (g : Nat) (x : Guest) : (setGuest d g x).dbg = d.dbg := rfl

@[simp] theorem setFab_regs (d : Dev) (f : Fabric) : (setFab d f).regs = d.regs := rfl
@[simp] theorem setFab_poison (d : Dev) (f : Fabric) : (setFab d f).poison = d.poison := rfl
@[simp] theorem setFab_reports (d : Dev) (f : Fabric) : (setFab d f).reports = d.reports := rfl
@[simp] theorem setFab_out (d : Dev) (f : Fabric) : (setFab d f).out = d.out := rfl
@[simp] theorem setFab_freeCtr (d : Dev) (f : Fabric) : (setFab d f).freeCtr = d.freeCtr := rfl
@[simp] theorem setFab_wq (d : Dev) (f : Fabric) : (setFab d f).wq = d.wq := rfl
@[simp] theorem setFab_extIn (d : Dev) (f : Fabric) : (setFab d f).extIn = d.extIn := rfl
@[simp] theorem setFab_coppice (d : Dev) (f : Fabric) : (setFab d f).coppice = d.coppice := rfl
@[simp] theorem setFab_mxe (d : Dev) (f : Fabric) : (setFab d f).mxe = d.mxe := rfl
@[simp] theorem setFab_eng (d : Dev) (f : Fabric) : (setFab d f).eng = d.eng := rfl
@[simp] theorem setFab_engDone (d : Dev) (f : Fabric) : (setFab d f).engDone = d.engDone := rfl
@[simp] theorem setFab_cmem (d : Dev) (f : Fabric) : (setFab d f).cmem = d.cmem := rfl
@[simp] theorem setFab_ctr (d : Dev) (f : Fabric) : (setFab d f).ctr = d.ctr := rfl
@[simp] theorem setFab_strm (d : Dev) (f : Fabric) : (setFab d f).strm = d.strm := rfl
@[simp] theorem setFab_turn (d : Dev) (f : Fabric) : (setFab d f).turn = d.turn := rfl
@[simp] theorem setFab_handoff (d : Dev) (f : Fabric) : (setFab d f).handoff = d.handoff := rfl
@[simp] theorem setFab_coh (d : Dev) (f : Fabric) : (setFab d f).coh = d.coh := rfl
@[simp] theorem setFab_fei (d : Dev) (f : Fabric) : (setFab d f).fei = d.fei := rfl
@[simp] theorem setFab_guest (d : Dev) (f : Fabric) : (setFab d f).guest = d.guest := rfl
@[simp] theorem setFab_mapAcks (d : Dev) (f : Fabric) : (setFab d f).mapAcks = d.mapAcks := rfl
@[simp] theorem setFab_le (d : Dev) (f : Fabric) : (setFab d f).le = d.le := rfl
@[simp] theorem setFab_lq (d : Dev) (f : Fabric) : (setFab d f).lq = d.lq := rfl
@[simp] theorem setFab_msix (d : Dev) (f : Fabric) : (setFab d f).msix = d.msix := rfl
@[simp] theorem setFab_hdm (d : Dev) (f : Fabric) : (setFab d f).hdm = d.hdm := rfl
@[simp] theorem setFab_i3cAddr (d : Dev) (f : Fabric) : (setFab d f).i3cAddr = d.i3cAddr := rfl
@[simp] theorem setFab_tb (d : Dev) (f : Fabric) : (setFab d f).tb = d.tb := rfl
@[simp] theorem setFab_pow (d : Dev) (f : Fabric) : (setFab d f).pow = d.pow := rfl
@[simp] theorem setFab_fw (d : Dev) (f : Fabric) : (setFab d f).fw = d.fw := rfl
@[simp] theorem setFab_flt (d : Dev) (f : Fabric) : (setFab d f).flt = d.flt := rfl
@[simp] theorem setFab_store (d : Dev) (f : Fabric) : (setFab d f).store = d.store := rfl
@[simp] theorem setFab_dbg (d : Dev) (f : Fabric) : (setFab d f).dbg = d.dbg := rfl

/-! A device at rest -/

@[simp] theorem rest_regs (d : Dev) : d.rest.regs = d.regs := rfl
@[simp] theorem rest_poison (d : Dev) : d.rest.poison = d.poison := rfl
@[simp] theorem rest_reports (d : Dev) : d.rest.reports = d.reports := rfl
@[simp] theorem rest_out (d : Dev) : d.rest.out = d.out := rfl
@[simp] theorem rest_freeCtr (d : Dev) : d.rest.freeCtr = d.freeCtr := rfl
@[simp] theorem rest_coppice (d : Dev) : d.rest.coppice = d.coppice := rfl
@[simp] theorem rest_mxe (d : Dev) : d.rest.mxe = d.mxe := rfl
@[simp] theorem rest_eng (d : Dev) : d.rest.eng = d.eng := rfl
@[simp] theorem rest_engDone (d : Dev) : d.rest.engDone = d.engDone := rfl
@[simp] theorem rest_cmem (d : Dev) : d.rest.cmem = d.cmem := rfl
@[simp] theorem rest_ctr (d : Dev) : d.rest.ctr = d.ctr := rfl
@[simp] theorem rest_strm (d : Dev) : d.rest.strm = d.strm := rfl
@[simp] theorem rest_turn (d : Dev) : d.rest.turn = d.turn := rfl
@[simp] theorem rest_handoff (d : Dev) : d.rest.handoff = d.handoff := rfl
@[simp] theorem rest_coh (d : Dev) : d.rest.coh = d.coh := rfl
@[simp] theorem rest_fei (d : Dev) : d.rest.fei = d.fei := rfl
@[simp] theorem rest_guest (d : Dev) : d.rest.guest = d.guest := rfl
@[simp] theorem rest_mapAcks (d : Dev) : d.rest.mapAcks = d.mapAcks := rfl
@[simp] theorem rest_le (d : Dev) : d.rest.le = d.le := rfl
@[simp] theorem rest_lq (d : Dev) : d.rest.lq = d.lq := rfl
@[simp] theorem rest_fab (d : Dev) : d.rest.fab = d.fab := rfl
@[simp] theorem rest_msix (d : Dev) : d.rest.msix = d.msix := rfl
@[simp] theorem rest_hdm (d : Dev) : d.rest.hdm = d.hdm := rfl
@[simp] theorem rest_i3cAddr (d : Dev) : d.rest.i3cAddr = d.i3cAddr := rfl
@[simp] theorem rest_tb (d : Dev) : d.rest.tb = d.tb := rfl
@[simp] theorem rest_pow (d : Dev) : d.rest.pow = d.pow := rfl
@[simp] theorem rest_fw (d : Dev) : d.rest.fw = d.fw := rfl
@[simp] theorem rest_flt (d : Dev) : d.rest.flt = d.flt := rfl
@[simp] theorem rest_store (d : Dev) : d.rest.store = d.store := rfl
@[simp] theorem rest_dbg (d : Dev) : d.rest.dbg = d.dbg := rfl
@[simp] theorem rest_wq (d : Dev) : d.rest.wq = [] := rfl
@[simp] theorem rest_extIn (d : Dev) : d.rest.extIn = [] := rfl
@[simp] theorem rest_rest (d : Dev) : d.rest.rest = d.rest := rfl
@[simp] theorem rdReg_rest (d : Dev) (r : RegDesc) (ix : List Nat) : rdReg d.rest r ix = rdReg d r ix := rfl
@[simp] theorem fget_rest (d : Dev) (r : RegDesc) (ix : List Nat) (f : Fld) : fget d.rest r ix f = fget d r ix f := rfl
@[simp] theorem fbit_rest (d : Dev) (r : RegDesc) (ix : List Nat) (f : Fld) : fbit d.rest r ix f = fbit d r ix f := rfl
@[simp] theorem applyChanges_nil (m : Memory) : applyChanges m [] = m := rfl

end Sys2Proof.Machine
end

