-- ==== Sys2Proof/Laws/Debug.lean ====
section
/-!
SUPPORT. The activity counters change only the instruments' hidden state.
-/
namespace Sys2Proof.Machine

/-- A change of the device that touches nothing but the instruments' hidden state. -/
def dbgOnly (d d' : Dev) : Prop := d' = { d with dbg := d'.dbg }

theorem dbgOnly_refl (d : Dev) : dbgOnly d d := rfl

theorem dbgOnly_trans {a b c : Dev} (h : dbgOnly a b) (k : dbgOnly b c) : dbgOnly a c := by
  unfold dbgOnly at *
  rw [k, h]

theorem dbgOnly_foldl {α : Type} (f : Dev → α → Dev) (h : ∀ d x, dbgOnly d (f d x)) (xs : List α) (d : Dev) :
    dbgOnly d (xs.foldl f d) := by
  induction xs generalizing d with
  | nil => rfl
  | cons x xs ih => exact dbgOnly_trans (h d x) (ih _)

theorem setAct_dbgOnly (d : Dev) (site e : Nat) (a : Act) : dbgOnly d (setAct d site e a) := rfl

theorem traceEv_dbgOnly (d : Dev) (u kind who stream arg : Nat) : dbgOnly d (traceEv d u kind who stream arg) := by
  unfold traceEv
  dsimp only
  split <;> split <;> rfl

theorem endStall_dbgOnly (d : Dev) (site e : Nat) : dbgOnly d (endStall d site e) := by
  unfold endStall
  dsimp only
  split
  · rfl
  · split
    · exact dbgOnly_trans (setAct_dbgOnly _ _ _ _) (traceEv_dbgOnly _ _ _ _ _ _)
    · rfl

theorem unitTick_dbgOnly (d : Dev) (site e : Nat) : dbgOnly d (unitTick d site e) := by
  unfold unitTick
  split
  · exact endStall_dbgOnly _ _ _
  · dsimp only
    generalize (if e = 12 then 8 else Config.unitPhase d.tb site e) = r
    split
    · exact dbgOnly_trans (endStall_dbgOnly _ _ _) (setAct_dbgOnly _ _ _ _)
    · refine dbgOnly_trans ?_ (setAct_dbgOnly _ _ _ _)
      split
      · split
        · rfl
        · exact endStall_dbgOnly _ _ _
      · rfl

/-- A nanosecond of the counters leaves everything but the instruments' hidden state as it was. -/
theorem countersTick_dbgOnly (d : Dev) : dbgOnly d (countersTick d) := by
  have h := dbgOnly_foldl (fun d i => if siteState d (i / 16) = 4 then d else unitTick d (i / 16) (i % 16))
    (fun d i => by
      split
      · rfl
      · exact unitTick_dbgOnly _ _ _) (liveUnits d) d
  unfold countersTick
  dsimp only
  exact dbgOnly_trans h rfl

end Sys2Proof.Machine
end

