-- ==== Sys2Proof/Laws/Sparse.lean ====
section
/-!
SUPPORT. What the operations on sparse tables do: reading after writing, and the canonical form that writing keeps.
-/
namespace Sys2Proof.Sparse

theorem find_put_same {α : Type} (m : Map α) (i : Nat) (v : α) : find (put m i v) i = some v := by
  induction m with
  | nil => simp [put, find]
  | cons e m ih =>
    obtain ⟨k, w⟩ := e
    simp only [put]
    split
    · rename_i h
      simp only [find, ih]
      rw [if_neg (by omega)]
    · split <;> simp [find]

theorem find_put_other {α : Type} (m : Map α) {i j : Nat} (v : α) (h : j ≠ i) :
    find (put m i v) j = find m j := by
  induction m with
  | nil => simp [put, find]; omega
  | cons e m ih =>
    obtain ⟨k, w⟩ := e
    simp only [put]
    split
    · simp [find, ih]
    · split
      · rename_i hk
        subst hk
        simp [find, Ne.symm h]
      · simp [find, Ne.symm h]

theorem find_del_same {α : Type} (m : Map α) (i : Nat) : find (del m i) i = none := by
  induction m with
  | nil => rfl
  | cons e m ih =>
    obtain ⟨k, w⟩ := e
    simp only [del]
    split
    · exact ih
    · simp [find, *]

theorem find_del_other {α : Type} (m : Map α) {i j : Nat} (h : j ≠ i) : find (del m i) j = find m j := by
  induction m with
  | nil => rfl
  | cons e m ih =>
    obtain ⟨k, w⟩ := e
    simp only [del]
    split
    · rename_i hk
      subst hk
      simp [find, Ne.symm h, ih]
    · simp [find, ih]

/-- A key reads as what was last written to it. -/
@[simp] theorem get_set_same {α : Type} [DecidableEq α] (x : α) (m : Map α) (i : Nat) (v : α) :
    get x (set x m i v) i = v := by
  unfold get set
  split
  · simp [find_del_same, *]
  · simp [find_put_same]

/-- Writing a key leaves every other key as it reads. -/
theorem get_set_other {α : Type} [DecidableEq α] (x y : α) (m : Map α) {i j : Nat} (v : α) (h : j ≠ i) :
    get y (set x m i v) j = get y m j := by
  unfold get set
  split
  · rw [find_del_other m h]
  · rw [find_put_other m v h]

theorem find_filter {α : Type} (m : Map α) (p : Nat → Bool) (i : Nat) :
    find (m.filter (fun e => p e.1)) i = if p i then find m i else none := by
  induction m with
  | nil => simp [find]
  | cons e m ih =>
    obtain ⟨k, w⟩ := e
    by_cases hk : k = i
    · subst hk
      cases hp : p k <;> simp [hp, find, ih]
    · cases hp : p k <;> simp [hp, find, ih, hk]

/-- A cleared range reads as the default, and every other key as before. -/
theorem get_clear {α : Type} (x : α) (m : Map α) (lo len i : Nat) :
    get x (clear m lo len) i = if lo ≤ i ∧ i < lo + len then x else get x m i := by
  unfold get clear
  rw [find_filter m (fun k => !(decide (lo ≤ k) && decide (k < lo + len))) i]
  by_cases h : lo ≤ i ∧ i < lo + len
  · simp [h.1, h.2]
  · rw [if_neg h]
    by_cases h1 : lo ≤ i
    · have h2 : ¬ i < lo + len := fun c => h ⟨h1, c⟩
      simp [h2]
    · simp [h1]

theorem rising_mono {α : Type} {b c : Nat} (m : Map α) (hb : c ≤ b) (h : rising b m = true) : rising c m = true := by
  cases m with
  | nil => rfl
  | cons e m =>
    obtain ⟨k, w⟩ := e
    simp only [rising, Bool.and_eq_true, decide_eq_true_eq] at h ⊢
    exact ⟨by omega, h.2⟩

theorem rising_put {α : Type} (m : Map α) {b i : Nat} (v : α) (hi : b ≤ i) (h : rising b m = true) :
    rising b (put m i v) = true := by
  induction m generalizing b with
  | nil => simp [put, rising, hi]
  | cons e m ih =>
    obtain ⟨k, w⟩ := e
    simp only [rising, Bool.and_eq_true, decide_eq_true_eq] at h
    simp only [put]
    split
    · simp only [rising, Bool.and_eq_true, decide_eq_true_eq]
      exact ⟨h.1, ih (by omega) h.2⟩
    · split
      · rename_i hk
        subst hk
        simp only [rising, Bool.and_eq_true, decide_eq_true_eq]
        exact h
      · simp only [rising, Bool.and_eq_true, decide_eq_true_eq]
        exact ⟨hi, by omega, h.2⟩

theorem rising_filter {α : Type} (m : Map α) (p : Nat × α → Bool) {b : Nat} (h : rising b m = true) :
    rising b (m.filter p) = true := by
  induction m generalizing b with
  | nil => rfl
  | cons e m ih =>
    obtain ⟨k, w⟩ := e
    simp only [rising, Bool.and_eq_true, decide_eq_true_eq] at h
    rw [List.filter_cons]
    split
    · simp only [rising, Bool.and_eq_true, decide_eq_true_eq]
      exact ⟨h.1, ih h.2⟩
    · exact rising_mono _ (by omega) (ih h.2)

theorem rising_del {α : Type} (m : Map α) (i : Nat) {b : Nat} (h : rising b m = true) : rising b (del m i) = true := by
  induction m generalizing b with
  | nil => rfl
  | cons e m ih =>
    obtain ⟨k, w⟩ := e
    simp only [rising, Bool.and_eq_true, decide_eq_true_eq] at h
    simp only [del]
    split
    · exact rising_mono _ (by omega) (ih h.2)
    · simp only [rising, Bool.and_eq_true, decide_eq_true_eq]
      exact ⟨h.1, ih h.2⟩

theorem all_put {α : Type} (m : Map α) (i : Nat) (v : α) (p : α → Bool) (hv : p v = true)
    (h : m.all (fun e => p e.2) = true) : (put m i v).all (fun e => p e.2) = true := by
  induction m with
  | nil => simp [put, hv]
  | cons e m ih =>
    obtain ⟨k, w⟩ := e
    simp only [List.all_cons, Bool.and_eq_true] at h
    simp only [put]
    split
    · simp [h.1, ih h.2]
    · split <;> simp [hv, h.1, h.2]

theorem all_del {α : Type} (m : Map α) (i : Nat) (p : α → Bool)
    (h : m.all (fun e => p e.2) = true) : (del m i).all (fun e => p e.2) = true := by
  induction m with
  | nil => rfl
  | cons e m ih =>
    obtain ⟨k, w⟩ := e
    simp only [List.all_cons, Bool.and_eq_true] at h
    simp only [del]
    split
    · exact ih h.2
    · simp [h.1, ih h.2]

/-- Writing keeps the canonical form. -/
theorem wf_set {α : Type} [DecidableEq α] (x : α) (m : Map α) (i : Nat) (v : α) (h : wf x m = true) :
    wf x (set x m i v) = true := by
  simp only [wf, Bool.and_eq_true] at h ⊢
  unfold set
  split
  · exact ⟨rising_del m i h.1, all_del m i (fun a => decide (a ≠ x)) h.2⟩
  · rename_i hv
    exact ⟨rising_put m v (Nat.zero_le i) h.1, all_put m i v (fun a => decide (a ≠ x)) (by simp [hv]) h.2⟩

/-- Clearing a range keeps the canonical form. -/
theorem wf_clear {α : Type} [DecidableEq α] (x : α) (m : Map α) (lo len : Nat) (h : wf x m = true) :
    wf x (clear m lo len) = true := by
  simp only [wf, Bool.and_eq_true] at h ⊢
  refine ⟨rising_filter m _ h.1, ?_⟩
  rw [List.all_eq_true] at *
  intro e he
  exact h.2 e (List.mem_filter.mp he).1

end Sys2Proof.Sparse
end

