-- ==== Sys2Proof/Laws/Memory.lean ====
section
/-!
SUPPORT. The memory changes of a command: what they make of each byte, and the canonical form that they keep.
-/
namespace Sys2Proof.Machine

theorem applyChanges_append (m : Memory) (a b : List MemChange) :
    applyChanges m (a ++ b) = applyChanges (applyChanges m a) b := by
  induction a generalizing m with
  | nil => rfl
  | cons c a ih => cases c <;> exact ih _

/-- Every memory change keeps the canonical form. -/
theorem applyChanges_wf (cs : List MemChange) (m : Memory) (h : m.wf = true) : (applyChanges m cs).wf = true := by
  induction cs generalizing m with
  | nil => exact h
  | cons c cs ih =>
    cases c with
    | put k b => exact ih _ (Sparse.wf_set memDefault m k b h)
    | clear lo len => exact ih _ (Sparse.wf_clear memDefault m lo len h)

/-- A byte after a command's changes is what the last of them made of it, or what it was. -/
theorem get_applyChanges (m : Memory) (cs : List MemChange) (i : Nat) :
    Sparse.get memDefault (applyChanges m cs.reverse) i = (changeAt cs i).getD (Sparse.get memDefault m i) := by
  induction cs with
  | nil => rfl
  | cons c cs ih =>
    rw [List.reverse_cons, applyChanges_append]
    cases c with
    | put k b =>
      simp only [applyChanges, changeAt]
      by_cases hk : k = i
      · subst hk
        simp
      · rw [Sparse.get_set_other _ _ _ _ (Ne.symm hk), ih, if_neg hk]
    | clear lo len =>
      simp only [applyChanges, changeAt]
      rw [Sparse.get_clear, ih]
      split <;> rfl

end Sys2Proof.Machine
end

