-- ==== Sys2Proof/Laws/PkgMem.lean ====
section
/-!
SUPPORT. What an access to memory may change: registers, reports, what leaves the device, memory changes, poison marks,
free values taken, operand bytes and copies of lines; nothing else.
-/
namespace Sys2Proof.Machine

/-- Two devices differ only in what an access to memory may change. -/
def memOnly (d d' : Dev) : Prop :=
  d' = { d with regs := d'.regs, reports := d'.reports, out := d'.out, wq := d'.wq, poison := d'.poison,
                freeCtr := d'.freeCtr, extIn := d'.extIn, coh := d'.coh }

theorem memOnly_refl (d : Dev) : memOnly d d := rfl

theorem memOnly_trans {a b c : Dev} (h : memOnly a b) (k : memOnly b c) : memOnly a c := by
  unfold memOnly at *; rw [k, h]

theorem memOnly_foldl {α : Type} (f : Dev → α → Dev) (h : ∀ d x, memOnly d (f d x)) (xs : List α) (d : Dev) :
    memOnly d (xs.foldl f d) := by
  induction xs generalizing d with
  | nil => rfl
  | cons x xs ih => exact memOnly_trans (h d x) (ih _)

theorem wrBytes_memOnly (ks : List Nat) (bs : List Byte) (d : Dev) : memOnly d (wrBytes d ks bs) := by
  induction ks generalizing bs d with
  | nil => rfl
  | cons k ks ih =>
    cases bs with
    | nil => rfl
    | cons b bs => exact memOnly_trans (b := wrByte d k b) rfl (ih bs _)

theorem wrEnabled_memOnly (ks : List Nat) (bs : List Byte) (en : List Bool) (d : Dev) : memOnly d (wrEnabled d ks bs en) := by
  induction ks generalizing bs en d with
  | nil => rfl
  | cons k ks ih =>
    cases bs with
    | nil => rfl
    | cons b bs =>
      cases en with
      | nil => rfl
      | cons e en =>
        unfold wrEnabled
        refine memOnly_trans ?_ (ih bs en _)
        split <;> rfl

theorem freeBytes_memOnly (n : Nat) (d : Dev) : memOnly d (freeBytes n d).2 := by
  induction n generalizing d with
  | zero => rfl
  | succ n ih => exact memOnly_trans (b := (takeFree d 8).2) rfl (ih _)

theorem wakeBanks_memOnly (d : Dev) (site : Nat) (bs : List Nat) : memOnly d (wakeBanks d site bs) := by
  unfold wakeBanks
  refine memOnly_foldl _ (fun d b => ?_) bs d
  split <;> rfl

theorem wrCells_memOnly (d : Dev) (rmw : Bool) (ks : List Nat) (bs : List Byte) (en : List Bool) :
    memOnly d (wrCells d rmw ks bs en).2 := by
  unfold wrCells
  dsimp only
  split
  · exact wrEnabled_memOnly ..
  · refine memOnly_trans (wrEnabled_memOnly ..) (memOnly_foldl _ (fun d k => ?_) _ _)
    split <;> rfl

theorem rdLocal_memOnly (e : Env) (d : Dev) (site a len : Nat) : memOnly d (rdLocal e d site a len).2 := by
  unfold rdLocal
  dsimp only
  split
  · exact wakeBanks_memOnly ..
  · split <;> rfl

theorem wrLocal_memOnly (d : Dev) (site a : Nat) (bs : List Byte) : memOnly d (wrLocal d site a bs).2 := by
  unfold wrLocal
  dsimp only
  split
  · refine memOnly_trans (wakeBanks_memOnly d site (banksOf (localKeys d site a bs.length))) ?_
    exact wrCells_memOnly _ false (localKeys d site a bs.length) bs (allEnabled bs.length)
  · split <;> rfl

theorem undefRanges_memOnly (d : Dev) (site : Nat) (rs : List (Nat × Nat)) : memOnly d (undefRanges d site rs) := by
  refine memOnly_foldl _ (fun d r => memOnly_foldl _ (fun d k => ?_) _ d) rs d
  split <;> rfl

theorem refuseNote_memOnly (d : Dev) (r : Requester) (er : MemErr) (a : Nat) : memOnly d (refuseNote d r er a) := by
  unfold refuseNote
  dsimp only
  split <;> try rfl
  split <;> rfl

theorem setASt_memOnly (d : Dev) (a line : Nat) (st : AState) : memOnly d (setASt d a line st) := rfl

theorem writeHome_memOnly (d : Dev) (line : Nat) (bs : List Byte) : memOnly d (writeHome d line bs) :=
  memOnly_trans (wrBytes_memOnly (lineKeys d line) bs d) rfl

theorem dirDrop_memOnly (d : Dev) (line a : Nat) : memOnly d (dirDrop d line a) := by
  unfold dirDrop
  split
  · rfl
  · dsimp only
    split
    · split <;> rfl
    · rfl

theorem halfData_memOnly (d : Dev) (l : ALine) (h : Nat) : memOnly d (halfData d l h).2.2 := by
  have free : memOnly d (if (takeFree d 1).1 = 1 then (true, freeBytes 64 (takeFree d 1).2)
      else (false, slice l.data (64 * h) 64, (takeFree d 1).2)).2.2 := by
    split
    · exact memOnly_trans (b := (takeFree d 1).2) rfl (freeBytes_memOnly ..)
    · rfl
  unfold halfData
  dsimp only
  by_cases hc : (if h = 0 then l.half0 else l.half1) = 2
  · rw [if_pos hc]; exact free
  · rw [if_neg hc]; rfl

theorem ownerData_memOnly (d : Dev) (l : ALine) : memOnly d (ownerData d l).2 := by
  unfold ownerData
  split
  · exact memOnly_trans (halfData_memOnly d l 0) (halfData_memOnly _ l 1)
  · split
    · exact freeBytes_memOnly ..
    · dsimp only
      split
      · exact memOnly_trans (b := (takeFree d 1).2) rfl (freeBytes_memOnly ..)
      · rfl
    · rfl

theorem recallLine_memOnly (d : Dev) (line mode : Nat) : memOnly d (recallLine d line mode).2 := by
  unfold recallLine
  split
  · rfl
  · dsimp only
    split
    · split
      · split
        · exact memOnly_trans (writeHome_memOnly ..) rfl
        · rfl
      · rfl
      · rfl
      · rfl
      · rename_i en _ _ _ _ _ _ _
        have h := ownerData_memOnly d (aLine d en.who line)
        generalize ownerData d (aLine d en.who line) = x at h ⊢
        obtain ⟨o, d1⟩ := x
        dsimp only at h ⊢
        have h1 : memOnly d (emit d1 (.coh en.who (7 + mode) line [])) := memOnly_trans h rfl
        have h2 : memOnly d (match o with
            | some bs => writeHome (emit d1 (.coh en.who (7 + mode) line [])) line bs
            | none => emit d1 (.coh en.who (7 + mode) line [])) := by
          split
          · exact memOnly_trans h1 (writeHome_memOnly ..)
          · exact h1
        split
        · exact h1
        · split
          · split
            · exact memOnly_trans h2 rfl
            · refine memOnly_trans (memOnly_trans h2 (setASt_memOnly _ en.who line .s)) ?_
              cases o with
              | none => rfl
              | some bs => dsimp only; split <;> rfl
          · exact memOnly_trans h2 rfl
    · split
      · rfl
      · refine memOnly_foldl _ (fun d a => ?_) _ d
        split
        · rfl
        · rfl
        · rfl
        · refine memOnly_trans ?_ (dirDrop_memOnly ..)
          split <;> rfl

theorem recallRange_memOnly (d : Dev) (a len mode : Nat) : memOnly d (recallRange d a len mode) := by
  unfold recallRange
  split
  · rfl
  · exact memOnly_foldl _ (fun d l => recallLine_memOnly d l mode) _ d

theorem readCur_memOnly (e : Env) (d : Dev) (a len : Nat) : memOnly d (readCur e d a len).2 := by
  unfold readCur
  dsimp only
  split
  · split <;> rfl
  · have h : ∀ (ls : List Nat) (x : List (Nat × List Byte) × Dev), memOnly x.2 (ls.foldl (fun x l =>
        match (recallLine x.2 l 0).1 with
        | some bs => (x.1 ++ [(l, bs)], (recallLine x.2 l 0).2)
        | none => (x.1, (recallLine x.2 l 0).2)) x).2 := by
      intro ls
      induction ls with
      | nil => exact fun x => rfl
      | cons l ls ih =>
        intro x
        refine memOnly_trans (recallLine_memOnly x.2 l 0) ?_
        rw [List.foldl_cons]
        refine memOnly_trans ?_ (ih _)
        split <;> rfl
    split <;> exact h (linesOf a len) ([], d)

theorem takeExt_memOnly (d : Dev) (n : Nat) : memOnly d (takeExt d n).2 := by
  unfold takeExt; split <;> rfl

theorem pkgRead_memOnly (e : Env) (d : Dev) (r : Requester) (a len : Nat) : memOnly d (pkgRead e d r a len).2 := by
  have hx := takeExt_memOnly d len
  unfold pkgRead
  split
  · exact refuseNote_memOnly d r _ a
  · split
    · split
      · dsimp only
        split <;> exact recallRange_memOnly ..
      · exact readCur_memOnly ..
    · split
      · dsimp only
        split
        · exact refuseNote_memOnly d r .noTarget _
        · split
          · rfl
          · exact wakeBanks_memOnly ..
      · exact refuseNote_memOnly d r .noTarget _
    · split <;> (rename_i h; rw [h] at hx; exact hx)
    · split <;> (rename_i h; rw [h] at hx; exact hx)
    · exact refuseNote_memOnly d r .noTarget _

theorem hbmWrite_memOnly (d : Dev) (ks : List Nat) (bs : List Byte) (en : List Bool) :
    memOnly d (hbmWrite d ks bs en).2 := by
  unfold hbmWrite
  dsimp only
  split
  · rfl
  · refine memOnly_trans (wrEnabled_memOnly ..) (memOnly_foldl _ (fun d k => ?_) _ _)
    split <;> rfl

theorem pkgWrite_memOnly (e : Env) (d : Dev) (r : Requester) (a : Nat) (bs : List Byte) (en : List Bool) :
    memOnly d (pkgWrite e d r a bs en).2 := by
  unfold pkgWrite
  split
  · exact refuseNote_memOnly d r _ a
  · split
    · dsimp only
      split
      · exact memOnly_trans (recallRange_memOnly d a bs.length 2) (hbmWrite_memOnly ..)
      · exact recallRange_memOnly ..
    · split
      · dsimp only
        split
        · exact refuseNote_memOnly d r .noTarget _
        · rename_i site view mbx o _ _ _
          exact memOnly_trans (wakeBanks_memOnly d site _) (wrCells_memOnly ..)
      · exact refuseNote_memOnly d r .noTarget _
    · rfl
    · rfl
    · exact refuseNote_memOnly d r .noTarget _

theorem pkgAtomic_memOnly (e : Env) (d : Dev) (r : Requester) (a : Nat) (op : MemOp) :
    memOnly d (pkgAtomic e d r a op).2 := by
  unfold pkgAtomic
  dsimp only
  split
  · exact refuseNote_memOnly d r _ a
  · split
    · split
      · exact refuseNote_memOnly d r .noTarget _
      · split
        · exact recallRange_memOnly ..
        · exact memOnly_trans (recallRange_memOnly d a _ 2) (wrBytes_memOnly ..)
    · split
      · split
        · exact refuseNote_memOnly d r .noTarget _
        · split
          · rfl
          · exact memOnly_trans (wakeBanks_memOnly d _ _) (wrBytes_memOnly ..)
      · exact refuseNote_memOnly d r .noTarget _
    · exact refuseNote_memOnly d r .noTarget _

end Sys2Proof.Machine
end

