-- ==== Sys2Proof/Laws/Engines.lean ====
section
/-!
SUPPORT. What the engines' shared operations leave alone: reads change registers and reports alone, and local writes change
bytes of the named ranges.
-/
namespace Sys2Proof.Machine

/-- Two devices differ in registers and reports alone. -/
def eventOnly (d d' : Dev) : Prop := d' = { d with regs := d'.regs, reports := d'.reports }

theorem eventOnly_refl (d : Dev) : eventOnly d d := rfl

theorem eventOnly_trans {a b c : Dev} (h : eventOnly a b) (k : eventOnly b c) : eventOnly a c := by
  unfold eventOnly at *; rw [k, h]

theorem eventOnly_foldl {α : Type} (f : Dev → α → Dev) (h : ∀ d x, eventOnly d (f d x)) (xs : List α) (d : Dev) :
    eventOnly d (xs.foldl f d) := by
  induction xs generalizing d with
  | nil => rfl
  | cons x xs ih => exact eventOnly_trans (h d x) (ih _)

theorem fset_eventOnly (d : Dev) (r : RegDesc) (ix : List Nat) (f : Fld) (v : Nat) : eventOnly d (fset d r ix f v) := rfl

theorem report_eventOnly (d : Dev) (r : Report) : eventOnly d (report d r) := rfl

theorem wakeBanks_eventOnly (d : Dev) (site : Nat) (bs : List Nat) : eventOnly d (wakeBanks d site bs) := by
  unfold wakeBanks
  refine eventOnly_foldl _ (fun d b => ?_) bs d
  split <;> rfl

theorem wakeRanges_eventOnly (d : Dev) (site : Nat) (rs : List (Nat × Nat)) : eventOnly d (wakeRanges d site rs) :=
  eventOnly_foldl _ (fun d _ => wakeBanks_eventOnly d site _) rs d

theorem rdLocal_eventOnly (e : Env) (d : Dev) (site a len : Nat) : eventOnly d (rdLocal e d site a len).2 := by
  unfold rdLocal
  dsimp only
  split
  · exact wakeBanks_eventOnly ..
  · split <;> rfl

theorem noteReject_eventOnly (d : Dev) (r : RegDesc) (ix : List Nat) (v c st : Fld) (x y : Nat) :
    eventOnly d (noteReject d r ix v c st x y) := by
  unfold noteReject; split <;> rfl

theorem engCheck_eventOnly (e : Env) (d : Dev) (site u : Nat) (job : Job) :
    eventOnly d (engCheck e d site u job).2.2 := by
  unfold engCheck
  split
  · rfl
  split
  · unfold vxeCheck; dsimp only
    split
    · rfl
    split
    · rfl
    have h := rdLocal_eventOnly e d site (vDesc job.bytes).expr 256
    split <;> (rename_i hq; rw [hq] at h; exact h)
  split
  · rfl
  split
  · unfold topCheck; dsimp only
    split
    · rfl
    split
    · rfl
    have h := rdLocal_eventOnly e d site (topDesc job.bytes).src 64
    unfold readRecord
    split
    · rename_i hq; rw [hq] at h; exact h
    · rename_i hq; rw [hq] at h
      rename_i d1
      have h2 := rdLocal_eventOnly e d1 site (topDesc job.bytes).dst 64
      split <;> (rename_i hr; rw [hr] at h2; exact eventOnly_trans h h2)
  split
  · unfold gdeCheck; dsimp only
    split
    · rfl
    split
    · rfl
    split
    · rfl
    have h := rdLocal_eventOnly e d site (gdeDesc job.bytes).table 64
    unfold readRecord
    split <;> (rename_i hq; rw [hq] at h; exact h)
  split
  · unfold cpeCheck; dsimp only
    split
    · rfl
    split
    · rfl
    have h := rdLocal_eventOnly e d site (cpeDesc job.bytes).src 64
    unfold readRecord
    split
    · rename_i hq; rw [hq] at h; exact h
    · rename_i hq; rw [hq] at h
      rename_i d1
      have h2 := rdLocal_eventOnly e d1 site (cpeDesc job.bytes).dst 64
      split <;> (rename_i hr; rw [hr] at h2; exact eventOnly_trans h h2)
  split <;> rfl

theorem memOnly.getEng {d d' : Dev} (h : memOnly d d') (site u : Nat) : getEng d' site u = Machine.getEng d site u := by
  unfold memOnly at h; rw [h]; rfl

theorem memOnly.engActive {d d' : Dev} (h : memOnly d d') (site u : Nat) :
    engActive d' site u = Machine.engActive d site u := by
  unfold Machine.engActive; rw [h.getEng]

theorem memOnly.engDone {d d' : Dev} (h : memOnly d d') : d'.engDone = d.engDone := by
  unfold memOnly at h; rw [h]

theorem eventOnly.memOnly {d d' : Dev} (h : eventOnly d d') : memOnly d d' := by
  unfold eventOnly at h; rw [h]; rfl

theorem wrRanges_memOnly (site : Nat) (ws : List (Nat × List Byte)) (d : Dev) : memOnly d (wrRanges d site ws).2 := by
  induction ws generalizing d with
  | nil => rfl
  | cons w ws ih =>
    obtain ⟨a, b⟩ := w
    unfold wrRanges
    dsimp only
    split
    · exact memOnly_trans (wrLocal_memOnly ..) (ih _)
    · exact wrLocal_memOnly ..

theorem noteLocal_memOnly (d : Dev) (site st a : Nat) : memOnly d (noteLocal d site st a) := by
  unfold noteLocal; split <;> rfl

theorem freeWhere_memOnly (rs : List (Nat × Nat)) (bs : List Byte) (a : Nat) (d : Dev) :
    memOnly d (freeWhere rs a bs d).2 := by
  induction bs generalizing a d with
  | nil => rfl
  | cons b bs ih =>
    unfold freeWhere
    dsimp only
    refine memOnly_trans ?_ (ih _ _)
    split <;> rfl

theorem freeWrites_memOnly (rs : List (Nat × Nat)) (ws : List (Nat × List Byte)) (d : Dev) :
    memOnly d (freeWrites rs ws d).2 := by
  induction ws generalizing d with
  | nil => rfl
  | cons w ws ih =>
    unfold freeWrites
    exact memOnly_trans (freeWhere_memOnly ..) (ih _)

theorem freed_memOnly (d : Dev) (rs : List (Nat × Nat)) (ws : List (Nat × List Byte)) : memOnly d (freed d rs ws).2 := by
  unfold freed
  split
  · exact freeWrites_memOnly ..
  · rfl

theorem pkgReadAll_memOnly (e : Env) (r : Requester) (ps : List (Nat × Nat)) (d : Dev) :
    memOnly d (pkgReadAll e r ps d).2 := by
  induction ps generalizing d with
  | nil => rfl
  | cons p ps ih =>
    unfold pkgReadAll
    have h := pkgRead_memOnly e d r p.1 p.2
    split <;> rename_i hq <;> rw [hq] at h
    · exact h
    · rename_i d1
      have h2 := memOnly_trans h (ih d1)
      split <;> rename_i hr <;> rw [hr] at h2 <;> exact h2

theorem pkgWriteAll_memOnly (e : Env) (r : Requester) (ps : List (Nat × Nat)) (bs : List Byte) (d : Dev) :
    memOnly d (pkgWriteAll e r ps bs d).2 := by
  induction ps generalizing bs d with
  | nil => rfl
  | cons p ps ih =>
    unfold pkgWriteAll
    have h := pkgWrite_memOnly e d r p.1 (bs.take p.2) (allEnabled p.2)
    split <;> rename_i hq <;> rw [hq] at h
    · exact h
    · exact memOnly_trans h (ih _ _)

theorem dmeRead_memOnly (e : Env) (d : Dev) (site : Nat) (r : Requester) (l : Bool) (a len : Nat) :
    memOnly d (dmeRead e d site r l a len).2 := by
  unfold dmeRead
  split
  · exact rdLocal_memOnly ..
  · exact pkgReadAll_memOnly ..

theorem dmeWrite_memOnly (e : Env) (d : Dev) (site : Nat) (r : Requester) (l : Bool) (a : Nat) (bs : List Byte) :
    memOnly d (dmeWrite e d site r l a bs).2 := by
  unfold dmeWrite
  split
  · exact wrLocal_memOnly ..
  · exact pkgWriteAll_memOnly ..

theorem dmeFree_memOnly (x : DDesc) (bs : List Byte) (a : Nat) (d : Dev) : memOnly d (dmeFree x a bs d).2 := by
  induction bs generalizing a d with
  | nil => rfl
  | cons b bs ih =>
    unfold dmeFree
    dsimp only
    refine memOnly_trans ?_ (ih _ _)
    split <;> rfl

theorem dmeRows_memOnly (e : Env) (site : Nat) (r : Requester) (x : DDesc) (is : List Nat) (d : Dev) :
    memOnly d (dmeRows e site r x is d).2 := by
  induction is generalizing d with
  | nil => rfl
  | cons i is ih =>
    unfold dmeRows
    dsimp only
    have h : memOnly d (if x.op = 1 then (Except.ok ((List.range x.rowBytes).map (fun n => x.pattern.getD (n % 8) 0)), d)
        else dmeRead e d site r x.srcLocal (rowAt x.src x.srcPitch i).toNat x.rowBytes).2 := by
      split
      · rfl
      · exact dmeRead_memOnly ..
    split <;> rename_i hq <;> rw [hq] at h
    · exact h
    · rename_i bs d1
      have hf : memOnly d (if x.op = 0 then dmeFree x (rowAt x.dst x.dstPitch i).toNat bs d1 else (bs, d1)).2 := by
        split
        · exact memOnly_trans h (dmeFree_memOnly ..)
        · exact h
      generalize (if x.op = 0 then dmeFree x (rowAt x.dst x.dstPitch i).toNat bs d1 else (bs, d1)) = f at hf ⊢
      split
      · exact memOnly_trans (memOnly_trans hf (dmeWrite_memOnly ..)) (ih _)
      · exact memOnly_trans hf (dmeWrite_memOnly ..)

theorem dmeUndef_memOnly (e : Env) (site : Nat) (r : Requester) (x : DDesc) (is : List Nat) (d : Dev) :
    memOnly d (dmeUndef e site r x is d) := by
  induction is generalizing d with
  | nil => rfl
  | cons i is ih =>
    unfold dmeUndef
    dsimp only
    refine memOnly_trans ?_ (ih _)
    split
    · exact undefRanges_memOnly ..
    · exact memOnly_trans (freeBytes_memOnly ..) (pkgWriteAll_memOnly ..)

/-- The end of an active descriptor: the staged one takes its slot, its result is reported (R113, R194). -/
theorem engEnd_spec {d : Dev} {site u status detail : Nat} {f : XFlags} {j : EJob} (h : engActive d site u = some j) :
    getEng (engEnd d site u status f detail) site u = { active := (getEng d site u).staged, staged := none } ∧
    (engEnd d site u status f detail).engDone = d.engDone ++ [⟨j.job.stream, j.job.seq, status, f, detail⟩] ∧
    (engEnd d site u status f detail).wq = d.wq ∧ (engEnd d site u status f detail).regs = d.regs := by
  unfold engActive at h
  unfold engEnd
  simp only [h]
  refine ⟨?_, rfl, rfl, rfl⟩
  unfold engReport getEng setEng
  simp

@[simp] theorem getEng_setEng (d : Dev) (site u : Nat) (x : EngSlots) : getEng (setEng d site u x) site u = x := by
  unfold getEng setEng; simp

/-! ### Bytes outside the named ranges -/

/-- Memory changes that put bytes at the listed keys alone. -/
def putsAt (cs : List MemChange) (ok : Nat → Prop) : Prop := ∀ c ∈ cs, ∃ k b, c = .put k b ∧ ok k

theorem changeAt_putsAt (cs : List MemChange) (ok : Nat → Prop) (i : Nat) (h : putsAt cs ok) (hi : ¬ ok i) :
    changeAt cs i = none := by
  induction cs with
  | nil => rfl
  | cons c cs ih =>
    obtain ⟨k, b, rfl, hk⟩ := h c (List.mem_cons_self ..)
    unfold changeAt
    rw [if_neg (by rintro rfl; exact hi hk)]
    exact ih (fun c hc => h c (List.mem_cons_of_mem _ hc))

theorem localKeys_congr {d d' : Dev} (h : d'.regs = d.regs) (site a n : Nat) :
    localKeys d' site a n = localKeys d site a n := by
  unfold localKeys localKey mapLinear fbit fget rdReg; rw [h]

/-- A device after changes of the listed bytes alone: its registers are as they were. -/
def bytesAt (d d' : Dev) (ok : Nat → Prop) : Prop := d'.regs = d.regs ∧ ∃ cs, d'.wq = cs ++ d.wq ∧ putsAt cs ok

theorem bytesAt_refl (d : Dev) (ok : Nat → Prop) : bytesAt d d ok := ⟨rfl, [], rfl, fun _ h => nomatch h⟩

theorem bytesAt_trans {a b c : Dev} {ok : Nat → Prop} (h : bytesAt a b ok) (k : bytesAt b c ok) : bytesAt a c ok := by
  obtain ⟨h1, xs, h2, h3⟩ := h
  obtain ⟨k1, ys, k2, k3⟩ := k
  refine ⟨k1.trans h1, ys ++ xs, by rw [k2, h2, List.append_assoc], fun c hc => ?_⟩
  rcases List.mem_append.mp hc with hc | hc
  · exact k3 c hc
  · exact h3 c hc

/-- What becomes undefined lies in the named ranges (R109, Table 4.1, R201). -/
theorem undefRanges_bytesAt (site : Nat) (rs : List (Nat × Nat)) (d : Dev) :
    bytesAt d (undefRanges d site rs) (fun k => ∃ r ∈ rs, k ∈ localKeys d site r.1 r.2) := by
  have inner : ∀ (ks : List Nat) (d : Dev) (ok : Nat → Prop), (∀ k ∈ ks, ok k) →
      bytesAt d (ks.foldl (fun d k => if bankRefuses d site (bankOfKey k) then d
        else let x := takeFree d 8; wrByte x.2 k (BitVec.ofNat 8 x.1)) d) ok := by
    intro ks
    induction ks with
    | nil => exact fun d ok _ => bytesAt_refl d ok
    | cons k ks ih =>
      intro d ok h
      refine bytesAt_trans ?_ (ih _ ok (fun k hk => h k (List.mem_cons_of_mem _ hk)))
      dsimp only
      split
      · exact bytesAt_refl d ok
      · exact ⟨rfl, [_], rfl, fun c hc => ⟨k, _, List.mem_singleton.mp hc, h k (List.mem_cons_self ..)⟩⟩
  have outer : ∀ (l : List (Nat × Nat)) (d' : Dev), (∀ r ∈ l, r ∈ rs) → d'.regs = d.regs →
      bytesAt d' (undefRanges d' site l) (fun k => ∃ r ∈ rs, k ∈ localKeys d site r.1 r.2) := by
    intro l
    induction l with
    | nil => exact fun d' _ _ => bytesAt_refl d' _
    | cons r l ih =>
      intro d' h hr
      have h1 := inner (localKeys d' site r.1 r.2) d' (fun k => ∃ r ∈ rs, k ∈ localKeys d site r.1 r.2)
        (fun k hk => ⟨r, h r (List.mem_cons_self ..), by rw [← localKeys_congr hr]; exact hk⟩)
      exact bytesAt_trans h1 (ih _ (fun q hq => h q (List.mem_cons_of_mem _ hq)) (h1.1.trans hr))
  exact outer rs d (fun _ h => h) rfl

end Sys2Proof.Machine
end

