-- ==== Sys2Proof/Laws/Ops.lean ====
section
/-!
SUPPORT. What the shared operations of Machine/Ops.lean do, each said once: registers and fields, memory bytes as a
running command sees them, poison marks.
-/
namespace Sys2Proof.Machine

/-- A register instance reads as what was last written to it. -/
@[simp] theorem rdReg_wrReg_same (d : Dev) (r : RegDesc) (ix : List Nat) (w : Word) :
    rdReg (wrReg d r ix w) r ix = w := Sparse.get_set_same _ _ _ _

/-- Writing a register instance leaves every other key as it reads. -/
theorem rdReg_wrReg_other (d : Dev) (r q : RegDesc) (ix jx : List Nat) (w : Word) (h : q.key jx ≠ r.key ix) :
    rdReg (wrReg d r ix w) q jx = rdReg d q jx := Sparse.get_set_other _ _ _ _ h

/-- The mask of a field, bit by bit. -/
theorem Fld.mask_testBit (f : Fld) (h : f.lo ≤ f.hi) (i : Nat) :
    f.mask.testBit i = (decide (f.lo ≤ i) && decide (i ≤ f.hi)) := by
  unfold Fld.mask
  rw [Nat.testBit_mul_two_pow, Nat.testBit_two_pow_sub_one]
  by_cases h1 : f.lo ≤ i <;> by_cases h2 : i ≤ f.hi <;> simp [h1, h2] <;> omega

/-- A word with a field replaced, bit by bit. -/
theorem Fld.put_getLsbD (f : Fld) (w : Word) (v : Nat) (h : f.lo ≤ f.hi) (i : Nat) (hi : i < 32) :
    (f.put w v).getLsbD i = if f.lo ≤ i ∧ i ≤ f.hi then v.testBit (i - f.lo) else w.getLsbD i := by
  unfold Fld.put
  simp only [BitVec.getLsbD_or, BitVec.getLsbD_and, BitVec.getLsbD_not, BitVec.getLsbD_ofNat, hi, decide_true,
    Bool.true_and, Fld.mask_testBit f h, Nat.testBit_mul_two_pow, Nat.testBit_mod_two_pow]
  by_cases h1 : f.lo ≤ i <;> by_cases h2 : i ≤ f.hi <;> simp [h1, h2] <;> omega

/-- A field, bit by bit. -/
theorem Fld.get_testBit (f : Fld) (w : Word) (i : Nat) :
    (f.get w).testBit i = (decide (i < f.hi + 1 - f.lo) && w.getLsbD (f.lo + i)) := by
  unfold Fld.get bits
  rw [Nat.testBit_mod_two_pow, Nat.testBit_shiftRight]
  rfl

/-- A field reads as what was put into it. -/
theorem Fld.get_put_same (f : Fld) (w : Word) (v : Nat) (h : f.lo ≤ f.hi) (h32 : f.hi < 32) :
    f.get (f.put w v) = v % 2 ^ (f.hi + 1 - f.lo) := by
  apply Nat.eq_of_testBit_eq
  intro i
  rw [Fld.get_testBit, Nat.testBit_mod_two_pow]
  by_cases hi : i < f.hi + 1 - f.lo
  · rw [Fld.put_getLsbD f w v h _ (by omega), if_pos ⟨by omega, by omega⟩]
    simp [hi]
  · simp [hi]

/-- Putting a field leaves every field above or below it as it reads. -/
theorem Fld.get_put_other (f g : Fld) (w : Word) (v : Nat) (h : f.lo ≤ f.hi) (h32 : g.hi < 32)
    (hd : g.hi < f.lo ∨ f.hi < g.lo) : g.get (f.put w v) = g.get w := by
  apply Nat.eq_of_testBit_eq
  intro i
  rw [Fld.get_testBit, Fld.get_testBit]
  by_cases hi : i < g.hi + 1 - g.lo
  · rw [Fld.put_getLsbD f w v h _ (by omega), if_neg (by omega)]
  · simp [hi]

/-- A field of a register reads as what was written to it. -/
theorem fget_fset_same (d : Dev) (r : RegDesc) (ix : List Nat) (f : Fld) (v : Nat) (h : f.lo ≤ f.hi)
    (h32 : f.hi < 32) : fget (fset d r ix f v) r ix f = v % 2 ^ (f.hi + 1 - f.lo) := by
  unfold fget fset
  rw [rdReg_wrReg_same, Fld.get_put_same f _ v h h32]

/-- Writing a field leaves the other fields of its register as they read. -/
theorem fget_fset_field (d : Dev) (r : RegDesc) (ix : List Nat) (f g : Fld) (v : Nat) (h : f.lo ≤ f.hi)
    (h32 : g.hi < 32) (hd : g.hi < f.lo ∨ f.hi < g.lo) : fget (fset d r ix f v) r ix g = fget d r ix g := by
  unfold fget fset
  rw [rdReg_wrReg_same, Fld.get_put_other f g _ v h h32 hd]

/-- Writing a field leaves the registers of every other key as they read. -/
theorem rdReg_fset_other (d : Dev) (r q : RegDesc) (ix jx : List Nat) (f : Fld) (v : Nat)
    (h : q.key jx ≠ r.key ix) : rdReg (fset d r ix f v) q jx = rdReg d q jx := rdReg_wrReg_other _ _ _ _ _ _ h

theorem fget_fset_other (d : Dev) (r q : RegDesc) (ix jx : List Nat) (f g : Fld) (v : Nat)
    (h : q.key jx ≠ r.key ix) : fget (fset d r ix f v) q jx g = fget d q jx g := by
  unfold fget
  rw [rdReg_fset_other _ _ _ _ _ _ _ h]

theorem fget_wrReg_same (d : Dev) (r : RegDesc) (ix : List Nat) (w : Word) (f : Fld) :
    fget (wrReg d r ix w) r ix f = f.get w := by
  unfold fget
  rw [rdReg_wrReg_same]

theorem fget_wrReg_other (d : Dev) (r q : RegDesc) (ix jx : List Nat) (w : Word) (g : Fld)
    (h : q.key jx ≠ r.key ix) : fget (wrReg d r ix w) q jx g = fget d q jx g := by
  unfold fget
  rw [rdReg_wrReg_other _ _ _ _ _ _ h]

/-- A byte that a command has written reads as that within the command. -/
@[simp] theorem rdByte_wrByte_same (e : Env) (d : Dev) (k : Nat) (b : Byte) : rdByte e (wrByte d k b) k = b := by
  simp [rdByte, wrByte, changeAt]

theorem rdByte_wrByte_other (e : Env) (d : Dev) {k i : Nat} (b : Byte) (h : i ≠ k) :
    rdByte e (wrByte d k b) i = rdByte e d i := by
  simp [rdByte, wrByte, changeAt, Ne.symm h]

/-- Bytes written at a list of keys leave every other key as it reads. -/
theorem rdByte_wrBytes_other (e : Env) (ks : List Nat) (bs : List Byte) (d : Dev) (i : Nat) (h : i ∉ ks) :
    rdByte e (wrBytes d ks bs) i = rdByte e d i := by
  induction ks generalizing d bs with
  | nil => rfl
  | cons k ks ih =>
    cases bs with
    | nil => rfl
    | cons b bs =>
      rw [List.mem_cons, not_or] at h
      exact (ih bs _ h.2).trans (rdByte_wrByte_other e d b h.1)

/-- A range returned to 0 reads as 0, and every other byte as before. -/
theorem rdByte_clearMem (e : Env) (d : Dev) (lo len i : Nat) :
    rdByte e (clearMem d lo len) i = if lo ≤ i ∧ i < lo + len then memDefault else rdByte e d i := by
  simp only [rdByte, clearMem, changeAt]
  split <;> rfl

@[simp] theorem poisoned_setPoison_same (d : Dev) (k : Nat) (b : Bool) : poisoned (setPoison d k b) k = b :=
  Sparse.get_set_same _ _ _ _

theorem poisoned_setPoison_other (d : Dev) {k i : Nat} (b : Bool) (h : i ≠ k) :
    poisoned (setPoison d k b) i = poisoned d i := Sparse.get_set_other _ _ _ _ h

end Sys2Proof.Machine
end

