-- ==== Sys2Proof/Laws/Run.lean ====
section
/-!
SUPPORT. The shape of every command's effect: a change of the device and of memory, with the queue's rest and the fuses
as they were; and the steps made of it.
-/
namespace Sys2Proof.Machine

/-- What a run changes. -/
theorem run_next (s : State) (f : Env → Dev → Dev) :
    s.run f = .next { s with mem := applyChanges s.mem (f ⟨s.fuses, s.mem⟩ s.dev.rest).wq.reverse,
                             dev := (f ⟨s.fuses, s.mem⟩ s.dev.rest).rest } := rfl

/-- A run whose effect changes no memory changes the device alone. -/
theorem run_device {s : State} {f : Env → Dev → Dev} {d : Dev} (h : f ⟨s.fuses, s.mem⟩ s.dev.rest = d)
    (hw : d.wq = []) : s.run f = .next { s with dev := d.rest } := by
  subst h
  rw [run_next, hw]
  rfl

/-- Every command is a run of some effect. -/
theorem exec_run (i : Instr) (s : State) : ∃ f, exec i s = s.run f := by
  cases i <;> (unfold exec; dsimp only; exact ⟨_, rfl⟩)

/-- What a step can do: idle with an empty queue, or run the command in front with the rest of the queue. -/
theorem step_cases {s t : State} (h : step s = .next t) :
    (s.pending = [] ∧ t = { s with dev := idleTick s.dev }) ∨
    ∃ c rest, s.pending = c :: rest ∧ exec c { s with pending := rest } = .next t := by
  unfold step at h
  split at h
  · rename_i hp
    injection h with h
    exact .inl ⟨hp, h.symm⟩
  · rename_i c rest hp
    exact .inr ⟨c, rest, hp, h⟩

end Sys2Proof.Machine
end

