-- ==== Sys2Proof/Tests/Slice0.lean ====
section
/-!
SUPPORT. Tests: a command that is not well-formed for each check of WellFormed, states that meet the hypotheses of the statements
(boundary values among them), and small checks of single commands against worked values of the spec.
-/
namespace Sys2Proof.Tests
open Sys2Proof Sys2Proof.Machine

set_option Elab.async false

/-! ### States to start from -/

/-- The reset state with its device changed. -/
def raw (f : Dev → Dev) : State := { State.reset with dev := f State.reset.dev }

/-- Write several fields. -/
def fsets (l : List (RegDesc × List Nat × Fld × Nat)) (d : Dev) : Dev := l.foldl (fun d x => fset d x.1 x.2.1 x.2.2.1 x.2.2.2) d

/-- A device in use: at READY with its rails on and port 0 up; stack 0 in service under range 0; partition 0 on port 0 with core 0 at site 0, range 0, trunk 0, and the
first 256 streams and counters. -/
def ready (d : Dev) : Dev :=
  fsets [(Reg.HUB_HBM_STACKS, [], Fld.HUB_HBM_STACKS_in_service, 1), (Reg.HUB_HBM_CFG, [], Fld.HUB_HBM_CFG_lock, 1),
    (Reg.HUB_HBM_RANGE, [0], Fld.HUB_HBM_RANGE_enable, 1), (Reg.HUB_HBM_RANGE, [0], Fld.HUB_HBM_RANGE_len_gib, 48),
    (Reg.HUB_PART_CTL, [0], Fld.HUB_PART_CTL_enable, 1), (Reg.HUB_PART_CORES, [0], Fld.HUB_PART_CORES_cores, 1),
    (Reg.HUB_PART_MEM, [0], Fld.HUB_PART_MEM_ranges, 1), (Reg.HUB_PART_RES, [0], Fld.HUB_PART_RES_trunks, 1),
    (Reg.HUB_PART_STRM, [0], Fld.HUB_PART_STRM_n_blk, 1), (Reg.HUB_PART_CTR, [0], Fld.HUB_PART_STRM_n_blk, 1),
    (Reg.HUB_CORE_MAP, [0], Fld.HUB_CORE_MAP_valid, 1), (Reg.HUB_SITE_STATE, [0], Fld.HUB_SITE_STATE_state, 0),
    (Reg.HUB_SITE_STATE, [0], Fld.HUB_SITE_STATE_logical, 0), (Reg.MGMT_FW_STAT, [], Fld.MGMT_FW_STAT_stage, 10),
    (Reg.HOST_PORT_STAT, [0], Fld.HOST_PORT_STAT_up, 1)] { d with fw := { d.fw with mainOn := true } }

/-- The device in use, changed. -/
def sys (f : Dev → Dev) : State := raw (fun d => f (ready d))

/-- The environment that a meaning reads in a state. -/
def env (s : State) : Env := { fuses := s.fuses, mem := s.mem }

/-- The state that a command leaves. -/
def run (c : Instr) (s : State) : State := match exec c s with | .next t => t | _ => s

/-- A descriptor of 64 bytes from its words. -/
def words (l : List Nat) : List Byte := (l.map (leBytes 8)).flatten ++ List.replicate (64 - 8 * l.length) 0

/-- A flit of a fibre as it is kept. -/
def oflit (n : Nat) : OFlit := { seq := n, ftype := 1, payload := [7] }

/-! ### Commands that are not well-formed, one for each check -/

theorem test_wf_reg_write_empty : (Instr.regWrite .mfw 0 0 0 []).wf = false := by decide
theorem test_wf_rc_read_empty : (Instr.rcRead .mfw 0 0 0).wf = false := by decide
theorem test_wf_quiet_read_long : (Instr.quietRead .mfw 0 4097).wf = false := by decide
theorem test_wf_mxe_short_descriptor : (Instr.mxeDescriptorEntry 0 ⟨0, 0, List.replicate 63 0⟩).wf = false := by decide
theorem test_wf_engine_long_descriptor : (Instr.engineDescriptorEntry 0 0 ⟨0, 0, List.replicate 65 0⟩).wf = false := by decide
theorem test_wf_read_empty : (Instr.coreWindowAccess (.port 0) 0 0 (.read 0) [] none).wf = false := by decide
theorem test_wf_write_without_enables : (Instr.coreWindowAccess (.port 0) 0 0 (.write [1] []) [] none).wf = false := by decide
theorem test_wf_write_empty : (Instr.coreWindowAccess (.port 0) 0 0 (.write [] []) [] none).wf = false := by decide
theorem test_wf_fadd_ragged : (Instr.coreWindowAccess (.port 0) 0 0 (.fadd32 [1, 2, 3] [true]) [] none).wf = false := by decide
theorem test_wf_fadd_empty : (Instr.coreWindowAccess (.port 0) 0 0 (.fadd32 [] []) [] none).wf = false := by decide
theorem test_wf_xadd_short : (Instr.coreWindowAccess (.port 0) 0 0 (.xadd (List.replicate 23 0)) [] none).wf = false := by decide
theorem test_wf_fetch_add_width : (Instr.coreWindowAccess (.port 0) 0 0 (.fetchAdd 2 0) [] none).wf = false := by decide
theorem test_wf_swap_width : (Instr.bar4Access 0 0 (.swap 16 0) []).wf = false := by decide
theorem test_wf_cas_width : (Instr.bar4Access 0 0 (.cas 32 0 0) []).wf = false := by decide
theorem test_wf_alias_without_enables : (Instr.aliasWrite .sideBand 0 0 [1, 2] [true] []).wf = false := by decide
theorem test_wf_partial_empty : (Instr.partialWordWrite .sideBand 0 0 [] [] []).wf = false := by decide
theorem test_wf_doorbell_empty : (Instr.doorbellBadAccess (.port 0) 0 0 none).wf = false := by decide
theorem test_wf_sync_window_empty : (Instr.syncWindowBadAccess (.port 0) 0 0 none).wf = false := by decide
theorem test_wf_fadd32_values : (Instr.fadd32 (.port 0) 0 [] (List.replicate 32 true)).wf = false := by decide
theorem test_wf_fadd32_enables : (Instr.fadd32 (.port 0) 0 (List.replicate 32 0) []).wf = false := by decide
theorem test_wf_aln_words : (Instr.alnReceived (.hub 0) (List.replicate 67 0)).wf = false := by decide
theorem test_wf_flit_short : (Instr.feinoFlitReceive (.hub 0) (List.replicate 255 0)).wf = false := by decide +kernel
theorem test_wf_frame_long : (Instr.rawFrameReceive (.hub 0) (List.replicate 257 0)).wf = false := by decide +kernel
theorem test_wf_message_ragged : (Instr.feinoSlotSend (.hub 0) [[1]] []).wf = false := by decide
theorem test_wf_frame_data_long : (Instr.feinoSlotSend (.hub 0) [] [⟨0, true, List.replicate 249 0⟩]).wf = false := by decide +kernel
theorem test_wf_scan_monitors : (Instr.monitorScan 0 (List.replicate 8 0) (List.replicate 8 0) []).wf = false := by decide
theorem test_wf_gap_gains : (Instr.gapExecuteDone 0 [0]).wf = false := by decide
theorem test_wf_start_fits : (Instr.lightEngineStart 0 0 []).wf = false := by decide
theorem test_wf_far_fits : (Instr.farLightSeen 0 [] (List.replicate 20 0) 0).wf = false := by decide
theorem test_wf_far_amplitudes : (Instr.farLightSeen 0 (List.replicate 20 ⟨true, 9, 2700, 0⟩) [] 0).wf = false := by decide
theorem test_wf_block_lanes : (Instr.codeBlockReceive 0 0 (List.replicate 17 (List.replicate 20 0))).wf = false := by decide
theorem test_wf_block_columns : (Instr.trainingBlockAlign 0 (List.replicate 18 (List.replicate 19 0))).wf = false := by decide
theorem test_wf_bar0_empty : (Instr.bar0Access 0 0 0 none 0 []).wf = false := by decide
theorem test_wf_bar2_empty : (Instr.bar2Doorbell 0 0 0 none).wf = false := by decide
theorem test_wf_reg_write_cmd_count : (Instr.regWriteCmd 0 2 [1] []).wf = false := by decide
theorem test_wf_power_own : (Instr.powerManagerPeriod ⟨0, 0, 0, [], List.replicate 16 0⟩).wf = false := by decide
theorem test_wf_power_lower : (Instr.powerManagerPeriod ⟨0, 0, 0, List.replicate 16 0, []⟩).wf = false := by decide
theorem test_wf_start_site_twice : (Instr.mainPhaseStart ⟨0, [(3, 1), (3, 1)], 0, []⟩).wf = false := by decide
theorem test_wf_update_begin_long : (Instr.updBegin 0 (List.replicate 257 0)).wf = false := by decide +kernel
theorem test_wf_update_data_long : (Instr.updData 0 (List.replicate 257 0)).wf = false := by decide +kernel
theorem test_wf_activate_long : (Instr.updActivate 0 (List.replicate 257 0) true).wf = false := by decide +kernel
theorem test_wf_events_long : (Instr.readEvents 0 (List.replicate 257 0)).wf = false := by decide +kernel
theorem test_wf_payload_bound : payload (List.replicate 256 0) = true ∧ payload (List.replicate 257 0) = false := by decide +kernel
theorem test_wf_image_bound (image : List Byte) (t : RomTests) (h : 4 * 2 ^ 20 < image.length) :
    (Instr.romRecoveryLoad image t).wf = false := by
  exact decide_eq_false (by omega)
theorem test_wf_good_commands : (Instr.regWrite .mfw 0 4 0 []).wf = true ∧ (Instr.quietRead .mfw 0 4096).wf = true ∧
    (Instr.mxeDescriptorEntry 0 ⟨0, 0, List.replicate 64 0⟩).wf = true := by decide

/-! ### Steps, the invariant and register accesses -/

theorem test_step_front : ({ State.reset with pending := [.jtagTapReset] } : State).pending = .jtagTapReset :: [] := by decide
theorem test_step_idle : State.reset.pending = [] := by decide
theorem test_invariant_holds : ({ State.reset with mem := [(7, 1), (2 ^ 40 + 5, 0xFF)] } : State).mem.wf = true ∧
    State.reset.dev.wq = [] ∧ State.reset.dev.extIn = [] := by decide

theorem test_access_code_bits : (∃ r ∈ Reg.table, ∃ f ∈ r.fields, f.lo ≤ 0 ∧ 0 ≤ f.hi ∧ f.acc = .rwl) ∧
    (∃ r ∈ Reg.table, ∀ f ∈ r.fields, ¬ (f.lo ≤ 31 ∧ 31 ≤ f.hi)) := by decide +kernel

theorem test_reserved_ranges : ((0x700000 ≤ 0x700000 ∧ 0x700000 < 0x800000) ∨ (0x3880000 ≤ 0x700000 ∧ 0x700000 < 0x4000000)) ∧
    ((0xE00000 ≤ 0xE00000 ∧ 0xE00000 < 0x1000000)) ∧ (0x1900000 ≤ 0x1FFFFFC ∧ 0x1FFFFFC < 0x2000000) ∧
    (0x3880000 ≤ 0x3FFFFFC ∧ 0x3FFFFFC < 0x4000000 ∧ 0x3FFFFFC % 4 = 0) := by decide
theorem test_reserved_access : let a := 0x3FFFFFC
    regAt a = none ∧ msixAt .mfw a = none ∧ a ≠ addrQaddr ∧ a ≠ addrHaltCtl ∧ strmBlock a = false ∧ syncAddr a = false ∧
    a % 4 = 0 ∧ pathAlive (sys id).dev .mfw a true = true ∧ pathAlive (sys id).dev .mfw a false = true := by decide +kernel
theorem test_wrong_size : syncAddr 0x1000002 = false ∧ sizeOk 0x1000002 4 = false ∧ sizeOk 0x1000004 8 = false ∧ sizeOk 0x1000000 1 = false ∧
    pathAlive (sys id).dev .sideBand 0x1000002 true = true ∧ pathAlive (sys id).dev .sideBand 0x1000004 false = true := by decide +kernel

/-- The address of an engine's configuration register: LE_AGE_CFG of the last light engine. -/
def plainAddr : Nat := Reg.LE_AGE_CFG.key [15]

theorem test_plain_register : regAt plainAddr = some (Reg.LE_AGE_CFG, [15]) ∧ plainReg Reg.LE_AGE_CFG = true ∧
    capturing Reg.LE_AGE_CFG = false ∧ plainAddr % 4 = 0 ∧ plainAddr < 2 ^ 26 ∧ syncAddr plainAddr = false ∧
    msixAt .sideBand plainAddr = none ∧ plainAddr ≠ addrQaddr ∧ plainAddr ≠ addrHaltCtl ∧ strmBlock plainAddr = false ∧
    pathAlive (sys id).dev .sideBand plainAddr true = true ∧ pathWrites (sys id).dev .sideBand Reg.LE_AGE_CFG [15] = true ∧
    pathReads (sys id).dev .sideBand Reg.LE_AGE_CFG [15] = true ∧ portHalted (sys id).dev .sideBand = false ∧
    railsOff (sys id).dev plainAddr = false := by decide +kernel

theorem test_captured_reads : pathAlive (sys id).dev .mfw Reg.THM_TB_LO.base false = true ∧ pathAlive (sys id).dev .mfw Reg.THM_TB_HI.base false = true ∧
    Sparse.find (run (.thmTbLoRead .mfw) (sys (fun d => { d with tb := 2 ^ 64 - 1 }))).dev.dbg.tbHi (pathIndex .mfw) = some (2 ^ 32 - 1) ∧
    pathAlive (sys id).dev .mfw (Reg.LQ_TST_BITS_LO.key (lqIx 127)) false = true ∧ pathAlive (sys id).dev .mfw Reg.DBG_QDATA.base false = true := by
  decide +kernel

/-! ### Coppice -/

/-- Site 35 is coming up as logical core 3 in place of site 2. -/
def bringing : State := sys (fun d => fsets [(Reg.HUB_SITE_STATE, [35], Fld.HUB_SITE_STATE_state, 5),
  (Reg.HUB_SITE_STATE, [35], Fld.HUB_SITE_STATE_logical, 3)]
  { d with coppice := { d.coppice with replacing := [(3, 2)] } })

theorem test_spare_cases : siteState bringing.dev 35 = 5 ∧ siteLogical bringing.dev 35 = 3 ∧
    Sparse.get 35 bringing.dev.coppice.replacing 3 = 2 ∧
    chooseSpare (mapChanged (setSite (resetSite (stopCounters bringing.dev 35) 35) 35 4 0 5)) 2 ≠ none := by decide +kernel
theorem test_core_fail_cases : siteState (sys id).dev 0 = 0 ∧ siteState bringing.dev 35 ≠ 0 := by decide +kernel
theorem test_fresh_plan : let good := List.range 36
    good.Nodup ∧ (∀ x ∈ good, x < 36) ∧ 32 ≤ good.length ∧ (freshActive 32 36 good).length = 32 := by decide +kernel

/-! ### The matrix engine -/

/-- The MXE of site 0 in a given state, enabled. -/
def mxeIn (m : Mxe) : State := sys (fun d => fsets [(Reg.MXE_CFG, [0], Fld.MXE_CFG_enable, 1), (Reg.MXE_CFG, [0], Fld.MXE_CFG_os_allow, 1)]
  { d with mxe := [(0, m)] })

/-- An MXE job of stream 5: INT8 images of 2 rows, `n` + 1 columns and K = 32, with the given word at byte 32. -/
def mxeJob (os w : Nat) : MxeJob := { job := ⟨5, 1, words [0, 0, 4 * 2 ^ 20 + 2 ^ 52 + 4 * 2 ^ 60, 4 * 2 ^ 20 + 2 ^ 24 + 31 * 2 ^ 42 + os * 2 ^ 62, w]⟩ }

/-- The word at byte 32: EX128 output, accumulate and drain. -/
def drainWord : Nat := 0xC + 64 * 2 ^ 16 + 3 * 2 ^ 41

theorem test_mxe_entry_accepts : (getMxe (mxeIn {}).dev 0).staged = none ∧
    mxeCheck (mxeIn {}).dev 0 (mxeJob 0 (0xC + 2 ^ 16 + 2 ^ 42)).job.bytes = 0 := by decide +kernel
theorem test_mxe_entry_refuses : mxeCheck State.reset.dev 0 (mxeJob 0 0).job.bytes ≠ 0 := by decide +kernel

/-- An MXE job that takes its window from a record. -/
def recordJob : MxeJob := mxeJob 0 (drainWord + 2 ^ 44 + 2 ^ 43)

theorem test_mxe_start_cases : (getMxe (mxeIn { staged := some recordJob }).dev 0).staged = some recordJob ∧ recordJob.started = false ∧
    (mxeDesc recordJob.job.bytes).record = true ∧ (getMxe (mxeIn { staged := some recordJob }).dev 0).active = none ∧
    (getMxe (mxeIn { active := some { recordJob with reading := true } }).dev 0).active = some { recordJob with reading := true } := by
  decide +kernel

/-- An empty tile. -/
def tile0 : Tile := ⟨0, [], []⟩

theorem test_mxe_tile_cases : let s := mxeIn { active := some (mxeJob 0 drainWord) }
    (nextTile s.dev 0 (getMxe s.dev 0)) = some (false, mxeDesc (mxeJob 0 drainWord).job.bytes, 0) ∧
    rangesStatus s.dev 0 (tileRanges (mxeDesc (mxeJob 0 drainWord).job.bytes) 0) = 0 ∧
    (getMxe (mxeIn { shadow := some (false, tile0), active := some (mxeJob 0 drainWord) }).dev 0).shadow = some (false, tile0) ∧
    (mxeJob 0 drainWord).tile = none ∧ (mxeDesc (mxeJob 0 drainWord).job.bytes).m = 2 := by decide +kernel
theorem test_mxe_row_cases : let j := { mxeJob 0 drainWord with tile := some tile0, issued := 1 }
    let s := mxeIn { active := some j }
    issuing (getMxe s.dev 0) = some (false, j, tile0) ∧ (mxeDesc j.job.bytes).os = false ∧ j.issued < (mxeDesc j.job.bytes).m ∧
    rangesStatus s.dev 0 (aRanges (mxeDesc j.job.bytes) 1) = 0 := by decide +kernel
theorem test_mxe_round_cases : let x := mxeDesc (mxeJob 1 drainWord).job.bytes
    x.os = true ∧ (mxeJob 1 drainWord).issued < x.rounds ∧
    rangesStatus (mxeIn {}).dev 0 [(x.aAddr, x.aSize), (x.bAddr, x.bSize)] = 0 := by decide +kernel

/-- The sums of row 1 in flight, and a job that has landed row 0. -/
def landing : State := mxeIn { active := some { mxeJob 0 drainWord with win := some 0, landed := [(0, 1)] }, flight := [⟨5, 1, 0, 1, []⟩] }

theorem test_mxe_land_cases : (getMxe landing.dev 0).flight = ⟨5, 1, 0, 1, []⟩ :: [] ∧
    ((getMxe landing.dev 0).active.map (fun j => (j.job.stream, j.job.seq, j.win))) = some (5, 1, some 0) ∧
    ((getMxe landing.dev 0).active.map (·.landed)) ≠ some [] ∧ (mxeDesc (mxeJob 0 drainWord).job.bytes).accInit = true := by decide +kernel
theorem test_mxe_drain_cases : let x := mxeDesc (mxeJob 0 drainWord).job.bytes
    x.drain = true ∧ 0 < x.m ∧ fmtMx x.conv.fmt = false ∧ x.entries ≤ Sparse.get 0 [(0, 1)] 0 ∧ 0 + 1 < x.m ∧
    (wrRanges landing.dev.rest 0 [(x.outAddr, drainPlain x (accWin landing.dev 0 x.accRow) (streamSeed landing.dev 5) 0
      (accRowOf landing.dev 0 x 0))]).1 = 0 := by decide +kernel
theorem test_mxe_final_cases : (mxeDesc recordJob.job.bytes).final = true ∧
    (mxeDesc recordJob.job.bytes).m ≤ ({ recordJob with drained := 2 } : MxeJob).drained := by decide +kernel
theorem test_mxe_stop_cases : let j := { mxeJob 0 drainWord with tile := some tile0 }
    let s := sys (fun d => fsets [(Reg.CMEM_BANK, [0, 31], Fld.CMEM_BANK_mode, 4)]
      { d with mxe := [(0, { active := some j })], poison := [(wordMark (localKey d 0 64), true)] })
    (getMxe s.dev 0).active = some j ∧ issuing (getMxe s.dev 0) = some (false, j, tile0) ∧ bankRefuses s.dev 0 31 = true ∧
    poisoned s.dev (wordMark (localKey s.dev 0 64)) = true := by decide +kernel
theorem test_mxe_rate_cases : pathPort .sideBand = none := by decide

/-! ### The engines of chapter 4 -/

/-- A job of stream 5 with the given words. -/
def job5 (l : List Nat) : EJob := { job := ⟨5, 1, words l⟩, block := List.replicate 256 0 }

/-- An enabled engine of site 0 holds jobs. -/
def engIn (u : Nat) (g : EngSlots) : State :=
  sys (fun d => fsets [(engCfg u, engIx 0 u, Fld.VXE_CFG_enable, 1)] { d with eng := [(u, g)] })

theorem test_engine_entry_cases : let s := engIn 9 { active := some (job5 []) }
    (getEng s.dev 0 9).staged = none ∧ (getEng (sys id).dev 0 9).active = none ∧
    (engCheck (env s) (dropHandoff s.dev.rest 0 9 (job5 []).job) 0 9 (job5 []).job).1 ≠ 0 ∧
    (engCheck (env s) s.dev.rest 0 9 (job5 [6, 0, 2 ^ 52, 2 ^ 52 + 64, 64 + 2 ^ 32, 64, 64]).job).1 = 0 := by decide +kernel

/-- A follower in the SFE whose producer has ended with the given status. -/
def follower (st : Nat) : State := sys (fun d => { d with
  eng := [(5, { active := some (job5 [0, 0, 0, 2 ^ 56]) })], engDone := [⟨5, 0, st, {}, 0⟩],
  strm := [(5, { held := [{ seq := 0, bytes := [], phase := .dispatched }] })] })

theorem test_follow_cases : engActive (follower 0).dev 0 5 = some (job5 [0, 0, 0, 2 ^ 56]) ∧
    followBit 5 (job5 [0, 0, 0, 2 ^ 56]).job.bytes = true ∧
    0 < rowsWritten (follower 0).dev 0 (job5 [0, 0, 0, 2 ^ 56]).job ∧
    producerFailed (follower 8).dev 0 (job5 [0, 0, 0, 2 ^ 56]).job = true := by decide +kernel
theorem test_report_cases : let j := { job5 [0, 0, 0, 0, 0, 2 ^ 20, 0, 3 * 2 ^ 48] with reporting := true }
    engActive (engIn 4 { active := some j }).dev 0 (3 + 1) = some j ∧ j.reporting = true ∧
    (reportRecord (env (engIn 4 {})) (engIn 4 {}).dev.rest 0 5 (vDesc j.job.bytes).window j.top j.flags .ok).1 = true := by decide +kernel

/-- A VXE job: load the FP32 input 0, store it in output 0. -/
def vxeJob : EJob := { job5 [0, 0, 0, 16 * 2 ^ 20] with
  block := leBytes 8 0 ++ List.replicate 8 0 ++ List.replicate 240 0 }

theorem test_vxe_cases : let v := vDesc vxeJob.job.bytes
    let s := engIn 4 { active := some vxeJob }
    let ins := ((vInRanges v (vBlock vxeJob.block)).map (·.2)).flatten
    engActive s.dev 0 (3 + 1) = some vxeJob ∧ vxeJob.reporting = false ∧ rowsReady 4 v.rows vxeJob = true ∧ v.record = false ∧
    v.final = false ∧ readStatus s.dev 0 ins = 0 ∧
    (wrRanges s.dev.rest 0 ((vResult (env s) s.dev.rest 0 vxeJob 0).1.filter (fun w => !w.2.isEmpty))).1 = 0 ∧
    readStatus (sys (fun d => { d with poison := [(wordMark (localKey d 0 0), true)] })).dev 0 [(0, 4)] = 0x16 := by decide +kernel

/-- An SFE job over one element, by function; its output and auxiliary arrays lie apart. -/
def sfeJob (f : Nat) : EJob := job5 [0, 0, 64 * 2 ^ 20 + 128 * 2 ^ 40 + f * 2 ^ 60, 0]

theorem test_sfe_cases : (List.range 9).all (fun f =>
    let x := sfeDesc (sfeJob f).job.bytes
    let s := engIn 5 { active := some (sfeJob f) }
    (engActive s.dev 0 5 == some (sfeJob f)) && (x.func == f) && rowsReady 5 x.rows (sfeJob f) &&
    (readStatus s.dev 0 (x.inRanges ++ x.auxRanges) == 0) &&
    ((wrRanges s.dev.rest 0 [(x.outAddr, [0]), (x.auxAddr, [0])]).1 == 0)) = true := by decide +kernel

/-- A Topiary job by operation. -/
def topJob (op : Nat) : EJob := job5 [0, 0, op * 2 ^ 40 + 0xE4 * 2 ^ 44]

theorem test_topiary_cases : (List.range 4).all (fun op =>
    let x := topDesc (topJob op).job.bytes
    let a := topSrc (topJob op).block
    (x.op == op) && rowsReady 6 (a.dim 1 * a.dim 2 * a.dim 3) (topJob op) &&
    (engActive (engIn 6 { active := some (topJob op) }).dev 0 6 == some (topJob op)) &&
    (readStatus (sys id).dev 0 a.ranges == 0) && ((wrRanges (sys id).dev.rest 0 [(2 ^ 26 - 1, [0])]).1 == 0)) = true := by
  decide +kernel

theorem test_cpe_cases : (cpeDesc (job5 [0, 0, 0, 64]).job.bytes).op = 0 ∧ (cpeDesc (job5 [0, 0, 2 ^ 40, 64]).job.bytes).op = 1 ∧
    (cpeDesc (job5 [0, 0, 2 ^ 41, 64]).job.bytes).op = 2 ∧ readStatus (sys id).dev 0 [(0, 64)] = 0 ∧
    (decodeStream 64 (List.replicate 64 0)).1 = false ∧ (decodeStream 0 []).1 = true := by decide +kernel
theorem test_dme_rng_cases : (dmeDesc (job5 [6, 0, 2 ^ 52, 2 ^ 52 + 64, 64 + 2 ^ 32, 64, 64]).job.bytes).op = 0 ∧
    (dmeDesc (job5 [6, 0, 0, 2 ^ 53, 64 + 2 ^ 32]).job.bytes).op = 1 ∧ (rngDesc (job5 [7, 0, 0, 1]).job.bytes).count = 1 ∧
    engActive (engIn 10 { active := some (job5 []) }).dev 0 (9 + 1) = some (job5 []) ∧
    (dmeRows (env (sys id)) 0 (streamReq (sys id).dev 0 5) (dmeDesc (job5 [6, 0, 2 ^ 52, 2 ^ 52 + 64, 64 + 2 ^ 32, 64, 64]).job.bytes)
      [0] (sys id).dev.rest).1 = 0 := by decide +kernel

/-- A GDE job: one row of one choice, by operation. -/
def gdeJob (op : Nat) : EJob := job5 [0, 0, 2048 * 2 ^ 20 + 4096 * 2 ^ 40 + op * 2 ^ 60, 2 ^ 20 + 2 ^ 44, 1 + 2 ^ 10, 1]

/-- Receive window 0 of site 0, with its control word. -/
def windowed (kind armed : Nat) (f : Dev → Dev) : State := sys (fun d => f (fsets [(Reg.GDE_RXWIN_CTL, [0, 0], Fld.GDE_RXWIN_CTL_kind, kind),
  (Reg.GDE_RXWIN_CTL, [0, 0], Fld.GDE_RXWIN_CTL_armed, armed), (Reg.GDE_RXWIN_SHAPE, [0, 0], Fld.GDE_RXWIN_SHAPE_num_src, 1),
  (Reg.GDE_RXWIN_SHAPE, [0, 0], Fld.GDE_RXWIN_SHAPE_cap, 1), (Reg.GDE_RXWIN_AUX, [0, 0], Fld.GDE_RXWIN_AUX_aux_base, 2048)] d))

theorem test_gather_cases : (gdeActive (engIn 7 { active := some (gdeJob 0) }).dev 0 0).isSome = true ∧
    (gdeActive (engIn 7 { active := some (gdeJob 1) }).dev 0 1).isSome = true ∧
    readStatus (sys id).dev 0 (gdeDesc (gdeJob 0).job.bytes).reads = 0 ∧
    readStatus (sys id).dev 0 (gdeDesc (gdeJob 1).job.bytes).reads = 0 := by decide +kernel
theorem test_forward_cases : let x := gdeDesc (gdeJob 2).job.bytes
    let s := engIn 7 { active := some (gdeJob 2) }
    let ps := ((List.range x.nExp).map (forwardParcels (env s) s.dev.rest 0 x [0])).flatten
    (gdeActive s.dev 0 2).isSome = true ∧ readStatus s.dev 0 x.reads = 0 ∧
    (List.range (x.count * x.k)).map (fun i => localWord (env s) s.dev.rest 0 (x.route + 4 * i) 4) = [0] ∧ 0 < x.nExp ∧
    (wrRanges s.dev.rest 0 [(x.aux, leBytes 4 0xFFFFFFFF)]).1 = 0 ∧ remoteParcels s.dev ps ≤ 65536 ∧ ps ≠ [] ∧
    (∀ p ∈ ps, p.node = ownNode s.dev) := by decide +kernel
theorem test_return_cases : let x := gdeDesc (gdeJob 3).job.bytes
    let s := windowed 0 0 (fun d => { d with eng := [(7, { active := some (gdeJob 3) })] })
    (gdeActive s.dev 0 3).isSome = true ∧ (gdeJob 3).await = 0 ∧ windowOfTags s.dev 0 x.route = some 0 ∧
    readStatus s.dev 0 (x.reads ++ [(x.route, 8 * x.count)]) = 0 ∧
    ((List.range x.count).map (returnParcels (env s) s.dev.rest 0 x 0 1)).flatten = [] := by decide +kernel

/-- A parcel of no tokens for window 0 of core 0. -/
def parcel0 (ret : Bool) : ParcelMsg := ⟨0, 0, 5, 1, ret, parcelHeader 0 0 0 0 0 0 1 0 0 0⟩

theorem test_parcel_cases : let s := windowed 1 1 (fun d => { d with fab := { d.fab with box := [parcel0 true] } })
    s.dev.fab.box.find? (fun m => siteOfCore s.dev m.core == some 0 || (siteOfCore s.dev m.core).isNone) = some (parcel0 true) ∧
    siteOfCore s.dev 0 = some 0 ∧ parcelRefusal (rxWin s.dev 0 0) (some true) (parcel0 true).bytes = none ∧
    (rxWin s.dev 0 0).ret = true ∧ parcelRefusal (rxWin s.dev 0 0) (some false) (parcel0 false).bytes = some 2 ∧
    (rxWin s.dev 0 0).armed = true ∧ (rxWin (windowed 1 0 id).dev 0 0).armed = false := by decide +kernel

/-- A middle cell of a parcel, and a response, are at this node. -/
def parcelCells (refused : Option Nat) : State := sys (fun d => { d with
  eng := [(7, { active := some { gdeJob 2 with await := 2 } })],
  fab := { d.fab with
    cells := [(0, Cell.bytes { dst := 0, src := 3, kind := 5, first := false, last := false, tag := 4 }),
      (0, Cell.bytes { dst := 0, src := 3, kind := 6, tag := 9, value := 0 })],
    parcels := [{ src := 3, tag := 4, core := 0, win := 0, refused := refused }],
    remote := [(9, { stream := 5, seq := 1, node := 3, site := some 0 })] } })

theorem test_parcel_cell_cases : (takeCell (parcelCells none).dev.rest 5).map (fun x => (x.2.1.first, x.2.1.last, x.2.1.src, x.2.1.tag)) =
      some (false, false, 3, 4) ∧
    (parcelCells (some 1)).dev.fab.parcels.any (fun p => p.src == 3 && p.tag == 4 && p.refused.isSome) = true ∧
    (takeCell (parcelCells none).dev.rest 6).map (fun x => (x.2.1.value % 256, x.2.1.tag)) = some (0, 9) ∧
    (remoteAt (parcelCells none).dev 9).map (·.site) = some (some 0) ∧ (engActive (parcelCells none).dev 0 7).map (·.await) = some 2 := by
  decide +kernel

/-! ### Core memory -/

theorem test_alias_cases : siteOfCore (sys id).dev 0 = some 0 ∧ srcAdmits (sys id).dev (.port 0) (partOfCore (sys id).dev 0) = true ∧
    windowView 0x4000000 8 = some (.set, false, 0) ∧ windowView 0xBFFFFFF 1 = some (.clear, false, 0x3FFFFFF) ∧
    windowView 0xC100000 8 = some (.set, true, 0) ∧ windowView 0xC27FFFF 1 = some (.clear, true, 0x7FFFF) ∧
    (banksOf (windowKeys (sys id).dev 0 false 0 8)).all (fun b => !(bankRefuses (sys id).dev 0 b)) = true ∧
    anyPoison (sys id).dev (windowKeys (sys id).dev 0 false 0 8) = false := by decide +kernel
theorem test_window_cases : windowView 0xC080000 4 = none ∧ windowView 0x3FFFFFC 8 = none ∧ siteOfCore (sys id).dev 31 = none ∧
    windowView 0x3FFFFFC 4 = some (.normal, false, 0x3FFFFFC) ∧
    srcAdmits (sys id).dev .sideBand (partOfCore (sys id).dev 31) = true ∧
    bankRefuses (sys (fsets [(Reg.CMEM_BANK, [0, 0], Fld.CMEM_BANK_mode, 4)])).dev 0 0 = true := by decide +kernel

/-- A bit-set write of 0x0F over 0xF0 gives 0xFF, and a bit-clear write of it 0xF0 (R167). -/
theorem test_alias_effect : let s := { sys id with mem := [(localKey (sys id).dev 0 0, 0xF1)] }
    (run (.aliasWrite .sideBand 0 0x4000000 [0x0F] [true] []) s).byte (localKey (sys id).dev 0 0) = 0xFF ∧
    (run (.aliasWrite .sideBand 0 0x8000000 [0x0F] [true] []) s).byte (localKey (sys id).dev 0 0) = 0xF0 := by decide +kernel

/-- Bank 33 of site 0 in a state and mode. -/
def banked (st mode : Nat) : State := sys (fun d => fsets [(Reg.CMEM_BANK, [0, 33], Fld.CMEM_BANK_state, st),
  (Reg.CMEM_BANK, [0, 33], Fld.CMEM_BANK_mode, mode), (Reg.CMEM_SCRUB, [0], Fld.CMEM_SCRUB_enable, 1)]
  { d with cmem := [(0, { march := some ⟨33, 0⟩, target := [(33, 2)] })] })

theorem test_bank_cases : siteQuiet (sys id).dev 0 = true ∧ siteQuiet (mxeIn { active := some (mxeJob 0 0) }).dev 0 = false ∧
    siteState (banked 0 0).dev 0 ≠ 1 ∧ bankState (banked 6 0).dev 0 33 = 6 ∧ bankMode (banked 0 1).dev 0 33 = 1 ∧
    bankState (banked 0 1).dev 0 33 = 0 ∧ latFits (siteLat (banked 0 1).dev 0) 150 = true ∧ bankState (banked 4 3).dev 0 33 = 4 ∧
    bankState (banked 5 3).dev 0 33 = 5 ∧ modeState (bankMode (banked 4 3).dev 0 33) 2 = 2 ∧
    Sparse.get 0 (Sparse.get {} (banked 4 3).dev.cmem 0).target 33 = 2 := by decide +kernel
theorem test_scrub_cases : fbit (banked 0 0).dev Reg.CMEM_SCRUB [0] Fld.CMEM_SCRUB_enable = true ∧ bankRows 33 ≠ 0 ∧
    8 * 7 < (if 33 < 32 then 256 else 64) ∧ poisoned (banked 0 0).dev (wordMark (rowKey 0 33 (bankRows 33 - 1) + 56)) = false := by
  decide +kernel
theorem test_march_cases : marchReason State.reset.dev 0 34 0 = 4 ∧ marchReason State.reset.dev 0 33 2 = 5 ∧
    marchReason (banked 6 0).dev 0 33 0 = 3 ∧ marchReason (banked 3 4).dev 0 33 0 = 2 ∧
    marchReason (sys (fsets [(Reg.CMEM_BANK, [0, 33], Fld.CMEM_BANK_state, 3)])).dev 0 33 1 = 0 ∧
    marchReason (sys (fsets [(Reg.CMEM_BANK, [0, 33], Fld.CMEM_BANK_state, 0)])).dev 0 33 1 = 1 ∧
    (Sparse.get {} (banked 0 0).dev.cmem 0).march = some ⟨33, 0⟩ := by decide +kernel

/-! ### Streams and sync counters -/

/-- Stream 5 on core 0 with register fields and its hidden state; both rings have 64 entries in host memory. -/
def strmIn (l : List (RegDesc × Fld × Nat)) (x : Strm) : State := sys (fun d => fsets ([(Reg.HUB_STRM_SEL, [0], Fld.HUB_STRM_SEL_stream, 5),
  (Reg.HUB_STRM_SQ_LO, [5], Fld.HUB_STRM_SQ_LO_log2_size, 6), (Reg.HUB_STRM_CQ_LO, [5], Fld.HUB_STRM_SQ_LO_log2_size, 6)]
  ++ l.map (fun y => (y.1, [5], y.2.1, y.2.2))) { d with strm := [(5, x)] })

/-- Stream 5 enabled in RUN with `t` submitted and `c` fetched and committed. -/
def runIn (t c : Nat) (x : Strm) : State := strmIn [(Reg.HUB_STRM_CFG, Fld.HUB_STRM_CFG_enable, 1), (Reg.HUB_STRM_STAT, Fld.HUB_STRM_STAT_state, 1),
  (Reg.HUB_STRM_TAIL, Fld.HUB_STRM_TAIL_count, t), (Reg.HUB_STRM_FETCH, Fld.HUB_STRM_FETCH_count, c),
  (Reg.HUB_STRM_COMMIT, Fld.HUB_STRM_COMMIT_count, c), (Reg.HUB_STRM_CQT, Fld.HUB_STRM_CQT_count, c), (Reg.HUB_STRM_CQH, Fld.HUB_STRM_CQH_count, c)] x

theorem test_context_cases : let s := strmIn [] {}
    portHalted s.dev (.port 0) = false ∧ selected s.dev (.port 0) = 5 ∧ pathOwns s.dev (.port 0) (partOfStream s.dev 5) = true ∧ pageHeld s.dev (.port 0) 5 = true ∧
    strmReg 0x20 = some Reg.HUB_STRM_SEED_LO ∧ strmOn s.dev 5 = false ∧ strmOn (runIn 0 0 {}).dev 5 = true ∧
    contextOk (Reg.HUB_STRM_CFG.store s.dev.rest [5] false 0) 5 = true ∧
    contextOk (Reg.HUB_STRM_CFG.store (sys id).dev.rest [5] false 0) 5 = false := by decide +kernel
theorem test_disable_cases : let s := runIn 7 7 {}
    strmState s.dev 5 = 1 ∧ cnt s.dev 5 Reg.HUB_STRM_TAIL = cnt s.dev 5 Reg.HUB_STRM_COMMIT ∧ (getStrm s.dev 5).held = [] ∧
    (getStrm s.dev 5).recs = [] ∧ (getStrm s.dev 5).abort = none ∧ (getStrm s.dev 5).goal = none ∧
    (getStrm s.dev 5).stopping = false := by decide +kernel

/-- The bounds of SQ_TAIL on a ring of 64 entries: a full ring is accepted, one more is not, nor a count that falls (R189). -/
theorem test_tail_bounds : let s := runIn 7 7 {}
    devHalted s.dev = false ∧ (ge32 71 7 && decide (sub32 71 7 ≤ 2 ^ (subRing s.dev 5).2.2)) = true ∧
    sub32 72 7 ≤ 2 ^ (subRing s.dev 5).2.2 + 1 ∧ ¬ sub32 72 7 ≤ 2 ^ (subRing s.dev 5).2.2 ∧ ge32 6 7 = false ∧
    cnt (run (.sqTail (.port 0) 5 71) s).dev 5 Reg.HUB_STRM_TAIL = 71 ∧ cnt (run (.sqTail (.port 0) 5 72) s).dev 5 Reg.HUB_STRM_TAIL = 7 := by
  decide +kernel
theorem test_doorbell_cases : let s := runIn 9 7 {}
    ge32 (cnt s.dev 5 Reg.HUB_STRM_CQT) 7 = true ∧ ge32 (cnt s.dev 5 Reg.HUB_STRM_CQT) 8 = false ∧
    (getStrm (runIn 9 7 { abort := some 3 }).dev 5).abort.isSome = true ∧ strmState (strmIn [] {}).dev 5 = 0 ∧
    strmState (strmIn [(Reg.HUB_STRM_STAT, Fld.HUB_STRM_STAT_state, 2)] {}).dev 5 = 2 ∧ 0x20 ≤ 0x5020 % 0x1000 := by decide +kernel

theorem test_fetch_cases : mayFetch (runIn 9 7 {}).dev 5 = true ∧ mayFetch (runIn 7 7 {}).dev 5 = false ∧
    (subRing (runIn 9 7 {}).dev 5).2.1 = false := by decide +kernel

/-- A descriptor for the DME that waits for counter 9 to reach 4. -/
def waiting : SDesc := { seq := 7, bytes := words [6 + 2 ^ 12 + 9 * 2 ^ 16, 4] }
/-- A SYNC descriptor whose slots 0 to 3 lock counter 9. -/
def locking : SDesc := { seq := 7, bytes := words [8, 0, 5 + 9 * 2 ^ 16, 5 * 2 ^ 32 + 9 * 2 ^ 48, 0, 5 + 9 * 2 ^ 16, 5 * 2 ^ 32 + 9 * 2 ^ 48] }

theorem test_wait_cases : nextDesc (runIn 9 8 { held := [waiting] }).dev 5 = some waiting ∧ hWaitEn waiting.bytes = true ∧
    waiting.waited = false ∧ hEngine waiting.bytes ≠ 8 ∧ hWaitCtr waiting.bytes = 9 ∧ hWaitVal waiting.bytes ≤ ({ value := 4 } : Ctr).value ∧
    ({ poison := true } : Ctr).poison = true := by decide +kernel
theorem test_lock_cases : let s := { runIn 9 8 { held := [locking] } with
      dev := { (runIn 9 8 { held := [locking] }).dev with ctr := [(9, { waiters := [5, 6] })] } }
    (getCtr s.dev 9).holder = none ∧ (getCtr s.dev 9).waiters = 5 :: [6] ∧ (getCtr s.dev 9).poison = false ∧
    nextDesc s.dev 5 = some locking ∧ hEngine locking.bytes = 8 ∧ hWaitEn locking.bytes = false ∧ locking.slots < 4 ∧
    (slotOf locking.bytes 0).op = 5 ∧ (slotOf locking.bytes 0).counter = 9 ∧ (slotOf locking.bytes 3).op = 5 := by decide +kernel
theorem test_dispatch_cases : let s := runIn 9 8 { held := [{ waiting with waited := true }] }
    (nextDesc s.dev 5).isSome = true ∧ strmSite s.dev 5 = some 0 ∧ strmState s.dev 5 = 1 ∧ (getStrm s.dev 5).stopping = false ∧
    hEngine waiting.bytes < 8 ∧ hBarrier waiting.bytes = false ∧ dispatchHeld s.dev 5 0 = false ∧
    (pickUnit s.dev 0 waiting.bytes).isSome = true ∧ outranked s.dev 5 = false := by decide +kernel

/-- Two ready streams of one core and one priority take turns; the higher priority goes first (R187). -/
theorem test_rotation : let x : Strm := { held := [{ waiting with waited := true }] }
    let s (prio turn : Nat) : State := sys (fun d => fsets [(Reg.HUB_STRM_STAT, [5], Fld.HUB_STRM_STAT_state, 1),
      (Reg.HUB_STRM_STAT, [6], Fld.HUB_STRM_STAT_state, 1), (Reg.HUB_STRM_CFG, [6], Fld.HUB_STRM_CFG_prio, prio)]
      { d with strm := [(5, x), (6, x)], turn := [(0, turn)] })
    outranked (s 0 0).dev 5 = false ∧ outranked (s 0 0).dev 6 = true ∧ outranked (s 0 6).dev 5 = true ∧ outranked (s 1 0).dev 5 = true ∧
    (run (.descriptorDispatch 5) (s 0 0)).dev.turn = [(0, 6)] := by decide +kernel

/-- Stream 5 whose one descriptor has been reported. -/
def reported : State := let s := runIn 9 7 { held := [{ waiting with phase := .dispatched }] }
  { s with dev := { s.dev with engDone := [⟨5, 7, 0, {}, 0⟩] } }

theorem test_done_cases : (reported.dev.engDone.find? (fun r => r.stream.toNat == 5)) = some ⟨5, 7, 0, {}, 0⟩ ∧
    (getStrm reported.dev 5).held = [{ waiting with phase := .dispatched }] ∧ recRoom reported.dev 5 = true ∧
    strmState reported.dev 5 = 1 ∧ (getStrm reported.dev 5).abort ≠ some 7 ∧ devHalted reported.dev = false := by decide +kernel
theorem test_sync_commit_cases : (commitSlots 5 7 (words [8]) 5 0 (runIn 9 7 {}).dev.rest).map (·.1) = some true ∧
    (commitSlots 5 7 (words [8, 0, 6 + 9 * 2 ^ 16]) 5 0 (runIn 9 7 {}).dev.rest).map (·.1) = some false ∧
    hEngine (words [8]) = 8 ∧ hEngine (words [9]) = 9 := by decide +kernel

/-- A record waits. -/
def rec7 : CRec := { seq := 7, status := 0 }

theorem test_record_cases : let s := runIn 9 7 { recs := [rec7] }
    (getStrm s.dev 5).recs = rec7 :: [] ∧ strmPort s.dev 5 = some 0 ∧ portUp s.dev 0 = true ∧ (compRing s.dev 5).2.1 = false ∧
    sub32 (cnt s.dev 5 Reg.HUB_STRM_CQT) (cnt s.dev 5 Reg.HUB_STRM_CQH) < 2 ^ (compRing s.dev 5).2.2 ∧
    2 ^ (compRing (sys id).dev 5).2.2 ≤ sub32 (cnt (strmIn [(Reg.HUB_STRM_CQT, Fld.HUB_STRM_CQT_count, 64)] {}).dev 5 Reg.HUB_STRM_CQT)
      (cnt (sys id).dev 5 Reg.HUB_STRM_CQH) := by decide +kernel
theorem test_stop_timeout_cases : (getStrm (runIn 9 7 { stopping := true }).dev 5).stopping = true ∧
    ((getStrm reported.dev 5).held.find? (fun x => x.seq == 7 && x.phase == .dispatched)).isSome = true ∧
    fget (strmIn [(Reg.HUB_STRM_LIMIT, Fld.HUB_STRM_LIMIT_limit_us, 1)] {}).dev Reg.HUB_STRM_LIMIT [5] Fld.HUB_STRM_LIMIT_limit_us ≠ 0 := by
  decide +kernel
theorem test_abort_cases : let s := runIn 9 7 { abort := some 7, held := [waiting] }
    (getStrm s.dev 5).abort = some 7 ∧ cnt s.dev 5 Reg.HUB_STRM_COMMIT = 7 ∧ ge32 6 7 = false ∧ ge32 9 7 = true ∧ ge32 9 9 = true ∧
    ge32 7 9 = false ∧ strmState s.dev 5 = 1 ∧ recRoom s.dev 5 = true ∧ (getStrm s.dev 5).held = waiting :: [] := by decide +kernel
theorem test_recovery_cases : strmState (strmIn [(Reg.HUB_STRM_STAT, Fld.HUB_STRM_STAT_state, 3)] {}).dev 5 = 3 ∧
    (strmSite (strmIn [] {}).dev 5).isSome = true ∧ siteOfCore (sys id).dev 31 = none ∧
    boundStreams (strmIn [(Reg.HUB_STRM_CFG, Fld.HUB_STRM_CFG_core, 31), (Reg.HUB_STRM_CFG, Fld.HUB_STRM_CFG_enable, 1)] {}).dev 31 = [5] := by
  decide +kernel

theorem test_counter_cases : pathOwns (sys id).dev (.port 0) (partOfCounter (sys id).dev 255) = true ∧
    ctrApply { value := 2 ^ 32 - 1 } none 0 1 = some { value := 2 ^ 32 - 1, poison := true } ∧
    ctrApply { value := 2 ^ 32 - 2 } none 0 1 = some { value := 2 ^ 32 - 1 } := by decide +kernel

/-- An addition that reaches 2^32 saturates and poisons (R208). -/
theorem test_counter_saturates : let s := { sys id with dev := { (sys id).dev with ctr := [(9, { value := 2 ^ 32 - 1 })] } }
    getCtr (run (.counterAdd (.port 0) 9 1) s).dev 9 = { value := 2 ^ 32 - 1, poison := true } := by decide +kernel

/-! ### Package memory -/

/-- The device in use with something in the homes, and host port 0 an agent. -/
def homed (c : Coh) : State := sys (fun d => fsets [(Reg.HOST_PORT_STAT, [0], Fld.HOST_PORT_STAT_agent, 1),
  (Reg.PKM_CACHE_CFG, [0], Fld.PKM_CACHE_CFG_enable, 1), (Reg.PKM_CACHE_CFG, [0], Fld.PKM_CACHE_CFG_remote_ways, 4)] { d with coh := c })

/-- The requester at port 0. -/
def asker : Requester := ⟨.port 0, srcPart (sys id).dev (.port 0)⟩

theorem test_home_reach_cases : let d := (homed {}).dev
    reachErr d asker (2 ^ 35 - 8) 16 = none ∧ targetOf d (2 ^ 35 - 8) 16 = .hbm ∧ (2 ^ 35 - 8 + 16 - 1) / 128 ≤ (2 ^ 35 - 8) / 128 + 1 ∧
    hbmPoison d (hbmKeys d (2 ^ 35 - 8) 16) = false ∧ targetOf d 0x40000000FF8 16 = .core 0 0xFF8 ∧ reachErr d asker 0x40000000FF8 16 = none ∧
    windowView 0xFF8 16 = some (.normal, false, 0xFF8) ∧ anyPoison d (windowKeys d 0 false 0xFF8 16) = false ∧
    (banksOf (windowKeys d 0 false 0xFF8 16)).all (fun b => !(bankRefuses d 0 b)) = true := by decide +kernel
theorem test_home_nowhere_cases : let d := (homed {}).dev
    targetOf d (48 * 2 ^ 30 - 1) 16 = .none_ ∧ targetOf d (48 * 2 ^ 30 - 16) 16 = .hbm ∧ targetOf d (2 ^ 51) 16 = .host 0 0 ∧
    reachErr d asker (48 * 2 ^ 30 - 1) 16 = some .noTarget ∧
    reachErr d asker (2 ^ 51) 16 ≠ some .denied ∧ targetOf d 0x60000000000 16 = .guest 0 0 ∧
    reachErr d ⟨.sideBand, none⟩ 0x60000000000 16 ≠ some .denied ∧ targetOf d 0x40004000000 16 = .core 0 0x4000000 ∧
    windowView 0x4000000 16 = some (.set, false, 0) ∧ windowView 0x8000000 16 = some (.clear, false, 0) := by decide +kernel
theorem test_home_line_cases : let d := (homed {}).dev
    (homeOf d (128 * 7)).isSome = true ∧ reachErr d asker (128 * 7) 128 = none ∧ (hbmKeys d (128 * 7) 128).all (fun k => !(deadKey d k)) = true ∧
    poisoned d (lineMark ((hbmKeys d (128 * 7) 128).headD 0)) = false ∧
    poisoned (run (.hbmLineDecode 0 7 { wrong := [(0, 1), (0, 2)], erased := [] }) (homed {})).dev
      (lineMark ((hbmKeys d (128 * 7) 128).headD 0)) = true := by decide +kernel

/-- FETCH_ADD of 5 to the 64-bit word 2^64 - 3 leaves 2 and returns the old value (Table 7.7). -/
theorem test_fetch_add_wraps : let s := run (.wrline (.port 0) 896 (.ofNat 1024 (2 ^ 64 - 3))) (homed {})
    let t := run (.fetchAdd (.port 0) 896 true 5) s
    (hbmKeys t.dev 896 8).map t.byte = leBytes 8 2 ∧ t.dev.out = [.memData (.port 0) [], .memData (.port 0) (leBytes 8 (2 ^ 64 - 3))] := by
  decide +kernel

theorem test_agent_cases : agentOf (homed {}).dev (.port 0) = some 6 ∧ agentOf (homed {}).dev (.core 35) = some 5 ∧
    agentOf (homed {}).dev .sideBand = none ∧ (aLine (homed {}).dev 6 7).st = .i ∧
    (aLine (homed { agents := [(12 * 7 + 6, { st := .s })] }).dev 6 7).st = .s ∧
    isSharer (homed { dir := [(7, ⟨false, 2 ^ 6, 0⟩)] }).dev { kind := 2, src := .port 0, agent := some 6, addr := 896 } = true ∧
    isSharer (homed {}).dev { kind := 2, src := .port 0, agent := some 6, addr := 896 } = false := by decide +kernel

/-- A read of line 7 by port 0, in progress. -/
def reading (kind : Nat) (ss : List Snoop) (rd : Bool) (g : Option Nat) (ack : Bool) : Txn :=
  { req := { kind := kind, src := .port 0, agent := if kind = 3 then none else some 6, addr := 896, op := if kind = 3 then some (.read 128) else none },
    lines := [7], rd := rd, snoops := ss, grant := g, acked := ack }

/-- The base cache of site 0's die owns line 7 and was snooped. -/
def snooped (kind : Nat) (ans : Option SnpAns) (st : AState) : State :=
  homed { dir := [(7, ⟨true, 0, 0⟩)], txns := [reading 1 [{ agent := 0, line := 7, kind := kind, ans := ans }] true none false],
          agents := [(12 * 7, { st := st })] }

theorem test_snoop_cases : ((snooped 9 none .m).dev.coh.txns.find? (fun x => x.snoops.any
      (fun n => n.agent == 0 && n.line == 7 && n.kind == 9 && n.ans.isNone))).isSome = true ∧ (aLine (snooped 9 none .m).dev 0 7).st = .m ∧
    (aLine (snooped 7 none .smD).dev 0 7).st = .smD ∧ (aLine (snooped 8 none .miA).dev 0 7).st = .miA := by decide +kernel
theorem test_snoop_answer_cases : let s := snooped 9 (some (.dirty (List.replicate 128 0xA5))) .i
    (homeOf s.dev 896).isSome = true ∧ Sparse.find s.dev.coh.dir 7 = some ⟨true, 0, 0⟩ ∧
    s.dev.coh.txns = [reading 1 [{ agent := 0, line := 7, kind := 9, ans := some (.dirty (List.replicate 128 0xA5)) }] true none false] ∧
    (0, 7) ∉ (reading 1 [] true none false).early ∧ (snooped 9 (some .evicting) .miA).dev.coh.waiting = [] := by decide +kernel
theorem test_read_data_cases : let s := homed { txns := [reading 3 [] true none false] }
    (reading 3 [] true none false).cur = none ∧ homePoison s.dev 7 = false ∧ dirFull s.dev 7 = false ∧
    (reading 0 [] true none false).req.agent = some 6 ∧ (reading 0 [] true none false).hdir = none := by decide +kernel
theorem test_grant_cases : (reading 0 [] false (some 17) false).grant = some 17 ∧ (reading 2 [] false (some 14) false).grant = some 14 ∧
    (reading 0 [] false (some 17) true).acked = true ∧ (reading 0 [] false (some 17) false).lines = [7] := by decide
theorem test_write_back_cases : let s := homed { dir := [(7, ⟨true, 6, 0⟩)], wbs := [(6, 7, List.replicate 128 0x5A)] }
    wbOf s.dev 6 7 = some (List.replicate 128 0x5A) ∧ Sparse.find s.dev.coh.dir 7 = some ⟨true, 6, 0⟩ ∧
    wbOf (homed { wbs := [(11, 7, List.replicate 128 0)] }).dev 11 7 ≠ none ∧
    (aLine (homed { wbAcks := [(6, 7)], agents := [(12 * 7 + 6, { st := .miA })] }).dev 6 7).st = .miA ∧
    (aLine (homed { wbAcks := [(6, 7)], agents := [(12 * 7 + 6, { st := .miA })] }).dev 6 7).want = [] := by decide +kernel

/-- An unlocked table whose first two ranges overlap on stack 0. -/
def table : State := raw (fsets [(Reg.HUB_HBM_STACKS, [], Fld.HUB_HBM_STACKS_in_service, 1),
  (Reg.HUB_HBM_RANGE, [0], Fld.HUB_HBM_RANGE_enable, 1), (Reg.HUB_HBM_RANGE, [0], Fld.HUB_HBM_RANGE_len_gib, 16),
  (Reg.HUB_HBM_RANGE, [1], Fld.HUB_HBM_RANGE_enable, 1), (Reg.HUB_HBM_RANGE, [1], Fld.HUB_HBM_RANGE_off_gib, 15),
  (Reg.HUB_HBM_RANGE, [1], Fld.HUB_HBM_RANGE_len_gib, 8), (Reg.HUB_HBM_RANGE, [31], Fld.HUB_HBM_RANGE_enable, 1),
  (Reg.HUB_HBM_RANGE, [31], Fld.HUB_HBM_RANGE_off_gib, 40), (Reg.HUB_HBM_RANGE, [31], Fld.HUB_HBM_RANGE_len_gib, 8)])

theorem test_range_lock_cases : let t := run (.hbmRangeLock .mfw 0x80000000) table
    pathPort .mfw = none ∧ Fld.HUB_HBM_CFG_lock.get 0x80000000 = 1 ∧ rangesLocked table.dev = false ∧ rangeOn t.dev 0 = true ∧
    rangeOn t.dev 1 = false ∧ rangeOn t.dev 31 = true ∧ fget t.dev Reg.HUB_HBM_RANGE [31] Fld.HUB_HBM_RANGE_base_gib = 16 ∧
    rangeOf t.dev (16 * 2 ^ 30 - 1) = some 0 ∧ rangeOf t.dev (16 * 2 ^ 30) = some 31 ∧ rangeOf t.dev (24 * 2 ^ 30) = none ∧
    decodeHbm t.dev (16 * 2 ^ 30) = some (0, 40 * 2 ^ 30) := by decide +kernel

theorem test_line_decode_cases : 0 ∈ stacksIn (sys id).dev ∧ poisoned (sys id).dev (lineMark (stackCells 0)) = false ∧
    fbit (sys (fsets [(Reg.PKM_SCRUB, [0], Fld.PKM_SCRUB_enable, 1)])).dev Reg.PKM_SCRUB [0] Fld.PKM_SCRUB_enable = true ∧
    fbit (sys id).dev Reg.PKM_HBM_UE_HI [0] Fld.PKM_HBM_UE_HI_valid = false ∧ fbit (homed {}).dev Reg.PKM_CACHE_CFG [0] Fld.PKM_CACHE_CFG_fenced = false := by
  decide +kernel
theorem test_agent_lost_cases : let s := homed { dir := [(7, ⟨true, 0, 0⟩)], txns := [{ reading 1 [{ agent := 0, line := 7, kind := 9 }] true none false with
      req := { kind := 1, src := .port 0, agent := some 6, addr := 896 } }] }
    s.dev.coh.txns.all (fun x => x.req.agent != some 0 && x.snoops.all (fun n => n.agent == 0) && x.snoops.length == s.dev.coh.txns.length && x.rd) = true ∧
    s.dev.coh.txns.length ≤ 1 ∧ Sparse.rising 0 s.dev.coh.dir = true ∧ Sparse.find s.dev.coh.dir 7 = some ⟨true, 0, 0⟩ := by decide +kernel

/-! ### Feino -/

/-- The bundle between hub bundle 0 and its base die, both ends in a state, with hidden states. -/
def farHub : BundleEnd := (farEnd (.hub 0)).getD (.hub 0)
def bundle (st : Nat) (a b : Fei) : State := sys (fun d => setFei (setFei (feiSet (feiSet d (.hub 0) 1 Fld.HUB_FEI_STAT_state st)
  farHub 1 Fld.HUB_FEI_STAT_state st) (.hub 0) a) farHub b)

theorem test_bundle_cases : farEnd (.hub 0) = some farHub ∧ farEnd (.hub 3) ≠ none ∧ farEnd (.le 15 2) ≠ none ∧ farEnd (.base 0 25) = none ∧
    endLeads (.hub 0) = true ∧ [0, 1, 2, 3, 4, 5, 6, 7].all (fun st => feiState (bundle st {} {}).dev (.hub 0) == st &&
      feiState (bundle st {} {}).dev farHub == st) = true ∧ feiGet (bundle 1 {} {}).dev (.hub 0) 1 Fld.HUB_FEI_STAT_attempts + 1 < 3 ∧
    (fei (bundle 1 { runtime := true } {}).dev (.hub 0)).runtime = true ∧
    3 ≤ feiGet (feiSet (bundle 1 {} {}).dev (.hub 0) 1 Fld.HUB_FEI_STAT_attempts 2) (.hub 0) 1 Fld.HUB_FEI_STAT_attempts + 1 := by decide +kernel
theorem test_lane_lock_bounds : 64 ≤ ones 68 (2 ^ 64 - 1) ∧ ones 68 (2 ^ 63 - 1) < 64 ∧ laneList (BitVec.ofNat 68 (2 ^ 67 + 1)) = [0, 67] := by
  decide +kernel
theorem test_exchange_cases : let s := bundle 3 {} { bad := [1, 2, 3, 67] }
    ((fusedExcl s.dev (.hub 0) ++ (fei s.dev farHub).bad).foldl (fun l z => insertAsc z l) []).length = 4 ∧
    ((fusedExcl s.dev farHub ++ (fei s.dev (.hub 0)).bad).foldl (fun l z => insertAsc z l) []).length = 0 ∧
    ((fusedExcl s.dev (.hub 0) ++ [1, 2, 3, 4, 5]).foldl (fun l z => insertAsc z l) []).length = 5 ∧
    feiGet s.dev (.hub 0) 0 Fld.HUB_FEI_CTL_rx_raw = 0 ∧ feiGet s.dev (.hub 0) 0 Fld.HUB_FEI_CTL_tx_raw = 0 := by decide +kernel
theorem test_align_credit_cases : 8 ≤ (fei (bundle 4 { alnGood := 8 } { alnGood := 8 }).dev (.hub 0)).alnGood ∧
    8 ≤ (fei (bundle 4 { alnGood := 8 } { alnGood := 8 }).dev farHub).alnGood ∧
    (fei (bundle 4 { alnGood := 7 } {}).dev (.hub 0)).alnGood < 8 ∧
    (fei (bundle 5 { gotCredit := true, gotRaw := true } { gotCredit := true, gotRaw := true }).dev farHub).gotRaw = true ∧
    (fei (bundle 5 { gotCredit := true } {}).dev (.hub 0)).gotRaw = false := by decide +kernel

/-- A flit kept for replay. -/
def kept : FFlit := { seq := 4095, ftype := 1, sov := 0, cr := 0, rawCr := 0, slots := [] }

theorem test_retrain_cases : (fei (bundle 6 { replay := [kept] } {}).dev (.hub 0)).replay ≠ [] ∧
    (fei (bundle 6 {} {}).dev (.hub 0)).replay = [] ∧ ([ctlArea 6 []].any (fun a => (a.headD 0).toNat == 6)) = true ∧
    (exclOf (bundle 6 { reqs := [0, 1, 2] } {}).dev (.hub 0) false ++ [0, 1, 2]).length < 4 ∧
    67 ∉ exclOf (bundle 6 {} {}).dev (.hub 0) false ++ [0, 1, 2] ∧ (exclOf (bundle 6 {} {}).dev (.hub 0) true).length < 4 ∧
    (fei (bundle 7 { txRaw := 3 } {}).dev (.hub 0)).txRaw ≠ 0 := by decide +kernel

/-- A message of class 0 and operation 2 in one slot. -/
def oneSlot : List Byte := leBytes 16 (2 * 2 ^ 4)
/-- A flit of a type with a sequence number, messages or a control area, and its CRC. -/
def flitOf (ftype seq sov : Nat) (area : List Byte) : List Byte :=
  let b := leBytes 8 (ftype + sov * 2 ^ 20 + seq * 2 ^ 52) ++ padTo 244 area
  b ++ leBytes 4 (crc32c b)

theorem test_slot_cases : let s := bundle 6 { slot := 1023 } {}
    (fei s.dev (.hub 0)).slot < 1024 ∧ (fei (bundle 6 {} {}).dev (.hub 0)).slot = 0 ∧ (fei s.dev (.hub 0)).newExcl = [] ∧
    (fei s.dev (.hub 0)).txRaw = 0 ∧ (fei s.dev (.hub 0)).accR < 4 ∧ (fei s.dev (.hub 0)).replay.length < 128 := by decide +kernel
theorem test_send_cases : let s := { bundle 6 { slot := 2 } {} with dev := setFeiCredit (bundle 6 { slot := 2 } {}).dev (.hub 0) 0 1 }
    msgBad oneSlot = false ∧ msgSlots oneSlot = 1 ∧ msgClass oneSlot = 0 ∧ feiCredit s.dev (.hub 0) 0 = 1 ∧
    edgeHeld s.dev (.hub 0) = false ∧ edgeChoice s.dev (.hub 0) oneSlot = .hub 0 ∧ (fei s.dev (.hub 0)).txq = [] ∧
    (fei s.dev (.hub 0)).ctlq = [] ∧ (fei s.dev (.hub 0)).resend = none := by decide +kernel
theorem test_flit_cases : let f := flitOf 1 0 1 oneSlot
    let g := flitOf 2 7 0 (ctlArea 5 [])
    f.length = 256 ∧ leNat (f.drop 252) = crc32c (f.take 252) ∧ bits (leNat (f.take 8)) 3 0 = 1 ∧ bits (leNat (f.take 8)) 63 52 = 0 ∧
    splitMsgs 1 (slice f 8 240) = [some oneSlot] ∧ leNat ((List.replicate 256 (0 : Byte)).drop 252) ≠ crc32c (List.replicate 252 0) ∧
    bits (leNat (g.take 8)) 3 0 = 2 ∧ bits (leNat (g.take 8)) 63 52 ≠ (fei (bundle 6 {} {}).dev (.hub 0)).seqRx ∧
    ((slice g 8 240).headD 0).toNat = 5 ∧ leNat (g.drop 252) = crc32c (g.take 252) := by decide +kernel
theorem test_replay_cases : (fei (bundle 6 { replay := [kept], nakIn := true } {}).dev (.hub 0)).nakIn = true ∧
    (fei (bundle 6 { replay := [kept], nakIn := true } {}).dev (.hub 0)).rawNakIn = false ∧
    (fei (bundle 6 { rxRaw := 1 } {}).dev (.hub 0)).rxRaw ≠ 0 ∧ ((ctlArea 1 []).headD 0).toNat = 1 ∧ ((ctlArea 2 []).headD 0).toNat = 2 ∧
    (fei (bundle 6 { waitInfo := true } {}).dev (.hub 0)).waitInfo = true := by decide +kernel
theorem test_frame_cases : let b := padTo 248 [] ++ leBytes 4 (2 ^ 16)
    let f := b ++ leBytes 4 (crc32c b)
    f.length = 256 ∧ leNat (f.drop 252) = crc32c (f.take 252) ∧ bits (leNat (slice f 248 4)) 15 12 ≠ 15 ∧ bits (leNat (slice f 248 4)) 11 0 = 0 ∧
    tbit (leNat (slice f 248 4)) 16 = true := by decide +kernel

/-- A fence-info for bundle 1 of the hub's edge is at bundle 0. -/
def fencing : State := sys (fun d => setFei (setFei (feiSet d (.hub 0) 1 Fld.HUB_FEI_STAT_state 6) (.hub 0) { ctl := [ctlArea 5 [1, 0, 0]] })
  (.hub 1) { waitInfo := true, replay := [{ kept with seq := 5, sov := 1, slots := oneSlot }] })

theorem test_fence_info_cases : edgeEnds (.hub 0) = [.hub 0, .hub 1] ∧ ((ctlArea 5 [1, 0, 0]).headD 0).toNat = 5 ∧
    (edgeEnds (.hub 0)).find? (fun u => edgeNumber u == ((ctlArea 5 [1, 0, 0]).getD 8 0).toNat && (fei fencing.dev u).waitInfo) = some (.hub 1) ∧
    seqLe 5 0 = false ∧ (splitMsgs 1 (padTo 240 oneSlot)).filterMap id = [oneSlot] := by decide +kernel
theorem test_discover_match : let p := placeDie 1
    (bits (p.1 + 256 * p.2) 7 0, bits (p.1 + 256 * p.2) 15 8) = p ∧ placeDie 60 ≠ (bits 0xFFFF 7 0, bits 0xFFFF 15 8) := by decide +kernel

/-! ### Privet -/

/-- Guest site 1 in a state, with hidden state, messages at its interface, and the whole of HBM open to reads by its active rule 0. -/
def guested (st : Nat) (x : Guest) (inbox : List (List Byte)) : State :=
  { sys (fun d => wrReg (wrReg (fsets [(Reg.PRV_STAT, [1], Fld.PRV_STAT_state, st), (Reg.HUB_PART_RES, [0], Fld.HUB_PART_RES_guests, 2),
      (Reg.PRV_RATE, [1], Fld.PRV_RATE_rate, 1)]
    (setFei (setGuest d 1 x) (.guest 1) { inbox := inbox, heldBack := [9, 0, 0, 0, 0, 5, 0, 0, 0, 0] })) Reg.PRV_RULE_ACT [1, 0] 3)
      Reg.PRV_RULE_ACT [1, 3] 0xFFFFF) with fuses := { State.reset.fuses with guestPop := 2 } }

theorem test_guest_cases : guestState (guested 1 {} []).dev 1 = 1 ∧ partOfGuest (guested 1 {} []).dev 1 = some 0 ∧
    partOfGuest (raw id).dev 1 = none ∧ 1 < (guested 1 {} []).fuses.guestPop ∧ (guest (guested 2 { step := 2 } []).dev 1).step = 2 ∧
    guestState (guested 4 {} []).dev 1 = 4 ∧ tbit (guest (guested 3 {} []).dev 1).agreed 26 = false ∧
    fbit (guested 3 {} []).dev Reg.PRV_COMMIT [1] Fld.PRV_COMMIT_busy = false ∧ (guest (guested 3 {} []).dev 1).old = [] := by decide +kernel

/-- An offer of version 1.0 with the classes 5, 6 and 7 that a limit of the same must agree to, and one without class 7 (R283). -/
theorem test_offer_cases : let l := profWord (sys (fun d => wrReg d Reg.PRV_LIMIT [1, 0] 0x3FF0000)).dev Reg.PRV_LIMIT 1
    bits 0xE00000 7 4 = bits l 7 4 ∧ bits (bits 0xE00000 25 16 &&& bits l 25 16) 7 5 = 7 ∧
    bits (bits 0x600000 25 16 &&& bits l 25 16) 7 5 ≠ 7 ∧ bits 0xE00010 7 4 ≠ bits l 7 4 := by decide +kernel

/-- A message of the guest at site 1: its class, operation, source unit and address; size code 3. -/
def guestMsg (cls op unit a : Nat) : List Byte := leBytes 16 (cls + op * 2 ^ 4 + unit * 2 ^ 36 + 3 * 2 ^ 52 + a * 2 ^ 64)
/-- Every class agreed, one tag. -/
def agreedAll : Guest := { agreed := 0x3FF0000 }

theorem test_guest_message_cases : let s := guested 3 agreedAll [guestMsg 5 0 60 0x20000000000]
    guestActive s.dev 1 = true ∧ msgBad (guestMsg 5 0 60 0) = false ∧ mfield (guestMsg 5 0 60 0) 43 36 = 60 ∧ msgClass (guestMsg 5 0 60 0) = 5 ∧
    msgOp (guestMsg 5 0 60 0) = 0 ∧ tagsFull s.dev 1 = false ∧ tbit agreedAll.agreed 21 = true ∧
    tbit (fget s.dev Reg.PRV_CTL [1] Fld.PRV_CTL_class_allow) 5 = true ∧ privetAdmits s.dev 1 0x20000000000 8 0 false = true ∧
    targetOf s.dev 0x20000000000 8 = .none_ ∧ privetAdmits (guested 3 agreedAll []).dev 1 (2 ^ 51) 8 1 false = false ∧
    msgBad (guestMsg 10 0 60 0) = true ∧ msgClass (guestMsg 6 0 60 0) = 6 ∧ tbit 0 21 = false ∧
    fbit s.dev Reg.PRV_DENY_LOG_HI [1] Fld.PRV_DENY_LOG_HI_valid = false := by decide +kernel
theorem test_tags_full : tagsFull { (guested 3 agreedAll []).dev with coh := { waiting := [{ kind := 3, src := .guest 1, agent := none, addr := 0 }] } } 1
    = true := by decide +kernel
theorem test_refill_cases : let f := fei (guested 3 agreedAll []).dev (.guest 1)
    f.heldBack.length = 10 ∧ f.owed.length = 10 ∧ fget (guested 3 agreedAll []).dev Reg.PRV_RATE [1] Fld.PRV_RATE_rate ≠ 0 ∧
    fget (raw id).dev Reg.PRV_RATE [1] Fld.PRV_RATE_rate = 0 := by decide +kernel

/-- One write of rate 1 refills 64 bytes: four of the fourteen credits held back go to class 0 (R287). -/
theorem test_refill_value : let t := run (.prvTokenRefill 1) (guested 3 agreedAll [])
    (fei t.dev (.guest 1)).heldBack.foldl (· + ·) 0 = 10 ∧ (guest t.dev 1).tokens = 0 := by decide +kernel

/-! ### Light engines: lasers, monitors, heaters, Gap -/

/-- Light engine 15 ACTIVE with hidden state, all of its lasers in a state but those given, and register fields. -/
def engined (x : Le) (lasers : List (Nat × Nat × Nat)) (l : List (RegDesc × List Nat × Fld × Nat)) : State :=
  sys (fun d => fsets ([(Reg.LE_STAT, [15], Fld.LE_STAT_state, 2), (Reg.LE_CTL, [15], Fld.LE_CTL_age_en, 1)] ++
    lasers.map (fun y => (Reg.LE_LASER, [15, y.1, y.2.1], Fld.LE_LASER_state, y.2.2)) ++ l) (setLe d 15 x))

theorem test_laser_cases : let s := engined { low := [(45, 1)], off := [(44, 20)] } [(1, 17, 5), (1, 0, 6), (1, 22, 3), (0, 18, 2), (0, 0, 5)] []
    laserState s.dev 15 1 17 = 5 ∧ laserState s.dev 15 1 22 = 3 ∧ fget s.dev Reg.LE_LASER [15, 1, 22] Fld.LE_LASER_slot ≠ 17 ∧
    laserState s.dev 15 1 18 ≠ 2 ∧ laserState s.dev 15 0 18 = 2 ∧ laserState s.dev 15 1 0 = 6 ∧ leState s.dev 15 = 2 ∧
    laserLit (laserState s.dev 15 1 22) = true ∧ Sparse.get 0 (le s.dev 15).low 45 = 1 ∧
    (-1536 : Int) + 1536 < (1 : BitVec 16).toInt ∧ ¬ ((1 : BitVec 16).toInt + 1536 < (1537 : BitVec 16).toInt) ∧
    20 ≤ Sparse.get 0 (le s.dev 15).off 44 := by decide +kernel

/-- A second reading 6 dB and 1/256 low fails a laser in service; one of exactly 6 dB does not (R296, R300). -/
theorem test_laser_fails : let s := engined { low := [(0, 1)] } [(0, 0, 1)] []
    laserState (run (.laserMonitor 15 0 0 (.ofInt 16 (-1537)) 0 false) s).dev 15 0 0 = 5 ∧
    laserState (run (.laserMonitor 15 0 0 (.ofInt 16 (-1536)) 0 false) s).dev 15 0 0 = 1 := by decide +kernel
theorem test_ageing_cases : let s := engined { fibs := [(0, { margins := List.replicate 18 4 })] } [(0, 0, 1)] [(Reg.LE_FIBRE, [15, 0], Fld.LE_FIBRE_state, 0)]
    fbit s.dev Reg.LE_CTL [15] Fld.LE_CTL_age_en = true ∧ fbit (engined {} [] [(Reg.LE_CTL, [15], Fld.LE_CTL_age_en, 0)]).dev Reg.LE_CTL [15] Fld.LE_CTL_age_en = false ∧
    marginMin s.dev 15 0 0 1 = some 4 ∧ (4 : Int) + 16 < (fget s.dev Reg.LE_AGE_CFG [15] Fld.LE_AGE_CFG_target : Int) ∧
    marginMin s.dev 15 0 0 0 = none := by decide +kernel
theorem test_scan_cases : txMoving (engined { fibs := [(7, { txOp := some (1, 0) })] } [] []).dev 127 = true ∧
    txMoving (engined {} [] []).dev 127 = false := by decide +kernel

/-- Heater 10 of engine 15 has an entry of the applied matrix that names heater 11. -/
def crossed : State := engined {} [] [(Reg.LE_CTL, [15], Fld.LE_CTL_xt_en, 1), (Reg.LE_XT_ACT, [15, 10, 0], Fld.LE_XT_valid, 1),
  (Reg.LE_XT_ACT, [15, 10, 0], Fld.LE_XT_off, 1), (Reg.LE_XT_ACT, [15, 10, 0], Fld.LE_XT_coeff, 0x4000),
  (Reg.LE_RING_CTL, [15, 10], Fld.LE_RING_CTL_heater_code, 1000)]

theorem test_heater_cases : xtNamers crossed.dev 15 11 = [10] ∧ heaterDrive crossed.dev 15 10 = (1000, false) ∧
    xtBad [(319, 7, Fld.LE_XT_valid.put 0 1)] = some (319, 7) ∧ xtBad [] = none := by decide +kernel

/-- With coefficient 1/2 and a target of 3 at heater 11, heater 10's drive is 1000 − 1.5, rounded to 999 (R307). -/
theorem test_heater_rounds : let t := run (.heaterTargetChange 15 11 3) crossed
    fget t.dev Reg.LE_RING_STAT [15, 10] Fld.LE_RING_STAT_drive = 999 ∧
    fget t.dev Reg.LE_RING_STAT [15, 11] Fld.LE_RING_STAT_drive = 3 := by decide +kernel
theorem test_margin_report_cases : leNat ((5 :: List.replicate 29 (0 : Byte)).take 1) = 0x05 ∧
    (getLq { (sys id).dev with lq := [(127, { rxMsgs := [[5]] })] } 127).rxMsgs = [5] :: [] := by decide +kernel

theorem test_gap_cases : gapReason (engined {} [] []).dev 15 0x98765432 = 0 ∧ gapReason (engined {} [] []).dev 15 0x00000088 = 1 ∧
    gapReason (sys id).dev 15 0 = 4 ∧ gapReason (sys (fsets [(Reg.LE_STAT, [15], Fld.LE_STAT_state, 3)])).dev 15 0 = 3 ∧
    Fld.LE_GAP_CMD_go.get 0x80000000 = 1 ∧ Fld.LE_GAP_CMD_cancel.get 0x80000000 = 0 ∧ Fld.LE_GAP_CMD_at_time.get 0xC0000000 = 1 ∧
    (le (engined { gapPend := some (8, some 0) } [] []).dev 15).gapPend = some (8, some 0) ∧
    (le (engined { gapExec := some 8 } [] []).dev 15).gapPend = none ∧ gapOut 8 0 ≠ gapOut 0 0 ∧
    (engined {} [] []).dev.tb < 1 := by decide +kernel
theorem test_connector_cases : fbit (engined {} [] [(Reg.LE_STAT, [15], Fld.LE_STAT_conn, 1)]).dev Reg.LE_STAT [15] Fld.LE_STAT_conn = true ∧
    fbit (engined {} [] [(Reg.LE_STAT, [15], Fld.LE_STAT_conn, 0), (Reg.LE_STAT, [15], Fld.LE_STAT_state, 3)]).dev Reg.LE_STAT [15] Fld.LE_STAT_conn = false ∧
    leState (engined {} [] [(Reg.LE_STAT, [15], Fld.LE_STAT_state, 4)]).dev 15 = 4 := by decide +kernel

/-! ### Calibration -/

/-- Fibre pair 127 (light engine 15) ACTIVE with its rings 0 on channel 0, hidden state and messages. -/
def calib (x : Le) (f : LeFib) (msgs : List (List Byte)) (l : List (RegDesc × List Nat × Fld × Nat)) : State :=
  sys (fun d => fsets ([(Reg.LE_STAT, [15], Fld.LE_STAT_state, 2), (Reg.LE_FIBRE, [15, 7], Fld.LE_FIBRE_state, 0),
    (Reg.LE_FIBRE, [15, 7], Fld.LE_FIBRE_tx_gap, 0), (Reg.LE_FIBRE, [15, 7], Fld.LE_FIBRE_rx_gap, 0),
    (Reg.LQ_STAT, [15, 7], Fld.LQ_STAT_state, 5), (Reg.LE_RING_CTL, [15, 280], Fld.LE_RING_CTL_channel, 0),
    (Reg.LE_RING_CTL, [15, 300], Fld.LE_RING_CTL_channel, 0), (Reg.LE_CAL_RSTATE, [15, 280], Fld.LE_CAL_RSTATE_state, 3),
    (Reg.LE_CAL_FIBRE, [15, 7], Fld.LE_CAL_FIBRE_step, 2)] ++ l)
    { d with le := [(15, { x with fibs := [(7, f)] })], lq := [(127, { rxMsgs := msgs })] })

/-- A calibration message: its code, lane, operation, argument and result (Table 10.7). -/
def calMsg (code lane op arg res : Nat) : List Byte :=
  leBytes 4 (6 + 256 * 4) ++ leBytes 4 (code + 16 * lane + 2 ^ 9 * op + 2 ^ 12 * arg + 2 ^ 17 * res)

theorem test_cal_run_cases : conservative (calib {} {} [] []).dev 15 = false ∧
    conservative (calib {} {} [] [(Reg.LE_STAT, [15], Fld.LE_STAT_profile, 1)]).dev 15 = true ∧
    fget (calib {} {} [] [(Reg.LE_CAL_STAT, [15], Fld.LE_CAL_STAT_running, 1)]).dev Reg.LE_CAL_STAT [15] Fld.LE_CAL_STAT_running = 1 ∧
    (let d := (calib {} {} [] [(Reg.LE_CAL_CFG, [15], Fld.LE_CAL_CFG_run_en, 1), (Reg.LE_CAL_CFG, [15], Fld.LE_CAL_CFG_dT, 3),
      (Reg.LE_CAL_TEMP, [15], Fld.LE_CAL_TEMP_t_now, 4)]).dev
     fbit d Reg.LE_CAL_CFG [15] Fld.LE_CAL_CFG_run_en = true ∧ max 1 (fget d Reg.LE_CAL_CFG [15] Fld.LE_CAL_CFG_dT) <
      (signed 16 (fget d Reg.LE_CAL_TEMP [15] Fld.LE_CAL_TEMP_t_now) - signed 16 (fget d Reg.LE_CAL_TEMP [15] Fld.LE_CAL_TEMP_t_last)).natAbs) ∧
    Fld.LE_CAL_CMD_run.get (Fld.LE_CAL_CMD_lane.put 0 1) = 0 ∧ Fld.LE_CAL_CMD_lane.get (Fld.LE_CAL_CMD_lane.put 0 1) = 1 ∧
    17 < Fld.LE_CAL_CMD_lane_no.get (Fld.LE_CAL_CMD_lane_no.put 0 18) := by decide +kernel
theorem test_cal_start_cases : let s := calib {} { queue := [0, 17] } [] []
    (le s.dev 15).single = none ∧ (leFib s.dev 127).queue = 0 :: [17] ∧ calMayStart s.dev 127 = true ∧ pairUp s.dev 127 = true ∧
    ringFor s.dev 127 1 (laneChan s.dev 127 1 0) = some 300 ∧
    calMayStart (calib {} { queue := [0] } [] [(Reg.LQ_ERASED, [15, 7], Fld.LQ_ERASED_lanes, 2)]).dev 127 = false ∧
    (leFib (calib {} { queue := [0], again := true } [] []).dev 127).again = true := by decide +kernel
theorem test_cal_go_cases : let s := calib {} {} [calMsg 1 0 1 0 0] [(Reg.LE_CAL_CFG, [15], Fld.LE_CAL_CFG_retune_max, 2)]
    (takeCal s.dev 127 0x1).isSome = true ∧ leState s.dev 15 = 2 ∧ fbit s.dev Reg.LE_FIBRE (lqIx 127) Fld.LE_FIBRE_tx_gap = false ∧
    calOp (leNat ((calMsg 1 0 1 0 0).drop 4)) = 1 ∧ ringFor s.dev 127 0 (laneChan s.dev 127 0 0) = some 280 ∧ retuneMax s.dev 15 = 2 ∧
    retuneMax (calib {} {} [] [(Reg.LE_CAL_CFG, [15], Fld.LE_CAL_CFG_retune_max, 0)]).dev 15 = 1 := by decide +kernel
theorem test_cal_txdone_cases : let s := calib {} { cal := some { lane := 0, op := 1 } } [calMsg 2 0 1 0 1] []
    (takeCal s.dev 127 0x2).isSome = true ∧ (leFib s.dev 127).cal = some { lane := 0, op := 1 } ∧
    calLane (leNat ((calMsg 2 0 1 0 1).drop 4)) = 0 ∧ calOp (leNat ((calMsg 2 17 2 0 7).drop 4)) = 2 ∧
    2 ≤ calResult (leNat ((calMsg 2 17 2 0 7).drop 4)) ∧ calResult (leNat ((calMsg 2 0 1 0 1).drop 4)) = 1 := by decide +kernel
theorem test_cal_abort_cases : let s := calib {} { txOp := some (17, 319) } [calMsg 3 17 0 0 0] []
    (takeCal s.dev 127 0x3).isSome = true ∧ (leFib s.dev 127).txOp = some (17, 319) ∧ ringState s.dev 15 280 = 3 ∧
    ringState s.dev 15 319 ≠ 3 := by decide +kernel
theorem test_cal_rx_cases : let s := calib {} { cal := some { lane := 0, op := 0, sent := true } } [] []
    (leFib s.dev 127).cal = some { lane := 0, op := 0, sent := true } ∧ fget s.dev Reg.LE_CAL_FIBRE (lqIx 127) Fld.LE_CAL_FIBRE_step = 2 ∧
    ringFor s.dev 127 1 (laneChan s.dev 127 1 0) = some 300 ∧ inGap s.dev 127 = false ∧ ones 18 (erasure s.dev 127) ≤ 2 ∧
    lqStat s.dev 127 Fld.LQ_STAT_los = 0 := by decide +kernel
theorem test_cal_req_cases : let s := calib {} {} [calMsg 4 17 3 0 0, calMsg 4 17 1 0 0] []
    (takeCal s.dev 127 0x4).isSome = true ∧ calLane (leNat ((calMsg 4 17 3 0 0).drop 4)) = 17 ∧
    calOp (leNat ((calMsg 4 17 3 0 0).drop 4)) = 3 ∧ (leFib s.dev 127).cal = none := by decide +kernel
/-- A crossing is asked of the far end, with lane 17 erased. -/
def crossingAsked : State := calib {} { txTransit := some ⟨280, 281, 3, 0, [], none, false⟩ } [calMsg 5 17 0 3 0]
  [(Reg.LQ_ERASED, [15, 7], Fld.LQ_ERASED_lanes, 2 ^ 17)]

theorem test_cal_xing_cases : let s := crossingAsked
    (takeCal s.dev 127 0x5).isSome = true ∧ calArg (leNat ((calMsg 5 17 0 3 0).drop 4)) = 3 ∧ calResult (leNat ((calMsg 5 17 0 3 0).drop 4)) ≠ 1 ∧
    calResult (leNat ((calMsg 5 17 0 3 1).drop 4)) = 1 ∧ laneFor s.dev 127 1 3 ≠ 17 ∧ erasure s.dev 127 = 2 ^ 17 ∧
    (leFib s.dev 127).txTransit.isSome = true := by decide +kernel

/-! ### Rings -/

/-- Ring 280 or 300 of engine 15 in a state with hidden state (both rings on channel 0 of fibre 127). -/
def ringed10 (h st : Nat) (r : Ring) (f : LeFib) (l : List (RegDesc × List Nat × Fld × Nat)) : State :=
  calib { rings := [(h, r), (h + 1, { good := true, park := 20000 })] } f []
    ([(Reg.LE_CAL_RSTATE, [15, h], Fld.LE_CAL_RSTATE_state, st), (Reg.LE_RING_CTL, [15, h], Fld.LE_RING_CTL_heater_code, 30000)] ++ l)

theorem test_start_cases : leState (sys id).dev 15 < 2 ∧ leLocked (sys id).dev 15 = false ∧ fbit (sys id).dev Reg.LE_STAT [15] Fld.LE_STAT_conn = false ∧
    fitGood false ⟨true, 9, 2300, 0⟩ = true ∧ fitGood false ⟨true, 9, 3101, 0⟩ = false ∧ fitGood true ⟨true, 9, 2300, 0⟩ = false ∧
    assignRow (fun h c => if h = 7 then 9000 + c else 9005) [0, 17] [5, 7] = [(7, 0), (5, 17)] ∧
    fget (calib {} {} [] [(Reg.LE_FIBRE, [15, 7], Fld.LE_FIBRE_state, 2)]).dev Reg.LE_FIBRE (lqIx 127) Fld.LE_FIBRE_state = 2 := by
  decide +kernel
theorem test_loop_cases : loopRuns (ringed10 280 2 {} {} []).dev 15 280 = true ∧ loopRuns (ringed10 280 3 {} {} []).dev 15 280 = false ∧
    280 / 20 % 2 = 0 ∧ 300 / 20 % 2 = 1 ∧ inHold 1024 = true ∧ inHold 64511 = true ∧ inHold 64512 = false ∧ inHold 1023 = false ∧
    readingHeld (ringed10 300 3 {} {} []).dev 15 300 = true ∧ readingHeld (ringed10 300 2 {} {} []).dev 15 300 = false ∧
    inGap (ringed10 300 2 {} {} []).dev 127 = false ∧ (ring (ringed10 300 2 { aRef := 100 } {} []).dev 15 300).aRef ≠ 0 ∧
    3 ≤ (ring (ringed10 300 2 { bad := 3 } {} []).dev 15 300).bad := by decide +kernel
theorem test_retune_cases : ringState (ringed10 300 3 {} {} []).dev 15 300 = 3 ∧ rxGapped (ringed10 300 3 {} {} []).dev 127 = false ∧
    (leFib (ringed10 280 3 {} { txOp := some (0, 280) } []).dev 127).txOp = some (0, 280) ∧
    fget (ringed10 280 3 {} {} []).dev Reg.LE_RING_CTL [15, 280] Fld.LE_RING_CTL_channel < 18 ∧
    retuneMax (ringed10 280 3 {} {} []).dev 15 ≤ 3 + 1 ∧
    ¬ retuneMax (ringed10 280 3 {} {} [(Reg.LE_CAL_CFG, [15], Fld.LE_CAL_CFG_retune_max, 3)]).dev 15 ≤ 0 + 1 := by decide +kernel
/-- Ring 280 failed and ring 281 is parked. -/
def sparing : State := ringed10 280 6 {} {} [(Reg.LE_CAL_RSTATE, [15, 280], Fld.LE_CAL_RSTATE_reason, 2),
    (Reg.LE_CAL_RSTATE, [15, 281], Fld.LE_CAL_RSTATE_state, 0), (Reg.LE_CAL_RSTATE, [15, 281], Fld.LE_CAL_RSTATE_spacing, 2700)]

theorem test_ring_spare_cases : let s := sparing
    ringState s.dev 15 280 = 6 ∧ (leFib s.dev 127).txTransit = none ∧
    (lowest 20 (fun i => ringState s.dev 15 (280 + i) == 0 && (ring s.dev 15 (280 + i)).good)).map (280 + ·) = some 281 ∧
    (transitChoice (transitWays 20000 2700 (-3) 0)).isSome = true ∧ ringSpacing s.dev 15 281 = 2700 := by decide +kernel
theorem test_no_spare_case : let s := ringed10 300 2 { ask := true } {} [(Reg.LE_CAL_RSTATE, [15, 301], Fld.LE_CAL_RSTATE_state, 6)]
    (ring s.dev 15 300).ask = true ∧ ringState s.dev 15 300 = 2 ∧ (leFib s.dev 127).rxTransit = none ∧
    lowest 20 (fun i => ringState s.dev 15 (300 + i) == 0 && (ring s.dev 15 (300 + i)).good) = none := by decide +kernel
theorem test_crossing_cases : let x : Transit := ⟨281, 280, 17, 65535, [3, 4], some 3, false⟩
    (leFib (ringed10 280 6 {} { txTransit := some x } []).dev 127).txTransit = some x ∧
    ringSpacing (ringed10 281 5 {} {} []).dev 15 281 ≤ heaterTarget (ringed10 281 5 {} {} []).dev 15 281 ∧
    (leFib (ringed10 280 6 {} { txTransit := some { x with cross := [] } } []).dev 127).txTransit = some { x with cross := [] } := by decide +kernel
theorem test_conversion_cases : let data := Fld.LE_CAL_MON_CTL_stage.put (Fld.LE_CAL_MON_CTL_trig.put 0 1) 4
    Fld.LE_CAL_MON_CTL_trig.get data = 1 ∧ ¬ tapCount (Fld.LE_CAL_MON_CTL_stage.get data) ≤ 159 ∧
    tapCount 3 ≤ 8 ∧ tapCount 5 ≤ 0 ∧ (le (calib { conv := some (4, 159, 0, 0) } {} [] []).dev 15).conv = some (4, 159, 0, 0) ∧
    fget (calib {} {} [] [(Reg.LE_CAL_MON_RES, [15], Fld.LE_CAL_MON_RES_pending, 1)]).dev Reg.LE_CAL_MON_RES [15] Fld.LE_CAL_MON_RES_pending = 1 := by
  decide +kernel

/-! ### Links -/

/-- Fibre pair 127 in a link state with hidden state and register fields. -/
def linked (st : Nat) (x : Lq) (l : List (RegDesc × List Nat × Fld × Nat)) : State :=
  sys (fun d => fsets ([(Reg.LQ_STAT, [15, 7], Fld.LQ_STAT_state, st), (Reg.LE_FIBRE, [15, 7], Fld.LE_FIBRE_rx_gap, 0),
    (Reg.LQ_STAT, [15, 7], Fld.LQ_STAT_los, 0), (Reg.LQ_STAT, [15, 7], Fld.LQ_STAT_lead, 1)] ++ l) { d with lq := [(127, x)] })

theorem test_link_send_cases : tbit (lqStat (linked 5 {} []).dev 127 Fld.LQ_STAT_path) 0 = false ∧ lqState (linked 5 {} []).dev 127 = 5 ∧
    ((linked 5 { resend := some 3, replay := [oflit 3] } []).dev |> fun d => (getLq d 127).resend.bind
      (fun n => (getLq d 127).replay.find? (fun f => f.seq == n))) = some (oflit 3) ∧
    819 ≤ (List.replicate 819 (oflit 0)).length ∧ (List.replicate 818 (oflit 0)).length < 819 ∧
    nextVc (linked 5 {} []).dev 127 = none ∧ nextVc (linked 5 { txq := [(3, [])] } [(Reg.LQ_VC_HIGH, [15, 7, 1], Fld.LQ_VC_LOW_credits, 1)]).dev 127 = some 3 ∧
    (creditToReturn { freed := [0, 0, 9, 9] }) = (2, 9) ∧ (creditToReturn {}).2 = 0 ∧ blockNow (linked 6 {} []).dev % 400 = 0 := by decide +kernel

/-- A DATA flit of VC 0 with number 0 and its CRC, and what its block's columns decode to (R360 to R362). -/
def flit0 : List Byte := flitBytes false 1 0 0 0 0 (2 ^ 24 - 1) 0 5 0 [1, 2, 3]
set_option maxRecDepth 100000 in
theorem test_block_round_trip : (decodeColumns [] (blockColumns 7 (encodeLanes 7 flit0))).flit = some flit0 := by decide +kernel
set_option maxRecDepth 100000 in
theorem test_block_cases : crcOk flit0 = true ∧ fType flit0 = 1 ∧
    unreadable (linked 5 {} []).dev 127 = false ∧ pathRx (linked 5 {} []).dev 127 = false ∧
    unreadable (linked 5 {} [(Reg.LQ_ERASED, [15, 7], Fld.LQ_ERASED_lanes, 7)]).dev 127 = true := by decide +kernel
set_option maxRecDepth 100000 in
theorem test_accept_cases : fSeq flit0 = seqRx (linked 5 { got := some flit0 } []).dev 127 ∧ fCrCnt flit0 = 5 ∧ fSkind flit0 = 0 ∧
    fType (flitBytes false 0 0 0 0 0 0 0 0 0 []) = 0 ∧ fSeq (flitBytes false 3 0 0 2 5 0 0 0 0 []) = 5 ∧
    seqAfter (2 ^ 24) 5 0 = true ∧ seqAfter (2 ^ 24) (2 ^ 23) 0 = false ∧ badCtl (linked 5 {} []).dev 0 = true ∧
    (linked 5 { got := some flit0 } []).dev.lq = [(127, { got := some flit0 })] := by decide +kernel
theorem test_resend_cases : (getLq (linked 5 { nakIn := true, replay := [oflit 0] } []).dev 127).nakIn = true ∧
    lqActive (linked 5 {} []).dev 127 = true ∧ lqStat (linked 5 {} []).dev 127 Fld.LQ_STAT_path = 0 ∧
    (List.replicate 63 ({ kind := 1, value := 0 } : Slip)).length < 64 := by decide +kernel

theorem test_erase_cases : let s := linked 5 { hist := List.replicate 8 ⟨2 ^ 17, true, 2 ^ 17⟩ } []
    eraseCause s.dev 127 17 4 = true ∧ eraseCause s.dev 127 16 4 = false ∧ eraseCause s.dev 127 0 3 = true ∧ inGap s.dev 127 = false ∧
    erasure (linked 5 {} [(Reg.LQ_ERASED, [15, 7], Fld.LQ_ERASED_lanes, 3)]).dev 127 = 3 ∧ ones 18 3 ≤ 2 ∧
    eraseCause (linked 5 { hist := List.replicate 8 ⟨0, true, 2 ^ 17⟩ } [(Reg.LQ_ERASED, [15, 7], Fld.LQ_ERASED_lanes, 1)]).dev 127 17 5 = true := by
  decide +kernel
theorem test_light_cases : lqStat (linked 5 {} []).dev 127 Fld.LQ_STAT_los = 0 ∧ 16 ≤ ones 20 0xFFFF ∧ ¬ 16 ≤ ones 20 0x7FFF ∧
    lqStat (linked 5 {} [(Reg.LQ_STAT, [15, 7], Fld.LQ_STAT_los, 1)]).dev 127 Fld.LQ_STAT_los = 1 ∧
    ringState (linked 5 {} [(Reg.LE_CAL_RSTATE, [15, 319], Fld.LE_CAL_RSTATE_state, 2)]).dev 15 319 = 2 := by decide +kernel
theorem test_lead_cases : lqLead (linked 5 {} []).dev 127 = true ∧ lqActive (linked 8 {} []).dev 127 = false ∧
    (takeMsg (linked 5 { rxMsgs := [leBytes 4 (9 + 256) ++ leBytes 4 1] } []).dev 127 0x09).isSome = true ∧
    (takeMsg (linked 5 { rxMsgs := [leBytes 4 7, leBytes 4 8] } []).dev 127 0x07).isSome = true ∧
    (takeMsg (linked 5 { rxMsgs := [leBytes 4 7, leBytes 4 8] } []).dev 127 0x08).isSome = true ∧
    lqOq1 (linked 5 {} []).dev 127 = false ∧ (takeMsg (linked 5 { rxMsgs := [leBytes 4 (4 + 256 * 24) ++ leBytes 24 0] } []).dev 127 0x04).isSome = true ∧
    (List.range 4).all (fun v => decide (nth4 (getLq (linked 5 {} []).dev 127).windows v ≤ 2048)) = true := by decide +kernel
theorem test_align_cases : (List.range 18).all (fun l => trainOk l (trainBlock l 15 true (2 ^ 24 - 1))) = true ∧
    lockedRings (linked 1 {} ((List.range 16).map (fun r => (Reg.LE_CAL_RSTATE, [15, 300 + r], Fld.LE_CAL_RSTATE_state, 2)))).dev 127 = 16 ∧
    (getLq (linked 1 { phase := 2 } []).dev 127).phase = 2 ∧ (getLq (linked 1 { phase := 1, peerAck := true } []).dev 127).aligned < 2 ^ 18 := by
  decide +kernel
theorem test_path_cases : let data := Fld.LQ_PATH_CTL_mode.put (Fld.LQ_PATH_CTL_go.put 0 1) 3
    Fld.LQ_PATH_CTL_go.get data = 1 ∧ Fld.LQ_PATH_CTL_at_time.get data = 0 ∧ conservative (linked 5 {} []).dev 15 = false ∧
    (getLq (linked 5 { pathPend := some (0, 3, 2) } []).dev 127).pathPend = some (0, 3, 2) ∧
    pathRx (linked 5 { got := some flit0 } [(Reg.LQ_STAT, [15, 7], Fld.LQ_STAT_path, 2)]).dev 127 = true ∧
    fbit (linked 5 {} [(Reg.LQ_PATH_STAT, [15, 7], Fld.LQ_PATH_STAT_locked, 1)]).dev Reg.LQ_PATH_STAT (lqIx 127) Fld.LQ_PATH_STAT_locked = true ∧
    (fSeq flit0 + 2 ^ 24 - 0) % 2 ^ 24 < 2 ^ 23 ∧ 2 ^ 23 ≤ (fSeq flit0 + 2 ^ 24 - 1) % 2 ^ 24 := by decide +kernel

/-! ### The fabric -/

/-- Fibre 127 in direction 1 to node 1, OK and in a link state, with a state of the fabric and register fields. -/
def fabric (st : Nat) (x : Lq) (f : Fabric) (l : List (RegDesc × List Nat × Fld × Nat)) : State :=
  sys (fun d => fsets ([(Reg.LQ_STAT, [15, 7], Fld.LQ_STAT_state, st), (Reg.LQ_STAT, [15, 7], Fld.LQ_STAT_lead, 1),
    (Reg.LE_FIBRE, [15, 7], Fld.LE_FIBRE_rx_gap, 0), (Reg.LE_FIBRE, [15, 7], Fld.LE_FIBRE_tx_gap, 0), (Reg.FAB_FDIR, [127], Fld.FAB_FDIR_dir, 1),
    (Reg.FAB_FDIR, [127], Fld.FAB_FDIR_state, 1), (Reg.FAB_FDIR, [127], Fld.FAB_FDIR_peer, 1), (Reg.FAB_SLEEP, [], Fld.FAB_SLEEP_enable, 1)] ++ l)
    { d with lq := [(127, x)], fab := f })
/-- A message of a type with a body. -/
def lmsg (ty : Nat) (body : List Byte) : List Byte := leBytes 4 (ty + 256 * body.length) ++ body ++ leBytes ((4 - body.length % 4) % 4) 0
/-- A FABRIC message of a subtype. -/
def fmsg (sub : Nat) (body : List Byte) : List Byte := lmsg 0x0A (leBytes 1 sub ++ body)

theorem test_param_cases : let s := fabric 1 { phase := 3, rxMsgs := [lmsg 1 (leBytes 36 (0x20 * 2 ^ 64 + 2 * 2 ^ 72))] } {} []
    (takeMsg s.dev 127 0x01).isSome = true ∧ (getLq s.dev 127).phase = 3 ∧ agreeRev s.dev 127 2 = some 2 ∧
    agreeRev (fabric 1 {} {} [(Reg.LQ_CTL, [15, 7], Fld.LQ_CTL_oq1_allow, 0)]).dev 127 1 = none ∧
    agreeRev (fabric 1 {} {} [(Reg.LQ_CTL, [15, 7], Fld.LQ_CTL_oq1_allow, 1)]).dev 127 1 = some 1 ∧ agreeRev s.dev 127 0 = none ∧
    (getLq (fabric 7 { fresh := false, seen := true } {} []).dev 127).fresh = false := by decide +kernel
theorem test_echo_cases : let s := fabric 1 { phase := 4, rxMsgs := [lmsg 3 (leBytes 24 0), lmsg 2 (leBytes 12 0), lmsg 2 (leBytes 8 0)] } {} []
    (takeMsg s.dev 127 0x03).isSome = true ∧ lqLead s.dev 127 = true ∧ (takeMsg s.dev 127 0x02).isSome = true ∧
    lqLead (fabric 1 {} {} [(Reg.LQ_STAT, [15, 7], Fld.LQ_STAT_lead, 0)]).dev 127 = false := by decide +kernel
theorem test_hello_cases : let b := leBytes 1 1 ++ leBytes 2 1 ++ leBytes 2 1 ++ leBytes 6 0 ++ leBytes 1 2
    let s := fabric 5 { rxMsgs := [fmsg 1 (b.drop 1)] } {} []
    (takeFabric s.dev 127 0x01).isSome = true ∧ helloOk s.dev 127 b = true ∧ helloOk s.dev 127 (b.set 11 1) = false := by decide +kernel
theorem test_claim_cases :
    let s := fabric 5 { rxMsgs := [fmsg 2 (leBytes 14 0), fmsg 3 (leBytes 14 (2 ^ 80))] } { best := some (9, 1, 0, 0) }
        [(Reg.FAB_STAT, [], Fld.FAB_STAT_state, 1)]
    fabState s.dev = 1 ∧ (takeFabric s.dev 127 0x02).isSome = true ∧ s.dev.fab.best = some (9, 1, 0, 0) ∧ (0 : Nat) < 9 ∧
    (takeFabric s.dev 127 0x03).isSome = true ∧ fabGen s.dev < 1 ∧ fabState (sys id).dev = 0 := by decide +kernel
theorem test_time_base_cases :
    let s := fabric 5 { rxMsgs := [fmsg 5 (leBytes 24 0), fmsg 4 (leBytes 8 0)] } { tbSent := some 0 }
        [(Reg.FAB_STAT, [], Fld.FAB_STAT_state, 4), (Reg.FAB_TB, [], Fld.FAB_TB_parent, 127)]
    fabState s.dev = 4 ∧ parentOf s.dev = 127 ∧ (takeFabric s.dev 127 0x05).isSome = true ∧ s.dev.fab.tbSent = some 0 ∧
    (takeFabric s.dev 127 0x04).isSome = true ∧ s.dev.fab.firstTb = true ∧ usable s.dev 127 = true ∧
    usable (fabric 7 {} {} []).dev 127 = false := by decide +kernel
theorem test_sleep_cases : sleepOk (fabric 5 {} {} []).dev 127 = true ∧ sleepOk (fabric 5 { txq := [(0, [])] } {} []).dev 127 = false ∧
    noTraffic (fabric 5 { txq := [(0, [])] } {} []).dev 127 = false ∧ (takeCtl (fabric 5 { rxSlips := [(2, 4 * 2 ^ 16)] } {} []).dev 127 4).isSome = true ∧
    (takeCtl (fabric 8 { rxSlips := [(2, 8 * 2 ^ 16)] } {} []).dev 127 8).isSome = true ∧ lqActive (fabric 5 { sleep := 2 } {} []).dev 127 = true ∧
    (getLq (fabric 5 { sleep := 1, slips := [] } {} []).dev 127).sleep = 1 ∧ peerId (fabric 5 { peer := some (leBytes 8 7) } {} []).dev 127 = 7 := by
  decide +kernel

theorem test_down_cases : lqActive (fabric 5 { replay := [oflit 0] } {} []).dev 127 = true ∧ rxGapped (fabric 5 {} {} []).dev 127 = false ∧
    lqOq1 (fabric 5 {} {} []).dev 127 = false ∧ fget (fabric 5 {} {} []).dev Reg.LQ_CFG (lqIx 127) Fld.LQ_CFG_grace ≠ 0 ∧
    fget (fabric 5 {} {} [(Reg.LQ_CFG, [15, 7], Fld.LQ_CFG_grace, 0)]).dev Reg.LQ_CFG (lqIx 127) Fld.LQ_CFG_grace = 0 ∧
    fType (leBytes 8 4) = 4 ∧ lqState (fabric 6 {} {} []).dev 127 = 6 := by decide +kernel

/-- A counter request to a node. -/
def ctrCell (kind dst src : Nat) : Cell := { dst := dst, src := src, kind := kind, tag := 3, object := 255, value := 4 }

theorem test_arrive_cases : let s := fabric 5 { rxCells := [(0, (ctrCell 1 1 0).bytes)] } {} []
    (takePayload s.dev.rest 127 0).isSome = true ∧ fibreState s.dev 127 = 1 ∧ cellOf (ctrCell 1 1 0).bytes = { ctrCell 1 1 0 with data := List.replicate 272 0 } ∧
    kindVc 1 = some 0 ∧ kindVc 8 ≠ some 0 ∧ kindVc 5 = some 3 ∧ ownNode s.dev = 0 ∧ isResponse 1 = false ∧
    (match routeCell s.dev (some 127) (ctrCell 1 1 0) with | .ok r => r.1 | .error _ => 128) = 127 ∧
    (match routeCell s.dev (some 127) (ctrCell 1 16 0) with | .ok _ => 0 | .error e => e) = 1 := by decide +kernel
theorem test_counter_cell_cases : let s := fabric 5 {} { cells := [(127, (ctrCell 1 0 1).bytes)] } []
    (takeCell s.dev 1).isSome = true ∧ partOfCounter s.dev 255 = some 0 ∧ pinAdmits s.dev (some 0) 1 = false ∧
    (ctrApply (getCtr s.dev 255) none 0 4).isSome = true ∧
    ctrApply { holder := some 5 } none 2 4 = none ∧
    pinAdmits (fsets [(Reg.FAB_PIN, [0], Fld.FAB_PIN_lo, 1), (Reg.FAB_PIN, [0], Fld.FAB_PIN_hi, 1)] s.dev) (some 0) 1 = true := by
  decide +kernel
theorem test_add_slip_cases : let s := fabric 5 { rxSlips := [(1, 255 * 2 ^ 16 + 4 * 2 ^ 32)] } {} [(Reg.FAB_PIN, [0], Fld.FAB_PIN_lo, 1), (Reg.FAB_PIN, [0], Fld.FAB_PIN_hi, 1)]
    (takeSlip s.dev 127 (fun y => y.1 == 1)).isSome = true ∧ bits (255 * 2 ^ 16 + 4 * 2 ^ 32) 15 0 = ownNode s.dev ∧
    pinAdmits s.dev (partOfCounter s.dev 255) (fibrePeer s.dev 127) = true ∧ pinAdmits s.dev (partOfCounter s.dev 256) 1 = false ∧
    ctrAdd { poison := true } 1 = none ∧ ctrAdd {} 4 = some { value := 4 } := by decide +kernel
theorem test_remote_cases :
    let s := fabric 5 { rxSlips := [(2, 9 * 2 ^ 16 + 6 * 2 ^ 32)], slipTx := 7, slipRing := [(6, (5, 9))] }
        { remote := [(3, ⟨5, 9, 1, 255, none⟩)], cells := [(127, (ctrCell 4 0 1).bytes), (127, (ctrCell 7 0 1).bytes)] } []
    remoteAt s.dev 3 = some ⟨5, 9, 1, 255, none⟩ ∧ (takeCell s.dev 4).isSome = true ∧ (takeCell s.dev 7).isSome = true ∧ (ctrCell 4 0 1).tag = 3 ∧
    (takeSlip s.dev 127 (fun y => y.1 == 2 && bits y.2 19 16 == 9)).isSome = true ∧ slipOp (getLq s.dev 127) 6 = some (5, 9) ∧
    slipOp (getLq s.dev 127) 5 = none := by decide +kernel

/-! ### Pleach -/

/-- A plan record of dimension 0 and generation 9: its kind, rings, size, arm, window, with done counter 8 and a limit of 1 ms. -/
def planOf (kind dirs size arm window : Nat) : List Byte :=
  words [kind * 2 ^ 6 + dirs * 2 ^ 10 + arm * 2 ^ 13 + (size - 1) * 2 ^ 16 + 9 * 2 ^ 48, 71, 0, 64, window, 8 * 2 ^ 48, 1]
/-- The words of a record in the registers of plan 15. -/
def planned (b : List Byte) (d : Dev) : Dev :=
  (List.range 16).foldl (fun d w => wrReg d Reg.FAB_COLL [15, w] (.ofNat 32 (leNat (slice b (4 * w) 4)))) d
/-- Engine 15 is a lane of dimension 0: fibres 120 to 123 serve direction 1 and the others direction 2; plan 15 has a record, a state, and
runs where given. -/
def lane (b : List Byte) (st : Nat) (x : List Plan) (l : List (Nat × Lq)) : State :=
  sys (fun d => planned b (fsets ((List.range 8).flatMap (fun f => [(Reg.LQ_STAT, [15, f], Fld.LQ_STAT_state, 5),
      (Reg.FAB_FDIR, [120 + f], Fld.FAB_FDIR_dir, 1 + f / 4), (Reg.FAB_FDIR, [120 + f], Fld.FAB_FDIR_state, 1)]) ++
      [(Reg.FAB_COLL_STAT0, [15], Fld.FAB_COLL_STAT0_state, st), (Reg.FAB_PL_CFG, [], Fld.FAB_PL_CFG_feed_bundles, 1)])
    { d with lq := l, fab := { plans := x.map (fun x => (15, x)) } }))

theorem test_arm_cases : (planRec (lane (planOf 0 3 16 1 0) 1 [] []).dev 15).arm = true ∧ (planRec (lane (planOf 0 3 16 0 0) 0 [] []).dev 15).arm = false ∧
    armRefused (lane [] 0 [] []).dev (planOf 0 3 16 1 0) = false ∧ armRefused (lane [] 0 [] []).dev (planOf 0 0 16 1 0) = true ∧
    armRefused (lane [] 0 [] []).dev (planOf 0 3 15 1 0) = true ∧ tbit (leNat ((planOf 0 3 16 1 0).take 4)) 13 = true := by decide +kernel
theorem test_plan_start_cases : let s := lane (planOf 0 3 16 1 0) 1 [] []
    planAt s.dev 15 = none ∧ (planRec s.dev 15).trigVal ≤ (getCtr s.dev (planRec s.dev 15).trigCtr).value ∧ planLanes s.dev 0 = [15] ∧
    startReason s.dev (planRec s.dev 15) [15] = 0 ∧ (planRec s.dev 15).record = false ∧ (planRec s.dev 15).doneCtr = 8 ∧
    sendFibres s.dev (planRec s.dev 15) 15 0 = [120, 121, 122, 123] ∧ planRings (planRec s.dev 15) = [0, 1] ∧
    startReason (sys id).dev (planRec s.dev 15) (planLanes (sys id).dev 0) = 3 ∧
    (planRec (lane (planOf 0 3 16 1 0 |>.set 1 0x3C) 1 [] []).dev 15).record = true := by decide +kernel

/-- Plan 15 runs as a record on lane 15. -/
def running (b : List Byte) (o : List (Nat × Nat × Nat × Nat)) (bar tr got : Nat) (failed : Option Nat) : Plan :=
  { recd := b, lanes := [15], opens := o, bar := bar, tr := tr, got := got, failed := failed }

theorem test_open_cases : let s := lane [] 3 [running (planOf 0 3 16 1 0) [] 0 0 0 none] [(127, { rxSlips := [(2, 2 ^ 16 + 15 * 2 ^ 20 + 9 * 2 ^ 32)] })]
    (takeSlip s.dev.rest 127 (fun y => y.1 == 2 && bits y.2 19 16 == 1 && (match planAt s.dev (bits y.2 27 20) with
      | some x => x.r.gen == bits y.2 39 32 | none => false))).isSome = true := by decide +kernel
theorem test_flit_place_cases : let r := planRecOf (planOf 2 3 16 1 0)
    (arrivals r 0).headD (false, 16) = (true, 14) ∧ locate { r with elems := 16 * 72 * 2 } 0 1 0 0 1 (arrivals r 0) 0 = some (true, 14, 0) ∧
    locate { r with elems := 16 * 72 * 2 } 0 1 0 0 1 (arrivals r 0) 15 = some (false, 15, 0) ∧ planPos r = 0 ∧
    locate { r with elems := 16 * 72 * 2 } 0 1 0 0 1 (arrivals r 0) 1000 = none := by decide +kernel
theorem test_flit_memory_cases : let s := lane [] 3 [running (planOf 1 3 16 1 0) [(0, 127, 0, 1)] 0 0 0 none] [(127, { rxCells := [(2, [])] })]
    pathPlan s.dev 127 = none ∧ (takePayload s.dev.rest 127 2).isSome = true ∧
    (s.dev.fab.plans.find? (fun p => p.2.opens.any (fun o => o.2.1 == 127))).isSome = true ∧
    (writeFlit (env s) s.dev.rest 15 15 0 (List.replicate 72 [0, 0, 0, 0])).1 = true ∧
    (readFlit (env s) s.dev.rest 15 (running (planOf 1 3 16 1 0) [] 0 0 0 none) 0 15 0).1.isSome = true := by decide +kernel
theorem test_path_flit_cases : let s := lane [] 3 [running (planOf 3 3 4 1 0) [] 1 0 0 none] [(127, { pathLost := [3] })]
    pathPlan s.dev 127 = some (15, 0) ∧ pathPlan s.dev 123 = some (15, 1) ∧ (running (planOf 3 3 4 1 0) [] 1 0 0 none).r.kind = 3 ∧
    (getLq s.dev 127).pathLost ≠ [] := by decide +kernel
theorem test_plan_end_cases : let x := running (planOf 1 3 16 1 0) [] 0 0 0 none
    planComplete (lane [] 3 [x] []).dev 15 x = false ∧ planComplete (lane [] 3 [x] []).dev 15 { x with got := planTotal x.r } = true ∧
    failReason (lane [] 3 [x] []).dev 15 11 x = some 11 ∧ failReason (lane [] 3 [x] []).dev 15 10 x = none ∧
    failReason (lane [] 3 [x] []).dev 15 0 { x with failed := some 6 } = some 6 ∧ x.r.limit = 1 ∧ x.r.kind ≠ 3 ∧
    (planRecOf (words [])).limit = 0 := by decide +kernel
theorem test_plan_abort_cases : let s := lane [] 3 [running (planOf 1 3 16 1 0) [] 0 0 0 none] [(127, { rxSlips := [(2, 2 * 2 ^ 16 + 15 * 2 ^ 20 + 9 * 2 ^ 32)] })]
    (takeCtl s.dev.rest 127 2).isSome = true ∧ bits (2 * 2 ^ 16 + 15 * 2 ^ 20 + 9 * 2 ^ 32) 27 20 = 15 ∧ planState s.dev 15 = 3 ∧
    throughDir s.dev 127 = 1 := by decide +kernel
theorem test_barrier_cases : let x := running (planOf 3 3 4 1 0) [] 0 0 0 none
    let s := lane [] 3 [x] [(127, { rxSlips := [(2, 3 * 2 ^ 16 + 15 * 2 ^ 20 + 2 ^ 28)] })]
    (takeSlip s.dev.rest 127 (fun y => y.1 == 2 && bits y.2 19 16 == 3 && (match planAt s.dev (bits y.2 27 20) with
      | some x => x.r.kind == 3 && (bits y.2 29 28 == 2 || (bits y.2 29 28 == 1 && barReady x (tbit y.2 30))) | none => false))).isSome = true ∧
    barReady { x with bar := 1 } true = false ∧ barReady { x with bar := 1, failed := some 6 } true = true ∧
    nextInstant (2 ^ 32 - 1) 0 = 2 ^ 32 ∧ nextInstant 5 5 = 2 ^ 32 + 5 ∧
    x.tg + 100 * fget s.dev Reg.FAB_PL_CFG [] Fld.FAB_PL_CFG_settle ≤ s.dev.tb + 2 ^ 20 := by decide +kernel

/-! ### Host ports and partitions -/

/-- Port 3 with a link state, and stream 5 with rings in host memory behind port 0. -/
def ported (l : List (RegDesc × List Nat × Fld × Nat)) : State := runIn 0 0 {} |> fun s => { s with dev := fsets l s.dev }

theorem test_link_up_cases : let s := ported [(Reg.HOST_PORT_CTL, [3], Fld.HOST_PORT_CTL_enable, 1), (Reg.HOST_PORT_CTL, [3], Fld.HOST_PORT_CTL_cxl_en, 1)]
    fget s.dev Reg.HOST_PORT_CTL [3] Fld.HOST_PORT_CTL_enable = 1 ∧ portUp s.dev 3 = false ∧ min 5 (5 - fget s.dev Reg.HOST_PORT_CTL [3] Fld.HOST_PORT_CTL_max_gen) ≥ 2 ∧
    min 1 (5 - fget s.dev Reg.HOST_PORT_CTL [3] Fld.HOST_PORT_CTL_max_gen) < 2 ∧ (0 + 2 ^ 42 : Nat) ≤ 2 ^ 42 ∧
    portUp s.dev 0 = true ∧ portSends s.dev 0 = true := by decide +kernel
theorem test_link_down_cases : let s := ported []
    fget s.dev Reg.HOST_PORT_STAT [0] Fld.HOST_PORT_STAT_up = 1 ∧ fget s.dev Reg.HOST_PORT_STAT [3] Fld.HOST_PORT_STAT_up = 0 ∧
    partOfStream s.dev 5 = some 0 ∧ portOfPart s.dev 0 = 0 ∧ strmOn s.dev 5 = true ∧ ringBehind s.dev 0 (subRing s.dev 5) = true ∧
    (getMsix { s.dev with msix := [(msixKey 3 2047, { masked := false, pend := true })] } 3 2047).pend = true := by decide +kernel
theorem test_bar_cases : let s := ported []
    barsDecode s.dev 0 = true ∧ barsDecode s.dev 3 = false ∧ pathOwns s.dev (.port 0) (partOfStream s.dev 5) = true ∧
    pathOwns s.dev (.port 0) (partOfStream s.dev 0xFFFF) = false ∧ opLen (.read 64) + (2 ^ 36 - 64) ≤ 2 ^ 36 ∧
    (pkgRead (env s) { s.dev.rest with extIn := [] } asker 0 64).1.toOption.isSome = true ∧
    (pkgRead (env s) { s.dev.rest with extIn := [] } asker 0x40000000000 0).1.toOption.isSome = true ∧
    (pkgRead (env s) s.dev.rest asker (48 * 2 ^ 30) 64).1.toOption = none ∧
    (pkgWrite (env s) s.dev.rest asker 0 [1] [true]).1 = none := by decide +kernel

/-- Host port 0 is a CXL agent for the first 256 MiB; its tracker has an entry for line 7. -/
def tracked (x : ALine) : State := sys (fun d => fsets [(Reg.HOST_PORT_STAT, [0], Fld.HOST_PORT_STAT_agent, 1)]
  { d with hdm := [(0, (0, 2 ^ 28))], coh := { agents := [(12 * 7 + 6, x)] } })

theorem test_tracker_cases : fget (tracked {}).dev Reg.HOST_PORT_STAT [0] Fld.HOST_PORT_STAT_agent = 1 ∧
    Sparse.find (tracked {}).dev.hdm 0 = some (0, 2 ^ 28) ∧ reachErr (tracked {}).dev asker (7 * 128 + 64) 64 = none ∧
    (aLine (tracked { st := .m, data := List.replicate 128 1, half1 := 2 }).dev 6 7).st = .m ∧ (aLine (tracked {}).dev 6 8).st = .i ∧
    (trackerLines (tracked { st := .e }).dev 0).length < 32768 ∧ targetOf (tracked {}).dev (128 * 8) 128 = .hbm ∧
    (tracked {}).dev.coh.txns = [] ∧ 2 ^ 28 - 64 + 64 ≤ 2 ^ 28 := by decide +kernel
theorem test_side_band_cases : (sys id).dev.fw.mainOn = true ∧ State.reset.dev.fw.mainOn = false ∧ ctrApply {} none 0 4 = some { value := 4 } ∧
    ctrApply { poison := true } none 0 1 = none := by decide +kernel

theorem test_partition_cases : partEnabled (sys id).dev 0 = true ∧ partOn (sys id).dev 15 = false ∧ partOk (env (sys id)) (sys id).dev 15 = true ∧
    partOk (env (sys id)) (sys (fsets [(Reg.HUB_PART_CORES, [15], Fld.HUB_PART_CORES_cores, 1)])).dev 15 = false ∧
    devHalted (sys id).dev = false ∧ pathPort (.port 3) = some 3 ∧ Fld.HUB_PART_CTL_enable.get 0 = 0 ∧
    Fld.HUB_PART_CTL_cfg_err.get (Fld.HUB_PART_CTL_cfg_err.put 0 1) = 1 := by decide +kernel
theorem test_release_done_cases : let s := sys (fsets [(Reg.HUB_PART_CTL, [0], Fld.HUB_PART_CTL_busy, 1)])
    fget s.dev Reg.HUB_PART_CTL [0] Fld.HUB_PART_CTL_busy = 1 ∧ partStreams s.dev 0 = [] ∧ partStreams (ported []).dev 0 = [5] ∧
    (List.range 32).all (fun c => match siteOfCore s.dev c with | some x => decide (x < 36) | none => true) = true ∧
    tbit (fget s.dev Reg.HUB_PART_CORES [0] Fld.HUB_PART_CORES_cores) 0 = true ∧ 0 ∈ stacksIn s.dev ∧
    tbit (fget s.dev Reg.HUB_PART_MEM [0] Fld.HUB_PART_MEM_ranges) 0 = true ∧ blkHolds (rdReg s.dev Reg.HUB_PART_CTR [0]) 255 = true ∧
    blkHolds (rdReg s.dev Reg.HUB_PART_CTR [0]) 256 = false := by decide +kernel
theorem test_uart_cases : (sys id).dev.fw.line.length ≤ 128 ∧ (List.replicate 128 (0x41 : Byte)).length ≤ 128 := by decide +kernel

/-! ### Power and temperature -/

/-- The sensors of site 0 and of base die 0 show a temperature in °C, but those given; the hidden state of the power manager; register fields. -/
def warm (c : Nat) (x : List (Nat × Nat)) (p : Power) (l : List (RegDesc × List Nat × Fld × Nat)) : State :=
  sys (fun d => fsets (([0, 1] ++ (List.range 16).map (72 + ·)).flatMap (fun i => [(Reg.THM_HK_CH, [i], Fld.THM_HK_CH_valid, 1),
    (Reg.THM_HK_CH, [i], Fld.THM_HK_CH_value, 16 * ((x.lookup i).getD c))]) ++ l) { d with pow := p })

theorem test_slot_kind_cases : hkKind 261 = 0 ∧ hkKind 262 = 1 ∧ hkKind 553 = 2 ∧ hkKind 857 = 2 ∧ hkKind 985 = 3 ∧ hkKind 1001 = 1 ∧ hkKind 1002 = 15 ∧
    (sys id).dev.pow.roundDone = false ∧ (sys id).dev.pow.hkSlot < 1024 ∧ hkBroken (sys id).dev 191 = false ∧
    Sparse.get 0 (sys id).dev.pow.bands 65 ≤ 3 := by decide +kernel
theorem test_cross_check_cases : crossMiss (warm 50 [(0, 100)] {} []).dev 0 = true ∧ crossMiss (warm 50 [] {} []).dev 0 = false ∧
    2 ≤ Sparse.get 0 (warm 50 [(0, 100)] { roundDone := true, offs := [(0, 2)] } []).dev.pow.offs 0 ∧
    roseFast (warm 50 [] { hist := [(36, [0])] } []).dev 36 = true ∧ roseFast (warm 50 [] { hist := [(36, [64 * 50])] } []).dev 36 = false ∧
    riseScope (warm 50 [] {} []).dev 36 = [0] ∧ riseScope (warm 50 [] {} []).dev 72 = [16] := by decide +kernel
theorem test_time_base_set_cases : fabState (sys id).dev = 0 ∧
    fabState (sys (fsets [(Reg.FAB_STAT, [], Fld.FAB_STAT_state, 2)])).dev = 2 ∧
    fbit (sys (fsets [(Reg.THM_TB_CFG, [], Fld.THM_TB_CFG_present, 1)])).dev Reg.THM_TB_CFG [] Fld.THM_TB_CFG_present = true ∧
    fbit (sys (fsets [(Reg.THM_TB_CFG, [], Fld.THM_TB_CFG_present, 0)])).dev Reg.THM_TB_CFG [] Fld.THM_TB_CFG_present = false ∧
    (sys (fun d => { d with pow := { trigPend := some 7 } })).dev.pow.trigPend = some 7 := by decide +kernel

/-- Partition 0 has 100 W and its one rail at 700 mV; the package draws 150 W. -/
def powered (n : Nat) : State := warm 50 [] { raiseAt := 9 } [(Reg.HUB_PART_RES, [0], Fld.HUB_PART_RES_power_w, 100), (Reg.THM_CORE, [0], Fld.THM_CORE_v_mv, 700),
  (Reg.THM_PART_STAT, [0], Fld.THM_PART_STAT_n, n)]
def reading14 (w : Nat) : PowerReading := ⟨w, w, 0, [w], [7]⟩

theorem test_power_cases : pairHalted (powered 0).dev = false ∧ ((partsOn (powered 0).dev).flatMap (partSites (powered 0).dev)).Nodup ∧
    partsOn (powered 0).dev = [0] ∧ partSites (powered 0).dev 0 = [0] ∧ overCap (powered 0).dev (reading14 150) 0 = true ∧
    wellUnder (powered 0).dev (reading14 20) 0 = true ∧ rail (powered 0).dev 0 = 700 ∧ (powered 0).dev.pow.raiseAt = 9 ∧
    fbit (powered 0).dev Reg.THM_CORE [0] Fld.THM_CORE_hard = false := by decide +kernel

/-- A predicted lowering of 7 mV takes two steps of 5 mV; well under the cap the rail rises by one, to v_req at most (R484). -/
theorem test_rail_moves : rail (run (.powerManagerPeriod (reading14 150)) (powered 0)).dev 0 = 690 ∧
    rail (run (.powerManagerPeriod (reading14 20)) (powered 0)).dev 0 = min 705 (railWish (powered 0).dev 0) := by decide +kernel
theorem test_current_cases : fget (powered 0).dev Reg.THM_PKG_LIMIT [] Fld.THM_PKG_LIMIT_iin_a < 0xFFFF ∧
    ¬ fget (powered 0).dev Reg.THM_PKG_LIMIT [] Fld.THM_PKG_LIMIT_iin_a < fget (powered 0).dev Reg.THM_PKG_LIMIT [] Fld.THM_PKG_LIMIT_iin_a := by
  decide +kernel
theorem test_throttle_cases : stepCauses (warm 100 [] {} []).dev 0 ≠ [] ∧ stepCauses (warm 20 [] {} []).dev 0 = [] ∧
    stepFalls (warm 20 [] { raised := [(0, [36])] } [(Reg.THM_PART_STAT, [0], Fld.THM_PART_STAT_n, 1)]).dev 0 = true ∧
    stepFalls (warm 100 [] { raised := [(0, [36])] } []).dev 0 = false ∧ 0 < stepCount (powered 32).dev 0 ∧ min 32 (stepCount (powered 32).dev 0 + 1) = 32 := by
  decide +kernel
theorem test_hard_cases : govTemp (warm 106 [] {} []).dev 36 = some (106 * 64) ∧ 36 ∉ (warm 106 [] {} []).dev.pow.hard ∧
    govTemp (warm 102 [] { hard := [36] } []).dev 36 = some (102 * 64) ∧ govLost (warm 102 [] {} []).dev 36 = false ∧
    dutyLimited (warm 50 [] {} [(Reg.THM_CORE, [0], Fld.THM_CORE_hard, 1)]).dev 0 = true ∧ dutyLimited (powered 0).dev 0 = false ∧
    guestState (guested 3 {} []).dev 1 ≠ 4 := by decide +kernel

/-! ### Resets, starts and firmware -/

/-- The device in use with its firmware state, and register fields. -/
def firm (f : Fw → Fw) (l : List (RegDesc × List Nat × Fld × Nat)) : State := sys (fun d => fsets l { d with fw := f d.fw })

theorem test_power_input_cases : (firm (fun f => { f with vin := false, vinLost := true, running := true }) []).dev.fw.vin = false ∧
    (firm (fun f => { f with vin := true }) []).dev.fw.vin = true ∧ warmPossible (sys id).dev = true ∧ warmPossible State.reset.dev = false ∧
    warmPossible (firm (fun f => { f with mainOn := false, warm := true }) []).dev = true ∧
    warmPossible (firm id [(Reg.FLT_STAT, [], Fld.FLT_STAT_fatal, 1)]).dev = false := by decide +kernel
theorem test_trip_cases : tripCool (firm id [(Reg.THM_TRIP, [], Fld.THM_TRIP_tripped, 1)]).dev = true ∧ pathIndex .jtag = 4 ∧ pathIndex .mfw = 5 ∧
    fbit (firm id [(Reg.THM_TRIP, [], Fld.THM_TRIP_tripped, 1)]).dev Reg.THM_TRIP [] Fld.THM_TRIP_tripped = true ∧
    tripCool (firm id [(Reg.THM_HK_CH, [261], Fld.THM_HK_CH_valid, 1), (Reg.THM_HK_CH, [261], Fld.THM_HK_CH_value, 1440)]).dev = false ∧
    hkBroken (sys id).dev 261 = false ∧ fbit (sys id).dev Reg.THM_TRIP [] Fld.THM_TRIP_tripped = false := by decide +kernel
theorem test_idle_cases : siteState (sys id).dev 0 = 0 ∧ siteIdle (sys id).dev 0 = true ∧ corePstate (firm id [(Reg.THM_CORE, [0], Fld.THM_CORE_pstate, 1)]).dev 0 <
      coreTargetState (sys id).dev 0 0xFFFFFFFF ∧ coreTargetState (firm id [(Reg.HUB_PART_CTL, [0], Fld.HUB_PART_CTL_lat, 1)]).dev 0 0 = 1 ∧
    stackTarget (firm id [(Reg.HUB_PART_CTL, [0], Fld.HUB_PART_CTL_lat, 0xFFFF)]).dev 99999 = 1 ∧
    stackTarget (firm id [(Reg.HUB_PART_CTL, [0], Fld.HUB_PART_CTL_lat, 0xFFFF)]).dev 100000 = 2 ∧ stackTarget (sys id).dev 999 = 0 ∧
    stackPower (sys id).dev 0 = 0 ∧ (stacksIn (sys id).dev).contains 0 = true ∧ standbyKey 0x100000 = true ∧ standbyKey 0x103000 = false := by decide +kernel

/-- A valid header in flash for a slot: its kind, sequence number and state word. -/
def slotIn (kind slot seq st : Nat) : List (Nat × Byte) :=
  let b := leBytes 4 (if kind = 1 then 0x57464D49 else 0x57464C49) ++ leBytes 20 (seq * 2 ^ 64 + st * 2 ^ 128)
  (b.mapIdx (fun i x => (slotOff kind slot + i, x))).filter (fun x => x.2 ≠ 0xFF)
/-- A device at a stage of its start with two MFW slots; the pair runs or not. -/
def starting (st : Nat) (run on : Bool) (l : List (RegDesc × List Nat × Fld × Nat)) : State :=
  firm (fun f => { f with running := run, mainOn := on, vin := true, flash := slotIn 1 0 3 stateConfirmed ++ slotIn 1 1 4 statePending })
    ((Reg.MGMT_FW_STAT, [], Fld.MGMT_FW_STAT_stage, st) :: l)

theorem test_rom_cases : let s := starting 0 false false []
    chooseSlot s.dev 0xF 1 = some (1, true) ∧ chooseSlot s.dev 1 1 = some (0, false) ∧ chooseSlot s.dev 0 1 = none ∧
    bcbOf s.dev = none ∧ stage (starting 15 false false []).dev = 15 ∧ slotValid s.dev 1 1 0 = true ∧
    stage (starting 1 false false []).dev = 1 ∧ chooseSlot (setSlotState s.dev 1 1 0) 0xF 1 = some (0, false) := by decide +kernel
theorem test_start_cases2 : let ends (st : Nat) : List (RegDesc × List Nat × Fld × Nat) := (List.range 4).map (fun j => (Reg.HUB_FEI_STAT, [j], Fld.HUB_FEI_STAT_state, st))
    waveSettled (starting 4 true true (ends 6)).dev 1 = true ∧ waveSettled (starting 4 true true (ends 5)).dev 1 = false ∧
    (waveEnds 1).all (fun e => feiState (starting 4 true true (ends 7)).dev e == 7) = true ∧ waveStarted (starting 4 true true (ends 6)).dev 2 = false ∧
    opticsSettled (starting 8 true true []).dev = true ∧ opticsSettled (starting 8 true true [(Reg.LE_STAT, [15], Fld.LE_STAT_state, 1)]).dev = false ∧
    fget (starting 9 true true [(Reg.MGMT_BOOT_CTL, [], Fld.MGMT_BOOT_CTL_hold, 1)]).dev Reg.MGMT_BOOT_CTL [] Fld.MGMT_BOOT_CTL_hold = 1 ∧
    pairHalted (starting 9 true true []).dev = false := by decide +kernel
theorem test_console_cases : consoleWrites (starting 10 true true [(Reg.MGMT_CFG, [], Fld.MGMT_CFG_console_wr, 1)]).dev = true ∧
    consoleWrites (starting 10 true true [(Reg.MGMT_CFG, [], Fld.MGMT_CFG_console_wr, 0)]).dev = false ∧ consoleUp (starting 10 true true []).dev = true ∧
    consoleUp (starting 10 false true []).dev = false := by decide +kernel
theorem test_pair_cases : activeMc (sys id).dev = 0 ∧ (sys id).dev.fw.faulty = none ∧
    (firm (fun f => { f with faulty := some 1 }) []).dev.fw.faulty = some 1 ∧ (0 : Nat) < 0 + 1000000000 ∧ mfwServes (starting 10 true true []).dev = true ∧
    mfwServes (starting 10 false true []).dev = false ∧
    fget (firm id [(Reg.MGMT_FW_STAT, [], Fld.MGMT_FW_STAT_pair, 1)]).dev Reg.MGMT_FW_STAT [] Fld.MGMT_FW_STAT_pair = 1 := by decide +kernel

/-- A command of the mailbox of port 0 waits; an update session of its path, or of none, is open. -/
def boxed (code len : Nat) (x : Option Session) : State := let s := starting 10 true true [(Reg.MGMT_MBX_CTL, [0], Fld.MGMT_MBX_CTL_code, code),
    (Reg.MGMT_MBX_CTL, [0], Fld.MGMT_MBX_CTL_length, len), (Reg.MGMT_CFG, [], Fld.MGMT_CFG_host_upd, 1)]
  { s with dev := { s.dev with fw := { s.dev.fw with mbx := [0], session := x } } }

theorem test_update_cases : (request (boxed 0x10 5 none).dev 0 0x10 []).map (·.length) = some 5 ∧ request (boxed 0x10 5 none).dev 0 0x11 [] = none ∧
    request (boxed 0x10 5 none).dev 6 0x10 [1, 0, 0, 0, 0] = some [1, 0, 0, 0, 0] ∧
    tbit (fget (boxed 0x10 5 none).dev Reg.MGMT_CFG [] Fld.MGMT_CFG_host_upd) 0 = true ∧
    tbit (fget (boxed 0x10 5 none).dev Reg.MGMT_CFG [] Fld.MGMT_CFG_host_upd) 3 = false ∧ leNat (slice [1, 0, 0, 0, 0] 1 4) ≤ slotSize 1 ∧
    (request (boxed 0x12 0 (some ⟨0, 1, 1, 0⟩)).dev 0 0x12 []).isSome = true ∧ headerOk (boxed 0x12 0 none).dev 1 1 = true ∧
    hdrSeq (boxed 0x12 0 none).dev 1 (runningSlot (boxed 0x12 0 none).dev 1) < hdrSeq (boxed 0x12 0 none).dev 1 1 ∧
    hdrState (boxed 0x13 1 none).dev 1 1 = statePending ∧ (0 : Nat) < storeLen := by decide +kernel

/-- The instruction register holds 0x20, and writes of the test access port are enabled or not. -/
def scanning (wr : Nat) : State := sys (fun d => fset { d with dbg := { d.dbg with ir := 0x20 } } Reg.DBG_CFG [] Fld.DBG_CFG_jtag_wr wr)

theorem test_jtag_cases : (scanning 1).dev.dbg.ir = 0x20 ∧ fbit (scanning 1).dev Reg.DBG_CFG [] Fld.DBG_CFG_jtag_wr = true ∧
    fbit (scanning 0).dev Reg.DBG_CFG [] Fld.DBG_CFG_jtag_wr = false ∧ railsOff (scanning 1).dev 0 = false ∧
    railsOff State.reset.dev 0x400000 = true ∧ (2 ^ 26 : Nat).testBit 26 = true := by decide +kernel

/-! ### Hawthorn -/

/-- Reports wait at Hawthorn beside pending records. -/
def faulted (rs : List Report) (ps : List Pend) (l : List (RegDesc × List Nat × Fld × Nat)) : State :=
  sys (fun d => fsets l { d with reports := rs, flt := { d.flt with pend := ps } })
/-- A report of an escalating source of class C0, and one that does not escalate. -/
def rep16 (src : Nat) : Report := { source := src, unit := 64, sub := 1023 }

theorem test_fault_cases : let s := faulted [rep16 0x18, rep16 0x18] [] []
    s.dev.reports[1]? = some (rep16 0x18) ∧ affected s.dev (rep16 0x18) = [] ∧ meetsPending s.dev (rep16 0x18) [] = false ∧
    tbit (fget s.dev Reg.FLT_STAT [] Fld.FLT_STAT_valid) 0 = false ∧
    tbit (fget (faulted [] [] [(Reg.FLT_STAT, [], Fld.FLT_STAT_valid, 1)]).dev Reg.FLT_STAT [] Fld.FLT_STAT_valid) 0 = true ∧
    (List.range 0x20).any escalates = true ∧ pendTable s.dev < 64 := by decide +kernel
theorem test_pending_cases : let x : Pend := { source := 0x30, unit := 7, sub := 0, cls := 2, parts := [0], time := 0, auto_ := true, core := none }
    fltPartPath (faulted [] [x] []).dev (.port 0) 0 = true ∧ fltPartPath (faulted [] [x] []).dev (.port 1) 0 = false ∧
    reactionDone (faulted [] [x] []).dev x = true ∧ (faulted [] [x] []).dev.flt.pend.any (fun y => y.cls == 2 && y.parts.contains 0) = true ∧
    partStreams (faulted [] [] []).dev 0 = [] ∧ (3 : BitVec 3).toNat.testBit 1 = true ∧
    fbit (faulted [] [] [(Reg.FLT_ALIVE, [], Fld.FLT_ALIVE_running, 1)]).dev Reg.FLT_ALIVE [] Fld.FLT_ALIVE_running = true := by decide +kernel

/-- The first fault of a class is latched and the second counted: the latch keeps the first, and ovr is set (R520, R522). -/
theorem test_fault_latch : let t := run (.faultTaken 0) (run (.faultTaken 0) (faulted [rep16 0x18, { rep16 0x18 with unit := 63 }] [] []))
    rdReg t.dev Reg.FLT_FIRST_IDENT [0] = low32 (0x18 * 2 ^ 24 + 64 * 2 ^ 17 + 1023 * 2 ^ 7) ∧ rdReg t.dev Reg.FLT_COUNT [0] = 2 ∧
    tbit (fget t.dev Reg.FLT_STAT [] Fld.FLT_STAT_ovr) 0 = true := by decide +kernel

/-- CMEM_UE of a bank with a pending record: the worked example of chapter 16 at 40 µs, identifier 0x112203B0 in class C1, and the bank is FENCED. -/
theorem test_fault_raised :
    let x : Pend := { source := 0x11, unit := 17, sub := 7, cls := 0, parts := [], time := 0, auto_ := false, core := none }
    let r : Report := { source := 0x11, unit := 17, sub := 7 }
    let s := faulted [r] [x] []
    let t := run (.faultTaken 0) s
    meetsPending s.dev r (affected s.dev r) = true ∧ rdReg t.dev Reg.FLT_FIRST_IDENT [1] = 0x112203B0 ∧
    fget t.dev Reg.CMEM_BANK [10, 7] Fld.CMEM_BANK_state = 6 ∧ tbit (fget t.dev Reg.FLT_STAT [] Fld.FLT_STAT_valid) 1 = true := by decide +kernel

/-! ### Instruments -/

theorem test_snapshot_admitted : portHalted (sys id).dev (.port 0) = false ∧ siteAdmits (sys id).dev (.port 0) 0 = true ∧
    siteAdmits (sys id).dev (.port 0) 35 = false := by decide +kernel

/-- Trace unit 51 with an event on its way. -/
def traced (t : Trc) : State := raw (fun d => { d with
  dbg := { d.dbg with events := [⟨51, 5, 1, 2, 0, 0⟩], trc := [(51, t)] } })

theorem test_trace_event_cases : (trc (traced {}).dev 51).missed = 0 ∧ (trc (traced {}).dev 51).buf.length < trcRoom 51 ∧
    0 < (trc (traced { missed := 1 }).dev 51).missed ∧ (trc (traced { missed := 1 }).dev 51).buf.length + 1 < trcRoom 51 := by decide
theorem test_trace_event_full : trcRoom 51 ≤ (trc (traced { buf := List.replicate 2048 [] }).dev 51).buf.length := by
  decide +kernel

/-- Trace unit 0 is on, with one record and a ring of 2^8 records of which `n` are used. -/
def draining (n : Nat) : State := sys (fun d => fsets [(Reg.CORE_TRC_STAT, [0], Fld.CORE_TRC_STAT_state, 1),
  (Reg.CORE_TRC_RING_LO, [0], Fld.CORE_TRC_RING_LO_log2_size, 8), (Reg.CORE_TRC_WPTR, [0], Fld.CORE_TRC_WPTR_count, n)]
  { d with dbg := { d.dbg with trc := [(0, { buf := [trcRecord 0 1 0 0 0] })] } })

/-- The write of its record. -/
def drainWrite (s : State) (q : Option Nat) : Option MemErr :=
  (pkgWrite (env s) s.dev.rest { src := trcSource 0, part := q } (trcRing s.dev 0).1 (trcRecord 0 1 0 0 0) (allEnabled 16)).1

theorem test_trace_drain_cases : trcState (draining 256).dev 0 = 1 ∧ (trc (draining 256).dev 0).buf ≠ [] ∧
    2 ^ (trcRing (draining 256).dev 0).2 ≤ sub32 (trcW (draining 256).dev 0) (trcR (draining 256).dev 0) ∧
    sub32 (trcW (draining 255).dev 0) (trcR (draining 255).dev 0) < 2 ^ (trcRing (draining 255).dev 0).2 ∧
    trcPart (draining 0).dev 0 = some 0 ∧ drainWrite (draining 0) (some 0) = none ∧
    drainWrite (draining 0) none = some .denied ∧ trcState State.reset.dev 0 ≠ 1 := by decide +kernel

/-- The ring of trace unit 0 is legal, and its control register as given. -/
def ringed (en : Nat) : State := sys (fsets [(Reg.CORE_TRC_RING_LO, [0], Fld.CORE_TRC_RING_LO_log2_size, 8),
  (Reg.CORE_TRC_CTL, [0], Fld.CORE_TRC_CTL_enable, en), (Reg.CORE_TRC_WPTR, [0], Fld.CORE_TRC_WPTR_count, 7)])

theorem test_trace_control_cases : trcWrites (ringed 0).dev (.port 0) 0 = true ∧ trcWrites (ringed 0).dev (.port 1) 0 = false ∧
    trcRingBad (ringed 0).dev 0 = false ∧ trcPart (ringed 0).dev 0 ≠ none ∧ trcRingBad State.reset.dev 51 = true ∧
    trcEnabled (ringed 1).dev 0 = true ∧ trcEnabled (ringed 0).dev 0 = false ∧ ge32 (trcW (ringed 0).dev 0) 7 = true ∧
    ge32 (trcW (ringed 0).dev 0) 8 = false ∧ (trc (ringed 1).dev 0).buf = [] ∧ (trc (draining 0).dev 0).buf ≠ [] := by decide +kernel

/-- A DUMP of stream 5 is at the dump unit of site 0; `w` is word 3 of its body. -/
def dumping (hit : Bool) (w : Nat) : State := sys (fun d => { d with
  handoff := [⟨0, 12, ⟨5, 1, words [0, 0, 0, w]⟩⟩],
  strm := [(5, { held := [{ seq := 1, bytes := words [0, 0, 0, w], phase := .dispatched, dumpHit := hit }] })] })

theorem test_dump_cases : ((dumping true 0).dev.handoff.find? (fun h => h.site == 0 && h.unit == 12)).isSome = true ∧
    (heldDesc (dumping true 0).dev 5 1).isSome = true ∧ partOfStream (dumping true 0).dev 5 = some 0 ∧
    dbit (words [0, 0, 0, 0]) 24 48 = false ∧ dbit (words [0, 0, 0, 2 ^ 48]) 24 48 = true ∧
    partOfCounter (dumping true (2 ^ 48)).dev 0 = some 0 ∧ partOfCounter (dumping true 0).dev 256 = none ∧
    ((readRecord (env (dumping true 0)) (dumping true 0).dev.rest 0 0).1.toOption).isSome = true := by decide +kernel

/-- Stream 5 in a halt state, with a descriptor for the DME next, and a lock where asked. -/
def halting (h : Nat) (lock : Bool) (held : List SDesc) : State := sys (fun d => fsets [(Reg.HUB_STRM_STAT, [5], Fld.HUB_STRM_STAT_state, 1)]
  { d with strm := [(5, { held := held, halt := h })], ctr := if lock then [(9, { holder := some 5 })] else [] })

/-- A descriptor for the DME. -/
def dmeNext : SDesc := { seq := 0, bytes := words [6] }

theorem test_halt_cases : pathOwns (halting 0 true []).dev (.port 0) (partOfStream (halting 0 true []).dev 5) = true ∧
    pathOwns (halting 0 true []).dev (.port 1) (partOfStream (halting 0 true []).dev 5) = false ∧
    (getStrm (halting 1 true []).dev 5).halt = 1 ∧ lockHeld (halting 1 true []).dev 5 = true ∧
    lockHeld (halting 1 false []).dev 5 = false ∧ (getStrm (halting 2 true []).dev 5).halt = 2 ∧
    (getStrm (halting 3 true []).dev 5).halt = 3 ∧ nextDesc (halting 2 true []).dev 5 = none := by decide +kernel
theorem test_step_dispatches : let s := halting 2 false [dmeNext]
    nextDesc s.dev 5 = some dmeNext ∧ strmSite s.dev 5 = some 0 ∧ (pickUnit s.dev 0 dmeNext.bytes).isSome = true ∧
    strmState s.dev 5 = 1 ∧ (getStrm s.dev 5).stopping = false ∧ hWaitEn dmeNext.bytes = false ∧ hBarrier dmeNext.bytes = false ∧
    hEngine dmeNext.bytes < 8 ∧ s.dev.pow.dutyHold.contains 0 = false ∧ devHalted s.dev = false := by decide +kernel

/-- The controller pair with a request and a halt as given. -/
def pairIn (en : Nat) (asked at_ : Option Nat) : State := raw (fun d => fsets [(Reg.DBG_CFG, [], Fld.DBG_CFG_mc_halt_en, en)]
  { d with dbg := { d.dbg with haltAsked := asked, haltAt := at_ } })

theorem test_pair_halt_cases : (pairIn 1 none none).dev.dbg.haltAt = none ∧ (pairIn 1 none none).dev.dbg.haltAsked = none ∧
    fbit (pairIn 1 none none).dev Reg.DBG_CFG [] Fld.DBG_CFG_mc_halt_en = true ∧
    fbit (pairIn 0 none none).dev Reg.DBG_CFG [] Fld.DBG_CFG_mc_halt_en = false ∧ (pairIn 1 (some 3) none).dev.dbg.haltAsked ≠ none ∧
    (pairIn 1 none (some 4)).dev.dbg.haltAt = some 4 := by decide +kernel

/-- The test of fibre 0 runs as given, lane 17 selected; the link is OFF or not. -/
def fibreTest (rx link : Nat) : State := raw (fsets [(Reg.LQ_TST_CTL, [0, 0], Fld.HUB_TST_CTL_rx_en, rx),
  (Reg.LQ_TST_MASK, [0, 0], Fld.LQ_TST_MASK_lane_mask, 2 ^ 17), (Reg.LE_STAT, [0], Fld.LE_STAT_state, 2), (Reg.LQ_STAT, [0, 0], Fld.LQ_STAT_state, link)])

theorem test_pattern_test_cases : tstWrites (fibreTest 0 0).dev .mfw (.fibre 0) = true ∧
    tstWrites (fibreTest 0 0).dev (.port 0) (.fibre 0) = false ∧ tstAllowed (fibreTest 0 0).dev (.fibre 0) true true = true ∧
    tstAllowed (fibreTest 0 5).dev (.fibre 0) true true = false ∧ testing (fibreTest 1 0).dev (.fibre 0) Fld.HUB_TST_CTL_rx_en = true ∧
    tbit (tstMask (fibreTest 1 0).dev (.fibre 0)) 17 = true := by decide +kernel

end Sys2Proof.Tests
end

section
/-!
SUPPORT. What the access codes of Table 0.3 make of each bit of a register (R9, R10), for every register of the tables.
-/
namespace Sys2Proof.Machine

/-- The field holds bit `i` of its register. -/
def Fld.Holds (f : Fld) (i : Nat) : Prop := f.lo ≤ i ∧ i ≤ f.hi

/-- Two fields share no bit. -/
def Fld.Apart (f g : Fld) : Prop := g.hi < f.lo ∨ f.hi < g.lo

theorem Fld.apart_symm : Std.Symm Fld.Apart := ⟨fun _ _ => Or.symm⟩

theorem table_fields_ordered : ∀ r ∈ Reg.table, ∀ f ∈ r.fields, f.lo ≤ f.hi := by decide +kernel

theorem table_fields_apart : ∀ r ∈ Reg.table, r.fields.Pairwise Fld.Apart := by
  unfold Fld.Apart
  decide +kernel

/-- At most one field of a register of the tables holds a bit. -/
theorem table_field_unique {r : RegDesc} (hr : r ∈ Reg.table) {f g : Fld} (hf : f ∈ r.fields) (hg : g ∈ r.fields)
    {i : Nat} (hfi : f.Holds i) (hgi : g.Holds i) : f = g := by
  by_contra hne
  have := Fld.apart_symm
  have apart : f.Apart g := (table_fields_apart r hr).forall hf hg hne
  unfold Fld.Holds Fld.Apart at *
  omega

/-- The mask of a field as a word has the bits that the field holds. -/
theorem Fld.getLsbD_mask (f : Fld) (h : f.lo ≤ f.hi) {i : Nat} (hi : i < 32) :
    (BitVec.ofNat 32 f.mask).getLsbD i = true ↔ f.Holds i := by
  simp only [BitVec.getLsbD_ofNat, hi, decide_true, Bool.true_and, Fld.mask_testBit f h, Bool.and_eq_true,
    decide_eq_true_iff, Fld.Holds]

/-- Collecting the masks of the fields with an access code: a bit of the result was there, or a field brought it. -/
theorem getLsbD_foldl_mask (a : Access) (i : Nat) (hi : i < 32) (fs : List Fld) (ho : ∀ f ∈ fs, f.lo ≤ f.hi)
    (m : Word) :
    (fs.foldl (fun m f => if f.acc = a then m ||| BitVec.ofNat 32 f.mask else m) m).getLsbD i = true ↔
      m.getLsbD i = true ∨ ∃ f ∈ fs, f.acc = a ∧ f.Holds i := by
  induction fs generalizing m with
  | nil => simp
  | cons f fs ih =>
    obtain ⟨hf, hfs⟩ := List.forall_mem_cons.mp ho
    rw [List.foldl_cons, ih hfs]
    split
    · rw [BitVec.getLsbD_or, Bool.or_eq_true, f.getLsbD_mask hf hi]
      simp [*, or_assoc]
    · simp [*]

/-- The bits of an access code are those of the fields that have it. -/
theorem accMask_getLsbD {r : RegDesc} (hr : r ∈ Reg.table) (a : Access) {i : Nat} (hi : i < 32) :
    (r.accMask a).getLsbD i = true ↔ ∃ f ∈ r.fields, f.acc = a ∧ f.Holds i := by
  rw [RegDesc.accMask, getLsbD_foldl_mask a i hi r.fields (table_fields_ordered r hr)]
  simp

/-- A bit that a field holds has the access code of that field and no other. -/
theorem accMask_getLsbD_of_holds {r : RegDesc} (hr : r ∈ Reg.table) {f : Fld} (hf : f ∈ r.fields) {i : Nat}
    (hi : i < 32) (hfi : f.Holds i) (a : Access) : (r.accMask a).getLsbD i = decide (f.acc = a) := by
  rw [Bool.eq_iff_iff, accMask_getLsbD hr a hi, decide_eq_true_iff]
  constructor
  · rintro ⟨g, hg, rfl, hgi⟩
    rw [table_field_unique hr hf hg hfi hgi]
  · exact fun ha => ⟨f, hf, ha, hfi⟩

/-- A bit in no field has no access code. -/
theorem accMask_getLsbD_of_free {r : RegDesc} (hr : r ∈ Reg.table) {i : Nat} (hi : i < 32)
    (h : ∀ f ∈ r.fields, ¬ f.Holds i) (a : Access) : (r.accMask a).getLsbD i = false := by
  rw [← Bool.not_eq_true, accMask_getLsbD hr a hi]
  exact fun ⟨f, hf, _, hfi⟩ => h f hf hfi

/-- A write, bit by bit: a writable bit is replaced, a W1C bit is cleared by 1, a W1S bit is set by 1. -/
theorem afterWrite_getLsbD (r : RegDesc) (locked : Bool) (old new : Word) {i : Nat} (hi : i < 32) :
    let o := old.getLsbD i
    let n := new.getLsbD i
    let writable := (r.accMask .rw).getLsbD i || (!locked && (r.accMask .rwl).getLsbD i)
    (r.afterWrite locked old new).getLsbD i =
      (((o && !writable) || (n && writable)) && !(n && (r.accMask .w1c).getLsbD i) ||
        (n && (r.accMask .w1s).getLsbD i)) := by
  cases locked <;>
    simp only [RegDesc.afterWrite, BitVec.getLsbD_or, BitVec.getLsbD_and, BitVec.getLsbD_not, hi, decide_true,
      Bool.true_and, Bool.not_true, Bool.not_false, Bool.false_and, if_true, if_false, Bool.false_eq_true,
      BitVec.ofNat_eq_ofNat, BitVec.getLsbD_zero]

end Sys2Proof.Machine
end

section
/-!
SUPPORT. The map of the configuration space (R15, R16): how far a register reaches, and the addresses at
which no register stands.
-/
namespace Sys2Proof.Machine

/-- One more than the largest offset of a place of a register. -/
def extent : List (Nat × Nat) → Nat
  | [] => 1
  | (stride, n) :: ds => stride * (n - 1) + extent ds

/-- Every place of a register lies within its extent. -/
theorem lt_extent_of_indexAt {ds : List (Nat × Nat)} {off : Nat} {ix : List Nat} (h : indexAt ds off = some ix) :
    off < extent ds := by
  induction ds generalizing off ix with
  | nil =>
    by_cases h0 : off = 0
    · simp [h0, extent]
    · simp [indexAt, h0] at h
  | cons sn ds ih =>
    obtain ⟨stride, n⟩ := sn
    rw [indexAt] at h
    split at h
    next hn =>
      obtain ⟨jx, hj, -⟩ := Option.map_eq_some_iff.mp h
      have rest := ih hj
      have whole : stride * (off / stride) ≤ stride * (n - 1) := Nat.mul_le_mul_left _ (by omega)
      have := Nat.div_add_mod off stride
      simp only [extent]
      omega
    next => simp at h

/-- No place of the register lies in a range of addresses. -/
def RegDesc.Outside (r : RegDesc) (lo hi : Nat) : Prop := hi ≤ r.base ∨ r.base + extent r.dims ≤ lo

/-- An address in a range that every register of the tables keeps out of names no register. -/
theorem regAt_none_of_outside {lo hi : Nat} (h : ∀ r ∈ Reg.table, r.Outside lo hi) {a : Nat} (hlo : lo ≤ a)
    (hhi : a < hi) : regAt a = none := by
  rw [regAt, regIn, List.findSome?_eq_none_iff]
  intro r hr
  have out := h r hr
  unfold RegDesc.Outside at out
  split
  next => rfl
  next hb =>
    rw [Option.map_eq_none_iff, Option.eq_none_iff_forall_ne_some]
    intro ix hix
    have := lt_extent_of_indexAt hix
    omega

/-- The register at an address is one of the tables. -/
theorem mem_table_of_regAt {a : Nat} {r : RegDesc} {ix : List Nat} (h : regAt a = some (r, ix)) : r ∈ Reg.table := by
  obtain ⟨q, hq, hx⟩ := List.exists_of_findSome?_eq_some h
  split at hx
  next => simp at hx
  next =>
    obtain ⟨jx, -, he⟩ := Option.map_eq_some_iff.mp hx
    injection he with hqr
    exact hqr ▸ hq

/-- The reserved ranges of the configuration space (R15, R16). -/
def reservedRanges : List (Nat × Nat) :=
  [(0x700000, 0x800000), (0xE00000, 0x1000000), (0x1900000, 0x2000000), (0x3880000, 0x4000000)]

theorem table_outside_reserved : ∀ x ∈ reservedRanges, ∀ r ∈ Reg.table, r.Outside x.1 x.2 := by
  unfold RegDesc.Outside
  decide +kernel

/-- An address that is reached through the register tables: no MSI-X table, path selector, stream block or SYNC window
stands there. -/
structure ByTable (p : Path) (a : Nat) : Prop where
  msix : msixAt p a = none
  qaddr : a ≠ addrQaddr
  haltCtl : a ≠ addrHaltCtl
  strm : strmBlock a = false
  sync : syncAddr a = false

/-- The MSI-X tables lie in the host block. -/
theorem msixAt_none_of_above (p : Path) {a : Nat} (h : 0x500000 ≤ a) : msixAt p a = none := by
  unfold msixAt
  split
  · rw [if_neg (by omega)]
  · rw [if_neg (by omega)]

/-- The reserved ranges hold nothing that is not in a register table either. -/
theorem byTable_of_reserved (p : Path) {a : Nat} {x : Nat × Nat} (hx : x ∈ reservedRanges) (hlo : x.1 ≤ a)
    (hhi : a < x.2) : ByTable p a := by
  have bounds : ∀ x ∈ reservedRanges, 0x700000 ≤ x.1 ∧ (x.2 ≤ 0x3800000 ∨ 0x3880000 ≤ x.1) := by decide
  have := bounds x hx
  refine ⟨msixAt_none_of_above p (by omega), ?_, ?_, ?_, ?_⟩
  · unfold addrQaddr; omega
  · unfold addrHaltCtl; omega
  · unfold strmBlock; simp; omega
  · unfold syncAddr; simp; omega

end Sys2Proof.Machine
end

section
/-!
SUPPORT. What one access at an address does, by what stands there (R9-R16): nothing, or a register of the tables.
-/
namespace Sys2Proof.Machine

section
variable {p : Path} {a : Nat} (h : ByTable p a)
include h

theorem regReadAt_unlisted (e : Env) (d : Dev) (during : Word) (hr : regAt a = none) :
    regReadAt e d p a during = (0, d) := by
  simp [regReadAt, h.msix, h.qaddr, h.haltCtl, h.strm, hr]

theorem regWriteAt_unlisted (e : Env) (d : Dev) (data : Word) (hr : regAt a = none) :
    regWriteAt e d p a data = d := by
  simp [regWriteAt, h.msix, h.qaddr, h.haltCtl, h.strm, hr]

theorem quietWord_unlisted (e : Env) (d : Dev) (hr : regAt a = none) : quietWord e d p a = (0, d) := by
  simp [quietWord, h.msix, h.qaddr, h.haltCtl, h.strm, h.sync, hr]

end

/-! An access of 32 bits at an aligned address outside the SYNC window is one access to the word there (R13). -/

section
variable {e : Env} {d d' : Dev} {p : Path} {a : Nat} {w : Word} (hs : syncAddr a = false) (h4 : a % 4 = 0)
include hs h4

theorem accessWrite_word {data : Nat} (alive : pathAlive d p a true = true) :
    accessWrite e d p a 4 data = regWriteAt e d p a (low32 data) := by
  simp [accessWrite, alive, hs, sizeOk, h4]

theorem accessRead_word {during : Nat} (alive : pathAlive d p a false = true)
    (hr : regReadAt e d p a (low32 during) = (w, d')) : accessRead e d p a 4 during = ([w], d') := by
  simp [accessRead, alive, hs, sizeOk, h4, hr]

omit hs in
theorem accessQuiet_word (alive : pathAlive d p a false = true) (hr : quietWord e d p a = (w, d')) :
    accessQuiet e d p a 4 = ([w], d') := by
  simp [accessQuiet, alive, sizeOk, h4, hr]

end

/-! An access of a wrong size or alignment is refused with a class C0 event (R14). -/

section
variable {d : Dev} {p : Path} {a size : Nat} (e : Env) (hs : syncAddr a = false) (bad : sizeOk a size = false)
include hs bad

theorem accessWrite_refused (data : Nat) (alive : pathAlive d p a true = true) :
    accessWrite e d p a size data = regEvent d p a := by
  simp [accessWrite, alive, hs, bad]

theorem accessRead_refused (during : Nat) (alive : pathAlive d p a false = true) :
    accessRead e d p a size during = (List.replicate (max 1 (size / 4)) 0xFFFFFFFF, regEvent d p a) := by
  simp only [accessRead, alive, hs, bad]
  rfl

omit hs in
theorem accessQuiet_refused (alive : pathAlive d p a false = true) :
    accessQuiet e d p a size = (List.replicate (max 1 (size / 4)) 0xFFFFFFFF, regEvent d p a) := by
  simp only [accessQuiet, alive, bad]
  rfl

end

end Sys2Proof.Machine
end

section
/-!
SUPPORT. The access rows as runs of an access (R9-R14, R452, R463).
-/
namespace Sys2Proof.Machine

/-- A read that returns words is answered on its path. -/
theorem answerRead_words (p : Path) {ws : List Word} (d : Dev) (h : ws ≠ []) :
    answerRead p (ws, d) = emit d (.regData p ws) := by
  simp [answerRead, h]

/-- What a run changes, by the value of its effect. -/
theorem run_of_effect {s : State} {f : Env → Dev → Dev} {d : Dev} (h : f ⟨s.fuses, s.mem⟩ s.dev.rest = d) :
    s.run f = .next { s with mem := applyChanges s.mem d.wq.reverse, dev := d.rest } := h ▸ rfl

/-- A device with what memory outside it answers to the running command. -/
def Dev.given (d : Dev) (ext : List Byte) : Dev := { d with extIn := ext }

section
variable {s : State} {p : Path} {addr : BitVec 26} {size : Nat} {ws : List Word} {d : Dev}

/-- A normal read that changes no memory: its words are answered, and the device stands as the read leaves it. -/
theorem exec_rcRead {during : BitVec 64}
    (hr : accessRead ⟨s.fuses, s.mem⟩ s.dev.rest p addr.toNat size during.toNat = (ws, d)) (hne : ws ≠ [])
    (hw : d.wq = []) :
    exec (.rcRead p addr size during) s = .next { s with dev := (emit d (.regData p ws)).rest } := by
  change s.run (fun e d => answerRead p (accessRead e d p addr.toNat size during.toNat)) = _
  exact run_device (by rw [hr, answerRead_words p d hne]) hw

/-- A quiet read that changes no memory. -/
theorem exec_quietRead (hr : accessQuiet ⟨s.fuses, s.mem⟩ s.dev.rest p addr.toNat size = (ws, d)) (hne : ws ≠ [])
    (hw : d.wq = []) :
    exec (.quietRead p addr size) s = .next { s with dev := (emit d (.regData p ws)).rest } := by
  change s.run (fun e d => answerRead p (accessQuiet e d p addr.toNat size)) = _
  exact run_device (by rw [hr, answerRead_words p d hne]) hw

/-- A write: its memory changes are applied, and the device stands as the write leaves it. -/
theorem exec_regWrite {data : BitVec 64} {ext : List Byte}
    (hr : accessWrite ⟨s.fuses, s.mem⟩ (s.dev.rest.given ext) p addr.toNat size data.toNat = d) :
    exec (.regWrite p addr size data ext) s =
      .next { s with mem := applyChanges s.mem d.wq.reverse, dev := d.rest } := by
  change s.run (fun e d => accessWrite e (d.given ext) p addr.toNat size data.toNat) = _
  exact run_of_effect hr

end

end Sys2Proof.Machine
end

section
/-!
SUPPORT. Registers whose write only stores fields, and registers whose read only clears RC fields (R9-R12).
-/
namespace Sys2Proof.Machine

/-- Writing a register leaves every other key as it is listed. -/
theorem keepsRegs_wrReg (d : Dev) (r : RegDesc) (ix : List Nat) (w : Word) :
    keepsRegs d (wrReg d r ix w) [r.key ix] := by
  intro k hk
  have hne : k ≠ r.key ix := by simpa using hk
  unfold wrReg Sparse.set
  dsimp only
  split
  · exact Sparse.find_del_other _ hne
  · exact Sparse.find_put_other _ _ hne

/-- The register that a test unit is found by is one of the unit's. -/
theorem tstDesc_base_of_tstOf {r : RegDesc} {ix : List Nat} {u : TestUnit} {i : Nat} (h : tstOf r ix = some (u, i)) :
    (tstDesc u i).base = r.base := by
  obtain ⟨v, -, hv⟩ := List.exists_of_findSome?_eq_some h
  obtain ⟨j, hj, he⟩ := Option.map_eq_some_iff.mp hv
  injection he with hu hi
  subst hu hi
  simpa using List.find?_some hj

/-- Every TST_CTL has a write of its own. -/
theorem plainReg_tstCtl (u : TestUnit) : plainReg (tstDesc u 0) = false := by
  rcases u with (_ | _ | _ | _) | _ | _ <;> rfl

/-- Every TST_BITS word captures or is captured. -/
theorem capturing_tstBits (u : TestUnit) : capturing (tstDesc u 5) = true ∧ capturing (tstDesc u 8) = true := by
  rcases u with (_ | _ | _ | _) | _ | _ <;> exact ⟨rfl, rfl⟩

theorem tstOf_ne_ctl {r : RegDesc} (hp : plainReg r = true) (ix : List Nat) (u : TestUnit) :
    tstOf r ix ≠ some (u, 0) := by
  intro h
  have ctl := plainReg_tstCtl u
  rw [plainReg, tstDesc_base_of_tstOf h] at ctl
  exact Bool.false_ne_true (ctl.symm.trans hp)

theorem tstOf_ne_of_capturing {r : RegDesc} (hc : capturing r = false) (ix : List Nat) {u : TestUnit} {i : Nat}
    (hu : capturing (tstDesc u i) = true) : tstOf r ix ≠ some (u, i) := by
  intro h
  rw [capturing, tstDesc_base_of_tstOf h] at hu
  exact Bool.false_ne_true (hc.symm.trans hu)

/-- The two blocks of registers that a write tells by their bounds hold no register without an effect of its own. -/
theorem table_plain_outside_blocks : ∀ r ∈ Reg.table, plainReg r = true →
    ¬ (Reg.HUB_PART_CORES.base ≤ r.base ∧ r.base ≤ Reg.HUB_PART_RES.base) ∧
    ¬ (Reg.GDE_RXWIN_CTL.base ≤ r.base ∧ r.base ≤ Reg.GDE_RXWIN_AUX.base) := by decide +kernel

/-- A write of a register with no effect of its own stores its fields by their access codes. -/
theorem performWrite_plain {r : RegDesc} (hr : r ∈ Reg.table) (hp : plainReg r = true) (e : Env) (d : Dev) (p : Path)
    (ix : List Nat) (data : Word) : performWrite e d p r ix data = r.store d ix (lockOf d r ix) data := by
  obtain ⟨notPart, notRxwin⟩ := table_plain_outside_blocks r hr hp
  have own := hp
  simp only [plainReg, List.map_cons, List.contains_cons, Bool.not_eq_true', Bool.or_eq_false_iff,
    beq_eq_false_iff_ne] at own
  have hub : hubWrite e d p r ix data = none := by simp [hubWrite, own, notPart]
  have mid : midWrite e d p r ix data = none := by simp [midWrite, own]
  have site : siteWrite d p r ix data = none := by simp [siteWrite, own, notRxwin]
  have trc : trcWrite d p r ix data = none := by simp [trcWrite, own]
  have fabric : fabricWrite e d r ix data = none := by simp [fabricWrite, own]
  simp only [performWrite, hub, mid, site, trc, fabric, ite_self, own, false_or, if_false]
  split
  next h => cases h
  next h => cases h
  next h => exact absurd h (tstOf_ne_ctl hp ix _)
  next => rfl

theorem base_ne_of_not_capturing {r : RegDesc} (hc : capturing r = false) :
    r.base ≠ Reg.THM_TB_LO.base ∧ r.base ≠ Reg.THM_TB_HI.base ∧ r.base ≠ Reg.DBG_QDATA.base ∧
      r.base ≠ Reg.DBG_HALT_STAT.base := by
  simp only [capturing, List.map_cons, List.contains_cons, Bool.or_eq_false_iff, beq_eq_false_iff_ne] at hc
  obtain ⟨tbLo, tbHi, qdata, halt, -⟩ := hc
  exact ⟨tbLo, tbHi, qdata, halt⟩

/-- A normal read of a register that captures nothing returns what the register shows. -/
theorem normalWord_of_not_capturing {r : RegDesc} (hc : capturing r = false) (e : Env) (d : Dev) (p : Path)
    (ix : List Nat) : normalWord e d p r ix = showWord e d r ix := by
  obtain ⟨-, notTbHi, -, -⟩ := base_ne_of_not_capturing hc
  rw [normalWord, if_neg notTbHi]
  split
  next u h => exact absurd h (tstOf_ne_of_capturing hc ix (capturing_tstBits u).2)
  next => rfl

/-- The device after a normal read that captures nothing: RC fields keep what arrived during it (R11). -/
def readRc (d : Dev) (r : RegDesc) (ix : List Nat) (during : Word) : Dev :=
  if r.accMask .rc = 0 then d else wrReg d r ix (r.afterRead (rdReg d r ix) during)

theorem afterNormal_of_not_capturing {r : RegDesc} (hc : capturing r = false) (d : Dev) (p : Path)
    (ix : List Nat) (during : Word) : afterNormal d p r ix during = readRc d r ix during := by
  obtain ⟨notTbLo, -, -, -⟩ := base_ne_of_not_capturing hc
  rw [afterNormal, if_neg notTbLo]
  split
  next u h => exact absurd h (tstOf_ne_of_capturing hc ix (capturing_tstBits u).1)
  next => rfl

/-- Words of a register without RC fields are as they were after a read. -/
theorem afterRead_of_no_rc {r : RegDesc} (h : r.accMask .rc = 0) (old during : Word) :
    r.afterRead old during = old := by
  simp only [RegDesc.afterRead, h, BitVec.ofNat_eq_ofNat, BitVec.not_zero, BitVec.and_allOnes, BitVec.and_zero,
    BitVec.or_zero]

/-- A read's clearing of RC fields changes its register and nothing else. -/
theorem readRc_spec (d : Dev) (r : RegDesc) (ix : List Nat) (during : Word) :
    readRc d r ix during = { d with regs := (readRc d r ix during).regs } ∧
      rdReg (readRc d r ix during) r ix = r.afterRead (rdReg d r ix) during ∧
      keepsRegs d (readRc d r ix during) [r.key ix] := by
  unfold readRc
  split
  next noRc => exact ⟨rfl, (afterRead_of_no_rc noRc _ _).symm, fun _ _ => rfl⟩
  next => exact ⟨rfl, rdReg_wrReg_same _ _ _ _, keepsRegs_wrReg _ _ _ _⟩

section
variable {p : Path} {a : Nat} {r : RegDesc} {ix : List Nat} {e : Env} {d : Dev}
  (h : ByTable p a) (hr : regAt a = some (r, ix))
include h hr

theorem regWriteAt_plain (hp : plainReg r = true) (writes : pathWrites d p r ix = true) (up : portHalted d p = false)
    (data : Word) : regWriteAt e d p a data = r.store d ix (lockOf d r ix) data := by
  rw [portHalted] at up
  simp [regWriteAt, up, h.msix, h.qaddr, h.haltCtl, h.strm, hr, writes, performWrite_plain (mem_table_of_regAt hr) hp]

theorem quietWord_listed (hc : capturing r = false) (reads : pathReads d p r ix = true) :
    quietWord e d p a = (showWord e d r ix, d) := by
  obtain ⟨-, -, notQdata, notHalt⟩ := base_ne_of_not_capturing hc
  simp [quietWord, h.msix, h.qaddr, h.haltCtl, h.strm, h.sync, hr, reads, notQdata, notHalt]

theorem regReadAt_listed (hc : capturing r = false) (reads : pathReads d p r ix = true) (during : Word) :
    regReadAt e d p a during = (showWord e d r ix, readRc d r ix during) := by
  obtain ⟨-, -, notQdata, notHalt⟩ := base_ne_of_not_capturing hc
  simp [regReadAt, h.msix, h.qaddr, h.haltCtl, h.strm, hr, reads, notQdata, notHalt,
    normalWord_of_not_capturing hc, afterNormal_of_not_capturing hc]

end

/-! A vendor command of one word (R463, Table 13.10). -/

theorem cmdStatus_one {d : Dev} {addr : BitVec 26} (h4 : addr.toNat % 4 = 0) (on : railsOff d addr.toNat = false) :
    cmdStatus d addr.toNat 1 = 0 := by
  have := addr.isLt
  simp [cmdStatus, cmdAddrs, h4, on]
  omega

theorem toNat_cmdAddr (addr : BitVec 26) : (addr.setWidth 32).toNat = addr.toNat :=
  BitVec.toNat_setWidth_of_le (by decide)

theorem cmdAddrs_one (a : Nat) : cmdAddrs a 1 = [a] := rfl

theorem writeWords_one (e : Env) (p : Path) {a : Nat} (sync : syncAddr a = false) (w : Word) (d : Dev) :
    writeWords e p [(a, w)] d = (true, regWriteAt e d p a w) := by
  simp [writeWords, sync]

theorem readWords_quiet_one (e : Env) (p : Path) (a : Nat) (d : Dev) :
    readWords e p true [a] d = ([(quietWord e d p a).1], (quietWord e d p a).2) := rfl

theorem wordBytes_one (w : Word) : wordBytes [w] = leBytes 4 w.toNat := by
  simp [wordBytes]

/-- REG_WRITE_CMD of one word is the side-band's write of that word, with an answer. -/
theorem exec_regWriteCmd_one {s : State} {addr : BitVec 26} {ext : List Byte} (h4 : addr.toNat % 4 = 0)
    (on : railsOff s.dev addr.toNat = false) (sync : syncAddr addr.toNat = false) (data : Word) {d : Dev}
    (hd : regWriteAt ⟨s.fuses, s.mem⟩ (s.dev.rest.given ext) .sideBand addr.toNat data = d) :
    exec (.regWriteCmd (addr.setWidth 32) 1 [data] ext) s =
      .next { s with mem := applyChanges s.mem d.wq.reverse, dev := (emit d (.sideBand 0 [])).rest } := by
  change execRegWriteCmd _ _ _ _ s = _
  have status : cmdStatus s.dev.rest addr.toNat 1 = 0 := cmdStatus_one h4 on
  refine run_of_effect (d := emit d _) ?_
  simp only [toNat_cmdAddr, BitVec.reduceToNat, List.length_singleton, ne_eq, not_true, if_false, status, zero_ne_one,
    cmdAddrs_one, List.zip_cons_cons, List.zip_nil_right, writeWords_one _ _ sync, if_true, ← hd]
  rfl

/-- REG_READ of one word in the quiet view answers the bytes of the word. -/
theorem exec_regRead_quiet {s : State} {addr : BitVec 26} (h4 : addr.toNat % 4 = 0)
    (on : railsOff s.dev addr.toNat = false) {w : Word} {d : Dev}
    (hr : quietWord ⟨s.fuses, s.mem⟩ s.dev.rest .sideBand addr.toNat = (w, d)) (hw : d.wq = []) :
    exec (.regRead (addr.setWidth 32) 1 true) s =
      .next { s with dev := (emit d (.sideBand 0 (leBytes 4 w.toNat))).rest } := by
  change execRegRead _ _ _ s = _
  have status : cmdStatus s.dev.rest addr.toNat 1 = 0 := cmdStatus_one h4 on
  refine run_device (d := emit d _) ?_ hw
  simp only [toNat_cmdAddr, BitVec.reduceToNat, status, zero_ne_one, ne_eq, not_true, if_false, cmdAddrs_one,
    readWords_quiet_one, hr, wordBytes_one]

end Sys2Proof.Machine
end

section
/-!
SETTLED. The scope family: how a register write changes each bit (O6), reserved addresses (O7), refused accesses (O8), and
what plain writes store and reads answer and clear (O9, O10). What an access asks of the device (its path, its lock, what
a register shows) does not look at what is left over from another command, so that a hypothesis about `s.dev` is one
about the device as the command finds it.
-/
namespace Sys2Proof.Machine

/-- Settles O6: a bit has the access code of the one field that holds it, and none where no field does. -/
theorem accessCodesDecideWrite : Obligations.AccessCodesDecideWrite := by
  intro r hr locked old new i hi
  rw [afterWrite_getLsbD r locked old new hi]
  refine ⟨fun f hf hlo hhi => ?_, fun hfree => ?_⟩
  · simp only [accMask_getLsbD_of_holds hr hf hi ⟨hlo, hhi⟩]
    cases f.acc <;> cases locked <;> simp
  · simp [accMask_getLsbD_of_free hr hi hfree]

/-- Settles O7: no register reaches into a reserved range, and where no register stands an access finds
nothing to read or to change. -/
theorem reservedAddressesReadZero : Obligations.ReservedAddressesReadZero := by
  refine ⟨fun e d p a during data _ hres => ?_, ?_⟩
  · have ⟨x, hx, hlo, hhi⟩ : ∃ x ∈ reservedRanges, x.1 ≤ a ∧ a < x.2 := by simpa [reservedRanges] using hres
    have byTable := byTable_of_reserved p hx hlo hhi
    have unlisted := regAt_none_of_outside (table_outside_reserved x hx) hlo hhi
    exact ⟨regReadAt_unlisted byTable e d during unlisted, regWriteAt_unlisted byTable e d data unlisted,
      quietWord_unlisted byTable e d unlisted⟩
  · intro s p addr during data ext unlisted msix qaddr haltCtl strm sync h4 aliveW aliveR
    have byTable : ByTable p addr.toNat := ⟨msix, qaddr, haltCtl, strm, sync⟩
    have read := accessRead_word (d := s.dev.rest) sync h4 aliveR
      (regReadAt_unlisted byTable ⟨s.fuses, s.mem⟩ _ (low32 during.toNat) unlisted)
    have quiet := accessQuiet_word (d := s.dev.rest) h4 aliveR
      (quietWord_unlisted byTable ⟨s.fuses, s.mem⟩ _ unlisted)
    have write := (accessWrite_word (d := s.dev.rest.given ext) sync h4 aliveW).trans
      (regWriteAt_unlisted byTable ⟨s.fuses, s.mem⟩ _ (low32 data.toNat) unlisted)
    exact ⟨⟨_, exec_rcRead read (List.cons_ne_nil _ _) rfl, rfl⟩,
      ⟨_, exec_quietRead quiet (List.cons_ne_nil _ _) rfl, rfl⟩, ⟨_, exec_regWrite write, rfl⟩⟩

/-- Settles O8: the access stops at its size check, whose event is the only thing that it leaves. -/
theorem wrongSizeAccessRefused : Obligations.WrongSizeAccessRefused := by
  intro s p addr size during data ext sync bad aliveW aliveR refused answered
  have words : List.replicate (max 1 (size / 4)) (0xFFFFFFFF : Word) ≠ [] := by simp
  have read := accessRead_refused ⟨s.fuses, s.mem⟩ sync bad (d := s.dev.rest) during.toNat aliveR
  have quiet := accessQuiet_refused ⟨s.fuses, s.mem⟩ bad (d := s.dev.rest) aliveR
  have write := accessWrite_refused ⟨s.fuses, s.mem⟩ sync bad (d := s.dev.rest.given ext) data.toNat aliveW
  exact ⟨⟨_, exec_rcRead read words rfl, rfl⟩, ⟨_, exec_quietRead quiet words rfl, rfl⟩,
    ⟨_, exec_regWrite write, rfl⟩⟩

/-- Settles O9: the write passes every case of a write with an effect of its own and stores the fields. -/
theorem plainWriteStoresFields : Obligations.PlainWriteStoresFields := by
  refine ⟨fun s p addr data ext r ix hr hp h4 sync msix qaddr haltCtl strm alive writes up => ?_,
    fun s p addr size data during ext => ⟨_, rfl, rfl⟩, fun s addr data ext h4 on sync => ?_⟩
  · have byTable : ByTable p addr.toNat := ⟨msix, qaddr, haltCtl, strm, sync⟩
    have write := (accessWrite_word (d := s.dev.rest.given ext) sync h4 alive).trans
      (regWriteAt_plain (e := ⟨s.fuses, s.mem⟩) (d := s.dev.rest.given ext) byTable hr hp writes up (low32 data.toNat))
    exact ⟨_, exec_regWrite write, rfl, rdReg_wrReg_same _ _ _ _, keepsRegs_wrReg _ _ _ _⟩
  · have alive : pathAlive (s.dev.rest.given ext) .sideBand addr.toNat true = true := Bool.not_eq_true' _ ▸ on
    have word : low32 (data.setWidth 64).toNat = data := by
      rw [low32, BitVec.toNat_setWidth_of_le (by decide), BitVec.ofNat_toNat, BitVec.setWidth_eq]
    have write := (accessWrite_word (e := ⟨s.fuses, s.mem⟩) sync h4 alive).trans (congrArg _ word)
    exact ⟨_, _, exec_regWriteCmd_one h4 on sync data rfl, exec_regWrite write, rfl⟩

/-- Settles O10: the read answers what the register shows, and clearing its RC fields is all that it changes. -/
theorem readsAnswerAndClear : Obligations.ReadsAnswerAndClear := by
  refine ⟨fun s p addr during r ix hr hc h4 sync msix qaddr haltCtl strm alive reads => ?_,
    fun s p addr size during ext => ⟨_, rfl, rfl⟩, ?_⟩
  · have byTable : ByTable p addr.toNat := ⟨msix, qaddr, haltCtl, strm, sync⟩
    have read := accessRead_word (d := s.dev.rest) sync h4 alive
      (regReadAt_listed (e := ⟨s.fuses, s.mem⟩) (d := s.dev.rest) byTable hr hc reads (low32 during.toNat))
    have quiet := accessQuiet_word (d := s.dev.rest) h4 alive
      (quietWord_listed (e := ⟨s.fuses, s.mem⟩) (d := s.dev.rest) byTable hr hc reads)
    obtain ⟨frame, word, others⟩ := readRc_spec s.dev.rest r ix (low32 during.toNat)
    have noChange : (readRc s.dev.rest r ix (low32 during.toNat)).wq = [] := by rw [frame]; rfl
    refine ⟨⟨_, exec_rcRead read (List.cons_ne_nil _ _) noChange, ?_, word, others⟩,
      ⟨_, exec_quietRead quiet (List.cons_ne_nil _ _) rfl, rfl⟩⟩
    rw [frame]
    rfl
  · intro s addr r ix hr hc h4 sync msix qaddr haltCtl strm on
    have byTable : ByTable .sideBand addr.toNat := ⟨msix, qaddr, haltCtl, strm, sync⟩
    exact ⟨_, exec_regRead_quiet h4 on (quietWord_listed (d := s.dev.rest) byTable hr hc rfl) rfl, rfl⟩

end Sys2Proof.Machine
end

section
/-!
SUPPORT. The fresh plan of a start (R29): what a round takes out of the active sites.
-/
namespace Sys2Proof.Machine

/-- The choice of the largest by a measure, over a list: no entry, nor what the choice began with, measures more. -/
theorem le_foldl_largest (n : Nat → Nat) (ms : List Nat) (b : Nat) :
    ∀ m ∈ b :: ms, n m ≤ n (ms.foldl (fun b m => if n b ≤ n m then m else b) b) := by
  induction ms generalizing b with
  | nil => simp
  | cons m ms ih =>
    intro x hx
    have larger : max (n b) (n m) = n (if n b ≤ n m then m else b) := by split <;> omega
    have chosen := larger.le.trans (ih _ _ List.mem_cons_self)
    rw [List.foldl_cons]
    obtain rfl | rfl | hx : x = b ∨ x = m ∨ x ∈ ms := by simpa using hx
    · exact (le_max_left _ _).trans chosen
    · exact (le_max_right _ _).trans chosen
    · exact ih _ x (List.mem_cons_of_mem _ hx)

/-- The fullest base die holds an active site, where there is one. -/
theorem filter_fullest_ne_nil {act : List Nat} {x : Nat} (hx : x ∈ act) (h36 : x < 36) :
    act.filter (fun s => s / 6 == fullest act) ≠ [] := by
  have die : x / 6 ∈ 0 :: List.range 6 := List.mem_cons_of_mem _ (List.mem_range.mpr (by omega))
  have own : 0 < (act.filter (fun s => s / 6 == x / 6)).length :=
    List.length_pos_of_mem (List.mem_filter.mpr ⟨hx, by simp⟩)
  have largest := le_foldl_largest (fun m => (act.filter (fun s => s / 6 == m)).length) _ _ _ die
  exact List.ne_nil_of_length_pos (own.trans_le largest)

/-- No more than T sites are kept as they are. -/
theorem freshActive_of_le {t : Nat} {act : List Nat} (h : act.length ≤ t) (fuel : Nat) :
    freshActive t fuel act = act := by
  cases fuel with
  | zero => rfl
  | succ fuel => rw [freshActive, if_pos h]

/-- With more than T sites, a round takes one of them out. -/
theorem freshActive_round {t : Nat} {act : List Nat} (h : t < act.length) (nodup : act.Nodup)
    (h36 : ∀ x ∈ act, x < 36) (fuel : Nat) :
    ∃ s ∈ act, freshActive t (fuel + 1) act = freshActive t fuel (act.erase s) := by
  obtain ⟨x, hx⟩ := List.exists_mem_of_length_pos (by omega : 0 < act.length)
  have someSite := filter_fullest_ne_nil hx (h36 x hx)
  refine ⟨_, List.mem_of_mem_filter (List.getLast_mem someSite), ?_⟩
  rw [freshActive, if_neg (by omega), List.getLast?_eq_some_getLast someSite, nodup.erase_eq_filter]

/-- The plan only takes sites out. -/
theorem freshActive_sublist (t fuel : Nat) (act : List Nat) : (freshActive t fuel act).Sublist act := by
  induction fuel generalizing act with
  | zero => exact List.Sublist.refl _
  | succ fuel ih =>
    rw [freshActive]
    split
    · exact List.Sublist.refl _
    · split
      · exact (ih _).trans List.filter_sublist
      · exact List.Sublist.refl _

/-- The plan stops at T sites, where its rounds are enough. -/
theorem length_freshActive {t fuel : Nat} {act : List Nat} (nodup : act.Nodup) (h36 : ∀ x ∈ act, x < 36)
    (atLeast : t ≤ act.length) (rounds : act.length ≤ t + fuel) : (freshActive t fuel act).length = t := by
  induction fuel generalizing act with
  | zero => exact Nat.le_antisymm rounds atLeast
  | succ fuel ih =>
    rcases atLeast.eq_or_lt with done | more
    · rw [freshActive_of_le done.ge, done]
    · obtain ⟨s, hs, round⟩ := freshActive_round more nodup h36 fuel
      have fewer := List.length_erase_of_mem hs
      rw [round]
      exact ih (nodup.erase s) (fun x hx => h36 x (List.mem_of_mem_erase hx)) (by omega) (by omega)

end Sys2Proof.Machine
end

section
/-!
SUPPORT. The commands on a failing core (R34, Table 1.5), each by the state of its site, and the bytes that a run leaves.
-/
namespace Sys2Proof.Machine

/-- A byte after an effect is what the effect made of it, or what it was. -/
theorem byte_after (s : State) (f : Env → Dev → Dev) (k : Nat) :
    (s.after f).byte k = (changeAt (f ⟨s.fuses, s.mem⟩ s.dev.rest).wq k).getD (s.byte k) := get_applyChanges _ _ _

/-- The report that an active core has failed. -/
def coreFailReport (d : Dev) (site : Nat) : Report :=
  { source := 0x20, unit := 7 + site, stat := Reg.HUB_CORE_MAP.slot [siteLogical d site] }

theorem exec_coreFail_active {s : State} {site : Fin 36} (h : siteState s.dev site.val = 0) :
    exec (.coreFail site) s = .next (s.after (fun e d => takeFault e d (coreFailReport s.dev site.val))) := by
  have active : siteState s.dev.rest site.val = 0 := h
  change execCoreFail site s = _
  simp only [execCoreFail, State.run, active, ne_eq, not_true, if_false]
  rfl

theorem exec_coreFail_other {s : State} {site : Fin 36} (h : siteState s.dev site.val ≠ 0) :
    exec (.coreFail site) s = .next { s with dev := s.dev.rest } := by
  change execCoreFail site s = _
  exact run_device (d := s.dev.rest) (if_pos h) rfl

/-- Of the sources with a reaction of class C1, CORE_FAIL of a core site is the one that fences the core (Table 16.4). -/
theorem reactC1_coreFail (e : Env) (d : Dev) {r : Report} {site : Nat} (hsite : site < 36) (source : r.source = 0x20)
    (unit : r.unit = 7 + site) : reactC1 e d r = fenceCore d site := by
  have onSite : 7 + site < 43 := by omega
  simp [reactC1, source, unit, onSite]

/-- A spare that fails to activate: its CORE_FAIL report, and the fence of its site with the reason 5. -/
def fenceSpare (d : Dev) (site : Nat) : Dev :=
  let r : Report := { source := 0x20, unit := unitSite site, part := partOfCore d (siteLogical d site),
                      stat := Reg.HUB_CORE_MAP.slot [siteLogical d site] }
  mapChanged (setSite (resetSite (stopCounters (report d r) site) site) site 4 0 5)

/-- What SPARE_ACTIVATION_FAIL makes of a device whose site is ACTIVATING. -/
def failSpare (d : Dev) (site : Nat) : Dev :=
  bringSpare (fenceSpare d site) (siteLogical d site) (Sparse.get site d.coppice.replacing (siteLogical d site))

theorem exec_spareActivationFail_activating {s : State} {site : Fin 36} (h : siteState s.dev site.val = 5) :
    exec (.spareActivationFail site) s = .next (s.after (fun _ d => failSpare d site.val)) := by
  have activating : siteState s.dev.rest site.val = 5 := h
  change execSpareActivationFail site s = _
  simp only [execSpareActivationFail, State.run, activating, ne_eq, not_true, if_false]
  rfl

end Sys2Proof.Machine
end

section
/-!
SUPPORT. A state in which a failing spare costs bytes of memory. Site 35 is ACTIVATING under the number 0 while
HUB_CORE_MAP still gives that number site 0, where an RNG descriptor of stream 0 runs; every other site is FENCED. No spare
remains when site 35 fails, so that stream 0 is LOST (R216): its descriptor leaves the engine of site 0 and the byte that it
was to fill becomes undefined (R201).
-/
namespace Sys2Proof.Machine

/-- An RNG descriptor that fills the byte at local address 0: one value of 8 bits. -/
def oneByteFill : List Byte := [7] ++ List.replicate 17 0 ++ [0x20] ++ List.replicate 5 0 ++ [1] ++ List.replicate 39 0

/-- The spare that is coming up. -/
def comingUp : Fin 36 := 35

/-- The number 0 has site 0 and is being brought up on site 35; no other site is left. -/
def twoSitesOneCore : Dev :=
  let fenced := (List.range 36).foldl (fun d s => setSite d s 4 0 5) {}
  setSite (placeCore fenced 0 0) comingUp.val 5 0 0

/-- With stream 0 of that core running the fill on the RNG of site 0. -/
def twoSitesFilling : Dev :=
  let running := setStrmState (fset twoSitesOneCore Reg.HUB_STRM_CFG [0] Fld.HUB_STRM_CFG_enable 1) 0 1
  let held := setStrm running 0 { held := [{ seq := 0, bytes := oneByteFill, phase := .dispatched, sent := some 0 }] }
  setEng held 0 11 { active := some { job := ⟨0, 0, oneByteFill⟩ } }

/-- The state of that device, with a byte in the cell of site 0 that the fill is to write. -/
def fillingOver (b : Byte) : State :=
  { State.reset with mem := Sparse.set memDefault [] (coreCells 0) b, dev := twoSitesFilling }

theorem dev_fillingOver (b : Byte) : (fillingOver b).dev = twoSitesFilling := rfl

theorem byte_fillingOver (b : Byte) : (fillingOver b).byte (coreCells 0) = b := Sparse.get_set_same _ _ _ _

theorem siteState_twoSitesFilling : siteState twoSitesFilling comingUp.val = 5 := by decide +kernel

theorem failSpare_twoSitesFilling_writes :
    (changeAt (failSpare twoSitesFilling.rest comingUp.val).wq (coreCells 0)).isSome = true := by decide +kernel

/-- What the failure of the spare makes of the byte does not depend on the byte. -/
theorem spareActivationFail_forgets_byte :
    ∃ v, ∀ b, ∃ t, exec (.spareActivationFail comingUp) (fillingOver b) = .next t ∧ t.byte (coreCells 0) = v := by
  obtain ⟨v, written⟩ := Option.isSome_iff_exists.mp failSpare_twoSitesFilling_writes
  refine ⟨v, fun b => ⟨_, exec_spareActivationFail_activating siteState_twoSitesFilling, ?_⟩⟩
  rw [byte_after, dev_fillingOver, written, Option.getD_some]

end Sys2Proof.Machine
end

section
/-!
SETTLED. The package composition family: the fresh plan (O14), a core's failure (O13), and a spare's activation (O12).
-/
namespace Sys2Proof.Machine

/-- Settles O14: a round takes out one site of the fullest base die, and 36 rounds are enough for 36 sites. -/
theorem freshPlanKeepsGoodCores : Obligations.FreshPlanKeepsGoodCores := by
  intro t good nodup h36
  have sub := freshActive_sublist t 36 good
  have few : good.length ≤ 36 := by
    simpa using (nodup.subperm (fun x hx => List.mem_range.mpr (h36 x hx))).length_le
  exact ⟨fun x hx => sub.subset hx, nodup.sublist sub, fun h => freshActive_of_le h 36,
    fun h => length_freshActive nodup h36 h (by omega)⟩

/-- Settles O13, by the state of the site and by the arm of Table 16.4 for CORE_FAIL. -/
theorem coreFailureIsTaken : Obligations.CoreFailureIsTaken :=
  fun _ site => ⟨exec_coreFail_active, exec_coreFail_other, fun e d _ => reactC1_coreFail e d site.isLt⟩

/-- Refutes O12: SPARE_ACTIVATION_FAIL does not leave every memory as it was. Where no spare remains the streams of the
number are LOST, and with HUB_CORE_MAP still giving the number a site, as the statement allows, their descriptors leave that
site's engines with output bytes undefined (R201): the byte `v` that is left there cannot be both 0 and 1, whichever stood there. -/
theorem not_spareTakesOver : ¬ Obligations.SpareTakesOver := by
  rintro ⟨-, fails⟩
  obtain ⟨v, forgets⟩ := spareActivationFail_forgets_byte
  have kept (b : Byte) : v = b := by
    obtain ⟨t, next, keeps, -⟩ := fails (fillingOver b) comingUp siteState_twoSitesFilling
    obtain ⟨t', next', byte⟩ := forgets b
    obtain rfl : t' = t := Host.Outcome.next.inj (next'.symm.trans next)
    rw [← byte, State.byte, keeps]
    exact byte_fillingOver b
  exact absurd ((kept 0).symm.trans (kept 1)) (by decide)

end Sys2Proof.Machine
end

section
/-!
SUPPORT. The matrix engine's slots (R104, R105): what promotion, removal and the end of a descriptor do to the engine of a
site, and the two outcomes of the completion check (R97, R100).
-/
namespace Sys2Proof.Machine

@[simp] theorem getMxe_setMxe (d : Dev) (site : Nat) (m : Mxe) : getMxe (setMxe d site m) site = m :=
  Sparse.get_set_same _ _ _ _

@[simp] theorem getMxe_rest (d : Dev) (site : Nat) : getMxe d.rest site = getMxe d site := rfl

@[simp] theorem getMxe_fincSat (d : Dev) (r : RegDesc) (ix : List Nat) (f : Fld) (n site : Nat) :
    getMxe (fincSat d r ix f n) site = getMxe d site := rfl

@[simp] theorem getMxe_engReport (d : Dev) (j : Job) (status : Nat) (f : XFlags) (detail site : Nat) :
    getMxe (engReport d j status f detail) site = getMxe d site := rfl

/-- Moving the staged descriptor up leaves the accumulator file as it was. -/
@[simp] theorem mxePromote_acc (m : Mxe) : (mxePromote m).acc = m.acc := by
  unfold mxePromote
  split
  · split <;> rfl
  · rfl

/-- A descriptor that leaves its slot leaves what it accumulated in its rows. -/
@[simp] theorem mxeRemove_acc (m : Mxe) (staged : Bool) : (mxeRemove m staged).acc = m.acc := by
  unfold mxeRemove
  split
  · rfl
  · cases staged <;> exact mxePromote_acc _

/-- The end of a descriptor with its rows kept: nothing where the slot is empty, and else the descriptor leaves the slot and
its status is reported. -/
theorem mxeEnd_keeping_cases (d : Dev) (site : Nat) (staged : Bool) (status : Nat) :
    mxeEnd d site staged false status = d ∨ ∃ j : MxeJob, mxeEnd d site staged false status =
      engReport (setMxe d site (mxeRemove (getMxe d site) staged)) j.job status j.flags 0 := by
  cases slot : if staged then (getMxe d site).staged else (getMxe d site).active with
  | none => exact .inl (by simp only [mxeEnd, slot])
  | some j => exact .inr ⟨j, by simp only [mxeEnd, slot, Bool.false_eq_true, if_false]⟩

@[simp] theorem mxeEnd_keeping_wq (d : Dev) (site : Nat) (staged : Bool) (status : Nat) :
    (mxeEnd d site staged false status).wq = d.wq := by
  rcases mxeEnd_keeping_cases d site staged status with same | ⟨j, ended⟩
  · rw [same]
  · rw [ended]
    rfl

@[simp] theorem getMxe_mxeEnd_keeping_acc (d : Dev) (site : Nat) (staged : Bool) (status : Nat) :
    (getMxe (mxeEnd d site staged false status) site).acc = (getMxe d site).acc := by
  rcases mxeEnd_keeping_cases d site staged status with same | ⟨j, ended⟩
  · rw [same]
  · rw [ended, getMxe_engReport, getMxe_setMxe, mxeRemove_acc]

/-- The end of the active descriptor with its rows kept: it leaves its slot and its status is reported. -/
theorem mxeEnd_active {d : Dev} {site : Nat} {j : MxeJob} (active : (getMxe d site).active = some j) (status : Nat) :
    mxeEnd d site false false status =
      engReport (setMxe d site (mxeRemove (getMxe d site) false)) j.job status j.flags 0 := by
  simp [mxeEnd, active]

/-- The completion check leaves the device as it was, or ends the active descriptor with OK. -/
theorem mxeMaybeDone_cases (d : Dev) (site : Nat) :
    mxeMaybeDone d site = d ∨ mxeMaybeDone d site = mxeEnd d site false false 0 := by
  unfold mxeMaybeDone
  split
  · exact .inl rfl
  · dsimp only
    split
    · exact .inr rfl
    · exact .inl rfl

@[simp] theorem mxeMaybeDone_wq (d : Dev) (site : Nat) : (mxeMaybeDone d site).wq = d.wq := by
  rcases mxeMaybeDone_cases d site with same | ended
  · rw [same]
  · rw [ended, mxeEnd_keeping_wq]

@[simp] theorem getMxe_mxeMaybeDone_acc (d : Dev) (site : Nat) :
    (getMxe (mxeMaybeDone d site) site).acc = (getMxe d site).acc := by
  rcases mxeMaybeDone_cases d site with same | ended
  · rw [same]
  · rw [ended, getMxe_mxeEnd_keeping_acc]

/-- A draining descriptor with rows left to write stays active. -/
theorem mxeMaybeDone_of_row_left {d : Dev} {site : Nat} {j : MxeJob} (active : (getMxe d site).active = some j)
    (drains : (mxeDesc j.job.bytes).drain = true) (left : j.drained < (mxeDesc j.job.bytes).m) :
    mxeMaybeDone d site = d := by
  simp [mxeMaybeDone, active, drains, left]

end Sys2Proof.Machine
end

section
/-!
SUPPORT. The paths of a descriptor through accumulation and drain: an entry that lands (R90, R91), a row that is written
without MX blocks (R97), and a final report that fails (R100).
-/
namespace Sys2Proof.Machine

/-- The active descriptor with one more entry landed in an output row. -/
def MxeJob.landedIn (j : MxeJob) (row : Nat) : MxeJob :=
  { j with landed := Sparse.put j.landed row (Sparse.get 0 j.landed row + 1) }

/-- The engine once an entry of its active descriptor has landed at window `w`, with `rest` still in flight. -/
def Mxe.landEntry (m : Mxe) (j : MxeJob) (w : Int) (f : Flight) (rest : List Flight) : Mxe :=
  let x := mxeDesc j.job.bytes
  let row := x.accRow + f.row
  { m with acc := Sparse.set [] m.acc row (landRow x w (Sparse.get [] m.acc row) f.cols), flight := rest,
           active := some (j.landedIn f.row) }

/-- The row that the entry landed in. -/
theorem Mxe.get_landEntry_acc (m : Mxe) (j : MxeJob) (w : Int) (f : Flight) (rest : List Flight) :
    let row := (mxeDesc j.job.bytes).accRow + f.row
    Sparse.get [] (m.landEntry j w f rest).acc row =
      landRow (mxeDesc j.job.bytes) w (Sparse.get [] m.acc row) f.cols := Sparse.get_set_same _ _ _ _

/-- The active descriptor once its next row is written: the row's flags and top are gathered (R72, R100). -/
def drainedRow (d : Dev) (site : Nat) (j : MxeJob) : MxeJob :=
  let x := mxeDesc j.job.bytes
  let f := drainFlags x (accWin d site (x.accRow + j.drained)) (accRowOf d site x j.drained)
  { j with drained := j.drained + 1, flags := j.flags.or f.1, top := topMax j.top f.2 }

/-- The write of the next row of a descriptor without MX blocks: its status and the device. -/
def writePlainRow (d : Dev) (site : Nat) (j : MxeJob) : Nat × Dev :=
  let x := mxeDesc j.job.bytes
  wrRanges d site [(x.outAddr + j.drained * x.pitch,
    drainPlain x (accWin d site (x.accRow + j.drained)) (streamSeed d j.job.stream.toNat) j.drained
      (accRowOf d site x j.drained))]

section
variable {d : Dev} {site : Nat} {j : MxeJob} (active : (getMxe d site).active = some j)
include active

/-- The oldest entry lands without a claim of its row, where it is the active descriptor's, whose window is known and was
checked at its first entry, and which adds to rows that hold sums (R95). -/
theorem mxeLand_active {f : Flight} {rest : List Flight} {w : Int} (flight : (getMxe d site).flight = f :: rest)
    (stream : f.stream = j.job.stream) (seq : f.seq = j.job.seq) (window : j.win = some w) (landed : j.landed ≠ [])
    (adds : (mxeDesc j.job.bytes).accInit = true) (corrected : Nat) :
    mxeLand d site corrected =
      mxeMaybeDone (setMxe (fincSat d Reg.MXE_ECC [site] Fld.MXE_ECC_corrected corrected) site
        ((getMxe d site).landEntry j w f rest)) site := by
  have own : sameJob j f.stream f.seq = true := by simp [sameJob, stream, seq]
  simp [mxeLand, active, flight, own, window, landed, adds, Mxe.landEntry, MxeJob.landedIn]

/-- The next row is written, where it has all its entries and no MX blocks, and its write is granted. -/
theorem mxeDrain_plain (drains : (mxeDesc j.job.bytes).drain = true) (left : j.drained < (mxeDesc j.job.bytes).m)
    (plain : fmtMx (mxeDesc j.job.bytes).conv.fmt = false)
    (ready : (mxeDesc j.job.bytes).entries ≤ Sparse.get 0 j.landed j.drained)
    (granted : (writePlainRow d site j).1 = 0) :
    mxeDrain d site =
      let d' := (writePlainRow d site j).2
      mxeMaybeDone (setMxe d' site { getMxe d' site with active := some (drainedRow d site j) }) site := by
  unfold writePlainRow at granted
  simp [mxeDrain, active, drains, left, plain, ready, drainWrites, granted, writePlainRow, drainedRow]

/-- A drained final descriptor whose record answers with an error ends with RECORD. -/
theorem mxeFinal_err (final : (mxeDesc j.job.bytes).final = true) (drained : (mxeDesc j.job.bytes).m ≤ j.drained)
    (e : Env) (er : MemErr) : mxeFinal e d site (.err er) = mxeEnd d site false false 0x06 := by
  simp [mxeFinal, active, final, drained, reportRecord]

end

end Sys2Proof.Machine
end

section
/-!
SETTLED. The number formats family: entries land, rows drain, and a final descriptor's record fails (O17).
-/
namespace Sys2Proof.Machine

section
variable {s : State} {site : Fin 36} {j : MxeJob} (active : (getMxe s.dev site.val).active = some j)
include active

/-- An entry of the active descriptor lands in its accumulator row, and no memory changes. -/
theorem exec_mxeEntryLands_active {f : Flight} {rest : List Flight} {w : Int} (corrected : Nat)
    (flight : (getMxe s.dev site.val).flight = f :: rest) (stream : f.stream = j.job.stream) (seq : f.seq = j.job.seq)
    (window : j.win = some w) (landed : j.landed ≠ []) (adds : (mxeDesc j.job.bytes).accInit = true) :
    ∃ t, exec (.mxeEntryLands site corrected) s = .next t ∧ t.mem = s.mem ∧
      (getMxe t.dev site.val).acc = ((getMxe s.dev site.val).landEntry j w f rest).acc := by
  have lands := mxeLand_active (d := s.dev.rest) active flight stream seq window landed adds corrected
  refine ⟨_, run_device (f := fun _ d => mxeLand d site.val corrected) lands ?_, rfl, ?_⟩
  · rw [mxeMaybeDone_wq, setMxe_wq, fincSat_wq]
    rfl
  · rw [getMxe_rest, getMxe_mxeMaybeDone_acc, getMxe_setMxe, getMxe_rest]

/-- The next row of the active descriptor is written, and it stays active while rows are left. -/
theorem exec_mxeRowDrain_plain (drains : (mxeDesc j.job.bytes).drain = true)
    (left : j.drained < (mxeDesc j.job.bytes).m) (plain : fmtMx (mxeDesc j.job.bytes).conv.fmt = false)
    (ready : (mxeDesc j.job.bytes).entries ≤ Sparse.get 0 j.landed j.drained)
    (granted : (writePlainRow s.dev.rest site.val j).1 = 0) :
    ∃ t, exec (.mxeRowDrain site) s = .next t ∧
      t.mem = applyChanges s.mem (writePlainRow s.dev.rest site.val j).2.wq.reverse ∧
      (j.drained + 1 < (mxeDesc j.job.bytes).m →
        (getMxe t.dev site.val).active.map (·.drained) = some (j.drained + 1)) := by
  have drain := mxeDrain_plain (d := s.dev.rest) active drains left plain ready granted
  refine ⟨_, run_of_effect (f := fun _ d => mxeDrain d site.val) drain, ?_, fun more => ?_⟩
  · dsimp only
    rw [mxeMaybeDone_wq, setMxe_wq]
  · dsimp only
    rw [getMxe_rest, mxeMaybeDone_of_row_left (j := drainedRow s.dev.rest site.val j) (by rw [getMxe_setMxe]) drains more,
      getMxe_setMxe]
    rfl

/-- The report of a final descriptor that its record refuses. -/
theorem exec_mxeFinalReport_err (final : (mxeDesc j.job.bytes).final = true)
    (drained : (mxeDesc j.job.bytes).m ≤ j.drained) (er : MemErr) :
    ∃ t, exec (.mxeFinalReport site (.err er)) s = .next t ∧ t.mem = s.mem ∧ t.dev.regs = s.dev.regs ∧
      t.dev.engDone = s.dev.engDone ++ [⟨j.job.stream, j.job.seq, 0x06, j.flags, 0⟩] := by
  have ends := mxeFinal_err (d := s.dev.rest) active final drained ⟨s.fuses, s.mem⟩ er
  rw [mxeEnd_active (d := s.dev.rest) active] at ends
  exact ⟨_, run_device (f := fun e d => mxeFinal e d site.val (.err er)) ends rfl, rfl, rfl, rfl⟩

end

/-- Settles O17: each clause is one path of its command, and the completion check after it changes no memory and no
accumulator row. -/
theorem mxeLandingAndDrain : Obligations.MxeLandingAndDrain := by
  refine ⟨fun s site corrected f rest j w flight active stream seq window landed adds => ?_,
    fun s site j active drains left plain ready granted => ?_, fun s site j er active final drained => ?_⟩
  · obtain ⟨t, next, mem, acc⟩ := exec_mxeEntryLands_active active corrected flight stream seq window landed adds
    exact ⟨t, next, mem, acc ▸ Mxe.get_landEntry_acc ..⟩
  · exact exec_mxeRowDrain_plain active drains left plain ready granted
  · exact exec_mxeFinalReport_err active final drained er

end Sys2Proof.Machine
end

section
/-!
SUPPORT. A descriptor on its way into the matrix engine (R103, R104): entry, start, and a record that answers with an error.
-/
namespace Sys2Proof.Machine

/-- The entry checks do not look at the descriptors on their way, nor at what is left over from another command. -/
theorem mxeCheck_dropHandoff_rest (d : Dev) (site u : Nat) (job : Job) (b : List Byte) :
    mxeCheck (dropHandoff d.rest site u job) site b = mxeCheck d site b := rfl

/-- The refusal of a descriptor at entry: MXE_REJ notes the first one, and its status is reported without flags. -/
def mxeRefuse (d : Dev) (site : Nat) (job : Job) : Dev :=
  let st := mxeCheck d site job.bytes
  engReport (noteReject d Reg.MXE_REJ [site] Fld.MXE_REJ_valid Fld.MXE_REJ_code Fld.MXE_REJ_stream st
    job.stream.toNat) job st {} 0

/-- With the staged slot empty, a descriptor is staged or refused by its checks. -/
theorem mxeEntry_of_empty {d : Dev} {site : Nat} (empty : (getMxe d site).staged = none) (job : Job) :
    mxeEntry d site job = if mxeCheck d site job.bytes = 0
      then setMxe d site { getMxe d site with staged := some { job := job } } else mxeRefuse d site job := by
  simp only [mxeEntry, empty, Option.isSome_none, Bool.false_eq_true, if_false, mxeRefuse]

/-- A refusal touches no engine and no memory. -/
theorem mxeRefuse_spec (d : Dev) (site : Nat) (job : Job) :
    (mxeRefuse d site job).mxe = d.mxe ∧ (mxeRefuse d site job).wq = d.wq ∧
      (mxeRefuse d site job).engDone = d.engDone ++ [⟨job.stream, job.seq, mxeCheck d site job.bytes, {}, 0⟩] := by
  have note := noteReject_eventOnly d Reg.MXE_REJ [site] Fld.MXE_REJ_valid Fld.MXE_REJ_code Fld.MXE_REJ_stream
    (mxeCheck d site job.bytes) job.stream.toNat
  simp only [mxeRefuse, engReport]
  rw [note]
  exact ⟨rfl, rfl, rfl⟩

/-- A started descriptor moves up into an empty active slot. -/
theorem mxePromote_started {m : Mxe} {j : MxeJob} (empty : m.active = none) (staged : m.staged = some j)
    (started : j.started = true) : mxePromote m =
      { m with active := some j, staged := none, shadow := m.shadow.map (fun t => (false, t.2)) } := by
  simp only [mxePromote, empty, staged, started, if_true]

/-- The engine once the staged descriptor has started in RECORD mode. -/
def Mxe.startReading (m : Mxe) (j : MxeJob) : Mxe :=
  { m with staged := some { j with started := true, reading := true } }

/-- A descriptor that starts in RECORD mode waits for its record, and moves up where it can. -/
theorem mxeStart_record {d : Dev} {site : Nat} {j : MxeJob} (staged : (getMxe d site).staged = some j)
    (fresh : j.started = false) (record : (mxeDesc j.job.bytes).record = true) :
    mxeStart d site = setMxe (setMxe d site ((getMxe d site).startReading j)) site
      (mxePromote ((getMxe d site).startReading j)) := by
  simp [mxeStart, staged, fresh, record, Mxe.startReading]

/-- A record that answers with an error ends the active descriptor that waits for it with RECORD. -/
theorem mxeRecordReturn_err {d : Dev} {site : Nat} {j : MxeJob} (active : (getMxe d site).active = some j)
    (reading : j.reading = true) (e : Env) (er : MemErr) :
    mxeRecordReturn e d site (.err er) = mxeEnd d site false false 0x06 := by
  simp [mxeRecordReturn, active, reading, readWindow]

end Sys2Proof.Machine
end

section
/-!
SUPPORT. Tiles and sums on their way through the array (R87-R89, R93): the load of a tile, the swap, the rows and the rounds
that issue, each where nothing stops it.
-/
namespace Sys2Proof.Machine

/-- The sums of the next row of a descriptor for a tile, as they go south (R90). -/
def rowFlight (e : Env) (d : Dev) (site : Nat) (j : MxeJob) (w : Tile) : Flight :=
  ⟨j.job.stream, j.job.seq, w.idx, j.issued, rowSums e d site (mxeDesc j.job.bytes) j.issued w⟩

/-- The sums of the next round of an output-stationary descriptor, one entry for each row (R93). -/
def roundFlights (e : Env) (d : Dev) (site : Nat) (j : MxeJob) : List Flight :=
  let x := mxeDesc j.job.bytes
  (List.range x.m).map (fun r => ⟨j.job.stream, j.job.seq, j.issued, r, roundSums e d site x j.issued r⟩)

section
variable {d : Dev} {site : Nat}

theorem mxeLoadDone_readable {staged : Bool} {x : MxeDesc} {n : Nat}
    (next : nextTile d site (getMxe d site) = some (staged, x, n))
    (readable : rangesStatus d site (tileRanges x n) = 0) (e : Env) :
    mxeLoadDone e d site =
      setMxe d site { getMxe d site with shadow := some (staged, loadTile e d site x n) } := by
  simp only [mxeLoadDone, next, readable, if_true]

theorem mxeSwap_active {w : Tile} {a : MxeJob} (shadow : (getMxe d site).shadow = some (false, w))
    (active : (getMxe d site).active = some a) (issued : a.tile = none ∨ a.issued = (mxeDesc a.job.bytes).m) :
    mxeSwap d site =
      setMxe d site { getMxe d site with shadow := none, active := some { a with tile := some w, issued := 0 } } := by
  have swaps : (a.tile.isNone || a.issued == (mxeDesc a.job.bytes).m) = true := by simpa using issued
  simp only [mxeSwap, shadow, active, swaps, if_true]

theorem mxeIssue_active {j : MxeJob} {w : Tile} (issues : issuing (getMxe d site) = some (false, j, w))
    (ws : (mxeDesc j.job.bytes).os = false) (left : j.issued < (mxeDesc j.job.bytes).m)
    (readable : rangesStatus d site (aRanges (mxeDesc j.job.bytes) j.issued) = 0) (e : Env) :
    mxeIssue e d site =
      setMxe d site { getMxe d site with active := some { j with issued := j.issued + 1 },
                                         flight := (getMxe d site).flight ++ [rowFlight e d site j w] } := by
  simp [mxeIssue, issues, ws, left, readable, rowFlight]

theorem mxeRound_active {j : MxeJob} (active : (getMxe d site).active = some j)
    (os : (mxeDesc j.job.bytes).os = true) (left : j.issued < (mxeDesc j.job.bytes).rounds)
    (readable : rangesStatus d site [((mxeDesc j.job.bytes).aAddr, (mxeDesc j.job.bytes).aSize),
      ((mxeDesc j.job.bytes).bAddr, (mxeDesc j.job.bytes).bSize)] = 0) (e : Env) :
    mxeRound e d site =
      setMxe d site { getMxe d site with active := some { j with issued := j.issued + 1 },
                                         flight := (getMxe d site).flight ++ roundFlights e d site j } := by
  simp [mxeRound, active, os, left, readable, roundFlights]

end

end Sys2Proof.Machine
end

section
/-!
SUPPORT. Runs that change one thing: the matrix engine of a site, a register, a field of a register.
-/
namespace Sys2Proof.Machine

/-- A run that sets a site's engine on the device at rest: no memory and no register changes. -/
theorem run_setMxe {s : State} {f : Env → Dev → Dev} {site : Nat} {m : Mxe}
    (sets : f ⟨s.fuses, s.mem⟩ s.dev.rest = setMxe s.dev.rest site m) :
    ∃ t, s.run f = .next t ∧ t.mem = s.mem ∧ t.dev.regs = s.dev.regs ∧ getMxe t.dev site = m :=
  ⟨_, run_device sets rfl, rfl, rfl, getMxe_setMxe s.dev site m⟩

/-- A run that writes a register on the device at rest changes that register alone. -/
theorem run_wrReg {s : State} {f : Env → Dev → Dev} {r : RegDesc} {ix : List Nat} {w : Word}
    (writes : f ⟨s.fuses, s.mem⟩ s.dev.rest = wrReg s.dev.rest r ix w) :
    ∃ t, s.run f = .next t ∧ t = { s with dev := { s.dev.rest with regs := t.dev.regs } } ∧
      keepsRegs s.dev t.dev [r.key ix] ∧ rdReg t.dev r ix = w :=
  ⟨_, run_device writes rfl, rfl, keepsRegs_wrReg s.dev r ix w, rdReg_wrReg_same s.dev r ix w⟩

/-- A run that sets a field of a register changes that register alone. -/
theorem run_fset (s : State) (r : RegDesc) (ix : List Nat) {f : Fld} (v : Nat) (ordered : f.lo ≤ f.hi)
    (inWord : f.hi < 32) :
    ∃ t, s.run (fun _ d => fset d r ix f v) = .next t ∧ t = { s with dev := { s.dev.rest with regs := t.dev.regs } } ∧
      keepsRegs s.dev t.dev [r.key ix] ∧ fget t.dev r ix f = v % 2 ^ (f.hi + 1 - f.lo) := by
  obtain ⟨t, next, only, keeps, word⟩ := run_wrReg (s := s) (f := fun _ d => fset d r ix f v) rfl
  exact ⟨t, next, only, keeps, by rw [fget, word, Fld.get_put_same _ _ _ ordered inWord]⟩

end Sys2Proof.Machine
end

section
/-!
SETTLED. The matrix engine family: a descriptor's way in (O15), tiles and rows (O16), the rate and the configuration (O19).
What an operand read or a check asks of the device does not look at what is left over from another command, so that a
hypothesis about `s.dev` is one about the device as the command finds it.
-/
namespace Sys2Proof.Machine

section
variable {s : State} {site : Fin 36}

/-- The entry of a descriptor that passes its checks. -/
theorem exec_mxeDescriptorEntry_staged {job : Job} (empty : (getMxe s.dev site.val).staged = none)
    (passes : mxeCheck s.dev site.val job.bytes = 0) :
    ∃ t, exec (.mxeDescriptorEntry site job) s = .next t ∧ t.mem = s.mem ∧ t.dev.regs = s.dev.regs ∧
      t.dev.engDone = s.dev.engDone ∧
      getMxe t.dev site.val = { getMxe s.dev site.val with staged := some { job := job } } := by
  rw [← mxeCheck_dropHandoff_rest s.dev site.val 0 job] at passes
  have enters := mxeEntry_of_empty (d := dropHandoff s.dev.rest site.val 0 job) empty job
  rw [if_pos passes] at enters
  exact ⟨_, run_device (f := fun _ d => mxeEntry (dropHandoff d site.val 0 job) site.val job) enters rfl,
    rfl, rfl, rfl, getMxe_setMxe s.dev site.val _⟩

/-- The entry of a descriptor that a check refuses. -/
theorem exec_mxeDescriptorEntry_refused {job : Job} (empty : (getMxe s.dev site.val).staged = none)
    (fails : mxeCheck s.dev site.val job.bytes ≠ 0) :
    ∃ t, exec (.mxeDescriptorEntry site job) s = .next t ∧ t.mem = s.mem ∧ t.dev.mxe = s.dev.mxe ∧
      t.dev.engDone = s.dev.engDone ++ [⟨job.stream, job.seq, mxeCheck s.dev site.val job.bytes, {}, 0⟩] := by
  rw [← mxeCheck_dropHandoff_rest s.dev site.val 0 job] at fails ⊢
  obtain ⟨mxe, wq, done⟩ := mxeRefuse_spec (dropHandoff s.dev.rest site.val 0 job) site.val job
  have enters := mxeEntry_of_empty (d := dropHandoff s.dev.rest site.val 0 job) empty job
  rw [if_neg fails] at enters
  exact ⟨_, run_device (f := fun _ d => mxeEntry (dropHandoff d site.val 0 job) site.val job) enters wq, rfl, mxe, done⟩

/-- The start of a descriptor in RECORD mode with the active slot empty. -/
theorem exec_mxeDescriptorStart_record {j : MxeJob} (staged : (getMxe s.dev site.val).staged = some j)
    (fresh : j.started = false) (record : (mxeDesc j.job.bytes).record = true)
    (empty : (getMxe s.dev site.val).active = none) :
    ∃ t, exec (.mxeDescriptorStart site) s = .next t ∧ t.mem = s.mem ∧ t.dev.regs = s.dev.regs ∧
      (getMxe t.dev site.val).active = some { j with started := true, reading := true } ∧
      (getMxe t.dev site.val).staged = none := by
  have starts := mxeStart_record (d := s.dev.rest) staged fresh record
  rw [mxePromote_started (m := (getMxe s.dev.rest site.val).startReading j) empty rfl rfl] at starts
  refine ⟨_, run_device (f := fun _ d => mxeStart d site.val) starts rfl, rfl, rfl, ?_⟩
  rw [getMxe_rest, getMxe_setMxe]
  exact ⟨rfl, rfl⟩

/-- The error of the record that the active descriptor waits for. -/
theorem exec_mxeRecordReadReturn_err {j : MxeJob} (active : (getMxe s.dev site.val).active = some j)
    (reading : j.reading = true) (er : MemErr) :
    ∃ t, exec (.mxeRecordReadReturn site (.err er)) s = .next t ∧ t.mem = s.mem ∧ t.dev.regs = s.dev.regs ∧
      t.dev.engDone = s.dev.engDone ++ [⟨j.job.stream, j.job.seq, 0x06, j.flags, 0⟩] ∧
      (getMxe t.dev site.val).acc = (getMxe s.dev site.val).acc := by
  have ends := mxeRecordReturn_err (d := s.dev.rest) active reading ⟨s.fuses, s.mem⟩ er
  rw [mxeEnd_active (d := s.dev.rest) active] at ends
  refine ⟨_, run_device (f := fun e d => mxeRecordReturn e d site.val (.err er)) ends rfl, rfl, rfl, rfl, ?_⟩
  rw [getMxe_rest, getMxe_engReport, getMxe_setMxe, mxeRemove_acc, getMxe_rest]

end

/-- Settles O15: an entry goes by the status of its checks, and each clause of a start or of a record's error is one path. -/
theorem mxeAdmission : Obligations.MxeAdmission := by
  refine ⟨fun s site job empty => ?_, fun s site j staged fresh record empty => ?_,
    fun s site j er active reading => ?_⟩
  · by_cases passes : mxeCheck s.dev site.val job.bytes = 0
    · obtain ⟨t, next, mem, regs, done, engine⟩ := exec_mxeDescriptorEntry_staged empty passes
      exact ⟨t, next, mem, fun _ => ⟨engine, done, regs⟩, fun fails => absurd passes fails⟩
    · obtain ⟨t, next, mem, engines, done⟩ := exec_mxeDescriptorEntry_refused empty passes
      exact ⟨t, next, mem, fun h => absurd h passes, fun _ => ⟨engines, done⟩⟩
  · exact exec_mxeDescriptorStart_record staged fresh record empty
  · exact exec_mxeRecordReadReturn_err active reading er

/-- Settles O16: with nothing to stop it, each of the four commands sets the site's engine and does nothing else. -/
theorem mxeTilesAndRows : Obligations.MxeTilesAndRows := by
  refine ⟨fun s site b x n tile readable => ?_, fun s site w a shadow active issued => ?_,
    fun s site j w issues ws left readable => ?_, fun s site j active os left readable => ?_⟩
  · exact run_setMxe (f := fun e d => mxeLoadDone e d site.val)
      (mxeLoadDone_readable (d := s.dev.rest) tile readable _)
  · exact run_setMxe (f := fun _ d => mxeSwap d site.val) (mxeSwap_active (d := s.dev.rest) shadow active issued)
  · exact run_setMxe (f := fun e d => mxeIssue e d site.val)
      (mxeIssue_active (d := s.dev.rest) issues ws left readable _)
  · obtain ⟨t, next, mem, regs, engine⟩ := run_setMxe (f := fun e d => mxeRound e d site.val)
      (mxeRound_active (d := s.dev.rest) active os left readable _)
    exact ⟨t, next, mem, regs, by rw [engine], by rw [engine]; rfl⟩

/-- A path that is no port is admitted to every site, halted or not. -/
theorem mxeCfgWrite_of_no_port {p : Path} (notPort : pathPort p = none) (d : Dev) (site : Nat) (data : Word) :
    (if portHalted d p then d else mxeCfgWrite d p site data) =
      Reg.MXE_CFG.store d [site] (fbit d Reg.MXE_CFG [site] Fld.MXE_CFG_lock) data := by
  simp [portHalted, mxeCfgWrite, onSite, siteAdmits, notPort]

section
variable {s : State} {site : Fin 36} (issued : Bool) (measured replica : BitVec 16)

/-- In SLEEP and OFF the rate stays. -/
theorem exec_mxeRateUpdate_asleep (asleep : 3 ≤ fget s.dev Reg.THM_CORE [site.val] Fld.THM_CORE_pstate) :
    exec (.mxeRateUpdate site issued measured replica) s = .next { s with dev := s.dev.rest } := by
  change execMxeRateUpdate site issued measured replica s = _
  exact run_device (d := s.dev.rest) (if_pos asleep) rfl

/-- In the other states the rate is the measured one where rows were issued, and else the replica's. -/
theorem exec_mxeRateUpdate_awake (awake : ¬ 3 ≤ fget s.dev Reg.THM_CORE [site.val] Fld.THM_CORE_pstate) :
    ∃ t, exec (.mxeRateUpdate site issued measured replica) s = .next t ∧
      t = { s with dev := { s.dev.rest with regs := t.dev.regs } } ∧
      keepsRegs s.dev t.dev [Reg.MXE_RATE.key [site.val]] ∧
      fget t.dev Reg.MXE_RATE [site.val] Fld.MXE_RATE_wf_per_us =
        if issued then measured.toNat else replica.toNat := by
  have fits : (if issued then measured.toNat else replica.toNat) < 2 ^ 16 := by
    split
    · exact measured.isLt
    · exact replica.isLt
  change ∃ t, execMxeRateUpdate site issued measured replica s = .next t ∧ _
  simp only [execMxeRateUpdate, State.run, fget_rest, awake, if_false]
  obtain ⟨t, next, only, keeps, rate⟩ := run_fset s Reg.MXE_RATE [site.val] (f := Fld.MXE_RATE_wf_per_us)
    (if issued then measured.toNat else replica.toNat) (by decide) (by decide)
  exact ⟨t, next, only, keeps, rate.trans (Nat.mod_eq_of_lt fits)⟩

end

/-- Settles O19: in SLEEP and OFF the rate stays, and else each of the two commands writes one register. -/
theorem mxeRateAndConfiguration : Obligations.MxeRateAndConfiguration := by
  refine ⟨fun s site issued measured replica => ?_, fun s p site data notPort => ?_⟩
  · split
    next asleep => exact ⟨_, exec_mxeRateUpdate_asleep issued measured replica asleep, rfl, fun _ _ => rfl, rfl⟩
    next awake => exact exec_mxeRateUpdate_awake issued measured replica awake
  · exact run_wrReg (f := fun _ d => if portHalted d p then d else mxeCfgWrite d p site.val data)
      (mxeCfgWrite_of_no_port notPort s.dev.rest site.val data)

end Sys2Proof.Machine
end

section
/-!
SUPPORT. How a descriptor of the engines of chapter 4 ends (R113, R194, Table 4.1): the state that a command leaves, by the
device that its effect makes, and the end of the active descriptor in it.
-/
namespace Sys2Proof.Machine

/-- The state that a command leaves whose effect makes a device: its memory changes are applied, nothing is left over. -/
def State.settle (s : State) (d : Dev) : State :=
  { s with mem := applyChanges s.mem d.wq.reverse, dev := d.rest }

theorem run_settle {s : State} {f : Env → Dev → Dev} {d : Dev} (makes : f ⟨s.fuses, s.mem⟩ s.dev.rest = d) :
    s.run f = .next (s.settle d) := run_of_effect makes

@[simp] theorem settle_mem (s : State) (d : Dev) : (s.settle d).mem = applyChanges s.mem d.wq.reverse := rfl
@[simp] theorem settle_dev (s : State) (d : Dev) : (s.settle d).dev = d.rest := rfl

/-- An effect without memory changes leaves the memory. -/
theorem settle_mem_of_quiet (s : State) {d : Dev} (quiet : d.wq = []) : (s.settle d).mem = s.mem := by
  rw [settle_mem, quiet]
  rfl

/-- A byte after a command is what its last change made of it, or what it was. -/
theorem settle_byte (s : State) (d : Dev) (k : Nat) : (s.settle d).byte k = (changeAt d.wq k).getD (s.byte k) :=
  get_applyChanges _ _ _

/-- An access that answers with a device changes what an access to memory may change. -/
theorem memOnly.of_eq {α : Type} {d d' : Dev} {x : α × Dev} {a : α} (only : memOnly d x.2) (answer : x = (a, d')) :
    memOnly d d' := by
  rw [answer] at only
  exact only

@[simp] theorem readStatus_rest (d : Dev) (site : Nat) (rs : List (Nat × Nat)) :
    readStatus d.rest site rs = readStatus d site rs := rfl

@[simp] theorem getEng_rest (d : Dev) (site u : Nat) : getEng d.rest site u = getEng d site u := rfl

@[simp] theorem engActive_rest (d : Dev) (site u : Nat) : engActive d.rest site u = engActive d site u := rfl

/-- The slots of a unit, with its active descriptor named. -/
theorem getEng_of_active {d : Dev} {site u : Nat} {j : EJob} (active : engActive d site u = some j) :
    getEng d site u = { getEng d site u with active := some j } := by rw [← active]; rfl

@[simp] theorem engActive_setActive (d : Dev) (site u : Nat) (j : EJob) :
    engActive (setActive d site u j) site u = some j := by rw [engActive, setActive, getEng_setEng]

theorem getEng_setActive (d : Dev) (site u : Nat) (j : EJob) :
    getEng (setActive d site u j) site u = { getEng d site u with active := some j } := getEng_setEng ..

@[simp] theorem engEnd_wq (d : Dev) (site u status : Nat) (f : XFlags) (detail : Nat) :
    (engEnd d site u status f detail).wq = d.wq := by
  unfold engEnd
  dsimp only
  split <;> rfl

@[simp] theorem engEnd_regs (d : Dev) (site u status : Nat) (f : XFlags) (detail : Nat) :
    (engEnd d site u status f detail).regs = d.regs := by
  unfold engEnd
  dsimp only
  split <;> rfl

@[simp] theorem engEnd_fab (d : Dev) (site u status : Nat) (f : XFlags) (detail : Nat) :
    (engEnd d site u status f detail).fab = d.fab := by
  unfold engEnd
  dsimp only
  split <;> rfl

section
variable {s : State} {d : Dev} {site u : Nat} {j : EJob}

/-- A descriptor that ends after its progress, but neither its name nor what is staged behind it, has changed. -/
theorem engEnded_progressed {k : EJob} (active : engActive d site u = some k) (job : k.job = j.job)
    (staged : (getEng d site u).staged = (getEng s.dev site u).staged) (done : d.engDone = s.dev.engDone)
    (status : Nat) (f : XFlags) (detail : Nat) :
    engEnded s (s.settle (engEnd d site u status f detail)) site u j status f detail := by
  obtain ⟨slots, reported, -, -⟩ := engEnd_spec (status := status) (f := f) (detail := detail) active
  refine ⟨?_, ?_⟩
  · rw [settle_dev, getEng_rest, slots, staged]
  · rw [settle_dev, rest_engDone, reported, done, job]

variable (active : engActive s.dev site u = some j) (only : memOnly s.dev.rest d)
include active only

/-- A descriptor that ends after accesses to memory alone. -/
theorem engEnded_settle (status : Nat) (f : XFlags) (detail : Nat) :
    engEnded s (s.settle (engEnd d site u status f detail)) site u j status f detail :=
  engEnded_progressed (only.engActive site u ▸ active) rfl (by rw [only.getEng]; rfl) only.engDone status f detail

/-- A descriptor that fails after accesses to memory alone. -/
theorem engEnded_engFail (status : Nat) (outs : List (Nat × Nat)) (f : XFlags) :
    engEnded s (s.settle (engFail d site u status outs f)) site u j status f 0 :=
  engEnded_settle active (memOnly_trans only (undefRanges_memOnly d site outs)) status f 0

/-- A descriptor whose writes are granted: it completes with OK, and the memory holds what they made of it. -/
theorem engEnded_writeAndEnd {ws : List (Nat × List Byte)} {w : Nat × Dev}
    (writes : w = wrRanges d site (ws.filter (fun w => !w.2.isEmpty))) (granted : w.1 = 0) (f : XFlags) (detail : Nat) :
    engEnded s (s.settle (writeAndEnd d site u ws f detail)) site u j 0 f detail ∧
      (s.settle (writeAndEnd d site u ws f detail)).mem = applyChanges s.mem w.2.wq.reverse := by
  subst writes
  have ends : writeAndEnd d site u ws f detail =
      engEnd (wrRanges d site (ws.filter (fun w => !w.2.isEmpty))).2 site u 0 f detail := by
    simp only [writeAndEnd, granted, if_true]
  rw [ends]
  exact ⟨engEnded_settle active (memOnly_trans only (wrRanges_memOnly ..)) 0 f detail,
    by rw [settle_mem, engEnd_wq]⟩

/-- The same with the bytes free that fall over what the descriptor reads. -/
theorem engEnded_writeFreeAndEnd {reads : List (Nat × Nat)} {ws : List (Nat × List Byte)}
    {o : List (Nat × List Byte) × Dev} {w : Nat × Dev} (results : o = freed d reads ws)
    (writes : w = wrRanges o.2 site (o.1.filter (fun w => !w.2.isEmpty))) (granted : w.1 = 0) (f : XFlags) (detail : Nat) :
    engEnded s (s.settle (writeFreeAndEnd d site u reads ws f detail)) site u j 0 f detail ∧
      (s.settle (writeFreeAndEnd d site u reads ws f detail)).mem = applyChanges s.mem w.2.wq.reverse := by
  subst results
  exact engEnded_writeAndEnd active (memOnly_trans only (freed_memOnly ..)) writes granted f detail

end

/-- The end of a descriptor that moves rows: OK, or the status of the row that failed, on a device whose destination has
become undefined. -/
def endRows (w : Nat × Dev) (undone : Dev) (site u : Nat) : Dev :=
  if w.1 = 0 then engEnd w.2 site u 0 {} 0 else engEnd undone site u w.1 {} 0

/-- A descriptor that moves rows ends with the status of its rows, and with OK its memory is what they made of it. -/
theorem engEnded_endRows {s : State} {site u : Nat} {j : EJob} {w : Nat × Dev} {undone : Dev}
    (active : engActive s.dev site u = some j) (rows : memOnly s.dev.rest w.2) (undo : memOnly w.2 undone) :
    engEnded s (s.settle (endRows w undone site u)) site u j w.1 {} 0 ∧
      (w.1 = 0 → (s.settle (endRows w undone site u)).mem = applyChanges s.mem w.2.wq.reverse) := by
  unfold endRows
  split
  next ok =>
    refine ⟨ok ▸ engEnded_settle active rows 0 {} 0, fun _ => ?_⟩
    rw [settle_mem, engEnd_wq]
  next fails => exact ⟨engEnded_settle active (memOnly_trans rows undo) w.1 {} 0, fun ok => absurd ok fails⟩

end Sys2Proof.Machine
end

section
/-!
SUPPORT. The entry of a descriptor into an engine (R113), the rows of a producer (R118), and a report to a window record
(R124).
-/
namespace Sys2Proof.Machine

theorem eventOnly.wq {d d' : Dev} (h : eventOnly d d') : d'.wq = d.wq := by unfold eventOnly at h; rw [h]

theorem eventOnly.eng {d d' : Dev} (h : eventOnly d d') : d'.eng = d.eng := by unfold eventOnly at h; rw [h]

theorem eventOnly.engDone {d d' : Dev} (h : eventOnly d d') : d'.engDone = d.engDone := h.memOnly.engDone

/-- The slots once a descriptor has taken the active one, or the staged one behind an active descriptor. -/
def EngSlots.receive (g : EngSlots) (j : EJob) : EngSlots :=
  if g.active = none then { g with active := some j } else { g with staged := some j }

theorem engAccept_of_free {d : Dev} {site u : Nat}
    (free : (getEng d site u).active = none ∨ (getEng d site u).staged = none) (j : EJob) :
    engAccept d site u j = setEng d site u ((getEng d site u).receive j) := by
  simp only [engAccept, EngSlots.receive]
  split
  next active => simp only [active, if_true]
  next a active staged => simp only [active, staged, reduceCtorEq, if_false]
  next a b active staged => simp only [active, staged, reduceCtorEq, or_self] at free

/-- What the answer of the entry checks, a status with the block that they read, makes of a descriptor. -/
def engEnter (r : Nat × List Byte × Dev) (site u : Nat) (job : Job) : Dev :=
  if r.1 = 0 then engAccept r.2.2 site u { job := job, block := r.2.1 }
  else if r.1 = 0x16 then engReport r.2.2 job r.1 {} 0
  else engReject r.2.2 site u r.1 job

theorem exec_engineDescriptorEntry_of_free {s : State} {site : Fin 36} {unit : Fin 12} (notMxe : unit ≠ 0)
    (free : (getEng s.dev site.val unit.val).active = none ∨ (getEng s.dev site.val unit.val).staged = none) (job : Job) :
    exec (.engineDescriptorEntry site unit job) s = .next (s.settle (engEnter
      (engCheck ⟨s.fuses, s.mem⟩ (dropHandoff s.dev.rest site.val unit.val job) site.val unit.val job)
      site.val unit.val job)) := by
  have enters : ¬ (unit.val = 0 ∨ ((getEng s.dev site.val unit.val).active.isSome ∧
      (getEng s.dev site.val unit.val).staged.isSome)) := by
    rintro (zero | ⟨active, staged⟩)
    · exact notMxe (Fin.ext zero)
    · rcases free with none | none <;> simp [none] at active staged
  change execEngineDescriptorEntry site unit job s = _
  exact run_settle (by simp only [getEng_rest, enters, if_false, engEnter])

/-- A refused descriptor is reported with its status, and touches no slot and no memory. -/
theorem engEnter_refused {r : Nat × List Byte × Dev} (fails : r.1 ≠ 0) (site u : Nat) (job : Job) :
    (engEnter r site u job).eng = r.2.2.eng ∧ (engEnter r site u job).wq = r.2.2.wq ∧
      (engEnter r site u job).engDone = r.2.2.engDone ++ [⟨job.stream, job.seq, r.1, {}, 0⟩] := by
  rw [engEnter, if_neg fails]
  split
  next => exact ⟨rfl, rfl, rfl⟩
  next =>
    have note := noteReject_eventOnly r.2.2 (engRej u) (engIx site u) Fld.VXE_REJ_valid Fld.VXE_REJ_code
      Fld.VXE_REJ_stream r.1 job.stream.toNat
    exact ⟨note.eng, note.wq, congrArg (· ++ _) note.engDone⟩

/-- A follower may read one more row where its producer has written one. -/
theorem exec_followRowReady_written {s : State} {site : Fin 36} {unit : Fin 12} {j : EJob}
    (active : engActive s.dev site.val unit.val = some j) (follows : followBit unit.val j.job.bytes = true)
    (written : j.rowsReady < rowsWritten s.dev site.val j.job) :
    exec (.followRowReady site unit) s =
      .next (s.settle (setActive s.dev.rest site.val unit.val { j with rowsReady := j.rowsReady + 1 })) := by
  have more : j.rowsReady < rowsWritten s.dev.rest site.val j.job := written
  change execFollowRowReady site unit s = _
  exact run_settle (by simp [active, follows, more])

theorem exec_followRowReady_caught_up {s : State} {site : Fin 36} {unit : Fin 12} {j : EJob}
    (active : engActive s.dev site.val unit.val = some j) (caughtUp : ¬ j.rowsReady < rowsWritten s.dev site.val j.job) :
    exec (.followRowReady site unit) s = .next (s.settle s.dev.rest) := by
  have noMore : ¬ j.rowsReady < rowsWritten s.dev.rest site.val j.job := caughtUp
  change execFollowRowReady site unit s = _
  exact run_settle (by simp [active, noMore])

theorem exec_followUpstreamFail_failed {s : State} {site : Fin 36} {unit : Fin 12} {j : EJob}
    (active : engActive s.dev site.val unit.val = some j) (follows : followBit unit.val j.job.bytes = true)
    (failed : producerFailed s.dev site.val j.job = true) :
    exec (.followUpstreamFail site unit) s =
      .next (s.settle (engFail s.dev.rest site.val unit.val 0x12 (engOutputs unit.val j) {})) := by
  have fails : producerFailed s.dev.rest site.val j.job = true := failed
  change execFollowUpstreamFail site unit s = _
  exact run_settle (by simp [active, follows, fails])

/-- A failure of a device at rest touches no register, and no byte outside the named ranges. -/
theorem settle_engFail_frame (s : State) (site u status : Nat) (outs : List (Nat × Nat)) (f : XFlags) :
    (s.settle (engFail s.dev.rest site u status outs f)).dev.regs = s.dev.regs ∧
      ∀ k, ¬ inRanges s site k outs → (s.settle (engFail s.dev.rest site u status outs f)).byte k = s.byte k := by
  obtain ⟨regs, cs, writes, named⟩ := undefRanges_bytesAt site outs s.dev.rest
  refine ⟨?_, fun k outside => ?_⟩
  · rw [settle_dev, rest_regs, engFail, engEnd_regs, regs, rest_regs]
  · rw [settle_byte, engFail, engEnd_wq, writes, rest_wq, List.append_nil, changeAt_putsAt cs _ k named outside]
    rfl

theorem reportRecord_memOnly (e : Env) (d : Dev) (site st addr : Nat) (top : Option Int) (f : XFlags) (resp : Resp) :
    memOnly d (reportRecord e d site st addr top f resp).2 := by
  unfold reportRecord
  split
  · rfl
  · dsimp only
    split
    next answer => exact (pkgAtomic_memOnly ..).of_eq answer
    next answer => exact (pkgAtomic_memOnly ..).of_eq answer

/-- The report of a descriptor of a VXE to its window record: whether it was taken, and the device. -/
def vReport (e : Env) (d : Dev) (site : Nat) (j : EJob) (resp : Resp) : Bool × Dev :=
  reportRecord e d site j.job.stream.toNat (vDesc j.job.bytes).window j.top j.flags resp

section
variable {s : State} {site : Fin 36} {x : Fin 4} {j : EJob} {resp : Resp}
  (active : engActive s.dev site.val (x.val + 1) = some j) (reporting : j.reporting = true)
include active reporting

theorem exec_vxeFinalReport_taken (taken : (vReport ⟨s.fuses, s.mem⟩ s.dev.rest site.val j resp).1 = true) :
    exec (.vxeFinalReport site x resp) s = .next (s.settle (engEnd
      (vReport ⟨s.fuses, s.mem⟩ s.dev.rest site.val j resp).2 site.val (x.val + 1) 0 j.outFlags 0)) := by
  rw [vReport] at taken
  change execVxeFinalReport site x resp s = _
  exact run_settle (by simp [active, reporting, taken, vReport])

theorem exec_vxeFinalReport_refused (refused : (vReport ⟨s.fuses, s.mem⟩ s.dev.rest site.val j resp).1 = false) :
    ∃ outs, exec (.vxeFinalReport site x resp) s = .next (s.settle (engFail
      (vReport ⟨s.fuses, s.mem⟩ s.dev.rest site.val j resp).2 site.val (x.val + 1) 0x06 outs j.outFlags)) := by
  rw [vReport] at refused
  refine ⟨((vOutRanges (vDesc j.job.bytes) (vBlock j.block)).map (·.2)).flatten, ?_⟩
  change execVxeFinalReport site x resp s = _
  exact run_settle (by simp [active, reporting, refused, vReport])

end

end Sys2Proof.Machine
end

section
/-!
SETTLED. The core engines family: admission into an engine (O20). What a check, a slot or a read asks of the device does not
look at what is left over from another command, so that a hypothesis about `s.dev` is one about the device as the command
finds it.
-/
namespace Sys2Proof.Machine

/-- Settles O20: an entry goes by the status of its checks, a row by what its producer has written, and each of the other
two commands is one path. -/
theorem engineAdmission : Obligations.EngineAdmission := by
  refine ⟨?_, ?_, fun s site unit j active follows failed => ?_, fun s site x j resp active reporting answered => ?_⟩
  · intro s site unit job notMxe g st free
    have check := engCheck_eventOnly ⟨s.fuses, s.mem⟩ (dropHandoff s.dev.rest site.val unit.val job) site.val unit.val
      job
    have slots : getEng _ site.val unit.val = g := check.memOnly.getEng site.val unit.val
    have enter := exec_engineDescriptorEntry_of_free notMxe free job
    by_cases passes : st = 0
    · rw [engEnter, if_pos passes, engAccept_of_free (slots ▸ free), slots] at enter
      exact ⟨_, enter, settle_mem_of_quiet s check.wq,
        fun _ => ⟨check.engDone, { job := job, block := _ }, rfl, getEng_setEng ..⟩, fun fails => absurd passes fails⟩
    · obtain ⟨eng, wq, done⟩ := engEnter_refused passes site.val unit.val job
      exact ⟨_, enter, settle_mem_of_quiet s (wq.trans check.wq), fun h => absurd h passes,
        fun _ => ⟨eng.trans check.eng, done.trans (congrArg (· ++ _) check.engDone)⟩⟩
  · intro s site unit j active follows n
    by_cases written : j.rowsReady < rowsWritten s.dev site.val j.job
    · have next : n = j.rowsReady + 1 := if_pos written
      refine ⟨_, exec_followRowReady_written active follows written, rfl, rfl, ?_⟩
      rw [next]
      exact getEng_setActive ..
    · have same : n = j.rowsReady := if_neg written
      refine ⟨_, exec_followRowReady_caught_up active written, rfl, rfl, ?_⟩
      rw [same]
      exact getEng_of_active active
  · obtain ⟨regs, bytes⟩ := settle_engFail_frame s site.val unit.val 0x12 (engOutputs unit.val j) {}
    exact ⟨_, exec_followUpstreamFail_failed active follows failed,
      engEnded_engFail active (memOnly_refl _) 0x12 _ {}, regs, bytes⟩
  · have only : memOnly s.dev.rest (vReport ⟨s.fuses, s.mem⟩ s.dev.rest site.val j resp).2 := reportRecord_memOnly ..
    cases resp with
    | ok => exact ⟨_, exec_vxeFinalReport_taken active reporting (answered rfl), engEnded_settle active only 0 _ 0⟩
    | err er =>
      obtain ⟨outs, refused⟩ := exec_vxeFinalReport_refused (resp := .err er) active reporting rfl
      exact ⟨_, refused, engEnded_engFail active only 0x06 outs _⟩

end Sys2Proof.Machine
end

section
/-!
SUPPORT. What the vector and special-function engines do with a descriptor whose rows may be read (R121-R134): the rows are
evaluated and written, or the status of the read ends it.
-/
namespace Sys2Proof.Machine

/-- The byte ranges that the expression of a descriptor reads. -/
def EJob.exprReads (j : EJob) : List (Nat × Nat) := ((vInRanges (vDesc j.job.bytes) (vBlock j.block)).map (·.2)).flatten

/-- A VXE descriptor in FIXED mode applies its expression at the window that it names. -/
theorem exec_vxeExpression_fixed {s : State} {site : Fin 36} {x : Fin 4} {j : EJob} (resp : Resp)
    (active : engActive s.dev site.val (x.val + 1) = some j) (notReporting : j.reporting = false)
    (ready : rowsReady (x.val + 1) (vDesc j.job.bytes).rows j = true) (fixed : (vDesc j.job.bytes).record = false) :
    exec (.vxeExpression site x resp) s = .next (s.settle (vApply ⟨s.fuses, s.mem⟩ s.dev.rest site.val (x.val + 1) j
      (signed 16 ((vDesc j.job.bytes).window % 2 ^ 16)))) := by
  change execVxeExpression site x resp s = _
  exact run_settle (by simp [active, notReporting, ready, fixed])

theorem vApply_readable {d : Dev} {site : Nat} {j : EJob} (readable : readStatus d site j.exprReads = 0)
    (notFinal : (vDesc j.job.bytes).final = false) (e : Env) (u : Nat) (w : Int) :
    vApply e d site u j w = writeAndEnd (wakeRanges d site j.exprReads) site u
      (vResult e (wakeRanges d site j.exprReads) site j w).1 (vResult e (wakeRanges d site j.exprReads) site j w).2.1 0 := by
  rw [EJob.exprReads] at readable
  simp [vApply, readable, notFinal, EJob.exprReads]

theorem vApply_unreadable {d : Dev} {site : Nat} {j : EJob} (unreadable : readStatus d site j.exprReads ≠ 0) (e : Env)
    (u : Nat) (w : Int) : ∃ a outs, vApply e d site u j w =
      engFail (noteLocal d site (readStatus d site j.exprReads) a) site u (readStatus d site j.exprReads) outs {} := by
  rw [EJob.exprReads] at unreadable
  exact ⟨(j.exprReads.headD (0, 0)).1, ((vOutRanges (vDesc j.job.bytes) (vBlock j.block)).map (·.2)).flatten,
    by simp [vApply, unreadable, EJob.exprReads]⟩

/-- What a function of the special-function engine makes of the values of a row: its writes, and their flags. -/
abbrev SfeRow := SDescF → Word × Word → Nat → List Nat → List (Nat × List Byte) × XFlags

/-- The rows of a descriptor: the writes of each, and its flags with those of its loads. -/
def sfeRows (e : Env) (d : Dev) (site : Nat) (j : EJob) (row : SfeRow) : List (List (Nat × List Byte) × XFlags) :=
  let x := sfeDesc j.job.bytes
  (List.range x.rows).map (fun r =>
    let y := sfeRow e d site x r
    let o := row x (streamSeed d j.job.stream.toNat) r y.1
    (o.1, y.2.or o.2))

section
variable {d : Dev} {site : Nat} {j : EJob} {funcs : Nat → Bool} {reads : SDescF → List (Nat × Nat)}
  (active : engActive d site 5 = some j) (picked : funcs (sfeDesc j.job.bytes).func = true)
  (ready : rowsReady 5 (sfeDesc j.job.bytes).rows j = true)
include active picked ready

theorem sfeRun_readable (readable : readStatus d site (reads (sfeDesc j.job.bytes)) = 0) (e : Env) (row : SfeRow) :
    sfeRun e d site funcs reads row =
      let rows := sfeRows e (wakeRanges d site (reads (sfeDesc j.job.bytes))) site j row
      writeAndEnd (wakeRanges d site (reads (sfeDesc j.job.bytes))) site 5 (rows.map (·.1)).flatten
        (rows.foldl (fun a r => a.or r.2) {}) 0 := by
  simp [sfeRun, active, picked, ready, readable, sfeRows]

theorem sfeRun_unreadable (unreadable : readStatus d site (reads (sfeDesc j.job.bytes)) ≠ 0) (e : Env) (row : SfeRow) :
    ∃ a outs, sfeRun e d site funcs reads row =
      engFail (noteLocal d site (readStatus d site (reads (sfeDesc j.job.bytes))) a) site 5
        (readStatus d site (reads (sfeDesc j.job.bytes))) outs {} :=
  ⟨(sfeDesc j.job.bytes).inAddr, (sfeDesc j.job.bytes).outRanges ++ (sfeDesc j.job.bytes).auxRanges,
    by simp [sfeRun, active, picked, ready, unreadable]⟩

end

/-- A command ends the active SFE descriptor of a site with the writes and flags of its rows, or with the status of a read
that is not granted. -/
def SfeEnds (s : State) (site : Fin 36) (j : EJob) (cmd : Instr) (row : SfeRow) (ins : List (Nat × Nat)) : Prop :=
  let d := wakeRanges s.dev.rest site.val ins
  let rows := sfeRows ⟨s.fuses, s.mem⟩ d site.val j row
  let w := wrRanges d site.val ((rows.map (·.1)).flatten.filter (fun w => !w.2.isEmpty))
  ∃ t, exec cmd s = .next t ∧
    (readStatus s.dev site.val ins = 0 → w.1 = 0 →
      engEnded s t site.val 5 j 0 (rows.foldl (fun a r => a.or r.2) {}) 0 ∧ t.mem = applyChanges s.mem w.2.wq.reverse) ∧
    (readStatus s.dev site.val ins ≠ 0 → engEnded s t site.val 5 j (readStatus s.dev site.val ins) {} 0)

/-- Every command of the special-function engine is a run of its rows, for the functions that it takes. -/
theorem sfeEnds_of_run {s : State} {site : Fin 36} {j : EJob} {cmd : Instr} {funcs : Nat → Bool}
    {reads : SDescF → List (Nat × Nat)} {row : SfeRow} (active : engActive s.dev site.val 5 = some j)
    (ready : rowsReady 5 (sfeDesc j.job.bytes).rows j = true) (picked : funcs (sfeDesc j.job.bytes).func = true)
    (runs : exec cmd s = .next (s.settle (sfeRun ⟨s.fuses, s.mem⟩ s.dev.rest site.val funcs reads row))) :
    SfeEnds s site j cmd row (reads (sfeDesc j.job.bytes)) := by
  refine ⟨_, runs, fun readable granted => ?_, fun unreadable => ?_⟩
  · rw [sfeRun_readable (d := s.dev.rest) active picked ready readable]
    exact engEnded_writeAndEnd active (wakeRanges_eventOnly ..).memOnly rfl granted _ 0
  · obtain ⟨a, outs, fails⟩ :=
      sfeRun_unreadable (d := s.dev.rest) active picked ready unreadable ⟨s.fuses, s.mem⟩ row
    rw [fails]
    exact engEnded_engFail active (noteLocal_memOnly ..) _ outs {}

section
variable {s : State} {site : Fin 36} {j : EJob} (active : engActive s.dev site.val 5 = some j)
  (ready : rowsReady 5 (sfeDesc j.job.bytes).rows j = true)
include active ready

theorem sfeEnds_topk (func : (sfeDesc j.job.bytes).func = 8) :
    SfeEnds s site j (.topk site) topkRow (sfeDesc j.job.bytes).inRanges :=
  sfeEnds_of_run (funcs := (· == 8)) (reads := SDescF.inRanges) active ready (beq_iff_eq.mpr func) rfl

theorem sfeEnds_smxApply (func : (sfeDesc j.job.bytes).func = 7) :
    SfeEnds s site j (.smxApply site) (applyRow ⟨s.fuses, s.mem⟩ s.dev.rest site.val)
      ((sfeDesc j.job.bytes).inRanges ++ (sfeDesc j.job.bytes).auxRanges) :=
  sfeEnds_of_run (funcs := (· == 7)) (reads := fun x => x.inRanges ++ x.auxRanges) active ready (beq_iff_eq.mpr func) rfl

theorem sfeEnds_smxStats (func : (sfeDesc j.job.bytes).func = 6) :
    SfeEnds s site j (.smxStats site) (statsRow ⟨s.fuses, s.mem⟩ s.dev.rest site.val)
      ((sfeDesc j.job.bytes).inRanges ++
        (if (sfeDesc j.job.bytes).merge then (sfeDesc j.job.bytes).auxRanges else [])) :=
  sfeEnds_of_run (funcs := (· == 6)) (reads := fun x => x.inRanges ++ (if x.merge then x.auxRanges else [])) active ready
    (beq_iff_eq.mpr func) rfl

theorem sfeEnds_sfeElementwise (func : (sfeDesc j.job.bytes).func < 6) :
    SfeEnds s site j (.sfeElementwise site) fnRow (sfeDesc j.job.bytes).inRanges :=
  sfeEnds_of_run (funcs := fun f => decide (f < 6)) (reads := SDescF.inRanges) active ready (decide_eq_true func) rfl

end

end Sys2Proof.Machine
end

section
/-!
SETTLED. The core engines family: expressions and special functions (O21).
-/
namespace Sys2Proof.Machine

/-- Settles O21: an expression is applied at its window, and each function of the special-function engine is one command
that runs over its rows. -/
theorem vectorAndFunctionResults : Obligations.VectorAndFunctionResults := by
  refine ⟨?_, ?_⟩
  · intro s site x j resp active notReporting v e ins d r w ready fixed notFinal
    refine ⟨_, exec_vxeExpression_fixed resp active notReporting ready fixed, fun readable granted => ?_,
      fun unreadable => ?_⟩
    · rw [vApply_readable (d := s.dev.rest) readable notFinal]
      exact engEnded_writeAndEnd active (wakeRanges_eventOnly ..).memOnly rfl granted _ 0
    · obtain ⟨a, outs, fails⟩ := vApply_unreadable (d := s.dev.rest) unreadable e (x.val + 1)
        (signed 16 (v.window % 2 ^ 16))
      rw [fails]
      exact engEnded_engFail active (noteLocal_memOnly ..) _ outs {}
  · intro s site j active x e cmd row ins d rows w ready below
    change SfeEnds s site j cmd row ins
    obtain func | func | func | func : x.func = 8 ∨ x.func = 7 ∨ x.func = 6 ∨ x.func < 6 := by omega
    · rw [show cmd = .topk site from if_pos func, show row = topkRow from if_pos func,
        show ins = x.inRanges by simp [ins, func]]
      exact sfeEnds_topk active ready func
    · rw [show cmd = .smxApply site by simp [cmd, func], show row = applyRow e s.dev.rest site.val by simp [row, func],
        show ins = x.inRanges ++ x.auxRanges by simp [ins, func]]
      exact sfeEnds_smxApply active ready func
    · rw [show cmd = .smxStats site by simp [cmd, func], show row = statsRow e s.dev.rest site.val by simp [row, func],
        show ins = x.inRanges ++ (if x.merge then x.auxRanges else []) by simp [ins, func]]
      exact sfeEnds_smxStats active ready func
    · obtain ⟨not8, not7, not6⟩ : x.func ≠ 8 ∧ x.func ≠ 7 ∧ x.func ≠ 6 := by omega
      rw [show cmd = .sfeElementwise site by simp [cmd, not8, not7, not6], show row = fnRow by simp [row, not8, not7, not6],
        show ins = x.inRanges by simp [ins, not7, not6]]
      exact sfeEnds_sfeElementwise active ready func

end Sys2Proof.Machine
end

section
/-!
SUPPORT. What the layout, compression, random and copy engines do with an active descriptor (R137, R138, R150-R154), and the
statuses of a write.
-/
namespace Sys2Proof.Machine

/-- A write of local memory is granted, refused with ADDRESS, or meets poison (R114, R171, R174). -/
theorem wrLocal_status (d : Dev) (site a : Nat) (bs : List Byte) :
    (wrLocal d site a bs).1 = 0 ∨ (wrLocal d site a bs).1 = 0x05 ∨ (wrLocal d site a bs).1 = 0x16 := by
  have checked : localStatus d site a bs.length false = 0 ∨ localStatus d site a bs.length false = 0x05 := by
    simp only [localStatus, Bool.false_and, Bool.false_eq_true, if_false]
    split_ifs <;> simp
  unfold wrLocal
  dsimp only
  split
  · dsimp only
    split <;> simp
  · split
    · exact checked.imp_right .inl
    · exact checked.imp_right .inl

/-- The statuses of some writes in turn are those of one write. -/
theorem wrRanges_status (site : Nat) (ws : List (Nat × List Byte)) (d : Dev) :
    (wrRanges d site ws).1 = 0 ∨ (wrRanges d site ws).1 = 0x05 ∨ (wrRanges d site ws).1 = 0x16 := by
  induction ws generalizing d with
  | nil => exact .inl rfl
  | cons w ws ih =>
    rw [wrRanges]
    split
    · exact ih _
    · exact wrLocal_status d site w.1 w.2

/-- A descriptor that writes its results completes with OK, or with the status of the write that failed. -/
theorem engEnded_writeFreeAndEnd_status {s : State} {d : Dev} {site u : Nat} {j : EJob}
    (active : engActive s.dev site u = some j) (only : memOnly s.dev.rest d) (reads : List (Nat × Nat))
    (ws : List (Nat × List Byte)) (f : XFlags) (detail : Nat) :
    ∃ status detail', engEnded s (s.settle (writeFreeAndEnd d site u reads ws f detail)) site u j status f detail' ∧
      (status = 0 ∨ status = 0x05 ∨ status = 0x16) := by
  have freedOnly : memOnly s.dev.rest (freed d reads ws).2 := memOnly_trans only (freed_memOnly ..)
  simp only [writeFreeAndEnd, writeAndEnd]
  split
  next => exact ⟨0, detail, engEnded_settle active (memOnly_trans freedOnly (wrRanges_memOnly ..)) 0 f detail, .inl rfl⟩
  next =>
    exact ⟨_, 0, engEnded_engFail active (memOnly_trans freedOnly (wrRanges_memOnly ..)) _ _ f, wrRanges_status ..⟩

/-- What a layout operation makes of its tensors: the writes, and the detail bits. -/
abbrev TopResult := Dev → TDesc → Word × Word → TRec → TRec → List (Nat × List Byte) × Nat

/-- Each of the four operations of Topiary is one command that runs it. -/
theorem exec_topOp (s : State) (site : Fin 36) {op : Nat} (known : op < 4) :
    let e : Env := ⟨s.fuses, s.mem⟩
    let f : TopResult := if op = 0 then moveResult e site.val else if op = 1 then imageAResult e site.val
      else if op = 2 then imageBResult e site.val else imageBsResult e site.val
    exec (if op = 0 then .topMove site else if op = 1 then .imageA site else if op = 2 then .imageB site
      else .imageBs site) s = .next (s.settle (topRun e s.dev.rest site.val op f)) := by
  obtain rfl | rfl | rfl | rfl : op = 0 ∨ op = 1 ∨ op = 2 ∨ op = 3 := by omega
  all_goals rfl

section
variable {d : Dev} {site : Nat} {j : EJob}

/-- A Topiary descriptor whose source may be read writes the result of its operation. -/
theorem topRun_readable (active : engActive d site 6 = some j)
    (ready : rowsReady 6 ((topSrc j.block).dim 1 * (topSrc j.block).dim 2 * (topSrc j.block).dim 3) j = true)
    (readable : readStatus d site (topSrc j.block).ranges = 0) (e : Env) (f : TopResult) {woken : Dev}
    (wakes : woken = wakeRanges d site (topSrc j.block).ranges) {r : List (Nat × List Byte) × Nat}
    (result : r = f woken (topDesc j.job.bytes) (streamSeed woken j.job.stream.toNat) (topSrc j.block) (topDst j.block)) :
    topRun e d site (topDesc j.job.bytes).op f = writeFreeAndEnd woken site 6 (topSrc j.block).ranges r.1
      (topFlags e woken site (topDesc j.job.bytes) (topSrc j.block) (topDst j.block)) r.2 := by
  rw [result, wakes]
  simp [topRun, active, ready, readable]

/-- A CPE descriptor whose source may be read performs its operation. -/
theorem cpeRun_readable (active : engActive d site 8 = some j) {op : Nat} (picked : (cpeDesc j.job.bytes).op = op)
    {reads : CDesc → TRec → List (Nat × Nat)}
    (readable : readStatus d site (reads (cpeDesc j.job.bytes) (topSrc j.block)) = 0)
    (f : Dev → EJob → CDesc → TRec → TRec → Dev) :
    cpeRun d site op reads f =
      f (wakeRanges d site (reads (cpeDesc j.job.bytes) (topSrc j.block))) j (cpeDesc j.job.bytes) (topSrc j.block)
        (topDst j.block) := by
  simp [cpeRun, active, picked, readable]

end

section
variable {s : State} {site : Fin 36} {j : EJob} (active : engActive s.dev site.val 8 = some j)
include active

/-- A run of a CPE operation whose source may be read performs it on the woken banks. -/
theorem run_cpeRun_readable {op : Nat} (picked : (cpeDesc j.job.bytes).op = op)
    {reads : CDesc → TRec → List (Nat × Nat)}
    (readable : readStatus s.dev site.val (reads (cpeDesc j.job.bytes) (topSrc j.block)) = 0)
    (f : Env → Dev → EJob → CDesc → TRec → TRec → Dev) :
    s.run (fun e d => cpeRun d site.val op reads (f e)) = .next (s.settle (f ⟨s.fuses, s.mem⟩
      (wakeRanges s.dev.rest site.val (reads (cpeDesc j.job.bytes) (topSrc j.block))) j (cpeDesc j.job.bytes)
      (topSrc j.block) (topDst j.block))) :=
  run_settle (cpeRun_readable (d := s.dev.rest) active picked readable _)

/-- REPACK of a tensor that may be read writes what it makes of it. -/
theorem exec_repack_readable (repacks : (cpeDesc j.job.bytes).op = 2)
    (readable : readStatus s.dev site.val (topSrc j.block).ranges = 0) :
    ∃ ws f detail, exec (.repack site) s = .next (s.settle (writeFreeAndEnd
      (wakeRanges s.dev.rest site.val (topSrc j.block).ranges) site.val 8 (topSrc j.block).ranges ws f detail)) := by
  have runs : execRepack site s = _ :=
    run_cpeRun_readable active repacks (reads := fun _ t => t.ranges) readable _
  exact ⟨_, _, _, runs⟩

/-- The source of a descriptor that reads a block stream, or makes one. -/
def EJob.streamReads (j : EJob) : List (Nat × Nat) := [((topSrc j.block).addr, (cpeDesc j.job.bytes).length)]

/-- The bytes of that source. -/
def EJob.streamBytes (j : EJob) (e : Env) (d : Dev) (site : Nat) : List Byte :=
  localBytes e d site (topSrc j.block).addr (cpeDesc j.job.bytes).length

variable (readable : readStatus s.dev site.val j.streamReads = 0) {woken : Dev}
  (wakes : woken = wakeRanges s.dev.rest site.val j.streamReads) {bs : List Byte}
  (bytes : bs = j.streamBytes ⟨s.fuses, s.mem⟩ woken site.val)
include readable wakes bytes

/-- COMPRESS of a source that may be read writes the blocks of its bytes. -/
theorem exec_compress_readable (compresses : (cpeDesc j.job.bytes).op = 0) :
    exec (.compress site) s = .next (s.settle (writeFreeAndEnd woken site.val 8 j.streamReads
      (placeBlocks (topDst j.block).addr
        ((blocks4k bs.length bs).map (encodeBlock (planeBytes (topSrc j.block).fmt)))) {} 0)) := by
  subst bytes wakes
  change execCompress site s = _
  exact run_cpeRun_readable active compresses (reads := fun x t => [(t.addr, x.length)]) readable _

/-- DECOMPRESS of a source that may be read writes the bytes of a valid stream, and ends with DECODE at another. -/
theorem exec_decompress_readable (decompresses : (cpeDesc j.job.bytes).op = 1) {r : Bool × List Byte}
    (decodes : r = decodeStream (cpeDesc j.job.bytes).length bs) :
    exec (.decompress site) s = .next (s.settle
      (if r.1 then writeFreeAndEnd woken site.val 8 j.streamReads [((topDst j.block).addr, r.2)] {} 0
        else engFail woken site.val 8 0x15 [((topDst j.block).addr, r.2.length)] {})) := by
  subst decodes bytes wakes
  change execDecompress site s = _
  exact run_cpeRun_readable active decompresses (reads := fun x t => [(t.addr, x.length)]) readable _

end

theorem putWord_memOnly (d : Dev) (word : Nat) (v : BitVec 64) : memOnly d (putWord d word v) := wrBytes_memOnly ..

theorem reportEcc_memOnly (d : Dev) (site : Nat) (f : Fld) (r : Report) :
    memOnly d (report (fincSat d Reg.CMEM_ECC [site] f 1) r) := rfl

theorem eccWord_memOnly (d : Dev) (site key : Nat) (k : EccKind) : memOnly d (eccWord d site key k) := by
  cases k with
  | single => exact reportEcc_memOnly ..
  | double =>
    unfold eccWord
    dsimp only
    split <;> rfl
  | miscorrected v => exact memOnly_trans (putWord_memOnly d (wordMark key) v) (reportEcc_memOnly ..)
  | undetected v => exact putWord_memOnly ..

theorem eccAll_memOnly (d : Dev) (site : Nat) (ks : List Nat) (found : List EccFound) :
    memOnly d (eccAll d site ks found) := by
  refine memOnly_foldl _ (fun d f => ?_) found d
  split
  · split
    · rfl
    · exact eccWord_memOnly ..
  · rfl

/-- The device of a COPY once the errors that it meets in the words of a local source are handled (R153, R176). -/
def dmeSource (d : Dev) (site : Nat) (x : DDesc) (found : List EccFound) : Dev :=
  if x.srcLocal then eccAll d site ((List.range x.rows).map (fun i =>
    localKeys d site (rowAt x.src x.srcPitch i).toNat x.rowBytes)).flatten found else d

theorem dmeSource_memOnly (d : Dev) (site : Nat) (x : DDesc) (found : List EccFound) :
    memOnly d (dmeSource d site x found) := by
  unfold dmeSource
  split
  · exact eccAll_memOnly ..
  · rfl

/-- The rows of the active descriptor of a DMA engine, on a device: the status, and the device. -/
def EJob.dmeMoves (j : EJob) (e : Env) (d₀ : Dev) (site : Nat) (d : Dev) : Nat × Dev :=
  dmeRows e site (streamReq d₀ site j.job.stream.toNat) (dmeDesc j.job.bytes) (List.range (dmeDesc j.job.bytes).rows) d

section
variable {d : Dev} {site m : Nat} {j : EJob} (active : engActive d site (9 + m) = some j) (e : Env)
include active

theorem dmeRun_copy (copies : (dmeDesc j.job.bytes).op = 0) (found : List EccFound) :
    ∃ undone, memOnly (j.dmeMoves e d site (dmeSource d site (dmeDesc j.job.bytes) found)).2 undone ∧
      dmeRun e d site m 0 found =
        endRows (j.dmeMoves e d site (dmeSource d site (dmeDesc j.job.bytes) found)) undone site (9 + m) :=
  ⟨dmeUndef e site (streamReq d site j.job.stream.toNat) (dmeDesc j.job.bytes) (List.range (dmeDesc j.job.bytes).rows) _,
    dmeUndef_memOnly .., by
      simp only [dmeRun, active, copies, ne_eq, not_true, if_false, beq_self_eq_true, Bool.and_true]
      rfl⟩

theorem dmeRun_fill (fills : (dmeDesc j.job.bytes).op = 1) :
    ∃ undone, memOnly (j.dmeMoves e d site d).2 undone ∧
      dmeRun e d site m 1 [] = endRows (j.dmeMoves e d site d) undone site (9 + m) :=
  ⟨dmeUndef e site (streamReq d site j.job.stream.toNat) (dmeDesc j.job.bytes) (List.range (dmeDesc j.job.bytes).rows) _,
    dmeUndef_memOnly .., by
      simp only [dmeRun, active, fills, ne_eq, not_true, if_false, Nat.reduceBEq, Bool.and_false, Bool.false_eq_true]
      rfl⟩

end

/-- The bytes of an RNG fill. -/
def EJob.rngWrites (j : EJob) (d : Dev) : List (Nat × List Byte) :=
  let x := rngDesc j.job.bytes
  [(x.out, ((List.range x.count).map (rngElem x (streamSeed d j.job.stream.toNat))).flatten)]

theorem exec_rngFill_active {s : State} {site : Fin 36} {j : EJob} (active : engActive s.dev site.val 11 = some j) :
    exec (.rngFill site) s = .next (s.settle (writeAndEnd s.dev.rest site.val 11 (j.rngWrites s.dev.rest) {} 0)) := by
  change execRngFill site s = _
  exact run_settle (by simp [active, EJob.rngWrites])

end Sys2Proof.Machine
end

section
/-!
SETTLED. The core engines family: layouts, block streams, random fills and copies (O22).
-/
namespace Sys2Proof.Machine

/-- Settles O22: each command is one run of its engine's operation, whose writes or rows decide how it ends. -/
theorem layoutCompressionAndCopyResults : Obligations.LayoutCompressionAndCopyResults := by
  refine ⟨?_, ?_, ?_, ?_⟩
  · intro s site j active x a b e cmd f d r o w known ready readable granted
    have runs : exec cmd s = .next (s.settle (topRun e s.dev.rest site.val x.op f)) := exec_topOp s site known
    rw [topRun_readable (d := s.dev.rest) (r := r) active ready readable e f rfl rfl] at runs
    exact ⟨_, runs, engEnded_writeFreeAndEnd (w := w) active (wakeRanges_eventOnly ..).memOnly rfl rfl granted _ _⟩
  · intro s site j active x a b e d bs
    refine ⟨fun repacks readable => ?_, fun readable => ⟨fun compresses => ?_, fun decompresses => ?_⟩⟩
    · obtain ⟨ws, f, detail, runs⟩ := exec_repack_readable active repacks readable
      obtain ⟨status, detail', ended, known⟩ := engEnded_writeFreeAndEnd_status active
        (wakeRanges_eventOnly s.dev.rest site.val a.ranges).memOnly a.ranges ws f detail
      exact ⟨_, status, f, detail', runs, ended, known⟩
    · intro o w granted
      exact ⟨_, exec_compress_readable (bs := bs) active readable rfl rfl compresses,
        engEnded_writeFreeAndEnd (w := w) active (wakeRanges_eventOnly ..).memOnly rfl rfl granted {} 0⟩
    · intro r o w
      refine ⟨_, exec_decompress_readable (r := r) active readable rfl rfl decompresses rfl, fun valid granted => ?_,
        fun invalid => ?_⟩
      · rw [if_pos valid]
        exact engEnded_writeFreeAndEnd (w := w) active (wakeRanges_eventOnly ..).memOnly rfl rfl granted {} 0
      · rw [invalid, if_neg Bool.false_ne_true]
        exact engEnded_engFail active (wakeRanges_eventOnly ..).memOnly 0x15 _ {}
  · intro s site j active x w granted
    exact ⟨_, exec_rngFill_active active, engEnded_writeAndEnd active (memOnly_refl _) rfl granted {} 0⟩
  · intro s site m j active x r rows
    refine ⟨fun ext found copies => ?_, fun fills => ?_⟩
    · intro d d'
      obtain ⟨undone, undo, runs⟩ := dmeRun_copy (d := s.dev.rest.given ext) (m := m.val) active ⟨s.fuses, s.mem⟩
        copies found
      have moved : memOnly s.dev.rest (j.dmeMoves ⟨s.fuses, s.mem⟩ (s.dev.rest.given ext) site.val
          (dmeSource (s.dev.rest.given ext) site.val x found)).2 :=
        memOnly_trans (b := s.dev.rest.given ext) rfl (memOnly_trans (dmeSource_memOnly ..) (dmeRows_memOnly ..))
      exact ⟨_, run_settle (f := fun e d => dmeRun e (d.given ext) site.val m.val 0 found) runs,
        engEnded_endRows active moved undo⟩
    · obtain ⟨undone, undo, runs⟩ := dmeRun_fill (d := s.dev.rest) (m := m.val) active ⟨s.fuses, s.mem⟩ fills
      exact ⟨_, run_settle (f := fun e d => dmeRun e d site.val m.val 1 []) runs,
        engEnded_endRows active (dmeRows_memOnly ..) undo⟩

end Sys2Proof.Machine
end

section
/-!
SUPPORT. Rows that move by index (R141, R142): the gather and dispatch engine's active descriptor, and its rows.
-/
namespace Sys2Proof.Machine

theorem engActive_of_gdeActive {d : Dev} {site op : Nat} {j : EJob} {x : GDesc}
    (active : gdeActive d site op = some (j, x)) : engActive d site 7 = some j := by
  unfold gdeActive at active
  split at active
  next => cases active
  next a unit =>
    dsimp only at active
    split at active
    · cases active
      exact unit
    · cases active

theorem tableRead_memOnly (e : Env) (d : Dev) (site : Nat) (r : Requester) (t : TRec) (i : Nat) :
    memOnly d (tableRead e d site r t i).2 := dmeRead_memOnly ..

theorem gatherRows_memOnly (e : Env) (site : Nat) (r : Requester) (x : GDesc) (t : TRec) (is : List Nat) (d : Dev) :
    memOnly d (gatherRows e site r x t is d).2 := by
  induction is generalizing d with
  | nil => rfl
  | cons i is ih =>
    have got : memOnly d (if localWord e d site (x.route + 4 * i) 4 = 0xFFFFFFFF then
        (Except.ok ((List.range x.rowBytes).map (fun _ => 0)), d)
      else if t.dim 1 ≤ localWord e d site (x.route + 4 * i) 4 then (.error 0x13, d)
      else tableRead e d site r t (localWord e d site (x.route + 4 * i) 4)).2 := by
      split
      · rfl
      · split
        · rfl
        · exact tableRead_memOnly ..
    unfold gatherRows
    dsimp only
    split
    next answer => exact got.of_eq answer
    next bs d' answer =>
      have written := memOnly_trans (got.of_eq answer) (wrLocal_memOnly d' site (x.rows + i * x.pitch) bs)
      split
      · exact memOnly_trans written (ih _)
      · exact written

theorem pkgCombine_memOnly (e : Env) (r : Requester) (n : Nat) (mk : List Byte → MemOp) (fuel : Nat) (bs : List Byte)
    (a : Nat) (d : Dev) : memOnly d (pkgCombine e r n mk fuel bs a d).2 := by
  induction fuel generalizing bs a d with
  | zero => rfl
  | succ fuel ih =>
    unfold pkgCombine
    split
    · rfl
    · split
      next answer => exact (pkgAtomic_memOnly ..).of_eq answer
      next answer => exact memOnly_trans ((pkgAtomic_memOnly ..).of_eq answer) (ih _ _ _)

theorem tableWrite_memOnly (e : Env) (d : Dev) (site : Nat) (r : Requester) (t : TRec) (combine i : Nat) (bs : List Byte) :
    memOnly d (tableWrite e d site r t combine i bs).2 := by
  unfold tableWrite
  dsimp only
  split
  · exact dmeWrite_memOnly ..
  · split
    · exact pkgCombine_memOnly ..
    · split
      next answer => exact (rdLocal_memOnly ..).of_eq answer
      next answer => exact memOnly_trans ((rdLocal_memOnly ..).of_eq answer) (wrLocal_memOnly ..)

theorem scatterRows_memOnly (e : Env) (site : Nat) (r : Requester) (x : GDesc) (t : TRec) (is : List Nat) (d : Dev) :
    memOnly d (scatterRows e site r x t is d).2 := by
  induction is generalizing d with
  | nil => rfl
  | cons i is ih =>
    unfold scatterRows
    dsimp only
    split
    · exact ih d
    · split
      · rfl
      · split
        next answer => exact (rdLocal_memOnly ..).of_eq answer
        next bs d' answer =>
          have written := memOnly_trans ((rdLocal_memOnly ..).of_eq answer)
            (tableWrite_memOnly e d' site r t x.combine (localWord e d site (x.route + 4 * i) 4) bs)
          split
          · exact memOnly_trans written (ih _)
          · exact written

theorem scatterUndef_memOnly (e : Env) (site : Nat) (r : Requester) (x : GDesc) (t : TRec) (is : List Nat) (d : Dev) :
    memOnly d (scatterUndef e site r x t is d) := by
  induction is generalizing d with
  | nil => rfl
  | cons i is ih =>
    unfold scatterUndef
    dsimp only
    refine memOnly_trans ?_ (ih _)
    split
    · rfl
    · split
      · exact memOnly_trans (freeBytes_memOnly ..) (dmeWrite_memOnly ..)
      · exact undefRanges_memOnly ..

section
variable {s : State} {site : Fin 36} (ext : List Byte) {j : EJob} {x : GDesc}
  (readable : readStatus s.dev site.val x.reads = 0)
include readable

/-- The rows of a GATHER whose local ranges may be read. -/
theorem exec_gather_readable (active : gdeActive s.dev site.val 0 = some (j, x)) {w : Nat × Dev}
    (rows : w = gatherRows ⟨s.fuses, s.mem⟩ site.val (streamReq s.dev site.val j.job.stream.toNat) x (tRec j.block)
      (List.range x.count) (s.dev.rest.given ext)) :
    ∃ undone, memOnly w.2 undone ∧ exec (.gather site ext) s = .next (s.settle (endRows w undone site.val 7)) := by
  refine ⟨undefRanges w.2 site.val x.writes, undefRanges_memOnly .., ?_⟩
  have atRest : gdeActive s.dev.rest site.val 0 = some (j, x) := active
  have granted : readStatus { s.dev.rest with extIn := ext } site.val x.reads = 0 := readable
  change execGather site ext s = _
  refine run_settle ?_
  simp only [atRest, granted, ne_eq, not_true, if_false, rows]
  rfl

/-- The rows of a SCATTER whose local ranges may be read. -/
theorem exec_scatter_readable (active : gdeActive s.dev site.val 1 = some (j, x)) {w : Nat × Dev}
    (rows : w = scatterRows ⟨s.fuses, s.mem⟩ site.val (streamReq s.dev site.val j.job.stream.toNat) x (tRec j.block)
      (List.range x.count) (s.dev.rest.given ext)) :
    ∃ undone, memOnly w.2 undone ∧ exec (.scatter site ext) s = .next (s.settle (endRows w undone site.val 7)) := by
  refine ⟨scatterUndef ⟨s.fuses, s.mem⟩ site.val (streamReq s.dev site.val j.job.stream.toNat) x (tRec j.block)
    (List.range x.count) w.2, scatterUndef_memOnly .., ?_⟩
  have atRest : gdeActive s.dev.rest site.val 1 = some (j, x) := active
  have granted : readStatus { s.dev.rest with extIn := ext } site.val x.reads = 0 := readable
  change execScatter site ext s = _
  refine run_settle ?_
  simp only [atRest, granted, ne_eq, not_true, if_false, rows]
  rfl

end

end Sys2Proof.Machine
end

section
/-!
SUPPORT. Parcels to cores of this package (R145, R148, R412): the box that they wait in, and the descriptor that waits for
their answers.
-/
namespace Sys2Proof.Machine

/-- A parcel on its way within the package, as its sender puts it in the box. -/
def Parcel.message (site : Nat) (job : Job) (ret : Bool) (p : Parcel) : ParcelMsg :=
  ⟨p.core, site, job.stream.toNat, job.seq.toNat, ret, p.bytes⟩

/-- The device with more parcels in the box. -/
def Dev.posted (d : Dev) (ms : List ParcelMsg) : Dev := { d with fab := { d.fab with box := d.fab.box ++ ms } }

theorem posted_posted (d : Dev) (a b : List ParcelMsg) : (d.posted a).posted b = d.posted (a ++ b) := by
  simp [Dev.posted]

theorem posted_nil (d : Dev) : d.posted [] = d := by simp [Dev.posted]

theorem sendParcel_own {d : Dev} {p : Parcel} (own : p.node = ownNode d) (site : Nat) (job : Job) (ret : Bool) :
    sendParcel d site job ret p = d.posted [p.message site job ret] := if_pos own

/-- Parcels that all go to this package reach the box in their order. -/
theorem foldl_sendParcel_own (site : Nat) (job : Job) (ret : Bool) (ps : List Parcel) (d : Dev)
    (own : ∀ p ∈ ps, p.node = ownNode d) :
    ps.foldl (fun d p => sendParcel d site job ret p) d = d.posted (ps.map (Parcel.message site job ret)) := by
  induction ps generalizing d with
  | nil => exact (posted_nil d).symm
  | cons p ps ih =>
    obtain ⟨first, others⟩ := List.forall_mem_cons.mp own
    rw [List.foldl_cons, sendParcel_own first, ih (d.posted _) others, posted_posted]
    rfl

/-- A descriptor with parcels for this package alone waits for as many answers. -/
theorem sendParcels_own {d : Dev} {ps : List Parcel} (nonempty : ps ≠ []) (own : ∀ p ∈ ps, p.node = ownNode d)
    (site : Nat) (j : EJob) (ret : Bool) :
    sendParcels d site j ret ps =
      (setActive d site 7 { j with await := ps.length, refused := false }).posted
        (ps.map (Parcel.message site j.job ret)) := by
  have notEmpty : ps.isEmpty = false := List.isEmpty_eq_false_iff.mpr nonempty
  rw [sendParcels, if_neg (by rw [notEmpty]; exact Bool.false_ne_true)]
  exact foldl_sendParcel_own site j.job ret ps _ own

/-- The state in which the active GDE descriptor has parcels in the box. -/
theorem settle_posted (s : State) (d : Dev) (site : Nat) (j : EJob) (ms : List ParcelMsg) :
    let t := s.settle ((setActive d site 7 j).posted ms)
    t.mem = applyChanges s.mem d.wq.reverse ∧ t.dev.regs = d.regs ∧ t.dev.fab.box = d.fab.box ++ ms ∧
      engActive t.dev site 7 = some j := ⟨rfl, rfl, rfl, engActive_setActive ..⟩

/-- A descriptor without parcels completes at once. -/
theorem sendParcels_nil (d : Dev) (site : Nat) (j : EJob) (ret : Bool) :
    sendParcels d site j ret [] = engEnd d site 7 0 {} j.detail := rfl

/-- The numbers of the route array of a FORWARD (R144). -/
def GDesc.routes (x : GDesc) (e : Env) (d : Dev) (site : Nat) : List Nat :=
  (List.range (x.count * x.k)).map (fun i => localWord e d site (x.route + 4 * i) 4)

/-- The placement of each route entry (R144): its position at its expert, or all ones where the expert is full. -/
def GDesc.places (x : GDesc) (e : Env) (d : Dev) (site : Nat) : List Nat :=
  let route := x.routes e d site
  (List.range (x.count * x.k)).map (fun i =>
    if positionOf route i < bits (localWord e d site (x.table + 8 * route.getD i 0) 8) 47 32
    then positionOf route i else 0xFFFFFFFF)

/-- The parcels of a FORWARD, expert by expert (R145). -/
def GDesc.forwards (x : GDesc) (e : Env) (d : Dev) (site : Nat) : List Parcel :=
  ((List.range x.nExp).map (forwardParcels e d site x (x.routes e d site))).flatten

/-- The parcels of a RETURN, source by source (R148). -/
def GDesc.returns (x : GDesc) (e : Env) (d : Dev) (site n : Nat) : List Parcel :=
  ((List.range x.count).map (returnParcels e d site x n
    (fget d Reg.GDE_RXWIN_SHAPE [site, n] Fld.GDE_RXWIN_SHAPE_cap))).flatten

section
variable {s : State} {site : Fin 36} {j : EJob} {x : GDesc} (idle : j.await = 0)
include idle

/-- A FORWARD with its inputs readable, its routes in range and room for its parcels writes its placement and sends them. -/
theorem exec_gdeForward_granted (active : gdeActive s.dev site.val 2 = some (j, x))
    (readable : readStatus s.dev site.val x.reads = 0)
    (inRange : ∀ r ∈ x.routes ⟨s.fuses, s.mem⟩ s.dev.rest site.val, r < x.nExp) {place : List Nat}
    (places : place = x.places ⟨s.fuses, s.mem⟩ s.dev.rest site.val) {w : Nat × Dev}
    (writes : w = wrRanges s.dev.rest site.val [(x.aux, (place.map (leBytes 4)).flatten)]) (granted : w.1 = 0)
    {ps : List Parcel} (parcels : ps = x.forwards ⟨s.fuses, s.mem⟩ s.dev.rest site.val)
    (room : s.dev.fab.remote.length + remoteParcels s.dev ps ≤ 65536) :
    exec (.gdeForward site) s = .next (s.settle (sendParcels w.2 site.val
      { j with detail := if place.any (fun p => p == 0xFFFFFFFF) then 4 else 0 } false ps)) := by
  have atRest : gdeActive s.dev.rest site.val 2 = some (j, x) := active
  have noneOut : (x.routes ⟨s.fuses, s.mem⟩ s.dev.rest site.val).any (fun r => decide (x.nExp ≤ r)) = false := by
    simpa using inRange
  have fits : ¬ 65536 < s.dev.rest.fab.remote.length + remoteParcels s.dev.rest ps := Nat.not_lt.mpr room
  subst writes places parcels
  simp only [GDesc.routes, GDesc.places, GDesc.forwards] at noneOut granted fits ⊢
  change execGdeForward site s = _
  refine run_settle ?_
  simp only [atRest, idle, readStatus_rest, readable, noneOut, fits, ne_eq, not_true, if_false, Bool.false_eq_true]
  exact if_neg (not_not_intro granted)

/-- A RETURN from a window, with its rows readable and room for its parcels, sends them. -/
theorem exec_gdeReturn_granted (active : gdeActive s.dev site.val 3 = some (j, x)) {n : Nat}
    (window : windowOfTags s.dev site.val x.route = some n)
    (readable : readStatus s.dev site.val (x.reads ++
      [(x.route, 8 * x.count * fget s.dev Reg.GDE_RXWIN_SHAPE [site.val, n] Fld.GDE_RXWIN_SHAPE_cap)]) = 0)
    {ps : List Parcel} (parcels : ps = x.returns ⟨s.fuses, s.mem⟩ s.dev.rest site.val n)
    (room : s.dev.fab.remote.length + remoteParcels s.dev ps ≤ 65536) :
    exec (.gdeReturn site) s = .next (s.settle (sendParcels s.dev.rest site.val j true ps)) := by
  have atRest : gdeActive s.dev.rest site.val 3 = some (j, x) := active
  have named : windowOfTags s.dev.rest site.val x.route = some n := window
  have fits : ¬ 65536 < s.dev.rest.fab.remote.length + remoteParcels s.dev.rest ps := Nat.not_lt.mpr room
  subst parcels
  simp only [GDesc.returns, fget_rest] at fits ⊢
  change execGdeReturn site s = _
  refine run_settle ?_
  simp only [atRest, idle, named, fget_rest, readStatus_rest, readable, fits, ne_eq, not_true, if_false]

end

end Sys2Proof.Machine
end

section
/-!
SUPPORT. Parcels that arrive (R146-R148, R412): their refusals, the counter that accepted ones count on, the cells of a
parcel from another package, and the answers that a sender waits for.
-/
namespace Sys2Proof.Machine

/-- Two devices differ in the engines' slots and in what the engines report alone. -/
def slotsOnly (d d' : Dev) : Prop := d' = { d with eng := d'.eng, engDone := d'.engDone }

theorem slotsOnly_trans {a b c : Dev} (h : slotsOnly a b) (k : slotsOnly b c) : slotsOnly a c := by
  unfold slotsOnly at *
  rw [k, h]

theorem setActive_slotsOnly (d : Dev) (site u : Nat) (j : EJob) : slotsOnly d (setActive d site u j) := rfl

theorem engEnd_slotsOnly (d : Dev) (site u status : Nat) (f : XFlags) (detail : Nat) :
    slotsOnly d (engEnd d site u status f detail) := by
  unfold engEnd
  dsimp only
  split <;> rfl

/-- An answer to a parcel touches its sender's descriptor alone. -/
theorem parcelAnswer_slotsOnly (d : Dev) (site st q : Nat) (ok : Bool) : slotsOnly d (parcelAnswer d site st q ok) := by
  unfold parcelAnswer
  split
  · rfl
  · dsimp only
    split
    · split
      · exact slotsOnly_trans (setActive_slotsOnly ..) (engEnd_slotsOnly ..)
      · exact setActive_slotsOnly ..
    · rfl

section
variable {d d' : Dev} (h : slotsOnly d d')
include h

theorem slotsOnly.wq : d'.wq = d.wq := by unfold slotsOnly at h; rw [h]
theorem slotsOnly.fab : d'.fab = d.fab := by unfold slotsOnly at h; rw [h]
theorem slotsOnly.ctr : d'.ctr = d.ctr := by unfold slotsOnly at h; rw [h]
theorem slotsOnly.regs : d'.regs = d.regs := by unfold slotsOnly at h; rw [h]

end

section
variable {d d' : Dev} (h : memOnly d d')
include h

theorem memOnly.fab : d'.fab = d.fab := by unfold memOnly at h; rw [h]
theorem memOnly.ctr : d'.ctr = d.ctr := by unfold memOnly at h; rw [h]

end

theorem fget_congr {d d' : Dev} (same : d'.regs = d.regs) (r : RegDesc) (ix : List Nat) (f : Fld) :
    fget d' r ix f = fget d r ix f := by
  unfold fget rdReg
  rw [same]

theorem getEng_congr {d d' : Dev} (same : d'.eng = d.eng) (site u : Nat) : getEng d' site u = getEng d site u := by
  unfold getEng
  rw [same]

theorem getCtr_congr {d d' : Dev} (same : d'.ctr = d.ctr) (c : Nat) : getCtr d' c = getCtr d c := by
  unfold getCtr
  rw [same]

theorem headerRefusal_le {w : RxWin} {ret : Option Bool} {b : List Byte} {r : Nat}
    (refused : headerRefusal w ret b = some r) : r ≤ 4 := by
  unfold headerRefusal at refused
  grind

theorem tokenRefusal_le {w : RxWin} {b : List Byte} {r : Nat} (refused : tokenRefusal w b = some r) : r ≤ 4 := by
  unfold tokenRefusal at refused
  grind

/-- A refusal of a parcel has one of the five reasons of R146. -/
theorem parcelRefusal_le {w : RxWin} {ret : Option Bool} {b : List Byte} {r : Nat}
    (refused : parcelRefusal w ret b = some r) : r ≤ 4 := by
  unfold parcelRefusal at refused
  split at refused
  next reason => exact Option.some.inj refused ▸ headerRefusal_le reason
  next => exact tokenRefusal_le refused

theorem pWin_lt (b : List Byte) : pWin b < 2 ^ 4 := Nat.mod_lt _ (by decide)

theorem noteRefused_eventOnly (d : Dev) (site win reason : Nat) : eventOnly d (noteRefused d site win reason) := rfl

/-- GDE_RXREJ after a refusal: one more is counted, as far as the field goes, and the window and the reason are noted. -/
theorem fget_noteRefused (d : Dev) (site : Nat) {win reason : Nat} (winFits : win < 2 ^ 4) (reasonFits : reason ≤ 4) :
    fget (noteRefused d site win reason) Reg.GDE_RXREJ [site] Fld.GDE_RXREJ_refused =
        min 0xFFFF (fget d Reg.GDE_RXREJ [site] Fld.GDE_RXREJ_refused + 1) ∧
      fget (noteRefused d site win reason) Reg.GDE_RXREJ [site] Fld.GDE_RXREJ_last_win = win ∧
      fget (noteRefused d site win reason) Reg.GDE_RXREJ [site] Fld.GDE_RXREJ_last_reason = reason := by
  have counted := fget_fset_same d Reg.GDE_RXREJ [site] Fld.GDE_RXREJ_refused
    (min (fget d Reg.GDE_RXREJ [site] Fld.GDE_RXREJ_refused + 1) (2 ^ 16 - 1)) (by decide) (by decide)
  have noted : (noteRefused d site win reason).regs = (fset (fset
      (fincSat d Reg.GDE_RXREJ [site] Fld.GDE_RXREJ_refused 1) Reg.GDE_RXREJ [site] Fld.GDE_RXREJ_last_win win)
      Reg.GDE_RXREJ [site] Fld.GDE_RXREJ_last_reason reason).regs := rfl
  simp only [fget_congr noted]
  refine ⟨?_, ?_, ?_⟩
  · rw [fget_fset_field _ _ _ _ _ _ (by decide) (by decide) (by decide),
      fget_fset_field _ _ _ _ _ _ (by decide) (by decide) (by decide)]
    refine counted.trans ((Nat.mod_eq_of_lt ?_).trans (Nat.min_comm _ _))
    exact Nat.lt_of_le_of_lt (Nat.min_le_right _ _) (by decide)
  · rw [fget_fset_field _ _ _ _ _ _ (by decide) (by decide) (by decide), fget_fset_same _ _ _ _ _ (by decide) (by decide)]
    exact Nat.mod_eq_of_lt winFits
  · rw [fget_fset_same _ _ _ _ _ (by decide) (by decide)]
    exact Nat.mod_eq_of_lt (Nat.lt_of_le_of_lt reasonFits (by decide))

theorem writeTokens_memOnly (d : Dev) (site : Nat) (w : RxWin) (b : List Byte) (n : Nat) :
    memOnly d (writeTokens d site w b n) := by
  refine memOnly_foldl _ (fun d i => ?_) _ d
  dsimp only
  split
  · exact memOnly_trans (wrLocal_memOnly ..) (wrLocal_memOnly ..)
  · exact wrLocal_memOnly ..

/-- An ADD leaves the counter as the operation makes it, or as it was where it is refused (R208). -/
theorem getCtr_ctrDo_add (d : Dev) (who : Option Nat) (c v : Nat) :
    getCtr (ctrDo d who c 0 v).2 c = (ctrAdd (getCtr d c) v).getD (getCtr d c) := by
  simp only [ctrDo, ctrApply, if_true]
  cases ctrAdd (getCtr d c) v with
  | none => rfl
  | some x => exact Sparse.get_set_same _ _ _ _

theorem ctrDo_fab (d : Dev) (who : Option Nat) (c op v : Nat) : (ctrDo d who c op v).2.fab = d.fab := by
  unfold ctrDo
  split <;> rfl

theorem ctrDo_wq (d : Dev) (who : Option Nat) (c op v : Nat) : (ctrDo d who c op v).2.wq = d.wq := by
  unfold ctrDo
  split <;> rfl

theorem finishParcel_fab (e : Env) (d : Dev) (site : Nat) (w : RxWin) (b : List Byte) :
    (finishParcel e d site w b).fab = d.fab := by
  unfold finishParcel
  split
  · exact ctrDo_fab ..
  · dsimp only
    split
    · exact (ctrDo_fab ..).trans (wrLocal_memOnly ..).fab
    · exact (wrLocal_memOnly ..).fab

/-- A parcel into a window of returned rows counts its tokens on the window's counter (R148). -/
theorem finishParcel_ret {w : RxWin} (ret : w.ret = true) (e : Env) (d : Dev) (site : Nat) (b : List Byte) :
    finishParcel e d site w b = (ctrDo d none w.counter 0 (pTok b)).2 := if_pos ret

/-- The state that a refused parcel leaves: no memory and no counter has changed, and GDE_RXREJ notes it (R146). -/
theorem settle_refusedParcel (s : State) {d : Dev} (quiet : d.wq = []) (site : Nat) {r : Nat} (reason : r ≤ 4)
    (b : List Byte) (sender st q : Nat) :
    let t := s.settle (parcelAnswer (noteRefused d site (pWin b) r) sender st q false)
    t.mem = s.mem ∧ t.dev.ctr = d.ctr ∧ t.dev.fab = d.fab ∧
      fget t.dev Reg.GDE_RXREJ [site] Fld.GDE_RXREJ_refused =
        min 0xFFFF (fget d Reg.GDE_RXREJ [site] Fld.GDE_RXREJ_refused + 1) ∧
      fget t.dev Reg.GDE_RXREJ [site] Fld.GDE_RXREJ_last_win = pWin b ∧
      fget t.dev Reg.GDE_RXREJ [site] Fld.GDE_RXREJ_last_reason = r := by
  have answer := parcelAnswer_slotsOnly (noteRefused d site (pWin b) r) sender st q false
  refine ⟨settle_mem_of_quiet s (answer.wq.trans quiet), answer.ctr, answer.fab, ?_⟩
  simp only [settle_dev, fget_rest]
  rw [fget_congr answer.regs, fget_congr answer.regs, fget_congr answer.regs]
  exact fget_noteRefused d site (pWin_lt b) reason

/-- The state that an accepted parcel leaves: into a window of returned rows, its tokens are written and counted (R148). -/
theorem settle_acceptedParcel (s : State) (e : Env) (d : Dev) (site : Nat) (w : RxWin) (b : List Byte) (sender st q : Nat) :
    let written := writeTokens d site w b (pTok b)
    let t := s.settle (parcelAnswer (finishParcel e written site w b) sender st q true)
    t.dev.fab = d.fab ∧ (w.ret = true → t.mem = applyChanges s.mem written.wq.reverse ∧
      getCtr t.dev w.counter = (ctrAdd (getCtr d w.counter) (pTok b)).getD (getCtr d w.counter)) := by
  intro written t
  have wrote : memOnly d written := writeTokens_memOnly ..
  have answer := parcelAnswer_slotsOnly (finishParcel e written site w b) sender st q true
  refine ⟨(answer.fab.trans (finishParcel_fab ..)).trans wrote.fab, fun ret => ?_⟩
  have finish := finishParcel_ret ret e written site b
  refine ⟨?_, ?_⟩
  · rw [settle_mem, answer.wq, finish, ctrDo_wq]
  · refine (getCtr_congr (d' := t.dev) answer.ctr w.counter).trans ?_
    rw [finish, getCtr_ctrDo_add, getCtr_congr wrote.ctr]

/-- The device with a parcel taken out of the box. -/
def Dev.unboxed (d : Dev) (m : ParcelMsg) : Dev := { d with fab := { d.fab with box := d.fab.box.erase m } }

/-- What becomes of a parcel at the site that it goes to: refused whole, or written, with an answer to its sender. -/
def takeParcel (e : Env) (d : Dev) (site : Nat) (m : ParcelMsg) : Dev :=
  let w := rxWin d site (pWin m.bytes)
  match parcelRefusal w (some m.ret) m.bytes with
  | some r => parcelAnswer (noteRefused d site (pWin m.bytes) r) m.site m.stream m.seq false
  | none =>
    parcelAnswer (finishParcel e (writeTokens d site w m.bytes (pTok m.bytes)) site w m.bytes) m.site m.stream m.seq true

theorem takeParcel_refused {d : Dev} {site : Nat} {m : ParcelMsg} {r : Nat}
    (refused : parcelRefusal (rxWin d site (pWin m.bytes)) (some m.ret) m.bytes = some r) (e : Env) :
    takeParcel e d site m = parcelAnswer (noteRefused d site (pWin m.bytes) r) m.site m.stream m.seq false := by
  simp only [takeParcel, refused]

theorem takeParcel_accepted {d : Dev} {site : Nat} {m : ParcelMsg} {w : RxWin} (window : w = rxWin d site (pWin m.bytes))
    (accepted : parcelRefusal w (some m.ret) m.bytes = none) (e : Env) :
    takeParcel e d site m = parcelAnswer
      (finishParcel e (writeTokens d site w m.bytes (pTok m.bytes)) site w m.bytes) m.site m.stream m.seq true := by
  subst window
  simp only [takeParcel, accepted]

theorem exec_parcelReceive_own {s : State} {site : Fin 36} {m : ParcelMsg}
    (oldest : s.dev.fab.box.find? (fun m => siteOfCore s.dev m.core == some site.val || (siteOfCore s.dev m.core).isNone) =
      some m) (own : siteOfCore s.dev m.core = some site.val) :
    exec (.parcelReceive site) s =
      .next (s.settle (takeParcel ⟨s.fuses, s.mem⟩ (s.dev.rest.unboxed m) site.val m)) := by
  have found : s.dev.rest.fab.box.find? (fun m => siteOfCore s.dev.rest m.core == some site.val ||
      (siteOfCore s.dev.rest m.core).isNone) = some m := oldest
  have here : siteOfCore (s.dev.rest.unboxed m) m.core = some site.val := own
  rw [Dev.unboxed] at here
  change execParcelReceive site s = _
  refine run_settle ?_
  simp only [found, here, ne_eq, not_true, if_false]
  rfl

/-- What has arrived of a parcel, put in front of the others. -/
def keepParcel (d : Dev) (c : Cell) (p : ParcelIn) : Dev :=
  { d with fab := { d.fab with parcels := p :: d.fab.parcels.filter (fun q => !(q.src == c.src && q.tag == c.tag)) } }

section
variable {d : Dev} {c : Cell} {p : ParcelIn} (middle : c.first = false ∧ c.last = false)
  (started : d.fab.parcels.find? (fun p => p.src == c.src && p.tag == c.tag) = some p)
include middle started

/-- A middle cell of a refused parcel is taken and forgotten. -/
theorem parcelCell_refused (refused : p.refused.isSome = true) (e : Env) : parcelCell e d c = keepParcel d c p := by
  obtain ⟨first, last⟩ := middle
  simp only [parcelCell, first, last, Bool.false_eq_true, if_false, started, Option.map_some, refused, if_true]
  rfl

/-- A middle cell of another parcel adds its bytes, after writes of memory alone. -/
theorem parcelCell_taken (notRefused : p.refused = none) (e : Env) :
    ∃ d', memOnly d d' ∧ parcelCell e d c = keepParcel d' c { p with bytes := p.bytes ++ c.data } := by
  obtain ⟨first, last⟩ := middle
  simp only [parcelCell, first, last, Bool.false_eq_true, if_false, started, Option.map_some, notRefused,
    Option.isSome_none]
  split
  next => exact ⟨d, memOnly_refl d, rfl⟩
  next site own =>
    split
    next => exact ⟨d, memOnly_refl d, rfl⟩
    next => exact ⟨_, writeTokens_memOnly .., rfl⟩

end

theorem exec_parcelCell_arrived {s : State} {g : Nat} {c : Cell} {d : Dev}
    (arrived : takeCell s.dev.rest 5 = some (g, c, d)) :
    exec .parcelCell s = .next (s.settle (parcelCell ⟨s.fuses, s.mem⟩ d c)) := by
  change execParcelCell s = _
  exact run_settle (by simp only [arrived])

/-- Taking a cell touches the delivered cells alone. -/
theorem takeCell_frame {d d' : Dev} {kind g : Nat} {c : Cell} (taken : takeCell d kind = some (g, c, d')) :
    d' = { d with fab := { d.fab with cells := d'.fab.cells } } := by
  unfold takeCell at taken
  split at taken
  · cases taken
  · cases taken
    rfl

/-- The progress of a descriptor that has one answer fewer to wait for. -/
def EJob.answered (j : EJob) : EJob := { j with await := j.await - 1 }

section
variable {d : Dev} {site st q : Nat} {j : EJob} (active : engActive d site 7 = some j) (stream : j.job.stream.toNat = st)
  (seq : j.job.seq.toNat = q)
include active stream seq

/-- The last accepted answer completes the descriptor: OK, or REJECT where a parcel was refused. -/
theorem parcelAnswer_last (last : j.await ≤ 1) :
    parcelAnswer d site st q true =
      engEnd (setActive d site 7 j.answered) site 7 (if j.refused then 0x14 else 0) {} j.detail := by
  have noneLeft : j.await - 1 = 0 := by omega
  simp [parcelAnswer, active, stream, seq, noneLeft, EJob.answered]

theorem parcelAnswer_more (more : 2 ≤ j.await) : parcelAnswer d site st q true = setActive d site 7 j.answered := by
  have someLeft : j.await - 1 ≠ 0 := by omega
  simp [parcelAnswer, active, stream, seq, someLeft, EJob.answered]

end

theorem exec_parcelRsp_accepted {s : State} {g : Nat} {c : Cell} {d : Dev} {r : Remote} {site : Nat}
    (arrived : takeCell s.dev.rest 6 = some (g, c, d)) (accepted : c.value % 256 = 0) (entry : remoteAt d c.tag = some r)
    (core : r.site = some site) :
    exec .parcelRsp s = .next (s.settle (parcelAnswer (freeRemote d c.tag) site r.stream r.seq true)) := by
  change execParcelRsp s = _
  exact run_settle (by simp only [arrived, accepted, entry, core, if_true])

/-- The register of a receive window that a write names (Tables 4.21 to 4.24). -/
def rxwinReg (reg : Nat) : RegDesc :=
  if reg = 0 then Reg.GDE_RXWIN_CTL else if reg = 1 then Reg.GDE_RXWIN_BASE
  else if reg = 2 then Reg.GDE_RXWIN_SHAPE else Reg.GDE_RXWIN_AUX

theorem rxwinReg_val (reg : Fin 4) :
    (if reg = 0 then Reg.GDE_RXWIN_CTL else if reg = 1 then Reg.GDE_RXWIN_BASE
      else if reg = 2 then Reg.GDE_RXWIN_SHAPE else Reg.GDE_RXWIN_AUX) = rxwinReg reg.val := by
  fin_cases reg <;> rfl

/-- A path that is no port is admitted to every site, halted or not. -/
theorem exec_rxwinWrite_of_no_port {p : Path} (notPort : pathPort p = none) (s : State) (site : Fin 36) (win : Fin 16)
    (reg : Fin 4) (data : Word) :
    exec (.rxwinWrite p site win reg data) s =
      .next (s.settle (rxwinWrite s.dev.rest p site.val win.val reg.val data)) := by
  change execRxwinWrite p site win reg data s = _
  exact run_settle (by simp [portHalted, onSite, siteAdmits, notPort])

theorem rxwinWrite_blocked {d : Dev} {site win reg : Nat} (blocked : reg ≠ 0 ∧ (rxWin d site win).armed = true)
    (p : Path) (data : Word) : rxwinWrite d p site win reg data = regEvent d p ((rxwinReg reg).key [site, win]) := if_pos blocked

theorem rxwinWrite_stored {d : Dev} {site win reg : Nat} (free : ¬ (reg ≠ 0 ∧ (rxWin d site win).armed = true))
    (p : Path) (data : Word) : rxwinWrite d p site win reg data = (rxwinReg reg).store d [site, win] false data := if_neg free

end Sys2Proof.Machine
end

section
/-!
SETTLED. The core engines family: rows by index, parcels and their answers (O23).
-/
namespace Sys2Proof.Machine

/-- Settles O23: rows end their descriptor by the first status that is not 0; parcels of this package go through its box,
each received one refused whole or written; cells and answers of other packages touch the parcel or the descriptor they name. -/
theorem gatherDispatchAndParcels : Obligations.GatherDispatchAndParcels := by
  refine ⟨?_, ?_, ?_, ?_, ?_, ?_, ?_⟩
  · intro s site ext j x d r readable
    refine ⟨fun active => ?_, fun active => ?_⟩
    · intro w
      obtain ⟨undone, undo, runs⟩ := exec_gather_readable ext readable active (w := w) rfl
      have moved : memOnly s.dev.rest w.2 := memOnly_trans (b := s.dev.rest.given ext) rfl (gatherRows_memOnly ..)
      exact ⟨_, runs, engEnded_endRows (engActive_of_gdeActive active) moved undo⟩
    · intro w
      obtain ⟨undone, undo, runs⟩ := exec_scatter_readable ext readable active (w := w) rfl
      have moved : memOnly s.dev.rest w.2 := memOnly_trans (b := s.dev.rest.given ext) rfl (scatterRows_memOnly ..)
      exact ⟨_, runs, engEnded_endRows (engActive_of_gdeActive active) moved undo⟩
  · intro s site j x active idle e route place ps w readable inRange granted room nonempty own
    have only : memOnly s.dev.rest w.2 := wrRanges_memOnly ..
    have runs := exec_gdeForward_granted (place := place) (w := w) (ps := ps) idle active readable inRange rfl rfl granted
      rfl room
    rw [sendParcels_own nonempty own] at runs
    obtain ⟨mem, -, box, waits⟩ := settle_posted s w.2 site.val { j with
      await := ps.length, refused := false, detail := if place.any (fun p => p == 0xFFFFFFFF) then 4 else 0 }
      (ps.map (Parcel.message site.val j.job false))
    rw [only.fab] at box
    exact ⟨_, runs, mem, box, waits⟩
  · intro s site j x n active idle window cap ps readable room own
    have runs := exec_gdeReturn_granted (ps := ps) idle active window readable rfl room
    by_cases empty : ps = []
    · rw [empty, sendParcels_nil] at runs
      refine ⟨_, runs, settle_mem_of_quiet s (engEnd_wq ..), engEnd_regs .., ?_,
        fun _ => engEnded_settle (engActive_of_gdeActive active) (memOnly_refl _) 0 {} j.detail, fun h => absurd empty h⟩
      rw [settle_dev, rest_fab, engEnd_fab, empty, List.map_nil, List.append_nil]
      rfl
    · rw [sendParcels_own (d := s.dev.rest) empty own] at runs
      obtain ⟨mem, regs, box, waits⟩ := settle_posted s s.dev.rest site.val
        { j with await := ps.length, refused := false } (ps.map (Parcel.message site.val j.job true))
      exact ⟨_, runs, mem, regs, box, fun h => absurd h empty, fun _ => waits⟩
  · intro s site m oldest own w d
    have runs : exec (.parcelReceive site) s = .next (s.settle (takeParcel ⟨s.fuses, s.mem⟩ d site.val m)) :=
      exec_parcelReceive_own oldest own
    cases verdict : parcelRefusal w (some m.ret) m.bytes with
    | some r =>
      rw [takeParcel_refused (d := d) verdict] at runs
      obtain ⟨mem, ctr, fab, rejected⟩ := settle_refusedParcel s (d := d) rfl site.val (parcelRefusal_le verdict) m.bytes
        m.site m.stream m.seq
      refine ⟨_, runs, congrArg Fabric.box fab, fun r' same => ?_, fun accepted => (Option.some_ne_none r accepted).elim⟩
      cases same
      exact ⟨mem, ctr, rejected⟩
    | none =>
      rw [takeParcel_accepted (d := d) (w := w) rfl verdict] at runs
      obtain ⟨fab, counted⟩ := settle_acceptedParcel s ⟨s.fuses, s.mem⟩ d site.val w m.bytes m.site m.stream m.seq
      exact ⟨_, runs, congrArg Fabric.box fab, fun r refused => (Option.some_ne_none r refused.symm).elim,
        fun _ ret => counted ret⟩
  · intro s g c d p arrived first last started
    have taken := takeCell_frame arrived
    have quiet : d.wq = [] := by rw [taken]; rfl
    have ctr : d.ctr = s.dev.ctr := by rw [taken]; rfl
    have runs := exec_parcelCell_arrived arrived
    by_cases refused : p.refused.isSome = true
    · rw [parcelCell_refused ⟨first, last⟩ started refused] at runs
      exact ⟨_, runs, rfl, ctr, fun _ => ⟨settle_mem_of_quiet s quiet, List.mem_cons_self ..⟩,
        fun accepted => absurd refused (by simp [accepted])⟩
    · obtain ⟨d', only, keeps⟩ := parcelCell_taken ⟨first, last⟩ started (Option.not_isSome_iff_eq_none.mp refused)
        ⟨s.fuses, s.mem⟩
      rw [keeps] at runs
      have cells : d'.fab.cells = d.fab.cells := congrArg Fabric.cells only.fab
      exact ⟨_, runs, cells, only.ctr.trans ctr, fun h => absurd h refused, fun _ => List.mem_cons_self ..⟩
  · intro s g c d r site j arrived accepted entry core active stream seq
    have taken := takeCell_frame arrived
    have held : remoteAt d c.tag = some r := by rw [taken]; exact entry
    have quiet : (freeRemote d c.tag).wq = [] := by rw [taken]; rfl
    have eng : (freeRemote d c.tag).eng = s.dev.eng := by rw [taken]; rfl
    have done : (freeRemote d c.tag).engDone = s.dev.engDone := by rw [taken]; rfl
    have freed : (freeRemote d c.tag).fab.remote = Sparse.del s.dev.fab.remote c.tag := by rw [taken]; rfl
    have works : engActive (freeRemote d c.tag) site 7 = some j := by rw [engActive, getEng_congr eng]; exact active
    have runs := exec_parcelRsp_accepted arrived accepted held core
    rcases Nat.lt_or_ge j.await 2 with last | more
    · rw [parcelAnswer_last works stream seq (Nat.le_of_lt_succ last)] at runs
      exact ⟨_, runs, settle_mem_of_quiet s ((engEnd_wq ..).trans quiet),
        (congrArg Fabric.remote (engEnd_fab ..)).trans freed,
        fun _ => engEnded_progressed (d := setActive (freeRemote d c.tag) site 7 j.answered) (engActive_setActive ..) rfl
          (by rw [getEng_setActive, getEng_congr eng]) done ..,
        fun more => absurd more (Nat.not_le.mpr last)⟩
    · rw [parcelAnswer_more works stream seq more] at runs
      exact ⟨_, runs, settle_mem_of_quiet s quiet, freed,
        fun last => absurd more (Nat.not_le.mpr (Nat.lt_succ_of_le last)), fun _ => engActive_setActive ..⟩
  · intro s p site win reg data notPort r blocked
    have runs := exec_rxwinWrite_of_no_port notPort s site win reg data
    have named : r = rxwinReg reg.val := rxwinReg_val reg
    clear_value r
    subst named
    have blocks : blocked ↔ reg.val ≠ 0 ∧ (rxWin s.dev.rest site.val win.val).armed = true :=
      and_congr_left' (not_congr Fin.ext_iff)
    by_cases closed : blocked
    · rw [rxwinWrite_blocked (blocks.mp closed)] at runs
      exact ⟨_, runs, rfl, fun _ _ => rfl, fun _ => ⟨rfl, rfl⟩, fun h => absurd closed h⟩
    · rw [rxwinWrite_stored (mt blocks.mpr closed)] at runs
      exact ⟨_, runs, rfl, keepsRegs_wrReg s.dev.rest _ _ _, fun h => absurd h closed,
        fun _ => ⟨rfl, rdReg_wrReg_same ..⟩⟩

end Sys2Proof.Machine
end

section
/-!
SUPPORT. The cells that an access to a core's window names (R158, R161): no cell is named twice.
-/
namespace Sys2Proof.Machine

/-- The interleaved address of a byte in a row of a bank (R158). -/
theorem cellLocal_interleaved {bank row byte : Nat} (bankFits : bank < 32) (rowFits : row < 8192) (byteFits : byte < 256) :
    cellLocal false (bank * 2097152 + row * 256 + byte) = row * 8192 + bank * 256 + byte := by
  simp only [cellLocal, bits, Nat.shiftRight_eq_div_pow, Bool.false_eq_true, if_false, Nat.reduceAdd, Nat.reduceSub,
    Nat.reducePow]
  omega

/-- The cell of a local address gives the address back (R158). -/
theorem cellLocal_localCell (linear : Bool) {a : Nat} (fits : a < 2 ^ 26) : cellLocal linear (localCell linear a) = a := by
  cases linear
  · have cell : localCell false a = a / 256 % 32 * 2097152 + a / 8192 * 256 + a % 256 := by
      simp only [localCell, bits, Nat.shiftRight_eq_div_pow, Bool.false_eq_true, if_false, Nat.reduceAdd, Nat.reduceSub,
        Nat.reducePow]
      omega
    rw [cell, cellLocal_interleaved (by omega) (by omega) (by omega)]
    omega
  · exact (Nat.mod_mod ..).trans (Nat.mod_eq_of_lt fits)

/-- An access in a view of the main banks lies within them (Table 5.2). -/
theorem windowView_main_le {off len o : Nat} {view : View} (viewed : windowView off len = some (view, false, o)) :
    o + len ≤ 2 ^ 26 := by
  simp only [windowView, Bool.and_eq_true, decide_eq_true_eq] at viewed
  split_ifs at viewed <;> simp only [Option.some.injEq, Prod.mk.injEq, Bool.true_eq_false, false_and, and_false] at viewed
  all_goals omega

@[simp] theorem length_windowKeys (d : Dev) (site : Nat) (mbx : Bool) (o len : Nat) :
    (windowKeys d site mbx o len).length = len := by
  cases mbx <;> simp [windowKeys, localKeys, span]

/-- The bytes of a window access are different cells. -/
theorem nodup_windowKeys {off len o : Nat} {view : View} {mbx : Bool} (viewed : windowView off len = some (view, mbx, o))
    (d : Dev) (site : Nat) : (windowKeys d site mbx o len).Nodup := by
  cases mbx
  · refine List.nodup_range.map_on fun i hi j hj same => ?_
    have within := windowView_main_le viewed
    rw [List.mem_range] at hi hj
    have address := congrArg (cellLocal (mapLinear d site)) (Nat.add_left_cancel same)
    rw [cellLocal_localCell _ (by omega), cellLocal_localCell _ (by omega)] at address
    exact Nat.add_left_cancel address
  · exact List.nodup_range.map (fun i j same => Nat.add_left_cancel same)

end Sys2Proof.Machine
end

section
/-!
SUPPORT. A write of cells of which none is poisoned (R170, R171, R176): it writes the enabled bytes and changes nothing else.
-/
namespace Sys2Proof.Machine

theorem wrEnabled_frame (ks : List Nat) (bs : List Byte) (ens : List Bool) (d : Dev) :
    wrEnabled d ks bs ens = { d with wq := (wrEnabled d ks bs ens).wq } := by
  induction ks generalizing bs ens d with
  | nil => rfl
  | cons k ks ih =>
    cases bs with
    | nil => rfl
    | cons b bs =>
      cases ens with
      | nil => rfl
      | cons en ens =>
        rw [wrEnabled, ih bs ens]
        cases en <;> rfl

/-- Bytes written at a list of keys leave every other key as it reads. -/
theorem rdByte_wrEnabled_other (e : Env) {ks : List Nat} {i : Nat} (outside : i ∉ ks) (bs : List Byte) (ens : List Bool)
    (d : Dev) : rdByte e (wrEnabled d ks bs ens) i = rdByte e d i := by
  induction ks generalizing bs ens d with
  | nil => rfl
  | cons k ks ih =>
    obtain ⟨notHere, notBelow⟩ := not_or.mp (mt List.mem_cons.mpr outside)
    cases bs with
    | nil => rfl
    | cons b bs =>
      cases ens with
      | nil => rfl
      | cons en ens =>
        rw [wrEnabled, ih notBelow]
        cases en
        · rfl
        · exact rdByte_wrByte_other e d b notHere

/-- Of bytes written at different keys, each enabled one reads as written, and the others as before. -/
theorem rdByte_wrEnabled_getD (e : Env) {ks : List Nat} (nodup : ks.Nodup) {bs : List Byte} {ens : List Bool}
    (bytes : bs.length = ks.length) (enables : ens.length = ks.length) (d : Dev) {i : Nat} (inside : i < ks.length) :
    rdByte e (wrEnabled d ks bs ens) (ks.getD i 0) =
      if ens.getD i false then bs.getD i 0 else rdByte e d (ks.getD i 0) := by
  induction ks generalizing bs ens d i with
  | nil => exact absurd inside (Nat.not_lt_zero i)
  | cons k ks ih =>
    obtain ⟨fresh, rest⟩ := List.nodup_cons.mp nodup
    cases bs with
    | nil => exact nomatch bytes
    | cons b bs =>
      cases ens with
      | nil => exact nomatch enables
      | cons en ens =>
        cases i with
        | zero =>
          rw [wrEnabled, List.getD_cons_zero, rdByte_wrEnabled_other e fresh]
          cases en
          · rfl
          · exact rdByte_wrByte_same e d k b
        | succ i =>
          have below : i < ks.length := Nat.lt_of_succ_lt_succ inside
          have other : ks.getD i 0 ≠ k := fun same =>
            fresh (same ▸ List.getD_eq_getElem ks 0 below ▸ List.getElem_mem below)
          simp only [wrEnabled, List.getD_cons_succ]
          rw [ih rest (Nat.succ.inj bytes) (Nat.succ.inj enables) _ below]
          cases en
          · rfl
          · rw [if_pos rfl, rdByte_wrByte_other e d b other]

theorem anyPoison_eq_false_iff {d : Dev} {ks : List Nat} :
    anyPoison d ks = false ↔ ∀ k ∈ ks, poisoned d (wordMark k) = false := by
  simp [anyPoison]

/-- No row is blocked where no word is poisoned (R171). -/
theorem blockedRows_of_clean {d : Dev} {on : List Nat} (clean : ∀ k ∈ on, poisoned d (wordMark k) = false) (rmw : Bool) :
    blockedRows d rmw on = [] := by
  rw [blockedRows, List.filter_eq_nil_iff.mpr (fun k hk => by simp [clean k hk]), List.map_nil]

/-- A write to words without poison writes its enabled bytes, in every view. -/
theorem wrCells_of_clean {d : Dev} {ks : List Nat} (clean : anyPoison d ks = false) {ens : List Bool}
    (enables : ens.length = ks.length) (rmw : Bool) (bs : List Byte) :
    wrCells d rmw ks bs ens = (false, wrEnabled d ks bs ens) := by
  have on : ∀ k ∈ ((ks.zip ens).filter (·.2)).map (·.1), poisoned d (wordMark k) = false := by
    intro k hk
    obtain ⟨x, hx, rfl⟩ := List.mem_map.mp hk
    exact anyPoison_eq_false_iff.mp clean _ (List.of_mem_zip (List.mem_filter.mp hx).1).1
  have all : (ks.zip ens).map (fun p => p.2 && !([] : List Nat).contains (rowOfKey p.1)) = ens := by
    simpa using List.map_snd_zip (Nat.le_of_eq enables)
  have marks (k : Nat) : poisoned (wrEnabled d ks bs ens) (wordMark k) = poisoned d (wordMark k) := by
    rw [wrEnabled_frame]; rfl
  simp only [wrCells, blockedRows_of_clean on, all, List.isEmpty_nil, Bool.not_true, Prod.mk.injEq, true_and]
  cases rmw
  · refine List.foldlRecOn (motive := fun x => x = wrEnabled d ks bs ens) _ _ rfl ?_
    rintro x rfl k hk
    simp [marks, on k hk]
  · rfl

end Sys2Proof.Machine
end

section
/-!
SUPPORT. Accesses to a core's window that reach their banks, and those that are refused (R160-R162, R167, R174, R176).
-/
namespace Sys2Proof.Machine

/-- A byte that a command leaves is the byte as the command saw it last. -/
theorem settle_byte_eq_rdByte (s : State) (d : Dev) (k : Nat) : (s.settle d).byte k = rdByte ⟨s.fuses, s.mem⟩ d k :=
  settle_byte s d k

/-- A byte that the command has not changed is the byte that it found. -/
theorem rdByte_of_quiet (s : State) {d : Dev} (quiet : d.wq = []) (k : Nat) :
    rdByte ⟨s.fuses, s.mem⟩ d k = s.byte k := by
  rw [rdByte, quiet]; rfl

theorem eventOnly.poison {d d' : Dev} (h : eventOnly d d') : d'.poison = d.poison := by unfold eventOnly at h; rw [h]

theorem eventOnly.out {d d' : Dev} (h : eventOnly d d') : d'.out = d.out := by unfold eventOnly at h; rw [h]

theorem anyPoison_congr {d d' : Dev} (same : d'.poison = d.poison) (ks : List Nat) : anyPoison d' ks = anyPoison d ks := by
  simp only [anyPoison, poisoned, same]

/-- What a write through a view makes of a byte (R167). -/
def View.apply : View → Byte → Byte → Byte
  | .normal, _, new => new
  | .set, old, new => old ||| new
  | .clear, old, new => old &&& ~~~new

theorem View.apply_setOrClear (clear : Bool) (old new : Byte) :
    (if clear then View.clear else View.set).apply old new = if clear then old &&& ~~~new else old ||| new := by
  cases clear <;> rfl

/-- In the normal view the written bytes replace the old ones. -/
theorem View.zipWith_normal {old new : List Byte} (same : old.length = new.length) :
    List.zipWith View.normal.apply old new = new :=
  (List.map_zip_eq_zipWith (f := Prod.snd)).symm.trans (List.map_snd_zip (Nat.le_of_eq same.symm))

section
variable {d : Dev} {src : Source} {c off : Nat} (admitted : srcAdmits d src (partOfCore d c) = true)
include admitted

/-- Nothing is at the offset, or the core has no site. -/
theorem windowAccess_nowhere {op : MemOp} (nowhere : siteOfCore d c = none ∨ windowView off (opLen op) = none) (e : Env)
    (found : List EccFound) (coll : Option Collision) :
    windowAccess e d src c off op found coll = refuse d src .noTarget off := by
  rcases nowhere with noSite | noView
  · simp [windowAccess, admitted, noSite]
  · simp only [windowAccess, admitted, noView, Bool.not_true, Bool.false_eq_true, if_false]
    split
    next h => cases h
    next => rfl

section
variable {site o : Nat} {view : View} {mbx : Bool} (core : siteOfCore d c = some site)
include core

/-- One of the banks refuses. -/
theorem windowAccess_bankRefuses {op : MemOp} (viewed : windowView off (opLen op) = some (view, mbx, o))
    (refuses : ∃ b ∈ banksOf (windowKeys d site mbx o (opLen op)), bankRefuses d site b = true) (e : Env)
    (found : List EccFound) (coll : Option Collision) :
    windowAccess e d src c off op found coll = refuse d src .noTarget off := by
  simp [windowAccess, admitted, core, viewed, List.any_eq_true.mpr refuses]

/-- The banks grant the access, and no word has an error: banks that were held in RET wake, and it is performed. -/
theorem windowAccess_granted {op : MemOp} (viewed : windowView off (opLen op) = some (view, mbx, o)) {ks : List Nat}
    (keys : ks = windowKeys d site mbx o (opLen op)) (grants : ∀ b ∈ banksOf ks, bankRefuses d site b = false) (e : Env) :
    ∃ woken portA, eventOnly d woken ∧
      windowAccess e d src c off op [] none = windowPerform e woken src site view ks op none portA := by
  subst keys
  have noneRefuses := List.any_eq_false.mpr fun b hb => Bool.not_eq_true _ ▸ grants b hb
  simp only [windowAccess, admitted, core, viewed, noneRefuses, Bool.not_true, Bool.false_eq_true, if_false, ite_self]
  exact ⟨_, _, wakeBanks_eventOnly .., rfl⟩

end
end

/-- An access that is refused with NOTARGET answers the error, records the class C0 event and does nothing else. -/
theorem exec_coreWindowAccess_refused {s : State} {src : Source} {core : Fin 32} {off : BitVec 28} {op : MemOp}
    {found : List EccFound} {coll : Option Collision}
    (refused : windowAccess ⟨s.fuses, s.mem⟩ s.dev.rest src core.val off.toNat op found coll =
      refuse s.dev.rest src .noTarget off.toNat) :
    ∃ t, exec (.coreWindowAccess src core off op found coll) s = .next t ∧ t.mem = s.mem ∧
      t.dev.poison = s.dev.poison ∧ t.dev.out = s.dev.out ++ [.memErr src .noTarget] ∧
      t.dev.reports = s.dev.reports ++ [{ source := 0x02, unit := srcUnit src, detail := low32 (off.toNat / 8),
                                          part := srcPart s.dev src : Report }] :=
  ⟨_, run_settle (f := fun e d => windowAccess e d src core.val off.toNat op found coll) refused, rfl, rfl, rfl, rfl⟩

/-- A read that its banks grant answers the bytes, or the POISON error where a word is poisoned. -/
theorem windowPerform_read (e : Env) (d : Dev) (src : Source) (site : Nat) (view : View) (ks : List Nat) (n : Nat)
    (portA : Bool) :
    windowPerform e d src site view ks (.read n) none portA =
      emit d (if anyPoison d ks then .memErr src .poison else .memData src (rdBytes e d ks)) := by
  rw [windowPerform]
  split <;> rfl

/-- A write that its banks grant, to words without poison, writes what its view makes of the enabled bytes. -/
theorem windowPerform_write {d : Dev} {ks : List Nat} (clean : anyPoison d ks = false) {bs : List Byte} {ens : List Bool}
    (bytes : bs.length = ks.length) (enables : ens.length = ks.length) (e : Env) (src : Source) (site : Nat) (view : View)
    (portA : Bool) :
    windowPerform e d src site view ks (.write bs ens) none portA =
      emit (wrEnabled d ks (List.zipWith view.apply (rdBytes e d ks) bs) ens) (.memData src []) := by
  have old : (rdBytes e d ks).length = bs.length := (List.length_map _).trans bytes.symm
  cases view
  · simp only [windowPerform, wrCells_of_clean clean enables, View.zipWith_normal old]
    rfl
  · simp only [windowPerform, wrCells_of_clean clean enables, List.map_zip_eq_zipWith]
    rfl
  · simp only [windowPerform, wrCells_of_clean clean enables, List.map_zip_eq_zipWith]
    rfl

end Sys2Proof.Machine
end

section
/-!
SUPPORT. The reads and writes of a core's window as runs (R161, R167, R170, R176): what the command leaves of each byte.
-/
namespace Sys2Proof.Machine

section
variable {s : State} {src : Source} {c off site o : Nat} {view : View} {mbx : Bool}
  (admitted : srcAdmits s.dev src (partOfCore s.dev c) = true) (core : siteOfCore s.dev c = some site)
include admitted core

/-- A granted read changes no memory, and answers the bytes, or POISON where one of their words is poisoned. -/
theorem run_windowRead {n : Nat} (viewed : windowView off n = some (view, mbx, o)) {ks : List Nat}
    (keys : ks = windowKeys s.dev site mbx o n) (grants : ∀ b ∈ banksOf ks, bankRefuses s.dev site b = false) :
    ∃ t, s.run (fun e d => windowAccess e d src c off (.read n) [] none) = .next t ∧ t.mem = s.mem ∧
      t.dev.out = s.dev.out ++ [if anyPoison s.dev ks then .memErr src .poison else .memData src (ks.map s.byte)] := by
  obtain ⟨woken, portA, wakes, granted⟩ := windowAccess_granted (d := s.dev.rest) (op := .read n) admitted core viewed keys
    grants ⟨s.fuses, s.mem⟩
  have bytes : rdBytes ⟨s.fuses, s.mem⟩ woken ks = ks.map s.byte :=
    List.map_congr_left fun k _ => rdByte_of_quiet s wakes.wq k
  rw [windowPerform_read, anyPoison_congr wakes.poison, bytes] at granted
  exact ⟨_, run_settle granted, settle_mem_of_quiet s wakes.wq, congrArg (· ++ _) wakes.out⟩

/-- A granted write to words without poison leaves what its view makes of each enabled byte; the other bytes and the poison
marks stay. -/
theorem run_windowWrite {data : List Byte} {enables : List Bool} (lengths : enables.length = data.length)
    (viewed : windowView off data.length = some (view, mbx, o)) {ks : List Nat}
    (keys : ks = windowKeys s.dev site mbx o data.length)
    (grants : ∀ b ∈ banksOf ks, bankRefuses s.dev site b = false) (clean : anyPoison s.dev ks = false) :
    ∃ t, s.run (fun e d => windowAccess e d src c off (.write data enables) [] none) = .next t ∧
      t.dev.poison = s.dev.poison ∧
      (∀ i, i < data.length → t.byte (ks.getD i 0) = if enables.getD i false
        then view.apply (s.byte (ks.getD i 0)) (data.getD i 0) else s.byte (ks.getD i 0)) ∧
      ∀ k, k ∉ ks → t.byte k = s.byte k := by
  have count : data.length = ks.length := keys ▸ (length_windowKeys ..).symm
  have nodup : ks.Nodup := keys ▸ nodup_windowKeys viewed s.dev site
  obtain ⟨woken, portA, wakes, granted⟩ := windowAccess_granted (d := s.dev.rest) (op := .write data enables) admitted core
    viewed keys grants ⟨s.fuses, s.mem⟩
  have found (k : Nat) : rdByte ⟨s.fuses, s.mem⟩ woken k = s.byte k := rdByte_of_quiet s wakes.wq k
  rw [windowPerform_write (anyPoison_congr wakes.poison ks ▸ clean) count (lengths.trans count)] at granted
  refine ⟨_, run_settle granted, ?_, fun i inside => ?_, fun k outside => ?_⟩
  · rw [wrEnabled_frame]
    exact wakes.poison
  · have place : i < ks.length := count ▸ inside
    have merged : (List.zipWith view.apply (rdBytes ⟨s.fuses, s.mem⟩ woken ks) data).getD i 0 =
        view.apply (s.byte (ks.getD i 0)) (data.getD i 0) := by
      simp [rdBytes, List.getD_eq_getElem?_getD, place, inside, found]
    refine (settle_byte_eq_rdByte ..).trans ((rdByte_wrEnabled_getD _ nodup ?_ (lengths.trans count) woken place).trans ?_)
    · simp [rdBytes, count]
    · rw [merged, found]
  · exact (settle_byte_eq_rdByte ..).trans ((rdByte_wrEnabled_other _ outside ..).trans (found k))

end

end Sys2Proof.Machine
end

section
/-!
SETTLED. The core memory family, accesses to a core's window: writes that set or clear bits (O24), and the window as a whole (O25). What an
access asks of the device does not look at what is left over from another command, so that a hypothesis about `s.dev` is
one about the device as the command finds it.
-/
namespace Sys2Proof.Machine

/-- Settles O24: the write is a window write through the set or the clear view. -/
theorem aliasWritesSetAndClear : Obligations.AliasWritesSetAndClear := by
  intro s src core off data enables site o mbx clear lengths hosted viewed admitted ks grants clean
  obtain ⟨t, next, marks, written, others⟩ := run_windowWrite admitted hosted lengths viewed rfl grants clean
  exact ⟨t, next, marks, fun i inside => View.apply_setOrClear clear _ _ ▸ written i inside, others⟩

/-- Settles O25: an access finds nothing at its offset, or a bank that refuses, or is performed. -/
theorem coreWindowAccess : Obligations.CoreWindowAccess := by
  intro s src core off admitted refused
  refine ⟨fun op found coll nowhere => ?_, fun site o view mbx hosted =>
    ⟨fun op found coll viewed refuses => ?_, fun n viewed => ?_, fun data enables viewed lengths => ?_⟩⟩
  · exact exec_coreWindowAccess_refused (windowAccess_nowhere (d := s.dev.rest) admitted nowhere _ found coll)
  · exact exec_coreWindowAccess_refused
      (windowAccess_bankRefuses (d := s.dev.rest) admitted hosted viewed refuses _ found coll)
  · exact run_windowRead admitted hosted viewed rfl
  · exact run_windowWrite admitted hosted lengths viewed rfl

end Sys2Proof.Machine
end

section
/-!
SUPPORT. The register of a bank (Table 5.15) and its transitions (R173, R175, Table 5.6).
-/
namespace Sys2Proof.Machine

theorem Fld.get_lt (f : Fld) (w : Word) : f.get w < 2 ^ (f.hi + 1 - f.lo) := Nat.mod_lt _ (Nat.two_pow_pos _)

/-- A counter that stops at its largest value, after an event (R10). -/
theorem fget_fincSat_same (d : Dev) (r : RegDesc) (ix : List Nat) (f : Fld) (n : Nat) (ordered : f.lo ≤ f.hi)
    (inWord : f.hi < 32) :
    fget (fincSat d r ix f n) r ix f = min (fget d r ix f + n) (2 ^ (f.hi + 1 - f.lo) - 1) := by
  have := Nat.two_pow_pos (f.hi + 1 - f.lo)
  exact (fget_fset_same _ _ _ _ _ ordered inWord).trans (Nat.mod_eq_of_lt (by omega))

theorem keepsRegs_fset (d : Dev) (r : RegDesc) (ix : List Nat) (f : Fld) (v : Nat) :
    keepsRegs d (fset d r ix f v) [r.key ix] := keepsRegs_wrReg d r ix _

theorem keepsRegs_trans {a b c : Dev} {ks : List Nat} (h : keepsRegs a b ks) (k : keepsRegs b c ks) : keepsRegs a c ks :=
  fun i hi => (k i hi).trans (h i hi)

section
variable (d : Dev) (site b v : Nat)

theorem bankState_setState : bankState (fset d Reg.CMEM_BANK [site, b] Fld.CMEM_BANK_state v) site b = v % 8 :=
  fget_fset_same _ _ _ _ _ (by decide) (by decide)

theorem bankMode_setState :
    bankMode (fset d Reg.CMEM_BANK [site, b] Fld.CMEM_BANK_state v) site b = bankMode d site b :=
  fget_fset_field _ _ _ _ _ _ (by decide) (by decide) (by decide)

theorem bankMode_setMode : bankMode (fset d Reg.CMEM_BANK [site, b] Fld.CMEM_BANK_mode v) site b = v % 8 :=
  fget_fset_same _ _ _ _ _ (by decide) (by decide)

theorem bankState_setMode :
    bankState (fset d Reg.CMEM_BANK [site, b] Fld.CMEM_BANK_mode v) site b = bankState d site b :=
  fget_fset_field _ _ _ _ _ _ (by decide) (by decide) (by decide)

theorem bankState_setMarch :
    bankState (fset d Reg.CMEM_BANK [site, b] Fld.CMEM_BANK_march v) site b = bankState d site b :=
  fget_fset_field _ _ _ _ _ _ (by decide) (by decide) (by decide)

end

/-- A mode holds a bank in ON, RET, OFF or OFFLINE. -/
theorem modeState_le (mode cur : Nat) : modeState mode cur ≤ 3 := by
  unfold modeState
  split_ifs <;> decide

/-- The state in which a bank is once its transition has begun (Table 5.6). -/
def beginState (cur goal : Nat) : Nat :=
  if cur = goal then cur
  else if (cur = 0 ∨ cur = 3) ∧ (goal = 0 ∨ goal = 3) then goal
  else if cur = 2 ∨ (cur = 1 ∧ goal ≠ 2) then 5 else 4

/-- A write of a mode begins a transition from a settled state that is not the one of the mode. -/
theorem ite_beginState (cur goal : Nat) :
    (if cur = 4 ∨ cur = 5 then cur else beginState cur goal) =
      if cur = 4 ∨ cur = 5 ∨ cur = goal then cur
      else if (cur = 0 ∨ cur = 3) ∧ (goal = 0 ∨ goal = 3) then goal
      else if cur = 2 ∨ (cur = 1 ∧ goal ≠ 2) then 5 else 4 := by
  by_cases moving : cur = 4 ∨ cur = 5
  · rw [if_pos moving, if_pos (or_assoc.mp (.inl moving))]
  · rw [if_neg moving, beginState]
    by_cases there : cur = goal
    · rw [if_pos there, if_pos (.inr (.inr there))]
    · rw [if_neg there, if_neg fun h => (or_assoc.mpr h).elim moving there]

/-- The target of a bank in transition is noted (R175). -/
def Dev.aimed (d : Dev) (site b goal : Nat) : Dev :=
  let c := Sparse.get {} d.cmem site
  { d with cmem := Sparse.set {} d.cmem site { c with target := Sparse.put c.target b goal } }

theorem target_aimed (d : Dev) (site b goal : Nat) :
    Sparse.get 0 (Sparse.get {} (d.aimed site b goal).cmem site).target b = goal := by
  rw [Dev.aimed, Sparse.get_set_same, Sparse.get, Sparse.find_put_same]
  rfl

/-- A bank that is where it is to be stays as it is. -/
theorem bankBegin_there {d : Dev} {site b goal : Nat} (there : bankState d site b = goal) : bankBegin d site b goal = d :=
  if_pos there

/-- A bank that is not where it is to be changes its state, and may have its target noted. -/
theorem bankBegin_elsewhere {d : Dev} {site b goal : Nat} (elsewhere : bankState d site b ≠ goal) :
    ∃ x, (x = d ∨ x = d.aimed site b goal) ∧ bankBegin d site b goal =
      fset x Reg.CMEM_BANK [site, b] Fld.CMEM_BANK_state (beginState (bankState d site b) goal) := by
  simp only [bankBegin, beginState, if_neg elsewhere]
  split_ifs
  · exact ⟨_, .inl rfl, rfl⟩
  · exact ⟨_, .inr rfl, rfl⟩
  · exact ⟨_, .inr rfl, rfl⟩

/-- The transition of an ON bank to RET (R173). -/
theorem bankBegin_onToRet {d : Dev} {site b : Nat} (on : bankState d site b = 0) :
    bankBegin d site b 1 = fset (d.aimed site b 1) Reg.CMEM_BANK [site, b] Fld.CMEM_BANK_state 4 := by
  simp [bankBegin, on, Dev.aimed]

/-- The beginning of a transition changes the state of its bank, and no mode, memory or report. -/
theorem bankBegin_spec (d : Dev) (site b : Nat) {goal : Nat} (fits : goal < 8) :
    bankState (bankBegin d site b goal) site b = beginState (bankState d site b) goal ∧
      bankMode (bankBegin d site b goal) site b = bankMode d site b ∧
      keepsRegs d (bankBegin d site b goal) [Reg.CMEM_BANK.key [site, b]] ∧
      (bankBegin d site b goal).wq = d.wq ∧ (bankBegin d site b goal).reports = d.reports := by
  by_cases there : bankState d site b = goal
  · rw [bankBegin_there there, beginState, if_pos there]
    exact ⟨rfl, rfl, fun _ _ => rfl, rfl, rfl⟩
  · obtain ⟨x, only, begins⟩ := bankBegin_elsewhere there
    obtain ⟨regs, wq, reports⟩ : x.regs = d.regs ∧ x.wq = d.wq ∧ x.reports = d.reports := by
      rcases only with rfl | rfl <;> exact ⟨rfl, rfl, rfl⟩
    have begun : beginState (bankState d site b) goal < 8 := by
      unfold beginState
      split_ifs <;> omega
    have keeps := keepsRegs_fset x Reg.CMEM_BANK [site, b] Fld.CMEM_BANK_state (beginState (bankState d site b) goal)
    unfold keepsRegs at keeps
    rw [regs] at keeps
    rw [begins, bankState_setState, bankMode_setState, Nat.mod_eq_of_lt begun]
    exact ⟨rfl, fget_congr regs .., keeps, wq, reports⟩

end Sys2Proof.Machine
end

section
/-!
SUPPORT. The commands on the configuration and on the banks of a core (R159, R172, R173, R175), through a path that is no port.
-/
namespace Sys2Proof.Machine

theorem portHalted_of_no_port {p : Path} (notPort : pathPort p = none) (d : Dev) : portHalted d p = false := by
  simp [portHalted, notPort]

theorem onSite_of_no_port {p : Path} (notPort : pathPort p = none) (d : Dev) (site addr : Nat) (f : Dev → Dev) :
    onSite d p site addr f = f d := by
  simp [onSite, siteAdmits, notPort]

/-- The registers of a core are written through a path that is no port, halted or not. -/
theorem exec_cmemMapWrite_of_no_port {p : Path} (notPort : pathPort p = none) (s : State) (site : Fin 36) (data : Word) :
    exec (.cmemMapWrite p site data) s = .next (s.settle (if siteQuiet s.dev site.val
      then Reg.CMEM_CFG.store s.dev.rest [site.val] (fbit s.dev Reg.CMEM_CFG [site.val] Fld.CMEM_CFG_lock) data
      else regEvent s.dev.rest p (Reg.CMEM_CFG.key [site.val]))) := by
  change execCmemMapWrite p site data s = _
  refine run_settle ?_
  simp only [portHalted_of_no_port notPort, Bool.false_eq_true, if_false, cmemMapWrite, onSite_of_no_port notPort]
  rfl

theorem exec_bankModeWrite_of_no_port {p : Path} (notPort : pathPort p = none) (s : State) (site : Fin 36) (bank : Fin 34)
    (data : Word) : exec (.bankModeWrite p site bank data) s =
      .next (s.settle (bankModeWrite s.dev.rest p site.val bank.val data)) := by
  change execBankModeWrite p site bank data s = _
  exact run_settle (by simp only [portHalted_of_no_port notPort, Bool.false_eq_true, if_false])

theorem exec_cmemMarchCtlGo_of_no_port {p : Path} (notPort : pathPort p = none) (s : State) (site : Fin 36) (data : Word) :
    exec (.cmemMarchCtlGo p site data) s = .next (s.settle (marchCtlWrite s.dev.rest p site.val data)) := by
  change execCmemMarchCtlGo p site data s = _
  exact run_settle (by simp only [portHalted_of_no_port notPort, Bool.false_eq_true, if_false])

/-- An AUTO bank that is ON and has been idle, where the owner tolerates the exit from RET (R173). -/
theorem exec_bankAutoIdle_on {s : State} {site : Fin 36} {bank : Fin 34} (auto : bankMode s.dev site.val bank.val = 1)
    (on : bankState s.dev site.val bank.val = 0) (tolerated : latFits (siteLat s.dev site.val) 150 = true) :
    exec (.bankAutoIdle site bank) s = .next (s.settle
      (fset (s.dev.rest.aimed site.val bank.val 1) Reg.CMEM_BANK [site.val, bank.val] Fld.CMEM_BANK_state 4)) := by
  change execBankAutoIdle site bank s = _
  exact run_settle ((if_pos ⟨auto, on, tolerated⟩).trans (bankBegin_onToRet (d := s.dev.rest) on))

section
variable {d : Dev} {p : Path} {site b : Nat} {data : Word} (notPort : pathPort p = none) (notSpare : siteState d site ≠ 1)
include notPort notSpare

/-- A reserved mode, a bank under march, a fenced bank (R175). -/
theorem bankModeWrite_discarded (bad : 5 ≤ Fld.CMEM_BANK_mode.get data ∨
      fbit d Reg.CMEM_BANK [site, b] Fld.CMEM_BANK_march = true ∨ bankState d site b = 6) :
    bankModeWrite d p site b data = regEvent d p (Reg.CMEM_BANK.key [site, b]) := by
  simp only [bankModeWrite, onSite_of_no_port notPort, if_neg notSpare, if_pos bad]

/-- The mode is stored, and a settled bank begins its transition (R175). -/
theorem bankModeWrite_stored (good : ¬ (5 ≤ Fld.CMEM_BANK_mode.get data ∨
      fbit d Reg.CMEM_BANK [site, b] Fld.CMEM_BANK_march = true ∨ bankState d site b = 6)) :
    bankModeWrite d p site b data =
      let stored := fset d Reg.CMEM_BANK [site, b] Fld.CMEM_BANK_mode (Fld.CMEM_BANK_mode.get data)
      if bankState d site b = 4 ∨ bankState d site b = 5 then stored
      else bankBegin stored site b (modeState (Fld.CMEM_BANK_mode.get data) (bankState d site b)) := by
  simp only [bankModeWrite, onSite_of_no_port notPort, if_neg notSpare, if_neg good]

/-- What an accepted write of a bank's mode leaves. -/
theorem bankModeWrite_stored_spec (good : ¬ (5 ≤ Fld.CMEM_BANK_mode.get data ∨
      fbit d Reg.CMEM_BANK [site, b] Fld.CMEM_BANK_march = true ∨ bankState d site b = 6)) :
    let m := Fld.CMEM_BANK_mode.get data
    let d' := bankModeWrite d p site b data
    bankState d' site b = (if bankState d site b = 4 ∨ bankState d site b = 5 then bankState d site b
        else beginState (bankState d site b) (modeState m (bankState d site b))) ∧
      bankMode d' site b = m ∧ keepsRegs d d' [Reg.CMEM_BANK.key [site, b]] ∧ d'.wq = d.wq ∧ d'.reports = d.reports := by
  intro m d'
  have stores := bankModeWrite_stored notPort notSpare good
  have keeps := keepsRegs_fset d Reg.CMEM_BANK [site, b] Fld.CMEM_BANK_mode m
  have mode := (bankMode_setMode d site b m).trans (Nat.mod_eq_of_lt (Fld.get_lt Fld.CMEM_BANK_mode data))
  by_cases moving : bankState d site b = 4 ∨ bankState d site b = 5
  · rw [show d' = _ from stores.trans (if_pos moving), if_pos moving]
    exact ⟨bankState_setMode .., mode, keeps, rfl, rfl⟩
  · obtain ⟨state, modeKept, kept, wq, reports⟩ := bankBegin_spec (fset d Reg.CMEM_BANK [site, b] Fld.CMEM_BANK_mode m) site b
      (goal := modeState m (bankState d site b)) (Nat.lt_of_le_of_lt (modeState_le ..) (by decide))
    rw [show d' = _ from stores.trans (if_neg moving), if_neg moving]
    rw [bankState_setMode] at state
    exact ⟨state, modeKept.trans mode, keepsRegs_trans keeps kept, wq, reports⟩

end

/-- A bank that ends its transition is where it was to be (R175). -/
def Dev.arrived (d : Dev) (site b goal : Nat) : Dev :=
  let c := Sparse.get {} d.cmem site
  fset { d with cmem := Sparse.set {} d.cmem site { c with target := Sparse.del c.target b } }
    Reg.CMEM_BANK [site, b] Fld.CMEM_BANK_state goal

/-- A bank's contents are zeros, if they are lost. -/
def Dev.zeroedIf (d : Dev) (lost : Prop) [Decidable lost] (site b : Nat) : Dev :=
  if lost then zeroBank d site b else d

@[simp] theorem zeroedIf_regs (d : Dev) (lost : Prop) [Decidable lost] (site b : Nat) :
    (d.zeroedIf lost site b).regs = d.regs := by
  unfold Dev.zeroedIf; split <;> rfl

@[simp] theorem zeroedIf_reports (d : Dev) (lost : Prop) [Decidable lost] (site b : Nat) :
    (d.zeroedIf lost site b).reports = d.reports := by
  unfold Dev.zeroedIf; split <;> rfl

@[simp] theorem zeroedIf_cmem (d : Dev) (lost : Prop) [Decidable lost] (site b : Nat) :
    (d.zeroedIf lost site b).cmem = d.cmem := by
  unfold Dev.zeroedIf; split <;> rfl

/-- The bytes that a command leaves which loses a bank's contents at most. -/
theorem settle_byte_zeroedIf (s : State) {d d' : Dev} (quiet : d.wq = []) {lost : Prop} [Decidable lost] {site b : Nat}
    (wq : d'.wq = (d.zeroedIf lost site b).wq) (k : Nat) :
    (s.settle d').byte k = if lost ∧ (bankCells site b).1 ≤ k ∧ k < (bankCells site b).1 + (bankCells site b).2
      then 0 else s.byte k := by
  rw [settle_byte, wq]
  by_cases zeros : lost
  · simp only [Dev.zeroedIf, zeroBank, clearMem, clearBankPoison, changeAt, quiet, zeros, if_true, true_and]
    split <;> rfl
  · simp only [Dev.zeroedIf, quiet, zeros, if_false, false_and, changeAt, Option.getD_none]

/-- The end of a transition whose target the mode still names (R175). -/
theorem bankTransitionDone_settled {d : Dev} {site b goal : Nat}
    (target : Sparse.get 0 (Sparse.get {} d.cmem site).target b = goal)
    (moving : bankState d site b = 4 ∨ bankState d site b = 5) (named : modeState (bankMode d site b) goal = goal) :
    bankTransitionDone d site b = (d.arrived site b goal).zeroedIf (goal = 2) site b ∧
      bankState (bankTransitionDone d site b) site b = goal ∧
      bankMode (bankTransitionDone d site b) site b = bankMode d site b := by
  have fits : goal < 8 := named ▸ Nat.lt_of_le_of_lt (modeState_le ..) (by decide)
  have regs : ((d.arrived site b goal).zeroedIf (goal = 2) site b).regs = (d.arrived site b goal).regs := zeroedIf_regs ..
  have state : bankState ((d.arrived site b goal).zeroedIf (goal = 2) site b) site b = goal :=
    (fget_congr regs ..).trans ((bankState_setState ..).trans (Nat.mod_eq_of_lt fits))
  have mode : bankMode ((d.arrived site b goal).zeroedIf (goal = 2) site b) site b = bankMode d site b :=
    (fget_congr regs ..).trans (bankMode_setState ..)
  have done : bankTransitionDone d site b = (d.arrived site b goal).zeroedIf (goal = 2) site b := by
    refine Eq.trans ?_ (bankBegin_there (goal := modeState (bankMode ((d.arrived site b goal).zeroedIf (goal = 2) site b)
      site b) goal) (by rw [state, mode, named]))
    simp only [bankTransitionDone, if_pos moving, target, Dev.arrived, Dev.zeroedIf]
  rw [done]
  exact ⟨rfl, state, mode⟩

end Sys2Proof.Machine
end

section
/-!
SUPPORT. The scrubber (R176, R177) and the march of a bank (R178, R181, R182, Table 5.10).
-/
namespace Sys2Proof.Machine

theorem getElem?_span {k n i : Nat} (inside : i < n) : (span k n)[i]? = some (k + i) := by
  simp [span, inside]

/-- A single-bit error in a word that is not poisoned is corrected: it is counted and recorded (R176). -/
theorem eccAll_single {d : Dev} {site w k : Nat} {ks : List Nat} (word : ks[8 * w]? = some k)
    (clean : poisoned d (wordMark k) = false) : eccAll d site ks [⟨w, .single⟩] = eccWord d site k .single := by
  simp [eccAll, word, clean]

/-- The scrubber finds a single-bit error in a row of an ON bank (R177). -/
theorem exec_cmemScrubAccess_single {s : State} {site : Fin 36} {bank : Fin 34} {row : BitVec 13} {w : Nat}
    (enabled : fbit s.dev Reg.CMEM_SCRUB [site.val] Fld.CMEM_SCRUB_enable = true)
    (on : bankState s.dev site.val bank.val = 0) (inBank : row.toNat < bankRows bank.val)
    (inRow : 8 * w < if bank.val < 32 then 256 else 64)
    (clean : poisoned s.dev (wordMark (rowKey site.val bank.val row.toNat + 8 * w)) = false) :
    exec (.cmemScrubAccess site bank row [⟨w, .single⟩]) s =
      .next (s.settle (eccWord s.dev.rest site.val (rowKey site.val bank.val row.toNat + 8 * w) .single)) := by
  change execCmemScrubAccess site bank row [⟨w, .single⟩] s = _
  exact run_settle ((if_pos ⟨enabled, .inl on, inBank⟩).trans
    (eccAll_single (d := s.dev.rest) (getElem?_span inRow) clean))

/-! What a register shows once a command has run is what it shows of the device that the command makes. -/

theorem fget_settle (s : State) (d : Dev) (r : RegDesc) (ix : List Nat) (f : Fld) :
    fget (s.settle d).dev r ix f = fget d r ix f := rfl

theorem fbit_settle (s : State) (d : Dev) (r : RegDesc) (ix : List Nat) (f : Fld) :
    fbit (s.settle d).dev r ix f = fbit d r ix f := rfl

theorem settle_reports (s : State) (d : Dev) : (s.settle d).dev.reports = d.reports := rfl

theorem settle_cmem (s : State) (d : Dev) : (s.settle d).dev.cmem = d.cmem := rfl

theorem march_stat_key_ne_bank (site b : Nat) : Reg.CMEM_MARCH_STAT.key [site] ≠ Reg.CMEM_BANK.key [site, b] := by
  simp only [RegDesc.key, dimOffset, Reg.CMEM_MARCH_STAT, Reg.CMEM_BANK]
  omega

theorem march_cnt_key_ne_bank (site b : Nat) : Reg.CMEM_MARCH_CNT.key [site] ≠ Reg.CMEM_BANK.key [site, b] := by
  simp only [RegDesc.key, dimOffset, Reg.CMEM_MARCH_CNT, Reg.CMEM_BANK]
  omega

theorem march_cnt_key_ne_stat (site : Nat) : Reg.CMEM_MARCH_CNT.key [site] ≠ Reg.CMEM_MARCH_STAT.key [site] := by
  simp only [RegDesc.key, dimOffset, Reg.CMEM_MARCH_CNT, Reg.CMEM_MARCH_STAT]
  omega

/-- What CMEM_MARCH_STAT shows of a refused request (Table 5.10). -/
def Dev.marchRefused (d : Dev) (site b why : Nat) : Dev :=
  let st (d : Dev) (f : Fld) (v : Nat) : Dev := fset d Reg.CMEM_MARCH_STAT [site] f v
  st (st (st (st d Fld.CMEM_MARCH_STAT_done 1) Fld.CMEM_MARCH_STAT_result 2) Fld.CMEM_MARCH_STAT_reason why)
    Fld.CMEM_MARCH_STAT_bank b

/-- A march that starts: it runs, and CMEM_MARCH_STAT and the register of its bank show it (R181). -/
def Dev.marchStarted (d : Dev) (site b kind : Nat) : Dev :=
  let st (d : Dev) (f : Fld) (v : Nat) : Dev := fset d Reg.CMEM_MARCH_STAT [site] f v
  let c := Sparse.get {} d.cmem site
  fset (st (st (st { d with cmem := Sparse.set {} d.cmem site { c with march := some ⟨b, kind⟩ } }
    Fld.CMEM_MARCH_STAT_busy 1) Fld.CMEM_MARCH_STAT_bank b) Fld.CMEM_MARCH_STAT_reason 0)
    Reg.CMEM_BANK [site, b] Fld.CMEM_BANK_march 1

section
variable {d : Dev} {p : Path} {site b kind : Nat} {data : Word} (notPort : pathPort p = none)
  (go : Fld.CMEM_MARCH_CTL_go.get data = 1) (bank : b = Fld.CMEM_MARCH_CTL_bank.get data)
  (kinds : kind = Fld.CMEM_MARCH_CTL_kind.get data)
include notPort go bank kinds

theorem marchCtlWrite_refused {why : Nat} (reason : marchReason d site b kind = why) (refused : why ≠ 0) :
    marchCtlWrite d p site data = d.marchRefused site b why := by
  subst bank kinds reason
  simp only [marchCtlWrite, onSite_of_no_port notPort, go, Nat.one_ne_zero, if_false, if_pos refused]
  rfl

theorem marchCtlWrite_started (accepted : marchReason d site b kind = 0) :
    marchCtlWrite d p site data = d.marchStarted site b kind := by
  subst bank kinds
  simp only [marchCtlWrite, onSite_of_no_port notPort, go, Nat.one_ne_zero, if_false, accepted, ne_eq, not_true]
  rfl

end

theorem marchReason_le (d : Dev) (site b kind : Nat) : marchReason d site b kind ≤ 5 := by
  unfold marchReason
  split_ifs <;> decide

theorem fget_marchRefused (d : Dev) (site : Nat) {b why : Nat} (bankFits : b < 2 ^ 6) (whyFits : why < 2 ^ 3) :
    fget (d.marchRefused site b why) Reg.CMEM_MARCH_STAT [site] Fld.CMEM_MARCH_STAT_reason = why ∧
      fget (d.marchRefused site b why) Reg.CMEM_MARCH_STAT [site] Fld.CMEM_MARCH_STAT_bank = b ∧
      fget (d.marchRefused site b why) Reg.CMEM_MARCH_STAT [site] Fld.CMEM_MARCH_STAT_result = 2 := by
  simp (disch := decide) only [Dev.marchRefused, fget_fset_same, fget_fset_field]
  exact ⟨Nat.mod_eq_of_lt whyFits, Nat.mod_eq_of_lt bankFits, rfl⟩

theorem fget_marchStarted (d : Dev) (site kind : Nat) {b : Nat} (bankFits : b < 2 ^ 6) :
    fget (d.marchStarted site b kind) Reg.CMEM_MARCH_STAT [site] Fld.CMEM_MARCH_STAT_reason = 0 ∧
      fget (d.marchStarted site b kind) Reg.CMEM_MARCH_STAT [site] Fld.CMEM_MARCH_STAT_bank = b ∧
      fbit (d.marchStarted site b kind) Reg.CMEM_BANK [site, b] Fld.CMEM_BANK_march = true := by
  simp only [Dev.marchStarted, fbit, fget_fset_other _ _ _ _ _ _ _ _ (march_stat_key_ne_bank site b)]
  simp (disch := decide) only [fget_fset_same, fget_fset_field]
  exact ⟨rfl, Nat.mod_eq_of_lt bankFits, rfl⟩

theorem marchRefused_cmem (d : Dev) (site b why : Nat) : (d.marchRefused site b why).cmem = d.cmem := by
  simp only [Dev.marchRefused, fset_cmem]

theorem march_marchStarted (d : Dev) (site b kind : Nat) :
    (Sparse.get {} (d.marchStarted site b kind).cmem site).march = some ⟨b, kind⟩ :=
  congrArg Cmem.march (Sparse.get_set_same {} d.cmem site { Sparse.get {} d.cmem site with march := some ⟨b, kind⟩ })

/-- A march is over, and its bank is not under march any more. -/
def Dev.marchOver (d : Dev) (site b : Nat) : Dev :=
  let c := Sparse.get {} d.cmem site
  fset { d with cmem := Sparse.set {} d.cmem site { c with march := none } } Reg.CMEM_BANK [site, b] Fld.CMEM_BANK_march 0

/-- What CMEM_MARCH_STAT and CMEM_MARCH_CNT show of a march that is over (R182). -/
def Dev.marchNoted (d : Dev) (site kind : Nat) (pass : Bool) (element row failWords poisonedW : Nat) : Dev :=
  let st (d : Dev) (f : Fld) (v : Nat) : Dev := fset d Reg.CMEM_MARCH_STAT [site] f v
  let d := st (st (st (st d Fld.CMEM_MARCH_STAT_busy 0) Fld.CMEM_MARCH_STAT_done 1)
    Fld.CMEM_MARCH_STAT_result (if pass then 0 else 1)) Fld.CMEM_MARCH_STAT_reason 0
  let d := st (st d Fld.CMEM_MARCH_STAT_element (if pass || kind != 0 then 0 else element))
    Fld.CMEM_MARCH_STAT_row (if pass || kind != 0 then 0 else row)
  if kind = 0 then fset d Reg.CMEM_MARCH_CNT [site] Fld.CMEM_MARCH_CNT_fail_words failWords
  else fset d Reg.CMEM_MARCH_CNT [site] Fld.CMEM_MARCH_CNT_poisoned poisonedW

/-- The bank of a march that failed is fenced, with the class C1 event (R182). -/
def Dev.marchFenced (d : Dev) (site b : Nat) : Dev :=
  report (fset d Reg.CMEM_BANK [site, b] Fld.CMEM_BANK_state 6)
    { source := 0x22, unit := unitSite site, sub := b, part := partOfCore d (siteLogical d site) }

theorem marchFenced_spec (d : Dev) (site b : Nat) :
    (d.marchFenced site b).cmem = d.cmem ∧ (d.marchFenced site b).wq = d.wq ∧
      (d.marchFenced site b).reports.length = d.reports.length + 1 ∧ bankState (d.marchFenced site b) site b = 6 ∧
      ∀ f, fget (d.marchFenced site b) Reg.CMEM_MARCH_STAT [site] f = fget d Reg.CMEM_MARCH_STAT [site] f :=
  ⟨rfl, rfl, List.length_append, bankState_setState .., fun _ => fget_fset_other _ _ _ _ _ _ _ _ (march_stat_key_ne_bank _ _)⟩

/-- A march that ends, before its bank is fenced where it failed. -/
def Dev.marchEnded (d : Dev) (site : Nat) (m : March) (pass : Bool) (element row failWords poisonedW : Nat) : Dev :=
  ((d.marchOver site m.bank).zeroedIf (m.kind = 0) site m.bank).marchNoted site m.kind pass element row failWords poisonedW

theorem marchDone_running {d : Dev} {site : Nat} {m : March} (running : (Sparse.get {} d.cmem site).march = some m)
    (pass : Bool) (element row failWords poisonedW : Nat) :
    marchDone d site pass element row failWords poisonedW =
      if pass then d.marchEnded site m pass element row failWords poisonedW
      else (d.marchEnded site m pass element row failWords poisonedW).marchFenced site m.bank := by
  simp only [marchDone, running, Dev.marchEnded, Dev.marchNoted, Dev.marchFenced, Dev.zeroedIf, Dev.marchOver]

section
variable (d : Dev) (site kind : Nat) (pass : Bool) (element row failWords poisonedW : Nat)

theorem marchNoted_frame :
    (d.marchNoted site kind pass element row failWords poisonedW).wq = d.wq ∧
      (d.marchNoted site kind pass element row failWords poisonedW).reports = d.reports ∧
      (d.marchNoted site kind pass element row failWords poisonedW).cmem = d.cmem := by
  unfold Dev.marchNoted
  dsimp only
  split
  · exact ⟨rfl, rfl, rfl⟩
  · exact ⟨rfl, rfl, rfl⟩

theorem fget_marchNoted_result :
    fget (d.marchNoted site kind pass element row failWords poisonedW) Reg.CMEM_MARCH_STAT [site]
      Fld.CMEM_MARCH_STAT_result = if pass then 0 else 1 := by
  unfold Dev.marchNoted
  dsimp only
  split
  all_goals
    rw [fget_fset_other _ _ _ _ _ _ _ _ (march_cnt_key_ne_stat site).symm]
    simp (disch := decide) only [fget_fset_same, fget_fset_field]
    cases pass <;> rfl

theorem bankState_marchNoted (b : Nat) :
    bankState (d.marchNoted site kind pass element row failWords poisonedW) site b = bankState d site b := by
  unfold Dev.marchNoted bankState
  dsimp only
  split
  all_goals
    rw [fget_fset_other _ _ _ _ _ _ _ _ (march_cnt_key_ne_bank site b).symm]
    simp only [fget_fset_other _ _ _ _ _ _ _ _ (march_stat_key_ne_bank site b).symm]

end

section
variable {s : State} {site : Fin 36} {m : March} (running : (Sparse.get {} s.dev.cmem site.val).march = some m)
  {element : BitVec 3} {row : BitVec 13} {failWords poisonedW : BitVec 16} {ended : Dev}
include running

/-- A march that passes leaves its bank as it is (R182). -/
theorem exec_marchDone_passed (ends : ended = s.dev.rest.marchEnded site.val m true element.toNat row.toNat failWords.toNat
      poisonedW.toNat) :
    exec (.marchDone site true element row failWords poisonedW) s = .next (s.settle ended) := by
  have ending := marchDone_running (d := s.dev.rest) running true element.toNat row.toNat failWords.toNat poisonedW.toNat
  rw [if_pos rfl, ← ends] at ending
  exact run_settle (f := fun _ d => marchDone d site.val true element.toNat row.toNat failWords.toNat poisonedW.toNat) ending

/-- A march that fails has its bank fenced (R182). -/
theorem exec_marchDone_failed (ends : ended = s.dev.rest.marchEnded site.val m false element.toNat row.toNat failWords.toNat
      poisonedW.toNat) :
    exec (.marchDone site false element row failWords poisonedW) s =
      .next (s.settle (ended.marchFenced site.val m.bank)) := by
  have ending := marchDone_running (d := s.dev.rest) running false element.toNat row.toNat failWords.toNat poisonedW.toNat
  rw [if_neg Bool.false_ne_true, ← ends] at ending
  exact run_settle (f := fun _ d => marchDone d site.val false element.toNat row.toNat failWords.toNat poisonedW.toNat) ending

end

/-- What the end of a march leaves, before its bank is fenced where it failed. -/
theorem marchEnded_spec {d ended : Dev} {site : Nat} {m : March} {pass : Bool} {element row failWords poisonedW : Nat}
    (ends : ended = d.marchEnded site m pass element row failWords poisonedW) :
    (Sparse.get {} ended.cmem site).march = none ∧
      fget ended Reg.CMEM_MARCH_STAT [site] Fld.CMEM_MARCH_STAT_result = (if pass then 0 else 1) ∧
      bankState ended site m.bank = bankState d site m.bank ∧ ended.reports = d.reports ∧
      ended.wq = ((d.marchOver site m.bank).zeroedIf (m.kind = 0) site m.bank).wq := by
  obtain ⟨wq, reports, cmem⟩ := marchNoted_frame ((d.marchOver site m.bank).zeroedIf (m.kind = 0) site m.bank) site m.kind
    pass element row failWords poisonedW
  subst ends
  refine ⟨?_, fget_marchNoted_result .., ?_, ?_, wq⟩
  · rw [Dev.marchEnded, cmem, zeroedIf_cmem]
    exact congrArg Cmem.march (Sparse.get_set_same ..)
  · exact (bankState_marchNoted ..).trans ((fget_congr (zeroedIf_regs ..) ..).trans (bankState_setMarch ..))
  · rw [Dev.marchEnded, reports, zeroedIf_reports, Dev.marchOver, fset_reports]

end Sys2Proof.Machine
end

section
/-!
SETTLED. The core memory family, banks: the map of a core, modes and transitions, the scrubber and the march (O26).
-/
namespace Sys2Proof.Machine

/-- Settles O26: each clause is one path of its command. -/
theorem bankStatesScrubAndMarch : Obligations.BankStatesScrubAndMarch := by
  refine ⟨fun s p site data notPort => ?_, fun s p site bank data notPort notSpare => ?_,
    fun s site bank auto on tolerated => ?_, fun s site bank => ?_,
    fun s site bank row w enabled on inBank inRow clean => ?_, fun s p site data notPort go => ?_,
    fun s site pass element row failed skipped m running fits => ?_⟩
  · have runs := exec_cmemMapWrite_of_no_port notPort s site data
    cases quiet : siteQuiet s.dev site.val
    · rw [quiet, if_neg Bool.false_ne_true] at runs
      exact ⟨_, runs, rfl, fun _ _ => rfl, fun h => Bool.noConfusion h, fun _ => ⟨rfl, List.length_append⟩⟩
    · rw [quiet, if_pos rfl] at runs
      exact ⟨_, runs, rfl, keepsRegs_wrReg s.dev.rest _ _ _, fun _ => ⟨rfl, rdReg_wrReg_same ..⟩,
        fun h => Bool.noConfusion h⟩
  · intro m st goal bad
    have runs := exec_bankModeWrite_of_no_port notPort s site bank data
    by_cases isBad : bad
    · rw [bankModeWrite_discarded (d := s.dev.rest) notPort notSpare isBad] at runs
      exact ⟨_, runs, rfl, fun _ _ => rfl, fun _ => ⟨rfl, List.length_append⟩, fun good => absurd isBad good⟩
    · obtain ⟨state, mode, keeps, wq, reports⟩ := bankModeWrite_stored_spec (d := s.dev.rest) notPort notSpare isBad
      exact ⟨_, runs, settle_mem_of_quiet s wq, keeps, fun h => absurd h isBad,
        fun _ => ⟨reports, mode, state.trans (ite_beginState st goal)⟩⟩
  · exact ⟨_, exec_bankAutoIdle_on auto on tolerated, rfl, bankState_setState .., target_aimed ..⟩
  · intro goal cells moving named
    obtain ⟨done, state, mode⟩ := bankTransitionDone_settled (d := s.dev.rest) rfl moving named
    refine ⟨_, run_settle (f := fun _ d => bankTransitionDone d site.val bank.val) rfl, state, mode, fun k => ?_⟩
    exact settle_byte_zeroedIf s rfl (congrArg Dev.wq done) k
  · exact ⟨_, exec_cmemScrubAccess_single enabled on inBank inRow clean, rfl, rfl, keepsRegs_fset s.dev.rest _ _ _ _,
      List.length_append, (fget_fincSat_same _ _ _ _ _ (by decide) (by decide)).trans (Nat.min_comm ..)⟩
  · intro b kind why
    have runs := exec_cmemMarchCtlGo_of_no_port notPort s site data
    have bankFits : b < 2 ^ 6 := Fld.get_lt ..
    by_cases accepted : why = 0
    · obtain ⟨reason, bank, march⟩ := fget_marchStarted s.dev.rest site.val kind bankFits
      rw [marchCtlWrite_started (d := s.dev.rest) (b := b) (kind := kind) notPort go rfl rfl accepted] at runs
      exact ⟨_, runs, settle_mem_of_quiet s rfl, (fget_settle ..).trans (reason.trans accepted.symm),
        (fget_settle ..).trans bank, fun h => absurd accepted h,
        fun _ => ⟨by rw [settle_cmem, march_marchStarted], (fbit_settle ..).trans march⟩⟩
    · obtain ⟨reason, bank, result⟩ := fget_marchRefused s.dev.rest site.val (b := b) (why := why) bankFits
        (Nat.lt_of_le_of_lt (marchReason_le ..) (by decide))
      rw [marchCtlWrite_refused (d := s.dev.rest) (b := b) (kind := kind) (why := why) notPort go rfl rfl rfl accepted] at runs
      exact ⟨_, runs, settle_mem_of_quiet s rfl, (fget_settle ..).trans reason, (fget_settle ..).trans bank,
        fun _ => ⟨(settle_cmem ..).trans (marchRefused_cmem ..), (fget_settle ..).trans result⟩,
        fun h => absurd h accepted⟩
  · intro cells
    obtain ⟨ended, ends⟩ : ∃ d, d = s.dev.rest.marchEnded site.val m pass element.toNat row.toNat failed.toNat
      skipped.toNat := ⟨_, rfl⟩
    obtain ⟨idle, result, state, reports, wq⟩ := marchEnded_spec ends
    cases pass
    · obtain ⟨cmem, sameWq, reported, fenced, stat⟩ := marchFenced_spec ended site.val m.bank
      refine ⟨_, exec_marchDone_failed running ends, ?_, (stat _).trans result, fenced, ?_,
        settle_byte_zeroedIf s rfl (sameWq.trans wq)⟩
      · rw [settle_cmem, cmem, idle]
      · rw [settle_reports, reported, reports]
        rfl
    · exact ⟨_, exec_marchDone_passed running ends, idle, result, state, congrArg List.length reports,
        settle_byte_zeroedIf s rfl wq⟩

end Sys2Proof.Machine
end

section
/-!
SUPPORT. Operations on sync counters through the SYNC window (R206-R209, Table 6.8).
-/
namespace Sys2Proof.Machine

/-- A path that is not halted is not held back. -/
theorem run_unhalted {s : State} {p : Path} (up : portHalted s.dev p = false) (f : Env → Dev → Dev) :
    s.run (fun e d => if portHalted d p then d else f e d) = s.run f := by
  unfold State.run
  dsimp only
  rw [if_neg (ne_true_of_eq_false (b := portHalted s.dev.rest p) up)]

@[simp] theorem getCtr_setCtr_same (d : Dev) (c : Nat) (x : Ctr) : getCtr (setCtr d c x) c = x := Sparse.get_set_same ..

theorem getCtr_setCtr_other (d : Dev) {c k : Nat} (x : Ctr) (other : k ≠ c) : getCtr (setCtr d c x) k = getCtr d k :=
  Sparse.get_set_other _ _ _ _ other

/-- The counter, the operation and the value that an aligned write names (R207). -/
theorem syncWrite_named {d : Dev} {p : Path} {c op v : Nat} (owns : pathOwns d p (partOfCounter d c) = true)
    (known : op < 4) (fits : v < 2 ^ 32) :
    syncWrite d p (ctrAddr c) 8 (op * 2 ^ 32 + v) =
      if (ctrDo d none c op v).1 then (ctrDo d none c op v).2 else regEvent d p (ctrAddr c) := by
  have counter : (ctrAddr c - 0x3800000) / 8 = c := by unfold ctrAddr; omega
  have high : bits (op * 2 ^ 32 + v) 63 32 = op := by
    simp only [bits, Nat.shiftRight_eq_div_pow]; omega
  have code : bits (op * 2 ^ 32 + v) 34 32 = op := by
    simp only [bits, Nat.shiftRight_eq_div_pow]; omega
  have value : bits (op * 2 ^ 32 + v) 31 0 = v := by
    simp only [bits, Nat.shiftRight_eq_div_pow]; omega
  have aligned : ctrAddr c % 8 = 0 := by unfold ctrAddr; omega
  have accepted : ¬ (8 ≠ 8 ∨ ctrAddr c % 8 ≠ 0 ∨ 4 ≤ op ∨ pathOwns d p (partOfCounter d c) = false) := by
    simp [aligned, owns, known]
  simp only [syncWrite, counter, high, code, value, if_neg accepted]

/-- What a write of the window makes of a counter, and that it leaves the rest (R207, R208). -/
theorem run_syncOp {s : State} {p : Path} {c w op v : Nat} (up : portHalted s.dev p = false)
    (owns : pathOwns s.dev p (partOfCounter s.dev c) = true) (data : w = op * 2 ^ 32 + v) (known : op < 4)
    (fits : v < 2 ^ 32) {y : Option Ctr} (becomes : ctrApply (getCtr s.dev c) none op v = y) :
    ∃ t, s.run (fun _ d => if portHalted d p then d else syncWrite d p (ctrAddr c) 8 w) = .next t ∧ t.mem = s.mem ∧
      t.dev.regs = s.dev.regs ∧ getCtr t.dev c = y.getD (getCtr s.dev c) ∧
      (∀ k, k ≠ c → getCtr t.dev k = getCtr s.dev k) ∧
      t.dev.reports.length = s.dev.reports.length + (if y.isSome then 0 else 1) := by
  have writes := syncWrite_named (d := s.dev.rest) owns known fits
  replace becomes : ctrApply (getCtr s.dev.rest c) none op v = y := becomes
  rw [ctrDo, becomes, ← data] at writes
  rw [run_unhalted up]
  cases y with
  | none => exact ⟨_, run_settle writes, rfl, rfl, rfl, fun _ _ => rfl, List.length_append⟩
  | some x =>
    exact ⟨_, run_settle writes, rfl, rfl, getCtr_setCtr_same .., fun _ other => getCtr_setCtr_other _ _ other, rfl⟩

/-- SET by no stream is refused by any lock. -/
theorem ctrSet_none (x : Ctr) (v : Nat) : ctrSet x none v = if x.holder.isSome then none
    else some { x with value := v, epoch := (x.epoch + 1) % 2 ^ 16, poison := false } := by
  unfold ctrSet
  cases x.holder <;> rfl

/-- An aligned 8-byte read answers the words of the counter (R207). -/
theorem syncRead_word {d : Dev} {p : Path} {c : Nat} (owns : pathOwns d p (partOfCounter d c) = true) :
    syncRead d p (ctrAddr c) 8 = ([low32 (ctrWord (getCtr d c)), high32 (ctrWord (getCtr d c))], d) := by
  have counter : (ctrAddr c - 0x3800000) / 8 = c := by unfold ctrAddr; omega
  have aligned : ctrAddr c % 8 = 0 := by unfold ctrAddr; omega
  simp [syncRead, counter, aligned, owns]

/-- An access of the window by its offset (R14, R207). -/
theorem exec_syncWindowRead (s : State) (p : Path) {c : Nat} (inWindow : c < 2 ^ 16)
    (owns : pathOwns s.dev p (partOfCounter s.dev c) = true) :
    exec (.syncWindowBadAccess p (BitVec.ofNat 19 (8 * c)) 8 none) s = .next (s.settle (emit s.dev.rest
      (.regData p [low32 (ctrWord (getCtr s.dev c)), high32 (ctrWord (getCtr s.dev c))]))) := by
  have offset : 0x3800000 + (BitVec.ofNat 19 (8 * c)).toNat = ctrAddr c := by
    rw [BitVec.toNat_ofNat, ctrAddr]; omega
  change execSyncWindowBadAccess p _ 8 none s = _
  refine run_settle ?_
  dsimp only
  rw [offset, syncRead_word (d := s.dev.rest) owns]
  rfl

/-- A write of another size or alignment is discarded (R207). -/
theorem exec_syncWindowWrite_bad {s : State} {p : Path} (up : portHalted s.dev p = false) {off : BitVec 19} {size : Nat}
    (data : BitVec 64) (bad : size ≠ 8 ∨ off.toNat % 8 ≠ 0) :
    exec (.syncWindowBadAccess p off size (some data)) s =
      .next (s.settle (regEvent s.dev.rest p (0x3800000 + off.toNat))) := by
  have refused : size ≠ 8 ∨ (0x3800000 + off.toNat) % 8 ≠ 0 := bad.imp_right (by omega)
  exact (run_unhalted up fun _ d => syncWrite d p _ size data.toNat).trans (run_settle (if_pos (refused.imp_right Or.inl)))

/-- No operation that leaves the epoch lowers the value, and one that advances it clears the poison (R206, R209). -/
theorem ctrApply_monotone {x y : Ctr} {who : Option Nat} {op v : Nat} (applied : ctrApply x who op v = some y)
    (value : x.value < 2 ^ 32) (epoch : x.epoch < 2 ^ 16) (fits : v < 2 ^ 32) :
    y.value < 2 ^ 32 ∧ y.epoch < 2 ^ 16 ∧ (y.epoch = x.epoch → x.value ≤ y.value) ∧
      (y.epoch ≠ x.epoch → y.poison = false) := by
  unfold ctrApply at applied
  split_ifs at applied
  · unfold ctrAdd at applied
    split_ifs at applied with poisoned large
    · cases applied
      exact ⟨Nat.sub_lt (by decide) (by decide), epoch, fun _ => Nat.le_sub_one_of_lt value, fun moved => absurd rfl moved⟩
    · cases applied
      exact ⟨Nat.not_le.mp large, epoch, fun _ => Nat.le_add_right .., fun moved => absurd rfl moved⟩
  · unfold ctrMax at applied
    split_ifs at applied
    cases applied
    exact ⟨max_lt value fits, epoch, fun _ => Nat.le_max_left .., fun moved => absurd rfl moved⟩
  · unfold ctrSet at applied
    split_ifs at applied
    cases applied
    dsimp only
    exact ⟨fits, by omega, by omega, fun _ => rfl⟩
  · cases applied
    unfold ctrReset
    dsimp only
    exact ⟨by omega, by omega, by omega, fun _ => rfl⟩

end Sys2Proof.Machine
end

section
/-!
SETTLED. The streams and counters family, counters: the operations of the SYNC window (O31).
-/
namespace Sys2Proof.Machine

/-- Settles O31: each operation is a write of the SYNC window that names it, and no operation lowers a value in an epoch. -/
theorem counterOperations : Obligations.CounterOperations := by
  refine ⟨fun s p c v up owns => ?_, fun x y who op v => ctrApply_monotone⟩
  refine ⟨?_, ?_, ?_, ?_, ?_, fun off size data bad => ?_⟩
  · exact run_syncOp (op := 0) up owns (by omega) (by decide) v.isLt rfl
  · exact run_syncOp (op := 1) up owns (by omega) (by decide) v.isLt rfl
  · exact run_syncOp (op := 2) up owns rfl (by decide) v.isLt (ctrSet_none ..)
  · exact run_syncOp (op := 3) (v := 0) up owns rfl (by decide) (by decide) rfl
  · exact ⟨_, exec_syncWindowRead s p c.isLt owns, rfl, rfl, rfl, rfl⟩
  · exact ⟨_, exec_syncWindowWrite_bad up data bad, rfl, rfl, List.length_append⟩

end Sys2Proof.Machine
end

section
/-!
SUPPORT. Sparse tables: keys that are not listed.
-/
namespace Sys2Proof.Sparse

theorem find_eq_none {α : Type} {m : Map α} {i : Nat} (unlisted : i ∉ m.map (·.1)) : find m i = none := by
  induction m with
  | nil => rfl
  | cons e m ih =>
    obtain ⟨k, v⟩ := e
    rw [List.map_cons, List.mem_cons, not_or] at unlisted
    rw [find, if_neg (Ne.symm unlisted.1), ih unlisted.2]

end Sys2Proof.Sparse
end

section
/-!
SUPPORT. The registers of one stream (Tables 6.12 to 6.18): each stands at a place of its own.
-/
namespace Sys2Proof.Machine

/-- Registers of one layout stand apart where their first places do. -/
theorem RegDesc.key_ne_of_base {q r : RegDesc} (dims : q.dims = r.dims) (base : q.base ≠ r.base) (ix : List Nat) :
    q.key ix ≠ r.key ix := by
  unfold RegDesc.key
  rw [dims]
  omega

section
variable {d : Dev} {q r : RegDesc} (dims : q.dims = r.dims) (base : q.base ≠ r.base) (ix : List Nat)
include dims base

theorem rdReg_wrReg_base (w : Word) : rdReg (wrReg d r ix w) q ix = rdReg d q ix :=
  rdReg_wrReg_other _ _ _ _ _ _ (RegDesc.key_ne_of_base dims base ix)

theorem fget_wrReg_base (w : Word) (g : Fld) : fget (wrReg d r ix w) q ix g = fget d q ix g :=
  fget_wrReg_other _ _ _ _ _ _ _ (RegDesc.key_ne_of_base dims base ix)

theorem rdReg_fset_base (f : Fld) (v : Nat) : rdReg (fset d r ix f v) q ix = rdReg d q ix :=
  rdReg_fset_other _ _ _ _ _ _ _ (RegDesc.key_ne_of_base dims base ix)

theorem fget_fset_base (f g : Fld) (v : Nat) : fget (fset d r ix f v) q ix g = fget d q ix g :=
  fget_fset_other _ _ _ _ _ _ _ _ (RegDesc.key_ne_of_base dims base ix)

end

theorem cnt_setCnt_same (d : Dev) (st : Nat) (r : RegDesc) (n : Nat) : cnt (setCnt d st r n) st r = n % 2 ^ 32 := by
  rw [cnt, setCnt, rdReg_wrReg_same, low32, BitVec.toNat_ofNat]

/-- A count stays where another register of the stream is written. -/
theorem cnt_setCnt_base {q r : RegDesc} (dims : q.dims = r.dims) (base : q.base ≠ r.base) (d : Dev) (st n : Nat) :
    cnt (setCnt d st r n) st q = cnt d st q := congrArg BitVec.toNat (rdReg_wrReg_base dims base ..)

theorem cnt_fset_base {q r : RegDesc} (dims : q.dims = r.dims) (base : q.base ≠ r.base) (d : Dev) (st : Nat) (f : Fld)
    (v : Nat) : cnt (fset d r [st] f v) st q = cnt d st q := congrArg BitVec.toNat (rdReg_fset_base dims base ..)

theorem cnt_lt (d : Dev) (st : Nat) (r : RegDesc) : cnt d st r < 2 ^ 32 := (rdReg d r [st]).isLt

/-- A field that software writes holds what was last written (R9). -/
theorem Fld.get_afterWrite_rw {r : RegDesc} (listed : r ∈ Reg.table) {f : Fld} (field : f ∈ r.fields) (rw_ : f.acc = .rw)
    (inWord : f.hi < 32) (locked : Bool) (old new : Word) : f.get (r.afterWrite locked old new) = f.get new := by
  apply Nat.eq_of_testBit_eq
  intro i
  rw [Fld.get_testBit, Fld.get_testBit]
  by_cases inside : i < f.hi + 1 - f.lo
  · have holds : f.Holds (f.lo + i) := ⟨by omega, by omega⟩
    have acc (a : Access) := accMask_getLsbD_of_holds listed field (by omega) holds a
    rw [afterWrite_getLsbD r locked old new (by omega)]
    simp [acc, rw_]
  · simp [inside]

theorem Fld.put_put (f : Fld) (ordered : f.lo ≤ f.hi) (w : Word) (u v : Nat) : f.put (f.put w u) v = f.put w v := by
  apply BitVec.eq_of_getLsbD_eq
  intro i inWord
  rw [Fld.put_getLsbD f _ v ordered i inWord, Fld.put_getLsbD f _ v ordered i inWord, Fld.put_getLsbD f _ u ordered i inWord]
  split_ifs <;> rfl

/-! What a command leaves is what its effect makes. -/

section
variable (s : State) (d : Dev) (st : Nat)

theorem cnt_settle (r : RegDesc) : cnt (s.settle d).dev st r = cnt d st r := rfl
theorem strmState_settle : strmState (s.settle d).dev st = strmState d st := rfl
theorem strmOn_settle : strmOn (s.settle d).dev st = strmOn d st := rfl
theorem getStrm_settle : getStrm (s.settle d).dev st = getStrm d st := rfl
theorem getCtr_settle (c : Nat) : getCtr (s.settle d).dev c = getCtr d c := rfl

end

/-! The hidden state of a stream. -/

@[simp] theorem getStrm_setStrm_same (d : Dev) (st : Nat) (x : Strm) : getStrm (setStrm d st x) st = x :=
  Sparse.get_set_same ..

theorem getStrm_congr {d d' : Dev} (same : d'.strm = d.strm) (st : Nat) : getStrm d' st = getStrm d st := by
  unfold getStrm; rw [same]

theorem getStrm_pushRec (d : Dev) (st : Nat) (c : CRec) :
    getStrm (pushRec d st c) st = { getStrm d st with recs := (getStrm d st).recs ++ [c] } := Sparse.get_set_same ..

/-! Locks. -/

/-- A change of the device that touches nothing but the sync counters. -/
def ctrOnly (d d' : Dev) : Prop := d' = { d with ctr := d'.ctr }

theorem setCtr_ctrOnly (d : Dev) (c : Nat) (x : Ctr) : ctrOnly d (setCtr d c x) := rfl

theorem ctrOnly_trans {a b c : Dev} (h : ctrOnly a b) (k : ctrOnly b c) : ctrOnly a c := by
  unfold ctrOnly at *
  rw [k, h]

/-- A counter after a stream's lock and waits are taken from it (R211). -/
def Ctr.freedFrom (x : Ctr) (st : Nat) : Ctr :=
  let x := { x with waiters := x.waiters.filter (· != st) }
  if x.holder = some st then { x with holder := none, poison := true } else x

theorem holder_freedFrom (x : Ctr) (st : Nat) : (x.freedFrom st).holder ≠ some st := by
  unfold Ctr.freedFrom
  dsimp only
  split
  · exact nofun
  · assumption

/-- The stream's locks and waits are taken from each of the listed counters. -/
def freeCtrs (st : Nat) (cs : List Nat) (d : Dev) : Dev :=
  cs.foldl (fun d c => setCtr d c ((getCtr d c).freedFrom st)) d

theorem breakLocks_eq (d : Dev) (st : Nat) : breakLocks d st = freeCtrs st (d.ctr.map (·.1)) d := rfl

theorem freeCtrs_ctrOnly (st : Nat) (cs : List Nat) (d : Dev) : ctrOnly d (freeCtrs st cs d) := by
  induction cs generalizing d with
  | nil => rfl
  | cons c cs ih => exact ctrOnly_trans (setCtr_ctrOnly ..) (ih _)

theorem breakLocks_ctrOnly (d : Dev) (st : Nat) : ctrOnly d (breakLocks d st) := freeCtrs_ctrOnly ..

theorem holder_freeCtrs {st c : Nat} {cs : List Nat} {d : Dev} (free : c ∈ cs ∨ (getCtr d c).holder ≠ some st) :
    (getCtr (freeCtrs st cs d) c).holder ≠ some st := by
  induction cs generalizing d with
  | nil => exact free.resolve_left List.not_mem_nil
  | cons k cs ih =>
    refine ih (d := setCtr d k ((getCtr d k).freedFrom st)) ?_
    by_cases here : c = k
    · subst here
      rw [getCtr_setCtr_same]
      exact .inr (holder_freedFrom _ _)
    · rw [getCtr_setCtr_other _ _ here]
      exact free.imp_left fun listed => (List.mem_cons.mp listed).resolve_left here

/-- A counter that is not listed is as at reset. -/
theorem getCtr_of_not_listed {d : Dev} {c : Nat} (unlisted : c ∉ d.ctr.map (·.1)) : getCtr d c = {} := by
  rw [getCtr, Sparse.get, Sparse.find_eq_none unlisted]
  rfl

/-- A stream whose locks are broken holds none (R211). -/
theorem holder_breakLocks (d : Dev) (st c : Nat) : (getCtr (breakLocks d st) c).holder ≠ some st := by
  rw [breakLocks_eq]
  refine holder_freeCtrs (or_iff_not_imp_left.mpr fun unlisted => ?_)
  rw [getCtr_of_not_listed unlisted]
  exact nofun

end Sys2Proof.Machine
end

section
/-!
SUPPORT. How a stream enters the state that a change ends in (R186, R200, R201), once no record of it waits.
-/
namespace Sys2Proof.Machine

section
variable {d d' : Dev} (h : ctrOnly d d')
include h

theorem ctrOnly.regs : d'.regs = d.regs := by unfold ctrOnly at h; rw [h]
theorem ctrOnly.strm : d'.strm = d.strm := by unfold ctrOnly at h; rw [h]
theorem ctrOnly.wq : d'.wq = d.wq := by unfold ctrOnly at h; rw [h]
theorem ctrOnly.out : d'.out = d.out := by unfold ctrOnly at h; rw [h]

end

/-- A vector is signalled, as a message or as a pending bit, and nothing else changes (R454). -/
theorem strmVector_spec (d : Dev) (st : Nat) :
    ∃ m os, strmVector d st = { d with msix := m, out := d.out ++ os } := by
  have same : ∃ m os, d = { d with msix := m, out := d.out ++ os } := ⟨d.msix, [], by rw [List.append_nil]⟩
  unfold strmVector signalVector
  dsimp only
  split
  · split
    · exact ⟨_, [], by rw [List.append_nil]; rfl⟩
    · exact ⟨d.msix, _, rfl⟩
  · exact same

/-- A stream enters a state, and its vector is signalled. -/
def Dev.entered (d : Dev) (st g : Nat) : Dev :=
  strmVector (setStrmState (setStrm d st { getStrm d st with goal := none }) st g) st

section
variable (d : Dev) (st g : Nat)

theorem entered_spec : ∃ m os, d.entered st g =
    { setStrmState (setStrm d st { getStrm d st with goal := none }) st g with msix := m, out := d.out ++ os } :=
  strmVector_spec ..

theorem entered_regs : (d.entered st g).regs = (setStrmState d st g).regs := by
  obtain ⟨m, os, eq⟩ := entered_spec d st g
  rw [eq]
  rfl

theorem entered_wq : (d.entered st g).wq = d.wq := by
  obtain ⟨m, os, eq⟩ := entered_spec d st g
  rw [eq]
  rfl

theorem entered_ctr : (d.entered st g).ctr = d.ctr := by
  obtain ⟨m, os, eq⟩ := entered_spec d st g
  rw [eq]
  rfl

theorem getStrm_entered : getStrm (d.entered st g) st = { getStrm d st with goal := none } := by
  obtain ⟨m, os, eq⟩ := entered_spec d st g
  rw [eq]
  exact getStrm_setStrm_same ..

theorem entered_out : d.out ⊆ (d.entered st g).out := by
  obtain ⟨m, os, eq⟩ := entered_spec d st g
  rw [eq]
  exact List.subset_append_left ..

/-- A stream that is OFF has its context registers, its hidden state and its locks as at reset (R186). -/
theorem strmOff_regs : (strmOff d st).regs = (fset (fset (setStrmState d st 0) Reg.HUB_STRM_CFG [st]
    Fld.HUB_STRM_CFG_enable 0) Reg.HUB_STRM_STAT [st] Fld.HUB_STRM_STAT_abort_pend 0).regs :=
  (breakLocks_ctrOnly ..).regs

theorem strmOff_wq : (strmOff d st).wq = d.wq := (breakLocks_ctrOnly ..).wq

theorem strmOff_out : (strmOff d st).out = d.out := (breakLocks_ctrOnly ..).out

theorem getStrm_strmOff : getStrm (strmOff d st) st = { doorbell := (getStrm d st).doorbell } := getStrm_setStrm_same ..

theorem holder_strmOff (c : Nat) : (getCtr (strmOff d st) c).holder ≠ some st := holder_breakLocks _ st c

theorem strmState_strmOff : strmState (strmOff d st) st = 0 := by
  rw [strmState, fget_congr (strmOff_regs d st), fget_fset_field _ _ _ _ _ _ (by decide) (by decide) (by decide),
    fget_fset_base (by decide) (by decide)]
  exact fget_fset_same _ _ _ _ _ (by decide) (by decide)

theorem strmOn_strmOff : strmOn (strmOff d st) st = false := by
  rw [strmOn, strmCfg, fget_congr (strmOff_regs d st), fget_fset_base (by decide) (by decide),
    fget_fset_same _ _ _ _ _ (by decide) (by decide)]
  rfl

end

section
variable {d : Dev} {st : Nat}

theorem reachGoal_no_goal (noGoal : (getStrm d st).goal = none) : reachGoal d st = d := by
  simp [reachGoal, noGoal]

theorem reachGoal_waits (waits : (getStrm d st).recs ≠ []) : reachGoal d st = d := by
  unfold reachGoal
  dsimp only
  split
  · rfl
  · simp [waits]

theorem reachGoal_enters {g : Nat} (goal : (getStrm d st).goal = some g) (written : (getStrm d st).recs = []) :
    reachGoal d st = if (getStrm d st).disabling then strmOff (d.entered st g) st else d.entered st g := by
  simp [reachGoal, goal, written, Dev.entered]

/-- A stream is as it was, or enters its goal and may then be taken out of service. -/
theorem reachGoal_cases (d : Dev) (st : Nat) : reachGoal d st = d ∨ ((getStrm d st).recs = [] ∧
    ∃ g, reachGoal d st = d.entered st g ∨ reachGoal d st = strmOff (d.entered st g) st) := by
  cases goal : (getStrm d st).goal with
  | none => exact .inl (reachGoal_no_goal goal)
  | some g =>
    by_cases written : (getStrm d st).recs = []
    · refine .inr ⟨written, g, ?_⟩
      rw [reachGoal_enters goal written]
      cases (getStrm d st).disabling
      · exact .inl rfl
      · exact .inr rfl
    · exact .inl (reachGoal_waits written)

end

section
variable (d : Dev) (st : Nat)

theorem reachGoal_wq : (reachGoal d st).wq = d.wq := by
  rcases reachGoal_cases d st with same | ⟨-, g, enters | off⟩
  · rw [same]
  · rw [enters, entered_wq]
  · rw [off, strmOff_wq, entered_wq]

theorem reachGoal_out : d.out ⊆ (reachGoal d st).out := by
  rcases reachGoal_cases d st with same | ⟨-, g, enters | off⟩
  · rw [same]
    exact List.Subset.refl _
  · rw [enters]
    exact entered_out ..
  · rw [off, strmOff_out]
    exact entered_out ..

/-- The hidden state of a stream is as it was, has its goal forgotten, or is as at reset but for its doorbells. -/
theorem getStrm_reachGoal : getStrm (reachGoal d st) st = getStrm d st ∨ ((getStrm d st).recs = [] ∧
    (getStrm (reachGoal d st) st = { getStrm d st with goal := none } ∨
      getStrm (reachGoal d st) st = { doorbell := (getStrm d st).doorbell })) := by
  rcases reachGoal_cases d st with same | ⟨written, g, enters | off⟩
  · exact .inl (by rw [same])
  · exact .inr ⟨written, .inl (by rw [enters, getStrm_entered])⟩
  · exact .inr ⟨written, .inr (by rw [off, getStrm_strmOff, getStrm_entered])⟩

theorem recs_reachGoal : (getStrm (reachGoal d st) st).recs = (getStrm d st).recs := by
  rcases getStrm_reachGoal d st with same | ⟨written, same | reset⟩
  · rw [same]
  · rw [same]
  · rw [reset, written]

theorem cnt_reachGoal {q : RegDesc} (dims : q.dims = Reg.HUB_STRM_STAT.dims) (notStat : q.base ≠ Reg.HUB_STRM_STAT.base)
    (notCfg : q.base ≠ Reg.HUB_STRM_CFG.base) : cnt (reachGoal d st) st q = cnt d st q := by
  have entered (g : Nat) : rdReg (d.entered st g) q [st] = rdReg d q [st] := by
    rw [rdReg, entered_regs]
    exact rdReg_fset_base dims notStat ..
  unfold cnt
  rcases reachGoal_cases d st with same | ⟨-, g, enters | off⟩
  · rw [same]
  · rw [enters, entered]
  · rw [off, ← entered g, rdReg, strmOff_regs]
    change (rdReg (fset (fset (setStrmState _ _ _) _ _ _ _) _ _ _ _) q [st]).toNat = _
    rw [rdReg_fset_base dims notStat, rdReg_fset_base (r := Reg.HUB_STRM_CFG) dims notCfg, setStrmState,
      rdReg_fset_base dims notStat]

/-- A field of the status register other than the state and the pending abort stays. -/
theorem fget_stat_reachGoal {f : Fld} (inWord : f.hi < 32)
    (notState : f.hi < Fld.HUB_STRM_STAT_state.lo ∨ Fld.HUB_STRM_STAT_state.hi < f.lo)
    (notPend : f.hi < Fld.HUB_STRM_STAT_abort_pend.lo ∨ Fld.HUB_STRM_STAT_abort_pend.hi < f.lo) :
    fget (reachGoal d st) Reg.HUB_STRM_STAT [st] f = fget d Reg.HUB_STRM_STAT [st] f := by
  have entered (g : Nat) : fget (d.entered st g) Reg.HUB_STRM_STAT [st] f = fget d Reg.HUB_STRM_STAT [st] f :=
    (fget_congr (entered_regs ..) ..).trans (fget_fset_field _ _ _ _ _ _ (by decide) inWord notState)
  rcases reachGoal_cases d st with same | ⟨-, g, enters | off⟩
  · rw [same]
  · rw [enters, entered]
  · rw [off, ← entered g, fget_congr (strmOff_regs ..), fget_fset_field _ _ _ _ _ _ (by decide) inWord notPend,
      fget_fset_base (by decide) (by decide), setStrmState, fget_fset_field _ _ _ _ _ _ (by decide) inWord notState]

variable {d st} in
theorem holder_reachGoal (free : ∀ c, (getCtr d c).holder ≠ some st) (c : Nat) :
    (getCtr (reachGoal d st) c).holder ≠ some st := by
  rcases reachGoal_cases d st with same | ⟨-, g, enters | off⟩
  · rw [same]
    exact free c
  · rw [enters, getCtr_congr (entered_ctr ..)]
    exact free c
  · rw [off]
    exact holder_strmOff _ _ c

end

end Sys2Proof.Machine
end

section
/-!
SUPPORT. What a stream leaves when it stops, is disabled or is lost (R186, R201, R216).
-/
namespace Sys2Proof.Machine

theorem strmState_setStrmState (d : Dev) (st n : Nat) : strmState (setStrmState d st n) st = n % 8 :=
  fget_fset_same _ _ _ _ _ (by decide) (by decide)

/-- The state that a stop ends in is STOPPED (R201). -/
def Strm.toStopped (x : Strm) : Strm := { x with stopping := false, goal := some 2, replay := [], recov := [] }

/-- The state that a loss ends in is LOST (R216). -/
def Strm.toLost (x : Strm) : Strm := { x with stopping := false, goal := some 4, replay := [] }

/-- A stream with nothing left to flush: its pending abort is answered, its locks are broken, and it goes on to a state. -/
def Dev.windUp (d : Dev) (st : Nat) (next : Strm → Strm) : Dev :=
  let d := breakLocks (settleAbort d st) st
  reachGoal (setStrm d st (next (getStrm d st))) st

/-- The hidden state of a stream whose pending abort is answered. -/
def Strm.answered (x : Strm) (rs : List CRec) : Strm := { x with recs := rs, abort := none, taken := false }

/-- The result of a pending abort is one more record; the abort is then forgotten (R202). -/
theorem settleAbort_spec (d : Dev) (st : Nat) : ∃ rs, ((getStrm d st).abort = none → rs = (getStrm d st).recs) ∧
    getStrm (settleAbort d st) st = (getStrm d st).answered rs ∧
    (settleAbort d st).regs = (fset d Reg.HUB_STRM_STAT [st] Fld.HUB_STRM_STAT_abort_pend 0).regs ∧
    (settleAbort d st).wq = d.wq := by
  cases abort : (getStrm d st).abort with
  | none =>
    simp only [settleAbort, abort]
    exact ⟨_, fun _ => rfl, getStrm_setStrm_same .., rfl, rfl⟩
  | some a =>
    simp only [settleAbort, abort, getStrm_pushRec]
    exact ⟨_, nofun, getStrm_setStrm_same .., rfl, rfl⟩

theorem windUp_spec (d : Dev) (st : Nat) (next : Strm → Strm) : ∃ rs d',
    ((getStrm d st).abort = none → rs = (getStrm d st).recs) ∧ d.windUp st next = reachGoal d' st ∧
    getStrm d' st = next ((getStrm d st).answered rs) ∧
    d'.regs = (fset d Reg.HUB_STRM_STAT [st] Fld.HUB_STRM_STAT_abort_pend 0).regs ∧ d'.wq = d.wq ∧
    ∀ c, (getCtr d' c).holder ≠ some st := by
  obtain ⟨rs, same, strm, regs, wq⟩ := settleAbort_spec d st
  have locks := breakLocks_ctrOnly (settleAbort d st) st
  refine ⟨rs, _, same, rfl, (getStrm_setStrm_same ..).trans ?_, locks.regs.trans regs, locks.wq.trans wq,
    fun c => holder_breakLocks _ st c⟩
  rw [getStrm_congr locks.strm, strm]

theorem stopStream_eq (d : Dev) (st : Nat) : stopStream d st =
    (flushDescs st 0x81 (getStrm d st).held (setStrm d st { getStrm d st with held := [] })).windUp st Strm.toStopped := rfl

section
variable {d : Dev} {st : Nat}

/-- A stream with nothing uncommitted goes back to its commit count (R216). -/
def Dev.refetched (d : Dev) (st : Nat) : Dev :=
  setCnt (setStrm d st { getStrm d st with held := [], recov := [] }) st Reg.HUB_STRM_FETCH (cnt d st Reg.HUB_STRM_COMMIT)

theorem getStrm_refetched : getStrm (d.refetched st) st = { getStrm d st with held := [], recov := [] } :=
  getStrm_setStrm_same ..

theorem loseStream_idle (held : (getStrm d st).held = []) (recov : (getStrm d st).recov = []) :
    loseStream d st = (d.refetched st).windUp st Strm.toLost := by
  simp only [loseStream, held, recov, List.append_nil, flushDescs]
  rfl

/-- A stream without a site that holds nothing and has no record waiting is LOST at once (R216). -/
theorem loseStream_idle_spec (held : (getStrm d st).held = []) (recov : (getStrm d st).recov = [])
    (recs : (getStrm d st).recs = []) (abort : (getStrm d st).abort = none) (enabled : (getStrm d st).disabling = false) :
    strmState (loseStream d st) st = 4 ∧ (loseStream d st).wq = d.wq ∧
      cnt (loseStream d st) st Reg.HUB_STRM_FETCH = cnt d st Reg.HUB_STRM_COMMIT ∧
      ∀ c, (getCtr (loseStream d st) c).holder ≠ some st := by
  obtain ⟨rs, d', same, winds, strm, regs, wq, free⟩ := windUp_spec (d.refetched st) st Strm.toLost
  rw [getStrm_refetched] at same strm
  obtain rfl := (same abort).trans recs
  have lost : loseStream d st = d'.entered st 4 := by
    rw [loseStream_idle held recov, winds, reachGoal_enters (g := 4) (by rw [strm]; rfl) (by rw [strm]; rfl), strm]
    exact if_neg (ne_true_of_eq_false enabled)
  rw [lost]
  refine ⟨?_, (entered_wq ..).trans wq, ?_, fun c => ?_⟩
  · exact (fget_congr (entered_regs ..) ..).trans (fget_fset_same _ _ _ _ _ (by decide) (by decide))
  · have counts : rdReg (d'.entered st 4) Reg.HUB_STRM_FETCH [st] = rdReg (d.refetched st) Reg.HUB_STRM_FETCH [st] := by
      rw [rdReg, entered_regs]
      refine (rdReg_fset_base (by decide) (by decide) ..).trans ?_
      rw [rdReg, regs]
      exact rdReg_fset_base (by decide) (by decide) ..
    rw [cnt, counts]
    exact (cnt_setCnt_same ..).trans (Nat.mod_eq_of_lt (cnt_lt ..))
  · rw [getCtr_congr (entered_ctr ..)]
    exact free c

/-- A stream that runs with nothing submitted beyond its commits and nothing waiting is OFF at once (R186). -/
theorem disableStream_idle (e : Env) (runs : strmState d st = 1)
    (drained : cnt d st Reg.HUB_STRM_TAIL = cnt d st Reg.HUB_STRM_COMMIT) (held : (getStrm d st).held = [])
    (recs : (getStrm d st).recs = []) (abort : (getStrm d st).abort = none) (goal : (getStrm d st).goal = none)
    (stopping : (getStrm d st).stopping = false) :
    ∃ d', disableStream e d st = strmOff d' st ∧ d'.wq = d.wq := by
  obtain ⟨x, clearing⟩ : ∃ x, x = { getStrm d st with disabling := true, halt := 0 } := ⟨_, rfl⟩
  have stops : disableStream e d st = stopStream (setStrm d st x) st := by
    subst clearing
    unfold disableStream
    simp only [goal, stopping, runs]
    exact if_pos drained
  have holds : (getStrm (setStrm d st x) st).held = [] := by rw [getStrm_setStrm_same, clearing, held]
  rw [stops, stopStream_eq, holds, flushDescs, getStrm_setStrm_same]
  obtain ⟨rs, d', same, winds, strm, regs, wq, free⟩ := windUp_spec
    (setStrm (setStrm d st x) st { x with held := [] }) st Strm.toStopped
  rw [getStrm_setStrm_same] at same strm
  obtain rfl := (same (by rw [clearing, abort])).trans (by rw [clearing, recs])
  rw [winds, reachGoal_enters (g := 2) (by rw [strm]; rfl) (by rw [strm]; rfl), strm, clearing]
  exact ⟨_, rfl, (entered_wq ..).trans wq⟩

end

end Sys2Proof.Machine
end

section
/-!
SETTLED. The streams and counters family, recovery (O30).
-/
namespace Sys2Proof.Machine

section
variable {s : State}

/-- A RECOVERING stream whose core has a site fetches again from its commit count. -/
theorem exec_streamRefetch {stream : BitVec 16} (recovering : strmState s.dev stream.toNat = 3)
    (sited : (strmSite s.dev stream.toNat).isSome) : exec (.streamRefetch stream) s = .next (s.settle
      (setStrmState (setStrm s.dev.rest stream.toNat { getStrm s.dev stream.toNat with recov := [] }) stream.toNat 1)) :=
  run_settle (f := fun _ d => if strmState d stream.toNat = 3 ∧ (strmSite d stream.toNat).isSome then _ else d)
    (if_pos ⟨recovering, sited⟩)

/-- The one stream bound to a core without a site is lost. -/
theorem exec_streamsLost_single {core : Fin 32} {st : Nat} (noSite : siteOfCore s.dev core.val = none)
    (bound : boundStreams s.dev.rest core.val = [st]) (notLost : strmState s.dev st ≠ 4) :
    exec (.streamsLost core) s = .next (s.settle (loseStream s.dev.rest st)) := by
  refine run_settle (f := fun _ d => if (siteOfCore d core.val).isNone then loseStreams d core.val else d) ?_
  have noSite' : (siteOfCore s.dev.rest core.val).isNone = true := Option.isNone_iff_eq_none.mpr noSite
  rw [if_pos noSite', loseStreams, show boundStreams s.dev.rest core.val = [st] from bound]
  exact if_neg notLost

end

/-- Settles O30: a stream whose core has a site runs again, and one without a site has nothing to wait for. -/
theorem streamRecovery : Obligations.StreamRecovery := by
  refine ⟨fun s stream recovering sited => ?_,
    fun s core st noSite bound notLost held recov recs abort enabled => ?_⟩
  · exact ⟨_, exec_streamRefetch recovering sited, rfl, strmState_setStrmState ..,
      keepsRegs_fset (setStrm s.dev.rest _ _) _ _ _ _, congrArg Strm.recov (getStrm_setStrm_same ..)⟩
  · obtain ⟨state, wq, counts, free⟩ := loseStream_idle_spec (d := s.dev.rest) held recov recs abort enabled
    refine ⟨_, exec_streamsLost_single noSite bound notLost, settle_mem_of_quiet s wq, (strmState_settle ..).trans state,
      (cnt_settle ..).trans counts, fun c => ?_⟩
    rw [getCtr_settle]
    exact free c

end Sys2Proof.Machine
end

section
/-!
SUPPORT. The context of a stream (R184-R186): writes of its registers through a path that owns it.
-/
namespace Sys2Proof.Machine

/-- What a write of enable asks for. -/
theorem get_put_enable (data : Word) (v : Nat) :
    Fld.HUB_STRM_CFG_enable.get (Fld.HUB_STRM_CFG_enable.put data v) = v % 2 :=
  Fld.get_put_same _ _ _ (by decide) (by decide)

section
variable {d : Dev} {p : Path} (owns : pathOwns d p (partOfStream d (selected d p)) = true) (e : Env) (data : Word)
include owns

section
variable {off : Nat} {r : RegDesc} (listed : strmReg off = some r) (notCfg : off ≠ 0x04) (notStat : off ≠ 0x30)
include listed notCfg notStat

/-- A register of the context other than HUB_STRM_CFG and HUB_STRM_STAT is written while enable is 0 (R184). -/
theorem strmRegWrite_context : strmRegWrite e d p off data = if strmOn d (selected d p) then regEvent d p (0x10000 + off)
    else r.store d [selected d p] false data := by
  have notSel : off ≠ 0 := by
    rintro rfl
    exact Option.some_ne_none r listed.symm
  simp [strmRegWrite, notSel, owns, notCfg, notStat, listed]

theorem strmRegWrite_context_on (on : strmOn d (selected d p) = true) :
    strmRegWrite e d p off data = regEvent d p (0x10000 + off) := by
  rw [strmRegWrite_context owns e data listed notCfg notStat, if_pos on]

theorem strmRegWrite_context_off (off_ : strmOn d (selected d p) = false) :
    strmRegWrite e d p off data = r.store d [selected d p] false data := by
  rw [strmRegWrite_context owns e data listed notCfg notStat, off_]
  rfl

end

/-- Setting enable on an enabled stream is refused (R184). -/
theorem strmRegWrite_set_on (on : strmOn d (selected d p) = true) :
    strmRegWrite e d p 0x04 (Fld.HUB_STRM_CFG_enable.put data 1) = regEvent d p (Reg.HUB_STRM_CFG.key []) := by
  simp [strmRegWrite, owns, strmCfgRegWrite, get_put_enable, on]

/-- Clearing enable disables the stream (R186). -/
theorem strmRegWrite_clear_on (on : strmOn d (selected d p) = true) :
    strmRegWrite e d p 0x04 (Fld.HUB_STRM_CFG_enable.put data 0) = disableStream e d (selected d p) := by
  simp [strmRegWrite, owns, strmCfgRegWrite, get_put_enable, on]

/-- Setting enable stores the fields and enables the stream, if its context passes the check (R185). -/
theorem strmRegWrite_set_off (off : strmOn d (selected d p) = false) :
    strmRegWrite e d p 0x04 (Fld.HUB_STRM_CFG_enable.put data 1) = enableStream
      (Reg.HUB_STRM_CFG.store d [selected d p] false (Fld.HUB_STRM_CFG_enable.put data 0)) (selected d p) := by
  have cleared := Fld.put_put Fld.HUB_STRM_CFG_enable (by decide) data 1 0
  simp [strmRegWrite, owns, strmCfgRegWrite, get_put_enable, off, cleared]

end

/-- A stored context has the value of enable that was written. -/
theorem strmOn_store (d : Dev) (st : Nat) (w : Word) :
    strmOn (Reg.HUB_STRM_CFG.store d [st] false w) st = (Fld.HUB_STRM_CFG_enable.get w == 1) := by
  rw [strmOn, strmCfg, RegDesc.store, fget_wrReg_same,
    Fld.get_afterWrite_rw (r := Reg.HUB_STRM_CFG) (by decide +kernel) (by decide) rfl (by decide)]

/-- A context that fails its check shows cfg_err and nothing else (R185). -/
theorem enableStream_bad {d : Dev} {st : Nat} (bad : contextOk d st = false) :
    enableStream d st = fset d Reg.HUB_STRM_STAT [st] Fld.HUB_STRM_STAT_cfg_err 1 := by
  simp [enableStream, bad]

/-- The counts of a stream (Table 6.18). -/
def strmCounts : List RegDesc :=
  [Reg.HUB_STRM_TAIL, Reg.HUB_STRM_FETCH, Reg.HUB_STRM_COMMIT, Reg.HUB_STRM_CQT, Reg.HUB_STRM_CQH]

theorem strmCounts_apart : strmCounts.Pairwise (fun q r => q.dims = r.dims ∧ q.base ≠ r.base) := by decide

/-- Counts that are set to 0 one after the other all read 0. -/
theorem cnt_foldl_zero {st : Nat} {rs : List RegDesc} (apart : rs.Pairwise (fun q r => q.dims = r.dims ∧ q.base ≠ r.base))
    (d : Dev) {r : RegDesc} (listed : r ∈ rs) : cnt (rs.foldl (fun d r => setCnt d st r 0) d) st r = 0 := by
  have keeps {rs : List RegDesc} (others : ∀ q ∈ rs, r.dims = q.dims ∧ r.base ≠ q.base) (d : Dev) :
      cnt (rs.foldl (fun d r => setCnt d st r 0) d) st r = cnt d st r :=
    List.foldlRecOn rs _ (motive := fun d' => cnt d' st r = cnt d st r) rfl fun d' same q member =>
      (cnt_setCnt_base (others q member).1 (others q member).2 ..).trans same
  induction rs generalizing d with
  | nil => exact absurd listed List.not_mem_nil
  | cons q rs ih =>
    obtain ⟨head, tail⟩ := List.pairwise_cons.mp apart
    rcases List.mem_cons.mp listed with rfl | later
    · exact (keeps head _).trans (cnt_setCnt_same ..)
    · exact ih tail _ later

/-- A context that passes its check is enabled in RUN with every count 0 (R185). -/
theorem enableStream_good {d : Dev} {st : Nat} (good : contextOk d st = true) :
    strmOn (enableStream d st) st = true ∧ strmState (enableStream d st) st = 1 ∧
      (∀ r ∈ strmCounts, cnt (enableStream d st) st r = 0) ∧
      (getStrm (enableStream d st) st).held = [] ∧ (enableStream d st).wq = d.wq := by
  unfold enableStream
  rw [if_pos good]
  refine ⟨?_, strmState_setStrmState .., fun r listed => ?_, congrArg Strm.held (getStrm_setStrm_same ..), rfl⟩
  · rw [strmOn, strmCfg, setStrmState, fget_fset_base (by decide) (by decide),
      fget_fset_same _ _ _ _ _ (by decide) (by decide)]
    rfl
  · have apart : ∀ r ∈ strmCounts, r.dims = Reg.HUB_STRM_STAT.dims ∧ r.base ≠ Reg.HUB_STRM_STAT.base ∧
        r.dims = Reg.HUB_STRM_CFG.dims ∧ r.base ≠ Reg.HUB_STRM_CFG.base := by decide
    obtain ⟨statDims, statBase, cfgDims, cfgBase⟩ := apart r listed
    rw [setStrmState, cnt_fset_base statDims statBase, cnt_fset_base cfgDims cfgBase]
    exact cnt_foldl_zero strmCounts_apart d listed

end Sys2Proof.Machine
end

section
/-!
SUPPORT. The doorbells of a stream (R188, R189, R199, R202-R204), each accepted or discarded.
-/
namespace Sys2Proof.Machine

/-- A register whose key is not written reads as it did. -/
theorem keepsRegs.rdReg {d d' : Dev} {ks : List Nat} (keeps : keepsRegs d d' ks) {r : RegDesc} {ix : List Nat}
    (other : r.key ix ∉ ks) : rdReg d' r ix = rdReg d r ix := by
  unfold Machine.rdReg Sparse.get
  rw [keeps _ other]

/-- Waking a core changes its power state and what is traced (R489). -/
theorem wakeCore_spec (d : Dev) (site : Nat) : keepsRegs d (wakeCore d site) [Reg.THM_CORE.key [site]] ∧
    ∃ regs dbg, wakeCore d site = { d with regs := regs, dbg := dbg } := by
  have woken := keepsRegs_fset d Reg.THM_CORE [site] Fld.THM_CORE_pstate 1
  unfold wakeCore
  dsimp only
  split
  · split
    · rw [traceEv_dbgOnly]
      exact ⟨woken, _, _, rfl⟩
    · exact ⟨woken, _, _, rfl⟩
  · exact ⟨fun _ _ => rfl, _, _, rfl⟩

/-- A site number has 6 bits (Table 1.13). -/
theorem strmSite_lt {d : Dev} {st site : Nat} (sited : strmSite d st = some site) : site < 2 ^ 6 := by
  unfold strmSite siteOfCore at sited
  split at sited
  · cases sited
    exact Fld.get_lt ..
  · cases sited

/-- The registers that stand above the configuration space, those of streams among them, do not tell that a core woke. -/
theorem rdReg_wakeCore {site : Nat} (inTable : site < 2 ^ 6) {r : RegDesc} (above : 2 ^ 32 ≤ r.base) (d : Dev) (ix : List Nat) :
    rdReg (wakeCore d site) r ix = rdReg d r ix := by
  refine (wakeCore_spec d site).1.rdReg ?_
  have low : Reg.THM_CORE.key [site] = 0x300400 + (4 * site + 0) := rfl
  rw [List.mem_singleton, low]
  unfold RegDesc.key
  omega

/-- The core of a stream, if it has a site, wakes, and registers above the configuration space stay. -/
theorem wakeStrm_spec (d : Dev) (st : Nat) :
    (∀ (r : RegDesc) (ix : List Nat), 2 ^ 32 ≤ r.base → rdReg (wakeStrm d st) r ix = rdReg d r ix) ∧
    ∃ regs dbg, wakeStrm d st = { d with regs := regs, dbg := dbg } := by
  unfold wakeStrm
  split
  next site sited =>
    exact ⟨fun r ix above => rdReg_wakeCore (strmSite_lt sited) above d ix, (wakeCore_spec d site).2⟩
  next => exact ⟨fun _ _ _ => rfl, _, _, rfl⟩

/-- A one-bit field of the status register that is set reads as set. -/
theorem fbit_stat_set {f : Fld} (ordered : f.lo ≤ f.hi) (inWord : f.hi < 32) (bit : 2 ^ (f.hi + 1 - f.lo) = 2) (d : Dev)
    (st : Nat) : fbit (fset d Reg.HUB_STRM_STAT [st] f 1) Reg.HUB_STRM_STAT [st] f = true := by
  rw [fbit, fget_fset_same _ _ _ _ _ ordered inWord, bit]
  rfl

/-- A doorbell value that is discarded sets db_err and is reported (R188, R189). -/
theorem badDoorbell_spec (d : Dev) (p : Path) (st word : Nat) :
    (badDoorbell d p st word).strm = d.strm ∧ (badDoorbell d p st word).reports.length = d.reports.length + 1 ∧
    fbit (badDoorbell d p st word) Reg.HUB_STRM_STAT [st] Fld.HUB_STRM_STAT_db_err = true ∧
    keepsRegs d (badDoorbell d p st word) [Reg.HUB_STRM_STAT.key [st]] := by
  have set_ := fbit_stat_set (f := Fld.HUB_STRM_STAT_db_err) (by decide) (by decide) (by decide) d st
  exact ⟨rfl, List.length_append, set_, keepsRegs_fset d _ _ _ _⟩

section
variable (d : Dev) (p : Path) (st v : Nat)

theorem sqTailWrite_eq : sqTailWrite d p st v =
    if strmState d st ≠ 0 ∧ ge32 v (cnt d st Reg.HUB_STRM_TAIL) = true ∧
      sub32 v (cnt d st Reg.HUB_STRM_COMMIT) ≤ 2 ^ (subRing d st).2.2
    then keepDoorbell (setCnt (wakeStrm d st) st Reg.HUB_STRM_TAIL v) st 0 v else badDoorbell d p st 0 := by
  rw [← ite_not]
  simp only [not_and_or, not_not, Bool.not_eq_true, not_le]
  rfl

theorem cqHeadWrite_eq : cqHeadWrite d p st v =
    if strmState d st ≠ 0 ∧ ge32 (cnt d st Reg.HUB_STRM_CQT) v = true ∧ ge32 v (cnt d st Reg.HUB_STRM_CQH) = true
    then keepDoorbell (setCnt d st Reg.HUB_STRM_CQH v) st 1 v else badDoorbell d p st 1 := by
  rw [← ite_not]
  simp only [not_and_or, not_not, Bool.not_eq_true]
  rfl

/-- The stream runs again from a count, and the acceptance is recorded (R204). -/
def Dev.restarted (d : Dev) (st v : Nat) : Dev :=
  let d := keepDoorbell (setCnt (setCnt d st Reg.HUB_STRM_COMMIT v) st Reg.HUB_STRM_FETCH v) st 3 v
  setStrmState (pushRec d st (mkRec d st v 0 0)) st 1

theorem restartWrite_eq : restartWrite d p st v =
    if strmState d st = 2 ∧ ge32 v (cnt d st Reg.HUB_STRM_COMMIT) = true ∧ ge32 (cnt d st Reg.HUB_STRM_TAIL) v = true
    then d.restarted st v else badDoorbell d p st 3 := by
  rw [← ite_not]
  simp only [not_and_or, Bool.not_eq_true]
  rfl

/-- An aligned write of a doorbell word, to a page that the path reaches, on a device that is not halted (R188). -/
theorem doorbellWrite_word {d : Dev} {p : Path} {st o : Nat} (up : devHalted d = false) (held : pageHeld d p st = true)
    (inside : o < 0x20) (aligned : o % 8 = 0) (data : Nat) : doorbellWrite d p (st * 0x1000 + o) 8 data =
      if o = 0 then sqTailWrite d p st (data % 2 ^ 32) else if o = 8 then cqHeadWrite d p st (data % 2 ^ 32)
      else if o = 16 then abortWrite d p st (data % 2 ^ 32) else restartWrite d p st (data % 2 ^ 32) := by
  have page : (st * 0x1000 + o) / 0x1000 = st := by omega
  have word : (st * 0x1000 + o) % 0x1000 = o := by omega
  have accepted : ¬ (pageHeld d p st = false ∨ 8 ≠ 8 ∨ 0x20 ≤ o ∨ o % 8 ≠ 0) := by
    simp [held, inside, aligned]
  simp only [doorbellWrite, page, word, up, Bool.false_eq_true, if_false, if_neg accepted]

/-- A write of another size, alignment or offset is discarded (R188). -/
theorem doorbellWrite_bad {d : Dev} (up : devHalted d = false) {off size : Nat}
    (bad : size ≠ 8 ∨ 0x20 ≤ off % 0x1000 ∨ off % 8 ≠ 0) (data : Nat) :
    doorbellWrite d p off size data = doorbellEvent d p off := by
  have refused : pageHeld d p (off / 0x1000) = false ∨ size ≠ 8 ∨ 0x20 ≤ off % 0x1000 ∨ off % 0x1000 % 8 ≠ 0 :=
    .inr (bad.imp_right (Or.imp_right (by omega)))
  simp only [doorbellWrite, up, Bool.false_eq_true, if_false, if_pos refused]

theorem setCnt_tail_spec : cnt (keepDoorbell (setCnt (wakeStrm d st) st Reg.HUB_STRM_TAIL v) st 0 v) st Reg.HUB_STRM_TAIL =
      v % 2 ^ 32 ∧ strmState (keepDoorbell (setCnt (wakeStrm d st) st Reg.HUB_STRM_TAIL v) st 0 v) st = strmState d st ∧
    (wakeStrm d st).reports = d.reports ∧ (wakeStrm d st).wq = d.wq := by
  obtain ⟨keeps, regs, dbg, eq⟩ := wakeStrm_spec d st
  have state : strmState (setCnt (wakeStrm d st) st Reg.HUB_STRM_TAIL v) st = strmState d st := by
    rw [strmState, setCnt, fget_wrReg_base (by decide) (by decide), fget, keeps _ _ (by decide)]
    rfl
  exact ⟨cnt_setCnt_same .., state, by rw [eq], by rw [eq]⟩

theorem restarted_spec : strmState (d.restarted st v) st = 1 ∧ cnt (d.restarted st v) st Reg.HUB_STRM_COMMIT = v % 2 ^ 32 ∧
    cnt (d.restarted st v) st Reg.HUB_STRM_FETCH = v % 2 ^ 32 ∧ (d.restarted st v).reports = d.reports ∧
    (getStrm (d.restarted st v) st).recs = (getStrm d st).recs ++ [mkRec d st v 0 0] ∧ (d.restarted st v).wq = d.wq := by
  obtain ⟨d', counted⟩ : ∃ d', d' = setCnt (setCnt d st Reg.HUB_STRM_COMMIT v) st Reg.HUB_STRM_FETCH v := ⟨_, rfl⟩
  have core : strmCore d' st = strmCore d st := by
    rw [counted, strmCore, strmCfg, setCnt, fget_wrReg_base (by decide) (by decide), setCnt,
      fget_wrReg_base (by decide) (by decide)]
    rfl
  have restarts : d.restarted st v = setStrmState (pushRec (keepDoorbell d' st 3 v) st (mkRec d st v 0 0)) st 1 := by
    rw [mkRec, ← core, counted]
    rfl
  have strm : getStrm d' st = getStrm d st := by rw [counted]; rfl
  rw [restarts]
  refine ⟨strmState_setStrmState .., ?_, ?_, by rw [counted]; rfl, ?_, by rw [counted]; rfl⟩
  · refine (cnt_fset_base (by decide) (by decide) ..).trans ?_
    rw [counted]
    exact (cnt_setCnt_base (by decide) (by decide) ..).trans (cnt_setCnt_same ..)
  · refine (cnt_fset_base (by decide) (by decide) ..).trans ?_
    rw [counted]
    exact cnt_setCnt_same ..
  · refine (congrArg Strm.recs (getStrm_pushRec ..)).trans ?_
    rw [keepDoorbell, getStrm_setStrm_same, strm]

end

section
variable {d : Dev} {p : Path} {st v : Nat}

theorem abortWrite_off (off : strmState d st = 0) : abortWrite d p st v = badDoorbell d p st 2 := if_pos off

/-- A second abort is discarded and shows abort_ovr (R203). -/
theorem abortWrite_pending (on : strmState d st ≠ 0) (pending : (getStrm d st).abort.isSome = true) : abortWrite d p st v =
    doorbellEvent (fset d Reg.HUB_STRM_STAT [st] Fld.HUB_STRM_STAT_abort_ovr 1) p (st * 0x1000 + 0x10) := by
  simp [abortWrite, on, pending]

theorem abortWrite_taken (on : strmState d st ≠ 0) (free : ¬ (getStrm d st).abort.isSome = true) : abortWrite d p st v =
    fset (setStrm (keepDoorbell d st 2 v) st { getStrm (keepDoorbell d st 2 v) st with abort := some v })
      Reg.HUB_STRM_STAT [st] Fld.HUB_STRM_STAT_abort_pend 1 := by
  rw [abortWrite, if_neg on, if_neg free]

end

end Sys2Proof.Machine
end

section
/-!
SETTLED. The streams and counters family, contexts and doorbells (O27).
-/
namespace Sys2Proof.Machine

section
variable {s : State} {p : Path} {stream : BitVec 16} {data : BitVec 64} (up : devHalted s.dev = false)
  (held : pageHeld s.dev p stream.toNat = true)
include up held

theorem exec_sqTail : exec (.sqTail p stream data) s =
    .next (s.settle (sqTailWrite s.dev.rest p stream.toNat (data.toNat % 2 ^ 32))) := by
  have writes := doorbellWrite_word (d := s.dev.rest) (o := 0) up held (by decide) (by decide) data.toNat
  rw [Nat.add_zero, if_pos rfl] at writes
  exact run_settle (f := fun _ d => doorbellWrite d p (stream.toNat * 0x1000) 8 data.toNat) writes

theorem exec_cqHead : exec (.cqHead p stream data) s =
    .next (s.settle (cqHeadWrite s.dev.rest p stream.toNat (data.toNat % 2 ^ 32))) :=
  run_settle (f := fun _ d => doorbellWrite d p (stream.toNat * 0x1000 + 8) 8 data.toNat)
    (doorbellWrite_word (d := s.dev.rest) up held (by decide) (by decide) _)

theorem exec_strmAbort : exec (.strmAbort p stream data) s =
    .next (s.settle (abortWrite s.dev.rest p stream.toNat (data.toNat % 2 ^ 32))) :=
  run_settle (f := fun _ d => doorbellWrite d p (stream.toNat * 0x1000 + 16) 8 data.toNat)
    (doorbellWrite_word (d := s.dev.rest) up held (by decide) (by decide) _)

theorem exec_strmRestart : exec (.strmRestart p stream data) s =
    .next (s.settle (restartWrite s.dev.rest p stream.toNat (data.toNat % 2 ^ 32))) :=
  run_settle (f := fun _ d => doorbellWrite d p (stream.toNat * 0x1000 + 24) 8 data.toNat)
    (doorbellWrite_word (d := s.dev.rest) up held (by decide) (by decide) _)

end

section
variable {s : State} {p : Path} (up : portHalted s.dev p = false) (data : Word)
include up

theorem exec_streamCfgWrite (off : BitVec 8) : exec (.streamCfgWrite p off data) s =
    .next (s.settle (strmRegWrite ⟨s.fuses, s.mem⟩ s.dev.rest p (off.toNat / 4 * 4) data)) :=
  run_unhalted up fun e d => strmRegWrite e d p (off.toNat / 4 * 4) data

theorem exec_streamEnable : exec (.streamEnable p data) s =
    .next (s.settle (strmRegWrite ⟨s.fuses, s.mem⟩ s.dev.rest p 0x04 (Fld.HUB_STRM_CFG_enable.put data 1))) :=
  run_unhalted up fun e d => strmRegWrite e d p 0x04 (Fld.HUB_STRM_CFG_enable.put data 1)

theorem exec_streamDisable (ext : List Byte) : exec (.streamDisable p data ext) s = .next (s.settle
    (strmRegWrite ⟨s.fuses, s.mem⟩ (s.dev.rest.given ext) p 0x04 (Fld.HUB_STRM_CFG_enable.put data 0))) :=
  run_unhalted up fun e d => strmRegWrite e (d.given ext) p 0x04 (Fld.HUB_STRM_CFG_enable.put data 0)

end

theorem strmOn_fset_cfg_err (d : Dev) (st : Nat) :
    strmOn (fset d Reg.HUB_STRM_STAT [st] Fld.HUB_STRM_STAT_cfg_err 1) st = strmOn d st := by
  rw [strmOn, strmCfg, fget_fset_base (by decide) (by decide)]
  rfl

theorem strmOn_store_clear (d : Dev) (st : Nat) (data : Word) :
    strmOn (Reg.HUB_STRM_CFG.store d [st] false (Fld.HUB_STRM_CFG_enable.put data 0)) st = false := by
  rw [strmOn_store, get_put_enable]
  rfl

theorem next_settle {o : Host.Outcome State Fault Refusal} {s : State} {d d' : Dev} (runs : o = .next (s.settle d))
    (makes : d = d') : o = .next (s.settle d') := makes ▸ runs

/-- Settles O27: a context write by the enable bit, a doorbell by its rule. -/
theorem streamContextAndDoorbells : Obligations.StreamContextAndDoorbells := by
  refine ⟨fun s p data up => ?_, fun s p stream data up => ?_, fun s p off size data up bad => ?_⟩
  · intro st owns
    refine ⟨fun off r listed notCfg notStat => ?_, ?_, fun ext on runs drained held recs abort goal stopping => ?_⟩
    · have writes := exec_streamCfgWrite up data off
      cases on : strmOn s.dev st
      · exact ⟨_, next_settle writes (strmRegWrite_context_off (d := s.dev.rest) owns _ _ listed notCfg notStat on), rfl, rfl,
          fun _ => ⟨rfl, keepsRegs_wrReg s.dev.rest _ _ _, rdReg_wrReg_same ..⟩, nofun⟩
      · exact ⟨_, next_settle writes (strmRegWrite_context_on (d := s.dev.rest) owns _ _ listed notCfg notStat on), rfl, rfl,
          nofun, fun _ => ⟨rfl, List.length_append⟩⟩
    · have writes := exec_streamEnable up data
      cases on : strmOn s.dev st
      · replace writes := next_settle writes (strmRegWrite_set_off (d := s.dev.rest) owns _ _ on)
        cases good : contextOk (Reg.HUB_STRM_CFG.store s.dev.rest [st] false (Fld.HUB_STRM_CFG_enable.put data 0)) st
        · exact ⟨_, next_settle writes (enableStream_bad good), rfl, nofun, fun _ h => absurd h (ne_true_of_eq_false good),
            fun _ _ => ⟨(strmOn_fset_cfg_err ..).trans (strmOn_store_clear ..),
              fbit_stat_set (by decide) (by decide) (by decide) .., rfl⟩⟩
        · obtain ⟨enabled, state, counts, held, wq⟩ := enableStream_good good
          have zero (r : RegDesc) (listed : r ∈ strmCounts) := (cnt_settle s _ st r).trans (counts r listed)
          exact ⟨_, writes, settle_mem_of_quiet s wq, nofun, fun _ _ => ⟨enabled, state, zero _ (by decide), zero _ (by decide),
            zero _ (by decide), zero _ (by decide), zero _ (by decide), held⟩,
            fun _ h => absurd good (ne_true_of_eq_false h)⟩
      · exact ⟨_, next_settle writes (strmRegWrite_set_on (d := s.dev.rest) owns _ _ on), rfl,
          fun _ => ⟨rfl, List.length_append⟩, nofun, nofun⟩
    · obtain ⟨d', off, wq⟩ := disableStream_idle (d := s.dev.rest.given ext) ⟨s.fuses, s.mem⟩ runs drained held recs abort
        goal stopping
      exact ⟨_, next_settle (exec_streamDisable up data ext) ((strmRegWrite_clear_on (d := s.dev.rest.given ext) owns _ _
        on).trans off), settle_mem_of_quiet s ((strmOff_wq ..).trans wq), strmState_strmOff .., strmOn_strmOff ..,
        fun c => holder_strmOff d' st c⟩
  · intro st v tail commit held discarded
    have fits : v % 2 ^ 32 = v := Nat.mod_eq_of_lt (Nat.mod_lt _ (by decide))
    have bad (word : Nat) : discarded (s.settle (badDoorbell s.dev.rest p st word)) := badDoorbell_spec s.dev.rest p st word
    refine ⟨?_, ?_, ?_, ?_⟩
    · by_cases accepted : strmState s.dev st ≠ 0 ∧ ge32 v tail = true ∧ sub32 v commit ≤ 2 ^ (subRing s.dev st).2.2
      · obtain ⟨count, state, reports, wq⟩ := setCnt_tail_spec s.dev.rest st v
        refine ⟨_, next_settle (exec_sqTail up held) ((sqTailWrite_eq ..).trans (if_pos accepted)),
          settle_mem_of_quiet s wq, ?_⟩
        rw [if_pos accepted]
        exact ⟨count.trans fits, reports, state⟩
      · refine ⟨_, next_settle (exec_sqTail up held) ((sqTailWrite_eq ..).trans (if_neg accepted)), rfl, ?_⟩
        rw [if_neg accepted]
        exact bad 0
    · by_cases accepted : strmState s.dev st ≠ 0 ∧ ge32 (cnt s.dev st Reg.HUB_STRM_CQT) v = true ∧
        ge32 v (cnt s.dev st Reg.HUB_STRM_CQH) = true
      · refine ⟨_, next_settle (exec_cqHead up held) ((cqHeadWrite_eq ..).trans (if_pos accepted)), rfl, ?_⟩
        rw [if_pos accepted]
        exact ⟨(cnt_setCnt_same ..).trans fits, rfl, keepsRegs_wrReg s.dev.rest _ _ _⟩
      · refine ⟨_, next_settle (exec_cqHead up held) ((cqHeadWrite_eq ..).trans (if_neg accepted)), rfl, ?_⟩
        rw [if_neg accepted]
        exact bad 1
    · by_cases off : strmState s.dev st = 0
      · refine ⟨_, next_settle (exec_strmAbort up held) (abortWrite_off off), rfl, ?_⟩
        rw [if_pos off]
        exact bad 2
      · by_cases pending : (getStrm s.dev st).abort.isSome = true
        · refine ⟨_, next_settle (exec_strmAbort up held) (abortWrite_pending off pending), rfl, ?_⟩
          rw [if_neg off, if_pos pending]
          exact ⟨rfl, List.length_append, fbit_stat_set (by decide) (by decide) (by decide) ..⟩
        · refine ⟨_, next_settle (exec_strmAbort up held) (abortWrite_taken off pending), rfl, ?_⟩
          rw [if_neg off, if_neg pending]
          exact ⟨congrArg Strm.abort (getStrm_setStrm_same ..), rfl, fbit_stat_set (by decide) (by decide) (by decide) ..⟩
    · by_cases accepted : strmState s.dev st = 2 ∧ ge32 v commit = true ∧ ge32 tail v = true
      · obtain ⟨state, commits, fetches, reports, recs, wq⟩ := restarted_spec s.dev.rest st v
        refine ⟨_, next_settle (exec_strmRestart up held) ((restartWrite_eq ..).trans (if_pos accepted)),
          settle_mem_of_quiet s wq, ?_⟩
        rw [if_pos accepted]
        exact ⟨state, commits.trans fits, fetches.trans fits, reports, recs⟩
      · refine ⟨_, next_settle (exec_strmRestart up held) ((restartWrite_eq ..).trans (if_neg accepted)), rfl, ?_⟩
        rw [if_neg accepted]
        exact bad 3
  · exact ⟨_, run_settle (f := fun _ d => doorbellWrite d p off.toNat size data.toNat)
      (doorbellWrite_bad (d := s.dev.rest) p up bad _), rfl, rfl, rfl, List.length_append⟩

end Sys2Proof.Machine
end

section
/-!
SUPPORT. Fetch (R187, R190, R192): the next entry of the ring is held and counted.
-/
namespace Sys2Proof.Machine

theorem memOnly.strm {d d' : Dev} (h : memOnly d d') : d'.strm = d.strm := by unfold memOnly at h; rw [h]

theorem takeExt_spec (d : Dev) (n : Nat) : ∃ ext, (takeExt d n).2 = { d with extIn := ext } := by
  unfold takeExt
  split
  · exact ⟨_, rfl⟩
  · exact ⟨_, rfl⟩

/-- A ring in host memory is read from what the host returns (R190). -/
theorem readEntry_host {d : Dev} {st : Nat} (host : (subRing d st).2.1 = false) (e : Env) (q : Nat) :
    ∃ ext, (readEntry e d st q).2 = { d with extIn := ext } := by
  obtain ⟨ext, takes⟩ := takeExt_spec d 64
  unfold readEntry
  simp only [host, Bool.false_eq_true, if_false]
  split
  · exact ⟨_, rfl⟩
  · split
    · rcases taken : takeExt d 64 with ⟨_ | b, d'⟩
      · rw [taken] at takes
        exact ⟨ext, takes⟩
      · rw [taken] at takes
        exact ⟨ext, takes⟩
    · exact ⟨_, rfl⟩

/-- Reading a ring entry changes what an access to memory may change. -/
theorem readEntry_memOnly (e : Env) (d : Dev) (st q : Nat) : memOnly d (readEntry e d st q).2 := by
  cases space : (subRing d st).2.1 with
  | false =>
    obtain ⟨ext, reads⟩ := readEntry_host space e q
    rw [reads]
    rfl
  | true =>
    unfold readEntry
    dsimp only
    rw [if_pos space]
    exact pkgRead_memOnly ..

/-- What a fetch holds: the entry, checked by its header, or a descriptor that is done with FETCH_ERR (R192, R201). -/
def fetchedDesc (d : Dev) (st : Nat) : Except MemErr (List Byte) → SDesc
  | .ok b => { seq := cnt d st Reg.HUB_STRM_FETCH, bytes := b,
               phase := if headerStatus d st b = 0 then .fetched else .done, status := headerStatus d st b }
  | .error _ => { seq := cnt d st Reg.HUB_STRM_FETCH, bytes := leBytes 64 0, phase := .done, status := 0x88 }

theorem holdFetched_eq (d : Dev) (st : Nat) (r : Except MemErr (List Byte)) :
    holdFetched d st r = holdDesc d st (fetchedDesc d st r) := by
  cases r <;> rfl

theorem seq_fetchedDesc (d : Dev) (st : Nat) (r : Except MemErr (List Byte)) :
    (fetchedDesc d st r).seq = cnt d st Reg.HUB_STRM_FETCH := by
  cases r <;> rfl

theorem holdFetched_spec (d : Dev) (st : Nat) (r : Except MemErr (List Byte)) :
    cnt (holdFetched d st r) st Reg.HUB_STRM_FETCH = (cnt d st Reg.HUB_STRM_FETCH + 1) % 2 ^ 32 ∧
    (getStrm (holdFetched d st r) st).held = (getStrm d st).held ++ [fetchedDesc d st r] ∧
    (holdFetched d st r).wq = d.wq := by
  rw [holdFetched_eq, holdDesc, seq_fetchedDesc]
  exact ⟨cnt_setCnt_same .., congrArg Strm.held (getStrm_setStrm_same ..), rfl⟩

section
variable {s : State} {stream : BitVec 16}

/-- A stream that may not fetch is as it was. -/
theorem exec_fetch_idle (idle : mayFetch s.dev stream.toNat = false) (ext : List Byte) (er : MemErr) :
    exec (.descriptorFetch stream ext) s = .next { s with dev := s.dev.rest } ∧
    exec (.fetchErr stream er) s = .next { s with dev := s.dev.rest } := by
  have idle' : ¬ mayFetch s.dev.rest stream.toNat = true := ne_true_of_eq_false idle
  exact ⟨run_device (d := s.dev.rest) (f := fun e d => if mayFetch d stream.toNat then _ else d) (if_neg idle') rfl,
    run_device (d := s.dev.rest) (f := fun e d => if mayFetch d stream.toNat then _ else d) (if_neg idle') rfl⟩

theorem exec_fetchErr (may : mayFetch s.dev stream.toNat = true) (er : MemErr) :
    exec (.fetchErr stream er) s = .next (s.settle (holdFetched s.dev.rest stream.toNat (.error er))) :=
  run_settle (f := fun _ d => if mayFetch d stream.toNat then holdFetched d stream.toNat (.error er) else d)
    (if_pos (c := mayFetch s.dev.rest stream.toNat = true) may)

theorem exec_descriptorFetch (may : mayFetch s.dev stream.toNat = true) (ext : List Byte) :
    exec (.descriptorFetch stream ext) s = .next (s.settle
      (let r := readEntry ⟨s.fuses, s.mem⟩ (s.dev.rest.given ext) stream.toNat (cnt s.dev stream.toNat Reg.HUB_STRM_FETCH)
       holdFetched r.2 stream.toNat r.1)) :=
  run_settle (f := fun e d => if mayFetch d stream.toNat then
      (let r := readEntry e (d.given ext) stream.toNat (cnt d stream.toNat Reg.HUB_STRM_FETCH)
       holdFetched r.2 stream.toNat r.1) else d)
    (if_pos (c := mayFetch s.dev.rest stream.toNat = true) may)

end

end Sys2Proof.Machine
end

section
/-!
SUPPORT. Waits and locks (R193, R208, R210, R212, R214) of the next descriptor of a stream.
-/
namespace Sys2Proof.Machine

section
variable {d d' : Dev} (h : dbgOnly d d')
include h

theorem dbgOnly.regs : d'.regs = d.regs := by unfold dbgOnly at h; rw [h]
theorem dbgOnly.strm : d'.strm = d.strm := by unfold dbgOnly at h; rw [h]
theorem dbgOnly.ctr : d'.ctr = d.ctr := by unfold dbgOnly at h; rw [h]
theorem dbgOnly.wq : d'.wq = d.wq := by unfold dbgOnly at h; rw [h]

end

theorem traceStrm_dbgOnly (d : Dev) (st kind e arg : Nat) : dbgOnly d (traceStrm d st kind e arg) := by
  unfold traceStrm
  split
  · exact traceEv_dbgOnly ..
  · rfl

theorem endWait_dbgOnly (d : Dev) (st : Nat) (x : SDesc) : dbgOnly d (endWait d st x) := by
  unfold endWait
  split
  · exact traceStrm_dbgOnly ..
  · rfl

/-- The held descriptor with a sequence number is replaced, and nothing else changes. -/
theorem held_putDesc (d : Dev) (st : Nat) (x : SDesc) : (getStrm (putDesc d st x) st).held =
    (getStrm d st).held.map (fun z => if z.seq = x.seq then x else z) := congrArg Strm.held (getStrm_setStrm_same ..)

/-- What the wait for a counter leaves of its stream: no register, no lock and no memory changes. -/
theorem putDesc_endWait_spec (d : Dev) (st : Nat) (x y : SDesc) :
    (getStrm (putDesc (endWait d st x) st y) st).held = (getStrm d st).held.map (fun z => if z.seq = y.seq then y else z) ∧
    (putDesc (endWait d st x) st y).regs = d.regs ∧ (putDesc (endWait d st x) st y).wq = d.wq := by
  have traced := endWait_dbgOnly d st x
  refine ⟨?_, traced.regs, traced.wq⟩
  rw [held_putDesc, getStrm_congr traced.strm]

section
variable {d : Dev} {st : Nat} {x : SDesc} (next : nextDesc d st = some x)
include next

section
variable (waits : hWaitEn x.bytes = true) (unmet : x.waited = false)
include waits unmet

/-- A poisoned counter decides its waiter POISONED (R212). -/
theorem examine_poisoned (poisoned : (getCtr d (hWaitCtr x.bytes)).poison = true) : examine d st =
    putDesc (endWait d st x) st { x with waitOn := none, phase := .done, status := 0x84 } := by
  simp [examine, next, waits, unmet, poisoned, decideDesc]

/-- A counter that has reached the value releases its waiter (R208). -/
theorem examine_reached (clean : (getCtr d (hWaitCtr x.bytes)).poison = false)
    (reached : hWaitVal x.bytes ≤ (getCtr d (hWaitCtr x.bytes)).value) (notSync : hEngine x.bytes ≠ 8) :
    examine d st = putDesc (endWait d st x) st { x with waited := true, waitOn := none } := by
  simp [examine, next, waits, unmet, clean, reached, notSync]

end

/-- A descriptor of an engine whose waits are met is left alone. -/
theorem examine_met (met : hWaitEn x.bytes = true → x.waited = true) (notSync : hEngine x.bytes ≠ 8) : examine d st = d := by
  have settled : (hWaitEn x.bytes && !x.waited) = false := by
    cases waits : hWaitEn x.bytes
    · rfl
    · simp [met waits]
  simp [examine, next, settled, notSync]

/-- A SYNC descriptor without a header wait goes through its slots (R214). -/
theorem examine_sync (noWait : hWaitEn x.bytes = false) (sync : hEngine x.bytes = 8) : examine d st = trySlots st 5 x d := by
  simp [examine, next, noWait, sync]

end

/-- A stream takes slots: its locks stay with it, and nothing but streams, counters and traced events changes. -/
def takesSlots (st : Nat) (d d' : Dev) : Prop :=
  d' = { d with strm := d'.strm, ctr := d'.ctr, dbg := d'.dbg } ∧
  ∀ c, (getCtr d c).holder = some st → (getCtr d' c).holder = some st

section
variable {st : Nat}

theorem takesSlots_refl (d : Dev) : takesSlots st d d := ⟨rfl, fun _ holds => holds⟩

theorem takesSlots_trans {a b c : Dev} (h : takesSlots st a b) (k : takesSlots st b c) : takesSlots st a c := by
  obtain ⟨h, holds⟩ := h
  obtain ⟨k, stays⟩ := k
  exact ⟨by rw [k, h], fun c held => stays c (holds c held)⟩

theorem takesSlots_putDesc (d : Dev) (x : SDesc) : takesSlots st d (putDesc d st x) := ⟨rfl, fun _ holds => holds⟩

theorem takesSlots_of_dbgOnly {d d' : Dev} (only : dbgOnly d d') : takesSlots st d d' := by
  rw [dbgOnly] at only
  rw [only]
  exact ⟨rfl, fun _ holds => holds⟩

theorem takesSlots_setCtr (d : Dev) (c : Nat) {x : Ctr}
    (keeps : (getCtr d c).holder = some st → x.holder = some st) : takesSlots st d (setCtr d c x) := by
  refine ⟨rfl, fun k holds => ?_⟩
  by_cases same : k = c
  · subst same
    rw [getCtr_setCtr_same]
    exact keeps holds
  · rw [getCtr_setCtr_other _ _ same]
    exact holds

theorem takesSlots_beginWait (d : Dev) (x : SDesc) (c : Nat) : takesSlots st d (beginWait d st x c) := by
  unfold beginWait
  split
  · exact takesSlots_refl d
  · exact takesSlots_trans (takesSlots_putDesc ..) (takesSlots_of_dbgOnly (traceStrm_dbgOnly ..))

theorem takesSlots_trySlot (d : Dev) (x : Slot) : takesSlots st d (trySlot d st x).2 := by
  unfold trySlot
  dsimp only
  split_ifs
  · exact takesSlots_refl d
  · exact takesSlots_refl d
  · exact takesSlots_refl d
  · exact takesSlots_refl d
  · exact takesSlots_setCtr _ _ fun _ => rfl
  · exact takesSlots_refl d
  · exact takesSlots_setCtr _ _ fun holds => holds

theorem takesSlots_trySlots (fuel : Nat) (x : SDesc) (d : Dev) : takesSlots st d (trySlots st fuel x d) := by
  induction fuel generalizing x d with
  | zero => exact takesSlots_refl d
  | succ fuel ih =>
    unfold trySlots
    dsimp only
    split
    · exact takesSlots_refl d
    · split
      · exact takesSlots_trans (takesSlots_putDesc ..) (ih ..)
      · have tries := takesSlots_trySlot (st := st) d (slotOf x.bytes x.slots)
        have waited (d : Dev) : takesSlots st d (endWait d st x) := takesSlots_of_dbgOnly (endWait_dbgOnly ..)
        split <;> rename_i taken <;> rw [taken] at tries
        · exact takesSlots_trans tries (takesSlots_trans (waited _) (takesSlots_trans (takesSlots_putDesc ..) (ih ..)))
        · exact takesSlots_trans tries (takesSlots_trans (waited _) (takesSlots_putDesc ..))
        · exact takesSlots_trans tries (takesSlots_beginWait ..)

/-- A free lock goes to the stream that waits for it first (R210). -/
theorem trySlot_free {d : Dev} {x : Slot} {rest : List Nat} (lock : x.op = 5) (clean : (getCtr d x.counter).poison = false)
    (free : (getCtr d x.counter).holder = none) (first : (getCtr d x.counter).waiters = st :: rest) :
    trySlot d st x = (some true, setCtr d x.counter { getCtr d x.counter with
      holder := some st, waiters := (getCtr d x.counter).waiters.filter (· != st) }) := by
  simp [trySlot, lock, clean, free, first]

/-- The stream that takes a lock in one of its slots keeps it through the slots after it (R210, R214). -/
theorem holder_trySlots_lock {fuel : Nat} {x : SDesc} {d : Dev} {c : Nat} {rest : List Nat} (left : x.slots < 4)
    (lock : (slotOf x.bytes x.slots).op = 5) (counter : (slotOf x.bytes x.slots).counter = c)
    (clean : (getCtr d c).poison = false) (free : (getCtr d c).holder = none) (first : (getCtr d c).waiters = st :: rest) :
    (getCtr (trySlots st (fuel + 1) x d) c).holder = some st := by
  subst counter
  unfold trySlots
  simp only [if_neg (Nat.not_le.mpr left), trySlot_free lock clean free first]
  rw [if_neg (by simp [lock])]
  refine (takesSlots_trans (takesSlots_of_dbgOnly (endWait_dbgOnly ..))
    (takesSlots_trans (takesSlots_putDesc ..) (takesSlots_trySlots ..))).2 _ ?_
  rw [getCtr_setCtr_same]

end

end Sys2Proof.Machine
end

section
/-!
SUPPORT. Dispatch (R187, R193): what a ready descriptor's dispatch leaves, and the rotation of its core.
-/
namespace Sys2Proof.Machine

/-- After a dispatch a stepped stream may halt again: its halt state changes and is traced, nothing else (R555). -/
theorem afterStep_spec (d : Dev) (st : Nat) : (∃ strm dbg, afterStep d st = { d with strm := strm, dbg := dbg }) ∧
    (getStrm (afterStep d st) st).held = (getStrm d st).held := by
  unfold afterStep
  dsimp only
  split
  · rw [setHalt, getStrm_congr (traceStrm_dbgOnly ..).strm, getStrm_setStrm_same, traceStrm_dbgOnly]
    exact ⟨⟨_, _, rfl⟩, rfl⟩
  · exact ⟨⟨_, _, rfl⟩, rfl⟩

/-- A descriptor on its way to a unit. -/
def SDesc.sentTo (x : SDesc) (u tb : Nat) : SDesc :=
  { x with phase := .dispatched, sent := some tb, unit := if 1 ≤ u ∧ u ≤ 4 then u - 1 else if u = 10 then 1 else 0 }

/-- The entry of the engine's queue that a dispatch makes. -/
def handoffOf (site u st : Nat) (x : SDesc) : Handoff := ⟨site, u, ⟨BitVec.ofNat 16 st, BitVec.ofNat 32 x.seq, x.bytes⟩⟩

/-- A dispatch ends with the descriptor in the queue of its engine. -/
def Dev.handedOn (d : Dev) (st : Nat) (h : Handoff) : Dev := afterStep { d with handoff := d.handoff ++ [h] } st

section
variable {d : Dev} {st site u : Nat} {x : SDesc} (next : nextDesc d st = some x) (sited : strmSite d st = some site)
  (runs : strmState d st = 1) (going : (getStrm d st).stopping = false) (engine : hEngine x.bytes < 8)
  (met : hWaitEn x.bytes = true → x.waited = true)
  (barrier : hBarrier x.bytes = true → isFollower x.bytes = false → cnt d st Reg.HUB_STRM_COMMIT = x.seq)
  (free : dispatchHeld d st site = false) (picked : pickUnit d site x.bytes = some u)

include engine met in
theorem waitsMet_engine : waitsMet x = true := by
  have notSync : hEngine x.bytes ≠ 8 := by omega
  cases waits : hWaitEn x.bytes
  · simp [waitsMet, waits, notSync]
  · simp [waitsMet, met waits, notSync]

include next sited runs going engine met barrier free picked

theorem ready_of_met : ready d st = true := by
  have waits := waitsMet_engine engine met
  have passes : (hBarrier x.bytes && !isFollower x.bytes && cnt d st Reg.HUB_STRM_COMMIT != x.seq) = false := by
    cases asked : hBarrier x.bytes with
    | false => rfl
    | true =>
      cases alone : isFollower x.bytes with
      | true => rfl
      | false => simp [barrier asked alone]
  simp [ready, next, sited, runs, going, waits, passes, free, picked]

/-- A ready descriptor of an engine goes to the unit picked for it. -/
theorem dispatchNext_engine : ∃ k e arg, dispatchNext d st =
    (traceStrm (putDesc (wakeCore d site) st (x.sentTo u d.tb)) st k e arg).handedOn st (handoffOf site u st x) := by
  have waits := waitsMet_engine engine met
  have notBlocked : ¬ (strmState d st ≠ 1 ∨ (getStrm d st).stopping = true ∨ waitsMet x = false ∨
      ((hBarrier x.bytes && !isFollower x.bytes) = true ∧ cnt d st Reg.HUB_STRM_COMMIT ≠ x.seq) ∨
      dispatchHeld d st site = true) := by
    simp only [runs, going, waits, free, Bool.and_eq_true, Bool.not_eq_true']
    rintro (no | no | no | ⟨⟨asked, alone⟩, later⟩ | no)
    · exact no rfl
    · exact nomatch no
    · exact nomatch no
    · exact later (barrier asked alone)
    · exact nomatch no
  have notSched : ¬ (hEngine x.bytes = 8 ∨ hEngine x.bytes = 9) := by omega
  have notDump : ¬ hEngine x.bytes = 10 := by omega
  refine ⟨1, traceUnit { x with phase := .dispatched, sent := some d.tb, unit := (x.sentTo u d.tb).unit }, x.seq, ?_⟩
  simp only [dispatchNext, next, sited, if_neg notBlocked, if_neg notSched, picked, if_neg notDump]
  rfl

end

/-- A dispatch leaves the descriptor on its way in the engine's queue, and wakes the core. -/
theorem dispatched_spec {site : Nat} (inTable : site < 2 ^ 6) (d : Dev) (st : Nat) (y : SDesc) (h : Handoff) (k e arg : Nat) :
    let t := (traceStrm (putDesc (wakeCore d site) st y) st k e arg).handedOn st h
    t.handoff = d.handoff ++ [h] ∧ t.wq = d.wq ∧
    (getStrm t st).held = (getStrm d st).held.map (fun z => if z.seq = y.seq then y else z) ∧
    ∀ (r : RegDesc) (ix : List Nat), 2 ^ 32 ≤ r.base → rdReg t r ix = rdReg d r ix := by
  obtain ⟨a, traced⟩ : ∃ a, a = traceStrm (putDesc (wakeCore d site) st y) st k e arg := ⟨_, rfl⟩
  have only : dbgOnly (putDesc (wakeCore d site) st y) a := traced ▸ traceStrm_dbgOnly ..
  obtain ⟨keeps, regs, dbg, woken⟩ := wakeCore_spec d site
  obtain ⟨⟨strm, dbg', steps⟩, held⟩ := afterStep_spec { a with handoff := a.handoff ++ [h] } st
  have regs' : (afterStep { a with handoff := a.handoff ++ [h] } st).regs = (wakeCore d site).regs := by
    rw [steps]; exact only.regs
  rw [← traced]
  dsimp only [Dev.handedOn]
  refine ⟨?_, ?_, ?_, fun r ix above => ?_⟩
  · rw [steps, only, woken]
    rfl
  · rw [steps]
    exact only.wq.trans (by rw [woken]; rfl)
  · rw [held]
    change (getStrm a st).held = _
    rw [getStrm_congr only.strm, held_putDesc, woken]
    rfl
  · rw [rdReg, regs']
    exact rdReg_wakeCore inTable above d ix

/-- The stream that was served last is served last of its core's streams of one priority (R187). -/
theorem servedBefore_turn {d : Dev} {core st b : Nat} (turn : Sparse.get 0 d.turn core = (st + 1) % 65536)
    (inTable : st < 65536) (inTable' : b < 65536) (other : b ≠ st)
    (prio : strmCfg d b Fld.HUB_STRM_CFG_prio = strmCfg d st Fld.HUB_STRM_CFG_prio) : servedBefore d core b st = true := by
  have later : (b + 65536 - (st + 1) % 65536) % 65536 < (st + 65536 - (st + 1) % 65536) % 65536 := by omega
  simp only [servedBefore, turn, prio, beq_self_eq_true, decide_eq_true later, Bool.and_self, Bool.or_true]

/-- A ready stream dispatches where no other is served first, and its core's rotation then stands past it (R187). -/
def Dev.served (d : Dev) (st : Nat) : Dev :=
  let d := dispatchNext d st
  { d with turn := Sparse.set 0 d.turn (strmCore d st) ((st + 1) % 65536) }

/-- After a ready stream is served, its core's rotation stands past it, and no register of a stream has changed. -/
theorem served_spec {d : Dev} {st site : Nat} {y : SDesc} {h : Handoff} {k e arg : Nat} (inTable : site < 2 ^ 6)
    (sends : dispatchNext d st = (traceStrm (putDesc (wakeCore d site) st y) st k e arg).handedOn st h) :
    (d.served st).handoff = d.handoff ++ [h] ∧ (d.served st).wq = d.wq ∧
    (getStrm (d.served st) st).held = (getStrm d st).held.map (fun z => if z.seq = y.seq then y else z) ∧
    (∀ b f, strmCfg (d.served st) b f = strmCfg d b f) ∧
    Sparse.get 0 (d.served st).turn (strmCore d st) = (st + 1) % 65536 := by
  obtain ⟨handoff, wq, held, keeps⟩ := dispatched_spec inTable d st y h k e arg
  rw [← sends] at handoff wq held keeps
  have cfg (b : Nat) (f : Fld) : strmCfg (dispatchNext d st) b f = strmCfg d b f :=
    congrArg f.get (keeps Reg.HUB_STRM_CFG [b] (by decide))
  refine ⟨handoff, wq, held, cfg, ?_⟩
  rw [← show strmCore (dispatchNext d st) st = strmCore d st from cfg ..]
  exact Sparse.get_set_same ..

end Sys2Proof.Machine
end

section
/-!
SUPPORT. The commands on waits, locks and dispatch, each with what it leaves.
-/
namespace Sys2Proof.Machine

theorem cnt_congr {d d' : Dev} (same : d'.regs = d.regs) (st : Nat) (r : RegDesc) : cnt d' st r = cnt d st r := by
  unfold cnt rdReg
  rw [same]

/-- What is held after a fetch from a device that read the entry and left the streams as they were. -/
theorem holdFetched_from {d d' : Dev} (same : d'.strm = d.strm) (st : Nat) (r : Except MemErr (List Byte)) :
    cnt (holdFetched d' st r) st Reg.HUB_STRM_FETCH = (cnt d' st Reg.HUB_STRM_FETCH + 1) % 2 ^ 32 ∧
    (getStrm (holdFetched d' st r) st).held = (getStrm d st).held ++ [match r with
      | .ok b => { seq := cnt d' st Reg.HUB_STRM_FETCH, bytes := b,
                   phase := if headerStatus d' st b = 0 then .fetched else .done, status := headerStatus d' st b }
      | .error _ => { seq := cnt d' st Reg.HUB_STRM_FETCH, bytes := leBytes 64 0, phase := .done, status := 0x88 }] := by
  obtain ⟨counts, held, -⟩ := holdFetched_spec d' st r
  rw [getStrm_congr same] at held
  refine ⟨counts, held.trans ?_⟩
  cases r <;> rfl

section
variable {s : State} {x : SDesc}

/-- A waiter is examined (R208). -/
theorem exec_waiterSatisfied (s : State) (stream : BitVec 16) :
    exec (.waiterSatisfied stream) s = .next (s.settle (examine s.dev.rest stream.toNat)) :=
  run_settle (f := fun _ d => examine d stream.toNat) rfl

/-- The waiter that is released or decided is replaced, and nothing else of its stream (R208, R212). -/
theorem waiterSatisfied_putDesc {stream : BitVec 16} {y : SDesc} (seq : y.seq = x.seq)
    (examined : examine s.dev.rest stream.toNat = putDesc (endWait s.dev.rest stream.toNat x) stream.toNat y) :
    ∃ t, exec (.waiterSatisfied stream) s = .next t ∧ t.mem = s.mem ∧ t.dev.regs = s.dev.regs ∧
      (getStrm t.dev stream.toNat).held =
        (getStrm s.dev stream.toNat).held.map (fun z => if z.seq = x.seq then y else z) := by
  obtain ⟨held, regs, wq⟩ := putDesc_endWait_spec s.dev.rest stream.toNat x y
  rw [exec_waiterSatisfied, examined]
  rw [seq] at held
  exact ⟨_, rfl, settle_mem_of_quiet s wq, regs, held⟩

/-- The first waiter of a free counter is examined (R210). -/
theorem exec_lockGranted {ctr : BitVec 16} {st : Nat} {rest : List Nat} (free : (getCtr s.dev ctr.toNat).holder = none)
    (first : (getCtr s.dev ctr.toNat).waiters = st :: rest) (clean : (getCtr s.dev ctr.toNat).poison = false) :
    exec (.lockGranted ctr) s = .next (s.settle (examine s.dev.rest st)) := by
  refine run_settle (f := fun _ d =>
    let c := getCtr d ctr.toNat
    match c.holder, c.waiters with
    | none, st :: _ => if c.poison then d else examine d st
    | _, _ => d) ?_
  change (match (getCtr s.dev ctr.toNat).holder, (getCtr s.dev ctr.toNat).waiters with
    | none, st :: _ => if (getCtr s.dev ctr.toNat).poison then s.dev.rest else examine s.dev.rest st
    | _, _ => s.dev.rest) = _
  rw [free, first, clean]
  rfl

theorem exec_descriptorDispatch_ready {stream : BitVec 16} (examined : examine s.dev.rest stream.toNat = s.dev.rest)
    (isReady : ready s.dev.rest stream.toNat = true) : exec (.descriptorDispatch stream) s =
      .next (s.settle (if outranked s.dev stream.toNat then s.dev.rest else s.dev.rest.served stream.toNat)) := by
  refine run_settle (f := fun _ d =>
    let st := stream.toNat
    let d := examine d st
    if ready d st = false then dispatchNext d st
    else if outranked d st then d
    else
      let d := dispatchNext d st
      { d with turn := Sparse.set 0 d.turn (strmCore d st) ((st + 1) % 65536) }) ?_
  dsimp only
  rw [examined, isReady, if_neg (by decide)]
  rfl

end

end Sys2Proof.Machine
end

section
/-!
SETTLED. The streams and counters family, fetch and dispatch (O28).
-/
namespace Sys2Proof.Machine

/-- Settles O28: each command is one path of its effect; a dispatch moves the rotation of its core past the stream. -/
theorem streamFetchWaitAndDispatch : Obligations.StreamFetchWaitAndDispatch := by
  refine ⟨fun s stream ext er => ⟨fun idle => exec_fetch_idle idle ext er, fun may => ⟨?_, ?_⟩⟩,
    fun s stream x next waits unmet notSync => ⟨fun poisoned => ?_, fun clean reached => ?_⟩,
    fun s ctr stream rest x free first clean next sync noWait left lock counter => ?_,
    fun s stream x site u next sited runs going engine met barrier free picked => ?_⟩
  · obtain ⟨counts, held, wq⟩ := holdFetched_spec s.dev.rest stream.toNat (.error er)
    exact ⟨_, exec_fetchErr may er, settle_mem_of_quiet s wq, counts, held⟩
  · have host := readEntry_host (d := s.dev.rest.given ext) (st := stream.toNat)
    have strm := (readEntry_memOnly ⟨s.fuses, s.mem⟩ (s.dev.rest.given ext) stream.toNat
      (cnt s.dev stream.toNat Reg.HUB_STRM_FETCH)).strm
    refine ⟨_, exec_descriptorFetch may ext, fun outside => ?_, ?_⟩
    · obtain ⟨ext', reads⟩ := host outside ⟨s.fuses, s.mem⟩ (cnt s.dev stream.toNat Reg.HUB_STRM_FETCH)
      exact ⟨settle_mem_of_quiet s ((holdFetched_spec ..).2.2.trans (congrArg Dev.wq reads)),
        cnt_congr (congrArg Dev.regs reads) ..⟩
    · exact holdFetched_from strm stream.toNat (readEntry ..).1
  · exact waiterSatisfied_putDesc rfl (examine_poisoned (d := s.dev.rest) next waits unmet poisoned)
  · exact waiterSatisfied_putDesc rfl (examine_reached (d := s.dev.rest) next waits unmet clean reached notSync)
  · have slots : takesSlots stream.toNat s.dev.rest (trySlots stream.toNat 5 x s.dev.rest) := takesSlots_trySlots ..
    have holds := holder_trySlots_lock (fuel := 4) (d := s.dev.rest) left lock counter clean free first
    refine ⟨_, exec_lockGranted free first clean, ?_⟩
    rw [examine_sync (d := s.dev.rest) next noWait sync]
    exact ⟨settle_mem_of_quiet s (congrArg Dev.wq slots.1), (congrArg Dev.regs slots.1 :), holds⟩
  · have notSync : hEngine x.bytes ≠ 8 := by omega
    have executes := exec_descriptorDispatch_ready (examine_met (d := s.dev.rest) next met notSync)
      (ready_of_met (d := s.dev.rest) next sited runs going engine met barrier free picked)
    refine ⟨fun outranks => executes.trans (by rw [outranks]; rfl), fun first => ?_⟩
    obtain ⟨k, e, arg, sends⟩ := dispatchNext_engine (d := s.dev.rest) next sited runs going engine met barrier free picked
    obtain ⟨handoff, wq, held, cfg, turn⟩ := served_spec (strmSite_lt sited) sends
    rw [first] at executes
    refine ⟨_, executes, settle_mem_of_quiet s wq, handoff.trans ?_, held, fun b inTable other prio =>
      servedBefore_turn turn stream.isLt inTable other (((cfg ..).trans prio).trans (cfg ..).symm)⟩
    rw [handoffOf, BitVec.ofNat_toNat, BitVec.setWidth_eq]
    rfl

end Sys2Proof.Machine
end

section
/-!
SUPPORT. What taking a descriptor out of its engine leaves alone (R109, R201): streams, counters, reports and traces.
-/
namespace Sys2Proof.Machine

/-- A change that pulls descriptors out of engines: registers, core memory and the engines change, no stream does. -/
def pulls (d d' : Dev) : Prop :=
  d' = { d with regs := d'.regs, wq := d'.wq, freeCtr := d'.freeCtr, mxe := d'.mxe, eng := d'.eng,
                handoff := d'.handoff, engDone := d'.engDone }

theorem pulls_refl (d : Dev) : pulls d d := rfl

theorem pulls_trans {a b c : Dev} (h : pulls a b) (k : pulls b c) : pulls a c := by
  unfold pulls at *
  rw [k, h]

theorem pulls_foldl {α : Type} {f : Dev → α → Dev} (step : ∀ d x, pulls d (f d x)) (xs : List α) (d : Dev) :
    pulls d (xs.foldl f d) := by
  induction xs generalizing d with
  | nil => rfl
  | cons x xs ih => exact pulls_trans (step d x) (ih _)

section
variable {d d' : Dev} (h : pulls d d')
include h

theorem pulls.strm : d'.strm = d.strm := by unfold pulls at h; rw [h]
theorem pulls.reports : d'.reports = d.reports := by unfold pulls at h; rw [h]

end

theorem undefRanges_pulls (d : Dev) (site : Nat) (rs : List (Nat × Nat)) : pulls d (undefRanges d site rs) := by
  refine pulls_foldl (fun d r => pulls_foldl (fun d k => ?_) _ d) rs d
  split <;> rfl

theorem mxeInvalidate_pulls (d : Dev) (site : Nat) (x : MxeDesc) : pulls d (mxeInvalidate d site x) :=
  pulls_foldl (f := fun d r => wrReg d Reg.MXE_ROW_STATE [site, x.accRow + r] 0) (fun _ _ => rfl) _ d

theorem engDrop_pulls (d : Dev) (site u : Nat) (st : BitVec 16) (q : BitVec 32) : pulls d (engDrop d site u st q) := by
  unfold engDrop
  dsimp only
  split_ifs <;> rfl

theorem engAbort_pulls (d : Dev) (site u : Nat) (st : BitVec 16) (q : BitVec 32) : pulls d (engAbort d site u st q) := by
  unfold engAbort
  refine pulls_trans ?_ (engDrop_pulls ..)
  split
  · split
    · exact undefRanges_pulls ..
    · rfl
  · rfl

/-- The rows and the output of a descriptor that leaves the matrix engine after it has issued are undefined (R109). -/
theorem invalidated_pulls (d : Dev) (site : Nat) (x : MxeDesc) (issued : Bool) :
    pulls d (if issued then undefRanges (mxeInvalidate d site x) site x.outRanges else d) := by
  cases issued
  · rfl
  · exact pulls_trans (mxeInvalidate_pulls ..) (undefRanges_pulls ..)

theorem setMxe_pulls {d d' : Dev} (h : pulls d d') (site : Nat) (m : Mxe) : pulls d (setMxe d' site m) := pulls_trans h rfl

theorem mxeAbort_pulls (d : Dev) (site : Nat) (st : BitVec 16) (q : BitVec 32) : pulls d (mxeAbort d site st q) := by
  unfold mxeAbort
  dsimp only
  split
  · split
    · exact setMxe_pulls (invalidated_pulls ..) ..
    · split
      · split
        · exact setMxe_pulls (invalidated_pulls ..) ..
        · rfl
      · rfl
  · split
    · exact setMxe_pulls (invalidated_pulls ..) ..
    · rfl
  · rfl

/-- A descriptor that its engines stop working on leaves every stream and every report as they were (R201). -/
theorem pullDesc_pulls (d : Dev) (st : Nat) (x : SDesc) : pulls d (pullDesc d st x) := by
  unfold pullDesc
  dsimp only
  split
  · rfl
  · refine pulls_trans (b := { d with
      handoff := d.handoff.filter (fun h => !(h.job.stream == BitVec.ofNat 16 st && h.job.seq == BitVec.ofNat 32 x.seq)),
      engDone := d.engDone.filter (fun r => !(r.stream == BitVec.ofNat 16 st && r.seq == BitVec.ofNat 32 x.seq)) }) rfl ?_
    exact pulls_trans (mxeAbort_pulls ..) (pulls_foldl (fun _ _ => engAbort_pulls ..) _ _)

end Sys2Proof.Machine
end

section
/-!
SUPPORT. How a descriptor is decided (R194, R197, R198): its counter, its counts and its record.
-/
namespace Sys2Proof.Machine

/-- The header signal of a descriptor that is decided, and its trace (R194). -/
def Dev.signalled (d : Dev) (st : Nat) (x : SDesc) (status : Nat) : Dev :=
  traceStrm (countDone (headerSignal d st status x.bytes) st (traceUnit x)) st 3 (traceUnit x)
    (x.seq % 2 ^ 24 + 2 ^ 24 * status)

theorem ctrDo_ctrOnly (d : Dev) (who : Option Nat) (c op v : Nat) : ctrOnly d (ctrDo d who c op v).2 := by
  unfold ctrDo
  split <;> rfl

theorem headerSignal_ctrOnly (d : Dev) (st status : Nat) (b : List Byte) : ctrOnly d (headerSignal d st status b) := by
  unfold headerSignal
  split_ifs
  · rfl
  · exact ctrDo_ctrOnly ..
  · rfl
  · rfl

theorem countDone_dbgOnly (d : Dev) (st e : Nat) : dbgOnly d (countDone d st e) := by
  unfold countDone
  split <;> rfl

/-- A signal changes counters, and what is traced and counted of the engines. -/
theorem signalled_spec (d : Dev) (st : Nat) (x : SDesc) (status : Nat) :
    ∃ ctr dbg, d.signalled st x status = { d with ctr := ctr, dbg := dbg } := by
  have signal := headerSignal_ctrOnly d st status x.bytes
  have traced := dbgOnly_trans (countDone_dbgOnly (headerSignal d st status x.bytes) st (traceUnit x))
    (traceStrm_dbgOnly _ st 3 (traceUnit x) (x.seq % 2 ^ 24 + 2 ^ 24 * status))
  refine ⟨(headerSignal d st status x.bytes).ctr, (d.signalled st x status).dbg, ?_⟩
  rw [Dev.signalled, traced, signal]

/-- The commit count passes a descriptor, and its status is the last one (R194). -/
def Dev.passed (d : Dev) (st : Nat) (x : SDesc) (status : Nat) : Dev :=
  fset (setCnt (d.signalled st x status) st Reg.HUB_STRM_COMMIT (x.seq + 1)) Reg.HUB_STRM_STAT [st]
    Fld.HUB_STRM_STAT_last_status status

/-- A decided descriptor leaves a record, or none where it is quiet (R198). -/
theorem settleDesc_cases (d : Dev) (st : Nat) (x : SDesc) (status : Nat) :
    settleDesc d st x status = d.passed st x status ∨ settleDesc d st x status = strmVector (d.passed st x status) st ∨
    ∃ r, settleDesc d st x status = pushRec (d.passed st x status) st r := by
  unfold settleDesc
  dsimp only
  split_ifs
  · exact .inr (.inl rfl)
  · exact .inl rfl
  · exact .inr (.inr ⟨_, rfl⟩)

/-- Of its stream a decided descriptor changes the records, of the registers the commit count and the status. -/
theorem settleDesc_spec (d : Dev) (st : Nat) (x : SDesc) (status : Nat) :
    (∃ rs, getStrm (settleDesc d st x status) st = { getStrm d st with recs := rs }) ∧
    (settleDesc d st x status).regs = (d.passed st x status).regs ∧ (settleDesc d st x status).wq = d.wq ∧
    (settleDesc d st x status).engDone = d.engDone := by
  obtain ⟨ctr, dbg, signal⟩ := signalled_spec d st x status
  have strm : getStrm (d.passed st x status) st = getStrm d st := by rw [Dev.passed, signal]; rfl
  have wq : (d.passed st x status).wq = d.wq := by rw [Dev.passed, signal]; rfl
  have done : (d.passed st x status).engDone = d.engDone := by rw [Dev.passed, signal]; rfl
  rcases settleDesc_cases d st x status with quiet | quiet | ⟨r, record⟩
  · rw [quiet]
    exact ⟨⟨_, strm⟩, rfl, wq, done⟩
  · obtain ⟨m, os, vector⟩ := strmVector_spec (d.passed st x status) st
    rw [quiet, vector]
    exact ⟨⟨_, strm⟩, rfl, wq, done⟩
  · rw [record, getStrm_pushRec, strm]
    exact ⟨⟨_, rfl⟩, rfl, wq, done⟩

section
variable (d : Dev) (st : Nat) (x : SDesc) (status : Nat)

theorem commit_settleDesc : cnt (settleDesc d st x status) st Reg.HUB_STRM_COMMIT = (x.seq + 1) % 2 ^ 32 := by
  rw [cnt_congr (settleDesc_spec ..).2.1]
  exact (cnt_fset_base (by decide) (by decide) ..).trans (cnt_setCnt_same ..)

theorem last_status_settleDesc : fget (settleDesc d st x status) Reg.HUB_STRM_STAT [st] Fld.HUB_STRM_STAT_last_status =
    status % 256 := by
  rw [fget_congr (settleDesc_spec ..).2.1]
  exact fget_fset_same _ _ _ _ _ (by decide) (by decide)

theorem statusStops_settleDesc (n : Nat) : statusStops (settleDesc d st x status) st n = statusStops d st n := by
  obtain ⟨ctr, dbg, signal⟩ := signalled_spec d st x status
  have cfg : strmCfg (settleDesc d st x status) st Fld.HUB_STRM_CFG_stop_on_err =
      strmCfg d st Fld.HUB_STRM_CFG_stop_on_err := by
    rw [strmCfg, fget_congr (settleDesc_spec ..).2.1, Dev.passed, fget_fset_base (by decide) (by decide), setCnt,
      fget_wrReg_base (by decide) (by decide), signal]
    rfl
  rw [statusStops, cfg]
  rfl

end

/-- Descriptors that are flushed leave the hidden state of their stream but for its records (R201). -/
theorem getStrm_flushDescs (st status : Nat) (xs : List SDesc) (d : Dev) :
    ∃ rs, getStrm (flushDescs st status xs d) st = { getStrm d st with recs := rs } := by
  induction xs generalizing d with
  | nil => exact ⟨_, rfl⟩
  | cons x xs ih =>
    unfold flushDescs
    obtain ⟨rs, flushed⟩ := ih (settleDesc (pullDesc d st x) st { x with flags := {}, detail := 0, busy := _ } status)
    obtain ⟨⟨rs', decided⟩, -⟩ := settleDesc_spec (pullDesc d st x) st { x with flags := {}, detail := 0, busy := _ } status
    rw [decided, getStrm_congr (pullDesc_pulls ..).strm] at flushed
    exact ⟨rs, flushed⟩

end Sys2Proof.Machine
end

section
/-!
SUPPORT. The commit of a stream's head (R194, R198, R214, R215), and DESCRIPTOR_DONE, SYNC and WADV.
-/
namespace Sys2Proof.Machine

/-- The head of a stream is done, and nothing holds its commit back. -/
def mayCommit (d : Dev) (st : Nat) (x : SDesc) (rest : List SDesc) : Prop :=
  (getStrm d st).held = x :: rest ∧ ¬ (x.phase ≠ .done ∨ (getStrm d st).stopping = true ∨ recRoom d st = false ∨
    strmState d st ≠ 1 ∨ (getStrm d st).abort = some x.seq ∨ (getStrm d st).disabling = true ∨ devHalted d = true)

theorem mayCommit_intro {d : Dev} {st : Nat} {x : SDesc} {rest : List SDesc} (held : (getStrm d st).held = x :: rest)
    (done : x.phase = .done) (going : (getStrm d st).stopping = false) (room : recRoom d st = true)
    (runs : strmState d st = 1) (kept : (getStrm d st).abort ≠ some x.seq) (enabled : (getStrm d st).disabling = false)
    (up : devHalted d = false) : mayCommit d st x rest := by
  refine ⟨held, ?_⟩
  simp [done, going, room, runs, kept, enabled, up]

/-- A stream whose head commits with a status (R194): it stops where the status stops it (R201). -/
def Dev.committed (d : Dev) (st : Nat) (x : SDesc) (rest : List SDesc) (status : Nat) : Dev :=
  let d := settleDesc (setStrm d st { getStrm d st with held := rest }) st x status
  if statusStops d st status then setStrm d st { getStrm d st with stopping := true } else d

section
variable (d : Dev) (st : Nat) (x : SDesc) (rest : List SDesc) (status : Nat)

theorem getStrm_committed : ∃ rs, getStrm (d.committed st x rest status) st =
    { getStrm d st with held := rest, recs := rs, stopping := statusStops d st status || (getStrm d st).stopping } := by
  obtain ⟨⟨rs, decided⟩, -⟩ := settleDesc_spec (setStrm d st { getStrm d st with held := rest }) st x status
  rw [getStrm_setStrm_same] at decided
  have stops : statusStops (settleDesc (setStrm d st { getStrm d st with held := rest }) st x status) st status =
      statusStops d st status := statusStops_settleDesc ..
  unfold Dev.committed
  dsimp only
  rw [stops]
  cases statusStops d st status
  · exact ⟨rs, decided⟩
  · exact ⟨rs, by rw [if_pos rfl, getStrm_setStrm_same, decided]; rfl⟩

theorem committed_spec : cnt (d.committed st x rest status) st Reg.HUB_STRM_COMMIT = (x.seq + 1) % 2 ^ 32 ∧
    fget (d.committed st x rest status) Reg.HUB_STRM_STAT [st] Fld.HUB_STRM_STAT_last_status = status % 256 ∧
    (d.committed st x rest status).wq = d.wq ∧ (d.committed st x rest status).engDone = d.engDone := by
  have commit := commit_settleDesc (setStrm d st { getStrm d st with held := rest }) st x status
  have last := last_status_settleDesc (setStrm d st { getStrm d st with held := rest }) st x status
  obtain ⟨-, -, wq, done⟩ := settleDesc_spec (setStrm d st { getStrm d st with held := rest }) st x status
  unfold Dev.committed
  dsimp only
  split_ifs
  · exact ⟨commit, last, wq, done⟩
  · exact ⟨commit, last, wq, done⟩

end

section
variable {d : Dev} {st : Nat} {x : SDesc} {rest : List SDesc} (may : mayCommit d st x rest) (e : Env)
include may

/-- A descriptor of an engine commits with the status that was reported. -/
theorem commitOne_engine (engine : hEngine x.bytes < 8) : commitOne e d st = some (d.committed st x rest x.status) := by
  obtain ⟨held, open_⟩ := may
  have notSync : hEngine x.bytes ≠ 8 := by omega
  have notWadv : hEngine x.bytes ≠ 9 := by omega
  simp only [commitOne, held, if_neg open_, if_neg notSync, if_neg notWadv]
  by_cases ok : x.status = 0
  · rw [ok]
    rfl
  · rw [if_pos ok]
    rfl

/-- A SYNC descriptor commits once its slots are performed, with SYNC_REFUSED where one is refused (R214). -/
theorem commitOne_sync (fresh : x.status = 0) (sync : hEngine x.bytes = 8) {ok : Bool} {d' : Dev}
    (slots : commitSlots st x.seq x.bytes 5 0 d = some (ok, d')) :
    commitOne e d st = some (d'.committed st x rest (if ok then 0 else 0x87)) := by
  obtain ⟨held, open_⟩ := may
  simp only [commitOne, held, if_neg open_, fresh, sync, slots]
  rfl

/-- The status of a WADV descriptor: RECORD where the update of its record failed (R215). -/
def wadvStatus : Except MemErr (List Byte) → Nat
  | .ok _ => 0
  | .error _ => 0x06

omit may in
theorem wadvStatus_lt (r : Except MemErr (List Byte)) : wadvStatus r < 256 := by
  cases r
  · show 6 < 256
    decide
  · show 0 < 256
    decide

/-- A WADV descriptor commits with its record's update (R215). -/
theorem commitOne_wadv (fresh : x.status = 0) (wadv : hEngine x.bytes = 9) :
    let r := pkgAtomic e d (schedReq d st) (dfield x.bytes 16 51 0) .recAdvance
    commitOne e d st = some (r.2.committed st x rest (wadvStatus r.1)) := by
  obtain ⟨held, open_⟩ := may
  simp only [commitOne, held, if_neg open_, fresh, wadv]
  rcases pkgAtomic e d (schedReq d st) (dfield x.bytes 16 51 0) .recAdvance with ⟨r | r, d'⟩
  · rfl
  · rfl

end

theorem commitOne_empty {d : Dev} {st : Nat} (empty : (getStrm d st).held = []) (e : Env) : commitOne e d st = none := by
  simp only [commitOne, empty]

theorem commitAll_empty {d : Dev} {st : Nat} (empty : (getStrm d st).held = []) (e : Env) (fuel : Nat) :
    commitAll e st fuel d = d := by
  cases fuel with
  | zero => rfl
  | succ fuel => simp only [commitAll, commitOne_empty empty]

/-- The last descriptor held commits alone. -/
theorem commitAll_single {d : Dev} {st : Nat} {x : SDesc} (may : mayCommit d st x []) (engine : hEngine x.bytes < 8) (e : Env)
    (fuel : Nat) : commitAll e st (fuel + 1) d = d.committed st x [] x.status := by
  obtain ⟨rs, strm⟩ := getStrm_committed d st x [] x.status
  rw [commitAll, commitOne_engine may e engine]
  exact commitAll_empty (by rw [strm]) e fuel

theorem recRoom_congr {d d' : Dev} (regs : d'.regs = d.regs) {st : Nat} (recs : (getStrm d' st).recs = (getStrm d st).recs) :
    recRoom d' st = recRoom d st := by
  have ring : compRing d' st = compRing d st := by
    unfold compRing ringOf rdReg
    rw [regs]
  rw [recRoom, recRoom, recs, cnt_congr regs, cnt_congr regs, ring]

theorem statusStops_congr {d d' : Dev} (regs : d'.regs = d.regs) (st n : Nat) :
    statusStops d' st n = statusStops d st n := by
  rw [statusStops, statusStops, strmCfg, strmCfg, fget_congr regs]

/-- A dispatched descriptor is done once its engine has reported it. -/
def SDesc.reported (x : SDesc) (r : EngDone) (tb : Nat) : SDesc :=
  { x with phase := .done, status := r.status, flags := r.flags, detail := r.detail,
           busy := min (tb - x.sent.getD tb) 0xFFFFFFFF }

/-- The first report for a stream makes the one descriptor it holds done (R194). -/
theorem takeDone_single {d : Dev} {st : Nat} {x : SDesc} {r : EngDone}
    (first : d.engDone.find? (fun r => r.stream.toNat == st) = some r) (held : (getStrm d st).held = [x])
    (out : x.phase = .dispatched) (seq : x.seq = r.seq.toNat) :
    (takeDone d st).regs = d.regs ∧ (takeDone d st).wq = d.wq ∧ (takeDone d st).engDone = d.engDone.erase r ∧
    getStrm (takeDone d st) st = { getStrm d st with held := [x.reported r d.tb] } := by
  have found : (getStrm d st).held.find? (fun y => y.seq == r.seq.toNat && y.phase == .dispatched) = some x := by
    simp [held, out, seq]
  have traced := traceStrm_dbgOnly { d with engDone := d.engDone.erase r } st 2 (traceUnit x) x.seq
  have takes : takeDone d st = putDesc (traceStrm { d with engDone := d.engDone.erase r } st 2 (traceUnit x) x.seq) st
      (x.reported r d.tb) := by
    unfold takeDone
    rw [first]
    dsimp only
    rw [show getStrm { d with engDone := d.engDone.erase r } st = getStrm d st from rfl, found]
    rfl
  have strm := getStrm_congr traced.strm st
  rw [takes, putDesc, getStrm_setStrm_same, strm]
  refine ⟨traced.regs, traced.wq, congrArg Dev.engDone traced, ?_⟩
  rw [show getStrm { d with engDone := d.engDone.erase r } st = getStrm d st from rfl, held]
  simp [SDesc.reported]

end Sys2Proof.Machine
end

section
/-!
SUPPORT. DESCRIPTOR_DONE, SYNC and WADV (R194, R214, R215), each with what it leaves of its stream.
-/
namespace Sys2Proof.Machine

/-- What DESCRIPTOR_DONE takes leaves its stream's head ready to commit. -/
theorem mayCommit_takeDone {d : Dev} {st : Nat} {x : SDesc} {r : EngDone}
    (first : d.engDone.find? (fun r => r.stream.toNat == st) = some r) (held : (getStrm d st).held = [x])
    (out : x.phase = .dispatched) (seq : x.seq = r.seq.toNat) (going : (getStrm d st).stopping = false)
    (room : recRoom d st = true) (runs : strmState d st = 1) (kept : (getStrm d st).abort ≠ some x.seq)
    (enabled : (getStrm d st).disabling = false) (up : devHalted d = false) :
    mayCommit (takeDone d st) st (x.reported r d.tb) [] := by
  obtain ⟨regs, -, -, strm⟩ := takeDone_single first held out seq
  have state : strmState (takeDone d st) st = 1 := (fget_congr regs ..).trans runs
  have halted : devHalted (takeDone d st) = false := (congrArg (· == 1) (fget_congr regs ..)).trans up
  have room' : recRoom (takeDone d st) st = true := (recRoom_congr regs (by rw [strm])).trans room
  refine mayCommit_intro (by rw [strm]) rfl (by rw [strm]; exact going) room' state ?_ (by rw [strm]; exact enabled) halted
  rw [strm]
  exact kept

theorem exec_descriptorDone_single {s : State} {stream : BitVec 16} {x : SDesc} {r : EngDone}
    (may : mayCommit (takeDone s.dev.rest stream.toNat) stream.toNat (x.reported r s.dev.tb) [])
    (engine : hEngine x.bytes < 8) : exec (.descriptorDone stream) s =
      .next (s.settle ((takeDone s.dev.rest stream.toNat).committed stream.toNat (x.reported r s.dev.tb) [] r.status)) :=
  run_settle (f := fun e d => commitAll e stream.toNat 17 (takeDone d stream.toNat)) (commitAll_single may engine ..)

section
variable {s : State} {stream : BitVec 16} {x : SDesc} {rest : List SDesc} {d : Dev}

/-- The head commits if it is of the command's engine code (R214, R215). -/
theorem commitKind_head {e : Env} (held : (getStrm s.dev stream.toNat).held = x :: rest)
    (commits : commitOne e s.dev.rest stream.toNat = some d) :
    commitKind e s.dev.rest stream.toNat (hEngine x.bytes) = d := by
  have held' : (getStrm s.dev.rest stream.toNat).held = x :: rest := held
  rw [commitKind, held', commits]
  exact if_pos rfl

theorem exec_syncDesc_head (held : (getStrm s.dev stream.toNat).held = x :: rest) (sync : hEngine x.bytes = 8)
    (commits : commitOne ⟨s.fuses, s.mem⟩ s.dev.rest stream.toNat = some d) :
    exec (.syncDesc stream) s = .next (s.settle d) :=
  run_settle (f := fun e d => commitKind e d stream.toNat 8) (sync ▸ commitKind_head held commits)

theorem exec_wadv_head (held : (getStrm s.dev stream.toNat).held = x :: rest) (wadv : hEngine x.bytes = 9)
    (commits : commitOne ⟨s.fuses, s.mem⟩ s.dev.rest stream.toNat = some d) :
    exec (.wadv stream) s = .next (s.settle d) :=
  run_settle (f := fun e d => commitKind e d stream.toNat 9) (wadv ▸ commitKind_head held commits)

end

end Sys2Proof.Machine
end

section
/-!
SUPPORT. Completion records (R197, R199, R588): written to the ring of host memory, or lost.
-/
namespace Sys2Proof.Machine

/-- The first record is gone, the completion count has advanced, and no other register has changed. -/
theorem popRec_spec (d : Dev) (st : Nat) :
    getStrm (popRec d st) st = { getStrm d st with recs := (getStrm d st).recs.drop 1 } ∧
    cnt (popRec d st) st Reg.HUB_STRM_CQT = (cnt d st Reg.HUB_STRM_CQT + 1) % 2 ^ 32 ∧
    (popRec d st).wq = d.wq ∧ (popRec d st).out = d.out ∧ strmState (popRec d st) st = strmState d st :=
  ⟨getStrm_setStrm_same .., cnt_setCnt_same .., rfl, rfl, fget_wrReg_base (by decide) (by decide) ..⟩

/-- A record that has been written is gone; its vector may be signalled and its stream's goal reached. -/
def Dev.recorded (d : Dev) (st : Nat) (c : CRec) : Dev :=
  let d := popRec d st
  reachGoal (if c.irq then strmVector d st else d) st

theorem recorded_spec (d : Dev) (st : Nat) (c : CRec) : (getStrm (d.recorded st c) st).recs = (getStrm d st).recs.drop 1 ∧
    cnt (d.recorded st c) st Reg.HUB_STRM_CQT = (cnt d st Reg.HUB_STRM_CQT + 1) % 2 ^ 32 ∧
    (d.recorded st c).wq = d.wq ∧ d.out ⊆ (d.recorded st c).out := by
  obtain ⟨strm, count, wq, out, -⟩ := popRec_spec d st
  obtain ⟨m, os, signals⟩ : ∃ m os, (if c.irq then strmVector (popRec d st) st else popRec d st) =
      { popRec d st with msix := m, out := (popRec d st).out ++ os } := by
    split
    · exact strmVector_spec ..
    · exact ⟨_, [], by rw [List.append_nil]⟩
  rw [Dev.recorded, signals]
  refine ⟨(recs_reachGoal ..).trans ?_, (cnt_reachGoal _ _ (by decide) (by decide) (by decide)).trans count,
    (reachGoal_wq ..).trans wq, fun o sent => reachGoal_out _ _ ?_⟩
  · exact congrArg Strm.recs strm
  · exact List.mem_append_left _ (out ▸ sent)

/-- The device after a record is lost, but for the stop of its stream: cq_err is set and the error reported (R588). -/
def Dev.missed (d : Dev) (st : Nat) (rs : List Report) : Dev :=
  { fset (popRec d st) Reg.HUB_STRM_STAT [st] Fld.HUB_STRM_STAT_cq_err 1 with reports := rs }

/-- A RUN stream whose state is not already changing stops at a lost record (R588). -/
def Dev.stoppedByLoss (d : Dev) (st : Nat) : Dev :=
  if strmState d st = 1 ∧ (getStrm d st).goal = none then setStrm d st { getStrm d st with stopping := true } else d

theorem stoppedByLoss_spec (d : Dev) (st : Nat) : (d.stoppedByLoss st).regs = d.regs ∧ (d.stoppedByLoss st).wq = d.wq ∧
    ∃ b, getStrm (d.stoppedByLoss st) st = { getStrm d st with stopping := b } ∧
      (strmState d st = 1 → (getStrm d st).goal = none → b = true) := by
  unfold Dev.stoppedByLoss
  split
  next stops => exact ⟨rfl, rfl, true, getStrm_setStrm_same .., fun _ _ => rfl⟩
  next goes => exact ⟨rfl, rfl, _, rfl, fun runs noGoal => absurd ⟨runs, noGoal⟩ goes⟩

theorem recordLost_eq (d : Dev) (st : Nat) (er : MemErr) (a : Nat) :
    ∃ rs, recordLost d st er a = reachGoal ((d.missed st rs).stoppedByLoss st) st := by
  cases er <;> exact ⟨_, rfl⟩

theorem missed_spec (d : Dev) (st : Nat) (rs : List Report) :
    getStrm (d.missed st rs) st = { getStrm d st with recs := (getStrm d st).recs.drop 1 } ∧
    cnt (d.missed st rs) st Reg.HUB_STRM_CQT = (cnt d st Reg.HUB_STRM_CQT + 1) % 2 ^ 32 ∧ (d.missed st rs).wq = d.wq ∧
    strmState (d.missed st rs) st = strmState d st ∧
    fget (d.missed st rs) Reg.HUB_STRM_STAT [st] Fld.HUB_STRM_STAT_cq_err = 1 := by
  obtain ⟨strm, count, wq, -, state⟩ := popRec_spec d st
  exact ⟨strm, (cnt_fset_base (by decide) (by decide) ..).trans count, wq,
    (fget_fset_field _ _ _ _ _ _ (by decide) (by decide) (by decide)).trans state,
    fget_fset_same _ _ _ _ _ (by decide) (by decide)⟩

theorem recordLost_spec (d : Dev) (st : Nat) (er : MemErr) (a : Nat) :
    (getStrm (recordLost d st er a) st).recs = (getStrm d st).recs.drop 1 ∧
    cnt (recordLost d st er a) st Reg.HUB_STRM_CQT = (cnt d st Reg.HUB_STRM_CQT + 1) % 2 ^ 32 ∧
    (recordLost d st er a).wq = d.wq ∧
    fbit (recordLost d st er a) Reg.HUB_STRM_STAT [st] Fld.HUB_STRM_STAT_cq_err = true ∧
    (strmState d st = 1 → (getStrm d st).goal = none → (getStrm (recordLost d st er a) st).stopping = true) := by
  obtain ⟨rs, eq⟩ := recordLost_eq d st er a
  obtain ⟨strm, count, wq, state, err⟩ := missed_spec d st rs
  obtain ⟨regs, wq', b, strm', stops⟩ := stoppedByLoss_spec (d.missed st rs) st
  rw [strm] at strm' stops
  rw [eq]
  refine ⟨(recs_reachGoal ..).trans ?_, ?_, (reachGoal_wq ..).trans (wq'.trans wq), ?_, fun runs noGoal => ?_⟩
  · rw [strm']
  · exact (cnt_reachGoal _ _ (by decide) (by decide) (by decide)).trans ((cnt_congr regs ..).trans count)
  · rw [fbit, fget_stat_reachGoal _ _ (by decide) (by decide) (by decide), fget_congr regs, err]
    rfl
  · rw [reachGoal_no_goal (by rw [strm']; exact noGoal), strm']
    exact stops (state.trans runs) noGoal

/-- The record that is written to the ring of host memory. -/
def ringWrite (d : Dev) (st port : Nat) (c : CRec) : Out :=
  let r := compRing d st
  let n := cnt d st Reg.HUB_STRM_CQT
  .hostWrite port (r.1 + 32 * (n % 2 ^ r.2.2)) (recBytes st c ((n / 2 ^ r.2.2) % 2 == 0))

theorem exec_completionRecordWrite (stream : BitVec 16) (resp : Resp) (s : State) :
    exec (.completionRecordWrite stream resp) s = execCompletionRecordWrite stream resp s := rfl

theorem exec_recordWriteError (stream : BitVec 16) (er : MemErr) (s : State) :
    exec (.recordWriteError stream er) s = execRecordWriteError stream er s := rfl

section
variable {s : State} {stream : BitVec 16} {c : CRec} {cs : List CRec}
  (recs : (getStrm s.dev.rest stream.toNat).recs = c :: cs) (up : devHalted s.dev.rest = false)
include recs

include up in
/-- A record is written where the ring has room and the port of host memory is up (R197, R199). -/
theorem exec_completionRecordWrite_host
    (room : sub32 (cnt s.dev.rest stream.toNat Reg.HUB_STRM_CQT) (cnt s.dev.rest stream.toNat Reg.HUB_STRM_CQH) <
      2 ^ (compRing s.dev.rest stream.toNat).2.2) (host : (compRing s.dev.rest stream.toNat).2.1 = false) {port : Nat}
    (served : strmPort s.dev.rest stream.toNat = some port) (portIsUp : portUp s.dev.rest port = true) :
    exec (.completionRecordWrite stream .ok) s = .next (s.settle
      ((emit s.dev.rest (ringWrite s.dev.rest stream.toNat port c)).recorded stream.toNat c)) := by
  rw [exec_completionRecordWrite, execCompletionRecordWrite]
  refine run_settle ?_
  have writes : ¬ (devHalted s.dev.rest = true ∨ 2 ^ (compRing s.dev.rest stream.toNat).2.2 ≤
      sub32 (cnt s.dev.rest stream.toNat Reg.HUB_STRM_CQT) (cnt s.dev.rest stream.toNat Reg.HUB_STRM_CQH)) := by
    rw [up]
    exact not_or.mpr ⟨nofun, Nat.not_le.mpr room⟩
  extract_lets st x r n
  rw [show x.recs = c :: cs from recs]
  refine (if_neg writes).trans ?_
  extract_lets a b
  refine (if_neg (ne_true_of_eq_false host)).trans ?_
  rw [show strmPort s.dev.rest st = some port from served]
  refine (if_neg (ne_true_of_eq_false (congrArg not portIsUp))).trans ?_
  rfl

/-- A record waits while the ring is full (R199). -/
theorem exec_completionRecordWrite_full (resp : Resp)
    (full : 2 ^ (compRing s.dev.rest stream.toNat).2.2 ≤
      sub32 (cnt s.dev.rest stream.toNat Reg.HUB_STRM_CQT) (cnt s.dev.rest stream.toNat Reg.HUB_STRM_CQH)) :
    exec (.completionRecordWrite stream resp) s = .next { s with dev := s.dev.rest } := by
  rw [exec_completionRecordWrite, execCompletionRecordWrite]
  refine run_device (d := s.dev.rest) ?_ rfl
  extract_lets st x r n
  rw [show x.recs = c :: cs from recs]
  exact if_pos (.inr full)

include up in
theorem exec_recordWriteError_lost (er : MemErr) : ∃ a, exec (.recordWriteError stream er) s =
    .next (s.settle (recordLost s.dev.rest stream.toNat er a)) := by
  rw [exec_recordWriteError, execRecordWriteError]
  refine ⟨(compRing s.dev.rest stream.toNat).1 + 32 * (cnt s.dev.rest stream.toNat Reg.HUB_STRM_CQT %
    2 ^ (compRing s.dev.rest stream.toNat).2.2), run_settle ?_⟩
  dsimp only
  rw [recs, up]
  exact if_neg nofun

end

end Sys2Proof.Machine
end

section
/-!
SUPPORT. Stops, timeouts and aborts (R201, R202, R205).
-/
namespace Sys2Proof.Machine

/-- A stopped stream holds nothing: no descriptor, no pending abort and no lock (R201). -/
theorem stopStream_spec (d : Dev) (st : Nat) : (getStrm (stopStream d st) st).held = [] ∧
    (getStrm (stopStream d st) st).stopping = false ∧ (getStrm (stopStream d st) st).abort = none ∧
    ∀ c, (getCtr (stopStream d st) c).holder ≠ some st := by
  obtain ⟨rs, flushed⟩ := getStrm_flushDescs st 0x81 (getStrm d st).held (setStrm d st { getStrm d st with held := [] })
  rw [getStrm_setStrm_same] at flushed
  obtain ⟨rs', d', -, winds, strm, -, -, free⟩ := windUp_spec
    (flushDescs st 0x81 (getStrm d st).held (setStrm d st { getStrm d st with held := [] })) st Strm.toStopped
  rw [flushed] at strm
  rw [stopStream_eq, winds]
  have emptied : (getStrm (reachGoal d' st) st).held = [] ∧ (getStrm (reachGoal d' st) st).stopping = false ∧
      (getStrm (reachGoal d' st) st).abort = none := by
    rcases getStrm_reachGoal d' st with same | ⟨-, same | reset⟩
    · rw [same, strm]
      exact ⟨rfl, rfl, rfl⟩
    · rw [same, strm]
      exact ⟨rfl, rfl, rfl⟩
    · rw [reset]
      exact ⟨rfl, rfl, rfl⟩
  obtain ⟨held, going, abort⟩ := emptied
  exact ⟨held, going, abort, holder_reachGoal free⟩

theorem exec_streamStop {s : State} {stream : BitVec 16} (stopping : (getStrm s.dev stream.toNat).stopping = true) :
    exec (.streamStop stream) s = .next (s.settle (stopStream s.dev.rest stream.toNat)) :=
  run_settle (f := fun _ d => if (getStrm d stream.toNat).stopping then stopStream d stream.toNat else d) (if_pos stopping)

/-- A descriptor that has passed the limit of its stream is done with TIMEOUT (R205). -/
def SDesc.timedOut (x : SDesc) (tb : Nat) : SDesc :=
  { x with phase := .done, status := 0x82, busy := min (tb - x.sent.getD tb) 0xFFFFFFFF }

/-- The report of a descriptor that has passed the limit (R205). -/
def timeoutReport (d : Dev) (st seq : Nat) : Report :=
  { source := 0x04, unit := match strmSite d st with
      | some s => unitSite s | none => 0,
    detail := low32 (st + seq % 2 ^ 16 * 2 ^ 16), part := partOfStream d st }

/-- A descriptor that passes the limit is pulled and decided, and one report is made (R205). -/
theorem exec_streamTimeout {s : State} {stream : BitVec 16} {seq : BitVec 32} {x : SDesc}
    (found : (getStrm s.dev stream.toNat).held.find? (fun x => x.seq == seq.toNat && x.phase == .dispatched) = some x)
    (limit : fget s.dev Reg.HUB_STRM_LIMIT [stream.toNat] Fld.HUB_STRM_LIMIT_limit_us ≠ 0) :
    exec (.streamTimeout stream seq) s = .next (s.settle
      (let pulled := pullDesc s.dev.rest stream.toNat x
       let d := putDesc pulled stream.toNat (x.timedOut pulled.tb)
       report d (timeoutReport d stream.toNat seq.toNat))) := by
  have runs : exec (.streamTimeout stream seq) s = execStreamTimeout stream seq s := rfl
  rw [runs, execStreamTimeout]
  refine run_settle ?_
  extract_lets st
  rw [show (getStrm s.dev.rest st).held.find? (fun x => x.seq == seq.toNat && x.phase == .dispatched) = some x from found]
  refine (if_neg limit).trans ?_
  rfl

/-- The result of an abort that changes nothing is one more record (R202). -/
theorem abortResult_spec (d : Dev) (st a status : Nat) :
    getStrm (abortResult d st a status) st =
      { getStrm d st with recs := (getStrm d st).recs ++ [mkRec d st a status 1], abort := none } ∧
    (abortResult d st a status).wq = d.wq ∧
    keepsRegs d (abortResult d st a status) [Reg.HUB_STRM_STAT.key [st]] := by
  refine ⟨?_, rfl, keepsRegs_fset (setStrm (pushRec d st (mkRec d st a status 1)) st _) _ _ _ _⟩
  refine (getStrm_setStrm_same ..).trans ?_
  rw [getStrm_pushRec]

/-- An abort of the head takes it out with ABORTED, and the stream stops (R201, R202). -/
theorem abortHead_held {d : Dev} {st : Nat} {y : SDesc} {rest : List SDesc} (held : (getStrm d st).held = y :: rest)
    (e : Env) : (∃ rs, getStrm (abortHead e d st) st = { getStrm d st with held := rest, stopping := true, recs := rs }) ∧
    cnt (abortHead e d st) st Reg.HUB_STRM_COMMIT = (y.seq + 1) % 2 ^ 32 ∧
    fget (abortHead e d st) Reg.HUB_STRM_STAT [st] Fld.HUB_STRM_STAT_last_status = 0x80 := by
  have aborts : abortHead e d st =
      flushDescs st 0x80 [y] (setStrm d st { getStrm d st with held := rest, stopping := true }) := by
    simp only [abortHead, held]
  obtain ⟨rs, flushed⟩ := getStrm_flushDescs st 0x80 [y] (setStrm d st { getStrm d st with held := rest, stopping := true })
  rw [getStrm_setStrm_same] at flushed
  rw [aborts]
  exact ⟨⟨rs, flushed⟩, commit_settleDesc .., last_status_settleDesc ..⟩

end Sys2Proof.Machine
end

section
/-!
SUPPORT. ABORT_DECIDED (R202): an abort that changes nothing, and one of the head.
-/
namespace Sys2Proof.Machine

theorem ge32_self (a : Nat) : ge32 a a = true := by
  simp [ge32, sub32]

/-- The abort of a number is decided: it changes nothing, waits for its turn, or takes the head out (R202). -/
def abortDecision (e : Env) (d : Dev) (st a : Nat) : Dev :=
  if ge32 a (cnt d st Reg.HUB_STRM_COMMIT) = false then abortResult d st a 0x91
  else if ge32 a (cnt d st Reg.HUB_STRM_TAIL) then abortResult d st a 0x92
  else if strmState d st = 2 ∨ strmState d st = 4 then abortResult d st a 0x93
  else if a ≠ cnt d st Reg.HUB_STRM_COMMIT ∨ recRoom d st = false then d
  else
    let d := abortHead e d st
    setStrm d st { getStrm d st with taken := true }

section
variable {d : Dev} {st a : Nat} (e : Env)

theorem abortDecision_committed (past : ge32 a (cnt d st Reg.HUB_STRM_COMMIT) = false) :
    abortDecision e d st a = abortResult d st a 0x91 := if_pos past

theorem abortDecision_unsubmitted (future : ge32 a (cnt d st Reg.HUB_STRM_COMMIT) = true)
    (beyond : ge32 a (cnt d st Reg.HUB_STRM_TAIL) = true) : abortDecision e d st a = abortResult d st a 0x92 := by
  simp only [abortDecision, future, beyond]
  rfl

theorem abortDecision_head (first : a = cnt d st Reg.HUB_STRM_COMMIT) (inside : ge32 a (cnt d st Reg.HUB_STRM_TAIL) = false)
    (runs : strmState d st = 1) (room : recRoom d st = true) : abortDecision e d st a =
      setStrm (abortHead e d st) st { getStrm (abortHead e d st) st with taken := true } := by
  subst first
  simp [abortDecision, ge32_self, inside, runs, room]

end

section
variable {s : State} {stream : BitVec 16} {a : Nat} (abort : (getStrm s.dev stream.toNat).abort = some a)
  (going : (getStrm s.dev stream.toNat).stopping = false) (goal : (getStrm s.dev stream.toNat).goal = none)
  (enabled : (getStrm s.dev stream.toNat).disabling = false)
include abort going goal enabled

/-- An abort is pending on a stream that is not stopping and not being disabled: its number decides it. -/
theorem exec_abortDecided_pending (ext : List Byte) : exec (.abortDecided stream ext) s = .next (s.settle
    (abortDecision ⟨s.fuses, s.mem⟩ (s.dev.rest.given ext) stream.toNat a)) := by
  have runs : exec (.abortDecided stream ext) s = execAbortDecided stream ext s := rfl
  rw [runs, execAbortDecided]
  refine run_settle ?_
  extract_lets st x c d
  have open_ : ¬ (x.stopping || x.goal.isSome) = true := by
    rw [show x.stopping = false from going, show x.goal = none from goal]
    exact nofun
  refine (if_neg open_).trans ((if_neg (ne_true_of_eq_false enabled)).trans ?_)
  rw [show x.abort = some a from abort]
  rfl

/-- An abort that changes nothing leaves its result, is forgotten, and clears the pending bit (R202). -/
theorem abortDecided_answered {status : Nat} {ext : List Byte}
    (answer : abortDecision ⟨s.fuses, s.mem⟩ (s.dev.rest.given ext) stream.toNat a =
      abortResult (s.dev.rest.given ext) stream.toNat a status) : ∃ t, exec (.abortDecided stream ext) s = .next t ∧
    t.mem = s.mem ∧ (getStrm t.dev stream.toNat).held = (getStrm s.dev stream.toNat).held ∧
    (getStrm t.dev stream.toNat).abort = none ∧ (getStrm t.dev stream.toNat).recs =
      (getStrm s.dev stream.toNat).recs ++ [mkRec s.dev stream.toNat a status 1] ∧
    keepsRegs s.dev t.dev [Reg.HUB_STRM_STAT.key [stream.toNat]] := by
  obtain ⟨strm, wq, keeps⟩ := abortResult_spec (s.dev.rest.given ext) stream.toNat a status
  rw [exec_abortDecided_pending abort going goal enabled, answer]
  exact ⟨_, rfl, settle_mem_of_quiet s wq, (congrArg Strm.held strm :), (congrArg Strm.abort strm :),
    (congrArg Strm.recs strm :), keeps⟩

/-- An abort of the head takes it out with ABORTED, and its stream stops at it (R202). -/
theorem abortDecided_head {y : SDesc} {rest : List SDesc} (ext : List Byte)
    (first : a = cnt s.dev stream.toNat Reg.HUB_STRM_COMMIT) (inside : ge32 a (cnt s.dev stream.toNat Reg.HUB_STRM_TAIL) = false)
    (runs : strmState s.dev stream.toNat = 1) (room : recRoom s.dev stream.toNat = true)
    (held : (getStrm s.dev stream.toNat).held = y :: rest) :
    ∃ t, exec (.abortDecided stream ext) s = .next t ∧ (getStrm t.dev stream.toNat).held = rest ∧
      (getStrm t.dev stream.toNat).stopping = true ∧ (getStrm t.dev stream.toNat).taken = true ∧
      cnt t.dev stream.toNat Reg.HUB_STRM_COMMIT = (y.seq + 1) % 2 ^ 32 ∧
      fget t.dev Reg.HUB_STRM_STAT [stream.toNat] Fld.HUB_STRM_STAT_last_status = 0x80 := by
  obtain ⟨⟨rs, strm⟩, commit, last⟩ := abortHead_held (d := s.dev.rest.given ext) held ⟨s.fuses, s.mem⟩
  rw [exec_abortDecided_pending abort going goal enabled,
    abortDecision_head (d := s.dev.rest.given ext) _ first inside runs room, strm]
  have taken := getStrm_setStrm_same (abortHead ⟨s.fuses, s.mem⟩ (s.dev.rest.given ext) stream.toNat) stream.toNat
    { getStrm (s.dev.rest.given ext) stream.toNat with held := rest, stopping := true, recs := rs, taken := true }
  exact ⟨_, rfl, (congrArg Strm.held taken :), (congrArg Strm.stopping taken :), (congrArg Strm.taken taken :), commit, last⟩

end

end Sys2Proof.Machine
end

section
/-!
SUPPORT. What the commits, the records and the timeout leave of their stream (R194, R197, R205, R214, R215).
-/
namespace Sys2Proof.Machine

section
variable {s : State} {stream : BitVec 16} {x : SDesc} {rest : List SDesc}

/-- A stream's one descriptor commits once it is reported, and the stream stops where the status stops it. -/
theorem descriptorDone_commits {r : EngDone} (first : s.dev.rest.engDone.find? (fun r => r.stream.toNat == stream.toNat) = some r)
    (held : (getStrm s.dev.rest stream.toNat).held = [x]) (out : x.phase = .dispatched) (seq : x.seq = r.seq.toNat)
    (going : (getStrm s.dev.rest stream.toNat).stopping = false) (engine : hEngine x.bytes < 8)
    (may : mayCommit (takeDone s.dev.rest stream.toNat) stream.toNat (x.reported r s.dev.tb) []) :
    ∃ t, exec (.descriptorDone stream) s = .next t ∧ t.mem = s.mem ∧ t.dev.engDone = s.dev.engDone.erase r ∧
      (getStrm t.dev stream.toNat).held = [] ∧ cnt t.dev stream.toNat Reg.HUB_STRM_COMMIT = (x.seq + 1) % 2 ^ 32 ∧
      (getStrm t.dev stream.toNat).stopping = statusStops s.dev stream.toNat r.status := by
  obtain ⟨regs, wq, done, strm⟩ := takeDone_single first held out seq
  obtain ⟨rs, leaves⟩ := getStrm_committed (takeDone s.dev.rest stream.toNat) stream.toNat (x.reported r s.dev.tb) [] r.status
  obtain ⟨commit, -, wq', done'⟩ := committed_spec (takeDone s.dev.rest stream.toNat) stream.toNat (x.reported r s.dev.tb) []
    r.status
  rw [statusStops_congr regs, strm] at leaves
  refine ⟨_, exec_descriptorDone_single may engine, settle_mem_of_quiet s (wq'.trans wq), done'.trans done,
    (congrArg Strm.held leaves :), commit, (congrArg Strm.stopping leaves :).trans ?_⟩
  exact (congrArg (statusStops s.dev.rest stream.toNat r.status || ·) going).trans (Bool.or_false _)

/-- What a commit leaves of its stream: the descriptors behind it, the count past it and its status. -/
theorem committed_leaves (d : Dev) (st : Nat) {status : Nat} (fits : status < 256) :
    (getStrm (s.settle (d.committed st x rest status)).dev st).held = rest ∧
    cnt (s.settle (d.committed st x rest status)).dev st Reg.HUB_STRM_COMMIT = (x.seq + 1) % 2 ^ 32 ∧
    fget (s.settle (d.committed st x rest status)).dev Reg.HUB_STRM_STAT [st] Fld.HUB_STRM_STAT_last_status = status := by
  obtain ⟨rs, leaves⟩ := getStrm_committed d st x rest status
  obtain ⟨commit, last, -⟩ := committed_spec d st x rest status
  exact ⟨(congrArg Strm.held leaves :), commit, last.trans (Nat.mod_eq_of_lt fits)⟩

/-- A WADV descriptor commits with the status of its record's update (R215). -/
theorem wadv_commits (may : mayCommit s.dev.rest stream.toNat x rest) (fresh : x.status = 0) (wadv : hEngine x.bytes = 9) :
    ∃ t, exec (.wadv stream) s = .next t ∧ (getStrm t.dev stream.toNat).held = rest ∧
      cnt t.dev stream.toNat Reg.HUB_STRM_COMMIT = (x.seq + 1) % 2 ^ 32 ∧
      fget t.dev Reg.HUB_STRM_STAT [stream.toNat] Fld.HUB_STRM_STAT_last_status = wadvStatus
        (pkgAtomic ⟨s.fuses, s.mem⟩ s.dev.rest (schedReq s.dev.rest stream.toNat) (dfield x.bytes 16 51 0) .recAdvance).1 :=
  ⟨_, exec_wadv_head may.1 wadv (commitOne_wadv may _ fresh wadv), committed_leaves _ _ (wadvStatus_lt _)⟩

/-- A timeout decides its descriptor and makes one report (R205). -/
theorem streamTimeout_decides {seq : BitVec 32}
    (found : (getStrm s.dev stream.toNat).held.find? (fun x => x.seq == seq.toNat && x.phase == .dispatched) = some x)
    (limit : fget s.dev Reg.HUB_STRM_LIMIT [stream.toNat] Fld.HUB_STRM_LIMIT_limit_us ≠ 0) :
    ∃ t tb, exec (.streamTimeout stream seq) s = .next t ∧ t.dev.reports.length = s.dev.reports.length + 1 ∧
      (getStrm t.dev stream.toNat).held =
        (getStrm s.dev stream.toNat).held.map (fun z => if z.seq = x.seq then x.timedOut tb else z) := by
  have pulled := pullDesc_pulls s.dev.rest stream.toNat x
  refine ⟨_, (pullDesc s.dev.rest stream.toNat x).tb, exec_streamTimeout found limit, ?_, ?_⟩
  · exact List.length_append.trans (congrArg (·.length + 1) pulled.reports)
  · exact (held_putDesc ..).trans (by rw [getStrm_congr pulled.strm]; rfl)

end

end Sys2Proof.Machine
end

section
/-!
SETTLED. The streams and counters family, commits, records and stops (O29).
-/
namespace Sys2Proof.Machine

/-- Settles O29: each command is one path of its effect, and its stream's hidden state and counts follow the commit, the
record or the stop that it makes. -/
theorem streamCommitRecordsAndStops : Obligations.StreamCommitRecordsAndStops := by
  refine ⟨fun s stream x r first held out seq engine going room runs kept enabled up => ?_,
    fun s stream x rest held done fresh going room runs kept enabled up => ?_,
    fun s stream c cs er recs up => ⟨fun room host port served portIsUp => ?_,
      fun full => exec_completionRecordWrite_full (s := s) recs .ok full, ?_⟩,
    fun s stream stopping => ?_, fun s stream seq x found limit => ?_,
    fun s stream ext a abort going goal enabled => ⟨fun past => ?_, fun future beyond => ?_,
      fun y rest first inside runs room held => ?_⟩⟩
  · exact descriptorDone_commits first held out seq going engine
      (mayCommit_takeDone (d := s.dev.rest) first held out seq going room runs kept enabled up)
  · have may := mayCommit_intro (d := s.dev.rest) held done going room runs kept enabled up
    refine ⟨fun ok d sync slots => ?_, fun wadv => wadv_commits may fresh wadv⟩
    exact ⟨_, exec_syncDesc_head held sync (commitOne_sync may _ fresh sync slots), committed_leaves _ _ (by cases ok <;> decide)⟩
  · obtain ⟨gone, count, wq, sent⟩ := recorded_spec (emit s.dev.rest (ringWrite s.dev.rest stream.toNat port c)) stream.toNat c
    exact ⟨_, exec_completionRecordWrite_host (s := s) recs up room host served portIsUp, settle_mem_of_quiet s wq,
      gone.trans (congrArg (List.drop 1) recs), count, sent (List.mem_append_right _ (List.mem_singleton_self _))⟩
  · obtain ⟨a, runs⟩ := exec_recordWriteError_lost (s := s) recs up er
    obtain ⟨gone, count, wq, err, stops⟩ := recordLost_spec s.dev.rest stream.toNat er a
    exact ⟨_, runs, settle_mem_of_quiet s wq, gone.trans (congrArg (List.drop 1) recs), count, err, stops⟩
  · exact ⟨_, exec_streamStop stopping, stopStream_spec s.dev.rest stream.toNat⟩
  · obtain ⟨t, tb, runs, reports, held⟩ := streamTimeout_decides found limit
    exact ⟨t, x.timedOut tb, runs, reports, rfl, rfl, rfl, held⟩
  · exact abortDecided_answered abort going goal enabled (abortDecision_committed _ past)
  · exact abortDecided_answered abort going goal enabled (abortDecision_unsubmitted _ future beyond)
  · exact abortDecided_head abort going goal enabled ext first inside runs room held

end Sys2Proof.Machine
end

section
/-!
SUPPORT. How an address of the HBM region is spread over stacks (R226, R228): the interleaving of 256 bytes over a list of
stacks, the regional parts of the base dies, and the stack address that each address names.
-/
namespace Sys2Proof.Machine

/-- The stack and the offset in its slice that an offset names, interleaved over a list of stacks (R228). -/
def interleave (pool : List Nat) (r : Nat) : Nat × Nat :=
  (pool.getD (r / 256 % max pool.length 1) 0, r / 256 / max pool.length 1 * 256 + r % 256)

theorem ne_nil_of_lt_length_mul {pool : List Nat} {r size : Nat} (inside : r < pool.length * size) : pool ≠ [] := by
  rintro rfl
  simp at inside

theorem interleave_of_ne_nil {pool : List Nat} (some_ : pool ≠ []) (r : Nat) : interleave pool r =
    (pool[r / 256 % pool.length]'(Nat.mod_lt _ (List.length_pos_iff.mpr some_)),
      r / 256 / pool.length * 256 + r % 256) := by
  have one : max pool.length 1 = pool.length := max_eq_left (List.length_pos_iff.mpr some_)
  simp only [interleave, one, Prod.mk.injEq, and_true]
  exact List.getD_eq_getElem ..

theorem interleave_mem {pool : List Nat} (some_ : pool ≠ []) (r : Nat) : (interleave pool r).1 ∈ pool := by
  rw [interleave_of_ne_nil some_]
  exact List.getElem_mem _

/-- An offset within the parts of the stacks lies within the part of its own. -/
theorem interleave_lt {pool : List Nat} {r size : Nat} (whole : 256 ∣ size) (inside : r < pool.length * size) :
    (interleave pool r).2 < size := by
  rw [interleave_of_ne_nil (ne_nil_of_lt_length_mul inside)]
  obtain ⟨m, rfl⟩ := whole
  have chunk : r / 256 < pool.length * m := Nat.div_lt_of_lt_mul (by rwa [Nat.mul_left_comm])
  have row : r / 256 / pool.length < m := Nat.div_lt_of_lt_mul chunk
  dsimp only
  omega

/-- Different offsets name different bytes. -/
theorem interleave_injective {pool : List Nat} (nodup : pool.Nodup) (some_ : pool ≠ []) {r r' : Nat}
    (same : interleave pool r = interleave pool r') : r = r' := by
  rw [interleave_of_ne_nil some_, interleave_of_ne_nil some_, Prod.mk.injEq, nodup.getElem_inj_iff] at same
  obtain ⟨stack, place⟩ := same
  have row : r / 256 / pool.length = r' / 256 / pool.length := by omega
  have chunk : r / 256 = r' / 256 := by
    rw [← Nat.div_add_mod (r / 256) pool.length, ← Nat.div_add_mod (r' / 256) pool.length, row, stack]
  omega

/-- The bytes of a half chunk lie side by side. -/
theorem interleave_add (pool : List Nat) {r j : Nat} (aligned : 128 ∣ r) (near : j < 128) :
    interleave pool (r + j) = ((interleave pool r).1, (interleave pool r).2 + j) := by
  have chunk : (r + j) / 256 = r / 256 := by omega
  have place : (r + j) % 256 = r % 256 + j := by omega
  simp only [interleave, chunk, place, Nat.add_assoc]

/-- The place of the base dies below `m` in a regional range (R228). -/
def partsBelow (d : Dev) (len m : Nat) : Nat := ∑ k ∈ Finset.range m, (stacksOn d k).length * len

theorem partsBelow_succ (d : Dev) (len m : Nat) :
    partsBelow d len (m + 1) = partsBelow d len m + (stacksOn d m).length * len := Finset.sum_range_succ ..

/-- An offset from the part of base die `m` on lies in the part that it is found in. -/
theorem regionalPart_spec (d : Dev) (len k m r : Nat) (inside : partsBelow d len m + r < partsBelow d len (m + k)) :
    (regionalPart d len k m r).2 < (stacksOn d (regionalPart d len k m r).1).length * len ∧
      partsBelow d len (regionalPart d len k m r).1 + (regionalPart d len k m r).2 = partsBelow d len m + r := by
  induction k generalizing m r with
  | zero => exact absurd inside (by simp)
  | succ k ih =>
    rw [regionalPart]
    split
    next beyond =>
      have step := partsBelow_succ d len m
      obtain ⟨small, place⟩ := ih (m + 1) (r - (stacksOn d m).length * len) (by
        rw [show m + 1 + k = m + (k + 1) by omega]
        omega)
      exact ⟨small, place.trans (by omega)⟩
    next here => exact ⟨Nat.lt_of_not_le here, rfl⟩

/-- Offsets of one aligned line are found in one part. -/
theorem regionalPart_add (d : Dev) {len : Nat} (whole : 128 ∣ len) (k m : Nat) {r j : Nat} (aligned : 128 ∣ r)
    (near : j < 128) : 128 ∣ (regionalPart d len k m r).2 ∧
      regionalPart d len k m (r + j) = ((regionalPart d len k m r).1, (regionalPart d len k m r).2 + j) := by
  induction k generalizing m r with
  | zero => exact ⟨aligned, rfl⟩
  | succ k ih =>
    have size : 128 ∣ (stacksOn d m).length * len := whole.mul_left _
    have sameSide : (stacksOn d m).length * len ≤ r + j ↔ (stacksOn d m).length * len ≤ r := by omega
    simp only [regionalPart, sameSide]
    split
    next beyond =>
      rw [show r + j - (stacksOn d m).length * len = r - (stacksOn d m).length * len + j by omega]
      exact ih _ (Nat.dvd_sub aligned size)
    next here => exact ⟨aligned, rfl⟩

theorem stacksIn_nodup (d : Dev) : (stacksIn d).Nodup := List.nodup_range.filter _

theorem mem_stacksOn {d : Dev} {m n : Nat} : n ∈ stacksOn d m ↔ n ∈ stacksIn d ∧ n / 4 = m := by
  simp [stacksOn]

theorem lt_of_mem_stacksIn {d : Dev} {n : Nat} (listed : n ∈ stacksIn d) : n < 24 :=
  List.mem_range.mp (List.mem_of_mem_filter listed)

/-- Every stack in service lies on one of the six base dies. -/
theorem sum_length_dies (pool : List Nat) (inTable : ∀ n ∈ pool, n < 24) :
    ∑ m ∈ Finset.range 6, (pool.filter (fun n => n / 4 == m)).length = pool.length := by
  induction pool with
  | nil => simp
  | cons n pool ih =>
    obtain ⟨first, rest⟩ := List.forall_mem_cons.mp inTable
    have die : n / 4 ∈ Finset.range 6 := Finset.mem_range.mpr (by omega)
    simp only [← List.countP_eq_length_filter, List.countP_cons, Finset.sum_add_distrib, beq_iff_eq,
      Finset.sum_ite_eq, if_pos die] at ih ⊢
    rw [ih rest, List.length_cons]

theorem partsBelow_six (d : Dev) (len : Nat) : partsBelow d len 6 = (stacksIn d).length * len := by
  rw [partsBelow, ← Finset.sum_mul, ← sum_length_dies _ (fun _ => lt_of_mem_stacksIn)]
  rfl

/-- The bytes of range i on each stack (R226). -/
def rangeBytes (d : Dev) (i : Nat) : Nat := fget d Reg.HUB_HBM_RANGE [i] Fld.HUB_HBM_RANGE_len_gib * 2 ^ 30

/-- The stacks over which an offset of range i is interleaved, and the offset there (R228). -/
def offsetPart (d : Dev) (i r : Nat) : List Nat × Nat :=
  if fget d Reg.HUB_HBM_RANGE [i] Fld.HUB_HBM_RANGE_mode = 0 then (stacksIn d, r)
  else
    let x := regionalPart d (rangeBytes d i) 6 0 r
    (stacksOn d x.1, x.2)

theorem offsetPart_interleaved {d : Dev} {i : Nat} (mode : fget d Reg.HUB_HBM_RANGE [i] Fld.HUB_HBM_RANGE_mode = 0)
    (r : Nat) : offsetPart d i r = (stacksIn d, r) := if_pos mode

theorem offsetPart_regional {d : Dev} {i : Nat} (mode : fget d Reg.HUB_HBM_RANGE [i] Fld.HUB_HBM_RANGE_mode ≠ 0)
    (r : Nat) {x : Nat × Nat}
    (part : regionalPart d (rangeBytes d i) 6 0 r = x) :
    offsetPart d i r = (stacksOn d x.1, x.2) := part ▸ if_neg mode

/-- The stack and the place in its slice that an offset of range i names (R228). -/
def spread (d : Dev) (i r : Nat) : Nat × Nat := interleave (offsetPart d i r).1 (offsetPart d i r).2

/-- An address of range i is decoded by its offset in the range. -/
theorem decodeIn_eq (d : Dev) (i a : Nat) : decodeIn d i a =
    ((spread d i (a - fget d Reg.HUB_HBM_RANGE [i] Fld.HUB_HBM_RANGE_base_gib * 2 ^ 30)).1,
      fget d Reg.HUB_HBM_RANGE [i] Fld.HUB_HBM_RANGE_off_gib * 2 ^ 30 +
        (spread d i (a - fget d Reg.HUB_HBM_RANGE [i] Fld.HUB_HBM_RANGE_base_gib * 2 ^ 30)).2) :=
  Prod.ext rfl (Nat.add_assoc ..)

/-- The bytes of an aligned line lie side by side in one stack. -/
theorem spread_add (d : Dev) (i : Nat) {r j : Nat} (aligned : 128 ∣ r) (near : j < 128) :
    spread d i (r + j) = ((spread d i r).1, (spread d i r).2 + j) := by
  unfold spread
  rcases eq_or_ne (fget d Reg.HUB_HBM_RANGE [i] Fld.HUB_HBM_RANGE_mode) 0 with mode | mode
  · rw [offsetPart_interleaved mode, offsetPart_interleaved mode]
    exact interleave_add _ aligned near
  · obtain ⟨x, part⟩ := exists_eq' (a' := regionalPart d (rangeBytes d i) 6 0 r)
    obtain ⟨stillAligned, together⟩ := regionalPart_add d (len := rangeBytes d i) (Dvd.dvd.mul_left (by decide) _) 6 0
      aligned near
    rw [part] at stillAligned together
    rw [offsetPart_regional mode r part, offsetPart_regional mode (r + j) together]
    exact interleave_add _ stillAligned near

section
variable {d : Dev} {i r : Nat}
  (inside : r < (stacksIn d).length * rangeBytes d i)
include inside

/-- The part of a regional range in which an offset within the range lies. -/
theorem regionalPart_of_inside {x : Nat × Nat} (part : regionalPart d (rangeBytes d i) 6 0 r = x) :
    x.2 < (stacksOn d x.1).length * rangeBytes d i ∧ partsBelow d (rangeBytes d i) x.1 + x.2 = r := by
  obtain ⟨small, place⟩ := regionalPart_spec d (rangeBytes d i) 6 0 r (by
    rw [Nat.zero_add, partsBelow_six]
    simpa [partsBelow] using inside)
  rw [part] at small place
  exact ⟨small, place.trans (by simp [partsBelow])⟩

/-- The stacks of an offset within the range are in service, and the offset lies in their parts. -/
theorem offsetPart_spec : (∀ n ∈ (offsetPart d i r).1, n ∈ stacksIn d) ∧ (offsetPart d i r).1.Nodup ∧
    (offsetPart d i r).2 <
      (offsetPart d i r).1.length * rangeBytes d i := by
  rcases eq_or_ne (fget d Reg.HUB_HBM_RANGE [i] Fld.HUB_HBM_RANGE_mode) 0 with mode | mode
  · rw [offsetPart_interleaved mode]
    exact ⟨fun _ listed => listed, stacksIn_nodup d, inside⟩
  · obtain ⟨x, part⟩ := exists_eq' (a' := regionalPart d (rangeBytes d i) 6 0 r)
    rw [offsetPart_regional mode r part]
    exact ⟨fun _ listed => (mem_stacksOn.mp listed).1, (stacksIn_nodup d).filter _, (regionalPart_of_inside inside part).1⟩

/-- An offset within the range names a byte of a stack in service, within the range's slice of it. -/
theorem spread_spec : (spread d i r).1 ∈ stacksIn d ∧
    (spread d i r).2 < rangeBytes d i := by
  obtain ⟨served, -, small⟩ := offsetPart_spec inside
  exact ⟨served _ (interleave_mem (ne_nil_of_lt_length_mul small) _),
    interleave_lt (Dvd.dvd.mul_left (by decide) _) small⟩

/-- Two offsets of a range over one stack lie in the same part, and offsets of one part that are the same are one. -/
theorem offsetPart_injective {r' n : Nat}
    (inside' : r' < (stacksIn d).length * rangeBytes d i)
    (here : n ∈ (offsetPart d i r).1) (here' : n ∈ (offsetPart d i r').1) :
    (offsetPart d i r).1 = (offsetPart d i r').1 ∧ ((offsetPart d i r).2 = (offsetPart d i r').2 → r = r') := by
  rcases eq_or_ne (fget d Reg.HUB_HBM_RANGE [i] Fld.HUB_HBM_RANGE_mode) 0 with mode | mode
  · rw [offsetPart_interleaved mode, offsetPart_interleaved mode]
    exact ⟨rfl, id⟩
  · obtain ⟨x, part⟩ := exists_eq' (a' := regionalPart d (rangeBytes d i) 6 0 r)
    obtain ⟨x', part'⟩ := exists_eq' (a' := regionalPart d (rangeBytes d i) 6 0 r')
    rw [offsetPart_regional mode r part] at here ⊢
    rw [offsetPart_regional mode r' part'] at here' ⊢
    have place := (regionalPart_of_inside inside part).2
    have place' := (regionalPart_of_inside inside' part').2
    have die := (mem_stacksOn.mp here).2.symm.trans (mem_stacksOn.mp here').2
    dsimp only
    rw [← die] at place' ⊢
    exact ⟨rfl, fun same => by rw [← place, ← place', same]⟩

/-- Two offsets within the range name different bytes. -/
theorem spread_injective {r' : Nat}
    (inside' : r' < (stacksIn d).length * rangeBytes d i)
    (same : spread d i r = spread d i r') : r = r' := by
  obtain ⟨-, nodup, small⟩ := offsetPart_spec inside
  obtain ⟨-, -, small'⟩ := offsetPart_spec inside'
  have here := interleave_mem (ne_nil_of_lt_length_mul small) (offsetPart d i r).2
  have here' := interleave_mem (ne_nil_of_lt_length_mul small') (offsetPart d i r').2
  obtain ⟨samePart, sameOffset⟩ := offsetPart_injective inside inside' here ((congrArg Prod.fst same) ▸ here')
  unfold spread at same
  rw [← samePart] at same
  exact sameOffset (interleave_injective nodup (ne_nil_of_lt_length_mul small) same)

end

end Sys2Proof.Machine
end

section
/-!
SUPPORT. What locking the table of HBM ranges makes of each range (R225, R226): a range is checked against the ranges below it
and given its base, and nothing that follows changes it.
-/
namespace Sys2Proof.Machine

theorem hbmRange_key_ne {i j : Nat} (other : j ≠ i) : Reg.HUB_HBM_RANGE.key [j] ≠ Reg.HUB_HBM_RANGE.key [i] := by
  simp only [RegDesc.key, Reg.HUB_HBM_RANGE, dimOffset]
  omega

theorem hbmCfg_key_ne_range (i : Nat) : Reg.HUB_HBM_CFG.key [] ≠ Reg.HUB_HBM_RANGE.key [i] := by
  simp only [RegDesc.key, Reg.HUB_HBM_CFG, Reg.HUB_HBM_RANGE, dimOffset]
  omega

theorem hbmStacks_key_ne_range (i : Nat) : Reg.HUB_HBM_STACKS.key [] ≠ Reg.HUB_HBM_RANGE.key [i] := by
  simp only [RegDesc.key, Reg.HUB_HBM_STACKS, Reg.HUB_HBM_RANGE, dimOffset]
  omega

/-- The slice of range i on each stack, as first and end GiB (R225). -/
def sliceOf (d : Dev) (i : Nat) : Nat × Nat := rangeSlice (rdReg d Reg.HUB_HBM_RANGE [i])

theorem sliceOf_eq (d : Dev) (i : Nat) : sliceOf d i = (fget d Reg.HUB_HBM_RANGE [i] Fld.HUB_HBM_RANGE_off_gib,
    fget d Reg.HUB_HBM_RANGE [i] Fld.HUB_HBM_RANGE_off_gib + fget d Reg.HUB_HBM_RANGE [i] Fld.HUB_HBM_RANGE_len_gib) := rfl

/-- The base of range i in GiB. -/
def baseGib (d : Dev) (i : Nat) : Nat := fget d Reg.HUB_HBM_RANGE [i] Fld.HUB_HBM_RANGE_base_gib

/-- The sum of the sizes of the enabled ranges below range i (R226). -/
def gibBelow (d : Dev) (i : Nat) : Nat :=
  (List.range i).foldl (fun n j => if rangeOn d j then n + rangeGib d j else n) 0

/-- Two slices share no GiB. -/
def SlicesApart (x y : Nat × Nat) : Prop := x.2 ≤ y.1 ∨ y.2 ≤ x.1

/-- A change of the device that leaves the slices, the stacks in service and the lock, and neither writes memory nor reports. -/
structure KeepsTable (d d' : Dev) : Prop where
  slice : ∀ i, sliceOf d' i = sliceOf d i
  served : stacksIn d' = stacksIn d
  lock : rangesLocked d' = rangesLocked d
  wq : d'.wq = d.wq
  reports : d'.reports = d.reports

theorem keepsTable_refl (d : Dev) : KeepsTable d d := ⟨fun _ => rfl, rfl, rfl, rfl, rfl⟩

theorem KeepsTable.trans {a b c : Dev} (h : KeepsTable a b) (k : KeepsTable b c) : KeepsTable a c :=
  ⟨fun i => (k.slice i).trans (h.slice i), k.served.trans h.served, k.lock.trans h.lock, k.wq.trans h.wq,
    k.reports.trans h.reports⟩

theorem KeepsTable.symm {a b : Dev} (h : KeepsTable a b) : KeepsTable b a :=
  ⟨fun i => (h.slice i).symm, h.served.symm, h.lock.symm, h.wq.symm, h.reports.symm⟩

theorem KeepsTable.rangeGib {d d' : Dev} (h : KeepsTable d d') (i : Nat) : rangeGib d' i = rangeGib d i := by
  have same := h.slice i
  rw [sliceOf_eq, sliceOf_eq, Prod.mk.injEq] at same
  unfold Machine.rangeGib
  rw [h.served]
  congr 1
  omega

/-- A field of a range that is neither its offset nor its length. -/
theorem keepsTable_fset_range (d : Dev) (i : Nat) {f : Fld} (v : Nat) (ordered : f.lo ≤ f.hi) (above : 11 < f.lo) :
    KeepsTable d (fset d Reg.HUB_HBM_RANGE [i] f v) := by
  refine ⟨fun j => ?_, ?_, ?_, rfl, rfl⟩
  · rcases eq_or_ne j i with rfl | other
    · rw [sliceOf_eq, sliceOf_eq, fget_fset_field _ _ _ _ Fld.HUB_HBM_RANGE_off_gib _ ordered (by decide) (.inl (by
        simp only [Fld.HUB_HBM_RANGE_off_gib]; omega)),
        fget_fset_field _ _ _ _ Fld.HUB_HBM_RANGE_len_gib _ ordered (by decide) (.inl above)]
    · rw [sliceOf, rdReg_fset_other _ _ _ _ _ _ _ (hbmRange_key_ne other), sliceOf]
  · unfold stacksIn
    rw [fget_fset_other _ _ _ _ _ _ _ _ (hbmStacks_key_ne_range i)]
  · unfold rangesLocked fbit
    rw [fget_fset_other _ _ _ _ _ _ _ _ (hbmCfg_key_ne_range i)]

/-- A field of HUB_HBM_CFG that is not the lock. -/
theorem keepsTable_fset_cfg (d : Dev) {f : Fld} (v : Nat) (ordered : f.lo ≤ f.hi) (below : f.hi < 31) :
    KeepsTable d (fset d Reg.HUB_HBM_CFG [] f v) := by
  refine ⟨fun j => ?_, ?_, ?_, rfl, rfl⟩
  · rw [sliceOf, rdReg_fset_other _ _ _ _ _ _ _ (hbmCfg_key_ne_range j).symm, sliceOf]
  · unfold stacksIn
    rw [fget_fset_other _ _ _ _ _ _ _ _ (by decide)]
  · unfold rangesLocked fbit
    rw [fget_fset_field _ _ _ _ _ _ ordered (by decide) (.inr below)]

theorem rdReg_range_fset_cfg (d : Dev) (f : Fld) (v j : Nat) :
    rdReg (fset d Reg.HUB_HBM_CFG [] f v) Reg.HUB_HBM_RANGE [j] = rdReg d Reg.HUB_HBM_RANGE [j] :=
  rdReg_fset_other _ _ _ _ _ _ _ (hbmCfg_key_ne_range j).symm

/-- A range fails its check. -/
def disabledRange (d : Dev) (i : Nat) : Dev :=
  fset (fset (fset d Reg.HUB_HBM_RANGE [i] Fld.HUB_HBM_RANGE_enable 0) Reg.HUB_HBM_RANGE [i] Fld.HUB_HBM_RANGE_err 1)
    Reg.HUB_HBM_CFG [] Fld.HUB_HBM_CFG_cfg_err 1

/-- A range passes its check and is given its base. -/
def basedRange (d : Dev) (i : Nat) : Dev :=
  fset d Reg.HUB_HBM_RANGE [i] Fld.HUB_HBM_RANGE_base_gib (gibBelow d i)

theorem lockRange_cases (cap : Nat) (d : Dev) (i : Nat) :
    (rangeOn d i = false ∧ lockRange cap d i = d) ∨
    (rangeOn d i = true ∧ rangeBad cap d i = true ∧ lockRange cap d i = disabledRange d i) ∨
    (rangeOn d i = true ∧ rangeBad cap d i = false ∧ lockRange cap d i = basedRange d i) := by
  unfold lockRange
  cases on : rangeOn d i <;> cases bad : rangeBad cap d i
  · exact .inl ⟨rfl, rfl⟩
  · exact .inl ⟨rfl, rfl⟩
  · exact .inr (.inr ⟨rfl, rfl, rfl⟩)
  · exact .inr (.inl ⟨rfl, rfl, rfl⟩)

theorem keepsTable_lockRange (cap : Nat) (d : Dev) (i : Nat) : KeepsTable d (lockRange cap d i) := by
  rcases lockRange_cases cap d i with ⟨-, h⟩ | ⟨-, -, h⟩ | ⟨-, -, h⟩ <;> rw [h]
  · exact keepsTable_refl d
  · exact ((keepsTable_fset_range _ _ _ (by decide) (by decide)).trans
      (keepsTable_fset_range _ _ _ (by decide) (by decide))).trans (keepsTable_fset_cfg _ _ (by decide) (by decide))
  · exact keepsTable_fset_range _ _ _ (by decide) (by decide)

/-- Checking a range changes no other range's register. -/
theorem rdReg_lockRange_other (cap : Nat) (d : Dev) {i j : Nat} (other : j ≠ i) :
    rdReg (lockRange cap d i) Reg.HUB_HBM_RANGE [j] = rdReg d Reg.HUB_HBM_RANGE [j] := by
  have apart := hbmRange_key_ne other
  rcases lockRange_cases cap d i with ⟨-, h⟩ | ⟨-, -, h⟩ | ⟨-, -, h⟩ <;> rw [h]
  · rw [disabledRange, rdReg_range_fset_cfg, rdReg_fset_other _ _ _ _ _ _ _ apart, rdReg_fset_other _ _ _ _ _ _ _ apart]
  · rw [basedRange, rdReg_fset_other _ _ _ _ _ _ _ apart]

/-- A range stays enabled where it passes its check. -/
theorem rangeOn_lockRange (cap : Nat) (d : Dev) (i : Nat) :
    rangeOn (lockRange cap d i) i = (rangeOn d i && !rangeBad cap d i) := by
  rcases lockRange_cases cap d i with ⟨off, h⟩ | ⟨on, bad, h⟩ | ⟨on, good, h⟩ <;> rw [h]
  · simp [off]
  · have disabled : fget (disabledRange d i) Reg.HUB_HBM_RANGE [i] Fld.HUB_HBM_RANGE_enable = 0 := by
      rw [disabledRange, fget, rdReg_range_fset_cfg, ← fget, fget_fset_field _ _ _ _ _ _ (by decide) (by decide) (by decide),
        fget_fset_same _ _ _ _ _ (by decide) (by decide)]
      rfl
    simp [rangeOn, fbit, disabled, bad]
  · have kept : rangeOn (basedRange d i) i = rangeOn d i := by
      unfold rangeOn fbit basedRange
      rw [fget_fset_field _ _ _ _ _ _ (by decide) (by decide) (by decide)]
    simp [kept, good]

/-- A range that passes is given its base. -/
theorem baseGib_lockRange {cap : Nat} {d : Dev} {i : Nat} (on : rangeOn (lockRange cap d i) i = true) :
    baseGib (lockRange cap d i) i = gibBelow d i % 2 ^ 12 := by
  rw [rangeOn_lockRange, Bool.and_eq_true, Bool.not_eq_true'] at on
  rcases lockRange_cases cap d i with ⟨off, h⟩ | ⟨-, bad, h⟩ | ⟨-, -, h⟩
  · exact absurd (on.1.symm.trans off) (by decide)
  · exact absurd (on.2.symm.trans bad) (by decide)
  · rw [h]
    exact fget_fset_same _ _ _ _ _ (by decide) (by decide)

/-- What passes a range's check: it is not empty, lies within the stack, and is apart from the ranges below that are enabled. -/
theorem rangeBad_eq_false_iff (cap : Nat) (d : Dev) (i : Nat) : rangeBad cap d i = false ↔
    (sliceOf d i).1 < (sliceOf d i).2 ∧ (sliceOf d i).2 ≤ cap ∧
      ∀ j, j < i → rangeOn d j = true → SlicesApart (sliceOf d i) (sliceOf d j) := by
  have nonempty : (fget d Reg.HUB_HBM_RANGE [i] Fld.HUB_HBM_RANGE_len_gib == 0) = false ↔
      (sliceOf d i).1 < (sliceOf d i).2 := by
    rw [sliceOf_eq, beq_eq_false_iff_ne]
    omega
  have apart (j : Nat) : (rangeOn d j && decide ((sliceOf d i).1 < (sliceOf d j).2) &&
      decide ((sliceOf d j).1 < (sliceOf d i).2)) = false ↔
        (rangeOn d j = true → SlicesApart (sliceOf d i) (sliceOf d j)) := by
    cases rangeOn d j
    · simp
    · simp only [Bool.true_and, Bool.and_eq_false_iff, decide_eq_false_iff_not, SlicesApart, forall_const]
      omega
  change (_ == 0 || decide (cap < (sliceOf d i).2) || (List.range i).any (fun j => rangeOn d j &&
    decide ((sliceOf d i).1 < (sliceOf d j).2) && decide ((sliceOf d j).1 < (sliceOf d i).2))) = false ↔ _
  rw [Bool.or_eq_false_iff, Bool.or_eq_false_iff, List.any_eq_false, decide_eq_false_iff_not, Nat.not_lt, and_assoc]
  refine and_congr nonempty (and_congr Iff.rfl (forall_congr' fun j => ?_))
  rw [List.mem_range, Bool.not_eq_true, apart j]

/-! The first `n` ranges, checked in ascending order. -/

/-- The device once the ranges below `n` are checked. -/
def lockedBelow (cap : Nat) (d : Dev) (n : Nat) : Dev := (List.range n).foldl (lockRange cap) d

theorem lockedBelow_succ (cap : Nat) (d : Dev) (n : Nat) :
    lockedBelow cap d (n + 1) = lockRange cap (lockedBelow cap d n) n := by
  rw [lockedBelow, List.range_succ, List.foldl_append]
  rfl

theorem keepsTable_lockedBelow (cap : Nat) (d : Dev) (n : Nat) : KeepsTable d (lockedBelow cap d n) := by
  induction n with
  | zero => exact keepsTable_refl d
  | succ n ih =>
    rw [lockedBelow_succ]
    exact ih.trans (keepsTable_lockRange ..)

/-- The checks of the ranges from `n` on leave a range below `n` as it was left there. -/
theorem rdReg_lockedBelow_of_lt (cap : Nat) (d : Dev) {i n m : Nat} (checked : i < n) (later : n ≤ m) :
    rdReg (lockedBelow cap d m) Reg.HUB_HBM_RANGE [i] = rdReg (lockedBelow cap d n) Reg.HUB_HBM_RANGE [i] := by
  induction m, later using Nat.le_induction with
  | base => rfl
  | succ m later ih => rw [lockedBelow_succ, rdReg_lockRange_other _ _ (by omega), ih]

/-- The checks of the ranges below `n` leave the others as they were. -/
theorem rdReg_lockedBelow_of_le (cap : Nat) (d : Dev) {i n : Nat} (unchecked : n ≤ i) :
    rdReg (lockedBelow cap d n) Reg.HUB_HBM_RANGE [i] = rdReg d Reg.HUB_HBM_RANGE [i] := by
  induction n with
  | zero => rfl
  | succ n ih => rw [lockedBelow_succ, rdReg_lockRange_other _ _ (by omega), ih (by omega)]

section
variable {d d' : Dev} {i : Nat}

theorem rangeOn_congr (same : rdReg d' Reg.HUB_HBM_RANGE [i] = rdReg d Reg.HUB_HBM_RANGE [i]) :
    rangeOn d' i = rangeOn d i := by
  rw [rangeOn, fbit, fget, same]
  rfl

theorem baseGib_congr (same : rdReg d' Reg.HUB_HBM_RANGE [i] = rdReg d Reg.HUB_HBM_RANGE [i]) :
    baseGib d' i = baseGib d i := by
  rw [baseGib, fget, same]
  rfl

/-- The sum below a range looks at the ranges below it alone. -/
theorem gibBelow_congr (on : ∀ j, j < i → rangeOn d' j = rangeOn d j) (keeps : KeepsTable d d') :
    gibBelow d' i = gibBelow d i := by
  refine List.foldl_ext _ _ _ fun n j listed => ?_
  rw [on j (List.mem_range.mp listed), keeps.rangeGib]

end

section
variable {cap : Nat} {d : Dev} {i n : Nat} (checked : i < n)
include checked

/-- A checked range stays enabled where it was, its slice passes, and it is apart from the ranges below that stay enabled. -/
theorem rangeOn_lockedBelow_iff : rangeOn (lockedBelow cap d n) i = true ↔ rangeOn d i = true ∧
    (sliceOf d i).1 < (sliceOf d i).2 ∧ (sliceOf d i).2 ≤ cap ∧
      ∀ j, j < i → rangeOn (lockedBelow cap d n) j = true → SlicesApart (sliceOf d i) (sliceOf d j) := by
  have below (j : Nat) (lower : j < i) : rangeOn (lockedBelow cap d n) j = rangeOn (lockedBelow cap d i) j :=
    rangeOn_congr (rdReg_lockedBelow_of_lt cap d lower checked.le)
  have keeps := (keepsTable_lockedBelow cap d i).slice
  rw [rangeOn_congr (rdReg_lockedBelow_of_lt cap d (Nat.lt_succ_self i) checked), lockedBelow_succ, rangeOn_lockRange,
    rangeOn_congr (rdReg_lockedBelow_of_le cap d le_rfl), Bool.and_eq_true, Bool.not_eq_true', rangeBad_eq_false_iff]
  simp only [keeps]
  refine and_congr Iff.rfl (and_congr Iff.rfl (and_congr Iff.rfl (forall_congr' fun j => forall_congr' fun lower => ?_)))
  rw [below j lower]

/-- A checked range that stays enabled has the sum below it as its base, in 12 bits. -/
theorem baseGib_lockedBelow (on : rangeOn (lockedBelow cap d n) i = true) :
    baseGib (lockedBelow cap d n) i = gibBelow (lockedBelow cap d n) i % 2 ^ 12 := by
  have here := rdReg_lockedBelow_of_lt cap d (Nat.lt_succ_self i) checked
  rw [rangeOn_congr here, lockedBelow_succ] at on
  have below := gibBelow_congr (d := lockedBelow cap d i) (d' := lockedBelow cap d n) (i := i)
    (fun j lower => rangeOn_congr (rdReg_lockedBelow_of_lt cap d lower checked.le))
    ((keepsTable_lockedBelow cap d i).symm.trans (keepsTable_lockedBelow cap d n))
  rw [baseGib_congr here, lockedBelow_succ, baseGib_lockRange on, below]

end

end Sys2Proof.Machine
end

section
/-!
SUPPORT. A checked table of HBM ranges (R225, R226): the slices of its enabled ranges are apart, so that the ranges fit the base
field, lie end to end, and no two addresses name the same byte.
-/
namespace Sys2Proof.Machine

/-- Intervals below a bound that are apart fill no more than the bound. -/
theorem sum_apart_le {ix : Finset Nat} {slice : Nat → Nat × Nat} {cap : Nat} (within : ∀ i ∈ ix, (slice i).2 ≤ cap)
    (apart : ∀ i ∈ ix, ∀ j ∈ ix, j < i → SlicesApart (slice i) (slice j)) :
    ∑ i ∈ ix, ((slice i).2 - (slice i).1) ≤ cap := by
  have disjoint : (ix : Set Nat).PairwiseDisjoint (fun i => Finset.Ico (slice i).1 (slice i).2) := by
    intro i hi j hj other
    refine Finset.disjoint_left.mpr fun x hx hx' => ?_
    rw [Finset.mem_Ico] at hx hx'
    rcases Nat.lt_or_gt_of_ne other with lower | lower
    · rcases apart j hj i hi lower with h | h <;> omega
    · rcases apart i hi j hj lower with h | h <;> omega
  have filled : ix.biUnion (fun i => Finset.Ico (slice i).1 (slice i).2) ⊆ Finset.range cap := by
    intro x hx
    obtain ⟨i, hi, inside⟩ := Finset.mem_biUnion.mp hx
    have := within i hi
    rw [Finset.mem_Ico] at inside
    exact Finset.mem_range.mpr (by omega)
  calc ∑ i ∈ ix, ((slice i).2 - (slice i).1)
      = (ix.biUnion (fun i => Finset.Ico (slice i).1 (slice i).2)).card := by
        rw [Finset.card_biUnion disjoint]
        simp only [Nat.card_Ico]
    _ ≤ (Finset.range cap).card := Finset.card_le_card filled
    _ = cap := Finset.card_range cap

/-- The sum below a range as a sum. -/
theorem gibBelow_eq_sum (d : Dev) (i : Nat) : gibBelow d i =
    ∑ j ∈ (Finset.range i).filter (fun j => rangeOn d j = true), rangeGib d j := by
  induction i with
  | zero => rfl
  | succ i ih =>
    have last : gibBelow d (i + 1) = if rangeOn d i then gibBelow d i + rangeGib d i else gibBelow d i := by
      rw [gibBelow, List.range_succ, List.foldl_append]
      rfl
    rw [last, Finset.sum_filter, Finset.sum_range_succ, ← Finset.sum_filter, ih]
    split <;> rfl

/-- The sum grows by an enabled range. -/
theorem gibBelow_add_le {d : Dev} {i j : Nat} (lower : j < i) (on : rangeOn d j = true) :
    gibBelow d j + rangeGib d j ≤ gibBelow d i := by
  have step : gibBelow d (j + 1) = gibBelow d j + rangeGib d j := by
    rw [gibBelow, List.range_succ, List.foldl_append]
    simp [gibBelow, on]
  rw [← step, gibBelow_eq_sum, gibBelow_eq_sum]
  exact Finset.sum_le_sum_of_subset (Finset.filter_subset_filter _ (Finset.range_subset_range.mpr lower))

theorem rangeGib_eq (d : Dev) (i : Nat) :
    rangeGib d i = ((sliceOf d i).2 - (sliceOf d i).1) * (stacksIn d).length := by
  rw [sliceOf_eq, rangeGib]
  congr 1
  omega

theorem length_stacksIn_le (d : Dev) : (stacksIn d).length ≤ 24 :=
  (List.length_filter_le _ _).trans (List.length_range ..).le

/-- A table that was checked at the lock: its enabled ranges pass, and each has the sum of those below it as its base. -/
structure CheckedTable (cap : Nat) (d : Dev) : Prop where
  locked : rangesLocked d = true
  within : ∀ i, i < 32 → rangeOn d i = true → (sliceOf d i).2 ≤ cap
  apart : ∀ i, i < 32 → rangeOn d i = true → ∀ j, j < i → rangeOn d j = true → SlicesApart (sliceOf d i) (sliceOf d j)
  based : ∀ i, i < 32 → rangeOn d i = true → baseGib d i = gibBelow d i % 2 ^ 12

section
variable {cap : Nat} {d : Dev} (table : CheckedTable cap d) (capFits : cap ≤ 48)
include table capFits

/-- The base field holds every sum. -/
theorem gibBelow_lt {i : Nat} (inTable : i < 32) : gibBelow d i < 2 ^ 12 := by
  have few := length_stacksIn_le d
  have filled := sum_apart_le (ix := (Finset.range i).filter (fun j => rangeOn d j = true)) (slice := sliceOf d) (cap := cap)
    (fun j hj => by
      obtain ⟨lower, on⟩ := Finset.mem_filter.mp hj
      exact table.within j ((Finset.mem_range.mp lower).trans inTable) on)
    (fun j hj k hk lower => by
      obtain ⟨jLower, jOn⟩ := Finset.mem_filter.mp hj
      exact table.apart j ((Finset.mem_range.mp jLower).trans inTable) jOn k lower (Finset.mem_filter.mp hk).2)
  rw [gibBelow_eq_sum]
  simp only [rangeGib_eq, ← Finset.sum_mul]
  calc _ ≤ 48 * 24 := Nat.mul_le_mul (filled.trans capFits) few
    _ < 2 ^ 12 := by decide

theorem CheckedTable.base_eq {i : Nat} (inTable : i < 32) (on : rangeOn d i = true) : baseGib d i = gibBelow d i :=
  (table.based i inTable on).trans (Nat.mod_eq_of_lt (gibBelow_lt table capFits inTable))

/-- Enabled ranges are laid end to end in ascending order (R226). -/
theorem CheckedTable.end_le_base {i j : Nat} (inTable : i < 32) (lower : j < i) (on : rangeOn d i = true)
    (lowerOn : rangeOn d j = true) : baseGib d j + rangeGib d j ≤ baseGib d i := by
  rw [table.base_eq capFits inTable on, table.base_eq capFits (lower.trans inTable) lowerOn]
  exact gibBelow_add_le lower lowerOn

/-- An address belongs to the enabled range whose span holds it (R226). -/
theorem CheckedTable.rangeOf_iff {i a : Nat} (inTable : i < 32) : rangeOf d a = some i ↔
    rangeOn d i = true ∧ baseGib d i * 2 ^ 30 ≤ a ∧ a < (baseGib d i + rangeGib d i) * 2 ^ 30 := by
  have spans (j : Nat) : (rangeOn d j && decide (baseGib d j * 2 ^ 30 ≤ a) &&
      decide (a < baseGib d j * 2 ^ 30 + rangeGib d j * 2 ^ 30)) = true ↔
        rangeOn d j = true ∧ baseGib d j * 2 ^ 30 ≤ a ∧ a < (baseGib d j + rangeGib d j) * 2 ^ 30 := by
    rw [Bool.and_eq_true, Bool.and_eq_true, decide_eq_true_iff, decide_eq_true_iff, and_assoc, Nat.add_mul]
  rw [rangeOf, table.locked, Bool.not_true, if_neg Bool.false_ne_true, lowest, List.find?_range_eq_some]
  refine ⟨fun h => (spans i).mp h.1, fun here => ⟨(spans i).mpr here, List.mem_range.mpr inTable, fun j lower => ?_⟩⟩
  rw [Bool.not_eq_true']
  refine eq_false_of_ne_true fun there => ?_
  obtain ⟨on, from_, -⟩ := here
  obtain ⟨lowerOn, -, to_⟩ := (spans j).mp there
  have := table.end_le_base capFits inTable lower on lowerOn
  omega

end

/-- Where every enabled range ends at or below an address, nothing is there (R226). -/
theorem hbmEnd_le {d : Dev} {a : Nat}
    (beyond : ∀ i, i < 32 → rangeOn d i = true → (baseGib d i + rangeGib d i) * 2 ^ 30 ≤ a) : hbmEnd d ≤ a := by
  refine List.foldlRecOn (motive := fun m => m ≤ a) _ _ (Nat.zero_le a) fun m small i listed => ?_
  split
  next on => exact max_le small (beyond i (List.mem_range.mp listed) on)
  next => exact small

theorem targetOf_beyond {d : Dev} {a : Nat} (region : a < 2 ^ 42) (beyond : hbmEnd d ≤ a) : targetOf d a 1 = .none_ := by
  have last : a + max 1 1 - 1 = a := by omega
  simp only [targetOf, last]
  rw [if_neg (by omega), if_pos region, if_neg (by simp; omega)]

section
variable {cap : Nat} {d : Dev} (table : CheckedTable cap d) (capFits : cap ≤ 48)
include table capFits

theorem CheckedTable.offset_lt {i a : Nat} (inTable : i < 32) (belongs : rangeOf d a = some i) :
    a - baseGib d i * 2 ^ 30 < (stacksIn d).length * rangeBytes d i := by
  obtain ⟨-, from_, to_⟩ := (table.rangeOf_iff capFits inTable).mp belongs
  have size : rangeGib d i * 2 ^ 30 = (stacksIn d).length * rangeBytes d i := by
    rw [rangeGib, rangeBytes]
    ring
  rw [← size]
  omega

omit table capFits in
theorem rangeOf_lt {i a : Nat} (belongs : rangeOf d a = some i) : i < 32 := by
  unfold rangeOf at belongs
  split at belongs
  · exact nomatch belongs
  · exact List.mem_range.mp (List.mem_of_find?_eq_some belongs)

/-- An address that is decoded names a stack in service, and a byte of its range's slice. -/
theorem CheckedTable.decodeHbm_spec {a n sa : Nat} (decoded : decodeHbm d a = some (n, sa)) :
    n ∈ stacksIn d ∧ ∃ i, i < 32 ∧ rangeOf d a = some i ∧ rangeOn d i = true ∧ decodeIn d i a = (n, sa) ∧
      (sliceOf d i).1 * 2 ^ 30 ≤ sa ∧ sa < (sliceOf d i).2 * 2 ^ 30 := by
  obtain ⟨i, belongs, place⟩ := Option.map_eq_some_iff.mp decoded
  have inTable := rangeOf_lt belongs
  obtain ⟨served, inSlice⟩ := spread_spec (table.offset_lt capFits inTable belongs)
  have place' := place
  rw [decodeIn_eq, Prod.mk.injEq] at place'
  obtain ⟨rfl, rfl⟩ := place'
  refine ⟨served, i, inTable, belongs, ((table.rangeOf_iff capFits inTable).mp belongs).1, place, ?_, ?_⟩
  · rw [sliceOf_eq]
    exact Nat.le_add_right ..
  · rw [sliceOf_eq, Nat.add_mul]
    exact Nat.add_lt_add_left inSlice _

/-- No two addresses name the same byte of the same stack. -/
theorem CheckedTable.decodeHbm_injective {a b n sa : Nat} (decoded : decodeHbm d a = some (n, sa))
    (decoded' : decodeHbm d b = some (n, sa)) : a = b := by
  obtain ⟨-, i, inTable, belongs, on, place, from_, to_⟩ := table.decodeHbm_spec capFits decoded
  obtain ⟨-, j, inTable', belongs', on', place', from_', to_'⟩ := table.decodeHbm_spec capFits decoded'
  obtain rfl : i = j := by
    rcases Nat.lt_trichotomy i j with lower | same | lower
    · rcases table.apart j inTable' on' i lower on with h | h <;> omega
    · exact same
    · rcases table.apart i inTable on j lower on' with h | h <;> omega
  have spans := ((table.rangeOf_iff capFits inTable).mp belongs).2.1
  have spans' := ((table.rangeOf_iff capFits inTable).mp belongs').2.1
  have same := place.trans place'.symm
  rw [decodeIn_eq, decodeIn_eq, Prod.mk.injEq] at same
  have offsets := spread_injective (table.offset_lt capFits inTable belongs) (table.offset_lt capFits inTable belongs')
    (Prod.ext same.1 (Nat.add_left_cancel same.2))
  omega

end

end Sys2Proof.Machine
end

section
/-!
SETTLED. The package memory family, the table of HBM ranges (O34).
-/
namespace Sys2Proof.Machine

/-- The device with its table of ranges locked. -/
def lockedTable (cap : Nat) (d : Dev) : Dev :=
  fset (lockedBelow cap (fset d Reg.HUB_HBM_CFG [] Fld.HUB_HBM_CFG_lock 1) 32) Reg.HUB_HBM_CFG [] Fld.HUB_HBM_CFG_ready 1

theorem exec_hbmRangeLock {s : State} {p : Path} {data : Word} (notPort : pathPort p = none)
    (sets : Fld.HUB_HBM_CFG_lock.get data = 1) (open_ : rangesLocked s.dev = false) :
    exec (.hbmRangeLock p data) s = .next (s.settle (lockedTable (if s.fuses.gradeB then 36 else 48) s.dev.rest)) := by
  have unlocked : rangesLocked s.dev.rest = false := open_
  change execHbmRangeLock p data s = _
  refine run_settle ?_
  simp only [portHalted_of_no_port notPort, Bool.false_eq_true, if_false]
  cases p with
  | port n => exact nomatch notPort
  | _ => simp only [rangeLockWrite, unlocked, sets]; rfl

section
variable (cap : Nat) (d : Dev)

theorem rdReg_lockedTable (i : Nat) : rdReg (lockedTable cap d) Reg.HUB_HBM_RANGE [i] =
    rdReg (lockedBelow cap (fset d Reg.HUB_HBM_CFG [] Fld.HUB_HBM_CFG_lock 1) 32) Reg.HUB_HBM_RANGE [i] :=
  rdReg_range_fset_cfg ..

/-- Setting the lock and the ready bit, and checking the ranges between, leaves the slices and the stacks. -/
theorem lockedTable_keeps : (∀ i, sliceOf (lockedTable cap d) i = sliceOf d i) ∧
    stacksIn (lockedTable cap d) = stacksIn d ∧ (lockedTable cap d).wq = d.wq ∧
    (lockedTable cap d).reports = d.reports ∧ rangesLocked (lockedTable cap d) = true := by
  have checks := keepsTable_lockedBelow cap (fset d Reg.HUB_HBM_CFG [] Fld.HUB_HBM_CFG_lock 1) 32
  have ready := keepsTable_fset_cfg (lockedBelow cap (fset d Reg.HUB_HBM_CFG [] Fld.HUB_HBM_CFG_lock 1) 32)
    (f := Fld.HUB_HBM_CFG_ready) 1 (by decide) (by decide)
  have keeps := checks.trans ready
  refine ⟨fun i => (keeps.slice i).trans (congrArg rangeSlice (rdReg_range_fset_cfg ..)), keeps.served.trans ?_,
    keeps.wq, keeps.reports, keeps.lock.trans ?_⟩
  · unfold stacksIn
    rw [fget_fset_other _ _ _ _ _ _ _ _ (by decide)]
  · rw [rangesLocked, fbit, fget_fset_same _ _ _ _ _ (by decide) (by decide)]
    rfl

theorem rangeOn_lockedTable_iff {i : Nat} (inTable : i < 32) : rangeOn (lockedTable cap d) i = true ↔
    rangeOn d i = true ∧ (sliceOf d i).1 < (sliceOf d i).2 ∧ (sliceOf d i).2 ≤ cap ∧
      ∀ j, j < i → rangeOn (lockedTable cap d) j = true → SlicesApart (sliceOf d i) (sliceOf d j) := by
  have on (j : Nat) := rangeOn_congr (rdReg_lockedTable cap d j)
  have before (j : Nat) := rangeOn_congr (rdReg_range_fset_cfg d Fld.HUB_HBM_CFG_lock 1 j)
  have slice (j : Nat) : sliceOf (fset d Reg.HUB_HBM_CFG [] Fld.HUB_HBM_CFG_lock 1) j = sliceOf d j :=
    congrArg rangeSlice (rdReg_range_fset_cfg ..)
  simp only [on]
  rw [rangeOn_lockedBelow_iff inTable, before]
  simp only [slice]

theorem checkedTable_lockedTable : CheckedTable cap (lockedTable cap d) := by
  obtain ⟨slice, -, -, -, locked⟩ := lockedTable_keeps cap d
  refine ⟨locked, fun i inTable on => ?_, fun i inTable on j lower lowerOn => ?_, fun i inTable on => ?_⟩
  · rw [slice]
    exact ((rangeOn_lockedTable_iff cap d inTable).mp on).2.2.1
  · rw [slice, slice]
    exact ((rangeOn_lockedTable_iff cap d inTable).mp on).2.2.2 j lower lowerOn
  · have ready := keepsTable_fset_cfg (lockedBelow cap (fset d Reg.HUB_HBM_CFG [] Fld.HUB_HBM_CFG_lock 1) 32)
      (f := Fld.HUB_HBM_CFG_ready) 1 (by decide) (by decide)
    rw [rangeOn_congr (rdReg_lockedTable cap d i)] at on
    rw [baseGib_congr (rdReg_lockedTable cap d i), baseGib_lockedBelow inTable on]
    exact congrArg (· % 2 ^ 12) (gibBelow_congr (fun j _ => rangeOn_congr (rdReg_lockedTable cap d j)) ready).symm

end

/-- Settles O34: each range is checked against the ranges below it, which keep their registers from then on; the slices of
those that pass are apart, so that their sizes fit the base field, and the byte that an address names tells its range. -/
theorem hbmRangesAreLaidEndToEnd : Obligations.HbmRangesAreLaidEndToEnd := by
  intro s p data notPort sets open_
  let cap := if s.fuses.gradeB then 36 else 48
  have capFits : cap ≤ 48 := by
    change (if s.fuses.gradeB then 36 else 48) ≤ 48
    split <;> decide
  obtain ⟨slice, served, wq, reports, locked⟩ := lockedTable_keeps cap s.dev.rest
  have table := checkedTable_lockedTable cap s.dev.rest
  have size (i : Nat) : rangeGib (lockedTable cap s.dev.rest) i =
      ((sliceOf s.dev i).2 - (sliceOf s.dev i).1) * (stacksIn s.dev).length := by
    rw [rangeGib_eq, slice, served]
    rfl
  refine ⟨_, exec_hbmRangeLock notPort sets open_, settle_mem_of_quiet s wq, reports, locked,
    fun i inTable => rangeOn_lockedTable_iff cap s.dev.rest inTable, fun i inTable on => ?_,
    fun i a inTable => ?_, fun a region beyond => ?_, fun a b n sa decoded => ?_⟩
  · refine (table.base_eq capFits inTable on).trans (List.foldl_ext _ _ _ fun n j _ => ?_)
    rw [size]
    rfl
  · refine (table.rangeOf_iff capFits inTable).trans ?_
    rw [size]
    rfl
  · have end_ : hbmEnd (lockedTable cap s.dev.rest) ≤ a := hbmEnd_le fun i inTable on => by
      rw [size]
      exact beyond i inTable on
    refine ⟨?_, targetOf_beyond region end_⟩
    refine Option.eq_none_iff_forall_ne_some.mpr fun i belongs => ?_
    obtain ⟨on, -, below⟩ := (table.rangeOf_iff capFits (rangeOf_lt belongs)).mp belongs
    have := beyond i (rangeOf_lt belongs) on
    rw [size] at below
    exact absurd below (Nat.not_lt.mpr this)
  · obtain ⟨inService, i, inTable, -, on, -, -, below⟩ := table.decodeHbm_spec capFits decoded
    refine ⟨served ▸ inService, below.trans_le (Nat.mul_le_mul_right _ (table.within i inTable on)),
      fun decoded' => table.decodeHbm_injective capFits decoded decoded'⟩

end Sys2Proof.Machine
end

section
/-!
SUPPORT. Homes where nothing is under way (R243, R244): a request that reaches one starts at once, and a home whose
transactions all wait goes no further.
-/
namespace Sys2Proof.Machine

theorem settleHomes_finish {d : Dev} {x : Txn} (ready : d.coh.txns.find? (txnReady d) = some x) (e : Env) (n : Nat) :
    settleHomes e (n + 1) d = settleHomes e n (finishTxn e d x) := by rw [settleHomes, ready]

/-- The device with other requests waiting at the homes. -/
def Dev.withWaiting (d : Dev) (qs : List HReq) : Dev := { d with coh := { d.coh with waiting := qs } }

theorem settleHomes_start {d : Dev} {q : HReq} {qs : List HReq} (noneReady : d.coh.txns.find? (txnReady d) = none)
    (next : nextWaiting d [] d.coh.waiting = some (q, qs)) (e : Env) (n : Nat) :
    settleHomes e (n + 1) d = settleHomes e n (startReq e (d.withWaiting qs) q) := by
  rw [settleHomes, noneReady, next]
  rfl

/-- Homes whose transactions wait, and at which no request waits, stay as they are. -/
theorem settleHomes_of_idle {d : Dev} (e : Env) (blocked : ∀ x ∈ d.coh.txns, txnReady d x = false)
    (empty : d.coh.waiting = []) (n : Nat) : settleHomes e n d = d := by
  cases n with
  | zero => rfl
  | succ n =>
    have none_ : d.coh.txns.find? (txnReady d) = none :=
      List.find?_eq_none.mpr fun x listed => by rw [blocked x listed]; exact Bool.false_ne_true
    rw [settleHomes, none_, empty]
    rfl

theorem settle_of_idle {d : Dev} (e : Env) (blocked : ∀ x ∈ d.coh.txns, txnReady d x = false)
    (empty : d.coh.waiting = []) : settle e d = d := settleHomes_of_idle e blocked empty _

/-- Homes without transactions and requests. -/
structure HomesQuiet (d : Dev) : Prop where
  txns : d.coh.txns = []
  waiting : d.coh.waiting = []

theorem HomesQuiet.congr {d d' : Dev} (quiet : HomesQuiet d) (same : d'.coh = d.coh) : HomesQuiet d' :=
  ⟨same ▸ quiet.txns, same ▸ quiet.waiting⟩

theorem settleHomes_of_quiet {d : Dev} (quiet : HomesQuiet d) (e : Env) (n : Nat) : settleHomes e n d = d :=
  settleHomes_of_idle e (by rw [quiet.txns]; exact fun _ listed => nomatch listed) quiet.waiting n

theorem settle_of_quiet {d : Dev} (quiet : HomesQuiet d) (e : Env) : settle e d = d := settleHomes_of_quiet quiet e _

/-- A request may start where no home has a transaction and none waits before it. -/
theorem canStart_of_no_txns {d : Dev} (none_ : d.coh.txns = []) (q : HReq) : canStart d [] q = true := by
  simp [canStart, lineBusy, homeLoad, none_]

theorem nextWaiting_of_canStart {d : Dev} {ahead : List HReq} {q : HReq} (may : canStart d ahead q = true) (qs : List HReq) :
    nextWaiting d ahead (q :: qs) = some (q, ahead ++ qs) := by rw [nextWaiting, if_pos may]

/-- A request that reaches quiet homes starts at once (R243). -/
theorem homeRequest_of_quiet {d : Dev} (quiet : HomesQuiet d) (e : Env) (q : HReq) :
    homeRequest e d q = settleHomes e 5 (startReq e d q) := by
  obtain ⟨noTxns, noneWaits⟩ := quiet
  have back : d.withWaiting [] = d := by rw [Dev.withWaiting, ← noneWaits]
  have arrives : homeRequest e d q = settleHomes e 6 (d.withWaiting [q]) := by
    rw [homeRequest, settle, noTxns, noneWaits]
    rfl
  rw [arrives, settleHomes_start (qs := []) (by rw [Dev.withWaiting, noTxns]; rfl)
    (nextWaiting_of_canStart (canStart_of_no_txns (by exact noTxns) q) [])]
  exact congrArg (fun d => settleHomes e 5 (startReq e d q)) back

/-- A request of a line of the HBM region that its requester may reach goes to its home (R236). -/
theorem plainRequest_hbm {d : Dev} {q : HReq} {len : Nat} (reaches : reachErr d ⟨q.src, srcPart d q.src⟩ q.addr len = none)
    (hbm : targetOf d q.addr len = .hbm) (e : Env) : plainRequest e d q len = homeRequest e d q := by
  rw [plainRequest, reaches, hbm]

/-- A write or an atomic that meets no copy is performed at once (R244). -/
theorem homeRequest_performed {d : Dev} (quiet : HomesQuiet d) (noCopies : d.coh.dir = []) {q : HReq}
    (performs : 4 ≤ q.kind ∧ q.kind < 30) {e : Env} (same : (performReq e d q).coh = d.coh) :
    homeRequest e d q = performReq e d q := by
  have noSnoops : (reqLines q).flatMap (snoopsAt d q) = [] := by simp [snoopsAt, noCopies, Sparse.find]
  have starts : startReq e d q = performReq e d q := by
    unfold startReq
    exact if_pos ⟨performs.1, performs.2, noSnoops⟩
  rw [homeRequest_of_quiet quiet, starts, settleHomes_of_quiet (quiet.congr same)]

end Sys2Proof.Machine
end

section
/-!
SUPPORT. The bytes of a line of the HBM region (R228): they lie side by side in one stack, and share one poison mark.
-/
namespace Sys2Proof.Machine

theorem interleave_dvd (pool : List Nat) {r : Nat} (aligned : 128 ∣ r) : 128 ∣ (interleave pool r).2 := by
  have : 128 ∣ r % 256 := (Nat.dvd_mod_iff (by decide)).mpr aligned
  exact Nat.dvd_add (Dvd.dvd.mul_left (by decide) _) this

theorem spread_dvd (d : Dev) (i : Nat) {r : Nat} (aligned : 128 ∣ r) : 128 ∣ (spread d i r).2 := by
  refine interleave_dvd _ ?_
  rcases eq_or_ne (fget d Reg.HUB_HBM_RANGE [i] Fld.HUB_HBM_RANGE_mode) 0 with mode | mode
  · rwa [offsetPart_interleaved mode]
  · obtain ⟨x, part⟩ := exists_eq' (a' := regionalPart d (rangeBytes d i) 6 0 r)
    have still := (regionalPart_add d (len := rangeBytes d i) (Dvd.dvd.mul_left (by decide) _) 6 0 aligned
      (j := 0) (by decide)).1
    rw [offsetPart_regional mode r part]
    rwa [part] at still

/-- The bounds of ranges are whole GiB, so that the bytes of a line belong to one range. -/
theorem rangeOf_line (d : Dev) (line : Nat) {j : Nat} (near : j < 128) :
    rangeOf d (128 * line + j) = rangeOf d (128 * line) := by
  unfold rangeOf
  congr 2
  funext i
  have lower (b : Nat) : b * 2 ^ 30 ≤ 128 * line + j ↔ b * 2 ^ 30 ≤ 128 * line := by omega
  have upper (b g : Nat) : 128 * line + j < b * 2 ^ 30 + g * 2 ^ 30 ↔ 128 * line < b * 2 ^ 30 + g * 2 ^ 30 := by omega
  simp only [lower, upper]

theorem base_le_of_rangeOf {d : Dev} {a i : Nat} (belongs : rangeOf d a = some i) : baseGib d i * 2 ^ 30 ≤ a := by
  unfold rangeOf at belongs
  split at belongs
  · exact nomatch belongs
  · have holds := List.find?_some belongs
    simp only [Bool.and_eq_true, decide_eq_true_eq] at holds
    exact holds.1.2

/-- The bytes of a line that is decoded lie side by side from an aligned key on. -/
theorem lineKeys_eq_span {d : Dev} {line : Nat} (homed : (homeOf d (128 * line)).isSome = true) :
    ∃ k, 128 ∣ k ∧ lineKeys d line = span k 128 := by
  obtain ⟨i, belongs⟩ : ∃ i, rangeOf d (128 * line) = some i := by
    rw [homeOf, decodeHbm, Option.isSome_map, Option.isSome_map] at homed
    exact Option.isSome_iff_exists.mp homed
  have base := base_le_of_rangeOf belongs
  have whole (n : Nat) : 128 ∣ n * 2 ^ 30 := Dvd.dvd.mul_left (by decide) _
  have aligned : 128 ∣ 128 * line - baseGib d i * 2 ^ 30 := Nat.dvd_sub (Nat.dvd_mul_right ..) (whole _)
  obtain ⟨x, place⟩ := exists_eq' (a' := spread d i (128 * line - baseGib d i * 2 ^ 30))
  have placed {j : Nat} (near : j < 128) : hbmKey d (128 * line + j) =
      some (stackCells x.1 + (fget d Reg.HUB_HBM_RANGE [i] Fld.HUB_HBM_RANGE_off_gib * 2 ^ 30 + x.2) + j) := by
    have offset : 128 * line + j - baseGib d i * 2 ^ 30 = 128 * line - baseGib d i * 2 ^ 30 + j := by omega
    have together := spread_add d i aligned near
    rw [place, ← offset] at together
    rw [hbmKey, decodeHbm, rangeOf_line d line near, belongs, Option.map_some, Option.map_some, decodeIn_eq]
    unfold baseGib at together
    rw [together]
    exact congrArg some (by ring)
  refine ⟨stackCells x.1 + (fget d Reg.HUB_HBM_RANGE [i] Fld.HUB_HBM_RANGE_off_gib * 2 ^ 30 + x.2), ?_,
    List.map_congr_left fun j near => ?_⟩
  · have stack : 128 ∣ stackCells x.1 :=
      Nat.dvd_add (by decide) (Dvd.dvd.mul_left (by decide) _)
    exact Nat.dvd_add stack (Nat.dvd_add (whole _) (place ▸ spread_dvd d i aligned))
  · rw [placed (List.mem_range.mp near)]
    rfl

theorem length_span (k n : Nat) : (span k n).length = n := by simp [span]

theorem nodup_span (k n : Nat) : (span k n).Nodup := List.nodup_range.map fun _ _ same => Nat.add_left_cancel same

theorem getD_span {k n i : Nat} (inside : i < n) : (span k n).getD i 0 = k + i := by
  rw [List.getD_eq_getElem?_getD, getElem?_span inside, Option.getD_some]

theorem mem_span {k n x : Nat} : x ∈ span k n ↔ ∃ i, i < n ∧ x = k + i := by
  simp only [span, List.mem_map, List.mem_range, eq_comm]

/-- The bytes of a line share its poison mark (R231). -/
theorem lineMark_of_mem_span {k x : Nat} (aligned : 128 ∣ k) (inside : x ∈ span k 128) : lineMark x = lineMark k := by
  obtain ⟨i, near, rfl⟩ := mem_span.mp inside
  unfold lineMark
  omega

end Sys2Proof.Machine
end

section
/-!
SUPPORT. Accesses of package memory that meet no copy (R222, R223, R231, R248, R249): the atomics that are performed, those that
find no place, and the writes of lines.
-/
namespace Sys2Proof.Machine

/-- Bytes written at keys are put in their order. -/
theorem wrBytes_eq (d : Dev) (ks : List Nat) (bs : List Byte) : wrBytes d ks bs =
    { d with wq := ((ks.zip bs).map (fun p => MemChange.put p.1 p.2)).reverse ++ d.wq } := by
  induction ks generalizing d bs with
  | nil => rfl
  | cons k ks ih =>
    cases bs with
    | nil => rfl
    | cons b bs =>
      rw [wrBytes, ih]
      simp [wrByte]

theorem reports_wakeBanks (d : Dev) (site : Nat) (bs : List Nat) : (wakeBanks d site bs).reports = d.reports := by
  refine List.foldlRecOn (motive := fun x : Dev => x.reports = d.reports) _ _ rfl fun x same b _ => ?_
  split
  · exact same
  · exact same

theorem recallRange_of_no_copies {d : Dev} (noCopies : d.coh.dir = []) (a len mode : Nat) : recallRange d a len mode = d :=
  if_pos noCopies

/-- A request is denied or finds no target, or reaches its target. -/
theorem reachErr_cases (d : Dev) (r : Requester) (a len : Nat) :
    reachErr d r a len = none ∨ reachErr d r a len = some .denied ∨ reachErr d r a len = some .noTarget := by
  unfold reachErr
  dsimp only
  split
  · exact .inr (.inr rfl)
  all_goals
    split_ifs
    all_goals simp only [true_or, or_true]

theorem refuseNote_noTarget (d : Dev) (r : Requester) (a : Nat) :
    ∃ x, refuseNote d r .noTarget a = report d x := ⟨_, rfl⟩

section
variable {d : Dev} {r : Requester} {a : Nat} {op : MemOp}

/-- An atomic in the HBM region over at most two lines, of which none is held or poisoned. -/
theorem pkgAtomic_hbm (reaches : reachErr d r a (opLen op) = none) (hbm : targetOf d a (opLen op) = .hbm)
    (twoLines : (a + opLen op - 1) / 128 ≤ a / 128 + 1) (noCopies : d.coh.dir = [])
    (clean : hbmPoison d (hbmKeys d a (opLen op)) = false) (e : Env) :
    pkgAtomic e d r a op = (.ok (atomApply op (rdBytes e d (hbmKeys d a (opLen op)))).2,
      wrBytes d (hbmKeys d a (opLen op)) (atomApply op (rdBytes e d (hbmKeys d a (opLen op)))).1) := by
  have few : ¬ 1 < (a + opLen op - 1) / 128 - a / 128 := by omega
  simp only [pkgAtomic, reaches, hbm, few, if_false, recallRange_of_no_copies noCopies, clean, Bool.false_eq_true]

/-- An atomic in the normal view of a core's window, whose banks grant it. -/
theorem pkgAtomic_core (reaches : reachErr d r a (opLen op) = none) {c off site o : Nat} {mbx : Bool}
    (core : targetOf d a (opLen op) = .core c off) (sited : siteOfCore d c = some site)
    (viewed : windowView off (opLen op) = some (.normal, mbx, o)) {ks : List Nat}
    (keys : ks = windowKeys d site mbx o (opLen op)) (grants : ∀ b ∈ banksOf ks, bankRefuses d site b = false)
    (clean : anyPoison d ks = false) (e : Env) :
    pkgAtomic e d r a op =
      (.ok (atomApply op (rdBytes e d ks)).2, wrBytes (wakeBanks d site (banksOf ks)) ks (atomApply op (rdBytes e d ks)).1) := by
  subst keys
  have noneRefuses := List.any_eq_false.mpr fun b hb => Bool.not_eq_true _ ▸ grants b hb
  simp only [pkgAtomic, reaches, core, sited, viewed, noneRefuses, clean, Bool.false_eq_true, if_false]

/-- An atomic anywhere else that is not denied completes with NOTARGET (R249). -/
theorem pkgAtomic_nowhere (admitted : reachErr d r a (opLen op) ≠ some .denied)
    (nowhere : targetOf d a (opLen op) = .none_ ∨ (∃ p off, targetOf d a (opLen op) = .host p off) ∨
      (∃ g off, targetOf d a (opLen op) = .guest g off) ∨ (∃ c off mbx o, targetOf d a (opLen op) = .core c off ∧
        (windowView off (opLen op) = some (.set, mbx, o) ∨ windowView off (opLen op) = some (.clear, mbx, o)))) (e : Env) :
    pkgAtomic e d r a op = (.error .noTarget, refuseNote d r .noTarget a) := by
  rcases reachErr_cases d r a (opLen op) with reaches | denied | noTarget
  · rcases nowhere with none_ | ⟨p, off, host⟩ | ⟨g, off, guest⟩ | ⟨c, off, mbx, o, core, viewed⟩
    · simp only [pkgAtomic, reaches, none_]
    · simp only [pkgAtomic, reaches, host]
    · simp only [pkgAtomic, reaches, guest]
    · rcases viewed with viewed | viewed <;>
        (simp only [pkgAtomic, reaches, core, viewed]; cases siteOfCore d c <;> rfl)
  · exact absurd denied admitted
  · simp only [pkgAtomic, noTarget]

end

/-- An access of at least one byte over at most two lines. -/
theorem length_linesOf_le {a len : Nat} (some_ : 0 < len) (twoLines : (a + len - 1) / 128 ≤ a / 128 + 1) :
    (linesOf a len).length ≤ 2 := by
  simp only [linesOf, List.length_map, List.length_range, Nat.max_eq_left (Nat.succ_le_of_lt some_)]
  omega

section
variable {d d' : Dev} {q : HReq} {op : MemOp} {e : Env} (asks : q.op = some op) (isAtomic : opAtomic op = true)
include asks isAtomic

theorem performReq_ok {bs : List Byte} (answers : pkgAtomic e d ⟨q.src, srcPart d q.src⟩ q.addr op = (.ok bs, d')) :
    performReq e d q = emit d' (.memData q.src bs) := by
  rw [performReq, asks]
  cases op with
  | read => exact absurd isAtomic Bool.false_ne_true
  | write => exact absurd isAtomic Bool.false_ne_true
  | _ => simp only [answers]

theorem performReq_error {er : MemErr}
    (answers : pkgAtomic e d ⟨q.src, srcPart d q.src⟩ q.addr op = (.error er, d')) :
    performReq e d q = emit d' (.memErr q.src er) := by
  rw [performReq, asks]
  cases op with
  | read => exact absurd isAtomic Bool.false_ne_true
  | write => exact absurd isAtomic Bool.false_ne_true
  | _ => simp only [answers]

end

/-- The request that an atomic makes of a home. -/
def atomReq (src : Source) (a : Nat) (op : MemOp) : HReq := { kind := 6, src := src, agent := none, addr := a, op := some op }

/-- An atomic of the HBM region over at most two lines, at quiet homes without copies, is performed as it stands. -/
theorem atomRequest_hbm {d : Dev} {src : Source} {a : Nat} {op : MemOp} (quiet : HomesQuiet d) (noCopies : d.coh.dir = [])
    (reaches : reachErr d ⟨src, srcPart d src⟩ a (opLen op) = none) (hbm : targetOf d a (opLen op) = .hbm)
    (few : (linesOf a (opLen op)).length ≤ 2) {e : Env} (same : (performReq e d (atomReq src a op)).coh = d.coh) :
    atomRequest e d src a op = performReq e d (atomReq src a op) := by
  rw [atomRequest, if_pos ⟨hbm, few⟩]
  exact (plainRequest_hbm (q := atomReq src a op) reaches hbm e).trans
    (homeRequest_performed quiet noCopies (by simp [atomReq]) same)

/-- An atomic whose target is not the HBM region is performed, or not, by its target (R249). -/
theorem atomRequest_elsewhere {d : Dev} {a : Nat} {op : MemOp} (elsewhere : targetOf d a (opLen op) ≠ .hbm) (e : Env)
    (src : Source) : atomRequest e d src a op = performReq e d (atomReq src a op) := if_neg fun h => elsewhere h.1

section
variable {s : State} {c : Instr} {src : Source} {a : Nat} {op : MemOp} (isAtomic : opAtomic op = true)
  (runs : exec c s = s.run (fun e d => atomRequest e d src a op))
include isAtomic runs

/-- What a performed atomic leaves: its new bytes in memory, and the answer. -/
theorem exec_atomic_performed {d : Dev} {ks : List Nat} (request : atomRequest ⟨s.fuses, s.mem⟩ s.dev.rest src a op =
      performReq ⟨s.fuses, s.mem⟩ s.dev.rest (atomReq src a op))
    (answers : pkgAtomic ⟨s.fuses, s.mem⟩ s.dev.rest ⟨src, srcPart s.dev.rest src⟩ a op =
      (.ok (atomApply op (ks.map s.byte)).2, wrBytes d ks (atomApply op (ks.map s.byte)).1))
    (wakes : eventOnly s.dev.rest d) (silent : d.reports = s.dev.reports) :
    ∃ t, exec c s = .next t ∧ t.dev.poison = s.dev.poison ∧ t.dev.reports = s.dev.reports ∧
      t.mem = applyChanges s.mem ((ks.zip (atomApply op (ks.map s.byte)).1).map (fun p => MemChange.put p.1 p.2)) ∧
      t.dev.out = s.dev.out ++ [.memData src (atomApply op (ks.map s.byte)).2] := by
  have performed := performReq_ok (q := atomReq src a op) rfl isAtomic answers
  rw [wrBytes_eq] at performed
  refine ⟨_, runs.trans (run_settle (request.trans performed)), wakes.poison, silent, ?_,
    congrArg (· ++ _) wakes.out⟩
  rw [settle_mem]
  simp only [emit, wakes.wq, rest_wq, List.append_nil, List.reverse_reverse]

/-- In the HBM region an atomic is performed on the bytes of one or two lines (R248). -/
theorem exec_atomic_hbm (quiet : HomesQuiet s.dev) (noCopies : s.dev.coh.dir = []) (some_ : 0 < opLen op)
    (reaches : reachErr s.dev.rest ⟨src, srcPart s.dev.rest src⟩ a (opLen op) = none)
    (hbm : targetOf s.dev.rest a (opLen op) = .hbm) (twoLines : (a + opLen op - 1) / 128 ≤ a / 128 + 1) {ks : List Nat}
    (keys : ks = hbmKeys s.dev.rest a (opLen op)) (clean : hbmPoison s.dev.rest ks = false) :
    ∃ t, exec c s = .next t ∧ t.dev.poison = s.dev.poison ∧ t.dev.reports = s.dev.reports ∧
      t.mem = applyChanges s.mem ((ks.zip (atomApply op (ks.map s.byte)).1).map (fun p => MemChange.put p.1 p.2)) ∧
      t.dev.out = s.dev.out ++ [.memData src (atomApply op (ks.map s.byte)).2] := by
  subst keys
  have answers := pkgAtomic_hbm reaches hbm twoLines noCopies clean ⟨s.fuses, s.mem⟩
  have same : (performReq ⟨s.fuses, s.mem⟩ s.dev.rest (atomReq src a op)).coh = s.dev.rest.coh := by
    rw [performReq_ok (q := atomReq src a op) rfl isAtomic answers, wrBytes_eq]
    rfl
  exact exec_atomic_performed isAtomic runs
    (atomRequest_hbm (d := s.dev.rest) (quiet.congr rfl) noCopies reaches hbm (length_linesOf_le some_ twoLines) same)
    answers (eventOnly_refl _) rfl

/-- In the normal view of a core's window core memory performs it (R249). -/
theorem exec_atomic_core (reaches : reachErr s.dev.rest ⟨src, srcPart s.dev.rest src⟩ a (opLen op) = none)
    {core off site o : Nat} {mbx : Bool} (target : targetOf s.dev.rest a (opLen op) = .core core off)
    (sited : siteOfCore s.dev.rest core = some site) (viewed : windowView off (opLen op) = some (.normal, mbx, o))
    {ks : List Nat} (keys : ks = windowKeys s.dev.rest site mbx o (opLen op))
    (grants : ∀ b ∈ banksOf ks, bankRefuses s.dev.rest site b = false) (clean : anyPoison s.dev.rest ks = false) :
    ∃ t, exec c s = .next t ∧ t.dev.poison = s.dev.poison ∧ t.dev.reports = s.dev.reports ∧
      t.mem = applyChanges s.mem ((ks.zip (atomApply op (ks.map s.byte)).1).map (fun p => MemChange.put p.1 p.2)) ∧
      t.dev.out = s.dev.out ++ [.memData src (atomApply op (ks.map s.byte)).2] :=
  exec_atomic_performed isAtomic runs (atomRequest_elsewhere (by rw [target]; exact Target.noConfusion) _ src)
    (pkgAtomic_core reaches target sited viewed keys grants clean _) (wakeBanks_eventOnly ..) (reports_wakeBanks ..)

/-- Anywhere else that the requester may reach it completes with NOTARGET, and is recorded (R223, R249). -/
theorem exec_atomic_nowhere (admitted : reachErr s.dev.rest ⟨src, srcPart s.dev.rest src⟩ a (opLen op) ≠ some .denied)
    (nowhere : targetOf s.dev.rest a (opLen op) = .none_ ∨ (∃ p off, targetOf s.dev.rest a (opLen op) = .host p off) ∨
      (∃ g off, targetOf s.dev.rest a (opLen op) = .guest g off) ∨
      (∃ core off mbx o, targetOf s.dev.rest a (opLen op) = .core core off ∧
        (windowView off (opLen op) = some (.set, mbx, o) ∨ windowView off (opLen op) = some (.clear, mbx, o)))) :
    ∃ t, exec c s = .next t ∧ t.mem = s.mem ∧ t.dev.poison = s.dev.poison ∧
      t.dev.out = s.dev.out ++ [.memErr src .noTarget] ∧ t.dev.reports.length = s.dev.reports.length + 1 := by
  have elsewhere : targetOf s.dev.rest a (opLen op) ≠ .hbm := by
    rcases nowhere with h | ⟨_, _, h⟩ | ⟨_, _, h⟩ | ⟨_, _, _, _, h, -⟩ <;> rw [h] <;> exact Target.noConfusion
  obtain ⟨x, note⟩ := refuseNote_noTarget s.dev.rest ⟨src, srcPart s.dev.rest src⟩ a
  have answers := pkgAtomic_nowhere admitted nowhere ⟨s.fuses, s.mem⟩
  rw [note] at answers
  have performed := performReq_error (q := atomReq src a op) rfl isAtomic answers
  exact ⟨_, runs.trans (run_settle ((atomRequest_elsewhere elsewhere _ src).trans performed)), settle_mem_of_quiet s rfl, rfl,
    rfl, List.length_append⟩

end

end Sys2Proof.Machine
end

section
/-!
SUPPORT. Writes of the HBM region (R231, R244): the keys that a write enables, the marks that it clears, and when a poisoned line
refuses it.
-/
namespace Sys2Proof.Machine

/-- The keys that a write enables. -/
def enabledKeys (ks : List Nat) (ens : List Bool) : List Nat := ((ks.zip ens).filter (·.2)).map (·.1)

theorem mem_enabledKeys_span {k n x : Nat} {f : Nat → Bool} :
    x ∈ enabledKeys (span k n) ((List.range n).map f) ↔ ∃ i, i < n ∧ f i = true ∧ x = k + i := by
  rw [enabledKeys, span, List.zip_map']
  simp only [List.mem_map, List.mem_filter, List.mem_range]
  constructor
  · rintro ⟨-, ⟨⟨i, near, rfl⟩, on⟩, rfl⟩
    exact ⟨i, near, on, rfl⟩
  · rintro ⟨i, near, on, rfl⟩
    exact ⟨_, ⟨⟨i, near, rfl⟩, on⟩, rfl⟩

/-- Clear the poison mark of a key's line, where it is set. -/
def clearMark (d : Dev) (k : Nat) : Dev := if poisoned d (lineMark k) then setPoison d (lineMark k) false else d

theorem clearMark_frame (d : Dev) (k : Nat) : clearMark d k = { d with poison := (clearMark d k).poison } := by
  unfold clearMark
  split <;> rfl

theorem clearMark_clean {d : Dev} {k : Nat} (clean : poisoned d (lineMark k) = false) : clearMark d k = d := by
  rw [clearMark, clean, if_neg Bool.false_ne_true]

theorem poisoned_clearMark_same (d : Dev) (k : Nat) : poisoned (clearMark d k) (lineMark k) = false := by
  unfold clearMark
  split
  next => exact poisoned_setPoison_same ..
  next clean => exact eq_false_of_ne_true clean

theorem poisoned_clearMark {d : Dev} {m : Nat} (clean : poisoned d m = false) (k : Nat) :
    poisoned (clearMark d k) m = false := by
  rcases eq_or_ne m (lineMark k) with rfl | other
  · exact poisoned_clearMark_same d k
  · unfold clearMark
    split
    · rwa [poisoned_setPoison_other _ _ other]
    · exact clean

/-- Clearing the marks of a list of keys leaves none of them, and changes nothing but marks. -/
theorem clearMarks_spec (on : List Nat) (d : Dev) :
    on.foldl clearMark d = { d with poison := (on.foldl clearMark d).poison } ∧
    (∀ m, poisoned d m = false → poisoned (on.foldl clearMark d) m = false) ∧
    (∀ k ∈ on, poisoned (on.foldl clearMark d) (lineMark k) = false) ∧
    ((∀ k ∈ on, poisoned d (lineMark k) = false) → on.foldl clearMark d = d) := by
  induction on generalizing d with
  | nil => exact ⟨rfl, fun _ clean => clean, by simp, fun _ => rfl⟩
  | cons k on ih =>
    obtain ⟨frame, keeps, clears, idle⟩ := ih (clearMark d k)
    rw [List.foldl_cons]
    refine ⟨frame.trans (by rw [clearMark_frame]), fun m clean => keeps m (poisoned_clearMark clean k), ?_, fun clean => ?_⟩
    · exact List.forall_mem_cons.mpr ⟨keeps _ (poisoned_clearMark_same d k), clears⟩
    · obtain ⟨first, rest⟩ := List.forall_mem_cons.mp clean
      rw [idle (fun x listed => poisoned_clearMark (rest x listed) k), clearMark_clean first]

section
variable {d : Dev} {ks : List Nat} {bs : List Byte} {ens : List Bool}

/-- A write of part of a poisoned line is refused (R231). -/
theorem hbmWrite_refused {k i : Nat} (on : k ∈ enabledKeys ks ens) (marked : poisoned d (lineMark k) = true) (near : i < 128)
    (notWhole : k / 128 * 128 + i ∉ enabledKeys ks ens) : hbmWrite d ks bs ens = (false, d) := by
  have bad : (enabledKeys ks ens).any (fun k => poisoned d (lineMark k) &&
      !((List.range 128).all (fun i => (enabledKeys ks ens).contains (k / 128 * 128 + i)))) = true := by
    refine List.any_eq_true.mpr ⟨k, on, ?_⟩
    rw [marked, Bool.true_and, Bool.not_eq_true', List.all_eq_false]
    exact ⟨i, List.mem_range.mpr near, by simpa using notWhole⟩
  unfold enabledKeys at bad
  simp only [hbmWrite, bad, Bool.true_or, if_true]

/-- A write that covers every poisoned line of its own whole writes its bytes and clears their poison. -/
theorem hbmWrite_accepted (whole : ∀ k ∈ enabledKeys ks ens, poisoned d (lineMark k) = true →
      ∀ i, i < 128 → k / 128 * 128 + i ∈ enabledKeys ks ens)
    (alive : ∀ k ∈ enabledKeys ks ens, deadKey d k = false) :
    hbmWrite d ks bs ens = (true, (enabledKeys ks ens).foldl clearMark (wrEnabled d ks bs ens)) := by
  have good : (enabledKeys ks ens).any (fun k => poisoned d (lineMark k) &&
      !((List.range 128).all (fun i => (enabledKeys ks ens).contains (k / 128 * 128 + i)))) = false := by
    refine List.any_eq_false.mpr fun k on bad => ?_
    rw [Bool.and_eq_true, Bool.not_eq_true', List.all_eq_false] at bad
    obtain ⟨marked, i, near, notWhole⟩ := bad
    exact notWhole (List.contains_iff_mem.mpr (whole k on marked i (List.mem_range.mp near)))
  have noneDead : (enabledKeys ks ens).any (deadKey d) = false :=
    List.any_eq_false.mpr fun k on => by rw [alive k on]; exact Bool.false_ne_true
  unfold enabledKeys at good noneDead
  simp only [hbmWrite, good, noneDead, Bool.or_self, Bool.false_eq_true, if_false]
  rfl

end

section
variable {d : Dev} {k : Nat} {f : Nat → Bool} (aligned : 128 ∣ k) (alive : ∀ x ∈ span k 128, deadKey d x = false)
include aligned

theorem lineMark_enabled {x : Nat} (on : x ∈ enabledKeys (span k 128) ((List.range 128).map f)) : lineMark x = lineMark k := by
  obtain ⟨i, near, -, rfl⟩ := mem_enabledKeys_span.mp on
  exact lineMark_of_mem_span aligned (mem_span.mpr ⟨i, near, rfl⟩)

include alive

/-- A write to a line that is not poisoned, or that it covers whole, writes its bytes; the line is not poisoned then, and no mark
changes where none was set. -/
theorem hbmWrite_line (bs : List Byte) (good : poisoned d (lineMark k) = false ∨ ∀ i, i < 128 → f i = true) :
    ∃ d', hbmWrite d (span k 128) bs ((List.range 128).map f) = (true, d') ∧
      d' = { wrEnabled d (span k 128) bs ((List.range 128).map f) with poison := d'.poison } ∧
      poisoned d' (lineMark k) = false ∧ (poisoned d (lineMark k) = false → d'.poison = d.poison) := by
  have accepted := hbmWrite_accepted (d := d) (ks := span k 128) (bs := bs) (ens := (List.range 128).map f)
    (fun x on marked i near => by
      obtain ⟨j, nearJ, -, rfl⟩ := mem_enabledKeys_span.mp on
      rcases good with clean | all
      · rw [lineMark_enabled aligned on, clean] at marked
        exact absurd marked Bool.false_ne_true
      · exact mem_enabledKeys_span.mpr ⟨i, near, all i near, by omega⟩)
    (fun x on => by
      obtain ⟨j, nearJ, -, rfl⟩ := mem_enabledKeys_span.mp on
      exact alive _ (mem_span.mpr ⟨j, nearJ, rfl⟩))
  obtain ⟨frame, keeps, clears, idle⟩ := clearMarks_spec (enabledKeys (span k 128) ((List.range 128).map f))
    (wrEnabled d (span k 128) bs ((List.range 128).map f))
  have marks : (wrEnabled d (span k 128) bs ((List.range 128).map f)).poison = d.poison := by rw [wrEnabled_frame]
  have same (m : Nat) : poisoned (wrEnabled d (span k 128) bs ((List.range 128).map f)) m = poisoned d m := by
    unfold poisoned
    rw [marks]
  refine ⟨_, accepted, frame, ?_, fun clean => ?_⟩
  · rcases good with clean | all
    · exact keeps _ ((same _).trans clean)
    · exact clears k (mem_enabledKeys_span.mpr ⟨0, by decide, all 0 (by decide), rfl⟩)
  · rw [idle fun x on => (same _).trans (by rw [lineMark_enabled aligned on, clean]), marks]

end

end Sys2Proof.Machine
end

section
/-!
SUPPORT. WRLINE and WRPART at quiet homes without copies (R244).
-/
namespace Sys2Proof.Machine

/-- A write that meets no copy is decided by the line that it names. -/
theorem pkgWrite_hbm {d : Dev} {r : Requester} {a : Nat} {bs : List Byte} (reaches : reachErr d r a bs.length = none)
    (hbm : targetOf d a bs.length = .hbm) (noCopies : d.coh.dir = []) (e : Env) (ens : List Bool) :
    pkgWrite e d r a bs ens = if (hbmWrite d (hbmKeys d a bs.length) bs ens).1
      then (none, (hbmWrite d (hbmKeys d a bs.length) bs ens).2) else (some .poison, d) := by
  simp only [pkgWrite, reaches, hbm, recallRange_of_no_copies noCopies]

@[simp] theorem length_leBytes (k n : Nat) : (leBytes k n).length = k := by
  induction k generalizing n with
  | zero => rfl
  | succ k ih => rw [leBytes, List.length_cons, ih]

/-- The request that a write of a line makes of its home. -/
def lineWriteReq (kind : Nat) (src : Source) (line : Nat) (bs : List Byte) (f : Nat → Bool) : HReq :=
  { kind := kind, src := src, agent := none, addr := 128 * line, op := some (.write bs ((List.range 128).map f)) }

section
variable {s : State} {src : Source} {line kind : Nat} {bs : List Byte} {f : Nat → Bool} {k : Nat}
  (quiet : HomesQuiet s.dev) (noCopies : s.dev.coh.dir = [])
  (reaches : reachErr s.dev.rest ⟨src, srcPart s.dev.rest src⟩ (128 * line) 128 = none)
  (hbm : targetOf s.dev.rest (128 * line) 128 = .hbm) (keys : lineKeys s.dev.rest line = span k 128) (aligned : 128 ∣ k)
  (bytes : bs.length = 128)
  (writes : 4 ≤ kind ∧ kind < 30)
include quiet noCopies reaches hbm keys aligned bytes writes

/-- A write of a line that is accepted: its enabled bytes are written, and the line is not poisoned. -/
theorem run_lineWrite (alive : ∀ x ∈ span k 128, deadKey s.dev.rest x = false)
    (good : poisoned s.dev (lineMark k) = false ∨ ∀ i, i < 128 → f i = true) :
    ∃ t, s.run (fun e d => plainRequest e d (lineWriteReq kind src line bs f) 128) = .next t ∧
      t.dev.out = s.dev.out ++ [.memData src []] ∧
      poisoned t.dev (lineMark k) = false ∧ (poisoned s.dev (lineMark k) = false → t.dev.poison = s.dev.poison) ∧
      (∀ i, i < 128 → t.byte (k + i) = if f i then bs.getD i 0 else s.byte (k + i)) ∧
      ∀ x, x ∉ span k 128 → t.byte x = s.byte x := by
  obtain ⟨d', wrote, frame, clean, marks⟩ := hbmWrite_line (d := s.dev.rest) aligned alive bs good
  have write : pkgWrite ⟨s.fuses, s.mem⟩ s.dev.rest ⟨src, srcPart s.dev.rest src⟩ (128 * line) bs ((List.range 128).map f) =
      (none, d') := by
    rw [pkgWrite_hbm (d := s.dev.rest) (by rwa [bytes]) (by rwa [bytes]) noCopies, bytes,
      show hbmKeys s.dev.rest (128 * line) 128 = span k 128 from keys, wrote]
    rfl
  have performed : performReq ⟨s.fuses, s.mem⟩ s.dev.rest (lineWriteReq kind src line bs f) = emit d' (.memData src []) := by
    rw [performReq]
    simp only [lineWriteReq, write]
  have request : plainRequest ⟨s.fuses, s.mem⟩ s.dev.rest (lineWriteReq kind src line bs f) 128 =
      emit d' (.memData src []) := by
    rw [plainRequest_hbm (q := lineWriteReq kind src line bs f) reaches hbm,
      homeRequest_performed (d := s.dev.rest) (quiet.congr rfl) noCopies writes
        (by rw [performed, frame, wrEnabled_frame]; rfl), performed]
  have sees (x : Nat) : rdByte ⟨s.fuses, s.mem⟩ (emit d' (.memData src [])) x =
      rdByte ⟨s.fuses, s.mem⟩ (wrEnabled s.dev.rest (span k 128) bs ((List.range 128).map f)) x := by
    rw [frame]
    rfl
  refine ⟨_, run_settle request, ?_, clean, marks, fun i near => ?_, fun x outside => ?_⟩
  · rw [frame, wrEnabled_frame]
    rfl
  · have inside : i < (span k 128).length := by rwa [length_span]
    have written := rdByte_wrEnabled_getD ⟨s.fuses, s.mem⟩ (nodup_span k 128) (bs := bs) (ens := (List.range 128).map f)
      (by rw [length_span, bytes]) (by simp [length_span]) s.dev.rest inside
    rw [getD_span near] at written
    rw [settle_byte_eq_rdByte, sees, written]
    simp [near, rdByte_of_quiet s (rest_wq s.dev)]
  · rw [settle_byte_eq_rdByte, sees, rdByte_wrEnabled_other _ outside, rdByte_of_quiet s rfl]

/-- A write of part of a poisoned line is refused with POISON. -/
theorem run_lineWrite_poisoned (marked : poisoned s.dev (lineMark k) = true) {i j : Nat} (nearI : i < 128) (on : f i = true)
    (nearJ : j < 128) (off : f j = false) :
    ∃ t, s.run (fun e d => plainRequest e d (lineWriteReq kind src line bs f) 128) = .next t ∧
      t.mem = s.mem ∧ t.dev.poison = s.dev.poison ∧
      t.dev.out = s.dev.out ++ [.memErr src .poison] := by
  have isOn : k + i ∈ enabledKeys (span k 128) ((List.range 128).map f) := mem_enabledKeys_span.mpr ⟨i, nearI, on, rfl⟩
  have refused := hbmWrite_refused (d := s.dev.rest) (bs := bs) isOn (by rwa [lineMark_enabled aligned isOn]) nearJ (by
    intro isIn
    obtain ⟨m, -, onM, same⟩ := mem_enabledKeys_span.mp isIn
    obtain rfl : m = j := by omega
    exact absurd (off.symm.trans onM) (by decide))
  have write : pkgWrite ⟨s.fuses, s.mem⟩ s.dev.rest ⟨src, srcPart s.dev.rest src⟩ (128 * line) bs ((List.range 128).map f) =
      (some .poison, s.dev.rest) := by
    rw [pkgWrite_hbm (d := s.dev.rest) (by rwa [bytes]) (by rwa [bytes]) noCopies, bytes,
      show hbmKeys s.dev.rest (128 * line) 128 = span k 128 from keys, refused]
    rfl
  have performed : performReq ⟨s.fuses, s.mem⟩ s.dev.rest (lineWriteReq kind src line bs f) =
      emit s.dev.rest (.memErr src .poison) := by
    rw [performReq]
    simp only [lineWriteReq, write]
  have request : plainRequest ⟨s.fuses, s.mem⟩ s.dev.rest (lineWriteReq kind src line bs f) 128 =
      emit s.dev.rest (.memErr src .poison) := by
    rw [plainRequest_hbm (q := lineWriteReq kind src line bs f) reaches hbm,
      homeRequest_performed (d := s.dev.rest) (quiet.congr rfl) noCopies writes (by rw [performed]; rfl), performed]
  exact ⟨_, run_settle request, settle_mem_of_quiet s rfl, rfl, rfl⟩

end

end Sys2Proof.Machine
end

section
/-!
SUPPORT. What the seven home atomics do, of any command that makes an atomic's request (Table 7.7).
-/
namespace Sys2Proof.Machine

theorem leNat_leBytes (k n : Nat) : leNat (leBytes k n) = n % 2 ^ (8 * k) := by
  induction k generalizing n with
  | zero => rw [Nat.mul_zero, Nat.pow_zero, Nat.mod_one]; rfl
  | succ k ih =>
    have split : 2 ^ (8 * (k + 1)) = 256 * 2 ^ (8 * k) := by rw [Nat.mul_succ, Nat.add_comm, Nat.pow_add]
    rw [leBytes, leNat, ih, BitVec.toNat_ofNat, split, Nat.mod_mul]

/-- The function of CAS: the new value where the old one is the one expected. -/
theorem atomApply_cas (w : Nat) (x v : BitVec 128) : atomApply (.cas w x v) =
    fun old => (if leNat old = x.toNat % 2 ^ (8 * w) then leBytes w v.toNat else old, old) := by
  funext old
  rw [atomApply, leNat_leBytes]

theorem length_flatMap_leBytes (vs : List Word) : (vs.flatMap (fun w => leBytes 4 w.toNat)).length = 4 * vs.length := by
  rw [List.length_flatMap, List.map_congr_left (g := fun _ => 4) fun w _ => length_leBytes 4 w.toNat, List.map_const',
    List.sum_replicate, smul_eq_mul, Nat.mul_comm]

/-- The keys of an atomic that is performed: of one or two lines of the HBM region, or of a core window's normal view. -/
def AtomicReaches (s : State) (src : Source) (a len : Nat) (ks : List Nat) : Prop :=
  reachErr s.dev.rest ⟨src, srcPart s.dev.rest src⟩ a len = none ∧
  (((s.dev.coh.dir = [] ∧ s.dev.coh.txns = [] ∧ s.dev.coh.waiting = []) ∧ targetOf s.dev.rest a len = .hbm ∧
      (a + len - 1) / 128 ≤ a / 128 + 1 ∧ ks = hbmKeys s.dev.rest a len ∧ hbmPoison s.dev.rest ks = false) ∨
    (∃ c off site mbx o, targetOf s.dev.rest a len = .core c off ∧ siteOfCore s.dev.rest c = some site ∧
      windowView off len = some (.normal, mbx, o) ∧ ks = windowKeys s.dev.rest site mbx o len ∧
      (∀ b ∈ banksOf ks, bankRefuses s.dev.rest site b = false) ∧ anyPoison s.dev.rest ks = false))

/-- The address of an atomic that its requester may reach and that nothing performs. -/
def AtomicNowhere (s : State) (src : Source) (a len : Nat) : Prop :=
  reachErr s.dev.rest ⟨src, srcPart s.dev.rest src⟩ a len ≠ some .denied ∧
  (targetOf s.dev.rest a len = .none_ ∨ (∃ p off, targetOf s.dev.rest a len = .host p off) ∨
    (∃ g off, targetOf s.dev.rest a len = .guest g off) ∨
    (∃ c off mbx o, targetOf s.dev.rest a len = .core c off ∧
      (windowView off len = some (.set, mbx, o) ∨ windowView off len = some (.clear, mbx, o))))

/-- A command performs a function on the bytes it names, or completes with NOTARGET. -/
def PerformsAtomic (s : State) (src : Source) (a : Nat) (c : Instr) (len : Nat) (f : List Byte → List Byte × List Byte) :
    Prop :=
  (∀ ks, AtomicReaches s src a len ks → ∃ t, exec c s = .next t ∧ t.dev.poison = s.dev.poison ∧
    t.dev.reports = s.dev.reports ∧
    t.mem = applyChanges s.mem ((ks.zip (f (ks.map s.byte)).1).map (fun p => MemChange.put p.1 p.2)) ∧
    t.dev.out = s.dev.out ++ [.memData src (f (ks.map s.byte)).2]) ∧
  (AtomicNowhere s src a len → ∃ t, exec c s = .next t ∧ t.mem = s.mem ∧ t.dev.poison = s.dev.poison ∧
    t.dev.out = s.dev.out ++ [.memErr src .noTarget] ∧ t.dev.reports.length = s.dev.reports.length + 1)

/-- Each command that makes an atomic's request performs the function of Table 7.7. -/
theorem performsAtomic_of_request {s : State} {src : Source} {a len : Nat} {c : Instr} {op : MemOp}
    (isAtomic : opAtomic op = true) (length : opLen op = len) (some_ : 0 < len)
    (runs : exec c s = s.run (fun e d => atomRequest e d src a op)) : PerformsAtomic s src a c len (atomApply op) := by
  subst length
  constructor
  · rintro ks ⟨reaches, ⟨⟨noCopies, noTxns, noneWaits⟩, hbm, twoLines, keys, clean⟩ | ⟨core, off, site, mbx, o, target, sited,
      viewed, keys, grants, clean⟩⟩
    · exact exec_atomic_hbm isAtomic runs ⟨noTxns, noneWaits⟩ noCopies some_ reaches hbm twoLines keys clean
    · exact exec_atomic_core isAtomic runs reaches target sited viewed keys grants clean
  · rintro ⟨admitted, nowhere⟩
    exact exec_atomic_nowhere isAtomic runs admitted nowhere

theorem performsAtomic_fadd32 (s : State) (src : Source) (addr : BitVec 52) {vs : List Word} {en : List Bool}
    (few : vs.length ≤ 32) (paired : vs.length = en.length) (some_ : vs ≠ []) :
    PerformsAtomic s src addr.toNat (.fadd32 src addr vs en) (4 * vs.length)
      (atomApply (.fadd32 (vs.flatMap (fun w => leBytes 4 w.toNat)) en)) := by
  refine performsAtomic_of_request rfl (length_flatMap_leBytes vs)
    (Nat.mul_pos (by decide) (List.length_pos_iff.mpr some_)) ?_
  change execFadd32 src addr vs en s = _
  rw [execFadd32, List.take_of_length_le few, List.take_of_length_le (paired ▸ few)]

theorem exec_wrline (s : State) (src : Source) (addr : BitVec 52) (data : BitVec 1024) : exec (.wrline src addr data) s =
    s.run (fun e d => plainRequest e d (lineWriteReq 4 src (addr.toNat / 128) (leBytes 128 data.toNat) fun _ => true) 128) := by
  change execWrline src addr data s = _
  simp only [execWrline, lineWriteReq, allEnabled, Nat.mul_comm]

theorem exec_wrpart (s : State) (src : Source) (addr : BitVec 52) (data : BitVec 1024) (en : BitVec 128) :
    exec (.wrpart src addr data en) s = s.run (fun e d =>
      plainRequest e d (lineWriteReq 5 src (addr.toNat / 128) (leBytes 128 data.toNat) (tbit en.toNat)) 128) := by
  change execWrpart src addr data en s = _
  simp only [execWrpart, lineWriteReq, Nat.mul_comm]

/-- Byte enables that are not all clear enable some byte. -/
theorem exists_enabled {en : BitVec 128} (some_ : en ≠ 0) : ∃ i, i < 128 ∧ tbit en.toNat i = true := by
  by_contra none_
  push Not at none_
  refine some_ (BitVec.eq_of_getLsbD_eq fun i near => ?_)
  exact (eq_false_of_ne_true (none_ i near)).trans BitVec.getLsbD_zero.symm

/-- Byte enables that are not all set leave some byte out. -/
theorem exists_not_enabled {en : BitVec 128} (notAll : en.toNat ≠ 2 ^ 128 - 1) : ∃ i, i < 128 ∧ tbit en.toNat i = false := by
  by_contra all
  push Not at all
  refine notAll (Nat.eq_of_testBit_eq fun i => ?_)
  rw [Nat.testBit_two_pow_sub_one]
  by_cases near : i < 128
  · rw [decide_eq_true near]
    exact eq_true_of_ne_false (all i near)
  · rw [decide_eq_false near]
    exact Nat.testBit_lt_two_pow (en.isLt.trans_le (Nat.pow_le_pow_right (by decide) (Nat.le_of_not_lt near)))

end Sys2Proof.Machine
end

section
/-!
SETTLED. Home atomics and writes at quiet homes (R222, R223, R231, R244, R248-R250).
-/
namespace Sys2Proof.Machine

/-- WRLINE and WRPART of a line of the HBM region at quiet homes without copies. -/
theorem lineWrites_performed {s : State} {src : Source} {addr : BitVec 52} (quiet : HomesQuiet s.dev)
    (noCopies : s.dev.coh.dir = []) (hbm : targetOf s.dev.rest (128 * (addr.toNat / 128)) 128 = .hbm)
    (homed : (homeOf s.dev.rest (128 * (addr.toNat / 128))).isSome = true)
    (reaches : reachErr s.dev.rest ⟨src, srcPart s.dev.rest src⟩ (128 * (addr.toNat / 128)) 128 = none) {ks : List Nat}
    (keys : lineKeys s.dev.rest (addr.toNat / 128) = ks) (alive : ∀ k ∈ ks, deadKey s.dev.rest k = false)
    (data : BitVec 1024) :
    (∃ t, exec (.wrline src addr data) s = .next t ∧ t.dev.out = s.dev.out ++ [.memData src []] ∧
      poisoned t.dev (lineMark (ks.headD 0)) = false ∧
      (∀ i, i < 128 → t.byte (ks.getD i 0) = (leBytes 128 data.toNat).getD i 0) ∧ ∀ k, k ∉ ks → t.byte k = s.byte k) ∧
    (∀ en : BitVec 128, poisoned s.dev (lineMark (ks.headD 0)) = false →
      ∃ t, exec (.wrpart src addr data en) s = .next t ∧ t.dev.out = s.dev.out ++ [.memData src []] ∧
      t.dev.poison = s.dev.poison ∧
      (∀ i, i < 128 → t.byte (ks.getD i 0) =
        if tbit en.toNat i then (leBytes 128 data.toNat).getD i 0 else s.byte (ks.getD i 0)) ∧
      ∀ k, k ∉ ks → t.byte k = s.byte k) ∧
    (∀ en : BitVec 128, poisoned s.dev (lineMark (ks.headD 0)) = true → en ≠ 0 → en.toNat ≠ 2 ^ 128 - 1 →
      ∃ t, exec (.wrpart src addr data en) s = .next t ∧ t.mem = s.mem ∧ t.dev.poison = s.dev.poison ∧
      t.dev.out = s.dev.out ++ [.memErr src .poison]) := by
  obtain ⟨k, aligned, spans⟩ := lineKeys_eq_span homed
  obtain rfl : ks = span k 128 := keys.symm.trans spans
  have first : (span k 128).headD 0 = k := rfl
  rw [first]
  refine ⟨?_, fun en clean => ?_, fun en marked some_ notAll => ?_⟩
  · obtain ⟨t, next, out, good, -, inside, outside⟩ := run_lineWrite (f := fun _ => true) (kind := 4) quiet noCopies reaches hbm
      keys aligned (length_leBytes 128 data.toNat) (by decide) alive (.inr fun _ _ => rfl)
    refine ⟨t, (exec_wrline ..).trans next, out, good, fun i near => ?_, outside⟩
    rw [getD_span near]
    exact inside i near
  · obtain ⟨t, next, out, -, marks, inside, outside⟩ := run_lineWrite (f := tbit en.toNat) (kind := 5) quiet noCopies reaches hbm
      keys aligned (length_leBytes 128 data.toNat) (by decide) alive (.inl clean)
    refine ⟨t, (exec_wrpart ..).trans next, out, marks clean, fun i near => ?_, outside⟩
    rw [getD_span near]
    exact inside i near
  · obtain ⟨i, nearI, on⟩ := exists_enabled some_
    obtain ⟨j, nearJ, off⟩ := exists_not_enabled notAll
    obtain ⟨t, next, rest⟩ := run_lineWrite_poisoned (f := tbit en.toNat) (kind := 5) quiet noCopies reaches hbm keys aligned
      (length_leBytes 128 data.toNat) (by decide) marked nearI on nearJ off
    exact ⟨t, (exec_wrpart ..).trans next, rest⟩

/-- Settles O32: an atomic or a write that meets no copy is performed as its request stands, on the bytes that its address
names. -/
theorem homeAtomicsAndWrites : Obligations.HomeAtomicsAndWrites := by
  unfold Obligations.HomeAtomicsAndWrites
  intro s src addr d a quiet reach nowhere performs
  have width (wide : Bool) : 0 < if wide then 8 else 4 := by cases wide <;> decide
  refine ⟨fun top flags => performsAtomic_of_request (op := .recReport top flags) rfl rfl (by decide) rfl,
    performsAtomic_of_request (op := .recAdvance) rfl rfl (by decide) rfl,
    fun vs en few paired some_ => performsAtomic_fadd32 s src addr few paired some_,
    fun v => performsAtomic_of_request (op := .xadd (leBytes 24 v.toNat)) rfl rfl (by decide) rfl,
    fun wide v => ⟨performsAtomic_of_request (op := .fetchAdd (if wide then 8 else 4) v) rfl rfl (width wide) rfl,
      performsAtomic_of_request (op := .swap (if wide then 8 else 4) v) rfl rfl (width wide) rfl⟩,
    fun w x v => ?_, ?_⟩
  · have done := performsAtomic_of_request (s := s) (src := src) (a := a) (c := .atomCas src addr w x v)
      (op := .cas (4 * 2 ^ w.val) x v) rfl rfl (Nat.mul_pos (by decide) (Nat.two_pow_pos _)) rfl
    rwa [atomApply_cas] at done
  · rintro ⟨noCopies, noTxns, noneWaits⟩ la ks hbm homed reaches alive data bs
    have place : la = 128 * (addr.toNat / 128) := Nat.mul_comm ..
    rw [place] at hbm homed reaches
    exact lineWrites_performed ⟨noTxns, noneWaits⟩ noCopies hbm homed reaches
      (congrArg (fun a => hbmKeys d a 128) place.symm) alive data

end Sys2Proof.Machine
end

section
/-!
SUPPORT. What decodes the HBM region reads the registers alone (R225-R228).
-/
namespace Sys2Proof.Machine

section
variable {d d' : Dev} (same : d'.regs = d.regs)
include same

theorem rdReg_congr (r : RegDesc) (ix : List Nat) : rdReg d' r ix = rdReg d r ix := by rw [rdReg, rdReg, same]

theorem stacksIn_congr : stacksIn d' = stacksIn d := by rw [stacksIn, stacksIn, fget_congr same]

theorem stacksOn_congr (m : Nat) : stacksOn d' m = stacksOn d m := by rw [stacksOn, stacksOn, stacksIn_congr same]

theorem regionalPart_congr (len k m r : Nat) : regionalPart d' len k m r = regionalPart d len k m r := by
  induction k generalizing m r with
  | zero => rfl
  | succ k ih =>
    rw [regionalPart, regionalPart, stacksOn_congr same]
    split
    · exact ih ..
    · rfl

theorem rangeOf_congr (a : Nat) : rangeOf d' a = rangeOf d a := by
  have locked : rangesLocked d' = rangesLocked d := by rw [rangesLocked, rangesLocked, fbit, fbit, fget_congr same]
  have on (i : Nat) : rangeOn d' i = rangeOn d i := by rw [rangeOn, rangeOn, fbit, fbit, fget_congr same]
  have size (i : Nat) : rangeGib d' i = rangeGib d i := by rw [rangeGib, rangeGib, fget_congr same, stacksIn_congr same]
  rw [rangeOf, rangeOf, locked]
  simp only [on, size, fget_congr same]

theorem decodeIn_congr (i a : Nat) : decodeIn d' i a = decodeIn d i a := by
  unfold decodeIn
  rw [rdReg_congr same, stacksIn_congr same]
  simp only [regionalPart_congr same, stacksOn_congr same]

theorem decodeHbm_congr (a : Nat) : decodeHbm d' a = decodeHbm d a := by
  simp only [decodeHbm, rangeOf_congr same, decodeIn_congr same]

theorem homeOf_congr (a : Nat) : homeOf d' a = homeOf d a := by rw [homeOf, homeOf, decodeHbm_congr same]

theorem lineHome_congr (line : Nat) : lineHome d' line = lineHome d line := by
  rw [lineHome, lineHome, homeOf_congr same]

theorem lineKeys_congr (line : Nat) : lineKeys d' line = lineKeys d line := by
  simp only [lineKeys, hbmKeys, hbmKey, decodeHbm_congr same]

theorem dirFull_congr (dir : d'.coh.dir = d.coh.dir) (line : Nat) : dirFull d' line = dirFull d line := by
  have entries : dirSetOf d' line = dirSetOf d line := by simp only [dirSetOf, lineHome_congr same, dir]
  rw [dirFull, dirFull, entries, dir]

theorem homePoison_congr (poison : d'.poison = d.poison) (dead : d'.coh.deadStacks = d.coh.deadStacks) (line : Nat) :
    homePoison d' line = homePoison d line := by
  simp only [homePoison, hbmPoison, poisoned, deadKey, lineKeys_congr same, poison, dead]

end

end Sys2Proof.Machine
end

section
/-!
SUPPORT. What the operations on agents' lines, transactions and the directory make of the device (R240-R243): one rule each.
-/
namespace Sys2Proof.Machine

/-- An agent that is moved to a state is in it. -/
@[simp] theorem aLine_setASt_st (d : Dev) (a line : Nat) (st : AState) : (aLine (setASt d a line st) a line).st = st := by
  rw [setASt, aLine, setALine, Sparse.get_set_same]
  split_ifs with isI
  · exact isI.symm
  · rfl
  · rfl

/-- What an agent holds is read from the agents' table alone. -/
theorem aLine_st_of_agents {d d' : Dev} {a line : Nat} {st : AState} (same : d'.coh.agents = (setASt d a line st).coh.agents) :
    (aLine d' a line).st = st := by
  rw [aLine, same]
  exact aLine_setASt_st d a line st

theorem reqLines_line (kind : Nat) (src : Source) (agent : Option Nat) (line : Nat) :
    reqLines { kind := kind, src := src, agent := agent, addr := 128 * line } = [line] := by
  rw [reqLines, Nat.mul_div_cancel_left line (by decide)]

theorem linesOf_line (line : Nat) : linesOf (128 * line) 128 = [line] := by
  have one : (128 * line + max 128 1 - 1) / 128 - 128 * line / 128 + 1 = 1 := by omega
  rw [linesOf, one, Nat.mul_div_cancel_left line (by decide)]
  rfl

/-- The device with other transactions at the homes. -/
def Dev.withTxns (d : Dev) (xs : List Txn) : Dev := { d with coh := { d.coh with txns := xs } }

@[simp] theorem withTxns_txns (d : Dev) (xs : List Txn) : (d.withTxns xs).coh.txns = xs := rfl
@[simp] theorem withTxns_dir (d : Dev) (xs : List Txn) : (d.withTxns xs).coh.dir = d.coh.dir := rfl
@[simp] theorem withTxns_waiting (d : Dev) (xs : List Txn) : (d.withTxns xs).coh.waiting = d.coh.waiting := rfl
@[simp] theorem withTxns_regs (d : Dev) (xs : List Txn) : (d.withTxns xs).regs = d.regs := rfl
@[simp] theorem withTxns_wq (d : Dev) (xs : List Txn) : (d.withTxns xs).wq = d.wq := rfl

theorem setTxn_single {d : Dev} {x y : Txn} (only : d.coh.txns = [x]) (same : x.lines = y.lines) :
    setTxn d y = d.withTxns [y] := by
  rw [setTxn, only, List.map_singleton, if_pos same]
  rfl

theorem endTxn_single {d : Dev} {x y : Txn} (only : d.coh.txns = [x]) (same : x.lines = y.lines) :
    endTxn d y = d.withTxns [] := by
  rw [endTxn, only, List.filter_singleton, same, decide_eq_false (not_not_intro rfl)]
  rfl

theorem txnOf_single {d : Dev} {x : Txn} {line : Nat} (only : d.coh.txns = [x]) (holds : x.lines = [line]) :
    txnOf d line = some x := by
  rw [txnOf, only, List.find?_singleton, holds]
  simp

theorem txnReady_of_reading {d : Dev} {x : Txn} (reads : x.rd = true) : txnReady d x = false := by simp [txnReady, reads]

theorem txnReady_of_snooping {d : Dev} {x : Txn} (snoops : x.snoops ≠ []) : txnReady d x = false := by
  simp [txnReady, snoops]

theorem txnReady_of_granted {d : Dev} {x : Txn} {g : Nat} (granted : x.grant = some g) : txnReady d x = false := by
  simp [txnReady, granted]

/-- A home whose only transaction waits stays as it is. -/
theorem settle_of_single {d : Dev} {x : Txn} (e : Env) (only : d.coh.txns = [x]) (waits : txnReady d x = false)
    (empty : d.coh.waiting = []) : settle e d = d :=
  settle_of_idle e (by rw [only]; exact List.forall_mem_singleton.mpr waits) empty

end Sys2Proof.Machine
end

section
/-!
SUPPORT. The transactions that requests begin (Table 7.7a, R243, R244).
-/
namespace Sys2Proof.Machine

theorem sendSnoops_frame (d : Dev) (ss : List Snoop) : sendSnoops d ss = { d with out := (sendSnoops d ss).out } := by
  refine List.foldlRecOn (motive := fun x : Dev => x = { d with out := x.out }) _ _ rfl fun x same n _ => ?_
  split
  · rw [same]
    rfl
  · exact same

/-- The snoops that a line's directory entry gives: to the owner of one kind, to the sharers of another, and none to the
requester; 0 for sharers that are not snooped. -/
def snoopsFor (d : Dev) (line owner sharers : Nat) (req : Option Nat) : List Snoop :=
  match Sparse.find d.coh.dir line with
  | none => []
  | some en =>
    if en.x then (if req = some en.who then [] else [{ agent := en.who, line := line, kind := owner }])
    else if sharers = 0 then []
    else ((vecAgents en.who).filter (fun a => some a != req)).map (fun a => { agent := a, line := line, kind := sharers })

/-- RdS snoops the owner alone, RdX and Upg every other holder (Table 7.7a). -/
theorem snoopsAt_agent (d : Dev) (q : HReq) (line : Nat) (asks : q.kind < 3) :
    snoopsAt d q line = snoopsFor d line (if q.kind = 0 then 8 else 9) (if q.kind = 0 then 0 else 9) q.agent := by
  unfold snoopsAt snoopsFor
  cases Sparse.find d.coh.dir line with
  | none => rfl
  | some en =>
    have notCur : q.kind ≠ 3 := by omega
    have same (a : Nat) : (!(q.agent == some a)) = (some a != q.agent) := by rw [bne, Bool.beq_comm]
    by_cases shared : q.kind = 0 <;> simp [asks, notCur, shared, same]

/-- RdCur snoops the owner. -/
theorem snoopsAt_cur (d : Dev) (q : HReq) (line : Nat) (cur : q.kind = 3) : snoopsAt d q line = snoopsFor d line 7 0 none := by
  unfold snoopsAt snoopsFor
  cases Sparse.find d.coh.dir line with
  | none => rfl
  | some en => simp [cur]

/-- The transaction that a request of one line begins, and waits in H_RD or H_SNP. -/
theorem homeRequest_begins {d : Dev} (quiet : HomesQuiet d) {q : HReq} {line : Nat} (one : reqLines q = [line])
    (asks : q.kind < 4) {rd : Bool} (reads : rd = !(q.kind == 2 && isSharer d q)) {ss : List Snoop}
    (snoops : snoopsAt d q line = ss) (waits : rd = true ∨ ss ≠ []) (e : Env) :
    ∃ x, homeRequest e d q = sendSnoops (d.withTxns [x]) ss ∧
      x.req = q ∧ x.lines = [line] ∧ x.rd = rd ∧ x.snoops = ss ∧ x.grant = none := by
  have all : (reqLines q).flatMap (snoopsAt d q) = ss := by rw [one, List.flatMap_singleton, snoops]
  have begins : ∃ x, startReq e d q = sendSnoops (d.withTxns [x]) ss ∧
      x.req = q ∧ x.lines = [line] ∧ x.rd = rd ∧ x.snoops = ss ∧ x.grant = none := by
    unfold startReq
    rw [if_neg (by omega), quiet.txns, all]
    exact ⟨_, rfl, rfl, one, by rw [reads, decide_eq_true asks, Bool.true_and], rfl, rfl⟩
  obtain ⟨x, starts, req, lines, xrd, xsnoops, grant⟩ := begins
  refine ⟨x, ?_, req, lines, xrd, xsnoops, grant⟩
  have blocked : ∀ d, txnReady d x = false := by
    intro d
    rcases waits with reading | snooping
    · exact txnReady_of_reading (xrd.trans reading)
    · exact txnReady_of_snooping (xsnoops ▸ snooping)
  have coh : (startReq e d q).coh = (d.withTxns [x]).coh := by rw [starts, sendSnoops_frame]
  rw [homeRequest_of_quiet quiet, settleHomes_of_idle e (by rw [coh]; exact List.forall_mem_singleton.mpr (blocked _))
    (by rw [coh]; exact quiet.waiting), starts]

/-- A command begins a transaction for a line, and changes neither memory, registers nor the directory. -/
def Begins (s : State) (line : Nat) (c : Instr) (q : HReq) (rd : Bool) (ss : List Snoop) (t : State) : Prop :=
  exec c s = .next t ∧ t.mem = s.mem ∧ t.dev.regs = s.dev.regs ∧ t.dev.coh.dir = s.dev.coh.dir ∧
    t.dev.coh.waiting = [] ∧ ∃ x, t.dev.coh.txns = [x] ∧ x.req = q ∧ x.lines = [line] ∧ x.rd = rd ∧ x.snoops = ss ∧
    x.grant = none

theorem begins_of_homeRequest {s : State} {c : Instr} {f : Env → Dev → Dev} (runs : exec c s = s.run f) {d : Dev}
    {q : HReq} (request : f ⟨s.fuses, s.mem⟩ s.dev.rest = homeRequest ⟨s.fuses, s.mem⟩ d q) (quiet : HomesQuiet d)
    (silent : d.wq = []) (regs : d.regs = s.dev.regs) (dir : d.coh.dir = s.dev.coh.dir) {line : Nat}
    (one : reqLines q = [line]) (asks : q.kind < 4) {rd : Bool} (reads : rd = !(q.kind == 2 && isSharer d q))
    {ss : List Snoop} (snoops : snoopsAt d q line = ss) (waits : rd = true ∨ ss ≠ []) :
    ∃ t, Begins s line c q rd ss t ∧ t.dev.coh.agents = d.coh.agents := by
  obtain ⟨x, made, facts⟩ := homeRequest_begins quiet one asks reads snoops waits ⟨s.fuses, s.mem⟩
  refine ⟨_, ⟨runs.trans (run_settle (request.trans made)), ?_, ?_, ?_, ?_, x, ?_, facts⟩, ?_⟩ <;>
    rw [sendSnoops_frame]
  · exact settle_mem_of_quiet s silent
  · exact regs
  · exact dir
  · exact quiet.waiting
  · rfl
  · rfl

theorem exec_rdcur (s : State) (src : Source) (addr : BitVec 52) : exec (.rdcur src addr) s = s.run (fun e d =>
    plainRequest e d { kind := 3, src := src, agent := none, addr := 128 * (addr.toNat / 128), op := some (.read 128) } 128) := by
  change execRdcur src addr s = _
  simp only [execRdcur, Nat.mul_comm]

section
variable {s : State} {src : Source} {addr : BitVec 52} (quiet : HomesQuiet s.dev)
  (hbm : targetOf s.dev.rest (128 * (addr.toNat / 128)) 128 = .hbm)
  (reaches : reachErr s.dev.rest ⟨src, srcPart s.dev.rest src⟩ (128 * (addr.toNat / 128)) 128 = none)
include quiet hbm reaches

/-- RDCUR begins a transaction that reads the line and snoops its owner. -/
theorem exec_rdcur_begins : ∃ t, Begins s (addr.toNat / 128) (.rdcur src addr)
    { kind := 3, src := src, agent := none, addr := 128 * (addr.toNat / 128), op := some (.read 128) } true
    (snoopsFor s.dev (addr.toNat / 128) 7 0 none) t := by
  obtain ⟨t, begins, -⟩ := begins_of_homeRequest (exec_rdcur s src addr) (plainRequest_hbm (d := s.dev.rest) reaches hbm _)
    (quiet.congr rfl) rfl rfl rfl (linesOf_line _) (show 3 < 4 by decide) rfl (snoopsAt_cur _ _ _ rfl) (.inl rfl)
  exact ⟨t, begins⟩

/-- The request of an agent for a line moves the agent to its transient state, and begins a transaction at the home. -/
theorem exec_agentRequest_begins {a kind : Nat} {st : AState} (isAgent : agentOf s.dev.rest src = some a)
    (moves : kind = 0 ∧ (aLine s.dev.rest a (addr.toNat / 128)).st = .i ∧ st = .isD ∨
      kind = 1 ∧ (aLine s.dev.rest a (addr.toNat / 128)).st = .i ∧ st = .imD ∨
      kind = 2 ∧ (aLine s.dev.rest a (addr.toNat / 128)).st = .s ∧ st = .smD) {c : Instr}
    (runs : exec c s = s.run (fun e d => agentRequest e d src addr.toNat kind)) {q : HReq}
    (asks : q = { kind := kind, src := src, agent := some a, addr := 128 * (addr.toNat / 128) }) {rd : Bool}
    (reads : rd = !(kind == 2 && isSharer s.dev.rest q)) {ss : List Snoop}
    (snoops : snoopsFor s.dev (addr.toNat / 128) (if kind = 0 then 8 else 9) (if kind = 0 then 0 else 9) (some a) = ss)
    (waits : rd = true ∨ ss ≠ []) :
    ∃ t, Begins s (addr.toNat / 128) c q rd ss t ∧ (aLine t.dev a (addr.toNat / 128)).st = st := by
  subst asks
  have few : kind < 3 := by omega
  have request (e : Env) : agentRequest e s.dev.rest src addr.toNat kind =
      homeRequest e (setASt s.dev.rest a (addr.toNat / 128) st)
        { kind := kind, src := src, agent := some a, addr := 128 * (addr.toNat / 128) } := by
    rcases moves with ⟨rfl, was, rfl⟩ | ⟨rfl, was, rfl⟩ | ⟨rfl, was, rfl⟩ <;>
      simp only [agentRequest, isAgent, was, reaches, hbm]
  obtain ⟨t, begins, agents⟩ := begins_of_homeRequest runs (request _) ⟨quiet.txns, quiet.waiting⟩ rfl rfl rfl
    (reqLines_line ..) (by simp; omega) reads ((snoopsAt_agent _ _ _ few).trans snoops) waits
  exact ⟨t, begins, aLine_st_of_agents agents⟩

end

/-- A base cache never asks for ownership: what its cores stand behind is below 6. -/
theorem agentOf_core_lt {d : Dev} {core : Fin 36} {a : Nat} (isAgent : agentOf d (.core core) = some a) : a < 6 := by
  have : core.val / 6 = a := Option.some.inj isAgent
  omega

theorem exec_rdx {s : State} {src : Source} {a : Nat} (isAgent : agentOf s.dev.rest src = some a) (owns : 6 ≤ a)
    (addr : BitVec 52) : exec (.rdx src addr) s = s.run (fun e d => agentRequest e d src addr.toNat 1) := by
  cases src with
  | core c => exact absurd owns (Nat.not_le_of_lt (agentOf_core_lt isAgent))
  | _ => rfl

theorem exec_upg {s : State} {src : Source} {a : Nat} (isAgent : agentOf s.dev.rest src = some a) (owns : 6 ≤ a)
    (addr : BitVec 52) : exec (.upg src addr) s = s.run (fun e d => agentRequest e d src addr.toNat 2) := by
  cases src with
  | core c => exact absurd owns (Nat.not_le_of_lt (agentOf_core_lt isAgent))
  | _ => rfl

end Sys2Proof.Machine
end

section
/-!
SUPPORT. Snoops that agents answer by their state (R241, R242, Table 7.5).
-/
namespace Sys2Proof.Machine

/-- An agent that is still in its state has not changed silently. -/
theorem silently_same (a : Nat) (l : ALine) : silently a l l.st = l.st := by
  simp only [silently]
  generalize l.st = st
  by_cases host : 6 ≤ a ∧ a < 10
  · rw [if_pos host]
    split_ifs with modified
    · exact modified.2.1.symm
    · rfl
  · rw [if_neg host]
    cases st <;> rfl

/-- An agent other than a host answers a snoop by its state, and moves as Table 7.5 says. -/
theorem takeSnoop_current {d : Dev} {a line kind : Nat} (noHost : a < 6 ∨ 10 ≤ a) {x : Txn}
    (found : d.coh.txns.find? (fun x => x.snoops.any fun n =>
      n.agent == a && n.line == line && n.kind == kind && n.ans.isNone) = some x) (data : List Byte) :
    takeSnoop d a line kind (aLine d a line).st data false =
      setTxn (setASt d a line (snoopAnswer kind (aLine d a line).st data false).2)
        { x with snoops := x.snoops.map fun n => if n.agent == a && n.line == line && n.kind == kind && n.ans.isNone
          then { n with ans := some (snoopAnswer kind (aLine d a line).st data false).1 } else n } := by
  have host : (decide (6 ≤ a) && decide (a < 10)) = false := by simp; omega
  have sent (bs : List Byte) : snoopAnswer kind (aLine d a line).st (if (aLine d a line).st = .miA then bs else data) false =
      snoopAnswer kind (aLine d a line).st data false := by
    split_ifs with evicts
    · rw [evicts]
      rfl
    · rfl
  unfold takeSnoop
  simp only [found, silently_same, host, Bool.false_and, Bool.false_eq_true, if_false, and_not_self, Bool.and_false]
  cases wbOf d a line with
  | none => rfl
  | some bs => simp only [sent]

theorem exec_snoop {kind : Nat} (few : 7 ≤ kind ∧ kind ≤ 9) (agent : Fin 12) (addr : BitVec 52) (st : AState)
    (data : BitVec 1024) (s : State) :
    exec (if kind = 7 then .snpcur agent addr st data false else if kind = 8 then .snps agent addr st data false
      else .snpi agent addr st data false) s =
      s.run (fun _ d => takeSnoop d agent.val (addr.toNat / 128) kind st (leBytes 128 data.toNat) false) := by
  obtain rfl | rfl | rfl : kind = 7 ∨ kind = 8 ∨ kind = 9 := by omega
  all_goals rfl

end Sys2Proof.Machine
end

section
/-!
SUPPORT. Home copies that writes of whole lines replace, and the directory when answers come (R240, R244).
-/
namespace Sys2Proof.Machine

/-- Of bytes written at different keys each reads as written. -/
theorem rdByte_wrBytes_getD (e : Env) {ks : List Nat} (nodup : ks.Nodup) {bs : List Byte} (bytes : bs.length = ks.length)
    (d : Dev) {i : Nat} (inside : i < ks.length) : rdByte e (wrBytes d ks bs) (ks.getD i 0) = bs.getD i 0 := by
  induction ks generalizing bs d i with
  | nil => exact absurd inside (Nat.not_lt_zero i)
  | cons k ks ih =>
    obtain ⟨fresh, rest⟩ := List.nodup_cons.mp nodup
    cases bs with
    | nil => exact nomatch bytes
    | cons b bs =>
      cases i with
      | zero =>
        rw [wrBytes, List.getD_cons_zero, rdByte_wrBytes_other e ks bs _ k fresh]
        exact rdByte_wrByte_same e d k b
      | succ i =>
        rw [wrBytes, List.getD_cons_succ, List.getD_cons_succ]
        exact ih rest (Nat.succ.inj bytes) _ (Nat.lt_of_succ_lt_succ inside)

theorem writeHome_frame (d : Dev) (line : Nat) (bs : List Byte) :
    writeHome d line bs = { d with wq := (writeHome d line bs).wq, poison := (writeHome d line bs).poison } := by
  rw [writeHome, wrBytes_eq]
  rfl

/-- A home copy that is written reads as its new bytes. -/
theorem rdByte_writeHome {d : Dev} {line : Nat} (homed : (homeOf d (128 * line)).isSome = true) {bs : List Byte}
    (bytes : bs.length = 128) (e : Env) {i : Nat} (near : i < 128) :
    rdByte e (writeHome d line bs) ((lineKeys d line).getD i 0) = bs.getD i 0 := by
  obtain ⟨k, -, spans⟩ := lineKeys_eq_span homed
  change rdByte e (wrBytes d (lineKeys d line) bs) _ = _
  rw [spans]
  exact rdByte_wrBytes_getD e (nodup_span k 128) (by rw [bytes, length_span]) d (by rwa [length_span])

theorem rdByte_writeHome_other (e : Env) (d : Dev) (line : Nat) (bs : List Byte) {k : Nat} (other : k ∉ lineKeys d line) :
    rdByte e (writeHome d line bs) k = rdByte e d k := rdByte_wrBytes_other e _ _ d k other

/-- An agent is the recorded owner of a line. -/
def ownsLine (d : Dev) (line a : Nat) : Bool :=
  match Sparse.find d.coh.dir line with | some en => en.x && en.who == a | none => false

theorem ownsLine_iff {d : Dev} {line a : Nat} :
    ownsLine d line a = true ↔ ∃ en, Sparse.find d.coh.dir line = some en ∧ en.x = true ∧ en.who = a := by
  unfold ownsLine
  cases Sparse.find d.coh.dir line <;> simp

theorem find_setDir_none (d : Dev) (line : Nat) : Sparse.find (setDir d line none).coh.dir line = none :=
  Sparse.find_del_same ..

theorem find_setDir_some (d : Dev) (line : Nat) (en : DirEnt) :
    Sparse.find (setDir d line (some en)).coh.dir line = some en := Sparse.find_put_same ..

theorem dirDrop_frame (d : Dev) (line a : Nat) :
    dirDrop d line a = { d with coh := { d.coh with dir := (dirDrop d line a).coh.dir } } := by
  unfold dirDrop
  split
  · rfl
  · split_ifs <;> rfl

theorem dirAnswered_frame (d : Dev) (line a kind : Nat) (holds : Bool) :
    dirAnswered d line a kind holds = { d with coh := { d.coh with dir := (dirAnswered d line a kind holds).coh.dir } } := by
  unfold dirAnswered
  split
  · rfl
  split
  · exact dirDrop_frame ..
  split
  · split
    · cases holds <;> rfl
    · rfl
  · rfl

@[simp] theorem dirAnswered_regs (d : Dev) (line a kind : Nat) (holds : Bool) :
    (dirAnswered d line a kind holds).regs = d.regs := by rw [dirAnswered_frame]
@[simp] theorem dirAnswered_wq (d : Dev) (line a kind : Nat) (holds : Bool) :
    (dirAnswered d line a kind holds).wq = d.wq := by rw [dirAnswered_frame]
@[simp] theorem dirAnswered_waiting (d : Dev) (line a kind : Nat) (holds : Bool) :
    (dirAnswered d line a kind holds).coh.waiting = d.coh.waiting := by rw [dirAnswered_frame]
@[simp] theorem dirAnswered_txns (d : Dev) (line a kind : Nat) (holds : Bool) :
    (dirAnswered d line a kind holds).coh.txns = d.coh.txns := by rw [dirAnswered_frame]
@[simp] theorem writeHome_regs (d : Dev) (line : Nat) (bs : List Byte) : (writeHome d line bs).regs = d.regs := by
  rw [writeHome_frame]
@[simp] theorem writeHome_coh (d : Dev) (line : Nat) (bs : List Byte) : (writeHome d line bs).coh = d.coh := by
  rw [writeHome_frame]

/-- Taking an agent's bit out of a vector. -/
theorem testBit_without {a : Nat} (small : a < 12) (who : Nat) : tbit (who &&& ((2 ^ 12 - 1) ^^^ 2 ^ a)) a = false := by
  rw [tbit, Nat.testBit_and, Nat.testBit_xor, Nat.testBit_two_pow_sub_one, Nat.testBit_two_pow_self, decide_eq_true small]
  simp

/-- An agent taken out of a line's entry holds no copy by it. -/
theorem find_dirDrop {d : Dev} {line a : Nat} (small : a < 12) {en : DirEnt}
    (found : Sparse.find (dirDrop d line a).coh.dir line = some en) : if en.x then en.who ≠ a else tbit en.who a = false := by
  unfold dirDrop at found
  cases old : Sparse.find d.coh.dir line with
  | none =>
    rw [old] at found
    exact nomatch old.symm.trans found
  | some was =>
    simp only [old] at found
    split_ifs at found with owned mine empty
    · exact nomatch (find_setDir_none d line).symm.trans found
    · obtain rfl : was = en := Option.some.inj (old.symm.trans found)
      rwa [if_pos owned]
    · exact nomatch (find_setDir_none d line).symm.trans found
    · obtain rfl := Option.some.inj ((find_setDir_some d line _).symm.trans found)
      rw [if_neg owned]
      exact testBit_without small was.who

/-- An owner that answers leaves the directory by SnpI, and stays a sharer by SnpS (Table 7.7a). -/
theorem find_dirAnswered_owner {d : Dev} {line a kind : Nat} (snooped : kind = 8 ∨ kind = 9)
    (owns : ownsLine d line a = true) : Sparse.find (dirAnswered d line a kind true).coh.dir line =
      if kind = 9 then none else (Sparse.find d.coh.dir line).map (fun en => { en with x := false, who := 2 ^ a }) := by
  obtain ⟨en, found, owned, mine⟩ := ownsLine_iff.mp owns
  rcases snooped with rfl | rfl
  · simp [dirAnswered, found, owned, mine, find_setDir_some]
  · simp [dirAnswered, dirDrop, found, owned, mine, find_setDir_none]

end Sys2Proof.Machine
end

section
/-!
SUPPORT. Answers that a home takes (R244, R245).
-/
namespace Sys2Proof.Machine

/-- What a transaction is when the answer to its only snoop is taken. -/
def Txn.answeredBy (x : Txn) (kind : Nat) (ans : SnpAns) : Txn :=
  { x with snoops := [], cur := match ans with | .dirty bs => if kind = 7 then some bs else x.cur | _ => x.cur }

theorem filter_ne_self (n : Snoop) : [n].filter (fun u => decide (u ≠ n)) = [] := by simp

/-- The answer to the only snoop of the only transaction is found. -/
theorem answered_single {d : Dev} {x : Txn} {n : Snoop} {ans : SnpAns} {evicting : Bool} (only : d.coh.txns = [x])
    (one : x.snoops = [n]) (given : n.ans = some ans) (kind : (ans == .evicting) = evicting) :
    answered d n.agent n.line evicting = some (x, n, ans) := by
  simp [answered, only, one, given, kind]

section
variable {d : Dev} {x : Txn} {n : Snoop} (only : d.coh.txns = [x]) (one : x.snoops = [n])
include only one

/-- An answer without data goes to the directory alone. -/
theorem takeAnswer_clean {ans : SnpAns} (clean : ans = .rspI ∨ ans = .rspS) :
    takeAnswer d x n ans = dirAnswered (d.withTxns [x.answeredBy n.kind ans]) n.line n.agent n.kind
      (ans == .rspS) := by
  have kept : setTxn d { x with snoops := [] } = d.withTxns [{ x with snoops := [] }] :=
    setTxn_single only rfl
  rcases clean with rfl | rfl <;> simp only [takeAnswer, one, filter_ne_self, kept] <;> rfl

/-- Data that answers SnpCur is kept for the requester alone. -/
theorem takeAnswer_cur {bs : List Byte} (cur : n.kind = 7) :
    takeAnswer d x n (.dirty bs) = d.withTxns [x.answeredBy n.kind (.dirty bs)] := by
  have kept : setTxn d { x with snoops := [], cur := some bs } =
      d.withTxns [{ x with snoops := [], cur := some bs }] := setTxn_single only rfl
  simp only [takeAnswer, one, filter_ne_self, cur, if_true, kept, Txn.answeredBy]

/-- Other data replaces the home copy where its agent is the recorded owner. -/
theorem takeAnswer_dirty {bs : List Byte} (notCur : n.kind ≠ 7) :
    takeAnswer d x n (.dirty bs) = dirAnswered ((if ownsLine d n.line n.agent then writeHome d n.line bs else d).withTxns
      [x.answeredBy n.kind (.dirty bs)]) n.line n.agent n.kind true := by
  have kept (d' : Dev) (same : d'.coh = d.coh) : setTxn d' { x with snoops := [] } = d'.withTxns [{ x with snoops := [] }] :=
    setTxn_single (x := x) (by rw [same, only]) rfl
  have settled : x.answeredBy n.kind (.dirty bs) = { x with snoops := [] } := by
    simp only [Txn.answeredBy, if_neg notCur]
  rw [settled, ← kept _ (by split_ifs; exacts [by rw [writeHome_frame], rfl])]
  simp only [takeAnswer, one, filter_ne_self, if_neg notCur]
  rfl

end

end Sys2Proof.Machine
end

section
/-!
SUPPORT. SNOOP_ANSWER and SNOOP_EVICTING of the only snoop of a transaction that still reads (R244, R245).
-/
namespace Sys2Proof.Machine

section
variable {s : State} {agent : Fin 12} {addr : BitVec 52} {x : Txn} {n : Snoop} (only : s.dev.coh.txns = [x])
  (empty : s.dev.coh.waiting = []) (one : x.snoops = [n]) (reads : x.rd = true) (whose : n.agent = agent.val)
  (place : n.line = addr.toNat / 128)

section
variable {d : Dev} {ans : SnpAns}

/-- Taking an answer leaves registers and requests, and the transaction with the answer taken. -/
theorem takeAnswer_leaves (only : d.coh.txns = [x]) (one : x.snoops = [n]) (final : ans ≠ .evicting) :
    (takeAnswer d x n ans).regs = d.regs ∧ (takeAnswer d x n ans).coh.waiting = d.coh.waiting ∧
      (takeAnswer d x n ans).coh.txns = [x.answeredBy n.kind ans] := by
  cases ans with
  | rspI => simp [takeAnswer_clean only one (.inl rfl)]
  | rspS => simp [takeAnswer_clean only one (.inr rfl)]
  | dirty bs =>
    by_cases cur : n.kind = 7
    · simp [takeAnswer_cur only one cur]
    · by_cases owns : ownsLine d n.line n.agent = true <;> simp [takeAnswer_dirty only one cur, owns]
  | evicting => exact absurd rfl final

/-- An answer without data, or to SnpCur, leaves memory. -/
theorem wq_takeAnswer (only : d.coh.txns = [x]) (one : x.snoops = [n]) (final : ans ≠ .evicting)
    (clean : ans = .rspI ∨ ans = .rspS ∨ n.kind = 7) : (takeAnswer d x n ans).wq = d.wq := by
  cases ans with
  | rspI => simp [takeAnswer_clean only one (.inl rfl)]
  | rspS => simp [takeAnswer_clean only one (.inr rfl)]
  | dirty bs => simp [takeAnswer_cur only one (by simpa using clean)]
  | evicting => exact absurd rfl final

end

/-- The device when a SNOOP_EVICTING is noted: counted, and the WbM awaited. -/
def Dev.evictingNoted (d : Dev) (x : Txn) (a line : Nat) : Dev :=
  (fincSat d Reg.PKM_XSTAT [lineHome d line] Fld.PKM_XSTAT_snp_evicting 1).withTxns
    [{ x with snoops := [], evw := x.evw ++ [(a, line)] }]

include only one whose place

theorem snoopAnswer_taken (empty : s.dev.coh.waiting = []) (reads : x.rd = true) {ans : SnpAns} (final : ans ≠ .evicting)
    (given : n.ans = some ans) :
    exec (.snoopAnswer agent addr) s = .next (s.settle (takeAnswer s.dev.rest x n ans)) := by
  have found : answered s.dev.rest agent.val (addr.toNat / 128) false = some (x, n, ans) := by
    rw [← whose, ← place]
    exact answered_single only one given (beq_eq_false_iff_ne.mpr final)
  obtain ⟨-, waiting, txns⟩ := takeAnswer_leaves (d := s.dev.rest) only one final
  change execSnoopAnswer agent addr s = _
  refine run_settle ?_
  simp only [found]
  exact settle_of_single _ txns (txnReady_of_reading reads) (waiting.trans empty)

include empty reads

/-- What the home makes of an answer that is not SNOOP_EVICTING. -/
theorem exec_snoopAnswer (kind : 7 ≤ n.kind ∧ n.kind ≤ 9) {ans : SnpAns} (given : n.ans = some ans)
    (homed : (homeOf s.dev (128 * (addr.toNat / 128))).isSome = true) (final : ans ≠ .evicting) :
    ∃ t, exec (.snoopAnswer agent addr) s = .next t ∧ t.dev.regs = s.dev.regs ∧
      t.dev.coh.txns = [x.answeredBy n.kind ans] ∧
      (∀ bs, bs.length = 128 → ans = .dirty bs → n.kind ≠ 7 → ownsLine s.dev (addr.toNat / 128) agent.val = true →
        (∀ i, i < 128 → t.byte ((lineKeys s.dev (addr.toNat / 128)).getD i 0) = bs.getD i 0) ∧
        (∀ k, k ∉ lineKeys s.dev (addr.toNat / 128) → t.byte k = s.byte k) ∧
        Sparse.find t.dev.coh.dir (addr.toNat / 128) = if n.kind = 9 then none
          else (Sparse.find s.dev.coh.dir (addr.toNat / 128)).map (fun en => { en with x := false, who := 2 ^ agent.val })) ∧
      (ans = .rspI ∨ ans = .rspS ∨ n.kind = 7 → t.mem = s.mem) ∧
      (ans = .rspI → n.kind = 9 → ∀ en, Sparse.find t.dev.coh.dir (addr.toNat / 128) = some en →
        if en.x then en.who ≠ agent.val else tbit en.who agent.val = false) := by
  obtain ⟨regs, -, txns⟩ := takeAnswer_leaves (d := s.dev.rest) only one final
  refine ⟨_, snoopAnswer_taken only one whose place empty reads final given, regs, txns, ?_, ?_, ?_⟩
  · rintro bs bytes rfl notCur owns
    have owner : ownsLine s.dev.rest n.line n.agent = true := by rwa [whose, place]
    have taken := takeAnswer_dirty (d := s.dev.rest) (bs := bs) only one notCur
    rw [owner, if_pos rfl, whose, place] at taken
    have sees (k : Nat) : (s.settle (takeAnswer s.dev.rest x n (.dirty bs))).byte k =
        rdByte ⟨s.fuses, s.mem⟩ (writeHome s.dev.rest (addr.toNat / 128) bs) k := by
      rw [settle_byte_eq_rdByte, taken, dirAnswered_frame]
      rfl
    refine ⟨fun i near => ?_, fun k other => ?_, ?_⟩
    · rw [sees]
      exact rdByte_writeHome (d := s.dev.rest) homed bytes _ near
    · rw [sees, rdByte_writeHome_other _ _ _ _ (by exact other)]
      exact rdByte_of_quiet s rfl k
    · have leaves := find_dirAnswered_owner (d := (writeHome s.dev.rest (addr.toNat / 128) bs).withTxns
        [x.answeredBy n.kind (.dirty bs)]) (line := addr.toNat / 128) (a := agent.val) (kind := n.kind) (by omega)
        (by rwa [ownsLine, withTxns_dir, writeHome_coh])
      rw [taken]
      rwa [withTxns_dir, writeHome_coh] at leaves
  · exact fun clean => settle_mem_of_quiet s (wq_takeAnswer only one final clean)
  · rintro rfl inv en found
    rw [takeAnswer_clean (d := s.dev.rest) only one (.inl rfl), whose, place, inv] at found
    exact find_dirDrop agent.isLt found

/-- SNOOP_EVICTING is counted, and the transaction waits for the WbM. -/
theorem exec_snoopEvicting (given : n.ans = some .evicting) (notEarly : (agent.val, addr.toNat / 128) ∉ x.early) :
    ∃ t, exec (.snoopEvicting agent addr) s = .next t ∧ t.mem = s.mem ∧
      t.dev.coh.txns = [{ x with snoops := [], evw := x.evw ++ [(agent.val, addr.toNat / 128)] }] ∧
      fget t.dev Reg.PKM_XSTAT [lineHome s.dev (addr.toNat / 128)] Fld.PKM_XSTAT_snp_evicting =
        min (fget s.dev Reg.PKM_XSTAT [lineHome s.dev (addr.toNat / 128)] Fld.PKM_XSTAT_snp_evicting + 1) 0xFFFF := by
  have found : answered s.dev.rest agent.val (addr.toNat / 128) true = some (x, n, .evicting) := by
    rw [← whose, ← place]
    exact answered_single only one given rfl
  have counts := setTxn_single (d := fincSat s.dev.rest Reg.PKM_XSTAT [lineHome s.dev.rest (addr.toNat / 128)]
    Fld.PKM_XSTAT_snp_evicting 1) (x := x)
    (y := { x with snoops := [], evw := x.evw ++ [(agent.val, addr.toNat / 128)] }) (by exact only) rfl
  refine ⟨s.settle (s.dev.rest.evictingNoted x agent.val (addr.toNat / 128)), ?_, settle_mem_of_quiet s rfl, rfl,
    fget_fincSat_same _ _ _ _ _ (by decide) (by decide)⟩
  change execSnoopEvicting agent addr s = _
  refine run_settle ?_
  simp only [found, one, filter_ne_self, whose, place, List.contains_eq_mem, notEarly, decide_false, Bool.false_eq_true,
    if_false, counts]
  exact settle_of_single _ rfl (txnReady_of_reading reads) empty

end

end Sys2Proof.Machine
end

section
/-!
SUPPORT. HBM_READ_DATA, DATA_GRANT and CMPACK of the only transaction of a line (R243, R244).
-/
namespace Sys2Proof.Machine

section
variable {d : Dev} {x : Txn} {line : Nat} (holds : x.lines = [line])
include holds

/-- A ready RdCur returns the home copy. -/
theorem finishTxn_cur (e : Env) (cur : x.req.kind = 3) (none_ : x.cur = none) (whole : x.req.op = some (.read 128))
    (starts : x.req.addr = 128 * line) (clean : homePoison (endTxn d x) line = false) :
    finishTxn e d x = emit (endTxn d x) (.memData x.req.src (rdBytes e (endTxn d x) (lineKeys (endTxn d x) line))) := by
  have all (bs : List Byte) (bytes : bs.length = 128) : slice bs (x.req.addr % 128) 128 = bs := by
    rw [starts, Nat.mul_mod_right, slice, List.drop_zero, List.take_of_length_le (Nat.le_of_eq bytes)]
  have bytes : (rdBytes e (endTxn d x) (lineKeys (endTxn d x) line)).length = 128 := by
    simp [rdBytes, lineKeys, hbmKeys]
  simp [finishTxn, holds, cur, none_, whole, clean, all _ bytes]

/-- A ready RdS or RdX is granted. -/
theorem finishTxn_grant (e : Env) (asks : x.req.kind < 2) {a : Nat} (agent : x.req.agent = some a)
    (clean : homePoison d line = false) (room : dirFull d line = false) : finishTxn e d x = grantLine d x a line := by
  have notEvict : x.req.kind ≠ 30 := by omega
  have notWrite : ¬ 4 ≤ x.req.kind := by omega
  have notCur : x.req.kind ≠ 3 := by omega
  simp [finishTxn, holds, notEvict, notWrite, notCur, clean, room, agent]

end

/-- The device when one more directory entry has been allocated. -/
def Dev.oneAllocated (d : Dev) : Dev := { d with coh := { d.coh with next := d.coh.next + 1 } }

/-- The place in the order of allocation that a line's entry keeps, or that a new one takes. -/
def entryBirth (d : Dev) (line : Nat) : Nat := match Sparse.find d.coh.dir line with | some en => en.born | none => d.coh.next

/-- The vector of a line's sharers. -/
def sharersOf (d : Dev) (line : Nat) : Nat :=
  match Sparse.find d.coh.dir line with | some en => if en.x then 0 else en.who | none => 0

section
variable {d : Dev} {x : Txn} (only : d.coh.txns = [x]) (asks : x.req.kind < 2) (a line : Nat)
include only

/-- DataS adds a sharer. -/
theorem grantLine_shared (shared : x.req.kind = 0 ∧ x.excl = false) : grantLine d x a line =
    (setDir d.oneAllocated line (some { x := false, who := sharersOf d line ||| 2 ^ a, born := entryBirth d line })).withTxns
      [{ x with grant := some 17, hdir := none }] := by
  have code : (x.req.kind == 0 && !x.excl) = true := by simp [shared]
  simp only [grantLine, code, if_true]
  exact setTxn_single (x := x) (by exact only) rfl

include asks

/-- DataE makes an owner. -/
theorem grantLine_owned (owned : ¬ (x.req.kind = 0 ∧ x.excl = false)) : grantLine d x a line =
    (setDir d.oneAllocated line (some { x := true, who := a, born := entryBirth d line })).withTxns
      [{ x with grant := some 18, hdir := none }] := by
  have code : (x.req.kind == 0 && !x.excl) = false := by
    rw [Bool.and_eq_false_iff, beq_eq_false_iff_ne, Bool.not_eq_false']
    exact (not_and_or.mp owned).imp id (eq_true_of_ne_false ·)
  have notUpg : (x.req.kind == 2) = false := beq_false_of_ne (by omega)
  simp only [grantLine, code, notUpg, Bool.false_and, Bool.false_eq_true, if_false]
  exact setTxn_single (x := x) (by exact only) rfl

/-- The grant of an RdS or RdX: DataS or DataE; the home then waits for CmpAck. -/
theorem grantLine_spec :
    ∃ en, Sparse.find (grantLine d x a line).coh.dir line = some en ∧
      (if x.req.kind = 0 ∧ x.excl = false then en.x = false ∧ tbit en.who a = true ∧
          (grantLine d x a line).coh.txns = [{ x with grant := some 17, hdir := none }]
       else en.x = true ∧ en.who = a ∧ (grantLine d x a line).coh.txns = [{ x with grant := some 18, hdir := none }]) ∧
      (grantLine d x a line).wq = d.wq ∧ (grantLine d x a line).coh.waiting = d.coh.waiting := by
  by_cases shared : x.req.kind = 0 ∧ x.excl = false
  · have added : tbit (sharersOf d line ||| 2 ^ a) a = true := by
      rw [tbit, Nat.testBit_or, Nat.testBit_two_pow_self, Bool.or_true]
    simp only [grantLine_shared only a line shared, if_pos shared]
    exact ⟨_, find_setDir_some .., ⟨rfl, added, rfl⟩, rfl, rfl⟩
  · simp only [grantLine_owned only asks a line shared, if_neg shared]
    exact ⟨_, find_setDir_some .., ⟨rfl, rfl, rfl⟩, rfl, rfl⟩

end

section
variable {s : State} {addr : BitVec 52} {x : Txn} (only : s.dev.coh.txns = [x]) (empty : s.dev.coh.waiting = [])
  (holds : x.lines = [addr.toNat / 128])
include only empty holds

omit only empty holds in
/-- The homes' turns where one transaction is under way. -/
theorem settle_of_one {d : Dev} {y : Txn} (only : d.coh.txns = [y]) (empty : d.coh.waiting = []) (e : Env) :
    settle e d = settleHomes e (5 + 1) d := by
  rw [settle, only, empty]
  rfl

omit only empty holds in
/-- The device when the data that a transaction waits for has come. -/
def Dev.dataRead (d : Dev) (x : Txn) : Dev := d.withTxns [{ x with rd := false }]

/-- The transaction of a line that waits for its data alone goes on when it comes. -/
theorem exec_hbmReadData (noSnoops : x.snoops = []) (noEvictions : x.evw = []) (notGranted : x.grant = none)
    (noVictim : x.hdir = none) (room : x.req.kind < 3 → dirFull s.dev.rest (addr.toNat / 128) = false) {d : Dev}
    (finishes : finishTxn ⟨s.fuses, s.mem⟩ (s.dev.rest.dataRead x) { x with rd := false } = d)
    (stays : settleHomes ⟨s.fuses, s.mem⟩ 5 d = d) : exec (.hbmReadData addr) s = .next (s.settle d) := by
  have ready : (s.dev.rest.dataRead x).coh.txns.find? (txnReady (s.dev.rest.dataRead x)) = some { x with rd := false } := by
    have same : dirFull (s.dev.rest.dataRead x) (addr.toNat / 128) = dirFull s.dev.rest (addr.toNat / 128) :=
      dirFull_congr (by rfl) (by rfl) _
    have free : (decide (x.req.kind < 3) && dirFull s.dev.rest (addr.toNat / 128)) = false := by
      by_cases asks : x.req.kind < 3
      · rw [room asks, Bool.and_false]
      · rw [decide_eq_false asks, Bool.false_and]
    refine List.find?_cons_of_pos ?_
    simp [txnReady, noSnoops, noEvictions, notGranted, noVictim, holds, same, free]
  have fuel : settle ⟨s.fuses, s.mem⟩ (s.dev.rest.dataRead x) = settleHomes ⟨s.fuses, s.mem⟩ (5 + 1) (s.dev.rest.dataRead x) :=
    settle_of_one rfl (by exact empty) _
  have goesOn : settle ⟨s.fuses, s.mem⟩ (s.dev.rest.dataRead x) = d := by
    rw [fuel, settleHomes_finish ready, finishes, stays]
  change execHbmReadData addr s = _
  refine run_settle ?_
  simp only [txnOf_single (d := s.dev.rest) only holds]
  rw [setTxn_single (d := s.dev.rest) (y := { x with rd := false }) only rfl]
  exact goesOn

/-- RdCur: the data is returned and the transaction ends. -/
theorem exec_hbmReadData_cur (noSnoops : x.snoops = []) (noEvictions : x.evw = []) (notGranted : x.grant = none)
    (noVictim : x.hdir = none) (clean : homePoison s.dev.rest (addr.toNat / 128) = false) (cur : x.req.kind = 3)
    (none_ : x.cur = none) (whole : x.req.op = some (.read 128)) (starts : x.req.addr = 128 * (addr.toNat / 128)) :
    ∃ t, exec (.hbmReadData addr) s = .next t ∧ t.mem = s.mem ∧ t.dev.coh.txns = [] ∧
      t.dev.out = s.dev.out ++ [.memData x.req.src ((lineKeys s.dev.rest (addr.toNat / 128)).map s.byte)] := by
  have ends : endTxn (s.dev.rest.dataRead x) { x with rd := false } =
      s.dev.rest.withTxns [] := endTxn_single (x := { x with rd := false }) rfl rfl
  have finishes := finishTxn_cur (d := s.dev.rest.dataRead x) (x := { x with rd := false }) holds ⟨s.fuses, s.mem⟩ cur none_ whole
    starts (by rw [ends]; exact (homePoison_congr (by rfl) (by rfl) (by rfl) _).trans clean)
  rw [ends] at finishes
  have bytes : rdBytes ⟨s.fuses, s.mem⟩ (s.dev.rest.withTxns []) (lineKeys (s.dev.rest.withTxns []) (addr.toNat / 128)) =
      (lineKeys s.dev.rest (addr.toNat / 128)).map s.byte := by
    rw [lineKeys_congr (d := s.dev.rest) (d' := s.dev.rest.withTxns []) rfl]
    exact List.map_congr_left fun k _ => rdByte_of_quiet s rfl k
  rw [bytes] at finishes
  exact ⟨_, exec_hbmReadData only empty holds noSnoops noEvictions notGranted noVictim (by omega) finishes
    (settleHomes_of_quiet ⟨by rfl, by exact empty⟩ _ _), settle_mem_of_quiet s rfl, rfl, rfl⟩

/-- RdS and RdX: the grant is sent, and the directory has its new entry. -/
theorem exec_hbmReadData_grant (noSnoops : x.snoops = []) (noEvictions : x.evw = []) (notGranted : x.grant = none)
    (noVictim : x.hdir = none) (clean : homePoison s.dev.rest (addr.toNat / 128) = false) {a : Nat} (asks : x.req.kind < 2)
    (agent : x.req.agent = some a) (room : dirFull s.dev.rest (addr.toNat / 128) = false) :
    ∃ t en, exec (.hbmReadData addr) s = .next t ∧ t.mem = s.mem ∧ Sparse.find t.dev.coh.dir (addr.toNat / 128) = some en ∧
      (if x.req.kind = 0 ∧ x.excl = false then en.x = false ∧ tbit en.who a = true ∧
          t.dev.coh.txns = [{ x with rd := false, grant := some 17 }]
       else en.x = true ∧ en.who = a ∧ t.dev.coh.txns = [{ x with rd := false, grant := some 18 }]) := by
  obtain ⟨en, found, kinds, silent, waiting⟩ :=
    grantLine_spec (d := s.dev.rest.dataRead x) (x := { x with rd := false }) rfl asks a (addr.toNat / 128)
  have finishes := finishTxn_grant (d := s.dev.rest.dataRead x) (x := { x with rd := false }) holds ⟨s.fuses, s.mem⟩ asks agent
    ((homePoison_congr (by rfl) (by rfl) (by rfl) _).trans clean) ((dirFull_congr (by rfl) (by rfl) _).trans room)
  have victim (g : Nat) : { x with rd := false, grant := some g, hdir := none } = { x with rd := false, grant := some g } := by
    rw [← noVictim]
  simp only [victim] at kinds
  have granted : ∃ y g, (grantLine (s.dev.rest.dataRead x) { x with rd := false } a (addr.toNat / 128)).coh.txns = [y] ∧
      y.grant = some g := by
    split_ifs at kinds
    · exact ⟨_, _, kinds.2.2, rfl⟩
    · exact ⟨_, _, kinds.2.2, rfl⟩
  obtain ⟨y, g, txns, grant⟩ := granted
  exact ⟨_, en, exec_hbmReadData only empty holds noSnoops noEvictions notGranted noVictim (fun _ => room) finishes
    (settleHomes_of_idle _ (by rw [txns]; exact List.forall_mem_singleton.mpr (txnReady_of_granted grant))
      (waiting.trans empty) _), settle_mem_of_quiet s silent, found, kinds⟩

omit only empty holds in
/-- The state that a grant brings a base cache or a guest die to. -/
def grantedState (d : Dev) (a g : Nat) : AState := if g = 17 then (if a < 6 && !(cacheUsed d a) then .i else .s) else .e

omit only empty holds in
/-- The device when a base cache or a guest die has taken its grant. -/
def Dev.grantTaken (d : Dev) (x : Txn) (a g line : Nat) (bs : List Byte) : Dev :=
  (setASt (emit d (if 10 ≤ a then .coh a g line (if g = 14 then [] else bs) else .memData x.req.src bs)) a line
    (grantedState d a g)).withTxns [{ x with acked := true }]

omit empty in
/-- DATA_GRANT puts a base cache or a guest die in S or E. -/
theorem exec_dataGrant {agent : Fin 12} (asked : x.req.agent = some agent.val) {g : Nat} (granted : x.grant = some g)
    (notAcked : x.acked = false) (noHost : agent.val < 6 ∨ 10 ≤ agent.val) :
    ∃ t, exec (.dataGrant agent addr) s = .next t ∧ t.mem = s.mem ∧ t.dev.regs = s.dev.regs ∧
      t.dev.coh.txns = [{ x with acked := true }] ∧
      t.dev.out = s.dev.out ++ [if 10 ≤ agent.val then .coh agent.val g (addr.toNat / 128)
          (if g = 14 then [] else (lineKeys s.dev (addr.toNat / 128)).map s.byte)
        else .memData x.req.src ((lineKeys s.dev (addr.toNat / 128)).map s.byte)] ∧
      (aLine t.dev agent.val (addr.toNat / 128)).st =
        if g = 17 then (if agent.val < 6 ∧ cacheUsed s.dev agent.val = false then .i else .s) else .e := by
  have host : (decide (6 ≤ agent.val) && decide (agent.val < 10)) = false := by simp; omega
  have die : 6 ≤ agent.val ↔ 10 ≤ agent.val := by omega
  have bytes : rdBytes ⟨s.fuses, s.mem⟩ s.dev.rest (lineKeys s.dev.rest (addr.toNat / 128)) =
      (lineKeys s.dev (addr.toNat / 128)).map s.byte :=
    List.map_congr_left fun k _ => rdByte_of_quiet s rfl k
  refine ⟨s.settle (s.dev.rest.grantTaken x agent.val g (addr.toNat / 128) ((lineKeys s.dev (addr.toNat / 128)).map s.byte)), ?_,
    settle_mem_of_quiet s rfl, rfl, rfl, rfl, ?_⟩
  · have acks (d : Dev) (same : d.coh = s.dev.coh) (st : AState) :
        setTxn (setASt d agent.val (addr.toNat / 128) st) { x with acked := true } =
          (setASt d agent.val (addr.toNat / 128) st).withTxns [{ x with acked := true }] :=
      setTxn_single (x := x) (by rw [setASt, setALine, same, only]) rfl
    change execDataGrant agent addr s = _
    refine run_settle ?_
    simp only [txnOf_single (d := s.dev.rest) only holds, granted, asked, notAcked, host, Bool.false_and, bytes,
      ne_eq, not_true_eq_false, Bool.false_eq_true, or_self, if_false]
    rw [Dev.grantTaken, grantedState, ← acks _ (by rfl)]
    simp only [die, granted]
    by_cases far : 10 ≤ agent.val
    · simp only [far, if_true]
      rfl
    · simp only [far, if_false]
      rfl
  · refine (aLine_st_of_agents (st := grantedState s.dev agent.val g)
      (d := emit s.dev.rest (if 10 ≤ agent.val then .coh agent.val g (addr.toNat / 128)
        (if g = 14 then [] else (lineKeys s.dev (addr.toNat / 128)).map s.byte)
        else .memData x.req.src ((lineKeys s.dev (addr.toNat / 128)).map s.byte))) rfl).trans ?_
    simp [grantedState]

/-- CMPACK ends the transaction. -/
theorem exec_cmpack {agent : Fin 12} (asked : x.req.agent = some agent.val) (acked : x.acked = true) :
    ∃ t, exec (.cmpack agent addr) s = .next t ∧ t.mem = s.mem ∧ t.dev.regs = s.dev.regs ∧
      t.dev.coh.txns = [] ∧ t.dev.coh.dir = s.dev.coh.dir := by
  have ends := endTxn_single (d := s.dev.rest) (x := x) only rfl
  refine ⟨s.settle (s.dev.rest.withTxns []), ?_, settle_mem_of_quiet s rfl, rfl, rfl, rfl⟩
  change execCmpack agent addr s = _
  refine run_settle ?_
  simp only [txnOf_single (d := s.dev.rest) only holds, acked, asked, ends, Bool.true_and, beq_self_eq_true, if_true]
  exact settle_of_quiet ⟨by rfl, by exact empty⟩ _

end

end Sys2Proof.Machine
end

section
/-!
SUPPORT. WBM and WBACK (R241, R245, R246).
-/
namespace Sys2Proof.Machine

theorem takeWb_owner {d : Dev} (quiet : HomesQuiet d) (e : Env) {a line : Nat} (owns : ownsLine d line a = true)
    (bs : List Byte) : takeWb e d a line bs = setDir (ackWb (writeHome d line bs) a line) line none := by
  have still : HomesQuiet (setDir (ackWb (writeHome d line bs) a line) line none) := by
    have coh : (writeHome d line bs).coh = d.coh := writeHome_coh ..
    exact ⟨(congrArg Coh.txns coh).trans quiet.txns, (congrArg Coh.waiting coh).trans quiet.waiting⟩
  have free : txnOf (setDir (ackWb (writeHome d line bs) a line) line none) line = none := by rw [txnOf, still.txns]; rfl
  change (if ownsLine d line a = true then _ else _) = _
  simp only [if_pos owns, free]
  exact settle_of_quiet still e

theorem takeWb_stale {d : Dev} (quiet : HomesQuiet d) (e : Env) {a line : Nat} (notOwner : ownsLine d line a = false)
    (bs : List Byte) :
    takeWb e d a line bs = fincSat (ackWb d a line) Reg.PKM_XSTAT [lineHome d line] Fld.PKM_XSTAT_stale_wb 1 := by
  change (if ownsLine d line a = true then _ else _) = _
  rw [notOwner, if_neg Bool.false_ne_true]
  exact settle_of_quiet ⟨by exact quiet.txns, by exact quiet.waiting⟩ e

section
variable {s : State} {agent : Fin 12} {addr : BitVec 52}

/-- A WbM that is on its way reaches its home. -/
theorem exec_wbm_arrives (far : 6 ≤ agent.val) {bs : List Byte}
    (sent : wbOf s.dev agent.val (addr.toNat / 128) = some bs) (data : BitVec 1024) {d : Dev}
    (takes : takeWb ⟨s.fuses, s.mem⟩ s.dev.rest agent.val (addr.toNat / 128) bs = d) :
    exec (.wbm agent addr data) s = .next (s.settle d) := by
  have sent' : wbOf s.dev.rest agent.val (addr.toNat / 128) = some bs := sent
  change execWbm agent addr data s = _
  refine run_settle ?_
  simp only [if_neg (Nat.not_lt_of_le far), sent']
  exact takes

/-- A WbM from the recorded owner becomes the home copy, and one from another agent is counted; both are acknowledged. -/
theorem exec_wbm (far : 6 ≤ agent.val) {bs : List Byte} (sent : wbOf s.dev agent.val (addr.toNat / 128) = some bs)
    (bytes : bs.length = 128) (quiet : HomesQuiet s.dev) (homed : (homeOf s.dev (128 * (addr.toNat / 128))).isSome = true)
    (data : BitVec 1024) :
    ∃ t, exec (.wbm agent addr data) s = .next t ∧
      t.dev.coh.wbAcks = s.dev.coh.wbAcks ++ [(agent.val, addr.toNat / 128)] ∧
      t.dev.out = s.dev.out ++ [.coh agent.val 15 (addr.toNat / 128) []] ∧
      (ownsLine s.dev (addr.toNat / 128) agent.val = true →
        (∀ i, i < 128 → t.byte ((lineKeys s.dev (addr.toNat / 128)).getD i 0) = bs.getD i 0) ∧
        (∀ k, k ∉ lineKeys s.dev (addr.toNat / 128) → t.byte k = s.byte k) ∧
        (∀ en, Sparse.find t.dev.coh.dir (addr.toNat / 128) ≠ some en) ∧ t.dev.regs = s.dev.regs) ∧
      (ownsLine s.dev (addr.toNat / 128) agent.val = false → t.mem = s.mem ∧ t.dev.coh.dir = s.dev.coh.dir ∧
        fget t.dev Reg.PKM_XSTAT [lineHome s.dev (addr.toNat / 128)] Fld.PKM_XSTAT_stale_wb =
          min (fget s.dev Reg.PKM_XSTAT [lineHome s.dev (addr.toNat / 128)] Fld.PKM_XSTAT_stale_wb + 1) 0xFFFF) := by
  have still : HomesQuiet s.dev.rest := quiet.congr rfl
  cases owner : ownsLine s.dev (addr.toNat / 128) agent.val with
  | true =>
    have takes := takeWb_owner still ⟨s.fuses, s.mem⟩ (a := agent.val) (line := addr.toNat / 128) (by exact owner) bs
    have sees (k : Nat) :
        (s.settle (setDir (ackWb (writeHome s.dev.rest (addr.toNat / 128) bs) agent.val (addr.toNat / 128))
          (addr.toNat / 128) none)).byte k = rdByte ⟨s.fuses, s.mem⟩ (writeHome s.dev.rest (addr.toNat / 128) bs) k :=
      settle_byte_eq_rdByte s _ k
    refine ⟨_, exec_wbm_arrives far sent data takes, ?_, ?_, fun _ => ⟨fun i near => ?_, fun k other => ?_, fun en found => ?_, ?_⟩,
      fun absent => absurd absent.symm Bool.false_ne_true⟩
    · exact congrArg (fun c => Coh.wbAcks c ++ _) (writeHome_coh s.dev.rest _ _)
    · rw [writeHome_frame]
      rfl
    · rw [sees]
      exact rdByte_writeHome (d := s.dev.rest) homed bytes _ near
    · rw [sees, rdByte_writeHome_other _ _ _ _ (by exact other)]
      exact rdByte_of_quiet s rfl k
    · exact nomatch (find_setDir_none _ (addr.toNat / 128)).symm.trans found
    · exact writeHome_regs s.dev.rest _ _
  | false =>
    have takes := takeWb_stale still ⟨s.fuses, s.mem⟩ (a := agent.val) (line := addr.toNat / 128) (by exact owner) bs
    exact ⟨_, exec_wbm_arrives far sent data takes, rfl, rfl, fun present => absurd present Bool.false_ne_true,
      fun _ => ⟨settle_mem_of_quiet s rfl, rfl, fget_fincSat_same _ _ _ _ _ (by decide) (by decide)⟩⟩

/-- The device when an agent has taken a WbAck. -/
def Dev.ackTaken (d : Dev) (a line : Nat) : Dev :=
  { d with coh := { d.coh with wbAcks := d.coh.wbAcks.filter (· != (a, line)) } }

/-- WBACK completes an eviction that no request waits for. -/
theorem exec_wback (acked : (agent.val, addr.toNat / 128) ∈ s.dev.coh.wbAcks)
    (evicts : (aLine s.dev agent.val (addr.toNat / 128)).st = .miA)
    (noneWaits : (aLine s.dev agent.val (addr.toNat / 128)).want = []) :
    ∃ t, exec (.wback agent addr) s = .next t ∧ t.mem = s.mem ∧ t.dev.regs = s.dev.regs ∧
      (aLine t.dev agent.val (addr.toNat / 128)).st = .i ∧ (agent.val, addr.toNat / 128) ∉ t.dev.coh.wbAcks := by
  have listed : s.dev.rest.coh.wbAcks.contains (agent.val, addr.toNat / 128) = true := List.contains_iff_mem.mpr acked
  have state : (aLine (s.dev.rest.ackTaken agent.val (addr.toNat / 128)) agent.val (addr.toNat / 128)).st = .miA := evicts
  have noWant : (aLine (s.dev.rest.ackTaken agent.val (addr.toNat / 128)) agent.val (addr.toNat / 128)).want = [] := noneWaits
  refine ⟨s.settle (setASt (s.dev.rest.ackTaken agent.val (addr.toNat / 128)) agent.val (addr.toNat / 128) .i), ?_,
    settle_mem_of_quiet s rfl, rfl, aLine_st_of_agents (d := s.dev.rest.ackTaken agent.val (addr.toNat / 128)) rfl, ?_⟩
  · change execWback agent addr s = _
    refine run_settle ?_
    simp only [listed, if_true]
    change (if (aLine (s.dev.rest.ackTaken agent.val (addr.toNat / 128)) agent.val (addr.toNat / 128)).st ≠ .miA then _
      else if (aLine (s.dev.rest.ackTaken agent.val (addr.toNat / 128)) agent.val (addr.toNat / 128)).want.isEmpty = true then _
      else _) = _
    rw [if_neg (not_not_intro state), noWant]
    rfl
  · intro still
    have kept : (agent.val, addr.toNat / 128) ∈ s.dev.coh.wbAcks.filter (· != (agent.val, addr.toNat / 128)) := still
    simp at kept

end

end Sys2Proof.Machine
end

section
/-!
SETTLED. Homes snoop, agents answer, and transactions end (R240-R246, R250).
-/
namespace Sys2Proof.Machine

/-- Settles O33: each command is followed at a home whose only transaction is its own. -/
theorem homesSnoopGrantAndEnd : Obligations.HomesSnoopGrantAndEnd := by
  unfold Obligations.HomesSnoopGrantAndEnd
  refine ⟨?_, ?_, ?_, ?_, ?_, ?_⟩
  · intro s src addr noTxns noneWaits d line hbm reaches snoops starts
    have quiet : HomesQuiet s.dev := ⟨noTxns, noneWaits⟩
    refine ⟨exec_rdcur_begins quiet hbm reaches, ?_⟩
    intro a isAgent q
    refine ⟨fun invalid => ?_, fun owns invalid => ?_, fun owns shared waits => ?_⟩
    · exact exec_agentRequest_begins quiet hbm reaches isAgent (.inl ⟨rfl, invalid, rfl⟩) rfl rfl rfl rfl (.inl rfl)
    · exact exec_agentRequest_begins quiet hbm reaches isAgent (.inr (.inl ⟨rfl, invalid, rfl⟩)) (exec_rdx isAgent owns addr)
        rfl rfl rfl (.inl rfl)
    · exact exec_agentRequest_begins quiet hbm reaches isAgent (.inr (.inr ⟨rfl, shared, rfl⟩)) (exec_upg isAgent owns addr)
        rfl rfl rfl (waits.imp_left fun notSharer => by rw [notSharer]; rfl)
  · intro s agent addr data kind x a line isIt st noHost atLeast atMost found bs r
    have answers : snoopAnswer kind st bs false = r := by
      simp only [r, st]
      cases (aLine s.dev a line).st <;> rfl
    have taken := takeSnoop_current (d := s.dev.rest) (kind := kind) noHost (by exact found) bs
    refine ⟨_, (exec_snoop ⟨atLeast, atMost⟩ agent addr st data s).trans (run_settle taken), ?_, ?_, ?_, ?_, ?_⟩
    · exact settle_mem_of_quiet s rfl
    · rfl
    · rfl
    · rw [← answers]
      exact aLine_st_of_agents (d := s.dev.rest) rfl
    · rw [← answers]
      rfl
  · intro s agent addr x n ans a line ks owned only empty one reads whose place atLeast atMost given homed
    refine ⟨fun final => ?_, fun evicts notEarly => ?_⟩
    · obtain ⟨t, next, regs, txns, dirty, clean, dropped⟩ :=
        exec_snoopAnswer only empty one reads whose place ⟨atLeast, atMost⟩ given homed final
      exact ⟨t, next, regs, ⟨_, txns, rfl, reads, rfl, by cases ans <;> rfl⟩,
        fun bs bytes isDirty notCur owns => dirty bs bytes isDirty notCur (ownsLine_iff.mpr owns),
        clean, dropped⟩
    · exact exec_snoopEvicting only empty one reads whose place (given.trans (congrArg some evicts)) notEarly
  · intro s addr x line d only empty holds reads noSnoops noEvictions notGranted noVictim clean
    refine ⟨exec_hbmReadData_cur only empty holds noSnoops noEvictions notGranted noVictim clean, fun a asks agent room => ?_⟩
    obtain ⟨t, en, next, mem, found, kinds⟩ :=
      exec_hbmReadData_grant only empty holds noSnoops noEvictions notGranted noVictim clean asks agent room
    refine ⟨t, en, next, mem, found, ?_⟩
    split_ifs at kinds ⊢ with shared
    · exact ⟨kinds.1, fun _ => kinds.2.1, kinds.2.2⟩
    · exact kinds
  · intro s agent addr x g a line only empty holds asked
    exact ⟨fun granted notAcked noHost _ => exec_dataGrant only holds asked granted notAcked noHost,
      exec_cmpack only empty holds asked⟩
  · intro s agent addr data bs a line ks owned
    refine ⟨fun far sent bytes noTxns noneWaits homed => ?_, exec_wback⟩
    obtain ⟨t, next, acks, out, owner, stale⟩ := exec_wbm far sent bytes ⟨noTxns, noneWaits⟩ homed data
    exact ⟨t, next, acks, out, fun owns => owner (ownsLine_iff.mpr owns),
      fun notOwner => stale (eq_false_of_ne_true (mt ownsLine_iff.mp notOwner))⟩

end Sys2Proof.Machine
end

section
/-!
SUPPORT. What housekeeping leaves of its own registers and counters (R476-R481): the published readings' registers and
THM_HK_STAT keep what no publication writes.
-/
namespace Sys2Proof.Machine

/-- The keys of the published readings (THM_HK_CH) and of THM_HK_STAT. -/
def hkKey (k : Nat) : Prop := k = 0x300038 ∨ 0x301000 ≤ k ∧ k < 0x302000

theorem hkKey_ch {k : Nat} (small : k < 1024) : hkKey (Reg.THM_HK_CH.key [k]) := by
  simp only [hkKey, RegDesc.key, dimOffset, Reg.THM_HK_CH]
  omega

theorem hkKey_stat : hkKey (Reg.THM_HK_STAT.key []) := .inl rfl

theorem hkCh_key_ne {i k : Nat} (other : k ≠ i) : Reg.THM_HK_CH.key [k] ≠ Reg.THM_HK_CH.key [i] := by
  simp only [RegDesc.key, dimOffset, Reg.THM_HK_CH]
  omega

theorem hkStat_key_ne_ch (k : Nat) : Reg.THM_HK_STAT.key [] ≠ Reg.THM_HK_CH.key [k] := by
  simp only [RegDesc.key, dimOffset, Reg.THM_HK_STAT, Reg.THM_HK_CH]
  omega

/-- The registers of the light engines lie above. -/
theorem not_hkKey_of_base {r : RegDesc} (above : 0x2000000 ≤ r.base) (ix : List Nat) : ¬ hkKey (r.key ix) := by
  unfold hkKey RegDesc.key
  omega

theorem not_hkKey_core {i : Nat} (small : i < 36) : ¬ hkKey (Reg.THM_CORE.key [i]) := by
  simp only [hkKey, RegDesc.key, dimOffset, Reg.THM_CORE]
  omega

theorem not_hkKey_res : ¬ hkKey (Reg.THM_HK_RES.key []) := by
  simp only [hkKey, RegDesc.key, dimOffset, Reg.THM_HK_RES]
  omega

/-- What keeps the published readings, the counts of rounds and triggers, and memory. -/
structure HkKeeps (d d' : Dev) : Prop where
  regs : ∀ k, hkKey k → Sparse.find d'.regs k = Sparse.find d.regs k
  wq : d'.wq = d.wq
  slot : d'.pow.hkSlot = d.pow.hkSlot
  done : d'.pow.roundDone = d.pow.roundDone
  trigRun : d'.pow.trigRun = d.pow.trigRun
  trigPend : d'.pow.trigPend = d.pow.trigPend

theorem HkKeeps.refl (d : Dev) : HkKeeps d d := ⟨fun _ _ => rfl, rfl, rfl, rfl, rfl, rfl⟩

theorem HkKeeps.trans {a b c : Dev} (first : HkKeeps a b) (next : HkKeeps b c) : HkKeeps a c :=
  ⟨fun k listed => (next.regs k listed).trans (first.regs k listed), next.wq.trans first.wq, next.slot.trans first.slot,
    next.done.trans first.done, next.trigRun.trans first.trigRun, next.trigPend.trans first.trigPend⟩

theorem HkKeeps.fset (d : Dev) {r : RegDesc} {ix : List Nat} (outside : ¬ hkKey (r.key ix)) (f : Fld) (v : Nat) :
    HkKeeps d (fset d r ix f v) :=
  ⟨fun k listed => keepsRegs_fset d r ix f v k (List.mem_singleton.not.mpr fun same => outside (same ▸ listed)),
    rfl, rfl, rfl, rfl, rfl⟩

theorem report_hkKeeps (d : Dev) (r : Report) : HkKeeps d (report d r) := ⟨fun _ _ => rfl, rfl, rfl, rfl, rfl, rfl⟩

theorem emit_hkKeeps (d : Dev) (o : Out) : HkKeeps d (emit d o) := ⟨fun _ _ => rfl, rfl, rfl, rfl, rfl, rfl⟩

theorem takeFree_hkKeeps (d : Dev) (w : Nat) : HkKeeps d (takeFree d w).2 := ⟨fun _ _ => rfl, rfl, rfl, rfl, rfl, rfl⟩

theorem HkKeeps.foldl {α : Type} {f : Dev → α → Dev} {xs : List α} (each : ∀ x ∈ xs, ∀ d, HkKeeps d (f d x)) (d : Dev) :
    HkKeeps d (xs.foldl f d) :=
  List.foldlRecOn (motive := HkKeeps d) xs f (HkKeeps.refl d) fun d kept x listed => kept.trans (each x listed d)

theorem HkKeeps.rdReg {d d' : Dev} (keeps : HkKeeps d d') {r : RegDesc} {ix : List Nat} (listed : hkKey (r.key ix)) :
    rdReg d' r ix = rdReg d r ix := by
  unfold Machine.rdReg Sparse.get
  rw [keeps.regs _ listed]

theorem HkKeeps.fget {d d' : Dev} (keeps : HkKeeps d d') {r : RegDesc} {ix : List Nat} (listed : hkKey (r.key ix)) (f : Fld) :
    fget d' r ix f = fget d r ix f := by rw [Machine.fget, keeps.rdReg listed, Machine.fget]

section
variable {d d' : Dev} (keeps : HkKeeps d d')
include keeps

theorem HkKeeps.hkVal {i : Nat} (small : i < 1024) : hkVal d' i = hkVal d i := by
  rw [Machine.hkVal, Machine.hkVal, keeps.fget (hkKey_ch small)]

theorem HkKeeps.hkValid {i : Nat} (small : i < 1024) : hkValid d' i = hkValid d i := by
  rw [Machine.hkValid, Machine.hkValid, fbit, fbit, keeps.fget (hkKey_ch small)]

theorem HkKeeps.hkBroken {i : Nat} (small : i < 1024) : hkBroken d' i = hkBroken d i := by
  rw [Machine.hkBroken, Machine.hkBroken, fbit, fbit, keeps.fget (hkKey_ch small)]

end

/-- The device when a unit is in a band. -/
def Dev.withBand (d : Dev) (i b : Nat) : Dev := { d with pow := { d.pow with bands := Sparse.set 0 d.pow.bands i b } }

theorem withBand_hkKeeps (d : Dev) (i b : Nat) : HkKeeps d (d.withBand i b) := ⟨fun _ _ => rfl, rfl, rfl, rfl, rfl, rfl⟩

/-- A band follows its governing temperature; that of a core is shown. -/
theorem setBand_of_temp {d : Dev} {i : Nat} {t : Int} (temp : govTemp d (bandGov i) = some t) {b : Nat}
    (band : b = if govLost d (bandGov i) then 3 else bandNext (Sparse.get 0 d.pow.bands i) t) :
    setBand d i = if i < 36 then fset (d.withBand i b) Reg.THM_CORE [i] Fld.THM_CORE_dband b else d.withBand i b := by
  subst band
  simp only [setBand, temp]
  rfl

theorem setBand_hkKeeps (d : Dev) (i : Nat) : HkKeeps d (setBand d i) := by
  cases temp : govTemp d (bandGov i) with
  | none => simpa only [setBand, temp] using HkKeeps.refl d
  | some t =>
    obtain ⟨b, band⟩ := exists_eq' (a' := if govLost d (bandGov i) then 3 else bandNext (Sparse.get 0 d.pow.bands i) t)
    rw [setBand_of_temp temp band.symm]
    split
    next core => exact (withBand_hkKeeps d i b).trans (HkKeeps.fset _ (not_hkKey_core core) _ _)
    next => exact withBand_hkKeeps d i b

theorem leMean_hkKeeps (d : Dev) (k : Nat) : HkKeeps d (leMean d k) := by
  have outside : ¬ hkKey (Reg.LE_CAL_TEMP.key [k]) := not_hkKey_of_base (by decide) _
  unfold leMean
  split
  · exact HkKeeps.refl d
  · dsimp only
    split_ifs
    · exact HkKeeps.fset d outside _ _
    · exact (takeFree_hkKeeps d 1).trans (HkKeeps.fset _ outside _ _)

theorem setLaser_hkKeeps (d : Dev) (k b n st : Nat) : HkKeeps d (setLaser d k b n st) := by
  have shows := HkKeeps.fset d (not_hkKey_of_base (r := Reg.LE_LASER) (by decide) [k, b, n]) Fld.LE_LASER_state st
  unfold setLaser
  dsimp only
  split_ifs
  · exact shows.trans (emit_hkKeeps ..)
  · exact shows

theorem ampOff_hkKeeps (d : Dev) (k j : Nat) : HkKeeps d (ampOff d k j) := by
  have outside := not_hkKey_of_base (r := Reg.LE_GAP_AMP) (by decide) [k, j]
  exact (HkKeeps.fset d outside _ _).trans (HkKeeps.fset _ outside _ _)

theorem setFibre_hkKeeps (d : Dev) (g st : Nat) : HkKeeps d (setFibre d g st) :=
  (HkKeeps.fset d (not_hkKey_of_base (r := Reg.LE_FIBRE) (by decide) (lqIx g)) _ _).trans
    (HkKeeps.fset _ (not_hkKey_of_base (r := Reg.LE_STAT) (by decide) [g / 8]) _ _)

theorem fenceFibre_hkKeeps (d : Dev) (g : Nat) : HkKeeps d (fenceFibre d g) := by
  unfold fenceFibre
  split
  · exact HkKeeps.refl d
  · exact (setFibre_hkKeeps d g 1).trans (report_hkKeeps ..)

theorem cmSense_hkKeeps (d : Dev) (g v : Nat) : HkKeeps d (cmSense d g v) := by
  unfold cmSense
  dsimp only
  generalize (if 3072 < signed 16 v then Sparse.get 0 d.pow.cmHigh g + 1 else 0) = n
  have counts : HkKeeps d { d with pow := { d.pow with cmHigh := Sparse.set 0 d.pow.cmHigh g n } } :=
    ⟨fun _ _ => rfl, rfl, rfl, rfl, rfl, rfl⟩
  split_ifs
  · refine counts.trans (HkKeeps.trans (HkKeeps.foldl (fun i _ d => ?_) _)
      ((ampOff_hkKeeps _ _ _).trans (fenceFibre_hkKeeps _ _)))
    split_ifs
    · exact setLaser_hkKeeps ..
    · exact HkKeeps.refl d
  · exact counts

end Sys2Proof.Machine
end

section
/-!
SUPPORT. Publishing a reading (R476, R478).
-/
namespace Sys2Proof.Machine

/-- The device when a reading stands in its register. -/
def Dev.readingShown (d : Dev) (i v : Nat) : Dev :=
  fset (fset d Reg.THM_HK_CH [i] Fld.THM_HK_CH_value v) Reg.THM_HK_CH [i] Fld.THM_HK_CH_valid 1

section
variable (d : Dev) (i v : Nat)

theorem fget_readingShown_value : fget (d.readingShown i v) Reg.THM_HK_CH [i] Fld.THM_HK_CH_value = v % 2 ^ 16 := by
  rw [Dev.readingShown, fget_fset_field _ _ _ _ _ _ (by decide) (by decide) (by decide),
    fget_fset_same _ _ _ _ _ (by decide) (by decide)]
  rfl

theorem hkValid_readingShown : hkValid (d.readingShown i v) i = true := by
  rw [hkValid, fbit, Dev.readingShown, fget_fset_same _ _ _ _ _ (by decide) (by decide)]
  rfl

theorem hkBroken_readingShown (k : Nat) : hkBroken (d.readingShown i v) k = hkBroken d k := by
  unfold hkBroken fbit Dev.readingShown
  rcases eq_or_ne k i with rfl | other
  · rw [fget_fset_field _ _ _ _ _ _ (by decide) (by decide) (by decide),
      fget_fset_field _ _ _ _ _ _ (by decide) (by decide) (by decide)]
  · rw [fget_fset_other _ _ _ _ _ _ _ _ (hkCh_key_ne other), fget_fset_other _ _ _ _ _ _ _ _ (hkCh_key_ne other)]

theorem rdReg_readingShown_other {r : RegDesc} {ix : List Nat} (other : r.key ix ≠ Reg.THM_HK_CH.key [i]) :
    rdReg (d.readingShown i v) r ix = rdReg d r ix := by
  rw [Dev.readingShown, rdReg_fset_other _ _ _ _ _ _ _ other, rdReg_fset_other _ _ _ _ _ _ _ other]

end

/-- A reserved slot publishes nothing. -/
theorem hkPublish_reserved {i : Nat} (reserved : hkKind i = 15) (d : Dev) (v : Nat) : hkPublish d i v = d := if_pos reserved

/-- The mean of a light engine after a slot. -/
def Dev.meanTaken (d : Dev) (i : Nat) : Dev := if 192 ≤ i ∧ i < 256 then leMean d ((i - 192) / 4) else d

/-- The CM sense of a fibre after a slot. -/
def Dev.cmSensed (d : Dev) (i v : Nat) : Dev := if hkKind i = 3 then cmSense d (i - 858) v else d

/-- Any other shows its reading, and brings up to date what hangs on it. -/
theorem hkPublish_eq {i : Nat} (used : hkKind i ≠ 15) (d : Dev) (v : Nat) : hkPublish d i v =
    (((bandsOf i).foldl setBand (d.readingShown i (hkShown d i v))).meanTaken i).cmSensed i (hkShown d i v) := if_neg used

theorem meanTaken_hkKeeps (d : Dev) (i : Nat) : HkKeeps d (d.meanTaken i) := by
  unfold Dev.meanTaken
  split
  · exact leMean_hkKeeps ..
  · exact HkKeeps.refl d

theorem cmSensed_hkKeeps (d : Dev) (i v : Nat) : HkKeeps d (d.cmSensed i v) := by
  unfold Dev.cmSensed
  split
  · exact cmSense_hkKeeps ..
  · exact HkKeeps.refl d

/-- What hangs on a reading keeps the readings. -/
theorem hkPublish_keeps {i : Nat} (used : hkKind i ≠ 15) (d : Dev) (v : Nat) :
    HkKeeps (d.readingShown i (hkShown d i v)) (hkPublish d i v) := by
  rw [hkPublish_eq used]
  exact ((HkKeeps.foldl (fun j _ d => setBand_hkKeeps d j) _).trans (meanTaken_hkKeeps ..)).trans (cmSensed_hkKeeps ..)

/-- The reading of a sensor that is not broken is shown as it is. -/
theorem hkShown_of_good {d : Dev} {i : Nat} (good : i < 262 → hkBroken d i = false) (v : Nat) : hkShown d i v = v := by
  refine if_neg fun broken => ?_
  rw [good broken.1] at broken
  exact Bool.false_ne_true broken.2

end Sys2Proof.Machine
end

section
/-!
SUPPORT. Bands follow their temperatures with a hysteresis (R474).
-/
namespace Sys2Proof.Machine

/-- The lower bounds of bands ascend. -/
theorem bandLow_bandRaw_le {t : Int} {b : Nat} (above : b ≤ bandRaw t) (some_ : 0 < b) : bandLow b ≤ t := by
  unfold bandRaw at above
  obtain rfl | rfl | rfl : b = 1 ∨ b = 2 ∨ b = 3 := by split_ifs at above <;> omega
  all_goals
    simp only [bandLow]
    split_ifs at above <;> omega

/-- A falling band stops at the first one that the temperature is not 2 °C below, and never below the one that the
temperature gives. -/
theorem bandFall_spec (t : Int) (old : Nat) : bandFall t old ≤ old ∧ (bandRaw t ≤ old → bandRaw t ≤ bandFall t old) ∧
    (0 < bandFall t old → bandLow (bandFall t old) - 128 < t) ∧
    (bandFall t old < old → t ≤ bandLow (bandFall t old + 1) - 128) := by
  induction old with
  | zero => exact ⟨Nat.le_refl 0, id, fun some_ => absurd some_ (Nat.lt_irrefl 0), fun below => absurd below (Nat.not_lt_zero _)⟩
  | succ b ih =>
    obtain ⟨atMost, atLeast, stops, falls⟩ := ih
    rw [bandFall]
    split_ifs with cold
    · have below : bandRaw t ≤ b := by
        by_contra above
        have warm := bandLow_bandRaw_le (t := t) (b := b + 1) (by omega) (by omega)
        omega
      refine ⟨by omega, fun _ => atLeast below, stops, fun _ => ?_⟩
      rcases Nat.lt_or_eq_of_le atMost with fell | same
      · exact falls fell
      · rwa [same]
    · exact ⟨Nat.le_refl _, id, fun _ => by omega, fun below => absurd below (Nat.lt_irrefl _)⟩

/-- The band after a temperature (R474). -/
theorem bandNext_spec (old : Nat) (t : Int) : (old ≤ bandRaw t → bandNext old t = bandRaw t) ∧
    (bandRaw t < old → bandRaw t ≤ bandNext old t ∧ bandNext old t ≤ old ∧
      (bandRaw t < bandNext old t → bandLow (bandNext old t) - 128 < t) ∧
      (bandNext old t < old → t ≤ bandLow (bandNext old t + 1) - 128)) := by
  refine ⟨fun rises => if_pos rises, fun falls => ?_⟩
  rw [bandNext, if_neg (Nat.not_le_of_lt falls)]
  obtain ⟨atMost, atLeast, stops, fell⟩ := bandFall_spec t old
  exact ⟨atLeast falls.le, atMost, fun above => stops (by omega), fell⟩

/-- The band that a reading in 1/16 °C gives. -/
theorem bandRaw_reading (c : Int) :
    bandRaw (4 * c) = if 90 * 16 ≤ c then 3 else if 70 * 16 ≤ c then 2 else if 40 * 16 ≤ c then 1 else 0 := by
  unfold bandRaw
  split_ifs <;> omega

/-- A stack's band follows its one sensor. -/
theorem bands_hkPublish_stack {d : Dev} {n : Nat} (small : n < 24) (good : hkBroken d (168 + n) = false) (v : BitVec 16) :
    Sparse.get 0 (hkPublish d (168 + n) v.toNat).pow.bands (42 + n) =
      bandNext (Sparse.get 0 d.pow.bands (42 + n)) (4 * signed 16 v.toNat) := by
  have temperature : hkKind (168 + n) = 0 := if_pos (by omega)
  have used : hkKind (168 + n) ≠ 15 := by rw [temperature]; decide
  have bears : bandsOf (168 + n) = [42 + n] := by
    rw [bandsOf, if_neg (by omega), if_neg (by omega), if_pos (by omega), Nat.add_sub_cancel_left]
  have slots : govSlots (bandGov (42 + n)) = [168 + n] := by
    rw [bandGov, if_neg (by omega), if_neg (by omega), ite_self, govSlots, if_neg (by omega), if_neg (by omega),
      if_neg (by omega), if_pos (by omega)]
    exact congrArg (fun k => [k]) (by omega)
  obtain ⟨shown, isShown⟩ := exists_eq' (a' := d.readingShown (168 + n) v.toNat)
  have value : hkVal shown (168 + n) = signed 16 v.toNat := by
    rw [hkVal, ← isShown, fget_readingShown_value, Nat.mod_eq_of_lt v.isLt]
  have valid : hkValid shown (168 + n) = true := isShown ▸ hkValid_readingShown ..
  have whole : hkBroken shown (168 + n) = false := isShown ▸ (hkBroken_readingShown ..).trans good
  have temp : govTemp shown (bandGov (42 + n)) = some (4 * signed 16 v.toNat) := by
    have stack : ¬ (118 ≤ bandGov (42 + n) ∧ bandGov (42 + n) < 134) := by unfold bandGov; split_ifs <;> omega
    simp [govTemp, slots, valid, value, stack, maxInt]
  have kept : govLost shown (bandGov (42 + n)) = false := by simp [govLost, slots, whole]
  have band := setBand_of_temp temp (b := bandNext (Sparse.get 0 shown.pow.bands (42 + n)) (4 * signed 16 v.toNat))
    (by rw [kept, if_neg Bool.false_ne_true])
  rw [if_neg (by omega)] at band
  rw [hkPublish_eq used, hkShown_of_good (fun _ => good), bears, isShown, List.foldl_cons, List.foldl_nil, band,
    Dev.meanTaken, if_neg (by omega), Dev.cmSensed, temperature, if_neg (by decide)]
  have same : shown.pow = d.pow := by rw [← isShown]; rfl
  exact (Sparse.get_set_same ..).trans (by rw [same])

end Sys2Proof.Machine
end

section
/-!
SUPPORT. HK_SLOT: what a conversion that ends leaves (R476, R479).
-/
namespace Sys2Proof.Machine

/-- The device after a triggered conversion is answered. -/
def Dev.resultShown (d : Dev) (i v : Nat) : Dev :=
  fset (fset (fset d Reg.THM_HK_RES [] Fld.THM_HK_RES_valid 1) Reg.THM_HK_RES [] Fld.THM_HK_RES_slot i)
    Reg.THM_HK_RES [] Fld.THM_HK_RES_value v

/-- The device when the trigger that waited runs. -/
def Dev.triggerTaken (d : Dev) : Dev := { d with pow := { d.pow with trigRun := d.pow.trigPend, trigPend := none } }

/-- The device when the slot in progress has moved on from one. -/
def Dev.slotMoved (d : Dev) (i : Nat) : Dev := { d with pow := { d.pow with hkSlot := (i + 1) % 1024, roundDone := i == 1023 } }

theorem resultShown_hkKeeps (d : Dev) (i v : Nat) : HkKeeps d (d.resultShown i v) :=
  ((HkKeeps.fset d not_hkKey_res _ _).trans (HkKeeps.fset _ not_hkKey_res _ _)).trans (HkKeeps.fset _ not_hkKey_res _ _)

theorem showTrig_hkKeeps (d : Dev) : HkKeeps d (showTrig d) :=
  (HkKeeps.fset d not_hkKey_res _ _).trans (HkKeeps.fset _ not_hkKey_res _ _)

/-- Showing the triggers keeps the result. -/
theorem fget_showTrig {d : Dev} {f : Fld} (inWord : f.hi < 32) (apart : f.hi < 28 ∨ 29 < f.lo) :
    fget (showTrig d) Reg.THM_HK_RES [] f = fget d Reg.THM_HK_RES [] f := by
  rw [showTrig, fget_fset_field _ _ _ _ _ _ (by decide) inWord (by simp only [Fld.THM_HK_RES_pending]; omega),
    fget_fset_field _ _ _ _ _ _ (by decide) inWord (by simp only [Fld.THM_HK_RES_busy]; omega)]

theorem fget_resultShown (d : Dev) (i v : Nat) :
    fget (d.resultShown i v) Reg.THM_HK_RES [] Fld.THM_HK_RES_valid = 1 ∧
    fget (d.resultShown i v) Reg.THM_HK_RES [] Fld.THM_HK_RES_slot = i % 2 ^ 10 ∧
    fget (d.resultShown i v) Reg.THM_HK_RES [] Fld.THM_HK_RES_value = v % 2 ^ 16 := by
  refine ⟨?_, ?_, fget_fset_same _ _ _ _ _ (by decide) (by decide)⟩
  · rw [Dev.resultShown, fget_fset_field _ _ _ _ _ _ (by decide) (by decide) (by decide),
      fget_fset_field _ _ _ _ _ _ (by decide) (by decide) (by decide), fget_fset_same _ _ _ _ _ (by decide) (by decide)]
    rfl
  · rw [Dev.resultShown, fget_fset_field _ _ _ _ _ _ (by decide) (by decide) (by decide),
      fget_fset_same _ _ _ _ _ (by decide) (by decide)]
    rfl

theorem roundEnd_of_not_done {d : Dev} (running : d.pow.roundDone = false) : roundEnd d = d := by
  rw [roundEnd, running, if_neg Bool.false_ne_true]

section
variable {s : State} (v : BitVec 16)

/-- A conversion that was asked for is published and answered, and the next one that was asked for runs. -/
theorem exec_hkSlot_triggered {i : Nat} (asked : s.dev.pow.trigRun = some i) : exec (.hkSlot v) s =
    .next (s.settle (showTrig ((hkPublish s.dev.rest i v.toNat).resultShown i v.toNat).triggerTaken)) := by
  have runs : s.dev.rest.pow.trigRun = some i := asked
  change execHkSlot v s = _
  refine run_settle ?_
  simp only [runs]
  rfl

/-- The slot in progress is published, and the next one begins. -/
theorem exec_hkSlot_scanned (idle : s.dev.pow.trigRun = none) (running : s.dev.pow.roundDone = false) : exec (.hkSlot v) s =
    .next (s.settle (showTrig
      ((hkPublish s.dev.rest s.dev.pow.hkSlot v.toNat).slotMoved s.dev.pow.hkSlot).triggerTaken)) := by
  have runs : s.dev.rest.pow.trigRun = none := idle
  change execHkSlot v s = _
  refine run_settle ?_
  simp only [runs, roundEnd_of_not_done (d := s.dev.rest) running]
  rfl

end

/-- What a published reading leaves: the reading in its register, and every other reading. -/
theorem hkPublish_leaves {d : Dev} {i : Nat} (small : i < 1024) (good : i < 262 → hkBroken d i = false) (v : BitVec 16) :
    (hkKind i = 15 → ∀ k, k < 1024 → rdReg (hkPublish d i v.toNat) Reg.THM_HK_CH [k] = rdReg d Reg.THM_HK_CH [k]) ∧
    (hkKind i ≠ 15 → fget (hkPublish d i v.toNat) Reg.THM_HK_CH [i] Fld.THM_HK_CH_value = v.toNat ∧
      hkValid (hkPublish d i v.toNat) i = true ∧
      ∀ k, k < 1024 → k ≠ i → rdReg (hkPublish d i v.toNat) Reg.THM_HK_CH [k] = rdReg d Reg.THM_HK_CH [k]) := by
  refine ⟨fun reserved k _ => by rw [hkPublish_reserved reserved], fun used => ?_⟩
  have keeps := hkPublish_keeps used d v.toNat
  rw [hkShown_of_good good] at keeps
  refine ⟨?_, ?_, fun k near other => ?_⟩
  · rw [keeps.fget (hkKey_ch small), fget_readingShown_value, Nat.mod_eq_of_lt v.isLt]
  · rw [keeps.hkValid small, hkValid_readingShown]
  · rw [keeps.rdReg (hkKey_ch near), rdReg_readingShown_other _ _ _ (hkCh_key_ne other)]

theorem hkPublish_counts (d : Dev) (i v : Nat) : (hkPublish d i v).wq = d.wq ∧
    (hkPublish d i v).pow.hkSlot = d.pow.hkSlot ∧ (hkPublish d i v).pow.trigPend = d.pow.trigPend := by
  by_cases reserved : hkKind i = 15
  · rw [hkPublish_reserved reserved]
    exact ⟨rfl, rfl, rfl⟩
  · have keeps := hkPublish_keeps reserved d v
    exact ⟨keeps.wq, keeps.slot, keeps.trigPend⟩

end Sys2Proof.Machine
end

section
/-!
SUPPORT. The end of a round: sensors that are declared broken, and what else its events write (R481, R482).
-/
namespace Sys2Proof.Machine

theorem storeWrite_hkKeeps (d : Dev) (rec : List Byte) : HkKeeps d (storeWrite d rec) := by
  have outside : ¬ hkKey (Reg.FLT_STORE.key []) := by simp only [hkKey, RegDesc.key, dimOffset, Reg.FLT_STORE]; omega
  have stored : HkKeeps d { d with store := Sparse.set [] d.store (fget d Reg.FLT_STORE [] Fld.FLT_STORE_next) rec } :=
    ⟨fun _ _ => rfl, rfl, rfl, rfl, rfl, rfl⟩
  unfold storeWrite
  dsimp only
  split
  · exact stored.trans (HkKeeps.fset _ outside _ _)
  · exact (stored.trans (HkKeeps.fset _ outside _ _)).trans (HkKeeps.fset _ outside _ _)

theorem thermalRecord_hkKeeps (d : Dev) (slot temp kind : Nat) : HkKeeps d (thermalRecord d slot temp kind) :=
  storeWrite_hkKeeps ..

theorem setSteps_hkKeeps (d : Dev) (q n : Nat) : HkKeeps d (setSteps d q n) := by
  unfold setSteps
  split
  · exact HkKeeps.fset d (by simp only [hkKey, RegDesc.key, dimOffset, Reg.THM_PART_STAT]; omega) _ _
  · exact HkKeeps.fset d (by simp only [hkKey, RegDesc.key, dimOffset, Reg.THM_PKG_STAT]; omega) _ _

/-- The device with other temperatures that raised a count. -/
def Dev.withRaised (d : Dev) (q : Nat) (us : List Nat) : Dev :=
  { d with pow := { d.pow with raised := Sparse.set [] d.pow.raised q us } }

/-- The device when a count holds until a time. -/
def Dev.countHeld (d : Dev) (q t : Nat) : Dev := { d with pow := { d.pow with hold := Sparse.set 0 d.pow.hold q t } }

/-- Raising a count sets it, and notes what raised it. -/
theorem raiseSteps_eq (d : Dev) (q n : Nat) (why : List Nat) :
    ∃ us, raiseSteps d q n why = (setSteps d q (min 32 (stepCount d q + n))).withRaised q us := ⟨_, rfl⟩

/-- The device when a rate-of-rise event has raised a count, which then holds for 1 s. -/
def Dev.raisedByRise (d : Dev) (us : List Nat) (q : Nat) : Dev :=
  (raiseSteps d q 4 (us.filter (fun u => (riseScope d u).contains q))).countHeld q
    ((raiseSteps d q 4 (us.filter (fun u => (riseScope d u).contains q))).tb + 1000000000)

theorem withRaised_hkKeeps (d : Dev) (q : Nat) (us : List Nat) : HkKeeps d (d.withRaised q us) :=
  ⟨fun _ _ => rfl, rfl, rfl, rfl, rfl, rfl⟩

theorem countHeld_hkKeeps (d : Dev) (q t : Nat) : HkKeeps d (d.countHeld q t) := ⟨fun _ _ => rfl, rfl, rfl, rfl, rfl, rfl⟩

/-- The device when a rate-of-rise event is recorded. -/
def Dev.riseRecorded (d : Dev) (u : Nat) : Dev :=
  report (thermalRecord d (govSlot d u) (hkCode d (govSlot d u)) 3)
    { source := 0x1A, unit := hkUnit (govSlot (thermalRecord d (govSlot d u) (hkCode d (govSlot d u)) 3) u),
      sub := govSlot (thermalRecord d (govSlot d u) (hkCode d (govSlot d u)) 3) u }

/-- The temperatures that have risen too fast. -/
def risen (d : Dev) : List Nat := (List.range 140).filter (roseFast d)

/-- The counts that their events raise. -/
def risenCounts (d : Dev) : List Nat := (List.range 17).filter (fun q => (risen d).any (fun u => (riseScope d u).contains q))

theorem rateOfRise_eq (d : Dev) : rateOfRise d =
    (List.range 140).foldl (fun d' u => keepTemp d' u ((risen d).contains u))
      ((risen d).foldl (fun d' u => d'.riseRecorded u) ((risenCounts d).foldl (fun d' q => d'.raisedByRise (risen d) q) d)) := by
  simp only [rateOfRise, Dev.raisedByRise, Dev.countHeld, Dev.riseRecorded, risenCounts, risen]

theorem keepTemp_hkKeeps (d : Dev) (u : Nat) (event : Bool) : HkKeeps d (keepTemp d u event) := by
  unfold keepTemp
  split
  · exact ⟨fun _ _ => rfl, rfl, rfl, rfl, rfl, rfl⟩
  · exact HkKeeps.refl d

theorem raisedByRise_hkKeeps (d : Dev) (us : List Nat) (q : Nat) : HkKeeps d (d.raisedByRise us q) := by
  obtain ⟨why, raises⟩ := raiseSteps_eq d q 4 (us.filter (fun u => (riseScope d u).contains q))
  rw [Dev.raisedByRise, raises]
  exact ((setSteps_hkKeeps ..).trans (withRaised_hkKeeps ..)).trans (countHeld_hkKeeps ..)

theorem rateOfRise_hkKeeps (d : Dev) : HkKeeps d (rateOfRise d) := by
  rw [rateOfRise_eq]
  exact ((HkKeeps.foldl (fun q _ d => raisedByRise_hkKeeps d _ q) _).trans
    (HkKeeps.foldl (fun u _ d => (thermalRecord_hkKeeps d ..).trans (report_hkKeeps ..)) _)).trans
      (HkKeeps.foldl (fun u _ d => keepTemp_hkKeeps d u _) _)

/-- The device when a sensor shows broken, counted and recorded. -/
def Dev.shownBroken (d : Dev) (i : Nat) : Dev :=
  fincSat (fset d Reg.THM_HK_CH [i] Fld.THM_HK_CH_broken 1) Reg.THM_HK_STAT [] Fld.THM_HK_STAT_broken 1

theorem hkBroken_shownBroken (d : Dev) (i k : Nat) :
    hkBroken (d.shownBroken i) k = true ↔ hkBroken d k = true ∨ k = i := by
  unfold hkBroken fbit Dev.shownBroken fincSat
  rw [fget_fset_other _ _ _ _ _ _ _ _ (hkStat_key_ne_ch k).symm]
  rcases eq_or_ne k i with rfl | other
  · rw [fget_fset_same _ _ _ _ _ (by decide) (by decide)]
    exact iff_of_true rfl (.inr rfl)
  · rw [fget_fset_other _ _ _ _ _ _ _ _ (hkCh_key_ne other)]
    simp [other]

theorem rounds_shownBroken (d : Dev) (i : Nat) :
    fget (d.shownBroken i) Reg.THM_HK_STAT [] Fld.THM_HK_STAT_rounds = fget d Reg.THM_HK_STAT [] Fld.THM_HK_STAT_rounds := by
  rw [Dev.shownBroken, fincSat, fget_fset_field _ _ _ _ _ _ (by decide) (by decide) (by decide),
    fget_fset_other _ _ _ _ _ _ _ _ (hkStat_key_ne_ch i)]

/-- What declaring sensors broken leaves: the sensors broken, the others as they were, rounds and memory. -/
structure Breaks (is : List Nat) (d d' : Dev) : Prop where
  broken : ∀ k, k < 1024 → (hkBroken d' k = true ↔ hkBroken d k = true ∨ k ∈ is)
  rounds : fget d' Reg.THM_HK_STAT [] Fld.THM_HK_STAT_rounds = fget d Reg.THM_HK_STAT [] Fld.THM_HK_STAT_rounds
  wq : d'.wq = d.wq
  done : d'.pow.roundDone = d.pow.roundDone

theorem Breaks.refl (d : Dev) : Breaks [] d d := ⟨fun k _ => by simp, rfl, rfl, rfl⟩

theorem Breaks.append {is js : List Nat} {a b c : Dev} (first : Breaks is a b) (next : Breaks js b c) : Breaks (is ++ js) a c :=
  ⟨fun k near => by rw [next.broken k near, first.broken k near, List.mem_append, or_assoc], next.rounds.trans first.rounds,
    next.wq.trans first.wq, next.done.trans first.done⟩

theorem HkKeeps.breaks {d d' : Dev} (keeps : HkKeeps d d') : Breaks [] d d' :=
  ⟨fun k near => by rw [keeps.hkBroken near]; simp, keeps.fget hkKey_stat _, keeps.wq, keeps.done⟩

/-- A sensor that is declared broken (R481). -/
theorem breakSensor_breaks {i : Nat} (temperature : i < 262) (d : Dev) : Breaks [i] d (breakSensor d i) := by
  have used : hkKind i ≠ 15 := by rw [hkKind, if_pos temperature]; decide
  have shown : Breaks [i] d (d.shownBroken i) :=
    ⟨fun k _ => by rw [hkBroken_shownBroken, List.mem_singleton], rounds_shownBroken d i, rfl, rfl⟩
  have noted (r : Report) (temp : Nat) : Breaks [] (d.shownBroken i) (thermalRecord (report (d.shownBroken i) r) i temp 4) :=
    ((report_hkKeeps _ r).trans (thermalRecord_hkKeeps ..)).breaks
  have read (d : Dev) (v : Nat) : Breaks [] d (d.readingShown i v) :=
    ⟨fun k _ => by rw [hkBroken_readingShown]; simp, by rw [fget, rdReg_readingShown_other _ _ _ (hkStat_key_ne_ch i)]; rfl,
      rfl, rfl⟩
  exact ((shown.append (noted _ _)).append (read _ _)).append (hkPublish_keeps used _ _).breaks

theorem breakSensors_breaks {is : List Nat} (temperature : ∀ i ∈ is, i < 262) (d : Dev) :
    Breaks is d (is.foldl breakSensor d) := by
  induction is generalizing d with
  | nil => exact Breaks.refl d
  | cons i is ih =>
    obtain ⟨first, rest⟩ := List.forall_mem_cons.mp temperature
    exact (breakSensor_breaks first d).append (ih rest _)

/-- The sensors that miss their cross-check a third time in succession. -/
def thirdMisses (d : Dev) : List Nat :=
  (List.range 262).filter (fun i => !(hkBroken d i) && crossMiss d i && decide (2 ≤ Sparse.get 0 d.pow.offs i))

/-- The sensors that have missed it less often, with their counts. -/
def fewMisses (d : Dev) : Sparse.Map Nat :=
  (((List.range 262).filter (fun i => !(hkBroken d i) && crossMiss d i)).map
    (fun i => (i, Sparse.get 0 d.pow.offs i + 1))).filter (fun x => x.2 < 3)

/-- The device with other counts of missed cross-checks. -/
def Dev.withMisses (d : Dev) (m : Sparse.Map Nat) : Dev := { d with pow := { d.pow with offs := m } }

/-- The cross-check of a round breaks the sensors that miss it a third time in succession. -/
theorem crossCheck_eq (d : Dev) : crossCheck d = (thirdMisses d).foldl breakSensor (d.withMisses (fewMisses d)) := by
  have third : thirdMisses d = ((((List.range 262).filter (fun i => !(hkBroken d i) && crossMiss d i)).map
      (fun i => (i, Sparse.get 0 d.pow.offs i + 1))).filter (fun x => decide (3 ≤ x.2))).map Prod.fst := by
    rw [List.filter_map, List.map_map, List.filter_filter, thirdMisses]
    refine (congrArg (List.filter · _) (funext fun i => ?_)).trans (List.map_id _).symm
    simp [Bool.and_comm]
  rw [third, List.foldl_map]
  rfl

theorem crossCheck_breaks (d : Dev) : Breaks (thirdMisses d) d (crossCheck d) := by
  rw [crossCheck_eq]
  have kept : Breaks [] d (d.withMisses (fewMisses d)) := ⟨fun k _ => by simp; rfl, rfl, rfl, rfl⟩
  have temperature (i : Nat) (listed : i ∈ thirdMisses d) : i < 262 := List.mem_range.mp (List.mem_filter.mp listed).1
  exact kept.append (breakSensors_breaks temperature _)

/-- The device when a round has been counted. -/
def Dev.roundCounted (d : Dev) : Dev :=
  fincWrap { d with pow := { d.pow with roundDone := false } } Reg.THM_HK_STAT [] Fld.THM_HK_STAT_rounds 1

theorem roundEnd_of_done {d : Dev} (due : d.pow.roundDone = true) : roundEnd d = rateOfRise (crossCheck d.roundCounted) := if_pos due

theorem fget_roundCounted {r : RegDesc} {ix : List Nat} (other : r.key ix ≠ Reg.THM_HK_STAT.key []) (d : Dev) (f : Fld) :
    fget d.roundCounted r ix f = fget d r ix f := fget_fset_other _ _ _ _ _ _ _ _ other

theorem rounds_roundCounted (d : Dev) : fget d.roundCounted Reg.THM_HK_STAT [] Fld.THM_HK_STAT_rounds =
    (fget d Reg.THM_HK_STAT [] Fld.THM_HK_STAT_rounds + 1) % 2 ^ 24 :=
  (fget_fset_same _ _ _ _ _ (by decide) (by decide)).trans (Nat.mod_mod _ _)

section
variable (d : Dev)

theorem hkBroken_roundCounted (i : Nat) : hkBroken d.roundCounted i = hkBroken d i := by
  rw [hkBroken, fbit, fget_roundCounted (hkStat_key_ne_ch i).symm, hkBroken, fbit]

theorem hkValid_roundCounted (i : Nat) : hkValid d.roundCounted i = hkValid d i := by
  rw [hkValid, fbit, fget_roundCounted (hkStat_key_ne_ch i).symm, hkValid, fbit]

theorem hkVal_roundCounted (i : Nat) : hkVal d.roundCounted i = hkVal d i := by
  rw [hkVal, fget_roundCounted (hkStat_key_ne_ch i).symm, hkVal]

theorem crossMiss_roundCounted (i : Nat) : crossMiss d.roundCounted i = crossMiss d i := by
  have neighbours_ : goodNeighbours d.roundCounted i = goodNeighbours d i := by
    simp only [goodNeighbours, hkValid_roundCounted, hkBroken_roundCounted]
  have values : hkVal d.roundCounted = hkVal d := funext (hkVal_roundCounted d)
  have limit := fget_roundCounted (r := Reg.THM_TH_CFG) (ix := []) (by decide) d Fld.THM_TH_CFG_xchk
  simp only [crossMiss, hkValid_roundCounted, neighbours_, values, limit]

/-- The sensors that a round's end breaks. -/
theorem mem_thirdMisses_roundCounted {i : Nat} : i ∈ thirdMisses d.roundCounted ↔
    i < 262 ∧ hkBroken d i = false ∧ crossMiss d i = true ∧ 2 ≤ Sparse.get 0 d.pow.offs i := by
  have offs : d.roundCounted.pow.offs = d.pow.offs := rfl
  simp [thirdMisses, hkBroken_roundCounted, crossMiss_roundCounted, offs, and_assoc]

/-- The end of a round that is due: counted, and third misses break (R481). -/
theorem roundEnd_leaves (due : d.pow.roundDone = true) : (roundEnd d).wq = d.wq ∧ (roundEnd d).pow.roundDone = false ∧
    fget (roundEnd d) Reg.THM_HK_STAT [] Fld.THM_HK_STAT_rounds =
      (fget d Reg.THM_HK_STAT [] Fld.THM_HK_STAT_rounds + 1) % 2 ^ 24 ∧
    ∀ i, i < 262 → (hkBroken (roundEnd d) i = true ↔
      hkBroken d i = true ∨ (crossMiss d i = true ∧ 2 ≤ Sparse.get 0 d.pow.offs i)) := by
  rw [roundEnd_of_done due]
  obtain ⟨broken, rounds, wq, done⟩ := (crossCheck_breaks d.roundCounted).append (rateOfRise_hkKeeps _).breaks
  refine ⟨wq, done, rounds.trans (rounds_roundCounted d), fun i small => ?_⟩
  rw [broken i (by omega), List.append_nil, mem_thirdMisses_roundCounted, hkBroken_roundCounted]
  cases hkBroken d i <;> simp [small]

end

end Sys2Proof.Machine
end

section
/-!
SUPPORT. The counts that rate-of-rise events raise, and their holds (R482, R483).
-/
namespace Sys2Proof.Machine

/-- What writes no step count. -/
theorem stepCount_fset_other {d : Dev} {r : RegDesc} {ix : List Nat} (part : ∀ q, Reg.THM_PART_STAT.key [q] ≠ r.key ix)
    (pkg : Reg.THM_PKG_STAT.key [] ≠ r.key ix) (f : Fld) (v q : Nat) : stepCount (fset d r ix f v) q = stepCount d q := by
  unfold stepCount
  rw [fget_fset_other _ _ _ _ _ _ _ _ (part q), fget_fset_other _ _ _ _ _ _ _ _ pkg]

/-- A count that is set reads as set, and the others as before. -/
theorem stepCount_setSteps (d : Dev) {q k : Nat} (small : q < 17) (near : k < 17) {n : Nat} (few : n ≤ 32) :
    stepCount (setSteps d q n) k = if k = q then n else stepCount d k := by
  have fits : n % 2 ^ 6 = n := Nat.mod_eq_of_lt (by omega)
  have apart (q : Nat) : Reg.THM_PKG_STAT.key [] ≠ Reg.THM_PART_STAT.key [q] := by
    simp only [RegDesc.key, dimOffset, Reg.THM_PART_STAT, Reg.THM_PKG_STAT]
    omega
  unfold stepCount setSteps
  by_cases part : q < 16
  · rw [if_pos part]
    rcases eq_or_ne k q with rfl | other
    · rw [if_pos part, if_pos rfl, fget_fset_same _ _ _ _ _ (by decide) (by decide)]
      exact fits
    · have keys : Reg.THM_PART_STAT.key [k] ≠ Reg.THM_PART_STAT.key [q] := by
        simp only [RegDesc.key, dimOffset, Reg.THM_PART_STAT]
        omega
      rw [fget_fset_other _ _ _ _ _ _ _ _ keys, fget_fset_other _ _ _ _ _ _ _ _ (apart q), if_neg other]
  · rw [if_neg part]
    by_cases isPart : k < 16
    · rw [if_pos isPart, fget_fset_other _ _ _ _ _ _ _ _ (apart k).symm, if_neg (by omega), if_pos isPart]
    · rw [if_neg isPart, if_pos (by omega), fget_fset_same _ _ _ _ _ (by decide) (by decide)]
      exact fits

/-- A count that a rate-of-rise event raises rises by four and holds for 1 s; the others stay. -/
theorem raisedByRise_spec (d : Dev) (us : List Nat) {q k : Nat} (small : q < 17) (near : k < 17) :
    stepCount (d.raisedByRise us q) k = (if k = q then min 32 (stepCount d q + 4) else stepCount d k) ∧
    Sparse.get 0 (d.raisedByRise us q).pow.hold k = if k = q then d.tb + 1000000000 else Sparse.get 0 d.pow.hold k := by
  obtain ⟨why, raises⟩ := raiseSteps_eq d q 4 (us.filter (fun u => (riseScope d u).contains q))
  have time (n : Nat) : ((setSteps d q n).withRaised q why).tb = d.tb := by rw [Dev.withRaised, setSteps]; split <;> rfl
  have holds (n : Nat) : ((setSteps d q n).withRaised q why).pow.hold = d.pow.hold := by
    rw [Dev.withRaised, setSteps]; split <;> rfl
  have counts (a : Dev) (t : Nat) : stepCount (a.countHeld q t) k = stepCount a k := rfl
  have names (a : Dev) : stepCount (a.withRaised q why) k = stepCount a k := rfl
  have keeps (a : Dev) (t : Nat) : (a.countHeld q t).pow.hold = Sparse.set 0 a.pow.hold q t := rfl
  rw [Dev.raisedByRise, raises, time, counts, names, keeps, holds]
  refine ⟨stepCount_setSteps d small near (Nat.min_le_left ..), ?_⟩
  rcases eq_or_ne k q with rfl | other
  · rw [Sparse.get_set_same, if_pos rfl]
  · rw [Sparse.get_set_other _ _ _ _ other, if_neg other]

theorem raisedByRise_tb (d : Dev) (us : List Nat) (q : Nat) : (d.raisedByRise us q).tb = d.tb := by
  obtain ⟨why, raises⟩ := raiseSteps_eq d q 4 (us.filter (fun u => (riseScope d u).contains q))
  rw [Dev.raisedByRise, raises]
  unfold setSteps
  split <;> rfl

/-- A list of different counts is raised, each once. -/
theorem raiseCounts_spec (us : List Nat) {qs : List Nat} (nodup : qs.Nodup) (small : ∀ q ∈ qs, q < 17) (d : Dev) {k : Nat}
    (near : k < 17) :
    stepCount (qs.foldl (fun d' q => d'.raisedByRise us q) d) k =
      (if k ∈ qs then min 32 (stepCount d k + 4) else stepCount d k) ∧
    Sparse.get 0 (qs.foldl (fun d' q => d'.raisedByRise us q) d).pow.hold k =
      if k ∈ qs then d.tb + 1000000000 else Sparse.get 0 d.pow.hold k := by
  induction qs generalizing d with
  | nil => exact ⟨rfl, rfl⟩
  | cons q qs ih =>
    obtain ⟨fresh, distinct⟩ := List.nodup_cons.mp nodup
    obtain ⟨first, rest⟩ := List.forall_mem_cons.mp small
    obtain ⟨count, hold⟩ := raisedByRise_spec d us first near
    obtain ⟨counts, holds⟩ := ih distinct rest (d.raisedByRise us q)
    rw [List.foldl_cons, counts, holds, count, hold, raisedByRise_tb]
    rcases eq_or_ne k q with rfl | other
    · simp [fresh]
    · simp [other]

/-- What keeps the step counts and their holds. -/
structure StepsKept (d d' : Dev) : Prop where
  counts : ∀ q, stepCount d' q = stepCount d q
  hold : d'.pow.hold = d.pow.hold

theorem StepsKept.refl (d : Dev) : StepsKept d d := ⟨fun _ => rfl, rfl⟩

theorem StepsKept.trans {a b c : Dev} (first : StepsKept a b) (next : StepsKept b c) : StepsKept a c :=
  ⟨fun q => (next.counts q).trans (first.counts q), next.hold.trans first.hold⟩

theorem StepsKept.foldl {α : Type} {f : Dev → α → Dev} (each : ∀ x d, StepsKept d (f d x)) (xs : List α) (d : Dev) :
    StepsKept d (xs.foldl f d) :=
  List.foldlRecOn (motive := StepsKept d) xs f (StepsKept.refl d) fun d kept x _ => kept.trans (each x d)

theorem storeWrite_stepsKept (d : Dev) (rec : List Byte) : StepsKept d (storeWrite d rec) := by
  have part (q : Nat) : Reg.THM_PART_STAT.key [q] ≠ Reg.FLT_STORE.key [] := by
    simp only [RegDesc.key, dimOffset, Reg.THM_PART_STAT, Reg.FLT_STORE]
    omega
  have other (a : Dev) (f : Fld) (v : Nat) : StepsKept a (fset a Reg.FLT_STORE [] f v) :=
    ⟨stepCount_fset_other part (by decide) f v, rfl⟩
  have stored : StepsKept d { d with store := Sparse.set [] d.store (fget d Reg.FLT_STORE [] Fld.FLT_STORE_next) rec } :=
    ⟨fun _ => rfl, rfl⟩
  unfold storeWrite
  dsimp only
  split
  · exact stored.trans (other ..)
  · exact (stored.trans (other ..)).trans (other ..)

theorem riseRecorded_stepsKept (d : Dev) (u : Nat) : StepsKept d (d.riseRecorded u) := by
  have recorded : StepsKept d (thermalRecord d (govSlot d u) (hkCode d (govSlot d u)) 3) := storeWrite_stepsKept ..
  exact ⟨recorded.counts, recorded.hold⟩

theorem keepTemp_stepsKept (d : Dev) (u : Nat) (event : Bool) : StepsKept d (keepTemp d u event) := by
  unfold keepTemp
  split
  · exact ⟨fun _ => rfl, rfl⟩
  · exact StepsKept.refl d

/-- The events of a round raise each count that one of them names, once (R482). -/
theorem rateOfRise_spec (d : Dev) {q : Nat} (small : q < 17) :
    stepCount (rateOfRise d) q = (if q ∈ risenCounts d then min 32 (stepCount d q + 4) else stepCount d q) ∧
    Sparse.get 0 (rateOfRise d).pow.hold q = if q ∈ risenCounts d then d.tb + 1000000000 else Sparse.get 0 d.pow.hold q := by
  have below (k : Nat) (listed : k ∈ risenCounts d) : k < 17 := List.mem_range.mp (List.mem_filter.mp listed).1
  obtain ⟨counts, hold⟩ := raiseCounts_spec (risen d) (qs := risenCounts d) (List.nodup_range.filter _) below d small
  have kept := (StepsKept.foldl (f := fun d' u => d'.riseRecorded u) (fun u d => riseRecorded_stepsKept d u) (risen d)
    ((risenCounts d).foldl (fun d' q => d'.raisedByRise (risen d) q) d)).trans
      (StepsKept.foldl (fun u a => keepTemp_stepsKept a u ((risen d).contains u)) (List.range 140) _)
  rw [rateOfRise_eq, kept.counts, kept.hold]
  exact ⟨counts, hold⟩

theorem mem_risenCounts {d : Dev} {q : Nat} (small : q < 17) :
    q ∈ risenCounts d ↔ ∃ u, u < 140 ∧ roseFast d u = true ∧ q ∈ riseScope d u := by
  simp [risenCounts, risen, small]

/-- The device whose round is counted and in which no sensor is to be broken. -/
theorem crossCheck_of_no_misses {d : Dev} (good : ∀ i, i < 262 → crossMiss d i = true → hkBroken d i = true) :
    crossCheck d.roundCounted = d.roundCounted.withMisses (fewMisses d.roundCounted) := by
  have none_ : thirdMisses d.roundCounted = [] := by
    refine List.eq_nil_iff_forall_not_mem.mpr fun i listed => ?_
    obtain ⟨small, whole, misses, -⟩ := (mem_thirdMisses_roundCounted d).mp listed
    exact Bool.false_ne_true (whole.symm.trans (good i small misses))
  rw [crossCheck_eq, none_]
  rfl

section
variable (d : Dev)

theorem stepCount_roundCounted (q : Nat) : stepCount d.roundCounted q = stepCount d q := by
  have part (q : Nat) : Reg.THM_PART_STAT.key [q] ≠ Reg.THM_HK_STAT.key [] := by
    simp only [RegDesc.key, dimOffset, Reg.THM_PART_STAT, Reg.THM_HK_STAT]
    omega
  exact stepCount_fset_other (d := { d with pow := { d.pow with roundDone := false } }) part (by decide) _ _ q

theorem govTemp_roundCounted (u : Nat) : govTemp d.roundCounted u = govTemp d u := by
  have valid : hkValid d.roundCounted = hkValid d := funext (hkValid_roundCounted d)
  have values : hkVal d.roundCounted = hkVal d := funext (hkVal_roundCounted d)
  simp only [govTemp, valid, values]

theorem roseFast_roundCounted (u : Nat) : roseFast d.roundCounted u = roseFast d u := by
  have hist : d.roundCounted.pow.hist = d.pow.hist := rfl
  have limit := fget_roundCounted (r := Reg.THM_TH_CFG) (ix := []) (by decide) d Fld.THM_TH_CFG_ror_dt
  simp only [roseFast, govTemp_roundCounted, hist, limit]

theorem partOn_roundCounted (q : Nat) : partOn d.roundCounted q = partOn d q := by
  have other : Reg.HUB_PART_CTL.key [q] ≠ Reg.THM_HK_STAT.key [] := by
    simp only [RegDesc.key, dimOffset, Reg.HUB_PART_CTL, Reg.THM_HK_STAT]
    omega
  simp only [partOn, partEnabled, fbit, fget_roundCounted other]

theorem partOfCore_roundCounted (c : Nat) : partOfCore d.roundCounted c = partOfCore d c := by
  have other (q : Nat) : Reg.HUB_PART_CORES.key [q] ≠ Reg.THM_HK_STAT.key [] := by
    simp only [RegDesc.key, dimOffset, Reg.HUB_PART_CORES, Reg.THM_HK_STAT]
    omega
  simp only [partOfCore, partOn_roundCounted, fget_roundCounted (other _)]

theorem siteOfCore_roundCounted {c : Nat} (small : c < 32) : siteOfCore d.roundCounted c = siteOfCore d c := by
  have other : Reg.HUB_CORE_MAP.key [c] ≠ Reg.THM_HK_STAT.key [] := by
    simp only [RegDesc.key, dimOffset, Reg.HUB_CORE_MAP, Reg.THM_HK_STAT]
    omega
  rw [siteOfCore, siteOfCore, fbit, fbit, fget_roundCounted other, fget_roundCounted other]

theorem partSites_roundCounted (q : Nat) : partSites d.roundCounted q = partSites d q := by
  simp only [partSites, partOfCore_roundCounted]
  exact List.filterMap_congr fun c listed =>
    siteOfCore_roundCounted d (List.mem_range.mp (List.mem_filter.mp listed).1)

theorem riseScope_roundCounted (u : Nat) : riseScope d.roundCounted u = riseScope d u := by
  have on : partOn d.roundCounted = partOn d := funext (partOn_roundCounted d)
  simp only [riseScope, partsOverBase, partsOn, on, partSites_roundCounted]

/-- The end of a round in which no sensor misses raises the counts that rate-of-rise events name. -/
theorem roundEnd_raises (due : d.pow.roundDone = true)
    (good : ∀ i, i < 262 → crossMiss d i = true → hkBroken d i = true) {q : Nat} (small : q < 17) :
    ((∃ u, u < 140 ∧ roseFast d u = true ∧ q ∈ riseScope d u) →
      stepCount (roundEnd d) q = min 32 (stepCount d q + 4) ∧ Sparse.get 0 (roundEnd d).pow.hold q = d.tb + 1000000000) ∧
    (¬ (∃ u, u < 140 ∧ roseFast d u = true ∧ q ∈ riseScope d u) →
      stepCount (roundEnd d) q = stepCount d q ∧ Sparse.get 0 (roundEnd d).pow.hold q = Sparse.get 0 d.pow.hold q) := by
  obtain ⟨m, misses⟩ := exists_eq' (a' := fewMisses d.roundCounted)
  obtain ⟨counts, hold⟩ := rateOfRise_spec (d.roundCounted.withMisses m) small
  have named : q ∈ risenCounts (d.roundCounted.withMisses m) ↔ ∃ u, u < 140 ∧ roseFast d u = true ∧ q ∈ riseScope d u := by
    have rose (u : Nat) : roseFast (d.roundCounted.withMisses m) u = roseFast d.roundCounted u := rfl
    have scope (u : Nat) : riseScope (d.roundCounted.withMisses m) u = riseScope d.roundCounted u := rfl
    simp only [mem_risenCounts small, rose, scope, roseFast_roundCounted, riseScope_roundCounted]
  have count : stepCount (d.roundCounted.withMisses m) q = stepCount d q := stepCount_roundCounted d q
  have was : (d.roundCounted.withMisses m).pow.hold = d.pow.hold := rfl
  have time : (d.roundCounted.withMisses m).tb = d.tb := rfl
  rw [count] at counts
  rw [was, time] at hold
  rw [roundEnd_of_done due, crossCheck_of_no_misses good, misses, counts, hold]
  constructor
  · intro hit
    rw [if_pos (named.mpr hit), if_pos (named.mpr hit)]
    exact ⟨rfl, rfl⟩
  · intro missed
    rw [if_neg (mt named.mp missed), if_neg (mt named.mp missed)]
    exact ⟨rfl, rfl⟩

end

end Sys2Proof.Machine
end

section
/-!
SETTLED. Housekeeping and the time base (R252, R474, R476, R478-R482, R491, R492).
-/
namespace Sys2Proof.Machine

/-- What HK_SLOT leaves, however its conversion was begun: the device after the publication, but for the counts of slots
and triggers and what THM_HK_RES shows. -/
theorem exec_hkSlot (s : State) (v : BitVec 16) (running : s.dev.pow.roundDone = false) {i : Nat}
    (slot : s.dev.pow.trigRun.getD s.dev.pow.hkSlot = i) :
    ∃ d, exec (.hkSlot v) s = .next (s.settle d) ∧ d.pow.trigRun = s.dev.pow.trigPend ∧ d.pow.trigPend = none ∧
      d.wq = [] ∧ d.pow.bands = (hkPublish s.dev.rest i v.toNat).pow.bands ∧
      (∀ k, hkKey k → Sparse.find d.regs k = Sparse.find (hkPublish s.dev.rest i v.toNat).regs k) ∧
      (s.dev.pow.trigRun = none → d.pow.hkSlot = (i + 1) % 1024 ∧ d.pow.roundDone = (i == 1023)) ∧
      (s.dev.pow.trigRun ≠ none → d.pow.hkSlot = s.dev.pow.hkSlot ∧
        fget d Reg.THM_HK_RES [] Fld.THM_HK_RES_valid = 1 ∧ fget d Reg.THM_HK_RES [] Fld.THM_HK_RES_slot = i % 2 ^ 10 ∧
        fget d Reg.THM_HK_RES [] Fld.THM_HK_RES_value = v.toNat) := by
  obtain ⟨wq, place, pend⟩ := hkPublish_counts s.dev.rest i v.toNat
  obtain ⟨d, published⟩ := exists_eq' (a' := hkPublish s.dev.rest i v.toNat)
  cases asked : s.dev.pow.trigRun with
  | none =>
    obtain rfl : s.dev.pow.hkSlot = i := by rwa [asked] at slot
    have next := exec_hkSlot_scanned v asked running
    rw [published] at next wq pend ⊢
    exact ⟨_, next, pend, rfl, wq, rfl, (showTrig_hkKeeps _).regs, fun _ => ⟨rfl, rfl⟩,
      fun some_ => absurd rfl some_⟩
  | some j =>
    obtain rfl : j = i := by rwa [asked] at slot
    have next := exec_hkSlot_triggered v asked
    rw [published] at next wq place pend ⊢
    obtain ⟨valid, at_, value⟩ := fget_resultShown d j v.toNat
    refine ⟨_, next, pend, rfl, wq, rfl, fun k listed => ?_, fun none_ => (Option.some_ne_none _ none_).elim,
      fun _ => ⟨place, (fget_showTrig (by decide) (by decide)).trans valid,
        (fget_showTrig (by decide) (by decide)).trans at_,
        (fget_showTrig (by decide) (by decide)).trans (value.trans (Nat.mod_eq_of_lt v.isLt))⟩⟩
    exact ((showTrig_hkKeeps _).regs k listed).trans ((resultShown_hkKeeps _ _ _).regs k listed)

/-- HK_ROUND_END before a round is due changes nothing. -/
theorem exec_hkRoundEnd_of_not_done {s : State} (running : s.dev.pow.roundDone = false) :
    exec .hkRoundEnd s = .next { s with dev := s.dev.rest } := by
  change execHkRoundEnd s = .next (s.settle s.dev.rest)
  exact run_settle (roundEnd_of_not_done (d := s.dev.rest) running)

theorem exec_hkRoundEnd (s : State) : exec .hkRoundEnd s = .next (s.settle (roundEnd s.dev.rest)) := by
  change execHkRoundEnd s = _
  exact run_settle rfl

section
variable {s : State} {p : Path} (notPort : pathPort p = none)
include notPort

theorem thmWrites_of_no_port : thmWrites p = true := by rw [thmWrites, notPort]; rfl

theorem exec_hkTrig (slot : Fin 1024) : exec (.hkTrig p slot) s = .next (s.settle
    (hkTrigger (fset s.dev.rest Reg.THM_HK_CTL [] Fld.THM_HK_CTL_slot slot.val) slot.val)) := by
  change execHkTrig p slot s = _
  refine run_settle ?_
  rw [portHalted_of_no_port notPort, if_neg Bool.false_ne_true, if_pos (thmWrites_of_no_port notPort)]

theorem exec_hkSync : exec (.hkSync p) s = .next (s.settle (hkRestart s.dev.rest)) := by
  change execHkSync p s = _
  refine run_settle ?_
  rw [portHalted_of_no_port notPort, if_neg Bool.false_ne_true, if_pos (thmWrites_of_no_port notPort)]

theorem exec_thmTbCtlSet : exec (.thmTbCtlSet p) s = .next (s.settle (tbSet s.dev.rest p)) := by
  change execThmTbCtlSet p s = _
  refine run_settle ?_
  rw [portHalted_of_no_port notPort, if_neg Bool.false_ne_true, if_pos (thmWrites_of_no_port notPort)]

end

/-- The device when a conversion has been asked for. -/
def Dev.conversionAsked (d : Dev) (slot : Nat) : Dev := { d with pow := { d.pow with trigPend := some slot } }

theorem fbit_showTrig_pending {d : Dev} {slot : Nat} (asked : d.pow.trigPend = some slot) :
    fbit (showTrig d) Reg.THM_HK_RES [] Fld.THM_HK_RES_pending = true := by
  rw [fbit, showTrig, fget_fset_same _ _ _ _ _ (by decide) (by decide), fset_pow, asked]
  rfl

theorem hkTrigger_free {d : Dev} (free : d.pow.trigPend = none) (slot : Nat) :
    hkTrigger d slot = showTrig (d.conversionAsked slot) := by
  rw [hkTrigger, free]
  rfl

theorem hkTrigger_pending {d : Dev} (pending : d.pow.trigPend ≠ none) (slot : Nat) :
    hkTrigger d slot = fset d Reg.THM_HK_RES [] Fld.THM_HK_RES_trig_ovr 1 :=
  if_pos (Option.isSome_iff_ne_none.mpr pending)

/-- A request for a conversion is pending, or an overrun is noted where one was (R479). -/
theorem hkTrigger_spec (d : Dev) (slot : Nat) : (hkTrigger d slot).wq = d.wq ∧ (hkTrigger d slot).reports = d.reports ∧
    (hkTrigger d slot).pow.trigRun = d.pow.trigRun ∧
    (d.pow.trigPend = none → (hkTrigger d slot).pow.trigPend = some slot ∧
      fbit (hkTrigger d slot) Reg.THM_HK_RES [] Fld.THM_HK_RES_pending = true) ∧
    (d.pow.trigPend ≠ none → (hkTrigger d slot).pow = d.pow ∧
      fbit (hkTrigger d slot) Reg.THM_HK_RES [] Fld.THM_HK_RES_trig_ovr = true) := by
  by_cases free : d.pow.trigPend = none
  · rw [hkTrigger_free free]
    exact ⟨rfl, rfl, rfl, fun _ => ⟨rfl, fbit_showTrig_pending rfl⟩, fun some_ => absurd free some_⟩
  · rw [hkTrigger_pending free]
    exact ⟨rfl, rfl, rfl, fun none_ => absurd none_ free,
      fun _ => ⟨rfl, beq_iff_eq.mpr (fget_fset_same _ _ _ _ _ (by decide) (by decide))⟩⟩

/-- HK_TRIG asks for a conversion, or notes an overrun (R479). -/
theorem hkTrig_asks (s : State) {p : Path} (notPort : pathPort p = none) (slot : Fin 1024) :
    ∃ t, exec (.hkTrig p slot) s = .next t ∧ t.mem = s.mem ∧ t.dev.reports = s.dev.reports ∧
      t.dev.pow.trigRun = s.dev.pow.trigRun ∧
      (s.dev.pow.trigPend = none → t.dev.pow.trigPend = some slot.val ∧
        fbit t.dev Reg.THM_HK_RES [] Fld.THM_HK_RES_pending = true) ∧
      (s.dev.pow.trigPend ≠ none → t.dev.pow = s.dev.pow ∧ fbit t.dev Reg.THM_HK_RES [] Fld.THM_HK_RES_trig_ovr = true) := by
  obtain ⟨wq, rest⟩ := hkTrigger_spec (fset s.dev.rest Reg.THM_HK_CTL [] Fld.THM_HK_CTL_slot slot.val) slot.val
  exact ⟨_, exec_hkTrig notPort slot, settle_mem_of_quiet s wq, rest⟩

/-- THM_TB_CTL.set steps the time base where no fabric keeps it, and is discarded elsewhere (R491, R492). -/
theorem thmTbCtlSet_steps (s : State) {p : Path} (notPort : pathPort p = none) :
    ∃ t, exec (.thmTbCtlSet p) s = .next t ∧ t.mem = s.mem ∧
      (fabState s.dev = 0 ∨ fabState s.dev = 3 →
        t.dev.tb = (rdReg s.dev Reg.THM_TB_SET_LO []).toNat + 2 ^ 32 * (rdReg s.dev Reg.THM_TB_SET_HI []).toNat ∧
        fbit t.dev Reg.FAB_TB [] Fld.FAB_TB_stepped = true ∧ t.dev.reports = s.dev.reports) ∧
      (¬ (fabState s.dev = 0 ∨ fabState s.dev = 3) → t.dev.tb = s.dev.tb ∧ t.dev.regs = s.dev.regs ∧
        t.dev.reports.length = s.dev.reports.length + 1) := by
  have next := exec_thmTbCtlSet (s := s) notPort
  by_cases alone : fabState s.dev = 0 ∨ fabState s.dev = 3
  · have steps : tbSet s.dev.rest p = _ := if_pos alone
    rw [steps] at next
    refine ⟨_, next, settle_mem_of_quiet s rfl, fun _ => ⟨?_, ?_, rfl⟩, fun kept => absurd alone kept⟩
    · change pair64 (rdReg (fset s.dev.rest _ _ _ _) _ _) (rdReg (fset s.dev.rest _ _ _ _) _ _) = _
      rw [rdReg_fset_other _ _ _ _ _ _ _ (by decide), rdReg_fset_other _ _ _ _ _ _ _ (by decide), pair64, Nat.add_comm,
        Nat.mul_comm]
      rfl
    · exact beq_iff_eq.mpr (fget_fset_same _ _ _ _ _ (by decide) (by decide))
  · have discards : tbSet s.dev.rest p = regEvent s.dev.rest p (Reg.THM_TB_CTL.key []) := if_neg alone
    rw [discards] at next
    exact ⟨_, next, settle_mem_of_quiet s rfl, fun moves => absurd moves alone, fun _ => ⟨rfl, rfl, List.length_append⟩⟩

theorem exec_hbmRefresh (s : State) (n : Fin 24) : exec (.hbmRefresh n) s = .next (s.settle
    (fset s.dev.rest Reg.PKM_HBM_STAT [n.val / 4, n.val % 4] Fld.PKM_HBM_STAT_band (Sparse.get 0 s.dev.pow.bands (42 + n.val)))) := by
  change execHbmRefresh n s = _
  exact run_settle rfl

/-- The device when the reference shows present or not, and holdover or not. -/
def Dev.referenceShown (d : Dev) (present holdover : Nat) : Dev :=
  fset (fset d Reg.THM_TB_CFG [] Fld.THM_TB_CFG_present present) Reg.THM_TB_CFG [] Fld.THM_TB_CFG_holdover holdover

theorem exec_tbclkReturn (s : State) : exec .tbclkReturn s = .next (s.settle (s.dev.rest.referenceShown 1 0)) := by
  change execTbclkReturn s = _
  exact run_settle rfl

theorem exec_tbclkLoss {s : State} (present : fbit s.dev Reg.THM_TB_CFG [] Fld.THM_TB_CFG_present = true) :
    exec .tbclkLoss s = .next (s.settle (s.dev.rest.referenceShown 0 1)) := by
  change execTbclkLoss s = _
  exact run_settle (if_pos present)

theorem exec_tbclkLoss_absent {s : State} (absent : fbit s.dev Reg.THM_TB_CFG [] Fld.THM_TB_CFG_present = false) :
    exec .tbclkLoss s = .next { s with dev := s.dev.rest } := by
  change execTbclkLoss s = .next (s.settle s.dev.rest)
  exact run_settle (if_neg (Bool.not_eq_true _ ▸ absent))

/-- What THM_TB_CFG shows of the reference. -/
theorem referenceShown_spec (d : Dev) (present holdover : Bool) :
    fbit (d.referenceShown (bit present) (bit holdover)) Reg.THM_TB_CFG [] Fld.THM_TB_CFG_present = present ∧
    fbit (d.referenceShown (bit present) (bit holdover)) Reg.THM_TB_CFG [] Fld.THM_TB_CFG_holdover = holdover ∧
    keepsRegs d (d.referenceShown (bit present) (bit holdover)) [Reg.THM_TB_CFG.key []] := by
  refine ⟨?_, ?_, keepsRegs_trans (keepsRegs_fset _ _ _ _ _) (keepsRegs_fset _ _ _ _ _)⟩
  · rw [fbit, Dev.referenceShown, fget_fset_field _ _ _ _ _ _ (by decide) (by decide) (by decide),
      fget_fset_same _ _ _ _ _ (by decide) (by decide)]
    cases present <;> rfl
  · rw [fbit, Dev.referenceShown, fget_fset_same _ _ _ _ _ (by decide) (by decide)]
    cases holdover <;> rfl

/-- Settles O50: publication keeps what it does not name, and the end of a round is a fold of its sensors and counts. -/
theorem housekeepingAndTimeBase : Obligations.HousekeepingAndTimeBase := by
  unfold Obligations.HousekeepingAndTimeBase
  refine ⟨?_, ?_, ?_, ?_, ?_⟩
  · intro s v running _ i small good
    obtain ⟨d, next, run, pend, wq, bands, regs, scanned, triggered⟩ := exec_hkSlot s v running (i := i) rfl
    obtain ⟨reserved, shown⟩ := hkPublish_leaves (d := s.dev.rest) small (by exact good) v
    have word {k : Nat} (near : k < 1024) :
        rdReg d Reg.THM_HK_CH [k] = rdReg (hkPublish s.dev.rest i v.toNat) Reg.THM_HK_CH [k] := by
      unfold rdReg Sparse.get
      rw [regs _ (hkKey_ch near)]
    refine ⟨_, next, fun _ => settle_mem_of_quiet s wq, run, pend, scanned, fun asked => ?_, fun unused k near => ?_,
      fun used => ?_, ?_⟩
    · obtain ⟨slot, valid, at_, value⟩ := triggered asked
      exact ⟨slot, beq_iff_eq.mpr valid, at_.trans (Nat.mod_eq_of_lt small), value⟩
    · exact (word near).trans (reserved unused k near)
    · obtain ⟨value, valid, others⟩ := shown used
      refine ⟨(congrArg _ (word small)).trans value, (congrArg (fun w => Fld.THM_HK_CH_valid.get w == 1) (word small)).trans valid,
        fun k near other => (word near).trans (others k near other)⟩
    · intro n stack place old new c16 raw _
      have follows : new = bandNext old (4 * c16) := by
        refine (congrArg (fun m => Sparse.get 0 m (42 + n)) bands).trans ?_
        rw [place]
        exact bands_hkPublish_stack (d := s.dev.rest) stack (place ▸ good (by omega)) v
      have given : raw = bandRaw (4 * c16) := (bandRaw_reading c16).symm
      rw [follows, given]
      exact bandNext_spec old (4 * c16)
  · intro s
    refine ⟨exec_hkRoundEnd_of_not_done, fun due => ?_⟩
    obtain ⟨wq, done, rounds, broken⟩ := roundEnd_leaves s.dev.rest due
    exact ⟨_, exec_hkRoundEnd s, settle_mem_of_quiet s wq, done, rounds, broken,
      fun good q small => roundEnd_raises s.dev.rest due good small⟩
  · intro s p slot notPort
    exact ⟨hkTrig_asks s notPort slot, ⟨_, exec_hkSync notPort, settle_mem_of_quiet s rfl, rfl, rfl⟩,
      thmTbCtlSet_steps s notPort⟩
  · intro s n small ix
    exact ⟨_, exec_hbmRefresh s n, settle_mem_of_quiet s rfl, keepsRegs_fset s.dev _ _ _ _,
      (fget_fset_same _ _ _ _ _ (by decide) (by decide)).trans (Nat.mod_eq_of_lt small)⟩
  · intro s present holdover
    refine ⟨fun was => ?_, exec_tbclkLoss_absent, ?_⟩
    · obtain ⟨gone, held, keeps⟩ := referenceShown_spec s.dev.rest false true
      exact ⟨_, exec_tbclkLoss was, settle_mem_of_quiet s rfl, gone, held, keeps, rfl⟩
    · obtain ⟨back, ended, keeps⟩ := referenceShown_spec s.dev.rest true false
      exact ⟨_, exec_tbclkReturn s, settle_mem_of_quiet s rfl, back, ended, keeps⟩

end Sys2Proof.Machine
end

section
/-!
SUPPORT. The ends of bundles (R18-R20, R278, R289): each end's far end, the block of its registers, and its hidden state.
-/
namespace Sys2Proof.Machine

/-! ### Topology -/

theorem farEnd_farEnd_hub : ∀ j : Fin 4, (farEnd (.hub j)).bind farEnd = some (.hub j) := by decide

theorem farEnd_farEnd_base : ∀ (m : Fin 6) (j : Fin 26), (farEnd (.base m j)).isSome = true →
    (farEnd (.base m j)).bind farEnd = some (.base m j) := by decide +kernel

theorem farEnd_farEnd_le : ∀ (k : Fin 16) (j : Fin 3), (farEnd (.le k j)).bind farEnd = some (.le k j) := by
  decide +kernel

/-- A bundle has two ends, each the far end of the other. -/
theorem farEnd_symm {x y : BundleEnd} (far : farEnd x = some y) : farEnd y = some x := by
  have back : (farEnd x).bind farEnd = some x := by
    cases x with
    | hub j => exact farEnd_farEnd_hub j
    | base m j => exact farEnd_farEnd_base m j (by rw [far]; rfl)
    | le k j => exact farEnd_farEnd_le k j
    | guest g => cases far
  rwa [far] at back

theorem farEnd_ne_self_base : ∀ (m : Fin 6) (j : Fin 26), farEnd (.base m j) ≠ some (.base m j) := by decide +kernel

/-- The far end is another end. -/
theorem ne_of_farEnd {x y : BundleEnd} (far : farEnd x = some y) : x ≠ y := by
  rintro rfl
  cases x with
  | hub j => cases far
  | base m j => exact farEnd_ne_self_base m j far
  | le k j => cases far
  | guest g => cases far

theorem hasFei_of_farEnd {x y : BundleEnd} (far : farEnd x = some y) : hasFei x = true := by
  cases x with
  | guest g => cases far
  | _ => simp [hasFei, far]

/-- The two ends of a bundle, in one order or the other. -/
theorem bundleEnds_of_farEnd {x y : BundleEnd} (far : farEnd x = some y) :
    bundleEnds x = [x, y] ∨ bundleEnds x = [y, x] := by
  unfold bundleEnds
  rw [far]
  cases endLeads x
  · exact .inr rfl
  · exact .inl rfl

/-! ### The registers of an end -/

/-- The address of the first bundle of a die type, and the strides of its bundles. -/
def endFirst : BundleEnd → Nat × List (Nat × Nat)
  | .base _ _ => (0x880000, [(0x100000, 6), (0x100, 26)])
  | .le _ _ => (0x2080000, [(0x100000, 16), (0x100, 3)])
  | _ => (0x3000, [(0x100, 4)])

/-- The offset of a register group within the registers of an end. -/
def groupOffset (i : Nat) : Nat := if i = 7 then 0x40 else 4 * i

/-- The registers of an end stand at one offset on the three dies (R289). -/
theorem feiDesc_layout (x : BundleEnd) : ∀ i < 8, (feiDesc x i).base = (endFirst x).1 + groupOffset i ∧
    (feiDesc x i).dims = (endFirst x).2 ++ if i = 7 then [(4, 10)] else [] := by
  cases x with
  | hub j => exact (by decide : ∀ i < 8, (feiDesc (.hub 0) i).base = 0x3000 + groupOffset i ∧
      (feiDesc (.hub 0) i).dims = [(0x100, 4)] ++ if i = 7 then [(4, 10)] else [])
  | base m j => exact (by decide : ∀ i < 8, (feiDesc (.base 0 0) i).base = 0x880000 + groupOffset i ∧
      (feiDesc (.base 0 0) i).dims = [(0x100000, 6), (0x100, 26)] ++ if i = 7 then [(4, 10)] else [])
  | le k j => exact (by decide : ∀ i < 8, (feiDesc (.le 0 0) i).base = 0x2080000 + groupOffset i ∧
      (feiDesc (.le 0 0) i).dims = [(0x100000, 16), (0x100, 3)] ++ if i = 7 then [(4, 10)] else [])
  | guest g => exact (by decide : ∀ i < 8, (feiDesc (.guest 0) i).base = 0x3000 + groupOffset i ∧
      (feiDesc (.guest 0) i).dims = [(0x100, 4)] ++ if i = 7 then [(4, 10)] else [])

/-- The number of the 256-byte block that holds an end's registers. -/
def endBlock : BundleEnd → Nat
  | .hub j => 0x30 + j.val
  | .base m j => 0x8800 + 0x1000 * m.val + j.val
  | .le k j => 0x20800 + 0x1000 * k.val + j.val
  | .guest _ => 0

theorem endBlock_injective {x y : BundleEnd} (has : hasFei x = true) (same : endBlock x = endBlock y) : x = y := by
  cases x with
  | guest g => cases has
  | hub j =>
    cases y <;> simp only [endBlock] at same
    case hub i => rw [Fin.ext (by omega : j.val = i.val)]
    all_goals omega
  | base m j =>
    cases y <;> simp only [endBlock] at same
    case base n i => rw [Fin.ext (by omega : m.val = n.val), Fin.ext (by omega : j.val = i.val)]
    all_goals omega
  | le k j =>
    cases y <;> simp only [endBlock] at same
    case le n i => rw [Fin.ext (by omega : k.val = n.val), Fin.ext (by omega : j.val = i.val)]
    all_goals omega

/-- The key of a register group of an end; of a class's credits (index `c`), the place after it. -/
theorem feiDesc_key {x : BundleEnd} (has : hasFei x = true) {i : Nat} (group : i < 8) (ix : List Nat) :
    (feiDesc x i).key (feiIx x ++ ix) =
      256 * endBlock x + groupOffset i + dimOffset (if i = 7 then [(4, 10)] else []) ix := by
  obtain ⟨base, dims⟩ := feiDesc_layout x i group
  rw [RegDesc.key, base, dims]
  cases x with
  | guest g => cases has
  | _ =>
    simp only [endFirst, feiIx, List.cons_append, List.nil_append, dimOffset, endBlock]
    omega

/-- The registers of an end lie in its block. -/
theorem feiDesc_key_block {x : BundleEnd} (has : hasFei x = true) {i : Nat} (group : i < 8) :
    (feiDesc x i).key (feiIx x) / 256 = endBlock x := by
  have key := feiDesc_key has group []
  rw [List.append_nil] at key
  rw [key, groupOffset]
  split <;> simp [dimOffset] <;> omega

/-- So do the credits of its classes. -/
theorem creditKey_block {x : BundleEnd} (has : hasFei x = true) {c : Nat} (cls : c < 16) :
    (feiDesc x 7).key (feiIx x ++ [c]) / 256 = endBlock x := by
  rw [feiDesc_key has (by decide), groupOffset]
  simp [dimOffset]
  omega

theorem feiDesc_key_ne {x : BundleEnd} (has : hasFei x = true) {i j : Nat} (gi : i < 8) (gj : j < 8) (other : j ≠ i)
    (ix jx : List Nat) : (feiDesc x j).key (feiIx x ++ jx) ≠ (feiDesc x i).key (feiIx x ++ ix) := by
  have place (k : Nat) (l : List Nat) :
      k = 7 ∧ 64 ≤ groupOffset k + dimOffset (if k = 7 then [(4, 10)] else []) l ∨
      k ≠ 7 ∧ groupOffset k + dimOffset (if k = 7 then [(4, 10)] else []) l = 4 * k := by
    by_cases last : k = 7
    · exact .inl ⟨last, by simp [groupOffset, last]⟩
    · exact .inr ⟨last, by simp [groupOffset, last, dimOffset]⟩
  have hi := place i ix
  have hj := place j jx
  rw [feiDesc_key has gi, feiDesc_key has gj]
  omega

/-- The keys of the ends of bundles are apart. -/
theorem endKey_injective {x y : BundleEnd} (same : endKey x = endKey y) : x = y := by
  cases x with
  | hub j =>
    cases y <;> simp only [endKey] at same
    case hub i => rw [Fin.ext same]
    all_goals omega
  | base m j =>
    cases y <;> simp only [endKey] at same
    case base n i => rw [Fin.ext (by omega : m.val = n.val), Fin.ext (by omega : j.val = i.val)]
    all_goals omega
  | le k j =>
    cases y <;> simp only [endKey] at same
    case le n i => rw [Fin.ext (by omega : k.val = n.val), Fin.ext (by omega : j.val = i.val)]
    all_goals omega
  | guest g =>
    cases y <;> simp only [endKey] at same
    case guest i => rw [Fin.ext (by omega : g.val = i.val)]
    all_goals omega

/-! ### Reading an end after a change -/

@[simp] theorem fei_rest (d : Dev) (x : BundleEnd) : fei d.rest x = fei d x := rfl
@[simp] theorem feiGet_rest (d : Dev) (x : BundleEnd) (i : Nat) (f : Fld) : feiGet d.rest x i f = feiGet d x i f := rfl
@[simp] theorem feiState_rest (d : Dev) (x : BundleEnd) : feiState d.rest x = feiState d x := by cases x <;> rfl

@[simp] theorem fei_setFei_same (d : Dev) (x : BundleEnd) (v : Fei) : fei (setFei d x v) x = v := Sparse.get_set_same ..

theorem fei_setFei_other (d : Dev) {x y : BundleEnd} (other : y ≠ x) (v : Fei) : fei (setFei d x v) y = fei d y :=
  Sparse.get_set_other _ _ _ _ fun same => other (endKey_injective same)

theorem feiState_eq (d : Dev) {x : BundleEnd} (has : hasFei x = true) :
    feiState d x = feiGet d x 1 Fld.HUB_FEI_STAT_state := by
  cases x with
  | guest g => cases has
  | _ =>
    unfold feiState
    dsimp only
    rw [if_pos has]

/-- Everything of an end is as it was: its hidden state and every register in its block. -/
def keepsEnd (d d' : Dev) (x : BundleEnd) : Prop :=
  fei d' x = fei d x ∧ ∀ k, k / 256 = endBlock x → Sparse.find d'.regs k = Sparse.find d.regs k

theorem keepsEnd_of_eq {d d' : Dev} (hidden : d'.fei = d.fei) (regs : d'.regs = d.regs) (x : BundleEnd) :
    keepsEnd d d' x := ⟨by rw [fei, hidden]; rfl, fun _ _ => by rw [regs]⟩

theorem keepsEnd.refl (d : Dev) (x : BundleEnd) : keepsEnd d d x := ⟨rfl, fun _ _ => rfl⟩

theorem keepsEnd.trans {a b c : Dev} {x : BundleEnd} (h : keepsEnd a b x) (k : keepsEnd b c x) : keepsEnd a c x :=
  ⟨k.1.trans h.1, fun i block => (k.2 i block).trans (h.2 i block)⟩

theorem keepsEnd_setFei (d : Dev) {x y : BundleEnd} (other : x ≠ y) (v : Fei) : keepsEnd d (setFei d y v) x :=
  ⟨fei_setFei_other d other v, fun _ _ => rfl⟩

/-- Writing a register outside an end's block keeps the end. -/
theorem keepsEnd_wrReg (d : Dev) {x : BundleEnd} {r : RegDesc} {ix : List Nat} (outside : r.key ix / 256 ≠ endBlock x)
    (w : Word) : keepsEnd d (wrReg d r ix w) x :=
  ⟨rfl, fun k block => keepsRegs_wrReg d r ix w k fun at_ => outside (List.mem_singleton.mp at_ ▸ block)⟩

section
variable {d d' : Dev} {x : BundleEnd} (keeps : keepsEnd d d' x) (has : hasFei x = true)
include keeps has

theorem keepsEnd.rdReg {i : Nat} (group : i < 8) : rdReg d' (feiDesc x i) (feiIx x) = rdReg d (feiDesc x i) (feiIx x) := by
  unfold Machine.rdReg Sparse.get
  rw [keeps.2 _ (feiDesc_key_block has group)]

theorem keepsEnd.feiGet {i : Nat} (group : i < 8) (f : Fld) : feiGet d' x i f = feiGet d x i f :=
  congrArg f.get (keeps.rdReg has group)

theorem keepsEnd.feiState : feiState d' x = feiState d x := by
  rw [feiState_eq _ has, feiState_eq _ has, keeps.feiGet has (by decide)]

theorem keepsEnd.exclOf (tx : Bool) : exclOf d' x tx = exclOf d x tx := by
  unfold Machine.exclOf
  rw [keeps.rdReg has (by split <;> decide)]

theorem keepsEnd.fusedExcl : fusedExcl d' x = fusedExcl d x := by
  unfold Machine.fusedExcl
  rw [keeps.rdReg has (by decide)]

theorem keepsEnd.fget_cred {c : Nat} (cls : c < 16) (f : Fld) :
    fget d' (feiDesc x 7) (feiIx x ++ [c]) f = fget d (feiDesc x 7) (feiIx x ++ [c]) f := by
  unfold fget Machine.rdReg Sparse.get
  rw [keeps.2 _ (creditKey_block has cls)]

theorem keepsEnd.feiCredit {c : Nat} (cls : c < 16) : feiCredit d' x c = feiCredit d x c := by
  unfold Machine.feiCredit
  rw [if_pos has, if_pos has, keeps.fget_cred has cls]

end

/-- A change of registers, of the hidden state of ends and of the count of free values taken, alone. -/
def feiOnly (d d' : Dev) : Prop := d' = { d with regs := d'.regs, fei := d'.fei, freeCtr := d'.freeCtr }

theorem feiOnly.refl (d : Dev) : feiOnly d d := rfl

theorem feiOnly.trans {a b c : Dev} (h : feiOnly a b) (k : feiOnly b c) : feiOnly a c := by
  unfold feiOnly at *
  rw [k, h]

theorem feiOnly.foldl {α : Type} {f : Dev → α → Dev} (each : ∀ d z, feiOnly d (f d z)) (zs : List α) (d : Dev) :
    feiOnly d (zs.foldl f d) := by
  induction zs generalizing d with
  | nil => exact .refl d
  | cons z zs ih => exact (each d z).trans (ih _)

section
variable {d d' : Dev} (only : feiOnly d d')
include only

theorem feiOnly.wq : d'.wq = d.wq := by rw [only]
theorem feiOnly.reports : d'.reports = d.reports := by rw [only]
theorem feiOnly.out : d'.out = d.out := by rw [only]
theorem feiOnly.tb : d'.tb = d.tb := by rw [only]
theorem feiOnly.mapAcks : d'.mapAcks = d.mapAcks := by rw [only]

end

theorem feiSet_feiOnly (d : Dev) (x : BundleEnd) (i : Nat) (f : Fld) (v : Nat) : feiOnly d (feiSet d x i f v) := by
  unfold feiSet
  split <;> rfl

@[simp] theorem fei_feiSet (d : Dev) (x y : BundleEnd) (i : Nat) (f : Fld) (v : Nat) : fei (feiSet d x i f v) y = fei d y := by
  unfold feiSet
  split <;> rfl

@[simp] theorem fei_setFeiState (d : Dev) (x y : BundleEnd) (st : Nat) : fei (setFeiState d x st) y = fei d y :=
  fei_feiSet ..

/-- A counter of an end is one of its fields. -/
theorem feiInc_eq (d : Dev) (x : BundleEnd) (i : Nat) (f : Fld) (n : Nat) :
    feiInc d x i f n = feiSet d x i f (min (feiGet d x i f + n) (2 ^ (f.hi + 1 - f.lo) - 1)) := rfl

@[simp] theorem fei_feiInc (d : Dev) (x y : BundleEnd) (i : Nat) (f : Fld) (n : Nat) : fei (feiInc d x i f n) y = fei d y :=
  fei_feiSet ..

/-- A change of one end: its registers and its hidden state; every other end is as it was. -/
structure ActsAt (d d' : Dev) (u : BundleEnd) : Prop where
  only : feiOnly d d'
  keeps : ∀ x, hasFei x = true → x ≠ u → keepsEnd d d' x

theorem ActsAt.refl (d : Dev) (u : BundleEnd) : ActsAt d d u := ⟨.refl d, fun x _ _ => .refl d x⟩

theorem ActsAt.trans {a b c : Dev} {u : BundleEnd} (h : ActsAt a b u) (k : ActsAt b c u) : ActsAt a c u :=
  ⟨h.only.trans k.only, fun x has other => (h.keeps x has other).trans (k.keeps x has other)⟩

theorem setFei_actsAt (d : Dev) (u : BundleEnd) (v : Fei) : ActsAt d (setFei d u v) u :=
  ⟨rfl, fun _ _ other => keepsEnd_setFei d other v⟩

theorem wrReg_actsAt (d : Dev) {u : BundleEnd} {r : RegDesc} {ix : List Nat} (within : r.key ix / 256 = endBlock u)
    (w : Word) : ActsAt d (wrReg d r ix w) u :=
  ⟨rfl, fun _ has other => keepsEnd_wrReg d (fun same => other (endBlock_injective has (same.symm.trans within))) w⟩

theorem feiSet_actsAt (d : Dev) (u : BundleEnd) {i : Nat} (group : i < 8) (f : Fld) (v : Nat) :
    ActsAt d (feiSet d u i f v) u := by
  unfold feiSet
  split
  next has => exact wrReg_actsAt d (feiDesc_key_block has group) _
  next => exact .refl d u

section
variable (d : Dev) {x : BundleEnd} (has : hasFei x = true)
include has

theorem feiSet_eq (i : Nat) (f : Fld) (v : Nat) : feiSet d x i f v = fset d (feiDesc x i) (feiIx x) f v := if_pos has

theorem feiGet_feiSet_same (i : Nat) {f : Fld} (ordered : f.lo ≤ f.hi) (inWord : f.hi < 32) (v : Nat) :
    feiGet (feiSet d x i f v) x i f = v % 2 ^ (f.hi + 1 - f.lo) := by
  rw [feiSet_eq d has]
  exact fget_fset_same _ _ _ _ _ ordered inWord

theorem feiGet_feiSet_field (i : Nat) {f g : Fld} (ordered : f.lo ≤ f.hi) (inWord : g.hi < 32) (apart : f.Apart g) (v : Nat) :
    feiGet (feiSet d x i f v) x i g = feiGet d x i g := by
  rw [feiSet_eq d has]
  exact fget_fset_field _ _ _ _ _ _ ordered inWord apart

theorem rdReg_feiSet_group {i j : Nat} (gi : i < 8) (gj : j < 8) (other : j ≠ i) (ix : List Nat) (f : Fld) (v : Nat) :
    rdReg (feiSet d x i f v) (feiDesc x j) (feiIx x ++ ix) = rdReg d (feiDesc x j) (feiIx x ++ ix) := by
  have apart := feiDesc_key_ne has gi gj other [] ix
  rw [List.append_nil] at apart
  rw [feiSet_eq d has]
  exact rdReg_fset_other _ _ _ _ _ _ _ apart

theorem feiGet_feiSet_group {i j : Nat} (gi : i < 8) (gj : j < 8) (other : j ≠ i) (f g : Fld) (v : Nat) :
    feiGet (feiSet d x i f v) x j g = feiGet d x j g := by
  have word := rdReg_feiSet_group d has gi gj other [] f v
  rw [List.append_nil] at word
  exact congrArg g.get word

theorem feiState_setFeiState {st : Nat} (small : st < 8) : feiState (setFeiState d x st) x = st := by
  rw [feiState_eq _ has]
  exact (feiGet_feiSet_same d has 1 (by decide) (by decide) st).trans (Nat.mod_eq_of_lt small)

/-- The training state stands above the other fields of FEI_STAT. -/
theorem feiState_feiSet_field {f : Fld} (ordered : f.lo ≤ f.hi) (below : f.hi < 29) (v : Nat) :
    feiState (feiSet d x 1 f v) x = feiState d x := by
  rw [feiState_eq _ has, feiState_eq _ has, feiGet_feiSet_field d has 1 ordered (by decide) (.inr below)]

theorem feiState_feiSet_group {i : Nat} (group : i < 8) (other : 1 ≠ i) (f : Fld) (v : Nat) :
    feiState (feiSet d x i f v) x = feiState d x := by
  rw [feiState_eq _ has, feiState_eq _ has, feiGet_feiSet_group d has group (by decide) other]

theorem feiGet_feiInc_same (i : Nat) {f : Fld} (ordered : f.lo ≤ f.hi) (inWord : f.hi < 32) (n : Nat) :
    feiGet (feiInc d x i f n) x i f = min (feiGet d x i f + n) (2 ^ (f.hi + 1 - f.lo) - 1) := by
  have := Nat.two_pow_pos (f.hi + 1 - f.lo)
  rw [feiInc_eq, feiGet_feiSet_same d has i ordered inWord]
  exact Nat.mod_eq_of_lt (by omega)

end

@[simp] theorem feiState_setFei (d : Dev) (u x : BundleEnd) (v : Fei) :
    feiState (setFei d u v) x = feiState d x := by cases x <;> rfl

@[simp] theorem feiGet_setFei (d : Dev) (u x : BundleEnd) (v : Fei) (i : Nat) (f : Fld) :
    feiGet (setFei d u v) x i f = feiGet d x i f := rfl

/-! ### Both ends of a bundle -/

/-- An action at each end of a bundle: at either end, it is the action there on a device that shows that end as it
was. -/
theorem bundle_foldl {F : Dev → BundleEnd → Dev} (acts : ∀ d u, ActsAt d (F d u) u) {x y : BundleEnd}
    (far : farEnd x = some y) (d : Dev) {z : BundleEnd} (end_ : z = x ∨ z = y) :
    ∃ dz, keepsEnd d dz z ∧ keepsEnd (F dz z) ((bundleEnds x).foldl F d) z := by
  have hx := hasFei_of_farEnd far
  have hy := hasFei_of_farEnd (farEnd_symm far)
  have ne := ne_of_farEnd far
  rcases end_ with rfl | rfl <;> rcases bundleEnds_of_farEnd far with order | order <;> rw [order]
  · exact ⟨d, .refl d z, (acts _ y).keeps z hx ne⟩
  · exact ⟨F d y, (acts d y).keeps z hx ne, .refl _ z⟩
  · exact ⟨F d x, (acts d x).keeps z hy ne.symm, .refl _ z⟩
  · exact ⟨d, .refl d z, (acts _ x).keeps z hy ne.symm⟩

/-- Every other end is as it was. -/
theorem bundle_foldl_other {F : Dev → BundleEnd → Dev} (acts : ∀ d u, ActsAt d (F d u) u) {x y z : BundleEnd}
    (far : farEnd x = some y) (d : Dev) (has : hasFei z = true) (nx : z ≠ x) (ny : z ≠ y) :
    keepsEnd d ((bundleEnds x).foldl F d) z := by
  rcases bundleEnds_of_farEnd far with order | order <;> rw [order]
  · exact ((acts d x).keeps z has nx).trans ((acts _ y).keeps z has ny)
  · exact ((acts d y).keeps z has ny).trans ((acts _ x).keeps z has nx)

end Sys2Proof.Machine
end

section
/-!
SUPPORT. The training of a bundle, state by state (R262-R266): what each step does at either end.
-/
namespace Sys2Proof.Machine

theorem all_bundleEnds {x y : BundleEnd} (far : farEnd x = some y) (p : BundleEnd → Bool) :
    (bundleEnds x).all p = (p x && p y) := by
  rcases bundleEnds_of_farEnd far with order | order <;> simp [order, Bool.and_comm]

theorem bundleEnds_ne_nil {x y : BundleEnd} (far : farEnd x = some y) : (bundleEnds x).isEmpty = false := by
  rcases bundleEnds_of_farEnd far with order | order <;> rw [order] <;> rfl

/-! ### A state given to both ends -/

theorem setFeiState_actsAt (st : Nat) (d : Dev) (u : BundleEnd) : ActsAt d (setFeiState d u st) u :=
  feiSet_actsAt d u (by decide) _ _

theorem foldl_fei {α : Type} {f : Dev → α → Dev} (each : ∀ d z, (f d z).fei = d.fei) (zs : List α) (d : Dev) :
    (zs.foldl f d).fei = d.fei := by
  induction zs generalizing d with
  | nil => rfl
  | cons z zs ih => exact (ih _).trans (each d z)

theorem setFeiState_fei (d : Dev) (u : BundleEnd) (st : Nat) : (setFeiState d u st).fei = d.fei := by
  unfold setFeiState feiSet
  split <;> rfl

section
variable {x y : BundleEnd} (far : farEnd x = some y)
include far

theorem hasFei_of_end {z : BundleEnd} (end_ : z = x ∨ z = y) : hasFei z = true := by
  rcases end_ with rfl | rfl
  · exact hasFei_of_farEnd far
  · exact hasFei_of_farEnd (farEnd_symm far)

/-- An action at each end of a bundle that puts the end in a state. -/
theorem bundle_enters {F : Dev → BundleEnd → Dev} (acts : ∀ d u, ActsAt d (F d u) u) {st : Nat}
    (enters : ∀ d u, hasFei u = true → feiState (F d u) u = st) (d : Dev) {z : BundleEnd} (end_ : z = x ∨ z = y) :
    feiState ((bundleEnds x).foldl F d) z = st := by
  obtain ⟨dz, -, after⟩ := bundle_foldl acts far d end_
  rw [after.feiState (hasFei_of_end far end_), enters dz z (hasFei_of_end far end_)]

end

/-! ### The steps of training -/

/-- The ends of a bundle are both in a state. -/
def BundleAt (d : Dev) (x y : BundleEnd) (st : Nat) : Prop := feiState d x = st ∧ feiState d y = st

/-- Both ends are in one state, as FEINO_TRAIN_ACK asks. -/
theorem bundleEnds_agree {d : Dev} {x y : BundleEnd} (far : farEnd x = some y) {st : Nat} (at_ : BundleAt d x y st) :
    (bundleEnds x).all (fun z => feiState d z == st) = true := by
  rw [all_bundleEnds far, at_.1, at_.2]
  simp

section
variable {s : State} {x y : BundleEnd} (far : farEnd x = some y) (here there : BitVec 68)
include far

/-- DETECT ends once 64 lanes are locked at both ends (R262). -/
theorem exec_feinoTrainAck_detect (at_ : BundleAt s.dev.rest x y 1) :
    exec (.feinoTrainAck x here there) s = .next (s.settle (if 64 ≤ ones 68 here.toNat ∧ 64 ≤ ones 68 there.toNat then
      (bundleEnds x).foldl (fun d z => setFeiState d z 2) s.dev.rest else s.dev.rest)) := by
  change execFeinoTrainAck x here there s = _
  refine run_settle ?_
  simp only [at_.1, bundleEnds_agree far at_, bundleEnds_ne_nil far, Bool.not_true, Bool.or_false, Bool.false_eq_true, if_false]

/-- EXCHANGE (R262, R265). -/
theorem exec_feinoTrainAck_exchange (at_ : BundleAt s.dev.rest x y 3) :
    exec (.feinoTrainAck x here there) s = .next (s.settle (exchange s.dev.rest x)) := by
  change execFeinoTrainAck x here there s = _
  refine run_settle ?_
  simp only [at_.1, bundleEnds_agree far at_, bundleEnds_ne_nil far, Bool.not_true, Bool.or_false, Bool.false_eq_true, if_false]

/-- ALIGN ends after eight good ALN slots at both ends (R262). -/
theorem exec_feinoTrainAck_align (at_ : BundleAt s.dev.rest x y 4) :
    exec (.feinoTrainAck x here there) s = .next (s.settle
      (if (decide (8 ≤ (fei s.dev x).alnGood) && decide (8 ≤ (fei s.dev y).alnGood)) = true then
        (bundleEnds x).foldl enterCredit s.dev.rest else s.dev.rest)) := by
  change execFeinoTrainAck x here there s = _
  refine run_settle ?_
  simp only [at_.1, bundleEnds_agree far at_, bundleEnds_ne_nil far, Bool.not_true, Bool.or_false, Bool.false_eq_true, if_false,
    all_bundleEnds far, fei_rest]
  rfl

/-- An end enters ACTIVE: what is unacknowledged is resent, and after a start its die announces itself (R262, R277). -/
def enterActive (d : Dev) (z : BundleEnd) : Dev :=
  let d' := setFeiState d z 6
  let f := fei d' z
  let d'' := setFei d' z { f with
    resend := f.replay.head?.map (·.seq), rawResend := f.rawReplay.head?.map (·.seq), progress := d'.tb, runtime := false }
  if (fei d z).runtime || f.txRaw == 15 then d'' else sendDiscover d'' z

/-- CREDIT ends once both messages came at both ends (R262). -/
theorem exec_feinoTrainAck_credit (at_ : BundleAt s.dev.rest x y 5) :
    exec (.feinoTrainAck x here there) s = .next (s.settle
      (if ((fei s.dev x).gotCredit && (fei s.dev x).gotRaw && ((fei s.dev y).gotCredit && (fei s.dev y).gotRaw)) = true then
        (bundleEnds x).foldl enterActive s.dev.rest else s.dev.rest)) := by
  change execFeinoTrainAck x here there s = _
  refine run_settle ?_
  simp only [at_.1, bundleEnds_agree far at_, bundleEnds_ne_nil far, Bool.not_true, Bool.or_false, Bool.false_eq_true, if_false,
    all_bundleEnds far, fei_rest]
  rfl

end

theorem enterCredit_actsAt (d : Dev) (u : BundleEnd) : ActsAt d (enterCredit d u) u :=
  (setFeiState_actsAt 5 d u).trans (setFei_actsAt _ u _)

theorem feiState_enterCredit (d : Dev) {u : BundleEnd} (has : hasFei u = true) : feiState (enterCredit d u) u = 5 :=
  (feiState_setFei _ u u _).trans (feiState_setFeiState d has (by decide))

/-- CREDIT_INIT with ten depths, and RAW_INIT, go first (R270, R274). -/
theorem ctlq_enterCredit (d : Dev) (u : BundleEnd) : ∃ depths raw, depths.length = 20 ∧
    (fei (enterCredit d u) u).ctlq = ctlArea 1 depths :: ctlArea 2 raw :: (fei d u).ctlq := by
  refine ⟨(List.range 10).flatMap (fun c => leBytes 2 (10 + Config.feiDepth (endKey u) c % 4086)),
    leBytes 1 (4 + Config.feiRawDepth (endKey u) % 252), ?_, ?_⟩
  · simp
  · unfold enterCredit
    rw [fei_setFei_same, fei_setFeiState]
    rfl

theorem sendDiscover_actsAt (d : Dev) (u : BundleEnd) : ActsAt d (sendDiscover d u) u := by
  have free : ActsAt d (announceRecord d u).2 u := ⟨rfl, fun x _ _ => keepsEnd_of_eq rfl rfl x⟩
  exact free.trans (setFei_actsAt _ u _)

theorem enterActive_actsAt (d : Dev) (u : BundleEnd) : ActsAt d (enterActive d u) u := by
  have entered (v : Fei) := (setFeiState_actsAt 6 d u).trans (setFei_actsAt _ u v)
  unfold enterActive
  dsimp only
  split
  · exact entered _
  · exact (entered _).trans (sendDiscover_actsAt _ u)

/-- Of the queues of an end, DISCOVER changes the control messages to send alone. -/
theorem fei_sendDiscover (d : Dev) (u : BundleEnd) :
    ∃ q, fei (sendDiscover d u) u = { fei d u with ctlq := q } :=
  ⟨(fei d u).ctlq ++ [ctlArea 3 (announceRecord d u).1], fei_setFei_same ..⟩

theorem feiState_sendDiscover (d : Dev) (u : BundleEnd) : feiState (sendDiscover d u) u = feiState d u := by
  cases u <;> rfl

theorem feiState_enterActive (d : Dev) {u : BundleEnd} (has : hasFei u = true) : feiState (enterActive d u) u = 6 := by
  unfold enterActive
  dsimp only
  split
  · exact (feiState_setFei _ u u _).trans (feiState_setFeiState d has (by decide))
  · rw [feiState_sendDiscover]
    exact (feiState_setFei _ u u _).trans (feiState_setFeiState d has (by decide))

theorem fei_enterActive (d : Dev) (u : BundleEnd) : (fei (enterActive d u) u).runtime = false ∧
    (fei (enterActive d u) u).replay = (fei d u).replay ∧
    (fei (enterActive d u) u).resend = (fei d u).replay.head?.map (·.seq) := by
  unfold enterActive
  dsimp only
  split
  · simp only [fei_setFei_same, fei_setFeiState, and_self]
  · obtain ⟨q, sent⟩ := fei_sendDiscover (setFei (setFeiState d u 6) u { fei (setFeiState d u 6) u with
      resend := (fei (setFeiState d u 6) u).replay.head?.map (·.seq),
      rawResend := (fei (setFeiState d u 6) u).rawReplay.head?.map (·.seq), progress := (setFeiState d u 6).tb, runtime := false }) u
    rw [sent]
    simp only [fei_setFei_same, fei_setFeiState, and_self]

end Sys2Proof.Machine
end

section
/-!
SUPPORT. A failed training attempt and the fence of a bundle (R39, R262, R272); the exchange of roles and lanes (R260, R265).
-/
namespace Sys2Proof.Machine

/-! ### The fence -/

/-- A change of the hidden state of ends alone. -/
def hiddenOnly (d d' : Dev) : Prop := d' = { d with fei := d'.fei }

theorem hiddenOnly.refl (d : Dev) : hiddenOnly d d := rfl

theorem hiddenOnly.trans {a b c : Dev} (h : hiddenOnly a b) (k : hiddenOnly b c) : hiddenOnly a c := by
  unfold hiddenOnly at *
  rw [k, h]

theorem hiddenOnly.foldl {α : Type} {f : Dev → α → Dev} (each : ∀ d z, hiddenOnly d (f d z)) (zs : List α) (d : Dev) :
    hiddenOnly d (zs.foldl f d) := by
  induction zs generalizing d with
  | nil => exact .refl d
  | cons z zs ih => exact (each d z).trans (ih _)

section
variable {d d' : Dev} (only : hiddenOnly d d')
include only

theorem hiddenOnly.regs : d'.regs = d.regs := by rw [only]
theorem hiddenOnly.reports : d'.reports = d.reports := by rw [only]
theorem hiddenOnly.wq : d'.wq = d.wq := by rw [only]
theorem hiddenOnly.out : d'.out = d.out := by rw [only]
theorem hiddenOnly.tb : d'.tb = d.tb := by rw [only]

theorem hiddenOnly.feiOnly : feiOnly d d' := by
  unfold Machine.feiOnly
  rw [only]

theorem hiddenOnly.rdReg (r : RegDesc) (ix : List Nat) : rdReg d' r ix = rdReg d r ix := by
  unfold Machine.rdReg
  rw [only.regs]

theorem hiddenOnly.feiGet (x : BundleEnd) (i : Nat) (f : Fld) : feiGet d' x i f = feiGet d x i f :=
  congrArg f.get (only.rdReg _ _)

theorem hiddenOnly.fget (r : RegDesc) (ix : List Nat) (f : Fld) : fget d' r ix f = fget d r ix f :=
  congrArg f.get (only.rdReg _ _)

theorem hiddenOnly.feiState (x : BundleEnd) : feiState d' x = feiState d x := by
  cases x with
  | guest g =>
    have active : guestActive d' g.val = guestActive d g.val := congrArg (· == 3) (only.fget _ _ _)
    unfold Machine.feiState
    dsimp only
    rw [active]
  | _ =>
    unfold Machine.feiState
    dsimp only
    rw [only.feiGet]

end

theorem setFei_hiddenOnly (d : Dev) (x : BundleEnd) (v : Fei) : hiddenOnly d (setFei d x v) := rfl

/-- Both ends of a bundle go to FENCED. -/
def closeEnds (d : Dev) (x : BundleEnd) : Dev := (bundleEnds x).foldl (fun d y => setFeiState d y 7) d

/-- An end that received on a fenced bundle reports its last accepted number over another bundle of the edge (R272). -/
def tellFence (d : Dev) (y : BundleEnd) : Dev :=
  match (edgeEnds y).find? (fun z => feiState d z == 6 && (fei d z).txRaw != 15) with
  | some z => setFei (setFei d z { fei d z with
      ctlq := (fei d z).ctlq ++ [ctlArea 5 (leBytes 1 (edgeNumber y) ++ leBytes 2 (((fei d y).seqRx + 4095) % 4096))] }) y
      { fei (setFei d z { fei d z with
        ctlq := (fei d z).ctlq ++ [ctlArea 5 (leBytes 1 (edgeNumber y) ++ leBytes 2 (((fei d y).seqRx + 4095) % 4096))] }) y with
        waitInfo := true }
  | none => d

/-- A die whose last bundle is fenced is lost (R39). -/
def loseFarDie (d : Dev) (x : BundleEnd) : Dev :=
  if (dieEnds (farDie x)).all (fun y => feiState d y == 7) && fget d Reg.HUB_DIEMAP [farDie x] Fld.HUB_DIEMAP_state == 0
  then fset d Reg.HUB_DIEMAP [farDie x] Fld.HUB_DIEMAP_state 2 else d

theorem feiClose_open {d : Dev} {x : BundleEnd} (open_ : feiState d x ≠ 7) :
    feiClose d x = loseFarDie ((bundleEnds x).foldl tellFence (closeEnds d x)) x := if_neg open_

theorem feiClose_fenced {d : Dev} {x : BundleEnd} (fenced : feiState d x = 7) : feiClose d x = d := if_pos fenced

theorem tellFence_hiddenOnly (d : Dev) (y : BundleEnd) : hiddenOnly d (tellFence d y) := by
  unfold tellFence
  split <;> rfl

theorem endDie_lt (x : BundleEnd) : endDie x < 59 := by
  cases x <;> simp only [endDie, unitBase, unitLe] <;> omega

theorem farDie_lt (x : BundleEnd) : farDie x < 61 := by
  unfold farDie
  split
  · simp only [unitGuest]; omega
  · split
    · exact (endDie_lt _).trans (by decide)
    · decide

/-- The device map stands outside the registers of every end. -/
theorem diemap_key_block {i : Nat} (place : i < 61) {z : BundleEnd} (has : hasFei z = true) :
    Reg.HUB_DIEMAP.key [i] / 256 ≠ endBlock z := by
  have key : Reg.HUB_DIEMAP.key [i] = 0x4000 + (4 * i + 0) := rfl
  rw [key]
  cases z with
  | guest g => cases has
  | _ => simp only [endBlock]; omega

theorem keepsEnd_diemap (d : Dev) {i : Nat} (place : i < 61) {z : BundleEnd} (has : hasFei z = true) (f : Fld) (v : Nat) :
    keepsEnd d (fset d Reg.HUB_DIEMAP [i] f v) z := keepsEnd_wrReg d (diemap_key_block place has) _

theorem closeEnds_feiOnly (d : Dev) (x : BundleEnd) : feiOnly d (closeEnds d x) :=
  .foldl (fun d z => feiSet_feiOnly d z _ _ _) _ d

theorem feiClose_feiOnly (d : Dev) (x : BundleEnd) : feiOnly d (feiClose d x) := by
  by_cases open_ : feiState d x = 7
  · rw [feiClose_fenced open_]
    exact .refl d
  · rw [feiClose_open open_]
    refine ((closeEnds_feiOnly d x).trans (hiddenOnly.foldl tellFence_hiddenOnly (bundleEnds x) _).feiOnly).trans ?_
    unfold loseFarDie
    split <;> rfl

/-- What is told and what is lost after the ends are FENCED leaves the states of all ends. -/
theorem feiState_feiClose_open {d : Dev} {x z : BundleEnd} (open_ : feiState d x ≠ 7) (has : hasFei z = true) :
    feiState (feiClose d x) z = feiState (closeEnds d x) z := by
  rw [feiClose_open open_]
  refine Eq.trans ?_ ((hiddenOnly.foldl tellFence_hiddenOnly (bundleEnds x) (closeEnds d x)).feiState z)
  unfold loseFarDie
  split
  · exact (keepsEnd_diemap _ (farDie_lt x) has _ _).feiState has
  · rfl

section
variable {x y : BundleEnd} (far : farEnd x = some y)
include far

/-- A fence puts both ends in FENCED. -/
theorem feiState_feiClose {d : Dev} (open_ : feiState d x ≠ 7) {z : BundleEnd} (end_ : z = x ∨ z = y) :
    feiState (feiClose d x) z = 7 := by
  rw [feiState_feiClose_open open_ (hasFei_of_end far end_)]
  exact bundle_enters far (setFeiState_actsAt 7) (fun d u has => feiState_setFeiState d has (by decide)) d end_

/-- An end that is FENCED stays so when a bundle is fenced. -/
theorem feiState_feiClose_of_fenced {d : Dev} {z : BundleEnd} (has : hasFei z = true) (fenced : feiState d z = 7) :
    feiState (feiClose d x) z = 7 := by
  by_cases open_ : feiState d x = 7
  · rwa [feiClose_fenced open_]
  · by_cases end_ : z = x ∨ z = y
    · exact feiState_feiClose far open_ end_
    · rw [not_or] at end_
      exact (feiState_feiClose_open open_ has).trans
        (((bundle_foldl_other (setFeiState_actsAt 7) far d has end_.1 end_.2).feiState has).trans fenced)

end

/-- The record of a bundle's fence (R39, Table 16.2). -/
def fenceReport (x : BundleEnd) : Report :=
  { source := 0x23, unit := (bundleUnit x).1, sub := (bundleUnit x).2, stat := (feiDesc x 1).slot (feiIx x) }

theorem feiFence_open {d : Dev} {x : BundleEnd} (open_ : feiState d x ≠ 7) :
    feiFence d x = report (feiClose d x) (fenceReport x) := if_neg open_

theorem feiState_report (d : Dev) (r : Report) (z : BundleEnd) : feiState (report d r) z = feiState d z := by
  cases z <;> rfl

/-! ### A failed attempt -/

/-- A failed attempt is counted at both ends. -/
def countAttempt (d : Dev) (x : BundleEnd) : Dev :=
  (bundleEnds x).foldl (fun d' y => feiSet d' y 1 Fld.HUB_FEI_STAT_attempts
    (min (feiGet d x 1 Fld.HUB_FEI_STAT_attempts + 1) 7)) d

/-- An end starts again in DETECT. -/
def redetect (d : Dev) (y : BundleEnd) : Dev := setFei (setFeiState d y 1) y { fei d y with bad := [] }

theorem feiFail_eq (d : Dev) (x : BundleEnd) :
    feiFail d x = if (fei (countAttempt d x) x).runtime ∨ 3 ≤ feiGet d x 1 Fld.HUB_FEI_STAT_attempts + 1 then
      feiFence (countAttempt d x) x else (bundleEnds x).foldl redetect (countAttempt d x) := rfl

theorem feiSet_actsAt_attempts (n : Nat) (d : Dev) (u : BundleEnd) :
    ActsAt d (feiSet d u 1 Fld.HUB_FEI_STAT_attempts n) u := feiSet_actsAt d u (by decide) _ _

theorem countAttempt_feiOnly (d : Dev) (x : BundleEnd) : feiOnly d (countAttempt d x) :=
  .foldl (fun d z => feiSet_feiOnly d z _ _ _) _ d

theorem redetect_actsAt (d : Dev) (u : BundleEnd) : ActsAt d (redetect d u) u :=
  (setFeiState_actsAt 1 d u).trans (setFei_actsAt _ u _)

section
variable {x y z : BundleEnd} (far : farEnd x = some y) (d : Dev) (end_ : z = x ∨ z = y)
include far end_

theorem countAttempt_spec : fei (countAttempt d x) z = fei d z ∧ feiState (countAttempt d x) z = feiState d z ∧
    feiGet (countAttempt d x) z 1 Fld.HUB_FEI_STAT_attempts = min (feiGet d x 1 Fld.HUB_FEI_STAT_attempts + 1) 7 := by
  have has := hasFei_of_end far end_
  obtain ⟨dz, before, after⟩ := bundle_foldl (feiSet_actsAt_attempts _) far d end_
  refine ⟨?_, ?_, ?_⟩
  · exact after.1.trans ((fei_feiSet ..).trans before.1)
  · refine (after.feiState has).trans (Eq.trans ?_ (before.feiState has))
    exact feiState_feiSet_field dz has (by decide) (by decide) _
  · refine (after.feiGet has (by decide) _).trans ((feiGet_feiSet_same dz has 1 (by decide) (by decide) _).trans ?_)
    exact Nat.mod_eq_of_lt (Nat.lt_succ_of_le (Nat.min_le_right _ _))

theorem redetect_spec : feiState ((bundleEnds x).foldl redetect d) z = 1 ∧
    feiGet ((bundleEnds x).foldl redetect d) z 1 Fld.HUB_FEI_STAT_attempts = feiGet d z 1 Fld.HUB_FEI_STAT_attempts := by
  have has := hasFei_of_end far end_
  refine ⟨bundle_enters far redetect_actsAt (fun d u has => ?_) d end_, ?_⟩
  · exact (feiState_setFei _ u u _).trans (feiState_setFeiState d has (by decide))
  · obtain ⟨dz, before, after⟩ := bundle_foldl redetect_actsAt far d end_
    refine (after.feiGet has (by decide) _).trans (Eq.trans ?_ (before.feiGet has (by decide) _))
    exact feiGet_feiSet_field dz has 1 (by decide) (by decide) (by unfold Fld.Apart; decide) _

end

section
variable {x y : BundleEnd} (far : farEnd x = some y) (d : Dev)
include far

/-- An attempt at start that is not the third begins again (R262). -/
theorem feiFail_again (atStart : (fei d x).runtime = false) (few : feiGet d x 1 Fld.HUB_FEI_STAT_attempts + 1 < 3) :
    BundleAt (feiFail d x) x y 1 ∧ feiOnly d (feiFail d x) ∧
      ∀ z, z = x ∨ z = y → feiGet (feiFail d x) z 1 Fld.HUB_FEI_STAT_attempts = feiGet d x 1 Fld.HUB_FEI_STAT_attempts + 1 := by
  obtain ⟨hidden, -, -⟩ := countAttempt_spec far d (.inl rfl)
  have begins : feiFail d x = (bundleEnds x).foldl redetect (countAttempt d x) := by
    rw [feiFail_eq, if_neg]
    rw [hidden, atStart]
    exact fun ends => ends.elim Bool.false_ne_true (by omega)
  rw [begins]
  refine ⟨⟨(redetect_spec far _ (.inl rfl)).1, (redetect_spec far _ (.inr rfl)).1⟩, ?_, fun z end_ => ?_⟩
  · exact (countAttempt_feiOnly d x).trans (.foldl (fun d u => (redetect_actsAt d u).only) _ _)
  · rw [(redetect_spec far _ end_).2, (countAttempt_spec far d end_).2.2]
    omega

/-- The third attempt at start, or one of a run-time retrain, fences the bundle (R262). -/
theorem feiFail_fences (open_ : feiState d x ≠ 7)
    (last : (fei d x).runtime = true ∨ 3 ≤ feiGet d x 1 Fld.HUB_FEI_STAT_attempts + 1) :
    BundleAt (feiFail d x) x y 7 ∧ (feiFail d x).wq = d.wq ∧ (feiFail d x).reports = d.reports ++ [fenceReport x] := by
  obtain ⟨hidden, state, -⟩ := countAttempt_spec far d (.inl rfl)
  have stillOpen : feiState (countAttempt d x) x ≠ 7 := state ▸ open_
  have fences : feiFail d x = report (feiClose (countAttempt d x) x) (fenceReport x) := by
    rw [feiFail_eq, if_pos (hidden ▸ last), feiFence_open stillOpen]
  have only := (countAttempt_feiOnly d x).trans (feiClose_feiOnly _ x)
  rw [fences]
  exact ⟨⟨(feiState_report ..).trans (feiState_feiClose far stillOpen (.inl rfl)),
    (feiState_report ..).trans (feiState_feiClose far stillOpen (.inr rfl))⟩, only.wq, congrArg (· ++ _) only.reports⟩

end

end Sys2Proof.Machine
end

section
/-!
SUPPORT. The exchange of roles and lanes between the ends of a bundle (R260, R262, R265, R266).
-/
namespace Sys2Proof.Machine

/-! ### Registers of either end -/

section
variable (d : Dev) {x u : BundleEnd} (has : hasFei x = true) (i j : Nat) (gi : i < 8) (gj : j < 8) (apart : x ≠ u ∨ j ≠ i)
include has gi gj apart

/-- A register of an end stays where another end's is written, or another of its own. -/
theorem rdReg_feiSet_apart (f : Fld) (v : Nat) :
    rdReg (feiSet d u i f v) (feiDesc x j) (feiIx x) = rdReg d (feiDesc x j) (feiIx x) := by
  by_cases same : x = u
  · subst same
    have word := rdReg_feiSet_group d has gi gj (apart.resolve_left fun ne => ne rfl) [] f v
    rwa [List.append_nil] at word
  · exact ((feiSet_actsAt d u gi f v).keeps x has same).rdReg has gj

theorem feiGet_feiSet_apart (f g : Fld) (v : Nat) : feiGet (feiSet d u i f v) x j g = feiGet d x j g :=
  congrArg g.get (rdReg_feiSet_apart d has i j gi gj apart f v)

end

/-- The register group of a direction's exclusions: 2 FEI_TXMAP, 3 FEI_RXMAP. -/
def exclGroup (tx : Bool) : Nat := if tx then 2 else 3

/-- The field that counts a direction's exclusions. -/
def exclCount (tx : Bool) : Fld := if tx then Fld.HUB_FEI_STAT_tx_excl else Fld.HUB_FEI_STAT_rx_excl

theorem exclGroup_lt (tx : Bool) : exclGroup tx < 8 := by cases tx <;> decide

theorem exclCount_low (tx : Bool) : (exclCount tx).lo ≤ (exclCount tx).hi ∧ (exclCount tx).hi < 6 := by
  cases tx <;> decide

section
variable (d : Dev) {x : BundleEnd} (tx : Bool) (ls : List Nat)

theorem setExcl_eq (has : hasFei x = true) : setExcl d x tx ls =
    feiSet (wrReg d (feiDesc x (exclGroup tx)) (feiIx x) (packLanes ls)) x 1 (exclCount tx)
      (mapLanes (packLanes ls)).length := by
  unfold setExcl
  rw [has]
  rfl

theorem setExcl_actsAt : ActsAt d (setExcl d x tx ls) x := by
  by_cases has : hasFei x = true
  · rw [setExcl_eq d tx ls has]
    exact (wrReg_actsAt d (feiDesc_key_block has (exclGroup_lt tx)) _).trans (feiSet_actsAt _ x (by decide) _ _)
  · unfold setExcl
    rw [if_pos (by simpa using has)]
    exact .refl d x

@[simp] theorem fei_setExcl (y : BundleEnd) : fei (setExcl d x tx ls) y = fei d y := by
  unfold setExcl
  split
  · rfl
  · exact fei_feiSet ..

variable (has : hasFei x = true)
include has

theorem rdReg_setExcl_same :
    rdReg (setExcl d x tx ls) (feiDesc x (exclGroup tx)) (feiIx x) = packLanes ls := by
  rw [setExcl_eq d tx ls has,
    rdReg_feiSet_apart _ has 1 _ (by decide) (exclGroup_lt tx) (.inr (by cases tx <;> decide)), rdReg_wrReg_same]

theorem rdReg_setExcl_group {j : Nat} (gj : j < 8) (notCount : j ≠ 1) (other : j ≠ exclGroup tx) :
    rdReg (setExcl d x tx ls) (feiDesc x j) (feiIx x) = rdReg d (feiDesc x j) (feiIx x) := by
  have apart := feiDesc_key_ne has (exclGroup_lt tx) gj other [] []
  rw [List.append_nil] at apart
  rw [setExcl_eq d tx ls has, rdReg_feiSet_apart _ has 1 j (by decide) gj (.inr notCount),
    rdReg_wrReg_other _ _ _ _ _ _ apart]

/-- Of FEI_STAT, exclusions change their counts alone. -/
theorem feiGet_setExcl_stat {g : Fld} (inWord : g.hi < 32) (above : 6 ≤ g.lo) :
    feiGet (setExcl d x tx ls) x 1 g = feiGet d x 1 g := by
  obtain ⟨ordered, low⟩ := exclCount_low tx
  have apart := feiDesc_key_ne has (exclGroup_lt tx) (by decide : 1 < 8) (by cases tx <;> decide) [] []
  rw [List.append_nil] at apart
  rw [setExcl_eq d tx ls has, feiGet_feiSet_field _ has 1 ordered inWord (.inr (low.trans_le above))]
  exact fget_wrReg_other _ _ _ _ _ _ _ apart

end

/-! ### The exchange -/

/-- The lanes that a direction excludes: those fused off at its sender and those found bad at its receiver (R260). -/
def laneUnion (d : Dev) (sender receiver : BundleEnd) : List Nat :=
  (fusedExcl d sender ++ (fei d receiver).bad).foldl (fun l z => insertAsc z l) []

/-- The follow shows whether its roles are those of the lead (R265). -/
def showMismatch (d : Dev) (x y : BundleEnd) : Dev :=
  if feiGet d y 0 Fld.HUB_FEI_CTL_tx_raw != feiGet d x 0 Fld.HUB_FEI_CTL_rx_raw ||
    feiGet d y 0 Fld.HUB_FEI_CTL_rx_raw != feiGet d x 0 Fld.HUB_FEI_CTL_tx_raw
  then feiSet d y 1 Fld.HUB_FEI_STAT_role_mis 1 else d

/-- Both directions exclude their lanes at both ends. -/
def excludeLanes (d : Dev) (x y : BundleEnd) (out back : List Nat) : Dev :=
  setExcl (setExcl (setExcl (setExcl d x true out) y false out) y true back) x false back

/-- Roles of an end, with its count of ALN slots and its slot time at 0. -/
def takeRoles (d : Dev) (x : BundleEnd) (tx rx : Nat) : Dev :=
  setFei d x { fei d x with txRaw := tx, rxRaw := rx, alnGood := 0, slot := 0 }

/-- Both ends enter ALIGN with generation 0. -/
def enterAlign (d : Dev) (x y : BundleEnd) : Dev :=
  setFeiState (setFeiState (feiSet (feiSet d x 1 Fld.HUB_FEI_STAT_gen 0) y 1 Fld.HUB_FEI_STAT_gen 0) x 4) y 4

/-- The roles and lanes that the lead asks for hold at both ends. -/
def aligned (d : Dev) (x y : BundleEnd) (tx rx : Nat) (out back : List Nat) : Dev :=
  enterAlign (takeRoles (takeRoles (excludeLanes d x y out back) x tx rx) y rx tx) x y

/-- EXCHANGE at the lead, where every raw direction has a protocol group to answer it (R265). -/
theorem exchange_eq {d : Dev} {x y : BundleEnd} (far : farEnd x = some y) (leads : endLeads x = true)
    (answered : ¬ ((feiGet d x 0 Fld.HUB_FEI_CTL_tx_raw ≠ 0 ∧ feiGet d x 0 Fld.HUB_FEI_CTL_rx_raw = 15) ∨
      (feiGet d x 0 Fld.HUB_FEI_CTL_rx_raw ≠ 0 ∧ feiGet d x 0 Fld.HUB_FEI_CTL_tx_raw = 15))) :
    exchange d x = if 4 < (laneUnion (showMismatch d x y) x y).length ∨ 4 < (laneUnion (showMismatch d x y) y x).length
      then feiFence (showMismatch d x y) x
      else aligned (showMismatch d x y) x y (feiGet d x 0 Fld.HUB_FEI_CTL_tx_raw) (feiGet d x 0 Fld.HUB_FEI_CTL_rx_raw)
        (laneUnion (showMismatch d x y) x y) (laneUnion (showMismatch d x y) y x) := by
  have order : bundleEnds x = [x, y] := by simp only [bundleEnds, far, leads, if_true]
  unfold exchange
  rw [order]
  exact if_neg answered

theorem showMismatch_actsAt (d : Dev) (x y : BundleEnd) : ActsAt d (showMismatch d x y) y := by
  unfold showMismatch
  split
  · exact feiSet_actsAt d y (by decide) _ _
  · exact .refl d y

theorem fei_showMismatch (d : Dev) (x y z : BundleEnd) : fei (showMismatch d x y) z = fei d z := by
  unfold showMismatch
  split
  · exact fei_feiSet ..
  · rfl

theorem fusedExcl_showMismatch (d : Dev) (x : BundleEnd) {y : BundleEnd} (has : hasFei y = true) :
    fusedExcl (showMismatch d x y) y = fusedExcl d y := by
  unfold showMismatch
  split
  · unfold fusedExcl
    rw [rdReg_feiSet_apart d has 1 4 (by decide) (by decide) (.inr (by decide))]
  · rfl

section
variable {x y : BundleEnd} (far : farEnd x = some y) (d : Dev)
include far

theorem laneUnion_showMismatch : laneUnion (showMismatch d x y) x y = laneUnion d x y ∧
    laneUnion (showMismatch d x y) y x = laneUnion d y x := by
  have hx := hasFei_of_farEnd far
  have hy := hasFei_of_farEnd (farEnd_symm far)
  have fused := ((showMismatch_actsAt d x y).keeps x hx (ne_of_farEnd far)).fusedExcl hx
  constructor
  · rw [laneUnion, laneUnion, fused, fei_showMismatch]
  · rw [laneUnion, laneUnion, fusedExcl_showMismatch d x hy, fei_showMismatch]

theorem showMismatch_mis (differ : feiGet d y 0 Fld.HUB_FEI_CTL_tx_raw ≠ feiGet d x 0 Fld.HUB_FEI_CTL_rx_raw ∨
    feiGet d y 0 Fld.HUB_FEI_CTL_rx_raw ≠ feiGet d x 0 Fld.HUB_FEI_CTL_tx_raw) :
    feiGet (showMismatch d x y) y 1 Fld.HUB_FEI_STAT_role_mis = 1 := by
  rw [showMismatch, if_pos (by simpa using differ),
    feiGet_feiSet_same d (hasFei_of_farEnd (farEnd_symm far)) 1 (by decide) (by decide)]
  rfl

variable (out back : List Nat)

/-- The exclusions of both directions, as their ends show them; FEI_STAT keeps what it shows beside their counts. -/
theorem excludeLanes_spec : let e := excludeLanes d x y out back
    (rdReg e (feiDesc x 2) (feiIx x) = packLanes out ∧ rdReg e (feiDesc y 3) (feiIx y) = packLanes out) ∧
    (rdReg e (feiDesc y 2) (feiIx y) = packLanes back ∧ rdReg e (feiDesc x 3) (feiIx x) = packLanes back) ∧
    (∀ z, z = x ∨ z = y → ∀ g : Fld, g.hi < 32 → 6 ≤ g.lo → feiGet e z 1 g = feiGet d z 1 g) := by
  have hx := hasFei_of_farEnd far
  have hy := hasFei_of_farEnd (farEnd_symm far)
  have ne := ne_of_farEnd far
  have atY (d : Dev) (tx : Bool) (ls : List Nat) := (setExcl_actsAt d (x := y) tx ls).keeps x hx ne
  have atX (d : Dev) (tx : Bool) (ls : List Nat) := (setExcl_actsAt d (x := x) tx ls).keeps y hy ne.symm
  refine ⟨⟨?_, ?_⟩, ⟨?_, ?_⟩, fun z end_ g inWord above => ?_⟩
  · rw [excludeLanes, rdReg_setExcl_group _ false back hx (by decide) (by decide) (by decide),
      (atY _ true back).rdReg hx (by decide), (atY _ false out).rdReg hx (by decide)]
    exact rdReg_setExcl_same (x := x) d true out hx
  · rw [excludeLanes, (atX _ false back).rdReg hy (by decide),
      rdReg_setExcl_group _ true back hy (by decide) (by decide) (by decide)]
    exact rdReg_setExcl_same (x := y) _ false out hy
  · rw [excludeLanes, (atX _ false back).rdReg hy (by decide)]
    exact rdReg_setExcl_same (x := y) _ true back hy
  · exact rdReg_setExcl_same (x := x) _ false back hx
  · rcases end_ with rfl | rfl
    · rw [excludeLanes, feiGet_setExcl_stat _ _ _ hx inWord above, (atY _ _ _).feiGet hx (by decide),
        (atY _ _ _).feiGet hx (by decide), feiGet_setExcl_stat _ _ _ hx inWord above]
    · rw [excludeLanes, (atX _ _ _).feiGet hy (by decide), feiGet_setExcl_stat _ _ _ hy inWord above,
        feiGet_setExcl_stat _ _ _ hy inWord above, (atX _ _ _).feiGet hy (by decide)]

/-- Both ends in ALIGN show generation 0, and every register but FEI_STAT as it was. -/
theorem enterAlign_spec : BundleAt (enterAlign d x y) x y 4 ∧ ∀ z, z = x ∨ z = y →
    fei (enterAlign d x y) z = fei d z ∧ feiGet (enterAlign d x y) z 1 Fld.HUB_FEI_STAT_gen = 0 ∧
    feiGet (enterAlign d x y) z 1 Fld.HUB_FEI_STAT_role_mis = feiGet d z 1 Fld.HUB_FEI_STAT_role_mis ∧
    ∀ i, i < 8 → i ≠ 1 → rdReg (enterAlign d x y) (feiDesc z i) (feiIx z) = rdReg d (feiDesc z i) (feiIx z) := by
  have hx := hasFei_of_farEnd far
  have hy := hasFei_of_farEnd (farEnd_symm far)
  have ne := ne_of_farEnd far
  have otherX (d : Dev) (f g : Fld) (v : Nat) := feiGet_feiSet_apart d hx 1 1 (by decide) (by decide) (.inl ne) f g v
  have otherY (d : Dev) (f g : Fld) (v : Nat) := feiGet_feiSet_apart d hy 1 1 (by decide) (by decide) (.inl ne.symm) f g v
  have field (d : Dev) {z : BundleEnd} (has : hasFei z = true) {f g : Fld} (v : Nat) (ordered : f.lo ≤ f.hi)
      (inWord : g.hi < 32) (apart : f.Apart g) := feiGet_feiSet_field d has 1 ordered inWord apart v
  have zero (d : Dev) {z : BundleEnd} (has : hasFei z = true) : feiGet (feiSet d z 1 Fld.HUB_FEI_STAT_gen 0) z 1
      Fld.HUB_FEI_STAT_gen = 0 := feiGet_feiSet_same d has 1 (by decide) (by decide) 0
  refine ⟨⟨?_, ?_⟩, fun z end_ => ⟨?_, ?_, ?_, fun i group notStat => ?_⟩⟩
  · exact ((setFeiState_actsAt 4 _ y).keeps x hx ne).feiState hx |>.trans (feiState_setFeiState _ hx (by decide))
  · exact feiState_setFeiState _ hy (by decide)
  · simp only [enterAlign, fei_setFeiState, fei_feiSet]
  · unfold enterAlign setFeiState
    rcases end_ with rfl | rfl
    · rw [otherX, field _ hx 4 (by decide) (by decide) (.inl (by decide)), otherX, zero _ hx]
    · rw [field _ hy 4 (by decide) (by decide) (.inl (by decide)), otherY, zero _ hy]
  · unfold enterAlign setFeiState
    rcases end_ with rfl | rfl
    · rw [otherX, field _ hx 4 (by decide) (by decide) (.inl (by decide)), otherX, field _ hx 0 (by decide) (by decide) (.inr (by decide))]
    · rw [field _ hy 4 (by decide) (by decide) (.inl (by decide)), otherY, field _ hy 0 (by decide) (by decide) (.inr (by decide)), otherY]
  · have stat (d : Dev) (u : BundleEnd) (f : Fld) (v : Nat) :=
      rdReg_feiSet_apart d (u := u) (hasFei_of_end far end_) 1 i (by decide) group (.inr notStat) f v
    rw [enterAlign, setFeiState, setFeiState, stat, stat, stat, stat]

variable (tx rx : Nat)

/-- What both ends of a bundle in ALIGN hold. -/
theorem aligned_spec : let e := aligned d x y tx rx out back
    BundleAt e x y 4 ∧ feiOnly d e ∧
    (rdReg e (feiDesc x 2) (feiIx x) = packLanes out ∧ rdReg e (feiDesc y 3) (feiIx y) = packLanes out) ∧
    (rdReg e (feiDesc y 2) (feiIx y) = packLanes back ∧ rdReg e (feiDesc x 3) (feiIx x) = packLanes back) ∧
    (feiGet e x 1 Fld.HUB_FEI_STAT_gen = 0 ∧ feiGet e y 1 Fld.HUB_FEI_STAT_gen = 0) ∧
    ((fei e x).txRaw = tx ∧ (fei e x).rxRaw = rx) ∧ ((fei e y).txRaw = rx ∧ (fei e y).rxRaw = tx) ∧
    feiGet e y 1 Fld.HUB_FEI_STAT_role_mis = feiGet d y 1 Fld.HUB_FEI_STAT_role_mis := by
  have ne := ne_of_farEnd far
  obtain ⟨states, ends⟩ := enterAlign_spec far (takeRoles (takeRoles (excludeLanes d x y out back) x tx rx) y rx tx)
  obtain ⟨hiddenX, genX, -, wordX⟩ := ends x (.inl rfl)
  obtain ⟨hiddenY, genY, misY, wordY⟩ := ends y (.inr rfl)
  obtain ⟨⟨outX, outY⟩, ⟨backY, backX⟩, stat⟩ := excludeLanes_spec far d out back
  refine ⟨states, ?_, ⟨?_, ?_⟩, ⟨?_, ?_⟩, ⟨genX, genY⟩, ?_, ?_, ?_⟩
  · have set (d : Dev) (u : BundleEnd) (i : Nat) (f : Fld) (v : Nat) := feiSet_feiOnly d u i f v
    have excl (d : Dev) (u : BundleEnd) (tx : Bool) (ls : List Nat) := (setExcl_actsAt d (x := u) tx ls).only
    have roles (d : Dev) (u : BundleEnd) (tx rx : Nat) : feiOnly d (takeRoles d u tx rx) := rfl
    exact (((excl _ _ _ _).trans (excl _ _ _ _)).trans ((excl _ _ _ _).trans (excl _ _ _ _))).trans
      (((roles _ _ _ _).trans (roles _ _ _ _)).trans
        (((set _ _ _ _ _).trans (set _ _ _ _ _)).trans ((set _ _ _ _ _).trans (set _ _ _ _ _))))
  · exact (wordX 2 (by decide) (by decide)).trans outX
  · exact (wordY 3 (by decide) (by decide)).trans outY
  · exact (wordY 2 (by decide) (by decide)).trans backY
  · exact (wordX 3 (by decide) (by decide)).trans backX
  · have roles : fei (aligned d x y tx rx out back) x = { fei (excludeLanes d x y out back) x with
        txRaw := tx, rxRaw := rx, alnGood := 0, slot := 0 } :=
      hiddenX.trans ((fei_setFei_other _ ne _).trans (fei_setFei_same ..))
    rw [roles]
    exact ⟨rfl, rfl⟩
  · have roles : (fei (aligned d x y tx rx out back) y).txRaw = rx ∧ (fei (aligned d x y tx rx out back) y).rxRaw = tx := by
      have hidden : fei (aligned d x y tx rx out back) y = _ := hiddenY.trans (fei_setFei_same ..)
      rw [hidden]
      exact ⟨rfl, rfl⟩
    exact roles
  · exact misY.trans (stat y (.inr rfl) _ (by decide) (by decide))

end

end Sys2Proof.Machine
end

section
/-!
SUPPORT. The retrain of a bundle, the loss of a lane, an alignment slot and a broken raw channel (R259, R263, R264, R275).
-/
namespace Sys2Proof.Machine

/-! ### Retrain -/

/-- An end starts a run-time retrain: it is counted, and sequence numbers, replay buffers and roles stay (R263). -/
def retrainEnd (d : Dev) (y : BundleEnd) : Dev :=
  let d := feiInc (setFeiState d y 1) y 6 Fld.HUB_FEI_SWAP_retrains 1
  setFei d y { fei d y with runtime := true, alnGood := 0, gotCredit := false, gotRaw := false, bad := [] }

theorem feiRetrain_active {d : Dev} {x : BundleEnd} (active : feiState d x = 6) (has : hasFei x = true) :
    feiRetrain d x = (bundleEnds x).foldl retrainEnd d := if_pos ⟨active, has⟩

theorem feiInc_actsAt (d : Dev) (u : BundleEnd) {i : Nat} (group : i < 8) (f : Fld) (n : Nat) :
    ActsAt d (feiInc d u i f n) u := by
  rw [feiInc_eq]
  exact feiSet_actsAt d u group _ _

theorem retrainEnd_actsAt (d : Dev) (u : BundleEnd) : ActsAt d (retrainEnd d u) u :=
  ((setFeiState_actsAt 1 d u).trans (feiInc_actsAt _ u (by decide) _ _)).trans (setFei_actsAt _ u _)

theorem feiCredit_setFei {x : BundleEnd} (has : hasFei x = true) (d : Dev) (u : BundleEnd) (v : Fei) (c : Nat) :
    feiCredit (setFei d u v) x c = feiCredit d x c := by
  unfold feiCredit
  rw [if_pos has, if_pos has]
  rfl

@[simp] theorem fusedExcl_setFei (d : Dev) (u x : BundleEnd) (v : Fei) : fusedExcl (setFei d u v) x = fusedExcl d x := rfl

section
variable (d : Dev) {x : BundleEnd} (has : hasFei x = true)
include has

/-- The credits of a class stand apart from the other groups. -/
theorem feiCredit_feiSet {i : Nat} (group : i < 7) (f : Fld) (v c : Nat) :
    feiCredit (feiSet d x i f v) x c = feiCredit d x c := by
  unfold feiCredit fget
  rw [if_pos has, if_pos has, rdReg_feiSet_group d has (by omega) (by decide) (by omega)]

theorem fusedExcl_feiSet {i : Nat} (group : i < 8) (other : 4 ≠ i) (f : Fld) (v : Nat) :
    fusedExcl (feiSet d x i f v) x = fusedExcl d x := by
  unfold fusedExcl
  rw [rdReg_feiSet_apart d has i 4 group (by decide) (.inr other)]

theorem feiCredit_retrainEnd (c : Nat) : feiCredit (retrainEnd d x) x c = feiCredit d x c := by
  rw [retrainEnd, feiCredit_setFei has, feiInc_eq, feiCredit_feiSet _ has (by decide), setFeiState,
    feiCredit_feiSet d has (by decide)]

theorem fusedExcl_retrainEnd : fusedExcl (retrainEnd d x) x = fusedExcl d x := by
  rw [retrainEnd, fusedExcl_setFei, feiInc_eq, fusedExcl_feiSet _ has (by decide) (by decide), setFeiState,
    fusedExcl_feiSet d has (by decide) (by decide)]

theorem feiState_retrainEnd : feiState (retrainEnd d x) x = 1 := by
  rw [retrainEnd, feiState_setFei, feiInc_eq, feiState_feiSet_group _ has (by decide) (by decide)]
  exact feiState_setFeiState d has (by decide)

theorem retrains_retrainEnd : feiGet (retrainEnd d x) x 6 Fld.HUB_FEI_SWAP_retrains =
    min (feiGet d x 6 Fld.HUB_FEI_SWAP_retrains + 1) 0xFF := by
  rw [retrainEnd, feiGet_setFei, feiGet_feiInc_same _ has 6 (by decide) (by decide), setFeiState,
    feiGet_feiSet_group d has (by decide) (by decide) (by decide)]
  rfl

end

theorem fei_retrainEnd (d : Dev) (x : BundleEnd) : fei (retrainEnd d x) x =
    { fei d x with runtime := true, alnGood := 0, gotCredit := false, gotRaw := false, bad := [] } := by
  rw [retrainEnd, fei_setFei_same, fei_feiInc, fei_setFeiState]

/-- What a retrain of a bundle leaves of a device: both ends are in DETECT, it is counted, and what R263 names stays. -/
structure Retrained (d d' : Dev) (x y : BundleEnd) : Prop where
  states : BundleAt d' x y 1
  wq : d'.wq = d.wq
  reports : d'.reports = d.reports
  counted : feiGet d' x 6 Fld.HUB_FEI_SWAP_retrains = min (feiGet d x 6 Fld.HUB_FEI_SWAP_retrains + 1) 0xFF
  runtime : (fei d' x).runtime = true
  seqTx : (fei d' x).seqTx = (fei d x).seqTx
  seqRx : (fei d' x).seqRx = (fei d x).seqRx
  replay : (fei d' x).replay = (fei d x).replay
  roles : (fei d' x).txRaw = (fei d x).txRaw
  credits : ∀ c, c < 10 → feiCredit d' x c = feiCredit d x c
  fused : fusedExcl d' x = fusedExcl d x

theorem feiRetrain_retrained {d : Dev} {x y : BundleEnd} (far : farEnd x = some y) (active : feiState d x = 6) :
    Retrained d (feiRetrain d x) x y := by
  have has := hasFei_of_farEnd far
  rw [feiRetrain_active active has]
  obtain ⟨dx, before, after⟩ := bundle_foldl retrainEnd_actsAt far d (.inl rfl)
  have only : feiOnly d ((bundleEnds x).foldl retrainEnd d) := .foldl (fun d u => (retrainEnd_actsAt d u).only) _ d
  have states {z : BundleEnd} (end_ : z = x ∨ z = y) :=
    bundle_enters far retrainEnd_actsAt (fun d _ has => feiState_retrainEnd d has) d end_
  have hidden := after.1.trans (fei_retrainEnd dx x)
  rw [before.1] at hidden
  refine ⟨⟨states (.inl rfl), states (.inr rfl)⟩, only.wq, only.reports, ?_, ?_, ?_, ?_, ?_, ?_, fun c cls => ?_, ?_⟩
  · rw [after.feiGet has (by decide), retrains_retrainEnd dx has, before.feiGet has (by decide)]
  iterate 5 rw [hidden]
  · rw [after.feiCredit has (by omega), feiCredit_retrainEnd dx has, before.feiCredit has (by omega)]
  · rw [after.fusedExcl has, fusedExcl_retrainEnd dx has, before.fusedExcl has]

/-- The retrain of a device whose messages received have been taken. -/
theorem Retrained.of_setFei {d d' : Dev} {x y : BundleEnd} (has : hasFei x = true) {v : Fei}
    (trained : Retrained (setFei d x v) d' x y) (named : v.seqTx = (fei d x).seqTx ∧ v.seqRx = (fei d x).seqRx ∧
      v.replay = (fei d x).replay ∧ v.txRaw = (fei d x).txRaw) : Retrained d d' x y := by
  obtain ⟨states, wq, reports, counted, runtime, seqTx, seqRx, replay, roles, credits, fused⟩ := trained
  rw [fei_setFei_same] at seqTx seqRx replay roles
  exact ⟨states, wq, reports, counted, runtime, seqTx.trans named.1, seqRx.trans named.2.1, replay.trans named.2.2.1,
    roles.trans named.2.2.2, fun c cls => (credits c cls).trans (feiCredit_setFei has d x v c), fused⟩

/-- Lanes found bad may be added to what a retrain leaves. -/
theorem Retrained.with_bad {d d' : Dev} {x y : BundleEnd} (has : hasFei x = true) (trained : Retrained d d' x y)
    (bad : List Nat) : Retrained d (setFei d' x { fei d' x with bad := bad }) x y := by
  obtain ⟨⟨atX, atY⟩, wq, reports, counted, runtime, seqTx, seqRx, replay, roles, credits, fused⟩ := trained
  have hidden := fei_setFei_same d' x { fei d' x with bad := bad }
  refine ⟨⟨(feiState_setFei ..).trans atX, (feiState_setFei ..).trans atY⟩, wq, reports, counted, ?_, ?_, ?_, ?_, ?_,
    fun c cls => (feiCredit_setFei has d' x _ c).trans (credits c cls), fused⟩
  all_goals rw [hidden]; assumption

/-! ### The loss of a lane -/

section
variable {d : Dev} {x : BundleEnd} (active : feiState d x = 6) (has : hasFei x = true) {lane : Nat}
  (new : lane ∉ exclOf d x false ++ (fei d x).reqs)
include active has new

theorem loseLane_asks (few : (exclOf d x false ++ (fei d x).reqs).length < 4) : loseLane d x lane =
    feiInc (setFei d x { fei d x with reqs := (fei d x).reqs ++ [lane] }) x 6 Fld.HUB_FEI_SWAP_swaps 1 := by
  unfold loseLane
  dsimp only
  rw [if_neg (by simp [active, has, new]), if_neg (by omega)]

theorem loseLane_retrains (many : 4 ≤ (exclOf d x false ++ (fei d x).reqs).length) : loseLane d x lane =
    setFei (feiRetrain d x) x { fei (feiRetrain d x) x with bad := exclOf d x false ++ (fei d x).reqs ++ [lane] } := by
  unfold loseLane
  dsimp only
  rw [if_neg (by simp [active, has, new]), if_pos many]

end

/-! ### The alignment slot -/

/-- The polynomial of the check takes a ninth bit away. -/
theorem crc8_reduces : ∀ c < 512, 256 ≤ c → c ^^^ 0x107 < 256 := by decide +kernel

theorem crc8Bits_lt (n w : Nat) {c : Nat} (small : c < 256) : crc8Bits n w c < 256 := by
  induction n generalizing c with
  | zero => exact small
  | succ n ih =>
    have next : 2 * c + bit (w.testBit n) < 512 := by
      unfold bit
      split <;> omega
    unfold crc8Bits
    dsimp only
    refine ih ?_
    split
    next high => exact crc8_reduces _ next high
    next low => omega

theorem alnCheck_lt (w : Nat) : alnCheck w < 256 := crc8Bits_lt 64 _ (by decide)

/-- The fields of an ALN word below its check (Table 8.1). -/
def alnFields (lane gen : Nat) (excl : Word) (req : Option Nat) : Nat :=
  lane + 2 ^ 8 * gen + 2 ^ 16 * excl.toNat + (match req with | some r => 2 ^ 48 * r + 2 ^ 55 | none => 0)

theorem alnWord_eq (lane gen : Nat) (excl : Word) (req : Option Nat) :
    alnWord lane gen excl req = alnFields lane gen excl req + 2 ^ 56 * alnCheck (alnFields lane gen excl req) := rfl


/-- A lane's number, the generation, the exclusions and the request of an ALN word (Table 8.1). -/
theorem alnFields_bits {lane gen : Nat} (isLane : lane < 68) (isGen : gen < 256) (excl : Word) {req : Option Nat}
    (asked : ∀ r, req = some r → r < 68) : let w := alnFields lane gen excl req
    w < 2 ^ 56 ∧ bits w 6 0 = lane ∧ bits w 55 8 = bits (alnFields 0 gen excl req) 55 8 ∧
      low32 (bits (bits w 55 8) 39 8) = excl ∧
      match req with
      | some r => tbit (bits w 55 8) 47 = true ∧ bits (bits w 55 8) 46 40 = r
      | none => tbit (bits w 55 8) 47 = false := by
  have := excl.isLt
  have word {n : Nat} (same : n = excl.toNat) : low32 n = excl := by rw [same]; exact BitVec.ofNat_toNat ..
  cases req with
  | none =>
    simp only [alnFields, bits, tbit, Nat.shiftRight_eq_div_pow, Nat.testBit_eq_decide_div_mod_eq, decide_eq_false_iff_not]
    exact ⟨by omega, by omega, by omega, word (by omega), by omega⟩
  | some r =>
    have := asked r rfl
    simp only [alnFields, bits, tbit, Nat.shiftRight_eq_div_pow, Nat.testBit_eq_decide_div_mod_eq, decide_eq_true_eq]
    exact ⟨by omega, by omega, by omega, word (by omega), by omega, by omega⟩

/-- The word of a lane is good: its lane number and its check are right (Table 8.1). -/
def goodAln (words : List (BitVec 64)) (l : Nat) : Bool :=
  let w := (words.getD l 0).toNat
  words.length > l && bits w 6 0 == l && bits w 63 56 == alnCheck w

/-- A slot of good words at an end: no lane has failed, and the slot is one more in succession. -/
def Fei.goodSlot (f : Fei) : Fei := { f with failed := [], alnGood := f.alnGood + 1 }

/-- What the map fields of an alignment slot bring: the exclusions, and a request (R259, R264). -/
def takeAlnMap (d : Dev) (x : BundleEnd) (v : Nat) : Dev :=
  let d := setExcl d x false (mapLanes (low32 (bits v 39 8)))
  if tbit v 47 then
    let lane := bits v 46 40
    let f := fei d x
    let cur := exclOf d x true ++ f.newExcl
    if cur.contains lane then d
    else if 4 ≤ cur.length then
      match farEnd x with
      | some y => let d := feiRetrain d x; setFei d y { fei d y with bad := cur ++ [lane] }
      | none => d
    else setFei d x { f with newExcl := f.newExcl ++ [lane] }
  else d

/-- A slot of words at an end: lanes that fail again are asked for, and good words bring their map fields. -/
def takeAlnSlot (d : Dev) (x : BundleEnd) (words : List (BitVec 64)) : Dev :=
  let ok := (List.range 68).filter (goodAln words)
  let failed := (List.range 68).filter (fun l => !(goodAln words l))
  let f := fei d x
  let d := (failed.filter f.failed.contains).foldl (fun d l => loseLane d x l)
    (setFei d x { f with failed := failed, alnGood := if ok = [] then 0 else f.alnGood + 1 })
  if ok = [] then d else takeAlnMap d x (mostCommon (ok.map (fun l => bits (words.getD l 0).toNat 55 8)))

theorem exec_alnReceived {s : State} {x : BundleEnd} (has : hasFei x = true) (active : feiState s.dev x = 6)
    (words : List (BitVec 64)) :
    exec (.alnReceived x words) s = .next (s.settle (takeAlnSlot s.dev.rest x words)) := by
  have open_ : ¬ (!(hasFei x) || !(feiState s.dev.rest x == 4 || feiState s.dev.rest x == 5 || feiState s.dev.rest x == 6)) = true := by
    rw [feiState_rest, active, has]
    decide
  change execAlnReceived x words s = _
  exact run_settle (if_neg open_)

/-- A slot whose 68 words are all good, with one value of their map fields. -/
theorem takeAlnSlot_good (d : Dev) (x : BundleEnd) {words : List (BitVec 64)} (good : ∀ l < 68, goodAln words l = true)
    {v : Nat} (value : mostCommon ((List.range 68).map (fun l => bits (words.getD l 0).toNat 55 8)) = v) :
    takeAlnSlot d x words = takeAlnMap (setFei d x (fei d x).goodSlot) x v := by
  have allGood : (List.range 68).filter (goodAln words) = List.range 68 :=
    List.filter_eq_self.mpr fun l mem => good l (List.mem_range.mp mem)
  have noneFails : (List.range 68).filter (fun l => !(goodAln words l)) = [] :=
    List.filter_eq_nil_iff.mpr fun l mem => by rw [good l (List.mem_range.mp mem)]; decide
  have some_ : List.range 68 ≠ [] := by decide
  simp only [takeAlnSlot, allGood, noneFails, if_neg some_, List.filter_nil, List.foldl_nil, value]
  rfl

/-- The value that all items carry is the most common. -/
theorem mostCommon_of_all {vs : List Nat} {v : Nat} (all : ∀ u ∈ vs, u = v) (some_ : vs ≠ []) : mostCommon vs = v := by
  have stays : ∀ us : List Nat, (∀ u ∈ us, u = v) →
      us.foldl (fun (b : Nat × Nat) u => if b.2 < vs.count u then (u, vs.count u) else b) (v, vs.count v) =
        (v, vs.count v) := by
    intro us same
    induction us with
    | nil => rfl
    | cons u us ih =>
      obtain ⟨rfl, rest⟩ := List.forall_mem_cons.mp same
      rw [List.foldl_cons, if_neg (Nat.lt_irrefl _)]
      exact ih rest
  obtain ⟨u, us, split⟩ := List.exists_cons_of_ne_nil some_
  have head : u = v := all u (split ▸ List.mem_cons_self)
  have counted : 0 < vs.count v := List.count_pos_iff.mpr (head ▸ split ▸ List.mem_cons_self)
  have walk : ∀ ws : List Nat, ws = u :: us →
      ws.foldl (fun (b : Nat × Nat) u => if b.2 < vs.count u then (u, vs.count u) else b) (0, 0) = (v, vs.count v) := by
    rintro ws rfl
    rw [List.foldl_cons, head, if_pos counted]
    exact stays us fun w mem => all w (split ▸ List.mem_cons_of_mem _ mem)
  exact congrArg Prod.fst (walk vs split)

/-- The words of an alignment slot as its sender makes them. -/
def alnWords (gen : Nat) (excl : Word) (req : Option Nat) : List (BitVec 64) :=
  (List.range 68).map (fun l => BitVec.ofNat 64 (alnWord l gen excl req))

section
variable {gen : Nat} (isGen : gen < 256) (excl : Word) {req : Option Nat} (asked : ∀ r, req = some r → r < 68)
include isGen asked

theorem alnWords_toNat {l : Nat} (isLane : l < 68) :
    ((alnWords gen excl req).getD l 0).toNat = alnFields l gen excl req + 2 ^ 56 * alnCheck (alnFields l gen excl req) := by
  obtain ⟨small, -⟩ := alnFields_bits isLane isGen excl asked
  have check := alnCheck_lt (alnFields l gen excl req)
  rw [alnWords, List.getD_eq_getElem _ _ (by simpa using isLane), List.getElem_map, List.getElem_range, BitVec.toNat_ofNat,
    alnWord_eq]
  omega

/-- The words that an end sends are good. -/
theorem goodAln_alnWords {l : Nat} (isLane : l < 68) : goodAln (alnWords gen excl req) l = true := by
  obtain ⟨small, lane, -⟩ := alnFields_bits isLane isGen excl asked
  have check := alnCheck_lt (alnFields l gen excl req)
  have word := alnWords_toNat isGen excl asked isLane
  unfold goodAln
  dsimp only
  rw [word]
  generalize alnFields l gen excl req = w at *
  have body : bits (w + 2 ^ 56 * alnCheck w) 55 0 = bits w 55 0 := by
    simp only [bits, Nat.shiftRight_eq_div_pow]
    omega
  have top : bits (w + 2 ^ 56 * alnCheck w) 63 56 = alnCheck w := by
    simp only [bits, Nat.shiftRight_eq_div_pow]
    omega
  have low : bits (w + 2 ^ 56 * alnCheck w) 6 0 = l := by
    rw [← lane]
    simp only [bits, Nat.shiftRight_eq_div_pow]
    omega
  have again : alnCheck (w + 2 ^ 56 * alnCheck w) = alnCheck w := by
    unfold alnCheck at body ⊢
    rw [body]
  rw [top, again, low]
  simp [alnWords, isLane]

theorem mostCommon_alnWords : mostCommon ((List.range 68).map (fun l => bits ((alnWords gen excl req).getD l 0).toNat 55 8)) =
    bits (alnFields 0 gen excl req) 55 8 := by
  refine mostCommon_of_all (fun u mem => ?_) (by simp)
  obtain ⟨l, isLane, rfl⟩ := List.mem_map.mp mem
  rw [List.mem_range] at isLane
  obtain ⟨small, -, map, -⟩ := alnFields_bits isLane isGen excl asked
  rw [alnWords_toNat isGen excl asked isLane, ← map]
  simp only [bits, Nat.shiftRight_eq_div_pow]
  omega

end

/-- The map fields of a slot of good words: its exclusions are taken, and its request joins the lanes to exclude. -/
theorem takeAlnMap_spec {d : Dev} {x : BundleEnd} (has : hasFei x = true) {gen : Nat} (isGen : gen < 256) (excl : Word)
    {req : Option Nat} (asked : ∀ r, req = some r → r < 68) (few : (exclOf d x true ++ (fei d x).newExcl).length < 4) :
    let e := takeAlnMap d x (bits (alnFields 0 gen excl req) 55 8)
    ActsAt d e x ∧ feiState e x = feiState d x ∧ rdReg e (feiDesc x 3) (feiIx x) = packLanes (mapLanes excl) ∧
      fei e x = { fei d x with newExcl := match req with
        | some r => if r ∈ exclOf d x true ++ (fei d x).newExcl then (fei d x).newExcl else (fei d x).newExcl ++ [r]
        | none => (fei d x).newExcl } := by
  obtain ⟨-, -, -, word, asks⟩ := alnFields_bits (by decide : 0 < 68) isGen excl asked
  have map := rdReg_setExcl_same (x := x) d false (mapLanes excl) has
  have acts := setExcl_actsAt d (x := x) false (mapLanes excl)
  have state : feiState (setExcl d x false (mapLanes excl)) x = feiState d x := by
    rw [feiState_eq _ has, feiState_eq _ has, feiGet_setExcl_stat d false _ has (by decide) (by decide)]
  have sent : exclOf (setExcl d x false (mapLanes excl)) x true = exclOf d x true := by
    unfold exclOf
    rw [rdReg_setExcl_group d false _ has (by decide) (by decide) (by decide)]
  unfold takeAlnMap
  dsimp only
  rw [word, sent, fei_setExcl]
  cases req with
  | none =>
    rw [if_neg (by rw [asks]; decide)]
    exact ⟨acts, state, map, fei_setExcl ..⟩
  | some r =>
    obtain ⟨asks, lane⟩ := asks
    rw [if_pos asks, lane]
    by_cases known : r ∈ exclOf d x true ++ (fei d x).newExcl
    · rw [if_pos (by simpa using known)]
      refine ⟨acts, state, map, (fei_setExcl ..).trans ?_⟩
      simp only [if_pos known]
    · rw [if_neg (by simpa using known), if_neg (by omega)]
      refine ⟨acts.trans (setFei_actsAt _ x _), (feiState_setFei ..).trans state, map, ?_⟩
      rw [fei_setFei_same]
      simp only [if_neg known]

/-! ### A broken raw channel -/

/-- The channels of a raw group at an end are broken, and what they had to send is dropped (R275). -/
def breakEnd (d : Dev) (y : BundleEnd) : Dev :=
  let f := fei d y
  if f.txRaw ≠ 0 ∨ f.rxRaw ≠ 0 then setFei d y { f with broken := true, rawQ := [], rawReplay := [] } else d

theorem breakEnd_hiddenOnly (d : Dev) (y : BundleEnd) : hiddenOnly d (breakEnd d y) := by
  unfold breakEnd
  dsimp only
  split <;> rfl

theorem breakEnd_actsAt (d : Dev) (y : BundleEnd) : ActsAt d (breakEnd d y) y := by
  unfold breakEnd
  dsimp only
  split
  · exact setFei_actsAt d y _
  · exact .refl d y

theorem fei_breakEnd (d : Dev) (y : BundleEnd) : (fei (breakEnd d y) y).rawIn = (fei d y).rawIn ∧
    ((fei d y).txRaw ≠ 0 ∨ (fei d y).rxRaw ≠ 0 → (fei (breakEnd d y) y).broken = true ∧ (fei (breakEnd d y) y).rawQ = []) := by
  unfold breakEnd
  dsimp only
  split
  next raw =>
    rw [fei_setFei_same]
    exact ⟨rfl, fun _ => ⟨rfl, rfl⟩⟩
  next protocol => exact ⟨rfl, fun raw => absurd raw protocol⟩

theorem exec_rawChannelBroken {s : State} {x : BundleEnd} (fenced : feiState s.dev x = 7) :
    exec (.rawChannelBroken x) s = .next (s.settle ((bundleEnds x).foldl breakEnd s.dev.rest)) := by
  change execRawChannelBroken x s = _
  exact run_settle (if_pos ((feiState_rest ..).trans fenced))

end Sys2Proof.Machine
end

section
/-!
SUPPORT. The rows of training, retrain and repair as runs of these steps (R262-R264).
-/
namespace Sys2Proof.Machine

section
variable {s : State} {x y : BundleEnd} (far : farEnd x = some y)
include far

/-- The timer ends an attempt in every state of training but LANE_TEST. -/
theorem exec_feinoTrainTimer_fails (here there : BitVec 68) {st : Nat} (at_ : feiState s.dev x = st)
    (training : st = 1 ∨ st = 3 ∨ st = 4 ∨ st = 5) :
    exec (.feinoTrainTimer x here there) s = .next (s.settle (feiFail s.dev.rest x)) := by
  change execFeinoTrainTimer x here there s = _
  refine run_settle ?_
  simp only [hasFei_of_farEnd far, Bool.not_true, Bool.false_eq_true, if_false, feiState_rest, at_]
  rcases training with rfl | rfl | rfl | rfl <;> rfl

/-- The timer ends LANE_TEST with the lanes that showed an error at each end. -/
theorem exec_feinoTrainTimer_laneTest (here there : BitVec 68) (at_ : feiState s.dev x = 2) :
    exec (.feinoTrainTimer x here there) s = .next (s.settle (setFeiState (setFeiState
      (setFei (setFei s.dev.rest x { fei s.dev x with bad := (fei s.dev x).bad ++ laneList here }) y
        { fei s.dev y with bad := (fei s.dev y).bad ++ laneList there }) x 3) y 3)) := by
  change execFeinoTrainTimer x here there s = _
  refine run_settle ?_
  simp only [hasFei_of_farEnd far, Bool.not_true, Bool.false_eq_true, if_false, feiState_rest, at_, far, fei_rest,
    fei_setFei_other _ (ne_of_farEnd far).symm]

end

/-- A retrain, by software's write or for want of an acknowledge while flits are unacknowledged (R263). -/
theorem exec_feinoRetrain (s : State) (x : BundleEnd) (soft : Bool) : exec (.feinoRetrain x soft) s = .next (s.settle
    (if (soft || !((fei s.dev x).replay.isEmpty)) = true then feiRetrain s.dev.rest x else s.dev.rest)) :=
  run_settle (f := fun _ d => if soft || !((fei d x).replay.isEmpty) then feiRetrain d x else d) rfl

theorem exec_feinoLaneLoss (s : State) (x : BundleEnd) (lane : Fin 68) :
    exec (.feinoLaneLoss x lane) s = .next (s.settle (loseLane s.dev.rest x lane.val)) :=
  run_settle (f := fun _ d => loseLane d x lane.val) rfl

/-- The first control message of a code, if one has been received. -/
theorem takeCtlMsg_some {d : Dev} {x : BundleEnd} {code : Nat} (some_ : ∃ a ∈ (fei d x).ctl, (a.headD 0).toNat = code) :
    ∃ a, takeCtlMsg d x code = some (a.drop 8, setFei d x { fei d x with ctl := (fei d x).ctl.erase a }) := by
  obtain ⟨a, mem, named⟩ := some_
  have found : ((fei d x).ctl.find? (fun a => (a.headD 0).toNat == code)).isSome = true :=
    List.find?_isSome.mpr ⟨a, mem, beq_iff_eq.mpr named⟩
  obtain ⟨b, first⟩ := Option.isSome_iff_exists.mp found
  refine ⟨b, ?_⟩
  unfold takeCtlMsg
  simp only [first]

end Sys2Proof.Machine
end

section
/-!
CLAIM. The training, the retrain, the repair and the fence of a bundle (R259-R266, R275).
-/
namespace Sys2Proof.Machine

theorem feiState_settle (s : State) (d : Dev) (x : BundleEnd) : feiState (s.settle d).dev x = feiState d x :=
  feiState_rest d x

/-- Both ends are in a state once a command without memory changes has put them there. -/
theorem settle_both {s : State} {d : Dev} {x y : BundleEnd} {st : Nat} (wq : d.wq = []) (at_ : BundleAt d x y st) :
    (s.settle d).mem = s.mem ∧ feiState (s.settle d).dev x = st ∧ feiState (s.settle d).dev y = st :=
  ⟨settle_mem_of_quiet s wq, (feiState_settle s d x).trans at_.1, (feiState_settle s d y).trans at_.2⟩

section
variable {s : State} {x y : BundleEnd} (far : farEnd x = some y)
include far

/-- An acknowledgement that moves both ends, by an action at each. -/
theorem settle_bundle {F : Dev → BundleEnd → Dev} (acts : ∀ d u, ActsAt d (F d u) u) {st : Nat}
    (enters : ∀ d u, hasFei u = true → feiState (F d u) u = st) :
    let t := s.settle ((bundleEnds x).foldl F s.dev.rest)
    t.mem = s.mem ∧ feiState t.dev x = st ∧ feiState t.dev y = st :=
  settle_both (feiOnly.foldl (fun d u => (acts d u).only) _ _).wq
    ⟨bundle_enters far acts enters _ (.inl rfl), bundle_enters far acts enters _ (.inr rfl)⟩

/-- EXCHANGE, with roles that can be answered: too many lanes fence the bundle, and others align it. -/
theorem exchange_result (at_ : BundleAt s.dev.rest x y 3) (leads : endLeads x = true)
    (answered : ¬ ((feiGet s.dev x 0 Fld.HUB_FEI_CTL_tx_raw ≠ 0 ∧ feiGet s.dev x 0 Fld.HUB_FEI_CTL_rx_raw = 15) ∨
      (feiGet s.dev x 0 Fld.HUB_FEI_CTL_rx_raw ≠ 0 ∧ feiGet s.dev x 0 Fld.HUB_FEI_CTL_tx_raw = 15))) :
    let out := laneUnion s.dev.rest x y
    let back := laneUnion s.dev.rest y x
    let shown := showMismatch s.dev.rest x y
    (4 < out.length ∨ 4 < back.length → exchange s.dev.rest x = report (feiClose shown x) (fenceReport x) ∧ feiState shown x ≠ 7) ∧
    (out.length ≤ 4 → back.length ≤ 4 → exchange s.dev.rest x = aligned shown x y
      (feiGet s.dev x 0 Fld.HUB_FEI_CTL_tx_raw) (feiGet s.dev x 0 Fld.HUB_FEI_CTL_rx_raw) out back) := by
  intro out back shown
  have eq := exchange_eq (d := s.dev.rest) far leads answered
  obtain ⟨outSame, backSame⟩ := laneUnion_showMismatch far s.dev.rest
  rw [outSame, backSame] at eq
  have hx := hasFei_of_farEnd far
  have open_ : feiState shown x ≠ 7 := by
    rw [((showMismatch_actsAt s.dev.rest x y).keeps x hx (ne_of_farEnd far)).feiState hx, at_.1]
    decide
  refine ⟨fun many => ⟨?_, open_⟩, fun few few' => ?_⟩
  · rw [eq, if_pos many]
    exact feiFence_open open_
  · exact eq.trans (if_neg (not_or.mpr ⟨Nat.not_lt.mpr few, Nat.not_lt.mpr few'⟩))

end

/-- What a state shows of a retrain that a command has begun. -/
theorem settle_retrained {s : State} {d : Dev} {x y : BundleEnd} (trained : Retrained s.dev.rest d x y) :
    let t := s.settle d
    (t.mem = s.mem ∧ feiState t.dev x = 1 ∧ feiState t.dev y = 1) ∧ t.dev.reports = s.dev.reports ∧
      feiGet t.dev x 6 Fld.HUB_FEI_SWAP_retrains = min (feiGet s.dev x 6 Fld.HUB_FEI_SWAP_retrains + 1) 0xFF ∧
      (fei t.dev x).runtime = true ∧ (fei t.dev x).seqTx = (fei s.dev x).seqTx ∧ (fei t.dev x).seqRx = (fei s.dev x).seqRx ∧
      (fei t.dev x).replay = (fei s.dev x).replay ∧ (fei t.dev x).txRaw = (fei s.dev x).txRaw ∧
      (∀ c, c < 10 → feiCredit t.dev x c = feiCredit s.dev x c) ∧ fusedExcl t.dev x = fusedExcl s.dev x := by
  obtain ⟨states, wq, reports, counted, runtime, seqTx, seqRx, replay, roles, credits, fused⟩ := trained
  exact ⟨settle_both wq states, reports, counted, runtime, seqTx, seqRx, replay, roles, credits, fused⟩

/-- Settles O36: each command is one step of training at each end, or nothing. -/
theorem feinoTrainingAndRepair : Obligations.FeinoTrainingAndRepair := by
  unfold Obligations.FeinoTrainingAndRepair
  intro s x y far
  have hx := hasFei_of_farEnd far
  have ne := ne_of_farEnd far
  have resting {st : Nat} (at_ : feiState s.dev x = st ∧ feiState s.dev y = st) : BundleAt s.dev.rest x y st :=
    ⟨(feiState_rest ..).trans at_.1, (feiState_rest ..).trans at_.2⟩
  refine ⟨fun here there at_ => ?_, fun here there training => ?_, fun here there at_ => ?_, ?_, fun here there at_ => ?_,
    fun here there at_ => ?_, ?_, ?_, fun fenced => ?_⟩
  · have run := exec_feinoTrainAck_detect far here there (resting at_)
    refine ⟨fun enough enough' => ?_, fun few => ?_⟩
    · rw [if_pos ⟨enough, enough'⟩] at run
      exact ⟨_, run, settle_bundle far (setFeiState_actsAt 2) (fun d _ has => feiState_setFeiState d has (by decide)),
        foldl_fei (fun d u => setFeiState_fei d u 2) _ _⟩
    · rwa [if_neg (by omega)] at run
  · obtain ⟨st, at_, one⟩ := training
    refine ⟨_, exec_feinoTrainTimer_fails far here there at_.1 one, fun atStart few => ?_, fun last => ?_⟩
    · obtain ⟨states, only, counted⟩ := feiFail_again far s.dev.rest atStart few
      exact ⟨settle_both only.wq states, only.reports, counted x (.inl rfl), counted y (.inr rfl)⟩
    · have open_ : feiState s.dev.rest x ≠ 7 := by
        rw [feiState_rest, at_.1]
        omega
      obtain ⟨states, wq, reports⟩ := feiFail_fences far s.dev.rest open_ last
      exact ⟨settle_both wq states, _, reports, rfl, rfl⟩
  · have hy := hasFei_of_farEnd (farEnd_symm far)
    have run := exec_feinoTrainTimer_laneTest far here there at_
    refine ⟨_, run, settle_both ?_ ⟨?_, feiState_setFeiState _ hy (by decide)⟩, ?_, ?_, ?_⟩
    · exact (feiOnly.trans (feiSet_feiOnly _ _ _ _ _) (feiSet_feiOnly _ _ _ _ _)).wq
    · rw [((setFeiState_actsAt 3 _ y).keeps x hx ne).feiState hx, feiState_setFeiState _ hx (by decide)]
    · exact (feiOnly.trans (feiSet_feiOnly _ _ _ _ _) (feiSet_feiOnly _ _ _ _ _)).reports
    all_goals rw [settle_dev, fei_rest, fei_setFeiState, fei_setFeiState]
    · rw [fei_setFei_other _ ne, fei_setFei_same]
    · rw [fei_setFei_same]
  · intro here there at_ leads tx rx out back answered
    obtain ⟨fences, aligns⟩ := exchange_result far (resting at_) leads answered
    refine ⟨_, exec_feinoTrainAck_exchange far here there (resting at_), fun many => ?_, fun few few' => ?_⟩
    · obtain ⟨closes, open_⟩ := fences many
      have shows := (showMismatch_actsAt s.dev.rest x y).only
      have only := shows.trans (feiClose_feiOnly _ x)
      rw [closes]
      refine ⟨settle_both only.wq ⟨?_, ?_⟩, ?_⟩
      · exact (feiState_report ..).trans (feiState_feiClose far open_ (.inl rfl))
      · exact (feiState_report ..).trans (feiState_feiClose far open_ (.inr rfl))
      · exact List.length_append.trans (congrArg (·.length + 1) only.reports)
    · rw [aligns few few']
      obtain ⟨states, only, ⟨outX, outY⟩, ⟨backY, backX⟩, ⟨genX, genY⟩, ⟨txX, rxX⟩, ⟨txY, rxY⟩, mis⟩ :=
        aligned_spec far (showMismatch s.dev.rest x y) out back tx rx
      have only := (showMismatch_actsAt s.dev.rest x y).only.trans only
      exact ⟨settle_both only.wq states, only.reports, outX, outY, backY, backX, genX, genY, txX, rxX, txY, rxY,
        fun differ => mis.trans (showMismatch_mis far s.dev.rest differ)⟩
  · have run := exec_feinoTrainAck_align far here there (resting at_)
    refine ⟨fun good good' => ?_, fun few => ?_⟩
    · rw [if_pos (by simp [good, good'])] at run
      obtain ⟨dx, before, after⟩ := bundle_foldl enterCredit_actsAt far s.dev.rest (.inl rfl)
      obtain ⟨depths, raw, length, queue⟩ := ctlq_enterCredit dx x
      refine ⟨_, depths, raw, run, settle_bundle far enterCredit_actsAt (fun d _ has => feiState_enterCredit d has), ?_, length⟩
      rw [before.1, ← after.1] at queue
      exact queue
    · rwa [if_neg (by simp; omega)] at run
  · have run := exec_feinoTrainAck_credit far here there (resting at_)
    refine ⟨fun came => ?_, fun missing => ?_⟩
    · obtain ⟨creditX, rawX⟩ := came x (by simp)
      obtain ⟨creditY, rawY⟩ := came y (by simp)
      rw [if_pos (by simp [creditX, rawX, creditY, rawY])] at run
      obtain ⟨dx, before, after⟩ := bundle_foldl enterActive_actsAt far s.dev.rest (.inl rfl)
      obtain ⟨runtime, replay, resend⟩ := fei_enterActive dx x
      rw [← after.1] at runtime replay resend
      rw [before.1] at replay resend
      exact ⟨_, run, settle_bundle far enterActive_actsAt (fun d _ has => feiState_enterActive d has), runtime, replay, resend⟩
    · rwa [if_neg] at run
      obtain ⟨z, end_, missing⟩ := missing
      simp only [Bool.and_eq_true]
      rintro ⟨⟨creditX, rawX⟩, creditY, rawY⟩
      rcases (by simpa using end_ : z = x ∨ z = y) with rfl | rfl <;> simp_all
  · intro retrains active
    have active' : feiState s.dev.rest x = 6 := (feiState_rest ..).trans active
    have trained : Retrained s.dev.rest (feiRetrain s.dev.rest x) x y := feiRetrain_retrained far active'
    have soft := exec_feinoRetrain s x
    refine ⟨⟨_, soft true, settle_retrained trained⟩, fun waiting => ?_, fun none_ => ?_, fun asked => ?_,
      fun lane new => ⟨fun few => ?_, fun many => ?_⟩⟩
    · have run := soft false
      rw [if_pos (by simpa using waiting)] at run
      exact ⟨_, run, settle_retrained trained⟩
    · have run := soft false
      rwa [if_neg (by simp [none_])] at run
    · obtain ⟨a, taken⟩ := takeCtlMsg_some (d := s.dev.rest) asked
      have run : exec (.retrainReq x) s = .next (s.settle (feiRetrain (setFei s.dev.rest x
          { fei s.dev x with ctl := (fei s.dev x).ctl.erase a }) x)) := by
        change execRetrainReq x s = _
        refine run_settle ?_
        rw [taken]
        rfl
      refine ⟨_, run, settle_retrained (.of_setFei hx (feiRetrain_retrained far ?_) ⟨rfl, rfl, rfl, rfl⟩)⟩
      exact (feiState_setFei ..).trans active'
    · have run := exec_feinoLaneLoss s x lane
      rw [loseLane_asks active' hx new few] at run
      refine ⟨_, run, settle_mem_of_quiet s ?_, ?_, ?_, ?_⟩
      · exact (feiInc_actsAt _ x (by decide) _ _).only.wq
      · rw [feiState_settle, feiInc_eq, feiState_feiSet_group _ hx (by decide) (by decide), feiState_setFei, active']
      · exact congrArg Fei.reqs ((fei_feiInc ..).trans (fei_setFei_same ..))
      · exact feiGet_feiInc_same _ hx 6 (by decide) (by decide) 1
    · have run := exec_feinoLaneLoss s x lane
      rw [loseLane_retrains active' hx new many] at run
      exact ⟨_, run, settle_retrained (trained.with_bad hx _)⟩
  · intro gen excl req active cur few
    have asked : ∀ r, req.map Fin.val = some r → r < 68 := by
      rintro r some_
      obtain ⟨l, -, rfl⟩ := Option.map_eq_some_iff.mp some_
      exact l.isLt
    have slot := takeAlnSlot_good s.dev.rest x (fun l isLane => goodAln_alnWords gen.isLt excl asked isLane)
      (mostCommon_alnWords gen.isLt excl asked)
    have run : exec (.alnReceived x (alnWords gen.val excl (req.map Fin.val))) s = _ := exec_alnReceived hx active _
    rw [slot, fei_rest] at run
    obtain ⟨acts, state, map, hidden⟩ := takeAlnMap_spec (d := setFei s.dev.rest x (fei s.dev x).goodSlot) hx gen.isLt excl
      asked (by rw [fei_setFei_same]; exact few)
    rw [fei_setFei_same] at hidden
    refine ⟨_, run, settle_mem_of_quiet s acts.only.wq, ?_, ?_, ?_, map, ?_⟩
    · rw [feiState_settle, state, feiState_setFei, feiState_rest, active]
    all_goals rw [settle_dev, fei_rest, hidden]
    · rfl
    · rfl
    · cases req <;> rfl
  · have run := exec_rawChannelBroken fenced
    have only : hiddenOnly s.dev.rest ((bundleEnds x).foldl breakEnd s.dev.rest) := .foldl breakEnd_hiddenOnly _ _
    refine ⟨_, run, settle_mem_of_quiet s only.wq, only.regs, fun z end_ => ?_⟩
    obtain ⟨dz, before, after⟩ := bundle_foldl breakEnd_actsAt far s.dev.rest (by simpa using end_)
    have broken := fei_breakEnd dz z
    rw [← after.1, before.1] at broken
    exact broken

end Sys2Proof.Machine
end

section
/-!
SUPPORT. What an end sends in a slot time (R258, R267-R271): the bytes of a flit with its CRC, and the flit itself.
-/
namespace Sys2Proof.Machine

/-! ### The bytes of a flit -/

theorem crc32Step_lt (n : Nat) {c : Nat} (small : c < 2 ^ 32) : crc32Step n c < 2 ^ 32 := by
  induction n generalizing c with
  | zero => exact small
  | succ n ih =>
    unfold crc32Step
    split
    · exact ih (Nat.xor_lt_two_pow (by omega) (by decide))
    · exact ih (by omega)

theorem crc32c_lt (bs : List Byte) : crc32c bs < 2 ^ 32 := by
  have walk : ∀ (bs : List Byte) (c : Nat), c < 2 ^ 32 → bs.foldl (fun c b => crc32Step 8 (c ^^^ b.toNat)) c < 2 ^ 32 := by
    intro bs
    induction bs with
    | nil => exact fun c small => small
    | cons b bs ih =>
      exact fun c small => ih _ (crc32Step_lt 8 (Nat.xor_lt_two_pow small (b.isLt.trans (by decide))))
  exact Nat.xor_lt_two_pow (walk bs _ (by decide)) (by decide)

@[simp] theorem length_padTo (n : Nat) (bs : List Byte) : (padTo n bs).length = n := by
  unfold padTo
  simp
  omega

/-- A flit is 252 bytes and their CRC (R267). -/
theorem feiFlitBytes_spec (f : Fei) (fl : FFlit) : (feiFlitBytes f fl).length = 256 ∧
    leNat ((feiFlitBytes f fl).drop 252) = crc32c ((feiFlitBytes f fl).take 252) := by
  have framed : ∀ body : List Byte, body.length = 252 → (body ++ leBytes 4 (crc32c body)).length = 256 ∧
      leNat ((body ++ leBytes 4 (crc32c body)).drop 252) = crc32c ((body ++ leBytes 4 (crc32c body)).take 252) := by
    intro body length
    rw [← length, List.drop_left, List.take_left, leNat_leBytes]
    exact ⟨by simp [length], Nat.mod_eq_of_lt (crc32c_lt body)⟩
  exact framed _ (by simp)

/-! ### A flit sent -/

/-- A device has sent one flit of an end: its bytes with their CRC, and neither memory nor the slot time is touched. -/
def SendsFlit (d d' : Dev) (x : BundleEnd) : Prop :=
  d'.wq = d.wq ∧ (fei d' x).slot = (fei d x).slot ∧
    ∃ b, d'.out = d.out ++ [.feino (endKey x) 0 b] ∧ b.length = 256 ∧ leNat (b.drop 252) = crc32c (b.take 252)

/-- What is done at an end before its flit is sent leaves memory, what has left the device and the slot time. -/
def Prepares (d d' : Dev) (x : BundleEnd) : Prop :=
  d'.wq = d.wq ∧ d'.out = d.out ∧ (fei d' x).slot = (fei d x).slot

theorem SendsFlit.after {a b c : Dev} {x : BundleEnd} (before : Prepares a b x) (sends : SendsFlit b c x) : SendsFlit a c x := by
  obtain ⟨wq, out, slot⟩ := before
  obtain ⟨wq', slot', bytes, sent, good⟩ := sends
  exact ⟨wq'.trans wq, slot'.trans slot, bytes, out ▸ sent, good⟩

theorem setFei_prepares (d : Dev) {x : BundleEnd} {v : Fei} (slot : v.slot = (fei d x).slot) : Prepares d (setFei d x v) x :=
  ⟨rfl, rfl, by rw [fei_setFei_same, slot]⟩

theorem setFeiCredit_prepares (d : Dev) (x : BundleEnd) (c v : Nat) : Prepares d (setFeiCredit d x c v) x := by
  unfold setFeiCredit
  split
  · exact ⟨rfl, rfl, rfl⟩
  · exact setFei_prepares d rfl

theorem Prepares.trans {a b c : Dev} {x : BundleEnd} (h : Prepares a b x) (k : Prepares b c x) : Prepares a c x :=
  ⟨k.1.trans h.1, k.2.1.trans h.2.1, k.2.2.trans h.2.2⟩

/-- Its flit has left: the nak bits went with it (R271). -/
def Fei.asked (f : Fei) : Fei := { f with nakOut := false, rawNakOut := false }

theorem fei_sendFlit (d : Dev) (x : BundleEnd) (fl : FFlit) :
    fei (sendFlit d x fl) x = (fei d x).asked := fei_setFei_same ..

theorem sendFlit_sends (d : Dev) (x : BundleEnd) (fl : FFlit) : SendsFlit d (sendFlit d x fl) x :=
  ⟨rfl, by rw [fei_sendFlit]; rfl, _, rfl, feiFlitBytes_spec (fei d x) fl⟩

/-- The flit that is sent anew (R268). -/
def newFlit (f : Fei) (ftype sov : Nat) (slots : List Byte) : FFlit :=
  { seq := f.seqTx, ftype := ftype, sov := sov, cr := (takeOwed f.owed).1 + 256 * (takeOwed (takeOwed f.owed).2).1,
    rawCr := min 255 f.rawOwed, slots := slots }

/-- An end that has sent a new flit keeps it for replay, and goes on to the next number. -/
def Fei.sentNew (f : Fei) (tb ftype sov : Nat) (slots : List Byte) : Fei :=
  { f with
    owed := (takeOwed (takeOwed f.owed).2).2, rawOwed := f.rawOwed - min 255 f.rawOwed, seqTx := (f.seqTx + 1) % 4096
    replay := f.replay ++ [newFlit f ftype sov slots], progress := if f.replay.isEmpty then tb else f.progress }

/-- No message waits at an end. -/
def Fei.noMessages (f : Fei) : Fei := { f with txq := [] }

theorem sendNewFlit_eq (d : Dev) (x : BundleEnd) (ftype sov : Nat) (slots : List Byte) : sendNewFlit d x ftype sov slots =
    sendFlit (setFei d x ((fei d x).sentNew d.tb ftype sov slots)) x (newFlit (fei d x) ftype sov slots) := rfl

theorem fei_sendNewFlit (d : Dev) (x : BundleEnd) (ftype sov : Nat) (slots : List Byte) :
    fei (sendNewFlit d x ftype sov slots) x = ((fei d x).sentNew d.tb ftype sov slots).asked := by
  rw [sendNewFlit_eq, fei_sendFlit, fei_setFei_same]

/-- What an end that has sent a new flit holds of its queues. -/
theorem sendNewFlit_queues (d : Dev) (x : BundleEnd) (ftype sov : Nat) (slots : List Byte) :
    let f := fei (sendNewFlit d x ftype sov slots) x
    f.replay = (fei d x).replay ++ [newFlit (fei d x) ftype sov slots] ∧ f.seqTx = ((fei d x).seqTx + 1) % 4096 ∧
      f.txq = (fei d x).txq := by
  rw [fei_sendNewFlit]
  simp only [Fei.asked, Fei.sentNew, and_self]

theorem sendNewFlit_sends (d : Dev) (x : BundleEnd) (ftype sov : Nat) (slots : List Byte) :
    SendsFlit d (sendNewFlit d x ftype sov slots) x := by
  rw [sendNewFlit_eq]
  exact .after (setFei_prepares (v := (fei d x).sentNew d.tb ftype sov slots) d rfl) (sendFlit_sends ..)

/-- The credits that messages spend. -/
def spendCredits (x : BundleEnd) (d : Dev) (ms : List (List Byte)) : Dev :=
  ms.foldl (fun d m => setFeiCredit d x (msgClass m) (feiCredit d x (msgClass m) - msgSlots m)) d

theorem spendCredits_prepares (x : BundleEnd) (ms : List (List Byte)) (d : Dev) : Prepares d (spendCredits x d ms) x := by
  induction ms generalizing d with
  | nil => exact ⟨rfl, rfl, rfl⟩
  | cons m ms ih => exact (setFeiCredit_prepares ..).trans (ih _)

/-- The messages that an end packs into its next flit, and those that stay (R269, R270). -/
def nextPacked (d : Dev) (x : BundleEnd) : List (List Byte) × List (List Byte) :=
  if feiState d x = 6 ∧ !(edgeWaits d x) then feiPack (feiCredit d x) (fei d x).txq 0 [0, 0, 0, 0, 0, 0, 0, 0, 0, 0] []
  else ([], (fei d x).txq)

/-- A flit of packed messages and of credits to return, or IDLE. -/
def sendPacked (d : Dev) (x : BundleEnd) (r : List (List Byte) × List (List Byte)) : Dev :=
  let f := fei d x
  if r.1 = [] ∧ f.owed.all (· == 0) ∧ f.rawOwed = 0 then
    sendFlit d x { seq := f.seqTx, ftype := 0, sov := 0, cr := 0, rawCr := 0, slots := [] }
  else
    sendNewFlit (spendCredits x (setFei d x { f with txq := r.2 }) r.1) x 1 (sovBits 0 r.1)
      (r.1.flatMap (fun m => padTo (16 * msgSlots m) m))

theorem sendPacked_sends (d : Dev) (x : BundleEnd) (r : List (List Byte) × List (List Byte)) :
    SendsFlit d (sendPacked d x r) x := by
  unfold sendPacked
  dsimp only
  split
  · exact sendFlit_sends ..
  · refine .after (.trans (setFei_prepares d ?_) (spendCredits_prepares x _ _)) (sendNewFlit_sends ..)
    rfl

/-- An end whose group has gathered the time of a flit sends one (R268, R271). -/
theorem sendNextFlit_sends (d : Dev) (x : BundleEnd) : SendsFlit d (sendNextFlit d x) x := by
  unfold sendNextFlit
  dsimp only
  split
  · refine .after (setFei_prepares d ?_) (sendFlit_sends ..)
    rfl
  · split
    · exact sendFlit_sends ..
    · split
      · refine .after (setFei_prepares d ?_) (sendNewFlit_sends ..)
        rfl
      · exact sendPacked_sends d x (nextPacked d x)

/-- With nothing to resend and no control message, messages go out (R269). -/
theorem sendNextFlit_messages {d : Dev} {x : BundleEnd} (fresh : (fei d x).resend = none) (room : (fei d x).replay.length < 128)
    (noControl : (fei d x).ctlq = []) : sendNextFlit d x = sendPacked d x (nextPacked d x) := by
  unfold sendNextFlit
  dsimp only
  split
  next fl found =>
    rw [fresh] at found
    cases found
  next =>
    rw [if_neg (Nat.not_le.mpr room)]
    split
    next c cs queued =>
      rw [noControl] at queued
      cases queued
    next => rfl

/-! ### One message -/

/-- A message that fits a flit and its credits is packed whole (R269, R270). -/
theorem feiPack_one {credit : Nat → Nat} {m : List Byte} (fits : msgSlots m ≤ 15) (paid : msgSlots m ≤ credit (msgClass m)) :
    feiPack credit [m] 0 [0, 0, 0, 0, 0, 0, 0, 0, 0, 0] [] = ([m], []) := by
  have unspent : ∀ c, ([0, 0, 0, 0, 0, 0, 0, 0, 0, 0] : List Nat).getD c 0 = 0 := by
    intro c
    rcases Nat.lt_or_ge c 10 with small | big
    · exact (by decide : ∀ c < 10, ([0, 0, 0, 0, 0, 0, 0, 0, 0, 0] : List Nat).getD c 0 = 0) c small
    · exact List.getD_eq_default _ _ big
  simp only [feiPack, unspent, List.contains_nil, Bool.false_eq_true, false_or]
  rw [if_neg (by omega)]

/-- A change of an end's hidden state that keeps what is asked of it keeps it at every end. -/
theorem fei_setFei_keeps {α : Type} (p : Fei → α) {d : Dev} {x : BundleEnd} {v : Fei} (same : p v = p (fei d x)) (z : BundleEnd) :
    p (fei (setFei d x v) z) = p (fei d z) := by
  by_cases at_ : z = x
  · rw [at_, fei_setFei_same, same]
  · rw [fei_setFei_other d at_]

theorem edgeWaits_congr {d d' : Dev} (same : ∀ z, (fei d' z).waitInfo = (fei d z).waitInfo) (x : BundleEnd) :
    edgeWaits d' x = edgeWaits d x := by
  unfold edgeWaits
  simp only [same]

section
variable {d : Dev} {x : BundleEnd} {m : List Byte} (has : hasFei x = true)

/-- One message that fits its credits goes out at once: its slots are spent, and the flit is kept for replay. -/
theorem sendNextFlit_one (active : feiState d x = 6) (free : edgeWaits d x = false) (fresh : (fei d x).resend = none)
    (room : (fei d x).replay.length < 128) (noControl : (fei d x).ctlq = []) (queued : (fei d x).txq = [m])
    (fits : msgSlots m ≤ 15) (paid : msgSlots m ≤ feiCredit d x (msgClass m)) : sendNextFlit d x =
      sendNewFlit (setFeiCredit (setFei d x (fei d x).noMessages) x (msgClass m)
        (feiCredit (setFei d x (fei d x).noMessages) x (msgClass m) - msgSlots m)) x 1 1 (padTo (16 * msgSlots m) m) := by
  have packed : nextPacked d x = ([m], []) := by
    rw [nextPacked, if_pos ⟨active, by rw [free]; rfl⟩, queued]
    exact feiPack_one fits paid
  rw [sendNextFlit_messages fresh room noControl, packed, sendPacked, if_neg fun none_ => List.cons_ne_nil m [] none_.1,
    List.flatMap_singleton]
  rfl

include has

theorem fget_cred_setFeiCredit (d : Dev) (c v : Nat) : feiCredit (setFeiCredit d x c v) x c = v % 4096 := by
  unfold feiCredit setFeiCredit
  rw [if_pos has, if_pos has]
  exact fget_fset_same _ _ _ _ _ (by decide) (by decide)

theorem feiCredit_sendNewFlit (d : Dev) (ftype sov : Nat) (slots : List Byte) (c : Nat) :
    feiCredit (sendNewFlit d x ftype sov slots) x c = feiCredit d x c := by
  unfold feiCredit
  rw [if_pos has, if_pos has]
  rfl

theorem setFeiCredit_fei (d : Dev) (c v : Nat) (z : BundleEnd) : fei (setFeiCredit d x c v) z = fei d z := by
  unfold setFeiCredit
  rw [if_pos has]
  rfl

end

end Sys2Proof.Machine
end

section
/-!
SUPPORT. One slot time of an end in service (R258, R259, R265, R268).
-/
namespace Sys2Proof.Machine

/-- Raw frames wait at an end. -/
def Fei.withFrames (f : Fei) (rs : List (Nat × Bool × List Byte)) : Fei := { f with rawQ := f.rawQ ++ rs }

@[simp] theorem Fei.withFrames_nil (f : Fei) : f.withFrames [] = f := by
  rw [Fei.withFrames, List.append_nil]

/-- A message waits at an end. -/
def Fei.withMessage (f : Fei) (m : List Byte) : Fei := { f with txq := f.txq ++ [m] }

/-- Messages and frames that a die offers at an end join what waits there. -/
def offered (d : Dev) (x : BundleEnd) (msgs : List (List Byte)) (frames : List RawFrame) : Dev :=
  let d := offerMsgs d x (msgs.filter (fun m => !(msgBad m)))
  setFei d x ((fei d x).withFrames ((frames.filter (fun r => r.chan != 15)).map (fun r => (r.chan.toNat, r.last, r.data))))

/-- A slot time has passed. -/
def Fei.passed (f : Fei) : Fei := { f with slot := (f.slot + 1) % 1024 }

/-- The protocol group and the raw group have so many quarters of a slot time, of which whole ones are used. -/
def Fei.gathered (f : Fei) (p r : Nat) : Fei := { f with accP := p % 4, accR := r % 4 }

/-- The slot time of an end passes. -/
def slotPassed (d : Dev) (x : BundleEnd) : Dev := setFei d x (fei d x).passed

theorem fei_slotPassed (d : Dev) (x : BundleEnd) : fei (slotPassed d x) x = (fei d x).passed := fei_setFei_same ..

/-- The queues of an end once a message waits and a slot time has been gathered. -/
theorem Fei.gathered_withMessage (f : Fei) (m : List Byte) (p r : Nat) : let g := (f.withMessage m).passed.gathered p r
    g.resend = f.resend ∧ g.replay = f.replay ∧ g.ctlq = f.ctlq ∧ g.txq = f.txq ++ [m] ∧ g.seqTx = f.seqTx := by
  simp only [Fei.gathered, Fei.passed, Fei.withMessage, and_self]

/-- What an end of a bundle sends in a slot time. -/
def slotSent (d : Dev) (x : BundleEnd) : Dev :=
  if feiState d x < 4 ∨ feiState d x = 7 then d
  else if (fei d x).slot = 0 then sendAln (slotPassed d x) x
  else if (fei d x).slot = 1 ∨ feiState d x = 4 then slotPassed d x
  else
    let raw := ones 4 (fei d x).txRaw
    let p := (fei d x).accP + (4 - raw)
    let r := (fei d x).accR + raw
    let g := setFei (slotPassed d x) x ((fei (slotPassed d x) x).gathered p r)
    let g := if 4 ≤ p then sendNextFlit g x else g
    if 4 ≤ r ∧ feiState d x = 6 then sendNextFrame g x else g

theorem exec_feinoSlotSend {x : BundleEnd} (has : hasFei x = true) (s : State) (msgs : List (List Byte))
    (frames : List RawFrame) :
    exec (.feinoSlotSend x msgs frames) s = .next (s.settle (slotSent (offered s.dev.rest x msgs frames) x)) := by
  change execFeinoSlotSend x msgs frames s = _
  refine run_settle ?_
  cases x with
  | guest g => cases has
  | _ => rfl

section
variable {d : Dev} {x : BundleEnd} (active : feiState d x = 6)
include active

/-- Slot time 0 carries the alignment slot. -/
theorem slotSent_aln (first : (fei d x).slot = 0) : slotSent d x = sendAln (slotPassed d x) x := by
  rw [slotSent, active, if_neg (by decide), if_pos first]

/-- With no raw quarter, every slot time from 2 on gathers a flit. -/
theorem slotSent_flit (slot : 2 ≤ (fei d x).slot) (noRaw : (fei d x).txRaw = 0) (few : (fei d x).accR < 4) :
    slotSent d x = sendNextFlit (setFei (slotPassed d x) x
      ((fei (slotPassed d x) x).gathered ((fei d x).accP + 4) (fei d x).accR)) x := by
  have none_ : ones 4 (fei d x).txRaw = 0 := by rw [noRaw]; rfl
  rw [slotSent, active, if_neg (by decide), if_neg (by omega), if_neg (by omega)]
  dsimp only
  rw [none_, Nat.sub_zero, Nat.add_zero, if_neg (fun h => absurd h.1 (by omega)), if_pos (by omega)]

end

/-- An end has sent an alignment slot. -/
def Fei.sentAln (f : Fei) : Fei := { f with newExcl := [], reqs := f.reqs.drop 1 }

/-- An alignment slot with no exclusion to take sends the end's words as they stand. -/
theorem sendAln_plain {d : Dev} {x : BundleEnd} (plain : (fei d x).newExcl = []) : sendAln d x =
    emit (setFei d x (fei d x).sentAln) (.feino (endKey x) 2
      ((List.range 68).flatMap (fun l => leBytes 8 (alnWord l (feiGet d x 1 Fld.HUB_FEI_STAT_gen)
        (rdReg d (feiDesc x 2) (feiIx x)) (fei d x).reqs.head?)))) := by
  unfold sendAln
  simp only [if_pos plain]
  rfl

/-! ### Offering -/

theorem fei_setFei_self (d : Dev) (x z : BundleEnd) : fei (setFei d x (fei d x)) z = fei d z :=
  fei_setFei_keeps id rfl z

/-- Nothing offered changes nothing of any end. -/
theorem offered_nil (d : Dev) (x : BundleEnd) : hiddenOnly d (offered d x [] []) ∧ ∀ z, fei (offered d x [] []) z = fei d z := by
  have held : hiddenOnly d (offerMsgs d x []) ∧ ∀ z, fei (offerMsgs d x []) z = fei d z := by
    unfold offerMsgs
    split
    · refine ⟨rfl, fun z => ?_⟩
      dsimp only
      rw [List.append_nil]
      exact fei_setFei_self d _ z
    · exact ⟨rfl, fun z => rfl⟩
  refine ⟨held.1.trans (setFei_hiddenOnly ..), fun z => Eq.trans ?_ (held.2 z)⟩
  unfold offered
  exact (congrArg (fun f => fei (setFei (offerMsgs d x []) x f) z) (Fei.withFrames_nil _)).trans (fei_setFei_self _ _ z)

/-- One good message goes to the bundle that its address chooses, where the edge holds nothing. -/
theorem offered_one {d : Dev} {x : BundleEnd} {m : List Byte} (has : hasFei x = true) (good : msgBad m = false)
    (free : edgeHeld d x = false) (chosen : edgeChoice d x m = x) :
    hiddenOnly d (offered d x [m] []) ∧ fei (offered d x [m] []) x = (fei d x).withMessage m ∧
      ∀ z, (fei (offered d x [m] []) z).waitInfo = (fei d z).waitInfo := by
  have kept : [m].filter (fun m => !(msgBad m)) = [m] := by simp [good]
  have queued : offerMsgs d x [m] = setFei d x ((fei d x).withMessage m) := by
    rw [offerMsgs, if_neg (by rw [free]; decide)]
    cases x with
    | guest g => cases has
    | _ =>
      refine Eq.trans (List.foldl_cons ..) ?_
      rw [List.foldl_nil]
      dsimp only
      rw [chosen]
      rfl
  rw [offered, kept, queued, List.filter_nil, List.map_nil, Fei.withFrames_nil]
  refine ⟨rfl, ?_, fun z => (fei_setFei_keeps Fei.waitInfo ?_ z).trans (fei_setFei_keeps Fei.waitInfo ?_ z)⟩
  · rw [fei_setFei_same, fei_setFei_same]
  · rw [fei_setFei_same]
  · rfl

end Sys2Proof.Machine
end

section
/-!
SUPPORT. One slot time of an ACTIVE end (R258, R259, R265, R268): the alignment slot, a flit, a message offered.
-/
namespace Sys2Proof.Machine

section
variable {d : Dev} {x : BundleEnd} (active : feiState d x = 6)
include active

/-- Slot time 0 sends the alignment slot, and changes no register. -/
theorem slotTime_aln (first : (fei d x).slot = 0) (plain : (fei d x).newExcl = []) :
    let e := slotSent (offered d x [] []) x
    e.wq = d.wq ∧ e.regs = d.regs ∧ (fei e x).slot = 1 ∧ e.out = d.out ++ [.feino (endKey x) 2
      ((List.range 68).flatMap (fun l => leBytes 8 (alnWord l (feiGet d x 1 Fld.HUB_FEI_STAT_gen)
        (rdReg d (feiDesc x 2) (feiIx x)) (fei d x).reqs.head?)))] := by
  obtain ⟨only, same⟩ := offered_nil d x
  generalize offered d x [] [] = g at only same ⊢
  have passed : hiddenOnly d (slotPassed g x) := only.trans (setFei_hiddenOnly ..)
  have hidden : fei (slotPassed g x) x = (fei d x).passed := (fei_slotPassed g x).trans (by rw [same])
  have sent := (slotSent_aln ((only.feiState x).trans active) (by rw [same, first])).trans
    (sendAln_plain (d := slotPassed g x) (x := x) (by rw [hidden]; exact plain))
  rw [hidden, passed.feiGet, passed.rdReg] at sent
  intro e
  rw [show e = _ from sent]
  refine ⟨passed.wq, passed.regs, (congrArg Fei.slot (fei_setFei_same ..)).trans ?_, congrArg (· ++ _) passed.out⟩
  change ((fei d x).slot + 1) % 1024 = 1
  rw [first]

/-- Every later slot time of a protocol bundle sends one flit. -/
theorem slotTime_flit (slot : 2 ≤ (fei d x).slot) (noRaw : (fei d x).txRaw = 0) (few : (fei d x).accR < 4) :
    let e := slotSent (offered d x [] []) x
    e.wq = d.wq ∧ (fei e x).slot = ((fei d x).slot + 1) % 1024 ∧
      ∃ b, e.out = d.out ++ [.feino (endKey x) 0 b] ∧ b.length = 256 ∧ leNat (b.drop 252) = crc32c (b.take 252) := by
  obtain ⟨only, same⟩ := offered_nil d x
  generalize offered d x [] [] = g at only same ⊢
  have sent := slotSent_flit (d := g) ((only.feiState x).trans active) (by rwa [same]) (by rwa [same]) (by rwa [same])
  obtain ⟨wq, slot', b, out, good⟩ := sendNextFlit_sends (setFei (slotPassed g x) x
    ((fei (slotPassed g x) x).gathered ((fei g x).accP + 4) (fei g x).accR)) x
  intro e
  rw [show e = _ from sent]
  refine ⟨wq.trans only.wq, slot'.trans ?_, b, out.trans (congrArg (· ++ _) only.out), good⟩
  rw [fei_setFei_same, fei_slotPassed, same]
  rfl

end

section
variable {d : Dev} {x : BundleEnd} {m : List Byte} (has : hasFei x = true) (active : feiState d x = 6)
include has active

omit has in
/-- Before the end of a slot time with a message offered: the message waits, and a whole flit's time has been gathered. -/
theorem slotReady_of_offered {o : Dev} (slot : 2 ≤ (fei d x).slot) (noRaw : (fei d x).txRaw = 0) (few : (fei d x).accR < 4)
    (offers : hiddenOnly d o) (queued : fei o x = (fei d x).withMessage m)
    (others : ∀ z, (fei o z).waitInfo = (fei d z).waitInfo) : ∃ g, hiddenOnly d g ∧
      ((fei g x).resend = (fei d x).resend ∧ (fei g x).replay = (fei d x).replay ∧ (fei g x).ctlq = (fei d x).ctlq ∧
        (fei g x).txq = (fei d x).txq ++ [m] ∧ (fei g x).seqTx = (fei d x).seqTx) ∧
      (∀ z, (fei g z).waitInfo = (fei d z).waitInfo) ∧ slotSent o x = sendNextFlit g x := by
  refine ⟨_, offers.trans (.trans (setFei_hiddenOnly ..) (setFei_hiddenOnly ..)), ?_, fun z => ?_,
    slotSent_flit ((offers.feiState x).trans active) (by rw [queued]; exact slot) (by rw [queued]; exact noRaw)
      (by rw [queued]; exact few)⟩
  · rw [fei_setFei_same, fei_slotPassed, queued]
    exact Fei.gathered_withMessage ..
  · refine (fei_setFei_keeps Fei.waitInfo ?_ z).trans ((fei_setFei_keeps Fei.waitInfo ?_ z).trans (others z))
    · simp only [Fei.gathered, slotPassed]
    · simp only [Fei.passed]

/-- An offered message that fits its credits goes out in a new flit of its own (R269, R270). -/
theorem slotTime_message (good : msgBad m = false) (slot : 2 ≤ (fei d x).slot) (noRaw : (fei d x).txRaw = 0)
    (few : (fei d x).accR < 4) (empty : (fei d x).txq = []) (noControl : (fei d x).ctlq = []) (fresh : (fei d x).resend = none)
    (room : (fei d x).replay.length < 128) (free : edgeHeld d x = false) (chosen : edgeChoice d x m = x)
    (fits : msgSlots m ≤ 15) (paid : msgSlots m ≤ feiCredit d x (msgClass m)) (small : feiCredit d x (msgClass m) ≤ 4095) :
    let e := slotSent (offered d x [m] []) x
    e.wq = d.wq ∧ (∃ fl, (fei e x).replay = (fei d x).replay ++ [fl] ∧ fl.seq = (fei d x).seqTx ∧ fl.ftype = 1 ∧ fl.sov = 1 ∧
      fl.slots = padTo (16 * msgSlots m) m) ∧ (fei e x).seqTx = ((fei d x).seqTx + 1) % 4096 ∧ (fei e x).txq = [] ∧
      feiCredit e x (msgClass m) = feiCredit d x (msgClass m) - msgSlots m ∧ e.out.length = d.out.length + 1 := by
  have offer := offered_one has good free chosen
  generalize offered d x [m] [] = o at offer ⊢
  obtain ⟨offers, queued, others⟩ := offer
  obtain ⟨ready, only, ⟨resend, replay, ctlq, txq, seqTx⟩, waitInfo, sent⟩ := slotReady_of_offered active slot noRaw few offers queued others
  have waits : edgeWaits ready x = false := (edgeWaits_congr waitInfo x).trans (Bool.or_eq_false_iff.mp free).1
  have credit : feiCredit ready x (msgClass m) = feiCredit d x (msgClass m) := by
    unfold feiCredit
    rw [if_pos has, if_pos has, only.fget]
  rw [sent, sendNextFlit_one ((only.feiState x).trans active) waits (resend.trans fresh) (replay ▸ room) (ctlq.trans noControl)
    (txq.trans (congrArg (· ++ [m]) empty)) fits (by rwa [credit])]
  dsimp only
  generalize paidFor : setFeiCredit (setFei ready x (fei ready x).noMessages) x (msgClass m)
    (feiCredit (setFei ready x (fei ready x).noMessages) x (msgClass m) - msgSlots m) = p
  have prepares : Prepares ready p x :=
    paidFor ▸ (setFei_prepares (v := (fei ready x).noMessages) ready rfl).trans (setFeiCredit_prepares ..)
  have atEnd : fei p x = (fei ready x).noMessages := by
    rw [← paidFor, setFeiCredit_fei has, fei_setFei_same]
  have left : feiCredit p x (msgClass m) = feiCredit d x (msgClass m) - msgSlots m := by
    rw [← paidFor, fget_cred_setFeiCredit has, feiCredit_setFei has, credit]
    omega
  obtain ⟨wq, -, b, out, -⟩ := (sendNewFlit_sends p x 1 1 (padTo (16 * msgSlots m) m)).after prepares
  obtain ⟨kept, next, empty⟩ := sendNewFlit_queues p x 1 1 (padTo (16 * msgSlots m) m)
  rw [atEnd] at kept next empty
  refine ⟨wq.trans only.wq, ⟨newFlit (fei ready x).noMessages 1 1 (padTo (16 * msgSlots m) m), ?_, ?_, rfl, rfl, rfl⟩, ?_, empty, (feiCredit_sendNewFlit has ..).trans left, ?_⟩
  · rw [kept, Fei.noMessages, replay]
  · exact seqTx
  · rw [next, Fei.noMessages, seqTx]
  · rw [out, only.out]
    simp

end

end Sys2Proof.Machine
end

section
/-!
SUPPORT. A flit received at an end (R268-R271): acknowledges and credits, the messages delivered, what is asked for again.
-/
namespace Sys2Proof.Machine

/-! ### The queues of an edge -/

/-- A view of an end that does not see its messages to send, nor what its edge holds. -/
def Fei.IgnoresQueues {α : Type} (p : Fei → α) : Prop :=
  ∀ (f : Fei) (q h : List (List Byte)) (b : Bool), p { f with txq := q, held := h, draining := b } = p f

section
variable {α : Type} {p : Fei → α} (ignores : Fei.IgnoresQueues p)
include ignores

theorem queueMsgs_keeps (x : BundleEnd) (ms : List (List Byte)) (d : Dev) (z : BundleEnd) :
    p (fei (queueMsgs d x ms) z) = p (fei d z) := by
  induction ms generalizing d with
  | nil => rfl
  | cons m ms ih => exact (ih _).trans (fei_setFei_keeps p (ignores _ _ (fei d _).held (fei d _).draining) z)

theorem edgeResume_keeps (d : Dev) (x z : BundleEnd) : p (fei (edgeResume d x) z) = p (fei d z) := by
  unfold edgeResume
  dsimp only
  split
  · exact (queueMsgs_keeps ignores ..).trans (fei_setFei_keeps p (ignores _ (fei d _).txq _ _) z)
  · rfl

end

theorem queueMsgs_hiddenOnly (d : Dev) (x : BundleEnd) (ms : List (List Byte)) : hiddenOnly d (queueMsgs d x ms) :=
  .foldl (fun _ _ => setFei_hiddenOnly ..) ms d

theorem edgeResume_hiddenOnly (d : Dev) (x : BundleEnd) : hiddenOnly d (edgeResume d x) := by
  unfold edgeResume
  dsimp only
  split
  · exact (setFei_hiddenOnly ..).trans (queueMsgs_hiddenOnly ..)
  · exact .refl d

/-! ### What a received flit does -/

/-- An end may ask for a flit again: 32 ns have passed since it last did. -/
def Fei.mayNak (f : Fei) (tb : Nat) : Bool := match f.nakAt with | none => true | some n => decide (n + 32 ≤ tb)

/-- An end asks for a flit again. -/
def Fei.askedAgain (f : Fei) (tb : Nat) : Fei := { f with nakOut := true, nakAt := some tb }

/-- An end asks for a flit again, where it may. -/
def askAgain (d : Dev) (x : BundleEnd) (may : Bool) : Dev := if may then setFei d x ((fei d x).askedAgain d.tb) else d

/-- The next number is expected. -/
def Fei.expects (f : Fei) (seq : Nat) : Fei := { f with seqRx := seq }

/-- A control message has come. -/
def Fei.withControl (f : Fei) (area : List Byte) : Fei := { f with ctl := f.ctl ++ [area] }

/-- A flit in order is taken: its acknowledges and credits, and the number after it is expected. -/
def takeInOrder (d : Dev) (x : BundleEnd) (w t : Nat) : Dev :=
  let d := edgeResume (takeCredits (takeAcks d x w t) x w t) x
  setFei d x ((fei d x).expects ((bits w 63 52 + 1) % 4096))

/-- The slot area of a flit in order is taken: messages, or a control message. -/
def takeArea (d : Dev) (x : BundleEnd) (w : Nat) (area : List Byte) : Dev :=
  if bits w 3 0 = 1 then deliver d x (splitMsgs (bits w 20 6) area)
  else if (area.headD 0).toNat = 0 ∨ 6 < (area.headD 0).toNat then feiMalformed d x
  else setFei d x ((fei d x).withControl area)

/-- A flit of 256 bytes is received. -/
def flitReceived (d : Dev) (x : BundleEnd) (flit : List Byte) : Dev :=
  let w := leNat (flit.take 8)
  let t := leNat (slice flit 248 4)
  let may := (fei d x).mayNak d.tb
  if leNat (slice flit 252 4) ≠ crc32c (flit.take 252) then askAgain (feiInc d x 5 Fld.HUB_FEI_ERR_crc_err 1) x may
  else if bits w 3 0 = 0 then edgeResume (takeAcks d x w t) x
  else if 3 ≤ bits w 3 0 then feiMalformed d x
  else if bits w 63 52 ≠ (fei d x).seqRx then
    if seqLe (bits w 63 52) (fei d x).seqRx then edgeResume (takeAcks d x w t) x else askAgain d x may
  else takeArea (takeInOrder d x w t) x w (slice flit 8 240)

theorem exec_feinoFlitReceive {s : State} {x : BundleEnd} {flit : List Byte} (active : feiState s.dev x = 6)
    (length : flit.length = 256) :
    exec (.feinoFlitReceive x flit) s = .next (s.settle (flitReceived s.dev.rest x flit)) := by
  have open_ : ¬ (!(feiState s.dev.rest x == 5 || feiState s.dev.rest x == 6) || flit.length != 256) = true := by
    rw [feiState_rest, active, length]
    decide
  change execFeinoFlitReceive x flit s = _
  exact run_settle (if_neg open_)

/-! ### Its parts -/

/-- Acknowledged flits and frames leave the replay buffers, and naks come in. -/
theorem takeAcks_spec (d : Dev) (x : BundleEnd) (w t : Nat) : let f := fei (takeAcks d x w t) x
    f.seqRx = (fei d x).seqRx ∧ f.inbox = (fei d x).inbox ∧ f.ctl = (fei d x).ctl ∧
      f.replay = (fei d x).replay.filter (fun z => !(seqLe z.seq (bits w 51 40))) := by
  unfold takeAcks
  simp only [fei_setFei_same, and_self]

theorem takeAcks_hiddenOnly (d : Dev) (x : BundleEnd) (w t : Nat) : hiddenOnly d (takeAcks d x w t) := rfl

/-- What an end has received and what it keeps for replay. -/
def Fei.received (f : Fei) : Nat × List (List Byte) × List (List Byte) × List FFlit := (f.seqRx, f.inbox, f.ctl, f.replay)

theorem received_ignoresQueues : Fei.IgnoresQueues Fei.received := fun _ _ _ _ => rfl

/-- A flit that is taken for its acknowledges alone. -/
theorem resume_takeAcks_spec (d : Dev) (x : BundleEnd) (w t : Nat) : let f := fei (edgeResume (takeAcks d x w t) x) x
    f.seqRx = (fei d x).seqRx ∧ f.inbox = (fei d x).inbox ∧ f.ctl = (fei d x).ctl ∧
      f.replay = (fei d x).replay.filter (fun z => !(seqLe z.seq (bits w 51 40))) := by
  have same := edgeResume_keeps received_ignoresQueues (takeAcks d x w t) x x
  simp only [Fei.received, Prod.mk.injEq] at same
  obtain ⟨seqRx, inbox, ctl, replay⟩ := same
  intro f
  rw [show f.seqRx = _ from seqRx, show f.inbox = _ from inbox, show f.ctl = _ from ctl, show f.replay = _ from replay]
  exact takeAcks_spec d x w t

/-- Memory, what was recorded and the state of an end are as they were. -/
structure Receives (d d' : Dev) (x : BundleEnd) : Prop where
  wq : d'.wq = d.wq
  state : feiState d' x = feiState d x

theorem Receives.trans {a b c : Dev} {x : BundleEnd} (h : Receives a b x) (k : Receives b c x) : Receives a c x :=
  ⟨k.wq.trans h.wq, k.state.trans h.state⟩

theorem hiddenOnly.receives {d d' : Dev} (only : hiddenOnly d d') (x : BundleEnd) : Receives d d' x :=
  ⟨only.wq, only.feiState x⟩

/-- A faulty message or code is recorded once. -/
theorem feiMalformed_spec (d : Dev) (x : BundleEnd) : (∀ z, fei (feiMalformed d x) z = fei d z) ∧
    (feiMalformed d x).reports.length = d.reports.length + 1 := by
  refine ⟨fun z => fei_feiInc .., ?_⟩
  have same := (feiInc_actsAt d x (i := 5) (by decide) Fld.HUB_FEI_ERR_malformed 1).only.reports
  exact List.length_append.trans (congrArg (·.length + 1) same)

section
variable {x : BundleEnd} (has : hasFei x = true)
include has

theorem feiInc_receives (d : Dev) {i : Nat} (group : i < 8) (other : 1 ≠ i) (f : Fld) (n : Nat) :
    Receives d (feiInc d x i f n) x :=
  ⟨(feiInc_actsAt d x group f n).only.wq, feiState_feiSet_group d has group other _ _⟩

theorem feiMalformed_receives (d : Dev) : Receives d (feiMalformed d x) x :=
  .trans (feiInc_receives has d (by decide) (by decide) _ _) ⟨rfl, feiState_report ..⟩

theorem setFeiCredit_feiOnly (d : Dev) (c v : Nat) : feiOnly d (setFeiCredit d x c v) := by
  unfold setFeiCredit
  rw [if_pos has]
  rfl

theorem feiState_setFeiCredit (d : Dev) (c v : Nat) : feiState (setFeiCredit d x c v) x = feiState d x := by
  have apart := feiDesc_key_ne has (by decide : 7 < 8) (by decide : 1 < 8) (by decide) [c] []
  rw [List.append_nil] at apart
  unfold setFeiCredit
  rw [if_pos has, feiState_eq _ has, feiState_eq _ has]
  exact congrArg Fld.HUB_FEI_STAT_state.get (rdReg_fset_other _ _ _ _ _ _ _ apart)

end

/-- The credits that one byte of a flit returns. -/
def returnCredit (d : Dev) (x : BundleEnd) (v : Nat) : Dev :=
  if 10 ≤ v % 16 ∨ v / 16 = 0 then d else setFeiCredit d x (v % 16) (min 4095 (feiCredit d x (v % 16) + v / 16))

/-- Raw frames may be sent for so many more credits. -/
def Fei.withRawCredits (f : Fei) (n : Nat) : Fei := { f with rawCredits := f.rawCredits + n }

theorem takeCredits_eq (d : Dev) (x : BundleEnd) (w t : Nat) : takeCredits d x w t =
    let d := returnCredit (returnCredit d x (bits w 31 24)) x (bits w 39 32)
    setFei d x ((fei d x).withRawCredits (bits t 23 16)) := rfl

/-- A message that a die takes: the credits of its slots are owed. -/
def Fei.taken (f : Fei) (m : List Byte) : Fei :=
  { f with inbox := f.inbox ++ [m], owed := setAt f.owed (msgClass m) (f.owed.getD (msgClass m) 0 + msgSlots m) }

theorem Fei.taken_fields (f : Fei) (m : List Byte) : (f.taken m).inbox = f.inbox ++ [m] ∧ (f.taken m).seqRx = f.seqRx ∧
    (f.taken m).replay = f.replay := by
  simp only [Fei.taken, and_self]

section
variable {x : BundleEnd} (has : hasFei x = true)
include has

theorem returnCredit_receives (d : Dev) (v : Nat) :
    Receives d (returnCredit d x v) x ∧ (returnCredit d x v).reports = d.reports ∧ fei (returnCredit d x v) x = fei d x := by
  unfold returnCredit
  split
  · exact ⟨⟨rfl, rfl⟩, rfl, rfl⟩
  · exact ⟨⟨(setFeiCredit_feiOnly has ..).wq, feiState_setFeiCredit has ..⟩, (setFeiCredit_feiOnly has ..).reports,
      setFeiCredit_fei has ..⟩

theorem takeCredits_spec (d : Dev) (w t : Nat) : Receives d (takeCredits d x w t) x ∧
    (takeCredits d x w t).reports = d.reports ∧ (fei (takeCredits d x w t) x).received = (fei d x).received := by
  obtain ⟨first, reports, hidden⟩ := returnCredit_receives has d (bits w 31 24)
  obtain ⟨second, reports', hidden'⟩ := returnCredit_receives has (returnCredit d x (bits w 31 24)) (bits w 39 32)
  rw [takeCredits_eq]
  refine ⟨(first.trans second).trans ((setFei_hiddenOnly ..).receives x), reports'.trans reports, ?_⟩
  dsimp only
  rw [fei_setFei_same, hidden', hidden]
  simp only [Fei.received, Fei.withRawCredits]

/-- A flit in order advances the expected number alone, and takes the acknowledges it carries. -/
theorem takeInOrder_spec (d : Dev) (w t : Nat) : let e := takeInOrder d x w t
    Receives d e x ∧ e.reports = d.reports ∧ (fei e x).seqRx = (bits w 63 52 + 1) % 4096 ∧ (fei e x).inbox = (fei d x).inbox ∧
      (fei e x).ctl = (fei d x).ctl ∧ (fei e x).replay = (fei d x).replay.filter (fun z => !(seqLe z.seq (bits w 51 40))) := by
  obtain ⟨-, inbox, ctl, replay⟩ := takeAcks_spec d x w t
  obtain ⟨credits, reports, same⟩ := takeCredits_spec has (takeAcks d x w t) w t
  have resumed := edgeResume_keeps received_ignoresQueues (takeCredits (takeAcks d x w t) x w t) x x
  rw [same] at resumed
  simp only [Fei.received, Prod.mk.injEq] at resumed
  obtain ⟨-, inbox', ctl', replay'⟩ := resumed
  have only := edgeResume_hiddenOnly (takeCredits (takeAcks d x w t) x w t) x
  unfold takeInOrder
  dsimp only
  rw [fei_setFei_same]
  simp only [Fei.expects]
  exact ⟨(((takeAcks_hiddenOnly ..).receives x).trans credits).trans ((only.receives x).trans ((setFei_hiddenOnly ..).receives x)),
    only.reports.trans reports, trivial, inbox'.trans inbox, ctl'.trans ctl, replay'.trans replay⟩

theorem deliver_cons (d : Dev) (m : Option (List Byte)) (ms : List (Option (List Byte))) : deliver d x (m :: ms) =
    deliver (match m with
      | none => feiMalformed d x
      | some b => if msgBad b then feiMalformed d x else setFei d x ((fei d x).taken b)) x ms := by
  cases x with
  | guest g => cases has
  | _ => cases m <;> rfl

theorem deliver_receives (d : Dev) (ms : List (Option (List Byte))) : Receives d (deliver d x ms) x := by
  induction ms generalizing d with
  | nil => exact ⟨rfl, rfl⟩
  | cons m ms ih =>
    rw [deliver_cons has]
    refine .trans ?_ (ih _)
    split
    · exact feiMalformed_receives has d
    · split
      · exact feiMalformed_receives has d
      · exact (setFei_hiddenOnly ..).receives x

/-- Good messages are all delivered, in order, and nothing is recorded (R269, R270). -/
theorem deliver_good (ms : List (Option (List Byte))) (d : Dev) (good : ∀ m ∈ ms, ∃ b, m = some b ∧ msgBad b = false) :
    (deliver d x ms).reports = d.reports ∧ (fei (deliver d x ms) x).inbox = (fei d x).inbox ++ ms.filterMap id ∧
      (fei (deliver d x ms) x).seqRx = (fei d x).seqRx ∧ (fei (deliver d x ms) x).replay = (fei d x).replay := by
  induction ms generalizing d with
  | nil => exact ⟨rfl, (List.append_nil _).symm, rfl, rfl⟩
  | cons m ms ih =>
    obtain ⟨⟨b, rfl, fine⟩, rest⟩ := List.forall_mem_cons.mp good
    obtain ⟨reports, inbox, seqRx, replay⟩ := ih (setFei d x ((fei d x).taken b)) rest
    obtain ⟨takenInbox, takenSeqRx, takenReplay⟩ := (fei d x).taken_fields b
    rw [fei_setFei_same] at inbox seqRx replay
    simp only [deliver_cons has, fine, Bool.false_eq_true, if_false]
    refine ⟨reports, ?_, seqRx.trans takenSeqRx, replay.trans takenReplay⟩
    rw [inbox, takenInbox, List.append_assoc]
    rfl

/-- Whatever the slot area holds, memory and the state of the end stay. -/
theorem takeArea_receives (d : Dev) (w : Nat) (area : List Byte) : Receives d (takeArea d x w area) x := by
  unfold takeArea
  split
  · exact deliver_receives has ..
  · split
    · exact feiMalformed_receives has d
    · exact (setFei_hiddenOnly ..).receives x

omit has in
theorem askAgain_hiddenOnly (d : Dev) (x : BundleEnd) (may : Bool) : hiddenOnly d (askAgain d x may) := by
  unfold askAgain
  split <;> rfl

/-- No flit touches memory or the state of the end. -/
theorem flitReceived_receives (d : Dev) (flit : List Byte) : Receives d (flitReceived d x flit) x := by
  have acks (w t : Nat) : Receives d (edgeResume (takeAcks d x w t) x) x :=
    ((takeAcks_hiddenOnly ..).receives x).trans ((edgeResume_hiddenOnly ..).receives x)
  unfold flitReceived
  dsimp only
  split
  · exact (feiInc_receives has d (by decide) (by decide) _ _).trans ((askAgain_hiddenOnly ..).receives x)
  split
  · exact acks _ _
  split
  · exact feiMalformed_receives has d
  split
  · split
    · exact acks _ _
    · exact (askAgain_hiddenOnly ..).receives x
  · exact (takeInOrder_spec has d _ _).1.trans (takeArea_receives has ..)

/-! ### The cases of a flit -/

omit has in
/-- Asking again changes nothing that an end has received. -/
theorem askAgain_spec (d : Dev) (may : Bool) : (fei (askAgain d x may) x).received = (fei d x).received ∧
    (may = true → (fei (askAgain d x may) x).nakOut = true) := by
  unfold askAgain
  cases may
  · exact ⟨rfl, fun h => by cases h⟩
  · simp only [if_true, fei_setFei_same, Fei.askedAgain, Fei.received, and_self, imp_self]

section
variable {d : Dev} {flit : List Byte}

/-- A flit with a bad CRC is counted and asked for again, and nothing of it is taken (R271). -/
theorem flitReceived_badCrc (bad : leNat (slice flit 252 4) ≠ crc32c (flit.take 252)) : let e := flitReceived d x flit
    (fei e x).received = (fei d x).received ∧
      feiGet e x 5 Fld.HUB_FEI_ERR_crc_err = min (feiGet d x 5 Fld.HUB_FEI_ERR_crc_err + 1) 0xFFFF ∧
      ((fei d x).mayNak d.tb = true → (fei e x).nakOut = true) := by
  obtain ⟨same, asks⟩ := askAgain_spec (x := x) (feiInc d x 5 Fld.HUB_FEI_ERR_crc_err 1) ((fei d x).mayNak d.tb)
  have counted := (askAgain_hiddenOnly (feiInc d x 5 Fld.HUB_FEI_ERR_crc_err 1) x ((fei d x).mayNak d.tb)).feiGet x 5
    Fld.HUB_FEI_ERR_crc_err
  rw [fei_feiInc] at same
  rw [feiGet_feiInc_same d has 5 (by decide) (by decide)] at counted
  rw [flitReceived]
  dsimp only
  rw [if_pos bad]
  exact ⟨same, counted, asks⟩

section
variable (good : leNat (slice flit 252 4) = crc32c (flit.take 252))
include good

omit has in
/-- IDLE brings its acknowledges alone (R268). -/
theorem flitReceived_idle (idle : bits (leNat (flit.take 8)) 3 0 = 0) : flitReceived d x flit =
    edgeResume (takeAcks d x (leNat (flit.take 8)) (leNat (slice flit 248 4))) x := by
  rw [flitReceived]
  rw [if_neg (not_not.mpr good), if_pos idle]

omit has in
/-- A flit out of order delivers nothing (R271). -/
theorem flitReceived_outOfOrder (ordered : bits (leNat (flit.take 8)) 3 0 = 1 ∨ bits (leNat (flit.take 8)) 3 0 = 2)
    (out : bits (leNat (flit.take 8)) 63 52 ≠ (fei d x).seqRx) : let f := fei (flitReceived d x flit) x
    f.seqRx = (fei d x).seqRx ∧ f.inbox = (fei d x).inbox ∧ f.ctl = (fei d x).ctl := by
  rw [flitReceived]
  dsimp only
  rw [if_neg (not_not.mpr good), if_neg (by omega), if_neg (by omega), if_pos out]
  split
  · obtain ⟨seqRx, inbox, ctl, -⟩ := resume_takeAcks_spec d x (leNat (flit.take 8)) (leNat (slice flit 248 4))
    exact ⟨seqRx, inbox, ctl⟩
  · have same := (askAgain_spec (x := x) d ((fei d x).mayNak d.tb)).1
    simp only [Fei.received, Prod.mk.injEq] at same
    exact ⟨same.1, same.2.1, same.2.2.1⟩

omit has in
/-- A flit in order is taken. -/
theorem flitReceived_inOrder (ordered : bits (leNat (flit.take 8)) 3 0 = 1 ∨ bits (leNat (flit.take 8)) 3 0 = 2)
    (next : bits (leNat (flit.take 8)) 63 52 = (fei d x).seqRx) : flitReceived d x flit =
    takeArea (takeInOrder d x (leNat (flit.take 8)) (leNat (slice flit 248 4))) x (leNat (flit.take 8)) (slice flit 8 240) := by
  rw [flitReceived]
  rw [if_neg (not_not.mpr good), if_neg (by omega), if_neg (by omega), if_neg (not_not.mpr next)]

/-- The messages of a flit in order are delivered (R269). -/
theorem flitReceived_messages (isMsgs : bits (leNat (flit.take 8)) 3 0 = 1) (next : bits (leNat (flit.take 8)) 63 52 = (fei d x).seqRx)
    (fine : ∀ m ∈ splitMsgs (bits (leNat (flit.take 8)) 20 6) (slice flit 8 240), ∃ b, m = some b ∧ msgBad b = false) :
    let e := flitReceived d x flit
    (fei e x).seqRx = ((fei d x).seqRx + 1) % 4096 ∧
      (fei e x).inbox = (fei d x).inbox ++ (splitMsgs (bits (leNat (flit.take 8)) 20 6) (slice flit 8 240)).filterMap id ∧
      e.reports = d.reports ∧
      (fei e x).replay = (fei d x).replay.filter (fun z => !(seqLe z.seq (bits (leNat (flit.take 8)) 51 40))) := by
  obtain ⟨-, reports, seqRx, inbox, -, replay⟩ := takeInOrder_spec has d (leNat (flit.take 8)) (leNat (slice flit 248 4))
  obtain ⟨reports', inbox', seqRx', replay'⟩ := deliver_good has _
    (takeInOrder d x (leNat (flit.take 8)) (leNat (slice flit 248 4))) fine
  rw [flitReceived_inOrder good (.inl isMsgs) next, takeArea, if_pos isMsgs]
  exact ⟨(seqRx'.trans seqRx).trans (by rw [next]), inbox'.trans (congrArg (· ++ _) inbox), reports'.trans reports,
    replay'.trans replay⟩

/-- The control message of a flit in order is received, or a faulty code recorded (R269, R276). -/
theorem flitReceived_control (isCtl : bits (leNat (flit.take 8)) 3 0 = 2) (next : bits (leNat (flit.take 8)) 63 52 = (fei d x).seqRx) :
    let e := flitReceived d x flit
    let code := ((slice flit 8 240).headD 0).toNat
    (fei e x).seqRx = ((fei d x).seqRx + 1) % 4096 ∧
      (1 ≤ code → code ≤ 6 → (fei e x).ctl = (fei d x).ctl ++ [slice flit 8 240] ∧ e.reports = d.reports) ∧
      (code = 0 ∨ 6 < code → (fei e x).ctl = (fei d x).ctl ∧ e.reports.length = d.reports.length + 1) := by
  obtain ⟨-, reports, seqRx, -, ctl, -⟩ := takeInOrder_spec has d (leNat (flit.take 8)) (leNat (slice flit 248 4))
  rw [flitReceived_inOrder good (.inr isCtl) next, takeArea, if_neg (by omega)]
  rw [next] at seqRx
  dsimp only
  split
  next faulty =>
    obtain ⟨hidden, recorded⟩ := feiMalformed_spec (takeInOrder d x (leNat (flit.take 8)) (leNat (slice flit 248 4))) x
    rw [hidden]
    exact ⟨seqRx, by omega, fun _ => ⟨ctl, recorded.trans (congrArg (·.length + 1) reports)⟩⟩
  next fine =>
    rw [fei_setFei_same]
    simp only [Fei.withControl]
    exact ⟨seqRx, fun _ _ => ⟨congrArg (· ++ _) ctl, reports⟩, fun faulty => absurd faulty fine⟩

end

end

end

end Sys2Proof.Machine
end

section
/-!
SUPPORT. Replays, raw frames and the messages that set credits (R270, R271, R273, R274).
-/
namespace Sys2Proof.Machine

/-! ### Replay -/

/-- A nak of flits: they are resent from the oldest unacknowledged. -/
def Fei.replays (f : Fei) : Fei := { f with nakIn := false, resend := f.replay.head?.map (·.seq) }

theorem exec_feinoNak {s : State} {x : BundleEnd} (waiting : (fei s.dev x).replay ≠ []) (nak : (fei s.dev x).nakIn = true)
    (noRaw : (fei s.dev x).rawNakIn = false) : exec (.feinoNak x) s = .next (s.settle
      (feiInc (setFei s.dev.rest x (fei s.dev x).replays) x 5 Fld.HUB_FEI_ERR_replays 1)) := by
  obtain ⟨y, ys, queued⟩ := List.exists_cons_of_ne_nil waiting
  change execFeinoNak x s = _
  refine run_settle ?_
  simp only [fei_rest, nak, noRaw, queued, Fei.replays]
  rfl

/-- The replay timer: flits are resent from the oldest unacknowledged. -/
def Fei.replaysAll (f : Fei) : Fei := { f with resend := f.replay.head?.map (·.seq) }

theorem exec_feinoReplayTimer {s : State} {x : BundleEnd} (waiting : (fei s.dev x).replay ≠ []) :
    exec (.feinoReplayTimer x) s = .next (s.settle
      (feiInc (setFei s.dev.rest x (fei s.dev x).replaysAll) x 5 Fld.HUB_FEI_ERR_replays 1)) := by
  obtain ⟨y, ys, queued⟩ := List.exists_cons_of_ne_nil waiting
  change execFeinoReplayTimer x s = _
  refine run_settle ?_
  simp only [fei_rest, queued, Fei.replaysAll]
  rfl

/-- A change of an end's hidden state, and one replay more (R271). -/
theorem settle_replays {s : State} {x : BundleEnd} (has : hasFei x = true) (v : Fei) :
    let t := s.settle (feiInc (setFei s.dev.rest x v) x 5 Fld.HUB_FEI_ERR_replays 1)
    t.mem = s.mem ∧ fei t.dev x = v ∧
      feiGet t.dev x 5 Fld.HUB_FEI_ERR_replays = min (feiGet s.dev x 5 Fld.HUB_FEI_ERR_replays + 1) 0xFFF := by
  refine ⟨settle_mem_of_quiet s ?_, ?_, ?_⟩
  · exact (feiInc_actsAt _ x (by decide) _ _).only.wq
  · rw [settle_dev, fei_rest, fei_feiInc, fei_setFei_same]
  · exact feiGet_feiInc_same _ has 5 (by decide) (by decide) 1

/-! ### Raw frames -/

/-- The last four bytes of 256. -/
theorem slice_last {bs : List Byte} (length : bs.length = 256) : slice bs 252 4 = bs.drop 252 :=
  List.take_of_length_le (by simp [length])

/-- A raw frame in order has come. -/
def Fei.withFrame (f : Fei) (r : RFrame) : Fei :=
  { f with rawSeqRx := (r.seq + 1) % 4096, rawOwed := f.rawOwed + 1, rawIn := f.rawIn ++ [r] }

/-- A raw frame is to be sent again. -/
def Fei.asksFrame (f : Fei) : Fei := { f with rawNakOut := true }

/-- A raw frame of 256 bytes is received. -/
def frameReceived (d : Dev) (x : BundleEnd) (frame : List Byte) : Dev :=
  let w := leNat (slice frame 248 4)
  if leNat (slice frame 252 4) ≠ crc32c (frame.take 252) then
    feiInc (setFei d x (fei d x).asksFrame) x 5 Fld.HUB_FEI_ERR_crc_err 1
  else if bits w 15 12 = 15 then d
  else if bits w 11 0 ≠ (fei d x).rawSeqRx then
    if seqLe (bits w 11 0) (fei d x).rawSeqRx then d else setFei d x (fei d x).asksFrame
  else setFei d x ((fei d x).withFrame ⟨bits w 11 0, bits w 15 12, tbit w 16, frame.take 248⟩)

theorem exec_rawFrameReceive {s : State} {x : BundleEnd} {frame : List Byte} (active : feiState s.dev x = 6)
    (length : frame.length = 256) (raw : (fei s.dev x).rxRaw ≠ 0) (sound : (fei s.dev x).broken = false) :
    exec (.rawFrameReceive x frame) s = .next (s.settle (frameReceived s.dev.rest x frame)) := by
  have open_ : ¬ (feiState s.dev.rest x ≠ 6 ∨ frame.length ≠ 256 ∨ (fei s.dev.rest x).rxRaw = 0 ∨
      (fei s.dev.rest x).broken = true) := by
    rw [feiState_rest, fei_rest]
    simp [active, length, raw, sound]
  change execRawFrameReceive x frame s = _
  exact run_settle (if_neg open_)

theorem frameReceived_wq (d : Dev) (x : BundleEnd) (frame : List Byte) : (frameReceived d x frame).wq = d.wq := by
  unfold frameReceived
  dsimp only
  split
  · exact (feiInc_actsAt _ x (by decide) _ _).only.wq
  · split
    · rfl
    · split
      · split <;> rfl
      · rfl

/-- A raw frame with a bad CRC is asked for again (R274). -/
theorem frameReceived_badCrc (d : Dev) (x : BundleEnd) {frame : List Byte}
    (bad : leNat (slice frame 252 4) ≠ crc32c (frame.take 252)) : fei (frameReceived d x frame) x = (fei d x).asksFrame := by
  rw [frameReceived, if_pos bad, fei_feiInc, fei_setFei_same]

/-- A raw frame in order is delivered (R273). -/
theorem frameReceived_inOrder (d : Dev) (x : BundleEnd) {frame : List Byte}
    (good : leNat (slice frame 252 4) = crc32c (frame.take 252)) (named : bits (leNat (slice frame 248 4)) 15 12 ≠ 15)
    (next : bits (leNat (slice frame 248 4)) 11 0 = (fei d x).rawSeqRx) :
    fei (frameReceived d x frame) x = (fei d x).withFrame ⟨(fei d x).rawSeqRx, bits (leNat (slice frame 248 4)) 15 12,
      tbit (leNat (slice frame 248 4)) 16, frame.take 248⟩ := by
  rw [frameReceived, if_neg (not_not.mpr good), if_neg named, if_neg (not_not.mpr next), fei_setFei_same, next]

/-! ### Control messages -/

/-- An end has taken control messages. -/
def Fei.withCtl (f : Fei) (rest : List (List Byte)) : Fei := { f with ctl := rest }

theorem takeCtlMsg_head {d : Dev} {x : BundleEnd} {a : List Byte} {rest : List (List Byte)} {code : Nat}
    (queued : (fei d x).ctl = a :: rest) (named : (a.headD 0).toNat = code) :
    takeCtlMsg d x code = some (a.drop 8, setFei d x ((fei d x).withCtl rest)) := by
  have found : (fei d x).ctl.find? (fun a => (a.headD 0).toNat == code) = some a := by
    rw [queued, List.find?_cons_of_pos (by rw [named]; exact beq_self_eq_true code)]
  have erased : (fei d x).ctl.erase a = rest := by rw [queued, List.erase_cons_head]
  unfold takeCtlMsg
  simp only [found, erased, Fei.withCtl]

/-- The depth and the credits of a class are set. -/
def setDepth (x : BundleEnd) (v : Nat → Nat) (d : Dev) (c : Nat) : Dev :=
  setFeiCredit (fset d (feiDesc x 7) (feiIx x ++ [c]) Fld.HUB_FEI_CRED_depth (v c)) x c (v c)

/-- The message has come. -/
def Fei.hasCredit (f : Fei) : Fei := { f with gotCredit := true }

/-- The depths that CREDIT_INIT names (R270). -/
def creditDepth (a : List Byte) (c : Nat) : Nat := leNat (slice a (8 + 2 * c) 2) % 4096

theorem slice_drop (a : List Byte) (n at_ len : Nat) : slice (a.drop n) at_ len = slice a (n + at_) len := by
  unfold slice
  rw [List.drop_drop]

/-- The depths and credits of all classes are set, and the message has come. -/
def takeDepths (d : Dev) (x : BundleEnd) (a : List Byte) : Dev :=
  let d := (List.range 10).foldl (setDepth x (creditDepth a)) d
  setFei d x (fei d x).hasCredit

theorem exec_creditInit {s : State} {x : BundleEnd} (has : hasFei x = true) {a : List Byte} {rest : List (List Byte)}
    (queued : (fei s.dev x).ctl = a :: rest) (named : (a.headD 0).toNat = 1) (atStart : (fei s.dev x).runtime = false) :
    exec (.creditInit x) s = .next (s.settle
      (takeDepths (setFei s.dev.rest x ((fei s.dev x).withCtl rest)) x a)) := by
  have atStart' : (fei (setFei s.dev.rest x ((fei s.dev x).withCtl rest)) x).runtime = false := by
    rw [fei_setFei_same]
    simp only [Fei.withCtl, atStart]
  change execCreditInit x s = _
  refine run_settle ?_
  simp only [takeCtlMsg_head (d := s.dev.rest) queued named, fei_rest, atStart', has, Bool.false_eq_true, if_false, if_true,
    slice_drop]
  rfl

section
variable {x : BundleEnd} (has : hasFei x = true)
include has

theorem creditKey_ne {b c : Nat} (other : b ≠ c) :
    (feiDesc x 7).key (feiIx x ++ [b]) ≠ (feiDesc x 7).key (feiIx x ++ [c]) := by
  rw [feiDesc_key has (by decide), feiDesc_key has (by decide)]
  simp [dimOffset]
  omega

theorem setDepth_eq (v : Nat → Nat) (d : Dev) (c : Nat) : setDepth x v d c =
    fset (fset d (feiDesc x 7) (feiIx x ++ [c]) Fld.HUB_FEI_CRED_depth (v c)) (feiDesc x 7) (feiIx x ++ [c])
      Fld.HUB_FEI_CRED_avail (v c) := if_pos has

theorem setDepth_feiOnly (v : Nat → Nat) (d : Dev) (c : Nat) : feiOnly d (setDepth x v d c) := by
  rw [setDepth_eq has]
  rfl

theorem fei_foldl_setDepth (v : Nat → Nat) (cs : List Nat) (d : Dev) : fei (cs.foldl (setDepth x v) d) x = fei d x := by
  induction cs generalizing d with
  | nil => rfl
  | cons c cs ih =>
    refine (ih _).trans ?_
    rw [setDepth_eq has]
    rfl

/-- A class keeps the depth and the credits that it was given. -/
theorem foldl_setDepth_spec (v : Nat → Nat) (small : ∀ c, v c < 4096) (d : Dev) (n : Nat) : ∀ c < n,
    let e := (List.range n).foldl (setDepth x v) d
    fget e (feiDesc x 7) (feiIx x ++ [c]) Fld.HUB_FEI_CRED_avail = v c ∧
      fget e (feiDesc x 7) (feiIx x ++ [c]) Fld.HUB_FEI_CRED_depth = v c := by
  induction n with
  | zero => exact fun c none_ => absurd none_ (Nat.not_lt_zero c)
  | succ n ih =>
    intro c below
    rw [List.range_succ, List.foldl_append, List.foldl_cons, List.foldl_nil, setDepth_eq has]
    dsimp only
    rcases Nat.lt_succ_iff_lt_or_eq.mp below with before | rfl
    · have apart := creditKey_ne has (Nat.ne_of_lt before)
      rw [fget_fset_other _ _ _ _ _ _ _ _ apart, fget_fset_other _ _ _ _ _ _ _ _ apart,
        fget_fset_other _ _ _ _ _ _ _ _ apart, fget_fset_other _ _ _ _ _ _ _ _ apart]
      exact ih c before
    · constructor
      · exact (fget_fset_same _ _ _ _ _ (by decide) (by decide)).trans (Nat.mod_eq_of_lt (small c))
      · rw [fget_fset_field _ _ _ _ _ _ (by decide) (by decide) (by decide)]
        exact (fget_fset_same _ _ _ _ _ (by decide) (by decide)).trans (Nat.mod_eq_of_lt (small c))

/-- CREDIT_INIT at start sets depth and credits of each class (R270). -/
theorem takeDepths_spec (d : Dev) (a : List Byte) : let e := takeDepths d x a
    e.wq = d.wq ∧ fei e x = (fei d x).hasCredit ∧ ∀ c, c < 10 → feiCredit e x c = creditDepth a c ∧
      fget e (feiDesc x 7) (feiIx x ++ [c]) Fld.HUB_FEI_CRED_depth = creditDepth a c := by
  have only : feiOnly d ((List.range 10).foldl (setDepth x (creditDepth a)) d) := .foldl (setDepth_feiOnly has _) _ d
  have small (c : Nat) : creditDepth a c < 4096 := Nat.mod_lt _ (by decide)
  refine ⟨only.wq, ?_, fun c cls => ?_⟩
  · rw [takeDepths, fei_setFei_same, fei_foldl_setDepth has]
  · rw [takeDepths, feiCredit_setFei has, feiCredit, if_pos has]
    exact foldl_setDepth_spec has _ small d 10 c cls

end

/-- RAW_INIT sets depth and credits of raw frames, and has come (R274). -/
def Fei.withRawDepth (f : Fei) (n : Nat) : Fei := { f with gotRaw := true, rawDepth := n, rawCredits := n }

theorem headD_drop (a : List Byte) (n : Nat) : (a.drop n).headD 0 = a.getD n 0 := by
  rw [List.headD_eq_head?_getD, List.head?_drop, List.getD_eq_getElem?_getD]

theorem exec_rawInit {s : State} {x : BundleEnd} {a : List Byte} {rest : List (List Byte)}
    (queued : (fei s.dev x).ctl = a :: rest) (named : (a.headD 0).toNat = 2) (atStart : (fei s.dev x).runtime = false) :
    exec (.rawInit x) s = .next (s.settle (setFei (setFei s.dev.rest x ((fei s.dev x).withCtl rest)) x
      (((fei s.dev x).withCtl rest).withRawDepth (a.getD 8 0).toNat))) := by
  have atStart' : ((fei s.dev x).withCtl rest).runtime = false := by
    simp only [Fei.withCtl, atStart]
  change execRawInit x s = _
  refine run_settle ?_
  simp only [takeCtlMsg_head (d := s.dev.rest) queued named, fei_rest, fei_setFei_same, atStart', Bool.false_eq_true, if_false,
    headD_drop, Fei.withRawDepth]

end Sys2Proof.Machine
end

section
/-!
SUPPORT. What follows a fence (R272) and the discovery of dies (R276, R278).
-/
namespace Sys2Proof.Machine

/-! ### The messages of a fenced bundle -/

theorem mem_dieEnds_hub : ∀ j : Fin 4, BundleEnd.hub j ∈ dieEnds (endDie (.hub j)) := by decide

theorem mem_dieEnds_base : ∀ (m : Fin 6) (j : Fin 26), (farEnd (.base m j)).isSome = true →
    BundleEnd.base m j ∈ dieEnds (endDie (.base m j)) := by decide +kernel

theorem mem_dieEnds_le : ∀ (k : Fin 16) (j : Fin 3), BundleEnd.le k j ∈ dieEnds (endDie (.le k j)) := by decide +kernel

/-- An end of a bundle is an end of its edge. -/
theorem mem_edgeEnds_self {x y : BundleEnd} (far : farEnd x = some y) : x ∈ edgeEnds x := by
  refine List.mem_filter.mpr ⟨?_, beq_self_eq_true _⟩
  cases x with
  | hub j => exact mem_dieEnds_hub j
  | base m j => exact mem_dieEnds_base m j (by rw [far]; rfl)
  | le k j => exact mem_dieEnds_le k j
  | guest g => cases far

/-- A message goes to a bundle of the edge. -/
theorem edgeChoice_mem {x y : BundleEnd} (far : farEnd x = some y) (d : Dev) (m : List Byte) : edgeChoice d x m ∈ edgeEnds x := by
  unfold edgeChoice
  dsimp only
  split
  next none_ => exact mem_edgeEnds_self far
  next live =>
    have within : ∀ i, i < ((edgeEnds x).filter (fun y => inService d y && (fei d y).txRaw != 15)).length →
        ((edgeEnds x).filter (fun y => inService d y && (fei d y).txRaw != 15)).getD i x ∈ edgeEnds x := by
      intro i inRange
      rw [List.getD_eq_getElem _ _ inRange]
      exact List.mem_of_mem_filter (List.getElem_mem inRange)
    exact within _ (Nat.mod_lt _ (List.length_pos_of_ne_nil live))

/-- What waits at an end goes on waiting, whatever else is queued. -/
def QueuesGrow (d d' : Dev) : Prop := ∀ v, ∀ m ∈ (fei d v).txq, m ∈ (fei d' v).txq

theorem QueuesGrow.trans {a b c : Dev} (h : QueuesGrow a b) (k : QueuesGrow b c) : QueuesGrow a c :=
  fun v m mem => k v m (h v m mem)

/-- A bundle of the edge has a message to send. -/
def EdgeSends (d : Dev) (x : BundleEnd) (m : List Byte) : Prop := ∃ v ∈ edgeEnds x, m ∈ (fei d v).txq

theorem EdgeSends.grow {d d' : Dev} {x : BundleEnd} {m : List Byte} (grow : QueuesGrow d d') (sends : EdgeSends d x m) :
    EdgeSends d' x m := by
  obtain ⟨v, edge, mem⟩ := sends
  exact ⟨v, edge, grow v m mem⟩

/-- An end's messages with one more. -/
theorem setFei_withMessage_grow (d : Dev) (z : BundleEnd) (m : List Byte) : QueuesGrow d (setFei d z ((fei d z).withMessage m)) := by
  intro v u mem
  by_cases at_ : v = z
  · subst at_
    rw [fei_setFei_same]
    exact List.mem_append_left _ mem
  · rwa [fei_setFei_other _ at_]

/-- The end of an edge that a message is queued at. -/
def queueEnd (d : Dev) (x : BundleEnd) (m : List Byte) : BundleEnd := match x with | .guest _ => x | _ => edgeChoice d x m

theorem queueMsgs_cons (d : Dev) (x : BundleEnd) (m : List Byte) (ms : List (List Byte)) : queueMsgs d x (m :: ms) =
    queueMsgs (setFei d (queueEnd d x m) ((fei d (queueEnd d x m)).withMessage m)) x ms := rfl

theorem queueEnd_mem {x y : BundleEnd} (far : farEnd x = some y) (d : Dev) (m : List Byte) : queueEnd d x m ∈ edgeEnds x := by
  cases x with
  | guest g => cases far
  | _ => exact edgeChoice_mem far d m

theorem queueMsgs_grow (x : BundleEnd) (ms : List (List Byte)) (d : Dev) : QueuesGrow d (queueMsgs d x ms) := by
  induction ms generalizing d with
  | nil => exact fun _ _ mem => mem
  | cons m ms ih => exact .trans (setFei_withMessage_grow d _ m) (ih _)

/-- Queued messages wait at bundles of the edge. -/
theorem queueMsgs_sends {x y : BundleEnd} (far : farEnd x = some y) (ms : List (List Byte)) (d : Dev) :
    ∀ m ∈ ms, EdgeSends (queueMsgs d x ms) x m := by
  induction ms generalizing d with
  | nil => exact fun m mem => absurd mem List.not_mem_nil
  | cons u us ih =>
    intro m mem
    rw [queueMsgs_cons]
    rcases List.mem_cons.mp mem with rfl | rest
    · refine .grow (queueMsgs_grow x us _) ⟨_, queueEnd_mem far d m, ?_⟩
      rw [fei_setFei_same]
      exact List.mem_append_right _ List.mem_cons_self
    · exact ih _ m rest

theorem setFei_grow {d : Dev} {x : BundleEnd} {v : Fei} (same : v.txq = (fei d x).txq) : QueuesGrow d (setFei d x v) :=
  fun z _ mem => (fei_setFei_keeps Fei.txq same z).symm ▸ mem

theorem edgeResume_grow (d : Dev) (x : BundleEnd) : QueuesGrow d (edgeResume d x) := by
  unfold edgeResume
  dsimp only
  split
  · refine .trans (setFei_grow ?_) (queueMsgs_grow x _ _)
    rfl
  · exact fun _ _ mem => mem

/-- An end's messages to send are taken from it. -/
def dropQueue (d : Dev) (y : BundleEnd) : Dev := setFei d y (fei d y).noMessages

/-- An edge holds messages, and drains. -/
def Fei.holds (f : Fei) (ms : List (List Byte)) : Fei := { f with held := ms, draining := true }

/-- The messages of an edge are queued again, those given first (R272). -/
theorem edgeResend_eq (d : Dev) (x : BundleEnd) (ms : List (List Byte)) : edgeResend d x ms =
    let e := queueMsgs ((edgeEnds x).foldl dropQueue d) x ms
    edgeResume (setFei e (edgeHead x) ((fei e (edgeHead x)).holds
      ((edgeEnds x).flatMap (fun y => (fei d y).txq) ++ (fei e (edgeHead x)).held))) x := rfl

theorem edgeResend_hiddenOnly (d : Dev) (x : BundleEnd) (ms : List (List Byte)) : hiddenOnly d (edgeResend d x ms) := by
  have dropped : hiddenOnly d ((edgeEnds x).foldl dropQueue d) := .foldl (fun d y => setFei_hiddenOnly d y _) _ d
  rw [edgeResend_eq]
  exact (dropped.trans (queueMsgs_hiddenOnly ..)).trans ((setFei_hiddenOnly ..).trans (edgeResume_hiddenOnly ..))

theorem edgeResend_keeps {α : Type} {p : Fei → α} (ignores : Fei.IgnoresQueues p) (d : Dev) (x : BundleEnd)
    (ms : List (List Byte)) (z : BundleEnd) : p (fei (edgeResend d x ms) z) = p (fei d z) := by
  have dropped : ∀ (ys : List BundleEnd) (d : Dev), p (fei (ys.foldl dropQueue d) z) = p (fei d z) := by
    intro ys
    induction ys with
    | nil => exact fun _ => rfl
    | cons y ys ih => exact fun d => (ih _).trans (fei_setFei_keeps p (ignores _ _ (fei d y).held (fei d y).draining) z)
  rw [edgeResend_eq]
  dsimp only
  rw [edgeResume_keeps ignores]
  refine (fei_setFei_keeps p ?_ z).trans ((queueMsgs_keeps ignores ..).trans (dropped ..))
  exact ignores _ (fei _ _).txq _ _

theorem edgeResend_sends {x y : BundleEnd} (far : farEnd x = some y) (d : Dev) (ms : List (List Byte)) :
    ∀ m ∈ ms, EdgeSends (edgeResend d x ms) x m := by
  intro m mem
  rw [edgeResend_eq]
  dsimp only
  refine .grow (.trans (setFei_grow ?_) (edgeResume_grow _ x)) (queueMsgs_sends far ms _ m mem)
  rfl

/-! ### FENCE_INFO -/

/-- The messages of flits. -/
def flitMsgs (us : List FFlit) : List (List Byte) := us.flatMap (fun u => (splitMsgs u.sov (padTo 240 u.slots)).filterMap id)

/-- An end waits for FENCE_INFO no more, and keeps nothing for replay. -/
def Fei.informed (f : Fei) : Fei := { f with replay := [], waitInfo := false }

/-- What an end keeps for replay, and whether it waits for FENCE_INFO. -/
def Fei.fenced (f : Fei) : List FFlit × Bool := (f.replay, f.waitInfo)

theorem fenced_ignoresQueues : Fei.IgnoresQueues Fei.fenced := fun _ _ _ _ => rfl

/-- The messages of an end that is informed go to the bundles of its edge, and neither memory nor a register changes. -/
theorem resend_informed {x y : BundleEnd} (far : farEnd x = some y) (d : Dev) (z : BundleEnd) (ms : List (List Byte)) :
    let e := edgeResend (setFei d z (fei d z).informed) x ms
    hiddenOnly d e ∧ (fei e z).waitInfo = false ∧ (fei e z).replay = [] ∧ ∀ m ∈ ms, EdgeSends e x m := by
  have same := edgeResend_keeps fenced_ignoresQueues (setFei d z (fei d z).informed) x ms z
  rw [fei_setFei_same] at same
  simp only [Fei.fenced, Fei.informed, Prod.mk.injEq] at same
  exact ⟨(setFei_hiddenOnly ..).trans (edgeResend_hiddenOnly ..), same.2, same.1, edgeResend_sends far _ ms⟩

/-- The flits after the last that the far die accepted. -/
def laterFlits (f : Fei) (last : Nat) : List FFlit := f.replay.filter (fun u => !(seqLe u.seq last) && u.ftype == 1)

theorem exec_fenceInfo {s : State} {x z : BundleEnd} {a : List Byte} {rest : List (List Byte)}
    (queued : (fei s.dev x).ctl = a :: rest) (named : (a.headD 0).toNat = 5)
    (first : (edgeEnds x).find? (fun u => edgeNumber u == (a.getD 8 0).toNat && (fei s.dev u).waitInfo) = some z) (other : z ≠ x) :
    exec (.fenceInfo x) s = .next (s.settle (edgeResend
      (setFei (setFei s.dev.rest x ((fei s.dev x).withCtl rest)) z (fei s.dev z).informed) x
      (flitMsgs (laterFlits (fei s.dev z) (leNat (slice a 9 2) % 4096))))) := by
  have waits (u : BundleEnd) : (fei (setFei s.dev.rest x ((fei s.dev x).withCtl rest)) u).waitInfo = (fei s.dev u).waitInfo := by
    refine fei_setFei_keeps (d := s.dev.rest) Fei.waitInfo ?_ u
    rfl
  have kept : fei (setFei s.dev.rest x ((fei s.dev x).withCtl rest)) z = fei s.dev z := fei_setFei_other s.dev.rest other _
  change execFenceInfo x s = _
  refine run_settle ?_
  simp only [takeCtlMsg_head (d := s.dev.rest) queued named, fei_rest, waits, headD_drop, first, slice_drop, kept]
  rfl

/-- A message that no acknowledge covers is lost: its requester sees TIMEOUT (R272). -/
def reportLost (d : Dev) (m : List Byte) : Dev :=
  let u := targetUnit d (msgAddr m)
  report d { source := 0x17, unit := u.1, sub := u.2.1, detail := low32 (u.2.2 / 8) }

/-- The messages of the flits that an end keeps for replay, those of requests alone. -/
def lostRequests (f : Fei) : List (List Byte) :=
  (f.replay.flatMap (fun u => if u.ftype = 1 then (splitMsgs u.sov (padTo 240 u.slots)).filterMap id else [])).filter
    (fun m => msgClass m == 0 || msgClass m == 5)

theorem exec_fenceInfoTimeout {s : State} {x : BundleEnd} (waits : (fei s.dev x).waitInfo = true) :
    exec (.fenceInfoTimeout x) s = .next (s.settle ((lostRequests (fei s.dev x)).foldl reportLost
      (edgeResend (setFei s.dev.rest x (fei s.dev x).informed) x []))) := by
  change execFenceInfoTimeout x s = _
  refine run_settle ?_
  simp only [fei_rest, waits, Bool.not_true, Bool.false_eq_true, if_false]
  rfl

/-- Each lost request is recorded, and nothing else changes. -/
theorem foldl_reportLost_spec (ms : List (List Byte)) (d : Dev) : let e := ms.foldl reportLost d
    e.fei = d.fei ∧ e.regs = d.regs ∧ e.wq = d.wq ∧ e.reports.length = d.reports.length + ms.length := by
  induction ms generalizing d with
  | nil => exact ⟨rfl, rfl, rfl, rfl⟩
  | cons m ms ih =>
    obtain ⟨hidden, regs, wq, recorded⟩ := ih (reportLost d m)
    refine ⟨hidden, regs, wq, recorded.trans ?_⟩
    have one : (reportLost d m).reports.length = d.reports.length + 1 := List.length_append
    rw [one, List.length_cons]
    omega

/-! ### Discovery -/

/-- A die is entered at a place of the device map (R278). -/
def enterDie (d : Dev) (i r st : Nat) : Dev :=
  fset (wrReg d Reg.HUB_DIEMAP [i] (low32 (bits r 23 0))) Reg.HUB_DIEMAP [i] Fld.HUB_DIEMAP_state st

/-- The entry shows the record's fields and its state. -/
theorem enterDie_spec (d : Dev) (i r : Nat) {st : Nat} (small : st < 8) : let w := rdReg (enterDie d i r st) Reg.HUB_DIEMAP [i]
    bits w.toNat 23 0 = bits r 23 0 ∧ Fld.HUB_DIEMAP_state.get w = st := by
  rw [enterDie, fset, rdReg_wrReg_same, rdReg_wrReg_same]
  have record : (low32 (bits r 23 0)).toNat = bits r 23 0 := by
    simp only [low32, BitVec.toNat_ofNat, bits, Nat.shiftRight_eq_div_pow]
    omega
  constructor
  · refine (Fld.get_put_other Fld.HUB_DIEMAP_state ⟨23, 0, .ro⟩ _ _ (by decide) (by decide) (by decide)).trans ?_
    rw [Fld.get, record]
    simp only [bits, Nat.shiftRight_eq_div_pow]
    omega
  · exact (Fld.get_put_same _ _ _ (by decide) (by decide)).trans (Nat.mod_eq_of_lt small)

theorem enterDie_keeps (d : Dev) (i r st : Nat) : keepsRegs d (enterDie d i r st) [Reg.HUB_DIEMAP.key [i]] :=
  keepsRegs_trans (keepsRegs_wrReg _ _ _ _) (keepsRegs_fset _ _ _ _ _)

theorem exec_discover (s : State) (place : Fin 61) (r : BitVec 128) : exec (.discover place r) s = .next (s.settle
    (if placeDie place.val = (bits r.toNat 7 0, bits r.toNat 15 8) then
      { enterDie s.dev.rest place.val r.toNat 1 with mapAcks := s.dev.mapAcks ++ [place.val] }
    else report ((dieEnds place.val).foldl feiFence (enterDie s.dev.rest place.val r.toNat 3))
      { source := 0x25, unit := place.val, stat := Reg.HUB_DIEMAP.slot [place.val] })) := by
  change execDiscover place r s = _
  refine run_settle ?_
  by_cases belongs : placeDie place.val = (bits r.toNat 7 0, bits r.toNat 15 8)
  · simp only [belongs, beq_self_eq_true, if_true]
    rfl
  · have other : (placeDie place.val == (bits r.toNat 7 0, bits r.toNat 15 8)) = false := beq_eq_false_iff_ne.mpr belongs
    simp only [other, belongs, Bool.false_eq_true, if_false]
    rfl

theorem farEnd_of_mem_dieEnds : ∀ place : Fin 61, (dieEnds place.val).all (fun z => (farEnd z).isSome) = true := by
  decide +kernel

/-- What fencing a die's bundles leaves of everything else: nothing is taken back, and an entry that is not ABSENT stays. -/
structure Fences (d d' : Dev) (i : Nat) : Prop where
  wq : d'.wq = d.wq
  mapAcks : d'.mapAcks = d.mapAcks
  reports : d.reports.length ≤ d'.reports.length
  entry : fget d Reg.HUB_DIEMAP [i] Fld.HUB_DIEMAP_state ≠ 0 → rdReg d' Reg.HUB_DIEMAP [i] = rdReg d Reg.HUB_DIEMAP [i]

theorem Fences.refl (d : Dev) (i : Nat) : Fences d d i := ⟨rfl, rfl, Nat.le_refl _, fun _ => rfl⟩

theorem Fences.trans {a b c : Dev} {i : Nat} (h : Fences a b i) (k : Fences b c i) : Fences a c i := by
  refine ⟨k.wq.trans h.wq, k.mapAcks.trans h.mapAcks, h.reports.trans k.reports, fun present => ?_⟩
  have same := h.entry present
  exact (k.entry (by unfold fget; rw [same]; exact present)).trans same

theorem rdReg_diemap_feiSet (d : Dev) {i : Nat} (place : i < 61) (y : BundleEnd) {j : Nat} (group : j < 8) (f : Fld) (v : Nat) :
    rdReg (feiSet d y j f v) Reg.HUB_DIEMAP [i] = rdReg d Reg.HUB_DIEMAP [i] := by
  unfold feiSet
  split
  next has =>
    exact rdReg_fset_other _ _ _ _ _ _ _ fun same => diemap_key_block place has (same ▸ feiDesc_key_block has group)
  next => rfl

theorem rdReg_diemap_closeEnds (d : Dev) {i : Nat} (place : i < 61) (x : BundleEnd) :
    rdReg (closeEnds d x) Reg.HUB_DIEMAP [i] = rdReg d Reg.HUB_DIEMAP [i] := by
  unfold closeEnds
  induction bundleEnds x generalizing d with
  | nil => rfl
  | cons y ys ih => exact (ih _).trans (rdReg_diemap_feiSet d place y (by decide) _ _)

theorem diemap_key_injective {i j : Nat} (same : Reg.HUB_DIEMAP.key [i] = Reg.HUB_DIEMAP.key [j]) : i = j := by
  have key (n : Nat) : Reg.HUB_DIEMAP.key [n] = 0x4000 + (4 * n + 0) := rfl
  rw [key, key] at same
  omega

/-- The fence of one bundle. -/
theorem feiFence_fences (d : Dev) {i : Nat} (place : i < 61) (x : BundleEnd) : Fences d (feiFence d x) i := by
  by_cases open_ : feiState d x = 7
  · rw [feiFence, if_pos open_]
    exact .refl d i
  · have only := feiClose_feiOnly d x
    rw [feiFence_open open_]
    refine ⟨only.wq, only.mapAcks, ?_, fun present => ?_⟩
    · exact (congrArg List.length only.reports).symm.le.trans (by rw [report]; simp)
    · have closed : rdReg ((bundleEnds x).foldl tellFence (closeEnds d x)) Reg.HUB_DIEMAP [i] = rdReg d Reg.HUB_DIEMAP [i] := by
        rw [(hiddenOnly.foldl tellFence_hiddenOnly (bundleEnds x) (closeEnds d x)).rdReg, rdReg_diemap_closeEnds d place]
      change rdReg (feiClose d x) _ _ = _
      rw [feiClose_open open_, loseFarDie]
      split
      next lost =>
        refine (rdReg_fset_other _ _ _ _ _ _ _ fun same => present ?_).trans closed
        have absent := beq_iff_eq.mp (Bool.and_eq_true_iff.mp lost).2
        rw [← diemap_key_injective same, fget, closed] at absent
        exact absent
      next => exact closed

theorem foldl_feiFence_fences {i : Nat} (place : i < 61) (zs : List BundleEnd) (d : Dev) : Fences d (zs.foldl feiFence d) i := by
  induction zs generalizing d with
  | nil => exact .refl d i
  | cons z zs ih => exact (feiFence_fences d place z).trans (ih _)

section
variable {x y : BundleEnd} (far : farEnd x = some y) (d : Dev)
include far

theorem feiState_feiFence_same : feiState (feiFence d x) x = 7 := by
  by_cases open_ : feiState d x = 7
  · rwa [feiFence, if_pos open_]
  · rw [feiFence_open open_, feiState_report]
    exact feiState_feiClose far open_ (.inl rfl)

theorem feiState_feiFence_of_fenced {z : BundleEnd} (has : hasFei z = true) (fenced : feiState d z = 7) :
    feiState (feiFence d x) z = 7 := by
  by_cases open_ : feiState d x = 7
  · rwa [feiFence, if_pos open_]
  · rw [feiFence_open open_, feiState_report]
    exact feiState_feiClose_of_fenced far has fenced

end

/-- Every bundle of a list of ends is fenced. -/
theorem feiState_foldl_feiFence (zs : List BundleEnd) (ends : ∀ z ∈ zs, ∃ y, farEnd z = some y) (d : Dev) :
    (∀ z, hasFei z = true → feiState d z = 7 → feiState (zs.foldl feiFence d) z = 7) ∧
      ∀ z ∈ zs, feiState (zs.foldl feiFence d) z = 7 := by
  induction zs generalizing d with
  | nil => exact ⟨fun z _ fenced => fenced, fun z mem => absurd mem List.not_mem_nil⟩
  | cons u us ih =>
    obtain ⟨⟨y, far⟩, rest⟩ := List.forall_mem_cons.mp ends
    obtain ⟨stay, fenced⟩ := ih rest (feiFence d u)
    refine ⟨fun z has before => stay z has (feiState_feiFence_of_fenced far d has before), fun z mem => ?_⟩
    rcases List.mem_cons.mp mem with rfl | later
    · exact stay z (hasFei_of_farEnd far) (feiState_feiFence_same far d)
    · exact fenced z later

/-- A die that does not belong at its place is entered as UNEXPECTED, and its bundles are fenced (R278). -/
theorem unexpectedDie_spec (d : Dev) (place : Fin 61) (r : Nat) :
    let e := (dieEnds place.val).foldl feiFence (enterDie d place.val r 3)
    e.wq = d.wq ∧ e.mapAcks = d.mapAcks ∧ d.reports.length ≤ e.reports.length ∧
      rdReg e Reg.HUB_DIEMAP [place.val] = rdReg (enterDie d place.val r 3) Reg.HUB_DIEMAP [place.val] ∧
      ∀ z ∈ dieEnds place.val, feiState e z = 7 := by
  obtain ⟨wq, mapAcks, reports, entry⟩ := foldl_feiFence_fences place.isLt (dieEnds place.val) (enterDie d place.val r 3)
  have state := (enterDie_spec d place.val r (by decide : 3 < 8)).2
  have ends : ∀ z ∈ dieEnds place.val, ∃ y, farEnd z = some y := fun z mem =>
    Option.isSome_iff_exists.mp (List.all_eq_true.mp (farEnd_of_mem_dieEnds place) z mem)
  exact ⟨wq, mapAcks, reports, entry (by rw [fget, state]; decide), (feiState_foldl_feiFence _ ends _).2⟩

/-! ### MAP_ACK -/

/-- The far end of a bundle shows the index of the die it leads to (R276). -/
def showPeer (i : Nat) (d : Dev) (y : BundleEnd) : Dev :=
  match farEnd y with | some z => feiSet d z 1 Fld.HUB_FEI_STAT_peer i | none => d

theorem exec_mapAck {s : State} {place : Fin 61} (waits : place.val ∈ s.dev.mapAcks) : exec (.mapAck place) s = .next (s.settle
    ((dieEnds place.val).foldl (showPeer place.val) { s.dev.rest with mapAcks := s.dev.mapAcks.erase place.val })) := by
  change execMapAck place s = _
  exact run_settle (if_pos (List.contains_iff_mem.mpr waits))

theorem showPeer_feiOnly (i : Nat) (d : Dev) (y : BundleEnd) : feiOnly d (showPeer i d y) := by
  unfold showPeer
  split
  · exact feiSet_feiOnly ..
  · exact .refl d

/-- An index shown is not changed by showing it elsewhere. -/
theorem showPeer_peer {i : Nat} (small : i < 256) (d : Dev) {y u : BundleEnd} (has : hasFei u = true)
    (shown : farEnd y = some u ∨ feiGet d u 1 Fld.HUB_FEI_STAT_peer = i) :
    feiGet (showPeer i d y) u 1 Fld.HUB_FEI_STAT_peer = i := by
  have shows (d : Dev) : feiGet (feiSet d u 1 Fld.HUB_FEI_STAT_peer i) u 1 Fld.HUB_FEI_STAT_peer = i :=
    (feiGet_feiSet_same d has 1 (by decide) (by decide) i).trans (Nat.mod_eq_of_lt small)
  unfold showPeer
  rcases h : farEnd y with _ | z
  · exact shown.resolve_left (by rw [h]; simp)
  · by_cases same : z = u
    · subst same
      exact shows d
    · refine (feiGet_feiSet_apart d has 1 1 (by decide) (by decide) (.inl (Ne.symm same)) _ _ _).trans (shown.resolve_left ?_)
      rw [h]
      exact fun eq => same (Option.some.inj eq)

theorem foldl_showPeer_peer {i : Nat} (small : i < 256) (zs : List BundleEnd) (d : Dev) {u : BundleEnd} (has : hasFei u = true)
    (shown : (∃ z ∈ zs, farEnd z = some u) ∨ feiGet d u 1 Fld.HUB_FEI_STAT_peer = i) :
    feiGet (zs.foldl (showPeer i) d) u 1 Fld.HUB_FEI_STAT_peer = i := by
  induction zs generalizing d with
  | nil => exact shown.resolve_left (by simp)
  | cons z zs ih =>
    refine ih _ ?_
    rcases shown with ⟨v, mem, far⟩ | before
    · rcases List.mem_cons.mp mem with rfl | later
      · exact .inr (showPeer_peer small d has (.inl far))
      · exact .inl ⟨v, later, far⟩
    · exact .inr (showPeer_peer small d has (.inr before))

end Sys2Proof.Machine
end

section
/-!
CLAIM. Flits and frames of a bundle in service, and the discovery of dies (R257-R278).
-/
namespace Sys2Proof.Machine

/-- Settles O37: each command is a row of the lemmas on slot times, received flits, replays, fences and discovery. -/
theorem feinoFlitsAndDiscovery : Obligations.FeinoFlitsAndDiscovery := by
  unfold Obligations.FeinoFlitsAndDiscovery
  refine ⟨?_, ?_, ?_, ?_⟩
  · intro s x y far active f
    have has := hasFei_of_farEnd far
    have active' : feiState s.dev.rest x = 6 := (feiState_rest ..).trans active
    have sent (msgs : List (List Byte)) := exec_feinoSlotSend has s msgs []
    refine ⟨fun first plain => ?_, fun slot _ noRaw few => ?_,
      fun m fine slot _ noRaw few empty noControl fresh room free chosen fits paid small => ?_⟩
    · obtain ⟨wq, regs, next, out⟩ := slotTime_aln active' first plain
      exact ⟨_, sent [], settle_mem_of_quiet s wq, regs, next, out⟩
    · obtain ⟨wq, next, b, out, length, crc⟩ := slotTime_flit active' slot noRaw few
      exact ⟨_, b, sent [], settle_mem_of_quiet s wq, next, out, length, crc⟩
    · obtain ⟨wq, ⟨fl, kept, seq, type_, sov, slots⟩, next, empty, left, out⟩ :=
        slotTime_message has active' fine slot noRaw few empty noControl fresh room free chosen fits paid small
      exact ⟨_, fl, sent [m], settle_mem_of_quiet s wq, kept, seq, type_, sov, slots, next, empty, left, out⟩
  · intro s x y flit far active length f w good ms
    have has := hasFei_of_farEnd far
    have receives := flitReceived_receives has s.dev.rest flit
    have tail : slice flit 252 4 = flit.drop 252 := slice_last length
    refine ⟨_, exec_feinoFlitReceive active length, settle_mem_of_quiet s receives.wq, ?_, fun bad => ?_, fun good idle => ?_,
      fun good type_ out => ?_, fun good isMsgs next fine => ?_, fun good isCtl next => ?_⟩
    · exact (feiState_settle ..).trans (receives.state.trans ((feiState_rest ..).trans active))
    · obtain ⟨same, counted, asks⟩ := flitReceived_badCrc has (d := s.dev.rest) (by rwa [tail])
      simp only [Fei.received, Prod.mk.injEq] at same
      obtain ⟨seqRx, inbox, -, replay⟩ := same
      refine ⟨seqRx, inbox, replay, counted, fun may => asks ?_⟩
      unfold Fei.mayNak
      split
      next => rfl
      next n at_ => exact decide_eq_true (may n at_)
    · obtain ⟨seqRx, inbox, -, replay⟩ := resume_takeAcks_spec s.dev.rest x w (leNat (slice flit 248 4))
      rw [← flitReceived_idle (x := x) (by rwa [tail]) idle] at seqRx inbox replay
      exact ⟨seqRx, inbox, replay⟩
    · exact flitReceived_outOfOrder (by rwa [tail]) type_ out
    · exact flitReceived_messages has (by rwa [tail]) isMsgs next fine
    · exact flitReceived_control has (by rwa [tail]) isCtl next
  · intro s x y far f
    have has := hasFei_of_farEnd far
    refine ⟨fun waiting nak noRaw => ?_, fun waiting => ?_, fun frame active length raw sound => ?_, fun a rest queued atStart => ?_,
      fun z edge a rest queued named first other => ?_, fun waits => ?_⟩
    · exact ⟨_, exec_feinoNak waiting nak noRaw, settle_replays has _⟩
    · exact ⟨_, exec_feinoReplayTimer waiting, settle_replays has _⟩
    · refine ⟨_, exec_rawFrameReceive active length raw sound, settle_mem_of_quiet s (frameReceived_wq ..), fun bad => ?_,
        fun good named next => ?_⟩
      · have asks := frameReceived_badCrc s.dev.rest x (frame := frame) (by rwa [slice_last length])
        rw [settle_dev, fei_rest, asks]
        exact ⟨rfl, rfl⟩
      · exact frameReceived_inOrder s.dev.rest x (by rwa [slice_last length]) named next
    · refine ⟨fun named => ?_, fun named => ?_⟩
      · obtain ⟨wq, hidden, depths⟩ := takeDepths_spec has (setFei s.dev.rest x ((fei s.dev x).withCtl rest)) a
        rw [fei_setFei_same] at hidden
        refine ⟨_, exec_creditInit has queued named atStart, settle_mem_of_quiet s wq, ?_, ?_, fun c cls => ?_⟩
        · exact congrArg Fei.gotCredit hidden
        · exact congrArg Fei.ctl hidden
        · obtain ⟨credits, depth⟩ := depths c cls
          refine ⟨Eq.trans ?_ credits, depth⟩
          unfold feiCredit
          rw [if_pos has, if_pos has]
          rfl
      · refine ⟨_, exec_rawInit queued named atStart, rfl, rfl, ?_⟩
        exact fei_setFei_same ..
    · obtain ⟨only, informed, replay, sends⟩ := resend_informed far (setFei s.dev.rest x ((fei s.dev x).withCtl rest)) z
        (flitMsgs (laterFlits (fei s.dev z) (leNat (slice a 9 2) % 4096)))
      have kept : fei (setFei s.dev.rest x ((fei s.dev x).withCtl rest)) z = fei s.dev z := fei_setFei_other s.dev.rest other _
      have run := exec_fenceInfo queued named first other
      rw [kept] at only informed replay sends
      generalize edgeResend _ _ _ = e at run only informed replay sends
      refine ⟨_, run, settle_mem_of_quiet s only.wq, only.regs, informed, replay,
        fun u kept isMsgs later m mem => sends m (List.mem_flatMap.mpr ⟨u, List.mem_filter.mpr ⟨kept, ?_⟩, mem⟩)⟩
      rw [later, isMsgs]
      rfl
    · obtain ⟨only, informed, replay, -⟩ := resend_informed far s.dev.rest x []
      obtain ⟨hidden, regs, wq, reports⟩ := foldl_reportLost_spec (lostRequests f) (edgeResend (setFei s.dev.rest x f.informed) x [])
      refine ⟨_, exec_fenceInfoTimeout waits, settle_mem_of_quiet s (wq.trans only.wq), regs.trans only.regs, ?_, ?_, ?_⟩
      · rw [settle_dev, fei_rest, fei, hidden]
        exact informed
      · rw [settle_dev, fei_rest, fei, hidden]
        exact replay
      · exact reports.trans (congrArg (· + _) (congrArg List.length only.reports))
  · intro s place r w
    refine ⟨?_, fun waits => ?_⟩
    · have run := exec_discover s place r
      by_cases belongs : placeDie place.val = (bits r.toNat 7 0, bits r.toNat 15 8)
      · obtain ⟨fields, state⟩ := enterDie_spec s.dev.rest place.val r.toNat (by decide : 1 < 8)
        rw [if_pos belongs] at run
        exact ⟨_, run, rfl, fields, fun _ => ⟨state, rfl, rfl, enterDie_keeps s.dev.rest place.val r.toNat 1⟩,
          fun other => absurd belongs other⟩
      · obtain ⟨fields, state⟩ := enterDie_spec s.dev.rest place.val r.toNat (by decide : 3 < 8)
        obtain ⟨wq, mapAcks, reports, entry, fenced⟩ := unexpectedDie_spec s.dev.rest place r.toNat
        rw [← entry] at fields state
        rw [if_neg belongs] at run
        refine ⟨_, run, settle_mem_of_quiet s wq, fields, fun same => absurd same belongs, fun _ => ⟨state, mapAcks,
          fun z die => ?_, ?_⟩⟩
        · exact (feiState_settle ..).trans ((feiState_report ..).trans (fenced z die))
        · change _ < (_ ++ [_]).length
          rw [List.length_append]
          exact Nat.lt_succ_of_le reports
    · have only : feiOnly { s.dev.rest with mapAcks := s.dev.mapAcks.erase place.val } ((dieEnds place.val).foldl
        (showPeer place.val) { s.dev.rest with mapAcks := s.dev.mapAcks.erase place.val }) := .foldl (showPeer_feiOnly _) _ _
      refine ⟨_, exec_mapAck waits, settle_mem_of_quiet s only.wq, only.mapAcks, fun z die u far => ?_⟩
      exact foldl_showPeer_peer (by omega) _ _ (hasFei_of_farEnd (farEnd_symm far)) (.inl ⟨z, die, far⟩)

end Sys2Proof.Machine
end

section
/-!
SUPPORT. Guest sites (R280-R283, R288): release, negotiation and the kill of a site.
-/
namespace Sys2Proof.Machine

theorem guestEnd_val (g : Fin 2) : guestEnd g.val = .guest g := by
  rw [guestEnd, Fin.ofNat_val_eq_self]

@[simp] theorem guestState_rest (d : Dev) (g : Nat) :
    guestState d.rest g = guestState d g := rfl

@[simp] theorem fget_setGuest (d : Dev) (g : Nat) (v : Guest) (r : RegDesc) (ix : List Nat) (f : Fld) :
    fget (setGuest d g v) r ix f = fget d r ix f := rfl

@[simp] theorem rdReg_setGuest (d : Dev) (g : Nat) (v : Guest) (r : RegDesc) (ix : List Nat) :
    rdReg (setGuest d g v) r ix = rdReg d r ix := rfl

@[simp] theorem guest_setGuest_same (d : Dev) (g : Nat) (v : Guest) : guest (setGuest d g v) g = v := Sparse.get_set_same ..

/-! ### After a command

A command's effect may be a long term; these say once what its state shows of it. -/

section
variable (s : State) (d : Dev)

theorem reports_settle : (s.settle d).dev.reports = d.reports := rfl
theorem out_settle : (s.settle d).dev.out = d.out := rfl
theorem fei_settle (x : BundleEnd) : fei (s.settle d).dev x = fei d x := rfl
theorem guest_settle (g : Nat) : guest (s.settle d).dev g = guest d g := rfl
theorem guestState_settle (g : Nat) : guestState (s.settle d).dev g = guestState d g := rfl
theorem profWord_settle (r : RegDesc) (g : Nat) : profWord (s.settle d).dev r g = profWord d r g := rfl
theorem rdReg_settle (r : RegDesc) (ix : List Nat) : rdReg (s.settle d).dev r ix = rdReg d r ix := rfl

theorem keepsRegs_settle {ks : List Nat} (keeps : keepsRegs s.dev.rest d ks) : keepsRegs s.dev (s.settle d).dev ks := keeps

end

/-! ### PRV_STAT -/

section
variable (d : Dev) (g : Nat)

theorem guestState_fset_state {st : Nat} (small : st < 8) :
    guestState (fset d Reg.PRV_STAT [g] Fld.PRV_STAT_state st) g = st :=
  (fget_fset_same _ _ _ _ _ (by decide) (by decide)).trans (Nat.mod_eq_of_lt small)

/-- The state stands above the other fields of PRV_STAT. -/
theorem guestState_fset_below {f : Fld} (ordered : f.lo ≤ f.hi) (below : f.hi < 29) (v : Nat) :
    guestState (fset d Reg.PRV_STAT [g] f v) g = guestState d g :=
  fget_fset_field _ _ _ _ _ _ ordered (by decide) (.inr below)

end

/-! ### Release -/

theorem partOfGuest_lt {d : Dev} {g q : Nat} (owner : partOfGuest d g = some q) : q < 16 :=
  List.mem_range.mp (List.mem_of_find?_eq_some (p := fun q => partOn d q && tbit (fget d Reg.HUB_PART_RES [q]
    Fld.HUB_PART_RES_guests) g) owner)

/-- PRV_STAT of a site in negotiation for its owning partition. -/
def shownNegotiating (d : Dev) (g q : Nat) : Dev :=
  fset (fset d Reg.PRV_STAT [g] Fld.PRV_STAT_state 2) Reg.PRV_STAT [g] Fld.PRV_STAT_part q

theorem shownNegotiating_spec (d : Dev) (g : Nat) {q : Nat} (part : q < 16) : guestState (shownNegotiating d g q) g = 2 ∧
    fget (shownNegotiating d g q) Reg.PRV_STAT [g] Fld.PRV_STAT_part = q :=
  ⟨(guestState_fset_below _ g (by decide) (by decide) q).trans (guestState_fset_state d g (by decide)),
    (fget_fset_same _ _ _ _ _ (by decide) (by decide)).trans (Nat.mod_eq_of_lt part)⟩

/-- A site in negotiation for its owning partition. -/
def negotiating (d : Dev) (g q : Nat) : Dev :=
  setGuest (fset (shownNegotiating d g q) Reg.PRV_CTL [g] Fld.PRV_CTL_release 1) g { step := 1 }

theorem negotiating_spec (d : Dev) (g : Nat) {q : Nat} (part : q < 16) :
    (negotiating d g q).wq = d.wq ∧ (negotiating d g q).reports = d.reports ∧ guestState (negotiating d g q) g = 2 ∧
      fget (negotiating d g q) Reg.PRV_STAT [g] Fld.PRV_STAT_part = q ∧ (guest (negotiating d g q) g).step = 1 := by
  obtain ⟨state, shown⟩ := shownNegotiating_spec d g part
  have released (f : Fld) : fget (negotiating d g q) Reg.PRV_STAT [g] f = fget (shownNegotiating d g q) Reg.PRV_STAT [g] f := by
    rw [negotiating, fget_setGuest, fget_fset_base (q := Reg.PRV_STAT) (r := Reg.PRV_CTL) rfl (by decide)]
  exact ⟨rfl, rfl, (released _).trans state, (released _).trans shown, by rw [negotiating, guest_setGuest_same]⟩

/-- A site that no partition owns stays HELD, with reason OWNER. -/
def withoutOwner (d : Dev) (g : Nat) : Dev := fset d Reg.PRV_STAT [g] Fld.PRV_STAT_kill_reason 5

theorem withoutOwner_spec (d : Dev) (g : Nat) : (withoutOwner d g).wq = d.wq ∧ (withoutOwner d g).reports = d.reports ∧
    guestState (withoutOwner d g) g = guestState d g ∧
    fget (withoutOwner d g) Reg.PRV_STAT [g] Fld.PRV_STAT_kill_reason = 5 :=
  ⟨rfl, rfl, guestState_fset_below d g (by decide) (by decide) 5, fget_fset_same _ _ _ _ _ (by decide) (by decide)⟩

/-- A HELD site with a die, released by a path that owns it. -/
theorem exec_prvRelease {s : State} {p : Path} {g : Fin 2} (notPort : pathPort p = none) (held : guestState s.dev g.val = 1)
    (mounted : g.val < s.fuses.guestPop) : exec (.prvRelease p g) s = .next (s.settle (match partOfGuest s.dev g.val with
      | none => withoutOwner s.dev.rest g.val
      | some q => negotiating s.dev.rest g.val q)) := by
  have owns : privetPath s.dev.rest p g.val = true := by
    rw [privetPath, pathOwns, notPort]
  have ready : ¬ (guestState s.dev.rest g.val ≠ 1 ∨ (!guestMounted ⟨s.fuses, s.mem⟩ g.val) = true) := by
    simp [held, guestMounted, mounted]
  change execPrvRelease p g s = _
  refine run_settle ?_
  simp only [portHalted_of_no_port notPort, Bool.false_eq_true, if_false, owns, if_true, releaseGuest, if_neg ready]
  rfl

/-! ### The kill of a site -/

/-- Completing a commit touches PRV_COMMIT and Privet's own state alone. -/
theorem commitDone_frame (d : Dev) (g : Nat) : (commitDone d g).wq = d.wq ∧ (commitDone d g).reports = d.reports := by
  unfold commitDone
  split <;> exact ⟨rfl, rfl⟩

/-- A site is killed: its state, its queues and its negotiation are gone. -/
def siteKilled (d : Dev) (g reason : Nat) : Dev :=
  emit (setGuest (setFei (fset (fset (commitDone d g) Reg.PRV_STAT [g] Fld.PRV_STAT_state 4) Reg.PRV_STAT [g]
    Fld.PRV_STAT_kill_reason reason) (guestEnd g) {}) g {}) (.guestMsg g 4 [])

/-- The record of a killed site (Table 8.13). -/
def killReport (g : Nat) : Report := { source := 0x2B, unit := unitGuest g, stat := Reg.PRV_STAT.slot [g] }

theorem killGuest_eq (e : Env) {d : Dev} {g : Nat} (reason : Nat) (empty : guestState d g ≠ 0) (alive : guestState d g ≠ 4)
    (notCoh : guestState d g = 3 → tbit (guest d g).agreed 26 = false) :
    killGuest e d g reason = report (siteKilled d g reason) (killReport g) := by
  have plain : (guestState d g == 3 && tbit (guest d g).agreed 26) = false := by
    rw [Bool.and_eq_false_iff]
    by_cases active : guestState d g = 3
    · exact .inr (notCoh active)
    · exact .inl (beq_eq_false_iff_ne.mpr active)
  unfold killGuest
  dsimp only
  rw [if_neg (not_or.mpr ⟨empty, alive⟩), plain]
  rfl

theorem killGuest_none (e : Env) {d : Dev} {g : Nat} (reason : Nat) (dead : guestState d g = 4) : killGuest e d g reason = d :=
  if_pos (.inr dead)

/-- What a killed site shows. -/
theorem siteKilled_spec (d : Dev) (g : Nat) {reason : Nat} (small : reason < 16) : guestState (siteKilled d g reason) g = 4 ∧
    fget (siteKilled d g reason) Reg.PRV_STAT [g] Fld.PRV_STAT_kill_reason = reason ∧ (siteKilled d g reason).wq = d.wq ∧
    (siteKilled d g reason).reports = d.reports := by
  obtain ⟨wq, reports⟩ := commitDone_frame d g
  refine ⟨?_, ?_, wq, reports⟩
  · exact (guestState_fset_below (fset (commitDone d g) Reg.PRV_STAT [g] Fld.PRV_STAT_state 4) g (f := Fld.PRV_STAT_kill_reason)
      (by decide) (by decide) reason).trans (guestState_fset_state _ g (by decide))
  · exact (fget_fset_same _ _ _ _ _ (by decide) (by decide)).trans (Nat.mod_eq_of_lt small)

/-- The state after a command that killed a site of `s`. -/
def Killed (s t : State) (g reason : Nat) : Prop := guestState t.dev g = 4 ∧ t.mem = s.mem ∧
  fget t.dev Reg.PRV_STAT [g] Fld.PRV_STAT_kill_reason = reason ∧
  ∃ r, t.dev.reports = s.dev.reports ++ [r] ∧ r.source = 0x2B ∧ r.unit = 59 + g

theorem settle_siteKilled {s : State} {d : Dev} (wq : d.wq = []) (reports : d.reports = s.dev.reports) (g : Nat) {reason : Nat}
    (small : reason < 16) : Killed s (s.settle (report (siteKilled d g reason) (killReport g))) g reason := by
  obtain ⟨state, why, wq', reports'⟩ := siteKilled_spec d g small
  exact ⟨state, settle_mem_of_quiet s (wq'.trans wq), why, killReport g, congrArg (· ++ _) (reports'.trans reports), rfl, rfl⟩

/-- A kill that finds the site in negotiation. -/
theorem killGuest_negotiating (e : Env) {d : Dev} {g : Nat} (reason : Nat) (at_ : guestState d g = 2) :
    killGuest e d g reason = report (siteKilled d g reason) (killReport g) :=
  killGuest_eq e reason (by rw [at_]; decide) (by rw [at_]; decide) fun active => absurd (at_.symm.trans active) (by decide)

theorem exec_guestKill (s : State) (g : Fin 2) (reason : BitVec 4) {d : Dev}
    (kills : killGuest ⟨s.fuses, s.mem⟩ s.dev.rest g.val reason.toNat = d) : exec (.guestKill g reason) s = .next (s.settle d) := by
  change execGuestKill g reason s = _
  exact run_settle kills

theorem exec_negotiationTimeout {s : State} {g : Fin 2} (at_ : guestState s.dev g.val = 2) : exec (.negotiationTimeout g) s =
    .next (s.settle (report (siteKilled s.dev.rest g.val 2) (killReport g.val))) := by
  change execNegotiationTimeout g s = _
  exact run_settle ((if_pos at_).trans (killGuest_negotiating _ 2 at_))

/-! ### Negotiation -/

/-- The next step of negotiation. -/
def Guest.atStep (x : Guest) (n : Nat) : Guest := { x with step := n }

theorem exec_guestUcieTrained {s : State} {g : Fin 2} (at_ : guestState s.dev g.val = 2) (first : (guest s.dev g.val).step = 1) :
    exec (.guestUcieTrained g) s = .next (s.settle
      (emit (setGuest s.dev.rest g.val ((guest s.dev g.val).atStep 2)) (.guestMsg g.val 1 []))) := by
  change execGuestUcieTrained g s = _
  exact run_settle (if_pos ⟨at_, first⟩)

end Sys2Proof.Machine
end

section
/-!
SUPPORT. The profile that a guest die is agreed (R283): its fields, its registers, and the steps that send it.
-/
namespace Sys2Proof.Machine

/-! ### Fields of an agreed profile -/

theorem bits_and (x y hi lo : Nat) : bits (x &&& y) hi lo = bits x hi lo &&& bits y hi lo := by
  rw [bits, bits, bits, Nat.shiftRight_and_distrib, Nat.and_mod_two_pow]

theorem bits_lt (n hi lo : Nat) : bits n hi lo < 2 ^ (hi + 1 - lo) := Nat.mod_lt _ (Nat.two_pow_pos _)

/-- The flags of what both profiles have, without coh where a class of 0 to 4 is missing. -/
def agreedFlags (m : Nat) : Nat :=
  if bits m 25 16 % 32 = 31 then bits m 29 26 else bits m 29 26 - bits m 26 26

/-- An agreed profile, field by field (Table 8.11). -/
theorem agreeProfile_eq (offer limit : Nat) : agreeProfile offer limit =
    bits offer 7 4 * 2 ^ 4 + min (bits offer 3 0) (bits limit 3 0) + min (bits offer 15 8) (bits limit 15 8) * 2 ^ 8 +
      bits (offer &&& limit) 25 16 * 2 ^ 16 + agreedFlags (offer &&& limit) * 2 ^ 26 +
      min (bits offer 43 32) (bits limit 43 32) * 2 ^ 32 + min (bits offer 53 48) (bits limit 53 48) * 2 ^ 48 := by
  have flag : bits (bits (offer &&& limit) 29 26 * 2 ^ 26) 26 26 = bits (offer &&& limit) 26 26 := by
    simp only [bits, Nat.shiftRight_eq_div_pow]
    omega
  unfold agreeProfile agreedFlags
  simp only [← bits_and, flag, Nat.pow_zero, Nat.mul_one]
  split <;> omega

theorem agreedFlags_spec (m : Nat) : agreedFlags m < 2 ^ 4 ∧ agreedFlags m / 2 = bits m 29 27 ∧
    decide (agreedFlags m % 2 = 1) = (tbit m 26 && decide (bits (bits m 25 16) 4 0 = 31)) := by
  unfold agreedFlags
  simp only [bits, tbit, Nat.shiftRight_eq_div_pow, Nat.testBit_eq_decide_div_mod_eq, ← Bool.decide_and, decide_eq_decide]
  split <;> omega

/-- The fields of an agreed profile. -/
theorem agreeProfile_fields (o l : Nat) : let a := agreeProfile o l
    a < 2 ^ 128 ∧ bits a 7 4 = bits o 7 4 ∧ bits a 3 0 = min (bits o 3 0) (bits l 3 0) ∧
      bits a 15 8 = min (bits o 15 8) (bits l 15 8) ∧ bits a 25 16 = bits o 25 16 &&& bits l 25 16 ∧
      bits a 29 27 = bits o 29 27 &&& bits l 29 27 ∧
      tbit a 26 = (tbit o 26 && tbit l 26 && decide (bits (bits o 25 16 &&& bits l 25 16) 4 0 = 31)) ∧
      bits a 43 32 = min (bits o 43 32) (bits l 43 32) ∧ bits a 53 48 = min (bits o 53 48) (bits l 53 48) := by
  have coh : (tbit o 26 && tbit l 26) = tbit (o &&& l) 26 := (Nat.testBit_and ..).symm
  have major := bits_lt o 7 4
  have minor := (Nat.min_le_left (bits o 3 0) (bits l 3 0)).trans_lt (bits_lt o 3 0)
  have second := (Nat.min_le_left (bits o 15 8) (bits l 15 8)).trans_lt (bits_lt o 15 8)
  have tags := (Nat.min_le_left (bits o 43 32) (bits l 43 32)).trans_lt (bits_lt o 43 32)
  have last := (Nat.min_le_left (bits o 53 48) (bits l 53 48)).trans_lt (bits_lt o 53 48)
  have classes := bits_lt (o &&& l) 25 16
  have flags := agreedFlags_spec (o &&& l)
  rw [coh, ← bits_and, ← bits_and]
  dsimp only
  rw [agreeProfile_eq]
  generalize min (bits o 3 0) (bits l 3 0) = A at *
  generalize min (bits o 15 8) (bits l 15 8) = B at *
  generalize min (bits o 43 32) (bits l 43 32) = C at *
  generalize min (bits o 53 48) (bits l 53 48) = D at *
  generalize agreedFlags (o &&& l) = F at *
  generalize bits (o &&& l) 25 16 = G at *
  generalize bits o 7 4 = M at *
  obtain ⟨small, upper, cohBit⟩ := flags
  rw [← cohBit, ← upper]
  simp only [bits, tbit, Nat.shiftRight_eq_div_pow, Nat.testBit_eq_decide_div_mod_eq] at *
  refine ⟨by omega, by omega, by omega, by omega, by omega, by omega, ?_, by omega, by omega⟩
  rw [decide_eq_decide]
  omega

/-- Negotiation fails where major revisions differ or a class of 5, 6 and 7 is missing (R283). -/
theorem profileFails_iff (o l : Nat) : profileFails o l = true ↔
    bits o 7 4 ≠ bits l 7 4 ∨ bits (bits o 25 16 &&& bits l 25 16) 7 5 ≠ 7 := by
  obtain ⟨-, -, -, -, classes, -⟩ := agreeProfile_fields o l
  have middle : bits (agreeProfile o l) 23 21 = bits (bits (agreeProfile o l) 25 16) 7 5 := by
    simp only [bits, Nat.shiftRight_eq_div_pow]
    omega
  rw [profileFails, middle, classes, Bool.or_eq_true, bne_iff_ne, bne_iff_ne]

/-! ### The registers of a profile -/

theorem leNat_append (xs ys : List Byte) : leNat (xs ++ ys) = leNat xs + 256 ^ xs.length * leNat ys := by
  induction xs with
  | nil => simp [leNat]
  | cons x xs ih =>
    rw [List.cons_append, leNat, leNat, ih, List.length_cons, Nat.pow_succ]
    ring

/-- Words written at places of their own read as written. -/
theorem rdReg_foldl_wrReg (r : RegDesc) (k : Nat → List Nat) (apart : ∀ a b, a ≠ b → r.key (k a) ≠ r.key (k b)) (v : Nat → Word)
    (d : Dev) (n : Nat) : ∀ w < n, rdReg ((List.range n).foldl (fun d w => wrReg d r (k w) (v w)) d) r (k w) = v w := by
  induction n with
  | zero => exact fun w none_ => absurd none_ (Nat.not_lt_zero w)
  | succ n ih =>
    intro w below
    rw [List.range_succ, List.foldl_append, List.foldl_cons, List.foldl_nil]
    rcases Nat.lt_succ_iff_lt_or_eq.mp below with before | rfl
    · rw [rdReg_wrReg_other _ _ _ _ _ _ (apart w n (Nat.ne_of_lt before)), ih w before]
    · rw [rdReg_wrReg_same]

theorem prvWord_key_ne {r : RegDesc} {n : Nat} (dims : r.dims = [(0x10000, 2), (4, n)]) (g : Nat) (a b : Nat) (other : a ≠ b) :
    r.key [g, a] ≠ r.key [g, b] := by
  rw [RegDesc.key, RegDesc.key, dims]
  simp only [dimOffset]
  omega

/-- The profile that was stored. -/
theorem profWord_setProf (d : Dev) (g : Nat) {v : Nat} (small : v < 2 ^ 128) : profWord (setProf d g v) Reg.PRV_PROF g = v := by
  have stored : ∀ w < 4, rdReg (setProf d g v) Reg.PRV_PROF [g, w] = low32 (v / 2 ^ (32 * w)) :=
    rdReg_foldl_wrReg Reg.PRV_PROF (fun w => [g, w]) (prvWord_key_ne rfl g) _ d 4
  have word (w : Nat) : (low32 (v / 2 ^ (32 * w))).toNat = v / 2 ^ (32 * w) % 2 ^ 32 := BitVec.toNat_ofNat ..
  have four : List.range 4 = [0, 1, 2, 3] := rfl
  rw [profWord, four]
  simp only [List.flatMap_cons, List.flatMap_nil, leNat_append, leNat_leBytes, length_leBytes, stored 0 (by decide),
    stored 1 (by decide), stored 2 (by decide), stored 3 (by decide), word, leNat]
  omega

theorem guestState_setProf (d : Dev) {g : Nat} (v : Nat) : guestState (setProf d g v) g = guestState d g := by
  have apart (w : Nat) : Reg.PRV_STAT.key [g] ≠ Reg.PRV_PROF.key [g, w] := by
    simp only [RegDesc.key, Reg.PRV_STAT, Reg.PRV_PROF, dimOffset]
    omega
  unfold setProf guestState
  induction List.range 4 generalizing d with
  | nil => rfl
  | cons w ws ih => exact (ih _).trans (fget_wrReg_other _ _ _ _ _ _ _ (apart w))

/-! ### The steps of negotiation -/

/-- A guest site with an agreed record to be acknowledged. -/
def Guest.agrees (x : Guest) (a : Nat) : Guest := { x with step := 3, agreed := a }

/-- An agreed profile is stored and sent. -/
def profileSent (d : Dev) (g a : Nat) : Dev :=
  emit (setProf (setGuest d g ((guest d g).agrees a)) g a) (.guestMsg g 2 (leBytes 16 a))

theorem exec_profileAnswer {s : State} {g : Fin 2} (at_ : guestState s.dev g.val = 2) (asked : (guest s.dev g.val).step = 2)
    (offer : BitVec 128) : exec (.profileAnswer g offer) s = .next (s.settle
      (if profileFails offer.toNat (profWord s.dev Reg.PRV_LIMIT g.val) then
        report (siteKilled s.dev.rest g.val 2) (killReport g.val)
      else profileSent s.dev.rest g.val (agreeProfile offer.toNat (profWord s.dev Reg.PRV_LIMIT g.val)))) := by
  change execProfileAnswer g offer s = _
  refine run_settle ((if_pos ⟨at_, asked⟩).trans ?_)
  rw [← killGuest_negotiating (d := s.dev.rest) ⟨s.fuses, s.mem⟩ 2 at_]
  rfl

theorem profileSent_spec (d : Dev) (g : Nat) {a : Nat} (small : a < 2 ^ 128) : let e := profileSent d g a
    e.wq = d.wq ∧ e.reports = d.reports ∧ guestState e g = guestState d g ∧ profWord e Reg.PRV_PROF g = a ∧
      guest e g = (guest d g).agrees a ∧ e.out = d.out ++ [.guestMsg g 2 (leBytes 16 a)] := by
  refine ⟨rfl, rfl, ?_, ?_, ?_, rfl⟩
  · exact guestState_setProf (setGuest d g ((guest d g).agrees a)) a
  · exact profWord_setProf (setGuest d g ((guest d g).agrees a)) g small
  · exact guest_setGuest_same d g ((guest d g).agrees a)

/-- A guest site in service, its tokens full. -/
def Guest.active (x : Guest) (tokens : Nat) : Guest := { x with step := 0, tokens := tokens }

/-- An acknowledged record makes a site ACTIVE: CREDIT_INIT and DISCOVER follow. -/
def siteActive (d : Dev) (g : Nat) : Dev :=
  sendDiscover (setFei (fset (setGuest d g ((guest d g).active (64 * fget d Reg.PRV_RATE [g] Fld.PRV_RATE_burst)))
    Reg.PRV_STAT [g] Fld.PRV_STAT_state 3) (guestEnd g) { ctlq := [ctlArea 1 ((List.range 10).flatMap (fun c =>
      leBytes 2 (10 + Config.feiDepth (endKey (guestEnd g)) c % 4086)))] }) (guestEnd g)

theorem exec_profileAck {s : State} {g : Fin 2} (at_ : guestState s.dev g.val = 2) (sent : (guest s.dev g.val).step = 3)
    (echo : BitVec 128) : exec (.profileAck g echo) s = .next (s.settle
      (if echo.toNat ≠ (guest s.dev g.val).agreed then report (siteKilled s.dev.rest g.val 2) (killReport g.val)
      else siteActive s.dev.rest g.val)) := by
  change execProfileAck g echo s = _
  refine run_settle ((if_pos ⟨at_, sent⟩).trans ?_)
  rw [← killGuest_negotiating (d := s.dev.rest) ⟨s.fuses, s.mem⟩ 2 at_]
  rfl

theorem siteActive_spec (d : Dev) (g : Nat) : let e := siteActive d g
    e.wq = d.wq ∧ e.reports = d.reports ∧ guestActive e g = true ∧
      guest e g = (guest d g).active (64 * fget d Reg.PRV_RATE [g] Fld.PRV_RATE_burst) := by
  refine ⟨rfl, rfl, ?_, ?_⟩
  · have state := guestState_fset_state (setGuest d g ((guest d g).active (64 * fget d Reg.PRV_RATE [g] Fld.PRV_RATE_burst))) g
      (by decide : 3 < 8)
    exact beq_iff_eq.mpr state
  · exact guest_setGuest_same d g ((guest d g).active (64 * fget d Reg.PRV_RATE [g] Fld.PRV_RATE_burst))

end Sys2Proof.Machine
end

section
/-!
SUPPORT. The commit of a site's rules and its end (R286).
-/
namespace Sys2Proof.Machine

section
variable (g : Nat)

theorem ruleAct_key_ne_rule {w : Nat} (small : w < 128) (v : Nat) : Reg.PRV_RULE.key [g, w] ≠ Reg.PRV_RULE_ACT.key [g, v] := by
  simp only [RegDesc.key, Reg.PRV_RULE, Reg.PRV_RULE_ACT, dimOffset]
  omega

theorem ruleAct_key_ne_commit (w : Nat) : Reg.PRV_RULE_ACT.key [g, w] ≠ Reg.PRV_COMMIT.key [g] := by
  simp only [RegDesc.key, Reg.PRV_COMMIT, Reg.PRV_RULE_ACT, dimOffset]
  omega

/-- A shadow word becomes active. -/
def applyRule (d : Dev) (w : Nat) : Dev := wrReg d Reg.PRV_RULE_ACT [g, w] (rdReg d Reg.PRV_RULE [g, w])

theorem applyRules_eq (d : Dev) : applyRules d g = (List.range 128).foldl (applyRule g) d := rfl

/-- The words that have been applied are those of the shadow rules, which stay. -/
theorem foldl_applyRule_spec (d : Dev) {n : Nat} (few : n ≤ 128) :
    (∀ w < n, rdReg ((List.range n).foldl (applyRule g) d) Reg.PRV_RULE_ACT [g, w] = rdReg d Reg.PRV_RULE [g, w]) ∧
    ∀ w < 128, rdReg ((List.range n).foldl (applyRule g) d) Reg.PRV_RULE [g, w] = rdReg d Reg.PRV_RULE [g, w] := by
  induction n with
  | zero => exact ⟨fun w none_ => absurd none_ (Nat.not_lt_zero w), fun _ _ => rfl⟩
  | succ n ih =>
    obtain ⟨active, shadow⟩ := ih (Nat.le_of_succ_le few)
    rw [List.range_succ, List.foldl_append, List.foldl_cons, List.foldl_nil, applyRule, shadow n few]
    refine ⟨fun w below => ?_, fun w small => ?_⟩
    · rcases Nat.lt_succ_iff_lt_or_eq.mp below with before | rfl
      · rw [rdReg_wrReg_other _ _ _ _ _ _ (prvWord_key_ne rfl g w n (Nat.ne_of_lt before)), active w before]
      · rw [rdReg_wrReg_same]
    · rw [rdReg_wrReg_other _ _ _ _ _ _ (ruleAct_key_ne_rule g small n), shadow w small]

/-- A change of registers alone. -/
def regsOnly (d d' : Dev) : Prop := d' = { d with regs := d'.regs }

theorem regsOnly_foldl {α : Type} {f : Dev → α → Dev} (each : ∀ d z, regsOnly d (f d z)) (zs : List α) (d : Dev) :
    regsOnly d (zs.foldl f d) := by
  induction zs generalizing d with
  | nil => rfl
  | cons z zs ih =>
    have rest := ih (f d z)
    unfold regsOnly at *
    rw [List.foldl_cons, rest, each d z]

theorem applyRules_regsOnly (d : Dev) : regsOnly d (applyRules d g) := regsOnly_foldl (f := applyRule g) (fun _ _ => rfl) _ d

/-- A site remembers the requests admitted under its old rules. -/
def Guest.drains (x : Guest) (old : List HReq) : Guest := { x with old := old }

/-- The shadow rules are active, and the commit is busy. -/
def rulesCommitted (d : Dev) : Dev :=
  let d := fset (applyRules d g) Reg.PRV_COMMIT [g] Fld.PRV_COMMIT_busy 1
  setGuest d g ((guest d g).drains (guestReqs d g))

theorem rulesCommitted_spec (d : Dev) : let e := rulesCommitted g d
    e.wq = d.wq ∧ e.reports = d.reports ∧ fbit e Reg.PRV_COMMIT [g] Fld.PRV_COMMIT_busy = true ∧
      (guest e g).old = guestReqs d g ∧ ∀ w < 128, rdReg e Reg.PRV_RULE_ACT [g, w] = rdReg d Reg.PRV_RULE [g, w] := by
  have only := applyRules_regsOnly g d
  have active := (foldl_applyRule_spec g d (Nat.le_refl 128)).1
  rw [← applyRules_eq] at active
  have reqs : guestReqs (fset (applyRules d g) Reg.PRV_COMMIT [g] Fld.PRV_COMMIT_busy 1) g = guestReqs d g := by
    rw [guestReqs, fset_coh, only]
    rfl
  unfold rulesCommitted
  dsimp only
  rw [reqs]
  generalize applyRules d g = a at only active ⊢
  refine ⟨?_, ?_, ?_, ?_, fun w small => ?_⟩
  · rw [setGuest_wq, fset_wq, only]
  · rw [setGuest_reports, fset_reports, only]
  · refine beq_iff_eq.mpr ?_
    rw [fget_setGuest]
    exact fget_fset_same _ _ _ _ _ (by decide) (by decide)
  · rw [guest_setGuest_same, Guest.drains]
  · rw [rdReg_setGuest, rdReg_fset_other a _ _ _ _ _ _ (ruleAct_key_ne_commit g w), active w small]

end

theorem exec_prvCommit {p : Path} (notPort : pathPort p = none) (s : State) (g : Fin 2) : exec (.prvCommit p g) s =
    .next (s.settle (if fbit s.dev Reg.PRV_COMMIT [g.val] Fld.PRV_COMMIT_busy = true then
      regEvent s.dev.rest p (Reg.PRV_COMMIT.key [g.val]) else rulesCommitted g.val s.dev.rest)) := by
  have owns : privetPath s.dev.rest p g.val = true := by
    rw [privetPath, pathOwns, notPort]
  change execPrvCommit p g s = _
  refine run_settle ?_
  simp only [portHalted_of_no_port notPort, Bool.false_eq_true, if_false, owns, if_true]
  rfl

theorem exec_prvCommitDrained (s : State) (g : Fin 2) : exec (.prvCommitDrained g) s = .next (s.settle
    (if (guest s.dev g.val).old.any (guestReqs s.dev g.val).contains = true then s.dev.rest else commitDone s.dev.rest g.val)) := by
  change execPrvCommitDrained g s = _
  exact run_settle rfl

/-- The end of a commit: busy clears and the generation rises. -/
theorem commitDone_spec {d : Dev} {g : Nat} (busy : fbit d Reg.PRV_COMMIT [g] Fld.PRV_COMMIT_busy = true) :
    keepsRegs d (commitDone d g) [Reg.PRV_COMMIT.key [g]] ∧
      fbit (commitDone d g) Reg.PRV_COMMIT [g] Fld.PRV_COMMIT_busy = false ∧
      fget (commitDone d g) Reg.PRV_COMMIT [g] Fld.PRV_COMMIT_generation =
        (fget d Reg.PRV_COMMIT [g] Fld.PRV_COMMIT_generation + 1) % 2 ^ 16 := by
  obtain ⟨cleared, made⟩ : ∃ c, c = fset d Reg.PRV_COMMIT [g] Fld.PRV_COMMIT_busy 0 := ⟨_, rfl⟩
  have low : fget cleared Reg.PRV_COMMIT [g] Fld.PRV_COMMIT_busy = 0 := by
    rw [made]
    exact fget_fset_same _ _ _ _ _ (by decide) (by decide)
  have generation : fget cleared Reg.PRV_COMMIT [g] Fld.PRV_COMMIT_generation = fget d Reg.PRV_COMMIT [g] Fld.PRV_COMMIT_generation := by
    rw [made]
    exact fget_fset_field _ _ _ _ _ _ (by decide) (by decide) (by decide)
  have kept : keepsRegs d cleared [Reg.PRV_COMMIT.key [g]] := by
    rw [made]
    exact keepsRegs_fset _ _ _ _ _
  have done : commitDone d g = fset (setGuest cleared g ((guest cleared g).drains [])) Reg.PRV_COMMIT [g]
      Fld.PRV_COMMIT_generation ((fget cleared Reg.PRV_COMMIT [g] Fld.PRV_COMMIT_generation + 1) % 2 ^ 16) := by
    rw [made]
    exact if_pos busy
  rw [done, generation]
  generalize (guest cleared g).drains [] = v
  refine ⟨keepsRegs_trans kept (keepsRegs_fset (setGuest cleared g v) _ _ _ _), ?_, ?_⟩
  · refine beq_eq_false_iff_ne.mpr ?_
    rw [fget_fset_field _ _ _ _ _ _ (by decide) (by decide) (by decide), fget_setGuest, low]
    decide
  · exact (fget_fset_same _ _ _ _ _ (by decide) (by decide)).trans (Nat.mod_mod ..)

end Sys2Proof.Machine
end

section
/-!
SUPPORT. The messages of a guest die (R284): what is denied, what matches nothing, and what is admitted.
-/
namespace Sys2Proof.Machine

/-! ### Denials -/

/-- A field of four bits between a low part and a high part of 16 bytes. -/
theorem bits_err_field {low err high : Nat} (lowFits : low < 2 ^ 48) (errFits : err < 16) :
    bits ((low + 2 ^ 48 * (err + 16 * high)) % 2 ^ (8 * 16)) 51 48 = err := by
  have above : (low + 2 ^ 48 * (err + 16 * high)) / 2 ^ 48 = err + 16 * high := by omega
  have kept (n : Nat) : n % 2 ^ (8 * 16) / 2 ^ 48 % 2 ^ 4 = n / 2 ^ 48 % 2 ^ 4 := by omega
  rw [bits, Nat.shiftRight_eq_div_pow]
  refine (kept _).trans ?_
  rw [above]
  omega

/-- The error of a response is in its bits 51 to 48. -/
theorem mfield_guestReply (m : List Byte) {cls op err : Nat} (clsFits : cls < 16) (opFits : op < 16) (errFits : err < 16) :
    mfield (guestReply m cls op err) 51 48 = err := by
  have whole : (guestReply m cls op err).take 16 = guestReply m cls op err :=
    List.take_of_length_le (length_leBytes 16 _).le
  have a := bits_lt (leNat (m.take 16)) 27 16
  have b := bits_lt (leNat (m.take 16)) 35 28
  have c := bits_lt (leNat (m.take 16)) 43 36
  have e := bits_lt (leNat (m.take 16)) 47 44
  rw [mfield, whole, guestReply, leNat_leBytes]
  unfold mfield
  generalize bits (leNat (m.take 16)) 27 16 = A at *
  generalize bits (leNat (m.take 16)) 35 28 = B at *
  generalize bits (leNat (m.take 16)) 43 36 = C at *
  generalize bits (leNat (m.take 16)) 47 44 = E at *
  have split : cls + 2 ^ 4 * op + 2 ^ 16 * A + 2 ^ 28 * B + 2 ^ 36 * C + 2 ^ 44 * E + 2 ^ 48 * err + 2 ^ 64 * msgAddr m +
      2 ^ 120 * C = (cls + 2 ^ 4 * op + 2 ^ 16 * A + 2 ^ 28 * B + 2 ^ 36 * C + 2 ^ 44 * E) +
        2 ^ 48 * (err + 16 * (2 ^ 12 * msgAddr m + 2 ^ 68 * C)) := by ring
  rw [split]
  exact bits_err_field (by omega) errFits

@[simp] theorem fget_emit (d : Dev) (o : Out) (r : RegDesc) (ix : List Nat) (f : Fld) : fget (emit d o) r ix f = fget d r ix f := rfl

/-- The first denial is logged (R284). -/
def logDenial (d : Dev) (g : Nat) (m : List Byte) (check : Nat) : Dev :=
  fset (fset (fset (fset (fset d Reg.PRV_DENY_LOG_LO [g] Fld.PRV_DENY_LOG_LO_addr_lo (msgAddr m % 2 ^ 32))
    Reg.PRV_DENY_LOG_HI [g] Fld.PRV_DENY_LOG_HI_addr_hi (msgAddr m / 2 ^ 32))
    Reg.PRV_DENY_LOG_HI [g] Fld.PRV_DENY_LOG_HI_class (msgClass m))
    Reg.PRV_DENY_LOG_HI [g] Fld.PRV_DENY_LOG_HI_check check)
    Reg.PRV_DENY_LOG_HI [g] Fld.PRV_DENY_LOG_HI_valid 1

/-- The error response of a denial. -/
def denialReply (m : List Byte) : List Byte :=
  guestReply m (if msgClass m = 5 then 6 else 2) (if msgClass m = 5 then 1 else 6) 5

/-- A denial is answered and counted. -/
def countDenial (d : Dev) (g : Nat) (m : List Byte) : Dev :=
  fincSat (emit d (.guestMsg g 3 (denialReply m))) Reg.PRV_DENY [g] Fld.PRV_DENY_denied 1

/-- The record of a denial (Table 16.2). -/
def denialReport (d : Dev) (g : Nat) : Report :=
  { source := 0x03, unit := unitGuest g, stat := Reg.PRV_DENY.slot [g], part := partOfGuest d g }

/-- A denial is logged where none is. -/
def firstLogged (d : Dev) (g : Nat) (m : List Byte) (check : Nat) : Dev :=
  if fbit d Reg.PRV_DENY_LOG_HI [g] Fld.PRV_DENY_LOG_HI_valid then d else logDenial d g m check

theorem denyGuest_eq (d : Dev) (g : Nat) (m : List Byte) (check : Nat) : denyGuest d g m check =
    report (firstLogged (countDenial d g m) g m check) (denialReport (firstLogged (countDenial d g m) g m check) g) := rfl

theorem logDenial_regsOnly (d : Dev) (g : Nat) (m : List Byte) (check : Nat) : regsOnly d (logDenial d g m check) := rfl

section
variable (d : Dev) (g : Nat) (m : List Byte) {check : Nat}

/-- The log stands apart from the counts. -/
theorem fget_logDenial_deny (f : Fld) :
    fget (logDenial d g m check) Reg.PRV_DENY [g] f = fget d Reg.PRV_DENY [g] f := by
  have hi (d : Dev) (f h : Fld) (v : Nat) : fget (fset d Reg.PRV_DENY_LOG_HI [g] f v) Reg.PRV_DENY [g] h = fget d Reg.PRV_DENY [g] h :=
    fget_fset_base (q := Reg.PRV_DENY) (r := Reg.PRV_DENY_LOG_HI) rfl (by decide) [g] f h v
  rw [logDenial, hi, hi, hi, hi, fget_fset_base (q := Reg.PRV_DENY) (r := Reg.PRV_DENY_LOG_LO) rfl (by decide)]

theorem logDenial_spec (small : check < 8) (cls : msgClass m < 16) : let e := logDenial d g m check
    fbit e Reg.PRV_DENY_LOG_HI [g] Fld.PRV_DENY_LOG_HI_valid = true ∧
      fget e Reg.PRV_DENY_LOG_HI [g] Fld.PRV_DENY_LOG_HI_check = check ∧
      fget e Reg.PRV_DENY_LOG_HI [g] Fld.PRV_DENY_LOG_HI_class = msgClass m ∧
      fget e Reg.PRV_DENY_LOG_LO [g] Fld.PRV_DENY_LOG_LO_addr_lo = msgAddr m % 2 ^ 32 := by
  have same (d : Dev) (f : Fld) (v : Nat) (ordered : f.lo ≤ f.hi) (inWord : f.hi < 32) :=
    fget_fset_same d Reg.PRV_DENY_LOG_HI [g] f v ordered inWord
  have field (d : Dev) (f h : Fld) (v : Nat) (ordered : f.lo ≤ f.hi) (inWord : h.hi < 32) (apart : h.hi < f.lo ∨ f.hi < h.lo) :=
    fget_fset_field d Reg.PRV_DENY_LOG_HI [g] f h v ordered inWord apart
  have lo (d : Dev) (f h : Fld) (v : Nat) :
      fget (fset d Reg.PRV_DENY_LOG_HI [g] f v) Reg.PRV_DENY_LOG_LO [g] h = fget d Reg.PRV_DENY_LOG_LO [g] h :=
    fget_fset_base (q := Reg.PRV_DENY_LOG_LO) (r := Reg.PRV_DENY_LOG_HI) rfl (by decide) [g] f h v
  unfold logDenial
  refine ⟨beq_iff_eq.mpr ((same _ _ _ (by decide) (by decide)).trans rfl), ?_, ?_, ?_⟩
  · rw [field _ _ _ _ (by decide) (by decide) (by decide), same _ _ _ (by decide) (by decide)]
    exact Nat.mod_eq_of_lt small
  · rw [field _ _ _ _ (by decide) (by decide) (by decide), field _ _ _ _ (by decide) (by decide) (by decide),
      same _ _ _ (by decide) (by decide)]
    exact Nat.mod_eq_of_lt cls
  · rw [lo, lo, lo, lo, fget_fset_same _ _ _ _ _ (by decide) (by decide)]
    exact Nat.mod_mod ..

/-- What is counted does not touch the log. -/
theorem fbit_countDenial_valid : fbit (countDenial d g m) Reg.PRV_DENY_LOG_HI [g] Fld.PRV_DENY_LOG_HI_valid =
    fbit d Reg.PRV_DENY_LOG_HI [g] Fld.PRV_DENY_LOG_HI_valid := by
  rw [countDenial, fincSat, fbit, fget_fset_base (q := Reg.PRV_DENY_LOG_HI) (r := Reg.PRV_DENY) rfl (by decide), fget_emit]
  rfl

theorem fget_countDenial_denied : fget (countDenial d g m) Reg.PRV_DENY [g] Fld.PRV_DENY_denied =
    min (fget d Reg.PRV_DENY [g] Fld.PRV_DENY_denied + 1) 0xFFFF := by
  rw [countDenial, fget_fincSat_same _ _ _ _ _ (by decide) (by decide), fget_emit]
  rfl

theorem countDenial_frame : let c := countDenial d g m
    c.wq = d.wq ∧ c.fei = d.fei ∧ c.reports = d.reports ∧ c.out = d.out ++ [.guestMsg g 3 (denialReply m)] := ⟨rfl, rfl, rfl, rfl⟩

theorem firstLogged_regsOnly (check : Nat) : regsOnly d (firstLogged d g m check) := by
  unfold firstLogged
  split
  · rfl
  · exact logDenial_regsOnly d g m check

theorem fget_firstLogged_deny (f : Fld) : fget (firstLogged d g m check) Reg.PRV_DENY [g] f = fget d Reg.PRV_DENY [g] f := by
  unfold firstLogged
  split
  · rfl
  · exact fget_logDenial_deny d g m f

/-- A denial is answered, counted, logged first and recorded (R284). -/
theorem denyGuest_spec (small : check < 8) (cls : msgClass m < 16) {e : Dev} (denied : denyGuest d g m check = e) :
    e.wq = d.wq ∧ e.fei = d.fei ∧
      fget e Reg.PRV_DENY [g] Fld.PRV_DENY_denied = min (fget d Reg.PRV_DENY [g] Fld.PRV_DENY_denied + 1) 0xFFFF ∧
      (∃ r, e.reports = d.reports ++ [r] ∧ r.source = 0x03 ∧ r.unit = 59 + g) ∧ e.out = d.out ++ [.guestMsg g 3 (denialReply m)] ∧
      (fbit d Reg.PRV_DENY_LOG_HI [g] Fld.PRV_DENY_LOG_HI_valid = false →
        fbit e Reg.PRV_DENY_LOG_HI [g] Fld.PRV_DENY_LOG_HI_valid = true ∧
          fget e Reg.PRV_DENY_LOG_HI [g] Fld.PRV_DENY_LOG_HI_check = check ∧
          fget e Reg.PRV_DENY_LOG_HI [g] Fld.PRV_DENY_LOG_HI_class = msgClass m ∧
          fget e Reg.PRV_DENY_LOG_LO [g] Fld.PRV_DENY_LOG_LO_addr_lo = msgAddr m % 2 ^ 32) := by
  obtain ⟨wq, fei_, reports, out⟩ := countDenial_frame d g m
  have only := firstLogged_regsOnly (countDenial d g m) g m check
  have counted := (fget_firstLogged_deny (check := check) (countDenial d g m) g m Fld.PRV_DENY_denied).trans
    (fget_countDenial_denied d g m)
  have log : fbit d Reg.PRV_DENY_LOG_HI [g] Fld.PRV_DENY_LOG_HI_valid = false → _ := fun first => by
    have written := logDenial_spec (countDenial d g m) g m small cls
    rwa [← show firstLogged (countDenial d g m) g m check = logDenial (countDenial d g m) g m check from
      if_neg (by rw [fbit_countDenial_valid, first]; decide)] at written
  rw [denyGuest_eq] at denied
  generalize firstLogged (countDenial d g m) g m check = l at denied only counted log
  subst denied
  refine ⟨?_, ?_, counted, ⟨denialReport l g, ?_, rfl, rfl⟩, ?_, log⟩
  · rw [report_wq, only, wq]
  · rw [report_fei, only, fei_]
  · rw [report, only, reports]
  · rw [report_out, only, out]

end

end Sys2Proof.Machine
end

section
/-!
SUPPORT. What becomes of a message of a guest die (R284).
-/
namespace Sys2Proof.Machine

/-- The first message of an end has been taken. -/
def Fei.read (f : Fei) (rest : List (List Byte)) : Fei := { f with inbox := rest }

/-- A guest site whose first message is taken. -/
def messageTaken (d : Dev) (g : Fin 2) (rest : List (List Byte)) : Dev :=
  setFei d (.guest g) ((fei d (.guest g)).read rest)

section
variable {s : State} {g : Fin 2} {m : List Byte} {rest : List (List Byte)}
  (inbox : (fei s.dev (.guest g)).inbox = m :: rest) (active : guestActive s.dev g.val = true)
include inbox active

/-- A request beyond the agreed tags waits, and any other message is judged. -/
theorem exec_guestMessage : exec (.guestMessage g) s = .next (s.settle
    (if (msgClass m = 0 ∨ msgClass m = 5) ∧ tagsFull s.dev g.val = true then s.dev.rest
      else judge ⟨s.fuses, s.mem⟩ (messageTaken s.dev.rest g rest) g.val m)) := by
  have active' : guestActive s.dev.rest g.val = true := active
  change execGuestMessage g s = _
  refine run_settle ?_
  rw [guestEnd_val]
  dsimp only
  rw [fei_rest, inbox]
  dsimp only
  rw [active', if_neg (by decide)]
  rfl

end

theorem messageTaken_hiddenOnly (d : Dev) (g : Fin 2) (rest : List (List Byte)) : hiddenOnly d (messageTaken d g rest) := rfl

theorem fei_messageTaken (d : Dev) (g : Fin 2) (rest : List (List Byte)) :
    (fei (messageTaken d g rest) (.guest g)).inbox = rest := by
  rw [messageTaken, fei_setFei_same, Fei.read]

/-- A message that no guest die may send (R284 checks 1 and 2). -/
def Faulty (m : List Byte) (g : Nat) : Prop := msgBad m = true ∨ mfield m 43 36 ≠ 59 + g ∨ (msgClass m = 9 ∧ msgOp m ≠ 2)

section
variable {e : Env} {d : Dev} {g : Nat} {m : List Byte}

theorem judge_faulty (faulty : Faulty m g) : judge e d g m = killGuest e d g 3 := by
  unfold judge
  exact if_pos faulty

section
variable (fine : ¬ Faulty m g)
include fine

/-- A response that matches nothing outstanding (R284 check 3). -/
theorem judge_response (cls : msgClass m = 6 ∨ msgClass m = 7) : judge e d g m = unmatched d g := by
  unfold judge
  dsimp only
  exact (if_neg fine).trans ((if_neg (by omega)).trans (if_pos (by omega)))

/-- A class that the agreed profile or PRV_CTL does not allow (R284 check 5). -/
theorem judge_off (cls : msgClass m = 0 ∨ msgClass m = 4 ∨ msgClass m = 5 ∨ msgClass m = 8)
    (off : tbit (guest d g).agreed (16 + msgClass m) = false ∨
      tbit (fget d Reg.PRV_CTL [g] Fld.PRV_CTL_class_allow) (msgClass m) = false) : judge e d g m = denyGuest d g m 3 := by
  unfold judge
  dsimp only
  refine (if_neg fine).trans ((if_neg (by omega)).trans ((if_neg (by omega)).trans (if_pos ?_)))
  simpa using off

/-- A request of an allowed class goes to the rules (R284 check 6). -/
theorem judge_request (cls : msgClass m = 0 ∨ msgClass m = 5)
    (on : ¬ (tbit (guest d g).agreed (16 + msgClass m) = false ∨
      tbit (fget d Reg.PRV_CTL [g] Fld.PRV_CTL_class_allow) (msgClass m) = false)) : judge e d g m =
      if privetAdmits d g (guestTouch m).1 (guestTouch m).2.1 (guestTouch m).2.2.1 (guestTouch m).2.2.2 = true
        then guestRequest e d g m else denyGuest d g m 5 := by
  unfold judge
  dsimp only
  refine (if_neg fine).trans ((if_neg (by omega)).trans ((if_neg (by omega)).trans ((if_neg ?_).trans
    ((if_neg (by omega)).trans (if_neg (by omega))))))
  simpa using on

end

/-- What a read touches (R285). -/
theorem guestTouch_read (cls : msgClass m = 5) (op : msgOp m = 0) : guestTouch m = (msgAddr m, 2 ^ mfield m 55 52, 0, false) := by
  simp only [guestTouch, cls, op]

theorem refuse_noTarget (d : Dev) (src : Source) (a : Nat) : refuse d src .noTarget a = report (emit d (.memErr src .noTarget))
    { source := 0x02, unit := srcUnit src, detail := low32 (a / 8), part := srcPart (emit d (.memErr src .noTarget)) src } := rfl

/-- A read of an address without a target is refused with NOTARGET (R223). -/
theorem guestRequest_noTarget (g : Fin 2) (cls : msgClass m = 5) (op : msgOp m = 0)
    (none_ : targetOf d (msgAddr m) (2 ^ mfield m 55 52) = .none_) : ∃ r, guestRequest e d g.val m =
      report (emit d (.memErr (.guest g) .noTarget)) r := by
  have source : Fin.ofNat 2 g.val = g := Fin.ofNat_val_eq_self g
  have refused : reachErr d ⟨.guest g, srcPart d (.guest g)⟩ (msgAddr m) (2 ^ mfield m 55 52) = some .noTarget := by
    unfold reachErr
    rw [none_]
  refine ⟨_, Eq.trans ?_ (refuse_noTarget d (.guest g) (msgAddr m))⟩
  simp only [guestRequest, cls, op, source, plainRequest, refused]

end

theorem unmatched_spec (d : Dev) (g : Nat) : keepsRegs d (unmatched d g) [Reg.PRV_DENY.key [g]] ∧
    fget (unmatched d g) Reg.PRV_DENY [g] Fld.PRV_DENY_unmatched =
      min (fget d Reg.PRV_DENY [g] Fld.PRV_DENY_unmatched + 1) 0xFFFF :=
  ⟨keepsRegs_fset _ _ _ _ _, fget_fincSat_same _ _ _ _ _ (by decide) (by decide)⟩

end Sys2Proof.Machine
end

section
/-!
SUPPORT. The token bucket of a guest site (R287).
-/
namespace Sys2Proof.Machine

theorem getD_setAt_same {l : List Nat} {c : Nat} (inList : c < l.length) (v : Nat) : (setAt l c v).getD c 0 = v := by
  induction l generalizing c with
  | nil => cases inList
  | cons a l ih =>
    cases c with
    | zero => rfl
    | succ c => exact ih (Nat.lt_of_succ_lt_succ inList)

theorem getD_setAt_other (l : List Nat) {c i : Nat} (other : i ≠ c) (v : Nat) : (setAt l c v).getD i 0 = l.getD i 0 := by
  induction l generalizing c i with
  | nil => rfl
  | cons a l ih =>
    cases c with
    | zero => cases i with
      | zero => exact absurd rfl other
      | succ i => rfl
    | succ c => cases i with
      | zero => rfl
      | succ i => exact ih (fun same => other (congrArg _ same))

theorem length_setAt (l : List Nat) (c v : Nat) : (setAt l c v).length = l.length := by
  induction l generalizing c with
  | nil => rfl
  | cons a l ih => cases c with
    | zero => rfl
    | succ c => exact congrArg (· + 1) (ih c)

theorem sum_setAt {l : List Nat} {c : Nat} (inList : c < l.length) (v : Nat) : (setAt l c v).sum + l.getD c 0 = l.sum + v := by
  induction l generalizing c with
  | nil => cases inList
  | cons a l ih =>
    cases c with
    | zero =>
      change (v :: l).sum + a = _
      simp only [List.sum_cons]
      omega
    | succ c =>
      have rest := ih (Nat.lt_of_succ_lt_succ inList)
      change (a :: setAt l c v).sum + l.getD c 0 = _
      simp only [List.sum_cons]
      omega

/-- The credits of a class are returned. -/
def Fei.returned (f : Fei) (c k : Nat) : Fei :=
  { f with heldBack := setAt f.heldBack c (f.heldBack.getD c 0 - k), owed := setAt f.owed c (f.owed.getD c 0 + k) }

theorem returnCredits_succ (n c : Nat) (f : Fei) (tokens : Nat) : returnCredits (n + 1) c f tokens =
    let k := min (f.heldBack.getD c 0) (tokens / 16)
    returnCredits n (c + 1) (f.returned c k) (tokens - 16 * k) := rfl

/-- What returning credits does to the slots of an end and to its tokens. -/
structure Returns (f f' : Fei) (tokens tokens' : Nat) : Prop where
  kept : ∀ i, f'.owed.getD i 0 + f'.heldBack.getD i 0 = f.owed.getD i 0 + f.heldBack.getD i 0 ∧
    f'.heldBack.getD i 0 ≤ f.heldBack.getD i 0
  paid : tokens' + 16 * f.heldBack.sum = tokens + 16 * f'.heldBack.sum
  spent : tokens' ≤ tokens
  length : f'.heldBack.length = f.heldBack.length ∧ f'.owed.length = f.owed.length

theorem Returns.trans {a b c : Fei} {t u v : Nat} (h : Returns a b t u) (k : Returns b c u v) : Returns a c t v := by
  refine ⟨fun i => ⟨(k.kept i).1.trans (h.kept i).1, (k.kept i).2.trans (h.kept i).2⟩, ?_, k.spent.trans h.spent,
    k.length.1.trans h.length.1, k.length.2.trans h.length.2⟩
  have first := h.paid
  have second := k.paid
  omega

/-- One class. -/
theorem returned_returns {f : Fei} {c tokens k : Nat} (held : c < f.heldBack.length) (owed : c < f.owed.length)
    (few : k ≤ f.heldBack.getD c 0) (paid : 16 * k ≤ tokens) : Returns f (f.returned c k) tokens (tokens - 16 * k) := by
  have sum := sum_setAt held (f.heldBack.getD c 0 - k)
  refine ⟨fun i => ?_, ?_, Nat.sub_le .., length_setAt .., length_setAt ..⟩
  · simp only [Fei.returned]
    by_cases at_ : i = c
    · subst at_
      rw [getD_setAt_same held, getD_setAt_same owed]
      omega
    · rw [getD_setAt_other _ at_, getD_setAt_other _ at_]
      exact ⟨rfl, Nat.le_refl _⟩
  · simp only [Fei.returned]
    omega

/-- Credits are returned class by class; with tokens for a slot left, none is held back. -/
theorem returnCredits_spec (n : Nat) : ∀ (c : Nat) (f : Fei) (tokens : Nat), c + n = f.heldBack.length → c + n = f.owed.length →
    let r := returnCredits n c f tokens
    Returns f r.1 tokens r.2 ∧ (∀ i < c, r.1.heldBack.getD i 0 = f.heldBack.getD i 0) ∧
      (16 ≤ r.2 → ∀ i, c ≤ i → r.1.heldBack.getD i 0 = 0) := by
  induction n with
  | zero =>
    intro c f tokens held owed
    exact ⟨⟨fun i => ⟨rfl, Nat.le_refl _⟩, rfl, Nat.le_refl _, rfl, rfl⟩, fun i _ => rfl,
      fun _ i after => List.getD_eq_default _ _ (show f.heldBack.length ≤ i by omega)⟩
  | succ n ih =>
    intro c f tokens held owed
    rw [returnCredits_succ]
    dsimp only
    have step : Returns f (f.returned c (min (f.heldBack.getD c 0) (tokens / 16))) tokens
        (tokens - 16 * min (f.heldBack.getD c 0) (tokens / 16)) :=
      returned_returns (by omega) (by omega) (Nat.min_le_left ..) (by omega)
    obtain ⟨rest, before, none_⟩ := ih (c + 1) (f.returned c (min (f.heldBack.getD c 0) (tokens / 16)))
      (tokens - 16 * min (f.heldBack.getD c 0) (tokens / 16)) (by rw [step.length.1]; omega) (by rw [step.length.2]; omega)
    refine ⟨step.trans rest, fun i below => ?_, fun left i from_ => ?_⟩
    · rw [before i (Nat.lt_succ_of_lt below)]
      simp only [Fei.returned]
      exact getD_setAt_other _ (Nat.ne_of_lt below) _
    · rcases Nat.eq_or_lt_of_le from_ with rfl | after
      · have spent := rest.spent
        rw [before c (Nat.lt_succ_self c)]
        simp only [Fei.returned]
        rw [getD_setAt_same (by omega)]
        omega
      · exact none_ left i after

/-- With a token for every slot held back, none is. -/
theorem returnCredits_all {f : Fei} (held : f.heldBack.length = 10) (owed : f.owed.length = 10) (i : Nat) :
    (returnCredits 10 0 f (16 * f.heldBack.sum)).1.heldBack.getD i 0 = 0 := by
  obtain ⟨returns, -, none_⟩ := returnCredits_spec 10 0 f (16 * f.heldBack.sum) (by omega) (by omega)
  have paid := returns.paid
  by_cases left : 16 ≤ (returnCredits 10 0 f (16 * f.heldBack.sum)).2
  · exact none_ left i (Nat.zero_le i)
  · have zero : (returnCredits 10 0 f (16 * f.heldBack.sum)).1.heldBack.sum = 0 := by omega
    rw [List.getD_eq_getElem?_getD]
    rcases h : (returnCredits 10 0 f (16 * f.heldBack.sum)).1.heldBack[i]? with _ | v
    · rfl
    · exact List.sum_eq_zero_iff.mp zero v (List.mem_of_getElem? h)

/-- A site has so many tokens. -/
def Guest.withTokens (x : Guest) (n : Nat) : Guest := { x with tokens := n }

/-- Credits are returned for the tokens of one microsecond more, at most the burst. -/
def refilled (d : Dev) (g : Fin 2) (rate burst : Nat) : Dev :=
  let r := returnCredits 10 0 (fei d (.guest g)) (min burst ((guest d g.val).tokens + 64 * rate))
  setGuest (setFei d (.guest g) r.1) g.val ((guest d g.val).withTokens r.2)

/-- One microsecond's refill of an ACTIVE site; a rate of 0 returns every credit. -/
theorem exec_prvTokenRefill {s : State} {g : Fin 2} (active : guestActive s.dev g.val = true) :
    exec (.prvTokenRefill g) s = .next (s.settle
      (if fget s.dev Reg.PRV_RATE [g.val] Fld.PRV_RATE_rate = 0 then
        setFei s.dev.rest (.guest g) (returnCredits 10 0 (fei s.dev (.guest g)) (16 * (fei s.dev (.guest g)).heldBack.sum)).1
      else refilled s.dev.rest g (fget s.dev Reg.PRV_RATE [g.val] Fld.PRV_RATE_rate)
        (64 * fget s.dev Reg.PRV_RATE [g.val] Fld.PRV_RATE_burst))) := by
  have active' : guestActive s.dev.rest g.val = true := active
  change execPrvTokenRefill g s = _
  refine run_settle ?_
  rw [active', if_neg (by decide), guestEnd_val, List.sum_eq_foldl]
  rfl

theorem fei_refilled (d : Dev) (g : Fin 2) (rate burst : Nat) : fei (refilled d g rate burst) (.guest g) =
    (returnCredits 10 0 (fei d (.guest g)) (min burst ((guest d g.val).tokens + 64 * rate))).1 := fei_setFei_same ..

theorem tokens_refilled (d : Dev) (g : Fin 2) (rate burst : Nat) : (guest (refilled d g rate burst) g.val).tokens =
    (returnCredits 10 0 (fei d (.guest g)) (min burst ((guest d g.val).tokens + 64 * rate))).2 := by
  rw [refilled, guest_setGuest_same, Guest.withTokens]

end Sys2Proof.Machine
end

section
/-!
CLAIM. The release, negotiation, messages, rules, tokens and kill of a guest site (R281-R288).
-/
namespace Sys2Proof.Machine

/-- What a denied message leaves of a state (R284). -/
theorem settle_denied {s : State} {g : Fin 2} {m : List Byte} {rest : List (List Byte)} {check : Nat} (small : check < 8)
    (cls : msgClass m < 16) : let t := s.settle (denyGuest (messageTaken s.dev.rest g rest) g.val m check)
    t.mem = s.mem ∧ (fei t.dev (.guest g)).inbox = rest ∧
      fget t.dev Reg.PRV_DENY [g.val] Fld.PRV_DENY_denied = min (fget s.dev Reg.PRV_DENY [g.val] Fld.PRV_DENY_denied + 1) 0xFFFF ∧
      (∃ r, t.dev.reports = s.dev.reports ++ [r] ∧ r.source = 0x03 ∧ r.unit = 59 + g.val) ∧
      (∃ reply, t.dev.out = s.dev.out ++ [.guestMsg g.val 3 reply] ∧ mfield reply 51 48 = 5) ∧
      (fbit s.dev Reg.PRV_DENY_LOG_HI [g.val] Fld.PRV_DENY_LOG_HI_valid = false →
        fbit t.dev Reg.PRV_DENY_LOG_HI [g.val] Fld.PRV_DENY_LOG_HI_valid = true ∧
        fget t.dev Reg.PRV_DENY_LOG_HI [g.val] Fld.PRV_DENY_LOG_HI_check = check ∧
        fget t.dev Reg.PRV_DENY_LOG_HI [g.val] Fld.PRV_DENY_LOG_HI_class = msgClass m ∧
        fget t.dev Reg.PRV_DENY_LOG_LO [g.val] Fld.PRV_DENY_LOG_LO_addr_lo = msgAddr m % 2 ^ 32) := by
  have inbox := fei_messageTaken s.dev.rest g rest
  generalize denied : denyGuest (messageTaken s.dev.rest g rest) g.val m check = e
  obtain ⟨wq, hidden, counted, recorded, out, log⟩ := denyGuest_spec _ _ m small cls denied
  refine ⟨settle_mem_of_quiet s wq, ?_, counted, recorded, ⟨denialReply m, out, ?_⟩, log⟩
  · rw [fei_settle, fei, hidden]
    exact inbox
  · refine mfield_guestReply m ?_ ?_ (by decide) <;> split <;> decide

/-- What an agreed profile, stored and sent, leaves of a state. -/
theorem settle_profileSent (s : State) (g o l : Nat) : let t := s.settle (profileSent s.dev.rest g (agreeProfile o l))
    t.mem = s.mem ∧ guestState t.dev g = guestState s.dev g ∧ t.dev.reports = s.dev.reports ∧
      profWord t.dev Reg.PRV_PROF g = agreeProfile o l ∧ guest t.dev g = (guest s.dev g).agrees (agreeProfile o l) ∧
      t.dev.out = s.dev.out ++ [.guestMsg g 2 (leBytes 16 (agreeProfile o l))] := by
  obtain ⟨wq, reports, state, stored, agreed, out⟩ := profileSent_spec s.dev.rest g (agreeProfile_fields o l).1
  exact ⟨settle_mem_of_quiet s wq, (guestState_settle ..).trans state, (reports_settle ..).trans reports,
    (profWord_settle ..).trans stored, (guest_settle ..).trans agreed, (out_settle ..).trans out⟩

/-- Settles O38: each command is a row of the lemmas on release, negotiation, kill, commit, messages and tokens. -/
theorem privetGuardsGuestDies : Obligations.PrivetGuardsGuestDies := by
  unfold Obligations.PrivetGuardsGuestDies
  intro s g x killed same
  have killed_of {d : Dev} (wq : d.wq = []) (reports : d.reports = s.dev.reports) {reason : Nat} (small : reason < 16) :
      killed (s.settle (report (siteKilled d g.val reason) (killReport g.val))) reason := settle_siteKilled wq reports g.val small
  refine ⟨fun p notPort held mounted => ?_, fun at_ => ⟨?_, fun first => ?_, fun asked offer => ?_, fun sent echo => ?_⟩,
    fun reason empty alive notCoh => ?_, fun dead reason => ?_, fun p notPort => ⟨fun free => ?_, fun busy => ?_⟩,
    fun busy => ⟨fun drained => ?_, fun waits => ?_⟩, fun m rest inbox active => ?_, ?_⟩
  · have run := exec_prvRelease notPort held mounted
    rcases owner : partOfGuest s.dev g.val with _ | q
    · obtain ⟨wq, reports, state, why⟩ := withoutOwner_spec s.dev.rest g.val
      rw [owner] at run
      dsimp only at run
      exact ⟨_, run, settle_mem_of_quiet s wq, (reports_settle ..).trans reports,
        fun _ => ⟨(guestState_settle ..).trans (state.trans held), (fget_settle ..).trans why⟩, fun q other => nomatch other⟩
    · obtain ⟨wq, reports, state, part, step⟩ := negotiating_spec s.dev.rest g.val (partOfGuest_lt owner)
      rw [owner] at run
      dsimp only at run
      refine ⟨_, run, settle_mem_of_quiet s wq, (reports_settle ..).trans reports, fun none_ => (nomatch none_),
        fun q' same => ?_⟩
      rw [← Option.some.inj same, guestState_settle, fget_settle, guest_settle]
      exact ⟨state, part, step⟩
  · exact ⟨_, exec_negotiationTimeout at_, killed_of (d := s.dev.rest) rfl rfl (by decide)⟩
  · refine ⟨_, exec_guestUcieTrained at_ first, rfl, rfl, ?_, rfl⟩
    exact guest_setGuest_same s.dev.rest g.val (x.atStep 2)
  · intro o l classes fails
    have run := exec_profileAnswer at_ asked offer
    by_cases bad : fails
    · rw [if_pos ((profileFails_iff o l).mpr bad)] at run
      exact ⟨_, run, fun _ => killed_of (d := s.dev.rest) rfl rfl (by decide), fun good => absurd bad good⟩
    · rw [if_neg (mt (profileFails_iff o l).mp bad)] at run
      obtain ⟨mem, state, reports, stored, agreed, out⟩ := settle_profileSent s g.val o l
      refine ⟨_, run, fun bad' => absurd bad' bad, fun _ => ⟨state.trans at_, reports, ?_⟩⟩
      intro a
      rw [show a = agreeProfile o l from stored]
      exact ⟨agreed, out, (agreeProfile_fields o l).2⟩
  · have run := exec_profileAck at_ sent echo
    by_cases same : echo.toNat = (guest s.dev g.val).agreed
    · rw [if_neg (not_not.mpr same)] at run
      obtain ⟨wq, reports, active, agreed⟩ := siteActive_spec s.dev.rest g.val
      exact ⟨_, run, fun other => absurd same other, fun _ => ⟨active, settle_mem_of_quiet s wq,
        (reports_settle ..).trans reports, (guest_settle ..).trans agreed⟩⟩
    · rw [if_pos same] at run
      exact ⟨_, run, fun _ => killed_of (d := s.dev.rest) rfl rfl (by decide), fun other => absurd other same⟩
  · refine ⟨_, exec_guestKill s g reason (killGuest_eq _ _ empty alive notCoh), killed_of (d := s.dev.rest) rfl rfl reason.isLt⟩
  · exact exec_guestKill s g reason (killGuest_none _ _ dead)
  · have run := exec_prvCommit notPort s g
    rw [if_neg (by rw [free]; decide)] at run
    obtain ⟨wq, reports, busy, old, words⟩ := rulesCommitted_spec g.val s.dev.rest
    refine ⟨_, run, settle_mem_of_quiet s wq, (reports_settle ..).trans reports, (fbit_settle ..).trans busy,
      (congrArg Guest.old (guest_settle ..)).trans old, fun w small => (rdReg_settle ..).trans (words w small)⟩
  · have run := exec_prvCommit notPort s g
    rw [if_pos busy] at run
    exact ⟨_, run, rfl, rfl, List.length_append⟩
  · have run := exec_prvCommitDrained s g
    rw [if_neg (by simpa using drained)] at run
    obtain ⟨kept, clear, generation⟩ := commitDone_spec (d := s.dev.rest) busy
    exact ⟨_, run, settle_mem_of_quiet s (commitDone_frame s.dev.rest g.val).1, keepsRegs_settle s _ kept,
      (fbit_settle ..).trans clear, (fget_settle ..).trans generation⟩
  · have run := exec_prvCommitDrained s g
    rwa [if_pos (by simpa using waits)] at run
  · intro cls bad waits off touch denied
    have run := exec_guestMessage inbox active
    have only := messageTaken_hiddenOnly s.dev.rest g rest
    have atSite : guestState s.dev g.val = 3 := beq_iff_eq.mp active
    refine ⟨fun wait => ?_, fun now faulty notCoh => ?_, fun fine response => ?_, fun now fine four isOff => ?_,
      fun now fine request isOn none_ => ?_, fun now fine plain read isOn admitted none_ => ?_⟩
    · rwa [if_pos wait] at run
    · rw [if_neg now, judge_faulty faulty, killGuest_eq _ 3 (d := messageTaken s.dev.rest g rest) (g := g.val)
        (atSite ▸ by decide) (atSite ▸ by decide) (fun _ => notCoh)] at run
      exact ⟨_, run, killed_of only.wq only.reports (by decide)⟩
    · rw [if_neg (fun wait => absurd wait.1 (by omega)), judge_response fine response] at run
      obtain ⟨kept, counted⟩ := unmatched_spec (messageTaken s.dev.rest g rest) g.val
      exact ⟨_, run, rfl, rfl, keepsRegs_settle s _ kept, fei_messageTaken s.dev.rest g rest, (fget_settle ..).trans counted⟩
    · rw [if_neg now, judge_off (d := messageTaken s.dev.rest g rest) fine four isOff] at run
      exact ⟨_, run, settle_denied (by decide) (by omega)⟩
    · rw [if_neg now, judge_request (d := messageTaken s.dev.rest g rest) fine request isOn, if_neg] at run
      · exact ⟨_, run, settle_denied (by decide) (by omega)⟩
      · exact fun admits => absurd (none_.symm.trans admits) (by decide)
    · have reads := guestTouch_read plain read
      obtain ⟨r, refused⟩ := guestRequest_noTarget (e := ⟨s.fuses, s.mem⟩) (d := messageTaken s.dev.rest g rest) g plain read none_
      rw [if_neg now, judge_request (d := messageTaken s.dev.rest g rest) fine (.inr plain) isOn, if_pos, refused] at run
      · exact ⟨_, run, rfl, rfl, fei_messageTaken s.dev.rest g rest, rfl⟩
      · rw [reads]
        exact admitted
  · intro f rate burst active held owed
    have run := exec_prvTokenRefill active
    by_cases zero : rate = 0
    · rw [if_pos zero] at run
      obtain ⟨returns, -, -⟩ := returnCredits_spec 10 0 f (16 * f.heldBack.sum) (by omega) (by omega)
      refine ⟨_, run, rfl, rfl, ?_⟩
      rw [fei_settle, fei_setFei_same]
      exact ⟨fun c _ => returns.kept c, fun _ c _ => returnCredits_all held owed c, fun some_ => absurd zero some_⟩
    · rw [if_neg zero] at run
      obtain ⟨returns, -, none_⟩ := returnCredits_spec 10 0 f (min burst (x.tokens + 64 * rate)) (by omega) (by omega)
      refine ⟨_, run, rfl, rfl, ?_⟩
      rw [fei_settle, fei_refilled, guest_settle, tokens_refilled]
      refine ⟨fun c _ => returns.kept c, fun none_ => absurd none_ zero, fun _ => ⟨?_, fun left c _ => none_ left c (Nat.zero_le c)⟩⟩
      rw [← List.sum_eq_foldl, ← List.sum_eq_foldl]
      exact returns.paid

end Sys2Proof.Machine
end
